-- ==== Sys2Proof/Word.lean ====
section
/-!
DEFINITION. Words of the model: bytes, 64-byte entries, tile payloads, Korif frames, and sparse tables.
The plainest operations on them only; everything a test could show wrong lives under Machine/.
-/

namespace Sys2Proof

/-- A byte. -/
abbrev Byte := BitVec 8

/-- A 64-byte submission entry, MAIL unit or record pair: byte `k` of the structure is bits `8k+7:8k` (R3). -/
abbrev Entry := BitVec 512

/-- The 4,096 payload bytes of a tile (R140): byte `k` is bits `8k+7:8k` (R3). -/
abbrev Payload := BitVec 32768

/-- The 512 bytes of a side entry or side record (Table 4-3). -/
abbrev SideRec := BitVec 4096

/-- A table with numeric keys, held as a list of (key, value) pairs: keys strictly rising, and no pair whose value
is the table's default (the default is named where the table is read). -/
abbrev SMap (β : Type) := List (Nat × β)

/-- A Korif frame: the 32-byte header of Table 12-2 as one word, and the payload bytes as a number (byte `k` is
bits `8k+7:8k`); the header's own length field says how many bytes the payload has (R269). -/
structure Frame where
  hdr  : BitVec 256
  data : Nat
  deriving DecidableEq, Repr

/-- The way by which an entry reached its cell (R171, R340, R347): a slot of the sender's submission ring, a MAIL
frame, or sixteen words of a mailbox channel. -/
inductive Path where
  | ring (slot : Nat)
  | mail
  | box (chan : Nat)
  deriving DecidableEq, Repr

/-- Who sent an entry and by which way: the master identity of Table 14-10 and the path (R343). -/
structure Source where
  who  : BitVec 8
  path : Path
  deriving DecidableEq, Repr

/-- What a residue, recount or two-lane check of an operation in a core came to (R313): no mismatch, a mismatch
whose repeat passed, a mismatch whose repeat failed. -/
inductive Repeat where
  | clean | passed | failed
  deriving DecidableEq, Repr

/-- Where an uncorrectable or corrected memory error lies (R165, R166): in the fast tier, in a slow-tier home, in a
shadow, or in the unit that holds the tag. -/
inductive EccSite where
  | fast | home | shadow | tagUnit
  deriving DecidableEq, Repr

/-- One ECC finding at a tile address: its site and whether it was corrected (R165) or not (R166). -/
structure EccHit where
  addr      : Nat
  site      : EccSite
  corrected : Bool
  deriving DecidableEq, Repr

/-- What befalls a tile of an apply pass (R219, R239): its first computation fails verification (with whether the
recompute on another vector core fails too, R240), or it is found poisoned. -/
inductive PassFault where
  | recompute (layer seq vcore : Nat) (again : Bool)
  | poisoned (layer seq : Nat)
  deriving DecidableEq, Repr

end Sys2Proof
end

