-- ==== Sys2Proof/Syntax.lean ====
section
/-!
DEFINITION. The commands of the block: one constructor per row of spec/opcode_table.json, in the table's order.
The first operand `t` of every command is the local time in nanoseconds at which it comes (log 1).
Operands that only the physical world decides (a reading, a check's outcome) are the sender's (log 2).
-/

namespace Sys2Proof

/-- A command of the Garmus module. -/
inductive Instr where
  -- 02_figures
  | load (t : Nat) (who : BitVec 8) (mask : BitVec 8) (slot : Nat)
  | loadVerifyDone (t : Nat) (cell : Fin 8) (slot : Nat) (delivered : Nat)
  | stage (t : Nat) (who : BitVec 8) (mask : BitVec 8) (slot : Nat)
  | stagingComplete (t : Nat) (cell : Fin 8)
  | arm (t : Nat) (who : BitVec 8) (mask : BitVec 8) (cond : BitVec 64)
  | disarm (t : Nat) (who : BitVec 8) (mask : BitVec 8)
  | drop (t : Nat) (who : BitVec 8) (mask : BitVec 8) (slot : Nat)
  | planeSwap (t : Nat) (cell : Fin 8) (checkOk : Bool)
  | bindingRegisterWrite (t : Nat) (who : BitVec 8) (chan : Fin 64) (value : BitVec 32)
  -- 03_threads_and_contract
  | loadImage (t : Nat) (cell : Fin 8) (src : Source) (e : Entry)
  | stepBegin (t : Nat) (cell : Fin 8)
  | product (t : Nat) (cell : Fin 8) (core : Fin 128)
  | row (t : Nat) (cell : Fin 8) (core : Fin 128) (rep : Repeat)
  | route (t : Nat) (cell : Fin 8) (core : Fin 128) (rep : Repeat)
  | sample (t : Nat) (cell : Fin 8) (core : Fin 128) (lanes : List (Nat × Bool))
  | mask (t : Nat) (cell : Fin 8) (core : Fin 128) (rep : Repeat)
  | move (t : Nat) (cell : Fin 8) (core : Fin 128)
  | reduce (t : Nat) (cell : Fin 8) (core : Fin 128)
  | update (t : Nat) (cell : Fin 8) (core : Fin 128)
  | sync (t : Nat) (cell : Fin 8) (core : Fin 128)
  | element (t : Nat) (cell : Fin 8) (core : Fin 128)
  | operationComplete (t : Nat) (cell : Fin 8) (core : Fin 128) (engine : Nat) (bad : List Nat)
  | tileRedo (t : Nat) (cell : Fin 8) (core : Fin 128) (tile : Nat) (same passes : Bool)
  | syncMessage (t : Nat) (index : Nat)
  | syncRetry (t : Nat)
  | stepWatchdog (t : Nat) (cell : Fin 8)
  -- 07_memory_tiers
  | alloc (t : Nat) (cell : Fin 8) (src : Source) (e : Entry)
  | ready (t : Nat) (cell : Fin 8) (src : Source) (e : Entry)
  | free (t : Nat) (cell : Fin 8) (src : Source) (e : Entry)
  | bar2Write (t : Nat) (who : BitVec 8) (off : Nat) (bytes : List Byte)
  | bar2Read (t : Nat) (who : BitVec 8) (off : Nat) (n : Nat)
  | migration (t : Nat) (cell : Fin 8) (n : Nat)
  | patrolScrub (t : Nat) (cell : Fin 8) (hits : List EccHit) (sweepDone : Bool)
  | sweepOverdue (t : Nat) (cell : Fin 8)
  -- 08_generation
  | generationSetup (t : Nat) (cell : Fin 8) (src : Source) (e : Entry)
  | request (t : Nat) (cell : Fin 8) (src : Source) (e : Entry)
  | admissionRound (t : Nat) (cell : Fin 8)
  | cancel (t : Nat) (cell : Fin 8) (src : Source) (e : Entry)
  | generationSeal (t : Nat) (cell : Fin 8)
  | recordWritten (t : Nat) (cell : Fin 8) (entry : Nat)
  -- 09_learning, 10_update_die
  | learningStepBegin (t : Nat) (tenant : Fin 64)
  | reducePart (t : Nat) (cell : Fin 8) (port : Fin 12) (f : Frame)
  | ratioPass (t : Nat) (cell : Fin 8) (tenant : Fin 64)
  | sealReport (t : Nat) (cell : Fin 8) (tenant : Fin 64)
  | sealDecision (t : Nat) (tenant : Fin 64)
  | applyPass (t : Nat) (cell : Fin 8) (tenant : Fin 64) (faults : List PassFault)
  | sealComplete (t : Nat) (cell : Fin 8) (tenant : Fin 64)
  | answer (t : Nat) (cell : Fin 8) (src : Source) (e : Entry)
  | answerTimeout (t : Nat) (tenant : Fin 64)
  | bind (t : Nat) (cell : Fin 8) (src : Source) (e : Entry)
  | ruleLoad (t : Nat) (cell : Fin 8) (src : Source) (e : Entry)
  | mode (t : Nat) (cell : Fin 8) (src : Source) (e : Entry)
  | snapshot (t : Nat) (cell : Fin 8) (src : Source) (e : Entry)
  | snapshotTransfer (t : Nat) (cell : Fin 8) (tenant : Fin 64) (linkOk : Bool)
  | repair (t : Nat) (cell : Fin 8) (src : Source) (e : Entry)
  -- 11_turns_and_shuffles
  | version (t : Nat) (cell : Fin 8) (src : Source) (e : Entry)
  | pushHoldBegin (t : Nat) (cell : Fin 8) (tenant : Fin 64)
  | shuffleComplete (t : Nat) (cell : Fin 8) (tenant : Fin 64)
  | warming (t : Nat) (cell : Fin 8) (tenant : Fin 64)
  | warmingComplete (t : Nat) (cell : Fin 8) (tenant : Fin 64)
  | pointerSwitch (t : Nat) (cell : Fin 8) (tenant : Fin 64)
  | laggingWriteback (t : Nat) (cell : Fin 8) (tenant : Fin 64) (n : Nat)
  | fetch (t : Nat) (cell : Fin 8) (src : Source) (e : Entry)
  | fetchComplete (t : Nat) (cell : Fin 8) (linkOk : Bool) (shard : List Byte)
  -- 12_korif_fabric_and_tables
  | portTrain (t : Nat) (cell : Fin 8) (port : Fin 12) (offered : Nat) (trained : Bool)
  | portRetrain (t : Nat) (cell : Fin 8) (port : Fin 12)
  | quarantineEnd (t : Nat) (cell : Fin 8) (port : Fin 12)
  | tileFrame (t : Nat) (cell : Fin 8) (port : Fin 12) (f : Frame)
  | readRequest (t : Nat) (cell : Fin 8) (port : Fin 12) (f : Frame)
  | syncFrame (t : Nat) (cell : Fin 8) (port : Fin 12) (f : Frame)
  | syncOverflowRetry (t : Nat) (cell : Fin 8)
  | mailFrame (t : Nat) (cell : Fin 8) (port : Fin 12) (f : Frame)
  | routeUnit (t : Nat) (cell : Fin 8) (who : BitVec 8) (e : Entry)
  | presence (t : Nat) (cell : Fin 8) (port : Fin 12) (f : Frame)
  | presenceBeacon (t : Nat) (cell : Fin 8) (port : Fin 12)
  | offer (t : Nat) (cell : Fin 8) (port : Fin 12) (f : Frame) (authentic : Bool)
  | refuse (t : Nat) (cell : Fin 8) (port : Fin 12) (f : Frame)
  | leave (t : Nat) (cell : Fin 8) (port : Fin 12) (f : Frame)
  | level (t : Nat) (cell : Fin 8) (port : Fin 12) (f : Frame)
  | hold (t : Nat) (cell : Fin 8) (port : Fin 12) (f : Frame)
  | holdOffEnd (t : Nat) (cell : Fin 8) (port : Fin 12)
  | creditReturn (t : Nat) (cell : Fin 8) (port : Fin 12) (f : Frame)
  | creditReturnTick (t : Nat) (cell : Fin 8) (port : Fin 12)
  | creditGrant (t : Nat) (cell : Fin 8) (port : Fin 12) (f : Frame)
  | voidFrame (t : Nat) (cell : Fin 8) (port : Fin 12) (f : Frame)
  | frameForward (t : Nat) (cell : Fin 8) (port : Fin 14) (f : Frame)
  | heartbeat (t : Nat) (cell : Fin 8) (port : Fin 12) (f : Frame)
  | orphanTimeout (t : Nat)
  | timeSyncTick (t : Nat) (cell : Fin 8)
  | timeSync (t : Nat) (cell : Fin 8) (port : Fin 12) (f : Frame)
  | delayRequest (t : Nat) (cell : Fin 8) (port : Fin 12) (f : Frame)
  | delayResponse (t : Nat) (cell : Fin 8) (port : Fin 12) (f : Frame)
  | discoveryAccept (t : Nat)
  -- 01_organisation, 13_integrity_and_faults
  | hostAnchorLoss (t : Nat)
  | syncWireFail (t : Nat) (cell : Fin 8) (port : Fin 4)
  | coreFence (t : Nat) (cell : Fin 8) (core : Fin 128)
  | test (t : Nat) (cell : Fin 8) (src : Source) (e : Entry)
  | testRound (t : Nat) (cell : Fin 8)
  | fieldTestComplete (t : Nat) (cell : Fin 8) (unit : Nat) (passed : Bool)
  | refetch (t : Nat) (cell : Fin 8) (src : Source) (e : Entry)
  -- 14_host_port_and_mailboxes
  | perstN (t : Nat) (level : Bool)
  | hostLinkReset (t : Nat) (how : Fin 3)
  | hostPathReturn (t : Nat)
  | vfFlr (t : Nat) (vf : Fin 64)
  | pfFlr (t : Nat)
  | sqTail (t : Nat) (fn : Fin 64) (ring : Fin 8) (value : BitVec 16)
  | ringEnable (t : Nat) (fn : Fin 64) (ring : Nat) (value : BitVec 32)
  | ringFetch (t : Nat) (ready : List (Fin 64 × Fin 8)) (ok : Bool) (e : Entry)
  | completionWrite (t : Nat) (fn : Fin 64)
  | run (t : Nat) (cell : Fin 8) (src : Source) (e : Entry)
  | write (t : Nat) (cell : Fin 8) (src : Source) (e : Entry)
  | mailbox (t : Nat) (cell : Fin 8) (src : Source) (e : Entry)
  | sendData (t : Nat) (who : BitVec 8) (chan : Fin 64) (w : BitVec 32)
  | sendDb (t : Nat) (who : BitVec 8) (chan : Fin 64) (w : BitVec 32)
  | recvData (t : Nat) (who : BitVec 8) (chan : Fin 64)
  | recvPend (t : Nat) (who : BitVec 8) (chan : Fin 64) (w : BitVec 32)
  | mailboxEntryTake (t : Nat) (chan : Fin 64) (toB : Bool)
  | ptmRequest (t : Nat) (master : Nat)
  -- 15_power_clocks_and_startup
  | vinFault (t : Nat) (mv : Nat)
  | thermalSample (t : Nat) (cell : Fin 8) (dies : List Nat)
  | thermalCeilingTick (t : Nat) (cell : Fin 8)
  | aoclkLoss (t : Nat)
  | refclkLoss (t : Nat)
  | cellWake (t : Nat) (cell : Fin 8)
  | cellWakeComplete (t : Nat) (cell : Fin 8)
  | pwrGoodRise (t : Nat) (i3cAddr : BitVec 7) (flashLayout boardId : BitVec 4)
  | supervisorImageVerify (t : Nat) (activeOk otherOk : Bool)
  | hostLinkTrained (t : Nat) (configLive : Bool)
  | cellInitComplete (t : Nat) (cell : Fin 8)
  | cellInitTimeout (t : Nat) (cell : Fin 8)
  | pwrFailN (t : Nat) (level : Bool)
  | pwrFailDeassert (t : Nat)
  | pwrGoodFall (t : Nat)
  | haltNAssert (t : Nat)
  | moduleReset (t : Nat) (who : BitVec 8) (key : BitVec 16)
  | restart (t : Nat) (who : BitVec 8) (cell : Fin 8)
  | restartDrain (t : Nat) (who : BitVec 8) (cell : Fin 8)
  | cellRestartBegin (t : Nat) (cell : Fin 8)
  | flashOperation (t : Nat)
  | flashDeferRetry (t : Nat)
  | fwWrite (t : Nat) (who : BitVec 8) (dmaOk : Bool) (bundle : List Byte)
  | fwStage (t : Nat) (who : BitVec 8)
  | fwSwitch (t : Nat) (who : BitVec 8)
  | fwCommit (t : Nat) (who : BitVec 8)
  | fwRevert (t : Nat) (who : BitVec 8)
  -- 16_security_and_management
  | enrol (t : Nat) (who : BitVec 8) (len : Nat)
  | getVersion (t : Nat) (path : Nat) (cell : Fin 8) (msg : List Byte)
  | getCapabilities (t : Nat) (path : Nat) (cell : Fin 8) (msg : List Byte)
  | negotiateAlgorithms (t : Nat) (path : Nat) (cell : Fin 8) (msg : List Byte)
  | getDigests (t : Nat) (path : Nat) (cell : Fin 8) (msg : List Byte)
  | getCertificate (t : Nat) (path : Nat) (cell : Fin 8) (msg : List Byte)
  | challenge (t : Nat) (path : Nat) (cell : Fin 8) (msg : List Byte)
  | getMeasurements (t : Nat) (path : Nat) (cell : Fin 8) (msg : List Byte)
  | keyExchange (t : Nat) (path : Nat) (cell : Fin 8) (msg : List Byte)
  | finish (t : Nat) (path : Nat) (cell : Fin 8) (msg : List Byte) (verified : Bool) (keyId : BitVec 64)
  | getEncapsulatedRequest (t : Nat) (path : Nat) (cell : Fin 8) (msg : List Byte)
  | deliverEncapsulatedResponse (t : Nat) (path : Nat) (cell : Fin 8) (msg : List Byte)
  | endSession (t : Nat) (path : Nat) (cell : Fin 8) (msg : List Byte)
  | chunkSend (t : Nat) (path : Nat) (cell : Fin 8) (msg : List Byte)
  | chunkGet (t : Nat) (path : Nat) (cell : Fin 8) (msg : List Byte)
  | setCertificate (t : Nat) (path : Nat) (cell : Fin 8) (chain : List Byte) (root : BitVec 64)
  | mctpControl (t : Nat) (i3c : Bool) (command : BitVec 8) (eid : BitVec 8)
  | pldmEffecter (t : Nat) (who : BitVec 8) (effecter : BitVec 16) (value : Nat)
  | updateComponent (t : Nat) (who : BitVec 8) (bundle : List Byte)
  | activateFirmware (t : Nat) (who : BitVec 8)
  | vendorSend (t : Nat) (who : BitVec 8) (chan : Fin 64) (count : Nat) (doorbell : Bool) (words : List (BitVec 32))
  | vendorReceive (t : Nat) (who : BitVec 8) (chan : Fin 64) (count : Nat)
  | vendorWindow (t : Nat) (who : BitVec 8) (chan : Fin 64)
  | entdaa (t : Nat) (addr : BitVec 7)
  | setdasa (t : Nat) (static dynamic : BitVec 7)
  | getstatus (t : Nat)
  -- 17_register_reference
  | register (t : Nat) (cell : Fin 8) (src : Source) (e : Entry)
  | managerWrite (t : Nat) (who : BitVec 8) (value : BitVec 32)
  | powerLimit (t : Nat) (who : BitVec 8) (value : BitVec 16)
  | figFloor (t : Nat) (who : BitVec 8) (value : BitVec 32)
  | ruleFloor (t : Nat) (who : BitVec 8) (value : BitVec 32)
  | jobStep (t : Nat) (who : BitVec 8) (cell : Fin 8) (tenant : Fin 64) (value : BitVec 64)
  | turnPlan (t : Nat) (who : BitVec 8) (cell : Fin 8) (value : BitVec 64)
  | quarRelease (t : Nat) (who : BitVec 8) (cell : Fin 8) (ports : BitVec 12)
  | persist (t : Nat) (who : BitVec 8) (cell : Fin 8) (value : BitVec 32)
  | stop (t : Nat) (who : BitVec 8) (cell : Fin 8) (core : Fin 128)
  | debugStopReached (t : Nat) (cell : Fin 8)
  | reqIndex (t : Nat) (who : BitVec 8) (cell : Fin 8) (index : BitVec 14)
  | errCons (t : Nat) (who : BitVec 8) (cell : Fin 8) (value : BitVec 32)
  | fatal (t : Nat) (who : BitVec 8) (cell : Fin 8) (value : BitVec 32)
  | registerWrite (t : Nat) (fn : Fin 64) (off : Nat) (size : Nat) (value : BitVec 64)
  -- the table's later rows
  | journalCommitWritten (t : Nat)
  | haltNDeassert (t : Nat)
  | undervoltageLockout (t : Nat) (mv : Nat)
  | undervoltageLockoutRelease (t : Nat) (mv : Nat)
  | pwrGoodLowReset (t : Nat)
  | aoclkPresent (t : Nat)
  | flrComplete (t : Nat) (fn : Fin 64)
  | sealReportStepLimit (t : Nat) (tenant : Fin 64) (cell : Fin 8)
  | registerRead (t : Nat) (fn : Fin 64) (off : Nat) (size : Nat)
  | identityCacheEntry (t : Nat) (keyId : BitVec 64) (publicKey : List Byte) (chainOk reachable : Bool)
  deriving DecidableEq, Repr

end Sys2Proof
end

