-- ==== Sys2Proof/Machine/SMap.lean ====
section
/-!
DEFINITION. Operations on sparse tables: reading with a default, writing, erasing, and the canonical form.
-/

namespace Sys2Proof

/-- The value at key `k`: the first pair with that key, else the default `d`. -/
def SMap.get {β : Type} (m : SMap β) (d : β) (k : Nat) : β :=
  match m with
  | [] => d
  | (k', v) :: r => if k' = k then v else SMap.get r d k

/-- The table without key `k`. -/
def SMap.del {β : Type} (m : SMap β) (k : Nat) : SMap β := m.filter (fun p => p.1 ≠ k)

/-- The table with (k, v) put before the first larger key. -/
def SMap.ins {β : Type} (m : SMap β) (k : Nat) (v : β) : SMap β :=
  match m with
  | [] => [(k, v)]
  | (k', v') :: r => if k < k' then (k, v) :: (k', v') :: r else (k', v') :: SMap.ins r k v

/-- The table with `v` at key `k`; writing the default removes the key. -/
def SMap.set {β : Type} [DecidableEq β] (m : SMap β) (d : β) (k : Nat) (v : β) : SMap β :=
  if v = d then m.del k else (m.del k).ins k v

/-- The table with the value at `k` changed by `f`. -/
def SMap.mod {β : Type} [DecidableEq β] (m : SMap β) (d : β) (k : Nat) (f : β → β) : SMap β :=
  m.set d k (f (m.get d k))

/-- The table with every listed value changed by `f`; values that became the default are left out. -/
def SMap.mapV {β : Type} [DecidableEq β] (m : SMap β) (d : β) (f : β → β) : SMap β :=
  (m.map (fun p => (p.1, f p.2))).filter (fun p => p.2 ≠ d)

/-- The canonical form: keys strictly rising from above `lo`, and no value equal to the default. -/
def SMap.wfFrom {β : Type} [DecidableEq β] (d : β) (lo : Nat) : SMap β → Bool
  | [] => true
  | (k, v) :: r => lo ≤ k && v ≠ d && SMap.wfFrom d (k + 1) r

/-- The canonical form of a table whose default is `d`. -/
def SMap.wf {β : Type} [DecidableEq β] (d : β) (m : SMap β) : Bool := SMap.wfFrom d 0 m

end Sys2Proof
end

