-- ==== Sys2Proof/Machine/State.lean ====
section
/-!
DEFINITION. The state of the module as plain data, the reasons a step can stop, and the state after reset.
A field's docstring gives its width, the file and rule of spec/ that names it, and its reset value; DESIGN CHOICE or
PRESUMED names the log entry. Tables with numeric keys are `SMap`: keys not listed hold the default named here.
-/

namespace Sys2Proof.Machine

/-- The spec gives the block no fault that stops it: every breach meets a defined refusal or void (00_scope, under
Table 0-3). Nothing raises a fault; the type has no constructor, so "no fault" is true by its form. Safe. -/
inductive Fault where
  deriving DecidableEq, Repr

/-- Raised only by an arm of `exec` that has no meaning yet. Safe: the block stops instead of going on wrongly. -/
inductive Refusal where
  | notModelled (mnemonic : String)
  deriving DecidableEq, Repr

/-! ## Figures (02_figures) -/

/-- CHAIN record (Table 2-5). -/
structure ChainRec where
  clusters : BitVec 16
  index    : Nat
  stages   : List Nat
  share    : Nat
  deriving DecidableEq, Repr

/-- TENANT record (Table 2-6). -/
structure TenantRec where
  tenant : Nat
  hostFn : Nat
  gen    : Bool
  learn  : Bool
  cores  : BitVec 128
  deriving DecidableEq, Repr

/-- POOL record (Table 2-7). -/
structure PoolRec where
  tenant    : Nat
  fastBw    : Nat
  slowBw    : Nat
  fastFloor : Nat
  fastLimit : Nat
  slowFloor : Nat
  slowLimit : Nat
  deriving DecidableEq, Repr

/-- REQTAB record (Table 2-8). -/
structure ReqtabRec where
  tenant : Nat
  first  : Nat
  count  : Nat
  deriving DecidableEq, Repr

/-- QUEUE record (Table 2-9): byte q is the weight of queue q. -/
structure QueueRec where
  tenant  : Nat
  weights : List Nat
  deriving DecidableEq, Repr

/-- BIND record (Table 2-10). -/
structure BindRec where
  chan : Nat
  idA  : BitVec 8
  idB  : BitVec 8
  deriving DecidableEq, Repr

/-- POWER record of one cluster (Table 2-11). -/
structure PowerRec where
  cluster : Nat
  idle    : Nat
  clock   : Nat
  deriving DecidableEq, Repr

/-- FREEZE record (Table 2-12). -/
structure FreezeRec where
  layer : Nat
  whole : Bool
  first : Nat
  count : Nat
  deriving DecidableEq, Repr

/-- UPDATE record (Table 2-12). -/
structure UpdateRec where
  layer : Nat
  scale : Int
  fixed : Bool
  low   : BitVec 32
  high  : BitVec 32
  deriving DecidableEq, Repr

/-- COST record (Table 2-13). -/
structure CostRec where
  tokens   : Nat
  draft    : Nat
  context  : Nat
  duration : Nat
  deriving DecidableEq, Repr

/-- PLACE record (Table 2-14). -/
structure PlaceRec where
  layer     : Nat
  seat      : Nat
  cell      : Nat
  kind      : Nat
  home      : Bool
  serve     : Bool
  reference : Bool
  format    : Nat
  replica   : Nat
  deriving DecidableEq, Repr

/-- A verified figure (R32, Tables 2-1 to 2-14), with the digest of R38. -/
structure Figure where
  level       : Nat
  phase       : Nat
  ident       : BitVec 64
  secver      : Nat
  cellMask    : BitVec 8
  stop        : Bool
  manifest    : BitVec 256
  digest      : BitVec 256
  chains      : List ChainRec
  tenants     : List TenantRec
  pools       : List PoolRec
  reqtabs     : List ReqtabRec
  quantum     : Nat
  queues      : List QueueRec
  binds       : List BindRec
  deepest     : Nat
  minShare    : Nat
  maxShare    : Nat
  power       : List PowerRec
  freeze      : List FreezeRec
  updates     : List UpdateRec
  fenceReserve : Nat
  redoReserve : Nat
  costs       : List CostRec
  replicas    : Nat
  places      : List PlaceRec
  deriving DecidableEq, Repr

/-- The state of a figure store slot (R41). A slot keeps its bytes, in 4 KiB blocks; while it loads, those delivered so far, the
length the host gave (`some n`) or none for the Manager's LOAD, and the identity that issued the LOAD. -/
inductive Slot4 where
  | empty
  | loading (blocks : SMap Payload) (len : Option Nat) (who : BitVec 8)
  | resident (f : Figure) (blocks : SMap Payload)
  deriving DecidableEq, Repr

/-- A figure command accepted and not ended (R405): its code and slot, the identity that issued it, and whether it
came through the FIG_CMD register. -/
structure FigCmd where
  code   : Nat
  slot   : Nat
  who    : BitVec 8
  viaReg : Bool
  deriving DecidableEq, Repr

/-- Figures of one cell. -/
structure FigState where
  /-- Four slots of 16 MiB. 02_figures R34, R41. Reset: empty. -/
  slots    : SMap Slot4
  /-- The figure in the active plane and the slot it was staged from (held while it is resident there). 02_figures R43-R45. Reset: none (R30). -/
  active   : Option Figure
  /-- Slot of the active plane's figure, while that slot still holds it. 02_figures R41. Reset: none. -/
  activeSlot : Option Nat
  /-- The figure in the idle plane. 02_figures R43. Reset: none. -/
  idle     : Option Figure
  /-- Slot of the idle plane's figure. 02_figures R41. Reset: none. -/
  idleSlot : Option Nat
  /-- Which of the two physical planes is active (plane select), 1 bit. 02_figures R45. Reset: DESIGN CHOICE false (log 19). -/
  select   : Bool
  /-- Pending ARM condition: 0 or a device time, 64 bits. 02_figures R41, R43. Reset: none pending. -/
  arm      : Option (BitVec 64)
  /-- Slot being staged. 02_figures R41. Reset: none. -/
  staging  : Option Nat
  /-- Figure commands accepted and not yet ended. 02_figures R40; 17 R405. Reset: none. -/
  cmds     : List FigCmd
  /-- FIG_SEQ, 8 bits: figure commands ended, modulo 256. 17 Table 17-3. Reset: 0. -/
  seq      : BitVec 8
  /-- FIG_CODE, 8 bits. 17 Table 17-3. Reset: 0. -/
  lastCode : BitVec 8
  /-- FIG_STATUS, 8 bits. 17 Table 17-3. Reset: 0. -/
  lastStatus : BitVec 8
  /-- FIG_SLOT, 2 bits. 17 Table 17-3. Reset: 0. -/
  lastSlot : Nat
  /-- PERSIST as the journal holds it, 1 bit. 17 R411. Reset: Journal; DESIGN CHOICE false (log 7). -/
  persist  : Bool
  /-- STORE_PEND, 1 bit. 17 R411. Reset: 0. -/
  storePend : Bool
  /-- PSLOT, 2 bits. 17 Table 17-3. Reset: 0. -/
  pslot    : Nat
  deriving DecidableEq, Repr

def FigState.reset : FigState :=
  { slots := [], active := none, activeSlot := none, idle := none, idleSlot := none, select := false, arm := none,
    staging := none, cmds := [], seq := 0, lastCode := 0, lastStatus := 0, lastSlot := 0, persist := false,
    storePend := false, pslot := 0 }

/-! ## Task images (03_threads_and_contract) -/

/-- Group record (Table 3-3). -/
structure GroupRec where
  threads  : Nat
  counters : Nat
  deriving DecidableEq, Repr

/-- Thread descriptor (Table 3-4); start counter 0xFFFF is none. -/
structure ThreadDesc where
  first    : Nat
  count    : Nat
  chain    : Nat
  startCtr : Nat
  startThr : Nat
  deriving DecidableEq, Repr

/-- Operation record (Table 3-5). -/
structure OpRec where
  opcode  : Nat
  variant : Nat
  flags   : BitVec 16
  fmtA    : Nat
  fmtB    : Nat
  fmtD    : Nat
  sigCtr  : Nat
  a       : BitVec 64
  b       : BitVec 64
  d       : BitVec 64
  m       : Nat
  n       : Nat
  k       : Nat
  param   : BitVec 32
  deriving DecidableEq, Repr

/-- Layer record (Table 3-9). -/
structure LayerRec where
  layer  : Nat
  role   : Nat
  expert : Nat
  tensor : Nat
  deriving DecidableEq, Repr

/-- A task image that passed R61 (R55, Tables 3-2 to 3-5, 3-9). -/
structure Image where
  level     : Nat
  phase     : Nat
  ident     : BitVec 64
  tenant    : Nat
  stepLimit : Nat
  seed      : BitVec 64
  figure    : BitVec 64
  groups    : List GroupRec
  threads   : List ThreadDesc
  ops       : List OpRec
  layers    : List LayerRec
  deriving DecidableEq, Repr

/-- Where the deal put a group (R63): its core, its first counter on that core and its first context. -/
structure Placement where
  core : Nat
  ctr  : Nat
  ctx  : Nat
  deriving DecidableEq, Repr

/-- What one cell keeps for one tenant. -/
structure TenantRun where
  /-- Current task image. 03 R62. Reset: none. -/
  image    : Option Image
  /-- Accepted image that becomes current at the next step boundary. 03 R62. Reset: none. -/
  next     : Option Image
  /-- Set when the current image was carried across a plane swap. 03 R62. Reset: false. -/
  carried  : Bool
  /-- Deal in force: placement of each group, in group order (none: not placed). 03 R63, R64. Reset: empty. -/
  deal     : List (Option Placement)
  /-- A re-deal is due at the next step boundary. 03 R64. Reset: false. -/
  redeal   : Bool
  /-- Job step count, 64 bits. 05 R103; 17 JOB_STEP. Reset: 0. -/
  jobStep  : BitVec 64
  /-- Learning run count, 32 bits. 14 R435 and Table 14-7. Reset: DESIGN CHOICE 0 (log 20). -/
  runCount : BitVec 32
  /-- Admission closed by an accepted ARM. 02 R50. Reset: false. -/
  closed   : Bool
  deriving DecidableEq, Repr

def TenantRun.reset : TenantRun :=
  { image := none, next := none, carried := false, deal := [], redeal := false, jobStep := 0, runCount := 0,
    closed := false }

/-! ## Tiles, cores and engines (03 to 07) -/

/-- Tile tag (Table 7-1). -/
structure Tag where
  check  : BitVec 32
  ident  : BitVec 24
  fmt    : Nat
  seq    : Nat
  ver    : BitVec 16
  poison : Bool
  dirty  : Bool
  pinned : Bool
  home   : Bool
  map    : Bool
  tenant : Nat
  deriving DecidableEq, Repr

/-- A tile: payload and tag (R140). -/
structure Tile where
  payload : Payload
  tag     : Tag
  deriving DecidableEq, Repr

/-- CRC-32C of 4,096 zero bytes (R141), the check value of an initialised slot (R57). -/
def crcZero : BitVec 32 := 0x98f94189

/-- The tile of an initialised slot (R57): zero payload, its check value, every other tag field zero. -/
def Tile.zero : Tile :=
  { payload := 0,
    tag := { check := crcZero, ident := 0, fmt := 0, seq := 0, ver := 0, poison := false,
             dirty := false, pinned := false, home := false, map := false, tenant := 0 } }

/-- A core-memory slot: tile, 512-byte side record, and whether the side record counts as filled (R57, R77, R87). -/
structure Slot where
  tile   : Tile
  side   : SideRec
  filled : Bool
  deriving DecidableEq, Repr

/-- A slot as initialised (R57). -/
def Slot.zero : Slot := { tile := Tile.zero, side := 0, filled := false }

/-- Thread states (Table 3-11). -/
inductive CtxState where
  | free | ready | run | wait | done
  deriving DecidableEq, Repr

/-- A thread context (R63, Table 3-11): tenant, group and thread of the image, records already executed, state, its
group's counter base, and the counter and threshold it waits for in WAIT (256·core + counter of the cell). -/
structure Ctx where
  tenant  : Nat
  group   : Nat
  thread  : Nat
  nextRec : Nat
  st      : CtxState
  base    : Nat
  waitCtr : Nat
  waitThr : Nat
  deriving DecidableEq, Repr

def Ctx.free : Ctx :=
  { tenant := 0, group := 0, thread := 0, nextRec := 0, st := .free, base := 0, waitCtr := 0, waitThr := 0 }

/-- A sync message (03, Sync counters and messages; R66): the cell that sent it, target, added value, low 16 bits of the sender's
step number; the sender's tenant says whose groups are meant (log 17). -/
structure SyncMsg where
  src    : Nat
  seat   : Nat
  cell   : Nat
  tenant : Nat
  group  : Nat
  ctr    : Nat
  add    : Nat
  step   : BitVec 16
  deriving DecidableEq, Repr

/-- A SAMPLE result as the sample engine reports it (R134, R135): its tenant, the record's sample key and position, the tokens
decided, the accepted draft count, and the status of Table 6-7. -/
structure SampleReport where
  tenant : Nat
  key    : BitVec 24
  pos    : Nat
  tokens : List (BitVec 32)
  acc    : Nat
  status : Nat
  poison : Bool
  deriving DecidableEq, Repr

/-- A write an operation makes when its results are written (R59): a core-memory slot, a tile of a tensor of this
cell, or a tile sent to another cell. -/
inductive Write where
  | slot (n : Nat) (s : Slot)
  | tensor (tenant : Nat) (ident : BitVec 24) (seq : Nat) (s : Slot)
  | remote (seat cell tenant : Nat) (ident : BitVec 24) (seq : Nat) (lane kind aux limSeq : Nat) (s : Slot)
  | part (tenant : Nat) (ident : BitVec 24) (seq index count fmt stop : Nat) (sr : Bool) (s : Slot)
  deriving DecidableEq, Repr

/-- An operation in an engine (R56, R59): the context and record it runs, the writes its completion makes, its
duration in arithmetic cycles where a rule gives one (R84, R123, R129, R136, R139), its sample reports, for a MOVE from
another cell the read requests out, as (request number, which of its tiles), and the tiles that came, and the tiles that a MOVE has sent
to other cells, as (identifier, sequence). -/
structure EngineOp where
  ctx     : Nat
  oprec   : OpRec
  writes  : List Write
  cycles  : Option Nat
  reports : List SampleReport
  waits   : List (Nat × Nat) := []
  got     : List (Nat × Slot) := []
  sent    : List (BitVec 24 × Nat) := []
  deriving DecidableEq, Repr

/-- A statistics set in side memory (R113, R115): number, tenant, kind (0 soft-maximum, 1 RMS, 2 layer), two FP32
statistics a row, the mask record of a soft-maximum (Table 6-3), and its poison mark (R111). -/
structure StatSet where
  number : Nat
  tenant : Nat
  kind   : Nat
  rows   : List (BitVec 32 × BitVec 32)
  mask   : Nat
  count  : Nat
  window : Nat
  scale  : BitVec 32
  poison : Bool
  deriving DecidableEq, Repr

/-- One core. -/
structure Core where
  /-- 768 slots of 4,096 + 16 + 512 bytes. 03 R57; 04 R77. Reset: Slot.zero (R57). -/
  slots    : SMap Slot
  /-- 4,096 thread contexts. 03 Table 3-11. Reset: FREE. -/
  ctxs     : SMap Ctx
  /-- 256 sync counters of 32 bits. 03 R65. Reset: zero (R65: zero when a step begins). -/
  ctrs     : SMap (BitVec 32)
  /-- Pending buffer, 512 entries. 03 R66. Reset: empty. -/
  pend     : List SyncMsg
  /-- Operation in each engine: 1 matrix, 2 row, 3 route, 4 sample, 5 mask, 6 mover, 7 vector. 04 R72; 06 R110. Reset: none. -/
  engines  : SMap (Option EngineOp)
  /-- Button of each engine's arbiter over contexts 0-4,095. 03 R69, R70. Reset: 0 (R69). -/
  buttons  : SMap Nat
  /-- Live statistics sets, in creation order; 32,768 rows of side memory. 06 R113, R115. Reset: empty (R113). -/
  sets     : List StatSet
  /-- Tile redos used in the step, against the COST section's redo reserve. 04 R85; 02 Table 2-13. Reset: 0. -/
  redos    : Nat
  /-- D tiles that failed their checksums and wait for TILE_REDO: context, slot. 13 R311. Reset: none. -/
  redoDue  : List (Nat × Nat)
  /-- Device times of the last three counted faults. 13 R316. Reset: none. -/
  faults   : List Nat
  /-- Fenced. 13 R317. Reset: false. -/
  fenced   : Bool
  /-- Fenced permanently. 13 R318. Reset: as the flash journal says; none (log 7). -/
  permFence : Bool
  /-- To be fenced at the next step boundary (third counted fault). 13 R317. Reset: false. -/
  fenceDue : Bool
  /-- A field test of the core is requested. 13 R317, R320. Reset: false. -/
  testReq  : Bool
  /-- Under test. 13 R321. Reset: false. -/
  testing  : Bool
  /-- Passed its test; returns at the next step boundary. 13 R321. Reset: false. -/
  returning : Bool
  /-- Device time of the core's last return from a fence. 13 R318. Reset: none. -/
  returned : Option Nat
  /-- PA24 and FP32 (or INT32) sums shown in the debug window, by word index of Table 5-6 (2,560 words). 05 R108. Reset: zero. -/
  window   : SMap (BitVec 32)
  deriving DecidableEq, Repr

def Core.reset : Core :=
  { slots := [], ctxs := [], ctrs := [], pend := [], engines := [], buttons := [], sets := [], redos := 0,
    redoDue := [], faults := [], fenced := false, permFence := false, fenceDue := false, testReq := false,
    testing := false, returning := false, returned := none, window := [] }

/-! ## Tiers (07_memory_tiers) -/

/-- Tile map states (Table 7-7), and `none` for a tile address that nothing allocated. -/
inductive TState where
  | none | F | S | E | H | HC | HD | HX | HDX
  deriving DecidableEq, Repr

/-- Tile map entry: state, the tile in the fast tier, in the slow tier (home, or the tile itself in S), the shadow,
the touch stamp (R157), the poison marks on home and shadow (R166), PINNED, the lagging mark (R260), and the fast and slow places
that images of the tile moved out in this step still hold until the seal (R155). -/
structure TileEnt where
  st        : TState
  fast      : Tile
  home      : Tile
  shadow    : Tile
  stamp     : Nat
  homeBad   : Bool
  shadowBad : Bool
  pinned    : Bool
  lagging   : Bool
  spent     : Nat × Nat
  deriving DecidableEq, Repr

def TileEnt.absent : TileEnt :=
  { st := .none, fast := Tile.zero, home := Tile.zero, shadow := Tile.zero, stamp := 0, homeBad := false,
    shadowBad := false, pinned := false, lagging := false, spent := (0, 0) }

/-- Tensor directory entry (R147, R148, R150, R161): tenant (0xFF shared), identifier, format, ALLOC flags, tile
address of tile 0, tiles, state LOADING or READY, FREE pending, manifest digest, for a forwarding record the holder cell, and for a
shared tensor the tenants whose ALLOC on this cell holds a reference, one entry a reference. -/
structure Tensor where
  tenant   : Nat
  ident    : BitVec 24
  fmt      : Nat
  flags    : BitVec 8
  base     : Nat
  count    : Nat
  ready    : Bool
  freePend : Bool
  digest   : BitVec 256
  holder   : Option Nat
  refs     : List Nat := []
  deriving DecidableEq, Repr

/-- Tiers of one cell. -/
structure Tiers where
  /-- Tensor directory, up to 65,536 tensors. 07 R147. Reset: empty. -/
  dir      : List Tensor
  /-- Tile map with contents, by tile address 0-268,435,455. 07 R145, Table 7-7. Reset: nothing allocated. -/
  tiles    : SMap TileEnt
  /-- Touch counter, 64 bits. 07 R157. Reset: 0. -/
  touch    : Nat
  /-- ECC_FAST, 32 bits saturating. 07 R165. Reset: 0. -/
  eccFast  : BitVec 32
  /-- ECC_SLOW, 32 bits saturating. 07 R165. Reset: 0. -/
  eccSlow  : BitVec 32
  /-- SWEEP_TIME, 64 bits. 17 Table 17-3. Reset: 0. -/
  sweep    : Nat
  /-- Button of the tier controller (cores 0-127, U-die link 128). 03 R70. Reset: 0. -/
  button   : Nat
  deriving DecidableEq, Repr

def Tiers.reset : Tiers :=
  { dir := [], tiles := [], touch := 0, eccFast := 0, eccSlow := 0, sweep := 0, button := 0 }

/-! ## Generation (08_generation) -/

/-- A pending request: who sent it, its descriptor (Table 8-2), and its arrival number on the cell (R172). -/
structure PendReq where
  src : Source
  e   : Entry
  arr : Nat
  deriving DecidableEq, Repr

/-- Generation setup (Table 8-1). -/
structure Setup where
  tenant  : Nat
  pages   : Nat
  kvPool  : BitVec 24
  pageList : BitVec 24
  stepList : BitVec 24
  sampling : BitVec 24
  sets    : Nat
  exper   : BitVec 24
  expRec  : BitVec 24
  stride  : Nat
  rmax    : Nat
  deriving DecidableEq, Repr

/-- Request states (Table 8-6). -/
inductive ReqState where
  | free | waiting | prefill | decode | held | ending
  deriving DecidableEq, Repr

/-- A request-table entry: the 64 bytes of Table 8-5 as fields, the descriptor it was admitted from, its submitter,
its full first step, prefill and total step counts (from which the plan and the slack of R176 follow), the page sets and page-list tiles
it holds (R186), its release and cancel marks (R192, R193), the record due once in ENDING (R190), and
the tokens delivered so far (R191). -/
structure ReqEntry where
  st       : ReqState
  tenant   : Nat
  queue    : Nat
  prio     : Nat
  lp       : Nat
  done     : Nat
  g        : Nat
  lmax     : Nat
  pin      : BitVec 16
  d        : Nat
  d0       : Nat
  rejRun   : Nat
  accRun   : Nat
  deadline : Nat
  pageSets : List Nat
  pageTiles : List Nat
  setsRsv  : Nat
  susp     : Nat
  reason   : Nat
  first    : Nat
  last     : Nat
  admitted : Nat
  desc     : Entry
  src      : Source
  np       : Nat
  steps    : Nat
  cancel   : Bool
  release  : Bool
  causes   : List Nat
  outcome  : Nat
  endTime  : Nat
  endStep  : Nat
  toks     : List (BitVec 32)
  deriving DecidableEq, Repr

/-- A FREE entry: every byte of Table 8-5 zero but for the page-list head, which a FREE entry leaves at 0. -/
def ReqEntry.free : ReqEntry :=
  { st := .free, tenant := 0, queue := 0, prio := 0, lp := 0, done := 0, g := 0, lmax := 0, pin := 0, d := 0, d0 := 0,
    rejRun := 0, accRun := 0, deadline := 0, pageSets := [], pageTiles := [], setsRsv := 0, susp := 0, reason := 0,
    first := 0, last := 0, admitted := 0, desc := 0, src := ⟨0, .mail⟩, np := 0, steps := 0,
    cancel := false, release := false, causes := [], outcome := 0, endTime := 0, endStep := 0, toks := [] }

/-- A step list row (Table 8-7). -/
structure StepRow where
  entry   : Nat
  kind    : Nat
  draft   : Nat
  pos     : Nat
  tokens  : Nat
  context : Nat
  element : Nat
  prompt  : BitVec 24
  key     : BitVec 24
  pin     : BitVec 16
  deriving DecidableEq, Repr

/-- Generation state of one cell. -/
structure Gen where
  /-- Pending requests of the lead, at most 4,096. 08 R172. Reset: empty. -/
  pend     : List PendReq
  /-- Arrival number of the next pending request (orders ties, R172). Reset: 0. -/
  arrivals : Nat
  /-- Deficits by 64·tenant + queue. 08 R173. Reset: 0. -/
  deficit  : SMap Nat
  /-- Queues marked held, as 64·tenant + queue. 08 R173. Reset: none. -/
  heldQ    : List Nat
  /-- Generation setup of each tenant. 08 R170. Reset: none. -/
  setups   : SMap (Option Setup)
  /-- Request table, 16,384 entries (Table 8-5); on a follower the mirrors. 08 R168, R180. Reset: FREE. -/
  table    : SMap ReqEntry
  /-- Step list of the step in progress (Table 8-7). 08 R182. Reset: empty. -/
  rows     : List StepRow
  /-- Planned duration D(n) of the step in progress, ns. 08 R177. Reset: 0. -/
  planned  : Nat
  /-- Sample reports of the step in progress. 06 R134, R135. Reset: none. -/
  reports  : List SampleReport
  /-- TURN_PLAN, 64 bits. 08 R179; 17. Reset: all ones. -/
  turnPlan : BitVec 64
  /-- Admission closed by a restart with drain, until the pointer is formed again. 15 R373, R374. Reset: false. -/
  drainClosed : Bool
  /-- REQ_INDEX, 14 bits. 17 R414. Reset: 0. -/
  reqIndex : BitVec 14
  /-- REQ_DATA, 64 bytes. 17 R414. Reset: 0. -/
  reqData  : Entry
  deriving DecidableEq, Repr

def Gen.reset : Gen :=
  { pend := [], arrivals := 0, deficit := [], heldQ := [], setups := [], table := [], rows := [], planned := 0,
    reports := [], turnPlan := BitVec.allOnes 64, drainClosed := false, reqIndex := 0, reqData := 0 }

/-! ## The update die (10) and learning (09) -/

/-- A layer binding (Table 10-4). -/
structure Binding where
  tenant  : Nat
  layer   : Nat
  rule    : Nat
  strict  : Bool
  srw     : Bool
  decay   : Bool
  block   : Nat
  fromStep : BitVec 32
  master  : BitVec 24
  m1      : BitVec 24
  m2      : BitVec 24
  counter : BitVec 24
  precond : BitVec 24
  words   : List (BitVec 32)
  deriving DecidableEq, Repr

/-- An owner rule image in a slot (Table 10-6). -/
structure RuleImage where
  stateWords : Nat
  secver     : Nat
  ratioCyc   : Nat
  applyCyc   : Nat
  code       : List Byte
  deriving DecidableEq, Repr

/-- Modes of the U-die (Table 10-2). -/
inductive UMode where
  | start | run | test | recover
  deriving DecidableEq, Repr

/-- Step report entry (Table 10-7). -/
structure RepEntry where
  layer    : Nat
  rule     : Nat
  flagsA   : BitVec 8
  ratio    : BitVec 32
  sUsed    : Int
  sNext    : Int
  flagsB   : BitVec 8
  frozen   : Nat
  counter  : BitVec 32
  fallback : Nat
  retries  : Nat
  count    : Nat
  seat     : Nat
  cell     : Nat
  deriving DecidableEq, Repr

/-- A pending SNAPSHOT (Table 10-8): its entry, sender, the shards taken at its seal (layer, kind, first tile of the staging
tensor, tiles), the seal's job step count, version and time, and why it may not be published (0 for none). -/
structure Snap where
  src    : Source
  e      : Entry
  taken  : Bool
  shards : List (Nat × Nat × Nat × Nat)
  step   : BitVec 32
  ver    : BitVec 16
  time   : Nat
  bad    : Nat
  deriving DecidableEq, Repr

/-- One U-die. -/
structure UDie where
  /-- Mode START, RUN, TEST, RECOVER. 10 R214. Reset: START. -/
  mode     : UMode
  /-- Mode asked for by a MODE command, taken at the next step boundary. 10 R214. Reset: none. -/
  pendMode : Option UMode
  /-- A ratio or apply pass is running. 10 R214; 11 R249. Reset: false. -/
  inPass   : Bool
  /-- A field test of the U-die runs in TEST. 13 R320. Reset: false. -/
  testing  : Bool
  /-- The U-die failed its field test and stays in TEST until the cell restarts. 10 R214. Reset: false. -/
  failed   : Bool
  /-- Fenced vector cores of 16. 10 R240. Reset: none. -/
  vfenced  : List Nat
  /-- Bindings in force, up to 4,096, one per layer. 10 R218. Reset: none. -/
  binds    : List Binding
  /-- Pending bindings, at most one per layer. 10 R218. Reset: none. -/
  pendBinds : List Binding
  /-- Owner rule slots 0x80-0x83, by slot − 0x80. 10 R222. Reset: none. -/
  rules    : SMap (Option RuleImage)
  /-- HELD layers. 10 R238. Reset: none. -/
  held     : List Nat
  /-- Current update scale of each layer that has one, −64 to +63. 05 R107; 11 R250. Reset: no value. -/
  scales   : SMap (Option Int)
  /-- Freeze mask in force. 02 R46; 10 R229. Reset: none frozen. -/
  freeze   : List FreezeRec
  /-- Update scales and bands in force. 02 R46. Reset: none (R31 default). -/
  updates  : List UpdateRec
  /-- Pending snapshot of each tenant. 10 R243. Reset: none. -/
  snaps    : SMap (Option Snap)
  /-- Pending REPAIRs for the next step boundary: sender and entry. 10 R241. Reset: none. -/
  repairs  : List (Source × Entry)
  /-- Next sₗ fixed for the step by whichever pass ran first: layer, value. 10 R226. Reset: none. -/
  nextScale : List (Nat × Int)
  /-- Facts and report entries of the step's passes. 10 R234, R242. Reset: none. -/
  entries  : List RepEntry
  /-- Layers whose UPDATE operation named them in the step: layer, variant, reference to the gradient sum, tenant. 10 R215, R233. Reset: none. -/
  named    : List (Nat × Nat × BitVec 64 × Nat)
  /-- Tensors, by tenant and identifier, in which a conversion saturated in the step. 05 R107; 10 R226. Reset: none. -/
  saturated : List (Nat × BitVec 24)
  /-- Version last sent of each home layer, by (1,024·layer + seat)·8 + cell of the serving copy. 11 R259. Reset: unknown. -/
  lastSent : SMap (Option (BitVec 16))
  /-- Tensors that a FETCH has filled with a home layer's working weights: tenant, layer, identifier. 11 R259, R262. Reset: none. -/
  working  : List (Nat × Nat × BitVec 24)
  deriving DecidableEq, Repr

def UDie.reset : UDie :=
  { mode := .start, pendMode := none, inPass := false, testing := false, failed := false, vfenced := [], binds := [],
    pendBinds := [], rules := [], held := [], scales := [], freeze := [], updates := [], snaps := [], repairs := [],
    nextScale := [], entries := [], named := [], saturated := [], lastSent := [], working := [] }

/-- A node of a reduction in progress, one FP32 tile (R204): sum tensor, first element in it, tree level and index at that level,
count of nodes of the level, the node's 1,024 values and its poison mark; INT32 values or FP32, the SR flag of the REDUCE (R99), the
sum's format, and the element after the last that the REDUCE covers, 0 where that is not known. A node of count 1 is a root. -/
structure RedNode where
  tenant : Nat
  ident  : BitVec 24
  seq    : Nat
  level  : Nat
  index  : Nat
  count  : Nat
  vals   : List (BitVec 32)
  poison : Bool
  int    : Bool
  sr     : Bool
  fmt    : Nat
  stop   : Nat
  deriving DecidableEq, Repr

/-- How far the learning step of one tenant has come on a cell (Table 9-3). -/
inductive LPhase where
  | idle | open | running | ratioed | reported | decided | applied | complete
  deriving DecidableEq, Repr

/-- A cell's part in a learning step of one tenant. -/
structure LearnRun where
  /-- Phase of Table 9-3. 09 R208. Reset: idle. -/
  phase    : LPhase
  /-- Commit decision and reason received at order 6. 09 R208. Reset: none. -/
  decision : Option (Bool × Nat)
  /-- Device time of the decision. 09 Table 9-4. Reset: 0. -/
  decTime  : Nat
  /-- Checked commit in this step. 10 R233. Reset: false. -/
  checked  : Bool
  /-- Device time from which the gap of R355 runs (the previous step's end), once a step has ended. 15 R355. Reset: none. -/
  gapFrom  : Option Nat
  /-- The wait on a share of at most 90 W has been recorded. 15 R355. Reset: false. -/
  waitRec  : Bool
  /-- Device time at which the step opened. 09 R210. Reset: 0. -/
  began    : Nat
  /-- Void causes of the step that the cell found outside its own step: as a home, or of the whole cell. 09 R206, R209; 11 R248. Reset: none. -/
  causes   : List Nat
  deriving DecidableEq, Repr

def LearnRun.reset : LearnRun :=
  { phase := .idle, decision := none, decTime := 0, checked := false, gapFrom := none, waitRec := false, began := 0, causes := [] }

/-- The step has not had its decision yet (R209). -/
def LearnRun.undecided (l : LearnRun) : Bool := l.phase ≠ .idle && l.phase ≠ .complete && l.decision.isNone

/-- A report of one cell to the coordinator (R208 order 4, R277). -/
structure Report where
  cell    : Nat
  allDone : Bool
  jobStep : BitVec 64
  causes  : List Nat
  entries : List RepEntry
  deriving DecidableEq, Repr

/-- The module supervisor's coordination of one tenant's learning step (R207). -/
structure Coord where
  /-- Cells of the group on this module. 09 R207. Reset: none. -/
  group    : List Nat
  /-- Step in progress. 09 R208. Reset: false. -/
  active   : Bool
  /-- Reports received. 09 R208. Reset: none. -/
  reports  : List Report
  /-- Void with LINK because a cell did not report by its step limit or its seat departed. 09 R210. Reset: false. -/
  missed   : Bool
  /-- Ratio record written at this time. 10 R235. Reset: none. -/
  ratioAt  : Option Nat
  /-- Answer given: true commit. 10 R235. Reset: none. -/
  answer   : Option Bool
  /-- Decision taken: commit and reason. 09 R209. Reset: none. -/
  decision : Option (Bool × Nat)
  /-- Device time of the decision. 09 R212. Reset: 0. -/
  decTime  : Nat
  /-- Cells that reported seal complete. 09 R208 order 9. Reset: none. -/
  complete : List Nat
  /-- The seal or ratio record still waits for ring space. 14 R342. Reset: false. -/
  recWait  : Bool
  /-- The module supervisor coordinates the step in progress, not the Manager. 09 R207; 01 R20. Reset: false. -/
  mod      : Bool
  /-- Job step count of the step in progress. 09 Table 9-4. Reset: 0. -/
  jobStep  : BitVec 64
  /-- Report entries that DECISION frames brought. 10 R242; 12 R277. Reset: none. -/
  others   : List RepEntry
  deriving DecidableEq, Repr

def Coord.reset : Coord :=
  { group := [], active := false, reports := [], missed := false, ratioAt := none, answer := none, decision := none,
    decTime := 0, complete := [], recWait := false, mod := false, jobStep := 0, others := [] }

/-! ## Turns (11) -/

/-- A push in progress (R263, R264). -/
structure Push where
  src    : Source
  e      : Entry
  single : Bool
  ver    : BitVec 16
  start  : Nat
  hold   : Bool
  deriving DecidableEq, Repr

/-- A FETCH or REFETCH in progress (R262, R325). -/
structure FetchRun where
  src : Source
  e   : Entry
  deriving DecidableEq, Repr

/-- Weight versions of one tenant on a cell. -/
structure Versions where
  /-- CURRENT, 16 bits. 11 R252. Reset: 0. -/
  current  : BitVec 16
  /-- POINTER_VALID. 11 R254. Reset: 0. -/
  valid    : Bool
  /-- RETAINED, 16 bits. 11 R252. Reset: 0. -/
  retained : BitVec 16
  /-- RETAINED_LIVE. 11 R254. Reset: 0. -/
  retLive  : Bool
  /-- CUR_PINS, 32 bits. 11 R253. Reset: 0. -/
  curPins  : BitVec 32
  /-- Version of the weights that the cell homes or computes with in learning: the last committed one, 16 bits. 11 R251, R259. Reset: 0 (R251: weights made READY by command). -/
  homeVer  : BitVec 16
  /-- RET_PINS, 32 bits. 11 R253. Reset: 0. -/
  retPins  : BitVec 32
  /-- Which member of a version pair holds the current version: true for the twin. 11 R252. Reset: false. -/
  twinCur  : Bool
  /-- Version whose copies this cell has reported complete. 11 R254. Reset: none. -/
  copied   : Option (BitVec 16)
  /-- Version expected from a shuffle or push in progress. 11 R259. Reset: none. -/
  incoming : Option (BitVec 16)
  /-- Warming in progress. 11 R261. Reset: false. -/
  warming  : Bool
  /-- Warming complete for the current image. 11 R254, R261. Reset: false. -/
  warmed   : Bool
  /-- The current (pinned) version has lost a copy on the group. 11 R255. Reset: none lost. -/
  lost     : List (BitVec 16)
  /-- The queues wait for the pointer after a swap or a restart. 11 R257; 15 R374. Reset: false. -/
  waitPtr  : Bool
  /-- Push in progress. 11 R263. Reset: none. -/
  push     : Option Push
  /-- Device time of the pointer's last switch, until the next admission test takes it as its base. 11 R257. Reset: none. -/
  switchAt : Option Nat
  deriving DecidableEq, Repr

def Versions.reset : Versions :=
  { current := 0, valid := false, retained := 0, retLive := false, curPins := 0, homeVer := 0, retPins := 0,
    twinCur := false, copied := none, incoming := none, warming := false, warmed := false, lost := [],
    waitPtr := false, push := none, switchAt := none }

/-! ## Korif (12) -/

/-- One Korif port of a C-die. -/
structure Port where
  /-- UP: trained and not quarantined. 12 R267; 17. Reset: 0. -/
  up       : Bool
  /-- RATE, 3 bits: 0 internal, 1 56, 2 112, 3 224 Gb/s. 17. Reset: 0. -/
  rate     : Nat
  /-- Rate being tried (3, 2, 1; 0 gave up) and failures in a row at it. 12 R267. Reset: 3 and 0 (the highest offered). -/
  tryRate  : Nat
  fails    : Nat
  /-- Device times of retrains within the last second. 12 R300. Reset: none. -/
  retrains : List Nat
  /-- Quarantined until this time. 12 R300. Reset: none. -/
  quarUntil : Option Nat
  /-- QCOUNT, 8 bits: quarantines in the doubling series. 12 R300; 17. Reset: 0. -/
  qcount   : Nat
  /-- Time the last quarantine ended. 12 R300. Reset: 0. -/
  qend     : Nat
  /-- HOLD in force: expiry time, or all ones for until further notice. 12 R304. Reset: none. -/
  holdUntil : Option Nat
  /-- Frames that wait for this output, oldest first, each with the index at which it arrived (R17). 12 R280, R304. Reset: none. -/
  queue    : List (Nat × Frame)
  /-- Frames sent whose link credits have not come back, oldest first: those the link layer has not acknowledged (log 32). 12 R268. Reset: none. -/
  unacked  : List (Nat × Frame)
  /-- Credits held for each lane at the next hop. 12 R278. Reset: 256 on lane 0, 4,096 on lanes 1-7. -/
  credits  : List Nat
  /-- Credits owed to the peer on each lane. 12 R278. Reset: 0. -/
  owed     : List Nat
  /-- Lane 0 credits withheld from the peer while the sync overflow is full. 12 R274. Reset: 0. -/
  withheld : Nat
  /-- Credits the peer still holds for each lane of this port's receive buffer. 12 R278, R282. Reset: 256, 4,096. -/
  room     : List Nat
  /-- Button over lanes 1-7. 12 R280. Reset: 0 (R69). -/
  laneBtn  : Nat
  /-- Button key of the output, 16·(source cell) + arrival index. 03 R71. Reset: 0. -/
  btnKey   : Nat
  /-- Discarded frames counted. 12 R271. Reset: 0. -/
  errors   : Nat
  /-- Times of frames that came without credits in the last 1 ms. 12 R282. Reset: none. -/
  noCredit : List Nat
  /-- Last PRESENCE received from the peer (its 32 bytes); none before one. 12 R286, R287. Reset: none. -/
  peer     : Option (BitVec 256)
  /-- Buffered PRESENCE frames before discovery is accepted, at most 64. 12 R302. Reset: empty. -/
  buffered : List Frame
  /-- Time of the last PRESENCE copy forwarded to (0, 0). 12 R287. Reset: none. -/
  fwdAt    : Option Nat
  /-- Earliest time of the next PRESENCE, from a HOLD's backoff hint. 12 Table 12-10. Reset: 0. -/
  beaconAt : Nat
  /-- Relay of JOIN frames for a newcomer at this port. 12 R288. Reset: false. -/
  relay    : Bool
  /-- Measured link delay, units of 1/2 ns, and the transmit time of the DELAY REQUEST out. 12 R297. Reset: 0, none. -/
  delay2   : Int
  reqAt    : Option Nat
  /-- Sequence numbers of TIME frames sent on the port, 16 bits each, by subtype. 12 Table 12-9. Reset: 0. -/
  timeSeq  : SMap Nat
  deriving DecidableEq, Repr

def laneRoom : List Nat := [256, 4096, 4096, 4096, 4096, 4096, 4096, 4096]

def Port.reset : Port :=
  { up := false, rate := 0, tryRate := 3, fails := 0, retrains := [], quarUntil := none, qcount := 0,
    qend := 0, holdUntil := none, queue := [], unacked := [], credits := laneRoom, owed := [0, 0, 0, 0, 0, 0, 0, 0],
    withheld := 0, room := laneRoom, laneBtn := 0, btnKey := 0, errors := 0, noCredit := [], peer := none, buffered := [], fwdAt := none,
    beaconAt := 0, relay := false, delay2 := 0, reqAt := none, timeSeq := [] }

/-- Fabric of one C-die. -/
structure Korif where
  /-- Twelve ports. 12 Table 12-1. Reset: Port.reset. -/
  ports    : SMap Port
  /-- Route table, 8,192 entries of 8 bits by 8·seat + cell. 12 R283. Reset: 0xFF (none). -/
  routes   : SMap (BitVec 8)
  /-- Sync overflow, 1,024 frames; frames beyond these wait in their ports' lane 0 buffers. 12 R274. Reset: empty. -/
  syncOvf  : List Frame
  /-- Last 256 lane 0 sequence numbers from each source cell. 12 R268. Reset: none. -/
  seen     : SMap (List (BitVec 16))
  /-- Lane 0 frames sent to each destination cell, modulo 65,536. 12 Table 12-2. Reset: 0. -/
  sent     : SMap Nat
  /-- End-to-end limits granted to this cell as sender of REDUCE parts, by sum tensor and destination. 12 R279. Reset: none. -/
  partLimit : SMap Nat
  /-- MAIL units the Manager may still send to this cell. 12 R279. Reset: 64. -/
  mailGrant : Nat
  /-- Times of header-check failures of this switch within the last second. 13 R306. Reset: none. -/
  hdrFails : List Nat
  /-- The switch is in doubt (under test). 13 R306. Reset: false. -/
  doubt    : Bool
  /-- The switch failed its test; its ports stay down. 13 R306. Reset: false. -/
  dead     : Bool
  deriving DecidableEq, Repr

def Korif.reset : Korif :=
  { ports := [], routes := [], syncOvf := [], seen := [], sent := [], partLimit := [], mailGrant := 64, hdrFails := [],
    doubt := false, dead := false }

/-! ## Errors, steps and power of a cell (13, 15) -/

/-- An error record (Table 13-6) without its sequence, which is its place in the ring. -/
structure ErrRec where
  seq    : BitVec 32
  cls    : Nat
  code   : Nat
  sev    : Nat
  cell   : Nat
  time   : Nat
  unit   : Nat
  tenant : Nat
  core   : Nat
  step   : BitVec 32
  reason : Nat
  obj    : BitVec 24
  detail : BitVec 32
  deriving DecidableEq, Repr

/-- Error record ring of a cell. -/
structure ErrRing where
  /-- Records in the ring, oldest first, at most 65,536. 13 R329. Reset: empty. -/
  recs : List ErrRec
  /-- ERR_PROD, 32 bits. 17 R416. Reset: 0. -/
  prod : BitVec 32
  /-- ERR_CONS, 32 bits. 17 R416. Reset: 0. -/
  cons : BitVec 32
  /-- ERR_LOST, 32 bits saturating. 13 R329. Reset: 0. -/
  lost : BitVec 32
  /-- FATAL, 1 bit: an unacknowledged severity 3 record. 17 R416. Reset: 0. -/
  fatal : Bool
  /-- Register offsets whose discarded write was recorded, with the time (one a second). 17 R401. Reset: none. -/
  lastCmd : SMap Nat
  deriving DecidableEq, Repr

def ErrRing.reset : ErrRing := { recs := [], prod := 0, cons := 0, lost := 0, fatal := false, lastCmd := [] }

/-- A void cause of the step in progress (R9): Table 0-5 code, the tenant it touches (0xFF every tenant), and the
request entry where it touches one alone. -/
structure Cause where
  code   : Nat
  tenant : Nat
  entry  : Option Nat
  deriving DecidableEq, Repr

/-- Cell power states (Table 15-3). -/
inductive PState where
  | c0 | c1 | c2 | c3 | c4
  deriving DecidableEq, Repr

/-- Step of a cell. -/
structure StepState where
  /-- STEP, 64 bits. 17 Table 17-3. Reset: 0. -/
  number  : Nat
  /-- A step is in progress. 03 R64. Reset: false. -/
  running : Bool
  /-- Device time at which the step began, τ(n). 08 R177. Reset: 0. -/
  began   : Nat
  /-- Void causes found in the step. 00 R9. Reset: none. -/
  causes  : List Cause
  /-- Causes that VOID frames named for a step not yet begun, by the low 32 bits of its number. 12 R275. Reset: none. -/
  later   : List (Nat × Cause)
  /-- The watchdog has stopped the step's threads. 03 R68. Reset: false. -/
  stopped : Bool
  /-- Seats, cells, tenants and tensors that received TILE frames of the step. 13 R315. Reset: none. -/
  sentTo  : List (Nat × Nat × Nat × BitVec 24)
  /-- The host paths were lost during the step. 01 R20; 14 R335. Reset: false. -/
  hostLost : Bool
  deriving DecidableEq, Repr

/-- The step is over: its number rises (R65), and what belonged to it is gone. -/
def StepState.over (x : StepState) : StepState :=
  { x with number := x.number + 1, running := false, causes := [], stopped := false, sentTo := [], hostLost := false }

def StepState.reset : StepState :=
  { number := 0, running := false, began := 0, causes := [], later := [], stopped := false, sentTo := [], hostLost := false }

/-- Power of a cell. -/
structure CellPower where
  /-- POWER_STATE. 15 Table 15-3; 17. Reset: 0 (C0) in the register; an uninitialised cell draws nothing. -/
  state   : PState
  /-- Waking toward C0. 15 R363. Reset: false. -/
  waking  : Bool
  /-- SHARE S_c, W, 12 bits. 15 R353; 17. Reset: 0. -/
  share   : Nat
  /-- Share computed by the coordinator, taken at the cell's next step boundary, W. 15 R353. Reset: 0. -/
  target  : Nat
  /-- Thermal ceiling, W; none while no thermal action is in force. 15 R357. Reset: none. -/
  ceiling : Option Nat
  /-- Share frozen at the loss of the host anchor. 01 R20. Reset: none. -/
  frozen  : Option Nat
  /-- TEMP, °C, 8 bits. 17. Reset: 0. -/
  temp    : Nat
  /-- HOT_DIE, 8 bits. 17. Reset: 0. -/
  hotDie  : Nat
  /-- 103 °C reached and not yet below 100 °C: no new step. 15 R357. Reset: false. -/
  tooHot  : Bool
  deriving DecidableEq, Repr

def CellPower.reset : CellPower :=
  { state := .c0, waking := false, share := 0, target := 0, ceiling := none, frozen := none, temp := 0, hotDie := 0,
    tooHot := false }

/-- Binding register of one channel (Table 17-3): VALID, LOCKED, the two identities. -/
structure BindReg where
  valid  : Bool
  locked : Bool
  idA    : BitVec 8
  idB    : BitVec 8
  deriving DecidableEq, Repr

def BindReg.reset : BindReg := { valid := false, locked := false, idA := 0, idB := 0 }

/-- Tests asked of a cell (R320): the source to answer, the units still to be tested, and whether one failed. -/
structure TestRun where
  src    : Source
  e      : Entry
  cores  : List Nat
  switch : Bool
  udie   : Bool
  failed : Bool
  deriving DecidableEq, Repr

/-- Words of a WRITE entry waiting for the cell's next step boundary (Table 14-7). -/
structure PendWrite where
  src : Source
  e   : Entry
  deriving DecidableEq, Repr

/-- One cell. -/
structure Cell where
  /-- INITIALISED. 15 R364; 17. Reset: 0. -/
  init     : Bool
  /-- Not initialised by 2 s: stays in C4. 15 R366. Reset: false. -/
  absent   : Bool
  /-- Identity key present (PUF corrected and certificate matching). 16 R383. Reset: DESIGN CHOICE true (log 8). -/
  keyOk    : Bool
  /-- RESTARTING: a restart waits (some drain) or runs. 15 R373; 17 R412. Reset: 0. -/
  restart  : Option Bool
  /-- Clock offset of the cell's device time from local time, ns. 12 R297; 14 R333. Reset: 0. -/
  toff     : Int
  /-- Offset still to be slewed away, ns. 12 R298. Reset: 0. -/
  slew     : Int
  /-- ALIGNED and the count of SYNC intervals within ±40 ns. 12 R298. Reset: false, 0. -/
  aligned  : Bool
  inTol    : Nat
  fig      : FigState
  /-- Tenants 0-63. 02 Table 2-6. Reset: TenantRun.reset. -/
  runs     : SMap TenantRun
  /-- Cores 0-127. 01 R22. Reset: Core.reset. -/
  cores    : SMap Core
  tiers    : Tiers
  gen      : Gen
  /-- Learning runs by tenant. 09 R208. Reset: LearnRun.reset. -/
  learn    : SMap LearnRun
  /-- Nodes of reductions in progress, and roots of tiles not yet whole. 09 R204, R205. Reset: none. -/
  nodes    : List RedNode
  /-- Button of the cell supervisor's command queue over master identities. 03 R70. Reset: 0. -/
  cmdBtn   : Nat
  /-- Tiles of sum tensors written in the tenant's step, as (tenant, identifier, sequence). 09 R205, R208. Reset: none. -/
  sums     : List (Nat × BitVec 24 × Nat)
  /-- Parts REDUCE holds at this sender beyond its granted limit. 09 R205; 12 R279. Reset: none. -/
  partWait : List Write
  ud       : UDie
  /-- Versions by tenant. 11 R252. Reset: Versions.reset. -/
  vers     : SMap Versions
  /-- FETCHes in progress. 11 R262. Reset: none. -/
  fetches  : List FetchRun
  korif    : Korif
  err      : ErrRing
  step     : StepState
  power    : CellPower
  /-- Binding registers of channels 8n + k. 02 R47. Reset: unbound, unlocked. -/
  binds    : SMap BindReg
  /-- WRITE entries for the next step boundary. 14 Table 14-7. Reset: none. -/
  writes   : List PendWrite
  /-- Field tests in progress. 13 R320. Reset: none. -/
  tests    : List TestRun
  /-- ZERO_VAR, 32 bits saturating. 06 R121. Reset: 0. -/
  zeroVar  : BitVec 32
  /-- ROUTE_OVF, 32 bits saturating. 06 R126. Reset: 0. -/
  routeOvf : BitVec 32
  /-- DCORE, 7 bits. 17 R413. Reset: 0. -/
  dcore    : Nat
  /-- STOPPED_CORE, 7 bits. 17 R413. Reset: 0. -/
  stopCore : Nat
  /-- DSTATE, 2 bits. 17 R413. Reset: 0. -/
  dstate   : Nat
  /-- Core asked to stop for debugging and whether it has stopped. 05 R108; 17 R413. Reset: none. -/
  debugStop : Option (Nat × Bool)
  /-- Image switch to the staged firmware bundle due at the next step boundary. 15 R379. Reset: false. -/
  fwDue    : Bool
  deriving DecidableEq, Repr

/-- A cell after a module reset (R403: every register at its reset value; R373: the tiers lose their contents). -/
def Cell.reset : Cell :=
  { init := false, absent := false, keyOk := true, restart := none, toff := 0, slew := 0, aligned := false, inTol := 0,
    fig := FigState.reset, runs := [], cores := [], tiers := Tiers.reset, gen := Gen.reset, learn := [], nodes := [], cmdBtn := 0, sums := [],
    partWait := [], ud := UDie.reset, vers := [], fetches := [], korif := Korif.reset, err := ErrRing.reset,
    step := StepState.reset, power := CellPower.reset, binds := [], writes := [], tests := [], zeroVar := 0,
    routeOvf := 0, dcore := 0, stopCore := 0, dstate := 0, debugStop := none, fwDue := false }

/-! ## Mailboxes and host functions (14) -/

/-- One direction of a mailbox channel. -/
structure ChanDir where
  /-- Queue of 16 words of 32 bits. 14 R344. Reset: empty. -/
  queue : List (BitVec 32)
  /-- Pending doorbell event toward the receiver. 14 R346. Reset: 0. -/
  pend  : Bool
  /-- SEND_OVF. 14 Table 14-9. Reset: 0. -/
  ovf   : Bool
  /-- RECV_UNDER. 14 Table 14-9. Reset: 0. -/
  under : Bool
  /-- COALESCED, 32 bits saturating. 14 Table 14-9. Reset: 0. -/
  coal  : BitVec 32
  /-- DROPPED, 32 bits saturating. 14 Table 14-9. Reset: 0. -/
  drop  : BitVec 32
  /-- Status words that wait for room in this direction. 14 R347. Reset: none. -/
  waits : List (BitVec 32)
  deriving DecidableEq, Repr

def ChanDir.reset : ChanDir :=
  { queue := [], pend := false, ovf := false, under := false, coal := 0, drop := 0, waits := [] }

/-- A mailbox channel: the directions A to B and B to A, and the time of its last COMMAND record for a stranger's
access (R344). -/
structure Chan where
  ab      : ChanDir
  ba      : ChanDir
  lastRec : Option Nat
  deriving DecidableEq, Repr

def Chan.reset : Chan := { ab := ChanDir.reset, ba := ChanDir.reset, lastRec := none }

/-- A submission ring (Table 14-5). -/
structure SubRing where
  /-- SQ_BASE, 64 bits. 14 Table 14-5. Reset: 0. -/
  base    : BitVec 64
  /-- SQ_EN. 14 R338. Reset: 0. -/
  en      : Bool
  /-- SQ_SIZE, 17 bits. 14 Table 14-5. Reset: 0. -/
  size    : Nat
  /-- SQ_TAIL, 16 bits. 14 R339. Reset: 0. -/
  tail    : Nat
  /-- SQ_HEAD, 16 bits. 14 R339. Reset: 0. -/
  head    : Nat
  /-- BADTAIL. 14 R339. Reset: 0. -/
  badTail : Bool
  deriving DecidableEq, Repr

def SubRing.reset : SubRing := { base := 0, en := false, size := 0, tail := 0, head := 0, badTail := false }

/-- A record that waits for its completion ring (R341, R342): its slots of 32 bytes (the record, then report
entries), whether it is a STATUS record (counted in the queue of 256), and the entry that stays in ENDING until it
is written (cell, index). -/
structure QRec where
  slots  : List (BitVec 256)
  status : Bool
  entry  : Option (Nat × Nat)
  learn  : Option Nat
  deriving DecidableEq, Repr

/-- Ring registers of a host function (Table 14-5). -/
structure HostFn where
  /-- CQ_BASE, 64 bits. 14 Table 14-5. Reset: 0. -/
  cqBase  : BitVec 64
  /-- CQ_EN. 14 R338. Reset: 0. -/
  cqEn    : Bool
  /-- CQ_SIZE, 17 bits. 14. Reset: 0. -/
  cqSize  : Nat
  /-- CQ_HEAD, 16 bits. 14. Reset: 0. -/
  cqHead  : Nat
  /-- CQ_TAIL, 16 bits. 14. Reset: 0. -/
  cqTail  : Nat
  /-- CQ_SHADOW, 64 bits. 14. Reset: 0. -/
  shadow  : BitVec 64
  /-- RINGERR. 14 R339. Reset: 0. -/
  ringErr : Bool
  /-- Submission rings 0-7. 14 R338. Reset: SubRing.reset. -/
  sq      : SMap SubRing
  /-- Records that wait, oldest first. 14 R341, R342. Reset: none. -/
  recs    : List QRec
  /-- MSI-X table, 32-bit words by index. 14 Table 14-5. Reset: 0. -/
  msix    : SMap (BitVec 32)
  /-- MSI-X pending bits. 14 Table 14-5. Reset: 0. -/
  pba     : BitVec 4
  /-- FLR in progress. 14 R336. Reset: false. -/
  flr     : Bool
  /-- Time of the function's last COMMAND record for bad accesses, and for dropped records. 14 R337, R341. Reset: none. -/
  lastBad : Option Nat
  lastDrop : Option Nat
  deriving DecidableEq, Repr

def HostFn.reset : HostFn :=
  { cqBase := 0, cqEn := false, cqSize := 0, cqHead := 0, cqTail := 0, shadow := 0, ringErr := false, sq := [],
    recs := [], msix := [], pba := 0, flr := false, lastBad := none, lastDrop := none }

/-- Host port and anchor registers. -/
structure HostPort where
  /-- Link trained. 14 R334. Reset: false. -/
  linkUp   : Bool
  /-- Configuration space live. 14 R334. Reset: false. -/
  cfgLive  : Bool
  /-- PF in D3hot. 14 R335. Reset: false (D0). -/
  d3hot    : Bool
  /-- Host paths lost since a link event, until rings are enabled again. 14 R335. Reset: false. -/
  pathLost : Bool
  /-- VF Enable and NumVFs: VFs 1..n enabled. 14 R336. Reset: DESIGN CHOICE all 63 (log 21). -/
  vfs      : Nat
  /-- A host DMA is stopped (DMA_STOP). 13 R305; 17. Reset: 0. -/
  dmaStop  : Bool
  /-- FIG_COND, 64 bits. 17. Reset: 0. -/
  figCond  : BitVec 64
  /-- LOAD_LEN, 25 bits. 17. Reset: 0. -/
  loadLen  : Nat
  /-- FIG_DROP. 17. Reset: 0. -/
  figDrop  : Bool
  /-- Figure load window, 16 MiB in 4 KiB blocks. 02 R42; 17 R405. Reset: DESIGN CHOICE zero (log 14). -/
  window   : SMap Payload
  /-- Key record window, 8 KiB in 4 KiB blocks. 17 R407. Reset: 0. -/
  keyWin   : SMap Payload
  /-- KEY_BUSY. 17. Reset: 0. -/
  keyBusy  : Bool
  /-- KEY_STATUS, 8 bits. 17. Reset: 0. -/
  keyStatus : Nat
  /-- BAR2_BASE, 7 bits. 17 R409. Reset: 0. -/
  bar2     : BitVec 7
  /-- Held low words of 64-bit registers, by offset. 17 R402. Reset: none. -/
  lowHeld  : SMap (Option (BitVec 32))
  /-- Latched high words of 64-bit reads, by offset. 17 R402. Reset: none. -/
  highHeld : SMap (Option (BitVec 32))
  /-- ANSWER_TIMEOUT, 16 bits by tenant, ms. 17. Reset: 100. -/
  ansTime  : SMap Nat
  /-- PTM has set the device time once. 14 R333. Reset: false. -/
  ptmSet   : Bool
  /-- Button over (identity, cell) keys of the rings ready to fetch. 14 R339. Reset: 0. -/
  fetchKey : Nat
  deriving DecidableEq, Repr

def HostPort.reset : HostPort :=
  { linkUp := false, cfgLive := false, d3hot := false, pathLost := false, vfs := 63, dmaStop := false, figCond := 0,
    loadLen := 0, figDrop := false, window := [], keyWin := [], keyBusy := false, keyStatus := 0, bar2 := 0,
    lowHeld := [], highHeld := [], ansTime := [], ptmSet := false, fetchKey := 0 }

/-! ## Flash, firmware, security, table (15, 16, 12) -/

/-- An enrolled owner key (Table 16-2). -/
structure OwnerKey where
  perms : BitVec 16
  alg   : Nat
  keyId : BitVec 64
  pub   : List Byte
  deriving DecidableEq, Repr

/-- A firmware bundle: its bytes, security version, LOCKSTEP mark and digest. -/
structure Bundle where
  bytes    : List Byte
  secver   : Nat
  lockstep : Bool
  digest   : BitVec 256
  deriving DecidableEq, Repr

/-- Sectors of the store that is first in order: an erase has not begun, runs in slices, or is marked in the journal (Table 15-5). -/
inductive Sectors where
  | written
  | erasing
  | erased
  deriving DecidableEq, Repr

/-- A store toward the flash, in order (R376): what its commit makes true. -/
inductive Store where
  | figFloor (v : BitVec 32)
  | ruleFloor (v : BitVec 32)
  | enrolment (slot : Nat) (key : Option OwnerKey) (seq : BitVec 32)
  | persistSet (cell : Nat) (blob : Option (Nat × SMap Payload))
  | fwCommit (slot : Nat) (floor : Nat)
  | fwBundle (slot : Nat) (b : Bundle)
  | permFence (cell core : Nat)
  | chain (root : BitVec 64) (bytes : List Byte)
  deriving DecidableEq, Repr

/-- The board flash as far as the module reads it. -/
structure Flash where
  /-- Figure floor, 32 bits. 16 R390. Reset: Journal; DESIGN CHOICE 0 (log 7). -/
  figFloor : BitVec 32
  /-- Rule floor, 32 bits. 16 R390. Reset: Journal; DESIGN CHOICE 0 (log 7). -/
  ruleFloor : BitVec 32
  /-- Firmware floor, 32 bits. 16 R390. Reset: Journal; DESIGN CHOICE 0 (log 7). -/
  fwFloor  : BitVec 32
  /-- Enrolment floor, 32 bits. 16 R390. Reset: Journal; DESIGN CHOICE 0 (log 7). -/
  enrFloor : BitVec 32
  /-- Journal commit sequence, 64 bits. 16 R390. Reset: Journal; DESIGN CHOICE 0 (log 7). -/
  commits  : BitVec 64
  /-- Owner keys by slot 0-15. 16 R385. Reset: Journal; DESIGN CHOICE none (log 7). -/
  keys     : SMap (Option OwnerKey)
  /-- Start figure of each cell: its length and bytes. 15 R367. Reset: Journal; DESIGN CHOICE none (log 7). -/
  starts   : SMap (Option (Nat × SMap Payload))
  /-- Permanently fenced cores, 128·cell + core. 13 R318. Reset: Journal; DESIGN CHOICE none (log 7). -/
  fences   : List Nat
  /-- Bundle slots A, B. 15 R378. Reset: DESIGN CHOICE none written (log 7). -/
  bundles  : SMap (Option Bundle)
  /-- Active bundle slot: 0 A, 1 B. 15 R378; 17 RUNNING. Reset: Journal; DESIGN CHOICE 0 (log 7). -/
  active   : Nat
  /-- Owner chain of SPDM slot 1: root key identifier and bytes. 16 R392. Reset: DESIGN CHOICE none (log 7). -/
  chain1   : Option (BitVec 64 × List Byte)
  /-- Hold-up capacitance of the board descriptor, µF. 15 R375. Reset: DESIGN CHOICE 0, none stated (log 7). -/
  holdUp   : Nat
  /-- Power limit of the board descriptor, W, 0 for none. 15 R350. Reset: DESIGN CHOICE 0 (log 7). -/
  descLimit : Nat
  /-- Stores accepted and not started, in order (deferred content waits here). 15 R376. Reset: none. -/
  queue    : List Store
  /-- The store whose flash operation is in progress. 15 R375. Reset: none. -/
  busy     : Option Store
  /-- A deferral has begun and been recorded. 15 R376. Reset: false. -/
  deferred : Bool
  /-- Sectors of the first store in order. 15 R375, R377. Reset: written. -/
  sectors  : Sectors
  deriving DecidableEq, Repr

def Flash.reset : Flash :=
  { figFloor := 0, ruleFloor := 0, fwFloor := 0, enrFloor := 0, commits := 0, keys := [], starts := [], fences := [],
    bundles := [], active := 0, chain1 := none, holdUp := 0, descLimit := 0, queue := [], busy := none,
    deferred := false, sectors := .written }

/-- Firmware update. -/
structure Firmware where
  /-- FW_SRC, 64 bits. 17. Reset: 0. -/
  src     : BitVec 64
  /-- FW_LEN, 26 bits. 17. Reset: 0. -/
  len     : Nat
  /-- FW_T, 64 bits. 17. Reset: 0. -/
  time    : BitVec 64
  /-- FW_BUSY. 17 R406. Reset: 0. -/
  busy    : Bool
  /-- FW_STATUS, 8 bits. 17. Reset: 0. -/
  status  : Nat
  /-- FW_LAST, 8 bits. 17. Reset: 0. -/
  last    : Nat
  /-- A PLDM update holds FW_BUSY. 17 R406. Reset: false. -/
  pldm    : Bool
  /-- The staged bundle (STAGED). 15 R378. Reset: none. -/
  staged  : Option Bundle
  /-- SWITCHED. 17. Reset: 0. -/
  switched : Bool
  /-- Slot whose bundle runs: 0 A, 1 B (RUNNING). 17. Reset: Journal; 0 (log 7). -/
  running : Nat
  /-- Device time T that the last SWITCH took for a LOCKSTEP bundle, 64 bits. 15 R379. Reset: 0. -/
  switchT : Nat
  /-- The former bundle, kept for REVERT. 15 R380. Reset: none. -/
  former  : Option Bundle
  /-- The bundle the module supervisor runs. 15 R379. Reset: none named. -/
  current : Option Bundle
  deriving DecidableEq, Repr

def Firmware.reset : Firmware :=
  { src := 0, len := 0, time := 0, busy := false, status := 0, last := 0, pldm := false, staged := none,
    switched := false, running := 0, switchT := 0, former := none, current := none }

/-- Seat and table. -/
structure Seating where
  /-- TABLE_ID, 64 bits. 12 R285; 17 R408. Reset: 0. -/
  tableId  : BitVec 64
  /-- MANAGER. 17 R408. Reset: 0. -/
  manager  : Bool
  /-- SEATED. 17. Reset: 0. -/
  seated   : Bool
  /-- ORPHANED. 12 R293. Reset: 0. -/
  orphaned : Bool
  /-- SEAT, 10 bits. 17. Reset: 0. -/
  seat     : Nat
  /-- TABLE_LEVEL, 8 bits. 17. Reset: 3. -/
  level    : Nat
  /-- New table level waiting for each cell's next step boundary. 12 R289. Reset: none. -/
  newLevel : Option Nat
  /-- Local time of the last heartbeat from seat 0. 12 R293. Reset: 0. -/
  lastBeat : Nat
  /-- Departed seats. 12 R292. Reset: none. -/
  departed : List Nat
  deriving DecidableEq, Repr

def Seating.reset : Seating :=
  { tableId := 0, manager := false, seated := false, orphaned := false, seat := 0, level := 3, newLevel := none,
    lastBeat := 0, departed := [] }

/-- A shared tensor of the module (R161): identifier and manifest digest, the holder cell, the reference count, and
the source of its last FETCH for re-fetches (R325). -/
structure Shared where
  ident  : BitVec 24
  digest : BitVec 256
  holder : Nat
  refs   : Nat
  origin : Option Entry
  deriving DecidableEq, Repr

/-- A verified weight manifest in the manifest store (R388): digest, weight version, and its entries (layer, kind,
byte length, shard digest), least recently used first in the store. -/
structure Manifest where
  digest  : BitVec 256
  ver     : BitVec 16
  entries : List (Nat × Nat × Nat × BitVec 256)
  deriving DecidableEq, Repr

/-- An SPDM connection in progress (R392): its path, whether version, capabilities and algorithms were negotiated,
whether a session is open, and the chunks received of a long message. -/
structure Spdm where
  path    : Nat
  phase   : Nat
  session : Bool
  mutualA : Bool
  chunks  : List Byte
  reply   : List Byte
  deriving DecidableEq, Repr

/-- Power supply and sideband. -/
structure Supply where
  /-- PWR_GOOD as taken by the filter. 15 R368. Reset: DESIGN CHOICE low (log 6). -/
  pwrGood  : Bool
  /-- PWR_FAIL_N level. 15 R369. Reset: DESIGN CHOICE high (log 6). -/
  pwrFailN : Bool
  /-- HALT_N as taken. 15 R371. Reset: DESIGN CHOICE high (log 6). -/
  haltN    : Bool
  /-- PERST_N as taken. 15 R372. Reset: DESIGN CHOICE high (log 6). -/
  perstN   : Bool
  /-- AOCLK present. 15 R359. Reset: DESIGN CHOICE present (log 6). -/
  aoclk    : Bool
  /-- REFCLK present. 15 R359. Reset: DESIGN CHOICE present (log 6). -/
  refclk   : Bool
  /-- VIN, mV, 16 bits. 15 R349; 17. Reset: DESIGN CHOICE 42,000 (log 6). -/
  vin      : Nat
  /-- Lowest VIN of the last 10 ms, mV. 15 R375. Reset: DESIGN CHOICE 42,000 (log 6). -/
  vinLow   : Nat
  /-- Converters held off below V_UVLO. 15 R349. Reset: false. -/
  uvlo     : Bool
  /-- PWR_FAIL_N counts as asserted. 15 R369. Reset: false. -/
  failing  : Bool
  /-- Local time of the last PWR_FAIL_N edge or VIN excursion. 15 R369. Reset: 0. -/
  lastEdge : Nat
  /-- IIN, 10 mA units, 16 bits. 17. Reset: 0. -/
  iin      : Nat
  /-- INPUT_POWER, W, 16 bits. 17. Reset: 0. -/
  inPower  : Nat
  /-- POWER_LIMIT L, W. 15 R350. Reset: descriptor, or 1,200. -/
  limit    : Nat
  /-- LIMIT_IN_FORCE, 64 bits. 15 R356; 17. Reset: 0. -/
  inForce  : Nat
  deriving DecidableEq, Repr

def Supply.reset : Supply :=
  { pwrGood := false, pwrFailN := true, haltN := true, perstN := true, aoclk := true, refclk := true, vin := 42000,
    vinLow := 42000, uvlo := false, failing := false, lastEdge := 0, iin := 0, inPower := 0, limit := 1200,
    inForce := 0 }

/-- Start-up progress (Table 15-4) and module-wide conditions. -/
structure Boot where
  /-- Local time of PWR_GOOD or of the reset's release, from which Table 15-4 counts. 15 R364. Reset: 0. -/
  base      : Nat
  /-- Always-on islands out of reset. 15 Table 15-4; 18 R420. Reset: false. -/
  islands   : Bool
  /-- The module supervisor runs verified firmware. 15 Table 15-4. Reset: false. -/
  running   : Bool
  /-- Recovery. 15 R365. Reset: false. -/
  recovery  : Bool
  /-- Korif discovery accepted. 12 R302. Reset: false. -/
  discovery : Bool
  /-- The Safe state. 13 R326. Reset: false. -/
  safe      : Bool
  /-- The host anchor is lost. 01 R20. Reset: false. -/
  anchorLost : Bool
  /-- I3C_ADDR strap, 7 bits. 18 R423; 17. Reset: Strap; DESIGN CHOICE 0 until sampled (log 8). -/
  i3cAddr   : BitVec 7
  /-- FLASH_LAYOUT strap, 4 bits. 18 R423. Reset: Strap; DESIGN CHOICE 0 until sampled (log 8). -/
  layout    : BitVec 4
  /-- BOARD_ID strap, 4 bits. 18 R423. Reset: Strap; DESIGN CHOICE 0 until sampled (log 8). -/
  boardId   : BitVec 4
  deriving DecidableEq, Repr

def Boot.reset : Boot :=
  { base := 0, islands := false, running := false, recovery := false, discovery := false, safe := false,
    anchorLost := false, i3cAddr := 0, layout := 0, boardId := 0 }

/-- Management transports (16). -/
structure Mgmt where
  /-- I3C dynamic address, 7 bits. 16 R396. Reset: none. -/
  i3cDyn  : Option (BitVec 7)
  /-- MCTP endpoint identifiers: over I3C, over PCI Express. 16 R395. Reset: none assigned (0). -/
  eidI3c  : BitVec 8
  eidPcie : BitVec 8
  /-- SPDM connections in progress, at most 4. 16 R392. Reset: none. -/
  spdm    : List Spdm
  /-- Times of the PLDM event messages of the last second, at most 100. 16 R399. Reset: none. -/
  events  : List Nat
  /-- Times of the error units sent to the Manager in the last second, by cell. 13 R329. Reset: none. -/
  mails   : SMap (List Nat)
  /-- Identity cache, 1,024 entries: key identifier and public key. 16 R389. Reset: empty. -/
  idCache : List (BitVec 64 × List Byte)
  /-- Manifest store, 64 entries, least recently used first. 16 R388. Reset: empty. -/
  store   : List Manifest
  deriving DecidableEq, Repr

def Mgmt.reset : Mgmt :=
  { i3cDyn := none, eidI3c := 0, eidPcie := 0, spdm := [], events := [], mails := [], idCache := [], store := [] }

/-- What leaves the module, in order (log 4). -/
inductive Emit where
  | frame (cell port : Nat) (f : Frame)
  | hostWrite (addr : Nat) (n : Nat) (data : Nat)
  | msix (fn vector : Nat)
  | ibi (chan : Nat)
  | readData (who : Nat) (value : Nat)
  | mctp (who : Nat) (bytes : List Nat)
  | spdm (path : Nat) (code : Nat) (bytes : List Nat)
  | event (bytes : List Nat)
  | internalError
  deriving DecidableEq, Repr

/-- The whole module. -/
structure State where
  /-- Commands that wait, first in, first out. The model's own. Reset: empty. -/
  pending : List Instr
  /-- Local time, ns, from which every cell's device time is reckoned. 00 R6; 15 R359. Reset: 0. -/
  now     : Nat
  /-- Counter of free values taken. The model's own. Reset: DESIGN CHOICE 0 (log 9). -/
  free    : Nat
  supply  : Supply
  boot    : Boot
  flash   : Flash
  fw      : Firmware
  host    : HostPort
  /-- Host functions: 0 the PF, 1-63 the VFs. 14 R338. Reset: HostFn.reset. -/
  fns     : SMap HostFn
  seating : Seating
  /-- Cells 0-7. 01 R12. Reset: Cell.reset. -/
  cells   : SMap Cell
  /-- Mailbox channels 0-63. 14 R344. Reset: Chan.reset. -/
  chans   : SMap Chan
  /-- Sync messages in flight. 01 R26. Reset: none. -/
  net     : List SyncMsg
  /-- Sync messages held at the sending side for a full pending buffer. 03 R66. Reset: none. -/
  netHeld : List SyncMsg
  /-- Failed sync wires, as pairs of cells. 01 R27. Reset: none. -/
  badWires : List (Nat × Nat)
  /-- Shared tensors of the module. 07 R161. Reset: none. -/
  shared  : List Shared
  /-- Coordination of learning steps by tenant. 09 R207. Reset: Coord.reset. -/
  coords  : SMap Coord
  mgmt    : Mgmt
  /-- Outputs in the order they left. The model's own (log 4). Reset: none. -/
  out     : List Emit
  deriving DecidableEq, Repr

/-- The machine right after reset: every register at its reset value, tables with nothing listed, the module held in
reset by a low PWR_GOOD (R370; log 6). -/
def State.reset : State :=
  { pending := [], now := 0, free := 0, supply := Supply.reset, boot := Boot.reset, flash := Flash.reset,
    fw := Firmware.reset, host := HostPort.reset, fns := [], seating := Seating.reset, cells := [], chans := [],
    net := [], netHeld := [], badWires := [], shared := [], coords := [], mgmt := Mgmt.reset, out := [] }

end Sys2Proof.Machine
end

