-- ==== Sys2Proof/Machine/Bits.lean ====
section
/-!
DEFINITION. Bytes and fields: little-endian structures (R3), CRC-32C (R141) and SHA3-256 (R38, R381); and lists put in order.
-/

namespace Sys2Proof.Machine

/-- `x` put before the first entry of an ordered list that it may precede. -/
def putInOrder {α : Type} (le : α → α → Bool) (x : α) : List α → List α
  | [] => [x]
  | y :: r => if le x y then x :: y :: r else y :: putInOrder le x r

/-- A list in order; entries of equal rank keep their places. -/
def inOrder {α : Type} (le : α → α → Bool) (l : List α) : List α := l.foldr (putInOrder le) []

/-- The `n` low bytes of `v`, lowest first (R3). -/
def bytesOf : Nat → Nat → List Byte
  | 0, _ => []
  | n + 1, v => BitVec.ofNat 8 v :: bytesOf n (v / 256)

/-- The number whose bytes, lowest first, are the list (R3). -/
def ofBytes (l : List Byte) : Nat := l.foldr (fun b acc => b.toNat + 256 * acc) 0

/-- Bits `[off + n − 1 : off]` of a number (R3). -/
def bits (v off n : Nat) : Nat := (v >>> off) % 2 ^ n

/-- Bit `off` of a number. -/
def bit (v off : Nat) : Bool := v.testBit off

/-- `n` bytes of a number from byte `off` on, as a number (R3). -/
def fld (v off n : Nat) : Nat := bits v (8 * off) (8 * n)

/-- A structure of fields laid from byte 0 on, given as (size in bytes, value) in order (R3). -/
def pack : List (Nat × Nat) → Nat
  | [] => 0
  | (n, v) :: r => v % 2 ^ (8 * n) + 2 ^ (8 * n) * pack r

/-- Two's complement value of the low `n` bits. -/
def sval (n v : Nat) : Int := if v % 2 ^ n < 2 ^ (n - 1) then (v % 2 ^ n : Nat) else (v % 2 ^ n : Nat) - (2 ^ n : Nat)

/-- A 32-bit counter that stays at 0xFFFF_FFFF (17, under Table 17-3). -/
def satAdd (c : BitVec 32) (n : Nat) : BitVec 32 := BitVec.ofNat 32 (min (c.toNat + n) 0xFFFFFFFF)

/-! ## CRC-32C (R141) -/

/-- One byte into the running CRC-32C, reflected polynomial 0x82F6_3B78. -/
def crcByte (c : BitVec 32) (b : Byte) : BitVec 32 :=
  let stepBit (x : BitVec 32) : BitVec 32 := if x.getLsbD 0 then (x >>> 1) ^^^ 0x82F63B78#32 else x >>> 1
  stepBit (stepBit (stepBit (stepBit (stepBit (stepBit (stepBit (stepBit (c ^^^ b.setWidth 32))))))))

/-- The running CRC-32C over a byte sequence. Each running value is told apart as zero or not, which changes nothing of it, so that an
evaluation brings it to a numeral before the next byte. -/
def crcOver : List Byte → Nat → Nat
  | [], c => c
  | b :: l, c =>
    match (crcByte (BitVec.ofNat 32 c) b).toNat with
    | 0 => crcOver l 0
    | n + 1 => crcOver l (n + 1)

/-- CRC-32C of a byte sequence: start value and final inversion all ones (R141). -/
def crc32c (l : List Byte) : BitVec 32 := ~~~ (BitVec.ofNat 32 (crcOver l 0xFFFFFFFF))

/-- Check value of a tile payload (R141). -/
def payloadCrc (p : Payload) : BitVec 32 := crc32c (bytesOf 4096 p.toNat)

/-! ## SHA3-256 (R38; the sponge of FIPS 202) -/

/-- The sponge's constants come out of an eight-bit feedback register: `n` steps of it from `r`, each giving its lowest bit. -/
def spongeBits : Nat → Nat → List Bool
  | 0, _ => []
  | n + 1, r => decide (r % 2 = 1) :: spongeBits n (if r < 128 then 2 * r else (2 * r) ^^^ 0x171)

/-- What round `i` adds to lane 0: seven bits of the register, at places 2ʲ − 1. -/
def spongeConst (i : Nat) : BitVec 64 :=
  (((spongeBits (7 * i + 7) 1).drop (7 * i)).zipIdx).foldl (fun v q => if q.1 then v ||| (1#64 <<< (2 ^ q.2 - 1)) else v) 0

/-- Each column's parity goes into its two neighbours. -/
def mixColumns (a : List (BitVec 64)) : List (BitVec 64) :=
  let parity (x : Nat) : BitVec 64 := ((List.range 5).map (fun y => a.getD (5 * y + x % 5) 0)).foldl (· ^^^ ·) 0
  (a.zipIdx).map (fun q => q.1 ^^^ parity (q.2 + 4) ^^^ (parity (q.2 + 1)).rotateLeft 1)

/-- The 24 lanes beside lane 0 move along one closed walk, from (x, y) to (y, 2x + 3y); the `t`-th move turns its lane by
(t + 1)(t + 2)/2. `m` moves are left, and the next one starts at (x, y). -/
def moveLanes (a : List (BitVec 64)) : Nat → Nat → Nat → Nat → List (BitVec 64) → List (BitVec 64)
  | 0, _, _, _, r => r
  | m + 1, t, x, y, r =>
    let z := (2 * x + 3 * y) % 5
    moveLanes a m (t + 1) y z (r.set (5 * z + y) ((a.getD (5 * y + x) 0).rotateLeft ((t + 1) * (t + 2) / 2 % 64)))

/-- Every lane takes up the one two to its right where the one between is clear. -/
def mixRows (a : List (BitVec 64)) : List (BitVec 64) :=
  (a.zipIdx).map (fun q =>
    let right (n : Nat) : BitVec 64 := a.getD (q.2 - q.2 % 5 + (q.2 + n) % 5) 0
    q.1 ^^^ (right 2 &&& ~~~ (right 1)))

/-- One round of the permutation. -/
def spongeRound (a : List (BitVec 64)) (i : Nat) : List (BitVec 64) :=
  let m := mixColumns a
  let l := mixRows (moveLanes m 24 0 1 0 m)
  l.set 0 (l.getD 0 0 ^^^ spongeConst i)

/-- The permutation of 25 lanes, lane (x, y) being number 5y + x: 24 rounds. -/
def permute (a : List (BitVec 64)) : List (BitVec 64) := (List.range 24).foldl spongeRound a

/-- Absorb `n` blocks of 136 bytes. -/
def absorb : Nat → List Byte → List (BitVec 64) → List (BitVec 64)
  | 0, _, a => a
  | n + 1, l, a =>
    let blk := ofBytes (l.take 136)
    let a' := (List.range 25).map (fun i =>
      a.getD i 0 ^^^ (if i < 17 then BitVec.ofNat 64 (blk >>> (64 * i)) else 0))
    absorb n (l.drop 136) (permute a')

/-- SHA3-256 of a byte sequence, as a number whose byte 0 is the digest's first byte. -/
def sha3 (l : List Byte) : BitVec 256 :=
  let n := l.length / 136 + 1
  let padn := 136 * n - l.length
  let padded := if padn = 1 then l ++ [0x86] else l ++ [0x06] ++ List.replicate (padn - 2) 0 ++ [0x80]
  let a := absorb n padded (List.replicate 25 0)
  BitVec.ofNat 256 (pack ((a.take 4).map (fun x => (8, x.toNat))))

/-- Key identifier: the first 8 bytes of the SHA3-256 digest of a public key (R381). -/
def keyIdent (pub : List Byte) : BitVec 64 := (sha3 pub).setWidth 64

end Sys2Proof.Machine

namespace Sys2Proof

/-- Field of a 64-byte entry: `n` bytes at byte offset `off` (R3). -/
def Entry.fld (e : Entry) (off n : Nat) : Nat := Machine.fld e.toNat off n

/-- The bytes of the entry from `a` up to but not including `b` are all zero (R4). -/
def Entry.zeroBytes (e : Entry) (a b : Nat) : Bool := e.fld a (b - a) = 0

end Sys2Proof
end

