-- ==== Sys2Proof/Machine/Num.lean ====
section
/-!
DEFINITION. Numbers (05_numerics): exact values, the formats of Table 5-1, conversion under R93 with RNE or SR (R92, R102),
FP32 operations rounded once (R112), the sums of R97, and the counter generator (R104).
-/

namespace Sys2Proof.Machine

/-! ## Exact values -/

/-- An exact value: NaN, an infinity, a zero with its sign, or ±m·2^e with m > 0. -/
inductive Val where
  | nan
  | inf (neg : Bool)
  | zero (neg : Bool)
  | fin (neg : Bool) (m : Nat) (e : Int)
  deriving DecidableEq, Repr

def Val.isNan : Val → Bool
  | .nan => true
  | _ => false

def Val.isInf : Val → Bool
  | .inf _ => true
  | _ => false

def Val.isZero : Val → Bool
  | .zero _ => true
  | _ => false

def Val.neg : Val → Bool
  | .inf s | .zero s | .fin s _ _ => s
  | .nan => false

/-- Not NaN and not infinite. -/
def Val.finite (v : Val) : Bool := !v.isNan && !v.isInf

/-- The value with its sign turned. -/
def Val.opp : Val → Val
  | .nan => .nan
  | .inf s => .inf !s
  | .zero s => .zero !s
  | .fin s m e => .fin (!s) m e

/-- The value without its sign. -/
def Val.abs : Val → Val
  | .nan => .nan
  | .inf _ => .inf false
  | .zero _ => .zero false
  | .fin _ m e => .fin false m e

/-- i·2^e as a value; an exact zero is +0. -/
def Val.ofInt (i e : Int) : Val := if i = 0 then .zero false else .fin (i < 0) i.natAbs e

/-- ⌊log₂ |v|⌋ of a finite non-zero value, 0 otherwise. -/
def Val.log2 : Val → Int
  | .fin _ m e => (Nat.log2 m : Int) + e
  | _ => 0

/-- v·2^x, exact (R95). -/
def Val.scale (v : Val) (x : Int) : Val :=
  match v with
  | .fin s m e => .fin s m (e + x)
  | _ => v

/-- The signed significand of a finite value at exponent `e0` (at most its own). -/
def Val.at (v : Val) (e0 : Int) : Int :=
  match v with
  | .fin s m e => let x : Int := (m * 2 ^ (e - e0).toNat : Nat); if s then -x else x
  | _ => 0

/-- Exact sum with the special rules of R93: ∞ − ∞ is NaN, an exact zero sum is +0 unless both are −0. -/
def Val.add (a b : Val) : Val :=
  match a, b with
  | .nan, _ | _, .nan => .nan
  | .inf s, .inf t => if s = t then .inf s else .nan
  | .inf s, _ | _, .inf s => .inf s
  | .zero s, .zero t => .zero (s && t)
  | .zero _, v | v, .zero _ => v
  | .fin s m e, .fin t n f => let e0 := min e f; .ofInt ((Val.fin s m e).at e0 + (Val.fin t n f).at e0) e0

def Val.sub (a b : Val) : Val := a.add b.opp

/-- Exact product with the special rules of R93: 0 × ∞ is NaN. -/
def Val.mul (a b : Val) : Val :=
  let s := a.neg != b.neg
  match a, b with
  | .nan, _ | _, .nan => .nan
  | .inf _, .zero _ | .zero _, .inf _ => .nan
  | .inf _, _ | _, .inf _ => .inf s
  | .zero _, _ | _, .zero _ => .zero s
  | .fin _ m e, .fin _ n f => .fin s (m * n) (e + f)

/-- a < b for values that are not NaN; zeros are equal. -/
def Val.lt (a b : Val) : Bool :=
  match a, b with
  | .nan, _ | _, .nan => false
  | .inf s, .inf t => s && !t
  | .inf s, _ => s
  | _, .inf t => !t
  | _, _ =>
    let e0 := match a, b with
      | .fin _ _ e, .fin _ _ f => min e f
      | .fin _ _ e, _ => e
      | _, .fin _ _ f => f
      | _, _ => 0
    a.at e0 < b.at e0

/-- The larger of two values that are not NaN. -/
def Val.max (a b : Val) : Val := if a.lt b then b else a

/-! ## Formats (R89, R90, Table 5-1) -/

/-- What the exponent of all ones encodes: infinities and NaN, NaN at all-ones fraction only, or ordinary values. -/
inductive Special where
  | ieee | e4m3 | none
  deriving DecidableEq, Repr

/-- A floating format: exponent bits, fraction bits, bias, special encodings, canonical NaN. -/
structure Fmt where
  eb   : Nat
  mb   : Nat
  bias : Nat
  kind : Special
  nan  : Nat
  deriving DecidableEq, Repr

def fFP4 : Nat := 0x01
def fE3M2 : Nat := 0x02
def fE2M3 : Nat := 0x03
def fE4M3 : Nat := 0x04
def fE5M2 : Nat := 0x05
def fBF16 : Nat := 0x08
def fFP16 : Nat := 0x09
def fFP32 : Nat := 0x0C
def fINT8 : Nat := 0x10
def fINT32 : Nat := 0x11
def fPA24 : Nat := 0x20

/-- Floating format of a code (Table 5-1); FP32 for a code that has none. -/
def fmtOf (code : Nat) : Fmt :=
  if code = fFP4 then ⟨2, 1, 1, .none, 0⟩
  else if code = fE3M2 then ⟨3, 2, 3, .none, 0⟩
  else if code = fE2M3 then ⟨2, 3, 1, .none, 0⟩
  else if code = fE4M3 then ⟨4, 3, 7, .e4m3, 0x7F⟩
  else if code = fE5M2 then ⟨5, 2, 15, .ieee, 0x7E⟩
  else if code = fBF16 then ⟨8, 7, 127, .ieee, 0x7FC0⟩
  else if code = fFP16 then ⟨5, 10, 15, .ieee, 0x7E00⟩
  else if code = fPA24 then ⟨8, 15, 127, .ieee, 0x7FC000⟩
  else ⟨8, 23, 127, .ieee, 0x7FC00000⟩

def isInt (code : Nat) : Bool := code = fINT8 || code = fINT32

/-- Bits of an element. -/
def fmtBits (code : Nat) : Nat :=
  if code = fINT8 then 8 else if code = fINT32 then 32 else let f := fmtOf code; 1 + f.eb + f.mb

/-- Unbiased exponent of the largest finite value (R94, R107). -/
def Fmt.emax (f : Fmt) : Int := (2 ^ f.eb : Int) - (if f.kind = .ieee then 2 else 1) - f.bias

/-- Significand of the largest finite value, at exponent emax − mb. -/
def Fmt.topSig (f : Fmt) : Nat := 2 ^ (f.mb + 1) - 1 - (if f.kind = .e4m3 then 1 else 0)

/-- Value of an element's bits (R89). -/
def decodeVal (code b : Nat) : Val :=
  if isInt code then .ofInt (sval (fmtBits code) b) 0
  else
    let f := fmtOf code
    let s := bit b (f.eb + f.mb)
    let ex := bits b f.mb f.eb
    let fr := bits b 0 f.mb
    if f.kind = .ieee ∧ ex = 2 ^ f.eb - 1 then (if fr = 0 then .inf s else .nan)
    else if f.kind = .e4m3 ∧ ex = 2 ^ f.eb - 1 ∧ fr = 2 ^ f.mb - 1 then .nan
    else if ex = 0 then
      (if fr = 0 then .zero s else .fin s fr (1 - (f.bias : Int) - f.mb))
    else .fin s (2 ^ f.mb + fr) ((ex : Int) - f.bias - f.mb)

/-! ## Conversion (R92, R93, R102) -/

/-- The significand n, at exponent q, to which m·2^e rounds: to nearest even, or stochastically with the 16-bit value `r`;
a value on the grid is unchanged (R102). -/
def roundTo (m : Nat) (e q : Int) (sr : Option Nat) : Nat :=
  if q ≤ e then m * 2 ^ (e - q).toNat
  else
    let sh := (q - e).toNat
    let n := m >>> sh
    let rest := m % 2 ^ sh
    if rest = 0 then n
    else match sr with
      | some r => if 65536 ≤ rest * 65536 / 2 ^ sh + r then n + 1 else n
      | none => if 2 * rest < 2 ^ sh ∨ (2 * rest = 2 ^ sh ∧ n % 2 = 0) then n else n + 1

/-- A conversion's outcome: the element's bits, whether Table 5-2 voids the step with CHECK, whether it saturated (R107). -/
structure Conv where
  bits : Nat
  void : Bool := false
  sat  : Bool := false
  deriving DecidableEq, Repr

/-- Bits of the largest finite value of a floating format. -/
def Fmt.topBits (f : Fmt) : Nat := ((f.emax + f.bias).toNat <<< f.mb) + (f.topSig - 2 ^ f.mb)

/-- Bits of the magnitude n·2^q (q the grid exponent of the format for it). -/
def Fmt.magBits (f : Fmt) (n : Nat) (q : Int) : Nat :=
  if n < 2 ^ f.mb then n
  else
    let k := Nat.log2 n
    ((q + k + f.bias).toNat <<< f.mb) + ((n >>> (k - f.mb)) - 2 ^ f.mb)

/-- Conversion of an exact value into a floating format (R93, Table 5-2). -/
def convFloat (f : Fmt) (v : Val) (sr : Option Nat) : Conv :=
  let sb (s : Bool) : Nat := if s then 2 ^ (f.eb + f.mb) else 0
  let infBits : Nat := (2 ^ f.eb - 1) <<< f.mb
  match v with
  | .nan => if f.kind = .none then { bits := 0, void := true } else { bits := f.nan }
  | .inf s =>
    match f.kind with
    | .none => { bits := f.topBits + sb s, sat := true }
    | .e4m3 => { bits := f.nan }
    | .ieee => { bits := infBits + sb s }
  | .zero s => { bits := sb s }
  | .fin s m e =>
    let q : Int := min (max ((Nat.log2 m : Int) + e) (1 - (f.bias : Int))) f.emax - f.mb
    let n := roundTo m e q sr
    if q = f.emax - f.mb ∧ f.topSig < n then
      -- BF16, FP16, FP32 and PA24 overflow to infinity; the narrower formats saturate
      if f.kind = .ieee ∧ f.mb ≠ 2 then { bits := infBits + sb s } else { bits := f.topBits + sb s, sat := true }
    else { bits := f.magBits n q + sb s }

/-- Conversion into an integer format (R93, Table 5-2). -/
def convInt (w : Nat) (v : Val) (sr : Option Nat) : Conv :=
  let clamp (i : Int) : Nat := ((max (-(2 ^ (w - 1) : Int)) (min i (2 ^ (w - 1) - 1))) % (2 ^ w : Int)).toNat
  match v with
  | .nan => { bits := 0, void := true }
  | .inf s => { bits := clamp (if s then -(2 ^ w : Int) else 2 ^ w), sat := true }
  | .zero _ => { bits := 0 }
  | .fin s m e =>
    let n : Int := (roundTo m e 0 sr : Nat)
    let i := if s then -n else n
    { bits := clamp i, sat := i < -(2 ^ (w - 1) : Int) || (2 ^ (w - 1) - 1 : Int) < i }

/-- Conversion of an exact value into a format (R93): `sr` is the element's random value where SR applies (R99). -/
def conv (code : Nat) (v : Val) (sr : Option Nat) : Conv :=
  if isInt code then convInt (fmtBits code) v sr else convFloat (fmtOf code) v sr

/-- One RNE rounding into a format, as a value. -/
def rnd (code : Nat) (v : Val) : Val := decodeVal code (conv code v none).bits

/-- One RNE rounding into FP32 (R112). -/
def r32 (v : Val) : Val := rnd fFP32 v

def val32 (b : BitVec 32) : Val := decodeVal fFP32 b.toNat
def bits32 (v : Val) : BitVec 32 := BitVec.ofNat 32 (conv fFP32 v none).bits

/-! ## FP32 operations rounded once (R97, R112) -/

def fadd (a b : Val) : Val := r32 (a.add b)
def fsub (a b : Val) : Val := r32 (a.sub b)
def fmul (a b : Val) : Val := r32 (a.mul b)

/-- m/n·2^x with 64 quotient bits and a sticky bit below them, which decide any one rounding of the exact quotient. -/
def quot (s : Bool) (m n : Nat) (x : Int) : Val :=
  let k := 64 + Nat.log2 n
  let q := (m * 2 ^ k) / n
  .fin s (2 * q + (if (m * 2 ^ k) % n = 0 then 0 else 1)) (x - k - 1)

/-- Division rounded once from the exact quotient (R112). -/
def fdiv (a b : Val) : Val :=
  let s := a.neg != b.neg
  match a, b with
  | .nan, _ | _, .nan => .nan
  | .inf _, .inf _ | .zero _, .zero _ => .nan
  | .inf _, _ | _, .zero _ => .inf s
  | .zero _, _ | _, .inf _ => .zero s
  | .fin _ m e, .fin _ n f => r32 (quot s m n (e - f))

/-- Square root rounded once from the exact value (R112, R221). -/
def fsqrt (a : Val) : Val :=
  match a with
  | .nan => .nan
  | .zero s => .zero s
  | .inf s => if s then .nan else .inf false
  | .fin s m e =>
    if s then .nan
    else
      let k : Nat := 128 + (if e % 2 = 0 then 0 else 1)
      let n := m * 2 ^ k
      let q := n.sqrt
      r32 (.fin false (2 * q + (if q * q = n then 0 else 1)) ((e - k) / 2 - 1))

/-- Reciprocal square root rounded once from the exact value (R112). -/
def frsqrt (a : Val) : Val :=
  match a with
  | .nan => .nan
  | .zero s => .inf s
  | .inf s => if s then .nan else .zero false
  | .fin s m e =>
    if s then .nan
    else
      -- 1/√(m·2^e) = √(2^j/m)·2^((−e − j)/2) with j of the parity of e
      let j : Nat := 2 * (128 + Nat.log2 m) + (if e % 2 = 0 then 0 else 1)
      let n := 2 ^ j / m
      let q := n.sqrt
      r32 (.fin false (2 * q + (if q * q * m = 2 ^ j then 0 else 1)) ((-e - j) / 2 - 1))

/-- Taylor sum of exp at fixed point `x`·2^(−320): term `t` so far, next divisor `i`, `n` terms left. -/
def expSeries : Nat → Int → Int → Int → Int → Int
  | 0, _, _, _, acc => acc
  | n + 1, x, t, i, acc =>
    let t' := t * x / (2 ^ 320 * i)
    expSeries n x t' (i + 1) (acc + t')

/-- `n` squarings at 320 fraction bits. -/
def squareN : Nat → Int → Int
  | 0, x => x
  | n + 1, x => squareN n (x * x / 2 ^ 320)

/-- exp rounded once to nearest even (R112), from 320 fraction bits and a sticky bit (log 11). -/
def fexp (a : Val) : Val :=
  match a with
  | .nan => .nan
  | .zero _ => .fin false 1 0
  | .inf s => if s then .zero false else .inf false
  | .fin s m e =>
    if (Val.fin false 89 0).lt a then .inf false
    else if a.lt (.fin true 104 0) then .zero false
    else
      let mag : Int := if 0 ≤ e + 312 then (m * 2 ^ (e + 312).toNat : Nat) else (m >>> (-(e + 312)).toNat : Nat)
      let x := if s then -mag else mag
      let y := squareN 8 (expSeries 64 x (2 ^ 320) 1 (2 ^ 320))
      r32 (.fin false (2 * y.toNat + 1) (-321))

/-- One chunk of at most 16 exact terms, summed sequentially from +0 with one RNE rounding each (R97). -/
def chunkSum (l : List Val) : Val := l.foldl (fun s t => fadd s t) (.zero false)

/-- Two-level sum of exact terms (R97): `n` chunks of 16, their sums into an FP32 chain from +0. -/
def sumChunks : Nat → List Val → Val → Val
  | 0, _, acc => acc
  | n + 1, l, acc => sumChunks n (l.drop 16) (fadd acc (chunkSum (l.take 16)))

def sum97 (l : List Val) : Val := sumChunks ((l.length + 15) / 16) l (.zero false)

/-! ## The counter generator (R104) -/

def cgM1 : BitVec 64 := 0xA3B195C75D2E6F49
def cgM2 : BitVec 64 := 0xC2D71E83B64F92A5
def cgW : BitVec 64 := 0x8F1BBCDC6A35E4D7

/-- Rounds of the generator: `n` left, halves hi and lo, round key k. -/
def cgRounds : Nat → BitVec 64 → BitVec 64 → BitVec 64 → BitVec 64
  | 0, hi, lo, _ => hi ^^^ lo
  | n + 1, hi, lo, k =>
    let lo1 := (lo ^^^ k) * cgM1
    let lo2 := lo1 ^^^ (lo1 >>> 31)
    let hi1 := (hi + lo2) * cgM2
    let hi2 := hi1 ^^^ (hi1 >>> 29)
    cgRounds n lo2 hi2 (k + cgW)

/-- The value for a key and a 128-bit counter (R104, Table 5-4). -/
def cg (key : BitVec 64) (ctr : BitVec 128) : BitVec 64 :=
  cgRounds 6 ((ctr >>> 64).setWidth 64) (ctr.setWidth 64) key

/-- The counter of a stream, identifier, step field and index (R104). -/
def cgCounter (stream ident step index : Nat) : BitVec 128 :=
  BitVec.ofNat 128 (stream % 2 ^ 16 * 2 ^ 112 + ident % 2 ^ 24 * 2 ^ 88 + step % 2 ^ 32 * 2 ^ 56 + index % 2 ^ 56)

/-- The 16-bit random value of element `e` (R104). -/
def rand16 (key : BitVec 64) (stream ident step e : Nat) : Nat :=
  bits (cg key (cgCounter stream ident step (e / 4))).toNat (16 * (e % 4)) 16

/-! ## Tiles of elements (R74, Table 4-2, R83) -/

/-- Blocks per tile (Table 4-2). -/
def blocksPer (code : Nat) : Nat :=
  if code = fFP4 then 512 else if fmtBits code ≤ 8 then 256 else if fmtBits code = 16 then 128 else 64

/-- Elements per tile. -/
def elemsPer (code : Nat) : Nat := 16 * blocksPer code

/-- Tiles of `n` elements. -/
def tilesFor (code n : Nat) : Nat := (n + elemsPer code - 1) / elemsPer code

/-- Bits of element `i` of a tile, in block-major order (R74). -/
def elemBits (code : Nat) (p : Payload) (i : Nat) : Nat := bits p.toNat (fmtBits code * i) (fmtBits code)

/-- Payload of a tile whose elements are the list, the rest zero (R74). -/
def packElems (code : Nat) (l : List Nat) : Payload :=
  BitVec.ofNat 32768 (l.foldr (fun x acc => x % 2 ^ fmtBits code + 2 ^ fmtBits code * acc) 0)

/-- Place of element (r, c) of an R × C tensor in block-major order (R74). -/
def blockIndex (cols r c : Nat) : Nat := 16 * ((r / 4) * (cols / 4) + c / 4) + 4 * (r % 4) + c % 4

/-- Row and column of the element at a block-major place of a tensor with `cols` columns. -/
def blockPlace (cols i : Nat) : Nat × Nat :=
  let b := i / 16
  (4 * (b / (cols / 4)) + i % 16 / 4, 4 * (b % (cols / 4)) + i % 4)

/-- An element that is neither +0 nor −0, nor the integer 0 (R83). -/
def elemNonzero (code x : Nat) : Bool := if isInt code then x ≠ 0 else x % 2 ^ (fmtBits code - 1) ≠ 0

/-- Block map of a tile's elements (R83, Table 4-3). -/
def blockMap (code : Nat) (l : List Nat) : Nat :=
  let cover := if code = fFP4 then 32 else 16
  (l.zipIdx).foldl (fun acc x => if elemNonzero code x.1 then acc ||| 2 ^ (x.2 / cover) else acc) 0

end Sys2Proof.Machine
end

