-- ==== Sys2Proof/Config.lean ====
section
/-!
DEFINITION. What the hardware fixes and the spec leaves open: opaque constants with no body (free values, log 9 to 13),
so that no proof can see a value of them.
-/

namespace Sys2Proof.Config

/-- Free value number `n`: a value the spec leaves open (log 9). -/
opaque freeValue : Nat → BitVec 64

/-- Outcome of an ML-DSA signature verification (algorithm, public key, digest, signature); FIPS 204 is outside the
spec (log 10). -/
opaque mldsaVerify (alg : Nat) (pub : List Byte) (digest : BitVec 256) (sig : List Byte) : Bool

/-- The ML-DSA-44 signature that the C-die of a cell makes over a digest (log 10). -/
opaque mldsaSign (cell : Nat) (digest : BitVec 256) : List Byte

/-- Public identity key of a cell's C-die, from its PUF (R382; log 10). -/
opaque identityKey (cell : Nat) : List Byte

/-- Vendor root public key in the mask ROM (Table 16-1; log 10). -/
opaque vendorKey : List Byte

/-- Certificate chain of a cell's C-die in the flash (R382; log 10). -/
opaque certChain (cell : Nat) : List Byte

/-- Mask ROM version and code digest of measurement 0x01 (Table 16-6; log 10). -/
opaque romVersion : BitVec 32
opaque romDigest : BitVec 256

/-- What a firmware bundle's bytes say: whether the vendor signature verifies, its security version, whether it is marked LOCKSTEP, and the
digest its format defines. No rule lays a bundle out (log 29). -/
opaque bundleRead (bytes : List Byte) : Bool × Nat × Bool × BitVec 256

/-- SPDM message bytes that the spec does not lay out: from the request code and bytes (log 15). -/
opaque spdmBytes (code : Nat) (msg : List Byte) : List Nat

/-- Results of gated ELEMENT activations, by code and operands: no rule states the function (log 12). -/
opaque gatedActivation (code : Nat) (x y : BitVec 32) : BitVec 32

/-- One call of owner rule code: the slot's image code, entry point and inputs to outputs; no rule states the vector set (log 13). The
Bool says that an instruction outside the set was executed, the number the lane cycles that the call took (R222). -/
opaque ruleCode (code : List Byte) (entry : Nat) (inputs : List (BitVec 32)) : Bool × Nat × List (BitVec 32)

/-- What a thread of a learning image is for, which no record states (log 105): 1 a forward and 2 a backward in bits 1:0, of the
micro-batch in the higher bits (R198). -/
opaque threadRole (image : BitVec 64) (thread : Nat) : Nat

/-- An UPDATE of variant 0x02 in an image of another seat of the tenant's group, which no frame tells this module (R233; log 104). -/
opaque checkedElsewhere (tenant : Nat) (jobStep : BitVec 64) : Bool

/-- The byte at a host address as DMA read number `n` finds it: host memory lies outside the block (R406; log 110). -/
opaque hostByte (addr n : Nat) : Byte

/-- Columns of a weight tensor that no record states, in groups of 4 beyond the first (log 25). -/
opaque tensorColumns (tenant ident : Nat) : Nat

/-- Micro-batches B of a learning image, which no record states (Table 9-4; log 26). -/
opaque microBatches (image : BitVec 64) : Nat

/-- Planned duration D of a learning image at its fixed share, ns, which no record states (R355; log 28). -/
opaque learnDuration (image : BitVec 64) : Nat

end Sys2Proof.Config
end

