-- ==== Sys2Proof/Machine/Ops.lean ====
section
/-!
DEFINITION. Named operations on the state that many commands share: time, cells, void causes, error records, MSI-X
messages, records bound for the host, buttons.
-/

namespace Sys2Proof.Machine

/-! ## Time and cells -/

/-- One cell's clock after `dt` ns: a pending offset is slewed away at up to 2⁻¹² of the rate (R298). -/
def Cell.slewBy (dt : Nat) (c : Cell) : Cell :=
  let lim : Int := (dt / 4096 : Nat)
  let d : Int := if c.slew > lim then lim else if c.slew < -lim then -lim else c.slew
  { c with toff := c.toff + d, slew := c.slew - d }

/-- Local time moves to `t`, never back; every cell's device time slews meanwhile (R6, R298). -/
def State.at (s : State) (t : Nat) : State :=
  if t ≤ s.now then s
  else { s with now := t, cells := s.cells.mapV Cell.reset (Cell.slewBy (t - s.now)) }

def State.cell (s : State) (c : Nat) : Cell := s.cells.get Cell.reset c

def State.setCell (s : State) (c : Nat) (v : Cell) : State := { s with cells := s.cells.set Cell.reset c v }

def State.onCell (s : State) (c : Nat) (f : Cell → Cell) : State := s.setCell c (f (s.cell c))

/-- Device time of a cell (R6): a count of 64 bits from PWR_GOOD or the reset's release, plus the cell's offset. -/
def State.time (s : State) (c : Nat) : Nat := (((s.now - s.boot.base : Nat) : Int) + (s.cell c).toff).toNat % 2 ^ 64

def Cell.core (k : Cell) (n : Nat) : Core := k.cores.get Core.reset n
def Cell.setCore (k : Cell) (n : Nat) (v : Core) : Cell := { k with cores := k.cores.set Core.reset n v }
def Cell.onCore (k : Cell) (n : Nat) (f : Core → Core) : Cell := k.setCore n (f (k.core n))
def State.onCore (s : State) (c n : Nat) (f : Core → Core) : State := s.onCell c (fun k => k.onCore n f)

def Cell.run (k : Cell) (t : Nat) : TenantRun := k.runs.get TenantRun.reset t
def Cell.onRun (k : Cell) (t : Nat) (f : TenantRun → TenantRun) : Cell :=
  { k with runs := k.runs.set TenantRun.reset t (f (k.run t)) }

def Cell.ver (k : Cell) (t : Nat) : Versions := k.vers.get Versions.reset t
def Cell.onVer (k : Cell) (t : Nat) (f : Versions → Versions) : Cell :=
  { k with vers := k.vers.set Versions.reset t (f (k.ver t)) }

def Cell.lrn (k : Cell) (t : Nat) : LearnRun := k.learn.get LearnRun.reset t
def Cell.onLrn (k : Cell) (t : Nat) (f : LearnRun → LearnRun) : Cell :=
  { k with learn := k.learn.set LearnRun.reset t (f (k.lrn t)) }

def Cell.entry (k : Cell) (i : Nat) : ReqEntry := k.gen.table.get ReqEntry.free i
def Cell.onEntry (k : Cell) (i : Nat) (f : ReqEntry → ReqEntry) : Cell :=
  { k with gen := { k.gen with table := k.gen.table.set ReqEntry.free i (f (k.entry i)) } }

def Cell.port (k : Cell) (p : Nat) : Port := k.korif.ports.get Port.reset p
def Cell.onPort (k : Cell) (p : Nat) (f : Port → Port) : Cell :=
  { k with korif := { k.korif with ports := k.korif.ports.set Port.reset p (f (k.port p)) } }

def State.fn (s : State) (n : Nat) : HostFn := s.fns.get HostFn.reset n
def State.onFn (s : State) (n : Nat) (f : HostFn → HostFn) : State :=
  { s with fns := s.fns.set HostFn.reset n (f (s.fn n)) }

def HostFn.ring (h : HostFn) (c : Nat) : SubRing := h.sq.get SubRing.reset c
def HostFn.onRing (h : HostFn) (c : Nat) (f : SubRing → SubRing) : HostFn :=
  { h with sq := h.sq.set SubRing.reset c (f (h.ring c)) }

def State.chan (s : State) (n : Nat) : Chan := s.chans.get Chan.reset n
def State.setChan (s : State) (n : Nat) (v : Chan) : State := { s with chans := s.chans.set Chan.reset n v }

def State.coord (s : State) (t : Nat) : Coord := s.coords.get Coord.reset t
def State.onCoord (s : State) (t : Nat) (f : Coord → Coord) : State :=
  { s with coords := s.coords.set Coord.reset t (f (s.coord t)) }

/-- The cells of the module (R12). -/
def allCells : List Nat := [0, 1, 2, 3, 4, 5, 6, 7]

/-- An output leaves the module (log 4). -/
def State.emit (s : State) (e : Emit) : State := { s with out := s.out ++ [e] }

/-- A value the spec leaves open: the next one, and the state that has taken it (log 9). -/
def State.takeFree (s : State) : BitVec 64 × State := (Config.freeValue s.free, { s with free := s.free + 1 })

/-! ## Buttons (R69, R71) -/

/-- Winner among the requesters `asking` of an arbiter over `n`, with its button at `b` (R69). -/
def buttonWin (n b : Nat) (asking : List Nat) : Option Nat :=
  let cand := asking.filter (fun r => r < n)
  let hi := cand.filter (fun r => b ≤ r)
  (match hi with
    | [] => cand
    | _ => hi).min?

/-- The button after `w` has won among `n` (R69). -/
def buttonNext (n w : Nat) : Nat := (w + 1) % n

/-- Winner among asking keys with the button at key `b`: the smallest at or above it, else the smallest (R71). -/
def keyWin (b : Nat) (asking : List Nat) : Option Nat :=
  match asking.filter (fun r => b ≤ r) with
  | [] => asking.min?
  | hi => hi.min?

/-! ## Modes of the module -/

/-- The module is held in reset, or its islands have not come out of it (R370, R420, Table 15-4). -/
def State.inReset (s : State) : Bool := !s.boot.islands

/-- The module supervisor runs verified firmware and the host anchor is there. -/
def State.anchorUp (s : State) : Bool := s.boot.running && !s.boot.anchorLost

/-- Configuration space is live, so that the BARs answer (Table 14-2). -/
def State.barUp (s : State) : Bool := s.anchorUp && s.host.linkUp && s.host.cfgLive && !s.host.d3hot

/-- The host paths are in service: DMA, ring fetching and deliveries (R20, R335). -/
def State.hostUp (s : State) : Bool := s.barUp && !s.host.pathLost && !s.boot.safe

/-- Host function `n` exists: the PF, or an enabled VF (Table 14-1, R341). -/
def State.fnOn (s : State) (n : Nat) : Bool := n = 0 || (0 < n && n ≤ s.host.vfs && n < 64)

/-- The seat that frames of this module carry (R285: an unseated module uses seat 0 between its own cells). -/
def State.mySeat (s : State) : Nat := if s.seating.seated then s.seating.seat else 0

/-! ## Void causes (R8, R9) -/

def vLATE : Nat := 1
def vPOISON : Nat := 2
def vCHECK : Nat := 3
def vDISAGREE : Nat := 4
def vFENCE : Nat := 5
def vTHERMAL : Nat := 6
def vPOWER : Nat := 7
def vVERSION : Nat := 8
def vSTOP : Nat := 9
def vLINK : Nat := 10
def vHALT : Nat := 11
def vADMIN : Nat := 12

/-- Precedence of a void reason code (Table 0-5); codes outside it come last. -/
def voidPrec (code : Nat) : Nat := [13, 12, 8, 9, 10, 11, 3, 2, 7, 4, 6, 1, 5].getD code 13

/-- The one code a void record carries: the cause with the lowest precedence number, 0 for none (R9). -/
def pickCause (l : List Nat) : Nat :=
  l.foldl (fun best c => if best = 0 ∨ voidPrec c < voidPrec best then c else best) 0

/-- A void cause found in the cell's step in progress (R9); 0xFF touches every tenant. Kept once. -/
def State.cause (s : State) (c code tenant : Nat) (entry : Option Nat) : State :=
  s.onCell c (fun k =>
    let x : Cause := { code := code, tenant := tenant, entry := entry }
    if k.step.running && !k.step.causes.contains x then
      { k with step := { k.step with causes := k.step.causes ++ [x] } }
    else k)

/-- A cause that touches every tenant of the cell (R369, R371): of its step in progress, and of a learning step not yet decided in which
the cell takes part for its home layers (R209, R248). -/
def State.causeAll (s : State) (c code : Nat) : State :=
  (s.cause c code 0xFF none).onCell c (fun k => { k with learn := k.learn.mapV LearnRun.reset (fun l =>
    if l.undecided && !l.causes.contains code then { l with causes := l.causes ++ [code] } else l) })

/-- A code as a receiver takes it: one outside Table 0-5 gets no meaning of its own (R10), and what carried it voids as for missing
frames, with LINK (R13; log 22). -/
def voidReason (code : Nat) : Nat := if 1 ≤ code ∧ code ≤ 12 then code else vLINK

/-- A cause for the step whose number has the low 32 bits `step` (R275): of the step in progress, or kept for a step to come; one of a
step that is over finds nothing to void. -/
def State.causeAt (s : State) (c code tenant step : Nat) : State :=
  let st := (s.cell c).step
  let ahead := (step + 2 ^ 32 - st.number % 2 ^ 32) % 2 ^ 32
  if ahead = 0 ∧ st.running then s.cause c code tenant none
  else if 2 ^ 31 ≤ ahead then s
  else
    let x : Nat × Cause := (step, { code := code, tenant := tenant, entry := none })
    if st.later.contains x then s
    else s.onCell c (fun k => { k with step := { k.step with later := k.step.later ++ [x] } })

/-! ## MSI-X (R342) -/

/-- Vector `v` of function `n` is sent: pending while its mask bit is set; lost while the host link is down. -/
def State.msix (s : State) (n v : Nat) : State :=
  if !(s.barUp && s.fnOn n) then s
  else if (((s.fn n).msix.get 0 (4 * v + 3)).getLsbD 0) then
    s.onFn n (fun h => { h with pba := h.pba ||| (1#4 <<< v) })
  else s.emit (.msix n v)

/-! ## Error records (R328, R329, R416) -/

/-- The 32 bytes of an error record (Table 13-6), as a number. -/
def ErrRec.bytes (r : ErrRec) : Nat :=
  pack [(4, r.seq.toNat), (1, r.cls), (1, r.code), (1, r.sev), (1, r.cell), (8, r.time), (1, r.unit), (1, r.tenant),
    (2, r.core), (4, r.step.toNat), (1, r.reason), (3, r.obj.toNat), (4, r.detail.toNat)]

/-- The record written into the ring: a full ring loses its oldest unread record (R416); severity 3 sets FATAL. -/
def ErrRing.push (g : ErrRing) (r : ErrRec) : ErrRing :=
  let full := g.prod - g.cons = 65536#32
  let recs := g.recs ++ [r]
  { g with
    recs := if recs.length > 65536 then recs.tail else recs
    prod := g.prod + 1
    cons := if full then g.cons + 1 else g.cons
    lost := if full then satAdd g.lost 1 else g.lost
    fatal := g.fatal || r.sev = 3 }

/-- Fields of an error record that its rule names (Tables 13-6, 13-7). -/
structure Ev where
  cls    : Nat
  code   : Nat := 0
  sev    : Nat
  unit   : Nat
  tenant : Nat := 0xFF
  core   : Nat := 0xFFFF
  reason : Nat := 0
  obj    : Nat := 0
  detail : Nat := 0
  deriving DecidableEq, Repr

/-- Record classes (Table 13-7). -/
def clsCHECKVALUE : Nat := 0x01
def clsVOTE : Nat := 0x02
def clsREPEAT : Nat := 0x03
def clsECC : Nat := 0x04
def clsPOISON : Nat := 0x05
def clsFENCE : Nat := 0x06
def clsTEST : Nat := 0x07
def clsVOID : Nat := 0x08
def clsLINK : Nat := 0x09
def clsWATCHDOG : Nat := 0x0A
def clsRATIO : Nat := 0x0B
def clsCAPACITY : Nat := 0x0C
def clsCOMMAND : Nat := 0x0D
def clsFIGURE : Nat := 0x0E
def clsSTORE : Nat := 0x0F
def clsTIME : Nat := 0x10
def clsINFO : Nat := 0x11

/-- The record as ring `c` holds it: records of the anchor and the module supervisor carry cell 0xFF (Table 13-6). -/
def State.mkErr (s : State) (c : Nat) (e : Ev) : ErrRec :=
  let k := s.cell c
  { seq := k.err.prod, cls := e.cls, code := e.code, sev := e.sev,
    cell := if e.unit = 7 ∨ e.unit = 8 then 0xFF else c, time := s.time c, unit := e.unit, tenant := e.tenant,
    core := e.core, step := BitVec.ofNat 32 k.step.number, reason := e.reason, obj := BitVec.ofNat 24 e.obj,
    detail := BitVec.ofNat 32 e.detail }

/-- Times within the last `span` ns before `now`. -/
def recentTimes (now span : Nat) (l : List Nat) : List Nat := l.filter (fun t => now < t + span)

/-- A PLDM event message, at most 100 a second; one beyond that adds 1 to cell `c`'s lost count (R399). -/
def State.pldmEvent (s : State) (c : Nat) (bytes : List Nat) : State :=
  let l := recentTimes s.now 1000000000 s.mgmt.events
  if l.length < 100 then
    { s with mgmt := { s.mgmt with events := l ++ [s.now] } }.emit (.event bytes)
  else s.onCell c (fun k => { k with err := { k.err with lost := satAdd k.err.lost 1 } })

/-- The record into ring `c`, with vector 3 of the PF for severities 2 and 3 (R342) and the OEM event for severity 3
(R399). The copy for the Manager is `State.err`'s part. -/
def State.errLocal (s : State) (c : Nat) (e : Ev) : State :=
  let r := s.mkErr c e
  let s1 := s.onCell c (fun k => { k with err := k.err.push r })
  let s2 := if e.sev ≥ 2 then s1.msix 0 3 else s1
  if e.sev = 3 then s2.pldmEvent c (0xF0 :: (bytesOf 32 r.bytes).map BitVec.toNat) else s2

/-! ## Host writes and records (R341, R342) -/

/-- A COMMAND record for a dropped completion record, at most one a second of the function (R341). -/
def State.dropRec (s : State) (n : Nat) : State :=
  let h := s.fn n
  match h.lastDrop with
  | some t0 =>
    if s.now < t0 + 1000000000 then s
    else (s.onFn n (fun h => { h with lastDrop := some s.now })).errLocal 0
      { cls := clsCOMMAND, sev := 1, unit := 7, obj := 0, detail := n }
  | none => (s.onFn n (fun h => { h with lastDrop := some s.now })).errLocal 0
      { cls := clsCOMMAND, sev := 1, unit := 7, obj := 0, detail := n }

/-- What the writing of a record, or its drop, which counts as written (R341), makes true: a seal record (tenant) no longer
keeps the tenant's next step back (R342); from a ratio record (64 + tenant) the answer timeout runs (R235). -/
def State.recDone (s : State) (r : QRec) : State :=
  match r.learn with
  | none => s
  | some t =>
    if t < 64 then s.onCoord t (fun x => { x with recWait := false })
    else s.onCoord (t - 64) (fun x => { x with recWait := false, ratioAt := some s.now })

/-- A record for function `n`'s completion ring: queued in the order produced; dropped when the ring is disabled or the
function absent or not enabled (R341). -/
def State.queueRec (s : State) (n : Nat) (r : QRec) : State :=
  if s.fnOn n && (s.fn n).cqEn then s.onFn n (fun h => { h with recs := h.recs ++ [r] })
  else if n < 64 then (s.recDone r).dropRec n else s.recDone r

/-- STATUS records of the function that wait (R342). -/
def HostFn.statusWaiting (h : HostFn) : Nat := (h.recs.filter (fun r => r.status)).length

/-- Tenant that an entry names, 0xFF for none (Table 14-8): the byte its layout gives the tenant. -/
def entryTenant (e : Entry) : Nat :=
  let k := e.fld 0 1
  if [0x01, 0x02, 0x03, 0x25].contains k then e.fld 2 1
  else if [0x10, 0x11, 0x20, 0x21, 0x22, 0x23, 0x24, 0x28, 0x30, 0x33, 0x34, 0x35].contains k then e.fld 1 1
  else 0xFF

end Sys2Proof.Machine
end

