-- ==== Sys2Proof/Machine/Frames.lean ====
section
/-!
DEFINITION. Korif frames: the header of Table 12-2, its check (R270), frames the module builds, the way a frame takes
(R15, R16, R283, R284), the output queues with their credits and buttons (R278, R280, R304), VOID and HOLD answers.
-/

namespace Sys2Proof

open Machine

/-- Bits `[off + n − 1 : off]` of the 32-byte header. -/
def Frame.f (x : Frame) (off n : Nat) : Nat := bits x.hdr.toNat off n

def Frame.ftype (x : Frame) : Nat := x.f 0 4
def Frame.lane (x : Frame) : Nat := x.f 4 3
def Frame.sparse (x : Frame) : Bool := x.f 8 1 = 1
def Frame.side (x : Frame) : Bool := x.f 9 1 = 1
def Frame.resent (x : Frame) : Bool := x.f 10 1 = 1
def Frame.hops (x : Frame) : Nat := x.f 12 4
def Frame.plen (x : Frame) : Nat := x.f 16 16
def Frame.dseat (x : Frame) : Nat := x.f 32 10
def Frame.dcell (x : Frame) : Nat := x.f 42 3
def Frame.sseat (x : Frame) : Nat := x.f 48 10
def Frame.scell (x : Frame) : Nat := x.f 58 3
def Frame.tenant (x : Frame) : Nat := x.f 64 8
def Frame.origin (x : Frame) : BitVec 8 := BitVec.ofNat 8 (x.f 72 8)
def Frame.fstep (x : Frame) : Nat := x.f 80 16
def Frame.tensor (x : Frame) : BitVec 24 := BitVec.ofNat 24 (x.f 96 24)
def Frame.tkind (x : Frame) : Nat := x.f 120 4
def Frame.tseq (x : Frame) : Nat := x.f 128 20
def Frame.sctr (x : Frame) : Nat := x.f 160 16
def Frame.sgroup (x : Frame) : Nat := x.f 176 16
def Frame.aux (x : Frame) : Nat := x.f 192 16
def Frame.seqno (x : Frame) : Nat := x.f 208 16
def Frame.check (x : Frame) : Nat := x.f 224 32

/-- Payload field: `n` bytes at byte offset `off`. -/
def Frame.p (x : Frame) (off n : Nat) : Nat := fld x.data off n

/-- A reserved header field is set (R271). -/
def Frame.reservedSet (x : Frame) : Bool :=
  x.f 7 1 ≠ 0 || x.f 11 1 ≠ 0 || x.f 45 3 ≠ 0 || x.f 61 3 ≠ 0 ||
  x.f 124 4 ≠ 0 || x.f 148 12 ≠ 0

/-- The header check that belongs to the frame: header bytes 0x00–0x1B with Hops as zero, then the tag of a TILE frame or
the whole payload of any other (R270). -/
def Frame.goodCheck (x : Frame) : Nat :=
  let h := x.hdr.toNat % 2 ^ 224 - (x.hops <<< 12)
  let n := if x.ftype = 1 then min 16 x.plen else x.plen
  (crc32c (bytesOf 28 h ++ bytesOf n x.data)).toNat

def Frame.withCheck (x : Frame) : Frame :=
  { x with hdr := BitVec.ofNat 256 (x.hdr.toNat % 2 ^ 224 + x.goodCheck * 2 ^ 224) }

/-- The frame with one more external port crossed (R284); the check counts Hops as zero (R270). -/
def Frame.hop (x : Frame) : Frame :=
  { x with hdr := BitVec.ofNat 256 (x.hdr.toNat + 2 ^ 12) }

/-- The frame as it came to an external output, before that added its hop. -/
def Frame.unhop (x : Frame) : Frame := { x with hdr := BitVec.ofNat 256 (x.hdr.toNat - 2 ^ 12) }

/-- Credits a frame needs on its lane (R278). -/
def Frame.need (x : Frame) : Nat := (32 + x.plen + 63) / 64

/-- A CREDIT frame of subtype 0x01: no credit, never relayed, first at an output (R278, R280). -/
def Frame.isCredit1 (x : Frame) : Bool := x.ftype = 8 && x.p 0 1 = 1

/-- Frame types an idle port carries (R286). -/
def Frame.idleOk (x : Frame) : Bool := [4, 5, 6, 7].contains x.ftype || x.isCredit1

/-- Frame types a port sends while a HOLD received is in force (R304). -/
def Frame.holdOk (x : Frame) : Bool := [4, 7, 8].contains x.ftype

/-- Lanes a TILE frame may travel on, by its target kind (Table 12-6): tensor tiles on the lanes of tasks, broadcasts and fetches, each
other kind on its own. -/
def tileLanes (kind : Nat) : List Nat := [[1, 2, 4, 5], [5], [3], [6], [7]].getD kind []

/-- Lanes a frame may travel on (Tables 12-3, 12-6). -/
def Frame.laneOk (x : Frame) : Bool := if x.ftype = 1 then (tileLanes x.tkind).contains x.lane else x.lane = 0

/-- A field of the payload that its type reserves is set (R4, R271; Tables 12-3, 12-7 to 12-9, R277). CREDIT returns and HOLD frames
have consequences of their own (R278, Table 12-10), and so have the units of a MAIL frame. -/
def Frame.dataReserved (x : Frame) : Bool :=
  match x.ftype with
  | 2 => x.p 2 2 ≠ 0
  | 4 => 4 ≤ x.p 7 1 || x.p 0x18 8 ≠ 0
  | 5 => x.p 6 2 ≠ 0 || (x.p 0 1 = 2 && x.p 0x1A 6 ≠ 0)
  | 7 => 2 ≤ x.p 1 1 || x.p 4 4 ≠ 0
  | 8 => x.p 0 1 = 2 && (x.p 3 1 ≠ 0 || x.p 0xB 5 ≠ 0)
  | 9 => x.p 0xB 1 ≠ 0 || x.p 0xE 2 ≠ 0 || x.p 0x18 8 ≠ 0
  | 0xA => x.p 2 2 ≠ 0 || x.p 0xB 1 ≠ 0 || 2 ^ 20 ≤ x.p 0xC 4
  | _ => false

/-- Discarded and counted by R271. A target kind that Table 12-2 reserves counts as a reserved field that is set. -/
def Frame.malformed (x : Frame) : Bool :=
  x.ftype = 0 || 0xB ≤ x.ftype || x.reservedSet || 5 ≤ x.tkind || !x.laneOk || (x.lane = 0 && 256 < x.plen) || x.dataReserved

/-- A PRESENCE of the port's own peer: its payload names the cell that sent it; in a copy that R287 forwards the two differ (log 91). -/
def Frame.firstHand (x : Frame) : Bool :=
  x.p 4 1 = x.scell && (x.p 2 2 = x.sseat || (x.p 2 2 = 0xFFFF && x.sseat = 0))

/-- Acts at the port it arrives on, whatever its destination: first-hand PRESENCE, HOLD, CREDIT returns, link TIME frames. -/
def Frame.linkLevel (x : Frame) : Bool :=
  (x.ftype = 4 && x.firstHand) || x.ftype = 6 || x.isCredit1 || (x.ftype = 7 && x.p 0 1 ≤ 3)

/-- The frame sent again: RESENT set (R268), its check as good as it was. -/
def Frame.again (x : Frame) : Frame :=
  if x.resent then x
  else
    let y : Frame := { x with hdr := BitVec.ofNat 256 (x.hdr.toNat + 2 ^ 10) }
    if x.check = x.goodCheck then y.withCheck else y

end Sys2Proof

namespace Sys2Proof.Machine

/-- What a frame of this module carries (Table 12-2); the rest of the header follows from its sender, whose step number it carries
unless it names one. -/
structure Out where
  ftype  : Nat
  lane   : Nat := 0
  sparse : Bool := false
  side   : Bool := false
  dseat  : Nat
  dcell  : Nat
  tenant : Nat := 0xFF
  origin : Nat
  tensor : Nat := 0
  tkind  : Nat := 0
  tseq   : Nat := 0
  sgroup : Nat := 0xFFFF
  sctr   : Nat := 0xFFFF
  aux    : Nat := 0
  step   : Option Nat := none
  plen   : Nat
  data   : Nat
  deriving DecidableEq, Repr

/-- Header of a frame from (`seat`, `c`) at step `step` with lane 0 sequence `seqno`. -/
def Out.frame (o : Out) (seat c step seqno : Nat) : Frame :=
  let b (x : Bool) : Nat := if x then 1 else 0
  let hdr := o.ftype % 16 + (o.lane % 8) * 2 ^ 4 + b o.sparse * 2 ^ 8 + b o.side * 2 ^ 9 + (o.plen % 2 ^ 16) * 2 ^ 16 +
    (o.dseat % 1024) * 2 ^ 32 + (o.dcell % 8) * 2 ^ 42 + (seat % 1024) * 2 ^ 48 + (c % 8) * 2 ^ 58 +
    (o.tenant % 256) * 2 ^ 64 + (o.origin % 256) * 2 ^ 72 + (step % 2 ^ 16) * 2 ^ 80 + (o.tensor % 2 ^ 24) * 2 ^ 96 +
    (o.tkind % 16) * 2 ^ 120 + (o.tseq % 2 ^ 20) * 2 ^ 128 + (o.sctr % 2 ^ 16) * 2 ^ 160 + (o.sgroup % 2 ^ 16) * 2 ^ 176 +
    (o.aux % 2 ^ 16) * 2 ^ 192 + (seqno % 2 ^ 16) * 2 ^ 208
  Frame.withCheck { hdr := BitVec.ofNat 256 hdr, data := o.data % 2 ^ (8 * o.plen) }

/-! ## Ports and routes -/

/-- Quarantines in the port's doubling series: an hour run without one ends the series (R300). -/
def Port.series (p : Port) (now : Nat) : Nat := if p.quarUntil.isNone && p.qend + 3600000000000 ≤ now then 0 else p.qcount

/-- Port `p` of the cell counts as up for routes: trained and not quarantined (R16, R284). -/
def Port.usable (p : Port) : Bool := p.up && p.quarUntil.isNone

/-- A HOLD without end makes the link count as down (R304). -/
def Port.dead (p : Port) : Bool := !p.usable || p.holdUntil = some (2 ^ 64 - 1)

/-- A HOLD received is in force at local time `now` (R304). -/
def Port.held (p : Port) (now : Nat) : Bool :=
  match p.holdUntil with
  | none => false
  | some u => now < u

/-- Internal port of cell `a` toward cell `b` of the other class (R15). -/
def internalPort (a b : Nat) : Option Nat :=
  match a ^^^ b with
  | 1 => some 0
  | 2 => some 1
  | 4 => some 2
  | 7 => some 3
  | _ => none

/-- The cell at the other end of internal port `p` (R15, Table 1-3). -/
def internalPeer (c p : Nat) : Nat := c ^^^ ([1, 2, 4, 7].getD p 0)

/-- Local delivery to the Manager's program through the host anchor (R17: index 13). -/
def anchorIndex : Nat := 13

/-- The internal link between adjacent cells is up at both ends. -/
def State.linkUp (s : State) (a b : Nat) : Bool :=
  match internalPort a b, internalPort b a with
  | some p, some q => !((s.cell a).port p).dead && !((s.cell b).port q).dead
  | _, _ => false

/-- The output a frame for (`seat`, `cell`) takes at cell `c`'s switch (R15, R16, R283, R284); `none` where no route is
left. -/
def State.route (s : State) (c seat cell : Nat) : Option Nat :=
  if seat = s.mySeat then
    if cell = c then some anchorIndex
    else match internalPort c cell with
      | some p => if ((s.cell c).port p).dead then none else some p
      | none =>
        match allCells.find? (fun m => (internalPort c m).isSome && s.linkUp c m && s.linkUp m cell) with
        | some m => internalPort c m
        | none => none
  else
    let r := ((s.cell c).korif.routes.get 0xFF (8 * seat + cell)).toNat
    let cand := [r % 16, r / 16].filter (fun p => p < 12 && !((s.cell c).port p).dead)
    match cand.filter (fun p => !((s.cell c).port p).held s.now) with
    | p :: _ => some p
    | [] => cand.head?

/-- An external port whose peer is not known to sit at the module's own table is idle (R286). -/
def State.idlePort (s : State) (c p : Nat) : Bool :=
  4 ≤ p && p < 12 &&
  match ((s.cell c).port p).peer with
  | none => true
  | some pr => !s.seating.seated || fld pr.toNat 8 8 = 0 || fld pr.toNat 8 8 ≠ s.seating.tableId.toNat

/-- Nothing but credits keeps the frame back at port `p` of cell `c`: the port is up, a HOLD and an idle port let its type pass. -/
def State.mayGo (s : State) (c p : Nat) (x : Frame) : Bool :=
  let q := (s.cell c).port p
  q.usable && (!q.held s.now || x.holdOk) && (!s.idlePort c p || x.idleOk)

/-- The frame may leave port `p` of cell `c` now. -/
def State.mayLeave (s : State) (c p : Nat) (x : Frame) : Bool :=
  s.mayGo c p x && (x.isCredit1 || x.need ≤ ((s.cell c).port p).credits.getD x.lane 0)

/-- Button key of a queued frame (R70, R71): source cell and arrival index. -/
def qKey (a : Nat × Frame) : Nat := 16 * (8 * a.2.sseat + a.2.scell) + a.1

/-- The head of a lane, the frame that R71 chooses, when it holds its credits (R280). -/
def State.pickLane (s : State) (c p lane : Nat) : Option (Nat × Frame) :=
  let q := (s.cell c).port p
  let cand := q.queue.filter (fun a => a.2.lane = lane && s.mayGo c p a.2)
  match keyWin q.btnKey (cand.map qKey) with
  | none => none
  | some key => (cand.find? (fun a => qKey a = key)).filter (fun a => s.mayLeave c p a.2)

/-- The next frame of an output: CREDIT returns, then lane 0, then lanes 1–7 by their button (R280). -/
def State.pickFrame (s : State) (c p : Nat) : Option (Nat × Frame) :=
  let q := (s.cell c).port p
  match q.queue.find? (fun a => a.2.isCredit1 && s.mayLeave c p a.2) with
  | some a => some a
  | none =>
    match s.pickLane c p 0 with
    | some a => some a
    | none =>
      match buttonWin 7 q.laneBtn (([1, 2, 3, 4, 5, 6, 7].filter (fun l => (s.pickLane c p l).isSome)).map (· - 1)) with
      | some l => s.pickLane c p (l + 1)
      | none => none

/-- One frame leaves port `p`: its credits are spent, the buttons move, and until it is acknowledged it may have to be sent again
(R69, R71, R268, R278). -/
def State.sendOne (s : State) (c p : Nat) (a : Nat × Frame) : State :=
  (s.onCell c (fun k => k.onPort p (fun q =>
    { q with
      queue := q.queue.erase a
      unacked := if a.2.isCredit1 then q.unacked else q.unacked ++ [a]
      credits := if a.2.isCredit1 then q.credits
        else q.credits.set a.2.lane (q.credits.getD a.2.lane 0 - a.2.need)
      laneBtn := if a.2.lane = 0 then q.laneBtn else buttonNext 7 (a.2.lane - 1)
      btnKey := if a.2.isCredit1 then q.btnKey else qKey a + 1 }))).emit (.frame c p a.2)

/-- Everything that may leave port `p` leaves, in the order of R280. -/
def State.pumpN : Nat → State → Nat → Nat → State
  | 0, s, _, _ => s
  | n + 1, s, c, p =>
    match s.pickFrame c p with
    | none => s
    | some a => State.pumpN n (s.sendOne c p a) c p

def State.pump (s : State) (c p : Nat) : State := State.pumpN ((s.cell c).port p).queue.length s c p

/-- A frame that came in at index `idx` into output `p` of cell `c`; an external output adds 1 to Hops, and a frame with
Hops at 15 is discarded and counted there (R284). Index 13 is local delivery to the Manager's program. -/
def State.enqueue (s : State) (c p idx : Nat) (x : Frame) : State :=
  if p = anchorIndex then s.emit (.frame c p x)
  else if 4 ≤ p ∧ x.hops = 15 then s.onCell c (fun k => k.onPort p (fun q => { q with errors := q.errors + 1 }))
  else
    let x' := if 4 ≤ p then x.hop else x
    (s.onCell c (fun k => k.onPort p (fun q => { q with queue := q.queue ++ [(idx, x')] }))).pump c p

/-- The frame of cell `c` for what `o` says, counted in the lane 0 sequence of its destination (Table 12-2). -/
def State.mkFrame (s : State) (c : Nat) (o : Out) : Frame × State :=
  let key := 8 * o.dseat + o.dcell
  let n := (s.cell c).korif.sent.get 0 key
  let x := o.frame s.mySeat c (o.step.getD (s.cell c).step.number) (if o.lane = 0 then n else 0)
  (x, if o.lane = 0 then
        s.onCell c (fun k => { k with korif := { k.korif with sent := k.korif.sent.set 0 key ((n + 1) % 65536) } })
      else s)

/-- Cell `c` sends a frame over its route; `idx` is the requester's index at the switch. R17 gives 12 to the U-die link and on cell 0
13 to the anchor; DESIGN CHOICE (log 90): the cell's own cores and mover ask with index 0, the supervisor of every cell with 13, and
a shuffle's frames with 12. The Bool says whether a route was there. -/
def State.send (s : State) (c idx : Nat) (o : Out) : State × Bool :=
  if s.seating.departed.contains o.dseat then (s, false)
  else
    match s.route c o.dseat o.dcell with
    | none => (s, false)
    | some p =>
      let (x, s1) := s.mkFrame c o
      (s1.enqueue c p idx x, true)

/-- Cell `c` sends a frame out of port `p` whatever the route (link frames: CREDIT, HOLD, PRESENCE, TIME). -/
def State.sendPort (s : State) (c p : Nat) (o : Out) : State :=
  let (x, s1) := s.mkFrame c o
  s1.enqueue c p 13 x

/-- Identity of a cell's supervisor, scheduler and U-die (Table 14-10). -/
def idSupervisor (c : Nat) : Nat := 0x58 + c
def idScheduler (c : Nat) : Nat := 0x48 + c
def idUdie (c : Nat) : Nat := 0x50 + c

/-- A VOID from cell `c` (Table 12-3): reason, tenant, step, tensor, first tile sequence. One for the cell itself acts there at once
(R275). -/
def State.voidFor (s : State) (c seat cell reason tenant step tensor seq : Nat) : State :=
  if seat = s.mySeat ∧ cell = c then s.causeAt c reason tenant (step % 2 ^ 32)
  else (s.send c 13
    { ftype := 0xA, dseat := seat, dcell := cell, tenant := tenant, origin := idSupervisor c, plen := 16,
      data := pack [(1, reason), (1, tenant), (2, 0), (4, step), (3, tensor), (1, 0), (4, seq % 2 ^ 20)] }).1

/-- A VOID for frames of the cell's own step. -/
def State.sendVoid (s : State) (c seat cell reason tenant tensor seq : Nat) : State :=
  s.voidFor c seat cell reason tenant (s.cell c).step.number tensor seq

/-- The step number nearest to the cell's own whose low 16 bits a frame carries (Table 12-2). -/
def nearStep (own low : Nat) : Nat :=
  let d := (low + 2 ^ 16 - own % 2 ^ 16) % 2 ^ 16
  if d < 2 ^ 15 then own + d else own + d - 2 ^ 16

/-- A VOID back to the source of a frame, for the step of that frame (R270, R284, R309). -/
def State.voidBack (s : State) (c : Nat) (x : Frame) (reason : Nat) : State :=
  s.voidFor c x.sseat x.scell reason x.tenant (nearStep (s.cell c).step.number x.fstep) x.tensor.toNat x.tseq

/-- A HOLD out of port `p` (Table 12-10). -/
def State.sendHold (s : State) (c p reason off hint : Nat) : State :=
  s.sendPort c p
    { ftype := 6, dseat := 0, dcell := 0, origin := idSupervisor c, plen := 16,
      data := pack [(1, reason), (3, 0), (4, off), (4, hint), (4, 0)] }

/-- The owed credits of port `p` return in one CREDIT frame (R278, Table 12-4). -/
def State.returnCredits (s : State) (c p : Nat) : State :=
  let q := (s.cell c).port p
  if q.owed.all (· = 0) then s
  else
    let s1 := s.onCell c (fun k => k.onPort p (fun q =>
      { q with room := List.zipWith (· + ·) q.room q.owed, owed := [0, 0, 0, 0, 0, 0, 0, 0] }))
    s1.sendPort c p
      { ftype := 8, dseat := 0, dcell := 0, origin := idSupervisor c, plen := 32,
        data := pack ([(1, 1), (15, 0)] ++ q.owed.map (fun n => (2, n))) }

/-- `n` credits of lane `l` fall due at port `p`; 64 owed on a lane return at once (R278). -/
def State.oweCredits (s : State) (c p l n : Nat) : State :=
  let s1 := s.onCell c (fun k => k.onPort p (fun q => { q with owed := q.owed.set l (q.owed.getD l 0 + n) }))
  if ((s1.cell c).port p).owed.any (64 ≤ ·) then s1.returnCredits c p else s1

/-- MAIL units to (0, 0): each a (class, 64 bytes), four to a frame (R276). -/
def State.mailUnits : Nat → State → Nat → List (Nat × Nat) → State
  | 0, s, _, _ => s
  | n + 1, s, c, us =>
    match us with
    | [] => s
    | _ =>
      let now := us.take 4
      let s1 := (s.send c 13
        { ftype := 3, dseat := 0, dcell := 0, origin := idSupervisor c,
          aux := (now.zipIdx.map (fun a => (a.1.1 % 16) <<< (4 * a.2))).foldl (· + ·) 0, plen := 64 * now.length,
          data := pack (now.map (fun u => (64, u.2))) }).1
      State.mailUnits n s1 c (us.drop 4)

/-- MAIL units to the Manager, when the module holds a seat and is not orphaned (R276, R293). -/
def State.mail (s : State) (c : Nat) (us : List (Nat × Nat)) : State :=
  if s.seating.seated && !s.seating.orphaned then State.mailUnits us.length s c us else s

/-- An event of error record: into ring `c` and, on a seated module for severities 2 and 3, to (0, 0) as a MAIL record
unit, at most 1,000 a second per cell; beyond that the lost count rises (R329). -/
def State.err (s : State) (c : Nat) (e : Ev) : State :=
  let r := s.mkErr c e
  let s1 := s.errLocal c e
  if e.sev < 2 || !s.seating.seated then s1
  else
    let l := recentTimes s.now 1000000000 (s.mgmt.mails.get [] c)
    if l.length < 1000 then
      ({ s1 with mgmt := { s1.mgmt with mails := s1.mgmt.mails.set [] c (l ++ [s.now]) } }).mail c [(2, r.bytes)]
    else s1.onCell c (fun k => { k with err := { k.err with lost := satAdd k.err.lost 1 } })

/-- A frame for another destination crosses the switch of cell `c` (R16, R283, R284); with no route left it is discarded
and a VOID with LINK goes back to its source. -/
def State.relay (s : State) (c idx : Nat) (x : Frame) : State :=
  match s.route c x.dseat x.dcell with
  | some p => s.enqueue c p idx x
  | none => s.voidBack c x vLINK

end Sys2Proof.Machine
end

