-- ==== Sys2Proof/Machine/Channels.lean ====
section
/-!
DEFINITION. Mailbox channels (R344–R348) and completions of entries (R340, Tables 14-6, 14-8): what every path of a
command ends in.
-/

namespace Sys2Proof.Machine

/-! ## Power state of a cell as commands meet it -/

/-- A wake event for the cell (R363): a cell in a deeper state begins to leave it. -/
def State.wake (s : State) (c : Nat) : State :=
  let k := s.cell c
  if k.init && k.power.state ≠ .c0 then s.setCell c { k with power := { k.power with waking := true } } else s

/-! ## Channels -/

/-- The cell a channel belongs to (R35). -/
def chanCell (n : Nat) : Nat := n / 8

/-- Binding register of channel `n`. -/
def State.binding (s : State) (n : Nat) : BindReg := (s.cell (chanCell n)).binds.get BindReg.reset (n % 8)

/-- Side of identity `who` on channel `n`: `some true` for A, `some false` for B, `none` for a stranger (R344). -/
def State.chanSide (s : State) (n : Nat) (who : BitVec 8) : Option Bool :=
  let b := s.binding n
  if !b.valid then none else if b.idA = who then some true else if b.idB = who then some false else none

/-- The identity that receives in a direction: B for A to B. -/
def State.chanTo (s : State) (n : Nat) (ab : Bool) : BitVec 8 := if ab then (s.binding n).idB else (s.binding n).idA

def Chan.dir (x : Chan) (ab : Bool) : ChanDir := if ab then x.ab else x.ba
def Chan.setDir (x : Chan) (ab : Bool) (d : ChanDir) : Chan := if ab then { x with ab := d } else { x with ba := d }

def State.onDir (s : State) (n : Nat) (ab : Bool) (f : ChanDir → ChanDir) : State :=
  s.setChan n ((s.chan n).setDir ab (f ((s.chan n).dir ab)))

/-- A word into a direction; a full queue discards it, sets SEND_OVF and counts it (R345). -/
def ChanDir.push (d : ChanDir) (w : BitVec 32) : ChanDir :=
  if d.queue.length < 16 then { d with queue := d.queue ++ [w] } else { d with ovf := true, drop := satAdd d.drop 1 }

/-- The receiver takes the oldest word: a read that empties the queue clears the event; a read of an empty queue gives
zero and sets RECV_UNDER (R344, R346). -/
def ChanDir.pop (d : ChanDir) : BitVec 32 × ChanDir :=
  match d.queue with
  | [] => (0, { d with under := true })
  | w :: r => (w, { d with queue := r, pend := d.pend && !r.isEmpty })

/-- Units of Table 14-11 for words toward the Manager, seven words each, the last with DOORBELL (R348). -/
def mboxUnits : Nat → Nat → List (BitVec 32) → List (Nat × Nat)
  | 0, _, _ => []
  | k + 1, n, ws =>
    match ws with
    | [] => []
    | _ =>
      let now := ws.take 7
      let rest := ws.drop 7
      (2, pack ([(1, 0x12), (1, n), (1, now.length), (1, if rest.isEmpty then 1 else 0)] ++
        now.map (fun w => (4, w.toNat)))) :: mboxUnits k n rest

/-- An event toward the receiver rises (R346): MSI-X vector 1, an in-band interrupt, or a wake of the cell. -/
def State.raiseEvent (s : State) (n : Nat) (who : BitVec 8) : State :=
  let w := who.toNat
  if w < 0x40 then s.msix w 1
  else if w = 0x60 then s.emit (.ibi n)
  else if (0x48 ≤ w ∧ w ≤ 0x4F) ∨ (0x50 ≤ w ∧ w ≤ 0x57) then s.wake (w % 8)
  else s

/-- The doorbell of a direction rings: it sets the receiver's event if clear and raises it; a pending one only adds to
COALESCED (R346). Toward the Manager every queued word leaves at once (R348). -/
def State.ring (s : State) (n : Nat) (ab : Bool) : State :=
  let who := s.chanTo n ab
  if who = 0x70 then
    let ws := ((s.chan n).dir ab).queue
    (s.onDir n ab (fun d => { d with queue := [], pend := false })).mail (chanCell n) (mboxUnits 3 n ws)
  else if ((s.chan n).dir ab).pend then s.onDir n ab (fun d => { d with coal := satAdd d.coal 1 })
  else (s.onDir n ab (fun d => { d with pend := true })).raiseEvent n who

/-- Words that wait in a direction (a STATUS record, R347) go into the queue when all of them fit; the doorbell follows. -/
def State.flushDir (s : State) (n : Nat) (ab : Bool) : State :=
  let d := (s.chan n).dir ab
  if d.waits.isEmpty ∨ 16 < d.queue.length + (d.waits.take 8).length then s
  else (s.onDir n ab (fun d => { d with queue := d.queue ++ d.waits.take 8, waits := d.waits.drop 8 })).ring n ab

/-- Both queues of a channel are emptied and its doorbells and counters cleared (R48, R344); answers the words lost. -/
def State.emptyChan (s : State) (n : Nat) : State × Nat :=
  (s.setChan n { Chan.reset with lastRec := (s.chan n).lastRec },
   (s.chan n).ab.queue.length + (s.chan n).ba.queue.length)

/-- A stranger's write, or read of RECV_DATA, does nothing and is counted: a COMMAND record at most once a second of the
channel (R344). -/
def State.strangerAccess (s : State) (n : Nat) (who : BitVec 8) : State :=
  let due := match (s.chan n).lastRec with
    | none => true
    | some t0 => t0 + 1000000000 ≤ s.now
  if due then
    (s.setChan n { s.chan n with lastRec := some s.now }).err (chanCell n)
      { cls := clsCOMMAND, sev := 1, unit := 6, obj := n, detail := who.toNat }
  else s

/-! ## Completions (R340, R276, R347) -/

/-- How a command ended (Table 14-8). -/
structure Done where
  status : Nat
  result : Nat := 0
  reason : Nat := 0
  tag    : Nat := 0
  deriving DecidableEq, Repr

/-- The 32 bytes of a STATUS record (Table 14-8). -/
def statusRec (s : State) (c slot : Nat) (e : Entry) (d : Done) : Nat :=
  pack [(1, 4), (1, d.status), (1, entryTenant e), (1, c), (1, e.fld 0 1), (1, d.reason), (2, slot), (8, s.time c),
    (8, d.result), (4, d.tag), (4, 0)]

/-- The completion of an entry at cell `c` by the path it came (Table 14-6): a STATUS record on the sender's ring, a
status unit to the Manager (R276), or eight words of the channel's opposite direction (R347). -/
def State.complete (s : State) (c : Nat) (src : Source) (e : Entry) (d : Done) : State :=
  match src.path with
  | .ring slot =>
    s.queueRec src.who.toNat
      { slots := [BitVec.ofNat 256 (statusRec s c slot e d)], status := true, entry := none, learn := none }
  | .mail => s.mail c [(4, pack [(1, 1), (1, e.fld 0 1), (1, d.status), (5, 0), (8, e.fld 0 8)])]
  | .box n =>
    -- the receiver of the words answers into the opposite direction: away from the sender's other side
    let ab := (s.binding n).idB = src.who
    let r := statusRec s c 0xFFFF e d
    let ws := (List.range 8).map (fun j => BitVec.ofNat 32 (bits r (32 * j) 32))
    (s.onDir n ab (fun q => { q with waits := q.waits ++ ws })).flushDir n ab

/-- A record for the Manager, or for a host function's ring, that carries no entry to be freed. -/
def State.recordTo (s : State) (fn : Nat) (c : Nat) (r : Nat) : State :=
  if fn = 0x70 then s.mail c [(2, r)]
  else s.queueRec fn { slots := [BitVec.ofNat 256 r], status := false, entry := none, learn := none }

/-! ## Meanings -/

/-- Access of identity `who` to a channel window as the register space gives it: the module supervisor runs (Table
14-2), and host functions need their paths' registers. -/
def State.mayWindow (s : State) (who : BitVec 8) : Bool :=
  s.anchorUp && !s.boot.safe && (if who.toNat < 0x40 then s.barUp && s.fnOn who.toNat else true)

/-- SEND_DATA (Table 14-9, R345). -/
def State.sendWord (s : State) (n : Nat) (who : BitVec 8) (w : BitVec 32) : State :=
  match s.chanSide n who with
  | none => s.strangerAccess n who
  | some a => s.onDir n a (fun d => d.push w)

/-- SEND_DB (Table 14-9, R346): writing 1 in bit 0 rings the send doorbell. -/
def State.sendBell (s : State) (n : Nat) (who : BitVec 8) (w : BitVec 32) : State :=
  match s.chanSide n who with
  | none => s.strangerAccess n who
  | some a => if w.getLsbD 0 then s.ring n a else s

/-- RECV_DATA (Table 14-9, R344, R346): the oldest word, and the state after its removal; then waiting words may enter. -/
def State.recvWord (s : State) (n : Nat) (who : BitVec 8) : BitVec 32 × State :=
  match s.chanSide n who with
  | none => (0, s.strangerAccess n who)
  | some a =>
    let (w, d) := ((s.chan n).dir (!a)).pop
    (w, (s.onDir n (!a) (fun _ => d)).flushDir n (!a))

/-- A write at 0x010: bit 8 clears the receiver's event, bit 9 clears RECV_UNDER (W1C, Table 14-9, R346). -/
def State.recvClear (s : State) (n : Nat) (who : BitVec 8) (w : BitVec 32) : State :=
  match s.chanSide n who with
  | none => s.strangerAccess n who
  | some a => s.onDir n (!a) (fun d =>
      { d with pend := d.pend && !w.getLsbD 8, under := d.under && !w.getLsbD 9 })

/-- A write at 0x008: bit 9 clears SEND_OVF (W1C, Table 14-9). -/
def State.sendClear (s : State) (n : Nat) (who : BitVec 8) (w : BitVec 32) : State :=
  match s.chanSide n who with
  | none => s.strangerAccess n who
  | some a => s.onDir n a (fun d => { d with ovf := d.ovf && !w.getLsbD 9 })

/-- The window word at `off` as `who` reads it, but for RECV_DATA (Table 14-9); a stranger sees BOUND as 0 and the counts
from side A as they stand (R344). -/
def State.windowWord (s : State) (n : Nat) (who : BitVec 8) (off : Nat) : Nat :=
  let side := s.chanSide n who
  let a := side.getD true
  let snd := (s.chan n).dir a
  let rcv := (s.chan n).dir (!a)
  let b (x : Bool) : Nat := if x then 1 else 0
  let bd := s.binding n
  if off = 0x008 then b snd.ovf * 2 ^ 9 + b snd.pend * 2 ^ 8 + (16 - snd.queue.length)
  else if off = 0x010 then b rcv.under * 2 ^ 9 + b rcv.pend * 2 ^ 8 + rcv.queue.length
  else if off = 0x014 then
    b side.isSome * 2 ^ 31 + b (side = some false) * 2 ^ 30 +
    (if bd.valid then bd.idB.toNat * 2 ^ 8 + bd.idA.toNat else 0)
  else if off = 0x018 then rcv.coal.toNat
  else if off = 0x01C then snd.drop.toNat
  else 0

/-! ## Kinds of entry and the paths they come by (R340, R347, R404, Table 14-6) -/

/-- Kinds that a submission ring carries. -/
def ringKinds : List Nat :=
  [0x01, 0x02, 0x03, 0x10, 0x11, 0x20, 0x21, 0x22, 0x23, 0x24, 0x25, 0x26, 0x28, 0x30, 0x31, 0x32, 0x33, 0x34, 0x35]

/-- Kinds that an internal receiver takes from a channel: a U-die its own commands, a cell scheduler or the module supervisor all but
requests, cancels and MAILBOX. -/
def boxKinds (recv : BitVec 8) : List Nat :=
  if 0x50 ≤ recv.toNat ∧ recv.toNat ≤ 0x57 then [0x30, 0x31, 0x32, 0x33, 0x34, 0x35]
  else ringKinds.filter (fun k => k ≠ 0x20 && k ≠ 0x21)

/-- The path accepts the kind. -/
def State.kindOk (s : State) (src : Source) (kind : Nat) : Bool :=
  match src.path with
  | .ring _ => ringKinds.contains kind
  | .mail => (ringKinds ++ [0x27, 0x29]).contains kind
  | .box n => match s.chanSide n src.who with
    | none => false
    | some a => (boxKinds (s.chanTo n a)).contains kind

end Sys2Proof.Machine
end

