-- ==== Sys2Proof/Machine/Flags.lean ====
section
/-!
DEFINITION. Every status that is computed from the state and held nowhere: rated draw, limits, token cap, alert, module
status, register status bits, PLDM sensors; and the frame of a command: time, its effect, then the events it caused.
-/

namespace Sys2Proof.Machine

/-! ## The active figure -/

def State.fig (s : State) (c : Nat) : Option Figure := (s.cell c).fig.active

def Figure.tenantRec (f : Figure) (t : Nat) : Option TenantRec := f.tenants.find? (fun r => r.tenant = t)
def Figure.poolRec (f : Figure) (t : Nat) : Option PoolRec := f.pools.find? (fun r => r.tenant = t)
def Figure.reqtabRec (f : Figure) (t : Nat) : Option ReqtabRec := f.reqtabs.find? (fun r => r.tenant = t)
def Figure.queueRec (f : Figure) (t : Nat) : Option QueueRec := f.queues.find? (fun r => r.tenant = t)

/-- TENANT record of tenant `t` in the active figure of a cell. -/
def Cell.tenantRec (k : Cell) (t : Nat) : Option TenantRec := (k.fig.active).bind (fun f => f.tenantRec t)

/-- Host function of a tenant: 0xFF when it has none (Table 2-6). -/
def Cell.tenantFn (k : Cell) (t : Nat) : Nat := ((k.tenantRec t).map (·.hostFn)).getD 0xFF

/-- Cores of a tenant in the active figure, in increasing number (Table 2-6). -/
def TenantRec.coreList (r : TenantRec) : List Nat := (List.range 128).filter (fun n => r.cores.getLsbD n)

/-- The core is out of the deal: fenced or under test (R63, R321). -/
def Core.out (x : Core) : Bool := x.fenced || x.testing

/-- Fenced or tested cores of a tenant in the cell (R319). -/
def Cell.outCores (k : Cell) (t : Nat) : Nat :=
  match k.tenantRec t with
  | none => 0
  | some r => (r.coreList.filter (fun n => (k.core n).out)).length

/-- R319 applies to some tenant of the cell. -/
def Cell.beyondReserve (k : Cell) : Bool :=
  match k.fig.active with
  | none => false
  | some f => f.tenants.any (fun r => 2 < k.outCores r.tenant)

/-! ## Power (R350, R352 to R354) -/

/-- Twice the rated draw R_c in W of a POWER section (R352: 90 W and 17.5, 12 or 8 W a cluster that is not off). -/
def Figure.rated2 (f : Figure) : Nat :=
  180 + (f.power.map (fun r => if r.idle = 3 then 0 else [35, 24, 16].getD r.clock 0)).sum

/-- Twice R_c of a cell; 0 without an active figure. -/
def Cell.rated2 (k : Cell) : Nat := (k.fig.active.map Figure.rated2).getD 0

def Cell.minShare (k : Cell) : Nat := (k.fig.active.map (·.minShare)).getD 0
def Cell.maxShare (k : Cell) : Nat := (k.fig.active.map (·.maxShare)).getD 0

/-- The effective limit: the larger of L and 40 W plus the sum of the minimum shares (R350). -/
def State.effLimit (s : State) : Nat :=
  max s.supply.limit (40 + (allCells.map (fun c => (s.cell c).minShare)).sum)

/-- Token cap of share `sh` under twice-rated draw `r2` (R354). -/
def tokenCap (sh r2 : Nat) : Nat :=
  if r2 ≤ 2 * sh then 8192 else if sh ≤ 90 then 0 else 256 * (32 * (2 * sh - 180) / (r2 - 180))

/-- Token cap of a cell; 0 without a figure. -/
def Cell.cap (k : Cell) : Nat := if k.fig.active.isNone then 0 else tokenCap k.power.share k.rated2

/-! ## Alert and status (R330, R396, R422) -/

/-- Every output of the cell is in doubt while PWR_FAIL_N counts as asserted; its links also while its switch is in doubt
(R306, R369). -/
def State.linkDoubt (s : State) (c : Nat) : Bool := s.supply.failing || (s.cell c).korif.doubt

def State.anyDoubt (s : State) : Bool := allCells.any s.linkDoubt

/-- ALERT_N is asserted (R330; R422 until 20 ms; high impedance below V_UVLO). -/
def State.alert (s : State) : Bool :=
  if s.supply.uvlo then false
  else if !(s.boot.running || s.boot.recovery) then true
  else s.boot.safe || s.anyDoubt || s.host.dmaStop || allCells.any (fun c => (s.cell c).err.fatal)

/-- A cell counts for the READY status: initialised, absent, or in a restart of its own (R364, R366, R373). -/
def Cell.settled (k : Cell) : Bool := k.init || k.absent || k.restart.isSome

/-- Module status: 1 STARTING, 2 READY, 3 RECOVERY, 4 SAFE (R396). -/
def State.status (s : State) : Nat :=
  if s.boot.safe then 4 else if s.boot.recovery then 3
  else if s.boot.running && allCells.all (fun c => (s.cell c).settled) then 2 else 1

/-- The module answers PLDM and MCTP: the supervisor runs, or recovery (R365, R396). -/
def State.mgmtUp (s : State) : Bool := s.boot.running || s.boot.recovery

def PState.num : PState → Nat
  | .c0 => 0
  | .c1 => 1
  | .c2 => 2
  | .c3 => 3
  | .c4 => 4

/-- A cell runs work: initialised, the module neither in the Safe state nor in reset (R326, R364). -/
def State.cellUp (s : State) (c : Nat) : Bool := (s.cell c).init && s.boot.islands && !s.boot.safe

/-! ## PLDM sensors (Table 16-9) -/

/-- Class of a cell temperature: 0 below 98, 1 warning, 2 critical from 103, 3 fatal from 110 °C. -/
def tempClass (t : Nat) : Nat := if t < 98 then 0 else if t < 103 then 1 else if t < 110 then 2 else 3

/-- Sensors with states or thresholds, as (identifier, state). -/
def State.sensors (s : State) : List (Nat × Nat) :=
  [(0x0001, if s.supply.vin < 38000 then 0 else if s.supply.vin ≤ 46000 then 1 else 2),
   (0x0002, if s.supply.iin ≤ 10000 then 0 else 1),
   (0x0003, if s.supply.inPower ≤ s.effLimit then 0 else 1)] ++
  allCells.map (fun c => (0x0010 + c, tempClass (s.cell c).power.temp)) ++
  allCells.map (fun c => (0x0020 + c,
    if (s.cell c).restart.isSome then 6 else if !(s.cell c).init then 5 else (s.cell c).power.state.num)) ++
  [(0x0040, if s.boot.anchorLost then 5 else s.status), (0x0041, if s.alert then 1 else 0)]

/-- An event for every sensor whose state changed from `s0` on (R399). -/
def State.senseFrom (s s0 : State) : State :=
  if !s.mgmtUp then s
  else (List.zip s0.sensors s.sensors).foldl (fun acc p =>
    if p.1.2 = p.2.2 then acc
    else acc.pldmEvent 0 [p.2.1 % 256, p.2.1 / 256, p.2.2, p.1.2]) s

/-- A command at local time `t` with effect `f`: time moves, the effect happens, the sensors it moved report (R399). -/
def State.run (s : State) (t : Nat) (f : State → State) : State := (f (s.at t)).senseFrom (s.at t)

/-! ## Update scales (R31, R250) -/

/-- UPDATE record of a layer. -/
def UDie.updateRec (u : UDie) (layer : Nat) : Option UpdateRec := u.updates.find? (fun r => r.layer = layer)

/-- sₗ of a layer that has no current value starts at its UPDATE record's, else at 0 (R31, R250). -/
def UDie.startScale (u : UDie) (layer : Nat) : Int := ((u.updateRec layer).map (·.scale)).getD 0

def UDie.scale (u : UDie) (layer : Nat) : Int := (u.scales.get none layer).getD (u.startScale layer)

end Sys2Proof.Machine
end

