-- ==== Sys2Proof/Machine/FigParse.lean ====
section
/-!
DEFINITION. Verification of a figure from its bytes (R32, R37 to R39): nine steps in order, the first failure names the
status; a figure that passes is held as typed records.
-/

namespace Sys2Proof.Machine

/-! ## Status codes (Table 2-18) -/

def stDONE : Nat := 0x00
def stLENGTH : Nat := 0x01
def stFORMAT : Nat := 0x02
def stKEY : Nat := 0x03
def stSIGNATURE : Nat := 0x04
def stROLLBACK : Nat := 0x05
def stLEVEL : Nat := 0x06
def stCELL : Nat := 0x07
def stSECTION : Nat := 0x08
def stCONSISTENCY : Nat := 0x09
def stBUSY : Nat := 0x0A
def stEMPTY : Nat := 0x0B
def stABANDONED : Nat := 0x0C
def stDENIED : Nat := 0x0D
def stCOMMAND : Nat := 0x0E

/-- The bytes of a load as one number: block `k` holds bytes 4,096·k onward (R42). -/
def blocksNum (m : SMap Payload) : Nat := m.foldl (fun acc b => acc + b.2.toNat * 2 ^ (32768 * b.1)) 0

/-- Next multiple of 64. -/
def align64 (n : Nat) : Nat := (n + 63) / 64 * 64

/-- Owner key slots with a permission bit and key identifier (R385, Table 16-2). -/
def findKey (keys : SMap (Option OwnerKey)) (perm : Nat) (ident : Nat) : Option OwnerKey :=
  (keys.filterMap (fun k => k.2)).find? (fun k => k.keyId.toNat = ident && k.perms.getLsbD perm)

/-- Signature length of an algorithm (Table 2-16). -/
def sigLen (alg : Nat) : Nat := if alg = 1 then 2420 else if alg = 2 then 4627 else 0

/-- The fixed part of a signature block (Table 2-16) at byte `off` of a blob, over the bytes before it: 0 when it
verifies, else the status of R39 steps 3 and 4. -/
def checkSignature (keys : SMap (Option OwnerKey)) (perm : Nat) (b off : Nat) : Nat :=
  let alg := fld b off 1
  let n := fld b (off + 0x2C) 2
  match findKey keys perm (fld b (off + 4) 8) with
  | none => stKEY
  | some k =>
    if sigLen alg = 0 ∨ k.alg ≠ alg then stKEY
    else
      let d := sha3 (bytesOf off b)
      if n ≠ sigLen alg ∨ fld b (off + 0xC) 32 ≠ d.toNat ∨
         !Config.mldsaVerify alg k.pub d (bytesOf n (fld b (off + 0x30) n)) then stSIGNATURE
      else stDONE

/-! ## Sections (R32, Tables 2-1, 2-3, 2-4) -/

/-- Record size and least and most records of a section type (Table 2-1). -/
def secRange (ty : Nat) : Option (Nat × Nat × Nat) :=
  match ty with
  | 0x1 => some (16, 1, 128)
  | 0x2 => some (24, 1, 64)
  | 0x3 => some (24, 1, 64)
  | 0x4 => some (8, 1, 64)
  | 0x5 => some (68, 1, 64)
  | 0x6 => some (4, 0, 8)
  | 0x7 => some (4, 16, 16)
  | 0x8 => some (12, 0, 4096)
  | 0x9 => some (12, 0, 4096)
  | 0xA => some (12, 1, 1024)
  | 0xB => some (12, 1, 131072)
  | _ => none

/-- A section as read: type, parameters, records. -/
structure Section where
  ty   : Nat
  par  : Nat
  recs : List Nat
  deriving DecidableEq, Repr

/-- Bytes `a` up to `b` of the blob are zero (padding, R32). -/
def zeroGap (b a z : Nat) : Bool := fld b a (z - a) = 0

/-- Directory entries from number `i` on, with the end of what came before; answers the sections and the last end. -/
def readSections (b : Nat) : Nat → Nat → Nat → Option (List Section × Nat)
  | 0, _, e => some ([], e)
  | n + 1, i, e =>
    let d := 0x40 + 16 * i
    let ty := fld b d 2
    let off := fld b (d + 4) 4
    let len := fld b (d + 8) 4
    match secRange ty with
    | none => none
    | some (size, lo, hi) =>
      let cnt := fld b off 4
      if fld b (d + 2) 1 ≠ 1 ∨ fld b (d + 3) 1 ≠ 0 ∨ fld b (d + 0xC) 4 ≠ 0 ∨ off % 64 ≠ 0 ∨ off < e ∨
         len ≠ 16 + cnt * size ∨ fld b (off + 4) 2 ≠ size ∨ fld b (off + 6) 2 ≠ 0 ∨ cnt < lo ∨ hi < cnt ∨
         !zeroGap b e off then none
      else
        match readSections b n (i + 1) (off + len) with
        | none => none
        | some (r, e') =>
          some ({ ty := ty, par := fld b (off + 8) 8,
                  recs := (List.range cnt).map (fun j => fld b (off + 16 + j * size) size) } :: r, e')

def secRecs (l : List Section) (ty : Nat) : List Nat := ((l.find? (fun x => x.ty = ty)).map (·.recs)).getD []
def secPar (l : List Section) (ty : Nat) : Nat := ((l.find? (fun x => x.ty = ty)).map (·.par)).getD 0
def hasSec (l : List Section) (ty : Nat) : Bool := l.any (fun x => x.ty = ty)

/-! ## Records (Tables 2-5 to 2-14) -/

def readChain (r : Nat) : ChainRec :=
  { clusters := BitVec.ofNat 16 (fld r 0 2), index := fld r 2 1, stages := (List.range (fld r 3 1)).map (fun j => fld r (4 + j) 1),
    share := fld r 0xC 2 }

def readTenant (r : Nat) : TenantRec :=
  { tenant := fld r 0 1, hostFn := fld r 1 1, gen := bit r 16, learn := bit r 17, cores := BitVec.ofNat 128 (fld r 8 16) }

def readPool (r : Nat) : PoolRec :=
  { tenant := fld r 0 1, fastBw := fld r 2 2, slowBw := fld r 4 2, fastFloor := fld r 8 4, fastLimit := fld r 0xC 4,
    slowFloor := fld r 0x10 4, slowLimit := fld r 0x14 4 }

def readReqtab (r : Nat) : ReqtabRec := { tenant := fld r 0 1, first := fld r 2 2, count := fld r 4 2 }

def readQueue (r : Nat) : QueueRec := { tenant := fld r 0 1, weights := (List.range 64).map (fun q => fld r (4 + q) 1) }

def readBind (r : Nat) : BindRec := { chan := fld r 0 1, idA := BitVec.ofNat 8 (fld r 1 1), idB := BitVec.ofNat 8 (fld r 2 1) }

def readPower (r : Nat) : PowerRec := { cluster := fld r 0 1, idle := fld r 1 1, clock := fld r 2 1 }

def readFreeze (r : Nat) : FreezeRec := { layer := fld r 0 2, whole := bit r 16, first := fld r 4 4, count := fld r 8 4 }

def readUpdate (r : Nat) : UpdateRec :=
  { layer := fld r 0 2, scale := sval 8 (fld r 2 1), fixed := bit r 24, low := BitVec.ofNat 32 (fld r 4 4),
    high := BitVec.ofNat 32 (fld r 8 4) }

def readCost (r : Nat) : CostRec :=
  { tokens := fld r 0 2, draft := fld r 2 1, context := fld r 4 4, duration := fld r 8 4 }

def readPlace (r : Nat) : PlaceRec :=
  { layer := fld r 0 2, seat := fld r 2 2, cell := fld r 4 1, kind := fld r 5 1, home := bit r 48, serve := bit r 49,
    reference := bit r 50, format := fld r 7 1, replica := fld r 8 1 }

/-- Identities a BIND record may name (Table 2-10). -/
def bindIdentOk (i : Nat) : Bool :=
  i ≤ 0x3F || i = 0x40 || (0x48 ≤ i && i ≤ 0x4F) || (0x50 ≤ i && i ≤ 0x57) || i = 0x60 || i = 0x70

/-- A positive finite FP32 word. -/
def posFinite32 (w : Nat) : Bool := 0 < w && w < 0x7F800000

/-- No value occurs twice. -/
def noDup (l : List Nat) : Bool := l.Nodup

/-- Every record of a section lies within its own record table (R39 step 8). -/
def sectionOk (cell : Nat) (x : Section) : Bool :=
  let par0 := x.par = 0
  match x.ty with
  | 0x1 => par0 && x.recs.all (fun r =>
      let n := fld r 3 1
      fld r 0 2 ≠ 0 && fld r 2 1 ≤ 7 && 1 ≤ n && n ≤ 8 &&
      (List.range 8).all (fun j => if j < n then 1 ≤ fld r (4 + j) 1 && fld r (4 + j) 1 ≤ 7 else fld r (4 + j) 1 = 0) &&
      4 ≤ fld r 0xC 2 && fld r 0xC 2 ≤ 3072 && fld r 0xC 2 % 4 = 0 && fld r 0xE 2 = 0)
  | 0x2 => par0 && x.recs.all (fun r =>
      fld r 0 1 ≤ 63 && (fld r 1 1 ≤ 0x3F || fld r 1 1 = 0xFF) && fld r 2 2 < 4 && fld r 4 4 = 0)
  | 0x3 => par0 && x.recs.all (fun r => fld r 0 1 ≤ 63 && fld r 1 1 = 0 && fld r 6 2 = 0)
  | 0x4 => par0 && x.recs.all (fun r =>
      fld r 0 1 ≤ 63 && fld r 1 1 = 0 && fld r 2 2 ≤ 16320 && fld r 2 2 % 64 = 0 && 64 ≤ fld r 4 2 && fld r 4 2 ≤ 16384 &&
      fld r 4 2 % 64 = 0 && fld r 6 2 = 0)
  | 0x5 => 1 ≤ bits x.par 0 16 && bits x.par 0 16 ≤ 256 && bits x.par 16 48 = 0 &&
      x.recs.all (fun r => fld r 0 1 ≤ 63 && fld r 1 3 = 0)
  | 0x6 => par0 && noDup (x.recs.map (fun r => fld r 0 1)) && x.recs.all (fun r =>
      fld r 0 1 / 8 = cell && bindIdentOk (fld r 1 1) && bindIdentOk (fld r 2 1) && fld r 1 1 ≠ fld r 2 1 && fld r 3 1 = 0)
  | 0x7 => 1 ≤ bits x.par 0 8 && bits x.par 0 8 ≤ 4 && bits x.par 8 8 = 0 && bits x.par 16 16 ≤ bits x.par 32 16 &&
      bits x.par 32 16 ≤ 3000 && bits x.par 48 16 = 0 && noDup (x.recs.map (fun r => fld r 0 1)) &&
      x.recs.all (fun r => fld r 0 1 ≤ 15 && fld r 1 1 ≤ 3 && fld r 2 1 ≤ 2 && fld r 3 1 = 0)
  | 0x8 => par0 && x.recs.all (fun r =>
      fld r 2 2 < 2 && (if bit r 16 then fld r 4 4 = 0 && fld r 8 4 = 0 else 1 ≤ fld r 8 4))
  | 0x9 => par0 && x.recs.all (fun r =>
      64 ≤ (fld r 2 1 + 128) % 256 && (fld r 2 1 + 128) % 256 ≤ 191 && fld r 3 1 < 2 && posFinite32 (fld r 4 4) &&
      posFinite32 (fld r 8 4) && fld r 4 4 < fld r 8 4)
  | 0xA => bits x.par 16 48 = 0 && x.recs.all (fun r =>
      1 ≤ fld r 0 2 && fld r 0 2 ≤ 8192 && fld r 2 1 ≤ 8 && fld r 3 1 = 0)
  | 0xB => 1 ≤ bits x.par 0 8 && bits x.par 0 8 ≤ 16 && bits x.par 8 56 = 0 && x.recs.all (fun r =>
      (fld r 2 2 ≤ 1023 || fld r 2 2 = 0xFFFF) && fld r 4 1 ≤ 7 && 1 ≤ fld r 5 1 && fld r 5 1 ≤ 5 && fld r 6 1 < 8 &&
      (if bit r 49 then fld r 8 1 < bits x.par 0 8 else fld r 8 1 = 0) && (fld r 6 1 ≠ 1 || fld r 7 1 = 0x0C) &&
      fld r 9 3 = 0)
  | _ => false

/-- REQTAB and QUEUE records name no tenant whose TENANT record has GEN clear (Tables 2-8, 2-9; step 8). One that TENANT does not hold is
left to Table 2-15. -/
def genSections (l : List Section) : Bool :=
  let tenants := (secRecs l 2).map readTenant
  (secRecs l 4 ++ secRecs l 5).all (fun r => tenants.all (fun t => t.tenant ≠ fld r 0 1 || t.gen))

/-- Sections a figure of the phase must have (Table 2-1, R31). -/
def presenceOk (phase : Nat) (l : List Section) : Bool :=
  [0x1, 0x2, 0x3, 0x6, 0x7].all (hasSec l) && (phase ≠ 1 || [0x4, 0x5, 0xA].all (hasSec l)) &&
  (phase = 0 || hasSec l 0xB)

/-- The typed figure of a blob whose sections have been read. -/
def typedFigure (b : Nat) (l : List Section) (digest : BitVec 256) : Figure :=
  { level := fld b 6 1, phase := fld b 7 1, ident := BitVec.ofNat 64 (fld b 8 8), secver := fld b 0x10 4,
    cellMask := BitVec.ofNat 8 (fld b 0x14 1), stop := bit b (8 * 0x15), manifest := BitVec.ofNat 256 (fld b 0x20 32),
    digest := digest,
    chains := (secRecs l 1).map readChain, tenants := (secRecs l 2).map readTenant, pools := (secRecs l 3).map readPool,
    reqtabs := (secRecs l 4).map readReqtab, quantum := bits (secPar l 5) 0 16, queues := (secRecs l 5).map readQueue,
    binds := (secRecs l 6).map readBind, deepest := bits (secPar l 7) 0 8, minShare := bits (secPar l 7) 16 16,
    maxShare := bits (secPar l 7) 32 16, power := (secRecs l 7).map readPower, freeze := (secRecs l 8).map readFreeze,
    updates := (secRecs l 9).map readUpdate, fenceReserve := bits (secPar l 0xA) 0 8, redoReserve := bits (secPar l 0xA) 8 8,
    costs := (secRecs l 0xA).map readCost, replicas := bits (secPar l 0xB) 0 8, places := (secRecs l 0xB).map readPlace }

/-! ## Consistency (R37, Table 2-15) -/

/-- Intervals [a, a + n) pairwise disjoint. -/
def disjointRanges : List (Nat × Nat) → Bool
  | [] => true
  | (a, n) :: r => r.all (fun y => a + n ≤ y.1 || y.1 + y.2 ≤ a) && disjointRanges r

/-- Bit masks pairwise disjoint. -/
def disjointMasks : List (BitVec 128) → Bool
  | [] => true
  | m :: r => r.all (fun y => m &&& y = 0) && disjointMasks r

/-- Weight formats (Table 2-15). -/
def weightFormat (f : Nat) : Bool := [1, 2, 3, 4, 5, 8, 9, 0xC, 0x10].contains f

/-- Clusters that hold a tenant core. -/
def Figure.tenantClusters (f : Figure) : List Nat :=
  (List.range 16).filter (fun c => f.tenants.any (fun r => (List.range 8).any (fun j => r.cores.getLsbD (8 * c + j))))

/-- Pool sizes of R34 in MiB. -/
def fastPool : Nat := 98240
def slowPool : Nat := 196608

/-- The rules of Table 2-15. DEDUCED (log 36): a PLACE format that is no weight format, a fence reserve other than 2 and a redo reserve of 0
break a record table as well; they are tested here alone, and end with CONSISTENCY. -/
def consistent (f : Figure) (cell : Nat) (hasCost hasPlace : Bool) : Bool :=
  let ids := f.tenants.map (·.tenant)
  let gens := (f.tenants.filter (·.gen)).map (·.tenant)
  let pairs := f.chains.flatMap (fun r => ((List.range 16).filter (fun c => r.clusters.getLsbD c)).map (fun c => 16 * r.index + c))
  let homeLocal := (f.places.filter (fun r => r.home && r.seat = 0xFFFF && r.cell = cell)).map (·.layer)
  let cores := disjointMasks (f.tenants.map (·.cores)) &&
    f.tenantClusters.all (fun c => f.power.all (fun p => p.cluster ≠ c || p.idle ≠ 3))
  let chains := noDup pairs && f.tenantClusters.all (fun c => pairs.any (fun x => x % 16 = c)) &&
    (List.range 16).all (fun c => ((f.chains.filter (fun r => r.clusters.getLsbD c)).map (·.share)).sum ≤ 3072)
  let names (l : List Nat) : Bool := noDup l && l.all ids.contains
  let tenants := noDup ids && noDup ((f.tenants.map (·.hostFn)).filter (· ≠ 0xFF)) && names (f.pools.map (·.tenant)) &&
    names (f.reqtabs.map (·.tenant)) && names (f.queues.map (·.tenant)) &&
    (f.phase ≠ 1 || gens.all (fun t => (f.reqtabs.map (·.tenant)).contains t && (f.queues.map (·.tenant)).contains t))
  let pools := (f.pools.map (·.fastFloor)).sum ≤ fastPool && (f.pools.map (·.slowFloor)).sum ≤ slowPool &&
    f.pools.all (fun p => p.fastFloor ≤ p.fastLimit && p.slowFloor ≤ p.slowLimit) &&
    (f.pools.map (·.fastBw)).sum ≤ 1000 && (f.pools.map (·.slowBw)).sum ≤ 1000
  let table := disjointRanges (f.reqtabs.map (fun r => (r.first, r.count))) &&
    f.reqtabs.all (fun r => r.first + r.count ≤ 16384)
  let costs := !hasCost || (f.fenceReserve = 2 && 1 ≤ f.redoReserve)
  let place := f.places.all (fun r => !(r.home && r.reference) && weightFormat r.format) &&
    f.places.all (fun r => 3 < r.kind || (f.places.filter (fun y => y.home && y.layer = r.layer)).length = 1) &&
    (hasPlace = decide (f.manifest ≠ 0))
  let frz := f.freeze.all (fun r => homeLocal.contains r.layer) && f.updates.all (fun r => homeLocal.contains r.layer) &&
    f.freeze.all (fun r => !r.whole || (f.freeze.filter (fun y => y.layer = r.layer)).length = 1) &&
    f.freeze.all (fun r => disjointRanges ((f.freeze.filter (fun y => y.layer = r.layer)).map (fun y => (y.first, y.count))))
  cores && chains && tenants && pools && table && costs && place && frz

/-! ## The nine steps (R39) -/

/-- Verification of `n` delivered bytes `b` for a cell: the status, and the figure when it is DONE. -/
def verifyFigure (keys : SMap (Option OwnerKey)) (floor : BitVec 32) (level cell n b : Nat) : Nat × Option Figure :=
  let total := fld b 0x18 4
  let so := fld b 0x1C 4
  let cnt := fld b 0x16 2
  if 16777216 < total ∨ total ≠ n ∨ so % 64 ≠ 0 ∨ so < 0x80 ∨ total < so + 48 ∨ total ≠ so + 48 + fld b (so + 0x2C) 2 then
    (stLENGTH, none)
  else if fld b 0 4 ≠ 0x47465456 ∨ fld b 4 2 ≠ 1 then (stFORMAT, none)
  else if checkSignature keys 0 b so ≠ stDONE then (checkSignature keys 0 b so, none)
  else if fld b 0x10 4 < floor.toNat then (stROLLBACK, none)
  else if fld b 6 1 = 0 ∨ min 3 level < fld b 6 1 then (stLEVEL, none)
  else if !bit b (8 * 0x14 + cell) then (stCELL, none)
  else
    let dirEnd := 0x40 + 16 * cnt
    if 2 < fld b 7 1 ∨ 1 < fld b 0x15 1 ∨ cnt = 0 ∨ 11 < cnt ∨ so < dirEnd ∨ fld b (so + 1) 3 ≠ 0 ∨ fld b (so + 0x2E) 2 ≠ 0 then
      (stSECTION, none)
    else
      match readSections b cnt 0 dirEnd with
      | none => (stSECTION, none)
      | some (l, e) =>
        if so ≠ align64 e || !zeroGap b e so || !noDup (l.map (·.ty)) || !l.all (sectionOk cell) || !genSections l ||
           !presenceOk (fld b 7 1) l then (stSECTION, none)
        else
          let f := typedFigure b l (sha3 (bytesOf so b))
          if consistent f cell (hasSec l 0xA) (hasSec l 0xB) then (stDONE, some f) else (stCONSISTENCY, none)

end Sys2Proof.Machine
end

