-- ==== Sys2Proof/Machine/Link.lean ====
section
/-!
DEFINITION. What a Korif port does with a frame before its command acts: rate, credits, HOLD answers, header check,
departed seats, resends and the identity rules (R268, R270 to R272, R282, R292, R302, R303), and a port's fall (R268,
R300).
-/

namespace Sys2Proof.Machine

/-! ## Ports going down (R268, R300) -/

/-- Both ends of a port: an internal port has two on the module (R15), an external one. -/
def portEnds (c p : Nat) : List (Nat × Nat) :=
  if p < 4 then [(c, p), (internalPeer c p, p)] else [(c, p)]



/-- The frame is for the peer of port `p` alone, so that no other way leads to where it goes: a link frame, or a JOIN or TIME frame
toward a peer outside the table. -/
def State.forPeer (s : State) (c p : Nat) (x : Frame) : Bool := x.linkLevel || (s.idlePort c p && x.idleOk)

/-- The frames of a link find another way: those that wait for it (R304), and where the link is down those not acknowledged, sent
again with RESENT (R268, R284). Frames for the peer alone stay on a held link and end with one that is down. -/
def State.rerouteQueue (s : State) (c p : Nat) (down : Bool) : State :=
  let q := (s.cell c).port p
  let s1 := s.onCell c (fun k => k.onPort p (fun x =>
    { x with queue := if down then [] else x.queue.filter (fun a => s.forPeer c p a.2)
             unacked := if down then [] else x.unacked }))
  let l := (if down then q.unacked.map (fun a => (a.1, a.2.again)) else []) ++ q.queue
  (l.filter (fun a => !s.forPeer c p a.2)).foldl (fun acc a => acc.relay c a.1 (if 4 ≤ p then a.2.unhop else a.2)) s1

/-- Seconds of a port's next quarantine: 10, doubling up to 600 (R300). -/
def quarSeconds (count : Nat) : Nat := min 600 (10 * 2 ^ count)

/-- One end of a port goes down to retrain; the fifth time within 1 s it is quarantined (R268, R300). A HOLD until further notice ends with
the link that it was given on (DESIGN CHOICE, log 113). -/
def State.portDown (s : State) (c p : Nat) : State :=
  let q := (s.cell c).port p
  let times := recentTimes s.now 1000000000 q.retrains ++ [s.now]
  let count := q.series s.now
  let quar := 5 ≤ times.length
  let s1 := s.onCell c (fun k => k.onPort p (fun q =>
    { q with
      up := false, rate := 0, tryRate := 3, fails := 0, reqAt := none
      holdUntil := if q.holdUntil = some (2 ^ 64 - 1) then none else q.holdUntil
      retrains := if quar then [] else times
      quarUntil := if quar then some (s.now + quarSeconds count * 1000000000) else q.quarUntil
      qcount := if quar then count + 1 else q.qcount }))
  let s2 := if quar then
      s1.err c { cls := clsLINK, sev := 2, unit := 4, core := p, detail := quarSeconds count }
    else s1.err c { cls := clsLINK, sev := 1, unit := 4, core := p }
  s2.rerouteQueue c p true

/-- The port retrains: it goes down at every end it has on the module (R268, R300). -/
def State.retrain (s : State) (c p : Nat) : State :=
  if ((s.cell c).port p).up then (portEnds c p).foldl (fun acc e => acc.portDown e.1 e.2) s else s

/-! ## Taking a frame in -/

/-- Comes from the remote Manager, identity 0x70 (R272). -/
def State.fromManager (s : State) (x : Frame) : Bool :=
  x.origin = 0x70 && x.sseat = 0 && s.seating.seated && !s.seating.orphaned

/-- A JOIN frame of a prospective Manager (R272, second paragraph). -/
def State.prospective (s : State) (x : Frame) : Bool :=
  x.ftype = 5 && x.origin = 0x70 && x.sseat = 0 && (!s.seating.seated || s.seating.orphaned)

/-- One more frame in the port's error counter (R271); the anchor's index has none. -/
def State.countError (s : State) (c p : Nat) : State :=
  if 12 ≤ p then s else s.onCell c (fun k => k.onPort p (fun q => { q with errors := q.errors + 1 }))

/-- A frame that came without the credits it needs: discarded and counted; 16 within 1 ms retrain the port (R282). -/
def State.noCredits (s : State) (c p : Nat) : State :=
  let l := recentTimes s.now 1000000 ((s.cell c).port p).noCredit ++ [s.now]
  let s1 := (s.countError c p).onCell c (fun k => k.onPort p (fun q => { q with noCredit := if 16 ≤ l.length then [] else l }))
  if 16 ≤ l.length then s1.retrain c p else s1

/-- The frame's credits are used by the peer; they fall due again when the frame has been taken (R278). -/
def State.useCredits (s : State) (c p : Nat) (x : Frame) : State :=
  if x.isCredit1 then s
  else s.onCell c (fun k => k.onPort p (fun q => { q with room := q.room.set x.lane (q.room.getD x.lane 0 - x.need) }))

/-- A failed header check at the destination: VOID with CHECK to the source, the dependent work voids with CHECK (R270);
two such frames within 1 s put the switch in doubt (R306). -/
def State.headerFail (s : State) (c : Nat) (x : Frame) : State :=
  let l := recentTimes s.now 1000000000 (s.cell c).korif.hdrFails ++ [s.now]
  let doubt := 2 ≤ l.length
  let s1 := s.onCell c (fun k => { k with korif := { k.korif with hdrFails := l, doubt := k.korif.doubt || doubt } })
  let s2 := (s1.causeAt c vCHECK x.tenant (nearStep (s1.cell c).step.number x.fstep % 2 ^ 32)).err c
    { cls := clsCHECKVALUE, sev := 2, unit := 4, tenant := x.tenant, reason := vCHECK, obj := x.tensor.toNat, detail := x.tseq }
  let s3 := if doubt && !(s.cell c).korif.doubt then s2.err c { cls := clsLINK, sev := 2, unit := 4 } else s2
  s3.voidBack c x vCHECK

/-- Time left to 400 ms after PWR_GOOD, at least 1 ms, in µs (R302). -/
def State.startingHold (s : State) : Nat := max 1000 ((s.boot.base + 400000000 - s.now + 999) / 1000)

/-- The frame acts at this cell's port, whatever its destination: a link frame, and a JOIN frame from a peer outside the table, which
addresses the cell that forwards for it (R287, R288). -/
def State.linkHere (s : State) (c p : Nat) (x : Frame) : Bool := x.linkLevel || (x.ftype = 5 && s.idlePort c p)

/-- The sync overflow of a cell is full (R274). -/
def Cell.ovfFull (k : Cell) : Bool := 1024 ≤ k.korif.syncOvf.length

/-- A frame has been taken in: its credits fall due again; those of lane 0 are withheld while the sync overflow is full (R274). -/
def State.taken (s : State) (c p : Nat) (x : Frame) : State :=
  if x.isCredit1 then s
  else if x.lane = 0 && (s.cell c).ovfFull then
    s.onCell c (fun k => k.onPort p (fun q => { q with withheld := q.withheld + x.need }))
  else s.oweCredits c p x.lane x.need

/-- The overflow has room again: the lane 0 credits that its ports withheld fall due (R274). -/
def State.giveWithheld (s : State) (c : Nat) : State :=
  if (s.cell c).ovfFull then s
  else (List.range 12).foldl (fun acc p =>
    let n := ((acc.cell c).port p).withheld
    if n = 0 then acc
    else (acc.onCell c (fun k => k.onPort p (fun q => { q with withheld := 0 }))).oweCredits c p 0 n) s

/-- What a port does with an arriving frame. The Bool says that the frame's own command acts at this cell; a frame
for another destination has been forwarded, a refused one answered or discarded. -/
def State.accept (s : State) (c p : Nat) (x : Frame) : State × Bool :=
  let q := (s.cell c).port p
  if !q.usable then (s, false)
  else if x.malformed then (s.countError c p, false)
  else if !x.isCredit1 && q.room.getD x.lane 0 < x.need then (s.noCredits c p, false)
  else
    let s1 := s.useCredits c p x
    let taken (s : State) : State := s.taken c p x
    let here := s.linkHere c p x
    if (s.boot.safe || s.boot.recovery) && x.ftype ≠ 8 then (taken (s1.sendHold c p 3 0xFFFFFFFF 0), false)
    else if s.linkDoubt c && x.ftype ≠ 8 then (taken (s1.sendHold c p 4 1000 0), false)
    else if !s.boot.discovery && !([4, 6, 8].contains x.ftype) then (taken (s1.sendHold c p 1 s.startingHold 0), false)
    else if s.idlePort c p && !x.idleOk then (taken s1, false)
    else if s.seating.departed.contains x.sseat && !here then (taken s1, false)
    else if !here && !s.prospective x && !(x.dseat = s.mySeat && x.dcell = c) then (taken (s1.relay c p x), false)
    else if x.check ≠ x.goodCheck then (taken (s1.headerFail c x), false)
    else
      let src := 8 * x.sseat + x.scell
      let seen := (s.cell c).korif.seen.get [] src
      if x.lane = 0 && x.resent && seen.contains (BitVec.ofNat 16 x.seqno) then (taken s1, false)
      else
        let s2 := if x.lane = 0 && !here then
            s1.onCell c (fun k => { k with korif := { k.korif with
              seen := k.korif.seen.set [] src ((seen ++ [BitVec.ofNat 16 x.seqno]).drop (seen.length + 1 - 256)) } })
          else s1
        if x.origin = 0x70 && !s.fromManager x && !s.prospective x then
          (taken (s2.err c { cls := clsCOMMAND, sev := 1, unit := 4, core := p, obj := x.ftype, detail := x.sseat }), false)
        else (taken s2, true)

end Sys2Proof.Machine
end

