-- ==== Sys2Proof/Machine/Korif.lean ====
section
/-!
DEFINITION. Korif links, tables and table time (12_korif_fabric_and_tables): training, presence, holds, credits, JOIN
frames, heartbeats, time. TILE, SYNC, MAIL and REDUCE traffic has its own files.
-/

namespace Sys2Proof.Machine

/-- The outcome type of a command. -/
abbrev Res := Host.Outcome State Fault Refusal

/-! ## Training (R267, R268, R300, R301) -/

/-- Fabric domains run: ports may train (Table 15-4). -/
def State.fabricUp (s : State) : Bool := s.boot.running || s.boot.recovery

/-- A port comes up at a rate; training restores every lane's credits at both ends (R278). -/
def Port.trained (q : Port) (rate : Nat) : Port :=
  { q with up := true, rate := rate, fails := 0, credits := laneRoom, room := laneRoom,
           owed := [0, 0, 0, 0, 0, 0, 0, 0], withheld := 0, unacked := [], noCredit := [] }

/-- One attempt to train: at the highest rate both ends offer; three failures in succession go to the next lower rate
with a DEGRADED record; at 56 Gb/s the port stays down (R267). -/
def State.train (s : State) (c p offered : Nat) (ok : Bool) : State :=
  let q := (s.cell c).port p
  let rate := min q.tryRate offered
  if !s.fabricUp || q.up || q.quarUntil.isSome || (portEnds c p).any (fun e => (s.cell e.1).korif.dead) then s
  else if p < 4 then
    if ok then (portEnds c p).foldl (fun acc e =>
      (acc.onCell e.1 (fun k => k.onPort e.2 (fun q => q.trained 0))).pump e.1 e.2) s
    else s.onCell c (fun k => k.onPort p (fun q => { q with fails := q.fails + 1 }))
  else if rate = 0 then s
  else if ok then (s.onCell c (fun k => k.onPort p (fun q => q.trained rate))).pump c p
  else if q.fails + 1 < 3 then s.onCell c (fun k => k.onPort p (fun q => { q with fails := q.fails + 1 }))
  else
    let s1 := s.onCell c (fun k => k.onPort p (fun q => { q with fails := 0, tryRate := rate - 1 }))
    if 1 < rate then s1.err c { cls := clsLINK, sev := 1, unit := 4, core := p } else s1

def execPortTrain (t : Nat) (cell : Fin 8) (port : Fin 12) (offered : Nat) (trained : Bool) (s : State) : Res :=
  .next (s.run t (fun s => s.train cell port offered trained))

def execPortRetrain (t : Nat) (cell : Fin 8) (port : Fin 12) (s : State) : Res :=
  .next (s.run t (fun s => s.retrain cell port))

/-- Quarantine of a port ends at both of its ends on the module; the port then trains again (R300). -/
def State.endQuarantine (s : State) (c p : Nat) : State :=
  if ((s.cell c).port p).quarUntil.isNone then s
  else (portEnds c p).foldl (fun acc e => acc.onCell e.1 (fun k => k.onPort e.2 (fun q =>
    { q with quarUntil := none, qend := s.now, tryRate := 3, fails := 0 }))) s

def execQuarantineEnd (t : Nat) (cell : Fin 8) (port : Fin 12) (s : State) : Res :=
  .next (s.run t (fun s =>
    match ((s.cell cell).port port).quarUntil with
    | some u => if u ≤ s.now then s.endQuarantine cell port else s
    | none => s))

/-! ## PRESENCE (R286, R287, R302) -/

/-- The cell whose identity key is the module identity: cell 0, or while the anchor is lost the lowest running cell
(R381). -/
def State.identityCell (s : State) : Nat :=
  if s.boot.anchorLost then (allCells.find? (fun c => (s.cell c).init)).getD 0 else 0

/-- Module identity (R381). -/
def State.moduleId (s : State) : Nat := (keyIdent (Config.identityKey s.identityCell)).toNat

/-- PRESENCE payload of a cell's port (Table 12-7). -/
def State.presencePayload (s : State) (c p : Nat) : Nat :=
  let b (x : Bool) : Nat := if x then 1 else 0
  pack [(1, 3), (1, 3), (2, if s.seating.seated then s.seating.seat else 0xFFFF), (1, c), (1, p),
    (1, ((s.cell c).port p).rate), (1, b (s.status = 1) + 2 * b s.boot.anchorLost),
    (8, if s.seating.seated then s.seating.tableId.toNat else 0), (8, s.moduleId), (8, 0)]

/-- Handling of a PRESENCE after discovery. A copy that another cell forwarded belongs to the Manager, whose program on this module
takes it (R287). Else the peer is known; a seated cell forwards one of another table to (0, 0), at most one per port every 100 ms
(R287); one of its own table brings the port into use. -/
def State.takePresence (s : State) (c p : Nat) (x : Frame) : State :=
  let s1 := s.onCell c (fun k => k.onPort p (fun q => { q with peer := some (BitVec.ofNat 256 x.data) }))
  if !x.firstHand then s.emit (.frame c anchorIndex x)
  else if !s.seating.seated then s1
  else if x.p 8 8 = s.seating.tableId.toNat then s1.pump c p
  else
    let due := match ((s.cell c).port p).fwdAt with
      | none => true
      | some t0 => t0 + 100000000 ≤ s.now
    if !due then s1
    else ((s1.onCell c (fun k => k.onPort p (fun q => { q with fwdAt := some s.now }))).send c 13
      { ftype := 4, dseat := 0, dcell := 0, origin := idSupervisor c, plen := 32, data := x.data }).1

/-- The source of a PRESENCE in the buffer before discovery: module identity and cell (R302). -/
def presenceKey (x : Frame) : Nat × Nat := (x.p 0x10 8, x.p 4 1)

/-- Before discovery: one buffer entry per source, 64 of them; a 65th source is answered with HOLD FULL and a backoff of
100 ms. The hold-off of that HOLD is stated nowhere: a free value (R302; log 9). -/
def State.bufferPresence (s : State) (c p : Nat) (x : Frame) : State :=
  let b := ((s.cell c).port p).buffered
  if b.any (fun y => presenceKey y = presenceKey x) then
    s.onCell c (fun k => k.onPort p (fun q =>
      { q with buffered := b.map (fun y => if presenceKey y = presenceKey x then x else y) }))
  else if b.length < 64 then s.onCell c (fun k => k.onPort p (fun q => { q with buffered := b ++ [x] }))
  else
    let (v, s1) := s.takeFree
    s1.sendHold c p 2 (v.toNat % 2 ^ 32) 100000

def execPresence (t : Nat) (cell : Fin 8) (port : Fin 12) (f : Frame) (s : State) : Res :=
  .next (s.run t (fun s =>
    let (s1, ok) := s.accept cell port f
    if !ok || f.ftype ≠ 4 then s1
    else if s.boot.discovery then s1.takePresence cell port f
    else s1.bufferPresence cell port f))

/-- An idle external port sends a PRESENCE (R286); not while quarantined, halted or told to back off. -/
def execPresenceBeacon (t : Nat) (cell : Fin 8) (port : Fin 12) (s : State) : Res :=
  .next (s.run t (fun s =>
    let q := (s.cell cell).port port
    if s.boot.discovery && q.usable && s.idlePort cell port && !s.boot.safe && q.beaconAt ≤ s.now then
      s.sendPort cell port
        { ftype := 4, dseat := 0, dcell := 0, origin := idSupervisor cell, plen := 32,
          data := s.presencePayload cell port }
    else s))

/-- Discovery is accepted: buffered presences are handled in arrival order (R302, Table 15-4). -/
def execDiscoveryAccept (t : Nat) (s : State) : Res :=
  .next (s.run t (fun s =>
    if !s.boot.running || s.boot.discovery then s
    else
      let s1 := { s with boot := { s.boot with discovery := true } }
      (allCells.flatMap (fun c => (List.range 12).map (fun p => (c, p)))).foldl (fun acc e =>
        let b := ((acc.cell e.1).port e.2).buffered
        b.foldl (fun acc x => acc.takePresence e.1 e.2 x)
          (if b.isEmpty then acc else acc.onCell e.1 (fun k => k.onPort e.2 (fun q => { q with buffered := [] })))) s1))

/-! ## HOLD and credits (R278, R279, R304) -/

/-- A HOLD received: until its hold-off has elapsed the port sends only CREDIT, TIME and PRESENCE; one without end makes
the link count as down, so frames take another way (R304). -/
def State.takeHold (s : State) (c p : Nat) (x : Frame) : State :=
  let reason := x.p 0 1
  let off := x.p 4 4
  if reason = 0 ∨ 4 < reason ∨ x.p 1 3 ≠ 0 ∨ x.p 12 4 ≠ 0 ∨ x.plen ≠ 16 then s.countError c p
  else
    let until_ := if off = 0xFFFFFFFF then 2 ^ 64 - 1 else s.now + off * 1000
    let s1 := s.onCell c (fun k => k.onPort p (fun q =>
      { q with holdUntil := some until_, beaconAt := if x.p 8 4 = 0 then q.beaconAt else s.now + x.p 8 4 * 1000 }))
    if off = 0xFFFFFFFF then s1.rerouteQueue c p false else s1

def execHold (t : Nat) (cell : Fin 8) (port : Fin 12) (f : Frame) (s : State) : Res :=
  .next (s.run t (fun s =>
    let (s1, ok) := s.accept cell port f
    if ok && f.ftype = 6 then s1.takeHold cell port f else s1))

/-- The hold-off has elapsed: held frames leave in order (R304). -/
def execHoldOffEnd (t : Nat) (cell : Fin 8) (port : Fin 12) (s : State) : Res :=
  .next (s.run t (fun s =>
    match ((s.cell cell).port port).holdUntil with
    | some u =>
      if u ≤ s.now then (s.onCell cell (fun k => k.onPort port (fun q => { q with holdUntil := none }))).pump cell port
      else s
    | none => s))

/-- Of a lane's unacknowledged frames, oldest first, those whose credits are among the `out` that have not come back. -/
def stillOut (lane out : Nat) : List (Nat × Frame) → List (Nat × Frame)
  | [] => []
  | a :: r =>
    if a.2.lane = lane ∧ out < (((a :: r).filter (fun b => b.2.lane = lane)).map (·.2.need)).sum then stillOut lane out r
    else a :: stillOut lane out r

/-- Returned credits count their lanes' oldest frames as acknowledged (log 32). -/
def Port.acknowledge (q : Port) : Port :=
  { q with unacked := (List.range 8).foldl (fun l j => stillOut j (laneRoom.getD j 0 - q.credits.getD j 0) l) q.unacked }

/-- A CREDIT return (Table 12-4): the counts are added; a count beyond its lane's buffer or a reserved byte set is a link
error, and the port retrains (R278). -/
def State.takeReturn (s : State) (c p : Nat) (x : Frame) : State :=
  let counts := (List.range 8).map (fun j => x.p (16 + 2 * j) 2)
  if x.p 1 15 ≠ 0 || x.plen ≠ 32 || (List.zipWith (fun n m => decide (m < n)) counts laneRoom).any id then s.retrain c p
  else (s.onCell c (fun k => k.onPort p (fun q =>
    Port.acknowledge { q with credits := List.zipWith (· + ·) q.credits counts }))).pump c p

def execCreditReturn (t : Nat) (cell : Fin 8) (port : Fin 12) (f : Frame) (s : State) : Res :=
  .next (s.run t (fun s =>
    let (s1, ok) := s.accept cell port f
    if ok && f.isCredit1 then s1.takeReturn cell port f else s1))

def execCreditReturnTick (t : Nat) (cell : Fin 8) (port : Fin 12) (s : State) : Res :=
  .next (s.run t (fun s => if ((s.cell cell).port port).usable then s.returnCredits cell port else s))

/-! ## VOID frames and forwarding (R16, R275, R284, R288) -/

def execVoidFrame (t : Nat) (cell : Fin 8) (port : Fin 12) (f : Frame) (s : State) : Res :=
  .next (s.run t (fun s =>
    let (s1, ok) := s.accept cell port f
    if ok && f.ftype = 0xA then s1.causeAt cell (voidReason (f.p 0 1)) (f.p 1 1) (f.p 4 4) else s1))

/-- A JOIN frame at the cell that forwards for a newcomer: from the Manager it leaves unchanged through the relay port
named; from the newcomer it goes to (0, 0) (R288). Answers none when the cell itself is meant. -/
def State.joinRelay (s : State) (c p : Nat) (x : Frame) : Option State :=
  let rp := x.p 4 2
  if s.fromManager x && !s.idlePort c p && 4 ≤ rp && rp ≤ 11 && x.p 8 8 ≠ s.moduleId then
    some ((s.onCell c (fun k => k.onPort rp (fun q => { q with relay := true }))).enqueue c rp p x)
  else if ((s.cell c).port p).relay && s.seating.seated && !s.fromManager x then
    match s.route c 0 0 with
    | some o => some (s.enqueue c o p x)
    | none => some s
  else none

/-! ## Joining and leaving a table (R285, R288 to R294) -/

/-- A JOIN frame of this module out of a port (Table 12-8). -/
def State.sendJoin (s : State) (c p subtype status seat : Nat) : State :=
  s.sendPort c p
    { ftype := 5, dseat := 0, dcell := 0, origin := 0x40, plen := 16,
      data := pack [(1, subtype), (1, status), (2, seat), (2, p), (2, 0), (8, s.moduleId)] }

/-- No admitted request and no running step on any cell: device time may be stepped (R298, R333). -/
def State.quiet (s : State) : Bool :=
  allCells.all (fun c => let k := s.cell c; !k.step.running && k.gen.table.all (fun e => e.2.st = .free))

/-- The device time of every cell is set to `v` (quiet module), or slewed toward it (R298, R333). -/
def State.setTime (s : State) (v : Nat) (step : Bool) : State :=
  allCells.foldl (fun acc c =>
    let d : Int := (v : Int) - (acc.time c : Int)
    acc.onCell c (fun k => if step then { k with toff := k.toff + d, slew := 0 } else { k with slew := d })) s

/-- Routes at seat acceptance: all none but the one to (0, 0), out of the port the OFFER came by; the other cells reach it
through that cell (R283; log 23). -/
def State.acceptRoutes (s : State) (c p : Nat) : State :=
  allCells.foldl (fun acc k =>
    let out := if k = c then some p else s.route k s.mySeat c
    acc.onCell k (fun x => { x with korif := { x.korif with
      routes := match out with
        | some o => SMap.set [] 0xFF 0 (BitVec.ofNat 8 (0xF0 + o))
        | none => [] } })) s

/-- The newcomer accepts: every cell holds the seat; device time steps or slews to the Manager's plus the link delay
(R288, R298). -/
def State.takeSeat (s : State) (c p : Nat) (x : Frame) : State :=
  let d2 := ((s.cell c).port p).delay2
  let v := ((x.p 0x20 8 : Nat) + d2 / 2 : Int).toNat
  let s1 := s.setTime v s.quiet
  let s2 := { s1 with seating :=
    { s1.seating with
      tableId := BitVec.ofNat 64 (x.p 0x10 8), manager := false, seated := true, orphaned := false, seat := x.p 2 2,
      level := min 3 (x.p 0x18 1), newLevel := none, lastBeat := s.now, departed := [] } }
  (s2.acceptRoutes c p).sendJoin c p 3 0 (x.p 2 2)

/-- OFFER at this cell (R288, R293, R393): a seated module answers OTHER_TABLE; a failed check of the Manager, AUTH. -/
def State.takeOffer (s : State) (c p : Nat) (x : Frame) (authentic : Bool) : State :=
  if s.seating.seated && !s.seating.orphaned then s.sendJoin c p 4 5 0
  else if !s.prospective x then s
  else if !authentic then s.sendJoin c p 4 4 0
  else if s.seating.orphaned && x.p 0x10 8 ≠ s.seating.tableId.toNat then s.sendJoin c p 4 5 0
  else if x.p 2 2 = 0 ∨ 1023 < x.p 2 2 ∨ x.p 0x10 8 = 0 then s
  else s.takeSeat c p x

def execOffer (t : Nat) (cell : Fin 8) (port : Fin 12) (f : Frame) (authentic : Bool) (s : State) : Res :=
  .next (s.run t (fun s =>
    let (s1, ok) := s.accept cell port f
    if !ok || f.ftype ≠ 5 || f.p 0 1 ≠ 2 then s1
    else match s1.joinRelay cell port f with
      | some s2 => s2
      | none => s1.takeOffer cell port f authentic))

/-- A REFUSE changes nothing at its newcomer, which continues to beacon; at a forwarding cell it passes on (R288). -/
def execRefuse (t : Nat) (cell : Fin 8) (port : Fin 12) (f : Frame) (s : State) : Res :=
  .next (s.run t (fun s =>
    let (s1, ok) := s.accept cell port f
    if !ok || f.ftype ≠ 5 || f.p 0 1 ≠ 4 then s1 else (s1.joinRelay cell port f).getD s1))

/-- A group of cell `c` of seat `mine` has a part on a seat (R292): in a generation figure its serving group, the SERVE records of its
replica; in a learning figure the learning group. -/
def Cell.placesSeat (k : Cell) (mine c seat : Nat) : Bool :=
  match k.fig.active with
  | none => false
  | some f => f.places.any (fun r => r.seat = seat && r.seat ≠ 0xFFFF && (f.phase ≠ 1 || (r.serve &&
      f.places.any (fun q => q.serve && q.cell = c && (q.seat = 0xFFFF || q.seat = mine) && q.replica = r.replica))))

/-- A seat departs (R292): nothing comes from it or goes to it, routes toward it close, and the work that needs it voids
with LINK at its seal. -/
def State.depart (s : State) (seat : Nat) : State :=
  let s0 := { s with
    seating := { s.seating with departed := if s.seating.departed.contains seat then s.seating.departed
      else s.seating.departed ++ [seat] } }
  allCells.foldl (fun acc c =>
    let acc1 := acc.onCell c (fun k => { k with korif := { k.korif with
      routes := (List.range 8).foldl (fun r j => r.set 0xFF (8 * seat + j) 0xFF) k.korif.routes } })
    let k := acc1.cell c
    let acc2 := (k.step.sentTo.filter (fun x => x.1 = seat)).foldl (fun a x => a.cause c vLINK x.2.2.1 none) acc1
    if k.placesSeat s.mySeat c seat then
      ((k.fig.active.map (·.tenants)).getD []).foldl (fun a r => a.cause c vLINK r.tenant none) acc2
    else acc2) s0

/-- A LEAVE of the Manager (R291, R292). -/
def State.takeLeave (s : State) (x : Frame) : State :=
  if x.ftype ≠ 5 || x.p 0 1 ≠ 5 || !s.fromManager x || x.p 2 2 = s.seating.seat || 1023 < x.p 2 2 then s else s.depart (x.p 2 2)

def execLeave (t : Nat) (cell : Fin 8) (port : Fin 12) (f : Frame) (s : State) : Res :=
  .next (s.run t (fun s =>
    let (s1, ok) := s.accept cell port f
    if ok then s1.takeLeave f else s1))

/-- The table level comes into force: at once where no step runs, else at the next step boundary (R289). -/
def State.takeLevel (s : State) : State :=
  match s.seating.newLevel with
  | none => s
  | some l => { s with seating := { s.seating with level := l, newLevel := none } }

/-- A LEVEL of the Manager for this seat (R289). -/
def State.levelFrame (s : State) (c p : Nat) (x : Frame) : State :=
  if x.p 0x10 1 = 0 ∨ 3 < x.p 0x10 1 then s.countError c p
  else
    let s1 := { s with seating := { s.seating with newLevel := some (x.p 0x10 1) } }
    if allCells.any (fun c => (s1.cell c).step.running) then s1 else s1.takeLevel

def execLevel (t : Nat) (cell : Fin 8) (port : Fin 12) (f : Frame) (s : State) : Res :=
  .next (s.run t (fun s =>
    let (s1, ok) := s.accept cell port f
    if !ok || f.ftype ≠ 5 || f.p 0 1 ≠ 6 || !s1.fromManager f then s1
    else match s1.joinRelay cell port f with
      | some s2 => s2
      | none => s1.levelFrame cell port f))

/-- A MAIL route unit (R276, R283): only the remote Manager writes routes; an entry outside 0–11 and 0xF, a count outside
1–60 or a byte beyond the entries rejects the unit whole (R4). A departed seat to which the Manager gives a route is seated again (R292,
R294; DEDUCED, log 114). -/
def State.takeRoutes (s : State) (c : Nat) (who : BitVec 8) (e : Entry) : State :=
  let first := e.fld 0 2
  let n := e.fld 2 1
  let vals := (List.range n).map (fun j => e.fld (4 + j) 1)
  let okNib (v : Nat) : Bool := v < 12 || v = 15
  if who ≠ 0x70 || !s.seating.seated || n = 0 || 60 < n || e.fld 3 1 ≠ 0 || 8192 < first + n ||
     !e.zeroBytes (4 + n) 64 || !vals.all (fun v => okNib (v % 16) && okNib (v / 16)) then s
  else
    let back := (vals.zipIdx.filter (fun v : Nat × Nat => v.1 ≠ 0xFF)).map (fun v : Nat × Nat => (first + v.2) / 8)
    ({ s with seating := { s.seating with departed := s.seating.departed.filter (fun x => !back.contains x) } } : State).onCell c (fun k =>
      { k with korif := { k.korif with
        routes := vals.zipIdx.foldl (fun r v => r.set 0xFF (first + v.2) (BitVec.ofNat 8 v.1)) k.korif.routes } })

def execRouteUnit (t : Nat) (cell : Fin 8) (who : BitVec 8) (e : Entry) (s : State) : Res :=
  .next (s.run t (fun s => if s.fabricUp then s.takeRoutes cell who e else s))

/-! ## Table time (R291, R297 to R299) -/

/-- A TIME frame's payload (Table 12-9). -/
def timePayload (subtype : Nat) (aligned : Bool) (seq tx corr rx : Nat) : Nat :=
  pack [(1, subtype), (1, if aligned then 1 else 0), (2, seq), (4, 0), (8, tx), (8, corr), (8, rx)]

/-- A link TIME frame leaves port `p`, with the next sequence of its subtype. -/
def State.sendTime (s : State) (c p subtype rx : Nat) : State :=
  let q := (s.cell c).port p
  let n := q.timeSeq.get 0 subtype
  let s1 := s.onCell c (fun k => k.onPort p (fun q =>
    { q with
      timeSeq := q.timeSeq.set 0 subtype ((n + 1) % 65536)
      reqAt := if subtype = 2 then some (s.time c) else q.reqAt }))
  s1.sendPort c p
    { ftype := 7, dseat := 0, dcell := 0, origin := idSupervisor c, plen := 32,
      data := timePayload subtype (s.cell c).aligned n (s.time c) 0 rx }

/-- Ports whose peer lies in the table: internal ones, and external ones that are not idle. -/
def State.tablePort (s : State) (c p : Nat) : Bool := ((s.cell c).port p).usable && !s.idlePort c p

/-- Every 1 ms a seated cell sends a SYNC on each up port in its table and measures the link delay there (R297). -/
def execTimeSyncTick (t : Nat) (cell : Fin 8) (s : State) : Res :=
  .next (s.run t (fun s =>
    if !s.seating.seated || !s.fabricUp || s.boot.safe then s
    else (List.range 12).foldl (fun acc p =>
      if s.tablePort cell p then (acc.sendTime cell p 1 0).sendTime cell p 2 0 else acc) s))

/-- The port a cell takes time from (R297). -/
def State.parentPort (s : State) (c : Nat) : Option Nat :=
  if !s.seating.seated then none
  else if s.seating.seat = 0 then (if c = 0 then none else s.route c 0 0)
  else
    let r := ((s.cell c).korif.routes.get 0xFF 0).toNat % 16
    if r < 12 then some r else none

/-- The offset from the parent is slewed away; ALIGNED after 16 intervals within ±40 ns, cleared with a record beyond
±50 ns (R297, R298). -/
def State.takeSync (s : State) (c p : Nat) (x : Frame) : State :=
  if s.parentPort c ≠ some p then s
  else
    let corr := sval 64 (x.p 0x10 8) / 65536
    let off : Int := (s.time c : Int) - ((x.p 8 8 : Nat) + corr + ((s.cell c).port p).delay2 / 2)
    let k := s.cell c
    let n := if -40 ≤ off ∧ off ≤ 40 then k.inTol + 1 else 0
    let bad : Bool := off < -50 || 50 < off
    let s1 := s.onCell c (fun k => { k with slew := -off, inTol := min 16 n, aligned := !bad && (k.aligned || 16 ≤ n) })
    if bad && k.aligned then
      s1.err c { cls := clsTIME, sev := 1, unit := 6, detail := (BitVec.ofInt 32 off).toNat }
    else s1

def execTimeSync (t : Nat) (cell : Fin 8) (port : Fin 12) (f : Frame) (s : State) : Res :=
  .next (s.run t (fun s =>
    let (s1, ok) := s.accept cell port f
    if ok && f.ftype = 7 && f.p 0 1 = 1 then s1.takeSync cell port f else s1))

def execDelayRequest (t : Nat) (cell : Fin 8) (port : Fin 12) (f : Frame) (s : State) : Res :=
  .next (s.run t (fun s =>
    let (s1, ok) := s.accept cell port f
    if ok && f.ftype = 7 && f.p 0 1 = 2 then s1.sendTime cell port 3 (s1.time cell) else s1))

/-- Twice the link delay is (t₄ − t₁) − (t₃ − t₂) (R297). -/
def execDelayResponse (t : Nat) (cell : Fin 8) (port : Fin 12) (f : Frame) (s : State) : Res :=
  .next (s.run t (fun s =>
    let (s1, ok) := s.accept cell port f
    match ok && f.ftype = 7 && f.p 0 1 = 3, ((s1.cell cell).port port).reqAt with
    | true, some t1 => s1.onCell cell (fun k => k.onPort port (fun q =>
        { q with reqAt := none, delay2 := ((s1.time cell : Int) - t1) - ((f.p 8 8 : Int) - (f.p 0x18 8 : Int)) }))
    | _, _ => s1))

/-- A HEARTBEAT of seat 0 to cell 0 is answered by the module supervisor, or while the anchor is lost by the lowest running cell's
supervisor (R291). -/
def State.takeBeat (s : State) (c : Nat) (x : Frame) : State :=
  if x.ftype ≠ 7 || x.p 0 1 ≠ 4 || !s.seating.seated || c ≠ 0 || x.sseat ≠ 0 then s
  else
    let who := if s.boot.anchorLost then idSupervisor s.identityCell else 0x40
    let s1 := { s with seating := { s.seating with lastBeat := s.now } }
    (s1.send c 13
      { ftype := 7, dseat := 0, dcell := 0, origin := who, plen := 32,
        data := timePayload 5 (allCells.all (fun c => (s1.cell c).aligned)) (x.p 2 2) (s1.time c) 0 0 }).1

def execHeartbeat (t : Nat) (cell : Fin 8) (port : Fin 12) (f : Frame) (s : State) : Res :=
  .next (s.run t (fun s =>
    let (s1, ok) := s.accept cell port f
    if ok then s1.takeBeat cell f else s1))

/-! ## Sync wires (R27) -/

/-- The wires between C-dies that a sync message from cell `a` to cell `b` crosses: one between neighbours, else those by way of the
lowest cell that is a neighbour of both, as frames go (R15, R16; log 92). -/
def syncWires (a b : Nat) : List (Nat × Nat) :=
  if a = b then []
  else if (internalPort a b).isSome then [(min a b, max a b)]
  else match allCells.find? (fun m => (internalPort a m).isSome && (internalPort m b).isSome) with
    | some m => [(min a m, max a m), (min m b, max m b)]
    | none => []

/-- A sync message to a cell of this module has no failed wire on its way. -/
def State.wired (s : State) (m : SyncMsg) : Bool :=
  m.seat = s.mySeat && (syncWires m.src m.cell).all (fun w => !s.badWires.contains w)

/-- A sync message leaves its cell: on the sync network, in a lane 0 frame where a wire has failed (R27), or in a SYNC frame to another
seat. Without a route the work that waits for it voids with LINK (R13). -/
def State.sendSync (s : State) (m : SyncMsg) : State :=
  if s.wired m then { s with net := s.net ++ [m] }
  else
    let (s1, ok) := s.send m.src 0
      { ftype := 2, dseat := m.seat, dcell := m.cell, tenant := m.tenant, origin := idScheduler m.src, sgroup := m.group,
        sctr := m.ctr, step := some m.step.toNat, plen := 4, data := m.add }
    if ok then s1 else s1.cause m.src vLINK m.tenant none

/-- A sync wire between two C-dies fails: the messages it carried, and those held for it at their senders, move to lane 0 of the internal
ports, and both cell supervisors report (R27). -/
def execSyncWireFail (t : Nat) (cell : Fin 8) (port : Fin 4) (s : State) : Res :=
  .next (s.run t (fun s =>
    let a := min cell.val (internalPeer cell port)
    let b := max cell.val (internalPeer cell port)
    if !s.boot.islands || s.badWires.contains (a, b) then s
    else
      let s0 := { s with badWires := s.badWires ++ [(a, b)] }
      let l := (s.net ++ s.netHeld).filter (fun m => !s0.wired m)
      let s1 := l.foldl (fun acc m => acc.sendSync m) { s0 with net := s.net.filter s0.wired, netHeld := s.netHeld.filter s0.wired }
      (s1.err a { cls := clsLINK, sev := 1, unit := 6, core := (internalPort a b).getD 0xFFFF }).err b
        { cls := clsLINK, sev := 1, unit := 6, core := (internalPort b a).getD 0xFFFF }))

end Sys2Proof.Machine
end

