-- ==== Sys2Proof/Machine/HostPort.lean ====
section
/-!
DEFINITION. The host port (14_host_port_and_mailboxes): loss and return of the host paths, function level resets, rings,
records written to completion rings, PTM, and the channel windows' commands.
-/

namespace Sys2Proof.Machine

/-! ## Loss and return of the host paths (R20, R335, R372) -/

/-- A figure command of a cell is answered: its registers, a status unit to the Manager for its own (R276; `head` holds the first 8 bytes of
the unit) and, unless DONE, a FIGURE record (R40, Table 17-3, Table 13-7). -/
def State.figEndWith (s : State) (c : Nat) (cmd : FigCmd) (status head : Nat) : State :=
  let s1 := s.onCell c (fun k => { k with fig := { k.fig with
    seq := k.fig.seq + 1, lastCode := BitVec.ofNat 8 cmd.code,
    lastStatus := BitVec.ofNat 8 status, lastSlot := cmd.slot % 4 } })
  let s2 := if cmd.viaReg then s1
    else s1.mail c [(4, pack [(1, 3), (1, cmd.code), (1, status), (5, 0), (8, head)])]
  if status = stDONE then s2
  else s2.err c { cls := clsFIGURE, sev := 1, unit := 6, obj := cmd.slot, detail := status, code := cmd.code }

/-- A figure command in progress ends and leaves the cell's list. -/
def State.figEnd (s : State) (c : Nat) (cmd : FigCmd) (status : Nat) : State :=
  (s.onCell c (fun k => { k with fig := { k.fig with cmds := k.fig.cmds.erase cmd } })).figEndWith c cmd status
    (cmd.code % 256 + 256 * (cmd.slot % 256))

/-- A LOAD through the figure load window is abandoned and its slot left empty, as for a failed LOAD (R20, R42, R335). -/
def State.abandonLoads (s : State) : State :=
  allCells.foldl (fun acc c =>
    (((acc.cell c).fig.cmds).filter (fun x => x.code = 1 && x.viaReg)).foldl (fun a cmd =>
      match (a.cell c).fig.slots.get .empty cmd.slot with
      | .loading _ (some _) _ =>
        (a.onCell c (fun k => { k with fig := { k.fig with slots := k.fig.slots.set .empty cmd.slot .empty } })).figEnd c cmd
          stABANDONED
      | _ => a) acc) s

/-- A host transfer is in progress: a FETCH from host memory or a snapshot leaving for it. -/
def State.hostDma (s : State) : Bool :=
  allCells.any (fun c => let k := s.cell c
    k.fetches.any (fun x => x.e.fld (if x.e.fld 0 1 = 0x25 then 3 else 7) 1 = 1) ||
    k.ud.snaps.any (fun x => match x.2 with
      | none => false
      | some y => y.taken && y.e.fld 3 1 = 0))

/-- The host paths are lost (R20, R335): transfers stop, deliveries of the steps in progress void at their seals, a load
through the window is abandoned; a snapshot bound for host memory is not published (R245, R305). -/
def State.loseHost (s : State) : State :=
  let s1 := { s with host := { s.host with pathLost := true, dmaStop := s.host.dmaStop || s.hostDma } }
  let s2 := allCells.foldl (fun acc c => acc.onCell c (fun k =>
    { k with
      step := if k.step.running then { k.step with hostLost := true } else k.step
      ud := { k.ud with snaps := k.ud.snaps.mapV none (fun x => x.map (fun y =>
        if y.e.fld 3 1 = 0 && y.taken && y.bad = 0 then { y with bad := vLINK } else y)) } })) s1
  s2.abandonLoads

/-- Registers that a conventional reset, a hot reset and an FLR of the PF return to their reset values (R403). -/
def State.resetPortRegs (s : State) : State :=
  { s with
    host := { s.host with bar2 := 0, figCond := 0, loadLen := 0, keyWin := [], lowHeld := [], highHeld := [] }
    fw := { s.fw with src := 0, len := 0, time := 0 } }

/-- A function's registers return to their reset values (R335, R336); records that waited are dropped (R341). -/
def State.resetFn (s : State) (n : Nat) (flr : Bool) : State :=
  let h := s.fn n
  let s1 := s.onFn n (fun h => { HostFn.reset with flr := flr, lastBad := h.lastBad, lastDrop := h.lastDrop })
  let s2 := h.recs.foldl (fun acc r => acc.recDone r) s1
  if h.recs.isEmpty then s2 else s2.dropRec n

/-- Every host function's registers return to their reset values. -/
def State.resetFns (s : State) : State := (List.range 64).foldl (fun acc n => acc.resetFn n false) s

/-- PERST_N taken at a level (R372): low resets the host port with the effects of R335; high lets the link train. -/
def execPerstN (t : Nat) (level : Bool) (s : State) : Res :=
  .next (s.run t (fun s =>
    if s.supply.perstN = level then s
    else
      let s1 := { s with supply := { s.supply with perstN := level } }
      if level || s.inReset then s1
      else
        let s2 := s1.loseHost.resetFns.resetPortRegs
        { s2 with host := { s2.host with linkUp := false, cfgLive := false, d3hot := false } }))

/-- A hot reset (0), a link-down event (1) or D3hot of the PF (2) costs the host its paths (R335). -/
def execHostLinkReset (t : Nat) (how : Fin 3) (s : State) : Res :=
  .next (s.run t (fun s =>
    if !s.host.linkUp then s
    else
      let s1 := s.loseHost
      if how.val = 0 then
        let s2 := s1.resetFns.resetPortRegs
        { s2 with host := { s2.host with linkUp := false, d3hot := false } }
      else if how.val = 1 then { s1 with host := { s1.host with linkUp := false } }
      else { s1 with host := { s1.host with d3hot := true } }))

/-- Some ring of some function is enabled. -/
def State.ringsOn (s : State) : Bool := s.fns.any (fun f => f.2.cqEn || f.2.sq.any (fun r => r.2.en))

/-- The PF is in D0; once the link is up and rings are enabled again the host paths return (R335), and the VFs count as
enabled again (log 21). -/
def execHostPathReturn (t : Nat) (s : State) : Res :=
  .next (s.run t (fun s =>
    if !s.anchorUp then s
    else
      let s1 := { s with host := { s.host with d3hot := false } }
      if s1.host.linkUp && s1.host.cfgLive && s1.ringsOn then
        { s1 with host := { s1.host with pathLost := false, dmaStop := false, vfs := 63 } }
      else s1))

/-! ## Function level resets (R336) -/

/-- Both queues of every channel bound to an identity are emptied; answers the words lost. -/
def State.emptyChansOf (s : State) (who : BitVec 8) : State × Nat :=
  (List.range 64).foldl (fun acc n =>
    if (acc.1.chanSide n who).isSome then
      let (s1, lost) := acc.1.emptyChan n
      (s1, acc.2 + lost)
    else acc) (s, 0)

/-- Admitted requests with host destination of function `n`'s tenants end ADMIN at the next seal (R336). -/
def State.adminHostRequests (s : State) (n : Nat) : State :=
  allCells.foldl (fun acc c =>
    let k := acc.cell c
    (k.gen.table.filter (fun e => k.tenantFn e.2.tenant = n && e.2.st ≠ .free && e.2.st ≠ .ending &&
        bits (e.2.desc.fld 3 1) 4 2 = 0)).foldl
      (fun a e => a.onCell c (fun k => k.onEntry e.1 (fun x => { x with causes := x.causes ++ [vADMIN] }))) acc) s

/-- The effects of an FLR on one function (R336). -/
def State.flrFn (s : State) (n : Nat) : State :=
  let (s1, lost) := ((s.resetFn n true).adminHostRequests n).emptyChansOf (BitVec.ofNat 8 n)
  if lost = 0 then s1 else s1.err 0 { cls := clsCOMMAND, sev := 1, unit := 7, obj := n, detail := lost }

def execVfFlr (t : Nat) (vf : Fin 64) (s : State) : Res :=
  .next (s.run t (fun s => if s.barUp && s.fnOn vf && vf.val ≠ 0 then s.flrFn vf else s))

/-- An FLR of the PF acts on every enabled VF and on the PF's rings, clears VF Enable, resets BAR2_BASE and the registers
of R403, and abandons a load through the window (R336). -/
def execPfFlr (t : Nat) (s : State) : Res :=
  .next (s.run t (fun s =>
    if !s.barUp then s
    else
      let s1 := ((List.range 64).filter s.fnOn).foldl (fun acc n => acc.flrFn n) s
      let s2 := s1.abandonLoads.resetPortRegs
      { s2 with host := { s2.host with vfs := 0 } }))

def execFlrComplete (t : Nat) (fn : Fin 64) (s : State) : Res :=
  .next (s.run t (fun s => if (s.fn fn).flr then s.onFn fn (fun h => { h with flr := false }) else s))

/-! ## Rings (R338, R339, R341, R342) -/

/-- Fetching for cell `c` by function `n` is held: STALL (R339). -/
def State.stall (s : State) (n c : Nat) : Bool :=
  !(s.cell c).init || 4096 ≤ (s.cell c).gen.pend.length || 256 ≤ (s.fn n).statusWaiting

/-- RINGERR is set, with vector 2 (R342). -/
def State.ringError (s : State) (n : Nat) : State := (s.onFn n (fun h => { h with ringErr := true })).msix n 2

/-- A write of SQ_TAIL: a value of SQ_SIZE or more is refused, sets BADTAIL and RINGERR and changes nothing else (R339). -/
def State.writeTail (s : State) (n c v : Nat) : State :=
  if (s.fn n).flr then s
  else if ((s.fn n).ring c).size ≤ v then
    (s.onFn n (fun h => h.onRing c (fun r => { r with badTail := true }))).ringError n
  else s.onFn n (fun h => h.onRing c (fun r => { r with tail := v }))

def execSqTail (t : Nat) (fn : Fin 64) (ring : Fin 8) (value : BitVec 16) (s : State) : Res :=
  .next (s.run t (fun s => if s.barUp && s.fnOn fn then s.writeTail fn ring value.toNat else s))

/-- A power of two from `lo` to 65,536. -/
def ringSizeOk (lo n : Nat) : Bool := (List.range 17).any (fun k => n = 2 ^ k) && lo ≤ n

/-- A write of a submission ring's enable and size word (R338): while enabled the size is kept; clearing the enable bit
returns head and tail to 0; enabling with a size outside the field's values is discarded (log 24). -/
def SubRing.control (r : SubRing) (w : Nat) : SubRing :=
  if r.en then (if bit w 31 then r else { r with en := false, head := 0, tail := 0 })
  else if bit w 31 && !ringSizeOk 16 (bits w 0 17) then r
  else { r with size := bits w 0 17, en := bit w 31 }

/-- A write of the completion ring's enable and size word (R338, R341). -/
def State.cqControl (s : State) (n w : Nat) : State :=
  let h := s.fn n
  if h.cqEn then
    if bit w 31 then s
    else
      let s1 := s.onFn n (fun h => { h with cqEn := false, cqHead := 0, cqTail := 0, recs := [] })
      let s2 := h.recs.foldl (fun acc r => acc.recDone r) s1
      if h.recs.isEmpty then s2 else s2.dropRec n
  else if bit w 31 && !ringSizeOk 64 (bits w 0 17) then s
  else s.onFn n (fun h => { h with cqSize := bits w 0 17, cqEn := bit w 31 })

/-- Ring 0–7 a submission ring, 8 the completion ring. -/
def State.ringControl (s : State) (n ring w : Nat) : State :=
  if (s.fn n).flr then s
  else if ring < 8 then s.onFn n (fun h => h.onRing ring (fun r => r.control w))
  else if ring = 8 then s.cqControl n w
  else s

def execRingEnable (t : Nat) (fn : Fin 64) (ring : Nat) (value : BitVec 32) (s : State) : Res :=
  .next (s.run t (fun s => if s.barUp && s.fnOn fn then s.ringControl fn ring value.toNat else s))

/-- Free slots of a completion ring: the device writes while CQ_TAIL + 1 differs from CQ_HEAD (R341). -/
def HostFn.cqFree (h : HostFn) : Nat := (h.cqHead + h.cqSize - h.cqTail - 1) % h.cqSize

/-- Slots of one record group are written at CQ_TAIL onward. -/
def State.writeSlots (s : State) (n : Nat) : List (BitVec 256) → State
  | [] => s
  | r :: rest =>
    let h := s.fn n
    ((s.emit (.hostWrite (h.cqBase.toNat + 32 * h.cqTail) 32 r.toNat)).onFn n
      (fun h => { h with cqTail := (h.cqTail + 1) % h.cqSize })).writeSlots n rest

/-- Records that find room are written in order, whole groups only; the Nat counts them (R341). -/
def State.writeRecs (s : State) (n : Nat) : List QRec → State × Nat
  | [] => (s, 0)
  | r :: rest =>
    if (s.fn n).cqFree < r.slots.length then (s, 0)
    else
      let s1 := ((s.onFn n (fun h => { h with recs := h.recs.tail })).writeSlots n r.slots).recDone r
      let (s2, k) := s1.writeRecs n rest
      (s2, k + 1)

/-- A batch of records, then the shadow tail, then vector 0 (R341). -/
def State.writeBatch (s : State) (n : Nat) : State :=
  let (s1, k) := s.writeRecs n (s.fn n).recs
  if k = 0 then s1
  else
    let h := s1.fn n
    let s2 := if h.shadow = 0 then s1 else s1.emit (.hostWrite h.shadow.toNat 4 h.cqTail)
    s2.msix n 0

def execCompletionWrite (t : Nat) (fn : Fin 64) (s : State) : Res :=
  .next (s.run t (fun s =>
    if s.hostUp && s.fnOn fn && (s.fn fn).cqEn && 0 < (s.fn fn).cqSize && !(s.fn fn).flr then s.writeBatch fn else s))

/-! ## PTM (R333) -/

/-- PTM time: the first response sets every cell's device time when the module is quiet; later offsets are slewed away;
a seated module only reports (R299). -/
def execPtmRequest (t : Nat) (master : Nat) (s : State) : Res :=
  .next (s.run t (fun s =>
    if !s.barUp || s.seating.seated then s
    else
      let s1 := s.setTime master (!s.host.ptmSet && s.quiet)
      { s1 with host := { s1.host with ptmSet := true } }))

/-! ## Channel windows (R344 to R346) -/

def execSendData (t : Nat) (who : BitVec 8) (chan : Fin 64) (w : BitVec 32) (s : State) : Res :=
  .next (s.run t (fun s => if s.mayWindow who then s.sendWord chan who w else s))

def execSendDb (t : Nat) (who : BitVec 8) (chan : Fin 64) (w : BitVec 32) (s : State) : Res :=
  .next (s.run t (fun s => if s.mayWindow who then s.sendBell chan who w else s))

def execRecvData (t : Nat) (who : BitVec 8) (chan : Fin 64) (s : State) : Res :=
  .next (s.run t (fun s =>
    if s.mayWindow who then
      let (v, s1) := s.recvWord chan who
      s1.emit (.readData who.toNat v.toNat)
    else s))

def execRecvPend (t : Nat) (who : BitVec 8) (chan : Fin 64) (w : BitVec 32) (s : State) : Res :=
  .next (s.run t (fun s => if s.mayWindow who then s.recvClear chan who w else s))

end Sys2Proof.Machine
end

