-- ==== Sys2Proof/Machine/Tiers.lean ====
section
/-!
DEFINITION. Memory tiers (07_memory_tiers): tile map and tensor directory, reads and writes by the mover with eviction
(R154 to R159), the seal's write-back (R156), tensor commands, BAR2, migration, ECC and poison.
-/

namespace Sys2Proof.Machine

/-! ## Tensors and tiles -/

/-- Allocation flags (Table 7-4). -/
def Tensor.preferSlow (t : Tensor) : Bool := t.flags.getLsbD 1
def Tensor.pinFast (t : Tensor) : Bool := t.flags.getLsbD 2
def Tensor.sharedRo (t : Tensor) : Bool := t.flags.getLsbD 3
def Tensor.one (t : Tensor) : Bool := t.flags.getLsbD 4
def Tensor.hasSide (t : Tensor) : Bool := t.flags.getLsbD 5

/-- Tiles of the side tensor (R162). -/
def Tensor.sides (t : Tensor) : Nat := if t.hasSide then (t.count + 7) / 8 else 0

/-- Tile addresses of the tensor and its side tensor. -/
def Tensor.total (t : Tensor) : Nat := t.count + t.sides

/-- The tensor holds its tiles in this cell (no forwarding record) and tile address `a` is one of them. -/
def Tensor.owns (t : Tensor) (a : Nat) : Bool := t.holder.isNone && t.base ≤ a && a < t.base + t.total

def Cell.ent (k : Cell) (a : Nat) : TileEnt := k.tiers.tiles.get TileEnt.absent a

def Cell.setEnt (k : Cell) (a : Nat) (e : TileEnt) : Cell :=
  { k with tiers := { k.tiers with tiles := k.tiers.tiles.set TileEnt.absent a e } }

/-- Tensor that tile address `a` belongs to. -/
def Cell.ownerOf (k : Cell) (a : Nat) : Option Tensor := k.tiers.dir.find? (fun t => t.owns a)

/-- A tile or copy in the fast tier (Table 7-7). -/
def TState.inFast : TState → Bool
  | .F | .HC | .HD | .HDX => true
  | _ => false

/-- Slow-tier places of a state (Table 7-7). -/
def TState.slowUse : TState → Nat
  | .S | .H | .HC | .HD => 1
  | .HX | .HDX => 2
  | _ => 0

/-- Fast and slow places of an entry, with the space a moved-out tile still holds (R155, R157). -/
def TileEnt.places (e : TileEnt) : Nat × Nat :=
  ((if e.st.inFast then 1 else 0) + e.spent.1, e.st.slowUse + e.spent.2)

/-- Places used by the tiles of the tensors that `p` picks (R157). -/
def Cell.occBy (k : Cell) (p : Tensor → Bool) : Nat × Nat :=
  k.tiers.tiles.foldl (fun acc x =>
    if ((k.ownerOf x.1).map p).getD false then (acc.1 + x.2.places.1, acc.2 + x.2.places.2) else acc) (0, 0)

/-- Tenant of a part that waits at its sender. -/
def Write.tenant : Write → Nat
  | .slot _ _ => 0xFF
  | .tensor t _ _ _ => t
  | .remote _ _ t _ _ _ _ _ _ _ => t
  | .part t _ _ _ _ _ _ _ _ => t

/-- Fast-tier tiles in which the cell stages parts and nodes of tensors' sums, or holds parts that wait (R204, R279). -/
def Cell.stagedTiles (k : Cell) (p : Nat → Bool) : Nat :=
  (k.nodes.filter (fun x => x.ident ≠ 0 && p x.tenant)).length + (k.partWait.filter (fun w => p w.tenant)).length

/-- Occupancy of a tenant, in tiles (R157), its staged parts and nodes included (R204). -/
def Cell.occ (k : Cell) (t : Nat) : Nat × Nat :=
  let n := k.occBy (fun x => x.tenant = t)
  (n.1 + k.stagedTiles (· = t), n.2)

/-- Use of both pools, shared tensors and staged parts included (R157, R204). -/
def Cell.poolUse (k : Cell) : Nat × Nat :=
  let n := k.occBy (fun _ => true)
  (n.1 + k.stagedTiles (fun _ => true), n.2)

/-- Pool sizes in tiles (R34). -/
def fastTiles : Nat := fastPool * 256
def slowTiles : Nat := slowPool * 256

/-- Floor and limit of a tenant in one tier, in tiles; without a POOL record 0 and the pool (R157). -/
def Cell.fastBounds (k : Cell) (t : Nat) : Nat × Nat :=
  match (k.fig.active).bind (fun f => f.poolRec t) with
  | some r => (r.fastFloor * 256, r.fastLimit * 256)
  | none => (0, fastTiles)

def Cell.slowBounds (k : Cell) (t : Nat) : Nat × Nat :=
  match (k.fig.active).bind (fun f => f.poolRec t) with
  | some r => (r.slowFloor * 256, r.slowLimit * 256)
  | none => (0, slowTiles)

/-- Tenant 0xFF, the shared tensors, has no limit of its own (R157). -/
def Cell.atFastLimit (k : Cell) (t : Nat) : Bool := t ≠ 0xFF && (k.fastBounds t).2 ≤ (k.occ t).1

def Cell.fastRoom (k : Cell) (t : Nat) : Bool := k.poolUse.1 < fastTiles && !k.atFastLimit t

def Cell.slowRoom (k : Cell) (t : Nat) : Bool :=
  k.poolUse.2 < slowTiles && (t = 0xFF || (k.occ t).2 < (k.slowBounds t).2)

/-- Sum of the unmet floors of the active figure's tenants, after `add` more tiles of tenant `t` (R150, R160). -/
def Cell.unmetFast (k : Cell) (t add : Nat) : Nat :=
  ((k.fig.active.map (·.pools)).getD []).foldl (fun acc r =>
    acc + ((k.fastBounds r.tenant).1 - (k.occ r.tenant).1 - (if r.tenant = t then add else 0))) 0

def Cell.unmetSlow (k : Cell) (t add : Nat) : Nat :=
  ((k.fig.active.map (·.pools)).getD []).foldl (fun acc r =>
    acc + ((k.slowBounds r.tenant).1 - (k.occ r.tenant).2 - (if r.tenant = t then add else 0))) 0

/-! ## Eviction (R158, R159) -/

/-- Tile addresses of this cell that MOVEs in progress are going to write, with their side tiles (R158). -/
def Cell.moving (k : Cell) : List Nat :=
  let tiles (w : Write) : List Nat := match w with
    | .tensor t id q _ =>
      match k.tiers.dir.find? (fun x => x.tenant = t && x.ident = id && x.holder.isNone) with
      | some x => if x.hasSide then [x.base + q, x.base + x.count + q / 8] else [x.base + q]
      | none => []
    | _ => []
  k.cores.flatMap (fun p => (((p.2.engines.get none 6).map (·.writes)).getD []).flatMap tiles)

/-- The tile at `a` may be evicted for tenant `need`; `busy` are the tiles in the mover's operation (R158). -/
def Cell.evictable (k : Cell) (need : Nat) (busy : List Nat) (a : Nat) (e : TileEnt) : Bool :=
  match k.ownerOf a with
  | none => false
  | some t =>
    e.st.inFast && !t.pinFast && !e.lagging && !busy.contains a &&
    (t.tenant = need ||
      (!k.atFastLimit need && (t.tenant = 0xFF || (k.fastBounds t.tenant).1 < (k.occ t.tenant).1))) &&
    (e.st = .HC || k.slowRoom t.tenant)

/-- The candidate with the smallest stamp (R158); of tiles never touched, the lowest address. -/
def Cell.victim (k : Cell) (need : Nat) (busy : List Nat) : Option Nat :=
  let held := busy ++ k.moving
  (k.tiers.tiles.foldl (fun (best : Option (Nat × Nat)) x =>
    if !k.evictable need held x.1 x.2 then best
    else match best with
      | none => some (x.1, x.2.stamp)
      | some b => if x.2.stamp < b.2 then some (x.1, x.2.stamp) else best) none).map (·.1)

/-- An entry after eviction (R158): HC drops its copy, HD and HDX write a shadow, F moves to the slow tier. -/
def TileEnt.evicted (e : TileEnt) : TileEnt :=
  match e.st with
  | .HC => { e with st := .H, fast := Tile.zero }
  | .HD | .HDX => { e with st := .HX, shadow := e.fast, shadowBad := false, fast := Tile.zero }
  | .F => { e with st := .S, home := e.fast, homeBad := false, fast := Tile.zero }
  | _ => e

/-- A fast-tier location for tenant `need`: free room, or one eviction; none where R159 applies. -/
def Cell.makeRoom (k : Cell) (need : Nat) (busy : List Nat) : Option Cell :=
  if k.fastRoom need then some k
  else match k.victim need busy with
    | none => none
    | some a => some (k.setEnt a (k.ent a).evicted)

/-! ## Reads and writes of one tile (R154, R155, R157) -/

/-- Poison of a tile as a read of its location delivers it (R166). -/
def Tile.spoil (x : Tile) (bad : Bool) : Tile := { x with tag := { x.tag with poison := x.tag.poison || bad } }

/-- The tile's current content: none in E and where nothing is allocated (Table 7-7, R154, R166). -/
def TileEnt.current (e : TileEnt) : Option Tile :=
  match e.st with
  | .F | .HC | .HD | .HDX => some e.fast
  | .S | .H => some (e.home.spoil e.homeBad)
  | .HX => some (e.shadow.spoil e.shadowBad)
  | .E | .none => none

/-- Tag flags as the tile map gives them (R142, Table 7-1): DIRTY for a dirty copy, PINNED, HOME for the slow tier. -/
def Tile.withMap (x : Tile) (t : Tensor) (st : TState) : Tile :=
  { x with tag := { x.tag with
    dirty := st = .HD || st = .HDX, pinned := t.pinFast, home := !t.one || st = .S } }

/-- The entry stamped with the touch counter, which then rises by one (R157). -/
def Cell.touched (k : Cell) (a : Nat) (e : TileEnt) : Cell :=
  let k1 := k.setEnt a { e with stamp := k.tiers.touch }
  { k1 with tiers := { k1.tiers with touch := k.tiers.touch + 1 } }

/-- The copy that a read installs: H to HC, HX to HDX (R154), unless PREFER_SLOW is set or no room is found (R159). -/
def Cell.install (k : Cell) (t : Tensor) (busy : List Nat) (a : Nat) : Cell :=
  let e := k.ent a
  if t.preferSlow || !(e.st = .H || e.st = .HX) then k
  else match k.makeRoom t.tenant busy with
    | none => k
    | some k1 =>
      k1.setEnt a { e with
        fast := (e.current).getD Tile.zero, st := if e.st = .H then .HC else .HDX }

/-- A mover read of tile address `a` of tensor `t`; `out` moves a one-home tile out of its tier (R155). -/
def Cell.readTile (k : Cell) (t : Tensor) (a : Nat) (out : Bool) (busy : List Nat) : Option (Cell × Tile) :=
  match (k.ent a).current with
  | none => none
  | some x =>
    let k1 := k.install t busy a
    let e := k1.ent a
    let y := x.withMap t e.st
    if out && t.one then
      some (k1.touched a { TileEnt.absent with
        st := .E, pinned := e.pinned, spent := if e.st = .F then (e.spent.1 + 1, e.spent.2) else (e.spent.1, e.spent.2 + 1) }, y)
    else some (k1.touched a e, y)

/-- A lagging home is written from its copy, which ends the mark (R260). -/
def TileEnt.caughtUp (e : TileEnt) : TileEnt :=
  if e.lagging then { e with home := e.fast, homeBad := false, lagging := false } else e

/-- Where a write of tile address `a` puts it (R150, R154, R155, R159): the cell with room made and the entry after the
write, or none when no room is left. -/
def Cell.placeTile (k : Cell) (t : Tensor) (a : Nat) (x : Tile) (busy : List Nat) : Option (Cell × TileEnt) :=
  let e := (k.ent a).caughtUp
  let inFast (k : Cell) : Option (Cell × TileEnt) :=
    some (k, if t.one then { e with st := .F, fast := x, home := Tile.zero, homeBad := false }
             else { e with st := (if e.st = .HX || e.st = .HDX then .HDX else .HD), fast := x })
  let inSlow (_ : Unit) : Option (Cell × TileEnt) :=
    if t.one then
      if e.st = .S || k.slowRoom t.tenant then some (k, { e with st := .S, home := x, homeBad := false }) else none
    else if e.st = .HX || e.st = .HDX || k.slowRoom t.tenant then
      some (k, { e with st := .HX, shadow := x, shadowBad := false, fast := Tile.zero })
    else none
  if e.st.inFast then inFast k
  else if t.preferSlow then inSlow ()
  else match k.makeRoom t.tenant busy with
    | some k1 => inFast k1
    | none => inSlow ()

/-- A weight tensor (R143): write-back or shared, and holding values that are weights. DEDUCED (log 103): one of gradients has bit 22 set
(R148), and one of INT32 holds records, which no PLACE record may name as a weight format (Table 2-15). -/
def Tensor.weight (t : Tensor) : Bool := !t.one && !t.ident.getLsbD 22 && t.fmt ≠ 0x11

/-- Version of a tile that the mover writes (R143): a weight tensor's tile keeps its own until a seal. -/
def Cell.writeVersion (k : Cell) (t : Tensor) (a : Nat) : BitVec 16 :=
  if !t.weight then ((k.run t.tenant).jobStep).setWidth 16
  else (((k.ent a).current).map (·.tag.ver)).getD ((k.ent a).home.tag.ver)

/-- The tile as the tier keeps it: the tensor's identity, the version of R143, MAP only with SIDE (R162). -/
def Cell.tierTile (k : Cell) (t : Tensor) (a : Nat) (x : Tile) : Tile :=
  let side := t.base + t.count ≤ a
  { x with tag := { x.tag with
    ident := if side then t.ident ||| 0x800000 else t.ident
    fmt := if side then 0 else t.fmt
    seq := if side then a - t.base - t.count else a - t.base
    ver := k.writeVersion t a
    dirty := false
    pinned := false
    home := false
    map := x.tag.map && t.hasSide && !side
    tenant := t.tenant } }

/-- A mover write of tile address `a`; none when it is not performed for want of room (R159). -/
def Cell.writeTile (k : Cell) (t : Tensor) (a : Nat) (x : Tile) (busy : List Nat) : Option Cell :=
  match k.placeTile t a (k.tierTile t a x) busy with
  | none => none
  | some (k1, e) => some (k1.touched a e)

/-! ## Tensors by tenant and identifier (R147, R161, R162) -/

/-- Directory entry for an identifier: the tenant's own tensor first, then a shared one; the Bool says the side tensor. -/
def Cell.lookup (k : Cell) (tenant : Nat) (ident : BitVec 24) : Option (Tensor × Bool) :=
  let side := ident.getLsbD 23
  let base := ident &&& 0x7FFFFF
  match (k.tiers.dir.find? (fun t => t.tenant = tenant && t.ident = base)).orElse
      (fun _ => k.tiers.dir.find? (fun t => t.tenant = 0xFF && t.ident = base)) with
  | none => none
  | some t => if side && !t.hasSide then none else some (t, side)

/-- The cell that holds the tiles, the tensor as that cell's directory has it, and whether the side tensor is meant: a
forwarding record leads to its holder (R161). -/
def State.locate (s : State) (c tenant : Nat) (ident : BitVec 24) : Option (Nat × Tensor × Bool) :=
  match (s.cell c).lookup tenant ident with
  | none => none
  | some (t, side) =>
    match t.holder with
    | none => some (c, t, side)
    | some h =>
      match (s.cell h).tiers.dir.find? (fun x => x.tenant = 0xFF && x.ident = t.ident && x.holder.isNone) with
      | none => none
      | some x => some (h, x, side)

/-- Tile count of the tensor or its side tensor. -/
def tileSpan (t : Tensor) (side : Bool) : Nat := if side then t.sides else t.count

/-- Cell and address of a tile of a READY tensor within its count (R147). -/
def State.tileAt (s : State) (c tenant : Nat) (ident : BitVec 24) (seq : Nat) : Option (Nat × Tensor × Nat) :=
  match s.locate c tenant ident with
  | none => none
  | some (h, t, side) =>
    if t.ready && seq < tileSpan t side then some (h, t, t.base + (if side then t.count else 0) + seq) else none

/-- Cell `h` of the module can be reached over the ports from cell `c`, and serves (R13, R14). -/
def State.reaches (s : State) (c h : Nat) : Bool := h = c || (s.cellUp h && (s.route c s.mySeat h).isSome)

/-- Why a read of a tensor that cannot be read voids: LINK where its holder cell cannot be reached (R13, R161), else CHECK (R147). -/
def State.readFault (s : State) (c tenant : Nat) (ident : BitVec 24) : Nat :=
  match s.locate c tenant ident with
  | some (h, _, _) => if s.reaches c h then vCHECK else vLINK
  | none => vCHECK

/-- Addresses, in the cell, of the tiles of an operation and of their side tiles (R158). -/
def State.tilesOf (s : State) (c tenant : Nat) (l : List (BitVec 24 × Nat)) : List Nat :=
  l.flatMap (fun q => match s.tileAt c tenant q.1 q.2 with
    | some (h, t, a) => if h ≠ c then [] else if t.hasSide then [a, t.base + t.count + q.2 / 8] else [a]
    | none => [])

/-- The tier controller has served core `n` of the cell, or with 128 the U-die's mover: its button moves past it (R69, R70). -/
def State.tierServed (s : State) (c n : Nat) : State :=
  s.onCell c (fun k => { k with tiers := { k.tiers with button := buttonNext 129 n } })

/-- Side entry `j` of a side tile (R77). -/
def sideEntry (x : Tile) (j : Nat) : SideRec := BitVec.ofNat 4096 (x.payload.toNat >>> (4096 * j))

/-- The side tile with entry `j` replaced (R77); its check value follows its payload (R142). -/
def withSideEntry (x : Tile) (j : Nat) (v : SideRec) : Tile :=
  let mask : Payload := (BitVec.allOnes 4096).setWidth 32768 <<< (4096 * j)
  let p : Payload := (x.payload &&& ~~~mask) ||| (v.setWidth 32768 <<< (4096 * j))
  { x with payload := p, tag := { x.tag with check := payloadCrc p } }

/-- A mover read of a tile with its side entry (R147, R154, R155, R162); none where the step voids with CHECK. -/
def State.tierRead (s : State) (c tenant : Nat) (ident : BitVec 24) (seq : Nat) (out : Bool) (busy : List Nat) :
    Option (State × Slot) :=
  match s.tileAt c tenant ident seq with
  | none => none
  | some (h, t, a) =>
    if !s.reaches c h then none
    else match (s.cell h).readTile t a out busy with
    | none => none
    | some (k1, x) =>
      if t.hasSide && !ident.getLsbD 23 then
        match k1.readTile t (t.base + t.count + seq / 8) false busy with
        | none => none
        | some (k2, y) => some (s.setCell h k2, { tile := x, side := sideEntry y (seq % 8), filled := true })
      else some (s.setCell h k1, { tile := x, side := 0, filled := false })

/-- The CAPACITY record of a write that found no room (R159). -/
def State.noRoom (s : State) (c : Nat) (t : Tensor) : State :=
  s.err c { cls := clsCAPACITY, sev := 2, unit := 3, tenant := t.tenant, obj := t.ident.toNat, detail := 1 }

/-- A write of a tile with its side entry; false where it is not performed: the lookup fails (R147), the tensor is
shared (R161), or no room is left (R159). -/
def State.tierPut (s : State) (c tenant : Nat) (ident : BitVec 24) (seq : Nat) (x : Slot) (busy : List Nat) :
    State × Bool :=
  match s.tileAt c tenant ident seq with
  | none => (s, false)
  | some (h, t, a) =>
    if t.tenant = 0xFF then (s, false)
    else match (s.cell h).writeTile t a x.tile busy with
      | none => (s.noRoom h t, false)
      | some k1 =>
        if t.hasSide && !ident.getLsbD 23 then
          let sa := t.base + t.count + seq / 8
          let old := ((k1.ent sa).current).getD Tile.zero
          match k1.writeTile t sa (withSideEntry old (seq % 8) x.side) busy with
          | none => (s.noRoom h t, false)
          | some k2 => (s.setCell h k2, true)
        else (s.setCell h k1, true)

/-- Tensors of a binding (Table 10-4). -/
def Binding.tensors (b : Binding) : List (BitVec 24) :=
  [b.master, b.m1, b.m2, b.counter, b.precond].filter (fun i => i ≠ 0)

/-- Layers of the cell whose bindings name a tensor (Table 10-4). -/
def Cell.boundLayers (k : Cell) (tenant : Nat) (ident : BitVec 24) : List Nat :=
  (((k.ud.binds ++ k.ud.pendBinds).filter (fun b => b.tenant = tenant && b.tensors.contains ident)).map (·.layer)).dedup

/-- The tensor is bound state that only the U-die writes now (Table 10-2). -/
def Cell.guarded (k : Cell) (tenant : Nat) (ident : BitVec 24) : Bool :=
  (k.ud.mode = .run || k.ud.mode = .test) && !(k.boundLayers tenant ident).isEmpty

/-- A mover write of a tile: a write to a bound state tensor from outside the U-die is refused (Table 10-2). -/
def State.tierWrite (s : State) (c tenant : Nat) (ident : BitVec 24) (seq : Nat) (x : Slot) (busy : List Nat) :
    State × Bool :=
  if (s.cell c).guarded tenant ident then (s, false) else s.tierPut c tenant ident seq x busy

/-! ## The seal and the boundary (R152, R155, R156, R161) -/

/-- An entry after its tenant's seal (R155, R156, R166). -/
def TileEnt.sealed (e : TileEnt) (commit : Bool) : TileEnt :=
  let e := { e with spent := (0, 0) }
  match e.st, commit with
  | .HD, true | .HDX, true =>
    { e with st := .HC, home := e.fast, homeBad := false, shadow := Tile.zero, shadowBad := false }
  | .HX, true =>
    { e with st := .H, home := e.shadow.spoil e.shadowBad, homeBad := false, shadow := Tile.zero, shadowBad := false }
  | .HD, false | .HDX, false | .HX, false =>
    { e with st := .H, home := e.home.spoil e.homeBad, homeBad := false, fast := Tile.zero, shadow := Tile.zero,
             shadowBad := false }
  | _, _ => e

/-- The cell's tiles of one tenant at its seal. -/
def Cell.tierSeal (k : Cell) (tenant : Nat) (commit : Bool) : Cell :=
  { k with tiers := { k.tiers with tiles :=
    ((k.tiers.tiles.map (fun p =>
      (p.1, if ((k.ownerOf p.1).map (·.tenant)) = some tenant then p.2.sealed commit else p.2))).filter
      (fun p => p.2 ≠ TileEnt.absent)) } }

/-- FREEs that were pending take effect: directory entries go, and their tiles with them (R152, R161). -/
def Cell.freeDue (k : Cell) : Cell :=
  let gone := k.tiers.dir.filter (·.freePend)
  { k with tiers := { k.tiers with
    dir := k.tiers.dir.filter (fun t => !t.freePend)
    tiles := k.tiers.tiles.filter (fun p => !gone.any (fun t => t.owns p.1)) } }

/-- At a step boundary the FREEs take effect; a cell with no step in progress is at one (R43, R152). -/
def State.freeSoon (s : State) (c : Nat) : State :=
  if (s.cell c).step.running then s else s.onCell c Cell.freeDue

/-! ## Tensor commands (R147 to R152, R161, R162) -/

/-- Formats of a tile: Table 5-1 but 0x20 (Table 7-3). -/
def tileFormats : List Nat := [0x01, 0x02, 0x03, 0x04, 0x05, 0x08, 0x09, 0x0C, 0x10, 0x11]

/-- A tensor command record breaks Table 7-3 (R4, status RESERVED); the identifier of an ALLOC has a status of its own (R148). -/
def tensorReserved (e : Entry) : Bool :=
  e.fld 7 1 ≠ 0 || e.fld 0xC 4 ≠ 0 || e.fld 0x30 16 ≠ 0 || 63 < e.fld 2 1 ||
  (e.fld 0 1 ≠ 1 && (e.fld 4 3 = 0 || bit (e.fld 4 3) 23)) ||
  (if e.fld 0 1 = 1 then
    !tileFormats.contains (e.fld 1 1) || 64 ≤ e.fld 3 1 || e.fld 8 4 = 0 || 2 ^ 28 < e.fld 8 4 ||
    (!bit (e.fld 3 1) 3 && e.fld 0x10 32 ≠ 0)
  else e.fld 1 1 ≠ 0 || e.fld 3 1 ≠ 0 || e.fld 8 4 ≠ 0 || e.fld 0x10 32 ≠ 0)

/-- Identities that may send a command for a tenant (R149): its host function, the PF, the module supervisor, the
Manager; none for a tenant absent from the active figure. -/
def State.mayFor (s : State) (c tenant : Nat) (who : BitVec 8) : Bool :=
  match (s.cell c).tenantRec tenant with
  | none => false
  | some r => who.toNat = r.hostFn || who = 0x00 || who = 0x40 || who = 0x70

/-- The flags break R148. -/
def flagsBad (f : Nat) : Bool := (bit f 0 && bit f 1) || (bit f 2 && bit f 1) || (bit f 3 && bit f 4)

/-- The identifier breaks R148. -/
def identBad (ident fmt f : Nat) : Bool :=
  ident = 0 || bit ident 23 || (bit ident 21 != bit f 3) || (bit f 3 && bit ident 22) ||
  (bit ident 22 && (fmt = 0x10 || fmt = 0x11))

/-- Device address of tile address `a` of cell `c` (R144). -/
def deviceAddr (c a : Nat) : Nat := c * 2 ^ 41 + 4096 * a

/-- The lowest run of `n` free tile addresses above the tensors given in order of base (R150). -/
def lowestRun (n : Nat) : Nat → List (Nat × Nat) → Nat
  | from', [] => from'
  | from', (b, len) :: r => if from' + n ≤ b then from' else lowestRun n (max from' (b + len)) r

/-- Tensors that hold tiles here, as (base, tiles) in order of base. -/
def Cell.runs' (k : Cell) : List (Nat × Nat) :=
  inOrder (fun a b => a.1 ≤ b.1) ((k.tiers.dir.filter (·.holder.isNone)).map (fun t => (t.base, t.total)))

/-- How many of `t`'s tiles ALLOC puts into the fast tier (R150), counted from tile 0. -/
def Cell.allocFast (k : Cell) (t : Tensor) : Nat :=
  if t.pinFast then t.total
  else if !t.one || t.preferSlow then 0
  else min t.total (min (fastTiles - k.poolUse.1) ((k.fastBounds t.tenant).2 - (k.occ t.tenant).1))

/-- Places that the tensor takes in each tier (R150, R153). -/
def Cell.allocUse (k : Cell) (t : Tensor) : Nat × Nat :=
  let nf := k.allocFast t
  (nf, if t.one then t.total - nf else t.total)

/-- The first status that ends ALLOC for want of room: LIMIT 0x06 or NOSPACE 0x05 (R150); 0 when it fits. -/
def Cell.allocFits (k : Cell) (t : Tensor) : Nat :=
  let (nf, ns) := k.allocUse t
  let o := k.occ t.tenant
  let pinned := (k.occBy (fun x => x.tenant = t.tenant && x.pinFast)).1
  if t.tenant ≠ 0xFF && ((nf ≠ 0 && (k.fastBounds t.tenant).2 < o.1 + nf) || (ns ≠ 0 && (k.slowBounds t.tenant).2 < o.2 + ns) ||
      (t.pinFast && (k.fastBounds t.tenant).1 < pinned + nf)) then 0x06
  else if fastTiles < k.poolUse.1 + nf + k.unmetFast t.tenant nf ||
      slowTiles < k.poolUse.2 + ns + k.unmetSlow t.tenant ns || 2 ^ 28 < t.base + t.total then 0x05
  else 0

/-- The entry of a new tile: zero payload, in the tiers of R150. -/
def newEnt (k : Cell) (t : Tensor) (fast : Bool) (a : Nat) : TileEnt :=
  let x := { k.tierTile t a Tile.zero with tag := { (k.tierTile t a Tile.zero).tag with ver := 0 } }
  { TileEnt.absent with
    st := if t.one then (if fast then .F else .S) else (if fast then .HC else .H)
    fast := if fast then x else Tile.zero
    home := if t.one && fast then Tile.zero else x
    pinned := t.pinFast }

/-- The tensor enters the directory with its tiles (R150). -/
def Cell.addTensor (k : Cell) (t : Tensor) : Cell :=
  let nf := k.allocFast t
  let k1 := { k with tiers := { k.tiers with dir := k.tiers.dir ++ [t] } }
  (List.range t.total).foldl (fun acc i => acc.setEnt (t.base + i) (newEnt k t (i < nf) (t.base + i))) k1

/-- Shared tensor of the module with a key (R161). -/
def State.sharedOf (s : State) (ident : BitVec 24) (digest : BitVec 256) : Option Shared :=
  s.shared.find? (fun x => x.ident = ident && x.digest = digest)

def State.onShared (s : State) (ident : BitVec 24) (digest : BitVec 256) (f : Shared → Shared) : State :=
  { s with shared := s.shared.map (fun x => if x.ident = ident && x.digest = digest then f x else x) }

/-- A shared tensor's directory entry on the cell with its references changed. -/
def Cell.onRefs (k : Cell) (ident : BitVec 24) (f : List Nat → List Nat) : Cell :=
  { k with tiers := { k.tiers with dir := k.tiers.dir.map (fun t =>
    if t.tenant = 0xFF && t.ident = ident then { t with refs := f t.refs } else t) } }

/-- An ALLOC of an existing shared key: SHARED, a forwarding record where the cell has none, one reference more, and the
holder's device address (R161). -/
def State.attach (s : State) (c tenant : Nat) (x : Shared) : State × Done :=
  match (s.cell x.holder).tiers.dir.find? (fun t => t.tenant = 0xFF && t.ident = x.ident && t.holder.isNone) with
  | none => (s, { status := 0x07 })
  | some h =>
    let k := s.cell c
    let mine := k.tiers.dir.any (fun t => t.tenant = 0xFF && t.ident = x.ident)
    if !mine && 65536 ≤ k.tiers.dir.length then (s, { status := 0x0C })
    else
      let s0 := if mine then s else s.setCell c { k with tiers := { k.tiers with
        dir := k.tiers.dir ++ [{ h with holder := some x.holder, freePend := false, refs := [] }] } }
      let s1 := s0.onCell c (fun k => k.onRefs x.ident (· ++ [tenant]))
      (s1.onShared x.ident x.digest (fun y => { y with refs := y.refs + 1 }),
       { status := 0x01, result := deviceAddr x.holder h.base })

/-- ALLOC after its record and sender have been accepted (R148, R150, R161): the state and how it ends. -/
def State.allocDo (s : State) (c : Nat) (e : Entry) : State × Done :=
  let k := s.cell c
  let f := e.fld 3 1
  let ident := BitVec.ofNat 24 (e.fld 4 3)
  let digest := BitVec.ofNat 256 (e.fld 0x10 32)
  let owner := if bit f 3 then 0xFF else e.fld 2 1
  let mine := k.tiers.dir.find? (fun t => t.tenant = owner && t.ident = ident)
  let old := if bit f 3 then s.sharedOf ident digest else none
  if flagsBad f then (s, { status := 0x03 })
  else if identBad (e.fld 4 3) (e.fld 1 1) f then (s, { status := 0x02 })
  else if bit f 3 && s.boot.anchorLost then (s, { status := 0x09 })
  else
    let clash := match mine with
      | none => false
      | some m => !(old.isSome && m.digest = digest && !m.freePend)
    if clash then (s, { status := 0x04 })
    else match old with
      | some x => s.attach c (e.fld 2 1) x
      | none =>
        if 65536 ≤ k.tiers.dir.length then (s, { status := 0x0C })
        else
          let t0 : Tensor :=
            { tenant := owner, ident := ident, fmt := e.fld 1 1, flags := BitVec.ofNat 8 f, base := 0, count := e.fld 8 4,
              ready := false, freePend := false, digest := digest, holder := none, refs := if bit f 3 then [e.fld 2 1] else [] }
          let t := { t0 with base := lowestRun t0.total 0 k.runs' }
          let why := k.allocFits t
          if why ≠ 0 then (s, { status := why })
          else
            let s1 := s.setCell c (k.addTensor t)
            (if bit f 3 then
              { s1 with shared := s1.shared ++ [{ ident := ident, digest := digest, holder := c, refs := 1, origin := none }] }
             else s1, { status := 0x00, result := deviceAddr c t.base })

/-- Bytes of a tensor's payloads in tile order, in the part each format uses whole tiles of. -/
def Cell.tensorBytes (k : Cell) (t : Tensor) : List Byte :=
  (List.range t.count).flatMap (fun i =>
    bytesOf 4096 ((((k.ent (t.base + i)).current).getD Tile.zero).payload.toNat))

/-- The manifest check of READY (R151, R388). -/
def State.manifestOk (s : State) (h : Nat) (t : Tensor) : Bool :=
  match s.mgmt.store.find? (fun m => m.digest = t.digest) with
  | none => false
  | some m =>
    match m.entries[t.ident.toNat % 65536]? with
    | none => false
    | some (_, _, len, d) => len = 4096 * t.count && d = sha3 ((s.cell h).tensorBytes t)

/-- The manifest with a digest becomes the store's latest used (R388). -/
def State.useManifest (s : State) (d : BitVec 256) : State :=
  match s.mgmt.store.find? (fun m => m.digest = d) with
  | none => s
  | some m => { s with mgmt := { s.mgmt with store := (s.mgmt.store.filter (fun x => x.digest ≠ d)) ++ [m] } }

/-- Check value recomputed from the payload (R142, R151). -/
def Tile.recheck (x : Tile) : Tile := { x with tag := { x.tag with check := payloadCrc x.payload } }

/-- A tensor leaves its cell at once, with its tiles (R151: DIGEST frees the tensor). -/
def Cell.dropTensor (k : Cell) (tenant : Nat) (ident : BitVec 24) : Cell :=
  let pick (t : Tensor) : Tensor := { t with freePend := t.tenant = tenant && t.ident = ident }
  let k1 := ({ k with tiers := { k.tiers with dir := k.tiers.dir.map pick } } : Cell).freeDue
  { k1 with tiers := { k1.tiers with dir := k.tiers.dir.filter (fun t => !(t.tenant = tenant && t.ident = ident)) } }

/-- Check values of every tile, then READY (R151). -/
def Cell.makeReady (k : Cell) (t : Tensor) : Cell :=
  let k1 := (List.range t.total).foldl (fun acc i =>
    let e := acc.ent (t.base + i)
    acc.setEnt (t.base + i) { e with fast := e.fast.recheck, home := e.home.recheck }) k
  { k1 with tiers := { k1.tiers with dir := k1.tiers.dir.map (fun x =>
    if x.tenant = t.tenant && x.ident = t.ident then { x with ready := true } else x) } }

/-- Layers with a HOME record at cell `c` of seat `seat` in the active or idle plane (Table 2-14). -/
def Cell.homed (k : Cell) (seat c : Nat) : List Nat :=
  [k.fig.active, k.fig.idle].flatMap (fun f => ((f.map (·.places)).getD []).filterMap (fun p =>
    if p.home && p.cell = c && (p.seat = 0xFFFF || p.seat = seat) then some p.layer else none))

/-- Home layers whose working weights a tensor holds: those for which the tenant's current image, or a FETCH, names it. -/
def Cell.layersHomed (k : Cell) (seat c : Nat) (t : Tensor) : List Nat :=
  let byImage := (((k.run t.tenant).image.map (·.layers)).getD []).filterMap (fun r =>
    if BitVec.ofNat 24 r.tensor = t.ident then some r.layer else none)
  let byFetch := k.ud.working.filterMap (fun x => if x.1 = t.tenant && x.2.2 = t.ident then some x.2.1 else none)
  ((byImage ++ byFetch).filter (k.homed seat c).contains).dedup

/-- A layer's working weights take a version other than a seal's: the home's is it, and what was last sent is unknown (R251, R259). -/
def Cell.newWeights (k : Cell) (tenant : Nat) (layers : List Nat) (ver : BitVec 16) : Cell :=
  if layers.isEmpty then k
  else
    let k1 := k.onVer tenant (fun v => { v with homeVer := ver })
    { k1 with ud := { k1.ud with lastSent := k1.ud.lastSent.filter (fun x => !layers.contains (x.1 / 8192)) } }

/-- READY after its record and sender have been accepted (R151, R152); weights made READY by command have version 0 (R251). -/
def State.readyDo (s : State) (c : Nat) (e : Entry) : State × Done :=
  let ident := BitVec.ofNat 24 (e.fld 4 3)
  match (s.cell c).lookup (e.fld 2 1) ident, s.locate c (e.fld 2 1) ident with
  | some (m, false), some (h, t, _) =>
    if m.freePend || t.ready then (s, { status := 0x08 })
    else if t.sharedRo && !s.manifestOk h t then
      let s1 := s.onCell h (fun k => k.dropTensor 0xFF t.ident)
      let s2 := if h = c then s1 else s1.onCell c (fun k => k.dropTensor 0xFF t.ident)
      ({ s2 with shared := s2.shared.filter (fun x => !(x.ident = t.ident && x.digest = t.digest)) }, { status := 0x0A })
    else ((if t.sharedRo then s.useManifest t.digest else s).onCell h (fun k =>
      (k.makeReady t).newWeights t.tenant (k.layersHomed s.mySeat h t) 0), { status := 0x00 })
  | _, _ => (s, { status := 0x07 })

/-- The tensor's directory entry is marked for FREE (R152). -/
def Cell.markFree (k : Cell) (tenant : Nat) (ident : BitVec 24) : Cell :=
  { k with tiers := { k.tiers with dir := k.tiers.dir.map (fun t =>
    if t.tenant = tenant && t.ident = ident then { t with freePend := true } else t) } }

/-- One reference of a tenant to a shared tensor goes on a cell: the forwarding record with the cell's last, and the tiles at the holder's
step boundary after the module's last (R161). The tenant's own reference goes first, else another of the cell. -/
def State.dropRef (s : State) (c tenant : Nat) (t : Tensor) : State :=
  let s1 := (s.onCell c (fun k => k.onRefs t.ident (fun l => if l.contains tenant then l.erase tenant else l.tail))).onShared
    t.ident t.digest (fun x => { x with refs := x.refs - 1 })
  let gone := !(s1.cell c).tiers.dir.any (fun x => x.tenant = 0xFF && x.ident = t.ident && !x.refs.isEmpty)
  let s2 := if t.holder.isSome && gone then (s1.onCell c (fun k => k.markFree 0xFF t.ident)).freeSoon c else s1
  match s2.sharedOf t.ident t.digest with
  | some x =>
    if x.refs ≠ 0 then s2
    else
      let s3 := { s2 with shared := s2.shared.filter (fun x => !(x.ident = t.ident && x.digest = t.digest)) }
      (s3.onCell x.holder (fun k => k.markFree 0xFF t.ident)).freeSoon x.holder
  | none => s2

/-- FREE after its record and sender have been accepted (R152, R161): a shared tensor loses one reference. -/
def State.freeDo (s : State) (c : Nat) (e : Entry) : State × Done :=
  let ident := BitVec.ofNat 24 (e.fld 4 3)
  match (s.cell c).lookup (e.fld 2 1) ident with
  | some (t, false) =>
    if t.freePend then (s, { status := 0x08 })
    else if t.tenant ≠ 0xFF then
      ((s.onCell c (fun k => k.markFree t.tenant t.ident)).freeSoon c, { status := 0x00 })
    else (s.dropRef c (e.fld 2 1) t, { status := 0x00 })
  | _ => (s, { status := 0x07 })

/-- A tensor command at cell `c` (R147, R149): its record, its sender, its effect, its completion. -/
def State.doTensor (s : State) (c : Nat) (src : Source) (e : Entry) : State :=
  if tensorReserved e then s.complete c src e { status := 0x0B }
  else if !s.mayFor c (e.fld 2 1) src.who then s.complete c src e { status := 0x09 }
  else
    let (s1, d) :=
      if e.fld 0 1 = 1 then s.allocDo c e else if e.fld 0 1 = 2 then s.readyDo c e else s.freeDo c e
    s1.complete c src e d

/-- The supervisor's command queue has taken an entry of `who`: its button passes on (R70). -/
def State.cmdServed (s : State) (c : Nat) (who : BitVec 8) : State := s.onCell c (fun k => { k with cmdBtn := buttonNext 256 who.toNat })

/-- An entry of kind `kind` reaches an initialised cell (R364) and wakes it (R363); a path that does not accept the kind ends it with KIND (R340). -/
def State.entryAt (s : State) (c kind : Nat) (src : Source) (e : Entry) (f : State → State) : State :=
  if !(s.cellUp c && e.fld 0 1 = kind) then s
  else if s.kindOk src kind then f ((s.wake c).cmdServed c src.who)
  else (s.wake c).complete c src e { status := 0xFF }

def execAlloc (t : Nat) (cell : Fin 8) (src : Source) (e : Entry) (s : State) : Res :=
  .next (s.run t (fun s => s.entryAt cell 0x01 src e (fun s => s.doTensor cell src e)))

def execReady (t : Nat) (cell : Fin 8) (src : Source) (e : Entry) (s : State) : Res :=
  .next (s.run t (fun s => s.entryAt cell 0x02 src e (fun s => s.doTensor cell src e)))

def execFree (t : Nat) (cell : Fin 8) (src : Source) (e : Entry) (s : State) : Res :=
  .next (s.run t (fun s => s.entryAt cell 0x03 src e (fun s => s.doTensor cell src e)))

/-! ## The device range through BAR2 (R144 to R146, R409) -/

/-- The 16 bytes of a tag (Table 7-1). -/
def Tag.bytes (t : Tag) : Nat :=
  let b (x : Bool) (i : Nat) : Nat := if x then 2 ^ i else 0
  pack [(4, t.check.toNat), (3, t.ident.toNat), (1, t.fmt), (4, t.seq), (2, t.ver.toNat),
    (1, b t.poison 0 + b t.dirty 1 + b t.pinned 2 + b t.home 3 + b t.map 4), (1, t.tenant)]

/-- The payload with byte `o` replaced. -/
def setByte (p : Payload) (o : Nat) (b : Byte) : Payload :=
  (p &&& ~~~(0xFF#32768 <<< (8 * o))) ||| (b.setWidth 32768 <<< (8 * o))

/-- One byte of a device address as the host reads it; none where the read is entered in the ring (Table 7-2, R146). -/
def Cell.deviceByte (k : Cell) (off : Nat) : Option Byte :=
  if off < 2 ^ 40 then
    match (k.ent (off / 4096)).current with
    | none => none
    | some x => some (BitVec.ofNat 8 (x.payload.toNat >>> (8 * (off % 4096))))
  else if off < 2 ^ 40 + 2 ^ 32 then
    let a := (off - 2 ^ 40) / 16
    match k.ownerOf a with
    | none => none
    | some t =>
      let x := (((k.ent a).current).getD (k.tierTile t a Tile.zero)).withMap t (k.ent a).st
      some (BitVec.ofNat 8 (x.tag.bytes >>> (8 * (off % 16))))
  else if 0x18000000000 ≤ off ∧ off < 0x18000000000 + 2 ^ 26 then
    let o := off - 0x18000000000
    match k.fig.slots.get .empty (o / 2 ^ 24) with
    | .resident _ b => some (BitVec.ofNat 8 ((b.get 0 (o % 2 ^ 24 / 4096)).toNat >>> (8 * (o % 4096))))
    | .loading b _ _ => some (BitVec.ofNat 8 ((b.get 0 (o % 2 ^ 24 / 4096)).toNat >>> (8 * (o % 4096))))
    | .empty => some 0
  else none

/-- One byte written by the host: payload bytes of a LOADING tensor only (R146); the Bool says it was accepted. -/
def Cell.deviceWrite (k : Cell) (off : Nat) (b : Byte) : Cell × Bool :=
  match (if off < 2 ^ 40 then k.ownerOf (off / 4096) else none) with
  | none => (k, false)
  | some t =>
    if t.ready then (k, false)
    else
      let e := k.ent (off / 4096)
      let up (x : Tile) : Tile := { x with payload := setByte x.payload (off % 4096) b }
      (k.setEnt (off / 4096) { e with fast := if e.st.inFast then up e.fast else e.fast, home := if e.st = .F then e.home else up e.home }, true)

/-- A BAR2 access that is discarded or answers zero is entered in the ring (R146). -/
def State.badAccess (s : State) (dev : Nat) : State :=
  s.err (dev / 2 ^ 41 % 8) { cls := clsCOMMAND, sev := 1, unit := 3, detail := dev }

/-- One byte written at device address `d`; the Bool says that every byte so far was accepted (R145, R146). -/
def State.devicePut (s : State) (ok : Bool) (d : Nat) (b : Byte) : State × Bool :=
  let r := (s.cell (d / 2 ^ 41)).deviceWrite (d % 2 ^ 41) b
  (if r.2 then s.setCell (d / 2 ^ 41) r.1 else s, ok && r.2)

/-- BAR2 answers the PF alone (R145). -/
def State.bar2Up (s : State) (who : BitVec 8) : Bool := s.barUp && !s.boot.safe && who = 0x00

def execBar2Write (t : Nat) (who : BitVec 8) (off : Nat) (bytes : List Byte) (s : State) : Res :=
  .next (s.run t (fun s =>
    if !s.bar2Up who || 2 ^ 37 < off + bytes.length || bytes.isEmpty then s
    else
      let dev := s.host.bar2.toNat * 2 ^ 37 + off
      let r := (bytes.zipIdx).foldl (fun (acc : State × Bool) b => acc.1.devicePut acc.2 (dev + b.2) b.1) (s, true)
      if r.2 then r.1 else r.1.badAccess dev))

def execBar2Read (t : Nat) (who : BitVec 8) (off n : Nat) (s : State) : Res :=
  .next (s.run t (fun s =>
    if !s.bar2Up who || 2 ^ 37 < off + n || n = 0 then s
    else
      let dev := s.host.bar2.toNat * 2 ^ 37 + off
      let l := (List.range n).map (fun i => (s.cell ((dev + i) / 2 ^ 41)).deviceByte ((dev + i) % 2 ^ 41))
      let s1 := if l.all Option.isSome then s else s.badAccess dev
      s1.emit (.readData who.toNat (ofBytes (l.map (·.getD 0))))))

/-! ## Migration, scrubbing, ECC and poison (R160, R165 to R167, R323) -/

/-- A one-home tile not PREFER_SLOW that may move up now (R160). -/
def Cell.mayRise (k : Cell) (a : Nat) (e : TileEnt) : Bool :=
  match k.ownerOf a with
  | none => false
  | some t =>
    e.st = .S && t.one && !t.preferSlow && k.fastRoom t.tenant &&
    k.poolUse.1 + 1 + k.unmetFast t.tenant 1 ≤ fastTiles

/-- One tile moves up: the one with the latest stamp, then the lowest address (R160). -/
def Cell.riseOne (k : Cell) : Option Cell :=
  match (k.tiers.tiles.foldl (fun (best : Option (Nat × Nat)) x =>
      if !k.mayRise x.1 x.2 then best
      else match best with
        | none => some (x.1, x.2.stamp)
        | some b => if b.2 < x.2.stamp then some (x.1, x.2.stamp) else best) none) with
  | none => none
  | some (a, _) =>
    let e := k.ent a
    some (k.setEnt a { e with st := .F, fast := e.home.spoil e.homeBad, home := Tile.zero, homeBad := false })

def Cell.rise : Nat → Cell → Cell
  | 0, k => k
  | n + 1, k =>
    match k.riseOne with
    | none => k
    | some k1 => Cell.rise n k1

/-- Up to `n` tiles migrate between steps (R160). -/
def execMigration (t : Nat) (cell : Fin 8) (n : Nat) (s : State) : Res :=
  .next (s.run t (fun s => if s.cellUp cell && !(s.cell cell).step.running then s.onCell cell (Cell.rise n) else s))

/-- An entry after an uncorrectable error at a site (R166). The Bool says that the tile's value is poisoned. -/
def TileEnt.broken (e : TileEnt) (site : EccSite) : TileEnt × Bool :=
  match site, e.st with
  | .fast, .HC => if e.lagging then ({ e with fast := e.fast.spoil true }, true) else ({ e with st := .H, fast := Tile.zero }, false)
  | .fast, .F | .fast, .HD | .fast, .HDX => ({ e with fast := e.fast.spoil true }, true)
  | .home, .HC => ({ e with home := e.fast, homeBad := false, lagging := false }, false)
  | .home, .HD | .home, .HDX | .home, .HX => ({ e with homeBad := true }, false)
  | .home, .S | .home, .H => ({ e with home := e.home.spoil true }, true)
  | .shadow, .HDX => ({ e with shadowBad := true }, false)
  | .shadow, .HX => ({ e with shadow := e.shadow.spoil true }, true)
  | .tagUnit, .F => ({ e with fast := e.fast.spoil true }, true)
  | .tagUnit, .S | .tagUnit, .H => ({ e with home := e.home.spoil true }, true)
  | .tagUnit, .HC => ({ e with fast := e.fast.spoil true, home := e.home.spoil true }, true)
  | .tagUnit, .HD => ({ e with fast := e.fast.spoil true, homeBad := true }, true)
  | .tagUnit, .HDX => ({ e with fast := e.fast.spoil true, homeBad := true, shadowBad := true }, true)
  | .tagUnit, .HX => ({ e with shadow := e.shadow.spoil true, homeBad := true }, true)
  | _, _ => (e, false)

/-- Tile sequence of an address within its tensor or side tensor. -/
def seqOf (t : Tensor) (a : Nat) : Nat := if t.base + t.count ≤ a then a - t.base - t.count else a - t.base

/-- Layers become HELD, with a POISON record for each that was not (R238). -/
def State.holdLayers (s : State) (c tenant : Nat) (layers : List Nat) (seq : Nat) : State :=
  layers.foldl (fun s l =>
    if (s.cell c).ud.held.contains l then s
    else (s.onCell c (fun k => { k with ud := { k.ud with held := k.ud.held ++ [l] } })).err c
      { cls := clsPOISON, sev := 2, unit := 2, tenant := tenant, obj := l, detail := seq }) s

/-- The supervisor's own re-fetch of a shared tensor from the source of its FETCH (R325), once at a time. -/
def State.refetchOwn (s : State) (c : Nat) (t : Tensor) : State :=
  match (s.sharedOf t.ident t.digest).bind (·.origin) with
  | none => s
  | some f =>
    let e : Entry := BitVec.ofNat 512 (pack [(1, 0x25), (1, c), (1, f.fld 1 1), (1, f.fld 7 1), (3, t.ident.toNat), (1, 0), (8, f.fld 8 8),
      (3, f.fld 0x10 3), (1, 0), (4, f.fld 0x14 4), (40, 0)])
    let x : FetchRun := { src := ⟨0x40, .mail⟩, e := e }
    s.onCell c (fun k => if k.fetches.contains x then k else { k with fetches := k.fetches ++ [x] })

/-- A memory error found at an address (R165, R166); a poisoned home of a shared tensor enters a POISON record (R323); poisoned
state of a layer found before the step's decision holds the layer (R238). -/
def State.eccHit (s : State) (c : Nat) (h : EccHit) : State :=
  let k := s.cell c
  match k.ownerOf h.addr with
  | none => s
  | some t =>
    let e := k.ent h.addr
    if e.st = .E then s
    else if h.corrected then
      let k1 := match h.site with
        | .fast => { k with tiers := { k.tiers with eccFast := satAdd k.tiers.eccFast 1 } }
        | .tagUnit =>
          if e.st.inFast then { k with tiers := { k.tiers with eccFast := satAdd k.tiers.eccFast 1 } }
          else { k with tiers := { k.tiers with eccSlow := satAdd k.tiers.eccSlow 1 } }
        | _ => { k with tiers := { k.tiers with eccSlow := satAdd k.tiers.eccSlow 1 } }
      (s.setCell c k1).err c
        { cls := clsECC, sev := 0, unit := 3, tenant := t.tenant, obj := t.ident.toNat, detail := seqOf t h.addr }
    else
      let (e1, bad) := e.broken h.site
      let s1 := (s.setCell c (k.setEnt h.addr e1)).err c
        { cls := clsECC, sev := 2, unit := 3, tenant := t.tenant, obj := t.ident.toNat, detail := seqOf t h.addr }
      if !bad then s1
      else if t.tenant = 0xFF then
        (s1.err c { cls := clsPOISON, sev := 2, unit := 3, tenant := t.tenant, obj := t.ident.toNat, detail := seqOf t h.addr }).refetchOwn c t
      else
        -- a layer whose apply pass is to come finds the tile itself (R239)
        let applied := (k.lrn t.tenant).phase = .decided && (k.lrn t.tenant).decision.map (·.1) = some true
        s1.holdLayers c t.tenant ((k.boundLayers t.tenant t.ident).filter (fun l =>
          !(applied && k.ud.named.any (fun x => x.1 = l && x.2.2.2 = t.tenant)))) (seqOf t h.addr)

/-- Findings of reads of the tiers, by the scrubber or by any other access; a sweep completes only between steps in C1
(R165). -/
def execPatrolScrub (t : Nat) (cell : Fin 8) (hits : List EccHit) (sweepDone : Bool) (s : State) : Res :=
  .next (s.run t (fun s =>
    if !s.cellUp cell then s
    else
      let s1 := hits.foldl (fun acc h => acc.eccHit cell h) s
      if sweepDone && !(s1.cell cell).step.running && (s1.cell cell).power.state = .c1 then
        s1.onCell cell (fun k => { k with tiers := { k.tiers with sweep := s1.time cell } })
      else s1))

/-- A day of device time, ns. -/
def dayNs : Nat := 86400000000000

/-- 24 hours without a complete sweep are entered in the ring (R165). -/
def execSweepOverdue (t : Nat) (cell : Fin 8) (s : State) : Res :=
  .next (s.run t (fun s =>
    if s.cellUp cell && (s.cell cell).tiers.sweep + dayNs ≤ s.time cell then
      s.err cell { cls := clsECC, sev := 1, unit := 3 }
    else s))

end Sys2Proof.Machine
end

