-- ==== Sys2Proof/Machine/Operands.lean ====
section
/-!
DEFINITION. Operands of operations: references (Table 3-7), flags (Table 3-6), the chain's slots (R57), the record a context
runs next, the engine's button (R69), tiles read at engine entry (R308), tiles written as results (R83, R99 to R103), and
the counting of faults (R316, R317).
-/

namespace Sys2Proof.Machine

/-! ## References and flags -/

/-- An operand reference (Table 3-7). -/
structure Ref where
  space : Nat
  slot  : Nat
  ident : BitVec 24
  seq   : Nat
  seat  : Nat
  own   : Bool
  cell  : Nat
  group : Nat
  ctr   : Nat
  deriving DecidableEq, Repr

def readRef (w : BitVec 64) : Ref :=
  let v := w.toNat
  { space := bits v 62 2, slot := bits v 0 20, ident := BitVec.ofNat 24 (bits v 20 24), seq := bits v 0 20,
    seat := bits v 48 10, own := bit v 47, cell := bits v 44 3, group := bits v 20 12 * 16 + bits v 16 4, ctr := bits v 0 16 }

/-- Reserved bits of a reference are clear, and space 3 is all ones (Table 3-7). -/
def refOk (w : BitVec 64) (sync : Bool) : Bool :=
  let v := w.toNat
  match bits v 62 2 with
  | 0 => bits v 20 42 = 0 && bits v 0 20 < 768
  | 1 => bits v 44 18 = 0
  | 2 => bits v 58 4 = 0 && (!bit v 47 || bits v 48 10 = 0) && (!sync || bits v 32 12 = 0)
  | _ => w = BitVec.allOnes 64

def refNone : BitVec 64 := BitVec.allOnes 64

/-- Flags of an operation record (Table 3-6). -/
def OpRec.sr (o : OpRec) : Bool := o.flags.getLsbD 0
def OpRec.ta (o : OpRec) : Bool := o.flags.getLsbD 1
def OpRec.tb (o : OpRec) : Bool := o.flags.getLsbD 2
def OpRec.map (o : OpRec) : Bool := o.flags.getLsbD 3
def OpRec.mx (o : OpRec) : Bool := o.flags.getLsbD 4
def OpRec.acc (o : OpRec) : Bool := o.flags.getLsbD 5
def OpRec.signal (o : OpRec) : Bool := o.flags.getLsbD 6
def OpRec.long (o : OpRec) : Bool := o.flags.getLsbD 7

/-! ## Chains and slots (R57, Table 2-5) -/

/-- Chains of a cluster in the figure. -/
def Figure.chainsOf (f : Figure) (cluster : Nat) : List ChainRec := f.chains.filter (fun r => r.clusters.getLsbD cluster)

/-- First slot of a chain in each core of a cluster. -/
def Figure.chainBase (f : Figure) (cluster idx : Nat) : Nat :=
  (((f.chainsOf cluster).filter (fun r => r.index < idx)).map (fun r => r.share / 4)).sum

/-- Slots of a chain in each core of a cluster; none where the cluster has no such chain. -/
def Figure.chainSlots (f : Figure) (cluster idx : Nat) : Option Nat :=
  ((f.chainsOf cluster).find? (fun r => r.index = idx)).map (fun r => r.share / 4)

/-- Slots of a core of the cluster that lie in no chain's share (R57, R115). -/
def Figure.freeSlots (f : Figure) (cluster : Nat) : Nat := 768 - ((f.chainsOf cluster).map (fun r => r.share / 4)).sum

/-- Cluster of a core (R22). -/
def clusterOf (core : Nat) : Nat := core / 8

/-! ## Cores, contexts, counters -/

def Core.slot (x : Core) (n : Nat) : Slot := x.slots.get Slot.zero n
def Core.setSlot (x : Core) (n : Nat) (v : Slot) : Core := { x with slots := x.slots.set Slot.zero n v }
def Core.ctx (x : Core) (n : Nat) : Ctx := x.ctxs.get Ctx.free n
def Core.setCtx (x : Core) (n : Nat) (v : Ctx) : Core := { x with ctxs := x.ctxs.set Ctx.free n v }
def Core.ctr (x : Core) (n : Nat) : BitVec 32 := x.ctrs.get 0 n
def Core.engine (x : Core) (e : Nat) : Option EngineOp := x.engines.get none e
def Core.setEngine (x : Core) (e : Nat) (o : Option EngineOp) : Core := { x with engines := x.engines.set none e o }
def Core.button (x : Core) (e : Nat) : Nat := x.buttons.get 0 e

/-- Number of a counter of the cell, as contexts that wait name it: 256·core + counter. -/
def ctrKey (core ctr : Nat) : Nat := 256 * core + ctr

/-- A signal adds to a counter, which stays at its top; the Bool says that it would have passed it (R65). -/
def Core.addCtr (x : Core) (n add : Nat) : Core × Bool :=
  let v := (x.ctr n).toNat + add
  ({ x with ctrs := x.ctrs.set 0 n (BitVec.ofNat 32 (min v 0xFFFFFFFF)) }, 0xFFFFFFFF < v)

/-- A thread has executed its record: its next one, or DONE after the last of `count` (R56, Table 3-11). -/
def Ctx.advance (x : Ctx) (count : Nat) : Ctx :=
  { x with nextRec := x.nextRec + 1, st := if count ≤ x.nextRec + 1 then .done else .ready }

/-- Thread descriptor of a context in the tenant's current image. -/
def Cell.threadOf (k : Cell) (x : Ctx) : Option ThreadDesc := ((k.run x.tenant).image).bind (fun i => i.threads[x.thread]?)

/-- Record count of a context's thread. -/
def Cell.recCount (k : Cell) (x : Ctx) : Nat := ((k.threadOf x).map (·.count)).getD 0

/-- Waits of the cell whose counter has reached its threshold become READY, or DONE after a
thread's last record (R65, R67, Table 3-11). -/
def Cell.release (k : Cell) : Cell :=
  let up (x : Ctx) : Ctx :=
    if x.st = .wait && x.waitThr ≤ ((k.core (x.waitCtr / 256)).ctr (x.waitCtr % 256)).toNat then
      { x with st := if k.recCount x ≤ x.nextRec then .done else .ready }
    else x
  { k with cores := k.cores.mapV Core.reset (fun n => { n with ctxs := n.ctxs.mapV Ctx.free up }) }

/-- The record a context runs next, with its index in the image (R56). -/
def Cell.nextOp (k : Cell) (x : Ctx) : Option (OpRec × Nat) :=
  match (k.run x.tenant).image, k.threadOf x with
  | some i, some t => (i.ops[t.first + x.nextRec]?).map (fun o => (o, t.first + x.nextRec))
  | _, _ => none

/-- READY contexts of a core whose next record satisfies `p`. -/
def Cell.asking (k : Cell) (n : Nat) (p : OpRec → Bool) : List Nat :=
  ((k.core n).ctxs.filter (fun x => x.2.st = .ready && ((k.nextOp x.2).map (fun o => p o.1)).getD false)).map (·.1)

/-- An operation at issue: where it runs, its record, the slots of its chain, its job's seed and step field. -/
structure OpEnv where
  cell    : Nat
  core    : Nat
  ctx     : Nat
  tenant  : Nat
  group   : Nat
  op      : OpRec
  index   : Nat
  base    : Nat
  span    : Nat
  seed    : BitVec 64
  jobStep : Nat
  gen     : Bool
  deriving DecidableEq, Repr

/-- Operations may issue in the cell: a step runs and the watchdog has not stopped it (R64, R68, R326). -/
def State.issuing (s : State) (c : Nat) : Bool := s.cellUp c && (s.cell c).step.running && !(s.cell c).step.stopped

/-- The operation that context `w` of core `n` of cell `c` runs next, with what it runs in. -/
def Cell.opEnv (k : Cell) (c n w : Nat) : Option OpEnv :=
  let x := (k.core n).ctx w
  match k.nextOp x, k.threadOf x, (k.run x.tenant).image with
  | some (o, i), some t, some img =>
    let f := k.fig.active
    some
      { cell := c, core := n, ctx := w, tenant := x.tenant, group := x.group, op := o, index := i,
        base := (f.map (fun f => f.chainBase (clusterOf n) t.chain)).getD 0,
        span := (f.bind (fun f => f.chainSlots (clusterOf n) t.chain)).getD 0, seed := img.seed,
        jobStep := (k.run x.tenant).jobStep.toNat % 2 ^ 32, gen := img.phase = 1 }
  | _, _, _ => none

/-! ## Micro-batches in flight (R198, R199; log 105) -/

/-- Pipeline stage of a cell at seat `seat` and the number of stages, by the SERVE records of decoder layers of its replica in a learning
figure (R199). -/
def Cell.stage (k : Cell) (seat c : Nat) : Option (Nat × Nat) :=
  match k.fig.active with
  | none => none
  | some f =>
    let at1 (p : PlaceRec) : Nat × Nat := (if p.seat = 0xFFFF then seat else p.seat, p.cell)
    let dec := inOrder (fun a b => a.layer ≤ b.layer) (f.places.filter (fun p => p.serve && p.kind = 1))
    match dec.find? (fun p => at1 p = (seat, c)) with
    | none => none
    | some m =>
      let cells := ((dec.filter (fun p => p.replica = m.replica)).map at1).dedup
      if f.phase ≠ 2 then none else some (cells.idxOf (seat, c), cells.length)

/-- What the context's thread is for, of which micro-batch; none in a generation image. -/
def Cell.roleOf (k : Cell) (x : Ctx) : Option (Nat × Nat) :=
  match (k.run x.tenant).image with
  | some i => if i.phase = 2 then some (Config.threadRole i.ident x.thread % 4, Config.threadRole i.ident x.thread / 4) else none
  | none => none

/-- The thread has begun in this step: an operation of it has issued. -/
def Ctx.hasBegun (x : Ctx) : Bool := x.nextRec ≠ 0 || x.st = .run || x.st = .done

/-- Contexts of a tenant in the cell's cores. -/
def Cell.ctxsOf (k : Cell) (tenant : Nat) : List Ctx :=
  (k.cores.flatMap (fun p => p.2.ctxs.map (·.2))).filter (fun x => x.tenant = tenant && x.st ≠ .free)

/-- Micro-batches of the tenant whose forward has begun on the cell and whose backward has not ended. -/
def Cell.inFlight (k : Cell) (tenant : Nat) : List Nat :=
  let l := (k.ctxsOf tenant).filterMap (fun x => (k.roleOf x).map (fun r => (r, x)))
  let open1 (j : Nat) : Bool := let back := l.filter (fun y => y.1 = (2, j)); back.isEmpty || back.any (fun y => y.2.st ≠ .done)
  ((l.filter (fun y => y.1.1 = 1 && y.2.hasBegun && open1 y.1.2)).map (·.1.2)).dedup

/-- The context would begin a forward beyond the 2(S − c) micro-batches whose activations stage `c` may hold: it waits (R199). -/
def Cell.heldForward (k : Cell) (seat c : Nat) (x : Ctx) : Bool :=
  match k.roleOf x, k.stage seat c with
  | some (1, j), some (i, n) =>
    let l := k.inFlight x.tenant
    !l.contains j && !((k.ctxsOf x.tenant).any (fun y => k.roleOf y = some (1, j) && y.hasBegun)) && 2 * (n - i) ≤ l.length
  | _, _ => false

/-- The operation that an engine of a core takes next (R69, R70, R72, R110, R199), its context RUN and the button moved; none when
the engine is busy, the core is out, or no thread asks. -/
def State.issue (s : State) (c n engine : Nat) (p : OpRec → Bool) : Option (OpEnv × State) :=
  let k := s.cell c
  let x := k.core n
  if !s.issuing c || x.out || (x.engine engine).isSome then none
  else match buttonWin 4096 (x.button engine) ((k.asking n p).filter (fun w => !k.heldForward s.mySeat c (x.ctx w))) with
    | none => none
    | some w =>
      match k.opEnv c n w with
      | some v =>
        some (v, s.onCore c n (fun x =>
          { x.setCtx w { x.ctx w with st := .run } with buttons := x.buttons.set 0 engine (buttonNext 4096 w) }))
      | none => none

/-- Slot of a space 0 operand's tile 0 (R57: relative to the chain's first slot). -/
def OpEnv.slotOf (v : OpEnv) (w : BitVec 64) : Nat := v.base + (readRef w).slot

/-! ## Faults of a core (R316, R317) -/

/-- A redo of the core's reserve is left in the step (R85, Table 2-13). -/
def Cell.redoLeft (k : Cell) (n : Nat) : Bool := (k.core n).redos < (k.fig.active.map (·.redoReserve)).getD 0

/-- One redo of the core's reserve is used. -/
def State.useRedo (s : State) (c n : Nat) : State := s.onCore c n (fun x => { x with redos := x.redos + 1 })

/-- A fault is counted against a core; the third within 24 hours of the first fences it at the next step boundary (R316,
R317). -/
def State.countFault (s : State) (c n : Nat) : State :=
  let now := s.time c
  s.onCore c n (fun x =>
    let l := (x.faults ++ [now]).drop (x.faults.length + 1 - 3)
    { x with faults := l, fenceDue := x.fenceDue || (l.length = 3 && now ≤ l.headD 0 + dayNs) })

/-- The REPEAT record of R313 and R135: object the operation record, detail the engine. -/
def State.repeatRec (s : State) (v : OpEnv) (engine sev : Nat) : State :=
  s.err v.cell { cls := clsREPEAT, sev := sev, unit := 1, tenant := v.tenant, core := v.core, obj := v.index, detail := engine }

/-- What came of the checks of R313 in the row, route and mask engines: true when the result may be used. -/
def State.residue (s : State) (v : OpEnv) (engine : Nat) (r : Repeat) : State × Bool :=
  match r with
  | .clean => (s, true)
  | .passed =>
    if (s.cell v.cell).redoLeft v.core then
      (((s.useRedo v.cell v.core).countFault v.cell v.core).repeatRec v engine 1, true)
    else ((s.cause v.cell vCHECK v.tenant none).repeatRec v engine 2, false)
  | .failed =>
    let s1 := if (s.cell v.cell).redoLeft v.core then s.useRedo v.cell v.core else s
    ((s1.cause v.cell vCHECK v.tenant none).repeatRec v engine 2, false)

/-! ## Engine entry (R25, R308) -/

/-- The tile's check value is that of its payload (R141). -/
def Slot.ok (x : Slot) : Bool := x.tile.tag.check = payloadCrc x.tile.payload

/-- The slots of an operand are checked at engine entry; a failing tile is re-read once from the tier it came from, with
one tile redo (R308). False when the operation writes no result. -/
def State.entryCheck (s : State) (v : OpEnv) : List Nat → State × Bool
  | [] => (s, true)
  | i :: rest =>
    let x := ((s.cell v.cell).core v.core).slot i
    if x.ok then s.entryCheck v rest
    else
      let bad (sev : Nat) (s : State) : State :=
        s.err v.cell { cls := clsCHECKVALUE, sev := sev, unit := 1, tenant := v.tenant, core := v.core,
                       obj := x.tile.tag.ident.toNat, detail := x.tile.tag.seq }
      let again := if (s.cell v.cell).redoLeft v.core then
          (s.useRedo v.cell v.core).tierRead v.cell v.tenant x.tile.tag.ident x.tile.tag.seq false []
        else none
      match again with
      | none => (bad 2 (s.cause v.cell (if (s.cell v.cell).redoLeft v.core then s.readFault v.cell v.tenant x.tile.tag.ident else vCHECK)
          v.tenant none), false)
      | some (s1, y) =>
        if y.ok then
          (bad 1 ((s1.onCore v.cell v.core (fun z => z.setSlot i y)).countFault v.cell v.core)).entryCheck v rest
        else (bad 2 (s1.cause v.cell vCHECK v.tenant none), false)

/-- The slots of `n` elements in a format from slot `first` on. -/
def slotRun (first code n : Nat) : List Nat := (List.range (tilesFor code n)).map (first + ·)

/-- Bits of element `i` (block-major, R74) of the tensor whose tile 0 lies in slot `first`. -/
def Core.elem (x : Core) (first code i : Nat) : Nat :=
  elemBits code (x.slot (first + i / elemsPer code)).tile.payload (i % elemsPer code)

/-- Element (r, c) of a tensor of `cols` columns. -/
def Core.at (x : Core) (first code cols r c : Nat) : Nat := x.elem first code (blockIndex cols r c)

/-- Its value. -/
def Core.val (x : Core) (first code cols r c : Nat) : Val := decodeVal code (x.at first code cols r c)

/-- Some tile of the run is poisoned. -/
def Core.poisoned (x : Core) (l : List Nat) : Bool := l.any (fun i => (x.slot i).tile.tag.poison)

/-! ## Results (R83, R99 to R103, R142) -/

/-- The slot with a result tile written into it: identity, version and tier flags stay, format, check value, MAP, POISON
and the side record are new (R83, R103, R142). -/
def resultSlot (old : Slot) (code : Nat) (l : List Nat) (poison : Bool) : Slot :=
  let p := packElems code l
  { tile := { payload := p, tag := { old.tile.tag with
      check := payloadCrc p, fmt := code, poison := poison, map := true } },
    side := BitVec.ofNat 4096 (blockMap code l), filled := true }

/-- Pieces of `n` elements. -/
def pieces {α : Type} (n : Nat) : Nat → List α → List (List α)
  | 0, _ => []
  | k + 1, l => l.take n :: pieces n k (l.drop n)

/-- Writes of a result given as element bits in block-major order. -/
def Core.bitWrites (x : Core) (first code : Nat) (l : List Nat) (poison : Bool) : List Write :=
  ((pieces (elemsPer code) (tilesFor code l.length) l).zipIdx).map (fun q =>
    .slot (first + q.2) (resultSlot (x.slot (first + q.2)) code q.1 poison))

/-- What a converted result comes to: its writes, whether the step voids with CHECK (R93, R103), identifiers of the tensors in which a
conversion saturated (R107). -/
structure Result where
  writes : List Write
  void   : Bool := false
  sats   : List (BitVec 24) := []
  deriving DecidableEq, Repr

/-- Conversion of one tile's values into format `code` for the slot `old` (R93, R99, R101, R103). -/
def convTile (seed : BitVec 64) (jobStep code : Nat) (srFlag : Bool) (old : Slot) (l : List Val) : List Conv :=
  let id := old.tile.tag.ident
  let grad := id.getLsbD 22
  let useSr := (grad || srFlag) && id ≠ 0
  let stream := if grad then 0 else 1
  (l.zipIdx).map (fun q =>
    conv code q.1 (if useSr then some (rand16 seed stream id.toNat jobStep (elemsPer code * old.tile.tag.seq + q.2)) else none))

/-- A result's values converted once into D's format, element by element (R93, R99). -/
def Core.valWrites (x : Core) (v : OpEnv) (first code : Nat) (l : List Val) (poison : Bool) : Result :=
  ((pieces (elemsPer code) (tilesFor code l.length) l).zipIdx).foldl (fun acc q =>
    let old := x.slot (first + q.2)
    let cs := convTile v.seed v.jobStep code v.op.sr old q.1
    let id := old.tile.tag.ident
    { writes := acc.writes ++ [.slot (first + q.2) (resultSlot old code (cs.map (·.bits)) poison)]
      void := acc.void || cs.any (·.void) || (v.op.sr && id = 0)
      sats := if id ≠ 0 && cs.any (·.sat) then acc.sats ++ [id] else acc.sats }) { writes := [] }

/-- Result tiles of +0 (R114, R117, R137). -/
def Core.zeroWrites (x : Core) (first code n : Nat) (poison : Bool) : List Write :=
  x.bitWrites first code (List.replicate n 0) poison

/-- Layers whose weight tensor's gradient is `id` in the tenant's image (R101, R106). -/
def Cell.layersOf (k : Cell) (tenant : Nat) (id : BitVec 24) : List Nat :=
  (((k.run tenant).image.map (·.layers)).getD []).filterMap (fun r =>
    if BitVec.ofNat 24 (r.tensor + 0x400000) = id then some r.layer else none)

/-- Tensors in which a conversion of the step saturated: a layer's gradient may be among them (R107, R226). -/
def Cell.markSat (k : Cell) (tenant : Nat) (ids : List (BitVec 24)) : Cell :=
  let l := ids.map (fun i => (tenant, i))
  { k with ud := { k.ud with saturated := k.ud.saturated ++ l.filter (fun x => !k.ud.saturated.contains x) } }

/-- The operation enters the engine with its results; they are written at OPERATION_COMPLETE (R59). -/
def State.startOp (s : State) (v : OpEnv) (engine : Nat) (r : Result) (cycles : Option Nat) (reports : List SampleReport) :
    State :=
  let s1 := s.onCell v.cell (fun k => (k.markSat v.tenant r.sats).onCore v.core (fun x =>
    x.setEngine engine (some { ctx := v.ctx, oprec := v.op, writes := r.writes, cycles := cycles, reports := reports })))
  if r.void then s1.cause v.cell vCHECK v.tenant none else s1

/-- An operation that writes no result (R308, R313). -/
def noResult : Result := { writes := [] }

end Sys2Proof.Machine
end

