-- ==== Sys2Proof/Machine/Matrix.lean ====
section
/-!
DEFINITION. The matrix engine (04_matrix_engine): PRODUCT in the Reference Order (R79, R95, R96), block maps and skipping
(R80, R81), KV-page skip (R86), MX scales (R78), its duration (R84, R85), and the tile redo with its vote (R311, R312); and the
fencing of a core (R317 to R319).
-/

namespace Sys2Proof.Machine

def engMatrix : Nat := 1

/-! ## Operands as the operation sees them (R76, R78, R80) -/

/-- Bits of A's element (i, k). -/
def aBits (x : Core) (v : OpEnv) (i k : Nat) : Nat :=
  if v.op.ta then x.at (v.slotOf v.op.a) v.op.fmtA v.op.m k i else x.at (v.slotOf v.op.a) v.op.fmtA v.op.k i k

/-- Bits of B's element (k, j). -/
def bBits (x : Core) (v : OpEnv) (k j : Nat) : Nat :=
  if v.op.tb then x.at (v.slotOf v.op.b) v.op.fmtB v.op.k j k else x.at (v.slotOf v.op.b) v.op.fmtB v.op.n k j

/-- MX scale code of row `r`, group `g` of 32 elements, of an operand stored with K along its rows (R78). -/
def mxScale (x : Core) (first code cols r g : Nat) : Nat :=
  let b := (r / 4) * (cols / 4) + 8 * g
  let n := blocksPer code
  fld (x.slot (first + b / n)).side.toNat (0x100 + 4 * (b % n / 8) + r % 4) 1

def aScale (x : Core) (v : OpEnv) (i g : Nat) : Nat := mxScale x (v.slotOf v.op.a) v.op.fmtA v.op.k i g
def bScale (x : Core) (v : OpEnv) (j g : Nat) : Nat := mxScale x (v.slotOf v.op.b) v.op.fmtB v.op.k j g

/-- Value of A's element; a scale of 0xFF makes it NaN (R91). -/
def aVal (x : Core) (v : OpEnv) (i k : Nat) : Val :=
  if v.op.mx && aScale x v i (k / 32) = 0xFF then .nan else decodeVal v.op.fmtA (aBits x v i k)

def bVal (x : Core) (v : OpEnv) (k j : Nat) : Val :=
  if v.op.mx && bScale x v j (k / 32) = 0xFF then .nan else decodeVal v.op.fmtB (bBits x v k j)

/-- Map bit of block `b` of a tensor in core memory (Table 4-3). -/
def mapBit (x : Core) (first code b : Nat) : Bool :=
  let n := blocksPer code
  let i := b % n
  (x.slot (first + b / n)).side.getLsbD (if code = fFP4 then i / 2 else i)

/-- B's block at step `q` of column block `jb` is present (R80). -/
def bPresent (x : Core) (v : OpEnv) (q jb : Nat) : Bool :=
  let b := if v.op.tb then jb * (v.op.k / 4) + q else q * (v.op.n / 4) + jb
  let first := v.slotOf v.op.b
  !v.op.map || !(x.slot (first + b / blocksPer v.op.fmtB)).tile.tag.map || mapBit x first v.op.fmtB b

/-- The indices of a 4-wide block. -/
def four (b : Nat) : List Nat := [4 * b, 4 * b + 1, 4 * b + 2, 4 * b + 3]

/-- Every element of A's block (ib, q) is a zero and none of its scales is the NaN code (R81). -/
def aZero (x : Core) (v : OpEnv) (ib q : Nat) : Bool := (four ib).all (fun i => (four q).all (fun k => (aVal x v i k).isZero))

/-- B's block holds no infinity or NaN (R81). -/
def bFinite (x : Core) (v : OpEnv) (q jb : Nat) : Bool := (four jb).all (fun j => (four q).all (fun k => (bVal x v k j).finite))

/-! ## KV-page skip (R86, Table 4-4) -/

/-- The page holding position `p` has an all-zero side-entry map. R86 does not ask for the block map present flag: DEDUCED (log 96), a
filled side record whose map bytes are zero excludes its page whether or not the tag has the flag. -/
def pageOut (x : Core) (v : OpEnv) (p : Nat) : Bool :=
  let y := x.slot (v.slotOf v.op.b + p / 16)
  y.filled && y.side.setWidth 256 = 0

/-- Row `r` keeps position `p` under variant 0x01 (R86). -/
def keeps (x : Core) (v : OpEnv) (r p : Nat) : Bool :=
  let w := v.op.param.toNat
  let mask := bits w 0 2
  let t := bits w 3 10 + 1
  let total := if bit w 2 then v.op.k else v.op.n
  let q : Int := (total : Int) - t + (r % t : Nat)
  (mask = 2 || (p : Int) ≤ q) && (mask ≠ 1 || q - (bits w 13 19 : Nat) < (p : Int)) && !pageOut x v p

/-- A 4 × 4 unit of rows and positions has a kept pair; always so in variant 0x00. -/
def unitKept (x : Core) (v : OpEnv) (ib pb : Nat) : Bool :=
  v.op.variant ≠ 1 || (four ib).any (fun r => (four pb).any (fun p => keeps x v r p))

/-- Positions run along K (axis 1) in variant 0x01. -/
def OpEnv.axisK (v : OpEnv) : Bool := v.op.variant = 1 && v.op.param.getLsbD 2

/-- Output block (ib, jb) is masked as a whole: variant 0x01, axis 0 (R86). -/
def blockMasked (x : Core) (v : OpEnv) (ib jb : Nat) : Bool :=
  v.op.variant = 1 && !v.axisK && !unitKept x v ib jb

/-- Block step `q` of output block (ib, jb) is performed (R80, R81, R86). -/
def stepUsed (x : Core) (v : OpEnv) (ib jb q : Nat) : Bool :=
  bPresent x v q jb && (!v.axisK || unitKept x v ib q) && !(aZero x v ib q && bFinite x v q jb)

/-- Some row of the operation keeps a position of page `t` (R86: a page with none is not fetched). -/
def pageFetched (x : Core) (v : OpEnv) (t : Nat) : Bool :=
  v.op.variant ≠ 1 ||
  (List.range (v.op.m / 4)).any (fun ib => ([0, 1, 2, 3].map (4 * t + ·)).any (fun pb =>
    4 * pb < (if v.axisK then v.op.k else v.op.n) && unitKept x v ib pb))

/-! ## The Reference Order (R95, R96) -/

/-- A PA24 sum: never −0 (R82), also where the rounding of a small negative sum leaves nothing. -/
def paSum (v : Val) : Val :=
  match rnd fPA24 v with
  | .zero _ => .zero false
  | y => y

/-- One block step of element (i, j): four exact products, each added with one RNE rounding into PA24. -/
def paStep (x : Core) (v : OpEnv) (i j q : Nat) (s : Val) : Val :=
  (four q).foldl (fun s k => paSum (s.add ((aVal x v i k).mul (bVal x v k j)))) s

/-- PA24 sum of chunk `c` of element (i, j), from +0 (R95, R79 step 1). -/
def paChunk (x : Core) (v : OpEnv) (i j c : Nat) : Val :=
  ((four c).filter (fun q => 4 * q < v.op.k && stepUsed x v (i / 4) (j / 4) q)).foldl (fun s q => paStep x v i j q s) (.zero false)

/-- Exponent by which chunk `c`'s sum is scaled: MX scales and the update scale (R95). -/
def chunkExp (x : Core) (v : OpEnv) (scale : Int) (i j c : Nat) : Int :=
  (if v.op.mx then ((aScale x v i (c / 2) : Nat) : Int) - 127 + (((bScale x v j (c / 2) : Nat) : Int) - 127) else 0) + scale

/-- The FP32 chain of element (i, j) (R95). -/
def chainVal (x : Core) (v : OpEnv) (scale : Int) (i j : Nat) (start : Val) : Val :=
  (List.range ((v.op.k + 15) / 16)).foldl (fun a c => fadd a ((paChunk x v i j c).scale (chunkExp x v scale i j c))) start

/-- The exact INT32 sum of element (i, j), which wraps (R96). -/
def intSum (x : Core) (v : OpEnv) (i j : Nat) (start : Int) : Val :=
  let t := (List.range v.op.k).foldl (fun a k =>
    if stepUsed x v (i / 4) (j / 4) (k / 4) then a + sval 8 (aBits x v i k) * sval 8 (bBits x v k j) else a) start
  .ofInt (sval 32 ((t % (2 ^ 32 : Int)).toNat)) 0

/-- Element (i, j) of D before its final conversion (R79). -/
def productVal (x : Core) (v : OpEnv) (scale : Int) (i j : Nat) : Val :=
  if blockMasked x v (i / 4) (j / 4) then .zero false
  else
    let old := if v.op.acc then x.val (v.slotOf v.op.d) v.op.fmtD v.op.n i j else .zero false
    if v.op.fmtA = fINT8 then intSum x v i j (old.at 0) else chainVal x v scale i j old

/-- sₗ where the destination is the gradient tensor of a weight tensor of the image (R106), else 0. -/
def Cell.gradScale (k : Cell) (tenant : Nat) (id : BitVec 24) : Int :=
  match k.layersOf tenant id with
  | l :: _ => if id.getLsbD 22 then k.ud.scale l else 0
  | [] => 0

/-- D of a PRODUCT, in block-major order. -/
def productVals (x : Core) (v : OpEnv) (scale : Int) : List Val :=
  (List.range (v.op.m * v.op.n)).map (fun e =>
    productVal x v scale (blockPlace v.op.n e).1 (blockPlace v.op.n e).2)

/-! ## Duration (R73, R84, R85) -/

/-- Twice the cycles of a block step for an operand format (Table 4-1). -/
def rate2 (code : Nat) : Nat := if code = fFP4 then 1 else if code = fBF16 ∨ code = fFP16 then 4 else 2

/-- Cycles of output block (ib, jb) (R84). -/
def blockCycles (x : Core) (v : OpEnv) (ib jb : Nat) : Nat :=
  if blockMasked x v ib jb then 0
  else
    let t2 := max (rate2 v.op.fmtA) (rate2 v.op.fmtB)
    let s := v.op.k / 4
    let p := ((List.range s).filter (stepUsed x v ib jb)).length
    max ((p * t2 + 1) / 2) (((s * t2 + 1) / 2 + 3) / 4)

/-- The load of one array (R79: block b on array b mod 80). -/
def arrayCycles (x : Core) (v : OpEnv) (a : Nat) : Nat :=
  (((List.range ((v.op.m / 4) * (v.op.n / 4))).filter (fun b => b % 80 = a)).map (fun b =>
    blockCycles x v (b / (v.op.n / 4)) (b % (v.op.n / 4)))).sum

/-- 24 + E + 40 cycles (R84). -/
def productCycles (x : Core) (v : OpEnv) : Nat :=
  let c := (List.range 80).foldl (fun m a => max m (arrayCycles x v a)) 0
  24 + (c + (c + 63) / 64) + 40

/-! ## PRODUCT -/

/-- Slots of B's tiles but for pages that are not fetched (R86). -/
def fetchedB (x : Core) (v : OpEnv) : List Nat :=
  (((slotRun (v.slotOf v.op.b) v.op.fmtB (v.op.k * v.op.n)).zipIdx).filter (fun q => pageFetched x v q.2)).map (·.1)

/-- Slots of a PRODUCT's operand tiles that it reads: A, B but for pages not fetched (R86), D under ACC. -/
def productReads (x : Core) (v : OpEnv) : List Nat :=
  slotRun (v.slotOf v.op.a) v.op.fmtA (v.op.m * v.op.k) ++ fetchedB x v ++
  (if v.op.acc then slotRun (v.slotOf v.op.d) v.op.fmtD (v.op.m * v.op.n) else [])

/-- An unfilled side record that the operation needs (R87); of B the tiles that are read. -/
def sideMissing (x : Core) (v : OpEnv) : Bool :=
  let b := fetchedB x v
  let a := slotRun (v.slotOf v.op.a) v.op.fmtA (v.op.m * v.op.k)
  (v.op.map && b.any (fun i => (x.slot i).tile.tag.map && !(x.slot i).filled)) ||
  (v.op.mx && (a ++ b).any (fun i => !(x.slot i).filled))

/-- A PRODUCT at issue (R79, R87, R308). -/
def State.product (s : State) (v : OpEnv) : State :=
  let (s1, ok) := s.entryCheck v (productReads ((s.cell v.cell).core v.core) v)
  let x := (s1.cell v.cell).core v.core
  if !ok then s1.startOp v engMatrix noResult none []
  else if sideMissing x v then (s1.cause v.cell vCHECK v.tenant none).startOp v engMatrix noResult none []
  else
    let d := v.slotOf v.op.d
    let scale := (s1.cell v.cell).gradScale v.tenant (x.slot d).tile.tag.ident
    let r := x.valWrites v d v.op.fmtD (productVals x v scale) (x.poisoned (productReads x v))
    s1.startOp v engMatrix r (some (productCycles x v)) []

def execProduct (t : Nat) (cell : Fin 8) (core : Fin 128) (s : State) : Res :=
  .next (s.run t (fun s =>
    match s.issue cell core engMatrix (fun o => o.opcode = 1) with
    | none => s
    | some (v, s1) => s1.product v))

/-! ## Fencing (R317 to R319, R321) -/

/-- Tenants of the active figure that hold a core. -/
def Cell.tenantsOf (k : Cell) (n : Nat) : List Nat :=
  ((k.fig.active.map (·.tenants)).getD []).filterMap (fun r => if r.cores.getLsbD n then some r.tenant else none)

/-- Bytes of a store that would go to flash (R375). -/
def Store.bytes : Store → Nat
  | .persistSet _ (some b) => b.1
  | .fwBundle _ b => b.bytes.length
  | .chain _ b => b.length
  | _ => 4096

/-- A store joins those that wait for the flash (R376). Once the host anchor is lost every cell's ring reports it deferred (R20). -/
def State.storeLater (s : State) (x : Store) : State :=
  let s1 := { s with flash := { s.flash with queue := s.flash.queue ++ [x] } }
  if s.boot.anchorLost then allCells.foldl (fun (s : State) c => s.errLocal c { cls := clsSTORE, sev := 1, unit := 6, detail := x.bytes }) s1
  else s1

/-- The highest-numbered core of a tenant under test is abandoned, untested: it returns at the next boundary and its request
stays (R321). -/
def Cell.abandonTest (k : Cell) (t : Nat) : Cell :=
  match ((((k.tenantRec t).map (·.coreList)).getD []).filter (fun n => (k.core n).testing)).getLast? with
  | none => k
  | some n => k.onCore n (fun x => { x with testing := false, returning := true, testReq := true })

/-- A core is fenced (R317): permanently within 30 days of a return (R318); its tenants are re-dealt at the next boundary, and
a test and a FENCE record follow; beyond the reserve a FATAL record names the tenant (R319). -/
def State.fence (s : State) (c n : Nat) : State :=
  let k := s.cell c
  let x := k.core n
  if x.fenced then s
  else
    let perm := match x.returned with
      | none => false
      | some r => s.time c ≤ r + 30 * dayNs
    let ts := k.tenantsOf n
    let k1 := k.onCore n (fun x => { x with fenced := true, fenceDue := false, testing := false, permFence := perm, testReq := !perm })
    let k2 := ts.foldl (fun k t => (k.abandonTest t).onRun t (fun r => { r with redeal := true })) k1
    let s1 := (s.setCell c k2).err c { cls := clsFENCE, sev := if perm then 3 else 2, unit := 1, core := n, detail := x.faults.length }
    let s2 := ts.foldl (fun s t =>
      if 2 < (s.cell c).outCores t then s.err c { cls := clsFENCE, sev := 3, unit := 6, tenant := t, core := n } else s) s1
    if perm then s2.storeLater (.permFence c n) else s2

/-- Writes of the operations in a core's engines. -/
def Core.unsent (x : Core) : List Write := x.engines.flatMap (fun e => (e.2.map (·.writes)).getD [])

/-- A tile that was to be sent and will not be is named by a VOID to its destination (R275). -/
def State.voidWrite (s : State) (c reason : Nat) : Write → State
  | .remote seat cell tenant ident seq _ _ _ _ _ => s.sendVoid c seat cell reason tenant ident.toNat seq
  | _ => s

/-- A core is fenced at once: its operations run to no result and its step voids with FENCE (R88, R317). -/
def State.fenceNow (s : State) (c n : Nat) : State :=
  let ts := (s.cell c).tenantsOf n
  let s0 := ts.foldl (fun s t => s.cause c vFENCE t none) s
  let s1 := ((s.cell c).core n).unsent.foldl (fun s w => s.voidWrite c vFENCE w) s0
  (s1.onCore c n (fun x => { x with engines := [], redoDue := [] })).fence c n

/-! ## Tile redo and vote (R311, R312) -/

/-- The redo core for a tile of core `n`: the first after it among the tenant's cores in service with reserve (R311). -/
def Cell.redoCore (k : Cell) (t n : Nat) : Option Nat :=
  let own := ((k.tenantRec t).map (·.coreList)).getD []
  ((List.range 127).map (fun i => (n + 1 + i) % 128)).find? (fun m => own.contains m && !(k.core m).out && k.redoLeft m)

/-- A failed D tile is recomputed once and the vote decides (R311, R312, Table 13-3): `same` says the recompute equals the
original, `passes` that its own check holds. The tile written is the recompute's either way. -/
def execTileRedo (t : Nat) (cell : Fin 8) (core : Fin 128) (tile : Nat) (same passes : Bool) (s : State) : Res :=
  .next (s.run t (fun s =>
    let k := s.cell cell
    let x := k.core core
    match x.redoDue.find? (fun r => r.2 = tile) with
    | none => s
    | some r =>
      if !s.issuing cell then s
      else
        let tenant := (x.ctx r.1).tenant
        let id := (x.slot tile).tile.tag
        let s1 := s.onCore cell core (fun y => { y with redoDue := y.redoDue.erase r })
        let vote (s : State) (code sev : Nat) : State :=
          s.err cell { cls := clsVOTE, code := code, sev := sev, unit := 1, tenant := tenant, core := core, obj := id.ident.toNat, detail := id.seq }
        match k.redoCore tenant core with
        | none => s1.cause cell vCHECK tenant none
        | some m =>
          let s2 := s1.useRedo cell m
          if passes then vote (s2.countFault cell core) (if same then 1 else 2) 1
          else (vote (s2.cause cell vDISAGREE tenant none) (if same then 3 else 4) 2).fenceNow cell core))

end Sys2Proof.Machine
end

