-- ==== Sys2Proof/Machine/RowEngine.lean ====
section
/-!
DEFINITION. The row engine (06, R110 to R123): soft-maximum and normalisation, forward and backward, with the statistics
sets of side memory.
-/

namespace Sys2Proof.Machine

def engRow : Nat := 2

/-! ## The parameter and the sets (R113 to R115, Table 6-1) -/

def OpEnv.reuse (v : OpEnv) : Bool := v.op.param.getLsbD 31
def OpEnv.setNo (v : OpEnv) : Nat := bits v.op.param.toNat 0 16

/-- ε of a normalisation: 2⁻ᵉ, or 0 (Table 6-1). -/
def OpEnv.eps (v : OpEnv) : Val :=
  let e := bits v.op.param.toNat 16 8
  if e = 0 then .zero false else .fin false 1 (-(e : Int))

/-- Operation kind of a variant: 0 soft-maximum, 1 RMS, 2 layer normalisation. -/
def rowKind (variant : Nat) : Nat := if variant ≤ 2 then 0 else if variant ≤ 4 then 1 else 2

/-- Forward variants are odd (Table 3-8). -/
def rowForward (variant : Nat) : Bool := variant % 2 = 1

/-- The set of a number among those of the core and tenant (R113). -/
def Core.findSet (x : Core) (tenant no : Nat) : Option StatSet :=
  x.sets.find? (fun y => y.number = no && y.tenant = tenant)

/-- Rows of side memory taken by the sets before one (R113). -/
def Core.setStart (x : Core) (tenant no : Nat) : Nat :=
  ((x.sets.takeWhile (fun y => !(y.number = no && y.tenant = tenant))).map (fun y => y.rows.length)).sum

/-- Rows of a set, from row `start` of `m`, that lie beyond side memory (R115). -/
def spilled (start m : Nat) : Nat := start + m - max start 32768

/-- The spilled row that place `i` of spill slot `j` holds, of a set's rows from row `start` on. -/
def spillRow (start : Nat) (rows : List (BitVec 32 × BitVec 32)) (j i : Nat) : Option (BitVec 32 × BitVec 32) :=
  if 32768 + 512 * j + i < start then none else rows[32768 + 512 * j + i - start]?

/-- The rows of a new set beyond side memory, written 512 to a slot from slot 767 downward (R115). DEDUCED (log 43): a row takes 8 bytes,
its first statistic in the lower four; the slot's other bytes and its tag but for the check value stay. -/
def Core.spill (x : Core) (start : Nat) (rows : List (BitVec 32 × BitVec 32)) : Core :=
  (List.range ((start + rows.length - 32768 + 511) / 512)).foldl (fun (x : Core) j =>
    if (List.range 512).all (fun i => (spillRow start rows j i).isNone) then x
    else
      let old := x.slots.get Slot.zero (767 - j)
      let p : Payload := BitVec.ofNat 32768 (pack ((List.range 512).map (fun i => (8,
        match spillRow start rows j i with
        | some z => z.1.toNat + 2 ^ 32 * z.2.toNat
        | none => fld old.tile.payload.toNat (8 * i) 8))))
      x.setSlot (767 - j) { old with tile := { payload := p, tag := { old.tile.tag with check := payloadCrc p } } }) x

/-! ## Soft-maximum (R116 to R119) -/

/-- A mask record (Table 6-3). -/
structure MaskRec where
  mask   : Nat
  count  : Nat
  window : Nat
  scale  : BitVec 32
  deriving DecidableEq, Repr

/-- The record of a forward whose B is space 3: mask 0, σ = 1 (Table 6-2). -/
def maskNone : MaskRec := { mask := 0, count := 1, window := 0, scale := 0x3F800000 }

/-- The mask record in a slot; none when a field is out of range or a reserved bit is set (R117). -/
def readMask (x : Slot) : Option MaskRec :=
  let b := x.tile.payload.toNat
  let m : MaskRec := { mask := fld b 0 1, count := fld b 2 2, window := fld b 4 4, scale := BitVec.ofNat 32 (fld b 8 4) }
  if m.mask ≤ 3 && fld b 1 1 = 0 && 1 ≤ m.count && m.count ≤ 1024 &&
     (if m.mask = 2 then 1 ≤ m.window && m.window ≤ 524287 else m.window = 0) && posFinite32 m.scale.toNat && fld b 0xC 4 = 0
  then some m else none

/-- Element (r, p) is kept (R117). -/
def rowKeeps (x : Core) (v : OpEnv) (m : MaskRec) (r p : Nat) : Bool :=
  let a := v.slotOf v.op.a
  let b := (r / 4) * (v.op.n / 4) + p / 4
  let q : Int := (v.op.n : Int) - m.count + (r % m.count : Nat)
  (!(x.slot (a + b / blocksPer v.op.fmtA)).filled || mapBit x a v.op.fmtA b) &&
  (!(m.mask = 1 || m.mask = 2) || (p : Int) ≤ q) && (m.mask ≠ 2 || q - m.window < (p : Int))

/-- Statistics (m, s) of a row's kept scaled scores, in index order (R118). -/
def softStats (l : List Val) : Val × Val :=
  if l.any (fun z => z.isNan || z = .inf false) then (.nan, .nan)
  else if l.all (fun z => z = .inf true) then (.inf true, .zero false)
  else
    let m := l.foldl Val.max (.inf true)
    (m, sum97 (l.map (fun z => fexp (fsub z m))))

/-- y of one kept score (R118). -/
def softY (st : Val × Val) (z : Val) : Val :=
  if st.1.isNan then .nan else if st.1 = .inf true then .zero false else fdiv (fexp (fsub z st.1)) st.2

/-- Scaled scores of row `r` with their kept marks. -/
def softRow (x : Core) (v : OpEnv) (m : MaskRec) (r : Nat) : List (Val × Bool) :=
  (List.range v.op.n).map (fun p => (fmul (val32 m.scale) (x.val (v.slotOf v.op.a) v.op.fmtA v.op.n r p), rowKeeps x v m r p))

/-- Forward row: y, with masked elements +0 (R118). -/
def softForward (l : List (Val × Bool)) (st : Val × Val) : List Val := l.map (fun z => if z.2 then softY st z.1 else .zero false)

/-- Backward row (R119): c over kept elements, then dx. -/
def softBackward (l : List (Val × Bool)) (st : Val × Val) (sigma : Val) (dy : List Val) : List Val :=
  if st.1 = .inf true then l.map (fun _ => .zero false)
  else
    let y := softForward l st
    let q := (y.zip dy).zip (l.map (·.2))
    let c := sum97 ((q.filter (·.2)).map (fun z => z.1.1.mul z.1.2))
    q.map (fun z => if z.2 then fmul sigma (fmul z.1.1 (fsub z.1.2 c)) else .zero false)

/-! ## Normalisation (R120 to R122) -/

/-- N as a value. -/
def natVal (n : Nat) : Val := .ofInt n 0

/-- Mean μ and v + ε of a row (R120). -/
def normMoments (layer : Bool) (eps : Val) (l : List Val) : Val × Val :=
  let n := natVal l.length
  let mu := if layer then fdiv (sum97 l) n else .zero false
  let d := l.map (fun z => if layer then fsub z mu else z)
  (mu, fadd (fdiv (sum97 (d.map (fun z => z.mul z))) n) eps)

/-- Statistics (μ, r) of a row (R120, R121). -/
def normStats (layer : Bool) (eps : Val) (l : List Val) : Val × Val :=
  let (mu, ve) := normMoments layer eps l
  (mu, if ve.isZero then .zero false else frsqrt ve)

/-- x̂ of a row (R120, R121). -/
def normHat (layer : Bool) (st : Val × Val) (l : List Val) : List Val :=
  l.map (fun z => if st.2.isZero then .zero false else fmul (if layer then fsub z st.1 else z) st.2)

/-- Output of a row with gain and bias, or x̂ alone (R120). -/
def normOut (layer : Bool) (hat : List Val) (gb : Option (List Val × List Val)) : List Val :=
  match gb with
  | none => hat
  | some (g, b) =>
    if layer then List.zipWith fadd (List.zipWith fmul hat g) b else List.zipWith fmul hat g

/-- Output of a forward row; r of +0 gives b or +0 (R121). -/
def normForward (layer : Bool) (st : Val × Val) (l : List Val) (gb : Option (List Val × List Val)) : List Val :=
  if st.2.isZero then
    match gb with
    | some (_, b) => if layer then b else l.map (fun _ => .zero false)
    | none => l.map (fun _ => .zero false)
  else normOut layer (normHat layer st l) gb

/-- dx of a row (R122). -/
def normBackward (layer : Bool) (st : Val × Val) (l g : List Val) : List Val :=
  if st.2.isZero then l.map (fun _ => .zero false)
  else
    let n := natVal l.length
    let hat := normHat layer st l
    let beta := fdiv (sum97 (List.zipWith Val.mul g hat)) n
    let alpha := fdiv (sum97 g) n
    List.zipWith (fun gi xi => fmul st.2 (fsub (if layer then fsub gi alpha else gi) (fmul xi beta))) g hat

/-! ## ROW -/

/-- Row `r` of an operand as values. -/
def rowVals (x : Core) (first code cols r : Nat) : List Val := (List.range cols).map (fun p => x.val first code cols r p)

/-- B is space 3. -/
def OpEnv.noB (v : OpEnv) : Bool := v.op.b = refNone

/-- Slots a ROW reads: A, and B where it is used (Table 6-2, R120, R122). -/
def rowReads (v : OpEnv) : List Nat :=
  slotRun (v.slotOf v.op.a) v.op.fmtA (v.op.m * v.op.n) ++
  (if v.noB then []
   else if rowKind v.op.variant = 0 && rowForward v.op.variant then [v.slotOf v.op.b]
   else slotRun (v.slotOf v.op.b) v.op.fmtB ((if rowForward v.op.variant then 4 else v.op.m) * v.op.n))

/-- The set that the operation uses or creates, with no rows yet when it creates; none on an error of R114 or R117. -/
def rowSet (x : Core) (v : OpEnv) : Option StatSet :=
  let kind := rowKind v.op.variant
  if rowForward v.op.variant && !v.reuse then
    if (x.findSet v.tenant v.setNo).isSome || 1024 ≤ x.sets.length then none
    else
      match (if kind ≠ 0 || v.noB then some maskNone else readMask (x.slot (v.slotOf v.op.b))) with
      | none => none
      | some m => some { number := v.setNo, tenant := v.tenant, kind := kind, rows := [], mask := m.mask, count := m.count,
                         window := m.window, scale := m.scale, poison := false }
  else
    match x.findSet v.tenant v.setNo with
    | none => none
    | some y => if y.kind = kind && y.rows.length = v.op.m then some y else none

/-- Statistics of row `r`: computed by a forward without REUSE, else the set's (R113, R118, R120). -/
def rowStats (x : Core) (v : OpEnv) (y : StatSet) (r : Nat) : Val × Val :=
  if rowForward v.op.variant && !v.reuse then
    if y.kind = 0 then
      softStats (((softRow x v ⟨y.mask, y.count, y.window, y.scale⟩ r).filter (·.2)).map (·.1))
    else normStats (y.kind = 2) v.eps (rowVals x (v.slotOf v.op.a) v.op.fmtA v.op.n r)
  else
    let z := y.rows.getD r (0, 0)
    (val32 z.1, val32 z.2)

/-- D's row `r` before conversion. -/
def rowResult (x : Core) (v : OpEnv) (y : StatSet) (r : Nat) : List Val :=
  let st := rowStats x v y r
  let a := v.slotOf v.op.a
  let b := v.slotOf v.op.b
  if y.kind = 0 then
    let l := softRow x v ⟨y.mask, y.count, y.window, y.scale⟩ r
    if rowForward v.op.variant then softForward l st
    else softBackward l st (val32 y.scale) (rowVals x b v.op.fmtB v.op.n r)
  else
    let l := rowVals x a v.op.fmtA v.op.n r
    if rowForward v.op.variant then
      normForward (y.kind = 2) st l
        (if v.noB then none else some (rowVals x b v.op.fmtB v.op.n 0, rowVals x b v.op.fmtB v.op.n 1))
    else normBackward (y.kind = 2) st l (rowVals x b v.op.fmtB v.op.n r)

/-- A row-major list of rows in block-major order (R74). -/
def toBlocks (cols : Nat) (rows : List (List Val)) : List Val :=
  (List.range (rows.length * cols)).map (fun i =>
    ((rows.getD (blockPlace cols i).1 []).getD (blockPlace cols i).2 (.zero false)))

/-- Passes per row (Table 6-4). -/
def rowPasses (v : OpEnv) : Nat := if rowForward v.op.variant && v.reuse then 1 else if v.op.variant = 5 then 3 else 2

/-- Cycles of a ROW (R115, R123). -/
def rowCycles (v : OpEnv) (start : Nat) : Nat :=
  32 + v.op.m * (rowPasses v * ((v.op.n + 63) / 64) + 8) + 4 * spilled start v.op.m

/-- A ROW at issue (R111 to R123). -/
def State.rowOp (s : State) (v : OpEnv) (rep : Repeat) : State :=
  let (s1, ok) := s.entryCheck v (rowReads v)
  if !ok then s1.startOp v engRow noResult none []
  else
    let x := (s1.cell v.cell).core v.core
    let d := v.slotOf v.op.d
    match rowSet x v with
    | none =>
      (s1.cause v.cell vCHECK v.tenant none).startOp v engRow
        { writes := x.zeroWrites d v.op.fmtD (v.op.m * v.op.n) (x.poisoned (rowReads v)) } (some (rowCycles v 0)) []
    | some y =>
      let (s2, good) := s1.residue v engRow rep
      if !good then s2.startOp v engRow noResult (some (rowCycles v 0)) []
      else
        let poison := x.poisoned (rowReads v) || y.poison
        let stats := (List.range v.op.m).map (rowStats x v y)
        let res := x.valWrites v d v.op.fmtD (toBlocks v.op.n ((List.range v.op.m).map (rowResult x v y))) poison
        let fresh := rowForward v.op.variant && !v.reuse
        let y1 := { y with rows := stats.map (fun z => (bits32 z.1, bits32 z.2)), poison := poison }
        let zeros := if fresh && y.kind ≠ 0 then ((List.range v.op.m).filter (fun r =>
          (normMoments (y.kind = 2) v.eps (rowVals x (v.slotOf v.op.a) v.op.fmtA v.op.n r)).2.isZero)).length else 0
        let s3 := s2.onCell v.cell (fun k =>
          { (if fresh then k.onCore v.core (fun x =>
              { (x.spill (x.setStart v.tenant v.setNo) y1.rows) with sets := x.sets ++ [y1] }) else k) with
            zeroVar := satAdd k.zeroVar zeros })
        s3.startOp v engRow res (some (rowCycles v (x.setStart v.tenant v.setNo))) []

def execRow (t : Nat) (cell : Fin 8) (core : Fin 128) (rep : Repeat) (s : State) : Res :=
  .next (s.run t (fun s =>
    match s.issue cell core engRow (fun o => o.opcode = 2) with
    | none => s
    | some (v, s1) => s1.rowOp v rep))

end Sys2Proof.Machine
end

