-- ==== Sys2Proof/Machine/RouteEngine.lean ====
section
/-!
DEFINITION. The route engine (06, R124 to R129): select, permute, unpermute and combine.
-/

namespace Sys2Proof.Machine

def engRoute : Nat := 3

/-- Fields of the ROUTE parameter (Table 6-5). -/
def OpEnv.bucket (v : OpEnv) : Nat := if v.op.variant = 1 then v.op.m else bits v.op.param.toNat 16 16
def OpEnv.experts (v : OpEnv) : Nat := if v.op.variant = 1 ∨ v.op.variant = 4 then v.op.n else bits v.op.param.toNat 4 8 + 1
def OpEnv.topK (v : OpEnv) : Nat := bits v.op.param.toNat 0 4

def choiceNone : Nat := 0xFFFFFFFF
def choiceDropped : Nat := 0xFFFFFFFE

/-! ## Select (R124 to R126) -/

/-- Largest logit among the experts not yet taken, ties to the lower number; −∞ is never chosen (R125). -/
def bestExpert (l : List (Nat × Val)) : Option (Nat × Val) :=
  l.foldl (fun best z =>
    if z.2 = .inf true then best
    else match best with
      | none => some z
      | some b => if b.2.lt z.2 then some z else best) none

/-- The first `n` choices in rank order (R125). -/
def rankExperts : Nat → List (Nat × Val) → List (Nat × Val)
  | 0, _ => []
  | n + 1, l =>
    match bestExpert l with
    | none => []
    | some b => b :: rankExperts n (l.filter (fun z => z.1 ≠ b.1))

/-- A token's logits hold a NaN or +∞ (R125). -/
def routeBad (l : List Val) : Bool := l.any (fun z => z.isNan || z = .inf false)

/-- A token's choices in rank order, each with its gate weight: a soft-maximum over the chosen logits, summed in expert
order (R118, R125). -/
def chooseExperts (k : Nat) (l : List Val) : List (Nat × BitVec 32) :=
  if routeBad l then []
  else
    let c := rankExperts k ((l.zipIdx).map (fun z => (z.2, z.1)))
    let order := inOrder (fun a b => a.1 ≤ b.1) c
    let st := softStats (order.map (·.2))
    c.map (fun z => (z.1, bits32 (softY st z.2)))

/-- One choice takes the next free slot of its expert's bucket, or is dropped when it holds `cap` tokens (R126): the entry
and the counts after it. -/
def placeChoice (cap : Nat) (used : SMap Nat) (e : Nat) : Nat × SMap Nat :=
  let u := used.get 0 e
  if cap ≤ u then (choiceDropped, used) else (e * 65536 + u, used.set 0 e (u + 1))

/-- The rank-`j` choices of all tokens, in token order (R126). -/
def placeRank (cap j : Nat) (toks : List (List (Nat × BitVec 32))) (used : SMap Nat) : List Nat × SMap Nat :=
  toks.foldl (fun acc t =>
    match t[j]? with
    | none => (acc.1 ++ [choiceNone], acc.2)
    | some z =>
      let (w, u) := placeChoice cap acc.2 z.1
      (acc.1 ++ [w], u)) ([], used)

/-- Entries by rank, each a list over the tokens (R126). -/
def placeAll (cap : Nat) (toks : List (List (Nat × BitVec 32))) : List (List Nat) :=
  ((List.range 8).foldl (fun (acc : List (List Nat) × SMap Nat) j =>
    let (l, u) := placeRank cap j toks acc.2
    (acc.1 ++ [l], u)) ([], [])).1

/-- Row of the selection for token `t` (R124). -/
def selectionRow (toks : List (List (Nat × BitVec 32))) (ranks : List (List Nat)) (t : Nat) : List Nat :=
  let entries := (List.range 8).map (fun j => (ranks.getD j []).getD t choiceNone)
  entries ++ (entries.zipIdx).map (fun z =>
    if choiceDropped ≤ z.1 then 0 else (((toks.getD t [])[z.2]?).map (fun c => c.2.toNat)).getD 0)

/-- Rows of numbers in block-major order (R74). -/
def toBlocksN (cols : Nat) (rows : List (List Nat)) : List Nat :=
  (List.range (rows.length * cols)).map (fun i => ((rows.getD (blockPlace cols i).1 []).getD (blockPlace cols i).2 0))

/-! ## Permute and combine (R127, R128) -/

/-- Choices of token `t` in a selection tensor, each with its gate weight. -/
def choicesOf (x : Core) (first t : Nat) : List (Nat × Nat) :=
  (List.range 8).map (fun j => (x.at first fINT32 16 t j, x.at first fINT32 16 t (8 + j)))

/-- A choice that is neither dropped nor absent. -/
def choiceLive (w : Nat) : Bool := w < choiceDropped

/-- The choice addresses an expert below E and a slot below C (R128). -/
def choiceValid (v : OpEnv) (w : Nat) : Bool := w / 65536 < v.experts && w % 65536 < v.bucket

/-- Row of the bucket tensor that a choice names. -/
def choiceRow (v : OpEnv) (w : Nat) : Nat := w / 65536 * v.bucket + w % 65536

/-- Some live choice of the selection lies outside E or C. -/
def selectionBad (x : Core) (v : OpEnv) : Bool :=
  (List.range v.op.m).any (fun t =>
    (choicesOf x (v.slotOf v.op.b) t).any (fun z => choiceLive z.1 && !choiceValid v z.1))

/-- Rows of D that permute fills, with the token of each (R127). -/
def permuteRows (x : Core) (v : OpEnv) : SMap (Option Nat) :=
  (List.range v.op.m).foldl (fun acc t =>
    (choicesOf x (v.slotOf v.op.b) t).foldl (fun m z =>
      if choiceLive z.1 && choiceValid v z.1 then m.set none (choiceRow v z.1) (some t) else m) acc) []

/-- D of permute as element bits (R127). -/
def permuteBits (x : Core) (v : OpEnv) : List Nat :=
  let rows := permuteRows x v
  (List.range (v.experts * v.bucket * v.op.n)).map (fun i =>
    let p := blockPlace v.op.n i
    match rows.get none p.1 with
    | none => 0
    | some t => x.at (v.slotOf v.op.a) v.op.fmtA v.op.n t p.2)

/-- One element of unpermute and combine (R128). -/
def combineVal (x : Core) (v : OpEnv) (t h : Nat) : Val :=
  let start := if v.op.acc then x.val (v.slotOf v.op.d) v.op.fmtD v.op.n t h else .zero false
  (choicesOf x (v.slotOf v.op.b) t).foldl (fun a z =>
    if choiceLive z.1 && choiceValid v z.1 then
      fadd a ((val32 (BitVec.ofNat 32 z.2)).mul (x.val (v.slotOf v.op.a) v.op.fmtA v.op.n (choiceRow v z.1) h))
    else a) start

/-- Rows of A and of D in the operation (Table 3-14). -/
def routeRowsA (v : OpEnv) : Nat := if v.op.variant = 3 then v.experts * v.bucket else v.op.m
def routeRowsD (v : OpEnv) : Nat := if v.op.variant = 2 then v.experts * v.bucket else v.op.m

/-- Slots a ROUTE reads. -/
def routeReads (v : OpEnv) : List Nat :=
  slotRun (v.slotOf v.op.a) v.op.fmtA (routeRowsA v * v.op.n) ++
  (if v.op.variant = 2 ∨ v.op.variant = 3 then slotRun (v.slotOf v.op.b) fINT32 (v.op.m * 16) else []) ++
  (if v.op.variant = 3 && v.op.acc then slotRun (v.slotOf v.op.d) v.op.fmtD (v.op.m * v.op.n) else [])

/-- Cycles of a ROUTE (R129). -/
def routeCycles (v : OpEnv) : Nat :=
  if v.op.variant = 1 ∨ v.op.variant = 4 then 16 + v.op.m * ((v.op.n + 15) / 16 + 8)
  else 16 + ((routeRowsA v * v.op.n * fmtBits v.op.fmtA + routeRowsD v * v.op.n * fmtBits v.op.fmtD) / 8 + 511) / 512

/-- A ROUTE at issue (R111, R125 to R129). -/
def State.routeOp (s : State) (v : OpEnv) (rep : Repeat) : State :=
  let (s1, ok) := s.entryCheck v (routeReads v)
  if !ok then s1.startOp v engRoute noResult none []
  else
    let (s2, good) := s1.residue v engRoute rep
    if !good then s2.startOp v engRoute noResult (some (routeCycles v)) []
    else
      let x := (s2.cell v.cell).core v.core
      let d := v.slotOf v.op.d
      let poison := x.poisoned (routeReads v)
      if v.op.variant = 1 ∨ v.op.variant = 4 then
        let rows := (List.range v.op.m).map (rowVals x (v.slotOf v.op.a) v.op.fmtA v.op.n)
        let toks := rows.map (chooseExperts v.topK)
        let ranks := placeAll v.bucket toks
        let drops := (ranks.map (fun l => (l.filter (· = choiceDropped)).length)).sum
        let w := x.bitWrites d fINT32 (toBlocksN 16 ((List.range v.op.m).map (selectionRow toks ranks))) poison
        (s2.onCell v.cell (fun k => { k with routeOvf := satAdd k.routeOvf drops })).startOp v engRoute
          { writes := w, void := rows.any routeBad } (some (routeCycles v)) []
      else if v.op.variant = 2 then
        s2.startOp v engRoute { writes := x.bitWrites d v.op.fmtD (permuteBits x v) poison, void := selectionBad x v }
          (some (routeCycles v)) []
      else
        let vals := (List.range (v.op.m * v.op.n)).map (fun i =>
          combineVal x v (blockPlace v.op.n i).1 (blockPlace v.op.n i).2)
        let r := x.valWrites v d v.op.fmtD vals poison
        s2.startOp v engRoute { r with void := r.void || selectionBad x v } (some (routeCycles v)) []

def execRoute (t : Nat) (cell : Fin 8) (core : Fin 128) (rep : Repeat) (s : State) : Res :=
  .next (s.run t (fun s =>
    match s.issue cell core engRoute (fun o => o.opcode = 3) with
    | none => s
    | some (v, s1) => s1.routeOp v rep))

end Sys2Proof.Machine
end

