-- ==== Sys2Proof/Machine/SampleEngine.lean ====
section
/-!
DEFINITION. The sample engine (06, R130 to R136): sampling records, kept sets, draws, draft acceptance, the two lanes.
-/

namespace Sys2Proof.Machine

def engSample : Nat := 4

/-- Statuses of a SAMPLE row (Table 6-7). -/
def smpDONE : Nat := 0
def smpNONFINITE : Nat := 1
def smpPARAMETER : Nat := 2
def smpLANES : Nat := 3

/-- A sampling record (Table 6-6). -/
structure SampRec where
  temp   : Nat
  topP   : Nat
  topK   : Nat
  key    : Nat
  pos    : Nat
  flags  : Nat
  rest   : Nat
  drafts : List Nat
  deriving DecidableEq, Repr

/-- Record `q` of the tensor whose tile 0 lies in slot `first`: one 64-byte INT32 block (R130). -/
def readSamp (x : Core) (first q : Nat) : SampRec :=
  let b := (x.slot (first + q / 64)).tile.payload.toNat >>> (512 * (q % 64))
  { temp := fld b 0 4, topP := fld b 4 4, topK := fld b 8 4, key := fld b 0xC 4, pos := fld b 0x10 4, flags := fld b 0x14 4,
    rest := fld b 0x18 8, drafts := (List.range 8).map (fun j => fld b (0x20 + 4 * j) 4) }

def SampRec.active (r : SampRec) : Bool := bit r.flags 0

/-- τ is +0 or −0. -/
def SampRec.greedy (r : SampRec) : Bool := r.temp % 2 ^ 31 = 0

/-- Top-p is on: ±0, or below 1.0 (Table 6-6). -/
def SampRec.pOn (r : SampRec) : Bool := r.topP % 2 ^ 31 = 0 || r.topP < 0x3F800000

/-- Every field lies in its range and no reserved bit is set (R131, Table 6-6). -/
def SampRec.ok (r : SampRec) (variant : Nat) : Bool :=
  (r.greedy || posFinite32 r.temp) && (r.topP % 2 ^ 31 = 0 || (0 < r.topP && r.topP ≤ 0x7F800000)) && r.topK ≤ 1024 &&
  r.key < 2 ^ 24 && r.flags < 2 && r.rest = 0 && (variant = 2 || r.drafts.all (· = 0))

/-! ## Kept sets (R131) -/

/-- How a row is decided: not at all, greedily, or from a kept set of (index, weight) in index order. -/
inductive Row where
  | bad
  | greedy (token : Nat)
  | kept (l : List (Nat × Val))
  deriving DecidableEq, Repr

/-- Index of the largest logit, ties to the lower index (R131 step 1). -/
def argMax (l : List Val) : Nat :=
  ((l.zipIdx).foldl (fun (best : Nat × Val) z => if best.2.lt z.1 then (z.2, z.1) else best) (0, l.headD .nan)).1

/-- Running sums of a prefix list in the order of R97. -/
def runningGo : List Val → Nat → Val → Val → List Val
  | [], _, _, _ => []
  | t :: r, i, chain, part =>
    let p := fadd part t
    let c := fadd chain p
    c :: (if i % 16 = 15 then runningGo r (i + 1) c (.zero false) else runningGo r (i + 1) chain p)

def running (l : List Val) : List Val := runningGo l 0 (.zero false) (.zero false)

/-- a ≤ b for values that are not NaN. -/
def Val.le (a b : Val) : Bool := !b.lt a

/-- Candidates by decreasing weight, ties to the lower index (R131 step 2). -/
def candidates (w : List Val) : List (Nat × Val) :=
  inOrder (fun a b => b.2.lt a.2 || (!a.2.lt b.2 && a.1 ≤ b.1)) ((w.zipIdx).map (fun z => (z.2, z.1)))

/-- The shortest prefix in candidate order whose running sum reaches θ; all of them when none does (R131 step 4). -/
def cutTopP (p : Val) (c : List (Nat × Val)) : List (Nat × Val) :=
  let order := inOrder (fun a b => a.1 ≤ b.1) c
  let theta := fmul p (sum97 (order.map (·.2)))
  match (running (c.map (·.2))).findIdx? (fun z => theta.le z) with
  | none => c
  | some j => c.take (j + 1)

/-- How a row of logits is decided (R131). -/
def decideRow (r : SampRec) (l : List Val) : Row :=
  if l.any (fun z => z.isNan || z = .inf false) || l.all (· = .inf true) then .bad
  else if r.greedy then .greedy (argMax l)
  else
    let z := l.map (fun v => fdiv v (val32 (BitVec.ofNat 32 r.temp)))
    if z.any (· = .inf false) then .greedy (argMax l)
    else
      let m := z.foldl Val.max (.inf true)
      let w := z.map (fun v => if v = .inf true then .zero false else fexp (fsub v m))
      -- where no weight is left, logits of −∞ are no candidates: they are never chosen while another logit is finite
      let c := (candidates w).filter (fun a => m ≠ .inf true || l.getD a.1 .nan ≠ .inf true)
      let c1 := if r.topK ≠ 0 then c.take r.topK else if r.pOn then c.take 1024 else c
      let p := if r.topP % 2 ^ 31 = 0 then Val.zero false else val32 (BitVec.ofNat 32 r.topP)
      let c2 := if r.pOn then cutTopP p c1 else c1
      .kept (inOrder (fun a b => a.1 ≤ b.1) c2)

/-! ## Draws (R132, R133) -/

/-- The 32-bit draw of a decision: which 0 the choice, 1 the acceptance (R132). -/
def draw (seed : BitVec 64) (key pos which : Nat) : Nat :=
  bits (cg seed (BitVec.ofNat 128 (3 * 2 ^ 112 + key % 2 ^ 24 * 2 ^ 88 + pos % 2 ^ 32 * 2 ^ 56 + which))).toNat 32 32

/-- Sum of the kept weights in index order (R131 step 5). -/
def keptSum (l : List (Nat × Val)) : Val := (running (l.map (·.2))).getLastD (.zero false)

/-- u·W/2³², exact. -/
def share (u : Nat) (w : Val) : Val := (Val.ofInt u (-32)).mul w

/-- The first kept index whose running sum exceeds u·W/2³², else the last (R133). -/
def choose (l : List (Nat × Val)) (u : Nat) : Nat :=
  let run := running (l.map (·.2))
  match run.findIdx? (fun z => (share u (keptSum l)).lt z) with
  | some j => (l.getD j (0, .nan)).1
  | none => (l.getLastD (0, .nan)).1

/-- The token of a decided row without drafts, by the choice draw at `pos`. -/
def rowToken (seed : BitVec 64) (key pos : Nat) : Row → Nat
  | .bad => 0
  | .greedy t => t
  | .kept l => choose l (draw seed key pos 0)

/-! ## Draft acceptance (R134) -/

/-- Draft `x` is accepted by a row at position `pos`. -/
def accepts (seed : BitVec 64) (key pos x : Nat) : Row → Bool
  | .bad => false
  | .greedy t => x = t
  | .kept l =>
    match l.find? (fun z => z.1 = x) with
    | none => false
    | some z => (share (draw seed key pos 1) (keptSum l)).lt z.2

/-- The token at the first rejected draft `x`: greedy, or from the kept set with `x` removed. Where `x` alone was kept nothing is left
to choose from, and R134 gives no rule: DESIGN CHOICE (log 97), the whole kept set. -/
def rejectToken (seed : BitVec 64) (key pos x : Nat) : Row → Nat
  | .bad => 0
  | .greedy t => t
  | .kept l =>
    let r := l.filter (fun z => z.1 ≠ x)
    choose (if r.isEmpty then l else r) (draw seed key pos 0)

/-- Tokens decided from position `pos` on, over the drafts that are left and their rows, the last row the further token. -/
def acceptGo (seed : BitVec 64) (key : Nat) : List Nat → List Row → Nat → List Nat
  | [], rows, pos => [rowToken seed key pos (rows.headD .bad)]
  | x :: xs, rows, pos =>
    let r := rows.headD .bad
    if accepts seed key pos x r then x :: acceptGo seed key xs rows.tail (pos + 1) else [rejectToken seed key pos x r]

/-! ## SAMPLE -/

/-- Draft length L and rows R of a request (R134). -/
def OpEnv.draftLen (v : OpEnv) : Nat := if v.op.variant = 2 then bits v.op.param.toNat 0 8 else 0
def OpEnv.rowsPer (v : OpEnv) : Nat := if v.op.variant = 2 then 4 * ((v.draftLen + 4) / 4) else 1

/-- What one record decides: its D rows (token, delivered, status, accepted), its report, its cycles. -/
structure SampOut where
  rows   : List (List Nat)
  report : Option SampleReport
  cycles : Nat
  deriving DecidableEq, Repr

/-- Cycles of an active record's rows (R136). -/
def sampCycles (v : OpEnv) (r : SampRec) : Nat :=
  if !r.active then 4 * v.rowsPer
  else (v.draftLen + 1) * (3 * ((v.op.n + 63) / 64) + 64 + (if r.topK ≠ 0 || r.pOn then 512 else 0)) +
    4 * (v.rowsPer - (v.draftLen + 1))

/-- Record `q` decided (R131 to R135); `lanes` says that the lanes disagreed for good. -/
def sampleOne (x : Core) (v : OpEnv) (q : Nat) (lanes poison : Bool) : SampOut :=
  let r := readSamp x (v.slotOf v.op.b) q
  let live := v.draftLen + 1
  let pad (l : List (List Nat)) : List (List Nat) := l ++ List.replicate (v.rowsPer - l.length) [0, 0, 0, 0]
  if !r.active then { rows := pad [], report := none, cycles := sampCycles v r }
  else
    let rows := (List.range live).map (fun j => decideRow r (rowVals x (v.slotOf v.op.a) v.op.fmtA v.op.n (q * v.rowsPer + j)))
    let all (st : Nat) : List Nat := List.replicate live st
    let sts := if lanes then all smpLANES
      else if !r.ok v.op.variant then all smpPARAMETER
      else rows.map (fun z => if z = .bad then smpNONFINITE else smpDONE)
    let good := sts.all (· = smpDONE)
    let toks := if !good then []
      else acceptGo v.seed r.key (r.drafts.take v.draftLen) rows r.pos
    { rows := pad ((List.range live).map (fun j =>
        [toks.getD j 0, if j < toks.length then 1 else 0, sts.getD j 0,
         if j = 0 && v.op.variant = 2 then toks.length - 1 else 0]))
      report := some { tenant := v.tenant, key := BitVec.ofNat 24 r.key, pos := r.pos, tokens := toks.map (BitVec.ofNat 32),
                       acc := toks.length - 1, status := (sts.find? (· ≠ smpDONE)).getD smpDONE, poison := poison }
      cycles := sampCycles v r }

/-- Slots a SAMPLE reads. -/
def sampleReads (v : OpEnv) : List Nat :=
  slotRun (v.slotOf v.op.a) v.op.fmtA (v.op.m * v.op.n) ++
  slotRun (v.slotOf v.op.b) fINT32 (v.op.m / v.rowsPer * 16)

/-- One record with its lanes (R135): a mismatch uses one tile redo, and counts a fault when the repeat agrees. -/
def State.sampleLane (s : State) (v : OpEnv) (q : Nat) (agree : Option Bool) : State × Bool × Nat :=
  let x := (s.cell v.cell).core v.core
  match agree with
  | none => (s, false, 0)
  | some a =>
    if !(readSamp x (v.slotOf v.op.b) q).active then (s, false, 0)
    else if !(s.cell v.cell).redoLeft v.core then (s.repeatRec v engSample 2, true, 0)
    else
      let s1 := s.useRedo v.cell v.core
      let extra := sampCycles v (readSamp x (v.slotOf v.op.b) q)
      if a then ((s1.countFault v.cell v.core).repeatRec v engSample 1, false, extra)
      else (s1.repeatRec v engSample 2, true, extra)

/-- Every record in turn. -/
def State.sampleAll (s : State) (v : OpEnv) (lanes : List (Nat × Bool)) (poison : Bool) : State × List SampOut :=
  (List.range (v.op.m / v.rowsPer)).foldl (fun (acc : State × List SampOut) q =>
    let (s1, bad, extra) := acc.1.sampleLane v q ((lanes.find? (fun z => z.1 = q * v.rowsPer)).map (·.2))
    let o := sampleOne ((s1.cell v.cell).core v.core) v q bad poison
    (s1, acc.2 ++ [{ o with cycles := o.cycles + extra }])) (s, [])

/-- A SAMPLE at issue (R111, R130 to R136). -/
def State.sampleOp (s : State) (v : OpEnv) (lanes : List (Nat × Bool)) : State :=
  let (s1, ok) := s.entryCheck v (sampleReads v)
  if !ok then s1.startOp v engSample noResult none []
  else
    let x := (s1.cell v.cell).core v.core
    let poison := x.poisoned (sampleReads v)
    let (s2, outs) := s1.sampleAll v lanes poison
    let w := x.bitWrites (v.slotOf v.op.d) fINT32 (toBlocksN 4 (outs.flatMap (·.rows))) poison
    s2.startOp v engSample { writes := w } (some (32 + (outs.map (·.cycles)).sum)) (outs.filterMap (·.report))

def execSample (t : Nat) (cell : Fin 8) (core : Fin 128) (lanes : List (Nat × Bool)) (s : State) : Res :=
  .next (s.run t (fun s =>
    match s.issue cell core engSample (fun o => o.opcode = 4) with
    | none => s
    | some (v, s1) => s1.sampleOp v lanes))

end Sys2Proof.Machine
end

