-- ==== Sys2Proof/Machine/MaskEngine.lean ====
section
/-!
DEFINITION. The mask engine (06, R137 to R139): drop-out masks and rounding bits from the counter generator.
-/

namespace Sys2Proof.Machine

def engMask : Nat := 5

/-- Bits of a drop-out element with 16-bit value `r` and keep field `k` (R138). -/
def keepBits (code k r : Nat) : Nat :=
  let kept := k = 0 || r < k
  if code = fINT8 then (if kept then 1 else 0)
  else if kept then (conv code (if k = 0 then .fin false 1 0 else quot false 65536 k 0) none).bits
  else 0

/-- Bits of element `i` of the D tile in slot `y` (R137 to R139). -/
def maskBits (v : OpEnv) (y : Slot) (i : Nat) : Nat :=
  let w := v.op.param.toNat
  let g := y.tile.tag
  let r := rand16 v.seed (bits w 0 16) g.ident.toNat v.jobStep (elemsPer v.op.fmtD * g.seq + i)
  if v.op.variant = 1 then keepBits v.op.fmtD (bits w 16 16) r else r

/-- A MASK at issue (R137 to R139). -/
def State.maskOp (s : State) (v : OpEnv) (rep : Repeat) : State :=
  let (s1, good) := s.residue v engMask rep
  let cycles := some (16 + (v.op.m * v.op.n + 63) / 64)
  if !good then s1.startOp v engMask noResult cycles []
  else
    let x := (s1.cell v.cell).core v.core
    let d := v.slotOf v.op.d
    let n := v.op.m * v.op.n
    let run := slotRun d v.op.fmtD n
    if run.any (fun i => (x.slot i).tile.tag.ident = 0) then
      s1.startOp v engMask { writes := x.zeroWrites d v.op.fmtD n false, void := true } cycles []
    else
      let per := elemsPer v.op.fmtD
      let l := (List.range n).map (fun e => maskBits v (x.slot (d + e / per)) (e % per))
      s1.startOp v engMask { writes := x.bitWrites d v.op.fmtD l false } cycles []

def execMask (t : Nat) (cell : Fin 8) (core : Fin 128) (rep : Repeat) (s : State) : Res :=
  .next (s.run t (fun s =>
    match s.issue cell core engMask (fun o => o.opcode = 5) with
    | none => s
    | some (v, s1) => s1.maskOp v rep))

end Sys2Proof.Machine
end

