-- ==== Sys2Proof/Machine/Mover.lean ====
section
/-!
DEFINITION. The mover: MOVE (Table 3-8, R432), paged moves (R185, R187), version pairs (R252), transpose-move, TILE frames and
their forms (R163, R273, R290), read requests, arriving tiles (R309), signals at a destination (R59, R65), sync messages in
frames (R66, R274).
-/

namespace Sys2Proof.Machine

def engMover : Nat := 6

/-! ## Sync counters (R65, R66) -/

/-- Core and counter of a group's counter where the deal put the group. R65 gives no rule for a number at or above the group's counter
count: DESIGN CHOICE (log 95), it counts on from the group's first counter and so falls on a counter of a later group. -/
def Cell.counterAt (k : Cell) (tenant group ctr : Nat) : Option (Nat × Nat) :=
  match (k.run tenant).deal[group]? with
  | some (some p) => some (p.core, p.ctr + ctr)
  | _ => none

/-- A signal of the step in progress is applied to a counter; one that would pass the top voids with CHECK (R65). A target that
no deal holds has no counter: it is entered in the ring. -/
def State.signalAt (s : State) (c tenant group ctr add : Nat) : State :=
  match (s.cell c).counterAt tenant group ctr with
  | none => s.err c { cls := clsCOMMAND, sev := 1, unit := 6, tenant := tenant, obj := group, detail := ctr }
  | some (n, i) =>
    let (x, past) := ((s.cell c).core n).addCtr i add
    let s1 := s.onCell c (fun k => (k.setCore n x).release)
    if past then s1.cause c vCHECK tenant none else s1

/-- What becomes of a sync message at its cell: applied, held, discarded with a record; none while the pending buffer is full
(R66). -/
def State.syncArrive (s : State) (m : SyncMsg) : Option State :=
  let k := s.cell m.cell
  let num := BitVec.ofNat 16 k.step.number
  let now := k.step.running && m.step = num
  let next := m.step = (if k.step.running then num + 1 else num)
  if now then some (s.signalAt m.cell m.tenant m.group m.ctr m.add)
  else if next then
    let n := ((k.counterAt m.tenant m.group m.ctr).map (·.1)).getD 0
    if 512 ≤ (k.core n).pend.length then none
    else some (s.onCore m.cell n (fun x => { x with pend := x.pend ++ [m] }))
  else some (s.err m.cell { cls := clsCOMMAND, sev := 1, unit := 6, tenant := m.tenant, obj := m.group, detail := m.ctr })



/-! ## Frames of tiles (R163, R273, R290) -/

/-- Blocks of a tile, in bytes: (count, bytes each) for a format (Table 4-2). -/
def blockBytes (code : Nat) : Nat := if fmtBits code = 0 then 0 else 2 * fmtBits code

/-- Units of a map: one block a bit, two for FP4 (Table 4-3). -/
def mapUnits (code : Nat) : Nat × Nat :=
  if code = fFP4 then (blocksPer code / 2, 2 * blockBytes code) else (blocksPer code, blockBytes code)

/-- The present blocks of a tile after its map, as (bytes, data) in block order. -/
def presentBlocks (x : Slot) : List (Nat × Nat) :=
  let (n, w) := mapUnits x.tile.tag.fmt
  ((List.range n).filter (fun i => x.side.getLsbD i)).map (fun i => (w, fld x.tile.payload.toNat (w * i) w))

/-- Scale bytes of a side record (Table 4-3). -/
def scalesOf (x : SideRec) : Nat := x.toNat >>> 2048

/-- Tag, then the sparse form's map and present blocks (R273). -/
def sparseData (x : Slot) : List (Nat × Nat) :=
  [(16, x.tile.tag.bytes), (32, x.side.toNat % 2 ^ 256)] ++ presentBlocks x

def packLen (l : List (Nat × Nat)) : Nat := (l.map (·.1)).sum

/-- Generation of the peer behind an output: this part's own inside the module, else as its PRESENCE says (Table 12-7). -/
def State.peerGen (s : State) (c p : Nat) : Nat :=
  if p < 4 then 3 else ((((s.cell c).port p).peer).map (fun b => fld b.toNat 0 1)).getD 3

/-- The form of a TILE frame for the first hop: SPARSE, SIDE and payload fields (R163, R273, Table 12-11); a read response (`whole`) is
never sparse (R273). -/
def State.tileForm (s : State) (c dseat dcell : Nat) (x : Slot) (whole : Bool) : Bool × Bool × List (Nat × Nat) :=
  let old := ((s.route c dseat dcell).map (s.peerGen c)).getD 3 = 1
  let sp := sparseData x
  if !whole && x.tile.tag.ident.getLsbD 22 && x.tile.tag.map && scalesOf x.side = 0 && packLen sp < 4624 && !old then (true, false, sp)
  else if (x.tile.tag.map || x.filled) && !old then
    (false, true, [(16, x.tile.tag.bytes), (512, x.side.toNat), (4096, x.tile.payload.toNat)])
  else (false, false, [(16, x.tile.tag.bytes), (4096, x.tile.payload.toNat)])

/-- Where a tile goes and with what header fields. -/
structure TileTo where
  seat   : Nat
  cell   : Nat
  tenant : Nat
  ident  : BitVec 24
  seq    : Nat
  lane   : Nat
  kind   : Nat
  aux    : Nat
  group  : Nat
  ctr    : Nat
  deriving DecidableEq, Repr

/-- A TILE frame leaves; false where no route is left. The destination joins those of the step (R315). -/
def State.sendTile (s : State) (c idx : Nat) (dst : TileTo) (x : Slot) (whole : Bool) : State × Bool :=
  let (sp, sd, l) := s.tileForm c dst.seat dst.cell x whole
  let (s1, ok) := s.send c idx
    { ftype := 1, lane := dst.lane, sparse := sp, side := sd, dseat := dst.seat, dcell := dst.cell, tenant := dst.tenant,
      origin := idScheduler c, tensor := dst.ident.toNat, tkind := dst.kind, tseq := dst.seq, sgroup := dst.group,
      sctr := dst.ctr, aux := dst.aux, plen := packLen l, data := pack l }
  let key := (dst.seat, dst.cell, dst.tenant, dst.ident)
  (s1.onCell c (fun k => if k.step.running && !k.step.sentTo.contains key then
     { k with step := { k.step with sentTo := k.step.sentTo ++ [key] } } else k), ok)

/-- A tag as its 16 bytes give it (Table 7-1). -/
def readTag (v : Nat) : Tag :=
  { check := BitVec.ofNat 32 (fld v 0 4), ident := BitVec.ofNat 24 (fld v 4 3), fmt := fld v 7 1, seq := fld v 8 4,
    ver := BitVec.ofNat 16 (fld v 0xC 2), poison := bit (fld v 0xE 1) 0, dirty := bit (fld v 0xE 1) 1,
    pinned := bit (fld v 0xE 1) 2, home := bit (fld v 0xE 1) 3, map := bit (fld v 0xE 1) 4, tenant := fld v 0xF 1 }

/-- The payload of a sparse frame's tile: present blocks from byte 48 on, absent ones zero (R163). -/
def restoreBlocks (data map n w : Nat) : Nat :=
  ((List.range n).foldl (fun (acc : Nat × Nat) i =>
    if bit map i then (acc.1 + fld data (48 + w * acc.2) w * 2 ^ (8 * (w * i)), acc.2 + 1) else acc) (0, 0)).1

/-- The tile of a TILE frame (R273); none where the payload has no form's length. -/
def frameSlot (x : Frame) : Option Slot :=
  let tag := readTag (x.p 0 16)
  if x.sparse && x.side then none
  else if x.sparse then
    let map := x.p 16 32
    let (n, w) := mapUnits tag.fmt
    let cnt := ((List.range n).filter (fun i => bit map i)).length
    if x.plen ≠ 48 + w * cnt then none
    else some { tile := { payload := BitVec.ofNat 32768 (restoreBlocks x.data map n w), tag := tag },
                side := BitVec.ofNat 4096 map, filled := true }
  else if x.side then
    if x.plen ≠ 4624 then none
    else some { tile := { payload := BitVec.ofNat 32768 (x.p 528 4096), tag := tag },
                side := BitVec.ofNat 4096 (x.p 16 512), filled := true }
  else if x.plen ≠ 4112 then none
  else some { tile := { payload := BitVec.ofNat 32768 (x.p 16 4096), tag := tag }, side := 0, filled := false }

/-! ## Reduction nodes (R100, R204) -/

/-- Nodes that a level of `n` nodes leaves on the next (R100). -/
def halved (n : Nat) : Nat := (n + 1) / 2

/-- The same place in the same tree: a part sent again takes its own place (R268). -/
def RedNode.sameAs (x y : RedNode) : Bool :=
  x.tenant = y.tenant && x.ident = y.ident && x.seq = y.seq && x.level = y.level && x.index = y.index

/-- Sum of two neighbours' values, `x` the lower (R100): FP32 rounded to nearest even, INT32 parts exactly with wrap (R96). -/
def RedNode.add (x y : RedNode) : List (BitVec 32) :=
  if x.int then List.zipWith (· + ·) x.vals y.vals
  else List.zipWith (fun p q => bits32 (fadd (val32 p) (val32 q))) x.vals y.vals

/-- A finished node goes up the tree: joined with its neighbour when both are there, alone when it has none; the root comes out with
count 1 (R100, R204). -/
def climb : Nat → List RedNode → RedNode → List RedNode × Option RedNode
  | 0, l, x => (l, some x)
  | fuel + 1, l, x =>
    if x.count ≤ 1 then (l, some x)
    else
      let x1 : RedNode := { x with level := x.level + 1, index := x.index / 2, count := halved x.count }
      if x.index % 2 = 0 && x.count ≤ x.index + 1 then climb fuel l x1
      else
        let mate : RedNode := { x with index := if x.index % 2 = 0 then x.index + 1 else x.index - 1 }
        match l.find? mate.sameAs with
        | none => (l.filter (fun y => !(x.sameAs y)) ++ [x], none)
        | some y =>
          climb fuel (l.erase y)
            { x1 with vals := if x.index % 2 = 0 then x.add y else y.add x, poison := x.poison || y.poison, sr := x.sr || y.sr
                      stop := max x.stop y.stop }

/-- Conversion mode of a root: its stream, or none for RNE (R99, R101). -/
def sumStream (ident : BitVec 24) (srFlag : Bool) : Option Nat :=
  if ident = 0 then none else if ident.getLsbD 22 then some 0 else if srFlag then some 1 else none

/-- Elements of one piece of a sum, 1,024 FP32 values of a tile (R204): every format's tile holds whole pieces (Table 4-2). -/
def pieceElems : Nat := 1024

/-- The roots of a tile of a sum as the destination tile `old` takes them (R99, R204): elements of no root, or at or after the end of
the REDUCE's range, stay. POISON is that of the roots (R206). -/
def rootTile (old : Slot) (code : Nat) (roots : List RedNode) (seed : BitVec 64) (jobStep first : Nat) (dTag : Tag) :
    Slot × Bool × Bool :=
  let per := elemsPer code
  let stream := sumStream dTag.ident (roots.any (·.sr))
  let cs := (List.range per).map (fun i =>
    match roots.find? (fun x => x.seq = first + i / pieceElems * pieceElems && (x.stop = 0 || first + i < x.stop)) with
    | none => none
    | some x =>
      let w := x.vals.getD (i % pieceElems) 0
      some (conv code (if x.int then Val.ofInt w.toInt 0 else val32 w)
        (stream.map (fun st => rand16 seed st dTag.ident.toNat jobStep (per * dTag.seq + i)))))
  let all := (cs.zipIdx).map (fun q => (q.1.map (·.bits)).getD (elemBits code old.tile.payload q.2))
  (resultSlot { old with tile := { old.tile with tag := dTag } } code all (roots.any (·.poison)),
   cs.any (fun q => q.any (·.void)), cs.any (fun q => q.any (·.sat)))

/-! ## Tiles arriving (R142, R147, R260, R309) -/

/-- The identifier of a version pair's twin (R252). -/
def twinOf (ident : BitVec 24) : BitVec 24 := ident ||| 0x100000

/-- The tensor has a twin of the same tenant, format and size (R252). -/
def Cell.hasTwin (k : Cell) (tenant : Nat) (ident : BitVec 24) : Bool :=
  !ident.getLsbD 20 &&
  match k.tiers.dir.find? (fun t => t.tenant = tenant && t.ident = ident),
        k.tiers.dir.find? (fun t => t.tenant = tenant && t.ident = twinOf ident) with
  | some a, some b => a.fmt = b.fmt && a.count = b.count
  | _, _ => false

/-- Member of a pair that holds the current version, or with `ret` the other one (R252). -/
def Cell.pairMember (k : Cell) (tenant : Nat) (ident : BitVec 24) (ret : Bool) : BitVec 24 :=
  if k.hasTwin tenant ident && ((k.ver tenant).twinCur ≠ ret) then twinOf ident else ident

/-- A tile of a broadcast is written into a clean fast copy with the frame's version, its home lagging (R259, R260); without
room it goes the way of R159. A one-home tensor takes it as any write. -/
def State.broadcastIn (s : State) (c tenant : Nat) (ident : BitVec 24) (seq : Nat) (x : Slot) : State × Bool :=
  let id := (s.cell c).pairMember tenant ident true
  match s.tileAt c tenant id seq with
  | none => (s, false)
  | some (h, t, a) =>
    if t.one || h ≠ c || t.tenant = 0xFF then s.tierWrite c tenant id seq x []
    else
      let k := s.cell c
      match if (k.ent a).st.inFast then some k else k.makeRoom t.tenant [a] with
      | none => s.tierWrite c tenant id seq x []
      | some k1 =>
        let y := k1.tierTile t a x.tile
        let e := k1.ent a
        let tile := { y with tag := { y.tag with ver := x.tile.tag.ver } }
        let k2 := k1.touched a { e with st := .HC, fast := tile, shadow := Tile.zero, shadowBad := false, lagging := true }
        if t.hasSide && !ident.getLsbD 23 then
          let sa := t.base + t.count + seq / 8
          let old := ((k2.ent sa).current).getD Tile.zero
          match k2.writeTile t sa (withSideEntry old (seq % 8) x.side) [] with
          | none => (s.noRoom c t, false)
          | some k3 => (s.setCell c k3, true)
        else (s.setCell c k2, true)

/-- A block of a figure that the Manager sends (R40, R42, Table 12-2): taken while the slot is loading for the Manager. -/
def State.figureBlock (s : State) (c : Nat) (x : Frame) : State :=
  let slot := bits x.tseq 12 2
  let k := s.cell c
  match k.fig.slots.get .empty slot with
  | .loading b none who =>
    if who ≠ x.origin then s
    else
      let b1 := b.set 0 (x.tseq % 4096) (BitVec.ofNat 32768 (x.p 16 4096))
      s.setCell c { k with fig := { k.fig with slots := k.fig.slots.set .empty slot (.loading b1 none who) } }
  | _ => s

/-- A tile whose check value fails: nothing is written, VOID with CHECK goes back, the work voids with CHECK (R309). -/
def State.badTile (s : State) (c : Nat) (x : Frame) : State :=
  ((s.causeAt c vCHECK x.tenant (nearStep (s.cell c).step.number x.fstep % 2 ^ 32)).err c
    { cls := clsCHECKVALUE, sev := 2, unit := 4, tenant := x.tenant, reason := vCHECK, obj := x.tensor.toNat, detail := x.tseq }).voidBack
    c x vCHECK

/-- The sync message that a frame carries (Table 12-3): the value of a SYNC, 1 for the signal that a TILE names (R59). -/
def frameSync (x : Frame) : SyncMsg :=
  { src := x.scell, seat := x.dseat, cell := x.dcell, tenant := x.tenant, group := x.sgroup, ctr := x.sctr,
    add := if x.ftype = 1 then 1 else x.p 0 2, step := BitVec.ofNat 16 x.fstep }

/-- The sync message of a frame at its cell (R65, R66): applied, held for the next step, discarded with a record, or kept in the sync
overflow while the pending buffer is full (R274). -/
def State.frameArrive (s : State) (c : Nat) (x : Frame) : State :=
  match s.syncArrive { frameSync x with cell := c } with
  | some s1 => s1
  | none => s.onCell c (fun k => { k with korif := { k.korif with syncOvf := k.korif.syncOvf ++ [x] } })

/-- The signal that a TILE frame names, after its write (R59, R66, R273). -/
def State.frameSignal (s : State) (c : Nat) (x : Frame) : State :=
  if x.sgroup = 0xFFFF && x.sctr = 0xFFFF then s else s.frameArrive c x

/-- A tensor tile arrives in a frame (R147, R260, R309). A LOADING tensor's tiles on lane 5 belong to a FETCH (R262). -/
def State.tensorTile (s : State) (c : Nat) (x : Frame) (y : Slot) : State :=
  let loading := ((s.cell c).lookup x.tenant x.tensor).any (fun t => !t.1.ready)
  if x.lane = 5 && loading then s
  else
    let (s1, ok) := if x.lane = 4 then s.broadcastIn c x.tenant x.tensor x.tseq y
      else s.tierWrite c x.tenant x.tensor x.tseq y []
    if ok then s1.frameSignal c x else s1.cause c vCHECK x.tenant none

/-! ## Operands of a MOVE -/

/-- The phase's lane for TILE frames (Table 12-6). -/
def OpEnv.lane (v : OpEnv) : Nat := if v.op.variant = 4 then 4 else if v.gen then 1 else 2

/-- The KV pool of the setup in force, where a generation image's space 1 reference names it (R187). -/
def Cell.pagedSetup (k : Cell) (v : OpEnv) (w : BitVec 64) : Option Setup :=
  let r := readRef w
  match k.gen.setups.get none v.tenant with
  | some u => if v.gen && r.space = 1 && r.ident = u.kvPool then some u else none
  | none => none

/-- Tiles of a MOVE: pages where it is paged, else those of M × N elements (R432, R187). -/
def moveTiles (k : Cell) (v : OpEnv) : Nat :=
  if (k.pagedSetup v v.op.a).isSome || (k.pagedSetup v v.op.d).isSome then v.op.m
  else tilesFor v.op.fmtA (v.op.m * v.op.n)

/-- The run-time checks of a generation image's MOVE with a space 1 operand (R57, R187, R252, R432). -/
def moveOk (k : Cell) (v : OpEnv) : Bool :=
  let n := moveTiles k v
  let a := readRef v.op.a
  let d := readRef v.op.d
  let paged := (k.pagedSetup v v.op.a).isSome || (k.pagedSetup v v.op.d).isSome
  let inShare (r : Ref) := r.space ≠ 0 || r.slot + n ≤ v.span
  let pageRef (w : BitVec 64) := (k.pagedSetup v w).isNone || (readRef w).seq % 256 = 0
  let ret := v.op.param.getLsbD 31
  let pairOk := a.space ≠ 1 || paged ||
    (if k.hasTwin v.tenant a.ident then !ret || (k.ver v.tenant).retLive
     else !(ret && (((k.run v.tenant).image.map (·.layers)).getD []).any (fun l => BitVec.ofNat 24 l.tensor = a.ident)))
  inShare a && inShare d && pairOk &&
  (if paged then 1 ≤ v.op.m && pageRef v.op.a && pageRef v.op.d
   else v.op.m % 4 = 0 && v.op.n % 4 = 0 && 4 ≤ v.op.m && 4 ≤ v.op.n && v.op.k = 0)

/-- Rows of the step list of one tenant, in order (R182): row r of its step list tensor. -/
def Cell.rowsOf (k : Cell) (tenant : Nat) : List StepRow := k.gen.rows.filter (fun r => (k.entry r.entry).tenant = tenant)

/-- Tile of page `j` of the row's request, kind from the reference (R185): `some none` for an excluded page (R187), `none`
where no page set holds it. -/
def Cell.pageTile (k : Cell) (v : OpEnv) (u : Setup) (w : BitVec 64) (j : Nat) : Option (Option Nat) :=
  match (k.rowsOf v.tenant)[v.op.param.toNat % 65536]? with
  | none => some none
  | some r =>
    if r.kind = 0 || r.context ≤ 16 * j then some none
    else ((k.entry r.entry).pageSets[j]?).map (fun set => some (set * u.pages + (readRef w).seq / 256))

/-- The zero page of an excluded read: zero payload, a filled side record whose map is all zero (R187). -/
def zeroPage : Slot := { Slot.zero with filled := true }

/-- Tiles of this cell that a MOVE of `n` tiles reads or writes: they are in its operation, and not evicted for it (R158). -/
def State.moveBusy (s : State) (v : OpEnv) (n : Nat) : List Nat :=
  let k := s.cell v.cell
  let tiles (w : BitVec 64) : List (BitVec 24 × Nat) :=
    let r := readRef w
    if r.space ≠ 1 then []
    else match k.pagedSetup v w with
      | some u => (List.range n).filterMap (fun j => ((k.pageTile v u w (v.op.n + j)).getD none).map (fun q => (r.ident, q)))
      | none => (List.range n).map (fun j => (k.pairMember v.tenant r.ident (v.op.param.getLsbD 31), r.seq + j))
  s.tilesOf v.cell v.tenant (tiles v.op.a ++ tiles v.op.d)

/-- Source tile `j` of a MOVE: the state after its read and the tile; none where the lookup fails (R147). -/
def State.moveRead (s : State) (v : OpEnv) (busy : List Nat) (j : Nat) : Option (State × Slot) :=
  let k := s.cell v.cell
  let r := readRef v.op.a
  if r.space = 0 then some (s, (k.core v.core).slot (v.base + r.slot + j))
  else if r.space = 2 then s.tierRead v.cell v.tenant r.ident (r.seq + j) (v.op.variant = 1) busy
  else match k.pagedSetup v v.op.a with
    | some u =>
      match k.pageTile v u v.op.a (v.op.n + j) with
      | none => none
      | some none => some (s, zeroPage)
      | some (some q) => s.tierRead v.cell v.tenant r.ident q (v.op.variant = 1) busy
    | none =>
      s.tierRead v.cell v.tenant (k.pairMember v.tenant r.ident (v.op.param.getLsbD 31)) (r.seq + j) (v.op.variant = 1) busy

/-- All source tiles in order; the Bool says that every read succeeded. -/
def State.moveReads (s : State) (v : OpEnv) (busy : List Nat) : Nat → Nat → State × List Slot × Bool
  | 0, _ => (s, [], true)
  | n + 1, j =>
    match s.moveRead v busy j with
    | none => (s, [], false)
    | some (s1, x) =>
      let (s2, l, ok) := s1.moveReads v busy n (j + 1)
      (s2, x :: l, ok)

/-- Tiles of the transposed tensor (Table 3-14): element (c, r) of the result is (r, c) of the source; poison follows the tiles
read, the map is made anew where the source had one, scales are zero. -/
def transposed (v : OpEnv) (l : List Slot) : List Slot :=
  let per := elemsPer v.op.fmtA
  let at' (e : Nat) : Nat × Nat :=
    let (c, r) := blockPlace v.op.m e
    let i := blockIndex v.op.n r c
    (i / per, elemBits v.op.fmtA ((l.getD (i / per) Slot.zero).tile.payload) (i % per))
  (l.zipIdx).map (fun q =>
    let es := ((List.range per).filter (fun i => per * q.2 + i < v.op.m * v.op.n)).map (fun i => at' (per * q.2 + i))
    let p := packElems v.op.fmtA (es.map (·.2))
    { tile := { payload := p, tag := { q.1.tile.tag with
        check := payloadCrc p, poison := es.any (fun e => (l.getD e.1 Slot.zero).tile.tag.poison) } }
      side := if q.1.tile.tag.map then BitVec.ofNat 4096 (blockMap v.op.fmtA (es.map (·.2))) else 0, filled := q.1.filled })

/-- A payload of 4,096 bytes the spec leaves open, as 512 free values from number `n` on (log 9). -/
def freePayload (n : Nat) : Payload :=
  BitVec.ofNat 32768 (pack ((List.range 512).map (fun i => (8, (Config.freeValue (n + i)).toNat))))

/-- A paged transpose-move: no rule gives a page's rows and columns, so each page's content is a free value (log 9). -/
def State.freePages (s : State) (l : List Slot) : State × List Slot :=
  ({ s with free := s.free + 512 * l.length },
   (l.zipIdx).map (fun q =>
     let p := freePayload (s.free + 512 * q.2)
     { q.1 with tile := { q.1.tile with payload := p, tag := { q.1.tile.tag with check := payloadCrc p } } }))

/-- Cells that hold a SERVE record of the layer whose tensor is `id` (variant 0x04, Table 3-8). -/
def State.serveHolders (s : State) (c tenant : Nat) (id : BitVec 24) : List (Nat × Nat) :=
  let k := s.cell c
  let layers := (((k.run tenant).image.map (·.layers)).getD []).filterMap (fun r =>
    if BitVec.ofNat 24 r.tensor = id then some r.layer else none)
  (((k.fig.active.map (·.places)).getD []).filter (fun p => p.serve && layers.contains p.layer)).map (fun p =>
    (if p.seat = 0xFFFF then s.mySeat else p.seat, p.cell))

/-- Destination writes of tile `j` of a MOVE (Table 3-8, R187). -/
def State.moveWrites (s : State) (v : OpEnv) (j : Nat) (x : Slot) : List Write :=
  let k := s.cell v.cell
  let r := readRef v.op.d
  let send (seat cell : Nat) : Write :=
    if seat = s.mySeat ∧ cell = v.cell then .tensor v.tenant r.ident (r.seq + j) x
    else .remote seat cell v.tenant r.ident (r.seq + j) v.lane 0 0 0 x
  if v.op.variant = 4 then
    ((s.serveHolders v.cell v.tenant r.ident).filter (fun h =>
      !(h = (s.mySeat, v.cell) && (readRef v.op.a).space = 1 && (readRef v.op.a).ident = r.ident))).map (fun h => send h.1 h.2)
  else if r.space = 0 then [.slot (v.base + r.slot + j) x]
  else if r.space = 2 then [send (if r.own then s.mySeat else r.seat) r.cell]
  else match k.pagedSetup v v.op.d with
    | some u =>
      match k.pageTile v u v.op.d (v.op.n + j) with
      | some (some q) => [.tensor v.tenant r.ident q x]
      | _ => []
    | none => [.tensor v.tenant r.ident (r.seq + j) x]

/-! ## REDUCE parts at the home cell (R100, R204 to R206, R279) -/

/-- Tile of its sum in which a node lies. -/
def RedNode.tileSeq (x : RedNode) : Nat := x.seq / elemsPer x.fmt

/-- Nodes and roots of the same tile of the same sum. -/
def RedNode.sameTile (x y : RedNode) : Bool := y.tenant = x.tenant && y.ident = x.ident && y.tileSeq = x.tileSeq

/-- A part that comes again has gone into a node above it already (R204, R268). -/
def Cell.combined (k : Cell) (x : RedNode) : Bool :=
  k.sums.contains (x.tenant, x.ident, x.tileSeq) ||
  k.nodes.any (fun y => y.tenant = x.tenant && y.ident = x.ident && y.seq = x.seq && x.level < y.level &&
    y.index = x.index / 2 ^ (y.level - x.level))

/-- Tile sequences of a sum tensor that are staged (R205). -/
def Cell.staged (k : Cell) (tenant : Nat) (ident : BitVec 24) : List Nat :=
  ((k.nodes.filter (fun y => y.tenant = tenant && y.ident = ident)).map (·.tileSeq)).dedup

/-- Tile `q` lies within the window of 256 staged sequences (R205). -/
def Cell.inWindow (k : Cell) (tenant : Nat) (ident : BitVec 24) (q : Nat) : Bool :=
  match (k.staged tenant ident).min? with
  | none => true
  | some lo => q < lo + 256

/-- Key of element 0 of a sum held in core memory: such sums have identifier 0 and count tiles over all cores' slots (R83). -/
def coreSum (core slot per : Nat) : Nat := (core * 768 + slot) * per

/-- All parts of the tile of root `x` have been combined (R205): of the pieces that the REDUCE's range covers, or where this cell knows no
range (DEDUCED, log 100) of all its pieces, in the tensor's last tile of those that have come. -/
def Cell.tileWhole (k : Cell) (x : RedNode) (last : Bool) : Bool :=
  let per := elemsPer x.fmt
  let first := x.tileSeq * per
  let mine := k.nodes.filter x.sameTile
  if x.stop = 0 && last then mine.all (·.count ≤ 1)
  else
    let len := if x.stop = 0 then per else min per (x.stop - first)
    (List.range ((len + pieceElems - 1) / pieceElems)).all (fun i =>
      mine.any (fun y => y.count ≤ 1 && y.seq = first + pieceElems * i))

/-- The home raises the senders' limits as a root is written (R279): the window from the lowest sequence not yet written. -/
def State.grantParts (s : State) (c tenant : Nat) (ident : BitVec 24) (q : Nat) : State :=
  let k := s.cell c
  let lo := ((k.staged tenant ident).min?).getD (q + 1)
  let layers := k.layersOf tenant ident
  let holders := (((k.fig.active.map (·.places)).getD []).filter (fun p => p.serve && layers.contains p.layer)).map (fun p =>
    (if p.seat = 0xFFFF then s.mySeat else p.seat, p.cell))
  (holders.filter (fun h => h ≠ (s.mySeat, c))).foldl (fun s h => (s.send c 13
    { ftype := 8, dseat := h.1, dcell := h.2, tenant := tenant, origin := idScheduler c, plen := 16,
      data := pack [(1, 2), (1, 1), (1, tenant), (1, 0), (4, lo + 255), (3, ident.toNat), (5, 0)] }).1) s

/-- The roots of a tile of a sum are converted and written into the sum tensor, or into core memory (R83, R204, R206): seed and job step
count are those of the tenant's image. Their staging tiles are free again. -/
def State.writeSum (s : State) (c : Nat) (x : RedNode) : State :=
  let k := s.cell c
  let run := k.run x.tenant
  let seed := (run.image.map (·.seed)).getD 0
  let step := run.jobStep.toNat % 2 ^ 32
  let q := x.tileSeq
  let per := elemsPer x.fmt
  let roots := k.nodes.filter x.sameTile
  let s0 := s.setCell c { k with nodes := k.nodes.filter (fun y => !x.sameTile y) }
  if x.ident = 0 then
    let old := (k.core (q / 768)).slot (q % 768)
    let (y, void, sat) := rootTile old x.fmt roots seed step (per * q) old.tile.tag
    let s1 := s0.onCell c (fun k =>
      (if sat then k.markSat x.tenant [old.tile.tag.ident] else k).onCore (q / 768) (fun z => z.setSlot (q % 768) y))
    if void || (roots.any (·.sr) && old.tile.tag.ident = 0) then s1.cause c vCHECK x.tenant none else s1
  else match s0.tileAt c x.tenant x.ident q with
    | none => s0.cause c vCHECK x.tenant none
    | some (h, t, a) =>
      let k := s0.cell h
      let old : Slot := { tile := ((k.ent a).current).getD (k.tierTile t a Tile.zero), side := 0, filled := true }
      let (y, void, sat) := rootTile old t.fmt roots seed step (per * q) { old.tile.tag with ident := t.ident, seq := q, fmt := t.fmt }
      let (s1, ok) := s0.tierWrite c x.tenant x.ident q y []
      let s2 := s1.onCell c (fun k =>
        let k1 := if sat then k.markSat x.tenant [x.ident] else k
        if ok && !k1.sums.contains (x.tenant, x.ident, q) then { k1 with sums := k1.sums ++ [(x.tenant, x.ident, q)] } else k1)
      let s3 := if ok && !void then s2 else s2.cause c vCHECK x.tenant none
      s3.grantParts c x.tenant x.ident q

/-- A piece of a part enters its tree; with the last root of its tile the tile is written. What is staged takes a fast-tier tile of the
tenant (R204); without room the step voids as R159 has it. -/
def State.partPiece (s : State) (c : Nat) (x : RedNode) (last again : Bool) : State :=
  let k := s.cell c
  if again && k.combined x then s
  else
    let (l, root) := climb 64 k.nodes x
    let nodes := match root with
      | none => l
      | some r => l.filter (fun y => !(r.sameAs y)) ++ [r]
    match root.filter (fun r => { k with nodes := nodes }.tileWhole r last) with
    | some r => (s.setCell c { k with nodes := nodes }).writeSum c r
    | none =>
      if x.ident = 0 || nodes.length ≤ k.nodes.length then s.setCell c { k with nodes := nodes }
      else match k.makeRoom x.tenant [], s.tileAt c x.tenant x.ident x.tileSeq with
        | some k1, _ => s.setCell c { k1 with nodes := nodes }
        | none, some (_, t, _) => s.noRoom c t
        | none, none => s.cause c vCHECK x.tenant none

/-- Values of a tile's elements as the tree takes them (R204: exact to FP32; INT32 as they stand). -/
def partVals (code : Nat) (p : Payload) : List (BitVec 32) :=
  (List.range (elemsPer code)).map (fun i =>
    if code = fINT32 then BitVec.ofNat 32 (elemBits code p i) else bits32 (decodeVal code (elemBits code p i)))

/-- Format of a sum, and whether tile `q` is its last: the tensor's, or for a sum in core memory the record's format D; none where no
tensor holds the tile (R147). -/
def State.sumFmt (s : State) (c tenant : Nat) (ident : BitVec 24) (fmtD first : Nat) : Option (Nat × Bool) :=
  if ident = 0 then some (fmtD, false)
  else (s.tileAt c tenant ident 0).map (fun q => (q.2.1.fmt, first / elemsPer q.2.1.fmt + 1 = q.2.1.count))

/-- A part tile `x` enters the trees of its pieces; `p` says whose part it is and where it begins. DESIGN CHOICE (log 100): a partition
index at or above the partition count is no part of the sum, and the step voids with CHECK. -/
def State.partTile (s : State) (c : Nat) (p : RedNode) (x : Slot) (again : Bool) : State :=
  match s.sumFmt c p.tenant p.ident p.fmt p.seq with
  | none => s.cause c vCHECK p.tenant none
  | some (fd, last) =>
    if p.count ≤ p.index then s.cause c vCHECK p.tenant none
    else
      let code := x.tile.tag.fmt
      ((pieces pieceElems (elemsPer code / pieceElems) (partVals code x.tile.payload)).zipIdx).foldl (fun s q =>
        let y : RedNode := { p with seq := p.seq + pieceElems * q.2, vals := q.1, poison := x.tile.tag.poison, int := code = fINT32
                                    fmt := fd }
        if y.stop ≠ 0 && y.stop ≤ y.seq then s else s.partPiece c y last again) s

/-- The REDUCE record of this cell's image whose range holds element `first` of the sum tensor, and the range's end (R100). -/
def State.sumRec (s : State) (c tenant : Nat) (ident : BitVec 24) (first : Nat) : Option (OpRec × Nat) :=
  ((((s.cell c).run tenant).image.map (·.ops)).getD []).findSome? (fun o =>
    let r := readRef o.d
    let lo := r.seq * elemsPer o.fmtD
    let here := r.space = 1 || (r.space = 2 && r.cell = c && (r.own || r.seat = s.mySeat))
    if o.opcode = 7 && here && r.ident = ident && lo ≤ first && first < lo + o.m * o.n then some (o, lo + o.m * o.n) else none)

/-- Partition count of a sum for whose range the home has no REDUCE record: the figure's replica count, one rank each (R204, Table
2-14). -/
def Cell.ranks (k : Cell) : Nat := max 1 ((k.fig.active.map (·.replicas)).getD 1)

/-- The part that a frame brings, by partition index (Table 12-2); count, SR flag and range are those of the cell's own REDUCE record for
that sum, where it has one. DEDUCED (log 100): a frame carries the index alone. -/
def State.framePart (s : State) (c : Nat) (x : Frame) (y : Slot) : RedNode :=
  let first := x.tseq * elemsPer y.tile.tag.fmt
  let o := s.sumRec c x.tenant x.tensor first
  { tenant := x.tenant, ident := x.tensor, seq := first, level := 0, index := x.aux
    count := (o.map (fun q => bits q.1.param.toNat 16 16)).getD (s.cell c).ranks
    vals := [], poison := false, int := false, sr := (o.map (·.1.sr)).getD false, fmt := 0, stop := (o.map (·.2)).getD 0 }

/-- The part of a REDUCE of this cell. -/
def localPart (tenant : Nat) (ident : BitVec 24) (first index count fd stop : Nat) (sr : Bool) : RedNode :=
  { tenant := tenant, ident := ident, seq := first, level := 0, index := index, count := count, vals := [], poison := false
    int := false, sr := sr, fmt := fd, stop := stop }

/-- A part enters its trees, or waits while its tile lies beyond the window (R205). -/
def State.takePart (s : State) (c : Nat) (p : RedNode) (x : Slot) (again : Bool) : State :=
  let q := ((s.sumFmt c p.tenant p.ident p.fmt p.seq).map (fun d => p.seq / elemsPer d.1)).getD 0
  if p.ident = 0 || (s.cell c).inWindow p.tenant p.ident q then s.partTile c p x again
  else s.onCell c (fun k =>
    { k with partWait := k.partWait ++ [.part p.tenant p.ident p.seq p.index p.count p.fmt p.stop p.sr x] })

/-- A step of the tenant is over: nothing of its sums is staged, waits, or counts as written or granted any more (R205, R279). -/
def Cell.endSums (k : Cell) (t : Nat) : Cell :=
  { k with
    nodes := k.nodes.filter (fun x => x.tenant ≠ t)
    sums := k.sums.filter (fun x => x.1 ≠ t)
    partWait := k.partWait.filter (fun w => w.tenant ≠ t)
    korif := { k.korif with partLimit := k.korif.partLimit.filter (fun x => x.1 / 2 ^ 37 ≠ t) } }

/-! ## Results written (R59, R142, R309) -/

/-- A failed check value at a write into a tier or core memory: nothing is written, the step voids with CHECK (R309). -/
def State.badWrite (s : State) (c tenant core : Nat) (x : Slot) : State :=
  (s.cause c vCHECK tenant none).err c
    { cls := clsCHECKVALUE, sev := 2, unit := 1, tenant := tenant, core := core, reason := vCHECK,
      obj := x.tile.tag.ident.toNat, detail := x.tile.tag.seq }

/-- Key of a sender's limit for a sum tensor at its home (R279). -/
def partKey (tenant : Nat) (ident : BitVec 24) (seat cell : Nat) : Nat := ((tenant * 2 ^ 24 + ident.toNat) * 1024 + seat) * 8 + cell

/-- Reasons for which the gradients of a step are in doubt (R305, R306): failed checks and votes, fences, poison, supply, heat and the Safe
state. -/
def doubtReasons : List Nat := [vCHECK, vDISAGREE, vFENCE, vPOISON, vPOWER, vTHERMAL, vHALT]

/-- The tenant's step on the cell is in doubt. -/
def Cell.inDoubt (k : Cell) (t : Nat) : Bool :=
  k.step.causes.any (fun x => (x.tenant = t || x.tenant = 0xFF) && doubtReasons.contains x.code)

/-- A REDUCE part not yet sent goes poison-flagged while its step is in doubt (R305, R315). -/
def Cell.partFlag (k : Cell) (t kind : Nat) (x : Slot) : Slot :=
  if kind = 2 && k.inDoubt t then { x with tile := { x.tile with tag := { x.tile.tag with poison := true } } } else x

/-- One write of an operation at core `n` of cell `c`: `sig` is the signal that a remote tile carries. -/
def State.applyWrite (s : State) (c n tenant : Nat) (moved : Bool) (sig : Nat × Nat) (w : Write) : State :=
  match w with
  | .slot i x => if moved && !x.ok then s.badWrite c tenant n x else s.onCore c n (fun y => y.setSlot i x)
  | .tensor t id q x =>
    if !x.ok then s.badWrite c tenant n x
    else
      let (s1, ok) := s.tierWrite c t id q x []
      if ok then s1 else s1.cause c vCHECK tenant none
  | .remote seat cell t id q lane kind aux limSeq x =>
    let dst : TileTo :=
      { seat := seat, cell := cell, tenant := t, ident := id, seq := q, lane := lane, kind := kind, aux := aux,
        group := sig.1, ctr := sig.2 }
    if kind = 2 ∧ (s.cell c).korif.partLimit.get 255 (partKey t id seat cell) < limSeq then
      s.onCell c (fun k => { k with partWait := k.partWait ++ [w] })
    else
      let (s1, ok) := s.sendTile c 0 dst ((s.cell c).partFlag t kind x) false
      if ok then s1 else s1.cause c vLINK tenant none
  | .part t id q index count fd stop sr x =>
    if !x.ok then s.badWrite c tenant n x else s.takePart c (localPart t id q index count fd stop sr) x false

/-- Parts that waited and now may go: those within their limit or the window, in order (R205, R279). -/
def State.retryParts (s : State) (c : Nat) : State :=
  let l := (s.cell c).partWait
  let s1 := s.onCell c (fun k => { k with partWait := [] })
  l.foldl (fun s w => s.applyWrite c 0 w.tenant false (0xFFFF, 0xFFFF) w) s1

/-! ## MOVE (Table 3-8) -/

/-- The MOVE that waits for a request number: its core, the operation, and which of its tiles. -/
def Cell.readWait (k : Cell) (num : Nat) : Option (Nat × EngineOp × Nat) :=
  k.cores.findSome? (fun p =>
    (p.2.engine engMover).bind (fun o => (o.waits.find? (fun w => w.1 = num)).map (fun w => (p.1, o, w.2))))

/-- Request numbers that no core of the cell has out, lowest first. -/
def Cell.freeReads (k : Cell) (n : Nat) : List Nat :=
  ((List.range (n + (k.cores.map (fun p => ((p.2.engine engMover).map (·.waits.length)).getD 0)).sum)).filter
    (fun i => (k.readWait i).isNone && (k.readWait (i + 0x8000)).isNone)).take n

/-- Writes that leave the cell as frames. -/
def Write.far : Write → Bool
  | .remote _ _ _ _ _ _ _ _ _ _ => true
  | _ => false

/-- Header signal of an operation's frames (R59). -/
def OpRec.sig (o : OpRec) (group : Nat) : Nat × Nat := if o.signal then (group, o.sigCtr) else (0xFFFF, 0xFFFF)

/-- A MOVE enters the mover: its tiles for other cells leave at once, so that it can end when they are written there (R56, R59); its
writes in this cell are made when it completes. -/
def State.startMove (s : State) (v : OpEnv) (l : List Write) : State :=
  let sent := (l.filter Write.far).filterMap (fun w => match w with
    | .remote _ _ _ id q _ _ _ _ _ => some (id, q)
    | _ => none)
  let s1 := (l.filter Write.far).foldl (fun s w => s.applyWrite v.cell v.core v.tenant true (v.op.sig v.group) w) s
  (s1.startOp v engMover { writes := l.filter (fun w => !w.far) } none []).onCore v.cell v.core (fun x =>
    x.setEngine engMover ((x.engine engMover).map (fun o => { o with sent := sent })))

/-- The tiles read from a tier for a transpose-move, whose check values its result does not carry on, are verified (R25, R309). -/
def State.transposeCheck (s : State) (v : OpEnv) (l : List Slot) : State × Bool :=
  if v.op.variant ≠ 3 || (readRef v.op.a).space = 0 then (s, true)
  else match l.find? (fun x => !x.ok) with
    | none => (s, true)
    | some x => (s.badWrite v.cell v.tenant v.core x, false)

/-- A MOVE whose source tiles have been read: transposed where its variant says so, it enters the mover. -/
def State.moveRest (s : State) (v : OpEnv) (l : List Slot) : State :=
  let k := s.cell v.cell
  let paged := (k.pagedSetup v v.op.a).isSome || (k.pagedSetup v v.op.d).isSome
  let (s1, good) := s.transposeCheck v l
  let (s2, l2) := if v.op.variant ≠ 3 then (s1, l) else if paged then s1.freePages l else (s1, transposed v l)
  if !good then s1.startOp v engMover noResult none []
  else s2.startMove v ((l2.zipIdx).flatMap (fun q => s2.moveWrites v q.2 q.1))

/-- Seat and cell that a MOVE's source tiles are asked of over the ports: a space 2 source elsewhere (Table 3-8), or the holder of a shared
tensor that this cell reaches through a forwarding record (R14, R161). -/
def State.farSource (s : State) (v : OpEnv) : Option (Nat × Nat) :=
  let a := readRef v.op.a
  let seat := if a.own then s.mySeat else a.seat
  if a.space = 2 then (if seat = s.mySeat ∧ a.cell = v.cell then none else some (seat, a.cell))
  else if a.space = 1 then (((s.cell v.cell).lookup v.tenant a.ident).bind (·.1.holder)).map (fun h => (s.mySeat, h))
  else none

/-- Bit of a read request's number by which this model's mover tells the holder that the tile is moved, not copied: R155 has a move's
one-home source leave its tier and Table 12-2 gives a request no field for it. DESIGN CHOICE (log 102). -/
def moveAsk : Nat := 0x8000

/-- A MOVE whose source lies in another cell: one read request a tile, and the MOVE waits for the responses (Table 12-2, R273). -/
def State.remoteReads (s : State) (v : OpEnv) (n seat cell : Nat) : State :=
  let r := readRef v.op.a
  let tag := if v.op.variant = 1 then moveAsk else 0
  let nums := ((s.cell v.cell).freeReads n).map (· + tag)
  let s1 := s.onCore v.cell v.core (fun x => x.setEngine engMover (some
    { ctx := v.ctx, oprec := v.op, writes := [], cycles := none, reports := [], waits := nums.zip (List.range n) }))
  (nums.zipIdx).foldl (fun s q =>
    let (s2, ok) := s.send v.cell 0
      { ftype := 1, lane := 6, dseat := seat, dcell := cell, tenant := v.tenant, origin := idScheduler v.cell,
        tensor := r.ident.toNat, tkind := 3, tseq := r.seq + q.2, aux := q.1, plen := 0, data := 0 }
    if ok then s2 else s2.cause v.cell vLINK v.tenant none) s1

/-- A read response gives the MOVE that asked its tile (R273); with the last of them the MOVE goes on. A response that nobody waits for is
discarded. -/
def State.readResponse (s : State) (c : Nat) (num : Nat) (y : Slot) : State :=
  match (s.cell c).readWait num with
  | none => s
  | some (n, o, j) =>
    let o1 : EngineOp := { o with waits := o.waits.filter (fun w => w.1 ≠ num), got := o.got ++ [(j, y)] }
    let s1 := s.onCore c n (fun x => x.setEngine engMover (some o1))
    match o1.waits, (s1.cell c).opEnv c n o.ctx with
    | [], some v => s1.moveRest v ((inOrder (fun a b => a.1 ≤ b.1) o1.got).map (·.2))
    | _, _ => s1

/-- A MOVE at issue (Table 3-8); the tiles of a transpose-move from core memory are checked as at an engine's entry (R25, R308). -/
def State.moveOp (s : State) (v : OpEnv) : State :=
  let k := s.cell v.cell
  let n := moveTiles k v
  if !moveOk k v then (s.cause v.cell vCHECK v.tenant none).startOp v engMover noResult none []
  else match s.farSource v with
    | some (seat, cell) => s.remoteReads v n seat cell
    | none =>
      let (s0, good) := if v.op.variant = 3 && (readRef v.op.a).space = 0 then
          s.entryCheck v (slotRun (v.slotOf v.op.a) v.op.fmtA (v.op.m * v.op.n))
        else (s, true)
      let (s1, l, ok) := (s0.tierServed v.cell v.core).moveReads v (s0.moveBusy v n) n 0
      if !good then s0.startOp v engMover noResult none []
      else if !ok then (s1.cause v.cell vCHECK v.tenant none).startOp v engMover noResult none []
      else s1.moveRest v l

def execMove (t : Nat) (cell : Fin 8) (core : Fin 128) (s : State) : Res :=
  .next (s.run t (fun s =>
    match s.issue cell core engMover (fun o => o.opcode = 6) with
    | none => s
    | some (v, s1) => s1.moveOp v))

/-! ## Frames that bring tiles, requests, sync messages and grants -/

/-- A TILE frame by its target kind (Table 12-2, R273, R309); a read request is READ_REQUEST's. -/
def State.takeTile (s : State) (c : Nat) (x : Frame) : State :=
  if x.tkind = 3 then s
  else match frameSlot x with
    | none => s.badTile c x
    | some y =>
      if !y.ok then s.badTile c x
      else match x.tkind with
        | 0 => s.tensorTile c x y
        | 1 => s.figureBlock c x
        | 2 => (s.takePart c (s.framePart c x y) y x.resent).retryParts c
        | 4 => s.readResponse c x.aux y
        | _ => s

def execTileFrame (t : Nat) (cell : Fin 8) (port : Fin 12) (f : Frame) (s : State) : Res :=
  .next (s.run t (fun s =>
    let (s1, ok) := s.accept cell port f
    if ok && f.ftype = 1 && s.cellUp cell then s1.takeTile cell f else s1))

/-- A REDUCE part arrives (R204 to R206): a TILE frame of kind 0x2. -/
def execReducePart (t : Nat) (cell : Fin 8) (port : Fin 12) (f : Frame) (s : State) : Res :=
  .next (s.run t (fun s =>
    let (s1, ok) := s.accept cell port f
    if ok && f.ftype = 1 && f.tkind = 2 && s.cellUp cell then s1.takeTile cell f else s1))

/-- A read request is answered with the tile in the full form, with its side entry where it has a map or is of an MX tensor, its number
in the response (R273, R147); a failed lookup answers VOID with CHECK. -/
def State.takeRead (s : State) (c : Nat) (x : Frame) : State :=
  match s.tierRead c x.tenant x.tensor x.tseq (moveAsk ≤ x.aux) [] with
  | none => s.voidBack c x vCHECK
  | some (s1, y) =>
    let dst : TileTo :=
      { seat := x.sseat, cell := x.scell, tenant := x.tenant, ident := x.tensor, seq := x.tseq, lane := 7, kind := 4,
        aux := x.aux, group := 0xFFFF, ctr := 0xFFFF }
    (s1.sendTile c 0 dst y true).1

def execReadRequest (t : Nat) (cell : Fin 8) (port : Fin 12) (f : Frame) (s : State) : Res :=
  .next (s.run t (fun s =>
    let (s1, ok) := s.accept cell port f
    if ok && f.ftype = 1 && f.tkind = 3 && s.cellUp cell then s1.takeRead cell f else s1))

/-- SYNC frames: applied, held for the next step, or kept in the overflow (R274). Values outside 1 to 65,535 are discarded (Table 12-3,
R4). -/
def execSyncFrame (t : Nat) (cell : Fin 8) (port : Fin 12) (f : Frame) (s : State) : Res :=
  .next (s.run t (fun s =>
    let (s1, ok) := s.accept cell port f
    if !ok || f.ftype ≠ 2 || f.plen ≠ 4 || f.p 0 2 = 0 || !s.cellUp cell then s1 else s1.frameArrive cell f))

/-- One pass over the overflow: what the pending buffers take leaves it (R274). -/
def State.retryOvf (s : State) (c : Nat) : List Frame → State × List Frame
  | [] => (s, [])
  | a :: r =>
    match s.syncArrive { frameSync a with cell := c } with
    | some s1 => s1.retryOvf c r
    | none =>
      let (s1, l) := s.retryOvf c r
      (s1, a :: l)

/-- The overflow is retried every 100 ns; once it has room again the credits that its ports withheld fall due (R274). -/
def execSyncOverflowRetry (t : Nat) (cell : Fin 8) (s : State) : Res :=
  .next (s.run t (fun s =>
    let (s1, l) := s.retryOvf cell (s.cell cell).korif.syncOvf
    (s1.onCell cell (fun k => { k with korif := { k.korif with syncOvf := l } })).giveWithheld cell))

/-- A grant (R279): kind 0x01 raises this sender's limit for a sum tensor. Kind 0x02 goes to the Manager, which no cell is. -/
def execCreditGrant (t : Nat) (cell : Fin 8) (port : Fin 12) (f : Frame) (s : State) : Res :=
  .next (s.run t (fun s =>
    let (s1, ok) := s.accept cell port f
    if ok && f.ftype = 8 && f.p 0 1 = 2 && f.p 1 1 = 1 then
      (s1.onCell cell (fun k => { k with korif := { k.korif with
        partLimit := k.korif.partLimit.set 255 (partKey (f.p 2 1) (BitVec.ofNat 24 (f.p 8 3)) f.sseat f.scell) (f.p 4 4) } })).retryParts cell
    else s1))

end Sys2Proof.Machine
end

