-- ==== Sys2Proof/Machine/Vector.lean ====
section
/-!
DEFINITION. The vector unit: ELEMENT (Table 3-8, R94, R106, R434), REDUCE at its sender (R100, R202 to R205) and UPDATE (R215).
-/

namespace Sys2Proof.Machine

def engVector : Nat := 7

/-! ## ELEMENT (R434) -/

/-- Operand B is read: variants 0x01 to 0x04 (Table 3-14). -/
def elementB (v : OpEnv) : Bool := v.op.variant < 5

/-- Slots an ELEMENT reads. -/
def elementReads (v : OpEnv) : List Nat :=
  let n := v.op.m * v.op.n
  slotRun (v.slotOf v.op.a) v.op.fmtA n ++
  (if elementB v then slotRun (v.slotOf v.op.b) v.op.fmtB n else []) ++
  (if v.op.acc then slotRun (v.slotOf v.op.d) v.op.fmtD n else [])

/-- Element `i` of the existing D (R434); of an MX tensor with its scale, whose code 0xFF makes it NaN (R78, R91). -/
def elementOld (x : Core) (v : OpEnv) (i : Nat) : Val :=
  let d := v.slotOf v.op.d
  let y := decodeVal v.op.fmtD (x.elem d v.op.fmtD i)
  if v.op.variant = 5 && v.op.mx then
    let (r, c) := blockPlace v.op.n i
    let code := mxScale x d v.op.fmtD v.op.n r (c / 32)
    if code = 0xFF then .nan else y.scale ((code : Int) - 127)
  else y

/-- The result of element `i` before its single conversion (R434, R106). -/
def elementVal (x : Core) (v : OpEnv) (scale : Int) (i : Nat) : Val :=
  let a := decodeVal v.op.fmtA (x.elem (v.slotOf v.op.a) v.op.fmtA i)
  let b := if elementB v then decodeVal v.op.fmtB (x.elem (v.slotOf v.op.b) v.op.fmtB i) else .zero false
  let r := match v.op.variant with
    | 1 => a.add b
    | 2 => a.mul b
    | 5 => a.scale scale
    | 6 => a.scale (sval 8 v.op.param.toNat)
    | code => val32 (Config.gatedActivation code (bits32 a) (bits32 b))
  if v.op.acc then r.add (elementOld x v i) else r

/-- The scales of the existing D are needed and its side record is unfilled; missing scales are never read (R87, R434; log 98). -/
def elementMissing (x : Core) (v : OpEnv) : Bool :=
  v.op.acc && v.op.variant = 5 && v.op.mx &&
  (slotRun (v.slotOf v.op.d) v.op.fmtD (v.op.m * v.op.n)).any (fun i => !(x.slot i).filled)

/-- Exponent of an ELEMENT convert into the scaled domain (R106): sₗ where A is no gradient tensor and D is one of a layer. -/
def Cell.convertScale (k : Cell) (v : OpEnv) : Int :=
  let x := k.core v.core
  let a := (x.slot (v.slotOf v.op.a)).tile.tag.ident
  let d := (x.slot (v.slotOf v.op.d)).tile.tag.ident
  if v.op.variant = 5 && !a.getLsbD 22 then k.gradScale v.tenant d else 0

/-- Scale code of 32 elements (R94); a group of zeros is marked 256, whose byte is the code 0x00. -/
def mxCode (code : Nat) (l : List Val) : Nat :=
  if l.any (fun v => !v.finite) then 0xFF
  else
    let top := l.foldl (fun (m v : Val) => m.max v.abs) (Val.zero false)
    if top.isZero then 256
    else (max (-127) (min 127 (top.log2 - (fmtOf code).emax)) + 127).toNat

/-- The 32 elements of row `r`, group `g`. -/
def mxGroup (x : Core) (v : OpEnv) (scale : Int) (r g : Nat) : List Val :=
  (List.range 32).map (fun j => elementVal x v scale (blockIndex v.op.n r (32 * g + j)))

/-- Scale codes by group of 8 blocks and element row, in the numbering of R78. -/
def mxCodes (x : Core) (v : OpEnv) (scale : Int) : List Nat :=
  (List.range (v.op.m * v.op.n / 32)).map (fun j =>
    let g := j / 4
    mxCode v.op.fmtD (mxGroup x v scale (4 * (g / (v.op.n / 32)) + j % 4) (g % (v.op.n / 32))))

/-- Element `e` (block-major) of an MX convert: its value over its group's scale (R94). -/
def mxVal (x : Core) (v : OpEnv) (scale : Int) (codes : List Nat) (e : Nat) : Val :=
  let (r, _) := blockPlace v.op.n e
  let code := codes.getD (4 * (e / 128) + r % 4) 0
  if code = 0xFF ∨ code = 256 then .zero false else (elementVal x v scale e).scale (127 - (code : Int))

/-- The MX tiles of a convert: elements, scale bytes, and map bits set for every block of a group whose code is 0xFF (R83, R94). -/
def mxWrites (x : Core) (v : OpEnv) (scale : Int) (poison : Bool) : Result :=
  let codes := mxCodes x v scale
  let first := v.slotOf v.op.d
  let per := elemsPer v.op.fmtD
  let base := x.valWrites v first v.op.fmtD ((List.range (v.op.m * v.op.n)).map (mxVal x v scale codes)) poison
  let dress (q : Nat) (y : Slot) : Slot :=
    let mine := (codes.drop (q * (per / 32))).take (per / 32)
    let nan := (mine.zipIdx.filter (fun c => c.1 = 0xFF)).map (fun c => c.2 / 4)
    let bits := (List.range (blocksPer v.op.fmtD)).filter (fun b => nan.contains (b / 8))
    let map := bits.foldl (fun m b => m ||| (1 <<< (if v.op.fmtD = fFP4 then b / 2 else b))) (y.side.toNat % 2 ^ 256)
    { y with side := BitVec.ofNat 4096 (map + pack [(256, 0)] + pack (mine.map (fun c => (1, c))) * 2 ^ 2048) }
  { base with writes := (base.writes.zipIdx).map (fun w => match w.1 with
      | .slot i y => .slot i (dress w.2 y)
      | o => o) }

/-- An ELEMENT at issue (R434, R308). -/
def State.elementOp (s : State) (v : OpEnv) : State :=
  let (s1, ok) := s.entryCheck v (elementReads v)
  let k := s1.cell v.cell
  let x := k.core v.core
  if !ok then s1.startOp v engVector noResult none []
  else if elementMissing x v then (s1.cause v.cell vCHECK v.tenant none).startOp v engVector noResult none []
  else
    let scale := k.convertScale v
    let poison := x.poisoned (elementReads v)
    let r := if v.op.variant = 5 && v.op.mx then mxWrites x v scale poison
      else x.valWrites v (v.slotOf v.op.d) v.op.fmtD ((List.range (v.op.m * v.op.n)).map (elementVal x v scale)) poison
    s1.startOp v engVector r none []

def execElement (t : Nat) (cell : Fin 8) (core : Fin 128) (s : State) : Res :=
  .next (s.run t (fun s =>
    match s.issue cell core engVector (fun o => o.opcode = 0xA) with
    | none => s
    | some (v, s1) => s1.elementOp v))

/-! ## REDUCE (R100, R204) -/

/-- Tile `j` of the part: a slot of core memory or a tile of a tensor (R432). -/
def State.partRead (s : State) (v : OpEnv) (j : Nat) : Option (State × Slot) :=
  let r := readRef v.op.a
  if r.space = 0 then some (s, ((s.cell v.cell).core v.core).slot (v.base + r.slot + j))
  else s.tierRead v.cell v.tenant r.ident (r.seq + j) false []

/-- The part's tiles, in increasing sequence (R205); the Bool says that every read succeeded. -/
def State.partReads (s : State) (v : OpEnv) : Nat → Nat → State × List Slot × Bool
  | 0, _ => (s, [], true)
  | n + 1, j =>
    match s.partRead v j with
    | none => (s, [], false)
    | some (s1, x) =>
      let (s2, l, ok) := s1.partReads v n (j + 1)
      (s2, x :: l, ok)

/-- Where tile `j` of the part goes: to the home cell in a frame, into the tree of a tensor here, or of core memory. -/
def State.partWrite (s : State) (v : OpEnv) (j : Nat) (x : Slot) : Write :=
  let r := readRef v.op.d
  let index := bits v.op.param.toNat 0 16
  let count := bits v.op.param.toNat 16 16
  let lo := if r.space = 0 then coreSum v.core (v.base + r.slot) (elemsPer v.op.fmtD) else r.seq * elemsPer v.op.fmtD
  let first := lo + j * elemsPer v.op.fmtA
  let stop := lo + v.op.m * v.op.n
  let y : Slot := { x with tile := { x.tile with tag := { x.tile.tag with fmt := v.op.fmtA } } }
  let seat := if r.own then s.mySeat else r.seat
  if r.space = 0 then
    .part v.tenant 0 first index count v.op.fmtD stop v.op.sr y
  else if r.space = 2 ∧ ¬ (seat = s.mySeat ∧ r.cell = v.cell) then
    .remote seat r.cell v.tenant r.ident (first / elemsPer v.op.fmtA) 3 2 index (first / elemsPer v.op.fmtD) y
  else .part v.tenant r.ident first index count v.op.fmtD stop v.op.sr y

/-- A REDUCE at issue: its part is read; it enters the tree, or leaves, when the operation completes. -/
def State.reduceOp (s : State) (v : OpEnv) : State :=
  let n := tilesFor v.op.fmtA (v.op.m * v.op.n)
  let (s0, good) := if (readRef v.op.a).space = 0 then s.entryCheck v (slotRun (v.slotOf v.op.a) v.op.fmtA (v.op.m * v.op.n))
    else (s, true)
  let (s1, l, ok) := (s0.tierServed v.cell v.core).partReads v n 0
  if !good then s0.startOp v engVector noResult none []
  else if !ok then (s1.cause v.cell (s1.readFault v.cell v.tenant (readRef v.op.a).ident) v.tenant none).startOp v engVector noResult none []
  else match l.find? (fun x => !x.ok) with
  | some x => (s1.badWrite v.cell v.tenant v.core x).startOp v engVector noResult none []
  | none => s1.startOp v engVector { writes := (l.zipIdx).map (fun q => s1.partWrite v q.2 q.1) } none []

def execReduce (t : Nat) (cell : Fin 8) (core : Fin 128) (s : State) : Res :=
  .next (s.run t (fun s =>
    match s.issue cell core engVector (fun o => o.opcode = 7) with
    | none => s
    | some (v, s1) => s1.reduceOp v))

/-! ## UPDATE (R215) -/

/-- Home cell of a layer on this module, by the HOME records of a cell's active figure; none where its home is on another seat. -/
def State.homeCell (s : State) (c layer : Nat) : Option Nat :=
  ((((s.cell c).fig.active.map (·.places)).getD []).find? (fun p =>
    p.home && p.layer = layer && (p.seat = 0xFFFF || p.seat = s.mySeat))).map (·.cell)

/-- A layer named in the step: layer, variant, gradient reference, tenant. -/
abbrev Named := Nat × Nat × BitVec 64 × Nat

/-- The U-die of a cell has a layer named to it. -/
def Cell.nameLayer (k : Cell) (x : Named) : Cell :=
  { k with ud := { k.ud with named := if k.ud.named.contains x then k.ud.named else k.ud.named ++ [x] } }

/-- An UPDATE names its layer to the U-die of its home cell; the passes of the seal do the work (R208, R215). One whose home is on
another seat is that seat's: no Korif frame carries an UPDATE, and the home computes the layer itself (R197; log 104). -/
def State.updateOp (s : State) (v : OpEnv) : State :=
  let x : Named := (bits v.op.param.toNat 0 16, v.op.variant, v.op.a, v.tenant)
  let s1 := match s.homeCell v.cell x.1 with
    | some h => s.onCell h (fun k => k.nameLayer x)
    | none => s
  s1.startOp v engVector noResult none []

def execUpdate (t : Nat) (cell : Fin 8) (core : Fin 128) (s : State) : Res :=
  .next (s.run t (fun s =>
    match s.issue cell core engVector (fun o => o.opcode = 8) with
    | none => s
    | some (v, s1) => s1.updateOp v))

end Sys2Proof.Machine
end

