-- ==== Sys2Proof/Machine/TensorData.lean ====
section
/-!
DEFINITION. Tensors as the cell's own units read and write them: bytes and elements of READY tensors (element indices of R103,
block-major), which commands, plans and passes share.
-/

namespace Sys2Proof.Machine

/-- The tenant's own READY tensor with an identifier in the cell (R147); one whose FREE is pending may be used until the boundary (R152). -/
def Cell.ownTensor (k : Cell) (tenant : Nat) (ident : Nat) : Option Tensor :=
  k.tiers.dir.find? (fun t => t.tenant = tenant && t.ident = BitVec.ofNat 24 ident && t.ready && !t.ident.getLsbD 23)

/-- Current payload of tile `i` of a tensor; zero where none is held. -/
def Cell.tilePayload (k : Cell) (t : Tensor) (i : Nat) : Payload := (((k.ent (t.base + i)).current).getD Tile.zero).payload

/-- `n` bytes of a tensor from byte `off` on, as a number. -/
def Cell.tensorNat (k : Cell) (t : Tensor) (off n : Nat) : Nat :=
  let first := off / 4096
  let count := (off + n - 1) / 4096 + 1 - first
  fld (pack ((List.range count).map (fun i => (4096, (k.tilePayload t (first + i)).toNat)))) (off - 4096 * first) n

/-- Bits of element `i` of a tensor (R103). -/
def Cell.tensorElem (k : Cell) (t : Tensor) (i : Nat) : Nat :=
  elemBits t.fmt (k.tilePayload t (i / elemsPer t.fmt)) (i % elemsPer t.fmt)

/-- Elements that a tensor holds. -/
def Tensor.elems (t : Tensor) : Nat := t.count * elemsPer t.fmt

/-- A payload with `n` bytes at `off` replaced. -/
def putBytes (p : Payload) (off n data : Nat) : Payload :=
  let keep := p.toNat - (fld p.toNat off n) * 2 ^ (8 * off)
  BitVec.ofNat 32768 (keep + data % 2 ^ (8 * n) * 2 ^ (8 * off))

/-- A tile with its check value made anew (R142). -/
def Slot.recheck (x : Slot) : Slot := { x with tile := x.tile.recheck }

/-- Bytes `off` to `off + n − 1` of one tile `i` of a tensor are written through the mover; POISON stays (R167), and bound state is
refused (Table 10-2). False where the write is not performed. -/
def State.pokeTile (s : State) (c tenant : Nat) (ident : BitVec 24) (i off n data : Nat) : State × Bool :=
  match s.tileAt c tenant ident i with
  | none => (s, false)
  | some (h, t, a) =>
    let k := s.cell h
    let old := ((k.ent a).current).getD (k.tierTile t a Tile.zero)
    let side := if t.hasSide then
        sideEntry (((k.ent (t.base + t.count + i / 8)).current).getD Tile.zero) (i % 8) else 0
    let y : Slot := { tile := { old with payload := putBytes old.payload off n data }, side := side, filled := t.hasSide }
    s.tierWrite c tenant ident i y.recheck []

/-- Bytes of a tensor are written tile by tile: `count` tiles from the one that holds `off`. -/
def State.pokeFrom : Nat → State → Nat → Nat → BitVec 24 → Nat → Nat → Nat → State × Bool
  | 0, s, _, _, _, _, _, _ => (s, true)
  | fuel + 1, s, c, tenant, ident, off, n, data =>
    if n = 0 then (s, true)
    else
      let room := min n (4096 - off % 4096)
      let (s1, ok) := s.pokeTile c tenant ident (off / 4096) (off % 4096) room data
      let (s2, ok2) := State.pokeFrom fuel s1 c tenant ident (off + room) (n - room) (data >>> (8 * room))
      (s2, ok && ok2)

/-- `n` bytes of a tensor from byte `off` on take the bytes of `data`; false where some tile's write is not performed. -/
def State.poke (s : State) (c tenant ident off n data : Nat) : State × Bool :=
  State.pokeFrom (n / 4096 + 2) s c tenant (BitVec.ofNat 24 ident) off n data

/-- Words (INT32 or FP32) of a tensor from element `e` on are written. -/
def State.pokeWords (s : State) (c tenant ident e : Nat) (ws : List Nat) : State × Bool :=
  s.poke c tenant ident (4 * e) (4 * ws.length) (pack (ws.map (fun w => (4, w))))

end Sys2Proof.Machine
end

