-- ==== Sys2Proof/Machine/Image.lean ====
section
/-!
DEFINITION. Task images (03): reading one from its bytes (R55, Tables 3-2 to 3-9), the checks of R61 in their order (Table 3-10),
and the deal (R63, R115).
-/

namespace Sys2Proof.Machine

/-! ## Reading an image -/

/-- Counts of the header: groups, threads, operation records, layer records. -/
def imgG (v : Nat) : Nat := fld v 0x12 2
def imgT (v : Nat) : Nat := fld v 0x14 4
def imgP (v : Nat) : Nat := fld v 0x18 4
def imgL (v : Nat) : Nat := fld v 0x1C 2

def imgT0 (v : Nat) : Nat := 64 + 8 * imgG v
def imgP0 (v : Nat) : Nat := imgT0 v + 16 * imgT v
def imgL0 (v : Nat) : Nat := imgP0 v + 48 * imgP v

/-- Total length (R55). -/
def imgLen (v : Nat) : Nat := imgL0 v + 8 * imgL v

def readGroup (v o : Nat) : GroupRec := { threads := fld v o 2, counters := fld v (o + 2) 2 }

def readThread (v o : Nat) : ThreadDesc :=
  { first := fld v o 4, count := fld v (o + 4) 2, chain := fld v (o + 6) 1, startCtr := fld v (o + 8) 2, startThr := fld v (o + 0xC) 4 }

def readOp (v o : Nat) : OpRec :=
  { opcode := fld v o 1, variant := fld v (o + 1) 1, flags := BitVec.ofNat 16 (fld v (o + 2) 2), fmtA := fld v (o + 4) 1,
    fmtB := fld v (o + 5) 1, fmtD := fld v (o + 6) 1, sigCtr := fld v (o + 7) 1, a := BitVec.ofNat 64 (fld v (o + 8) 8),
    b := BitVec.ofNat 64 (fld v (o + 0x10) 8), d := BitVec.ofNat 64 (fld v (o + 0x18) 8), m := fld v (o + 0x20) 4,
    n := fld v (o + 0x24) 4, k := fld v (o + 0x28) 4, param := BitVec.ofNat 32 (fld v (o + 0x2C) 4) }

def readLayer (v o : Nat) : LayerRec :=
  { layer := fld v o 2, role := fld v (o + 2) 1, expert := fld v (o + 3) 1, tensor := fld v (o + 4) 3 }

/-- The image that the bytes of `v` spell. -/
def readImage (v : Nat) : Image :=
  { level := fld v 6 1, phase := fld v 7 1, ident := BitVec.ofNat 64 (fld v 8 8), tenant := fld v 0x10 1,
    stepLimit := fld v 0x20 8, seed := BitVec.ofNat 64 (fld v 0x28 8), figure := BitVec.ofNat 64 (fld v 0x30 8),
    groups := (List.range (imgG v)).map (fun i => readGroup v (64 + 8 * i))
    threads := (List.range (imgT v)).map (fun i => readThread v (imgT0 v + 16 * i))
    ops := (List.range (imgP v)).map (fun i => readOp v (imgP0 v + 48 * i))
    layers := (List.range (imgL v)).map (fun i => readLayer v (imgL0 v + 8 * i)) }

/-! ## Formats, levels, variants (R54, Table 3-8) -/

/-- Formats of Table 5-1 that an image may name (R54). -/
def imgFormats : List Nat := tileFormats

def floatFormats : List Nat := [0x01, 0x02, 0x03, 0x04, 0x05, 0x08, 0x09, 0x0C]
def scoreFormats : List Nat := [fBF16, fFP16, fFP32]
def mxFormats : List Nat := [fFP4, fE3M2, fE2M3, fE4M3, fE5M2]

/-- Variants of each opcode (Table 3-8). -/
def variantsOf (op : Nat) : List Nat :=
  match op with
  | 1 => [0, 1]
  | 2 => [1, 2, 3, 4, 5, 6]
  | 3 => [1, 2, 3, 4]
  | 4 => [1, 2]
  | 5 => [1, 2]
  | 6 => [1, 2, 3, 4]
  | 7 => [1]
  | 8 => [1, 2]
  | 9 => [1, 2, 3]
  | 10 => [1, 2, 3, 4, 5, 6]
  | _ => []

/-- Contract level of a format (Table 3-1): 1 A, 2 B, 3 C. -/
def fmtLevel (code : Nat) : Nat :=
  if [0x01, 0x02, 0x03].contains code then 3 else if [0x04, 0x05].contains code then 2 else 1

/-- Lowest contract level that has the record's operation, variant, formats and flags (R54). -/
def OpRec.level (o : OpRec) : Nat :=
  let v := if (o.opcode = 1 ∧ o.variant = 1) ∨ (o.opcode = 8 ∧ o.variant = 2) then 3
    else if (o.opcode = 3 ∧ o.variant = 4) ∨ (o.opcode = 4 ∧ o.variant = 2) then 2 else 1
  max v (max (max (fmtLevel o.fmtA) (fmtLevel o.fmtB)) (max (fmtLevel o.fmtD) (if o.map || o.mx then 2 else 1)))

/-! ## Reserved fields (R4, R61 step 5) -/

/-- A reference has a reserved bit set (Table 3-7). -/
def refReserved (w : BitVec 64) : Bool :=
  let v := w.toNat
  match bits v 62 2 with
  | 0 => bits v 20 42 ≠ 0
  | 1 => bits v 44 18 ≠ 0
  | 2 => bits v 58 4 ≠ 0
  | _ => false

def OpRec.reserved (o : OpRec) : Bool :=
  o.flags.toNat / 256 ≠ 0 || refReserved o.a || refReserved o.b || refReserved o.d ||
  (o.opcode = 2 && bits o.param.toNat 24 7 ≠ 0) || (o.opcode = 3 && bits o.param.toNat 12 4 ≠ 0)

/-- Some reserved field of the image is not zero. -/
def imgReserved (v : Nat) (img : Image) : Bool :=
  fld v 0x11 1 ≠ 0 || fld v 0x1E 2 ≠ 0 || fld v 0x38 8 ≠ 0 ||
  (List.range (imgG v)).any (fun i => fld v (64 + 8 * i + 4) 4 ≠ 0) ||
  (List.range (imgT v)).any (fun i => fld v (imgT0 v + 16 * i + 7) 1 ≠ 0 || fld v (imgT0 v + 16 * i + 0xA) 2 ≠ 0) ||
  img.ops.any OpRec.reserved ||
  (List.range (imgL v)).any (fun i => fld v (imgL0 v + 8 * i + 7) 1 ≠ 0)

/-! ## Operation records (R57, R58, R432, R433, Table 3-14) -/

def refSpace (w : BitVec 64) : Nat := bits w.toNat 62 2

/-- A used operand in core memory fits a share of `span` slots (R57); `none` for a record that no thread runs. -/
def fits (span : Option Nat) (w : BitVec 64) (code n : Nat) : Bool :=
  refSpace w = 0 &&
  match span with
  | none => (readRef w).slot < 768
  | some sp => (readRef w).slot + tilesFor code n ≤ sp

/-- A used extent is a multiple of 4 and at least 4 (R432). -/
def extOk (n : Nat) : Bool := 4 ≤ n && n % 4 = 0

/-- Two runs of slots have one in common. -/
def overlap (a na b nb : Nat) : Bool := a < b + nb && b < a + na

/-- A PRODUCT breaks no rule but LONG (Table 3-8, R73, R75, R78, R91, Table 4-4). -/
def productOk (o : OpRec) (span : Option Nat) : Bool :=
  let w := o.param.toNat
  let pair := (o.fmtA = fINT8 && o.fmtB = fINT8 && o.fmtD = fINT32) ||
    ([1, 2, 3, 4, 5, 8, 9].contains o.fmtA && [1, 2, 3, 4, 5, 8, 9].contains o.fmtB && scoreFormats.contains o.fmtD)
  let mxOk := !o.mx || (mxFormats.contains o.fmtA && mxFormats.contains o.fmtB && o.k % 32 = 0 && !o.ta && o.tb)
  let pageOk := o.variant = 0 || (bits w 0 2 ≠ 3 && ((bits w 0 2 = 1) = (bits w 13 19 ≠ 0)))
  let d := (readRef o.d).slot
  let nd := tilesFor o.fmtD (o.m * o.n)
  extOk o.m && extOk o.n && extOk o.k && pair && mxOk && pageOk && fits span o.a o.fmtA (o.m * o.k) &&
  fits span o.b o.fmtB (o.k * o.n) && fits span o.d o.fmtD (o.m * o.n) &&
  !overlap d nd (readRef o.a).slot (tilesFor o.fmtA (o.m * o.k)) && !overlap d nd (readRef o.b).slot (tilesFor o.fmtB (o.k * o.n))

/-- An unused operand is all ones, and an unused A or B has format 0x00 (R433). -/
def unusedB (o : OpRec) : Bool := o.b = refNone && o.fmtB = 0
def unusedA (o : OpRec) : Bool := o.a = refNone && o.fmtA = 0

/-- A format field whose operand no rule gives a format: empty, or a format that an image may name (R54; DESIGN CHOICE, log 94). -/
def anyFormat (code : Nat) : Bool := code = 0 || imgFormats.contains code

/-- A ROW (Tables 6-1, 6-2, R116, R120). DESIGN CHOICE (log 94): no rule restricts D of a ROW, nor A and B of a normalisation, and the
model takes floating formats there alone; the format of a mask record, and that of a B which is space 3, is any that R54 allows. -/
def rowOk (o : OpRec) (span : Option Nat) : Bool :=
  let w := o.param.toNat
  let e := bits w 16 8
  let soft := o.variant ≤ 2
  let forward := o.variant % 2 = 1
  let noB := o.b = refNone
  extOk o.m && extOk o.n && o.k = 0 && (if soft then scoreFormats else floatFormats).contains o.fmtA &&
  floatFormats.contains o.fmtD && (if soft then e = 0 else e ≤ 126) && fits span o.a o.fmtA (o.m * o.n) &&
  fits span o.d o.fmtD (o.m * o.n) &&
  (if !forward then floatFormats.contains o.fmtB && fits span o.b o.fmtB (o.m * o.n)
   else if soft then anyFormat o.fmtB && (noB || (!bit w 31 && fits span o.b fINT8 1))
   else (noB && anyFormat o.fmtB) || (floatFormats.contains o.fmtB && fits span o.b o.fmtB (4 * o.n)))

/-- A ROUTE (Table 6-5, R125, R127, R128). -/
def routeOk (o : OpRec) (span : Option Nat) : Bool :=
  let w := o.param.toNat
  let kk := bits w 0 4
  let e1 := bits w 4 8
  let c := bits w 16 16
  let ec := (e1 + 1) * c
  extOk o.m && extOk o.n && o.k = 0 && 1 ≤ kk && kk ≤ 8 &&
  (if o.variant = 1 ∨ o.variant = 4 then
     unusedB o && scoreFormats.contains o.fmtA && o.fmtD = fINT32 && o.n ≤ 256 && kk ≤ o.n && e1 = 0 &&
     (o.variant = 1 || 1 ≤ c) && fits span o.a o.fmtA (o.m * o.n) && fits span o.d fINT32 (o.m * 16)
   else
     1 ≤ c && o.fmtB = fINT32 && fits span o.b fINT32 (o.m * 16) && imgFormats.contains o.fmtA && imgFormats.contains o.fmtD &&
     (if o.variant = 2 then o.fmtD = o.fmtA && fits span o.a o.fmtA (o.m * o.n) && fits span o.d o.fmtD (ec * o.n)
      else fits span o.a o.fmtA (ec * o.n) && fits span o.d o.fmtD (o.m * o.n)))

/-- A SAMPLE (R130, R134, Table 6-7). -/
def sampleOk (o : OpRec) (span : Option Nat) : Bool :=
  let l := bits o.param.toNat 0 8
  let r := if o.variant = 2 then 4 * ((l + 4) / 4) else 1
  extOk o.m && extOk o.n && o.k = 0 && scoreFormats.contains o.fmtA && o.fmtB = fINT32 && o.fmtD = fINT32 &&
  o.n ≤ 1048576 && (o.variant = 1 || (1 ≤ l && l ≤ 8 && o.m % r = 0)) && fits span o.a o.fmtA (o.m * o.n) &&
  fits span o.b fINT32 (o.m / r * 16) && fits span o.d fINT32 (o.m * 4)

/-- A MASK (R105, R137 to R139). -/
def maskOk (o : OpRec) (span : Option Nat) : Bool :=
  extOk o.m && extOk o.n && o.k = 0 && unusedA o && unusedB o && 0x100 ≤ bits o.param.toNat 0 16 &&
  (if o.variant = 1 then [fINT8, fBF16, fFP16, fFP32] else [fINT32]).contains o.fmtD && fits span o.d o.fmtD (o.m * o.n)

/-- A MOVE (Table 3-8); those of generation images with a space 1 operand are checked at run time (R187). -/
def moveLoadOk (o : OpRec) (gen : Bool) (span : Option Nat) : Bool :=
  let a := refSpace o.a
  let d := refSpace o.d
  let later := gen && (a = 1 || d = 1)
  let pair := (a = 0 && (d = 1 || d = 2)) || (d = 0 && (a = 1 || a = 2)) || (a = 1 && d = 1)
  let own (w : BitVec 64) := refSpace w ≠ 2 || !(readRef w).own || (readRef w).seat = 0
  unusedB o && imgFormats.contains o.fmtA && o.fmtD = o.fmtA && pair && own o.a && own o.d &&
  (later || (extOk o.m && extOk o.n && o.k = 0 && (a ≠ 0 || fits span o.a o.fmtA (o.m * o.n)) &&
    (d ≠ 0 || fits span o.d o.fmtA (o.m * o.n))))

/-- A REDUCE (Table 3-8, R100). -/
def reduceOk (o : OpRec) (span : Option Nat) : Bool :=
  let w := o.param.toNat
  let a := refSpace o.a
  let d := refSpace o.d
  extOk o.m && extOk o.n && o.k = 0 && unusedB o && imgFormats.contains o.fmtA && imgFormats.contains o.fmtD &&
  1 ≤ bits w 16 16 && bits w 0 16 < bits w 16 16 && a ≤ 1 && d ≤ 2 &&
  (d ≠ 2 || !(readRef o.d).own || (readRef o.d).seat = 0) &&
  (a ≠ 0 || fits span o.a o.fmtA (o.m * o.n)) && (d ≠ 0 || fits span o.d o.fmtD (o.m * o.n))

/-- An UPDATE (Table 3-14). The format of its unused result is any that R54 allows (log 94). -/
def updateOk (o : OpRec) : Bool :=
  anyFormat o.fmtD && o.m = 0 && o.n = 0 && o.k = 0 && refSpace o.a = 1 && imgFormats.contains o.fmtA && unusedB o && o.d = refNone

/-- A SYNC (Tables 3-7, 3-8) of an image loaded at cell `c`. The formats of its counters are any that R54 allows (log 94). -/
def syncOk (o : OpRec) (c : Nat) : Bool :=
  let tgt (w : BitVec 64) := refSpace w = 2 && bits w.toNat 32 12 = 0 && (!(readRef w).own || (readRef w).seat = 0)
  let signal := o.variant = 1 || o.variant = 3
  let wait := o.variant = 2 || o.variant = 3
  anyFormat o.fmtA && anyFormat o.fmtD && o.m = 0 && o.n = 0 && o.k = 0 && unusedB o &&
  (if signal then tgt o.a && 1 ≤ bits o.param.toNat 0 16 else unusedA o) &&
  (if wait then tgt o.d && (readRef o.d).own && (readRef o.d).cell = c else o.d = refNone)

/-- An ELEMENT (R94, R434). -/
def elementOk (o : OpRec) (span : Option Nat) : Bool :=
  extOk o.m && extOk o.n && o.k = 0 && imgFormats.contains o.fmtA && imgFormats.contains o.fmtD &&
  fits span o.a o.fmtA (o.m * o.n) && fits span o.d o.fmtD (o.m * o.n) &&
  (if o.variant ≤ 4 then imgFormats.contains o.fmtB && fits span o.b o.fmtB (o.m * o.n) else unusedB o) &&
  (!(o.variant = 5 && o.mx) || (mxFormats.contains o.fmtD && o.n % 32 = 0))

/-- Status of one record under steps 6 and 7 of R61 but for its level: 0x07 OPERAND, 0x08 LONG, 0 none. -/
def OpRec.loadStatus (o : OpRec) (gen : Bool) (c : Nat) (span : Option Nat) : Nat :=
  let used (w : BitVec 64) := refSpace w ≠ 3 || w = refNone
  if !(variantsOf o.opcode).contains o.variant || !(used o.a && used o.b && used o.d) then 0x07
  else
    let good := match o.opcode with
      | 1 => productOk o span
      | 2 => rowOk o span
      | 3 => routeOk o span
      | 4 => sampleOk o span
      | 5 => maskOk o span
      | 6 => moveLoadOk o gen span
      | 7 => reduceOk o span
      | 8 => updateOk o
      | 9 => syncOk o c
      | _ => elementOk o span
    if !good then 0x07
    else if o.opcode = 1 && 65536 < o.k && !o.long then 0x08
    else 0

/-! ## The deal (R63, R115) -/

/-- Groups placed on cores in order: each goes to the core with the most free contexts among those with room, the lowest on a
tie. Cores are (core, contexts used, counters used). -/
def dealGroups : List GroupRec → List (Nat × Nat × Nat) → List (Option Placement)
  | [], _ => []
  | g :: gs, cs =>
    let room := cs.filter (fun x => x.2.1 + g.threads ≤ 4096 && x.2.2 + g.counters ≤ 256)
    match room.foldl (fun (best : Option (Nat × Nat × Nat)) x =>
        match best with
        | none => some x
        | some b => if x.2.1 < b.2.1 then some x else best) none with
    | none => none :: dealGroups gs cs
    | some x =>
      some { core := x.1, ctr := x.2.2, ctx := x.2.1 } ::
        dealGroups gs (cs.map (fun y => if y.1 = x.1 then (y.1, y.2.1 + g.threads, y.2.2 + g.counters) else y))

def deal (gs : List GroupRec) (cores : List Nat) : List (Option Placement) := dealGroups gs (cores.map (fun n => (n, 0, 0)))

/-- First thread of each group. -/
def groupStarts (gs : List GroupRec) : List Nat := ((gs.foldl (fun (acc : List Nat × Nat) g => (acc.1 ++ [acc.2], acc.2 + g.threads)) ([], 0))).1

/-- Threads of group `i`, as indices. -/
def Image.threadsOf (img : Image) (i : Nat) : List Nat :=
  let first := (groupStarts img.groups).getD i 0
  (List.range ((img.groups[i]?.map (·.threads)).getD 0)).map (first + ·)

/-- Group of a thread. -/
def Image.groupOf (img : Image) (t : Nat) : Nat := (((groupStarts img.groups).filter (fun a => a ≤ t)).length) - 1

/-- Records of a thread. -/
def Image.opsOf (img : Image) (t : Nat) : List OpRec :=
  match img.threads[t]? with
  | none => []
  | some d => (img.ops.drop d.first).take d.count

/-- Forward rows with REUSE clear of a group (R115). -/
def Image.forwardRows (img : Image) (i : Nat) : Nat :=
  ((img.threadsOf i).map (fun t => (((img.opsOf t).filter (fun o =>
    o.opcode = 2 && o.variant % 2 = 1 && !o.param.getLsbD 31)).map (·.m)).sum)).sum

/-- A deal on the first `n` of the tenant's cores places everything within the side memory of R115; `spare` are unassigned slots
of each core. -/
def dealFits (img : Image) (n : Nat) (spare : List Nat) : Bool :=
  let d := deal img.groups (List.range n)
  d.all (·.isSome) &&
  (List.range n).all (fun core =>
    let rows := (((d.zipIdx).filter (fun p => p.1.map (·.core) = some core)).map (fun p => img.forwardRows p.2)).sum
    rows ≤ 32768 + 512 * (if n = spare.length then spare.getD core 0 else spare.min?.getD 0))

/-- R63 at load: the deals for n, n − 1 and n − 2 cores, but none for fewer than one. -/
def capacityOk (img : Image) (spare : List Nat) : Bool :=
  let n := spare.length
  ([n, n - 1, n - 2].filter (fun m => 1 ≤ m)).all (fun m => dealFits img m spare) && 1 ≤ n

/-! ## The checks of R61 -/

/-- Header and group fields within Tables 3-2 and 3-3 (step 2). -/
def formatOk (v : Nat) (img : Image) : Bool :=
  fld v 0 4 = 0x4B535456 && fld v 4 2 = 1 && (img.phase = 1 || img.phase = 2) && img.tenant ≤ 63 && 1 ≤ imgG v &&
  1 ≤ imgT v && imgT v ≤ 524288 && 1 ≤ imgP v && imgP v ≤ 1048576 && 1000 ≤ img.stepLimit && img.stepLimit ≤ 10000000000 &&
  img.groups.all (fun g => 1 ≤ g.threads && g.threads ≤ 4096 && g.counters ≤ 256) &&
  (img.groups.map (·.threads)).sum = imgT v

/-- Clusters that hold a core of the tenant. -/
def TenantRec.clusters (r : TenantRec) : List Nat := (r.coreList.map clusterOf).dedup

/-- Slots of a chain that every cluster of the tenant has: the smallest share; none where some cluster lacks the chain. -/
def Figure.share (f : Figure) (r : TenantRec) (chain : Nat) : Option Nat :=
  let l := r.clusters.map (fun cl => f.chainSlots cl chain)
  if l.all (·.isSome) then (l.filterMap id).min? else none

/-- A thread descriptor agrees with its table and its group (step 7). -/
def threadOk (f : Figure) (r : TenantRec) (img : Image) (g : GroupRec) (t : ThreadDesc) : Bool :=
  1 ≤ t.count && t.first + t.count ≤ img.ops.length && t.chain ≤ 7 && (f.share r t.chain).isSome &&
  (t.startCtr = 0xFFFF || t.startCtr < g.counters)

/-- A layer record lies within Table 3-9: its layer stands in the figure's PLACE section. -/
def layerOk (f : Figure) (l : LayerRec) : Bool :=
  f.places.any (fun p => p.layer = l.layer) && 1 ≤ l.role && l.role ≤ 0x0D && ((6 ≤ l.role && l.role ≤ 8) || l.expert = 0)

/-- Threads that run record `i`: their group and their descriptor. -/
def Image.runners (img : Image) (i : Nat) : List (Nat × ThreadDesc) :=
  ((img.threads.zipIdx).filter (fun t => t.1.first ≤ i && i < t.1.first + t.1.count)).map (fun t => (img.groupOf t.2, t.1))

/-- Status of record `i` against every thread that runs it (R57, R61 step 7). -/
def recordStatus (f : Figure) (r : TenantRec) (img : Image) (c i : Nat) (o : OpRec) : Nat :=
  let rs := img.runners i
  let spans := if rs.isEmpty then [none] else ((rs.map (fun x => x.2.chain)).dedup).map (fun ch => f.share r ch)
  let l := spans.map (fun sp => o.loadStatus (img.phase = 1) c sp)
  let sig := o.signal && rs.any (fun x => ((img.groups[x.1]?.map (·.counters)).getD 0) ≤ o.sigCtr)
  if l.contains 7 || sig then 7 else if l.contains 8 then 8 else 0

/-- Step 7: threads, then operation records, then layer records; 0 for none. -/
def bodyStatus (f : Figure) (r : TenantRec) (img : Image) (c : Nat) : Nat :=
  let threadsOk := (img.groups.zipIdx).all (fun g => (img.threadsOf g.2).all (fun t =>
    match img.threads[t]? with
    | none => false
    | some d => threadOk f r img g.1 d))
  if !threadsOk then 7
  else match ((img.ops.zipIdx).map (fun o => recordStatus f r img c o.2 o.1)).find? (· ≠ 0) with
    | some st => st
    | none => if img.layers.all (layerOk f) then 0 else 7

/-- The status with which the cell scheduler ends LOAD IMAGE of bytes `v` (of length `len`) named for `tenant` (R61, Table
3-10); `mine` says that the submitter may name the tenant, `carried` is the figure identifier of a carried image. -/
def imageStatus (f : Option Figure) (c len v tenant : Nat) (mine : Bool) (carried : Option (BitVec 64)) (table : Nat) : Nat :=
  let img := readImage v
  if len < 64 || 67108864 < len || imgLen v ≠ len then 0x01
  else if !formatOk v img then 0x02
  else match f, f.bind (fun f => f.tenantRec tenant) with
    | some f, some r =>
      if !mine || img.tenant ≠ tenant || !(if img.phase = 1 then r.gen else r.learn) || img.phase ≠ f.phase then 0x03
      else if img.figure ≠ f.ident && some img.figure ≠ carried then 0x04
      else if imgReserved v img then 0x05
      else if img.level < 1 || 3 < img.level || table < img.level || img.ops.any (fun o => img.level < o.level) then 0x06
      else
        let st := bodyStatus f r img c
        if st ≠ 0 then st
        else if !(img.layers.map (·.tensor)).Nodup then 0x09
        else if !capacityOk img (r.coreList.map (fun n => f.freeSlots (clusterOf n))) then 0x0A
        else 0
    | _, _ => 0x03

end Sys2Proof.Machine
end

