-- ==== Sys2Proof/Machine/Layers.lean ====
section
/-!
DEFINITION. Layers as the update die sees them: the parameter vector of a layer (R216), bindings in force (R218), freezing (R229),
update scales and bands (R31, R107, R226, R250), the gradient sum an UPDATE names, poisoned state (R238).
-/

namespace Sys2Proof.Machine

/-! ## The parameter vector (R216) -/

/-- A weight tensor of a layer: its first element and first row in the layer, its columns and rows. -/
structure Part where
  tensor : Tensor
  first  : Nat
  row    : Nat
  cols   : Nat
  rows   : Nat
  deriving DecidableEq, Repr

/-- Columns of a weight tensor: the extent N of the image's first MOVE that reads it, else a value no record states (log 25). -/
def Cell.columnsOf (k : Cell) (tenant : Nat) (ident : BitVec 24) : Nat :=
  let ops := ((k.run tenant).image.map (·.ops)).getD []
  match ops.find? (fun o => o.opcode = 6 && (readRef o.a).space = 1 && (readRef o.a).ident = ident && 4 ≤ o.n && o.n % 4 = 0) with
  | some o => o.n
  | none => 4 * (Config.tensorColumns tenant ident.toNat + 1)

/-- Rows of `n` elements in blocks of 4 by 4 with `cols` columns (R74). -/
def rowCount (n cols : Nat) : Nat := 4 * ((n / 16 + cols / 4 - 1) / (cols / 4))

/-- Tensors one after the other, in record order, each from a tile boundary on (R216). -/
def layParts (k : Cell) (tenant : Nat) : List Tensor → Nat → Nat → List Part
  | [], _, _ => []
  | t :: r, first, row =>
    let cols := k.columnsOf tenant t.ident
    let rows := rowCount t.elems cols
    { tensor := t, first := first, row := row, cols := cols, rows := rows } :: layParts k tenant r (first + t.elems) (row + rows)

/-- The weight tensors that the current image's layer records name for a layer (R216). -/
def Cell.partsOf (k : Cell) (tenant layer : Nat) : List Part :=
  let recs := (((k.run tenant).image.map (·.layers)).getD []).filter (fun r => r.layer = layer)
  layParts k tenant (recs.filterMap (fun r => k.ownTensor tenant r.tensor)) 0 0

def partElems (l : List Part) : Nat := (l.map (·.tensor.elems)).sum
def partRows (l : List Part) : Nat := (l.map (·.rows)).sum

/-- The part that holds element `e` of the layer. -/
def partAt (l : List Part) (e : Nat) : Option Part := l.find? (fun p => p.first ≤ e && e < p.first + p.tensor.elems)

/-- Row of element `e`, counting the rows of each weight tensor in turn (R216). -/
def rowOf (l : List Part) (e : Nat) : Nat :=
  match partAt l e with
  | none => 0
  | some p => p.row + (blockPlace p.cols (e - p.first)).1

/-! ## Bindings (R218) -/

def UDie.bindOf (u : UDie) (layer : Nat) : Option Binding := u.binds.find? (fun b => b.layer = layer)

/-- Pending bindings whose effective step has come replace those in force (R218). -/
def UDie.promote (u : UDie) (tenant : Nat) (jobStep : BitVec 64) : UDie :=
  let due (b : Binding) : Bool := b.tenant = tenant && b.fromStep.toNat ≤ jobStep.toNat % 2 ^ 32
  let now := u.pendBinds.filter due
  { u with binds := u.binds.filter (fun b => !now.any (fun x => x.layer = b.layer)) ++ now,
           pendBinds := u.pendBinds.filter (fun b => !due b) }

/-! ## Freezing, scales, bands (R229, R250, R31) -/

def UDie.whole (u : UDie) (layer : Nat) : Bool := u.freeze.any (fun r => r.layer = layer && r.whole)

def UDie.rowFrozen (u : UDie) (layer row : Nat) : Bool :=
  u.freeze.any (fun r => r.layer = layer && !r.whole && r.first ≤ row && row < r.first + r.count)

/-- Ratio band of a layer; the default is 1·10⁻⁷ to 1·10⁻² (R31). -/
def UDie.band (u : UDie) (layer : Nat) : Val × Val :=
  match u.updateRec layer with
  | some r => (val32 r.low, val32 r.high)
  | none => (val32 0x33D6BF95#32, val32 0x3C23D70A#32)

/-! ## The gradient sum -/

/-- Format and element bits of a gradient sum from the tile its reference names on (R216); none where it is not READY or too short. -/
def Cell.gradOf (k : Cell) (tenant : Nat) (ref : BitVec 64) (n : Nat) : Option (Nat × List Nat) :=
  let r := readRef ref
  match k.ownTensor tenant r.ident.toNat with
  | none => none
  | some t =>
    let first := r.seq * elemsPer t.fmt
    if t.elems < first + n then none
    else some (t.fmt, (List.range n).map (fun i => k.tensorElem t (first + i)))

/-- Some tile of the gradient sum is poisoned (R206). -/
def Cell.gradPoison (k : Cell) (tenant : Nat) (ref : BitVec 64) : Bool :=
  match k.ownTensor tenant (readRef ref).ident.toNat with
  | none => false
  | some t => (List.range t.count).any (fun i => (((k.ent (t.base + i)).current).map (·.tag.poison)).getD false)

/-- The largest of a list of values that are not NaN. -/
def topAbs (l : List Val) : Val := l.foldl (fun (m v : Val) => m.max v.abs) (.zero false)

/-- sₗ for the next step from the gradient sum's values in format `code` (R107). -/
def nextScaleOf (code : Nat) (s : Int) (saturated : Bool) (l : List Val) : Int :=
  let x := if saturated || l.any (fun v => !v.finite) then s - 4
    else if l.all (·.isZero) then s
    else s + ((fmtOf code).emax - 4 - (topAbs l).log2)
  max (-64) (min 63 x)

/-- Layers named in the step for a tenant, once each, in increasing layer identifier (R220). -/
def UDie.namedFor (u : UDie) (tenant : Nat) : List (Nat × Nat × BitVec 64 × Nat) :=
  let mine := u.named.filter (fun x => x.2.2.2 = tenant)
  ((inOrder (· ≤ ·) ((mine.map (·.1)).dedup)).filterMap (fun l => mine.find? (fun x => x.1 = l)))

/-- Elements of a layer: its layout's, or those of its gradient sum while no image lays it out. -/
def Cell.layerElems (k : Cell) (tenant layer : Nat) : Nat := partElems (k.partsOf tenant layer)

/-- Gradient tensors of a layer: those of its weight tensors in a cell's image (R101), and the sums that UPDATEs name for it (R107). -/
def Cell.gradIds (k : Cell) (tenant layer : Nat) : List (BitVec 24) :=
  ((((k.run tenant).image.map (·.layers)).getD []).filter (fun r => r.layer = layer)).map (fun r => BitVec.ofNat 24 (r.tensor + 0x400000)) ++
  (k.ud.named.filter (fun x => x.1 = layer && x.2.2.2 = tenant)).map (fun x => (readRef x.2.2.1).ident)

/-- A conversion saturated in the layer's gradient on some cell of the group (R107, R226). -/
def State.saturatedOn (s : State) (cells : List Nat) (tenant layer : Nat) : Bool :=
  let ids := cells.flatMap (fun c => (s.cell c).gradIds tenant layer)
  cells.any (fun c => (s.cell c).ud.saturated.any (fun x => x.1 = tenant && ids.contains x.2))

/-- sₗ of the next step for a layer homed at cell `c` (R107, R226). -/
def State.nextScale (s : State) (c : Nat) (cells : List Nat) (x : Nat × Nat × BitVec 64 × Nat) : Int :=
  let u := (s.cell c).ud
  let now := u.scale x.1
  if ((u.updateRec x.1).map (·.fixed)).getD false then now
  else match (s.cell c).gradOf x.2.2.2 x.2.2.1 ((s.cell c).layerElems x.2.2.2 x.1) with
    | none => now
    | some (code, g) => nextScaleOf code now (s.saturatedOn cells x.2.2.2 x.1) (g.map (decodeVal code))

/-! ## Poisoned state (R238) -/

/-- Poisoned tiles of one of the tenant's tensors; a tensor that is gone counts as a poisoned tile 0, and identifier 0 as none. -/
def Cell.badTiles (k : Cell) (tenant : Nat) (ident : BitVec 24) : List Nat :=
  match k.ownTensor tenant ident.toNat with
  | none => if ident = 0 then [] else [0]
  | some t => (List.range t.count).filter (fun i => (((k.ent (t.base + i)).current).map (·.tag.poison)).getD false)

/-- Layout tiles (of 1,024 elements) whose master or moment tile is poisoned; a tensor of the binding that is gone taints every tile. -/
def Cell.statePoison (k : Cell) (b : Binding) (tiles : Nat) : List Nat :=
  if b.tensors.any (fun i => (k.ownTensor b.tenant i.toNat).isNone) then List.range tiles
  else (k.badTiles b.tenant b.master ++ k.badTiles b.tenant b.m1 ++ k.badTiles b.tenant b.m2).dedup

end Sys2Proof.Machine
end

