-- ==== Sys2Proof/Machine/UPass.lean ====
section
/-!
DEFINITION. The update rules and one layer's part in a pass (10_update_die): Adam and AdamW (R223), lazy rows (R228), the
block-preconditioned rule (R236, R237), owner rules (R221), frozen requests (R230), the ratio (R231), the report entry (Table 10-7).
-/

namespace Sys2Proof.Machine

/-! ## Elements written into tensors -/

/-- A payload with elements of a format replaced, each (place in the tile, bits). -/
def putElems (code : Nat) (p : Payload) (l : List (Nat × Nat)) : Payload :=
  let w := fmtBits code
  BitVec.ofNat 32768 (l.foldl (fun v x => v - bits v (w * x.1) w * 2 ^ (w * x.1) + x.2 % 2 ^ w * 2 ^ (w * x.1)) p.toNat)

/-- A side record whose block map is the payload's, its scales kept (R83, Table 4-3). -/
def remap (code : Nat) (p : Payload) (side : SideRec) : SideRec :=
  let l := (List.range (elemsPer code)).map (elemBits code p)
  (side &&& ~~~(BitVec.ofNat 4096 (2 ^ 256 - 1))) ||| BitVec.ofNat 4096 (blockMap code l % 2 ^ 256)

/-- Elements (index in the tensor, bits) of one tile are written by the U-die or another unit of the cell. -/
def State.putTile (s : State) (c tenant : Nat) (ident : BitVec 24) (i : Nat) (l : List (Nat × Nat)) : State × Bool :=
  match s.tileAt c tenant ident i with
  | none => (s, false)
  | some (h, t, a) =>
    let k := s.cell h
    let per := elemsPer t.fmt
    let old := ((k.ent a).current).getD (k.tierTile t a Tile.zero)
    let p := putElems t.fmt old.payload (l.map (fun x => (x.1 - per * i, x.2)))
    let side := if t.hasSide then
        sideEntry (((k.ent (t.base + t.count + i / 8)).current).getD Tile.zero) (i % 8) else 0
    let y : Slot := { tile := { old with payload := p }, side := if t.hasSide && old.tag.map then remap t.fmt p side else side,
                      filled := t.hasSide }
    s.tierPut c tenant ident i y.recheck []

/-- Elements of a tensor are written, tile by tile; false where some tile's write is not performed. -/
def State.putElems (s : State) (c tenant : Nat) (ident : BitVec 24) (per : Nat) (l : List (Nat × Nat)) : State × Bool :=
  ((l.map (fun x => x.1 / per)).dedup).foldl (fun (acc : State × Bool) i =>
    let (s1, ok) := acc.1.putTile c tenant ident i (l.filter (fun x => x.1 / per = i))
    (s1, acc.2 && ok)) (s, true)

/-! ## Adam and AdamW (R223) -/

def Binding.word (b : Binding) (i : Nat) : Val := val32 (b.words.getD i 0)
def Binding.eta (b : Binding) : Val := b.word 0
def Binding.beta1 (b : Binding) : Val := b.word 1
def Binding.beta2 (b : Binding) : Val := b.word 2
def Binding.bOne (b : Binding) : Val := b.word 3
def Binding.bTwo (b : Binding) : Val := b.word 4
def Binding.eps (b : Binding) : Val := b.word 5
def Binding.lambda (b : Binding) : Val := b.word 6
def Binding.damping (b : Binding) : Val := b.word 7

def valOne : Val := .fin false 1 0

/-- Square and multiply from 1.0 over the bits of t, the most significant first, each product rounded once (R223). -/
def powBits (beta : Val) : List Bool → Val → Val
  | [], p => p
  | b :: r, p =>
    let q := fmul p p
    powBits beta r (if b then fmul q beta else q)

def pow32 (beta : Val) (t : Nat) : Val :=
  powBits beta (((List.range (Nat.log2 t + 1)).reverse).map (fun i => bit t i)) valOne

/-- The next value of a counter, which stays at its top (R223). -/
def nextCtr (t : Nat) : Nat := min (t + 1) 0xFFFFFFFF

/-- c₁ or c₂ of R223. -/
def biasTerm (beta : Val) (t1 : Nat) : Val := fsub valOne (pow32 beta t1)

/-- The decay term applies: AdamW, or DECAY with rules 0x03 and 0x04 (Table 10-4). -/
def Binding.decays (b : Binding) : Bool := b.rule = 2 || ((b.rule = 3 || b.rule = 4) && b.decay)

/-- The unscaled gradient (R223). -/
def unscale (sl : Int) (g : Val) : Val := r32 (g.scale (-sl))

/-- New moments of an element (R223). -/
def adamM (b : Binding) (gh m : Val) : Val := r32 ((b.beta1.mul m).add (b.bOne.mul gh))
def adamV (b : Binding) (gh v : Val) : Val := r32 ((b.beta2.mul v).add ((b.bTwo.mul gh).mul gh))

/-- x of R223 before decay. -/
def adamX (b : Binding) (c1 c2 m1 v1 : Val) : Val := fdiv (fdiv m1 c1) (fadd (fsqrt (fdiv v1 c2)) b.eps)

/-- Δ of an element from x (R223). -/
def adamD (b : Binding) (x w : Val) : Val := fmul b.eta (if b.decays then r32 (x.add (b.lambda.mul w)) else x)

/-- What a pass makes of one element: its place, master before, new master, new state words as their bits, Δ. -/
structure ElemNew where
  idx   : Nat
  old   : Val
  w1    : Val
  state : List (BitVec 32)
  delta : Val
  deriving DecidableEq, Repr

/-- One element under a library rule; none where R225 keeps its old values. -/
def adamElem (b : Binding) (c1 c2 : Val) (x : Option Val) (e : Nat) (gh w m v : Val) : Option ElemNew :=
  let m1 := adamM b gh m
  let v1 := adamV b gh v
  let d := adamD b (x.getD (adamX b c1 c2 m1 v1)) w
  let w1 := fsub w d
  if m1.finite && v1.finite && w1.finite then some { idx := e, old := w, w1 := w1, state := [bits32 m1, bits32 v1], delta := d }
  else none

/-! ## The block-preconditioned rule (R236, R237) -/

/-- Element (i, j) of a square held as rows. -/
def mat (a : List (List Val)) (i j : Nat) : Val := (a.getD i []).getD j (.zero false)

/-- `a` less a sum of products: the products are exact terms of a sum under R97, which is subtracted with one rounding (R97, R236). -/
def lessSum (a : Val) (terms : List Val) : Val := fsub a (sum97 terms)

/-- One Cholesky column: the pivot and the entries below it, from the columns before (column p of L as (row, value) from row 0);
none where the pivot is not a positive finite value (R236, R237). -/
def cholCol (a : List (List Val)) (n j : Nat) (cols : List (List Val)) : Option (List Val) :=
  let lv (i p : Nat) : Val := mat cols p i
  let pivot := lessSum (mat a j j) ((List.range j).map (fun p => (lv j p).mul (lv j p)))
  if !pivot.finite || pivot.isZero || pivot.neg then none
  else
    let d := fsqrt pivot
    some ((List.range n).map (fun i =>
      if i < j then .zero false
      else if i = j then d
      else fdiv (lessSum (mat a i j) ((List.range j).map (fun p => (lv i p).mul (lv j p)))) d))

/-- The columns of L from column `j` on, `n` left. -/
def cholGo (a : List (List Val)) (size : Nat) : Nat → Nat → List (List Val) → Option (List (List Val))
  | 0, _, cols => some cols
  | n + 1, j, cols =>
    match cholCol a size j cols with
    | none => none
    | some c => cholGo a size n (j + 1) (cols ++ [c])

/-- L of A, by columns. -/
def cholesky (a : List (List Val)) (n : Nat) : Option (List (List Val)) := cholGo a n n 0 []

/-- y of y·Lᵀ = m, forward. -/
def forwardSub (l : List (List Val)) (n : Nat) (m : List Val) : List Val :=
  (List.range n).foldl (fun y j =>
    y ++ [fdiv (lessSum (m.getD j (.zero false)) ((List.range j).map (fun p => (y.getD p (.zero false)).mul (mat l p j)))) (mat l j j)]) []

/-- x of x·L = y, backward. -/
def backSub (l : List (List Val)) (n : Nat) (y : List Val) : List Val :=
  (List.range n).foldl (fun x q =>
    let j := n - 1 - q
    -- x holds the entries after j, the first of them entry j + 1
    fdiv (lessSum (y.getD j (.zero false)) ((x.zipIdx).map (fun z => z.1.mul (mat l j (j + 1 + z.2))))) (mat l j j) :: x) []

/-- A = H′/c₂ + δ·I (R236). -/
def damped (h : List (List Val)) (n : Nat) (c2 delta : Val) : List (List Val) :=
  (List.range n).map (fun i => (List.range n).map (fun j =>
    let q := fdiv (mat h i j) c2
    if i = j then fadd q delta else q))

/-- The factor with δ, 10δ, 100δ or 1,000δ, and the retries it took; none after the fourth failure (R237). -/
def factorGo (h : List (List Val)) (n : Nat) (c2 : Val) : Nat → Nat → Val → Option (List (List Val)) × Nat
  | 0, tries, _ => (none, tries - 1)
  | k + 1, tries, delta =>
    match cholesky (damped h n c2 delta) n with
    | some l => (some l, tries)
    | none => factorGo h n c2 k (tries + 1) (fmul delta (.fin false 10 0))

def factor (h : List (List Val)) (n : Nat) (c2 delta : Val) : Option (List (List Val)) × Nat := factorGo h n c2 4 0 delta

/-! ## One layer in a pass -/

/-- A layer as a pass meets it; `bad`, `badCtr` and `badStat` are the poisoned tiles of masters and moments, of its counter tensor and
of its preconditioner, and `ratio` says that the pass is a ratio pass. -/
structure LayerEnv where
  cell   : Cell
  bind   : Binding
  parts  : List Part
  n      : Nat
  sl     : Int
  code   : Nat
  grad   : List Nat
  bad    : List Nat
  badCtr : List Nat
  badStat : List Nat
  ratio  : Bool
  deriving DecidableEq, Repr

def LayerEnv.u (v : LayerEnv) : UDie := v.cell.ud
def LayerEnv.g (v : LayerEnv) (e : Nat) : Val := decodeVal v.code (v.grad.getD e 0)

/-- FP32 (or INT32) bits of element `e` of one of the binding's tensors. -/
def LayerEnv.word (v : LayerEnv) (ident : BitVec 24) (e : Nat) : Nat :=
  match v.cell.ownTensor v.bind.tenant ident.toNat with
  | none => 0
  | some t => v.cell.tensorElem t e

def LayerEnv.val (v : LayerEnv) (ident : BitVec 24) (e : Nat) : Val := decodeVal fFP32 (v.word ident e)

def LayerEnv.row (v : LayerEnv) (e : Nat) : Nat := rowOf v.parts e

/-- A frozen parameter (R229). -/
def LayerEnv.frozen (v : LayerEnv) (e : Nat) : Bool := v.u.whole v.bind.layer || v.u.rowFrozen v.bind.layer (v.row e)

/-- Update requests to frozen parameters, saturating (R230). -/
def LayerEnv.requests (v : LayerEnv) : Nat :=
  min 0xFFFFFFFF (((List.range v.n).filter (fun e => v.frozen e && !(v.g e).isZero)).length)

/-- Touched unfrozen rows of a lazy layer (R228). -/
def LayerEnv.touched (v : LayerEnv) : List Nat :=
  (((List.range v.n).filter (fun e => !(v.g e).isZero && !v.frozen e)).map v.row).dedup

/-- Elements whose state the pass reads: unfrozen, and in a touched row for rule 0x03 (R228, R229). -/
def LayerEnv.asked (v : LayerEnv) : List Nat :=
  let rows := if v.bind.rule = 3 then v.touched else []
  (List.range v.n).filter (fun e => !v.frozen e && (v.bind.rule ≠ 3 || rows.contains (v.row e)))

/-- Number of the column block of element `e` among those of all parts, in the order in which statistics lie (R236). -/
def LayerEnv.blockNo (v : LayerEnv) (e : Nat) : Nat :=
  let b := v.bind.block
  (v.parts.map (fun p =>
    if e < p.first then 0
    else if e < p.first + p.tensor.elems then (blockPlace p.cols (e - p.first)).2 / b else p.cols / b)).sum

/-- A tile of the statistic of column block `q` is poisoned. -/
def LayerEnv.statBad (v : LayerEnv) (q : Nat) : Bool :=
  let n := v.bind.block * v.bind.block
  v.badStat.any (fun i => n * q < 1024 * (i + 1) && 1024 * i < n * (q + 1))

/-- The element's master, moments, counter or statistic lie in a poisoned tile. DEDUCED (log 106): R239 leaves a poisoned tile unchanged and
goes on with the others, and an element whose counter or statistic is poisoned is left as its tile would be. -/
def LayerEnv.tainted (v : LayerEnv) (e : Nat) : Bool :=
  v.bad.contains (e / 1024) || v.badCtr.contains ((if v.bind.rule = 3 then v.row e else 0) / 1024) ||
  (v.bind.rule = 4 && v.bind.block ≠ 0 && v.statBad (v.blockNo e))

/-- Elements that the pass updates: those in no poisoned tile (R239). -/
def LayerEnv.updated (v : LayerEnv) : List Nat := v.asked.filter (fun e => !v.tainted e)

/-- Layout tiles that the pass reads and finds poisoned (R238, R239): those of frozen or untouched elements are not read. -/
def LayerEnv.met (v : LayerEnv) : List Nat := ((v.asked.filter v.tainted).map (· / 1024)).dedup

/-- The layer's gradient sum holds a non-finite element (R227). -/
def LayerEnv.skipped (v : LayerEnv) : Bool := (List.range v.n).any (fun e => !(v.g e).finite)

/-- The counter an element takes (R223, R228). -/
def LayerEnv.counter (v : LayerEnv) (e : Nat) : Nat := v.word v.bind.counter (if v.bind.rule = 3 then v.row e else 0)

/-- Element of the layer at (row, column) of a part. -/
def Part.elem (p : Part) (r c : Nat) : Nat := p.first + blockIndex p.cols r c

/-- Rows of a part that are not frozen. -/
def LayerEnv.liveRows (v : LayerEnv) (p : Part) : List Nat :=
  (List.range p.rows).filter (fun r => !v.frozen (p.elem r 0) && p.elem r 0 < v.n)

/-- Hₖ′ of column block `kb` of a part, whose statistic begins at element `off` (R236). -/
def LayerEnv.statistic (v : LayerEnv) (p : Part) (kb off : Nat) : List (List Val) :=
  let b := v.bind.block
  let gs := (v.liveRows p).map (fun r => (List.range b).map (fun j => unscale v.sl (v.g (p.elem r (b * kb + j)))))
  let rho := Val.ofInt p.rows 0
  (List.range b).map (fun i => (List.range b).map (fun j =>
    let sum := sum97 (gs.map (fun row => (row.getD i (.zero false)).mul (row.getD j (.zero false))))
    let h := v.val v.bind.precond (off + b * i + j)
    fdiv (((v.bind.beta2.mul h).mul rho).add (v.bind.bTwo.mul sum)) rho))

/-- A column block after its factorisation: its first statistic element, Hₖ′, the retries, and x by (part row), none where the
block falls back. -/
structure BlockOut where
  part    : Nat
  block   : Nat
  off     : Nat
  stat    : List (List Val)
  retries : Nat
  xs      : Option (List (Nat × List Val))
  deriving DecidableEq, Repr

/-- m̂ of an element (R223). -/
def LayerEnv.mhat (v : LayerEnv) (c1 : Val) (e : Nat) : Val :=
  fdiv (adamM v.bind (unscale v.sl (v.g e)) (v.val v.bind.m1 e)) c1

/-- One column block (R236, R237). -/
def LayerEnv.blockOut (v : LayerEnv) (c1 c2 : Val) (i : Nat) (p : Part) (kb off : Nat) : BlockOut :=
  let b := v.bind.block
  let h := v.statistic p kb off
  let (l, tries) := factor h b c2 v.bind.damping
  { part := i, block := kb, off := off, stat := h, retries := tries,
    xs := l.map (fun l => (v.liveRows p).map (fun r =>
      (r, backSub l b (forwardSub l b ((List.range b).map (fun j => v.mhat c1 (p.elem r (b * kb + j)))))))) }

/-- Every column block of every part, in order (R236). -/
def LayerEnv.blocks (v : LayerEnv) (c1 c2 : Val) : List BlockOut :=
  let b := v.bind.block
  if b = 0 then []
  else (((v.parts.zipIdx).flatMap (fun p => (List.range (p.1.cols / b)).map (fun kb => (p.2, p.1, kb)))).zipIdx).map (fun q =>
    v.blockOut c1 c2 q.1.1 q.1.2.1 q.1.2.2 (b * b * q.2))

/-- x of an element under rule 0x04; none where its block takes the Adam step. -/
def LayerEnv.blockX (v : LayerEnv) (bs : List BlockOut) (e : Nat) : Option Val :=
  match (v.parts.zipIdx).find? (fun p => p.1.first ≤ e && e < p.1.first + p.1.tensor.elems) with
  | none => none
  | some (p, i) =>
    let (r, c) := blockPlace p.cols (e - p.first)
    match bs.find? (fun o => o.part = i && o.block = c / v.bind.block) with
    | none => none
    | some o => (o.xs.bind (fun l => l.find? (fun z => z.1 = r))).bind (fun z => z.2[c % v.bind.block]?)

/-- The rule call of an owner rule for one element (R221): none for a trap, an instruction outside the set or more lane cycles than the
image declares for the pass (R222). State words pass unchanged; those beyond the two state tensors of Table 10-4 read as zero (log 27). -/
def LayerEnv.ownerElem (v : LayerEnv) (img : RuleImage) (e : Nat) : Option ElemNew :=
  let b := v.bind
  let w := v.val b.master e
  let st := [v.word b.m1 e, v.word b.m2 e, 0, 0].map (BitVec.ofNat 32)
  let eta := val32 (b.words.getD 0 0)
  let (outside, cycles, out) := Config.ruleCode img.code 0
    ([bits32 (v.g e), BitVec.ofNat 32 (v.word b.master e)] ++ st ++
     [BitVec.ofNat 32 (v.counter e), BitVec.ofInt 32 v.sl, bits32 eta, bits32 (eta.scale (-v.sl))] ++ b.words)
  if outside || (if v.ratio then img.ratioCyc else img.applyCyc) < cycles then none
  else some { idx := e, old := w, w1 := val32 (out.getD 0 0), state := [out.getD 1 0, out.getD 2 0], delta := val32 (out.getD 5 0) }

/-- The elements of a layer after the pass's rule calls: those updated, and how many kept their old values (R225) or trapped. -/
def LayerEnv.compute (v : LayerEnv) (bs : List BlockOut) : List (Option ElemNew) :=
  let b := v.bind
  let t0 := nextCtr (v.counter 0)
  let c1 := biasTerm b.beta1 t0
  let c2 := biasTerm b.beta2 t0
  (v.updated).map (fun e =>
    if 0x80 ≤ b.rule then (v.u.rules.get none (b.rule - 0x80)).bind (fun img => v.ownerElem img e)
    else
      let t1 := nextCtr (v.counter e)
      let (d1, d2) := if b.rule = 3 then (biasTerm b.beta1 t1, biasTerm b.beta2 t1) else (c1, c2)
      adamElem b d1 d2 (if b.rule = 4 then v.blockX bs e else none) e (unscale v.sl (v.g e)) (v.val b.master e)
        (v.val b.m1 e) (v.val b.m2 e))

/-! ## The ratio (R231) -/

/-- Pairwise sums of one level of the fixed tree (R100). -/
def pairUp : List Val → List Val
  | a :: b :: r => fadd a b :: pairUp r
  | l => l

def treeGo : Nat → List Val → Val
  | 0, l => l.headD (.zero false)
  | n + 1, l =>
    match l with
    | [] => .zero false
    | [x] => x
    | _ => treeGo n (pairUp l)

/-- The fixed tree over parts in order (R100). -/
def treeSum (l : List Val) : Val := treeGo l.length l

/-- Euclidean norm: sums of squares under R97 by tile, joined in the tree by tile sequence (R231). -/
def normOf (tiles : Nat) (l : List (Nat × Val)) : Val :=
  fsqrt (treeSum ((List.range tiles).map (fun j =>
    sum97 ((l.filter (fun x => x.1 / 1024 = j)).map (fun x => x.2.mul x.2)))))

/-- Ratio of a layer over the elements updated; none where there is none (R231). -/
def ratioOf (tiles : Nat) (l : List ElemNew) : Option Val :=
  if l.isEmpty then none
  else if l.all (fun x => x.delta.isZero) then some (.zero false)
  else
    let nw := normOf tiles (l.map (fun x => (x.idx, x.old)))
    if nw.isZero then some (.inf false)
    else some (fdiv (normOf tiles (l.map (fun x => (x.idx, x.delta)))) nw)

/-! ## The outcome for one layer -/

/-- What a pass comes to for one layer: its report entry, the new elements, new counter values by element, new statistics by
element, the first poisoned tile met. -/
structure LayerOut where
  entry  : RepEntry
  news   : List ElemNew
  ctrs   : List (Nat × Nat)
  stats  : List (Nat × Nat)
  poison : Option Nat
  deriving DecidableEq, Repr

/-- Flags A as numbers (Table 10-7). -/
def flRATIO : Nat := 1
def flLOW : Nat := 2
def flHIGH : Nat := 4
def flSKIPPED : Nat := 8
def flHELD : Nat := 16
def flPARTIAL : Nat := 32
def flWHOLE : Nat := 64
def flTRAP : Nat := 128

/-- Out of band (R232): LOW, HIGH, or both for NaN. -/
def bandFlags (u : UDie) (layer : Nat) (r : Val) : Nat :=
  let (lo, hi) := u.band layer
  if r.isNan then flLOW + flHIGH else if r.lt lo then flLOW else if hi.lt r then flHIGH else 0

/-- Report entry of a layer that is wholly frozen, held or skipped (R227, R229, R238): one skipped under checked commit has the ratio
NaN. -/
def LayerEnv.stillEntry (v : LayerEnv) (s0 : RepEntry) (held checked : Bool) : RepEntry :=
  let nanRatio := v.skipped && checked
  let fl := (if held then flHELD else 0) + (if v.u.whole v.bind.layer then flWHOLE else 0) + (if v.skipped then flSKIPPED else 0) +
    (if nanRatio then flRATIO + bandFlags v.u v.bind.layer .nan else 0)
  { s0 with flagsA := BitVec.ofNat 8 fl, ratio := if nanRatio then 0x7FC00000#32 else 0 }

/-- Largest counter of a layer: the one counter, or the largest row counter (Table 10-7). -/
def LayerEnv.topCounter (v : LayerEnv) : Nat :=
  if v.bind.rule = 3 then ((List.range (partRows v.parts)).map (v.word v.bind.counter)).foldl max 0 else v.word v.bind.counter 0

/-- The report entry of a layer before a pass has run over it: its rule, scales, counter and frozen requests. -/
def LayerEnv.baseEntry (v : LayerEnv) (seat c : Nat) : RepEntry :=
  { layer := v.bind.layer, rule := v.bind.rule, flagsA := 0, ratio := 0, sUsed := v.sl, sNext := v.sl, flagsB := 0,
    frozen := v.requests, counter := BitVec.ofNat 32 v.topCounter, fallback := 0, retries := 0, count := 0, seat := seat, cell := c }

/-- One layer in a pass: `held` says that it is frozen for the step under R238, `checked` that the step is under checked commit. -/
def LayerEnv.run (v : LayerEnv) (held checked : Bool) (seat c : Nat) : LayerOut :=
  let b := v.bind
  let s0 := v.baseEntry seat c
  if held || v.u.whole b.layer || v.skipped then
    { entry := v.stillEntry s0 held checked, news := [], ctrs := [], stats := [], poison := none }
  else
    let tiles := (v.n + 1023) / 1024
    let t1 := nextCtr (v.counter 0)
    let bs := if b.rule = 4 then v.blocks (biasTerm b.beta1 t1) (biasTerm b.beta2 t1) else []
    let out := v.compute bs
    let news := out.filterMap id
    let moves := v.met.isEmpty
    let rows := if b.rule = 3 then v.touched else []
    let ctrs := if !moves then []
      else if b.rule = 3 then rows.map (fun r => (r, nextCtr (v.word b.counter r)))
      else [(0, t1)]
    let ratio := ratioOf tiles news
    let traps := 0x80 ≤ b.rule && out.any Option.isNone
    let lost := (out.filter Option.isNone).length
    let fallback := (bs.filter (fun o => o.xs.isNone)).length
    let fl := (if ratio.isSome then flRATIO else 0) + (ratio.map (bandFlags v.u b.layer)).getD 0 +
      (if moves then 0 else flHELD + flPARTIAL) + (if traps then flTRAP else 0)
    { entry := { s0 with
        flagsA := BitVec.ofNat 8 fl, ratio := (ratio.map bits32).getD 0
        flagsB := BitVec.ofNat 8 (if fallback = 0 then 0 else 2)
        counter := BitVec.ofNat 32 (ctrs.foldl (fun m x => max m x.2) v.topCounter)
        fallback := fallback, retries := (bs.map (·.retries)).sum
        count := if b.rule = 3 then rows.length else if 0x80 ≤ b.rule then 0 else lost }
      news := news, ctrs := ctrs
      stats := (bs.filter (fun o => !v.statBad (o.off / (b.block * b.block)))).flatMap (fun o =>
        ((o.stat.flatMap id).zipIdx).map (fun z => (o.off + z.2, (bits32 z.1).toNat)))
      poison := v.met.min? }

end Sys2Proof.Machine
end

