-- ==== Sys2Proof/Machine/Boundary.lean ====
section
/-!
DEFINITION. What a cell's step boundary does (R43, R62 to R64, R152, R214, R241, R321, R353): images, deals, fences, tested cores,
the U-die's modes, bindings and repairs, WRITE entries, the power share. A cell with no step in progress is at a boundary (R43).
-/

namespace Sys2Proof.Machine

/-! ## The deal (R63, R64, R319) -/

/-- Cores that a tenant's deal may use: not fenced, not under test, in increasing number (R63, R321). -/
def Cell.dealCores (k : Cell) (t : Nat) : List Nat :=
  (((k.tenantRec t).map (·.coreList)).getD []).filter (fun n => !(k.core n).out)

/-- Contexts of one placed group (Table 3-11: READY at the deal): thread `j` of the group in context `ctx + j`. -/
def placeGroup (img : Image) (t g : Nat) (p : Placement) (x : Core) : Core :=
  ((img.threadsOf g).zipIdx).foldl (fun (x : Core) q =>
    x.setCtx (p.ctx + q.2)
      { tenant := t, group := g, thread := q.1, nextRec := 0, st := .ready, base := p.ctr, waitCtr := 0, waitThr := 0 }) x

/-- A tenant's threads leave the cores and are dealt anew (R63, R64); groups that do not fit are not placed (R319). -/
def Cell.dealTenant (k : Cell) (t : Nat) : Cell :=
  let k0 := { k with cores := k.cores.mapV Core.reset (fun x =>
    { x with ctxs := x.ctxs.mapV Ctx.free (fun c => if c.tenant = t then Ctx.free else c) }) }
  match (k0.run t).image with
  | none => k0.onRun t (fun r => { r with deal := [], redeal := false })
  | some img =>
    let d := deal img.groups (k0.dealCores t)
    let k1 := (d.zipIdx).foldl (fun (k : Cell) q =>
      match q.1 with
      | none => k
      | some p => k.onCore p.core (placeGroup img t q.2 p)) k0
    k1.onRun t (fun r => { r with deal := d, redeal := false })

/-- Accepted images become current, and threads are dealt where a deal is due (R62, R64). -/
def Cell.takeImages (k : Cell) : Cell :=
  (k.runs.map (·.1)).foldl (fun k t =>
    let r := k.run t
    let k1 := if r.next.isSome then
        k.onRun t (fun r => { r with image := r.next, next := none, carried := false, redeal := true })
      else k
    if (k1.run t).redeal then k1.dealTenant t else k1) k

/-! ## Cores coming back from a test (R321) -/

/-- A passed core is no longer fenced; its tenants are re-dealt. -/
def State.returnCores (s : State) (c : Nat) : State :=
  let back := ((s.cell c).cores.filter (fun p => p.2.returning)).map (·.1)
  back.foldl (fun s n =>
    s.onCell c (fun k =>
      let was := (k.core n).fenced
      let k1 := k.onCore n (fun x =>
        { x with testing := false, returning := false, fenced := false
                 returned := if was then some (s.time c) else x.returned, faults := if was then [] else x.faults })
      (k1.tenantsOf n).foldl (fun k t => k.onRun t (fun r => { r with redeal := true })) k1)) s

/-! ## The U-die at a boundary (R214, R218, R240, R241) -/

/-- Poison of some of a part's tiles that hold elements `a` to `b − 1`, and FP32 bits of an element of the layer (R241). -/
def Cell.workingBits (k : Cell) (l : List Part) (e : Nat) : Nat × Bool :=
  match partAt l e with
  | none => (0, false)
  | some p =>
    let i := e - p.first
    let x := ((k.ent (p.tensor.base + i / elemsPer p.tensor.fmt)).current).getD Tile.zero
    ((bits32 (decodeVal p.tensor.fmt (k.tensorElem p.tensor i))).toNat, x.tag.poison)

/-- A whole tile of a state tensor is written (R167: a whole write clears POISON). -/
def State.fillTile (s : State) (c tenant : Nat) (ident : BitVec 24) (i : Nat) (p : Payload) (poison : Bool) : State :=
  let x : Slot := { Slot.zero with tile := { Tile.zero with payload := p, tag := { Tile.zero.tag with poison := poison } } }
  (s.tierPut c tenant ident i x.recheck []).1

/-- Every tile of a state tensor is written with zeros. -/
def State.zeroTensor (s : State) (c tenant : Nat) (ident : BitVec 24) : State :=
  match (s.cell c).ownTensor tenant ident.toNat with
  | none => s
  | some t => (List.range t.count).foldl (fun s i => s.fillTile c tenant ident i 0 false) s

/-- Every tile of one tensor is copied over another's. -/
def State.copyTensor (s : State) (c tenant src : Nat) (dst : BitVec 24) : State :=
  match (s.cell c).ownTensor tenant src with
  | none => s
  | some t => (List.range t.count).foldl (fun s i =>
      let x := (((s.cell c).ent (t.base + i)).current).getD Tile.zero
      s.fillTile c tenant dst i x.payload x.tag.poison) s

/-- Masters rebuilt from the working weights, exactly converted to FP32 (R241, source 0x02). -/
def State.rebuildMaster (s : State) (c : Nat) (b : Binding) : State :=
  let k := s.cell c
  let parts := k.partsOf b.tenant b.layer
  match k.ownTensor b.tenant b.master.toNat with
  | none => s
  | some t => (List.range t.count).foldl (fun s i =>
      let l := (List.range 1024).map (fun j => k.workingBits parts (1024 * i + j))
      s.fillTile c b.tenant b.master i (packElems fFP32 (l.map (·.1))) (l.any (·.2))) s

/-- A pending REPAIR takes effect (R241): the layer's state is replaced and is no longer HELD; under source 0x02 its sₗ starts
anew (R250). -/
def State.repairNow (s : State) (c : Nat) (e : Entry) : State :=
  let tenant := e.fld 1 1
  let layer := e.fld 2 2
  match (s.cell c).ud.bindOf layer with
  | none => s
  | some b =>
    let s1 := if e.fld 4 1 = 1 then
        let s0 := (s.copyTensor c tenant (e.fld 8 3) b.master).copyTensor c tenant (e.fld 0xC 3) b.m1
        let s0 := if b.m2 = 0 then s0 else s0.copyTensor c tenant (e.fld 0x10 3) b.m2
        s0.copyTensor c tenant (e.fld 0x14 3) b.counter
      else
        ([b.m1, b.m2, b.precond, b.counter].filter (· ≠ 0)).foldl (fun s i => s.zeroTensor c tenant i) (s.rebuildMaster c b)
    s1.onCell c (fun k => { k with ud := { k.ud with
      held := k.ud.held.filter (· ≠ layer)
      scales := if e.fld 4 1 = 2 then k.ud.scales.del layer else k.ud.scales } })

/-- Mode of the U-die after a boundary: the loss of vector cores first, then the mode command (R214, R240). -/
def UDie.atBoundary (u : UDie) : UDie :=
  if u.inPass then u
  else if u.mode = .run && 16 - u.vfenced.length < 8 then { u with mode := .test, pendMode := none }
  else match u.pendMode with
    | none => u
    | some m => { u with mode := m, pendMode := none }

/-- Repairs, modes and bindings of the U-die at the boundary. -/
def State.udBoundary (s : State) (c : Nat) : State :=
  let s1 := ((s.cell c).ud.repairs).foldl (fun s r => s.repairNow c r.2) s
  s1.onCell c (fun k =>
    let tenants := (k.ud.pendBinds.map (·.tenant)).dedup
    -- a step in progress keeps its bindings (R218)
    let u := tenants.foldl (fun u t => if (k.lrn t).phase = .idle then u.promote t (k.run t).jobStep else u) { k.ud with repairs := [] }
    { k with ud := u.atBoundary })

/-! ## WRITE entries (Table 14-7) -/

/-- Words of a WRITE entry: from element `first` on, `count` of them (Table 14-7). -/
def writeWords (e : Entry) : List Nat := (List.range (e.fld 2 1)).map (fun j => e.fld (0x10 + 4 * j) 4)

/-- Pending WRITE entries take effect and complete. -/
def State.takeWrites (s : State) (c : Nat) : State :=
  let l := (s.cell c).writes
  l.foldl (fun s w =>
    let (s1, ok) := s.pokeWords c (w.e.fld 1 1) (w.e.fld 4 3) (w.e.fld 8 4) (writeWords w.e)
    s1.complete c w.src w.e { status := if ok then 0 else 2 })
    (s.onCell c (fun k => { k with writes := [] }))

/-! ## Power shares (R20, R353, R357) -/

/-- The cell has an admitted request, a learning step in progress, or one that waits for its share (R353, R355). -/
def Cell.wants (k : Cell) : Bool :=
  k.gen.table.any (fun e => e.2.st ≠ .free && e.2.st ≠ .ending) || k.learn.any (fun l => l.2.phase ≠ .idle || l.2.waitRec)

/-- The highest share the cell may be raised to: maximum share, thermal ceiling; twice R_c bounds it too (R353, R357). -/
def Cell.mayRaise (k : Cell) (sh : Nat) : Bool :=
  k.wants && sh < min k.maxShare (k.power.ceiling.getD k.maxShare) && 2 * sh < k.rated2

/-- One round of raises by 1 W in increasing cell number while watts are left; `l` pairs cells with shares. -/
def raiseRound : List (Cell × Nat) → Nat → List (Cell × Nat) × Nat
  | [], w => ([], w)
  | (k, sh) :: r, w =>
    let up := 0 < w && k.mayRaise sh
    let (l, w1) := raiseRound r (if up then w - 1 else w)
    ((k, if up then sh + 1 else sh) :: l, w1)

/-- Rounds until no watt is left or no cell may rise; no share passes 3,000 W (Table 2-1). -/
def raiseShares : Nat → List (Cell × Nat) → Nat → List Nat
  | 0, l, _ => l.map (·.2)
  | n + 1, l, w =>
    if w = 0 || !l.any (fun x => x.1.mayRaise x.2) then l.map (·.2)
    else
      let (l1, w1) := raiseRound l w
      raiseShares n l1 w1

/-- Shares of all cells as the coordinator computes them (R353); no share lies above its cell's ceiling (R357). -/
def State.shares (s : State) : List Nat :=
  let l := allCells.map (fun c =>
    let k := s.cell c
    (k, min k.minShare (k.power.ceiling.getD k.minShare)))
  raiseShares 3001 l (s.effLimit - 40 - (l.map (·.2)).sum)

/-- The coordinator recomputes every cell's share; each takes it at its own next boundary (R353). -/
def State.coordinate (s : State) : State :=
  if !s.anchorUp then s
  else (allCells.zip s.shares).foldl (fun s q => s.onCell q.1 (fun k => { k with power := { k.power with target := q.2 } })) s

/-- The cell's share at its boundary: the coordinator's, or while the anchor is lost the lower of the frozen share and the ceiling
(R20, R357). -/
def Cell.takeShare (k : Cell) (lost : Bool) : Cell :=
  let sh := if lost then min (k.power.frozen.getD k.power.share) (k.power.ceiling.getD (k.power.frozen.getD k.power.share))
    else k.power.target
  { k with power := { k.power with share := sh } }

/-! ## The boundary -/

/-- The cell's part of a firmware switch is made; a LOCKSTEP bundle waits for its device time (R379). -/
def Cell.fwNow (k : Cell) (from_ : Option Nat) (now : Nat) : Cell :=
  match from_ with
  | some t => if now < t then k else { k with fwDue := false }
  | none => { k with fwDue := false }

/-- Device time T of a LOCKSTEP bundle that runs (R379). -/
def State.lockstepAt (s : State) : Option Nat := if s.fw.current.any (·.lockstep) then some s.fw.switchT else none

/-- The step boundary of a cell. -/
def State.boundary (s : State) (c : Nat) : State :=
  let s1 := s.onCell c Cell.freeDue
  let due := ((s1.cell c).cores.filter (fun p => p.2.fenceDue)).map (·.1)
  let s2 := (due.foldl (fun s n => s.fence c n) s1).returnCores c
  let s3 := ((s2.udBoundary c).takeWrites c).onCell c (fun k => { k.takeImages with gen := { k.gen with heldQ := [] } })
  let s4 := s3.coordinate.onCell c (fun k => (k.takeShare s.boot.anchorLost).fwNow s.lockstepAt (s.time c))
  s4.takeLevel

/-- A command that waits for the boundary of a cell with no step in progress finds one at once (R43). -/
def State.boundarySoon (s : State) (c : Nat) : State :=
  if (s.cell c).step.running || !s.cellUp c then s else s.boundary c

end Sys2Proof.Machine
end

