-- ==== Sys2Proof/Machine/UDie.lean ====
section
/-!
DEFINITION. Commands of the update die (10_update_die): BIND (R217, R218), RULE LOAD (R222), MODE (R214), REPAIR (R241), SNAPSHOT
and its transfer (R243 to R245).
-/

namespace Sys2Proof.Machine

/-- Statuses of U-die commands (under Table 10-3). -/
def uDONE : Nat := 0
def uDENIED : Nat := 1
def uMODE : Nat := 2
def uTENSOR : Nat := 3
def uRULE : Nat := 4
def uRESERVED : Nat := 5
def uSIGNATURE : Nat := 6
def uROLLBACK : Nat := 7
def uBUSY : Nat := 8
def uNOSPACE : Nat := 9

/-- The PF, the module supervisor and the Manager (Table 10-3). -/
def topIdent (who : BitVec 8) : Bool := who = 0x00 || who = 0x40 || who = 0x70

/-- A layer has a HOME record at cell `c` of this seat in its active figure. -/
def State.homesLayer (s : State) (c layer : Nat) : Bool :=
  (((s.cell c).fig.active.map (·.places)).getD []).any (fun p =>
    p.home && p.layer = layer && p.cell = c && (p.seat = 0xFFFF || p.seat = s.mySeat))

/-! ## BIND (R216 to R218, Table 10-4) -/

/-- The binding that a BIND entry spells. -/
def readBinding (e : Entry) : Binding :=
  { tenant := e.fld 1 1, layer := e.fld 2 2, rule := e.fld 4 1, strict := bit (e.fld 5 1) 0, srw := bit (e.fld 5 1) 1,
    decay := bit (e.fld 5 1) 2, block := e.fld 6 2, fromStep := BitVec.ofNat 32 (e.fld 8 4),
    master := BitVec.ofNat 24 (e.fld 0xC 3), m1 := BitVec.ofNat 24 (e.fld 0x10 3), m2 := BitVec.ofNat 24 (e.fld 0x14 3),
    counter := BitVec.ofNat 24 (e.fld 0x18 3), precond := BitVec.ofNat 24 (e.fld 0x1C 3),
    words := (List.range 8).map (fun i => BitVec.ofNat 32 (e.fld (0x20 + 4 * i) 4)) }

/-- A rule of the library, or an owner slot that holds an image (R222). -/
def UDie.knowsRule (u : UDie) (r : Nat) : Bool :=
  (1 ≤ r && r ≤ 4) || (0x80 ≤ r && r ≤ 0x83 && (u.rules.get none (r - 0x80)).isSome)

/-- A field of the entry lies outside Table 10-4 (R4, R435). -/
def bindReserved (e : Entry) : Bool :=
  let r := e.fld 4 1
  let b := e.fld 6 2
  63 < e.fld 1 1 || 8 ≤ e.fld 5 1 || [0xF, 0x13, 0x17, 0x1B, 0x1F].any (fun o => e.fld o 1 ≠ 0) ||
  (if r = 4 then b < 4 || 512 < b || b % 4 ≠ 0 else b ≠ 0 || e.fld 0x1C 3 ≠ 0 || (r < 0x80 && e.fld 0x3C 4 ≠ 0))

/-- A state tensor meets R217: READY, the tenant's, one-home PREFER_SLOW, of a format, with exactly `tiles` tiles. -/
def Cell.stateTensor (k : Cell) (tenant : Nat) (ident : BitVec 24) (fmts : List Nat) (tiles : Nat) : Bool :=
  match k.ownTensor tenant ident.toNat with
  | none => false
  | some t => t.holder.isNone && t.one && t.preferSlow && fmts.contains t.fmt && t.count = tiles

/-- The binding's tensors meet R217 for the layer's layout (R216); a block size that does not divide a tensor's columns ends with
TENSOR too (R236). -/
def Cell.bindTensors (k : Cell) (b : Binding) : Bool :=
  let parts := k.partsOf b.tenant b.layer
  let n := (partElems parts + 1023) / 1024
  let owner := 0x80 ≤ b.rule
  let fmts := if owner then [fFP32, fINT32] else [fFP32]
  !parts.isEmpty &&
  k.stateTensor b.tenant b.master [fFP32] n && k.stateTensor b.tenant b.m1 fmts n &&
  ((owner && b.m2 = 0) || k.stateTensor b.tenant b.m2 fmts n) &&
  k.stateTensor b.tenant b.counter [fINT32] (if b.rule = 3 then (partRows parts + 1023) / 1024 else 1) &&
  (b.rule ≠ 4 || (parts.all (fun p => p.cols % b.block = 0) &&
    k.stateTensor b.tenant b.precond [fFP32]
      (((parts.map (fun p => p.cols / b.block)).sum * (b.block * b.block) + 1023) / 1024)))

/-- How a BIND ends (R218, R250): DONE leaves the binding pending, to take effect from its step on; the first binding of a layer
starts its sₗ anew. -/
def State.bindDo (s : State) (c : Nat) (src : Source) (e : Entry) : State × Nat :=
  let k := s.cell c
  let b := readBinding e
  if bindReserved e || !s.homesLayer c b.layer then (s, uRESERVED)
  else if !s.mayFor c b.tenant src.who then (s, uDENIED)
  else if !k.ud.knowsRule b.rule then (s, uRULE)
  else if k.ud.pendBinds.any (fun x => x.layer = b.layer) then (s, uBUSY)
  else if !k.bindTensors b then (s, uTENSOR)
  else
    let fresh := (k.ud.bindOf b.layer).isNone
    let u := { k.ud with pendBinds := k.ud.pendBinds ++ [b], scales := if fresh then k.ud.scales.del b.layer else k.ud.scales }
    let idle := (k.lrn b.tenant).phase = .idle
    (s.setCell c { k with ud := if idle && !u.inPass then u.promote b.tenant (k.run b.tenant).jobStep else u }, uDONE)

def State.doBind (s : State) (c : Nat) (src : Source) (e : Entry) : State :=
  let (s1, st) := s.bindDo c src e
  s1.complete c src e { status := st }

def execBind (t : Nat) (cell : Fin 8) (src : Source) (e : Entry) (s : State) : Res :=
  .next (s.run t (fun s => s.entryAt cell 0x30 src e (fun s => s.doBind cell src e)))

/-! ## RULE LOAD (R222, Table 10-6) -/

/-- A READY INT32 tensor of the cell with an identifier, whichever tenant's (Table 10-3). -/
def Cell.anyInt32 (k : Cell) (ident : Nat) : Option Tensor :=
  k.tiers.dir.find? (fun t => t.ident = BitVec.ofNat 24 ident && t.ready && t.fmt = fINT32 && t.holder.isNone)

/-- The rule image in `n` bytes `v` (Table 10-6): its status and the image. -/
def readRule (keys : SMap (Option OwnerKey)) (floor : BitVec 32) (n v : Nat) : Nat × Option RuleImage :=
  let len := fld v 0x10 4
  let off := align64 (0x40 + len)
  let cyc (o : Nat) : Bool := 1 ≤ fld v o 2 && fld v o 2 ≤ 4096
  if n < 0x40 ∨ fld v 0 4 ≠ 0x55525456 ∨ fld v 4 2 ≠ 1 ∨ fld v 6 1 = 0 ∨ 4 < fld v 6 1 ∨ fld v 7 1 ≠ 0 ∨ !cyc 0xC ∨ !cyc 0xE ∨
     1048512 < len ∨ fld v 0x14 44 ≠ 0 ∨ n < off + 48 ∨ n < off + 48 + fld v (off + 0x2C) 2 ∨ !zeroGap v (0x40 + len) off then
    (uRESERVED, none)
  else if checkSignature keys 1 v off ≠ stDONE then (uSIGNATURE, none)
  else if fld v 8 4 < floor.toNat then (uROLLBACK, none)
  else (uDONE, some { stateWords := fld v 6 1, secver := fld v 8 4, ratioCyc := fld v 0xC 2, applyCyc := fld v 0xE 2,
                      code := bytesOf len (v >>> (8 * 0x40)) })

/-- How a RULE LOAD ends: only a slot that no binding names is loaded (Table 10-2, R222). -/
def State.ruleLoadDo (s : State) (c : Nat) (src : Source) (e : Entry) : State × Nat :=
  let k := s.cell c
  let slot := e.fld 1 1
  if e.fld 2 2 ≠ 0 || !e.zeroBytes 7 64 then (s, uRESERVED)
  else if !topIdent src.who then (s, uDENIED)
  else if slot < 0x80 || 0x83 < slot || (k.ud.binds ++ k.ud.pendBinds).any (fun b => b.rule = slot) then (s, uRULE)
  else match k.anyInt32 (e.fld 4 3) with
    | none => (s, uTENSOR)
    | some t =>
      let n := 4096 * t.count
      match readRule s.flash.keys s.flash.ruleFloor n (k.tensorNat t 0 n) with
      | (_, some img) => (s.setCell c { k with ud := { k.ud with rules := k.ud.rules.set none (slot - 0x80) (some img) } }, uDONE)
      | (st, none) => (s, st)

def State.doRuleLoad (s : State) (c : Nat) (src : Source) (e : Entry) : State :=
  let (s1, st) := s.ruleLoadDo c src e
  s1.complete c src e { status := st }

def execRuleLoad (t : Nat) (cell : Fin 8) (src : Source) (e : Entry) (s : State) : Res :=
  .next (s.run t (fun s => s.entryAt cell 0x31 src e (fun s => s.doRuleLoad cell src e)))

/-! ## MODE (R214) -/

/-- The mode that a MODE entry asks for. -/
def modeOf (n : Nat) : Option UMode :=
  match n with
  | 1 => some .run
  | 2 => some .test
  | 3 => some .recover
  | _ => none

/-- Mode changes that a command may cause (R214). -/
def modeMove (a b : UMode) : Bool := (a = .run && (b = .test || b = .recover)) || (a = .recover && b = .run)

def State.modeDo (s : State) (c : Nat) (src : Source) (e : Entry) : State × Nat :=
  let u := (s.cell c).ud
  match modeOf (e.fld 1 1) with
  | none => (s, uRESERVED)
  | some m =>
    if !e.zeroBytes 2 64 then (s, uRESERVED)
    else if !topIdent src.who then (s, uDENIED)
    else if u.pendMode.isSome then (s, uBUSY)
    else if !modeMove u.mode m then (s, uMODE)
    else ((s.onCell c (fun k => { k with ud := { k.ud with pendMode := some m } })).boundarySoon c, uDONE)

def State.doMode (s : State) (c : Nat) (src : Source) (e : Entry) : State :=
  let (s1, st) := s.modeDo c src e
  s1.complete c src e { status := st }

def execMode (t : Nat) (cell : Fin 8) (src : Source) (e : Entry) (s : State) : Res :=
  .next (s.run t (fun s => s.entryAt cell 0x32 src e (fun s => s.doMode cell src e)))

/-! ## REPAIR (R241) -/

/-- A field lies outside Table 10-3: source, tensors named under source 0x02, reserved bytes. -/
def repairReserved (e : Entry) : Bool :=
  63 < e.fld 1 1 || !(e.fld 4 1 = 1 || e.fld 4 1 = 2) || e.fld 5 3 ≠ 0 || [0xB, 0xF, 0x13, 0x17].any (fun o => e.fld o 1 ≠ 0) ||
  !e.zeroBytes 0x18 64 || (e.fld 4 1 = 2 && !e.zeroBytes 8 0x18)

/-- A replacement tensor has the layout and format of the one it replaces (R241). -/
def Cell.sameShape (k : Cell) (tenant src : Nat) (dst : BitVec 24) : Bool :=
  match k.ownTensor tenant src, k.ownTensor tenant dst.toNat with
  | some a, some b => a.fmt = b.fmt && a.count = b.count
  | _, _ => false

def State.repairDo (s : State) (c : Nat) (src : Source) (e : Entry) : State × Nat :=
  let k := s.cell c
  let u := k.ud
  let layer := e.fld 2 2
  let tenant := e.fld 1 1
  if repairReserved e then (s, uRESERVED)
  else if !topIdent src.who then (s, uDENIED)
  else if u.mode = .test || !(u.held.contains layer || u.mode = .recover) then (s, uMODE)
  else if u.repairs.any (fun r => r.2.fld 2 2 = layer) then (s, uBUSY)
  else match u.bindOf layer with
    | none => (s, uTENSOR)
    | some b =>
      let fits := e.fld 4 1 = 2 ||
        (k.sameShape tenant (e.fld 8 3) b.master && k.sameShape tenant (e.fld 0xC 3) b.m1 &&
         (b.m2 = 0 || k.sameShape tenant (e.fld 0x10 3) b.m2) && k.sameShape tenant (e.fld 0x14 3) b.counter)
      if b.tenant ≠ tenant || !fits then (s, uTENSOR)
      else ((s.onCell c (fun k => { k with ud := { k.ud with repairs := k.ud.repairs ++ [(src, e)] } })).boundarySoon c, uDONE)

def State.doRepair (s : State) (c : Nat) (src : Source) (e : Entry) : State :=
  let (s1, st) := s.repairDo c src e
  s1.complete c src e { status := st }

def execRepair (t : Nat) (cell : Fin 8) (src : Source) (e : Entry) (s : State) : Res :=
  .next (s.run t (fun s => s.entryAt cell 0x35 src e (fun s => s.doRepair cell src e)))

/-! ## SNAPSHOT (R243 to R245, Table 10-8) -/

/-- Identifier of a tenant's staging tensor in a cell: no command and no reference names it. -/
def stageIdent : BitVec 24 := 0x800000

def snapReserved (e : Entry) : Bool :=
  63 < e.fld 1 1 || !([0x04, 0x05, 0x08, 0x09, 0x0C].contains (e.fld 2 1)) || 1 < e.fld 3 1 || !e.zeroBytes 0x14 64 ||
  (if e.fld 3 1 = 0 then e.fld 8 8 % 4096 ≠ 0
   else bits (e.fld 8 8) 62 2 ≠ 2 || !refOk (BitVec.ofNat 64 (e.fld 8 8)) false)

/-- Home layers of a tenant at the cell: those bound for it, in increasing identifier (R220). -/
def Cell.homeLayers (k : Cell) (tenant : Nat) : List Nat :=
  inOrder (· ≤ ·) (((k.ud.binds.filter (fun b => b.tenant = tenant)).map (·.layer)).dedup)

/-- Tiles of one layer's shard in a format (R244). -/
def Cell.shardTiles (k : Cell) (tenant layer code : Nat) : Nat := tilesFor code (k.layerElems tenant layer)

/-- The tenant's pending snapshot is put or taken away. -/
def Cell.setSnap (k : Cell) (tenant : Nat) (x : Option Snap) : Cell :=
  { k with ud := { k.ud with snaps := k.ud.snaps.set none tenant x } }

/-- A SNAPSHOT is accepted: its one-home staging tensor is allocated in the fast tier and charged to the tenant (R243). -/
def State.snapshotDo (s : State) (c : Nat) (src : Source) (e : Entry) : State × Option Nat :=
  let k := s.cell c
  let tenant := e.fld 1 1
  if snapReserved e || e.fld 4 4 < (k.run tenant).jobStep.toNat % 2 ^ 32 then (s, some uRESERVED)
  else if !s.mayFor c tenant src.who then (s, some uDENIED)
  else if (k.ud.snaps.get none tenant).isSome then (s, some uBUSY)
  else
    let n := ((k.homeLayers tenant).map (fun l => k.shardTiles tenant l (e.fld 2 1))).sum
    let t0 : Tensor :=
      { tenant := tenant, ident := stageIdent, fmt := e.fld 2 1, flags := 0x10, base := 0, count := n, ready := true,
        freePend := false, digest := 0, holder := none }
    let t := { t0 with base := lowestRun n 0 k.runs' }
    if n = 0 || 65536 ≤ k.tiers.dir.length || k.allocFits t ≠ 0 || k.allocFast t < n then (s, some uNOSPACE)
    else
      let k1 := k.addTensor t
      let x : Snap := { src := src, e := e, taken := false, shards := [], step := 0, ver := 0, time := 0, bad := 0 }
      (s.setCell c (k1.setSnap tenant (some x)), none)

def State.doSnapshot (s : State) (c : Nat) (src : Source) (e : Entry) : State :=
  match s.snapshotDo c src e with
  | (s1, some st) => s1.complete c src e { status := st, tag := e.fld 0x10 4 }
  | (s1, none) => s1

def execSnapshot (t : Nat) (cell : Fin 8) (src : Source) (e : Entry) (s : State) : Res :=
  .next (s.run t (fun s => s.entryAt cell 0x33 src e (fun s => s.doSnapshot cell src e)))

/-- Masters of a layer converted with RNE into a format, tile by tile (R243). -/
def Cell.masterTile (k : Cell) (b : Binding) (code n i : Nat) : Payload :=
  match k.ownTensor b.tenant b.master.toNat with
  | none => 0
  | some t =>
    let per := elemsPer code
    packElems code ((List.range per).map (fun j =>
      if per * i + j < n then (conv code (decodeVal fFP32 (k.tensorElem t (per * i + j))) none).bits else 0))

/-- The snapshot of a tenant is taken at this committed seal's apply pass (R243): each home layer's new masters go into the staging
tensor. A HELD layer keeps it from being published (R245). -/
def State.takeSnapshot (s : State) (c tenant : Nat) (ver : BitVec 16) : State :=
  let k := s.cell c
  match k.ud.snaps.get none tenant with
  | none => s
  | some x =>
    let step := (k.run tenant).jobStep.toNat % 2 ^ 32
    if x.taken || step < x.e.fld 4 4 then s
    else
      let code := x.e.fld 2 1
      let layers := k.homeLayers tenant
      let (shards, _) := layers.foldl (fun (acc : List (Nat × Nat × Nat × Nat) × Nat) l =>
        let n := k.shardTiles tenant l code
        let kind := ((((k.fig.active.map (·.places)).getD []).find? (fun p => p.home && p.layer = l)).map (·.kind)).getD 0
        (acc.1 ++ [(l, kind, acc.2, n)], acc.2 + n)) ([], 0)
      let s1 := shards.foldl (fun s h =>
        match k.ud.bindOf h.1 with
        | none => s
        | some b => (List.range h.2.2.2).foldl (fun s i =>
            s.fillTile c tenant stageIdent (h.2.2.1 + i) (k.masterTile b code (k.layerElems tenant h.1) i) false) s) s
      let bad := if layers.any k.ud.held.contains then vPOISON else x.bad
      s1.onCell c (fun k => k.setSnap tenant (some
        { x with taken := true, shards := shards, step := BitVec.ofNat 32 step, ver := ver, time := s1.time c, bad := bad }))

/-- Bytes of the staged tile `i`. -/
def Cell.stagedTile (k : Cell) (tenant i : Nat) : Tile :=
  match k.tiers.dir.find? (fun t => t.tenant = tenant && t.ident = stageIdent) with
  | none => Tile.zero
  | some t => ((k.ent (t.base + i)).current).getD Tile.zero

/-- Header and entries of the manifest (R244). -/
def State.manifestBody (s : State) (c tenant : Nat) (x : Snap) : Nat × Nat :=
  let k := s.cell c
  let head := pack [(4, 0x4E535456), (1, tenant), (1, x.e.fld 2 1), (2, s.mySeat), (4, x.shards.length), (4, x.step.toNat),
    (2, x.ver.toNat), (2, 0), (4, x.e.fld 0x10 4), (8, x.time), (32, 0)]
  let ents := x.shards.map (fun h =>
    let data := (List.range h.2.2.2).flatMap (fun i => bytesOf 4096 (k.stagedTile tenant (h.2.2.1 + i)).payload.toNat)
    (48, pack [(2, h.1), (1, h.2.1), (5, 0), (8, 4096 * h.2.2.2), (32, (sha3 data).toNat)]))
  (64 + 48 * x.shards.length, pack ((64, head) :: ents))

/-- The manifest with its signature block, signed by the module identity key (R244, Table 2-16). -/
def State.manifestOf (s : State) (c tenant : Nat) (x : Snap) : Nat × Nat :=
  let (n, v) := s.manifestBody c tenant x
  let d := sha3 (bytesOf n v)
  let sig := Config.mldsaSign s.identityCell d
  (n + 48 + 2420, pack [(n, v), (1, 1), (3, 0), (8, s.moduleId), (32, d.toNat), (2, 2420), (2, 0), (2420, ofBytes sig)])

/-- One tile of the snapshot leaves for the receiving tensor of a Manager's table (R244). -/
def State.sendSnapTile (s : State) (c tenant : Nat) (x : Snap) (i : Nat) (p : Payload) : State :=
  let r := readRef (BitVec.ofNat 64 (x.e.fld 8 8))
  let tag := { Tile.zero.tag with ident := r.ident, fmt := x.e.fld 2 1, seq := r.seq + i, ver := x.ver, tenant := tenant }
  let y : Slot := ({ Slot.zero with tile := { payload := p, tag := tag } } : Slot).recheck
  let dst : TileTo :=
    { seat := if r.own then s.mySeat else r.seat, cell := r.cell, tenant := tenant, ident := r.ident, seq := r.seq + i,
      lane := 5, kind := 0, aux := 0, group := 0xFFFF, ctr := 0xFFFF }
  (s.sendTile c 0 dst y true).1

/-- The first `n` staged tiles leave, to host memory or to the receiving tensor (R244). -/
def State.sendShards (s : State) (c tenant : Nat) (x : Snap) (n : Nat) : State :=
  let k := s.cell c
  (List.range n).foldl (fun s i =>
    if x.e.fld 3 1 = 0 then s.emit (.hostWrite (x.e.fld 8 8 + 4096 * i) 4096 (k.stagedTile tenant i).payload.toNat)
    else s.sendSnapTile c tenant x i (k.stagedTile tenant i).payload) s

/-- The manifest leaves, last of all (R244). -/
def State.sendManifest (s : State) (c tenant : Nat) (x : Snap) : State :=
  let n := (x.shards.map (fun h => h.2.2.2)).sum
  let (mlen, mbytes) := s.manifestOf c tenant x
  if x.e.fld 3 1 = 0 then s.emit (.hostWrite (x.e.fld 8 8 + 4096 * n) mlen mbytes)
  else (List.range ((mlen + 4095) / 4096)).foldl (fun s i =>
    s.sendSnapTile c tenant x (n + i) (BitVec.ofNat 32768 (mbytes >>> (32768 * i)))) s

/-- Tiles of the shards delivered before a snapshot failed (R245): none where a HELD layer or a lost host kept it back from the start, those
of the shards before the first bad one, those before the transfer that failed, a free number of shards (log 107), or all where only the
manifest could not be signed. -/
def State.deliveredTiles (s : State) (c tenant : Nat) (x : Snap) (linkOk : Bool) : State × Nat :=
  let k := s.cell c
  let tiles (l : List (Nat × Nat × Nat × Nat)) : Nat := (l.map (fun h => h.2.2.2)).sum
  let good (h : Nat × Nat × Nat × Nat) : Bool := (List.range h.2.2.2).all (fun i =>
    let y := k.stagedTile tenant (h.2.2.1 + i)
    !y.tag.poison && y.tag.check = payloadCrc y.payload)
  if x.bad ≠ 0 || (x.e.fld 3 1 = 0 && !s.hostUp) then (s, 0)
  else if !x.shards.all good then (s, tiles (x.shards.takeWhile good))
  else if linkOk then (s, tiles x.shards)
  else
    let (v, s1) := s.takeFree
    (s1, tiles (x.shards.take (v.toNat % (max 1 x.shards.length))))

/-- A taken snapshot ends: published, or with the reason of R245 and an error record that names its tag; the staging tensor goes. -/
def State.endSnapshot (s : State) (c tenant : Nat) (linkOk : Bool) : State :=
  let k := s.cell c
  match k.ud.snaps.get none tenant with
  | none => s
  | some x =>
    if !x.taken then s
    else
      let tiles := (List.range ((x.shards.map (fun h => h.2.2.2)).sum)).map (k.stagedTile tenant)
      let bad := if x.bad ≠ 0 then x.bad
        else if tiles.any (·.tag.poison) then vPOISON
        else if tiles.any (fun y => y.tag.check ≠ payloadCrc y.payload) || !(s.cell s.identityCell).keyOk then vCHECK
        else if !linkOk || (x.e.fld 3 1 = 0 && !s.hostUp) then vLINK
        else 0
      let (s0, n) := s.deliveredTiles c tenant x linkOk
      let sent := s0.sendShards c tenant x n
      let s1 := if bad = 0 then sent.sendManifest c tenant x
        else
          let cls := if bad = vPOISON then clsPOISON else if bad = vCHECK then clsCHECKVALUE else clsLINK
          sent.err c { cls := cls, sev := 2, unit := 2, tenant := tenant, reason := bad, detail := x.e.fld 0x10 4 }
      let s2 := s1.onCell c (fun k => (k.dropTensor tenant stageIdent).setSnap tenant none)
      s2.complete c x.src x.e { status := uDONE, reason := bad, tag := x.e.fld 0x10 4 }

def execSnapshotTransfer (t : Nat) (cell : Fin 8) (tenant : Fin 64) (linkOk : Bool) (s : State) : Res :=
  .next (s.run t (fun s => if s.cellUp cell then s.endSnapshot cell tenant linkOk else s))

end Sys2Proof.Machine
end

