-- ==== Sys2Proof/Machine/Passes.lean ====
section
/-!
DEFINITION. The passes of the update die in a learning seal (R219 to R240): the ratio pass, the apply pass with its working weights
(R224), ratio events (R232), the broadcast of new weights (R208 order 7), and the void causes a home cell finds (R206, R215,
R218, R230).
-/

namespace Sys2Proof.Machine

/-! ## What a home cell finds before the decision -/

/-- The layer's environment; none where no binding, no layout or no gradient sum is there. `extra` are tiles found poisoned now, `ratio`
says that the pass is a ratio pass. -/
def Cell.layerEnv (k : Cell) (x : Named) (extra : List Nat) (ratio : Bool) : Option LayerEnv :=
  match k.ud.bindOf x.1 with
  | none => none
  | some b =>
    let parts := k.partsOf x.2.2.2 x.1
    let n := partElems parts
    if b.tenant ≠ x.2.2.2 ∨ n = 0 then none
    else match k.gradOf x.2.2.2 x.2.2.1 n with
      | none => none
      | some (code, g) =>
        some
          { cell := k, bind := b, parts := parts, n := n, sl := k.ud.scale x.1, code := code, grad := g,
            bad := (k.statePoison b ((n + 1023) / 1024) ++ extra).dedup, badCtr := k.badTiles b.tenant b.counter,
            badStat := k.badTiles b.tenant b.precond, ratio := ratio }

/-- Void causes that the home cell reports for one layer (R206, R218, R230). -/
def Cell.layerCauses (k : Cell) (x : Named) : List Nat :=
  match k.layerEnv x [] false with
  | none => [vCHECK]
  | some v =>
    (if k.gradPoison x.2.2.2 x.2.2.1 then [vPOISON] else []) ++
    (if v.bind.strict && 0 < v.requests then [vCHECK] else [])

/-- Void causes of the cell as a home (R215: ADMIN while its U-die is not in RUN). -/
def Cell.homeCauses (k : Cell) (tenant : Nat) : List Nat :=
  let l := k.ud.namedFor tenant
  if l.isEmpty then [] else if k.ud.mode ≠ .run then [vADMIN] else (l.flatMap k.layerCauses).dedup

/-! ## Ratio events (R232) -/

/-- Bits of Flags A in a report entry (Table 10-7). -/
def RepEntry.outOfBand (x : RepEntry) : Bool := x.flagsA.getLsbD 0 && (x.flagsA.getLsbD 1 || x.flagsA.getLsbD 2)

/-- Cells of this seat that compute or home a layer, by the active figure of cell `c` (R320). -/
def State.cellsOfLayer (s : State) (c layer : Nat) : List Nat :=
  (c :: ((((s.cell c).fig.active.map (·.places)).getD []).filter (fun p =>
    p.layer = layer && p.serve && (p.seat = 0xFFFF || p.seat = s.mySeat))).map (·.cell)).dedup

/-- An out-of-band ratio is entered in the ring, and asks for field tests of the home cell and of the cells that compute the layer
(R232, R320). -/
def State.ratioEvent (s : State) (c tenant : Nat) (x : RepEntry) : State :=
  if !x.outOfBand then s
  else
    let s1 := s.err c { cls := clsRATIO, sev := 2, unit := 2, tenant := tenant, obj := x.layer, detail := x.ratio.toNat }
    (s1.cellsOfLayer c x.layer).foldl (fun s m => s.onCell m (fun k =>
      ((((k.tenantRec tenant).map (·.coreList)).getD []).foldl (fun (k : Cell) n => k.onCore n (fun y => { y with testReq := true })) k))) s1

/-- A report entry joins those of the step. -/
def State.addEntry (s : State) (c : Nat) (x : RepEntry) : State :=
  s.onCell c (fun k => { k with ud := { k.ud with entries := (k.ud.entries.filter (fun y => y.layer ≠ x.layer)) ++ [x] } })

/-! ## The ratio pass (R234, R238) -/

/-- A rule trap in the pass is entered in the ring with its slot (R222). -/
def State.trapRecord (s : State) (c tenant : Nat) (x : RepEntry) : State :=
  if x.flagsA.getLsbD 7 then s.err c { cls := clsINFO, sev := 0, unit := 2, tenant := tenant, obj := x.layer, detail := x.rule } else s

/-- One layer in the ratio pass: poisoned state that it reads makes the layer HELD (R238), and a skipped or wholly frozen layer reads none
(R227, R229); it writes nothing but its entry. -/
def State.ratioLayer (s : State) (c : Nat) (x : Named) : State :=
  match (s.cell c).layerEnv x [] true with
  | none => s
  | some v =>
    let s1 := match if v.skipped then none else v.met.min? with
      | none => s
      | some q => s.holdLayers c x.2.2.2 [x.1] q
    let held := (s1.cell c).ud.held.contains x.1
    let o := { v with bad := [], badCtr := [], badStat := [] }.run held true s.mySeat c
    ((s1.addEntry c o.entry).ratioEvent c x.2.2.2 o.entry).trapRecord c x.2.2.2 o.entry

/-! ## Sums of the cell as a home (order 2 of Table 9-3) -/

/-- Learning images of the tenant in the cells of its group on this module, with their cells. -/
def State.groupImages (s : State) (t : Nat) : List (Nat × Image) :=
  (s.coord t).group.filterMap (fun m =>
    (((s.cell m).run t).image.filter (fun i => i.phase = 2)).map (fun i => (m, i)))

/-- Layers that the step updates at home cell `c`: those named there, and those that an UPDATE of the module's images is to name. -/
def State.updatesAt (s : State) (c t : Nat) : List Named :=
  let recs := (s.groupImages t).flatMap (fun q => q.2.ops.filterMap (fun o =>
    let layer := bits o.param.toNat 0 16
    if o.opcode = 8 && s.homeCell q.1 layer = some c then some ((layer, o.variant, o.a, t) : Named) else none))
  ((s.cell c).ud.namedFor t ++ recs).dedup

/-- Tiles of a sum tensor at home `c` that the step's REDUCEs write: by the REDUCE records of the module's images, or every tile of the
layer's sum while no cell of the module computes the step. -/
def State.sumTiles (s : State) (c : Nat) (x : Named) : List Nat :=
  let r := readRef x.2.2.1
  match (s.cell c).ownTensor x.2.2.2 r.ident.toNat with
  | none => []
  | some t =>
    let per := elemsPer t.fmt
    let imgs := s.groupImages x.2.2.2
    let tiles := (List.range (tilesFor t.fmt ((s.cell c).layerElems x.2.2.2 x.1))).map (r.seq + ·)
    tiles.filter (fun q => imgs.isEmpty || imgs.any (fun i => i.2.ops.any (fun o =>
      let d := readRef o.d
      o.opcode = 7 && d.ident = r.ident &&
      ((d.space = 1 && i.1 = c) || (d.space = 2 && d.cell = c && (d.own || d.seat = s.mySeat))) &&
      d.seq * elemsPer o.fmtD < per * (q + 1) && per * q < d.seq * elemsPer o.fmtD + o.m * o.n)))

/-- Tiles of a sum that are still to be written. -/
def State.unwritten (s : State) (c : Nat) (x : Named) : List Nat :=
  (s.sumTiles c x).filter (fun q => !(s.cell c).sums.contains (x.2.2.2, (readRef x.2.2.1).ident, q))

/-- Orders 1 and 2 of Table 9-3: the cell's parts are sent, and every sum of the tenant that the cell homes has been written (R205). -/
def State.sumsDone (s : State) (c t : Nat) : Bool :=
  let k := s.cell c
  !k.nodes.any (fun x => x.tenant = t) && !k.partWait.any (fun w => w.tenant = t) &&
  (s.updatesAt c t).all (fun x => (k.ud.namedFor t).contains x && (s.unwritten c x).isEmpty)

/-- Some part missing from a sum is one whose sender's seat has departed, or to whom no path is left (R206). -/
def State.partPathLost (s : State) (c t : Nat) : Bool :=
  let k := s.cell c
  let fig := ((c :: (s.coord t).group).filterMap (fun m => (s.cell m).fig.active)).find? (fun f => f.phase = 2)
  (s.updatesAt c t).any (fun x => (s.unwritten c x).any (fun q =>
    ((fig.map (·.places)).getD []).any (fun p =>
      let seat := if p.seat = 0xFFFF then s.mySeat else p.seat
      p.serve && p.layer = x.1 && !(seat = s.mySeat ∧ p.cell = c) &&
      !k.nodes.any (fun y => y.tenant = t && y.ident = (readRef x.2.2.1).ident && y.tileSeq = q && y.index = p.replica / 2 ^ y.level) &&
      (s.seating.departed.contains seat || (seat = s.mySeat && !s.cellUp p.cell) || (s.route c seat p.cell).isNone))))

/-- Every thread of the tenant has reached DONE on the cell, or the watchdog has stopped them (R68); a fenced core runs none. -/
def Cell.threadsOver (k : Cell) (tenant : Nat) : Bool :=
  k.step.stopped || k.cores.all (fun p => p.2.out || p.2.ctxs.all (fun x => x.2.tenant ≠ tenant || x.2.st = .done || x.2.st = .free))

/-- The cell computes for the tenant's learning steps: its active figure is a learning figure that gives the tenant LEARN. -/
def Cell.computes (k : Cell) (t : Nat) : Bool :=
  ((k.fig.active.map (·.phase)).getD 0 = 2) && ((k.tenantRec t).map (·.learn)).getD false

/-- The cell's own work for the tenant's learning step is over: none on a cell that takes part for its home layers only (R248). -/
def Cell.workOver (k : Cell) (t : Nat) : Bool := !k.computes t || k.threadsOver t

/-- The read-only ratio pass over every home layer of the step (R220, R234). -/
def State.ratioAll (s : State) (c tenant : Nat) : State :=
  let s1 := (((s.cell c).ud.namedFor tenant)).foldl (fun s x => s.ratioLayer c x) s
  s1.onCell c (fun k => k.onLrn tenant (fun l => { l with phase := .ratioed }))

def execRatioPass (t : Nat) (cell : Fin 8) (tenant : Fin 64) (s : State) : Res :=
  .next (s.run t (fun s =>
    let k := s.cell cell
    let l := k.lrn tenant
    if s.cellUp cell && l.phase = .running && l.checked && k.ud.mode = .run && s.sumsDone cell tenant && k.workOver tenant then
      s.ratioAll cell tenant
    else s))

/-! ## The apply pass (R219, R224, R239) -/

/-- Job seed of a learning step: that of the tenant's learning image on some cell of its group. -/
def State.jobSeed (s : State) (c tenant : Nat) : BitVec 64 :=
  ((((c :: (s.coord tenant).group).filterMap (fun m => ((s.cell m).run tenant).image)).find? (fun i => i.phase = 2)).map
    (·.seed)).getD 0

/-- New working weights of one part (R224): place in the tensor and bits, RNE or SR on stream 0x0002. -/
def workingNews (p : Part) (srw : Bool) (seed : BitVec 64) (step : Nat) (l : List ElemNew) : List (Nat × Nat) :=
  (l.filter (fun x => p.first ≤ x.idx && x.idx < p.first + p.tensor.elems)).map (fun x =>
    let i := x.idx - p.first
    (i, (conv p.tensor.fmt x.w1 (if srw then some (rand16 seed 2 p.tensor.ident.toNat step i) else none)).bits))

/-- The new elements of a layer are written: masters and state together, counters, statistics, then working weights (R219, R224). -/
def State.writeLayer (s : State) (c : Nat) (v : LayerEnv) (o : LayerOut) : State :=
  let b := v.bind
  let word (f : ElemNew → Option (BitVec 32)) : List (Nat × Nat) :=
    o.news.filterMap (fun x => (f x).map (fun y => (x.idx, y.toNat)))
  let put (s : State) (ident : BitVec 24) (l : List (Nat × Nat)) : State :=
    if ident = 0 then s else (s.putElems c b.tenant ident 1024 l).1
  let s1 := put (put (put s b.master (word (fun x => some (bits32 x.w1)))) b.m1 (word (fun x => x.state[0]?))) b.m2 (word (fun x => x.state[1]?))
  let s2 := put (put s1 b.counter o.ctrs) b.precond o.stats
  let seed := s.jobSeed c b.tenant
  let step := ((s.cell c).run b.tenant).jobStep.toNat % 2 ^ 32
  v.parts.foldl (fun s p =>
    (s.putElems c b.tenant p.tensor.ident (elemsPer p.tensor.fmt) (workingNews p b.srw seed step o.news)).1) s2

/-- The mover broadcasts an updated layer's working weights to the other SERVE holders of its format under the learning figure
(Table 9-3 order 7, R213), tagged with the new version (R211). -/
def State.broadcastLayer (s : State) (c : Nat) (v : LayerEnv) (ver : BitVec 16) : State :=
  let k := s.cell c
  match k.fig.active with
  | none => s
  | some f =>
    if f.phase ≠ 2 then s
    else v.parts.foldl (fun s p =>
      let to' := (f.places.filter (fun q => q.serve && q.layer = v.bind.layer && q.format = p.tensor.fmt)).map (fun q =>
        (if q.seat = 0xFFFF then s.mySeat else q.seat, q.cell))
      ((to'.filter (fun h => h ≠ (s.mySeat, c))).dedup).foldl (fun s h =>
        (List.range p.tensor.count).foldl (fun s i =>
          let x := (((s.cell c).ent (p.tensor.base + i)).current).getD Tile.zero
          let y : Slot := { tile := { x with tag := { x.tag with ver := ver } }, side := 0, filled := false }
          let dst : TileTo :=
            { seat := h.1, cell := h.2, tenant := v.bind.tenant, ident := p.tensor.ident, seq := i, lane := 4, kind := 0,
              aux := 0, group := 0xFFFF, ctr := 0xFFFF }
          (s.sendTile c 12 dst y false).1) s) s) s

/-- Tiles of a layer that the faults of the pass name as poisoned. -/
def faultTiles (l : List PassFault) (layer : Nat) : List Nat :=
  l.filterMap (fun f => match f with
    | .poisoned y q => if y = layer then some q else none
    | _ => none)

/-- One layer in the apply pass. -/
def State.applyLayer (s : State) (c : Nat) (faults : List PassFault) (ver : BitVec 16) (x : Named) : State :=
  let k := s.cell c
  match k.layerEnv x (faultTiles faults x.1) false with
  | none => s
  | some v =>
    let held := k.ud.held.contains x.1
    let checked := (k.lrn x.2.2.2).checked
    let o := v.run held checked s.mySeat c
    let next := ((k.ud.nextScale.find? (fun y => y.1 = x.1)).map (·.2)).getD v.sl
    let sat := s.saturatedOn (s.coord x.2.2.2).group x.2.2.2 x.1
    let e := { o.entry with sNext := next, flagsB := o.entry.flagsB ||| (if sat then 1#8 else 0#8) }
    let s1 := match o.poison with
      | none => s
      | some q => s.holdLayers c x.2.2.2 [x.1] q
    let s2 := s1.addEntry c e
    let s3 := if checked then s2 else s2.ratioEvent c x.2.2.2 e
    let s4 := s3.trapRecord c x.2.2.2 o.entry
    if o.news.isEmpty && o.ctrs.isEmpty && o.stats.isEmpty then s4 else (s4.writeLayer c v o).broadcastLayer c v ver

/-- Recomputed tiles of the pass are entered in the ring; a vector core whose tile fails twice is fenced in the U-die (R219,
R240). -/
def State.passFault (s : State) (c tenant : Nat) (f : PassFault) : State :=
  match f with
  | .poisoned _ _ => s
  | .recompute layer seq vcore again =>
    let s1 := s.err c { cls := clsCHECKVALUE, sev := 1, unit := 2, tenant := tenant, obj := layer, detail := seq }
    if again && vcore < 16 then s1.onCell c (fun k => { k with ud := { k.ud with
      vfenced := if k.ud.vfenced.contains vcore then k.ud.vfenced else k.ud.vfenced ++ [vcore] } })
    else s1

/-- The apply pass of a committed step (order 7); a pending snapshot is taken with it (R243). -/
def State.applyAll (s : State) (c tenant : Nat) (faults : List PassFault) : State :=
  let ver := ((s.cell c).ver tenant).homeVer + 1
  let s1 := faults.foldl (fun s f => s.passFault c tenant f) s
  let s2 := ((s1.cell c).ud.namedFor tenant).foldl (fun s x => s.applyLayer c faults ver x) s1
  (s2.takeSnapshot c tenant ver).onCell c (fun k =>
    let k1 := k.onLrn tenant (fun l => { l with phase := .applied })
    { k1 with ud := { k1.ud with inPass := k1.learn.any (fun l => l.2.phase = .decided && l.2.decision.map (·.1) = some true) } })

/-- A commit decision is in, and this cell has home layers of the step to update. -/
def Cell.applyDue (k : Cell) (tenant : Nat) : Bool :=
  (k.lrn tenant).phase = .decided && (k.lrn tenant).decision.map (·.1) = some true && !(k.ud.namedFor tenant).isEmpty

def execApplyPass (t : Nat) (cell : Fin 8) (tenant : Fin 64) (faults : List PassFault) (s : State) : Res :=
  .next (s.run t (fun s =>
    if s.cellUp cell && (s.cell cell).applyDue tenant then s.applyAll cell tenant faults else s))

end Sys2Proof.Machine
end

