-- ==== Sys2Proof/Machine/Rest.lean ====
section
/-!
DEFINITION. The power state that a cell enters after a seal (R361, R362), and what it plans next: the gap of R355 and the steps of
its serving group (R168).
-/

namespace Sys2Proof.Machine

/-! ## Serving groups (R168, R169) -/

/-- A PLACE record at this module's seat (Table 2-14). -/
def State.placedHere (s : State) (p : PlaceRec) : Bool := p.seat = 0xFFFF || p.seat = s.mySeat

/-- SERVE records at this seat in the cell's active generation figure. -/
def State.serves (s : State) (c : Nat) : List PlaceRec :=
  match s.fig c with
  | some f => if f.phase = 1 then f.places.filter (fun p => p.serve && s.placedHere p) else []
  | none => []

/-- Replica that the cell serves. -/
def State.replicaOf (s : State) (c : Nat) : Option Nat := ((s.serves c).find? (fun p => p.cell = c)).map (·.replica)

/-- Lead cell of the cell's serving group: the holder of the SERVE record of its replica's embedding (R168). -/
def State.leadCell (s : State) (c : Nat) : Option Nat :=
  match s.replicaOf c with
  | none => none
  | some r => ((s.serves c).find? (fun p => p.kind = 2 && p.replica = r)).map (·.cell)

def State.isLead (s : State) (c : Nat) : Bool := s.leadCell c = some c

/-- Cells of the serving group that the cell is in, by its own figure (R168). -/
def State.groupOf (s : State) (c : Nat) : List Nat :=
  match s.replicaOf c with
  | none => []
  | some r => allCells.filter (fun m => (s.serves c).any (fun p => p.cell = m && p.replica = r))

/-- Other seats that hold a cell of the serving group (R168, R292, R293). -/
def State.groupSeats (s : State) (c : Nat) : List Nat :=
  match s.replicaOf c, s.fig c with
  | some r, some f => ((f.places.filter (fun p => p.serve && !s.placedHere p && p.replica = r)).map (·.seat)).dedup
  | _, _ => []

/-- A cell, wherever its seat, is in the serving group of cell `c` (R168). -/
def State.inGroup (s : State) (c seat cell : Nat) : Bool :=
  (seat = s.mySeat && (s.groupOf c).contains cell) ||
  match s.replicaOf c, s.fig c with
  | some r, some f => f.places.any (fun p => p.serve && p.replica = r && p.seat = seat && p.cell = cell)
  | _, _ => false

/-- VOID frames of a doubted step, by the reasons `codes` found for it, to the cells outside the group that received its tiles, one for each
destination and tensor (R315). -/
def State.doubtVoids (s : State) (c : Nat) (codes : List Nat) (inside : Nat → Nat → Bool) : State :=
  let why := pickCause (codes.filter (fun x => x = vCHECK || x = vDISAGREE || x = vFENCE))
  if why = 0 then s
  else ((s.cell c).step.sentTo).foldl (fun s x =>
    if inside x.1 x.2.1 || (x.1 = s.mySeat && x.2.1 = c) then s else s.sendVoid c x.1 x.2.1 why x.2.2.1 x.2.2.2.toNat 0) s

/-! ## The learning group and its coordinator (R207, R248) -/

/-- The cell takes part for its home layers only: a generation figure that gives the tenant LEARN, with HOME records here (R248). -/
def State.homeOnly (s : State) (c t : Nat) : Bool :=
  let k := s.cell c
  ((k.fig.active.map (·.phase)).getD 0 = 1) && ((k.tenantRec t).map (·.learn)).getD false &&
  ((k.fig.active.map (·.places)).getD []).any (fun p => p.home && p.cell = c && (p.seat = 0xFFFF || p.seat = s.mySeat))

/-- Cells of this module in the tenant's learning group. -/
def State.learnGroup (s : State) (t : Nat) : List Nat :=
  allCells.filter (fun c => s.cellUp c && ((s.cell c).computes t || s.homeOnly c t))

/-- The group spans more than one seat: a learning figure of it names another seat. -/
def State.manySeats (s : State) (t : Nat) : Bool :=
  (s.learnGroup t).any (fun c => (s.cell c).computes t &&
    (((s.cell c).fig.active.map (·.places)).getD []).any (fun p => p.seat ≠ 0xFFFF && p.seat ≠ s.mySeat))

/-- The Manager at seat 0 coordinates (R207). -/
def State.byManager (s : State) (t : Nat) : Bool := s.boot.anchorLost || s.manySeats t

/-- Some coordinator is there: the module supervisor, or a Manager that the module can reach (R20, R207, R293). -/
def State.coordinated (s : State) (t : Nat) : Bool :=
  if s.byManager t then s.seating.seated && !s.seating.orphaned else s.boot.running

/-! ## Next planned step (R355, R361) -/

/-- End of the gap of R355 on a computing cell: 0 where its share reaches its rated draw or no step has ended, none where the share
is 90 W or less and no gap is defined. -/
def State.gapEnd (s : State) (c t : Nat) : Option Nat :=
  let k := s.cell c
  let sh := k.power.share
  let r2 := k.rated2
  if r2 ≤ 2 * sh then some 0
  else if sh ≤ 90 then none
  else match (k.lrn t).gapFrom with
    | none => some 0
    | some e =>
      let d := Config.learnDuration (((k.run t).image.map (·.ident)).getD 0)
      some (e + (d * (r2 - 2 * sh) + (2 * sh - 181)) / (2 * sh - 180))

/-- An entry that a step will carry: admitted, not held, not ended. -/
def ReqEntry.moving (e : ReqEntry) : Bool := e.st = .waiting || e.st = .prefill || e.st = .decode

/-- Device time of the cell's next planned step; none where no step is planned (R361). A learning step is planned while its tenant
has runs left, an image and a coordinator (R20, R207). -/
def State.nextStart (s : State) (c : Nat) : Option Nat :=
  let k := s.cell c
  let now := s.time c
  let gen := if (((s.leadCell c).map (fun m => (s.cell m).gen.table)).getD []).any (fun e => e.2.moving) then [now] else []
  let learn := k.runs.filterMap (fun r =>
    if r.2.image.any (fun i => i.phase = 2) && r.2.runCount ≠ 0 && s.coordinated r.1 then s.gapEnd c r.1 else none)
  (gen ++ learn).min?

/-! ## Clusters (R22, R33, R360) -/

/-- What a cluster's clock gate and power switch stand at: 0 clocked, 1 clock-gated, 2 power-gated with retention, 3 off. The active figure's
policy for the cluster, whether its tenants' step runs, and the cell's power state settle it, so that State keeps no copy. -/
def Cell.gate (k : Cell) (cluster : Nat) : Nat :=
  let cell := min 2 k.power.state.num
  match k.fig.active with
  | none => cell
  | some f =>
    let idle := ((f.power.find? (fun p => p.cluster = cluster)).map (·.idle)).getD 0
    if idle = 3 then 3
    else if k.step.running && f.tenantClusters.contains cluster then cell
    else max idle cell

/-! ## Cell power states (Table 15-3, R361, R362) -/

/-- Wake latency to C0, ns (Table 15-3). -/
def wakeNs (n : Nat) : Nat := [0, 200, 2000, 60000, 40000000].getD n 0

def stateOf (n : Nat) : PState := [PState.c0, .c1, .c2, .c3, .c4].getD n .c0

/-- Wake latency W of the deepest state that the POWER section permits (R177). -/
def Cell.wakeBound (k : Cell) : Nat := wakeNs ((k.fig.active.map (·.deepest)).getD 0)

/-- C4 may be entered (R362); a slot that loads or is staged, whose contents C4 would lose, keeps the cell out of it. -/
def Cell.mayC4 (k : Cell) : Bool :=
  k.tiers.dir.all (fun t => !(t.pinFast && t.holder.isNone)) && k.gen.table.all (fun e => !(e.2.st ≠ .free && e.2.st ≠ .ending)) &&
  k.tiers.tiles.all (fun e => !e.2.lagging) && k.fig.staging.isNone &&
  k.fig.slots.all (fun x => match x.2 with
    | .loading _ _ _ => false
    | _ => true)

/-- The fast tier is emptied: F to S, every fast copy dropped (R362). -/
def TileEnt.asleep (e : TileEnt) : TileEnt :=
  match e.st with
  | .F => { e with st := .S, home := e.fast, homeBad := false, fast := Tile.zero }
  | .HC => { e with st := .H, fast := Tile.zero }
  | .HD | .HDX => { e with st := .HX, shadow := e.fast, shadowBad := false, fast := Tile.zero }
  | _ => e

/-- What C4 loses: the fast tier, core memory, the figure store slots (Table 15-3). -/
def Cell.enterC4 (k : Cell) : Cell :=
  { k with
    tiers := { k.tiers with tiles := k.tiers.tiles.mapV TileEnt.absent TileEnt.asleep }
    cores := k.cores.mapV Core.reset (fun x => { x with slots := [], sets := [] })
    fig := { k.fig with slots := [], activeSlot := none, idleSlot := none } }

/-- The deepest state that R361 lets the cell enter. -/
def State.deepest (s : State) (c : Nat) : Nat :=
  let k := s.cell c
  let now := s.time c
  let fits (n : Nat) : Bool :=
    n ≤ ((k.fig.active.map (·.deepest)).getD 0) && (n ≠ 4 || k.mayC4) &&
    (match s.nextStart c with
     | none => true
     | some t => 2 * wakeNs n ≤ t - now)
  (([1, 2, 3, 4].filter fits).max?).getD 0

/-- The power state after a seal (R361). -/
def State.rest (s : State) (c : Nat) : State :=
  let k := s.cell c
  if k.step.running || !s.cellUp c || k.power.waking then s
  else
    let n := s.deepest c
    if n ≤ k.power.state.num then s
    else
      let k1 := if n = 4 then k.enterC4 else k
      s.setCell c { k1 with power := { k1.power with state := stateOf n } }

end Sys2Proof.Machine
end

