-- ==== Sys2Proof/Machine/Tenancy.lean ====
section
/-!
DEFINITION. Continuity of tenants between two planes (R49), and when a pending swap takes a cell's next boundary (R43, R249).
-/

namespace Sys2Proof.Machine

/-- Chain records that reach a cluster with one of the tenant's cores. -/
def Figure.chainsFor (f : Figure) (t : Nat) : List ChainRec :=
  let cl := ((f.tenantRec t).map TenantRec.coreList).getD []
  f.chains.filter (fun r => cl.any (fun n => r.clusters.getLsbD (clusterOf n)))

/-- PLACE records of a layer. -/
def Figure.placesOf (f : Figure) (layer : Nat) : List PlaceRec := f.places.filter (fun p => p.layer = layer)

/-- Tenant `t` is continuous from figure `f` to figure `g` (R49). -/
def Cell.continuous (k : Cell) (f g : Figure) (t : Nat) : Bool :=
  let layers := (((k.run t).image.map (·.layers)).getD []).map (·.layer)
  (g.tenantRec t).isSome && f.tenantRec t = g.tenantRec t && f.poolRec t = g.poolRec t && f.reqtabRec t = g.reqtabRec t &&
  f.queueRec t = g.queueRec t && f.chainsFor t = g.chainsFor t && f.fenceReserve = g.fenceReserve &&
  f.redoReserve = g.redoReserve && f.costs = g.costs && layers.all (fun l => f.placesOf l = g.placesOf l)

/-- Discontinuous tenants of a pending swap (R49). -/
def Cell.discontinuous (k : Cell) : List Nat :=
  match k.fig.active, k.fig.idle with
  | some f, some g => (f.tenants.map (·.tenant)).filter (fun t => !k.continuous f g t)
  | _, _ => []

/-- An entry that holds an admitted request not yet delivered or voided. -/
def ReqEntry.live (e : ReqEntry) : Bool := e.st ≠ .free && e.st ≠ .ending

/-- Entries of a tenant with a request not yet delivered or voided. -/
def Cell.liveOf (k : Cell) (t : Nat) : List Nat :=
  (k.gen.table.filter (fun e => e.2.live && e.2.tenant = t)).map (·.1)

/-- Affected tenants (R49): discontinuous, with admitted requests. -/
def Cell.affected (k : Cell) : List Nat := k.discontinuous.filter (fun t => !(k.liveOf t).isEmpty)

/-- The ARM condition is met and staging is complete (R43). -/
def Cell.armMet (k : Cell) (now : Nat) : Bool :=
  match k.fig.arm with
  | none => false
  | some c => c.toNat ≤ now && k.fig.staging.isNone && k.fig.idle.isSome

/-- The swap is due at the boundary: in drain mode no affected tenant has a request left (R43, R50); no pass runs (R249). -/
def Cell.swapDue (k : Cell) (now : Nat) : Bool :=
  k.armMet now && !k.ud.inPass && ((k.fig.idle.map (·.stop)).getD false || k.affected.isEmpty)

def State.swapWaits (s : State) (c : Nat) : Bool := (s.cell c).swapDue (s.time c)

end Sys2Proof.Machine
end

