-- ==== Sys2Proof/Machine/Plan.lean ====
section
/-!
DEFINITION. Admission (08_generation): request descriptors (Table 8-2), the plan of R176 as it follows from the request table, the
admission test of R177 with its narrowings (R178, R299, R319).
-/

namespace Sys2Proof

/-- Fields of a request descriptor (Table 8-2). -/
def Entry.rqTenant (e : Entry) : Nat := e.fld 1 1
def Entry.rqQueue (e : Entry) : Nat := e.fld 2 1
def Entry.rqPrio (e : Entry) : Nat := e.fld 3 1 % 8
def Entry.rqChunk (e : Entry) : Nat := if (e.fld 3 1).testBit 3 then 512 else 256
def Entry.rqDest (e : Entry) : Nat := e.fld 3 1 / 16 % 4
def Entry.rqStop (e : Entry) : Bool := (e.fld 3 1).testBit 6
def Entry.rqTag (e : Entry) : Nat := e.fld 4 4
def Entry.rqDeadline (e : Entry) : Nat := e.fld 8 8
def Entry.rqLp (e : Entry) : Nat := e.fld 0x10 4
def Entry.rqLmax (e : Entry) : Nat := e.fld 0x14 4
def Entry.rqPrompt (e : Entry) : BitVec 24 := BitVec.ofNat 24 (e.fld 0x18 3)
def Entry.rqDraft (e : Entry) : Nat := e.fld 0x1B 1 % 16
def Entry.rqFirst (e : Entry) : Nat := e.fld 0x1C 4
def Entry.rqStopTok (e : Entry) : Nat := e.fld 0x20 4
def Entry.rqKey (e : Entry) : BitVec 24 := BitVec.ofNat 24 (e.fld 0x24 3)
def Entry.rqLead (e : Entry) : Nat := e.fld 0x27 1
def Entry.rqRow (e : Entry) : Nat := e.fld 0x34 4
def Entry.rqWhere (e : Entry) : BitVec 64 := BitVec.ofNat 64 (e.fld 0x38 8)

end Sys2Proof

namespace Sys2Proof.Machine

/-! ## Loads and the plan (R173, R176) -/

/-- What a request reserves (R176): `np` steps of `c` tokens from step `first` on, then 1 + d₀ tokens up to `steps` steps in all. -/
structure Load where
  first : Nat
  np    : Nat
  steps : Nat
  c     : Nat
  d0    : Nat
  ctx   : Nat
  deriving DecidableEq, Repr

def ceilDiv (a b : Nat) : Nat := (a + b - 1) / b

/-- The load of a new request whose first step is `first`. -/
def loadOf (e : Entry) (first : Nat) : Load :=
  let np := ceilDiv e.rqLp e.rqChunk
  { first := first, np := np, steps := np + e.rqLmax - 1, c := e.rqChunk, d0 := e.rqDraft, ctx := e.rqLp + e.rqLmax }

/-- Planned token count: the cost of R173. -/
def tokenCost (e : Entry) : Nat :=
  e.rqChunk * ceilDiv e.rqLp e.rqChunk + (e.rqLmax - 1) * (1 + e.rqDraft)

/-- The load that an admitted request has in the plan. -/
def ReqEntry.load (e : ReqEntry) : Load :=
  { first := e.first, np := e.np, steps := e.steps, c := e.desc.rqChunk, d0 := e.d0, ctx := e.lp + e.lmax }

/-- The load of an admitted request's remaining work from step `first` on (R193). -/
def ReqEntry.rest (e : ReqEntry) (first : Nat) : Load :=
  let np := ceilDiv (e.lp - e.done) e.desc.rqChunk
  { first := first, np := np, steps := if e.done < e.lp then np + e.lmax - 1 else e.lmax - e.g, c := e.desc.rqChunk,
    d0 := e.d0, ctx := e.lp + e.lmax }

/-- Tokens, draft length and context that a load reserves in step `s`; none outside its steps (R176). -/
def Load.use (l : Load) (s : Nat) : Option (Nat × Nat × Nat) :=
  if s < l.first || l.first + l.steps ≤ s then none
  else if s < l.first + l.np then some (l.c, 0, l.ctx) else some (1 + l.d0, l.d0, l.ctx)

/-- T(s), Dr(s) and Q(s); none where no request is in the step. -/
def loadAt (ls : List Load) (s : Nat) : Option (Nat × Nat × Nat) :=
  match ls.filterMap (fun l => l.use s) with
  | [] => none
  | us => some ((us.map (·.1)).sum, us.foldl (fun m u => max m u.2.1) 0, us.foldl (fun m u => max m u.2.2) 0)

/-- First COST record in section order that covers a step (R36). -/
def Figure.cost (f : Figure) (x : Nat × Nat × Nat) : Option CostRec :=
  f.costs.find? (fun r => x.1 ≤ r.tokens && x.2.1 ≤ r.draft && x.2.2 ≤ r.context)

/-- D(s): 0 where the plan holds no request in the step (R177). -/
def Figure.planned (f : Figure) (ls : List Load) (s : Nat) : Nat :=
  match loadAt ls s with
  | none => 0
  | some x => ((f.cost x).map (·.duration)).getD 0

/-- Steps from `a` to `b` at which the plan may change, in order. -/
def cutsOf (ls : List Load) (a b : Nat) : List Nat :=
  inOrder (fun x y => x ≤ y)
    (((a :: b :: ls.flatMap (fun l => [l.first, l.first + l.np, l.first + l.steps])).filter (fun s => a ≤ s && s ≤ b)).dedup)

/-- Sum of `g` over the steps between the first and the last cut, `g` being constant between cuts. -/
def sumCuts (g : Nat → Int) : List Nat → Int
  | [] => 0
  | a :: r =>
    match r with
    | [] => 0
    | b :: _ => g a * ((b - a : Nat) : Int) + sumCuts g r

/-! ## Narrowing (R27, R178, R299, R319) -/

/-- Some group of the tenant's current image has no place in the deal (R64, R319). -/
def Cell.unplaced (k : Cell) (t : Nat) : Bool := 2 < k.outCores t && (k.run t).image.isSome && (k.run t).deal.any (·.isNone)

/-- Factor on COST durations, as numerator and denominator: 5/4 while a sync wire of the group is failed (R178), 1 + 2⁻¹² while the
lead slews (R299), (n − 2)/(n − f) on a cell beyond its fence reserve (R319). -/
def State.factor (s : State) (c t : Nat) : Nat × Nat :=
  let g := s.groupOf c
  let mul (a b : Nat × Nat) : Nat × Nat := (a.1 * b.1, a.2 * b.2)
  let wire := if s.badWires.any (fun w => g.contains w.1 && g.contains w.2) then (5, 4) else (1, 1)
  let slew := if (s.cell c).slew ≠ 0 then (4097, 4096) else (1, 1)
  g.foldl (fun acc m =>
    let k := s.cell m
    let out := k.outCores t
    let n := ((k.tenantRec t).map (fun r => r.coreList.length)).getD 0
    if 2 < out && out < n then mul acc (n - 2, n - out) else acc) (mul wire slew)

/-- A duration times a factor, rounded up to whole nanoseconds. -/
def scaleNs (f : Nat × Nat) (d : Nat) : Nat := ceilDiv (d * f.1) f.2

/-- Least token cap of the group's cells (R178, R354); no step passes 8,192 tokens (R183). -/
def State.groupCap (s : State) (c : Nat) : Nat := ((s.groupOf c).map (fun m => (s.cell m).cap)).foldl min 8192

/-! ## The test (R177) -/

/-- Outcome of an admission test: admitted with its worst-case final seal, refused with a code of Table 8-3 and a bound, or held. -/
inductive Verdict where
  | admitted (finish : Nat)
  | refused (code bound : Nat)
  | held
  deriving DecidableEq, Repr

def rfFORMAT : Nat := 1
def rfDENIED : Nat := 2
def rfSETUP : Nat := 3
def rfCLOSED : Nat := 4
def rfHORIZON : Nat := 5
def rfCOST : Nat := 6
def rfDEADLINE : Nat := 7
def rfTURN : Nat := 8
def rfPROMPT : Nat := 9
def rfCANCELLED : Nat := 10
def rfVERSION : Nat := 11

/-- What a test at lead cell `c` starts from: first step, base time with D(n) added, factor. -/
structure PlanEnv where
  fig    : Figure
  first  : Nat
  base   : Nat
  factor : Nat × Nat
  cap    : Nat
  turn   : Nat
  deriving DecidableEq, Repr

/-- The environment of a test of a tenant's request now (R177, R257): the step in progress gives the base, else the pointer's switch,
else the present time with the wake latency. -/
def State.planEnv (s : State) (c t : Nat) (f : Figure) : PlanEnv :=
  let k := s.cell c
  let n := k.step.number
  let base :=
    if k.step.running then k.step.began + k.gen.planned
    else match (k.ver t).switchAt with
      | some x => x
      | none => s.time c + k.wakeBound
  { fig := f, first := if k.step.running then n + 1 else n, base := base, factor := s.factor c t, cap := s.groupCap c,
    turn := k.gen.turnPlan.toNat }

/-- Every promise already made survives the longer steps (R177): the slack of each request with steps left covers what the new load
adds to its steps. While a narrowing is in force both take the durations that it gives (R178). -/
def PlanEnv.survives (v : PlanEnv) (ls : List Load) (deadlines : List Nat) (x : Load) : Bool :=
  let d (s : Nat) : Nat := scaleNs v.factor (v.fig.planned ls s)
  let dn (s : Nat) : Nat := scaleNs v.factor (v.fig.planned (x :: ls) s)
  (ls.zip deadlines).all (fun q =>
    let stop := q.1.first + q.1.steps
    stop ≤ v.first ||
      (let cuts := cutsOf (x :: ls) v.first stop
       let finish : Int := (v.base : Int) + sumCuts (fun s => (d s : Nat)) cuts
       sumCuts (fun s => (dn s : Int) - (d s : Int)) cuts ≤ (q.2 : Int) - finish))

/-- The plan's part of the admission test for load `x` with a deadline, beside the loads of the other admitted requests. -/
def PlanEnv.test (v : PlanEnv) (ls : List Load) (deadlines : List Nat) (x : Load) (deadline : Nat) : Verdict :=
  let cuts := cutsOf (x :: ls) v.first (v.first + x.steps)
  let steps := cuts.dropLast
  if 65536 < x.steps then .refused rfHORIZON 0
  else if (v.fig.cost (x.c, 0, x.ctx)).isNone || (v.fig.cost (1 + x.d0, x.d0, x.ctx)).isNone then .refused rfCOST 0
  else if steps.any (fun s => match loadAt (x :: ls) s with
      | none => false
      | some u => v.cap < u.1 || (v.fig.cost u).isNone) then .held
  else
    let finish := v.base + (sumCuts (fun s => (scaleNs v.factor (v.fig.planned (x :: ls) s) : Nat)) cuts).toNat
    if deadline < finish then .refused rfDEADLINE finish
    else if v.turn < finish then .refused rfTURN finish
    else if !v.survives ls deadlines x then .held
    else .admitted finish

/-- Admitted requests of the lead that hold a plan (R176), but for the entry `skip`. -/
def Cell.planEntries (k : Cell) (skip : Option Nat) : List ReqEntry :=
  (k.gen.table.filter (fun e => e.2.live && some e.1 ≠ skip)).map (·.2)

/-- The test of a load at the lead, beside all admitted requests but `skip`. -/
def State.planTest (s : State) (c : Nat) (skip : Option Nat) (load : Nat → Load) (deadline : Nat) (v : PlanEnv) : Verdict :=
  let l := (s.cell c).planEntries skip
  v.test (l.map ReqEntry.load) (l.map (·.deadline)) (load v.first) deadline

/-! ## Checks before the plan (R175, Table 8-3) -/

/-- Top-p is neither negative nor not a number; −0 counts as +0 (Table 6-6). -/
def topPOk (w : Nat) : Bool := (w < 2 ^ 31 && w ≤ 0x7F800000) || w = 2 ^ 31

/-- Temperature is ±0, or positive and finite (Table 6-6). -/
def tempOk (w : Nat) : Bool := w < 0x7F800000 || w = 2 ^ 31

/-- The descriptor lies inside Table 8-2, and the experience stride holds it (FORMAT, R4). `stride` is the setup's, where there is
one. -/
def requestOk (e : Entry) (stride : Option Nat) : Bool :=
  let w := e.rqWhere
  e.rqTenant ≤ 63 && e.rqQueue ≤ 63 && !(e.fld 3 1).testBit 7 && e.rqDest ≠ 3 && 1 ≤ e.rqLp && 1 ≤ e.rqLmax &&
  e.rqLp + e.rqLmax ≤ 524288 && e.fld 0x1B 1 ≤ 8 && e.rqLead ≤ 7 && tempOk (e.fld 0x28 4) && topPOk (e.fld 0x2C 4) &&
  e.fld 0x30 2 ≤ 1024 && e.fld 0x32 2 = 0 &&
  (match e.rqDest with
   | 0 => w.toNat % 4 = 0 && e.rqRow = 0
   | 1 => (readRef w).space = 2 && refOk w false && (readRef w).seq = 0 && e.rqRow = 0
   | _ => w = 0 && (match stride with
      | none => true
      | some n => e.rqLp + e.rqLmax ≤ n))

/-- Generation setup of a tenant on a cell. -/
def Cell.setup (k : Cell) (t : Nat) : Option Setup := k.gen.setups.get none t

/-- A setup is in force on every cell of the group, with equal page set counts (R170). -/
def State.setupsOk (s : State) (c t : Nat) : Bool :=
  match (s.cell c).setup t with
  | none => false
  | some u => (s.groupOf c).all (fun m => (((s.cell m).setup t).map (·.sets)) = some u.sets)

/-- The prompt tensor is READY, INT32 and holds Lp elements from the first element on; own or shared (Table 8-2). -/
def State.promptOk (s : State) (c : Nat) (e : Entry) : Bool :=
  match s.locate c e.rqTenant e.rqPrompt with
  | some (_, t, false) => t.ready && t.fmt = 0x11 && e.rqFirst + e.rqLp ≤ t.count * 1024
  | _ => false

/-- Weight of a queue in the active figure; 0 where there is no QUEUE record. -/
def Cell.queueWeight (k : Cell) (t q : Nat) : Nat :=
  ((((k.fig.active).bind (fun f => f.queueRec t)).map (·.weights)).getD []).getD q 0

/-- Admission is closed for a request (R20, R50, R173, R293, R319, R373). -/
def State.closedFor (s : State) (c : Nat) (p : PendReq) : Bool :=
  let t := p.e.rqTenant
  let k := s.cell c
  (k.run t).closed || k.gen.drainClosed || k.queueWeight t p.e.rqQueue = 0 ||
  (s.boot.anchorLost && p.src.who ≠ 0x70) || (s.groupOf c).any (fun m => (s.cell m).unplaced t) ||
  (s.seating.orphaned && (p.src.who = 0x70 || !(s.groupSeats c).isEmpty))

/-- Code of the first check that a request fails, in the order of R177; 0 when it passes all of them. -/
def State.requestCheck (s : State) (c : Nat) (p : PendReq) : Nat :=
  let k := s.cell c
  let t := p.e.rqTenant
  if !requestOk p.e ((k.setup t).map (·.stride)) then rfFORMAT
  else if !s.mayFor c t p.src.who || !((k.tenantRec t).map (·.gen)).getD false || !s.isLead c || p.e.rqLead ≠ c then rfDENIED
  else if !s.setupsOk c t then rfSETUP
  else if s.closedFor c p then rfCLOSED
  else if !s.promptOk c p.e then rfPROMPT
  else 0

/-! ## Room and version (R177, R186, R253, R255) -/

/-- Lowest free entry of the tenant's REQTAB range (R180). -/
def Cell.freeEntry (k : Cell) (t : Nat) : Option Nat :=
  match (k.fig.active).bind (fun f => f.reqtabRec t) with
  | none => none
  | some r => ((List.range r.count).map (r.first + ·)).find? (fun i => (k.entry i).st = .free)

/-- Page sets and page-list tiles that a request of `n` positions needs. -/
def pageNeed (n : Nat) : Nat × Nat := (ceilDiv n 16, ceilDiv (ceilDiv n 16) 1023)

/-- Tiles of the setup's page-list tensor. -/
def Cell.pageListTiles (k : Cell) (t : Nat) (u : Setup) : Nat := ((k.ownTensor t u.pageList.toNat).map (·.count)).getD 0

/-- Unreserved page sets and page-list tiles cover the need on a cell (R186). -/
def Cell.pagesFree (k : Cell) (t n : Nat) : Bool :=
  match k.setup t with
  | none => false
  | some u =>
    let mine := (k.gen.table.filter (fun e => e.2.live && e.2.tenant = t)).map (fun e => e.2.setsRsv)
    mine.sum + (pageNeed n).1 ≤ u.sets && (mine.map (fun x => ceilDiv x 1023)).sum + (pageNeed n).2 ≤ k.pageListTiles t u

/-- A version can be pinned: the pointer is valid and the current version has lost no copy on the group (R253, R255). -/
def State.versionOk (s : State) (c t : Nat) : Bool :=
  let v := (s.cell c).ver t
  v.valid && (s.groupOf c).all (fun m => !((s.cell m).ver t).lost.contains v.current)

/-- Start of the hold of a single-copy push, which acts as a turn plan time without refusing (R264). -/
def Cell.holdStart (k : Cell) (t : Nat) : Option Nat := ((k.ver t).push.filter (·.single)).map (·.start)

/-- The whole admission test of a pending request (R177). -/
def State.admissionTest (s : State) (c : Nat) (p : PendReq) : Verdict :=
  let k := s.cell c
  let t := p.e.rqTenant
  let code := s.requestCheck c p
  if code ≠ 0 then .refused code 0
  else match k.fig.active with
    | none => .held
    | some f =>
      match s.planTest c none (loadOf p.e) p.e.rqDeadline (s.planEnv c t f) with
      | .admitted finish =>
        if ((k.holdStart t).map (fun ts => decide (ts < finish))).getD false then .held
        else if (k.freeEntry t).isNone then .held
        else if !((s.groupOf c).all (fun m => (s.cell m).pagesFree t (p.e.rqLp + p.e.rqLmax))) then .held
        else if !s.versionOk c t then .refused rfVERSION 0
        else .admitted finish
      | v => v

end Sys2Proof.Machine
end

