-- ==== Sys2Proof/Machine/Generation.lean ====
section
/-!
DEFINITION. Generation commands (08_generation): setup (R170), requests and their queues (R171 to R173), admission's effects (R180,
R253), cancels (R192), records and the end of an entry (R181, R194).
-/

namespace Sys2Proof.Machine

/-- A change made on each of several cells. -/
def State.onCells (s : State) (g : List Nat) (f : Cell → Cell) : State := g.foldl (fun s m => s.onCell m f) s

/-! ## Generation setup (R170) -/

def gsDONE : Nat := 0
def gsDENIED : Nat := 1
def gsSETUP : Nat := 2
def gsRESERVED : Nat := 3

def readSetup (e : Entry) : Setup :=
  { tenant := e.fld 1 1, pages := e.fld 2 2, kvPool := BitVec.ofNat 24 (e.fld 4 3), pageList := BitVec.ofNat 24 (e.fld 8 3),
    stepList := BitVec.ofNat 24 (e.fld 0xC 3), sampling := BitVec.ofNat 24 (e.fld 0x10 3), sets := e.fld 0x14 4,
    exper := BitVec.ofNat 24 (e.fld 0x18 3), expRec := BitVec.ofNat 24 (e.fld 0x1C 3), stride := e.fld 0x20 4,
    rmax := e.fld 0x24 2 }

/-- A field outside Table 8-1 (R435). -/
def setupReserved (e : Entry) : Bool :=
  let u := readSetup e
  63 < u.tenant || !(1 ≤ u.pages && u.pages ≤ 4096) || !(1 ≤ u.sets && u.sets ≤ 1048576) ||
  !(4 ≤ u.rmax && u.rmax ≤ 8192 && u.rmax % 4 = 0) || (u.exper = 0 && u.stride ≠ 0) ||
  [7, 0xB, 0xF, 0x13, 0x1B, 0x1F].any (fun o => e.fld o 1 ≠ 0) || !e.zeroBytes 0x26 64

/-- A READY tensor of the tenant in the cell, of a format and with enough tiles. -/
def Cell.hasTensor (k : Cell) (t : Nat) (ident : BitVec 24) (fmts : List Nat) (tiles : Nat) : Bool :=
  match k.ownTensor t ident.toNat with
  | none => false
  | some x => fmts.contains x.fmt && tiles ≤ x.count

/-- Weight formats (Table 2-15). -/
def weightFormats : List Nat := [0x01, 0x02, 0x03, 0x04, 0x05, 0x08, 0x09, 0x0C, 0x10]

/-- The tensors of a setup are as Table 8-1 says. -/
def Cell.setupTensors (k : Cell) (u : Setup) : Bool :=
  let t := u.tenant
  let n := (((k.fig.active).bind (fun f => f.reqtabRec t)).map (·.count)).getD 0
  k.hasTensor t u.kvPool weightFormats (u.pages * u.sets) && k.hasTensor t u.pageList [0x11] 1 &&
  k.hasTensor t u.stepList [0x11] (ceilDiv (u.rmax + 1) 128) && k.hasTensor t u.sampling [0x11] (ceilDiv n 64) &&
  (u.exper = 0 || k.hasTensor t u.exper [0x11] 1) && (u.expRec = 0 || k.hasTensor t u.expRec [0x11] 1)

def State.doSetup (s : State) (c : Nat) (src : Source) (e : Entry) : State :=
  let k := s.cell c
  let u := readSetup e
  if setupReserved e then s.complete c src e { status := gsRESERVED }
  else if !s.mayFor c u.tenant src.who then s.complete c src e { status := gsDENIED }
  else if !((k.tenantRec u.tenant).map (·.gen)).getD false then s.complete c src e { status := gsRESERVED }
  else if k.gen.table.any (fun x => x.2.st ≠ .free && x.2.tenant = u.tenant) || !k.setupTensors u then
    s.complete c src e { status := gsSETUP }
  else (s.setCell c { k with gen := { k.gen with setups := k.gen.setups.set none u.tenant (some u) } }).complete c src e
    { status := gsDONE }

def execGenerationSetup (t : Nat) (cell : Fin 8) (src : Source) (e : Entry) (s : State) : Res :=
  .next (s.run t (fun s => s.entryAt cell 0x22 src e (fun s => s.doSetup cell src e)))

/-! ## Records (R190, R194) -/

/-- The 32 bytes of a generation record (Table 8-9). -/
def genRecord (kind code tenant cell tag time tokens entry pin bound : Nat) : Nat :=
  pack [(1, kind), (1, code), (1, tenant), (1, cell), (4, tag), (8, time), (4, tokens), (2, entry), (2, pin), (8, bound)]

/-- Where a request's records go but for experience rows: the Manager by MAIL for destination 1, else the completion ring of the
tenant's host function; the submitter where the figure names no such tenant (R190, Table 14-6). -/
def State.recordFn (s : State) (c : Nat) (src : Source) (e : Entry) : Nat :=
  match (s.cell c).tenantRec e.rqTenant with
  | none => src.who.toNat
  | some r => if e.rqDest = 1 then 0x70 else r.hostFn

/-- A refusal record is delivered (R175, R194). -/
def State.refuse (s : State) (c : Nat) (p : PendReq) (code bound : Nat) : State :=
  s.recordTo (s.recordFn c p.src p.e) c
    (genRecord 3 code p.e.rqTenant c p.e.rqTag (s.time c) 0 0xFFFF 0 bound)

/-! ## Queues (R171 to R173) -/

/-- A request comes: it joins its queue; one whose queue does not exist is refused at once. None is lost: the cell's 4,096 stop the rings
and the grants that bring more (`State.stall`, `State.renewMail`), and a frame that a grant of before had allowed still joins (R172). -/
def State.doRequest (s : State) (c : Nat) (src : Source) (e : Entry) : State :=
  let k := s.cell c
  let p : PendReq := { src := src, e := e, arr := k.gen.arrivals }
  if 63 < e.rqTenant || 63 < e.rqQueue then s.refuse c p rfFORMAT 0
  else s.setCell c { k with gen := { k.gen with pend := k.gen.pend ++ [p], arrivals := k.gen.arrivals + 1 } }

def execRequest (t : Nat) (cell : Fin 8) (src : Source) (e : Entry) (s : State) : Res :=
  .next (s.run t (fun s => s.entryAt cell 0x20 src e (fun s => s.doRequest cell src e)))

/-- Pending requests of a queue. -/
def Cell.queued (k : Cell) (t q : Nat) : List PendReq := k.gen.pend.filter (fun p => p.e.rqTenant = t && p.e.rqQueue = q)

/-- Head of a queue: highest priority, then earliest arrival (R172). -/
def Cell.head (k : Cell) (t q : Nat) : Option PendReq :=
  (k.queued t q).foldl (fun best p => match best with
    | none => some p
    | some b => if b.e.rqPrio < p.e.rqPrio || (b.e.rqPrio = p.e.rqPrio && p.arr < b.arr) then some p else best) none

/-- A request leaves its queue. -/
def State.unqueue (s : State) (c : Nat) (p : PendReq) : State :=
  s.onCell c (fun k => { k with gen := { k.gen with pend := k.gen.pend.filter (fun x => x.arr ≠ p.arr) } })

def queueKey (t q : Nat) : Nat := 64 * t + q

def Cell.deficit (k : Cell) (t q : Nat) : Nat := k.gen.deficit.get 0 (queueKey t q)

def State.setDeficit (s : State) (c t q v : Nat) : State :=
  s.onCell c (fun k => { k with gen := { k.gen with deficit := k.gen.deficit.set 0 (queueKey t q) v } })

/-! ## Admission's effects (R177, R180, R253) -/

/-- The 16 words of a sampling record (Table 6-6). -/
def samplingWords (e : Entry) (pos : Nat) : List Nat :=
  [e.fld 0x28 4, e.fld 0x2C 4, e.fld 0x30 2, e.rqKey.toNat, pos, 1, 0, 0, 0, 0, 0, 0, 0, 0, 0, 0]

/-- Words of a tenant's table tensor are written on every cell of a group. -/
def State.pokeGroup (s : State) (g : List Nat) (t : Nat) (which : Setup → BitVec 24) (word : Nat) (ws : List Nat) : State :=
  g.foldl (fun s m => match (s.cell m).setup t with
    | none => s
    | some u => (s.pokeWords m t (which u).toNat word ws).1) s

/-- First entry of the tenant's REQTAB range. -/
def Cell.firstEntry (k : Cell) (t : Nat) : Nat := (((k.fig.active).bind (fun f => f.reqtabRec t)).map (·.first)).getD 0

/-- The entry of an admitted request (Table 8-5, R176). -/
def admittedEntry (p : PendReq) (first now : Nat) (pin : BitVec 16) : ReqEntry :=
  let l := loadOf p.e first
  { ReqEntry.free with
    st := .waiting, tenant := p.e.rqTenant, queue := p.e.rqQueue, prio := p.e.rqPrio, lp := p.e.rqLp, lmax := p.e.rqLmax,
    pin := pin, d := p.e.rqDraft, d0 := p.e.rqDraft, deadline := p.e.rqDeadline,
    setsRsv := (pageNeed (p.e.rqLp + p.e.rqLmax)).1, first := first, last := first + l.steps - 1, admitted := now,
    desc := p.e, src := p.src, np := l.np, steps := l.steps }

/-- A request is admitted: entry, mirrors, pin and sampling record on every cell of the group. -/
def State.takeOn (s : State) (c : Nat) (p : PendReq) (i first : Nat) : State :=
  let t := p.e.rqTenant
  let g := s.groupOf c
  let pin := ((s.cell c).ver t).current
  let x := admittedEntry p first (s.time c) pin
  let s1 := g.foldl (fun s m => s.onCell m (fun k =>
    (k.onEntry i (fun _ => x)).onVer t (fun v => { v with curPins := v.curPins + 1, switchAt := none }))) s
  s1.pokeGroup g t (·.sampling) (16 * (i - (s.cell c).firstEntry t)) (samplingWords p.e (p.e.rqLp))

/-- One test of a queue's head with its consequence; the Bool says that the queue goes on (R173). -/
def State.testHead (s : State) (c t q : Nat) (p : PendReq) : State × Bool :=
  let k := s.cell c
  let clear (s : State) : State := s.onCell c (fun k => k.onVer t (fun v => { v with switchAt := none }))
  match s.admissionTest c p with
  | .refused code bound => (clear ((s.refuse c p code bound).unqueue c p), true)
  | .held => (clear (s.onCell c (fun k => { k with gen := { k.gen with heldQ := k.gen.heldQ ++ [queueKey t q] } })), false)
  | .admitted _ =>
    match k.freeEntry t with
    | none => (s, false)
    | some i =>
      let first := if k.step.running then k.step.number + 1 else k.step.number
      (((s.takeOn c p i first).setDeficit c t q (k.deficit t q - tokenCost p.e)).unqueue c p, true)

/-- A queue is served while its head's cost lies within its deficit. -/
def State.serveHeads : Nat → State → Nat → Nat → Nat → State
  | 0, s, _, _, _ => s
  | n + 1, s, c, t, q =>
    match (s.cell c).head t q with
    | none => s
    | some p =>
      if (s.cell c).deficit t q < tokenCost p.e then s
      else
        let (s1, go) := s.testHead c t q p
        if go then State.serveHeads n s1 c t q else s1

/-- One queue's turn in a service round (R173). -/
def State.serveQueue (s : State) (c quantum weight t q : Nat) : State :=
  let k := s.cell c
  if (k.head t q).isNone then s.setDeficit c t q 0
  else if k.gen.heldQ.contains (queueKey t q) then s
  else State.serveHeads (k.queued t q).length (s.setDeficit c t q (k.deficit t q + quantum * weight)) c t q

/-- The lead does not serve a tenant's queues before its pointer names a complete version after a swap (R257, R374), or in the hold
of a single-copy push (R264). -/
def Cell.unserved (k : Cell) (t : Nat) : Bool := (k.ver t).waitPtr || ((k.ver t).push.map (·.hold)).getD false

/-- Pending requests of closed queues are refused: with the first check they fail, CLOSED among them (R173). -/
def State.dropClosed (s : State) (c : Nat) : State :=
  let k := s.cell c
  let closed := k.gen.pend.filter (fun p => k.queueWeight p.e.rqTenant p.e.rqQueue = 0 && !k.unserved p.e.rqTenant)
  closed.foldl (fun s p => (s.refuse c p (let x := s.requestCheck c p; if x = 0 then rfCLOSED else x) 0).unqueue c p) s

/-- One service round over the open pairs of tenant and queue, in increasing order (R173). -/
def State.serviceRound (s : State) (c : Nat) : State :=
  match (s.cell c).fig.active with
  | none => s
  | some f =>
    let pairs := (inOrder (fun a b => a.tenant ≤ b.tenant) f.queues).flatMap (fun r =>
      (r.weights.zipIdx).filterMap (fun w => if w.1 = 0 then none else some (r.tenant, w.2, w.1)))
    pairs.foldl (fun s x =>
      if (s.cell c).unserved x.1 then s else s.serveQueue c f.quantum x.2.2 x.1 x.2.1) (s.dropClosed c)

/-- The Manager's grant of MAIL units is renewed as they are taken, but not while the pending set is full (R279). -/
def State.renewMail (s : State) (c : Nat) : State :=
  let k := s.cell c
  if 64 ≤ k.korif.mailGrant || 4096 ≤ k.gen.pend.length || !s.seating.seated then s
  else ((s.onCell c (fun k => { k with korif := { k.korif with mailGrant := 64 } })).send c 13
    { ftype := 8, dseat := 0, dcell := 0, origin := idSupervisor c, plen := 16,
      data := pack [(1, 2), (1, 2), (1, 0), (1, 0), (4, 64), (8, 0)] }).1

/-- A round of the admission unit; none runs while the supply fails (R369) or before the cell's first figure is active (R30). -/
def execAdmissionRound (t : Nat) (cell : Fin 8) (s : State) : Res :=
  .next (s.run t (fun s =>
    if !s.cellUp cell || s.supply.failing || (s.fig cell).isNone then s else (s.serviceRound cell).renewMail cell))

/-! ## Cancels (R192) -/

def cancelReserved (e : Entry) : Bool :=
  63 < e.fld 1 1 || 7 < e.fld 2 1 || e.fld 3 1 ≠ 0 || !e.zeroBytes 8 64

/-- A cancel: pending requests with the tag are refused with CANCELLED, admitted ones end with ADMIN at the next seal. -/
def State.doCancel (s : State) (c : Nat) (src : Source) (e : Entry) : State :=
  let t := e.fld 1 1
  let k := s.cell c
  if cancelReserved e then s.complete c src e { status := 3 }
  else if e.fld 2 1 ≠ c then s.complete c src e { status := 0xFE }
  else if !s.mayFor c t src.who then s.complete c src e { status := 1 }
  else
    let waiting := k.gen.pend.filter (fun p => p.e.rqTenant = t && p.e.rqTag = e.fld 4 4)
    let run := k.gen.table.filter (fun x => x.2.live && x.2.tenant = t && x.2.desc.rqTag = e.fld 4 4)
    let s1 := waiting.foldl (fun s p => (s.refuse c p rfCANCELLED 0).unqueue c p) s
    let s2 := run.foldl (fun s x => s.onCell c (fun k => k.onEntry x.1 (fun y => { y with cancel := true }))) s1
    s2.complete c src e { status := if waiting.isEmpty && run.isEmpty then 2 else 0, tag := e.fld 4 4 }

def execCancel (t : Nat) (cell : Fin 8) (src : Source) (e : Entry) (s : State) : Res :=
  .next (s.run t (fun s => s.entryAt cell 0x21 src e (fun s => s.doCancel cell src e)))

/-! ## The end of an entry (R181, R253, R254) -/

/-- A version that nothing pins any more is released; its copies may take the next version (R254). -/
def Versions.releaseDue (v : Versions) : Versions := if v.retLive && v.retPins = 0 then { v with retLive := false } else v

/-- The pin of an entry that becomes FREE ends (R253). -/
def Versions.unpin (v : Versions) (pin : BitVec 16) : Versions :=
  if pin = v.current then { v with curPins := v.curPins - 1 }
  else if v.retLive && pin = v.retained then { v with retPins := v.retPins - 1 }
  else v

/-- An entry of the group becomes FREE on every cell. -/
def State.freeEntries (s : State) (g : List Nat) (i : Nat) : State :=
  g.foldl (fun s m => s.onCell m (fun k =>
    let e := k.entry i
    (k.onEntry i (fun _ => ReqEntry.free)).onVer e.tenant (fun v => (v.unpin e.pin).releaseDue))) s

/-- A record for the entry still waits in some queue of records (R342). -/
def State.recordWaits (s : State) (c i : Nat) : Bool := s.fns.any (fun p => p.2.recs.any (fun r => r.entry = some (c, i)))

/-- Delivery writes and the record have been made: the entry becomes FREE (R181). -/
def execRecordWritten (t : Nat) (cell : Fin 8) (entry : Nat) (s : State) : Res :=
  .next (s.run t (fun s =>
    let lead := s.leadCell cell
    if s.cellUp cell && ((s.cell cell).entry entry).st = .ending && (lead = none || lead = some cell.val) &&
       !s.recordWaits cell entry then
      s.freeEntries (cell.val :: (s.groupOf cell).filter (· ≠ cell.val)) entry
    else s))

/-- The 64 bytes of a request-table entry (Table 8-5). -/
def ReqEntry.bytes (e : ReqEntry) : Nat :=
  if e.st = .free then 0
  else
    let st := match e.st with
      | .free => 0
      | .waiting => 1
      | .prefill => 2
      | .decode => 3
      | .held => 4
      | .ending => 5
    pack [(1, st), (1, e.tenant), (1, e.queue), (1, e.prio), (4, e.lp), (4, e.done), (4, e.g), (4, e.lmax), (2, e.pin.toNat),
      (1, e.d % 16 + 16 * e.d0), (1, e.rejRun % 16 + 16 * e.accRun), (8, e.deadline), (4, (e.pageTiles.head?).getD 0xFFFFFFFF),
      (4, e.pageSets.length), (4, e.setsRsv), (1, e.susp), (1, e.reason), (2, 0), (4, e.first), (4, e.last), (8, e.admitted)]

end Sys2Proof.Machine
end

