-- ==== Sys2Proof/Machine/Learning.lean ====
section
/-!
DEFINITION. Learning steps (09_learning): their group and coordinator (R207), begin (R355, R435), the seal in the order of Table 9-3
(R208 to R212), SEAL frames (R277), the ratio record and its answer (R235).
-/

namespace Sys2Proof.Machine

/-! ## Begin (R233, R355, R435) -/

/-- Learning step limit of the tenant's image on a cell. -/
def Cell.stepLimit (k : Cell) (t : Nat) : Nat := ((k.run t).image.map (·.stepLimit)).getD 0

/-- The gap of R355 has passed on a computing cell. -/
def State.gapOver (s : State) (c t : Nat) : Bool :=
  match s.gapEnd c t with
  | none => false
  | some e => e ≤ s.time c

/-- A cell's own part in whether the step may begin: a current learning image, warmed (R261), a run count, no swap before it, no thermal stop. -/
def State.learnReady (s : State) (c t : Nat) : Bool :=
  let k := s.cell c
  let r := k.run t
  (k.lrn t).phase = .idle && !s.swapWaits c && k.restart.isNone &&
  (!k.computes t || (r.image.any (fun i => i.phase = 2) && r.runCount ≠ 0 && (k.ver t).warmed && !k.power.tooHot && !k.step.running))

/-- Job step count of the step that opens, as a computing cell of the group has it. -/
def State.openJob (s : State) (t : Nat) : BitVec 64 :=
  (((s.learnGroup t).find? (fun c => (s.cell c).computes t)).map (fun c => ((s.cell c).run t).jobStep)).getD 0

/-- The step is under checked commit: Level C, and an UPDATE of variant 0x02 in some image of the group (R233). No frame tells a module the
images of the group's other seats: that one of them has such an UPDATE is a free input (log 104). -/
def State.checkedStep (s : State) (t : Nat) : Bool :=
  3 ≤ s.seating.level && ((s.learnGroup t).any (fun c =>
    (((s.cell c).run t).image.map (·.ops)).getD [] |>.any (fun o => o.opcode = 8 && o.variant = 2)) ||
  (s.manySeats t && Config.checkedElsewhere t (s.openJob t)))

/-- A wait on a share of at most 90 W is recorded when it begins (R355). -/
def State.recordWait (s : State) (t : Nat) : State :=
  (s.learnGroup t).foldl (fun s c =>
    let k := s.cell c
    if k.computes t && 2 * k.power.share < k.rated2 && k.power.share ≤ 90 && !(k.lrn t).waitRec then
      ((s.onCell c (fun k => k.onLrn t (fun l => { l with waitRec := true }))).coordinate).err c
        { cls := clsINFO, sev := 0, unit := 6, tenant := t, detail := k.power.share }
    else s) s

/-- The step opens: computing cells begin it at STEP_BEGIN, cells that only home layers are in it at once (R248). Bindings whose step it
is come into force (R218). -/
def State.openStep (s : State) (t : Nat) : State :=
  let group := s.learnGroup t
  let checked := s.checkedStep t
  let s1 := s.onCoord t (fun _ => { Coord.reset with group := group, active := true, mod := !s.byManager t, jobStep := s.openJob t })
  group.foldl (fun s c => s.onCell c (fun k =>
    let mine := fun (x : Named) => decide (x.2.2.2 ≠ t)
    let k1 := k.onLrn t (fun l =>
      { l with phase := if k.computes t then .open else .running, decision := none, checked := checked, waitRec := false
               began := s.time c, causes := [] })
    { k1 with ud := { (k1.ud.promote t (k.run t).jobStep) with named := k1.ud.named.filter mine, entries := [], nextScale := [] } })) s1

def execLearningStepBegin (t : Nat) (tenant : Fin 64) (s : State) : Res :=
  .next (s.run t (fun s =>
    let group := s.learnGroup tenant
    let c := s.coord tenant
    if c.active || c.recWait || s.boot.safe || s.supply.failing || !s.coordinated tenant ||
       !(group.any (fun m => (s.cell m).computes tenant)) || !(group.all (fun m => s.learnReady m tenant)) then s
    else if group.all (fun m => !(s.cell m).computes tenant || s.gapOver m tenant) then s.openStep tenant
    else s.recordWait tenant))

/-! ## Report entries and records (Tables 10-7, 9-4; R277) -/

/-- The 32 bytes of a report entry. -/
def RepEntry.bytes (x : RepEntry) : Nat :=
  pack [(2, x.layer), (1, x.rule), (1, x.flagsA.toNat), (4, x.ratio.toNat), (1, (BitVec.ofInt 8 x.sUsed).toNat),
    (1, (BitVec.ofInt 8 x.sNext).toNat), (1, x.flagsB.toNat), (1, 0), (4, x.frozen), (4, x.counter.toNat), (2, min x.fallback 65535),
    (2, min x.retries 65535), (4, x.count), (2, x.seat), (1, x.cell), (1, 0)]

/-- Entries of the group in increasing layer identifier (R242): this module's reports, and those that DECISION frames brought of other
seats' layers. -/
def Coord.entries (c : Coord) : List RepEntry :=
  let mine := c.reports.flatMap (·.entries)
  inOrder (fun a b => a.layer ≤ b.layer) (mine ++ c.others.filter (fun x => !mine.any (fun y => y.layer = x.layer)))

/-- Low 32 bits of the step's job step count. -/
def Coord.step (c : Coord) : Nat := c.jobStep.toNat % 2 ^ 32

/-- Host function of the tenant in the group. -/
def State.groupFn (s : State) (t : Nat) : Nat :=
  ((((s.coord t).group.map (fun c => (s.cell c).tenantFn t)).filter (· ≠ 0xFF)).head?).getD 0xFF

/-- A record with its report entries goes to the tenant's host function and, on a seated module, to the Manager (R212, R235); the
next step, or the answer's timeout, waits for its writing (R342). `code` is the tenant, or 64 + tenant for a ratio record. -/
def State.learnRecord (s : State) (t code : Nat) (rec1 : Nat) (l : List RepEntry) : State :=
  let slots := rec1 :: l.map RepEntry.bytes
  let s1 := s.onCoord t (fun c => { c with recWait := true })
  let s2 := s1.queueRec (s.groupFn t)
    { slots := slots.map (BitVec.ofNat 256), status := false, entry := none, learn := some code }
  s2.mail (((s.coord t).group.head?).getD 0) (slots.map (fun r => (2, r)))

/-- The ratio record (R235): kind 0x11 and the first 16 bytes of Table 9-4, outcome, reason and decision time zero. -/
def State.ratioRecord (s : State) (t : Nat) : State :=
  let c := s.coord t
  s.learnRecord t (64 + t) (pack [(1, 0x11), (1, 0), (1, t), (1, 0), (4, c.step), (8, 0), (16, 0)]) c.entries

/-- A SEAL frame body (R277). -/
def sealBody (subtype t flags reason step ver n causes time : Nat) : Nat :=
  pack [(1, subtype), (1, t), (1, flags), (1, reason), (4, step), (2, ver), (1, n), (1, 0), (2, causes), (2, 0), (8, time), (8, 0)]

/-- A SEAL frame to the Manager. -/
def State.sealSend (s : State) (c t body : Nat) (l : List RepEntry) : State :=
  (s.send c 13
    { ftype := 9, dseat := 0, dcell := 0, tenant := t, origin := idSupervisor c, plen := 32 + 32 * l.length,
      data := pack ((32, body) :: l.map (fun x => (32, x.bytes))) }).1

/-- REPORT frames of a cell: seven entries each; one frame at least (R277). -/
def State.reportFrames : Nat → State → Nat → Nat → Report → List RepEntry → State
  | 0, s, _, _, _, _ => s
  | n + 1, s, c, t, r, l =>
    let body := sealBody 1 t (if r.allDone then 1 else 0) (pickCause r.causes) (r.jobStep.toNat % 2 ^ 32) ((s.cell c).ver t).homeVer.toNat
      (l.take 7).length ((r.causes.map (fun k => 2 ^ (k - 1))).sum) (s.time c)
    let s1 := s.sealSend c t body (l.take 7)
    if (l.drop 7).isEmpty then s1 else State.reportFrames n s1 c t r (l.drop 7)

/-! ## Report (order 4) -/

/-- Void causes of the step that touch a tenant of the cell. -/
def Cell.causesOf (k : Cell) (t : Nat) : List Nat :=
  ((k.step.causes.filter (fun x => x.tenant = t || x.tenant = 0xFF)).map (·.code)).dedup

/-- Next sₗ of a cell's home layers, with the saturation reports of the group's cells (R226). -/
def State.fixCell (s : State) (t c : Nat) : State :=
  let group := (s.coord t).group
  let l := ((s.cell c).ud.namedFor t).map (fun x => (x.1, s.nextScale c group x))
  s.onCell c (fun k => { k with ud := { k.ud with
    nextScale := l, entries := k.ud.entries.map (fun e =>
      { e with sNext := ((l.find? (fun y => y.1 = e.layer)).map (·.2)).getD e.sNext,
               flagsB := e.flagsB ||| (if s.saturatedOn group t e.layer then 1#8 else 0#8) }) } })

/-- Next sₗ of every home layer of the group: fixed once, after the last report. -/
def State.fixScales (s : State) (t : Nat) : State := (s.coord t).group.foldl (fun s c => s.fixCell t c) s

/-- The entries that the coordinator has of each cell follow the U-dies'. -/
def State.gatherEntries (s : State) (t : Nat) : State :=
  s.onCoord t (fun c => { c with reports := c.reports.map (fun r => { r with entries := (s.cell r.cell).ud.entries }) })

/-- Every cell of the group has reported. -/
def Coord.allIn (c : Coord) : Bool := c.group.all (fun m => c.reports.any (fun r => r.cell = m))

/-- Void causes that the coordinator itself finds in the reports or for want of them (R210). -/
def Coord.found (c : Coord) : List Nat :=
  (if c.missed then [vLINK] else []) ++
  (if c.reports.any (fun r => r.jobStep ≠ ((c.reports.head?).map (·.jobStep)).getD 0) then [vCHECK] else []) ++
  (if c.reports.any (fun r => !r.allDone) then [vCHECK] else [])

/-- Void causes that the coordinator holds (R210). -/
def Coord.causes (c : Coord) : List Nat := (c.reports.flatMap (·.causes)).dedup ++ c.found

/-- Void causes of a learning step that a cell has found outside its home layers: those of its own step where it computes, and those it
found of the step besides (R248). -/
def Cell.learnCauses (k : Cell) (t : Nat) : List Nat :=
  ((if k.computes t then k.causesOf t else []) ++ (k.lrn t).causes).dedup

/-- Every void cause of the step up to now: the reports', the coordinator's, and those found on a cell after its report (R209, R210). -/
def State.foundCauses (s : State) (t : Nat) : List Nat :=
  ((s.coord t).causes ++ (s.coord t).group.flatMap (fun c => (s.cell c).learnCauses t)).dedup

/-- Checked commit in the step, as the cells hold it. -/
def State.stepChecked (s : State) (t : Nat) : Bool := (s.coord t).group.any (fun c => ((s.cell c).lrn t).checked)

/-- A cell may report: its threads are over and, as a home, its sums are written and its ratio pass has run (orders 1 to 3). -/
def State.reportReady (s : State) (c t : Nat) : Bool :=
  let k := s.cell c
  let l := k.lrn t
  let cut := (k.computes t && k.step.stopped) || !l.causes.isEmpty
  s.cellUp c && (l.phase = .ratioed ||
    (l.phase = .running && k.workOver t && (s.sumsDone c t || cut) &&
      (!l.checked || k.ud.mode ≠ .run || (k.ud.namedFor t).isEmpty || cut)))

/-- Report entries of a direct commit before its apply pass: one a home layer, with the frozen scan's count where STRICT asks for it (R230,
R242). -/
def State.scanEntries (s : State) (c t : Nat) : State :=
  if ((s.cell c).lrn t).checked then s
  else ((s.cell c).ud.namedFor t).foldl (fun s x =>
    match (s.cell c).layerEnv x [] false with
    | none => s
    | some v =>
      let e := v.stillEntry (v.baseEntry s.mySeat c) ((s.cell c).ud.held.contains x.1) false
      s.addEntry c { e with frozen := if v.bind.strict then v.requests else 0 }) s

/-- A cell, wherever its seat, is in the tenant's learning group as cell `c` knows it: of this module's, or placed by its figure. -/
def State.inLearnGroup (s : State) (c t seat cell : Nat) : Bool :=
  (seat = s.mySeat && (s.coord t).group.contains cell) ||
  (((s.cell c).fig.active.map (·.places)).getD []).any (fun p => p.seat = seat && p.cell = cell)

/-- A cell's report reaches the coordinator (order 4), with VOID frames to those outside the group where its step is in doubt (R315); after
the last, the next scales are fixed and, under checked commit with no cause of void, the module supervisor writes the ratio record (R226,
R235). -/
def State.report (s : State) (c t : Nat) : State :=
  let s0 := (s.doubtVoids c (if (s.cell c).computes t then (s.cell c).causesOf t else []) (s.inLearnGroup c t)).scanEntries c t
  let s0 := if (s.coord t).mod then s0 else s0.fixCell t c
  let k := s0.cell c
  let r : Report :=
    { cell := c, allDone := !k.step.stopped || !k.computes t, jobStep := (k.run t).jobStep,
      causes := (k.learnCauses t ++ k.homeCauses t).dedup, entries := k.ud.entries }
  let s1 := (s0.onCell c (fun k => k.onLrn t (fun l => { l with phase := .reported }))).onCoord t (fun x =>
    { x with reports := x.reports ++ [r] })
  if !(s.coord t).mod then State.reportFrames (k.ud.entries.length + 1) s1 c t r k.ud.entries
  else if !(s1.coord t).allIn then s1
  else
    let s3 := (s1.fixScales t).gatherEntries t
    if s3.stepChecked t && (s3.foundCauses t).isEmpty && (s3.coord t).decision.isNone then s3.ratioRecord t else s3

/-- Step limit of the tenant's learning images in the group. -/
def State.learnLimit (s : State) (t : Nat) : Nat := ((s.groupImages t).map (·.2.stepLimit)).foldl max 0

/-- The cell's step limit has passed: from the beginning of its own step, or where it has begun none, from the opening (R210). -/
def State.pastLimit (s : State) (c t : Nat) : Bool :=
  let k := s.cell c
  let l := k.lrn t
  (if k.computes t && k.step.running && l.phase ≠ .open then k.step.began + k.stepLimit t else l.began + s.learnLimit t) ≤ s.time c

/-- A cell that has not reported by its step limit makes the step void with LINK (R210). -/
def execSealReportStepLimit (t : Nat) (tenant : Fin 64) (cell : Fin 8) (s : State) : Res :=
  .next (s.run t (fun s =>
    let c := s.coord tenant
    if c.active && c.decision.isNone && c.group.contains cell.val && !(c.reports.any (fun r => r.cell = cell.val)) &&
       s.pastLimit cell tenant then
      s.onCoord tenant (fun x => { x with missed := true })
    else s))

/-! ## Answer and decision (orders 5 and 6) -/

/-- The module supervisor's decision, once it can be taken (R210): outcome and reason. Without a cause of void, checked commit waits for
the answer. -/
def State.decide (s : State) (t : Nat) : Option (Bool × Nat) :=
  let c := s.coord t
  if !c.active || c.decision.isSome || !c.mod || !(c.allIn || c.missed) then none
  else if !(s.foundCauses t).isEmpty then some (false, pickCause (s.foundCauses t))
  else if s.stepChecked t then
    match c.answer with
    | none => none
    | some true => some (true, 0)
    | some false => some (false, vADMIN)
  else some (true, 0)

/-- The decision reaches a cell (order 6): a commit with home layers of the step starts its apply pass. -/
def Cell.takeDecision (k : Cell) (t : Nat) (d : Bool × Nat) (time : Nat) (scales : List (Nat × Int)) : Cell :=
  let k1 := k.onLrn t (fun l => { l with phase := .decided, decision := some d, decTime := time })
  { k1 with ud := { k1.ud with
    nextScale := scales, inPass := k1.ud.inPass || (d.1 && !(k1.ud.namedFor t).isEmpty) } }

/-- The step has lost its coordinator: the module supervisor's the host anchor (R20), the Manager's the seat's heartbeat (R293). -/
def State.cutOff (s : State) (t : Nat) : Bool := if (s.coord t).mod then s.boot.anchorLost else s.seating.orphaned

/-- Causes of a void decision that no cell reported: the coordinator's own, the lost anchor and a withheld answer (R20, R210, R235). -/
def State.coordCauses (s : State) (t : Nat) (d : Bool × Nat) : List Nat :=
  let c := s.coord t
  if d.1 then []
  else (c.found ++ (if s.cutOff t then [vLINK] else []) ++ (if (s.foundCauses t).isEmpty then [d.2] else [])).dedup

/-- A decision taken by the module's coordinator reaches every cell of the group with the next scales (R209, R211). -/
def State.spread (s : State) (t : Nat) (d : Bool × Nat) : State :=
  let group := (s.coord t).group
  let s0 := if (s.coord t).allIn then s else s.fixScales t
  let scales := group.flatMap (fun c => (s0.cell c).ud.nextScale)
  let time := s.time ((group.head?).getD 0)
  let s1 := ((s.coordCauses t d).foldl (fun (s : State) r => s.err 0 { cls := clsVOID, sev := 1, unit := 7, tenant := t, reason := r })
    s0).onCoord t (fun c => { c with decision := some d, decTime := time })
  group.foldl (fun s c => s.onCell c (fun k => k.takeDecision t d time scales)) s1

/-- A cell's order 4 is reached in a step that the loss of its coordinator has voided: it takes the void decision itself (R20, R293). -/
def State.takeLoss (s : State) (c t : Nat) : State :=
  let x := s.coord t
  match x.decision with
  | some d => if x.active && s.cutOff t && ((s.cell c).lrn t).phase = .reported then
      (s.fixCell t c).onCell c (fun k => k.takeDecision t d x.decTime k.ud.nextScale) else s
  | none => s

/-- The coordinator is lost: a step that is not decided is void with LINK (R20, R293). Each cell of its group seals it so from its own
order 4 on. -/
def State.loseStep (s : State) (t : Nat) : State :=
  let x := s.coord t
  if !x.active || !s.cutOff t || x.decision.isSome then s
  else
    let m := (x.group.head?).getD 0
    let s1 := (s.err 0 { cls := clsVOID, sev := 1, unit := 7, tenant := t, reason := vLINK }).onCoord t (fun y =>
      { y with decision := some (false, pickCause (vLINK :: s.foundCauses t)), decTime := s.time m })
    x.group.foldl (fun s c => s.takeLoss c t) s1

/-- No heartbeat from seat 0 for 30 ms: the seat is orphaned, and its learning steps void with LINK at their seals (R293). -/
def execOrphanTimeout (t : Nat) (s : State) : Res :=
  .next (s.run t (fun s =>
    if !s.seating.seated || s.seating.orphaned || s.seating.seat = 0 || s.now < s.seating.lastBeat + 30000000 then s
    else (List.range 64).foldl (fun s t => s.loseStep t) { s with seating := { s.seating with orphaned := true } }))

def execSealReport (t : Nat) (cell : Fin 8) (tenant : Fin 64) (s : State) : Res :=
  .next (s.run t (fun s =>
    let x := s.coord tenant
    if x.active && (x.decision.isNone || s.cutOff tenant) && s.reportReady cell tenant then
      (s.report cell tenant).takeLoss cell tenant
    else s))

def execSealDecision (t : Nat) (tenant : Fin 64) (s : State) : Res :=
  .next (s.run t (fun s =>
    match s.decide tenant with
    | none => s
    | some d => s.spread tenant d))

/-- An ANSWER breaks Table 10-3: a tenant or an answer outside its values, a reserved byte (R4, R435). -/
def answerReserved (e : Entry) : Bool :=
  63 < e.fld 1 1 || e.fld 2 2 ≠ 0 || !(e.fld 8 1 = 1 || e.fld 8 1 = 2) || !e.zeroBytes 9 64

/-- An ANSWER (R235): one for another step, or after the decision, is discarded and entered in the ring. -/
def State.doAnswer (s : State) (c : Nat) (src : Source) (e : Entry) : State :=
  let t := e.fld 1 1
  let x := s.coord t
  if answerReserved e then s.complete c src e { status := uRESERVED }
  else if !s.mayFor c t src.who then s.complete c src e { status := uDENIED }
  else if x.active && x.ratioAt.isSome && x.answer.isNone && x.decision.isNone && e.fld 4 4 = x.step then
    (s.onCoord t (fun x => { x with answer := some (e.fld 8 1 = 1) })).complete c src e { status := uDONE }
  else (s.err c { cls := clsCOMMAND, sev := 1, unit := 6, tenant := t, obj := 0x34, detail := uDONE }).complete c src e { status := uDONE }

def execAnswer (t : Nat) (cell : Fin 8) (src : Source) (e : Entry) (s : State) : Res :=
  .next (s.run t (fun s => s.entryAt cell 0x34 src e (fun s => s.doAnswer cell src e)))

/-- No answer within the tenant's timeout: the supervisor withholds if a ratio is out of band, and commits otherwise (R235). -/
def execAnswerTimeout (t : Nat) (tenant : Fin 64) (s : State) : Res :=
  .next (s.run t (fun s =>
    let x := s.coord tenant
    match x.ratioAt with
    | none => s
    | some t0 =>
      if s.anchorUp && x.active && x.answer.isNone && x.decision.isNone &&
         t0 + s.host.ansTime.get 100 tenant * 1000000 ≤ s.now then
        s.onCoord tenant (fun x => { x with answer := some (!x.entries.any RepEntry.outOfBand) })
      else s))

/-! ## Seal complete (orders 8 and 9) -/

/-- The working weights that a tenant's image names take a version in their tags, fast copies and homes alike (R143, R211). On a cell that
takes part for its home layers only they are those layers' alone: its serving copies change by shuffles and pushes (R247). -/
def Cell.tagWeights (k : Cell) (t : Nat) (ver : BitVec 16) : Cell :=
  let home (l : Nat) : Bool := k.computes t || (k.ud.bindOf l).any (fun b => b.tenant = t)
  let ids := ((((k.run t).image.map (·.layers)).getD []).filter (fun r => home r.layer)).map (fun r => BitVec.ofNat 24 r.tensor)
  let ts := k.tiers.dir.filter (fun x => x.tenant = t && ids.contains x.ident && x.holder.isNone)
  let up (x : Tile) : Tile := { x with tag := { x.tag with ver := ver } }
  let ent (e : TileEnt) : TileEnt :=
    let f : Tile := if e.st.inFast then up e.fast else e.fast
    let h : Tile := if e.st = .F then e.home else up e.home
    { e with fast := f, home := h }
  let l := (k.tiers.tiles.map (fun p => (p.1, if ts.any (fun x => x.owns p.1) then ent p.2 else p.2))).filter
    (fun p => p.2 ≠ TileEnt.absent)
  { k with tiers := { k.tiers with tiles := l } }

/-- Run count after a seal (Table 14-7). -/
def nextRun (n : BitVec 32) : BitVec 32 := if n = BitVec.allOnes 32 || n = 0 then n else n - 1

/-- VOID records of the causes the cell found (R212). -/
def State.voidRecords (s : State) (c t : Nat) (l : List Nat) : State :=
  l.foldl (fun s r => s.err c { cls := clsVOID, sev := 1, unit := 5, tenant := t, reason := r }) s

/-- The effects of R211 on one cell. -/
def Cell.sealLearn (k : Cell) (t : Nat) (commit : Bool) (now : Nat) : Cell :=
  let k1 := k.tierSeal t commit
  let k2 := k1.onRun t (fun r => { r with jobStep := r.jobStep + 1, runCount := nextRun r.runCount })
  let k3 := if commit then
      (k2.tagWeights t ((k2.ver t).homeVer + 1)).onVer t (fun v => { v with homeVer := v.homeVer + 1 })
    else k2
  let k4 := k3.onLrn t (fun l => { l with phase := .complete, gapFrom := some now })
  let u := k4.ud
  let k5 : Cell := { k4 with
    ud := { u with
      scales := u.nextScale.foldl (fun m x => m.set none x.1 (some x.2)) u.scales
      named := u.named.filter (fun x => x.2.2.2 ≠ t) } }
  k5.endSums t

/-- The cell's step ends with its seal: its number rises, and the write-back tiles of every tenant that had no step of its own in it are
resolved as committed (R156). -/
def Cell.endStepFor (k : Cell) (ran : List Nat) : Cell :=
  let others := ((k.tiers.dir.map (·.tenant)).filter (fun t => t ≠ 0xFF && !ran.contains t)).dedup
  let k1 := others.foldl (fun k t => k.tierSeal t true) k
  { k1 with step := k1.step.over, ud := { k1.ud with saturated := [] } }

/-- The learning steps of the cell's step are complete on every cell of their groups (R208). -/
def Cell.learnOver (k : Cell) : Bool :=
  k.step.running && k.learn.any (fun l => k.computes l.1) &&
  k.learn.all (fun l => !k.computes l.1 || l.2.phase = .idle || l.2.phase = .open)

/-- The cell's step ends with them. -/
def Cell.endLearn (k : Cell) : Cell := k.endStepFor ((k.learn.filter (fun l => k.computes l.1)).map (·.1))

/-- A step that is over ends at a boundary. -/
def State.endLearnStep (s : State) (c : Nat) : State :=
  if (s.cell c).learnOver then ((s.onCell c Cell.endLearn).boundary c).rest c else s

/-- The seal record of R212 is written, and the group is idle again. -/
def State.writeSeal (s : State) (t : Nat) : State :=
  let c := s.coord t
  let d := c.decision.getD (false, vLINK)
  let m := (c.group.head?).getD 0
  let b := (((c.group.filterMap (fun k => ((s.cell k).run t).image)).find? (fun i => i.phase = 2)).map
    (fun i => Config.microBatches i.ident)).getD 0
  let l := c.entries
  let r := pack [(1, 0x10), (1, if d.1 then 1 else 2), (1, t), (1, d.2), (4, c.step), (8, c.decTime),
    (2, ((s.cell m).ver t).homeVer.toNat), (2, l.length), (4, b), (8, s.time m)]
  let s1 := s.learnRecord t t r l
  let s2 := s1.onCoord t (fun x => { Coord.reset with recWait := x.recWait })
  c.group.foldl (fun s k => s.onCell k (fun k => k.onLrn t (fun l => { l with phase := .idle, decision := none, causes := [] }))) s2

/-- The seal record is written, and the next step or a pending swap may begin (R208, order 9). -/
def State.sealRecord (s : State) (t : Nat) : State := (s.coord t).group.foldl (fun s k => s.endLearnStep k) (s.writeSeal t)

/-- The cell has its decision and, for a commit with home layers, has applied it. -/
def Cell.sealReady (k : Cell) (t : Nat) : Bool :=
  (k.lrn t).phase = .applied || ((k.lrn t).phase = .decided && !k.applyDue t)

/-- A void seal leaves the counters as they were, and the report entries say so (R219, Table 10-7). -/
def Cell.standCounters (k : Cell) (t : Nat) : Cell :=
  let top (x : RepEntry) : RepEntry :=
    match (k.ud.namedFor t).find? (fun n => n.1 = x.layer) with
    | none => x
    | some n => match k.layerEnv n [] false with
      | none => x
      | some v => { x with counter := BitVec.ofNat 32 v.topCounter }
  { k with ud := { k.ud with entries := k.ud.entries.map top } }

/-- Seal complete on one cell; after the last, the seal record (orders 8 and 9). A committed seal at which the cell has no layer to update
takes a pending snapshot here (R243). -/
def State.sealDone (s : State) (c t : Nat) : State :=
  let k := s.cell c
  let d := (k.lrn t).decision.getD (false, vLINK)
  let mine := ((((s.coord t).reports.find? (fun r => r.cell = c)).map (·.causes)).getD []) ++ k.learnCauses t
  let s0 := if !d.1 then (s.voidRecords c t mine.dedup).onCell c (fun k => k.standCounters t)
    else if (k.lrn t).phase = .decided then s.takeSnapshot c t ((k.ver t).homeVer + 1) else s
  let s1 := s0.onCell c (fun k => k.sealLearn t d.1 (s.time c))
  let s2 := (s1.gatherEntries t).onCoord t (fun x => { x with complete := x.complete ++ [c] })
  let s3 := if (s.coord t).mod then s2
    else s2.sealSend c t (sealBody 3 t 0 d.2 ((k.run t).jobStep.toNat % 2 ^ 32) ((s2.cell c).ver t).homeVer.toNat 0 0 (s.time c)) []
  let x := s3.coord t
  if x.group.all x.complete.contains then s3.sealRecord t else s3

def execSealComplete (t : Nat) (cell : Fin 8) (tenant : Fin 64) (s : State) : Res :=
  .next (s.run t (fun s =>
    if s.cellUp cell && (s.coord tenant).active && (s.cell cell).sealReady tenant then s.sealDone cell tenant else s))

/-! ## SEAL frames from the Manager (R207, R277) -/

/-- The report entry in 32 bytes at `o` of a frame's payload (Table 10-7). -/
def repEntryAt (x : Frame) (o : Nat) : RepEntry :=
  { layer := x.p o 2, rule := x.p (o + 2) 1, flagsA := BitVec.ofNat 8 (x.p (o + 3) 1), ratio := BitVec.ofNat 32 (x.p (o + 4) 4),
    sUsed := sval 8 (x.p (o + 8) 1), sNext := sval 8 (x.p (o + 9) 1), flagsB := BitVec.ofNat 8 (x.p (o + 0xA) 1),
    frozen := x.p (o + 0xC) 4, counter := BitVec.ofNat 32 (x.p (o + 0x10) 4), fallback := x.p (o + 0x14) 2,
    retries := x.p (o + 0x16) 2, count := x.p (o + 0x18) 4, seat := x.p (o + 0x1C) 2, cell := x.p (o + 0x1E) 1 }

/-- Next scales with those that entries bring. A home layer keeps the value that its own U-die fixed (R211), unless its entry comes back
SATURATED for a conversion on another seat, which takes 4 off the scale (R107; log 108). -/
def Cell.mergeScales (k : Cell) (t : Nat) (l : List RepEntry) : List (Nat × Int) :=
  let next (e : RepEntry) : Nat × Int :=
    let mine := if (k.ud.namedFor t).any (fun x => x.1 = e.layer) then k.ud.nextScale.find? (fun y => y.1 = e.layer) else none
    let knew := k.ud.entries.any (fun y => y.layer = e.layer && y.flagsB.getLsbD 0)
    match mine with
    | some m => if e.flagsB.getLsbD 0 && !knew then (e.layer, max (-64) (min 63 (k.ud.scale e.layer - 4))) else m
    | none => (e.layer, e.sNext)
  k.ud.nextScale.filter (fun y => !l.any (fun e => e.layer = y.1)) ++ l.map next

/-- A DECISION frame of the Manager reaches a cell of a group that it coordinates, for the step in progress; its entries carry the next
scales, and those of further frames join them (R211, R277). A void reason outside Table 0-5 stands for LINK (R10; log 22). -/
def State.takeSeal (s : State) (c : Nat) (x : Frame) : State :=
  let t := x.p 1 1
  let l := (s.cell c).lrn t
  if !s.fromManager x || x.p 0 1 ≠ 2 || (s.coord t).mod || !(s.coord t).active || x.p 4 4 ≠ (s.coord t).step ||
     l.phase = .idle || l.phase = .complete then s
  else
    let entries := (List.range (x.p 0xA 1)).map (fun i => repEntryAt x (32 + 32 * i))
    let commit := (x.p 2 1).testBit 0
    let d : Bool × Nat := l.decision.getD (commit, if commit then 0 else voidReason (x.p 3 1))
    let s1 := s.onCoord t (fun y =>
      { y with decision := some (y.decision.getD d), decTime := if y.decision.isSome then y.decTime else x.p 0x10 8
               others := y.others.filter (fun z => !entries.any (fun e => e.layer = z.layer)) ++ entries })
    s1.onCell c (fun k =>
      let scales := k.mergeScales t entries
      if l.decision.isSome then { k with ud := { k.ud with nextScale := scales } } else k.takeDecision t d (x.p 0x10 8) scales)

end Sys2Proof.Machine
end

