-- ==== Sys2Proof/Machine/GenStep.lean ====
section
/-!
DEFINITION. Generation steps (08_generation): step list (R182, R183), KV page sets (R185, R186), the lead's seal with delivery,
draft rules and voids (R181, R184, R188 to R195), requests held for poisoned shared weights (R193, R323, R324).
-/

namespace Sys2Proof.Machine

/-! ## Step list (R182, R183, R188) -/

/-- Effective draft length (R188). -/
def ReqEntry.effDraft (e : ReqEntry) : Nat :=
  if e.susp = 0 then min e.d (e.lmax - e.g - 1) else if e.susp = 0xFF then 1 else 0

/-- The row of an entry in the next step (Table 8-7). -/
def stepRow (i : Nat) (e : ReqEntry) : StepRow :=
  if e.st = .decode then
    { entry := i, kind := 3, draft := e.effDraft, pos := e.lp + e.g - 1, tokens := 1 + e.effDraft, context := e.lp + e.g + e.effDraft,
      element := 0, prompt := 0, key := e.desc.rqKey, pin := e.pin }
  else
    let n := min e.desc.rqChunk (e.lp - e.done)
    { entry := i, kind := if e.done + n = e.lp then 2 else 1, draft := 0, pos := e.done, tokens := n, context := e.done + n,
      element := e.desc.rqFirst + e.done, prompt := e.desc.rqPrompt, key := e.desc.rqKey, pin := e.pin }

/-- Entries with a row in step `n` (R183): decoding, in prefill, or waiting for a first step not later than `n`; none of a tenant in
the hold of a push (R264). -/
def Cell.inStep (k : Cell) (n : Nat) (e : ReqEntry) : Bool :=
  (e.st = .decode || e.st = .prefill || (e.st = .waiting && e.first ≤ n)) && !((k.ver e.tenant).push.map (·.hold)).getD false

/-- Rows of the next step of the lead, in the order of R182; of each tenant no more than its list holds. -/
def Cell.planRows (k : Cell) : List StepRow :=
  let es := k.gen.table.filter (fun e => k.inStep k.step.number e.2)
  let dec := ((es.filter (fun e => e.2.st = .decode)).map (fun e => (e.2.effDraft, e.1, e.2)))
  let pre := ((es.filter (fun e => e.2.st ≠ .decode)).map (fun e => (e.2.first, e.1, e.2)))
  let sort (l : List (Nat × Nat × ReqEntry)) := inOrder (fun a b => a.1 < b.1 || (a.1 = b.1 && a.2.1 ≤ b.2.1)) l
  (sort dec ++ sort pre).foldl (fun (acc : List StepRow) x =>
    let u := k.setup x.2.2.tenant
    let used := (acc.filter (fun r => (k.entry r.entry).tenant = x.2.2.tenant)).length
    if (u.map (fun u => decide (used < u.rmax))).getD true then acc ++ [stepRow x.2.1 x.2.2] else acc) []

/-- The 32 bytes of a row (Table 8-7). -/
def StepRow.bytes (r : StepRow) : Nat :=
  pack [(2, r.entry), (1, r.kind), (1, r.draft), (4, r.pos), (4, r.tokens), (4, r.context), (4, r.element), (3, r.prompt.toNat),
    (1, 0), (4, r.key.toNat), (2, r.pin.toNat), (2, 0)]

/-- A row's position in its sampling record: the first token that the row's record decides (Table 6-6, R182). -/
def StepRow.decides (r : StepRow) : Nat := if r.kind = 3 then r.pos + 1 else r.pos + r.tokens

/-- Tenants with a row. -/
def Cell.rowTenants (k : Cell) (rows : List StepRow) : List Nat := ((rows.map (fun r => (k.entry r.entry).tenant))).dedup

/-- The step list of one tenant is written on every cell of the group: header, its rows, padding up to R_max (R182). -/
def State.writeStepList (s : State) (c : Nat) (rows : List StepRow) (t : Nat) : State :=
  let k := s.cell c
  let mine := rows.filter (fun r => (k.entry r.entry).tenant = t)
  let header := pack [(4, k.step.number), (4, mine.length), (4, (mine.map (·.tokens)).sum), (20, 0)]
  (s.groupOf c).foldl (fun s m => match (s.cell m).setup t with
    | none => s
    | some u =>
      (s.poke m t u.stepList.toNat 0 (32 * (u.rmax + 1)) (pack ((32, header) :: mine.map (fun r => (32, r.bytes))))).1) s

/-- The position of a row goes into its sampling record on every cell of the group (R182). -/
def State.writePosition (s : State) (c : Nat) (r : StepRow) : State :=
  let k := s.cell c
  let t := (k.entry r.entry).tenant
  s.pokeGroup (s.groupOf c) t (·.sampling) (16 * (r.entry - k.firstEntry t) + 4) [r.decides]

/-! ## KV pages (R185, R186) -/

/-- Lowest number not in the list. -/
def lowestFree (used : List Nat) : Nat := ((List.range (used.length + 1)).find? (fun n => !used.contains n)).getD used.length

/-- The P tiles of a page set are zeroed before its allocation (R186). -/
def State.zeroSet (s : State) (m t : Nat) (u : Setup) (set : Nat) : State :=
  (List.range u.pages).foldl (fun s k => s.fillTile m t u.kvPool (set * u.pages + k) 0 false) s

/-- A page-list tile is taken for a request: zeroed, its link closed, and linked from the request's last one (R185, R186). -/
def State.takePageTile (s : State) (m i : Nat) (u : Setup) : State :=
  let k := s.cell m
  let e := k.entry i
  let n := lowestFree ((k.gen.table.filter (fun x => x.2.tenant = e.tenant)).flatMap (fun x => x.2.pageTiles))
  let s1 := (s.fillTile m e.tenant u.pageList n 0 false).pokeWords m e.tenant u.pageList.toNat (1024 * n + 1023) [0xFFFFFFFF]
  let s2 := match e.pageTiles.getLast? with
    | none => s1.1
    | some p => (s1.1.pokeWords m e.tenant u.pageList.toNat (1024 * p + 1023) [n]).1
  s2.onCell m (fun k => k.onEntry i (fun e => { e with pageTiles := e.pageTiles ++ [n] }))

/-- One page set is allocated to a request on a cell: the lowest-numbered free set (R186). -/
def State.takePageSet (s : State) (m i : Nat) (u : Setup) : State :=
  let j := ((s.cell m).entry i).pageSets.length
  let s0 := if j % 1023 = 0 then s.takePageTile m i u else s
  let k := s0.cell m
  let e := k.entry i
  let n := lowestFree ((k.gen.table.filter (fun x => x.2.tenant = e.tenant)).flatMap (fun x => x.2.pageSets))
  let s1 := (s0.zeroSet m e.tenant u n).pokeWords m e.tenant u.pageList.toNat
    (1024 * (e.pageTiles.getLast?).getD 0 + j % 1023) [n]
  s1.1.onCell m (fun k => k.onEntry i (fun e => { e with pageSets := e.pageSets ++ [n] }))

def State.takePages : Nat → State → Nat → Nat → Setup → State
  | 0, s, _, _, _ => s
  | n + 1, s, m, i, u => State.takePages n (s.takePageSet m i u) m i u

/-- Page sets for a row's new positions on one cell (R186). -/
def State.pagesFor (s : State) (m : Nat) (r : StepRow) : State :=
  let e := (s.cell m).entry r.entry
  match (s.cell m).setup e.tenant with
  | none => s
  | some u => State.takePages (ceilDiv r.context 16 - e.pageSets.length) s m r.entry u

/-! ## Requests held for poisoned shared weights (R193, R323, R324) -/

/-- Shared tensors with a poisoned tile on their holder cell (R323). -/
def State.poisonedShared (s : State) (m : Nat) (ident : BitVec 24) : Bool :=
  match s.locate m 0xFF ident with
  | none => false
  | some (h, t, _) =>
    t.tenant = 0xFF && (List.range t.total).any (fun i =>
      ((((s.cell h).ent (t.base + i)).current).map (fun x => x.tag.poison)).getD false)

/-- Some cell of the group has a current image of the tenant that names a poisoned shared tensor in a layer record (R323). -/
def State.weightsBad (s : State) (c t : Nat) : Bool :=
  (s.groupOf c).any (fun m =>
    ((((s.cell m).run t).image.map (·.layers)).getD []).any (fun l => s.poisonedShared m (BitVec.ofNat 24 l.tensor)))

/-- Outcome of R177 for a held request's remaining work if it were released now (R193, R324). -/
def State.replan (s : State) (c i : Nat) : Verdict :=
  let k := s.cell c
  let e := k.entry i
  match k.fig.active with
  | none => .held
  | some f => s.planTest c (some i) e.rest e.deadline (s.planEnv c e.tenant f)

/-- A held request is released with its new plan; one that can no longer be planned ends as a POISON void at the next seal (R193). -/
def State.releaseOne (s : State) (c i : Nat) : State :=
  let k := s.cell c
  let bad (s : State) : State := s.onCell c (fun k => k.onEntry i (fun e => { e with causes := (e.causes ++ [vPOISON]).dedup }))
  match k.fig.active with
  | none => bad s
  | some f =>
    let first := (s.planEnv c (k.entry i).tenant f).first
    match s.replan c i with
    | .admitted _ =>
      s.onCells (s.groupOf c) (fun k => k.onEntry i (fun e =>
        let l := e.rest first
        { e with
          st := if e.done < e.lp then .prefill else .decode
          first := first, np := l.np, steps := l.steps, last := first + l.steps - 1 }))
    | _ => bad s

/-- At a step boundary of the group: requests whose weights are poisoned are held, the others released (R193, R323). -/
def State.holdRequests (s : State) (c : Nat) : State :=
  let k := s.cell c
  let bad := ((k.gen.table.map (fun e => e.2.tenant)).dedup).filter (fun t => s.weightsBad c t)
  k.gen.table.foldl (fun s x =>
    let e := x.2
    if e.moving && bad.contains e.tenant then
      s.onCells (s.groupOf c) (fun k => k.onEntry x.1 (fun e => { e with st := .held }))
    else if e.st = .held && !bad.contains e.tenant && !e.causes.contains vPOISON then s.releaseOne c x.1
    else s) s

/-! ## The step begins (R182, R183, Table 8-6) -/

/-- What the lead does at the beginning of a step: rows, states, page sets, step list, positions, planned duration (R177, R182,
R186). -/
def State.layStep (s : State) (c : Nat) (rows : List StepRow) : State :=
  let g := s.groupOf c
  let k := s.cell c
  let tenants := k.rowTenants rows
  let dur := (k.fig.active.map (fun f =>
    tenants.foldl (fun m t => max m (scaleNs (s.factor c t) (f.planned ((k.planEntries none).map ReqEntry.load) k.step.number))) 0)).getD 0
  let s1 := g.foldl (fun s m => s.onCell m (fun k =>
    let k1 := rows.foldl (fun k r => k.onEntry r.entry (fun e => if e.st = .waiting then { e with st := .prefill } else e)) k
    { k1 with gen := { k1.gen with rows := rows, reports := [] } })) s
  let s2 := s1.onCell c (fun k => { k with gen := { k.gen with planned := dur } })
  let s3 := g.foldl (fun s m => rows.foldl (fun s r => s.pagesFor m r) s) s2
  let s4 := tenants.foldl (fun s t => s.writeStepList c rows t) s3
  rows.foldl (fun s r => s.writePosition c r) s4

/-! ## Seal: what each request gets (R184, R188 to R193) -/

/-- The report of a row's decision: of the step's reports with its tenant, key and position the first, and for each later row of the same
three the next (log 16). -/
def Cell.reportFor (k : Cell) (r : StepRow) : Option SampleReport :=
  let tenant (x : StepRow) : Nat := (k.entry x.entry).tenant
  let same (x : StepRow) : Bool := tenant x = tenant r && x.key = r.key && x.decides = r.decides
  let n := ((k.gen.rows.takeWhile (fun x => x.entry ≠ r.entry)).filter same).length
  (k.gen.reports.filter (fun x => x.tenant = tenant r && x.key = r.key && x.pos = r.decides))[n]?

/-- Tokens that a row delivers, and 0x01 or 0x02 where they end the request (R189). -/
def takeTokens (e : ReqEntry) : Nat → List (BitVec 32) → List (BitVec 32) × Nat
  | _, [] => ([], 0)
  | g, w :: r =>
    if e.desc.rqStop && w.toNat = e.desc.rqStopTok then ([w], 1)
    else if e.lmax ≤ g + 1 then ([w], 2)
    else
      let (l, x) := takeTokens e (g + 1) r
      (w :: l, x)

/-- The draft rules of R188 after a sealed step with effective length `eff` and accepted count `a`. -/
def ReqEntry.drafted (e : ReqEntry) (eff a : Nat) : ReqEntry :=
  let s := if 1 ≤ e.susp && e.susp ≤ 64 then (if e.susp = 1 then 0xFF else e.susp - 1) else e.susp
  if eff = 0 then { e with susp := s }
  else if e.susp = 0xFF then
    if a = 0 then { e with d := 0, susp := 64 } else { e with d := 1, susp := 0, rejRun := 0, accRun := 0 }
  else if a = 0 then
    if e.rejRun + 1 = 4 then { e with d := e.d / 2, rejRun := 0, accRun := 0, susp := if e.d / 2 = 0 then 64 else s }
    else { e with rejRun := e.rejRun + 1, accRun := 0, susp := s }
  else if a = eff then
    if e.accRun + 1 = 4 then { e with d := min (2 * e.d) e.d0, accRun := 0, rejRun := 0, susp := s }
    else { e with accRun := e.accRun + 1, rejRun := 0, susp := s }
  else { e with rejRun := 0, accRun := 0, susp := s }

/-- Void causes of the group's step that touch every request with a row: doubt voids the group's step (R184, R315), other causes
their tenant. -/
def State.stepCauses (s : State) (g : List Nat) (t : Nat) : List Nat :=
  ((g.flatMap (fun m => (s.cell m).step.causes)).filter (fun x =>
    x.entry.isNone && (x.tenant = t || x.tenant = 0xFF || x.code = vCHECK || x.code = vDISAGREE))).map (·.code)

/-- Void causes that name one request. -/
def State.entryCauses (s : State) (g : List Nat) (i : Nat) : List Nat :=
  ((g.flatMap (fun m => (s.cell m).step.causes)).filter (fun x => x.entry = some i)).map (·.code)

/-- Experience elements `e` to `e + n − 1` lie in a tensor of the tenant. -/
def Cell.wordsFit (k : Cell) (t : Nat) (ident : BitVec 24) (e n : Nat) : Bool :=
  match k.ownTensor t ident.toNat with
  | none => false
  | some x => e + n ≤ x.count * 1024

/-- The experience row of a request fits its tensor. -/
def Cell.rowFits (k : Cell) (e : ReqEntry) : Bool :=
  match k.setup e.tenant with
  | none => false
  | some u => k.wordsFit e.tenant u.exper (e.desc.rqRow * u.stride) (e.lp + e.lmax)

/-- What the seal finds for one request. -/
structure Found where
  toks   : List (BitVec 32)
  stop   : Nat
  acc    : Nat
  causes : List Nat
  deriving DecidableEq, Repr

/-- Causes that its own row and its destination bring (R20, R135, R190, R293, R323). -/
def State.rowCauses (s : State) (c : Nat) (e : ReqEntry) (r : StepRow) (rep : Option SampleReport) (toks : List (BitVec 32)) :
    List Nat :=
  let k := s.cell c
  (match rep with
    | none => []
    | some x => (if x.status ≠ 0 then [vCHECK] else []) ++ (if x.poison then [vPOISON] else [])) ++
  (if e.desc.rqDest = 0 && !toks.isEmpty && (k.step.hostLost || !s.hostUp) then [vLINK] else []) ++
  (if e.desc.rqDest = 1 && !toks.isEmpty && (s.seating.orphaned || !s.seating.seated) then [vLINK] else []) ++
  (if e.desc.rqDest = 2 && (!toks.isEmpty || r.kind = 2) && !k.rowFits e then [vCHECK] else [])

/-- A swap in stop mode voids the tenant's requests at this seal (R50): its condition and staging hold on a cell of the group. -/
def State.stopDue (s : State) (g : List Nat) (t : Nat) : Bool :=
  g.any (fun m => let k := s.cell m
    k.armMet (s.time m) && (k.fig.idle.map (·.stop)).getD false && k.discontinuous.contains t)

/-- The request's pinned version can no longer be served by every cell of the group (R255). -/
def State.versionLost (s : State) (g : List Nat) (e : ReqEntry) : Bool :=
  g.any (fun m => ((s.cell m).ver e.tenant).lost.contains e.pin)

/-- Tokens that an entry's row delivers, and how they end the request: none where the row decides no token or its report is not DONE (R135,
R189). -/
def tokensOf (e : ReqEntry) : Option StepRow → Option SampleReport → List (BitVec 32) × Nat
  | some r, some x => if x.status = 0 && 2 ≤ r.kind then takeTokens e e.g x.tokens else ([], 0)
  | _, _ => ([], 0)

/-- What the seal at lead `c` finds for entry `i`. -/
def State.findFor (s : State) (c i : Nat) (e : ReqEntry) : Found :=
  let k := s.cell c
  let g := s.groupOf c
  let row : Option StepRow := k.gen.rows.find? (fun r => r.entry = i)
  let rep : Option SampleReport := row.bind k.reportFor
  let (toks, stop) := tokensOf e row rep
  let mine := match row with
    | none => []
    | some r => s.stepCauses g e.tenant ++ s.rowCauses c e r rep toks ++ (if s.supply.failing then [vPOWER] else [])
  let held := if e.st = .held then (match s.replan c i with
      | .admitted _ => []
      | _ => [vPOISON]) else []
  let found := e.causes ++ s.entryCauses g i ++ mine ++ held ++
    (if (s.groupSeats c).any s.seating.departed.contains then [vLINK] else []) ++
    (if g.any (fun m => (s.cell m).power.tooHot) then [vTHERMAL] else []) ++ (if e.deadline < s.time c then [vLATE] else []) ++
    (if s.versionLost g e then [vVERSION] else []) ++ (if g.any (fun m => (s.cell m).restart = some false) then [vADMIN] else [])
  let ends := found.isEmpty && stop ≠ 0
  let all := found ++ (if e.cancel && !ends then [vADMIN] else []) ++ (if s.stopDue g e.tenant && !ends then [vSTOP] else [])
  { toks := toks, stop := stop, acc := (rep.map (·.acc)).getD 0, causes := all.dedup }

/-! ## Seal: deliveries and records (R190, R194) -/

/-- Whole tiles of the token sequence that hold the tokens from `from_` on, for a Manager's tensor (R190). -/
def tokenTiles (toks : List (BitVec 32)) (from_ : Nat) : List (Nat × Payload) :=
  ((List.range (ceilDiv toks.length 1024)).filter (fun j => from_ / 1024 ≤ j)).map (fun j =>
    (j, BitVec.ofNat 32768 (pack (((toks.drop (1024 * j)).take 1024).map (fun w => (4, w.toNat))))))

/-- Tokens of a committed row go to the request's destination (R190); `k0` is the number of the first. -/
def State.deliver (s : State) (c : Nat) (e : ReqEntry) (k0 : Nat) (toks : List (BitVec 32)) : State :=
  let k := s.cell c
  let data := pack (toks.map (fun w => (4, w.toNat)))
  if toks.isEmpty then s
  else if e.desc.rqDest = 0 then s.emit (.hostWrite (e.desc.rqWhere.toNat + 4 * k0) (4 * toks.length) data)
  else if e.desc.rqDest = 1 then
    let r := readRef e.desc.rqWhere
    (tokenTiles (e.toks ++ toks) k0).foldl (fun s x =>
      let tile : Tile := { payload := x.2, tag := { Tile.zero.tag with check := payloadCrc x.2, ident := r.ident, fmt := 0x11, seq := x.1, tenant := e.tenant } }
      let dst : TileTo :=
        { seat := if r.own then s.mySeat else r.seat, cell := r.cell, tenant := e.tenant, ident := r.ident, seq := x.1, lane := 5,
          kind := 0, aux := 0, group := 0xFFFF, ctr := 0xFFFF }
      (s.sendTile c 0 dst { Slot.zero with tile := tile } true).1) s
  else match k.setup e.tenant with
    | none => s
    | some u => (s.pokeWords c e.tenant u.exper.toNat (e.desc.rqRow * u.stride + e.lp + k0) (toks.map (·.toNat))).1

/-- The prompt is copied into its experience row at the seal of its last chunk (R190). -/
def State.copyPrompt (s : State) (c : Nat) (e : ReqEntry) : State :=
  match (s.cell c).setup e.tenant, s.locate c e.tenant e.desc.rqPrompt with
  | some u, some (h, t, _) =>
    let v := (s.cell h).tensorNat t (4 * e.desc.rqFirst) (4 * e.lp)
    (s.poke c e.tenant u.exper.toNat (4 * (e.desc.rqRow * u.stride)) (4 * e.lp) v).1
  | _, _ => s

/-- The record of an ended request goes where R190 says; one for a host's ring keeps the entry in ENDING until it is written. -/
def State.endRecord (s : State) (c i : Nat) (e : ReqEntry) (rec1 : Nat) : State :=
  let fn := s.recordFn c e.src e.desc
  let ring (s : State) : State :=
    if fn = 0x70 then s.mail c [(2, rec1)]
    else s.queueRec fn { slots := [BitVec.ofNat 256 rec1], status := false, entry := some (c, i), learn := none }
  match e.desc.rqDest, (s.cell c).setup e.tenant with
  | 2, some u =>
    if u.expRec = 0 then ring s
    else (s.poke c e.tenant u.expRec.toNat (32 * e.desc.rqRow) 32 rec1).1
  | _, _ => ring s

/-- A request ends: DONE with code 0x01 or 0x02, or void with the causes (R181, R189, R195). Every cause has its record. -/
def State.endRequest (s : State) (c i : Nat) (code : Nat) (causes : List Nat) : State :=
  let k := s.cell c
  let e := k.entry i
  let now := s.time c
  let why := pickCause causes
  let s1 := causes.foldl (fun s x => s.err c
    { cls := clsVOID, sev := 1, unit := 5, tenant := e.tenant, reason := x, obj := i, detail := e.desc.rqTag }) s
  let s2 := (s.groupOf c).foldl (fun s m => s.onCell m (fun k => k.onEntry i (fun e =>
    { e with
      st := .ending, reason := why, pageSets := [], pageTiles := [], setsRsv := 0, np := 0, steps := 0, outcome := code,
      endTime := now, endStep := k.step.number }))) s1
  s2.endRecord c i e
    (if why = 0 then genRecord 1 code e.tenant c e.desc.rqTag now e.g i e.pin.toNat k.step.number
     else genRecord 2 why e.tenant c e.desc.rqTag now e.g i e.pin.toNat k.step.number)

/-- A row is committed (R184, R188, R189): progress, tokens, drafts, on the lead and in the mirrors. -/
def State.commitRow (s : State) (c i : Nat) (r : StepRow) (x : Found) : State :=
  let e := (s.cell c).entry i
  let s1 := s.deliver c e e.g x.toks
  let s2 := if r.kind = 2 && e.desc.rqDest = 2 then s1.copyPrompt c e else s1
  s2.onCells (s.groupOf c) (fun k => k.onEntry i (fun e =>
    let e1 := { e with
      done := if r.kind = 3 then e.done else e.done + r.tokens
      st := if r.kind = 2 then .decode else e.st
      g := e.g + x.toks.length
      toks := if e.desc.rqDest = 1 then e.toks ++ x.toks else e.toks }
    if r.kind = 3 then e1.drafted r.draft x.acc else e1))

/-- One request at the seal. -/
def State.sealEntry (s : State) (c i : Nat) (x : Found) : State :=
  if !x.causes.isEmpty then s.endRequest c i 0 x.causes
  else match ((s.cell c).gen.rows.find? (fun r => r.entry = i)) with
    | none => s
    | some r =>
      let s1 := s.commitRow c i r x
      if x.stop = 0 then s1 else s1.endRequest c i x.stop []

/-! ## The seal (R181, R184, R156, R315) -/

/-- VOID frames to receivers outside the group of tiles of a doubted step (R315). -/
def State.doubtFrames (s : State) (g : List Nat) : State :=
  let codes := (g.flatMap (fun m => (s.cell m).step.causes)).map (·.code)
  g.foldl (fun a m => a.doubtVoids m codes (s.inGroup m)) s

/-- Tenants that ran in the group's step. -/
def State.ranTenants (s : State) (c : Nat) : List Nat := (s.cell c).rowTenants (s.cell c).gen.rows

/-- The step of a group's cells ends: write-back, job steps, step number (R103, R156, R181). -/
def Cell.endStep (k : Cell) (ran : List (Nat × Bool)) : Cell :=
  let k1 := ran.foldl (fun k t => ((k.tierSeal t.1 t.2).endSums t.1).onRun t.1 (fun r => { r with jobStep := r.jobStep + 1 })) k
  let k2 := k1.endStepFor (ran.map (·.1))
  { k2 with gen := { k2.gen with rows := [], reports := [], planned := 0 } }

/-- Requests are decided in increasing entry, each by what the seal found before any was ended (R9, R184). -/
def State.sealRequests (s : State) (c : Nat) : State :=
  let live := (s.cell c).gen.table.filter (fun e => e.2.live)
  let found := live.map (fun e => (e.1, s.findFor c e.1 e.2))
  found.foldl (fun s x => s.sealEntry c x.1 x.2) s

/-- The group's step boundary. -/
def State.groupBoundary (s : State) (g : List Nat) : State :=
  g.foldl (fun s m => s.rest m) (g.foldl (fun s m => s.boundary m) s)

/-- The seal of the lead `c`'s group. -/
def State.sealGen (s : State) (c : Nat) : State :=
  let g := s.groupOf c
  let ran := (s.ranTenants c).map (fun t => (t, (s.stepCauses g t).isEmpty && !s.supply.failing))
  let s1 := (s.doubtFrames g).sealRequests c
  let s2 := s1.onCells g (fun k => k.endStep ran)
  s2.groupBoundary g

/-- Requests of some tenants are voided by a seal of a step that runs no operation (R50): no step of the group is in progress. Every other
cause that the seal finds for them is entered and ranked beside the given one (R9). -/
def State.emptySeal (s : State) (c : Nat) (tenants : List Nat) (why : Nat) : State :=
  let live := (s.cell c).gen.table.filter (fun e => e.2.live && tenants.contains e.2.tenant)
  let found := live.map (fun e => (e.1, (why :: (s.findFor c e.1 e.2).causes).dedup))
  found.foldl (fun s x => s.endRequest c x.1 0 x.2) s

/-- Every cell of the group has written its results (R184, R314): its threads are over, nothing is left in an engine or waits for a
recompute; or the watchdog has stopped it. -/
def Cell.stepOver (k : Cell) : Bool :=
  k.step.running && (k.step.stopped || k.cores.all (fun p => p.2.out ||
    p.2.ctxs.all (fun x => x.2.st = .done || x.2.st = .free) && p.2.engines.all (fun e => e.2.isNone) && p.2.redoDue.isEmpty))

def execGenerationSeal (t : Nat) (cell : Fin 8) (s : State) : Res :=
  .next (s.run t (fun s =>
    let g := s.groupOf cell
    if s.isLead cell && g.all (fun m => s.cellUp m && (s.cell m).stepOver) then s.sealGen cell else s))

end Sys2Proof.Machine
end

