-- ==== Sys2Proof/Machine/Steps.lean ====
section
/-!
DEFINITION. Steps of a cell (03_threads_and_contract): LOAD IMAGE (R61, R62), the beginning of a step (R64 to R66, R182, R319), SYNC
and its messages (R65 to R67), the completion of operations (R59, R311), the watchdog (R68).
-/

namespace Sys2Proof.Machine

/-! ## LOAD IMAGE (R61, R62, Table 14-7) -/

/-- Fields of a LOAD IMAGE outside Table 14-7 (R435). -/
def loadImageReserved (e : Entry) : Bool := 63 < e.fld 1 1 || e.fld 2 2 ≠ 0 || e.fld 7 1 ≠ 0 || !e.zeroBytes 0xC 64

/-- Bytes of an image of `len` bytes in a tensor of the tenant; none where it is missing, not READY or shorter. -/
def Cell.imageBytes (k : Cell) (t ident len : Nat) : Option Nat :=
  match k.ownTensor t ident with
  | none => none
  | some x => if x.fmt = 0x11 && len ≤ 4096 * x.count && 1 ≤ len then some (k.tensorNat x 0 len) else none

/-- An information record for each PRODUCT of a chain longer than 65,536 with LONG set (R58). -/
def State.longRecords (s : State) (c t : Nat) (img : Image) : State :=
  ((img.ops.zipIdx).filter (fun o => o.1.opcode = 1 && 65536 < o.1.k && o.1.long)).foldl (fun s o =>
    s.err c { cls := clsINFO, sev := 0, unit := 5, tenant := t, obj := o.2 }) s

/-- LOAD IMAGE: an accepted image becomes current at the next step boundary (R62). -/
def State.doLoadImage (s : State) (c : Nat) (src : Source) (e : Entry) : State :=
  let k := s.cell c
  let t := e.fld 1 1
  let len := e.fld 8 4
  if loadImageReserved e then s.complete c src e { status := 0x05 }
  else match k.imageBytes t (e.fld 4 3) len with
    | none => s.complete c src e { status := 0x01 }
    | some v =>
      let mine := k.tenantFn t = src.who.toNat || src.who = 0x70
      let carried := if (k.run t).carried then (k.run t).image.map (·.figure) else none
      let st := imageStatus k.fig.active c len v t mine carried s.seating.level
      if st ≠ 0 then s.complete c src e { status := st }
      else
        let img := readImage v
        let s1 := (s.longRecords c t img).onCell c (fun k => k.onRun t (fun r => { r with next := some img }))
        (s1.complete c src e { status := 0 }).boundarySoon c

def execLoadImage (t : Nat) (cell : Fin 8) (src : Source) (e : Entry) (s : State) : Res :=
  .next (s.run t (fun s => s.entryAt cell 0x10 src e (fun s => s.doLoadImage cell src e)))

/-! ## The beginning of a step -/

/-- Nothing keeps the cell from beginning a step: initialised and in C0, no step in progress, no swap due at this boundary (R43), not
too hot (R357), the supply good (R369), no restart that has ended its last step (R373). -/
def State.mayBegin (s : State) (c : Nat) : Bool :=
  let k := s.cell c
  s.cellUp c && !k.step.running && k.power.state = .c0 && !s.swapWaits c && !k.power.tooHot && !s.supply.failing &&
  k.restart ≠ some false

/-- A context as a step begins: of a tenant that runs, at its first record, ready or waiting on its start counter; else DONE
(Table 3-4, Table 3-11). -/
def Cell.startCtx (k : Cell) (n : Nat) (ts : List Nat) (x : Ctx) : Ctx :=
  if x.st = .free then x
  else if !ts.contains x.tenant then { x with st := .done }
  else match k.threadOf x with
    | none => { x with st := .done }
    | some d =>
      if d.startCtr = 0xFFFF || d.startThr = 0 then { x with nextRec := 0, st := .ready, waitCtr := 0, waitThr := 0 }
      else { x with nextRec := 0, st := .wait, waitCtr := ctrKey n (x.base + d.startCtr), waitThr := d.startThr }

/-- The cores at the beginning of a step of some tenants: counters zero, side memory empty, no redo used (R65, R113, R311). -/
def Cell.startCores (k : Cell) (ts : List Nat) : Cell :=
  let l := k.cores.map (fun p => (p.1,
    { p.2 with ctrs := [], sets := [], redos := 0, redoDue := [], engines := [], ctxs := p.2.ctxs.mapV Ctx.free (k.startCtx p.1 ts) }))
  { k with cores := l.filter (fun p => p.2 ≠ Core.reset) }

/-- Messages held for this step are applied in its first cycle; others are looked at again (R66). -/
def State.takePending (s : State) (c : Nat) : State :=
  let l := (s.cell c).cores.flatMap (fun p => p.2.pend)
  let s1 := s.onCell c (fun k => { k with cores := k.cores.mapV Core.reset (fun x => { x with pend := [] }) })
  l.foldl (fun s m => (s.syncArrive m).getD s) s1

/-- The step begins at a device time: the causes that VOID frames had brought for its number are its own, and those of steps that never
ran are gone (R275). -/
def StepState.start (x : StepState) (now : Nat) : StepState :=
  let ahead (y : Nat × Cause) : Nat := (y.1 + 2 ^ 32 - x.number % 2 ^ 32) % 2 ^ 32
  { x with
    running := true, began := now, causes := (x.later.filter (fun y => ahead y = 0)).map (·.2)
    later := x.later.filter (fun y => ahead y ≠ 0 && ahead y < 2 ^ 31)
    stopped := false, sentTo := [], hostLost := false }

/-- A cell's step begins for the tenants `ts` (R64 to R66); groups without a place void their tenant's step (R319). -/
def State.startStep (s : State) (c : Nat) (ts : List Nat) : State :=
  let s1 := s.onCell c (fun k => { k.startCores ts with step := k.step.start (s.time c) })
  let s2 := ts.foldl (fun s t => if (s.cell c).unplaced t then s.cause c vFENCE t none else s) s1
  (s2.takePending c).onCell c Cell.release

/-- A generation lead begins a step when every cell of its group may and some request has a row (R168, R182). -/
def State.beginLead (s : State) (c : Nat) : State :=
  let g := s.groupOf c
  if !(g.all s.mayBegin) then s
  else
    let s0 := s.holdRequests c
    let rows := (s0.cell c).planRows
    if rows.isEmpty then s0 else (s0.layStep c rows).startStep c ((s0.cell c).rowTenants rows)

/-- A follower begins the step that its lead has laid out. -/
def State.beginFollower (s : State) (c lead : Nat) : State :=
  let k := s.cell c
  if (s.cell lead).step.running && !k.gen.rows.isEmpty && s.mayBegin c then s.startStep c (k.rowTenants k.gen.rows) else s

/-- Tenants whose learning step has been opened and not begun on the cell (R208, R435). -/
def Cell.openTenants (k : Cell) : List Nat := (k.learn.filter (fun l => l.2.phase = .open && k.computes l.1)).map (·.1)

/-- Learning tenants of the cell begin their step. -/
def State.beginLearn (s : State) (c : Nat) : State :=
  let ts := (s.cell c).openTenants
  if ts.isEmpty || !s.mayBegin c then s
  else (s.startStep c ts).onCell c (fun k => ts.foldl (fun k t => k.onLrn t (fun l => { l with phase := .running })) k)

def execStepBegin (t : Nat) (cell : Fin 8) (s : State) : Res :=
  .next (s.run t (fun s =>
    match s.leadCell cell with
    | none => s.beginLearn cell
    | some m => if m = cell.val then s.beginLead cell else s.beginFollower cell m))

/-! ## SYNC and sync messages (R65 to R67) -/

/-- The signal of a SYNC (Table 3-8). -/
def State.syncSignal (s : State) (v : OpEnv) : State :=
  if v.op.variant = 2 then s
  else
    let r := readRef v.op.a
    s.sendSync
      { src := v.cell, seat := if r.own then s.mySeat else r.seat, cell := r.cell, tenant := v.tenant, group := r.group, ctr := r.ctr,
        add := bits v.op.param.toNat 0 16, step := BitVec.ofNat 16 (s.cell v.cell).step.number }

/-- A context after a wait: released at once where the counter has reached the threshold, else in WAIT (R65, R67). A counter that no
deal holds is never reached. -/
def Cell.waitOn (k : Cell) (v : OpEnv) (x : Ctx) : Ctx :=
  let r := readRef v.op.d
  let thr := bits v.op.param.toNat 16 16
  let next := x.advance (k.recCount x)
  match k.counterAt v.tenant r.group r.ctr with
  | none => { next with st := .wait, waitCtr := ctrKey 128 0, waitThr := max 1 thr }
  | some (n, i) =>
    if thr ≤ ((k.core n).ctr i).toNat then next else { next with st := .wait, waitCtr := ctrKey n i, waitThr := thr }

/-- SIGNAL: one is added to the record's counter of the thread's own group (Table 3-6). -/
def State.ownSignal (s : State) (c : Nat) (x : Ctx) (o : OpRec) : State :=
  if o.signal then s.signalAt c x.tenant x.group o.sigCtr 1 else s

/-- A SYNC at issue: it signals, then waits, as its variant says. -/
def State.syncOp (s : State) (v : OpEnv) : State :=
  let s1 := s.syncSignal v
  let s2 := s1.onCell v.cell (fun k => k.onCore v.core (fun y =>
    let x := y.ctx v.ctx
    y.setCtx v.ctx (if v.op.variant = 1 then x.advance (k.recCount x) else k.waitOn v x)))
  s2.ownSignal v.cell ((s.cell v.cell).core v.core |>.ctx v.ctx) v.op

def execSync (t : Nat) (cell : Fin 8) (core : Fin 128) (s : State) : Res :=
  .next (s.run t (fun s =>
    match s.issue cell core 9 (fun o => o.opcode = 9) with
    | none => s
    | some (v, s1) => s1.syncOp v))

/-- A sync message in flight arrives: applied, held, discarded, or kept at the sending side while the buffer is full (R66). -/
def execSyncMessage (t : Nat) (index : Nat) (s : State) : Res :=
  .next (s.run t (fun s =>
    match s.net[index]? with
    | none => s
    | some m =>
      let s1 := { s with net := s.net.eraseIdx index }
      match s1.syncArrive m with
      | some s2 => s2
      | none => { s1 with netHeld := s1.netHeld ++ [m] }))

/-- Messages held at the sending side are tried again, oldest first (R66). -/
def execSyncRetry (t : Nat) (s : State) : Res :=
  .next (s.run t (fun s =>
    s.netHeld.foldl (fun s m => match s.syncArrive m with
      | some s1 => s1
      | none => { s with netHeld := s.netHeld ++ [m] }) { s with netHeld := [] }))

/-! ## Operations complete (R59, R85, R134, R311) -/

/-- Slots that an operation writes. -/
def EngineOp.slots (o : EngineOp) : List Nat := o.writes.filterMap (fun w => match w with
  | .slot n _ => some n
  | _ => none)

/-- Every tile of the operation goes to another cell: its signal travels with the tiles (R59). -/
def EngineOp.allRemote (o : EngineOp) : Bool := !(o.sent.isEmpty && o.writes.isEmpty) && o.writes.all Write.far

/-- Tiles that a MOVE has sent wait at an output port of their cell still, so that it is not over (R56, R59). That they are written where
they go is what the command OPERATION_COMPLETE then says (log 101). -/
def Cell.sending (k : Cell) (tenant : Nat) (o : EngineOp) : Bool :=
  o.sent.any (fun q => k.korif.ports.any (fun p => p.2.queue.any (fun q1 => let w := q1.2;
    w.ftype = 1 && w.tkind = 0 && w.tenant = tenant && w.tensor = q.1.toNat && w.tseq = q.2)))

/-- Sample reports go to the lead of the cell's group (R134, R135). -/
def State.giveReports (s : State) (c : Nat) (l : List SampleReport) : State :=
  match s.leadCell c with
  | none => s
  | some m => if l.isEmpty then s else s.onCell m (fun k => { k with gen := { k.gen with reports := k.gen.reports ++ l } })

/-- An operation's results are written, its signal is sent and its thread goes on (R59, Table 3-11). -/
def State.finishOp (s : State) (c n engine : Nat) (o : EngineOp) : State :=
  let x := ((s.cell c).core n).ctx o.ctx
  let s1 := o.writes.foldl (fun s w => s.applyWrite c n x.tenant (engine = engMover) (o.oprec.sig x.group) w) (s.tierServed c n)
  let s2 := s1.onCore c n (fun y => y.setEngine engine none)
  let s3 := s2.onCell c (fun k => k.onCore n (fun y => y.setCtx o.ctx ((y.ctx o.ctx).advance (k.recCount x))))
  let s4 := if o.allRemote then s3 else s3.ownSignal c x o.oprec
  (s4.giveReports c o.reports).retryParts c

/-- A PRODUCT's tiles that fail the checksum unit wait for their recompute (R311); without one, and with every answer to a remote
read in, the operation completes. -/
def execOperationComplete (t : Nat) (cell : Fin 8) (core : Fin 128) (engine : Nat) (bad : List Nat) (s : State) : Res :=
  .next (s.run t (fun s =>
    let x := (s.cell cell).core core
    match x.engine engine with
    | none => s
    | some o =>
      if !s.issuing cell || x.out then s
      else
        let failed := if engine = 1 then bad.filter o.slots.contains else []
        if !failed.isEmpty then
          s.onCore cell core (fun y => { y with redoDue := (y.redoDue ++ failed.map (fun b => (o.ctx, b))).dedup })
        else if !o.waits.isEmpty || (s.cell cell).sending (x.ctx o.ctx).tenant o || x.redoDue.any (fun r => r.1 = o.ctx) then s
        else s.finishOp cell core engine o))

/-! ## The watchdog (R68, R206) -/

/-- Group and counter, by the image's numbers, of what a context waits for: the start counter of its thread, or what the SYNC that
stopped it names. -/
def Cell.waitName (k : Cell) (x : Ctx) : Nat × Nat :=
  match (k.run x.tenant).image, k.threadOf x with
  | some i, some d =>
    if x.nextRec = 0 then (x.group, d.startCtr)
    else match i.ops[d.first + x.nextRec - 1]? with
      | some o => ((readRef o.d).group, (readRef o.d).ctr)
      | none => (x.group, 0)
  | _, _ => (x.group, 0)

/-- A WATCHDOG record for each counter that threads of the tenant wait on; DESIGN CHOICE (log 95): where none waits, one record that
names group 0 and counter 0. -/
def State.watchdogRecords (s : State) (c t : Nat) : State :=
  let k := s.cell c
  let l := ((k.cores.flatMap (fun p => p.2.ctxs.filterMap (fun x =>
    if x.2.tenant = t && x.2.st = .wait then some (k.waitName x.2) else none)))).dedup
  (if l.isEmpty then [(0, 0)] else l).foldl (fun s q =>
    s.err c { cls := clsWATCHDOG, sev := 2, unit := 5, tenant := t, reason := vCHECK, obj := q.1, detail := q.2 }) s

/-- The sums of a learning step that the cell homes are not all written (R206). -/
def State.sumsMissing (s : State) (c t : Nat) : Bool := (((s.cell c).lrn t).phase = .running) && !s.sumsDone c t

/-- Tenants of the running step whose limit has passed with work left: threads not over, or sums not written (R68, R206). -/
def State.overdue (s : State) (c : Nat) : List Nat :=
  let k := s.cell c
  (k.runs.filter (fun r =>
    r.2.image.isSome && k.step.began + k.stepLimit r.1 ≤ s.time c &&
    (!k.threadsOver r.1 || (k.computes r.1 && s.sumsMissing c r.1)))).map (·.1)

/-- Tenants for whose learning step the cell is a home only, whose limit has passed with a sum not written (R206, R248). -/
def State.overdueHomes (s : State) (c : Nat) : List Nat :=
  ((s.cell c).learn.filter (fun l =>
    !(s.cell c).computes l.1 && l.2.causes.isEmpty && s.sumsMissing c l.1 && s.pastLimit c l.1)).map (·.1)

/-- Why an overdue step is void (R68, R206): CHECK for threads that have not ended; for a missing part LINK where its sender's seat has
departed or its path is lost, else CHECK. -/
def State.overdueCauses (s : State) (c t : Nat) : List Nat :=
  let lost := s.sumsMissing c t && s.partPathLost c t
  (if lost then [vLINK] else []) ++ (if !(s.cell c).workOver t || !lost then [vCHECK] else [])

/-- A home's part of a step in which the cell computes nothing is cut at the limit: its report carries the cause. -/
def State.watchdogHomes (s : State) (c : Nat) : State :=
  (s.overdueHomes c).foldl (fun s t =>
    (s.onCell c (fun k => k.onLrn t (fun l => { l with causes := s.overdueCauses c t }))).watchdogRecords c t) s

/-- The step is stopped: operations in engines run to no result, and tiles that will not be sent are named (R68, R275). -/
def State.stopStep (s : State) (c : Nat) : State :=
  let s1 := (s.cell c).cores.foldl (fun s p => p.2.unsent.foldl (fun s w => s.voidWrite c vCHECK w) s) s
  s1.onCell c (fun k => { k with
    cores := k.cores.mapV Core.reset (fun x => { x with engines := [], redoDue := [] })
    step := { k.step with stopped := true } })

/-- The cell's step is stopped for the tenants that are overdue in it. -/
def State.watchdogStep (s : State) (c : Nat) : State :=
  let l := s.overdue c
  if !(s.cell c).step.running || (s.cell c).step.stopped || l.isEmpty then s
  else
    (l.foldl (fun s t =>
      ((s.overdueCauses c t).foldl (fun s why => s.cause c why t none) s).watchdogRecords c t) s).stopStep c

def execStepWatchdog (t : Nat) (cell : Fin 8) (s : State) : Res :=
  .next (s.run t (fun s => if s.cellUp cell then (s.watchdogHomes cell).watchdogStep cell else s))

end Sys2Proof.Machine
end

