-- ==== Sys2Proof/Machine/Turns.lean ====
section
/-!
DEFINITION. Turns, pushes and fetched weights (11_turns_and_shuffles): VERSION and its hold, the shuffle of a home's layers and its
completion, warming, the version pointer, lagging homes, FETCH and the weight manifest it checks.
-/

namespace Sys2Proof.Machine

/-! ## Homes and shuffles (R259) -/

/-- Version `n` is newer than `m` (R251). -/
def newer (n m : BitVec 16) : Bool :=
  let d := (n - m).toNat
  1 ≤ d && d ≤ 32767

/-- Key of `UDie.lastSent`: a layer and the seat and cell of a serving copy. -/
def sentKey (layer seat cell : Nat) : Nat := (layer * 1024 + seat) * 8 + cell

/-- Seat that a PLACE record means (Table 2-14). -/
def State.seatOf (s : State) (p : PlaceRec) : Nat := if p.seat = 0xFFFF then s.mySeat else p.seat

/-- Layers homed at cell `c` by a figure. -/
def State.homesIn (s : State) (f : Figure) (c : Nat) : List Nat :=
  ((f.places.filter (fun p => p.home && s.placedHere p && p.cell = c)).map (·.layer)).dedup

/-- The tensors of a home layer's working weights: those that the tenant's current image names, else those that a FETCH has filled. -/
def Cell.workingTensors (k : Cell) (tenant layer : Nat) : List Tensor :=
  match k.partsOf tenant layer with
  | [] => (k.ud.working.filter (fun x => x.1 = tenant && x.2.1 = layer)).filterMap (fun x => k.ownTensor tenant x.2.2.toNat)
  | l => l.map (·.tensor)

/-- One tile of a home layer goes out as a mover read gives it (R142, R154, R157), tagged with the version; false where it did not leave. -/
def State.shuffleTile (s : State) (c : Nat) (ver : BitVec 16) (dst : TileTo) : State × Bool :=
  match s.tierRead c dst.tenant dst.ident dst.seq false [] with
  | none => (s, false)
  | some (s1, z) => s1.sendTile c 12 dst { z with tile := { z.tile with tag := { z.tile.tag with ver := ver } } } false

/-- The weight tensors of a layer go to one serving copy, every tile tagged with the home's version (R259); a layer of which a tile did
not leave has not been sent. -/
def State.sendLayer (s : State) (c tenant layer : Nat) (p : PlaceRec) : State :=
  let k := s.cell c
  let ver := (k.ver tenant).homeVer
  let seat := s.seatOf p
  let l := k.workingTensors tenant layer
  if l.isEmpty || (seat = s.mySeat && p.cell = c) || k.ud.lastSent.get none (sentKey layer seat p.cell) = some ver then s
  else if l.any (fun x => x.fmt ≠ p.format) then
    s.err c { cls := clsCOMMAND, sev := 1, unit := 3, tenant := tenant, obj := layer, detail := p.format }
  else
    let dst (x : Tensor) (i : Nat) : TileTo :=
      { seat := seat, cell := p.cell, tenant := tenant, ident := x.ident, seq := i, lane := 4, kind := 0, aux := 0, group := 0xFFFF,
        ctr := 0xFFFF }
    let (s1, ok) := (l.flatMap (fun x => (List.range x.count).map (dst x))).foldl (fun (acc : State × Bool) d =>
      let (s1, ok) := acc.1.shuffleTile c ver d
      (s1, acc.2 && ok)) (s, true)
    if ok then s1.onCell c (fun k => { k with ud := { k.ud with
      lastSent := k.ud.lastSent.set none (sentKey layer seat p.cell) (some ver) } })
    else s1

/-- A shuffle stops at a tile boundary (R265): its tiles that have not left their cell stay there, and what the copies they were for last
received is unknown. -/
def State.stopShuffle (s : State) : State :=
  let mine (q : Nat × Frame) : Bool := q.1 = 12 && q.2.ftype = 1 && q.2.lane = 4
  allCells.foldl (fun (s : State) c => s.onCell c (fun k =>
    let cut := (k.korif.ports.flatMap (fun p => p.2.queue.filter mine)).map (fun q => 8 * q.2.dseat + q.2.dcell)
    if cut.isEmpty then k
    else
      { k with
        korif := { k.korif with ports := k.korif.ports.mapV Port.reset (fun p => { p with queue := p.queue.filter (fun q => !mine q) }) }
        ud := { k.ud with lastSent := k.ud.lastSent.filter (fun x => !cut.contains (x.1 % 8192)) } })) s

/-- A home cell sends its layers of a tenant to the serving copies that a list of PLACE records names. -/
def State.sendHomes (s : State) (c tenant : Nat) (layers : List Nat) (copies : List PlaceRec) : State :=
  layers.foldl (fun (s : State) l => (copies.filter (fun p => p.layer = l)).foldl (fun (s : State) p => s.sendLayer c tenant l p) s) s

/-- The shuffle at a swap into figure `g` (R259), of every tenant that has working weights of a home layer on the cell: by its image, the
old plane's, or by a FETCH. -/
def State.shuffle (s : State) (c : Nat) (g : Figure) : State :=
  let k := s.cell c
  let tenants := ((k.runs.filter (fun r => r.2.image.isSome)).map (·.1) ++ k.ud.working.map (·.1)).dedup
  tenants.foldl (fun (s : State) t => s.sendHomes c t (s.homesIn g c) (g.places.filter (·.serve))) s

/-! ## VERSION (R263, R264) -/

def vsDONE : Nat := 0
def vsDENIED : Nat := 1
def vsSTALE : Nat := 2
def vsBUSY : Nat := 3
def vsRESERVED : Nat := 4
def vsNOTWIN : Nat := 5

/-- A field of a VERSION entry lies outside Table 11-4. -/
def versionReserved (e : Entry) : Bool :=
  63 < e.fld 1 1 || !(e.fld 3 1 = 1 || e.fld 3 1 = 2) || e.fld 6 2 ≠ 0 || (e.fld 3 1 = 1 && e.fld 8 8 ≠ 0) ||
  !e.zeroBytes 0x10 64

/-- Layers that a serving group serves. -/
def State.servedBy (s : State) (c : Nat) : List PlaceRec :=
  match s.replicaOf c with
  | none => []
  | some r => (s.serves c).filter (fun p => p.replica = r)

/-- Home cells, on this module, of the layers the group serves. -/
def State.homesOf (s : State) (c : Nat) : List Nat :=
  match s.fig c with
  | none => []
  | some f =>
    let ls := (s.servedBy c).map (·.layer)
    ((f.places.filter (fun p => p.home && s.placedHere p && ls.contains p.layer)).map (·.cell)).dedup

/-- Serving weight tensors of a tenant at a cell: those its current image names for a layer with a SERVE record there. -/
def State.servingTensors (s : State) (c t : Nat) : List (Nat × Tensor) :=
  let k := s.cell c
  let ls := ((s.servedBy c).filter (fun p => p.cell = c)).map (·.layer)
  ((((k.run t).image.map (·.layers)).getD []).filter (fun r => ls.contains r.layer)).filterMap (fun r =>
    (k.ownTensor t r.tensor).map (fun x => (r.layer, x)))

/-- Every serving tensor of the group is a version pair (R252). -/
def State.twinsOk (s : State) (c t : Nat) : Bool :=
  (s.groupOf c).all (fun m => (s.servingTensors m t).all (fun x => (s.cell m).hasTwin t x.2.ident))

/-- The homes of the group's layers send version `n` to the group's serving copies (R259, R263). -/
def State.pushLayers (s : State) (c t : Nat) : State :=
  let copies := s.servedBy c
  let f := s.fig c
  (s.homesOf c).foldl (fun (s : State) h => match f with
    | none => s
    | some g => s.sendHomes h t (s.homesIn g h) copies) s

/-- A VERSION entry at the cell (R263, R264). -/
def State.doVersion (s : State) (c : Nat) (src : Source) (e : Entry) : State :=
  let t := e.fld 1 1
  let n := BitVec.ofNat 16 (e.fld 4 2)
  let k := s.cell c
  let v := k.ver t
  let vers := (s.homesOf c).map (fun h => ((s.cell h).ver t).homeVer)
  let stop (x : Nat) : State := s.complete c src e { status := x }
  if 7 < e.fld 2 1 || e.fld 2 1 ≠ c then stop 0xFE
  else if versionReserved e then stop vsRESERVED
  else if !topIdent src.who || !s.isLead c then stop vsDENIED
  else if !((k.tenantRec t).map (·.gen)).getD false then stop vsRESERVED
  else if vers.any (fun m => newer m n) then stop vsSTALE
  else if vers.any (· ≠ n) then stop vsRESERVED
  else if v.retLive || v.push.isSome then stop vsBUSY
  else if e.fld 3 1 = 1 && !s.twinsOk c t then stop vsNOTWIN
  else
    let p : Push :=
      { src := src, e := e, single := e.fld 3 1 = 2, ver := n, start := e.fld 8 8, hold := false }
    let s1 := s.onCells (s.groupOf c) (fun x => x.onVer t (fun y => { y with push := some p, incoming := some n }))
    if p.single then s1 else s1.pushLayers c t

def execVersion (t : Nat) (cell : Fin 8) (src : Source) (e : Entry) (s : State) : Res :=
  .next (s.run t (fun s => s.entryAt cell 0x23 src e (fun s => s.doVersion cell src e)))

/-- A push that its homes have overtaken ends with STALE before anything is sent (R263). -/
def State.stalePush (s : State) (c t : Nat) (p : Push) : State :=
  (s.onCells (s.groupOf c) (fun x => x.onVer t (fun y => { y with push := none, incoming := none }))).complete c p.src p.e
    { status := vsSTALE }

/-- The hold of a SINGLE push begins (R264): at or after Ts, no request pinned, no step of the group running. -/
def execPushHoldBegin (t : Nat) (cell : Fin 8) (tenant : Fin 64) (s : State) : Res :=
  .next (s.run t (fun s =>
    let k := s.cell cell
    let g := s.groupOf cell
    match (k.ver tenant).push with
    | none => s
    | some p =>
      if s.isLead cell && p.single && !p.hold && p.start ≤ s.time cell && (k.ver tenant).curPins = 0 &&
          g.all (fun m => !(s.cell m).step.running) then
        if (s.homesOf cell).any (fun h => newer ((s.cell h).ver tenant).homeVer p.ver) then s.stalePush cell tenant p
        else
        let s1 := s.onCells g (fun x => x.onVer tenant (fun y => { y with push := some { p with hold := true }, warmed := false }))
        s1.pushLayers cell tenant
      else s))

/-! ## Copies of a version (R254, R259, R265) -/

/-- Version that every tile of a tensor carries, where each is whole. -/
def Cell.tensorVer (k : Cell) (t : Tensor) : Option (BitVec 16) :=
  let l := (List.range t.count).map (fun i => ((k.ent (t.base + i)).current).map (fun x => (x.tag.ver, x.tag.poison)))
  match l with
  | some (v, _) :: _ => if t.ready && l.all (fun x => x = some (v, false)) then some v else none
  | _ => none

/-- Versions of which a serving tensor holds a complete copy that the pointer may come to name: the member of a pair that holds no
live version, then the one that holds the current; both while the pointer names none. -/
def Cell.copyVers (k : Cell) (t : Nat) (x : Tensor) : List (BitVec 16) :=
  let v := k.ver t
  let member (ret : Bool) : List (BitVec 16) :=
    ((k.ownTensor t (k.pairMember t x.ident ret).toNat).bind k.tensorVer).toList
  if !k.hasTwin t x.ident then member false
  else if v.retLive then member false
  else member true ++ member false

/-- Shared weight tensors that the cell serves a tenant from, with the cells that hold them (R161). -/
def State.servingShared (s : State) (c t : Nat) : List (Nat × Tensor) :=
  let ls := ((s.servedBy c).filter (fun p => p.cell = c)).map (·.layer)
  (((((s.cell c).run t).image.map (·.layers)).getD []).filter (fun r => ls.contains r.layer)).filterMap (fun r =>
    (s.locate c t (BitVec.ofNat 24 r.tensor)).bind (fun x => if x.2.1.tenant = 0xFF then some (x.1, x.2.1) else none))

/-- Versions of which the cell holds a complete copy of everything it serves: of the tenant's own weights, or, where it has none, of the
shared ones. -/
def State.completeVers (s : State) (c t : Nat) : List (BitVec 16) :=
  let k := s.cell c
  match s.servingTensors c t with
  | [] => match s.servingShared c t with
    | [] => []
    | x :: r => (((s.cell x.1).tensorVer x.2).toList).filter (fun n => r.all (fun y => (s.cell y.1).tensorVer y.2 = some n))
  | x :: r => ((k.copyVers t x.2).dedup).filter (fun n => r.all (fun y => (k.copyVers t y.2).contains n))

/-- Cells of the group that hold serving copies of the tenant's weights: of its own, or, where no cell has such, of shared ones. -/
def State.holders (s : State) (c t : Nat) : List Nat :=
  let own := (s.groupOf c).filter (fun m => !(s.servingTensors m t).isEmpty)
  if own.isEmpty then (s.groupOf c).filter (fun m => !(s.servingShared m t).isEmpty) else own

/-- Layers with a poisoned tile in a copy that the pointer does not name. -/
def State.poisonedCopies (s : State) (c t : Nat) : List Nat :=
  let k := s.cell c
  (((s.servingTensors c t).filter (fun x =>
    match k.ownTensor t (k.pairMember t x.2.ident true).toNat with
    | none => false
    | some y => (List.range y.count).any (fun i => (((k.ent (y.base + i)).current).map (·.tag.poison)).getD false))).map (·.1)).dedup

/-- The version a cell reports: the one expected, else one that the pointer may move to, else the current one. -/
def reportedVer (v : Versions) (l : List (BitVec 16)) : Option (BitVec 16) :=
  match v.incoming with
  | some n => if l.contains n then some n else none
  | none => (l.find? (fun n => !v.valid || newer n v.current)).orElse (fun _ => l.find? (· = v.current))

/-- The copies of a version have all been written and verified at a receiving cell, which reports them (R254); a poisoned tile is
reported by layer (R265). -/
def execShuffleComplete (t : Nat) (cell : Fin 8) (tenant : Fin 64) (s : State) : Res :=
  .next (s.run t (fun s =>
    if !s.cellUp cell then s
    else match s.poisonedCopies cell tenant with
      | [] =>
        match reportedVer ((s.cell cell).ver tenant) (s.completeVers cell tenant) with
        | none => s
        | some n => s.onCell cell (fun k => k.onVer tenant (fun v => { v with copied := some n }))
      | l => l.foldl (fun (s : State) x =>
          s.err cell { cls := clsPOISON, sev := 2, unit := 3, tenant := tenant, obj := x, reason := vPOISON }) s))

/-! ## Warming (R261) -/

/-- Weight tensors, own and shared, that the current image's layer records name, each with the cell that holds its tiles. -/
def State.weightTensors (s : State) (c t : Nat) : List (Nat × Tensor) :=
  let k := s.cell c
  let ids := (((((k.run t).image.map (·.layers)).getD []).map (fun r => BitVec.ofNat 24 r.tensor))).dedup
  (ids ++ (ids.filter (k.hasTwin t)).map twinOf).filterMap (fun i =>
    (s.locate c t i).bind (fun x => if s.reaches c x.1 then some (x.1, x.2.1) else none))

/-- One tile is read into the fast tier: H and HX by a fast copy, S by its rise; an eviction makes room where there is none (R154, R157,
R158). -/
def Cell.warmTile (k : Cell) (t : Tensor) (a : Nat) : Cell :=
  let e := k.ent a
  if e.current.isNone then k
  else if e.st = .S && !t.preferSlow then
    match k.makeRoom t.tenant [a] with
    | none => k.touched a e
    | some k1 => k1.touched a { e with st := .F, fast := e.home.spoil e.homeBad, home := Tile.zero, homeBad := false }
  else
    let k1 := k.install t [a] a
    k1.touched a (k1.ent a)

/-- A tile in state E, or poisoned, is reported (R261). -/
def State.warmReport (s : State) (c h : Nat) (t : Tensor) (a : Nat) : State :=
  let e := (s.cell h).ent a
  if e.st = .E then
    s.err c { cls := clsINFO, sev := 0, unit := 3, tenant := t.tenant, obj := t.ident.toNat, detail := a - t.base }
  else if ((e.current).map (·.tag.poison)).getD false then
    s.err c { cls := clsPOISON, sev := 2, unit := 3, tenant := t.tenant, obj := t.ident.toNat, detail := a - t.base }
  else s

/-- Warming of the current image (R261). -/
def execWarming (t : Nat) (cell : Fin 8) (tenant : Fin 64) (s : State) : Res :=
  .next (s.run t (fun s =>
    let k := s.cell cell
    let v := k.ver tenant
    if !s.cellUp cell || (k.run tenant).image.isNone || v.warmed || v.warming then s
    else
      let s1 := s.onCell cell (fun k => k.onVer tenant (fun v => { v with warming := true }))
      (s.weightTensors cell tenant).foldl (fun (s : State) x => (List.range x.2.count).foldl (fun (s : State) i =>
        (s.onCell x.1 (fun k => k.warmTile x.2 (x.2.base + i))).warmReport cell x.1 x.2 (x.2.base + i)) s) s1))

/-- Warming ends: the image's first step may begin, or the pointer may switch (R254, R261). -/
def execWarmingComplete (t : Nat) (cell : Fin 8) (tenant : Fin 64) (s : State) : Res :=
  .next (s.run t (fun s =>
    if s.cellUp cell && ((s.cell cell).ver tenant).warming then
      s.onCell cell (fun k => k.onVer tenant (fun v => { v with warming := false, warmed := true }))
    else s))

/-! ## The version pointer (R252 to R254, R257) -/

/-- The member that a cell's copy of version `n` lies in becomes the current one. -/
def State.twinHolds (s : State) (m t : Nat) (n : BitVec 16) : Bool :=
  let k := s.cell m
  (s.servingTensors m t).any (fun x =>
    k.hasTwin t x.2.ident && ((k.ownTensor t (twinOf x.2.ident).toNat).bind k.tensorVer) = some n)

/-- The pointer moves to `n` on one cell of the group; the former version is retained while it has pins (R254). -/
def Versions.switched (v : Versions) (n : BitVec 16) (twin : Bool) (now : Nat) : Versions :=
  let keep := v.valid && v.curPins ≠ 0
  { v with
    retained := if keep then v.current else v.retained
    retPins := if keep then v.curPins else 0
    retLive := keep
    current := n
    valid := true
    curPins := 0
    twinCur := twin
    incoming := none
    copied := none
    lost := []
    waitPtr := false
    push := none
    switchAt := some now }

/-- Version that the lead may move the pointer to at a boundary of the group (R254): reported by every cell of the group that serves
weights of the tenant; the current one where no cell of the group serves any, and the queues wait for the pointer (log 30). A cell of the
group that has not swapped into its figure has not reported (R266). -/
def State.pointerTo (s : State) (c t : Nat) : Option (BitVec 16) :=
  let g := s.groupOf c
  let v := (s.cell c).ver t
  let holders := s.holders c t
  let n := match holders with
    | [] => some v.current
    | m :: _ => ((s.cell m).ver t).copied
  match n with
  | none => none
  | some n =>
    if s.isLead c && g.all (fun m => s.replicaOf m = s.replicaOf c) && !v.retLive && (!v.valid || newer n v.current || (v.waitPtr && n = v.current)) &&
        holders.all (fun m => ((s.cell m).ver t).copied = some n) &&
        g.all (fun m => !(s.cell m).step.running && ((s.cell m).ver t).warmed) then some n
    else none

/-- The pointer switches on the whole group; a push ends DONE. -/
def State.switchPointer (s : State) (c t : Nat) (n : BitVec 16) : State :=
  let g := s.groupOf c
  let v := (s.cell c).ver t
  let same := v.valid && n = v.current
  let now := s.time c
  let s1 := g.foldl (fun (s : State) m =>
    let twin := s.twinHolds m t n
    s.onCell m (fun k => k.onVer t (fun v =>
      if same then { v with waitPtr := false, copied := none, incoming := none, lost := v.lost.filter (· ≠ n), switchAt := some now }
      else v.switched n twin now))) s
  let s2 := s1.onCell c (fun k => { k with gen := { k.gen with
    turnPlan := if v.waitPtr then BitVec.allOnes 64 else k.gen.turnPlan
    drainClosed := false } })
  match v.push with
  | none => s2
  | some p => s2.complete c p.src p.e { status := vsDONE }

def execPointerSwitch (t : Nat) (cell : Fin 8) (tenant : Fin 64) (s : State) : Res :=
  .next (s.run t (fun s => match s.pointerTo cell tenant with
    | none => s
    | some n => s.switchPointer cell tenant n))

/-! ## Lagging homes (R260) -/

/-- Tile addresses of a tenant's lagging homes. -/
def Cell.laggards (k : Cell) (t : Nat) : List Nat :=
  let own := (k.tiers.dir.filter (fun x => x.tenant = t))
  (k.tiers.tiles.filter (fun e => e.2.lagging && own.any (fun x => x.owns e.1))).map (·.1)

/-- Up to `n` lagging homes of a tenant are written from their copies, once warming has completed (R260). -/
def execLaggingWriteback (t : Nat) (cell : Fin 8) (tenant : Fin 64) (n : Nat) (s : State) : Res :=
  .next (s.run t (fun s =>
    if s.cellUp cell && ((s.cell cell).ver tenant).warmed then
      s.onCell cell (fun k => ((k.laggards tenant).take n).foldl (fun (k : Cell) a => k.setEnt a (k.ent a).caughtUp) k)
    else s))

/-! ## FETCH and its manifest (R244, R262, R388) -/

def ftDONE : Nat := 0
def ftDENIED : Nat := 1
def ftPLACE : Nat := 2
def ftTENSOR : Nat := 3
def ftDIGEST : Nat := 4
def ftLINK : Nat := 5
def ftRESERVED : Nat := 6

/-- What a manifest's verification finds. -/
inductive ManifestOut where
  | good (m : Manifest)
  | bad
  | noKey
  deriving DecidableEq, Repr

/-- The signature block of a manifest verifies under a public key (Table 16 of 02_figures, R244). -/
def manifestSigned (v off : Nat) (digest : BitVec 256) (alg : Nat) (pub : List Byte) : Bool :=
  fld v off 1 = alg && fld v (off + 0x2C) 2 = sigLen alg && fld v (off + 0xC) 32 = digest.toNat &&
  Config.mldsaVerify alg pub digest (bytesOf (sigLen alg) (fld v (off + 0x30) (sigLen alg)))

/-- Two layers of a manifest name the same tensor (R60): DEDUCED (log 109), an entry names its tensor by the shard's length and digest. -/
def tiedEntries (l : List (Nat × Nat × Nat × BitVec 256)) : Bool :=
  l.any (fun x => l.any (fun y => x.1 ≠ y.1 && x.2.2 = y.2.2))

/-- A manifest of at most `n` bytes held in `v` is verified (R60, R244, R262): an owner key that may sign weights, with the digest
that an active or idle plane names, or the identity key of this module or of a seat in the identity cache (R389). -/
def State.readManifest (s : State) (c n v : Nat) : ManifestOut :=
  let cnt := fld v 8 4
  let off := 64 + 48 * cnt
  if fld v 0 4 ≠ 0x4E535456 || n < off + 48 then .bad
  else
    let digest := sha3 (bytesOf off (bits v 0 (8 * off)))
    let entries := (List.range cnt).map (fun i =>
      let o := 64 + 48 * i
      (fld v o 2, fld v (o + 2) 1, fld v (o + 8) 8, BitVec.ofNat 256 (fld v (o + 0x10) 32)))
    let m : Manifest := { digest := digest, ver := BitVec.ofNat 16 (fld v 0x10 2), entries := entries }
    let kid := fld v (off + 4) 8
    let k := s.cell c
    let planes := [k.fig.active, k.fig.idle].filterMap (fun f => f.map (·.manifest))
    if n < off + 48 + fld v (off + 0x2C) 2 || tiedEntries entries then .bad
    else match findKey s.flash.keys 2 kid with
      | some w => if planes.contains digest && manifestSigned v off digest w.alg w.pub then .good m else .bad
      | none =>
        if kid = s.moduleId then
          if manifestSigned v off digest 1 (Config.identityKey s.identityCell) then .good m else .bad
        else match s.mgmt.idCache.find? (fun x => x.1.toNat = kid) with
          | some x => if manifestSigned v off digest 1 x.2 then .good m else .bad
          | none => .noKey

/-- A verified manifest enters the store of 64; a full store loses the entry used least recently (R388). -/
def State.storeManifest (s : State) (m : Manifest) : State :=
  let l := s.mgmt.store.filter (fun x => x.digest ≠ m.digest)
  let l := if l.length < 64 then l else l.drop (l.length - 63)
  { s with mgmt := { s.mgmt with store := l ++ [m] } }

/-- A field of a FETCH entry lies outside Table 11-3. -/
def fetchReserved (e : Entry) : Bool :=
  63 < e.fld 1 1 || !(e.fld 7 1 = 1 || e.fld 7 1 = 2) || e.fld 0x13 1 ≠ 0 || !e.zeroBytes 0x18 64 ||
  (e.fld 7 1 = 1 && e.fld 8 8 % 4096 ≠ 0) ||
  (e.fld 7 1 = 2 && (let r := readRef (BitVec.ofNat 64 (e.fld 8 8)); !refOk (BitVec.ofNat 64 (e.fld 8 8)) false || r.space ≠ 2 || r.seq ≠ 0))

/-- A layer has a HOME, SERVE or REFERENCE record at the cell in the active or idle plane. -/
def State.layerPlaced (s : State) (c layer : Nat) : Bool :=
  let k := s.cell c
  [k.fig.active, k.fig.idle].any (fun f => ((f.map (·.places)).getD []).any (fun p =>
    p.layer = layer && s.placedHere p && p.cell = c))

/-- The destination of a FETCH, in state LOADING. -/
def Cell.fetchDest (k : Cell) (e : Entry) : Option Tensor :=
  (k.lookup (e.fld 1 1) (BitVec.ofNat 24 (e.fld 4 3))).bind (fun r =>
    if r.2 || r.1.ready || r.1.freePend || r.1.holder.isSome then none else some r.1)

/-- A FETCH entry at the cell (R262): its own checks, after which the transfer runs. -/
def State.doFetch (s : State) (c : Nat) (src : Source) (e : Entry) : State :=
  let k := s.cell c
  let man := k.ownTensor (e.fld 1 1) (e.fld 0x10 3)
  let stop (x : Nat) : State := s.complete c src e { status := x }
  if fetchReserved e then stop ftRESERVED
  else if !s.mayFor c (e.fld 1 1) src.who then stop ftDENIED
  else if !s.layerPlaced c (e.fld 2 2) then stop ftPLACE
  else if (k.fetchDest e).isNone || !(man.any (fun t => t.ready && t.fmt = 0x11)) then stop ftTENSOR
  else s.onCell c (fun k => { k with fetches := k.fetches ++ [{ src := src, e := e }] })

def execFetch (t : Nat) (cell : Fin 8) (src : Source) (e : Entry) (s : State) : Res :=
  .next (s.run t (fun s => s.entryAt cell 0x24 src e (fun s => s.doFetch cell src e)))

/-- Tile `i` of a tensor takes its payload from a shard, in every place that the tile map gives it: a fast copy, a home. Its POISON clears
(R167), and it takes the version, where one is given. -/
def Cell.shardTile (k : Cell) (t : Tensor) (shard : List Byte) (ver : Option (BitVec 16)) (i : Nat) : Cell :=
  let a := t.base + i
  let p : Payload := BitVec.ofNat 32768 (ofBytes ((shard.drop (4096 * i)).take 4096))
  let fix (x : Tile) : Tile :=
    ({ x with payload := p, tag := { x.tag with poison := false, ver := ver.getD x.tag.ver } } : Tile).recheck
  let e := k.ent a
  k.setEnt a { e with fast := if e.st.inFast then fix e.fast else e.fast, home := if e.st = .F then e.home else fix e.home, homeBad := false }

/-- The bytes of a shard fill a tensor from tile 0, each tile with the manifest's version: where ALLOC put it, so that no room is asked for
and every tile stays clean (R150, R153, R262). -/
def Cell.fillTensor (k : Cell) (t : Tensor) (shard : List Byte) (ver : BitVec 16) : Cell :=
  (List.range t.count).foldl (fun (k : Cell) i => k.shardTile t shard (some ver) i) k

/-- A LOADING tensor that a fetch found wrong is freed, as under R151. -/
def State.freeLoading (s : State) (c : Nat) (t : Tensor) : State :=
  let s1 := s.onCell c (fun k => k.dropTensor t.tenant t.ident)
  if t.tenant = 0xFF then { s1 with shared := s1.shared.filter (fun x => !(x.ident = t.ident && x.digest = t.digest)) } else s1

/-- A tensor that a FETCH of a layer fills takes the layer's working weights: not a master or a moment, which are one-home, nor a shared or
REFERENCE copy (Table 7-6, log 109). Where the tenant's image names the layer, its records tell. -/
def Cell.isWorking (k : Cell) (t : Tensor) (layer : Nat) : Bool :=
  let recs := (((k.run t.tenant).image.map (·.layers)).getD []).filter (fun r => r.layer = layer)
  t.tenant ≠ 0xFF && t.weight && (recs.isEmpty || recs.any (fun r => BitVec.ofNat 24 r.tensor = t.ident))

/-- A fetched shard is accepted: the tensor is READY, and where it holds the working weights of a layer homed here the home's version is the
manifest's (R251, R262). -/
def State.takeShard (s : State) (c : Nat) (f : FetchRun) (t : Tensor) (m : Manifest) (shard : List Byte) : State :=
  let layer := f.e.fld 2 2
  let s1 := (s.storeManifest m).onCell c (fun k => (k.fillTensor t shard m.ver).makeReady t)
  let s2 := if t.tenant = 0xFF then s1.onShared t.ident t.digest (fun x => { x with origin := some f.e }) else s1
  if ((s2.cell c).homed s.mySeat c).contains layer && (s2.cell c).isWorking t layer then s2.onCell c (fun k =>
    let k1 := k.newWeights t.tenant [layer] m.ver
    let x := (t.tenant, layer, t.ident)
    { k1 with ud := { k1.ud with working := k1.ud.working.filter (· ≠ x) ++ [x] } })
  else s2

/-- The first fetch of the cell ends with a status; the supervisor's own answers nobody (R325). -/
def State.endFetch (s : State) (c : Nat) (f : FetchRun) (status : Nat) : State :=
  let s1 := s.onCell c (fun k => { k with fetches := k.fetches.tail })
  if f.src.who = 0x40 && f.src.path = .mail then s1 else s1.complete c f.src f.e { status := status }

/-- The last byte of the first FETCH has come, or its transfer failed (R262): manifest, length and digest are checked. -/
def State.fetchDone (s : State) (c : Nat) (linkOk : Bool) (shard : List Byte) (f : FetchRun) : State :=
  let k := s.cell c
  let layer := f.e.fld 2 2
  match k.fetchDest f.e, k.ownTensor (f.e.fld 1 1) (f.e.fld 0x10 3) with
  | some t, some mt =>
    if !linkOk || (f.e.fld 7 1 = 1 && !s.hostUp) then s.endFetch c f ftLINK
    else match s.readManifest c (4096 * mt.count) (k.tensorNat mt 0 (4096 * mt.count)) with
      | .noKey => s.endFetch c f ftLINK
      | .bad => (s.freeLoading c t).endFetch c f ftDIGEST
      | .good m =>
        match m.entries[f.e.fld 0x14 4]? with
        | none => (s.freeLoading c t).endFetch c f ftDIGEST
        | some (l, _, len, d) =>
          if l = layer && len = 4096 * t.count && shard.length = len && d = sha3 shard then
            (s.takeShard c f t m shard).endFetch c f ftDONE
          else ((s.storeManifest m).freeLoading c t).endFetch c f ftDIGEST
  | _, _ => s.endFetch c f ftTENSOR

/-! ## REFETCH (R325) -/

def rxDONE : Nat := 0
def rxDENIED : Nat := 1
def rxDIGEST : Nat := 2
def rxLINK : Nat := 3
def rxCLEAN : Nat := 4
def rxRESERVED : Nat := 5

/-- A field of a REFETCH entry lies outside Table 13-5. -/
def refetchReserved (e : Entry) : Bool :=
  63 < e.fld 2 1 || !(e.fld 3 1 = 1 || e.fld 3 1 = 2) || !bit (e.fld 4 3) 21 || e.fld 7 1 ≠ 0 || e.fld 0x13 1 ≠ 0 || !e.zeroBytes 0x18 64 ||
  (e.fld 3 1 = 1 && e.fld 8 8 % 4096 ≠ 0) ||
  (e.fld 3 1 = 2 && (let r := readRef (BitVec.ofNat 64 (e.fld 8 8)); !refOk (BitVec.ofNat 64 (e.fld 8 8)) false || r.space ≠ 2 || r.seq ≠ 0))

/-- The shared tensor of a REFETCH, held at this cell. -/
def Cell.heldShared (k : Cell) (ident : Nat) : Option Tensor :=
  k.tiers.dir.find? (fun t => t.tenant = 0xFF && t.ident = BitVec.ofNat 24 ident && t.holder.isNone && t.ready && !t.freePend)

/-- Its tiles that are poisoned. -/
def Cell.poisonedOf (k : Cell) (t : Tensor) : List Nat :=
  (List.range t.count).filter (fun i => (((k.ent (t.base + i)).current).map (·.tag.poison)).getD false)

/-- A REFETCH entry at the cell: its own checks, after which the transfer runs. -/
def State.doRefetch (s : State) (c : Nat) (src : Source) (e : Entry) : State :=
  let k := s.cell c
  let stop (x : Nat) : State := s.complete c src e { status := x }
  if e.fld 1 1 ≠ c then stop 0xFE
  else if refetchReserved e then stop rxRESERVED
  else if !topIdent src.who then stop rxDENIED
  else if !(k.ownTensor (e.fld 2 1) (e.fld 0x10 3)).any (fun t => t.fmt = 0x11) then stop rxRESERVED
  else match k.heldShared (e.fld 4 3) with
    | none => stop rxCLEAN
    | some t =>
      if (k.poisonedOf t).isEmpty then stop rxCLEAN
      else s.onCell c (fun k => { k with fetches := k.fetches ++ [{ src := src, e := e }] })

def execRefetch (t : Nat) (cell : Fin 8) (src : Source) (e : Entry) (s : State) : Res :=
  .next (s.run t (fun s => s.entryAt cell 0x25 src e (fun s => s.doRefetch cell src e)))

/-- Bytes of the whole shard: unpoisoned tiles from the holder, poisoned ones from the source. -/
def Cell.mixedBytes (k : Cell) (t : Tensor) (bad : List Nat) (shard : List Byte) : List Byte :=
  (List.range t.count).flatMap (fun i =>
    if bad.contains i then
      let l := (shard.drop (4096 * i)).take 4096
      l ++ List.replicate (4096 - l.length) 0
    else bytesOf 4096 (k.tilePayload t i).toNat)



/-- The last byte of a re-fetch has come, or its transfer failed (R325). -/
def State.refetchDone (s : State) (c : Nat) (linkOk : Bool) (shard : List Byte) (f : FetchRun) : State :=
  let k := s.cell c
  match k.heldShared (f.e.fld 4 3), k.ownTensor (f.e.fld 2 1) (f.e.fld 0x10 3) with
  | some t, some mt =>
    let bad := k.poisonedOf t
    if !linkOk || (f.e.fld 3 1 = 1 && !s.hostUp) then s.endFetch c f rxLINK
    else if bad.isEmpty then s.endFetch c f rxCLEAN
    else match s.readManifest c (4096 * mt.count) (k.tensorNat mt 0 (4096 * mt.count)) with
      | .noKey => s.endFetch c f rxLINK
      | .bad => s.endFetch c f rxDIGEST
      | .good m =>
        let s1 := s.storeManifest m
        let ok := match m.entries[f.e.fld 0x14 4]? with
          | none => false
          | some (_, _, len, d) => len = 4096 * t.count && d = sha3 (k.mixedBytes t bad shard)
        if ok then (s1.onCell c (fun k => bad.foldl (fun (k : Cell) i => k.shardTile t shard none i) k)).endFetch c f rxDONE
        else s1.endFetch c f rxDIGEST
  | _, _ => s.endFetch c f rxCLEAN

/-- The first FETCH or REFETCH of the cell has its bytes, or its transfer failed. -/
def execFetchComplete (t : Nat) (cell : Fin 8) (linkOk : Bool) (shard : List Byte) (s : State) : Res :=
  .next (s.run t (fun s => match (s.cell cell).fetches with
    | [] => s
    | f :: _ =>
      if !s.cellUp cell then s
      else if f.e.fld 0 1 = 0x25 then s.refetchDone cell linkOk shard f
      else s.fetchDone cell linkOk shard f))

end Sys2Proof.Machine
end

