-- ==== Sys2Proof/Machine/Figures.lean ====
section
/-!
DEFINITION. Figure commands and the plane swap (02_figures R40 to R52): slots, staging, ARM and what it closes, the flip, tenancy across it,
the binding registers; and the loss of the host anchor (R20).
-/

namespace Sys2Proof.Machine

/-! ## Discarded register writes (R401) -/

/-- A discarded register write enters a COMMAND record with its BAR0 offset, at most one a second for each register. -/
def State.discard (s : State) (off : Nat) : State :=
  let last := (s.cell 0).err.lastCmd.get 0 off
  if last ≠ 0 && s.now < last - 1 + 1000000000 then s
  else (s.onCell 0 (fun k => { k with err := { k.err with lastCmd := k.err.lastCmd.set 0 off (s.now + 1) } })).err 0
    { cls := clsCOMMAND, sev := 1, unit := 7, detail := off }

/-- Registers answer an identity: the PF through BAR0, the module supervisor, a Manager or the board's controller. -/
def State.regUp (s : State) (who : BitVec 8) : Bool :=
  if who = 0x00 then s.barUp else if who = 0x40 then s.anchorUp else !s.inReset

/-- BAR0 offset of a register of cell `c` (R12). -/
def cellReg (c off : Nat) : Nat := 0x100000 * (c + 1) + off

/-! ## Slots and status (R41, R405) -/

/-- State of a slot as SLOT_STATE shows it: 0 empty, 1 loading, 2 resident, 3 held (R41). -/
def FigState.slotState (f : FigState) (n : Nat) : Nat :=
  match f.slots.get .empty n with
  | .empty => 0
  | .loading _ _ _ => 1
  | .resident _ _ => if f.activeSlot = some n || f.idleSlot = some n || f.staging = some n then 3 else 2

def State.setSlot (s : State) (c n : Nat) (v : Slot4) : State :=
  s.onCell c (fun k => { k with fig := { k.fig with slots := k.fig.slots.set .empty n v } })

/-- A figure command that ends at once: it never was in the cell's list. -/
def State.figNow (s : State) (c : Nat) (cmd : FigCmd) (status : Nat) : State :=
  s.figEndWith c cmd status (cmd.code % 256 + 256 * (cmd.slot % 256))

/-- A figure command that ends later joins the cell's commands in progress. -/
def State.figBegin (s : State) (c : Nat) (cmd : FigCmd) : State :=
  s.onCell c (fun k => { k with fig := { k.fig with cmds := k.fig.cmds ++ [cmd] } })

/-- Commands of a code in progress end with a status. -/
def State.figEndAll (s : State) (c code status : Nat) : State :=
  (((s.cell c).fig.cmds).filter (fun x => x.code = code)).foldl (fun s x => s.figEnd c x status) s

/-- LOAD (R41, R42): from the window as it stands, or awaiting the Manager's frames. -/
def State.doLoad (s : State) (c : Nat) (cmd : FigCmd) : State :=
  let st := (s.cell c).fig.slotState cmd.slot
  if st = 1 || st = 3 then s.figNow c cmd stBUSY
  else
    let v : Slot4 := if cmd.viaReg then .loading s.host.window (some s.host.loadLen) cmd.who else .loading [] none cmd.who
    (s.setSlot c cmd.slot v).figBegin c cmd

/-- STAGE (R41): the idle plane is written from a resident or held slot. DESIGN CHOICE (log 111): an empty slot named while an ARM is
pending or staging is in progress meets both statuses, and ends with BUSY. -/
def State.doStage (s : State) (c : Nat) (cmd : FigCmd) : State :=
  let f := (s.cell c).fig
  let st := f.slotState cmd.slot
  if st = 1 || f.arm.isSome || f.staging.isSome then s.figNow c cmd stBUSY
  else if st = 0 then s.figNow c cmd stEMPTY
  else (s.onCell c (fun k => { k with fig := { k.fig with staging := some cmd.slot, idle := none, idleSlot := none } })).figBegin c cmd

/-- DROP (R41). -/
def State.doDrop (s : State) (c : Nat) (cmd : FigCmd) : State :=
  let st := (s.cell c).fig.slotState cmd.slot
  if st = 1 || st = 3 then s.figNow c cmd stBUSY
  else if st = 0 then s.figNow c cmd stEMPTY
  else (s.setSlot c cmd.slot .empty).figNow c cmd stDONE

/-- Admission closes for the discontinuous tenants (R50). -/
def Cell.closeFor (k : Cell) : Cell := k.discontinuous.foldl (fun (k : Cell) t => k.onRun t (fun r => { r with closed := true })) k

/-- Admission reopens (R50). -/
def Cell.reopen (k : Cell) : Cell := { k with runs := k.runs.mapV TenantRun.reset (fun r => { r with closed := false }) }

/-- A pending ARM is cleared: admission reopens, its commands leave the list without a status. -/
def Cell.clearArm (k : Cell) : Cell :=
  let k1 := k.reopen
  { k1 with fig := { k1.fig with arm := none, cmds := k1.fig.cmds.filter (fun x => x.code ≠ 3) } }

/-- A pending swap is abandoned (R45). -/
def State.abandonSwap (s : State) (c : Nat) : State :=
  if (s.cell c).fig.arm.isNone then s
  else (s.figEndAll c 3 stABANDONED).onCell c Cell.clearArm

/-- Figure that an ARM would activate: the one being staged, else the idle plane's. -/
def FigState.toArm (f : FigState) : Option Figure :=
  match f.staging with
  | none => f.idle
  | some n => match f.slots.get .empty n with
    | .resident g _ => some g
    | _ => none

/-- The supply or HALT_N forbids a flip (R45, R369, R371). -/
def State.noFlip (s : State) : Bool := s.supply.failing || !s.supply.haltN

/-- ARM (R41, R43, R50): a later one replaces the condition of the first. -/
def State.doArm (s : State) (c : Nat) (cmd : FigCmd) (cond : BitVec 64) : State :=
  match (s.cell c).fig.toArm with
  | none => s.figNow c cmd stEMPTY
  | some g =>
    if s.seating.level < g.level then s.figNow c cmd stLEVEL
    else
      let s1 := s.onCell c (fun k => { k with fig := { k.fig with
        arm := some cond, cmds := k.fig.cmds.filter (fun x => x.code ≠ 3) ++ [cmd] } })
      let s2 := if (s1.cell c).fig.staging.isNone then s1.onCell c Cell.closeFor else s1
      if s.noFlip then s2.abandonSwap c else s2

/-- DISARM (R41, R50). -/
def State.doDisarm (s : State) (c : Nat) (cmd : FigCmd) : State :=
  if (s.cell c).fig.arm.isNone then s.figNow c cmd stEMPTY
  else (s.onCell c Cell.clearArm).figNow c cmd stDONE

/-- A figure command at a cell (R40). -/
def State.doFigure (s : State) (c code slot : Nat) (cond : BitVec 64) (who : BitVec 8) : State :=
  let cmd : FigCmd := { code := code, slot := slot, who := who, viaReg := who ≠ 0x70 }
  if !topIdent who then s.figNow c cmd stDENIED
  else if 3 < slot then s.figNow c cmd stCOMMAND
  else match code with
    | 1 => s.doLoad c cmd
    | 2 => s.doStage c cmd
    | 3 => s.doArm c cmd cond
    | 4 => s.doDisarm c cmd
    | 5 => s.doDrop c cmd
    | _ => s.figNow c cmd stCOMMAND

/-- A figure command to the cells of a mask: a write of FIG_CMD, discarded whole when its mask is zero or a cell it names holds four
of the register's commands (R405); or the Manager's units, one to each cell (R40, R276). -/
def State.figCommand (s : State) (who mask : BitVec 8) (code slot : Nat) (cond : BitVec 64) : State :=
  let cells := allCells.filter (fun c => mask.getLsbD c)
  let full (c : Nat) : Bool := 4 ≤ (((s.cell c).fig.cmds).filter (·.viaReg)).length
  if !s.regUp who then s
  else if who ≠ 0x70 && (cells.isEmpty || cells.any full) then
    ({ s with host := { s.host with figDrop := true } } : State).discard 0x68
  else (cells.filter s.cellUp).foldl (fun s c => s.doFigure c code slot cond who) s

def execLoad (t : Nat) (who : BitVec 8) (mask : BitVec 8) (slot : Nat) (s : State) : Res :=
  .next (s.run t (fun s => s.figCommand who mask 1 slot 0))

def execStage (t : Nat) (who : BitVec 8) (mask : BitVec 8) (slot : Nat) (s : State) : Res :=
  .next (s.run t (fun s => s.figCommand who mask 2 slot 0))

def execArm (t : Nat) (who : BitVec 8) (mask : BitVec 8) (cond : BitVec 64) (s : State) : Res :=
  .next (s.run t (fun s => s.figCommand who mask 3 0 cond))

def execDisarm (t : Nat) (who : BitVec 8) (mask : BitVec 8) (s : State) : Res :=
  .next (s.run t (fun s => s.figCommand who mask 4 0 0))

def execDrop (t : Nat) (who : BitVec 8) (mask : BitVec 8) (slot : Nat) (s : State) : Res :=
  .next (s.run t (fun s => s.figCommand who mask 5 slot 0))

/-- A figure held as blocks is verified at a cell (R39). -/
def State.verifyBlocks (s : State) (c n : Nat) (blocks : SMap Payload) : Nat × Option Figure :=
  verifyFigure s.flash.keys s.flash.figFloor s.seating.level c n (blocksNum blocks)

/-- The last byte of a LOAD has arrived: the figure is verified, and the slot is resident or empty (R39, R42). -/
def execLoadVerifyDone (t : Nat) (cell : Fin 8) (slot delivered : Nat) (s : State) : Res :=
  .next (s.run t (fun s =>
    match (s.cell cell).fig.slots.get .empty slot with
    | .loading b len who =>
      if !s.cellUp cell then s
      else
        let (st, f) := s.verifyBlocks cell (len.getD delivered) b
        let s1 := s.setSlot cell slot (match f with
          | some g => .resident g b
          | none => .empty)
        let cmd := (((s.cell cell).fig.cmds).find? (fun x => x.code = 1 && x.slot = slot)).getD
          { code := 1, slot := slot, who := who, viaReg := len.isSome }
        s1.figEnd cell cmd st
    | _ => s))

/-- Staging ends: the idle plane holds the figure; with an ARM pending, admission closes for discontinuous tenants (R50). -/
def execStagingComplete (t : Nat) (cell : Fin 8) (s : State) : Res :=
  .next (s.run t (fun s =>
    let f := (s.cell cell).fig
    match f.staging, f.toArm with
    | some n, some g =>
      let s1 := (s.onCell cell (fun k => { k with fig := { k.fig with staging := none, idle := some g, idleSlot := some n } })).figEndAll
        cell 2 stDONE
      if f.arm.isSome then s1.onCell cell Cell.closeFor else s1
    | _, _ => s))

/-! ## Bindings (R35, R47, R48) -/

/-- The binding register of a channel takes a value; a changed pair empties the channel, and the words lost are counted in an error
record. -/
def State.rebind (s : State) (n : Nat) (b : BindReg) : State :=
  let c := chanCell n
  let old := s.binding n
  let same := old.valid = b.valid && (!b.valid || (old.idA = b.idA && old.idB = b.idB))
  let (s1, lost) := if same then (s, 0) else s.emptyChan n
  let s2 := s1.onCell c (fun k => { k with binds := k.binds.set BindReg.reset (n % 8) b })
  if lost = 0 then s2 else s2.err c { cls := clsCOMMAND, sev := 1, unit := 6, obj := n, detail := lost }

/-- The bindings of an activated figure take effect and lock (R47, R48). -/
def State.bindPlane (s : State) (c : Nat) (g : Figure) : State :=
  (List.range 8).foldl (fun (s : State) j =>
    s.rebind (8 * c + j) (match g.binds.find? (fun r => r.chan = 8 * c + j) with
      | none => { valid := false, locked := true, idA := 0, idB := 0 }
      | some r => { valid := true, locked := true, idA := r.idA, idB := r.idB })) s

/-- A write of a binding register: the PF and the module supervisor write it while it is unlocked (R47, RWL). DESIGN CHOICE (log 112): two
equal identities, or one outside Table 2-10, bind the channel as they are written. -/
def State.writeBind (s : State) (who : BitVec 8) (chan : Nat) (value : BitVec 32) : State :=
  if !s.regUp who then s
  else if (s.binding chan).locked || !(who = 0x00 || who = 0x40) then s.discard (cellReg (chanCell chan) (0x60 + 4 * (chan % 8)))
  else s.rebind chan
    { valid := value.getLsbD 31, locked := false, idA := value.extractLsb' 0 8, idB := value.extractLsb' 8 8 }

def execBindingRegisterWrite (t : Nat) (who : BitVec 8) (chan : Fin 64) (value : BitVec 32) (s : State) : Res :=
  .next (s.run t (fun s => s.writeBind who chan value))

/-! ## The plane swap (R43 to R51) -/

/-- The U-die takes the FREEZE and UPDATE sections (R46): a layer with a current scale keeps it, unless its record is FIXED; a home
layer without one starts at its record's, or at 0 (R31, R107, R250). START and RUN end in RUN (R214). -/
def UDie.takePlane (u : UDie) (g : Figure) (homes : List Nat) : UDie :=
  let begun := (u.binds.map (·.layer)).foldl (fun (m : SMap (Option Int)) l =>
    if (m.get none l).isNone then m.set none l (some (u.startScale l)) else m) u.scales
  let fixed := (g.updates.filter (·.fixed)).foldl (fun (m : SMap (Option Int)) r => m.set none r.layer (some r.scale)) begun
  let start (l : Nat) : Int := ((g.updates.find? (fun r => r.layer = l)).map (·.scale)).getD 0
  let scales := homes.foldl (fun (m : SMap (Option Int)) l => if (m.get none l).isNone then m.set none l (some (start l)) else m) fixed
  { u with
    freeze := g.freeze
    updates := g.updates
    scales := scales
    mode := if u.mode = .start || u.mode = .run then .run else u.mode }

/-- The tenant's TENANT, POOL, REQTAB or QUEUE record differs (R170). -/
def recordsDiffer (f g : Figure) (t : Nat) : Bool :=
  f.tenantRec t ≠ g.tenantRec t || f.poolRec t ≠ g.poolRec t || f.reqtabRec t ≠ g.reqtabRec t || f.queueRec t ≠ g.queueRec t

/-- A tenant that `f` has and `g` removes or leaves without GEN (R51). -/
def genGone (f g : Figure) (t : Nat) : Bool := !((g.tenantRec t).map (·.gen)).getD false && ((f.tenantRec t).map (·.gen)).getD false

/-- A swap costs a tenant its live versions at this cell (R255): it drops copies of layers served here, or, after a seat has departed, it
deals a layer to the cell anew. -/
def State.dropsCopy (s : State) (c : Nat) (f g : Figure) : Bool :=
  let served (x : Figure) : List Nat := ((x.places.filter (fun p => p.serve && s.placedHere p && p.cell = c)).map (·.layer)).dedup
  f.phase = 1 && ((served f).any (fun l => !(served g).contains l) ||
    (!s.seating.departed.isEmpty && g.phase = 1 && (served g).any (fun l => !(served f).contains l)))

/-- One tenant across a swap from `f` to `g` (R49, R51, R62, R170, R255, R257, R261). `keep`: the figure identifier is the same, or the
tenant is continuous. -/
def Cell.crossTenant (k : Cell) (f g : Figure) (keep carried dropped : Bool) (t : Nat) : Cell :=
  let k1 := k.onRun t (fun r => if keep then { r with carried := r.carried || carried, redeal := true, closed := false }
    else { r with image := none, next := none, carried := false, redeal := true, closed := false })
  let k2 := if keep then k1 else k1.onVer t (fun v =>
    { v with
      warmed := false
      warming := false
      copied := none
      waitPtr := g.phase = 1 && ((g.tenantRec t).map (·.gen)).getD false
      lost := if dropped then (v.lost ++ [v.current] ++ (if v.retLive then [v.retained] else [])).dedup else v.lost })
  let k3 := if recordsDiffer f g t then { k2 with gen := { k2.gen with setups := k2.gen.setups.set none t none } } else k2
  let k4 := if genGone f g t then
      let l := (k3.gen.table.filter (fun e => e.2.st ≠ .free && e.2.tenant = t)).map (·.1)
      l.foldl (fun (k : Cell) i =>
        let e := k.entry i
        (k.onEntry i (fun _ => ReqEntry.free)).onVer t (fun v => (v.unpin e.pin).releaseDue)) k3
    else k3
  if (g.tenantRec t).isNone then
    { k4 with tiers := { k4.tiers with dir := k4.tiers.dir.map (fun x => if x.tenant = t then { x with freePend := true } else x) } }
  else k4

/-- A figure without predecessor: nothing to be continuous with. -/
def Figure.blank (g : Figure) : Figure := { g with tenants := [], pools := [], reqtabs := [], queues := [], places := [], ident := ~~~ g.ident }

/-- A removed tenant's references to shared tensors on the cell are dropped; published weights stay while any other holds one (R51,
R161). -/
def State.dropRefs (s : State) (c t : Nat) : State :=
  ((s.cell c).tiers.dir.filter (fun x => x.tenant = 0xFF)).foldl (fun (s : State) x =>
    (x.refs.filter (· = t)).foldl (fun (s : State) _ =>
      match (s.cell c).tiers.dir.find? (fun y => y.tenant = 0xFF && y.ident = x.ident) with
      | some y => s.dropRef c t y
      | none => s) s) s

/-- Every tenant across the swap. -/
def State.crossTenants (s : State) (c : Nat) (f g : Figure) : State :=
  let k := s.cell c
  let tenants := ((f.tenants ++ g.tenants).map (·.tenant) ++ k.runs.map (·.1)).dedup
  let cont := tenants.filter (fun t => k.continuous f g t)
  let dropped := s.dropsCopy c f g
  let s1 := s.onCell c (fun k => tenants.foldl (fun (k : Cell) t =>
    k.crossTenant f g (f.ident = g.ident || cont.contains t) (f.ident ≠ g.ident && cont.contains t) dropped t) k)
  (tenants.filter (fun t => (g.tenantRec t).isNone)).foldl (fun (s : State) t => s.dropRefs c t) s1

/-- Plane select flips (R45): the planes and their slots change places. -/
def Cell.flip (k : Cell) (g : Figure) : Cell :=
  { k with fig := { k.fig with
    active := some g, activeSlot := k.fig.idleSlot, idle := k.fig.active, idleSlot := k.fig.activeSlot,
    select := !k.fig.select } }

/-- When the effective limit comes to differ from L, a NOTICE record is entered (R350); `old` is the effective limit before. -/
def State.limitNotice (s : State) (old : Nat) : State :=
  if s.effLimit ≠ s.supply.limit && s.effLimit ≠ old then
    s.err 0 { cls := clsINFO, sev := 1, unit := 8, detail := s.effLimit }
  else s

/-- The swap of Table 2-19, its check passed: homes send what changed (R259), the flip, tenants, bindings, the U-die, the deal and the
step boundary. -/
def State.swapTo (s : State) (c : Nat) (g : Figure) : State :=
  let f := ((s.cell c).fig.active).getD g.blank
  let homes := s.homesIn g c
  let s1 := if g.places.isEmpty then s else s.shuffle c g
  let s2 := (s1.crossTenants c f g).onCell c (fun k => k.flip g)
  let s3 := (s2.bindPlane c g).onCell c (fun k => { k with ud := k.ud.takePlane g homes })
  let s4 := (s3.figEndAll c 3 stDONE).onCell c (fun k => { k.clearArm with gen := { k.gen with heldQ := [] } })
  (s4.limitNotice s.effLimit).boundary c

/-- The lead of the cell's group seals a step that runs no operation, to void requests of some tenants (R50). -/
def State.sealEmpty (s : State) (c : Nat) (tenants : List Nat) (why : Nat) : State :=
  if tenants.isEmpty then s
  else
    let m := (s.leadCell c).getD c
    let s1 := s.emptySeal m tenants why
    (s.groupOf m).foldl (fun (s : State) x => s.onCell x (fun k => { k with step := { k.step with number := k.step.number + 1 } })) s1

/-- In stop mode with no step in progress the affected requests are voided at once (R50). -/
def State.stopNow (s : State) (c : Nat) : State := s.sealEmpty c (s.cell c).affected vSTOP

/-- A swap at the cell's step boundary (R43, R45, R249): a cell in a deeper state is first woken; in stop mode a step of the group in
progress seals first, or the lead seals one that runs nothing (R50), before the plane's check value is tested. -/
def execPlaneSwap (t : Nat) (cell : Fin 8) (checkOk : Bool) (s : State) : Res :=
  .next (s.run t (fun s =>
    let k := s.cell cell
    match k.fig.idle with
    | none => s
    | some g =>
      if !s.cellUp cell || k.step.running || !k.swapDue (s.time cell) then s
      else if s.noFlip then s.abandonSwap cell
      else if k.power.state ≠ .c0 then s.wake cell
      else if g.stop && !k.affected.isEmpty && (s.groupOf cell).any (fun m => (s.cell m).step.running) then s
      else if checkOk then (s.stopNow cell).swapTo cell g
      else (s.stopNow cell).abandonSwap cell))

/-! ## Loss of the host anchor (R20) -/

/-- The host anchor is lost: the host port goes, shares freeze, undecided learning steps of the module supervisor void, waiting stores are
reported in every ring. Cells without work rest (R21). -/
def execHostAnchorLoss (t : Nat) (s : State) : Res :=
  .next (s.run t (fun s =>
    if s.boot.anchorLost || !s.boot.islands then s
    else
      let s1 := s.loseHost
      let s2 := { s1 with boot := { s1.boot with anchorLost := true } }
      let s3 := allCells.foldl (fun (s : State) c => s.onCell c (fun k =>
        { k with power := { k.power with frozen := some k.power.share, target := k.power.share } })) s2
      let n := ((s3.flash.queue ++ s3.flash.busy.toList).map Store.bytes).sum
      let s4 := if n = 0 then s3
        else allCells.foldl (fun (s : State) c => s.errLocal c { cls := clsSTORE, sev := 1, unit := 6, detail := n }) s3
      let s5 := (List.range 64).foldl (fun s t => s.loseStep t) s4
      allCells.foldl (fun s c => s.rest c) s5))

end Sys2Proof.Machine
end

