-- ==== Sys2Proof/Machine/Integrity.lean ====
section
/-!
DEFINITION. Fences and field tests (13_integrity_and_faults R317 to R322): the fence at a count, TEST entries, sweep rounds, what a test's
result does.
-/

namespace Sys2Proof.Machine

/-- A core whose third counted fault lay within 24 hours is fenced at the step boundary (R317). -/
def execCoreFence (t : Nat) (cell : Fin 8) (core : Fin 128) (s : State) : Res :=
  .next (s.run t (fun s =>
    let k := s.cell cell
    if s.cellUp cell && !k.step.running && (k.core core).fenceDue then (s.fence cell core).boundarySoon cell else s))

/-! ## TEST (R320) -/

def tsDONE : Nat := 0
def tsDENIED : Nat := 1
def tsMODE : Nat := 2
def tsRESERVED : Nat := 3
def tsFAILED : Nat := 4

/-- A field of a TEST entry lies outside Table 13-4. -/
def testReserved (e : Entry) : Bool := 7 < e.fld 2 1 || e.fld 3 1 ≠ 0 || !e.zeroBytes 0x14 64

/-- Cores that the entry names: all of them for a mask of zero. -/
def testCores (e : Entry) : List Nat :=
  let m := e.fld 4 16
  (List.range 128).filter (fun n => m = 0 || bit m n)

/-- Cells of the entry's mask that are in service. -/
def State.testCells (s : State) (e : Entry) : List Nat := allCells.filter (fun c => bit (e.fld 1 1) c && s.cellUp c)

/-- A cell has a TEST run of this sender and entry in progress. -/
def Cell.testing (k : Cell) (src : Source) (e : Entry) : Bool := k.tests.any (fun r => r.src = src && r.e = e)

/-- One cell's part of a TEST begins: its cores ask for a test, its switch is tested at once, and its U-die. -/
def Cell.askTests (k : Cell) (src : Source) (e : Entry) : Cell :=
  let cores := if bit (e.fld 2 1) 0 then (testCores e).filter (fun n => !(k.core n).permFence) else []
  let k1 := cores.foldl (fun (k : Cell) n => k.onCore n (fun x => { x with testReq := true })) k
  let sw := bit (e.fld 2 1) 1
  let ud := bit (e.fld 2 1) 2
  let r : TestRun := { src := src, e := e, cores := cores, switch := sw, udie := ud, failed := false }
  { k1 with
    tests := if cores.isEmpty && !sw && !ud then k1.tests else k1.tests ++ [r]
    korif := { k1.korif with doubt := k1.korif.doubt || sw }
    ud := { k1.ud with testing := k1.ud.testing || ud } }

/-- A TEST entry (R320): it acts on the cells of its mask, and completes when the last test ends. -/
def State.doTest (s : State) (c : Nat) (src : Source) (e : Entry) : State :=
  let cells := s.testCells e
  if testReserved e then s.complete c src e { status := tsRESERVED }
  else if !topIdent src.who then s.complete c src e { status := tsDENIED }
  else if bit (e.fld 2 1) 2 && cells.any (fun m => (s.cell m).ud.mode ≠ .test) then s.complete c src e { status := tsMODE }
  else
    let s1 := cells.foldl (fun (s : State) m => (s.wake m).onCell m (fun k => k.askTests src e)) s
    if cells.any (fun m => (s1.cell m).testing src e) then s1 else s1.complete c src e { status := tsDONE }

def execTest (t : Nat) (cell : Fin 8) (src : Source) (e : Entry) (s : State) : Res :=
  .next (s.run t (fun s => s.entryAt cell 0x26 src e (fun s => s.doTest cell src e)))

/-! ## Sweep rounds (R321) -/

/-- A core that a round may draw. -/
def Core.awaits (x : Core) : Bool := x.testReq && !x.testing && !x.returning && !x.permFence

/-- Up to `2 − f` cores of one tenant, in increasing number, that are in service and await a test. -/
def Cell.drawTenant (k : Cell) (t : Nat) : List Nat :=
  ((((k.tenantRec t).map (·.coreList)).getD []).filter (fun n => (k.core n).awaits && !(k.core n).out)).take (2 - k.outCores t)

/-- Cores that a round draws, in R321's order: fenced ones, cores of no tenant, then each tenant's. -/
def Cell.drawCores (k : Cell) : List Nat :=
  let all := List.range 128
  let fenced := all.filter (fun n => (k.core n).awaits && (k.core n).fenced)
  let free := all.filter (fun n => (k.core n).awaits && !(k.core n).fenced && (k.tenantsOf n).isEmpty)
  let mine := ((k.fig.active.map (·.tenants)).getD []).flatMap (fun r => k.drawTenant r.tenant)
  (fenced ++ free ++ mine).take 16

/-- A round begins at a step boundary, with no core of the cell under test; its cores' tenants are re-dealt. A cell below C0 is
woken (R363). -/
def execTestRound (t : Nat) (cell : Fin 8) (s : State) : Res :=
  .next (s.run t (fun s =>
    let k := s.cell cell
    let l := k.drawCores
    if !s.cellUp cell || k.step.running || l.isEmpty || k.cores.any (fun p => p.2.testing) then s
    else if k.power.state ≠ .c0 then s.wake cell
    else
      let k1 := l.foldl (fun (k : Cell) n =>
        (k.tenantsOf n).foldl (fun (k : Cell) t => k.onRun t (fun r => { r with redeal := true }))
          (k.onCore n (fun x => { x with testing := true }))) k
      (s.setCell cell k1).boundarySoon cell))

/-! ## Results (R318, R322, R413) -/

/-- Unit of a field test that is the fabric switch, and the U-die; lower ones are cores. -/
def unitSwitch : Nat := 128
def unitUdie : Nat := 129

/-- A test's TEST record: scope bits of the unit (R322). -/
def State.testRecord (s : State) (c unit : Nat) (passed : Bool) : State :=
  let scope := if unit < 128 then 1 else if unit = unitSwitch then 2 else 4
  s.err c
    { cls := clsTEST, sev := if passed then 0 else 2, unit := if unit < 128 then 1 else if unit = unitSwitch then 4 else 2,
      core := if unit < 128 then unit else 0xFFFF, detail := scope }

/-- A core's test ends (R318, R321): passed, it returns at the next boundary; failed, it is fenced permanently. -/
def State.coreTested (s : State) (c n : Nat) (passed : Bool) : State :=
  if passed then
    s.onCell c (fun k =>
      let k1 := k.onCore n (fun x => { x with testing := false, returning := true, testReq := false })
      if k.debugStop.any (fun d => d.1 = n) then { k1 with dstate := 0, debugStop := none } else k1)
  else
    let s1 := s.onCell c (fun k =>
      let k1 := k.onCore n (fun x => { x with testing := false, testReq := false, fenced := true, permFence := true, fenceDue := false })
      (k.tenantsOf n).foldl (fun (k : Cell) t => k.onRun t (fun r => { r with redeal := true })) k1)
    (s1.err c { cls := clsFENCE, sev := 3, unit := 1, core := n, detail := ((s.cell c).core n).faults.length }).storeLater (.permFence c n)

/-- The switch's test ends (R306): passed, the doubt ends; failed, its ports stay down. -/
def State.switchTested (s : State) (c : Nat) (passed : Bool) : State :=
  let s1 := s.onCell c (fun k => { k with korif := { k.korif with doubt := false, hdrFails := [], dead := k.korif.dead || !passed } })
  if passed then (List.range 12).foldl (fun (s : State) p => s.pump c p) s1
  else (List.range 12).foldl (fun (s : State) p => if ((s.cell c).port p).up then s.portDown c p else s) s1

/-- The U-die's test ends (R214): passed, TEST leaves to RUN; failed, it stays in TEST until the cell restarts. -/
def State.udieTested (s : State) (c : Nat) (passed : Bool) : State :=
  s.onCell c (fun k => { k with ud := { k.ud with
    testing := false
    failed := k.ud.failed || !passed
    mode := if passed && !k.ud.failed then .run else k.ud.mode } })

/-- A unit is struck off the tests in progress. -/
def TestRun.done (r : TestRun) (unit : Nat) (passed : Bool) : TestRun :=
  let mine := r.cores.contains unit || (unit = unitSwitch && r.switch) || (unit = unitUdie && r.udie)
  { r with
    cores := r.cores.filter (· ≠ unit)
    switch := r.switch && unit ≠ unitSwitch
    udie := r.udie && unit ≠ unitUdie
    failed := r.failed || (mine && !passed) }

def TestRun.over (r : TestRun) : Bool := r.cores.isEmpty && !r.switch && !r.udie

/-- TESTs whose last test has ended, on every cell of their masks, complete (Table 14-6). -/
def State.finishTests (s : State) (c : Nat) : State :=
  let due := ((s.cell c).tests).filter (fun r => r.over &&
    allCells.all (fun m => ((s.cell m).tests).all (fun q => !(q.src = r.src && q.e = r.e) || q.over)))
  due.foldl (fun (s : State) r =>
    let failed := allCells.any (fun m => ((s.cell m).tests).any (fun q => q.src = r.src && q.e = r.e && q.failed))
    let s1 := allCells.foldl (fun (s : State) m => s.onCell m (fun k =>
      { k with tests := k.tests.filter (fun q => !(q.src = r.src && q.e = r.e)) })) s
    s1.complete c r.src r.e { status := if failed then tsFAILED else tsDONE }) s

/-- The unit is under test. -/
def Cell.underTest (k : Cell) (unit : Nat) : Bool :=
  if unit < 128 then (k.core unit).testing
  else if unit = unitSwitch then k.korif.doubt
  else unit = unitUdie && k.ud.testing

def execFieldTestComplete (t : Nat) (cell : Fin 8) (unit : Nat) (passed : Bool) (s : State) : Res :=
  .next (s.run t (fun s =>
    if !s.cellUp cell || !(s.cell cell).underTest unit then s
    else
      let s1 := s.testRecord cell unit passed
      let s2 := if unit < 128 then s1.coreTested cell unit passed
        else if unit = unitSwitch then s1.switchTested cell passed
        else s1.udieTested cell passed
      let s3 := s2.onCell cell (fun k => { k with tests := k.tests.map (fun r => r.done unit passed) })
      (s3.finishTests cell).boundarySoon cell))

end Sys2Proof.Machine
end

