-- ==== Sys2Proof/Machine/Entries.lean ====
section
/-!
DEFINITION. Submission entries of every kind by every path (14_host_port_and_mailboxes): RUN, WRITE and MAILBOX (Table 14-7), the Manager's
REGISTER (17, R404), the fetching of a ring entry (R339), the taking of sixteen mailbox words (R347), MAIL frames (R276).
-/

namespace Sys2Proof.Machine

/-! ## RUN, WRITE (Table 14-7) -/

def enDONE : Nat := 0
def enDENIED : Nat := 1

def runReserved (e : Entry) : Bool := 63 < e.fld 1 1 || e.fld 2 2 ≠ 0 || !e.zeroBytes 8 64

/-- RUN sets the tenant's learning run count (Table 14-7): STATE for a tenant without LEARN. -/
def State.doRun (s : State) (c : Nat) (src : Source) (e : Entry) : State :=
  let t := e.fld 1 1
  if runReserved e then s.complete c src e { status := 3 }
  else if !s.mayFor c t src.who then s.complete c src e { status := enDENIED }
  else if !(((s.cell c).tenantRec t).map (·.learn)).getD false then s.complete c src e { status := 2 }
  else (s.onCell c (fun k => k.onRun t (fun r => { r with runCount := BitVec.ofNat 32 (e.fld 4 4) }))).complete c src e { status := enDONE }

def execRun (t : Nat) (cell : Fin 8) (src : Source) (e : Entry) (s : State) : Res :=
  .next (s.run t (fun s => s.entryAt cell 0x11 src e (fun s => s.doRun cell src e)))

def writeReserved (e : Entry) : Bool :=
  let n := e.fld 2 1
  63 < e.fld 1 1 || n = 0 || 12 < n || e.fld 3 1 ≠ 0 || e.fld 7 1 ≠ 0 || e.fld 0xC 4 ≠ 0 || !e.zeroBytes (0x10 + 4 * n) 64

/-- A READY one-home INT32 or FP32 tensor of the tenant that holds the elements, none of its tiles in E. -/
def Cell.writeFits (k : Cell) (e : Entry) : Bool :=
  match k.ownTensor (e.fld 1 1) (e.fld 4 3) with
  | none => false
  | some t => t.one && (t.fmt = 0x11 || t.fmt = 0x0C) && e.fld 8 4 + e.fld 2 1 ≤ t.elems &&
      (List.range t.count).all (fun i => (k.ent (t.base + i)).st ≠ .E)

/-- WRITE: its words are written at the cell's next step boundary. -/
def State.doWrite (s : State) (c : Nat) (src : Source) (e : Entry) : State :=
  if writeReserved e then s.complete c src e { status := 3 }
  else if !s.mayFor c (e.fld 1 1) src.who then s.complete c src e { status := enDENIED }
  else if !(s.cell c).writeFits e then s.complete c src e { status := 2 }
  else (s.onCell c (fun k => { k with writes := k.writes ++ [{ src := src, e := e }] })).boundarySoon c

def execWrite (t : Nat) (cell : Fin 8) (src : Source) (e : Entry) (s : State) : Res :=
  .next (s.run t (fun s => s.entryAt cell 0x28 src e (fun s => s.doWrite cell src e)))

/-! ## MAILBOX (R348) -/

def mailboxReserved (e : Entry) : Bool :=
  let n := e.fld 2 1
  63 < e.fld 1 1 || n = 0 || 15 < n || 1 < e.fld 3 1 || !e.zeroBytes (4 + 4 * n) 64

/-- MAILBOX from the Manager: its words are queued if all fit, and the doorbell follows the last. -/
def State.doMailbox (s : State) (c : Nat) (src : Source) (e : Entry) : State :=
  let n := e.fld 1 1
  let ws := (List.range (e.fld 2 1)).map (fun j => BitVec.ofNat 32 (e.fld (4 + 4 * j) 4))
  if mailboxReserved e then s.complete c src e { status := 3 }
  else if src.who ≠ 0x70 then s.complete c src e { status := enDENIED }
  else match s.chanSide n 0x70 with
    | none => s.complete c src e { status := 3 }
    | some a =>
      if 16 < ((s.chan n).dir a).queue.length + ws.length then s.complete c src e { status := 2 }
      else
        let s1 := s.onDir n a (fun d => { d with queue := d.queue ++ ws })
        (if e.fld 3 1 = 1 then s1.ring n a else s1).complete c src e { status := enDONE }

def execMailbox (t : Nat) (cell : Fin 8) (src : Source) (e : Entry) (s : State) : Res :=
  .next (s.run t (fun s => s.entryAt cell 0x27 src e (fun s => s.doMailbox cell src e)))

/-! ## Registers that the Manager may write (R404, R410, R301) -/

/-- TURN_PLAN takes a value (R179, R410). -/
def State.setTurnPlan (s : State) (c : Nat) (v : BitVec 64) : State :=
  s.onCell c (fun k => { k with gen := { k.gen with turnPlan := v } })

/-- JOB_STEP of a tenant takes a value; the Bool says whether it did, which a current task image prevents (R410). -/
def State.setJobStep (s : State) (c t : Nat) (v : BitVec 64) : State × Bool :=
  if ((s.cell c).run t).image.isSome then (s, false)
  else (s.onCell c (fun k => k.onRun t (fun r => { r with jobStep := v })), true)

/-- QUAR_RELEASE ends the quarantines of the ports whose bits are set (R301). -/
def State.quarRelease (s : State) (c v : Nat) : State :=
  (List.range 12).foldl (fun (s : State) p => if bit v p then s.endQuarantine c p else s) s

def registerReserved (e : Entry) : Bool := e.fld 1 3 ≠ 0 || !e.zeroBytes 0x10 64

/-- REGISTER (R404): a write of 64 bits by identity 0x70 to one of the three registers of Table 17-1. -/
def State.doRegister (s : State) (c : Nat) (src : Source) (e : Entry) : State :=
  let off := e.fld 4 4
  let v := e.fld 8 8
  let stop (x : Nat) : State := s.complete c src e { status := x }
  if registerReserved e then stop 3
  else if src.who ≠ 0x70 then stop enDENIED
  else if off = 0x20 then (s.setTurnPlan c (BitVec.ofNat 64 v)).complete c src e { status := enDONE }
  else if 0x200 ≤ off && off < 0x400 && off % 8 = 0 then
    let (s1, ok) := s.setJobStep c ((off - 0x200) / 8) (BitVec.ofNat 64 v)
    (if ok then s1 else s1.discard (cellReg c off)).complete c src e { status := if ok then enDONE else 2 }
  else if off = 0x440 then
    if v / 2 ^ 32 ≠ 0 then stop 3 else (s.quarRelease c v).complete c src e { status := enDONE }
  else stop enDENIED

def execRegister (t : Nat) (cell : Fin 8) (src : Source) (e : Entry) (s : State) : Res :=
  .next (s.run t (fun s => s.entryAt cell 0x29 src e (fun s => s.doRegister cell src e)))

/-! ## Every kind (Table 14-6) -/

/-- An entry acts at a cell; an undefined kind, or one that its path does not accept, ends with KIND (R340). -/
def State.doEntry (s : State) (c : Nat) (src : Source) (e : Entry) : State :=
  let kind := e.fld 0 1
  if !s.kindOk src kind then s.complete c src e { status := 0xFF }
  else
    let s := s.cmdServed c src.who
    match kind with
    | 0x01 | 0x02 | 0x03 => s.doTensor c src e
    | 0x10 => s.doLoadImage c src e
    | 0x11 => s.doRun c src e
    | 0x20 => s.doRequest c src e
    | 0x21 => s.doCancel c src e
    | 0x22 => s.doSetup c src e
    | 0x23 => s.doVersion c src e
    | 0x24 => s.doFetch c src e
    | 0x25 => s.doRefetch c src e
    | 0x26 => s.doTest c src e
    | 0x27 => s.doMailbox c src e
    | 0x28 => s.doWrite c src e
    | 0x29 => s.doRegister c src e
    | 0x30 => s.doBind c src e
    | 0x31 => s.doRuleLoad c src e
    | 0x32 => s.doMode c src e
    | 0x33 => s.doSnapshot c src e
    | 0x34 => s.doAnswer c src e
    | 0x35 => s.doRepair c src e
    | _ => s

/-! ## Ring fetches (R339, R174) -/

/-- Ring `c` of function `n` is ready to fetch. -/
def State.ringReady (s : State) (n c : Nat) : Bool :=
  let h := s.fn n
  let r := h.ring c
  s.hostUp && s.fnOn n && !h.flr && r.en && r.head ≠ r.tail && !s.stall n c && s.cellUp c

/-- A fetch's read failed: the ring is disabled, RINGERR is set, one COMMAND record is entered (R339). -/
def State.fetchFailed (s : State) (n c : Nat) : State :=
  ((s.onFn n (fun h => h.onRing c (fun r => { r with en := false, head := 0, tail := 0 }))).ringError n).err 0
    { cls := clsCOMMAND, sev := 1, unit := 7, obj := c, detail := n }

/-- Of the rings that ask and are ready, the button's choice gives its entry to its cell. -/
def execRingFetch (t : Nat) (ready : List (Fin 64 × Fin 8)) (ok : Bool) (e : Entry) (s : State) : Res :=
  .next (s.run t (fun s =>
    let keys := (ready.filter (fun r => s.ringReady r.1 r.2)).map (fun r => 8 * r.1.val + r.2.val)
    match keyWin s.host.fetchKey keys with
    | none => s
    | some key =>
      let n := key / 8
      let c := key % 8
      let s1 := { s with host := { s.host with fetchKey := key + 1 } }
      if !ok then s1.fetchFailed n c
      else
        let head := ((s1.fn n).ring c).head
        let s2 := s1.onFn n (fun h => h.onRing c (fun r => { r with head := (r.head + 1) % r.size }))
        (s2.wake c).doEntry c { who := BitVec.ofNat 8 n, path := .ring head } e))

/-! ## Entries through a channel (R347) -/

/-- Cell at which the words toward an internal receiver act: a scheduler's or U-die's own, the channel's for the module supervisor. -/
def receiverCell (n : Nat) (recv : BitVec 8) : Option Nat :=
  let w := recv.toNat
  if w = 0x40 then some (chanCell n)
  else if (0x48 ≤ w && w ≤ 0x4F) || (0x50 ≤ w && w ≤ 0x57) then some (w % 8)
  else none

/-- The oldest 16 words leave a direction; the event clears when fewer than 16 remain (R346). -/
def ChanDir.take16 (d : ChanDir) : ChanDir :=
  { d with queue := d.queue.drop 16, pend := d.pend && 16 ≤ (d.queue.drop 16).length }

/-- An internal receiver takes 16 words as one entry: its event is pending, no record of its own waits in the other direction, and its
cell is in C0, to which it is otherwise woken. Its queue drained, the cell returns to idle as its POWER section sets (R346). -/
def execMailboxEntryTake (t : Nat) (chan : Fin 64) (toB : Bool) (s : State) : Res :=
  .next (s.run t (fun s =>
    let recv := s.chanTo chan toB
    let d := (s.chan chan).dir toB
    match receiverCell chan recv with
    | none => s
    | some c =>
      if !(s.binding chan).valid || !s.cellUp c || !d.pend || d.queue.length < 16 || !((s.chan chan).dir (!toB)).waits.isEmpty ||
          (recv = 0x40 && !s.anchorUp) then s
      else if recv ≠ 0x40 && (s.cell c).power.state ≠ .c0 then s.wake c
      else
        let e : Entry := BitVec.ofNat 512 (pack ((d.queue.take 16).map (fun w => (4, w.toNat))))
        let s1 := (s.onDir chan toB ChanDir.take16).doEntry c { who := s.chanTo chan (!toB), path := .box chan } e
        if recv = 0x40 || ((s1.chan chan).dir toB).pend then s1 else s1.rest c))

/-! ## MAIL frames (R276) -/

/-- A figure command unit (R40): a reserved byte ends it with COMMAND. -/
def State.figureUnit (s : State) (c : Nat) (who : BitVec 8) (u : Entry) : State :=
  let code := u.fld 0 1
  let slot := u.fld 1 1
  let cmd : FigCmd := { code := code, slot := slot, who := who, viaReg := false }
  if topIdent who && (u.fld 2 6 ≠ 0 || !u.zeroBytes 0x10 64) then s.figEndWith c cmd stCOMMAND (u.fld 0 8)
  else s.doFigure c code slot (BitVec.ofNat 64 (u.fld 8 8)) who

/-- One unit of a MAIL frame from an identity: an entry, a figure command, routes; records and statuses are the Manager's. -/
def State.mailUnit (s : State) (c : Nat) (who : BitVec 8) (cls : Nat) (u : Entry) : State :=
  match cls with
  | 1 =>
    let s1 := s.onCell c (fun k => { k with korif := { k.korif with mailGrant := k.korif.mailGrant - 1 } })
    (s1.wake c).doEntry c { who := who, path := .mail } u
  | 3 => s.figureUnit c who u
  | 5 => s.takeRoutes c who u
  | _ => s

/-- The classes of a MAIL frame are those of Table R276, one for each unit of its payload. -/
def mailClasses (x : Frame) : Option (List Nat) :=
  let n := x.plen / 64
  let l := (List.range n).map (fun u => x.aux / 16 ^ u % 16)
  if x.plen % 64 = 0 && 1 ≤ n && n ≤ 4 && x.aux / 16 ^ n = 0 && l.all (fun k => 1 ≤ k && k ≤ 5) then some l else none

/-- The units of a MAIL frame for this cell are taken in order; on the Manager's own module the frame goes to its program too
(log 4). -/
def State.takeMail (s : State) (c p : Nat) (x : Frame) : State :=
  match mailClasses x with
  | none => s.countError c p
  | some l =>
    let s1 := if s.seating.manager && c = 0 && l.any (fun k => k = 2 || k = 4) then s.emit (.frame c 13 x) else s
    if !s1.cellUp c then s1
    else (l.zipIdx.foldl (fun (s : State) k => s.mailUnit c x.origin k.1 (BitVec.ofNat 512 (x.p (64 * k.2) 64))) s1).renewMail c

def execMailFrame (t : Nat) (cell : Fin 8) (port : Fin 12) (f : Frame) (s : State) : Res :=
  .next (s.run t (fun s =>
    let (s1, ok) := s.accept cell port f
    if ok && f.ftype = 3 then s1.takeMail cell port f else s1))

/-! ## Frames for other cells, and the Manager's program on this module -/

/-- A frame of the Manager's program for the cell of the host anchor itself, at which it arrives (R17, R291): MAIL, JOIN, heartbeats, SEAL. -/
def State.anchorFrame (s : State) (c : Nat) (x : Frame) : State :=
  match x.ftype with
  | 3 => s.takeMail c anchorIndex x
  | 5 =>
    match s.joinRelay c anchorIndex x with
    | some s1 => s1
    | none =>
      if x.p 0 1 = 5 then s.takeLeave x
      else if x.p 0 1 = 6 && s.fromManager x then s.levelFrame c anchorIndex x
      else s
  | 7 => s.takeBeat c x
  | 9 => if s.cellUp c then s.takeSeal c x else s
  | _ => s

/-- A frame that arrived at switch index `port` for another cell is relayed (R16, R284); a halted, doubting or starting
link answers HOLD instead (R302, R303); a newcomer's JOIN frames go to (0, 0). A SEAL frame for this cell acts here (R277). -/
def execFrameForward (t : Nat) (cell : Fin 8) (port : Fin 14) (f : Frame) (s : State) : Res :=
  .next (s.run t (fun s =>
    if !s.fabricUp then s
    else if port.val < 12 then
      let (s1, ok) := s.accept cell port f
      if ok && f.ftype = 5 then (s1.joinRelay cell port f).getD s1
      else if ok && f.ftype = 9 && s.cellUp cell then s1.takeSeal cell f
      else s1
    else if f.malformed then s
    else if f.dseat = s.mySeat && f.dcell = cell.val then
      if port.val = anchorIndex && cell.val = 0 && s.seating.manager && f.check = f.goodCheck then s.anchorFrame cell f else s
    else s.relay cell port f))

end Sys2Proof.Machine
end

