-- ==== Sys2Proof/Machine/Power.lean ====
section
/-!
DEFINITION. Supply, temperature, clocks, wakes and the Safe state (13_integrity_and_faults R326, R327; 15_power_clocks_and_startup R349,
R357 to R363, R369 to R371; 18 R420).
-/

namespace Sys2Proof.Machine

/-! ## The Safe state (R326, R327) -/

/-- An apply pass that the Safe state cuts: its layers become HELD (R327). -/
def Cell.cutApply (k : Cell) : Cell :=
  let ts := (k.learn.filter (fun l => l.2.phase = .decided && (l.2.decision.map (·.1)).getD false)).map (·.1)
  let layers := (ts.flatMap k.ud.namedFor).map (·.1)
  { k with ud := { k.ud with held := (k.ud.held ++ layers).dedup, inPass := false } }

/-- A generation step in progress at a lead seals with HALT: rows' requests void, nothing further begins. -/
def State.haltGen (s : State) (c : Nat) : State :=
  if !s.isLead c || !(s.cell c).step.running then s
  else
    let ran := (s.ranTenants c).map (fun t => (t, false))
    (s.sealRequests c).onCells (s.groupOf c) (fun k => k.endStep ran)

/-- A void step is sealed at once on a cell of its group: every cause has its record, and the step ends as R211 says. -/
def State.haltSeal (s : State) (c t : Nat) (d : Bool × Nat) (time : Nat) : State :=
  let k := s.cell c
  let mine := ((((s.coord t).reports.find? (fun r => r.cell = c)).map (·.causes)).getD []) ++ k.learnCauses t
  (s.voidRecords c t mine.dedup).onCell c (fun k =>
    ((k.standCounters t).takeDecision t d time k.ud.nextScale).sealLearn t false (s.time c))

/-- A learning step in progress whose decision is not yet taken is void with HALT on every cell of its group, by the cause that R9 ranks
first; its scales are fixed and its seal record is written as of any void step (R211, R212). -/
def State.haltLearn (s : State) (t : Nat) : State :=
  let x := s.coord t
  if !x.active || x.decision.isSome then s
  else
    let d := (false, pickCause (vHALT :: s.foundCauses t))
    let time := s.time ((x.group.head?).getD 0)
    let s1 := (s.fixScales t).onCoord t (fun y => { y with decision := some d, decTime := time })
    let s2 := x.group.foldl (fun (s : State) c => s.haltSeal c t d time) s1
    let s3 := (s2.gatherEntries t).writeSeal t
    x.group.foldl (fun (s : State) c => if (s.cell c).learnOver then s.onCell c Cell.endLearn else s) s3

/-- Every cell's step in progress stops for good: engines and threads leave their work. -/
def Cell.halt (k : Cell) : Cell :=
  { k.cutApply with cores := k.cores.mapV Core.reset (fun x => { x with engines := [], redoDue := [] }) }

/-- Entry to the Safe state is signalled to the host as an Uncorrectable Internal Error (Table 14-1), where configuration space is live. -/
def State.signalSafe (s : State) : State := if s.barUp then s.emit .internalError else s

/-- The module enters the Safe state (R326): steps in progress void with HALT, pending swaps are abandoned, operations and shuffles stop
(R265). -/
def State.enterSafe (s : State) : State :=
  if s.boot.safe || !s.boot.islands then s
  else
    let s1 := allCells.foldl (fun (s : State) c => (s.abandonSwap c).causeAll c vHALT) s.stopShuffle
    let s2 := allCells.foldl (fun (s : State) c => s.haltGen c) s1
    let s3 := (List.range 64).foldl (fun (s : State) t => s.haltLearn t) s2
    let s4 := allCells.foldl (fun (s : State) c => s.onCell c Cell.halt) s3
    ({ s4 with boot := { s4.boot with safe := true } } : State).signalSafe

/-- HALT_N taken low (R371): before the supervisor runs, the Safe state waits for it. -/
def execHaltNAssert (t : Nat) (s : State) : Res :=
  .next (s.run t (fun s =>
    let s1 := { s with supply := { s.supply with haltN := false } }
    if s1.boot.running then s1.enterSafe else s1))

/-- HALT_N taken high (R371): the module stays in the Safe state until a reset. -/
def execHaltNDeassert (t : Nat) (s : State) : Res :=
  .next (s.run t (fun s => { s with supply := { s.supply with haltN := true } }))

/-! ## The supply (R349, R369, R370) -/

/-- An erase that runs is suspended and not resumed: its sectors stay unerased (R377). -/
def Flash.suspend (f : Flash) : Flash := if f.sectors = .erasing then { f with sectors := .written } else f

/-- An assertion of PWR_FAIL_N (R369): steps in progress void with POWER, pending swaps are abandoned, shuffles stop (R265), an erase is
suspended (R377). -/
def State.powerFail (s : State) : State :=
  let s1 := { s with supply := { s.supply with failing := true, lastEdge := s.now }, flash := s.flash.suspend }
  allCells.foldl (fun (s : State) c => (s.abandonSwap c).causeAll c vPOWER) s1.stopShuffle

/-- VIN as measured. -/
def State.measureVin (s : State) (mv : Nat) : State :=
  { s with supply := { s.supply with vin := mv, vinLow := min mv s.supply.vinLow } }

/-- VIN lies within 38.0 to 46.0 V. -/
def vinOk (mv : Nat) : Bool := 38000 ≤ mv && mv ≤ 46000

/-- VIN outside its range for 100 µs is handled as an assertion of PWR_FAIL_N (R349). -/
def execVinFault (t : Nat) (mv : Nat) (s : State) : Res :=
  .next (s.run t (fun s => if vinOk mv || !s.boot.islands then s else (s.measureVin mv).powerFail))

/-- Any edge of PWR_FAIL_N is an assertion (R369). -/
def execPwrFailN (t : Nat) (level : Bool) (s : State) : Res :=
  .next (s.run t (fun s =>
    if s.supply.pwrFailN = level then s
    else
      let s1 := { s with supply := { s.supply with pwrFailN := level } }
      if s.boot.islands then s1.powerFail else s1))

/-- PWR_FAIL_N high and VIN in range for 10 ms without an edge end the assertion (R369); VIN reads its nominal value again where the
last reading lay outside (log 6). -/
def execPwrFailDeassert (t : Nat) (s : State) : Res :=
  .next (s.run t (fun s =>
    if s.supply.failing && s.supply.pwrFailN && s.supply.pwrGood && s.supply.lastEdge + 10000000 ≤ s.now then
      let v := if vinOk s.supply.vin then s.supply.vin else 42000
      { s with supply := { s.supply with failing := false, vin := v, vinLow := v } }
    else s))

/-- A falling PWR_GOOD acts at once as an assertion of PWR_FAIL_N (R370). -/
def execPwrGoodFall (t : Nat) (s : State) : Res :=
  .next (s.run t (fun s =>
    if !s.supply.pwrGood then s
    else
      let s1 := { s with supply := { s.supply with pwrGood := false } }
      if s.boot.islands then s1.powerFail else s1))

/-- The module is reset: every register at its reset value, the tiers empty; pins, clocks, straps and what the flash holds stay, and
content deferred or in an operation is lost (R370, R373, R376, R403). -/
def State.moduleReset (s : State) : State :=
  { State.reset with
    pending := s.pending
    now := s.now
    free := s.free
    supply := { Supply.reset with
      pwrGood := s.supply.pwrGood, pwrFailN := s.supply.pwrFailN, haltN := s.supply.haltN, perstN := s.supply.perstN,
      aoclk := s.supply.aoclk, refclk := s.supply.refclk, vin := s.supply.vin, vinLow := s.supply.vinLow, uvlo := s.supply.uvlo,
      lastEdge := s.now }
    boot := { Boot.reset with base := s.now, i3cAddr := s.boot.i3cAddr, layout := s.boot.layout, boardId := s.boot.boardId }
    flash := { s.flash with queue := [], busy := none, deferred := false, sectors := .written }
    fw := { Firmware.reset with running := s.flash.active }
    cells := allCells.foldl (fun (m : SMap Cell) c => m.set Cell.reset c { Cell.reset with
      fig := { FigState.reset with persist := (s.flash.starts.get none c).isSome }
      cores := (s.flash.fences.filter (fun n => n / 128 = c)).foldl (fun (m : SMap Core) n =>
        m.set Core.reset (n % 128) { Core.reset with fenced := true, permFence := true }) [] }) []
    out := s.out }

/-- PWR_GOOD still low 1 ms after it fell: the module is reset (R370). -/
def execPwrGoodLowReset (t : Nat) (s : State) : Res :=
  .next (s.run t (fun s =>
    if !s.supply.pwrGood && s.boot.islands && s.supply.lastEdge + 1000000 ≤ s.now then s.moduleReset else s))

/-- VIN falls below 36.0 V: every converter is held off, which resets the module and takes PWR_GOOD with it; no land is driven (R349,
R421). -/
def execUndervoltageLockout (t : Nat) (mv : Nat) (s : State) : Res :=
  .next (s.run t (fun s =>
    if 36000 ≤ mv || s.supply.uvlo then s
    else
      let s1 := (s.measureVin mv).moduleReset
      { s1 with supply := { s1.supply with uvlo := true, pwrGood := false } }))

/-- VIN rises above 37.0 V: converters may run again (R349, R422). -/
def execUndervoltageLockoutRelease (t : Nat) (mv : Nat) (s : State) : Res :=
  .next (s.run t (fun s =>
    if mv ≤ 37000 || !s.supply.uvlo then s
    else { s with supply := { s.supply with uvlo := false, vin := mv, vinLow := mv } }))

/-! ## Temperature (R357, R358) -/

/-- The five readings of a cell: its temperature is the highest, its hottest die the first of those; 103 °C stops new steps until below
100 °C; 110 °C on any die trips into the Safe state. -/
def execThermalSample (t : Nat) (cell : Fin 8) (dies : List Nat) (s : State) : Res :=
  .next (s.run t (fun s =>
    match dies.max? with
    | none => s
    | some m =>
      if !s.boot.running then s
      else
        let s1 := s.onCell cell (fun k => { k with power := { k.power with
          temp := m
          hotDie := dies.findIdx (· = m)
          tooHot := if 103 ≤ m then true else if m < 100 then false else k.power.tooHot } })
        if 110 ≤ m then s1.enterSafe else s1))

/-- The ceiling after 500 ms at the cell's temperature (R357). -/
def Cell.nextCeiling (k : Cell) : Option Nat :=
  let top := k.maxShare
  let cur := min (k.power.ceiling.getD top) top
  if 98 ≤ k.power.temp then some (max k.minShare (cur - k.rated2 / 20))
  else if 95 ≤ k.power.temp then k.power.ceiling
  else match k.power.ceiling with
    | none => none
    | some _ =>
      let up := cur + max 1 (k.rated2 / 200)
      if top ≤ up then none else some up

def execThermalCeilingTick (t : Nat) (cell : Fin 8) (s : State) : Res :=
  .next (s.run t (fun s =>
    if !s.cellUp cell then s
    else (s.onCell cell (fun k => { k with power := { k.power with ceiling := k.nextCeiling } })).boundarySoon cell))

/-! ## Clocks (R359, R420) -/

/-- AOCLK is lost: a TIME record in each of the eight rings (R359). -/
def execAoclkLoss (t : Nat) (s : State) : Res :=
  .next (s.run t (fun s =>
    if !s.supply.aoclk then s
    else
      let s1 := { s with supply := { s.supply with aoclk := false } }
      if !s1.boot.running then s1
      else allCells.foldl (fun (s : State) c => s.err c { cls := clsTIME, sev := 1, unit := 6 }) s1))

/-- REFCLK is lost: the Safe state (R359). -/
def execRefclkLoss (t : Nat) (s : State) : Res :=
  .next (s.run t (fun s =>
    let s1 := { s with supply := { s.supply with refclk := false } }
    if s1.boot.running then s1.enterSafe else s1))

/-- The always-on islands leave reset, and Table 15-4 counts from now (R364, R420). -/
def State.startIslands (s : State) : State :=
  if s.supply.pwrGood && s.supply.aoclk && !s.supply.uvlo && !s.boot.islands then
    { s with boot := { s.boot with islands := true, base := s.now } }
  else s

/-- AOCLK has been present for 100 µs (R420). -/
def execAoclkPresent (t : Nat) (s : State) : Res :=
  .next (s.run t (fun s => ({ s with supply := { s.supply with aoclk := true } } : State).startIslands))

/-! ## Wakes (R361, R363) -/

/-- A cell in a state below C0 begins to wake. -/
def execCellWake (t : Nat) (cell : Fin 8) (s : State) : Res :=
  .next (s.run t (fun s => if s.cellUp cell then s.wake cell else s))

/-- The wake's latency has passed: the cell is in C0. -/
def execCellWakeComplete (t : Nat) (cell : Fin 8) (s : State) : Res :=
  .next (s.run t (fun s =>
    if (s.cell cell).power.waking && (s.cell cell).init then
      s.onCell cell (fun k => { k with power := { k.power with waking := false, state := .c0 } })
    else s))

end Sys2Proof.Machine
end

