-- ==== Sys2Proof/Machine/Startup.lean ====
section
/-!
DEFINITION. Start-up, module resets and cell restarts (15_power_clocks_and_startup R364 to R367, R373, R374; 14 R334; 17 R412).
-/

namespace Sys2Proof.Machine

/-! ## Start-up (R364 to R367) -/

/-- PWR_GOOD taken high starts Table 15-4; the straps are sampled (R423). Where the islands still run, it only ended a dip (R370). -/
def execPwrGoodRise (t : Nat) (i3cAddr : BitVec 7) (flashLayout boardId : BitVec 4) (s : State) : Res :=
  .next (s.run t (fun s =>
    if s.supply.pwrGood || s.supply.uvlo then s
    else
      let s1 := { s with supply := { s.supply with pwrGood := true } }
      if s1.boot.islands then s1
      else ({ s1 with boot := { s1.boot with i3cAddr := i3cAddr, layout := flashLayout, boardId := boardId } } : State).startIslands))

/-- The board's power limit, or 1,200 W (R350, Table 17-2). -/
def Flash.firstLimit (f : Flash) : Nat := if 1200 ≤ f.descLimit && f.descLimit ≤ 3000 then f.descLimit else 1200

/-- Cells whose C-die has no identity are named by FATAL records (R383). -/
def State.nameKeyless (s : State) : State :=
  (allCells.filter (fun c => !(s.cell c).keyOk)).foldl (fun (s : State) c => s.err 0 { cls := clsINFO, sev := 3, unit := 8, obj := c }) s

/-- I3C static addresses without effect (R423): 0x00 to 0x07, 0x78 to 0x7F, and those one bit away from 0x7E. -/
def i3cReserved (a : BitVec 7) : Bool := a < 8 || 0x78 ≤ a || (List.range 7).any (fun i => a = 0x7E#7 ^^^ (1#7 <<< i))

/-- A FLASH_LAYOUT strap of 0x4 to 0xF leaves the module without usable flash (R423). -/
def State.flashUsable (s : State) : Bool := s.boot.layout < 4

/-- A NOTICE record says that the strapped static address has no effect (R423). -/
def State.strapNotice (s : State) : State :=
  if i3cReserved s.boot.i3cAddr then s.err 0 { cls := clsINFO, sev := 1, unit := 8, obj := s.boot.i3cAddr.toNat } else s

/-- The supervisor runs the image of flash slot `n`; the journal and the board descriptor are read (R364, R403). -/
def State.superviseFrom (s : State) (n : Nat) : State :=
  let s1 := { s with
    boot := { s.boot with running := true }
    fw := { s.fw with running := n, current := s.flash.bundles.get none n }
    supply := { s.supply with limit := s.flash.firstLimit } }
  let s2 := s1.nameKeyless.strapNotice
  if !s2.supply.haltN || !s2.supply.refclk then s2.enterSafe else s2

/-- The mask ROM verifies the active image, else the other, else recovers (R365), as it does without usable flash (R423); HALT_N low or
REFCLK absent lead to the Safe state (R371, R420). -/
def execSupervisorImageVerify (t : Nat) (activeOk otherOk : Bool) (s : State) : Res :=
  .next (s.run t (fun s =>
    if s.inReset || s.boot.running || s.boot.recovery then s
    else if !s.flashUsable then { s with boot := { s.boot with recovery := true } }
    else if activeOk then s.superviseFrom s.flash.active
    else if otherOk then s.superviseFrom (1 - s.flash.active)
    else { s with boot := { s.boot with recovery := true } }))

/-- The host link trains, and configuration space goes live once a verified image runs (R334, R365, R372). -/
def execHostLinkTrained (t : Nat) (configLive : Bool) (s : State) : Res :=
  .next (s.run t (fun s =>
    if s.inReset || !s.supply.perstN || s.boot.anchorLost then s
    else { s with host := { s.host with linkUp := true, cfgLive := configLive && s.boot.running } }))

/-- The start figure, verified, goes into slot 0 and the idle plane and is activated as a swap with no step; a failure leaves the cell
without a figure and a FIGURE record (R367). -/
def State.startFigure (s : State) (c : Nat) : State :=
  match s.flash.starts.get none c with
  | none => s.boundary c
  | some (n, blocks) =>
    let r := s.verifyBlocks c n blocks
    match (if s.noFlip then none else r.2) with
    | none => (s.err c { cls := clsFIGURE, sev := 1, unit := 6, detail := if r.2.isNone then r.1 else stABANDONED }).boundary c
    | some f =>
      (s.onCell c (fun k => { k with fig := { k.fig with
        slots := k.fig.slots.set .empty 0 (.resident f blocks), idle := some f, idleSlot := some 0 } })).swapTo c f

/-- A restarted cell keeps its planes: a swap to the active plane, with no step, returns it to service (R373, R403). As a home it sends its
layers again (R259, R265). -/
def State.returnCell (s : State) (c : Nat) : State :=
  match (s.cell c).fig.active with
  | none => s.boundary c
  | some g =>
    let homes := s.homesIn g c
    let s0 := if g.places.isEmpty then s else s.shuffle c g
    let s1 := (s0.crossTenants c g g).bindPlane c g
    (s1.onCell c (fun k => { k with ud := k.ud.takePlane g homes })).boundary c

/-- A cell is initialised: at start-up, or at the end of its restart (R364, R367, R373). -/
def execCellInitComplete (t : Nat) (cell : Fin 8) (s : State) : Res :=
  .next (s.run t (fun s =>
    let k := s.cell cell
    if !s.boot.running || s.boot.safe || k.init || k.absent then s
    else
      let s1 := s.onCell cell (fun k => { k with init := true, restart := none })
      if k.restart.isSome then s1.returnCell cell else s1.startFigure cell))

/-- A cell not initialised by 2 s stays in C4 with a FATAL record (R366). -/
def execCellInitTimeout (t : Nat) (cell : Fin 8) (s : State) : Res :=
  .next (s.run t (fun s =>
    let k := s.cell cell
    if !s.boot.running || k.init || k.absent || k.restart.isSome || s.now < s.boot.base + 2000000000 then s
    else
      (s.onCell cell (fun k => { k with absent := true, power := { k.power with state := .c4 } })).err 0
        { cls := clsINFO, sev := 3, unit := 8, obj := cell }))

/-! ## Module reset (R373) -/

/-- The PF through BAR0, or the board management controller (R373, R401). -/
def State.ctlUp (s : State) (who : BitVec 8) : Bool :=
  if who = 0x00 then s.barUp else who = 0x60 && s.mgmtUp && !s.boot.anchorLost

/-- The reset key resets the module; start-up runs again from the release, PWR_GOOD staying high. Other values are discarded. -/
def State.resetKey (s : State) (key : Nat) : State := if key = 0xD1A5 then s.moduleReset.startIslands else s.discard 0x18

def execModuleReset (t : Nat) (who : BitVec 8) (key : BitVec 16) (s : State) : Res :=
  .next (s.run t (fun s => if s.ctlUp who then s.resetKey key.toNat else s))

/-! ## Cell restart (R373, R374, R412) -/

/-- A restart request: discarded while one waits or runs; with drain, admission closes for the groups that hold the cell. -/
def State.askRestart (s : State) (c : Nat) (drain : Bool) : State :=
  if (s.cell c).restart.isSome || !s.cellUp c then s.discard (cellReg c 0x18)
  else
    let s1 := s.onCell c (fun k => { k with restart := some drain })
    if drain then s1.onCells (s1.groupOf c) (fun k => { k with gen := { k.gen with drainClosed := true } }) else s1

def execRestart (t : Nat) (who : BitVec 8) (cell : Fin 8) (s : State) : Res :=
  .next (s.run t (fun s => if s.ctlUp who then s.askRestart cell false else s))

def execRestartDrain (t : Nat) (who : BitVec 8) (cell : Fin 8) (s : State) : Res :=
  .next (s.run t (fun s => if s.ctlUp who then s.askRestart cell true else s))

/-- The fast tier lost: F becomes E with POISON, copies are dropped; the slow tier stays. -/
def TileEnt.restarted (e0 : TileEnt) : TileEnt :=
  let e := e0.caughtUp
  match e.st with
  | .F => { e with st := .E, fast := { Tile.zero with tag := { Tile.zero.tag with poison := true } } }
  | .HC | .HD => { e with st := .H, fast := Tile.zero }
  | .HDX => { e with st := .HX, fast := Tile.zero }
  | _ => e

/-- A core keeps its fences and fault times through a restart (R316, R318); all else is lost. -/
def Core.restarted (x : Core) : Core :=
  { Core.reset with faults := x.faults, fenced := x.fenced, permFence := x.permFence, fenceDue := x.fenceDue, testReq := x.testReq,
                    testing := x.testing, returning := x.returning, returned := x.returned }

/-- A cell as its restart begins (R373, R374): C0 state, fast tier, generation and learning state lost; images, planes, directory, slow tier
and the registers of its block kept. -/
def Cell.restarted (k : Cell) : Cell :=
  { k with
    init := false
    tiers := { k.tiers with tiles := k.tiers.tiles.mapV TileEnt.absent TileEnt.restarted }
    cores := k.cores.mapV Core.reset Core.restarted
    gen := { Gen.reset with
      turnPlan := k.gen.turnPlan, arrivals := k.gen.arrivals, drainClosed := k.gen.drainClosed, reqIndex := k.gen.reqIndex,
      reqData := k.gen.reqData }
    runs := k.runs.mapV TenantRun.reset (fun r => { r with next := none, redeal := true })
    learn := []
    nodes := []
    sums := []
    partWait := []
    ud := { UDie.reset with working := k.ud.working }
    fetches := []
    writes := []
    fig := { k.fig with slots := [], activeSlot := none, idleSlot := none, staging := none }
    power := { k.power with state := .c0, waking := false, share := 0, tooHot := false }
    dcore := 0
    stopCore := 0
    dstate := 0
    debugStop := none }

/-- Versions of a group's tenants are cleared on every cell; the lead's queues wait for its pointer (R374). -/
def Cell.clearVersions (k : Cell) (waits : Bool) : Cell :=
  { k with vers := k.vers.mapV Versions.reset (fun v => { Versions.reset with homeVer := v.homeVer, waitPtr := waits }) }

/-- Every tenant's setup and queues meet the pointer anew (R257, R374). -/
def Cell.awaitPointer (k : Cell) : Cell :=
  (((k.fig.active.map (·.tenants)).getD []).filter (·.gen)).foldl (fun (k : Cell) r => k.onVer r.tenant (fun v => { v with waitPtr := true })) k

/-- A pending swap, and LOADs and STAGEs, that the restart cuts end ABANDONED, each once (R42, R45, R412). -/
def State.cutFigures (s : State) (c : Nat) : State :=
  let s1 := s.abandonSwap c
  ((s1.cell c).fig.cmds).foldl (fun (s : State) x => s.figEnd c x stABANDONED) s1

/-- Pending requests that a restarting lead holds are refused with CLOSED (R374). -/
def State.refusePending (s : State) (c : Nat) : State :=
  ((s.cell c).gen.pend).foldl (fun (s : State) p => s.refuse c p 4 0) s

/-- FETCHes that the restart cuts end with LINK (R262). -/
def State.cutFetches (s : State) (c : Nat) : State :=
  ((s.cell c).fetches).foldl (fun (s : State) f => s.endFetch c f ftLINK) s

/-- A cell's channels are emptied and unbound (R344), and its binding registers stay unlocked until an activation (R30, R47, R403); words
discarded are counted in a COMMAND record. -/
def State.unbindCell (s : State) (c : Nat) : State :=
  let r := (List.range 8).foldl (fun (acc : State × Nat) j =>
    let x := acc.1.emptyChan (8 * c + j)
    (x.1.onCell c (fun k => { k with binds := k.binds.set BindReg.reset j BindReg.reset }), acc.2 + x.2)) (s, 0)
  if r.2 = 0 then r.1 else r.1.err c { cls := clsCOMMAND, sev := 1, unit := 6, detail := r.2 }

/-- A request of a group is admitted and not yet ended with its record written. -/
def State.groupBusy (s : State) (g : List Nat) : Bool := g.any (fun m => (s.cell m).gen.table.any (fun e => e.2.st ≠ .free))

/-- Requests of the group are voided with ADMIN at a seal that runs no operation (R373). -/
def State.adminVoid (s : State) (c : Nat) : State :=
  let m := (s.leadCell c).getD c
  s.sealEmpty c ((((s.cell m).gen.table.filter (fun e => e.2.live)).map (fun e => e.2.tenant)).dedup) vADMIN

/-- The restart itself, at a step boundary with no admitted request left (R373, R374). -/
def State.beginRestart (s : State) (c : Nat) : State :=
  let g := s.groupOf c
  let lead := s.isLead c
  let s1 := ((s.cutFigures c).cutFetches c)
  let s2 := if lead then s1.refusePending c else s1
  let s3 := s2.onCells g (fun k => k.clearVersions false)
  let s4 := if lead then s3.onCells g (fun k => { k with gen := { k.gen with table := [] } }) else s3
  let s5 := g.foldl (fun (s : State) m => if s.isLead m then s.onCell m Cell.awaitPointer else s) s4
  (((s5.unbindCell c).onCell c Cell.restarted).coordinate)

def execCellRestartBegin (t : Nat) (cell : Fin 8) (s : State) : Res :=
  .next (s.run t (fun s =>
    let g := s.groupOf cell
    let k := s.cell cell
    if !s.cellUp cell || g.any (fun m => (s.cell m).step.running) || k.step.running || k.ud.inPass ||
       k.learn.any (fun l => l.2.phase ≠ .idle) then s
    else match k.restart with
      | none => s
      | some drain =>
        let s1 := if drain then s else s.adminVoid cell
        if s1.groupBusy (cell.val :: g) then s1 else s1.beginRestart cell))

end Sys2Proof.Machine
end

