-- ==== Sys2Proof/Machine/Stores.lean ====
section
/-!
DEFINITION. Flash stores, floors, enrolment, start figures and firmware (15_power_clocks_and_startup R365, R367, R375 to R380;
16_security_and_management R384 to R386, R390, R400; 17 R406, R407, R411).
-/

namespace Sys2Proof.Machine

/-! ## The hold-up check (R375 to R377) -/

/-- The store's sectors are erased before its pages are programmed: images and blobs; the others are journal commits, one page program each
(R375, Table 15-5; DEDUCED, log 75). -/
def Store.erases : Store → Bool
  | .fwBundle _ _ => true
  | .persistSet _ b => b.isSome
  | .chain _ _ => true
  | _ => false

/-- The flash operation that the store needs next is an erase. -/
def Flash.eraseNext (f : Flash) (x : Store) : Bool := x.erases && f.sectors ≠ .erased

/-- t_max of the store's next operation, µs (Table 15-5). -/
def Flash.tMax (f : Flash) (x : Store) : Nat := if f.eraseNext x then 1000 else 1200

/-- E ≥ 4 · L_eff · t_max, with t_max in µs, C in µF and V, the lowest VIN less 0.5 %, in µV. -/
def State.holdsUp (s : State) (tmax : Nat) : Bool :=
  let v := 995 * s.supply.vinLow
  s.flash.holdUp ≠ 0 && s.flash.holdUp * 36000000 ^ 2 + 8 * s.effLimit * tmax * 10 ^ 12 ≤ s.flash.holdUp * v ^ 2

/-- A flash operation may start: not while PWR_FAIL_N is asserted, the anchor is lost, another runs, or without usable flash (R20, R377,
R423). -/
def State.mayStore (s : State) : Bool :=
  s.mgmtUp && s.flashUsable && s.supply.pwrGood && !s.supply.failing && !s.boot.anchorLost && s.flash.busy.isNone &&
  s.flash.sectors ≠ .erasing

/-- The flash as the store's next operation begins: its erase, or its program. -/
def Flash.start (f : Flash) (x : Store) (r : List Store) : Flash :=
  if f.eraseNext x then { f with sectors := .erasing, deferred := false }
  else { f with busy := some x, queue := r, deferred := false, sectors := .written }

/-- The first store in order starts its next operation, or is deferred with a STORE record (R375, R376). -/
def State.tryStore (s : State) : State :=
  match s.flash.queue with
  | [] => s
  | x :: r =>
    if !s.mayStore then s
    else if s.holdsUp (s.flash.tMax x) then { s with flash := s.flash.start x r }
    else if s.flash.deferred then s
    else ({ s with flash := { s.flash with deferred := true } } : State).err 0
      { cls := clsSTORE, sev := 1, unit := 8, detail := (s.flash.queue.map Store.bytes).sum }

def execFlashOperation (t : Nat) (s : State) : Res := .next (s.run t (fun s => if s.flash.deferred then s else s.tryStore))

def execFlashDeferRetry (t : Nat) (s : State) : Res := .next (s.run t (fun s => if s.flash.deferred then s.tryStore else s))

/-! ## Firmware (R378 to R380, R400, R406) -/

def fwDONE : Nat := 0
def fwSIGNATURE : Nat := 1
def fwROLLBACK : Nat := 2
def fwSTATE : Nat := 3
def fwLINK : Nat := 4
def fwLENGTH : Nat := 5

/-- A firmware command ends. -/
def State.fwEnd (s : State) (code status : Nat) : State :=
  { s with fw := { s.fw with busy := false, pldm := false, last := code, status := status } }

/-- The slot that the journal does not mark active (R378). -/
def Flash.inactive (f : Flash) : Nat := 1 - f.active

/-- A bundle as its bytes read. -/
def readBundle (bytes : List Byte) : Bundle :=
  let r := Config.bundleRead bytes
  { bytes := bytes, secver := r.2.1, lockstep := r.2.2.1, digest := r.2.2.2 }

/-- A bundle is queued for the inactive slot. -/
def State.storeBundle (s : State) (bytes : List Byte) (pldm : Bool) : State :=
  ({ s with fw := { s.fw with busy := true, pldm := pldm } } : State).storeLater (.fwBundle s.flash.inactive (readBundle bytes))

/-- WRITE (R406): the bundle of FW_LEN bytes is read by DMA. -/
def State.fwWrite (s : State) (dmaOk : Bool) (bundle : List Byte) : State :=
  if s.fw.len = 0 || 33554432 < s.fw.len then s.fwEnd 1 fwLENGTH
  else if !dmaOk || !s.hostUp || bundle.length ≠ s.fw.len then s.fwEnd 1 fwLINK
  else s.storeBundle bundle false

/-- The check of STAGE: signature, then security version against the floor (R378). -/
def State.bundleStatus (s : State) (b : Bundle) : Nat :=
  if !(Config.bundleRead b.bytes).1 then fwSIGNATURE else if b.secver < s.flash.fwFloor.toNat then fwROLLBACK else fwDONE

/-- STAGE (R378): the bundle in the inactive slot goes to the alternate execution memory. -/
def State.fwStage (s : State) : State :=
  match s.flash.bundles.get none s.flash.inactive with
  | none => s.fwEnd 2 fwSTATE
  | some b =>
    let st := s.bundleStatus b
    let s1 := if st = fwDONE then { s with fw := { s.fw with staged := some b } } else s
    s1.fwEnd 2 st

/-- Every running cell changes at its next step boundary (R379). -/
def State.fwCells (s : State) : State :=
  (allCells.filter (fun c => (s.cell c).init)).foldl (fun (s : State) c => (s.onCell c (fun k => { k with fwDue := true })).boundarySoon c) s

/-- SWITCH (R379): the module supervisor changes at once, the cells at their boundaries. -/
def State.fwSwitch (s : State) : State :=
  match s.fw.staged with
  | none => s.fwEnd 3 fwSTATE
  | some b =>
    (({ s with fw := { s.fw with
      former := s.fw.current, current := some b, staged := none, switched := true, running := s.flash.inactive,
      switchT := s.fw.time.toNat } } : State).fwCells).fwEnd 3 fwDONE

/-- COMMIT (R380): one journal commit marks the slot active and raises the floor. -/
def State.fwCommit (s : State) : State :=
  match s.fw.switched, s.fw.current with
  | true, some b => ({ s with fw := { s.fw with busy := true } } : State).storeLater (.fwCommit s.fw.running b.secver)
  | _, _ => s.fwEnd 4 fwSTATE

/-- REVERT (R380): the former bundle returns in the same way. -/
def State.fwRevert (s : State) : State :=
  if !s.fw.switched then s.fwEnd 5 fwSTATE
  else
    (({ s with fw := { s.fw with
      current := s.fw.former, former := none, switched := false, running := s.flash.active } } : State).fwCells).fwEnd 5 fwDONE

/-- A command through FW_CMD or effecter 0x0102 (R401, R406): discarded while FW_BUSY is 1. -/
def State.fwCommand (s : State) (f : State → State) : State := if s.fw.busy then s.discard 0x9C else f s

/-- Who reaches the firmware registers: the PF and the module supervisor (R401). -/
def State.fwUp (s : State) (who : BitVec 8) : Bool := (who = 0x00 || who = 0x40) && s.regUp who

/-- Who may COMMIT and REVERT: also the board's controller (Table 16-9). -/
def State.fwEndUp (s : State) (who : BitVec 8) : Bool := s.fwUp who || (who = 0x60 && s.ctlUp who)

def execFwWrite (t : Nat) (who : BitVec 8) (dmaOk : Bool) (bundle : List Byte) (s : State) : Res :=
  .next (s.run t (fun s => if s.fwUp who then s.fwCommand (fun s => s.fwWrite dmaOk bundle) else s))

def execFwStage (t : Nat) (who : BitVec 8) (s : State) : Res :=
  .next (s.run t (fun s => if s.fwUp who then s.fwCommand State.fwStage else s))

def execFwSwitch (t : Nat) (who : BitVec 8) (s : State) : Res :=
  .next (s.run t (fun s => if s.fwUp who then s.fwCommand State.fwSwitch else s))

def execFwCommit (t : Nat) (who : BitVec 8) (s : State) : Res :=
  .next (s.run t (fun s => if s.fwEndUp who then s.fwCommand State.fwCommit else s))

def execFwRevert (t : Nat) (who : BitVec 8) (s : State) : Res :=
  .next (s.run t (fun s => if s.fwEndUp who then s.fwCommand State.fwRevert else s))

/-- PLDM for Firmware Update (R400): the bundle goes into the inactive slot; in recovery it is verified first (R365). FW_BUSY is set for
the whole length. -/
def execUpdateComponent (t : Nat) (who : BitVec 8) (bundle : List Byte) (s : State) : Res :=
  .next (s.run t (fun s =>
    if who ≠ 0x60 || !s.mgmtUp || s.boot.anchorLost || s.fw.busy then s
    else if bundle.length = 0 || 33554432 < bundle.length then s.fwEnd 1 fwLENGTH
    else if s.boot.recovery && s.bundleStatus (readBundle bundle) ≠ fwDONE then s.fwEnd 2 (s.bundleStatus (readBundle bundle))
    else s.storeBundle bundle true))

/-- ActivateFirmware performs SWITCH, which ends the update (R400). -/
def execActivateFirmware (t : Nat) (who : BitVec 8) (s : State) : Res :=
  .next (s.run t (fun s => if who = 0x60 && s.boot.running && !s.boot.anchorLost && (!s.fw.busy || s.fw.pldm) then s.fwSwitch else s))

/-! ## Floors (R390, R407) -/

/-- Raises of the figure floor and of the rule floor that await their journal commits. -/
def Flash.waiting (f : Flash) : List Store := f.busy.toList ++ f.queue

def Store.figRaise : Store → Option Nat
  | .figFloor v => some v.toNat
  | _ => none

def Store.ruleRaise : Store → Option Nat
  | .ruleFloor v => some v.toNat
  | _ => none

/-- A write of a floor register by the PF or the module supervisor: queued when above the floor and every pending raise, else discarded. -/
def State.raiseFloor (s : State) (fig : Bool) (v : BitVec 32) : State :=
  let now := (if fig then s.flash.figFloor else s.flash.ruleFloor).toNat
  let pend := s.flash.waiting.filterMap (if fig then Store.figRaise else Store.ruleRaise)
  if now < v.toNat && pend.all (fun p => p < v.toNat) then s.storeLater (if fig then .figFloor v else .ruleFloor v)
  else s.discard (if fig then 0x80 else 0x84)

def execFigFloor (t : Nat) (who : BitVec 8) (value : BitVec 32) (s : State) : Res :=
  .next (s.run t (fun s => if (who = 0x00 || who = 0x40) && s.regUp who then s.raiseFloor true value else s))

def execRuleFloor (t : Nat) (who : BitVec 8) (value : BitVec 32) (s : State) : Res :=
  .next (s.run t (fun s => if (who = 0x00 || who = 0x40) && s.regUp who then s.raiseFloor false value else s))

/-- FLOOR_PEND (Table 17-2): bit 3 firmware, bit 2 enrolment, bit 1 rule, bit 0 figure. -/
def Flash.floorPend (f : Flash) : Nat :=
  let b (p : Store → Bool) (n : Nat) : Nat := if f.waiting.any p then n else 0
  b (fun x => match x with | .fwCommit _ _ => true | _ => false) 8 + b (fun x => match x with | .enrolment _ _ _ => true | _ => false) 4 +
  b (fun x => x.ruleRaise.isSome) 2 + b (fun x => x.figRaise.isSome) 1

/-! ## Enrolment (R384, R385, R407) -/

def keyDONE : Nat := 0
def keySIGNATURE : Nat := 1
def keyROLLBACK : Nat := 2
def keyBINDING : Nat := 3
def keyDUPLICATE : Nat := 4
def keyFORMAT : Nat := 5

/-- Public key length of an algorithm (Table 16-2). -/
def pubLen (alg : Nat) : Nat := if alg = 1 then 1312 else if alg = 2 then 2592 else 0

/-- The first `n` bytes `b` of the key record window do not agree with Table 16-2. -/
def recordMalformed (n b : Nat) : Bool :=
  let len := fld b 0x20 2
  let so := align64 (0x40 + len)
  fld b 0 4 ≠ 0x4E455456 || fld b 4 2 ≠ 1 || !(fld b 6 1 = 1 || fld b 6 1 = 2) || 15 < fld b 7 1 || fld b 0xC 2 / 16 ≠ 0 ||
  fld b 0xF 1 ≠ 0 || fld b 0x22 30 ≠ 0 || len ≠ pubLen (fld b 0xE 1) ||
  (if fld b 6 1 = 1 then !(fld b 0xE 1 = 1 || fld b 0xE 1 = 2) else fld b 0xE 1 ≠ 0) || n ≠ so + 48 + sigLen 1

/-- Verification of an enrolment record in the order of R385: its status and, when accepted, its journal commit. -/
def State.readRecord (s : State) (n b : Nat) : Nat × Option Store :=
  let len := fld b 0x20 2
  let pub := bytesOf len (fld b 0x40 len)
  let so := align64 (0x40 + len)
  let slot := fld b 7 1
  let bind := fld b 0x10 8
  let kid := fld b 0x18 8
  let others := s.flash.keys.filter (fun x => x.1 ≠ slot)
  if recordMalformed n b then (keyFORMAT, none)
  else if !manifestSigned b so (sha3 (bytesOf so b)) 1 Config.vendorKey then (keySIGNATURE, none)
  else if fld b 8 4 < s.flash.enrFloor.toNat then (keyROLLBACK, none)
  else if bind ≠ 0 && bind ≠ s.moduleId then (keyBINDING, none)
  else if fld b 6 1 = 1 && kid ≠ (keyIdent pub).toNat then (keyBINDING, none)
  else if fld b 6 1 = 1 && others.any (fun x => x.2.any (fun k => k.keyId.toNat = kid)) then (keyDUPLICATE, none)
  else
    let key : Option OwnerKey := if fld b 6 1 = 1 then
        some { perms := BitVec.ofNat 16 (fld b 0xC 2), alg := fld b 0xE 1, keyId := BitVec.ofNat 64 kid, pub := pub }
      else none
    (keyDONE, some (.enrolment slot key (BitVec.ofNat 32 (fld b 8 4))))

/-- ENROL: the first `len` bytes of the window; a rejected record ends with its status and a COMMAND record. -/
def State.enrol (s : State) (len : Nat) : State :=
  if s.host.keyBusy then s.discard 0xB0
  else
    let r := s.readRecord len (bits (blocksNum s.host.keyWin) 0 (8 * len))
    match r.2 with
    | some x => ({ s with host := { s.host with keyBusy := true } } : State).storeLater x
    | none => ({ s with host := { s.host with keyStatus := r.1 } } : State).err 0
        { cls := clsCOMMAND, code := 1, sev := 1, unit := 8, obj := 1, detail := r.1 }

def execEnrol (t : Nat) (who : BitVec 8) (len : Nat) (s : State) : Res :=
  .next (s.run t (fun s => if s.fwUp who || (who = 0x60 && s.ctlUp who) then s.enrol len else s))

/-! ## Start figures (R367, R411) -/

/-- PERSIST: bit 31 records the figure in slot PSLOT, or clears it; each is a store. -/
def State.persist (s : State) (c : Nat) (v : BitVec 32) : State :=
  let f := (s.cell c).fig
  let slot := v.toNat % 4
  let blob : Option (Option (Nat × SMap Payload)) :=
    if !v.getLsbD 31 then some none
    else match f.slots.get .empty slot with
      | .resident _ blocks => some (some (fld (blocksNum blocks) 0x18 4, blocks))
      | _ => none
  match blob with
  | none => s.discard (cellReg c 0x58)
  | some b =>
    if f.storePend then s.discard (cellReg c 0x58)
    else (s.onCell c (fun k => { k with fig := { k.fig with storePend := true, pslot := slot } })).storeLater (.persistSet c b)

def execPersist (t : Nat) (who : BitVec 8) (cell : Fin 8) (value : BitVec 32) (s : State) : Res :=
  .next (s.run t (fun s => if s.fwUp who then s.persist cell value else s))

/-! ## A store ends (R376, R385, R390) -/

/-- VerifyComplete tells the board's controller the outcome of STAGE (R400); its command code, 0x17, is PRESUMED (log 15). -/
def State.verifyComplete (s : State) : State := s.emit (.mctp 0x60 [0x17, s.fw.status])

/-- The bundle is in its slot: a recovery image resets the module, a PLDM update goes on to STAGE, WRITE ends (R365, R400, R406). -/
def State.bundleStored (s : State) : State :=
  if s.boot.recovery then s.moduleReset.startIslands
  else if s.fw.pldm then
    let s1 := s.fwStage
    (if s1.fw.status = fwDONE then { s1 with fw := { s1.fw with busy := true, pldm := true } } else s1).verifyComplete
  else s.fwEnd 1 fwDONE

/-- What the store makes true. -/
def State.commitStore (s : State) (x : Store) : State :=
  match x with
  | .figFloor v => { s with flash := { s.flash with figFloor := if s.flash.figFloor.toNat < v.toNat then v else s.flash.figFloor } }
  | .ruleFloor v => { s with flash := { s.flash with ruleFloor := if s.flash.ruleFloor.toNat < v.toNat then v else s.flash.ruleFloor } }
  | .enrolment slot key seq =>
    { s with
      flash := { s.flash with
        keys := s.flash.keys.set none slot key
        enrFloor := if s.flash.enrFloor.toNat < seq.toNat then seq else s.flash.enrFloor }
      host := { s.host with keyBusy := false, keyStatus := keyDONE } }
  | .persistSet c b =>
    ({ s with flash := { s.flash with starts := s.flash.starts.set none c b } } : State).onCell c (fun k =>
      { k with fig := { k.fig with persist := b.isSome, storePend := false } })
  | .fwCommit slot v =>
    ({ s with
      flash := { s.flash with
        active := slot
        fwFloor := if s.flash.fwFloor.toNat < v then BitVec.ofNat 32 v else s.flash.fwFloor }
      fw := { s.fw with switched := false, former := none } } : State).fwEnd 4 fwDONE
  | .fwBundle slot b => ({ s with flash := { s.flash with bundles := s.flash.bundles.set none slot (some b) } } : State).bundleStored
  | .permFence c n => { s with flash := { s.flash with fences := (s.flash.fences ++ [128 * c + n]).dedup } }
  | .chain root bytes => { s with flash := { s.flash with chain1 := some (root, bytes) } }

/-- A store that is a journal commit counts in the commit sequence (R390). -/
def Store.journal : Store → Bool
  | .fwBundle _ _ => false
  | _ => true

/-- The operation in progress ends: an erase is marked in the journal, or the store has come true. PWR_FAIL_N does not keep a program from
ending (R377). -/
def execJournalCommitWritten (t : Nat) (s : State) : Res :=
  .next (s.run t (fun s =>
    match s.flash.busy with
    | none =>
      if s.flash.sectors = .erasing && !s.boot.anchorLost then { s with flash := { s.flash with sectors := .erased } } else s
    | some x =>
      if s.boot.anchorLost then s
      else ({ s with flash := { s.flash with
        busy := none, commits := if x.journal then s.flash.commits + 1 else s.flash.commits } } : State).commitStore x))

end Sys2Proof.Machine
end

