-- ==== Sys2Proof/Machine/Control.lean ====
section
/-!
DEFINITION. Registers with rows of their own (17_register_reference R401 to R416; 15 R350, R356; 05 R108), the PLDM effecters (Table 16-9)
and the identity cache (16 R389).
-/

namespace Sys2Proof.Machine

/-! ## Manager role and power limit (R350, R356, R408) -/

/-- MANAGER written 1 with a table identifier makes an unseated module seat 0; writes while seated are discarded. -/
def State.writeManager (s : State) (v : BitVec 32) : State :=
  if s.seating.seated then s.discard 0x28
  else if v.getLsbD 31 && s.seating.tableId ≠ 0 then
    { s with seating := { s.seating with manager := true, seated := true, seat := 0, lastBeat := s.now } }
  else { s with seating := { s.seating with manager := v.getLsbD 31 } }

def execManagerWrite (t : Nat) (who : BitVec 8) (value : BitVec 32) (s : State) : Res :=
  .next (s.run t (fun s => if s.fwUp who then s.writeManager value else s))

/-- Latest deadline of an admitted request: until then a promise of the former limit may stand (R356). -/
def State.lastPromise (s : State) : Nat :=
  allCells.foldl (fun acc c => ((s.cell c).gen.table).foldl (fun acc e => if e.2.live then max acc e.2.deadline else acc) acc) (s.time 0)

/-- POWER_LIMIT takes 1,200 to 3,000 W; the coordinator recomputes the shares, and cells at a boundary take them. -/
def State.writeLimit (s : State) (v : Nat) : State :=
  if v < 1200 || 3000 < v then s.discard 0x40
  else
    let old := s.effLimit
    let s1 := { s with supply := { s.supply with limit := v, inForce := if v < s.supply.limit then s.lastPromise else s.supply.inForce } }
    allCells.foldl (fun (s : State) c => s.boundarySoon c) ((s1.limitNotice old).coordinate)

def execPowerLimit (t : Nat) (who : BitVec 8) (value : BitVec 16) (s : State) : Res :=
  .next (s.run t (fun s => if s.fwEndUp who then s.writeLimit value.toNat else s))

/-! ## Job steps, turn plan, quarantines (R179, R301, R410) -/

/-- A write of JOB_STEP[t]: discarded while the tenant has a current task image on the cell. -/
def State.writeJobStep (s : State) (c t : Nat) (v : BitVec 64) : State :=
  let r := s.setJobStep c t v
  if r.2 then r.1 else s.discard (cellReg c (0x200 + 8 * t))

def execJobStep (t : Nat) (who : BitVec 8) (cell : Fin 8) (tenant : Fin 64) (value : BitVec 64) (s : State) : Res :=
  .next (s.run t (fun s => if s.fwUp who then s.writeJobStep cell tenant value else s))

def execTurnPlan (t : Nat) (who : BitVec 8) (cell : Fin 8) (value : BitVec 64) (s : State) : Res :=
  .next (s.run t (fun s => if s.fwUp who then s.setTurnPlan cell value else s))

def execQuarRelease (t : Nat) (who : BitVec 8) (cell : Fin 8) (ports : BitVec 12) (s : State) : Res :=
  .next (s.run t (fun s => if s.fwUp who then s.quarRelease cell ports.toNat else s))

/-! ## Debug stop (R108, R413) -/

/-- R108 lets an identity stop a core: the PF or the module supervisor, and a core of no tenant or of one whose host function is the PF. -/
def Cell.mayStop (k : Cell) (who : BitVec 8) (n : Nat) : Bool :=
  (who = 0x00 || who = 0x40) && (k.tenantsOf n).all (fun t => k.tenantFn t = 0)

/-- STOP: DSTATE 3 where the request is refused or another core is stopped; else 1 until the core stops. -/
def State.askStop (s : State) (c n : Nat) (who : BitVec 8) : State :=
  s.onCell c (fun k =>
    let k1 := { k with dcore := n }
    if !k.mayStop who n || k.debugStop.any (fun d => d.1 ≠ n) then { k1 with dstate := 3 }
    else match k.debugStop with
      | some d => { k1 with dstate := if d.2 then 2 else 1 }
      | none => { k1 with dstate := 1, debugStop := some (n, false) })

def execStop (t : Nat) (who : BitVec 8) (cell : Fin 8) (core : Fin 128) (s : State) : Res :=
  .next (s.run t (fun s => if s.regUp who && s.cellUp cell then s.askStop cell core who else s))

/-- Sums of element (i, j) after the block steps up to `q` of its block (R79, R95, R96): the PA24 sum of the chunk in progress and the
FP32 chain before its close, or for INT8 no PA24 sum and the INT32 sum. -/
def stepSums (x : Core) (v : OpEnv) (scale : Int) (i j q : Nat) : BitVec 32 × BitVec 32 :=
  let old := if v.op.acc then x.val (v.slotOf v.op.d) v.op.fmtD v.op.n i j else .zero false
  if v.op.fmtA = fINT8 then
    let t := (List.range (min v.op.k (4 * (q + 1)))).foldl (fun (a : Int) k =>
      if stepUsed x v (i / 4) (j / 4) (k / 4) then a + sval 8 (aBits x v i k) * sval 8 (bBits x v k j) else a) (old.at 0)
    (0, BitVec.ofInt 32 t)
  else
    let pa := ((four (q / 4)).filter (fun y => y ≤ q && stepUsed x v (i / 4) (j / 4) y)).foldl (fun z y => paStep x v i j y z) (.zero false)
    let chain := (List.range (q / 4)).foldl (fun a c => fadd a ((paChunk x v i j c).scale (chunkExp x v scale i j c))) old
    (BitVec.ofNat 32 (conv fPA24 pa none).bits, bits32 chain)

/-- Block and block step at which array `a` stands when the core stops: how far it has come no rule fixes, so the place is a free value
among the steps of the array's blocks (log 9); none for an array that holds no block (R79: block b on array b mod 80). -/
def debugPlace (v : OpEnv) (free a : Nat) : Option (Nat × Nat) :=
  let blocks := (v.op.m / 4) * (v.op.n / 4)
  let mine := (blocks + 79 - a) / 80
  let steps := mine * (v.op.k / 4)
  if steps = 0 then none
  else
    let at' := (Config.freeValue (free + a)).toNat % steps
    some (a + 80 * (at' / (v.op.k / 4)), at' % (v.op.k / 4))

/-- The words of array `a` (Table 5-6): 16 PA24 sums, then 16 chains or INT32 sums, in element order. -/
def arrayWords (x : Core) (v : OpEnv) (scale : Int) (free a : Nat) : List (Nat × BitVec 32) :=
  match debugPlace v free a with
  | none => []
  | some (b, q) =>
    let sums := (List.range 16).map (fun e =>
      stepSums x v scale (4 * (b / (v.op.n / 4)) + e / 4) (4 * (b % (v.op.n / 4)) + e % 4) q)
    let l := sums.map (·.1) ++ sums.map (·.2)
    ((l.zipIdx).map (fun w => (32 * a + w.2, w.1))).filter (fun w => w.2 ≠ 0)

/-- The 2,560 words of the window of a core whose matrix operation stopped; zero where the core holds no block in progress. -/
def Cell.debugWords (k : Cell) (c n free : Nat) : SMap (BitVec 32) :=
  let x := k.core n
  match x.engines.get none engMatrix with
  | none => []
  | some op =>
    let y := x.ctx op.ctx
    let f := k.fig.active
    let chain := ((k.threadOf y).map (·.chain)).getD 0
    let v : OpEnv :=
      { cell := c, core := n, ctx := op.ctx, tenant := y.tenant, group := y.group, op := op.oprec, index := 0,
        base := (f.map (fun f => f.chainBase (clusterOf n) chain)).getD 0, span := 0, seed := 0, jobStep := 0, gen := false }
    let scale := k.gradScale y.tenant (x.slot (v.slotOf v.op.d)).tile.tag.ident
    (List.range 80).flatMap (arrayWords x v scale free)

/-- The core stops at the end of its block step and counts as fenced at once (R108, R317); a debug stop makes no fence permanent. -/
def execDebugStopReached (t : Nat) (cell : Fin 8) (s : State) : Res :=
  .next (s.run t (fun s =>
    match (s.cell cell).debugStop with
    | some (n, false) =>
      let x := (s.cell cell).core n
      let s1 := { s with free := s.free + 80 }
      let words := (s.cell cell).debugWords cell n s.free
      let s2 := s1.onCore cell n (fun x => { x with returned := none, window := words })
      let s3 := (s2.fenceNow cell n).onCore cell n (fun y => { y with returned := x.returned })
      s3.onCell cell (fun k => { k with dstate := 2, stopCore := n, debugStop := some (n, true) })
    | _ => s))

/-! ## Request capture, error ring, FATAL (R414, R416) -/

/-- A write of REQ_INDEX captures the entry whole. -/
def State.capture (s : State) (c : Nat) (i : BitVec 14) : State :=
  s.onCell c (fun k => { k with gen := { k.gen with reqIndex := i, reqData := BitVec.ofNat 512 (k.entry i.toNat).bytes } })

def execReqIndex (t : Nat) (who : BitVec 8) (cell : Fin 8) (index : BitVec 14) (s : State) : Res :=
  .next (s.run t (fun s => if s.fwUp who then s.capture cell index else s))

/-- ERR_CONS takes a value at most 65,536 behind ERR_PROD. -/
def State.writeCons (s : State) (c : Nat) (v : BitVec 32) : State :=
  if ((s.cell c).err.prod - v).toNat ≤ 65536 then s.onCell c (fun k => { k with err := { k.err with cons := v } })
  else s.discard (cellReg c 0xC4)

def execErrCons (t : Nat) (who : BitVec 8) (cell : Fin 8) (value : BitVec 32) (s : State) : Res :=
  .next (s.run t (fun s => if s.fwUp who then s.writeCons cell value else s))

/-- FATAL is cleared by writing 1. -/
def State.clearFatal (s : State) (c : Nat) (v : BitVec 32) : State :=
  if v.getLsbD 0 then s.onCell c (fun k => { k with err := { k.err with fatal := false } }) else s

def execFatal (t : Nat) (who : BitVec 8) (cell : Fin 8) (value : BitVec 32) (s : State) : Res :=
  .next (s.run t (fun s => if s.fwUp who then s.clearFatal cell value else s))

/-! ## PLDM effecters (R398, R401, Table 16-9) -/

/-- An effecter writes its register: the limit, the reset key, COMMIT or REVERT by their FW_CMD codes, RESTART with or without DRAIN. -/
def State.effecter (s : State) (n v : Nat) : State :=
  if n = 0x0100 then s.writeLimit v
  else if n = 0x0101 then s.resetKey v
  else if n = 0x0102 then
    if v = 4 then s.fwCommand State.fwCommit else if v = 5 then s.fwCommand State.fwRevert else s
  else if 0x0110 ≤ n && n < 0x0118 then
    if bit v 0 then s.askRestart (n - 0x0110) (bit v 1) else s
  else s

def execPldmEffecter (t : Nat) (who : BitVec 8) (effecter : BitVec 16) (value : Nat) (s : State) : Res :=
  .next (s.run t (fun s => if s.ctlUp who && s.boot.running then s.effecter effecter.toNat value else s))

/-! ## The identity cache (R389) -/

/-- A chain that reaches the vendor root enters its key, 1,024 of them; else the verification that needs it fails with LINK. -/
def execIdentityCacheEntry (t : Nat) (keyId : BitVec 64) (publicKey : List Byte) (chainOk reachable : Bool) (s : State) : Res :=
  .next (s.run t (fun s =>
    if !s.anchorUp || !chainOk || !reachable || keyIdent publicKey ≠ keyId then s
    else
      let l := s.mgmt.idCache.filter (fun x => x.1 ≠ keyId)
      let l := if l.length < 1024 then l else l.drop (l.length - 1023)
      { s with mgmt := { s.mgmt with idCache := l ++ [(keyId, publicKey)] } }))

end Sys2Proof.Machine
end

