-- ==== Sys2Proof/Machine/Security.lean ====
section
/-!
DEFINITION. Attestation and the management transports (16_security_and_management R382, R383, R392 to R397). Response and error codes of
SPDM and command codes of MCTP are PRESUMED from those specifications (log 15).
-/

namespace Sys2Proof.Machine

/-! ## Connections (R392)

A connection is known by 8·cell + path: 0 DOE, 1 MCTP over I3C, 2 MCTP over PCI Express, 3 Korif. Its phase counts the answered requests of
GET_VERSION, GET_CAPABILITIES and NEGOTIATE_ALGORITHMS. -/

/-- A path can carry a request. -/
def State.spdmUp (s : State) (path : Nat) : Bool :=
  if path = 0 || path = 2 then s.barUp
  else if path = 1 then s.anchorUp
  else path = 3 && s.boot.running && !s.boot.safe

def State.spdmOf (s : State) (key : Nat) : Option Spdm := s.mgmt.spdm.find? (fun x => x.path = key)

/-- The connection of a key becomes `x`, in its place. -/
def State.setSpdm (s : State) (x : Spdm) : State :=
  { s with mgmt := { s.mgmt with spdm := s.mgmt.spdm.map (fun y => if y.path = x.path then x else y) } }

def State.endSpdm (s : State) (key : Nat) : State :=
  { s with mgmt := { s.mgmt with spdm := s.mgmt.spdm.filter (fun y => y.path ≠ key) } }

/-- ERROR response codes. -/
def seInvalid : Nat := 0x01
def seBusy : Nat := 0x03
def seUnexpected : Nat := 0x04
def seUnspecified : Nat := 0x05
def seUnsupported : Nat := 0x07
def seLarge : Nat := 0x0F

def State.spdmError (s : State) (path code : Nat) : State := s.emit (.spdm path 0x7F [code])

/-- Bytes of one Korif transfer (R288). -/
def transferSize : Nat := 240

/-- A response: on Korif one longer than the transfer size waits for CHUNK_GET (R392). -/
def State.spdmReply (s : State) (key code : Nat) (l : List Byte) : State :=
  if key % 8 = 3 && transferSize < l.length + 4 then
    match s.spdmOf key with
    | some x => (s.setSpdm { x with reply := l }).spdmError 3 seLarge
    | none => s.spdmError 3 seUnspecified
  else s.emit (.spdm (key % 8) code (l.map BitVec.toNat))

/-- A request on an open connection that has reached `phase`; a C-die without an identity answers Unspecified (R383). -/
def State.onSpdm (s : State) (path : Nat) (cell : Fin 8) (phase : Nat) (f : Nat → Spdm → State → State) : State :=
  let key := 8 * cell.val + path
  if !s.spdmUp path then s
  else if !(s.cell cell).keyOk then s.spdmError path seUnspecified
  else match s.spdmOf key with
    | none => s.spdmError path seUnexpected
    | some x => if x.phase < phase then s.spdmError path seUnexpected else f key x s

/-- Bytes that SPDM itself lays out (log 15). -/
def opaqueReply (code : Nat) (msg : List Byte) : List Byte := (Config.spdmBytes code msg).map (BitVec.ofNat 8)

/-- Byte `n` of a message. -/
def msgByte (msg : List Byte) (n : Nat) : Nat := ((msg[n]?).getD 0).toNat

/-- GET_VERSION opens the connection, or opens it anew: versions 1.2 and 1.3. A fifth connection is answered Busy. -/
def State.openSpdm (s : State) (path : Nat) (cell : Fin 8) : State :=
  let key := 8 * cell.val + path
  let x : Spdm := { path := key, phase := 1, session := false, mutualA := false, chunks := [], reply := [] }
  if !s.spdmUp path then s
  else if !(s.cell cell).keyOk then s.spdmError path seUnspecified
  else if (s.spdmOf key).isSome then (s.setSpdm x).spdmReply key 0x04 [0x12, 0x13]
  else if 4 ≤ s.mgmt.spdm.length then s.spdmError path seBusy
  else ({ s with mgmt := { s.mgmt with spdm := s.mgmt.spdm ++ [x] } } : State).spdmReply key 0x04 [0x12, 0x13]

def execGetVersion (t : Nat) (path : Nat) (cell : Fin 8) (_msg : List Byte) (s : State) : Res :=
  .next (s.run t (fun s => s.openSpdm path cell))

/-- The connection reaches a phase and answers. -/
def State.advance (s : State) (key : Nat) (x : Spdm) (phase code : Nat) (msg : List Byte) : State :=
  (s.setSpdm { x with phase := max x.phase phase }).spdmReply key code (opaqueReply code msg)

def execGetCapabilities (t : Nat) (path : Nat) (cell : Fin 8) (msg : List Byte) (s : State) : Res :=
  .next (s.run t (fun s => s.onSpdm path cell 1 (fun key x s => s.advance key x 2 0x61 msg)))

def execNegotiateAlgorithms (t : Nat) (path : Nat) (cell : Fin 8) (msg : List Byte) (s : State) : Res :=
  .next (s.run t (fun s => s.onSpdm path cell 2 (fun key x s => s.advance key x 3 0x63 msg)))

/-! ## Certificates (R382, R392) -/

/-- The chain in a certificate slot: 0 the C-die's vendor chain, 1 the owner chain. -/
def State.chainOf (s : State) (cell slot : Nat) : Option (List Byte) :=
  if slot = 0 then some (Config.certChain cell) else if slot = 1 then s.flash.chain1.map (·.2) else none

def digestBytes (d : BitVec 256) : List Byte := bytesOf 32 d.toNat

def execGetDigests (t : Nat) (path : Nat) (cell : Fin 8) (_msg : List Byte) (s : State) : Res :=
  .next (s.run t (fun s => s.onSpdm path cell 3 (fun key _ s =>
    s.spdmReply key 0x01 (([0, 1].filterMap (s.chainOf cell)).flatMap (fun c => digestBytes (sha3 c))))))

/-- A part of a chain: slot in byte 2, offset and length in bytes 4 to 7. -/
def execGetCertificate (t : Nat) (path : Nat) (cell : Fin 8) (msg : List Byte) (s : State) : Res :=
  .next (s.run t (fun s => s.onSpdm path cell 3 (fun key _ s =>
    match s.chainOf cell (msgByte msg 2 % 16) with
    | none => s.spdmError path seInvalid
    | some c =>
      let off := msgByte msg 4 + 256 * msgByte msg 5
      let n := msgByte msg 6 + 256 * msgByte msg 7
      let part := (c.drop off).take n
      s.spdmReply key 0x02 (bytesOf 2 part.length ++ bytesOf 2 (c.length - off - part.length) ++ part))))

/-- CHALLENGE: answered with the C-die's signature (R382, Table 16-1). -/
def execChallenge (t : Nat) (path : Nat) (cell : Fin 8) (msg : List Byte) (s : State) : Res :=
  .next (s.run t (fun s => s.onSpdm path cell 3 (fun key _ s => s.spdmReply key 0x03 (Config.mldsaSign cell (sha3 msg)))))

/-- An owner key that may anchor SPDM slot 1 chains (Table 16-2). -/
def OwnerKey.anchors (k : OwnerKey) : Bool := k.perms.getLsbD 3

def State.tableKeys (s : State) : List OwnerKey := (s.flash.keys.filterMap (·.2)).filter OwnerKey.anchors

/-- SET_CERTIFICATE: over DOE only, an owner chain anchored in a key with TABLE (Table 16-5). -/
def execSetCertificate (t : Nat) (path : Nat) (cell : Fin 8) (chain : List Byte) (root : BitVec 64) (s : State) : Res :=
  .next (s.run t (fun s => s.onSpdm path cell 3 (fun key _ s =>
    if path ≠ 0 then s.spdmError path seUnsupported
    else if !s.tableKeys.any (fun k => k.keyId = root) then s.spdmError path seInvalid
    else (s.storeLater (.chain root chain)).spdmReply key 0x6E [])))

/-! ## Measurements (R394, Table 16-6) -/

def figureBytes (f : Option Figure) : List Byte :=
  match f with
  | none => List.replicate 44 0
  | some g => digestBytes g.digest ++ bytesOf 8 g.ident.toNat ++ bytesOf 4 g.secver

/-- Key identifier and permissions of an owner slot, zeros for an empty one. -/
def State.slotBytes (s : State) (n : Nat) : List Byte :=
  match s.flash.keys.get none n with
  | none => List.replicate 10 0
  | some k => bytesOf 8 k.keyId.toNat ++ bytesOf 2 k.perms.toNat

/-- The floors in the order of Table 16-4, then the commit sequence. -/
def Flash.floorBytes (f : Flash) : List Byte :=
  bytesOf 4 f.fwFloor.toNat ++ bytesOf 4 f.figFloor.toNat ++ bytesOf 4 f.ruleFloor.toNat ++ bytesOf 4 f.enrFloor.toNat ++
  bytesOf 8 f.commits.toNat

/-- One measurement; none for an index that Table 16-6 does not list. -/
def State.measurement (s : State) (i : Nat) : Option (List Byte) :=
  if i = 0x01 then some (bytesOf 4 Config.romVersion.toNat ++ digestBytes Config.romDigest)
  else if i = 0x02 then some (match s.fw.current with
    | none => List.replicate 36 0
    | some b => digestBytes b.digest ++ bytesOf 4 b.secver)
  else if i = 0x03 then some ((s.fw.staged.map (fun b => digestBytes b.digest)).getD (List.replicate 32 0))
  else if i = 0x04 then some (digestBytes (sha3 ((List.range 16).flatMap s.slotBytes)))
  else if i = 0x05 then some s.flash.floorBytes
  else if 0x10 ≤ i && i < 0x18 then some (figureBytes (s.cell (i - 0x10)).fig.active)
  else if 0x18 ≤ i && i < 0x20 then some (figureBytes (s.cell (i - 0x18)).fig.idle)
  else if i = 0x20 then some (bytesOf 8 s.seating.tableId.toNat ++ bytesOf 2 s.seating.seat ++ bytesOf 1 s.seating.level)
  else none

def measureIndices : List Nat := [0x01, 0x02, 0x03, 0x04, 0x05] ++ (List.range 16).map (· + 0x10) ++ [0x20]

/-- A measurement block: index, length, value. -/
def State.measureBlock (s : State) (i : Nat) : List Byte :=
  match s.measurement i with
  | none => []
  | some l => bytesOf 1 i ++ bytesOf 2 l.length ++ l

/-- The operation in byte 3 asks for the count (0), every measurement (0xFF) or one; all are taken at one instant. -/
def execGetMeasurements (t : Nat) (path : Nat) (cell : Fin 8) (msg : List Byte) (s : State) : Res :=
  .next (s.run t (fun s => s.onSpdm path cell 3 (fun key _ s =>
    let op := msgByte msg 3
    if op = 0 then s.spdmReply key 0x60 (bytesOf 1 measureIndices.length)
    else if op = 0xFF then s.spdmReply key 0x60 (measureIndices.flatMap s.measureBlock)
    else if (s.measurement op).isNone then s.spdmError path seInvalid
    else s.spdmReply key 0x60 (s.measureBlock op))))

/-! ## Sessions, on Korif only (Table 16-5, R393) -/

/-- A request that Korif alone carries. -/
def State.onKorif (s : State) (path : Nat) (cell : Fin 8) (f : Nat → Spdm → State → State) : State :=
  s.onSpdm path cell 3 (fun key x s => if path ≠ 3 then s.spdmError path seUnsupported else f key x s)

/-- The same within a session. -/
def State.inSession (s : State) (path : Nat) (cell : Fin 8) (f : Nat → Spdm → State → State) : State :=
  s.onKorif path cell (fun key x s => if x.session then f key x s else s.spdmError path seUnexpected)

def execKeyExchange (t : Nat) (path : Nat) (cell : Fin 8) (msg : List Byte) (s : State) : Res :=
  .next (s.run t (fun s => s.onKorif path cell (fun key x s =>
    (s.setSpdm { x with session := true, mutualA := false }).spdmReply key 0x64 (opaqueReply 0x64 msg))))

/-- A Manager's chain authenticates it (R393): anchored in an owner key with TABLE where the seat holds one, else reaching the vendor root. -/
def State.anchored (s : State) (verified : Bool) (root : BitVec 64) : Bool :=
  verified && (s.tableKeys.isEmpty || s.tableKeys.any (fun k => k.keyId = root))

def execFinish (t : Nat) (path : Nat) (cell : Fin 8) (msg : List Byte) (verified : Bool) (keyId : BitVec 64) (s : State) : Res :=
  .next (s.run t (fun s => s.inSession path cell (fun key x s =>
    if s.anchored verified keyId then (s.setSpdm { x with mutualA := true }).spdmReply key 0x65 (opaqueReply 0x65 msg)
    else (s.setSpdm { x with session := false, mutualA := false }).spdmError path seUnspecified)))

def execGetEncapsulatedRequest (t : Nat) (path : Nat) (cell : Fin 8) (msg : List Byte) (s : State) : Res :=
  .next (s.run t (fun s => s.inSession path cell (fun key _ s => s.spdmReply key 0x6A (opaqueReply 0x6A msg))))

def execDeliverEncapsulatedResponse (t : Nat) (path : Nat) (cell : Fin 8) (msg : List Byte) (s : State) : Res :=
  .next (s.run t (fun s => s.inSession path cell (fun key _ s => s.spdmReply key 0x6B (opaqueReply 0x6B msg))))

/-- END_SESSION ends the session and the connection. -/
def execEndSession (t : Nat) (path : Nat) (cell : Fin 8) (_msg : List Byte) (s : State) : Res :=
  .next (s.run t (fun s => s.inSession path cell (fun key _ s => (s.spdmReply key 0x6C []).endSpdm key)))

/-! ## Long messages (Table 16-5) -/

/-- One chunk of a long request: bit 0 of byte 2 marks the last, the sequence is in bytes 4 and 5; the first has a longer header. -/
def execChunkSend (t : Nat) (path : Nat) (cell : Fin 8) (msg : List Byte) (s : State) : Res :=
  .next (s.run t (fun s => s.onSpdm path cell 3 (fun key x s =>
    let first := msgByte msg 4 = 0 && msgByte msg 5 = 0
    let l := (if first then [] else x.chunks) ++ msg.drop (if first then 16 else 12)
    let last := msgByte msg 2 % 2 = 1
    (s.setSpdm { x with chunks := if last then [] else l }).spdmReply key 0x05 (if last then opaqueReply 0x05 l else []))))

/-- The next chunk of a long response. -/
def execChunkGet (t : Nat) (path : Nat) (cell : Fin 8) (_msg : List Byte) (s : State) : Res :=
  .next (s.run t (fun s => s.onSpdm path cell 3 (fun key x s =>
    if x.reply.isEmpty then s.spdmError path seUnexpected
    else (s.setSpdm { x with reply := x.reply.drop (transferSize - 16) }).spdmReply key 0x06 (x.reply.take (transferSize - 16)))))

/-! ## MCTP and I3C (R395, R396) -/

/-- A management binding answers: I3C from 20 ms on, the PF once configuration space is live. -/
def State.bindingUp (s : State) (i3c : Bool) : Bool := if i3c then s.mgmtUp else s.barUp

/-- Set and Get Endpoint ID, Get Endpoint UUID, version, message type and vendor message support; others answer an unsupported command. -/
def State.mctpControl (s : State) (i3c : Bool) (command eid : BitVec 8) : State :=
  let who := if i3c then 0x60 else 0x00
  let now := if i3c then s.mgmt.eidI3c else s.mgmt.eidPcie
  let bad : Bool := eid = 0 || eid = 0xFF
  if command = 0x01 then
    if bad then s.emit (.mctp who [1, 2])
    else (if i3c then { s with mgmt := { s.mgmt with eidI3c := eid } } else { s with mgmt := { s.mgmt with eidPcie := eid } }).emit
      (.mctp who [1, 0, eid.toNat])
  else if command = 0x02 then s.emit (.mctp who [2, 0, now.toNat])
  else if command = 0x03 then s.emit (.mctp who (3 :: 0 :: Config.spdmBytes 3 []))
  else if command = 0x04 then s.emit (.mctp who (4 :: 0 :: Config.spdmBytes 4 []))
  else if command = 0x05 then s.emit (.mctp who [5, 0, 4, 0x00, 0x01, 0x05, 0x7E])
  else if command = 0x06 then s.emit (.mctp who (6 :: 0 :: Config.spdmBytes 6 []))
  else s.emit (.mctp who [command.toNat, 5])

def execMctpControl (t : Nat) (i3c : Bool) (command : BitVec 8) (eid : BitVec 8) (s : State) : Res :=
  .next (s.run t (fun s => if s.bindingUp i3c then s.mctpControl i3c command eid else s))

/-- ENTDAA gives the target its dynamic address. -/
def execEntdaa (t : Nat) (addr : BitVec 7) (s : State) : Res :=
  .next (s.run t (fun s => if s.mgmtUp && s.mgmt.i3cDyn.isNone then { s with mgmt := { s.mgmt with i3cDyn := some addr } } else s))

/-- SETDASA gives it by the static address of the straps, where that has an effect (R423). -/
def execSetdasa (t : Nat) (static dynamic : BitVec 7) (s : State) : Res :=
  .next (s.run t (fun s =>
    if s.mgmtUp && static = s.boot.i3cAddr && !i3cReserved static && s.mgmt.i3cDyn.isNone then { s with mgmt := { s.mgmt with i3cDyn := some dynamic } } else s))

/-- GETSTATUS: the module status in bits 15:8; before 20 ms the target does not acknowledge (R364). No rule gives bits 7:0: a free value. -/
def execGetstatus (t : Nat) (s : State) : Res :=
  .next (s.run t (fun s =>
    if s.mgmtUp then
      let r := s.takeFree
      r.2.emit (.readData 0x60 (256 * s.status + r.1.toNat % 256))
    else s))

/-! ## Vendor-defined mailbox messages (R397, Table 16-8) -/

/-- The direction away from the board's controller on a channel bound to it. -/
def State.bmcSide (s : State) (who : BitVec 8) (chan : Nat) : Option Bool := if who = 0x60 then s.chanSide chan 0x60 else none

/-- A mailbox message reaches the module. -/
def State.vendorUp (s : State) (who : BitVec 8) : Bool := s.ctlUp who && s.boot.running && !s.boot.safe

/-- The answer of a channel not bound to 0x60. -/
def State.vendorDenied (s : State) (who : BitVec 8) (chan : Nat) : State := (s.strangerAccess chan who).emit (.mctp who.toNat [1])

/-- SEND queues its words only if all fit. -/
def State.vendorSend (s : State) (who : BitVec 8) (chan : Nat) (doorbell : Bool) (words : List (BitVec 32)) : State :=
  match s.bmcSide who chan with
  | none => s.vendorDenied who chan
  | some a =>
    if 16 < ((s.chan chan).dir a).queue.length + words.length then s.emit (.mctp who.toNat [2])
    else
      let s1 := words.foldl (fun (s : State) w => s.sendWord chan 0x60 w) s
      (if doorbell then s1.sendBell chan 0x60 1 else s1).emit (.mctp who.toNat [0])

/-- A word count that Table 16-8 does not allow is answered DENIED. -/
def execVendorSend (t : Nat) (who : BitVec 8) (chan : Fin 64) (count : Nat) (doorbell : Bool) (words : List (BitVec 32)) (s : State) : Res :=
  .next (s.run t (fun s =>
    if !s.vendorUp who then s
    else if count = 0 || 16 < count || words.length ≠ count then s.emit (.mctp who.toNat [1])
    else s.vendorSend who chan doorbell words))

/-- RECEIVE: up to `n` of the oldest words leave the queue. -/
def State.takeWords : Nat → State → Nat → List (BitVec 32) → State × List (BitVec 32)
  | 0, s, _, l => (s, l)
  | n + 1, s, chan, l => let r := s.recvWord chan 0x60; State.takeWords n r.2 chan (l ++ [r.1])

def State.vendorReceive (s : State) (who : BitVec 8) (chan n : Nat) : State :=
  match s.bmcSide who chan with
  | none => s.vendorDenied who chan
  | some a =>
    let r := State.takeWords (min n ((s.chan chan).dir (!a)).queue.length) s chan []
    r.1.emit (.mctp who.toNat (0 :: r.2.length :: r.2.map BitVec.toNat))

def execVendorReceive (t : Nat) (who : BitVec 8) (chan : Fin 64) (count : Nat) (s : State) : Res :=
  .next (s.run t (fun s =>
    if !s.vendorUp who then s
    else if count = 0 || 16 < count then s.emit (.mctp who.toNat [1])
    else s.vendorReceive who chan count))

/-- WINDOW: the words at 0x008 to 0x01C, RECV_DATA among them, which leaves its queue as through the window (R397). -/
def State.vendorWindow (s : State) (who : BitVec 8) (chan : Nat) : State :=
  match s.bmcSide who chan with
  | none => s.vendorDenied who chan
  | some _ =>
    let r := s.recvWord chan 0x60
    r.2.emit (.mctp who.toNat [0, s.windowWord chan 0x60 0x008, r.1.toNat, r.2.windowWord chan 0x60 0x010, r.2.windowWord chan 0x60 0x014,
      r.2.windowWord chan 0x60 0x018, r.2.windowWord chan 0x60 0x01C])

def execVendorWindow (t : Nat) (who : BitVec 8) (chan : Fin 64) (s : State) : Res :=
  .next (s.run t (fun s => if s.vendorUp who then s.vendorWindow who chan else s))

end Sys2Proof.Machine
end

