-- ==== Sys2Proof/Machine/Registers.lean ====
section
/-!
DEFINITION. Reads and writes of registers through BAR0 and the VFs' BARs (17_register_reference Tables 17-2 and 17-3, R401 to R416; 14
Tables 14-4, 14-5, 14-9, R337). Function 0 is the PF, 1 to 63 the VFs. A register with a row of its own has one operation, which both
commands use.
-/

namespace Sys2Proof.Machine

/-! ## Where registers lie (R337, Tables 14-4, 17-2, 17-3) -/

/-- Cell and offset within its block, of a BAR0 offset in the cell blocks. -/
def cellBlock (off : Nat) : Option (Nat × Nat) :=
  if 0x100000 ≤ off && off < 0x900000 then some (off / 0x100000 - 1, off % 0x100000) else none

/-- Offset within the layout of Table 14-5 of a function's ring registers, MSI-X table and pending bits. -/
def ringBlock (fn off : Nat) : Option Nat :=
  if fn = 0 then (if 0x80000 ≤ off && off < 0x82000 then some (off - 0x80000) else none)
  else if off < 0x2000 then some off else none

/-- Channel and window offset: in the mailbox block for the PF, at 0x4_0000 for a VF. -/
def windowBlock (fn off : Nat) : Option (Nat × Nat) :=
  let base := if fn = 0 then 0x1000000 else 0x40000
  if base ≤ off && off < base + 0x40000 then some ((off - base) / 0x1000, (off - base) % 0x1000) else none

/-- Base of the 64-bit register that holds the 32-bit word at `off`, if one does. -/
def wide (fn off : Nat) : Option Nat :=
  let b := off / 8 * 8
  if fn ≠ 0 then none
  else match cellBlock b with
    | some (_, o) => if [0x10, 0x20, 0x48, 0x50, 0x90].contains o || (0x200 ≤ o && o < 0x400) then some b else none
    | none => if [0x10, 0x20, 0x30, 0x48, 0x60, 0x90, 0xA0].contains b then some b else none

/-! ## Values (Tables 17-2, 17-3) -/

/-- A bit at a position. -/
def at1 (b : Bool) (n : Nat) : Nat := if b then 2 ^ n else 0

def UMode.num : UMode → Nat
  | .start => 0
  | .run => 1
  | .test => 2
  | .recover => 3

/-- 64-bit registers of the global block. -/
def State.global64 (s : State) (o : Nat) : Nat :=
  if o = 0x10 then s.time 0
  else if o = 0x20 then s.seating.tableId.toNat
  else if o = 0x30 then s.host.bar2.toNat * 2 ^ 37
  else if o = 0x48 then s.supply.inForce
  else if o = 0x60 then s.host.figCond.toNat
  else if o = 0x90 then s.fw.src.toNat / 4096 * 4096
  else if o = 0xA0 then s.fw.time.toNat
  else 0

/-- 64-bit registers of a cell block. -/
def State.cell64 (s : State) (c o : Nat) : Nat :=
  let k := s.cell c
  if o = 0x10 then k.step.number
  else if o = 0x20 then k.gen.turnPlan.toNat
  else if o = 0x48 then (k.fig.active.map (·.ident.toNat)).getD 0
  else if o = 0x50 then (k.fig.idle.map (·.ident.toNat)).getD 0
  else if o = 0x90 then k.tiers.sweep
  else if 0x200 ≤ o && o < 0x400 then (k.run ((o - 0x200) / 8)).jobStep.toNat
  else 0

/-- The whole value of a 64-bit register. -/
def State.wideValue (s : State) (b : Nat) : Nat :=
  match cellBlock b with
  | some (c, o) => s.cell64 c o
  | none => s.global64 b

/-- Registers of the first 0x100 bytes of the global block, 32 bits each. -/
def State.global32 (s : State) (o : Nat) : Nat :=
  let readies := (allCells.map (fun c => at1 (s.cell c).init c)).sum
  let fatals := (allCells.map (fun c => at1 (s.cell c).err.fatal c)).sum
  if o = 0x00 then 0x0840 * 2 ^ 16 + 0x03 * 2 ^ 8 + 0x03
  else if o = 0x04 then s.boot.i3cAddr.toNat * 2 ^ 8 + s.boot.layout.toNat * 2 ^ 4 + s.boot.boardId.toNat
  else if o = 0x08 then readies * 2 ^ 8 + s.status
  else if o = 0x0C then at1 s.boot.safe 31 + at1 s.anyDoubt 30 + at1 s.host.dmaStop 29 + fatals
  else if o = 0x28 then
    at1 s.seating.manager 31 + at1 s.seating.seated 30 + at1 s.seating.orphaned 29 + s.seating.seat * 2 ^ 16 + s.seating.level
  else if o = 0x40 then s.supply.limit
  else if o = 0x44 then s.effLimit
  else if o = 0x50 then s.supply.iin * 2 ^ 16 + s.supply.vin
  else if o = 0x54 then s.supply.inPower
  else if o = 0x6C then s.host.loadLen
  else if o = 0x70 then at1 s.host.figDrop 0
  else if o = 0x80 then s.flash.figFloor.toNat
  else if o = 0x84 then s.flash.ruleFloor.toNat
  else if o = 0x88 then s.flash.floorPend
  else if o = 0x98 then s.fw.len
  else if o = 0xA8 then
    at1 s.fw.busy 31 + s.fw.status * 2 ^ 16 + s.fw.last * 2 ^ 8 + at1 s.fw.switched 2 + at1 s.fw.staged.isSome 1 + s.fw.running
  else if o = 0xB4 then
    at1 s.host.keyBusy 31 + s.host.keyStatus * 2 ^ 16 + ((List.range 16).map (fun n => at1 (s.flash.keys.get none n).isSome n)).sum
  else 0

/-- A port's register. -/
def State.portReg (s : State) (c p : Nat) : Nat :=
  let q := (s.cell c).port p
  let left := match q.quarUntil with
    | none => 0
    | some u => min 0xFFFF ((u - s.now + 999999999) / 1000000000)
  at1 q.usable 31 + at1 q.quarUntil.isSome 30 + at1 (q.held s.now) 29 + q.rate * 2 ^ 24 + min 255 (q.series s.now) * 2 ^ 16 + left

/-- Version registers of a tenant (R254, R374; Table 17-3). -/
def State.versionReg (s : State) (c t o : Nat) : Nat :=
  let v := (s.cell c).ver t
  if o = 0 then v.retained.toNat * 2 ^ 16 + v.current.toNat
  else if o = 4 then at1 (s.isLead c && (((s.cell c).tenantRec t).map (·.gen)).getD false) 2 + at1 v.valid 1 + at1 v.retLive 0
  else if o = 8 then v.curPins.toNat
  else v.retPins.toNat

/-- CELL_STATUS. -/
def State.cellStatus (s : State) (c : Nat) : Nat :=
  let k := s.cell c
  let count (p : Core → Bool) : Nat := (k.cores.filter (fun x => p x.2)).length
  at1 k.init 31 + at1 k.restart.isSome 30 + at1 k.beyondReserve 29 + at1 k.fig.active.isSome 28 + k.power.state.num * 2 ^ 24 +
  k.ud.mode.num * 2 ^ 20 + count (·.fenced) * 2 ^ 8 + count (·.testing)

/-- A binding register. -/
def State.bindReg (s : State) (n : Nat) : Nat :=
  let b := s.binding n
  at1 b.valid 31 + at1 b.locked 30 + b.idB.toNat * 2 ^ 8 + b.idA.toNat

/-- FIG_STATUS's word and SLOT_STATE's. -/
def FigState.statusReg (f : FigState) : Nat :=
  f.seq.toNat * 2 ^ 24 + f.lastCode.toNat * 2 ^ 16 + f.lastStatus.toNat * 2 ^ 8 + f.lastSlot

def FigState.slotReg (f : FigState) : Nat :=
  at1 f.arm.isSome 31 + at1 f.staging.isSome 30 + at1 f.idle.isSome 29 + ((List.range 4).map (fun n => f.slotState n * 4 ^ n)).sum

/-- Registers of a cell block, 32 bits each. -/
def State.cell32 (s : State) (c o : Nat) : Nat :=
  let k := s.cell c
  if o = 0x00 then s.cellStatus c
  else if o = 0x04 then k.rated2 / 2 * 2 ^ 16 + k.power.share
  else if o = 0x08 then k.cap
  else if o = 0x0C then k.power.hotDie * 2 ^ 8 + k.power.temp
  else if o = 0x40 then k.fig.statusReg
  else if o = 0x44 then k.fig.slotReg
  else if o = 0x58 then at1 k.fig.persist 31 + at1 k.fig.storePend 30 + k.fig.pslot
  else if 0x60 ≤ o && o < 0x80 then s.bindReg (8 * c + (o - 0x60) / 4)
  else if o = 0x80 then k.zeroVar.toNat
  else if o = 0x84 then k.routeOvf.toNat
  else if o = 0x88 then k.tiers.eccFast.toNat
  else if o = 0x8C then k.tiers.eccSlow.toNat
  else if o = 0xC0 then k.err.prod.toNat
  else if o = 0xC4 then k.err.cons.toNat
  else if o = 0xC8 then k.err.lost.toNat
  else if o = 0xCC then at1 (s.linkDoubt c) 1 + at1 k.err.fatal 0
  else if o = 0x100 then k.dcore
  else if o = 0x104 then k.stopCore * 2 ^ 8 + k.dstate
  else if 0x400 ≤ o && o < 0x430 then s.portReg c ((o - 0x400) / 4)
  else if o = 0x500 then k.gen.reqIndex.toNat
  else if 0x540 ≤ o && o < 0x580 then k.gen.reqData.fld (o - 0x540) 4
  else if 0x600 ≤ o && o < 0xA00 then s.versionReg c ((o - 0x600) / 16) (o % 16)
  else if 0x8000 ≤ o && o < 0xA800 then (if k.dstate = 2 then ((k.core k.stopCore).window.get 0 ((o - 0x8000) / 4)).toNat else 0)
  else 0

/-- Ring registers of a function (Table 14-5). -/
def State.ringReg (s : State) (n o : Nat) : Nat :=
  let h := s.fn n
  if o < 0x100 then
    if o = 0x00 then h.cqBase.toNat % 2 ^ 32
    else if o = 0x04 then h.cqBase.toNat / 2 ^ 32
    else if o = 0x08 then at1 h.cqEn 31 + h.cqSize
    else if o = 0x0C then h.cqHead
    else if o = 0x10 then h.cqTail
    else if o = 0x18 then h.shadow.toNat % 2 ^ 32
    else if o = 0x1C then h.shadow.toNat / 2 ^ 32
    else if o = 0x20 then at1 h.ringErr 1 + at1 (!h.recs.isEmpty) 0
    else if o = 0x24 then n
    else 0
  else if o < 0x200 then
    let c := (o - 0x100) / 0x20
    let r := h.ring c
    let x := o % 0x20
    if x = 0x00 then r.base.toNat % 2 ^ 32
    else if x = 0x04 then r.base.toNat / 2 ^ 32
    else if x = 0x08 then at1 r.en 31 + r.size
    else if x = 0x0C then r.tail
    else if x = 0x10 then r.head
    else if x = 0x14 then at1 r.badTail 1 + at1 (s.stall n c) 0
    else 0
  else if 0x1000 ≤ o && o < (if n = 0 then 0x1040 else 0x1030) then (h.msix.get 0 ((o - 0x1000) / 4)).toNat
  else if o = 0x1800 then h.pba.toNat
  else 0

/-- Error record ring: the word of the record that lies there, zero where none was written (R416). -/
def State.errWord (s : State) (off : Nat) : Nat :=
  let c := off / 0x200000
  let slot := off % 0x200000 / 32
  match (s.cell c).err.recs.find? (fun r => r.seq.toNat % 65536 = slot) with
  | none => 0
  | some r => fld r.bytes (off % 32) 4

/-- The 32-bit word a function reads at an offset, but for words of 64-bit registers and RECV_DATA. -/
def State.readWord (s : State) (fn off : Nat) : Nat :=
  match ringBlock fn off, windowBlock fn off, (if fn = 0 then cellBlock off else none) with
  | some o, _, _ => s.ringReg fn o
  | _, some w, _ => if s.mayWindow (BitVec.ofNat 8 fn) then s.windowWord w.1 (BitVec.ofNat 8 fn) w.2 else 0
  | _, _, some k => s.cell32 k.1 k.2
  | _, _, _ =>
    if fn ≠ 0 then 0
    else if off < 0x100 then s.global32 off
    else if off < 0x200 then s.host.ansTime.get 100 ((off - 0x100) / 4)
    else if 0x2000 ≤ off && off < 0x4000 then fld (blocksNum s.host.keyWin) (off - 0x2000) 4
    else if 0x2000000 ≤ off && off < 0x3000000 then s.errWord (off - 0x2000000)
    else 0

/-! ## Writes -/

/-- A figure of 32-bit words of a 64-bit value. -/
def withLow (v : BitVec 64) (w : BitVec 32) : BitVec 64 := BitVec.ofNat 64 (v.toNat / 2 ^ 32 * 2 ^ 32 + w.toNat)
def withHigh (v : BitVec 64) (w : BitVec 32) : BitVec 64 := BitVec.ofNat 64 (v.toNat % 2 ^ 32 + w.toNat * 2 ^ 32)

/-- A write of the PF that its register's rule discards (R401); the rings of a VF have no such record. -/
def State.discardOf (s : State) (fn off : Nat) : State := if fn = 0 then s.discard off else s

/-- An MSI-X table word; a vector unmasked with its message pending is sent. -/
def State.writeMsix (s : State) (n i : Nat) (w : BitVec 32) : State :=
  let s1 := s.onFn n (fun h => { h with msix := h.msix.set 0 i w })
  let v := i / 4
  if i % 4 = 3 && !w.getLsbD 0 && (s.fn n).pba.getLsbD v then
    (s1.onFn n (fun h => { h with pba := h.pba &&& ~~~(1#4 <<< v) })).msix n v
  else s1

/-- Ring registers written (Table 14-5, R338, R339). -/
def State.writeRing (s : State) (n o : Nat) (w : BitVec 32) : State :=
  let h := s.fn n
  if h.flr then s
  else if o < 0x100 then
    if o = 0x00 then if h.cqEn then s.discardOf n (0x80000 + o) else s.onFn n (fun h => { h with cqBase := withLow h.cqBase (w >>> 12 <<< 12) })
    else if o = 0x04 then if h.cqEn then s.discardOf n (0x80000 + o) else s.onFn n (fun h => { h with cqBase := withHigh h.cqBase w })
    else if o = 0x08 then s.ringControl n 8 w.toNat
    else if o = 0x0C then s.onFn n (fun h => { h with cqHead := w.toNat % 65536 })
    else if o = 0x18 then s.onFn n (fun h => { h with shadow := withLow h.shadow (w >>> 2 <<< 2) })
    else if o = 0x1C then s.onFn n (fun h => { h with shadow := withHigh h.shadow w })
    else if o = 0x20 then if w.getLsbD 1 then s.onFn n (fun h => { h with ringErr := false }) else s
    else s
  else if o < 0x200 then
    let c := (o - 0x100) / 0x20
    let r := h.ring c
    let x := o % 0x20
    if x = 0x00 then
      if r.en then s.discardOf n (0x80000 + o) else s.onFn n (fun h => h.onRing c (fun r => { r with base := withLow r.base (w >>> 12 <<< 12) }))
    else if x = 0x04 then
      if r.en then s.discardOf n (0x80000 + o) else s.onFn n (fun h => h.onRing c (fun r => { r with base := withHigh r.base w }))
    else if x = 0x08 then s.ringControl n c w.toNat
    else if x = 0x0C then s.writeTail n c (w.toNat % 65536)
    else if x = 0x14 then if w.getLsbD 1 then s.onFn n (fun h => h.onRing c (fun r => { r with badTail := false })) else s
    else s
  else if 0x1000 ≤ o && o < (if n = 0 then 0x1040 else 0x1030) then s.writeMsix n ((o - 0x1000) / 4) w
  else s

/-- A channel window written (Table 14-9). -/
def State.writeWindow (s : State) (who : BitVec 8) (n o : Nat) (w : BitVec 32) : State :=
  if !s.mayWindow who then s
  else if o = 0x000 then s.sendWord n who w
  else if o = 0x004 then s.sendBell n who w
  else if o = 0x008 then s.sendClear n who w
  else if o = 0x010 then s.recvClear n who w
  else s

/-- `n` bytes of a value, lowest first, into a window of 4 KiB blocks. -/
def fillBytes (m : SMap Payload) (off : Nat) : List Byte → SMap Payload
  | [] => m
  | b :: r => fillBytes (m.set 0 (off / 4096) (setByte (m.get 0 (off / 4096)) (off % 4096) b)) (off + 1) r

/-- The key record window takes a word unless KEY_BUSY is 1 (R407). -/
def State.writeKey (s : State) (off : Nat) (w : BitVec 32) : State :=
  if s.host.keyBusy then s.discard off
  else { s with host := { s.host with keyWin := fillBytes s.host.keyWin (off - 0x2000) (bytesOf 4 w.toNat) } }

/-- A LOAD copies from the window (R42). -/
def State.windowBusy (s : State) : Bool :=
  allCells.any (fun c => (s.cell c).fig.slots.any (fun x => match x.2 with
    | .loading _ (some _) _ => true
    | _ => false))

/-- The figure load window takes a write of any size; what reaches beyond its end is dropped (R405). While a LOAD copies, a write is
discarded and recorded as one of the window's (R42, R401). -/
def State.writeLoadWindow (s : State) (off size : Nat) (v : BitVec 64) : State :=
  if s.windowBusy then s.discard 0x3000000
  else
    let n := min size (0x1000000 - off)
    { s with host := { s.host with window := fillBytes s.host.window off (bytesOf n v.toNat) } }

/-- ANSWER_TIMEOUT[t]: 1 to 60,000 ms. -/
def State.writeTimeout (s : State) (t : Nat) (w : BitVec 32) : State :=
  let v := w.toNat % 65536
  if v = 0 || 60000 < v then s.discard (0x100 + 4 * t)
  else { s with host := { s.host with ansTime := s.host.ansTime.set 100 t v } }

/-- WRITE begun by a register write (R406): whether the DMA ends well and the bytes it reads from FW_SRC on are the host's, and free
(log 110). The command FW_WRITE gives them. -/
def State.fwWriteFree (s : State) : State :=
  let (v, s1) := s.takeFree
  s1.fwWrite (v.getLsbD 0) ((List.range s.fw.len).map (fun i => Config.hostByte (s.fw.src.toNat + i) s.free))

/-- FW_CMD; a code outside the table does nothing. -/
def State.writeFwCmd (s : State) (code : Nat) : State :=
  if code = 1 then s.fwCommand State.fwWriteFree
  else if code = 2 then s.fwCommand State.fwStage
  else if code = 3 then s.fwCommand State.fwSwitch
  else if code = 4 then s.fwCommand State.fwCommit
  else if code = 5 then s.fwCommand State.fwRevert
  else s

/-- 32-bit registers of the global block written by the PF. -/
def State.writeGlobal (s : State) (o : Nat) (w : BitVec 32) : State :=
  let v := w.toNat
  if o = 0x18 then s.resetKey (v % 65536)
  else if o = 0x28 then s.writeManager w
  else if o = 0x40 then s.writeLimit (v % 65536)
  else if o = 0x68 then s.figCommand 0x00 (w.extractLsb' 24 8) (v % 256) (bits v 16 2) s.host.figCond
  else if o = 0x6C then { s with host := { s.host with loadLen := v % 2 ^ 25 } }
  else if o = 0x70 then if w.getLsbD 0 then { s with host := { s.host with figDrop := false } } else s
  else if o = 0x80 then s.raiseFloor true w
  else if o = 0x84 then s.raiseFloor false w
  else if o = 0x98 then { s with fw := { s.fw with len := v % 2 ^ 26 } }
  else if o = 0x9C then s.writeFwCmd (v % 256)
  else if o = 0xB0 then if v % 256 = 1 then s.enrol (v / 65536) else s
  else s

/-- 32-bit registers of a cell block written by the PF. -/
def State.writeCell (s : State) (c o : Nat) (w : BitVec 32) : State :=
  let v := w.toNat
  if o = 0x18 then if w.getLsbD 0 then s.askRestart c (w.getLsbD 1) else s
  else if o = 0x58 then s.persist c w
  else if 0x60 ≤ o && o < 0x80 then s.writeBind 0x00 (8 * c + (o - 0x60) / 4) w
  else if o = 0xC4 then s.writeCons c w
  else if o = 0xCC then s.clearFatal c w
  else if o = 0x100 then
    if w.getLsbD 31 && s.cellUp c then s.askStop c (v % 128) 0x00 else s.onCell c (fun k => { k with dcore := v % 128 })
  else if o = 0x440 then s.quarRelease c (v % 4096)
  else if o = 0x500 then s.capture c (w.setWidth 14)
  else s

/-- A 64-bit register takes a value whole (R402). -/
def State.writeWide (s : State) (b : Nat) (v : BitVec 64) : State :=
  match cellBlock b with
  | some (c, o) =>
    if o = 0x20 then s.setTurnPlan c v
    else if 0x200 ≤ o && o < 0x400 then s.writeJobStep c ((o - 0x200) / 8) v
    else s
  | none =>
    if b = 0x20 then
      if s.seating.seated then s.discard 0x20 else { s with seating := { s.seating with tableId := v } }
    else if b = 0x30 then { s with host := { s.host with bar2 := v.extractLsb' 37 7 } }
    else if b = 0x60 then { s with host := { s.host with figCond := v } }
    else if b = 0x90 then { s with fw := { s.fw with src := v >>> 12 <<< 12 } }
    else if b = 0xA0 then { s with fw := { s.fw with time := v } }
    else s

/-- A 32-bit write of a 64-bit register: the low word is held, the high word completes it (R402). -/
def State.writeHalf (s : State) (b : Nat) (high : Bool) (w : BitVec 32) : State :=
  if high then
    let low := (s.host.lowHeld.get none b).getD (BitVec.ofNat 32 (s.wideValue b))
    ({ s with host := { s.host with lowHeld := s.host.lowHeld.set none b none } } : State).writeWide b (w ++ low)
  else { s with host := { s.host with lowHeld := s.host.lowHeld.set none b (some w) } }

/-- The aligned 32-bit word at an offset is written. -/
def State.writeWord (s : State) (fn off : Nat) (w : BitVec 32) : State :=
  match wide fn off with
  | some b => s.writeHalf b (off ≠ b) w
  | none =>
    match ringBlock fn off, windowBlock fn off, (if fn = 0 then cellBlock off else none) with
    | some o, _, _ => s.writeRing fn o w
    | _, some x, _ => s.writeWindow (BitVec.ofNat 8 fn) x.1 x.2 w
    | _, _, some k => s.writeCell k.1 k.2 w
    | _, _, _ =>
      if fn ≠ 0 then s
      else if off < 0x100 then s.writeGlobal off w
      else if off < 0x200 then s.writeTimeout ((off - 0x100) / 4) w
      else if 0x2000 ≤ off && off < 0x4000 then s.writeKey off w
      else s

/-- An access of another size or alignment: counted in a COMMAND record at most once a second of the function (R337). -/
def State.badSize (s : State) (fn off : Nat) : State :=
  let due := match (s.fn fn).lastBad with
    | none => true
    | some t => t + 1000000000 ≤ s.now
  if due then
    (s.onFn fn (fun h => { h with lastBad := some s.now })).err 0 { cls := clsCOMMAND, sev := 1, unit := 7, detail := off }
  else s

/-- The function's registers answer. -/
def State.fnUp (s : State) (fn : Nat) : Bool := s.barUp && s.fnOn fn && !(s.fn fn).flr

def State.writeReg (s : State) (fn off size : Nat) (v : BitVec 64) : State :=
  if fn = 0 && 0x3000000 ≤ off && off < 0x4000000 then s.writeLoadWindow (off - 0x3000000) (min size 8) v
  else if size = 4 && off % 4 = 0 then s.writeWord fn off (v.setWidth 32)
  else if size = 8 && wide fn off = some off then
    ({ s with host := { s.host with lowHeld := s.host.lowHeld.set none off none } } : State).writeWide off v
  else s.badSize fn off

def execRegisterWrite (t : Nat) (fn : Fin 64) (off : Nat) (size : Nat) (value : BitVec 64) (s : State) : Res :=
  .next (s.run t (fun s => if s.fnUp fn then s.writeReg fn off size value else s))

/-! ## Reads -/

/-- A 32-bit read of a 64-bit register: the low word latches the high word for its next read (R402). -/
def State.readHalf (s : State) (b : Nat) (high : Bool) : Nat × State :=
  let v := s.wideValue b % 2 ^ 64
  if high then
    (((s.host.highHeld.get none b).map BitVec.toNat).getD (v / 2 ^ 32),
      { s with host := { s.host with highHeld := s.host.highHeld.set none b none } })
  else
    (v % 2 ^ 32, { s with host := { s.host with highHeld := s.host.highHeld.set none b (some (BitVec.ofNat 32 (v / 2 ^ 32))) } })

/-- The aligned 32-bit word at an offset is read; a read of RECV_DATA removes its word. -/
def State.readAt (s : State) (fn off : Nat) : Nat × State :=
  match wide fn off with
  | some b => s.readHalf b (off ≠ b)
  | none =>
    match windowBlock fn off with
    | some x =>
      if x.2 = 0x00C && s.mayWindow (BitVec.ofNat 8 fn) then
        let r := s.recvWord x.1 (BitVec.ofNat 8 fn)
        (r.1.toNat, r.2)
      else (s.readWord fn off, s)
    | none => (s.readWord fn off, s)

def State.readReg (s : State) (fn off size : Nat) : Nat × State :=
  if fn = 0 && 0x3000000 ≤ off && off < 0x4000000 then (0, s)
  else if size = 4 && off % 4 = 0 then s.readAt fn off
  else if size = 8 && wide fn off = some off then (s.wideValue off % 2 ^ 64, s)
  else (0, s.badSize fn off)

def execRegisterRead (t : Nat) (fn : Fin 64) (off : Nat) (size : Nat) (s : State) : Res :=
  .next (s.run t (fun s =>
    if s.fnUp fn then
      let r := s.readReg fn off size
      r.2.emit (.readData fn.val r.1)
    else s))

end Sys2Proof.Machine
end

