-- ==== Sys2Proof/Machine/Dispatch.lean ====
section
/-! DEFINITION. One arm per command: each is one direct call of its meaning. -/

namespace Sys2Proof.Machine

def exec (i : Instr) (s : State) : Host.Outcome State Fault Refusal :=
  match i with
  | .load t who mask slot => Sys2Proof.Machine.execLoad t who mask slot s
  | .loadVerifyDone t cell slot delivered => Sys2Proof.Machine.execLoadVerifyDone t cell slot delivered s
  | .stage t who mask slot => Sys2Proof.Machine.execStage t who mask slot s
  | .stagingComplete t cell => Sys2Proof.Machine.execStagingComplete t cell s
  | .arm t who mask cond => Sys2Proof.Machine.execArm t who mask cond s
  | .disarm t who mask => Sys2Proof.Machine.execDisarm t who mask s
  | .drop t who mask slot => Sys2Proof.Machine.execDrop t who mask slot s
  | .planeSwap t cell checkOk => Sys2Proof.Machine.execPlaneSwap t cell checkOk s
  | .bindingRegisterWrite t who chan value => Sys2Proof.Machine.execBindingRegisterWrite t who chan value s
  | .loadImage t cell src e => Sys2Proof.Machine.execLoadImage t cell src e s
  | .stepBegin t cell => Sys2Proof.Machine.execStepBegin t cell s
  | .product t cell core => Sys2Proof.Machine.execProduct t cell core s
  | .row t cell core rep => Sys2Proof.Machine.execRow t cell core rep s
  | .route t cell core rep => Sys2Proof.Machine.execRoute t cell core rep s
  | .sample t cell core lanes => Sys2Proof.Machine.execSample t cell core lanes s
  | .mask t cell core rep => Sys2Proof.Machine.execMask t cell core rep s
  | .move t cell core => Sys2Proof.Machine.execMove t cell core s
  | .reduce t cell core => Sys2Proof.Machine.execReduce t cell core s
  | .update t cell core => Sys2Proof.Machine.execUpdate t cell core s
  | .sync t cell core => Sys2Proof.Machine.execSync t cell core s
  | .element t cell core => Sys2Proof.Machine.execElement t cell core s
  | .operationComplete t cell core engine bad => Sys2Proof.Machine.execOperationComplete t cell core engine bad s
  | .tileRedo t cell core tile same passes => Sys2Proof.Machine.execTileRedo t cell core tile same passes s
  | .syncMessage t index => Sys2Proof.Machine.execSyncMessage t index s
  | .syncRetry t => Sys2Proof.Machine.execSyncRetry t s
  | .stepWatchdog t cell => Sys2Proof.Machine.execStepWatchdog t cell s
  | .alloc t cell src e => Sys2Proof.Machine.execAlloc t cell src e s
  | .ready t cell src e => Sys2Proof.Machine.execReady t cell src e s
  | .free t cell src e => Sys2Proof.Machine.execFree t cell src e s
  | .bar2Write t who off bytes => Sys2Proof.Machine.execBar2Write t who off bytes s
  | .bar2Read t who off n => Sys2Proof.Machine.execBar2Read t who off n s
  | .migration t cell n => Sys2Proof.Machine.execMigration t cell n s
  | .patrolScrub t cell hits sweepDone => Sys2Proof.Machine.execPatrolScrub t cell hits sweepDone s
  | .sweepOverdue t cell => Sys2Proof.Machine.execSweepOverdue t cell s
  | .generationSetup t cell src e => Sys2Proof.Machine.execGenerationSetup t cell src e s
  | .request t cell src e => Sys2Proof.Machine.execRequest t cell src e s
  | .admissionRound t cell => Sys2Proof.Machine.execAdmissionRound t cell s
  | .cancel t cell src e => Sys2Proof.Machine.execCancel t cell src e s
  | .generationSeal t cell => Sys2Proof.Machine.execGenerationSeal t cell s
  | .recordWritten t cell entry => Sys2Proof.Machine.execRecordWritten t cell entry s
  | .learningStepBegin t tenant => Sys2Proof.Machine.execLearningStepBegin t tenant s
  | .reducePart t cell port f => Sys2Proof.Machine.execReducePart t cell port f s
  | .ratioPass t cell tenant => Sys2Proof.Machine.execRatioPass t cell tenant s
  | .sealReport t cell tenant => Sys2Proof.Machine.execSealReport t cell tenant s
  | .sealDecision t tenant => Sys2Proof.Machine.execSealDecision t tenant s
  | .applyPass t cell tenant faults => Sys2Proof.Machine.execApplyPass t cell tenant faults s
  | .sealComplete t cell tenant => Sys2Proof.Machine.execSealComplete t cell tenant s
  | .answer t cell src e => Sys2Proof.Machine.execAnswer t cell src e s
  | .answerTimeout t tenant => Sys2Proof.Machine.execAnswerTimeout t tenant s
  | .bind t cell src e => Sys2Proof.Machine.execBind t cell src e s
  | .ruleLoad t cell src e => Sys2Proof.Machine.execRuleLoad t cell src e s
  | .mode t cell src e => Sys2Proof.Machine.execMode t cell src e s
  | .snapshot t cell src e => Sys2Proof.Machine.execSnapshot t cell src e s
  | .snapshotTransfer t cell tenant linkOk => Sys2Proof.Machine.execSnapshotTransfer t cell tenant linkOk s
  | .repair t cell src e => Sys2Proof.Machine.execRepair t cell src e s
  | .version t cell src e => Sys2Proof.Machine.execVersion t cell src e s
  | .pushHoldBegin t cell tenant => Sys2Proof.Machine.execPushHoldBegin t cell tenant s
  | .shuffleComplete t cell tenant => Sys2Proof.Machine.execShuffleComplete t cell tenant s
  | .warming t cell tenant => Sys2Proof.Machine.execWarming t cell tenant s
  | .warmingComplete t cell tenant => Sys2Proof.Machine.execWarmingComplete t cell tenant s
  | .pointerSwitch t cell tenant => Sys2Proof.Machine.execPointerSwitch t cell tenant s
  | .laggingWriteback t cell tenant n => Sys2Proof.Machine.execLaggingWriteback t cell tenant n s
  | .fetch t cell src e => Sys2Proof.Machine.execFetch t cell src e s
  | .fetchComplete t cell linkOk shard => Sys2Proof.Machine.execFetchComplete t cell linkOk shard s
  | .portTrain t cell port offered trained => Sys2Proof.Machine.execPortTrain t cell port offered trained s
  | .portRetrain t cell port => Sys2Proof.Machine.execPortRetrain t cell port s
  | .quarantineEnd t cell port => Sys2Proof.Machine.execQuarantineEnd t cell port s
  | .tileFrame t cell port f => Sys2Proof.Machine.execTileFrame t cell port f s
  | .readRequest t cell port f => Sys2Proof.Machine.execReadRequest t cell port f s
  | .syncFrame t cell port f => Sys2Proof.Machine.execSyncFrame t cell port f s
  | .syncOverflowRetry t cell => Sys2Proof.Machine.execSyncOverflowRetry t cell s
  | .mailFrame t cell port f => Sys2Proof.Machine.execMailFrame t cell port f s
  | .routeUnit t cell who e => Sys2Proof.Machine.execRouteUnit t cell who e s
  | .presence t cell port f => Sys2Proof.Machine.execPresence t cell port f s
  | .presenceBeacon t cell port => Sys2Proof.Machine.execPresenceBeacon t cell port s
  | .offer t cell port f authentic => Sys2Proof.Machine.execOffer t cell port f authentic s
  | .refuse t cell port f => Sys2Proof.Machine.execRefuse t cell port f s
  | .leave t cell port f => Sys2Proof.Machine.execLeave t cell port f s
  | .level t cell port f => Sys2Proof.Machine.execLevel t cell port f s
  | .hold t cell port f => Sys2Proof.Machine.execHold t cell port f s
  | .holdOffEnd t cell port => Sys2Proof.Machine.execHoldOffEnd t cell port s
  | .creditReturn t cell port f => Sys2Proof.Machine.execCreditReturn t cell port f s
  | .creditReturnTick t cell port => Sys2Proof.Machine.execCreditReturnTick t cell port s
  | .creditGrant t cell port f => Sys2Proof.Machine.execCreditGrant t cell port f s
  | .voidFrame t cell port f => Sys2Proof.Machine.execVoidFrame t cell port f s
  | .frameForward t cell port f => Sys2Proof.Machine.execFrameForward t cell port f s
  | .heartbeat t cell port f => Sys2Proof.Machine.execHeartbeat t cell port f s
  | .orphanTimeout t => Sys2Proof.Machine.execOrphanTimeout t s
  | .timeSyncTick t cell => Sys2Proof.Machine.execTimeSyncTick t cell s
  | .timeSync t cell port f => Sys2Proof.Machine.execTimeSync t cell port f s
  | .delayRequest t cell port f => Sys2Proof.Machine.execDelayRequest t cell port f s
  | .delayResponse t cell port f => Sys2Proof.Machine.execDelayResponse t cell port f s
  | .discoveryAccept t => Sys2Proof.Machine.execDiscoveryAccept t s
  | .hostAnchorLoss t => Sys2Proof.Machine.execHostAnchorLoss t s
  | .syncWireFail t cell port => Sys2Proof.Machine.execSyncWireFail t cell port s
  | .coreFence t cell core => Sys2Proof.Machine.execCoreFence t cell core s
  | .test t cell src e => Sys2Proof.Machine.execTest t cell src e s
  | .testRound t cell => Sys2Proof.Machine.execTestRound t cell s
  | .fieldTestComplete t cell unit passed => Sys2Proof.Machine.execFieldTestComplete t cell unit passed s
  | .refetch t cell src e => Sys2Proof.Machine.execRefetch t cell src e s
  | .perstN t level => Sys2Proof.Machine.execPerstN t level s
  | .hostLinkReset t how => Sys2Proof.Machine.execHostLinkReset t how s
  | .hostPathReturn t => Sys2Proof.Machine.execHostPathReturn t s
  | .vfFlr t vf => Sys2Proof.Machine.execVfFlr t vf s
  | .pfFlr t => Sys2Proof.Machine.execPfFlr t s
  | .sqTail t fn ring value => Sys2Proof.Machine.execSqTail t fn ring value s
  | .ringEnable t fn ring value => Sys2Proof.Machine.execRingEnable t fn ring value s
  | .ringFetch t ready ok e => Sys2Proof.Machine.execRingFetch t ready ok e s
  | .completionWrite t fn => Sys2Proof.Machine.execCompletionWrite t fn s
  | .run t cell src e => Sys2Proof.Machine.execRun t cell src e s
  | .write t cell src e => Sys2Proof.Machine.execWrite t cell src e s
  | .mailbox t cell src e => Sys2Proof.Machine.execMailbox t cell src e s
  | .sendData t who chan w => Sys2Proof.Machine.execSendData t who chan w s
  | .sendDb t who chan w => Sys2Proof.Machine.execSendDb t who chan w s
  | .recvData t who chan => Sys2Proof.Machine.execRecvData t who chan s
  | .recvPend t who chan w => Sys2Proof.Machine.execRecvPend t who chan w s
  | .mailboxEntryTake t chan toB => Sys2Proof.Machine.execMailboxEntryTake t chan toB s
  | .ptmRequest t master => Sys2Proof.Machine.execPtmRequest t master s
  | .vinFault t mv => Sys2Proof.Machine.execVinFault t mv s
  | .thermalSample t cell dies => Sys2Proof.Machine.execThermalSample t cell dies s
  | .thermalCeilingTick t cell => Sys2Proof.Machine.execThermalCeilingTick t cell s
  | .aoclkLoss t => Sys2Proof.Machine.execAoclkLoss t s
  | .refclkLoss t => Sys2Proof.Machine.execRefclkLoss t s
  | .cellWake t cell => Sys2Proof.Machine.execCellWake t cell s
  | .cellWakeComplete t cell => Sys2Proof.Machine.execCellWakeComplete t cell s
  | .pwrGoodRise t i3cAddr flashLayout boardId => Sys2Proof.Machine.execPwrGoodRise t i3cAddr flashLayout boardId s
  | .supervisorImageVerify t activeOk otherOk => Sys2Proof.Machine.execSupervisorImageVerify t activeOk otherOk s
  | .hostLinkTrained t configLive => Sys2Proof.Machine.execHostLinkTrained t configLive s
  | .cellInitComplete t cell => Sys2Proof.Machine.execCellInitComplete t cell s
  | .cellInitTimeout t cell => Sys2Proof.Machine.execCellInitTimeout t cell s
  | .pwrFailN t level => Sys2Proof.Machine.execPwrFailN t level s
  | .pwrFailDeassert t => Sys2Proof.Machine.execPwrFailDeassert t s
  | .pwrGoodFall t => Sys2Proof.Machine.execPwrGoodFall t s
  | .haltNAssert t => Sys2Proof.Machine.execHaltNAssert t s
  | .moduleReset t who key => Sys2Proof.Machine.execModuleReset t who key s
  | .restart t who cell => Sys2Proof.Machine.execRestart t who cell s
  | .restartDrain t who cell => Sys2Proof.Machine.execRestartDrain t who cell s
  | .cellRestartBegin t cell => Sys2Proof.Machine.execCellRestartBegin t cell s
  | .flashOperation t => Sys2Proof.Machine.execFlashOperation t s
  | .flashDeferRetry t => Sys2Proof.Machine.execFlashDeferRetry t s
  | .fwWrite t who dmaOk bundle => Sys2Proof.Machine.execFwWrite t who dmaOk bundle s
  | .fwStage t who => Sys2Proof.Machine.execFwStage t who s
  | .fwSwitch t who => Sys2Proof.Machine.execFwSwitch t who s
  | .fwCommit t who => Sys2Proof.Machine.execFwCommit t who s
  | .fwRevert t who => Sys2Proof.Machine.execFwRevert t who s
  | .enrol t who len => Sys2Proof.Machine.execEnrol t who len s
  | .getVersion t path cell msg => Sys2Proof.Machine.execGetVersion t path cell msg s
  | .getCapabilities t path cell msg => Sys2Proof.Machine.execGetCapabilities t path cell msg s
  | .negotiateAlgorithms t path cell msg => Sys2Proof.Machine.execNegotiateAlgorithms t path cell msg s
  | .getDigests t path cell msg => Sys2Proof.Machine.execGetDigests t path cell msg s
  | .getCertificate t path cell msg => Sys2Proof.Machine.execGetCertificate t path cell msg s
  | .challenge t path cell msg => Sys2Proof.Machine.execChallenge t path cell msg s
  | .getMeasurements t path cell msg => Sys2Proof.Machine.execGetMeasurements t path cell msg s
  | .keyExchange t path cell msg => Sys2Proof.Machine.execKeyExchange t path cell msg s
  | .finish t path cell msg verified keyId => Sys2Proof.Machine.execFinish t path cell msg verified keyId s
  | .getEncapsulatedRequest t path cell msg => Sys2Proof.Machine.execGetEncapsulatedRequest t path cell msg s
  | .deliverEncapsulatedResponse t path cell msg => Sys2Proof.Machine.execDeliverEncapsulatedResponse t path cell msg s
  | .endSession t path cell msg => Sys2Proof.Machine.execEndSession t path cell msg s
  | .chunkSend t path cell msg => Sys2Proof.Machine.execChunkSend t path cell msg s
  | .chunkGet t path cell msg => Sys2Proof.Machine.execChunkGet t path cell msg s
  | .setCertificate t path cell chain root => Sys2Proof.Machine.execSetCertificate t path cell chain root s
  | .mctpControl t i3c command eid => Sys2Proof.Machine.execMctpControl t i3c command eid s
  | .pldmEffecter t who effecter value => Sys2Proof.Machine.execPldmEffecter t who effecter value s
  | .updateComponent t who bundle => Sys2Proof.Machine.execUpdateComponent t who bundle s
  | .activateFirmware t who => Sys2Proof.Machine.execActivateFirmware t who s
  | .vendorSend t who chan count doorbell words => Sys2Proof.Machine.execVendorSend t who chan count doorbell words s
  | .vendorReceive t who chan count => Sys2Proof.Machine.execVendorReceive t who chan count s
  | .vendorWindow t who chan => Sys2Proof.Machine.execVendorWindow t who chan s
  | .entdaa t addr => Sys2Proof.Machine.execEntdaa t addr s
  | .setdasa t static dynamic => Sys2Proof.Machine.execSetdasa t static dynamic s
  | .getstatus t => Sys2Proof.Machine.execGetstatus t s
  | .register t cell src e => Sys2Proof.Machine.execRegister t cell src e s
  | .managerWrite t who value => Sys2Proof.Machine.execManagerWrite t who value s
  | .powerLimit t who value => Sys2Proof.Machine.execPowerLimit t who value s
  | .figFloor t who value => Sys2Proof.Machine.execFigFloor t who value s
  | .ruleFloor t who value => Sys2Proof.Machine.execRuleFloor t who value s
  | .jobStep t who cell tenant value => Sys2Proof.Machine.execJobStep t who cell tenant value s
  | .turnPlan t who cell value => Sys2Proof.Machine.execTurnPlan t who cell value s
  | .quarRelease t who cell ports => Sys2Proof.Machine.execQuarRelease t who cell ports s
  | .persist t who cell value => Sys2Proof.Machine.execPersist t who cell value s
  | .stop t who cell core => Sys2Proof.Machine.execStop t who cell core s
  | .debugStopReached t cell => Sys2Proof.Machine.execDebugStopReached t cell s
  | .reqIndex t who cell index => Sys2Proof.Machine.execReqIndex t who cell index s
  | .errCons t who cell value => Sys2Proof.Machine.execErrCons t who cell value s
  | .fatal t who cell value => Sys2Proof.Machine.execFatal t who cell value s
  | .registerWrite t fn off size value => Sys2Proof.Machine.execRegisterWrite t fn off size value s
  | .journalCommitWritten t => Sys2Proof.Machine.execJournalCommitWritten t s
  | .haltNDeassert t => Sys2Proof.Machine.execHaltNDeassert t s
  | .undervoltageLockout t mv => Sys2Proof.Machine.execUndervoltageLockout t mv s
  | .undervoltageLockoutRelease t mv => Sys2Proof.Machine.execUndervoltageLockoutRelease t mv s
  | .pwrGoodLowReset t => Sys2Proof.Machine.execPwrGoodLowReset t s
  | .aoclkPresent t => Sys2Proof.Machine.execAoclkPresent t s
  | .flrComplete t fn => Sys2Proof.Machine.execFlrComplete t fn s
  | .sealReportStepLimit t tenant cell => Sys2Proof.Machine.execSealReportStepLimit t tenant cell s
  | .registerRead t fn off size => Sys2Proof.Machine.execRegisterRead t fn off size s
  | .identityCacheEntry t keyId publicKey chainOk reachable => Sys2Proof.Machine.execIdentityCacheEntry t keyId publicKey chainOk reachable s

end Sys2Proof.Machine
end

