-- ==== Sys2Proof/Safety.lean ====
section
/-!
DEFINITION. What every run of the block keeps, whatever it is sent: the tile memory of each cell and the tables of the module are in
their one canonical form, so that equal contents are equal data (R140, R149).
-/

namespace Sys2Proof.Machine

/-- The canonical form of a cell's tile memory: tile addresses strictly rising, and no listed tile equal to what an unlisted address
holds. -/
def Memory.wf (m : SMap TileEnt) : Bool := SMap.wf TileEnt.absent m

/-- Every table of the module is canonical, and so is the tile memory of every cell. -/
structure Inv (s : State) : Prop where
  cells  : SMap.wf Cell.reset s.cells = true
  fns    : SMap.wf HostFn.reset s.fns = true
  chans  : SMap.wf Chan.reset s.chans = true
  coords : SMap.wf Coord.reset s.coords = true
  mem    : ∀ c, Memory.wf (s.cell c).tiers.tiles = true

/-- What a command may do to the frame of a run: the queue and the local time stay, and canonical tables stay canonical. -/
structure Keeps (s s' : State) : Prop where
  pending : s'.pending = s.pending
  now     : s'.now = s.now
  inv     : Inv s → Inv s'

/-- `s'` is `s` but for what the module reports and sends meanwhile: messages and frames that leave, the queues, credits and counts of the
switch ports that frames go through and the sequence numbers they take, error rings, pending vectors, and the times of event messages
and error units (R278, R328, R329, R342, R399). Everything else, and with it every register and all of memory, is the same. -/
structure Reports (s s' : State) : Prop where
  pending  : s'.pending = s.pending
  now      : s'.now = s.now
  free     : s'.free = s.free
  supply   : s'.supply = s.supply
  boot     : s'.boot = s.boot
  flash    : s'.flash = s.flash
  fw       : s'.fw = s.fw
  host     : s'.host = s.host
  fn       : ∀ n, ∃ p, s'.fn n = { s.fn n with pba := p }
  seating  : s'.seating = s.seating
  cell     : ∀ c, ∃ e p q, s'.cell c = { s.cell c with err := e, korif := { (s.cell c).korif with ports := p, sent := q } }
  chans    : s'.chans = s.chans
  net      : s'.net = s.net
  netHeld  : s'.netHeld = s.netHeld
  badWires : s'.badWires = s.badWires
  shared   : s'.shared = s.shared
  coords   : s'.coords = s.coords
  mgmt     : ∃ e m, s'.mgmt = { s.mgmt with events := e, mails := m }

/-- Which figure a cell runs under: the active figure and plane select (R29, R45). -/
def FigState.plane (f : FigState) : Option Figure × Bool := (f.active, f.select)

/-- Every cell runs under the figure it ran under. -/
structure Planes (s s' : State) : Prop where
  plane : ∀ c, (s'.cell c).fig.plane = (s.cell c).fig.plane

/-- A PLDM event message among the outputs (R399). -/
def Emit.isEvent : Emit → Bool
  | .event _ => true
  | _ => false

/-- The state without the traces that PLDM events leave: the events sent, the times of the last second's (R399) and, where more than 100
a second fell due, the count of lost messages of cell 0. Two runs that differ in nothing else are silent-equal. -/
def State.silent (s : State) : State :=
  { s.onCell 0 (fun k => { k with err := { k.err with lost := 0 } }) with
    mgmt := { s.mgmt with events := [] }
    out := s.out.filter (fun e => !e.isEvent) }

/-- Cell `c`, awake in C0 and in service, takes an entry of kind `kind` from `src`: its path carries the kind (R340, R347, R363, R364). -/
def State.takes (s : State) (c kind : Nat) (src : Source) (e : Entry) : Bool :=
  s.cellUp c && e.fld 0 1 = kind && s.kindOk src kind && (s.cell c).power.state = .c0

/-- The figure registers of a cell after a figure command ended (Table 17-3). -/
def Cell.figEnded (k : Cell) (code slot status : Nat) : Cell :=
  { k with fig := { k.fig with
    seq := k.fig.seq + 1, lastCode := BitVec.ofNat 8 code, lastStatus := BitVec.ofNat 8 status, lastSlot := slot % 4 } }

/-- The command answers a next state, and `P` holds of it. -/
def Answers (c : Instr) (s : State) (P : State → Prop) : Prop := ∃ s', exec c s = .next s' ∧ P s'

end Sys2Proof.Machine
end

