-- ==== Sys2Proof/Certificates/Slice0/Obligations.lean ====
section
/-!
DEFINITION. The statements for the provers. `u` is always the state in which the command is taken: `s` with local time moved to the
command's (R6); for an entry, with the command queue's button passed on as well (R70).
-/

open Sys2Proof Sys2Proof.Machine

/-- With a command at the front of the queue, a step is the command's effect on the state with the rest of the queue. On an empty queue a step
leaves every register, table and buffer as it is; that the block idles then, and does not tick, is the model's choice (log 3).
(00_scope.md.) -/
def Obligations.StepRunsTheFrontCommand : Prop :=
  ∀ s : State, (∀ (c : Instr) (rest : List Instr), s.pending = c :: rest → step s = exec c { s with pending := rest }) ∧
    (s.pending = [] → step s = .next s)

/-- The state after reset has every table and every cell's tile memory in canonical form, an empty queue, and memory with nothing listed.
(R140, R370.) -/
def Obligations.ResetHoldsEveryTableCanonical : Prop :=
  Inv State.reset ∧ State.reset.pending = [] ∧ ∀ c a, (State.reset.cell c).ent a = TileEnt.absent

/-- From every state in which the tables of the module and the tile memory of every cell are canonical, every step of every command leads to
such a state. (R140, R145, 07_memory_tiers.md.) -/
def Obligations.StepKeepsEveryTableCanonical : Prop :=
  ∀ s s' : State, Inv s → step s = .next s' → Inv s'

/-- Every command answers a next state in every state, for each breach has its defined refusal and none stops the module; the step takes
exactly the front command from the queue, adds none, and time does not go back. (R4, R6.) -/
def Obligations.EveryCommandAnswersAndTakesOne : Prop :=
  ∀ s : State, ∃ s', step s = .next s' ∧ s'.pending = s.pending.tail ∧ s.now ≤ s'.now

/-- By an identity that may give figure commands, to one cell in service: a LOAD of an empty or resident slot makes it loading, discards what
it held and joins the commands in progress; of a loading or held slot it ends BUSY. A STAGE of a resident or held slot, with no ARM
pending and no staging in progress, empties the idle plane and begins to write it. A DROP of a resident slot empties it and ends DONE. Of
an empty slot STAGE and DROP end EMPTY. Nothing else changes but an ending's status and record. (R40, R41, R42, R405.) -/
def Obligations.SlotsAreLoadedStagedAndDropped : Prop :=
  ∀ (t : Nat) (who mask : BitVec 8) (slot c : Nat) (s : State), let u := s.at t
    u.regUp who → topIdent who → slot ≤ 3 → allCells.filter (fun m => mask.getLsbD m) = [c] → u.cellUp c →
      (((u.cell c).fig.cmds).filter (·.viaReg)).length < 4 →
    let cmd (n : Nat) : FigCmd := { code := n, slot := slot, who := who, viaReg := who ≠ 0x70 }
    let f := (u.cell c).fig
    (f.slotState slot = 0 ∨ f.slotState slot = 2 → Answers (.load t who mask slot) s (fun s' =>
      (s'.cell c).fig.cmds = f.cmds ++ [cmd 1] ∧
      (s'.cell c).fig.slots.get .empty slot =
        (if who = 0x70 then .loading [] none who else .loading u.host.window (some u.host.loadLen) who) ∧
      (∀ n, n ≠ slot → (s'.cell c).fig.slots.get .empty n = f.slots.get .empty n) ∧
      ∃ l, s'.silent = (u.onCell c (fun k => { k with fig := { k.fig with slots := l, cmds := k.fig.cmds ++ [cmd 1] } })).silent)) ∧
    (f.slotState slot = 1 ∨ f.slotState slot = 3 → Answers (.load t who mask slot) s (fun s' =>
      Reports (u.onCell c (fun k => k.figEnded 1 slot stBUSY)) s')) ∧
    (f.slotState slot = 2 ∨ f.slotState slot = 3 → f.arm = none → f.staging = none →
      Answers (.stage t who mask slot) s (fun s' => s'.silent = (u.onCell c (fun k => { k with fig := { k.fig with
        staging := some slot, idle := none, idleSlot := none, cmds := k.fig.cmds ++ [cmd 2] } })).silent)) ∧
    (f.slotState slot = 2 → Answers (.drop t who mask slot) s (fun s' =>
      (s'.cell c).fig.slotState slot = 0 ∧
      Reports (u.onCell c (fun k =>
        { k with fig := { k.fig with slots := k.fig.slots.set .empty slot .empty } }.figEnded 5 slot stDONE)) s')) ∧
    (f.slotState slot = 0 → f.arm = none → f.staging = none →
      Answers (.stage t who mask slot) s (fun s' => Reports (u.onCell c (fun k => k.figEnded 2 slot stEMPTY)) s') ∧
      Answers (.drop t who mask slot) s (fun s' => Reports (u.onCell c (fun k => k.figEnded 5 slot stEMPTY)) s'))

/-- To one cell in service with a figure in its idle plane, no staging in progress, no PWR_FAIL and no HALT, an ARM of a figure at or below
the contract level pends with its condition and closes admission for the discontinuous tenants, and a figure above that level ends with
LEVEL; a DISARM of a pending ARM clears it, reopens every tenant's admission and ends with DONE, and with no ARM pending it ends with
EMPTY. (R41, R43, R50, R52.) -/
def Obligations.ArmPendsAndDisarmClears : Prop :=
  ∀ (t : Nat) (who mask : BitVec 8) (cond : BitVec 64) (g : Figure) (c : Nat) (s : State), let u := s.at t
    u.regUp who → topIdent who → allCells.filter (fun m => mask.getLsbD m) = [c] → u.cellUp c →
      (((u.cell c).fig.cmds).filter (·.viaReg)).length < 4 →
    let arm : FigCmd := { code := 3, slot := 0, who := who, viaReg := who ≠ 0x70 }
    ((u.cell c).fig.idle = some g → (u.cell c).fig.staging = none → u.noFlip = false → g.level ≤ u.seating.level →
      Answers (.arm t who mask cond) s (fun s' =>
        (s'.cell c).fig.arm = some cond ∧ arm ∈ (s'.cell c).fig.cmds ∧
        (∀ d ∈ (u.cell c).discontinuous, ((s'.cell c).run d).closed = true) ∧
        ∃ k, s'.silent = (u.setCell c k).silent)) ∧
    ((u.cell c).fig.idle = some g → (u.cell c).fig.staging = none → u.seating.level < g.level →
      Answers (.arm t who mask cond) s (fun s' => Reports (u.onCell c (fun k => k.figEnded 3 0 stLEVEL)) s')) ∧
    ((u.cell c).fig.arm.isSome → Answers (.disarm t who mask) s (fun s' =>
      (s'.cell c).fig.arm = none ∧ (s'.cell c).runs.all (fun r => !r.2.closed) ∧
      Reports (u.onCell c (fun k => k.clearArm.figEnded 4 0 stDONE)) s')) ∧
    ((u.cell c).fig.arm = none → Answers (.disarm t who mask) s (fun s' => Reports (u.onCell c (fun k => k.figEnded 4 0 stEMPTY)) s'))

/-- When the last byte of a LOAD has arrived at a cell in service, the slot holds the figure if every check passed and is empty if one failed,
and the command ends with the status of the verification. When staging ends, the idle plane holds the staged figure and the staging
commands end with DONE. (R39, R41, R42.) -/
def Obligations.LoadVerifiesAndStagingEnds : Prop :=
  (∀ (t slot delivered : Nat) (cell : Fin 8) (b : SMap Payload) (len : Option Nat) (who : BitVec 8) (s : State), let u := s.at t
    (u.cell cell).fig.slots.get .empty slot = .loading b len who → u.cellUp cell →
    Answers (.loadVerifyDone t cell slot delivered) s (fun s' =>
      (s'.cell cell).fig.slots.get .empty slot =
        ((u.verifyBlocks cell (len.getD delivered) b).2.map (fun g => Slot4.resident g b)).getD .empty ∧
      (s'.cell cell).fig.lastStatus = BitVec.ofNat 8 (u.verifyBlocks cell (len.getD delivered) b).1)) ∧
  (∀ (t n : Nat) (cell : Fin 8) (g : Figure) (s : State), let u := s.at t
    (u.cell cell).fig.staging = some n → (u.cell cell).fig.toArm = some g → (u.cell cell).fig.arm = none →
    Answers (.stagingComplete t cell) s (fun s' =>
      (s'.cell cell).fig.idle = some g ∧ (s'.cell cell).fig.idleSlot = some n ∧ (s'.cell cell).fig.staging = none ∧
      (s'.cell cell).fig.active = (u.cell cell).fig.active ∧
      s'.silent = ((u.onCell cell (fun k => { k with fig := { k.fig with staging := none, idle := some g, idleSlot := some n } })).figEndAll
        cell 2 stDONE).silent))

/-- A well-formed ALLOC of an unshared tensor by a sender of its tenant, of an identifier the tenant has not used and that fits, enters the
tensor with its tiles at the lowest free run and completes with DONE and its device address; READY of a tensor being loaded makes it ready
with fresh check values, and working weights of a home layer so made ready have version 0; FREE marks it, and it goes at the step
boundary. Each completes by the path it came, and nothing else changes. (R147, R150, R151, R152, R251.) -/
def Obligations.TensorEntriesAllocateReadyAndFree : Prop :=
  ∀ (t : Nat) (cell : Fin 8) (src : Source) (e : Entry) (s : State), let u := (s.at t).cmdServed cell src.who
    let k := u.cell cell
    let ident := BitVec.ofNat 24 (e.fld 4 3)
    tensorReserved e = false → u.mayFor cell (e.fld 2 1) src.who →
    (u.takes cell 0x01 src e → flagsBad (e.fld 3 1) = false → identBad (e.fld 4 3) (e.fld 1 1) (e.fld 3 1) = false →
      bit (e.fld 3 1) 3 = false → k.tiers.dir.find? (fun x => x.tenant = e.fld 2 1 && x.ident = ident) = none →
      k.tiers.dir.length < 65536 →
      let x0 : Tensor := { tenant := e.fld 2 1, ident := ident, fmt := e.fld 1 1, flags := BitVec.ofNat 8 (e.fld 3 1),
                            base := 0, count := e.fld 8 4, ready := false, freePend := false,
                            digest := BitVec.ofNat 256 (e.fld 0x10 32), holder := none }
      let x := { x0 with base := lowestRun x0.total 0 k.runs' }
      k.allocFits x = 0 → Answers (.alloc t cell src e) s (fun s' =>
        s'.silent = ((u.setCell cell (k.addTensor x)).complete cell src e { status := 0, result := deviceAddr cell x.base }).silent)) ∧
    (u.takes cell 0x02 src e → ∀ x : Tensor, k.lookup (e.fld 2 1) ident = some (x, false) → x.holder = none → x.freePend = false →
      x.ready = false → x.sharedRo = false → Answers (.ready t cell src e) s (fun s' =>
        s'.silent = ((u.setCell cell ((k.makeReady x).newWeights x.tenant (k.layersHomed u.mySeat cell x) 0)).complete cell src e
          { status := 0 }).silent)) ∧
    (u.takes cell 0x03 src e → ∀ x : Tensor, k.lookup (e.fld 2 1) ident = some (x, false) → x.tenant ≠ 0xFF → x.freePend = false →
      Answers (.free t cell src e) s (fun s' =>
        s'.silent = (((u.setCell cell (k.markFree x.tenant x.ident)).freeSoon cell).complete cell src e { status := 0 }).silent))

/-- A well-formed setup by a sender of a GEN tenant with none of its requests in the table and with its tensors in order is kept and completes
with DONE; a request of an existing queue joins the cell's queue, behind all that came before; a cancel with a tag that no request carries
completes with NOT FOUND, and one that an admitted request alone carries marks that request for its next seal. (R170, R172, R188.) -/
def Obligations.GenerationEntriesTakeEffect : Prop :=
  ∀ (t : Nat) (cell : Fin 8) (src : Source) (e : Entry) (s : State), let u := (s.at t).cmdServed cell src.who
    let k := u.cell cell
    (u.takes cell 0x22 src e → setupReserved e = false → u.mayFor cell (readSetup e).tenant src.who →
      ((k.tenantRec (readSetup e).tenant).map (·.gen)).getD false →
      (∀ x ∈ k.gen.table, x.2.st = .free ∨ x.2.tenant ≠ (readSetup e).tenant) → k.setupTensors (readSetup e) →
      Answers (.generationSetup t cell src e) s (fun s' => s'.silent =
        ((u.setCell cell { k with gen := { k.gen with setups := k.gen.setups.set none (readSetup e).tenant (some (readSetup e)) } }).complete
          cell src e { status := 0 }).silent)) ∧
    (u.takes cell 0x20 src e → e.rqTenant ≤ 63 → e.rqQueue ≤ 63 →
      Answers (.request t cell src e) s (fun s' => s'.silent =
        (u.setCell cell { k with gen := { k.gen with
          pend := k.gen.pend ++ [{ src := src, e := e, arr := k.gen.arrivals }], arrivals := k.gen.arrivals + 1 } }).silent)) ∧
    (u.takes cell 0x21 src e → cancelReserved e = false → e.fld 2 1 = cell → u.mayFor cell (e.fld 1 1) src.who →
      k.gen.pend.filter (fun p => p.e.rqTenant = e.fld 1 1 && p.e.rqTag = e.fld 4 4) = [] →
      (k.gen.table.filter (fun x => x.2.live && x.2.tenant = e.fld 1 1 && x.2.desc.rqTag = e.fld 4 4) = [] →
        Answers (.cancel t cell src e) s (fun s' => s'.silent = (u.complete cell src e { status := 2, tag := e.fld 4 4 }).silent)) ∧
      (∀ i x, k.gen.table.filter (fun x => x.2.live && x.2.tenant = e.fld 1 1 && x.2.desc.rqTag = e.fld 4 4) = [(i, x)] →
        Answers (.cancel t cell src e) s (fun s' => s'.silent =
          ((u.onCell cell (fun k => k.onEntry i (fun y => { y with cancel := true }))).complete cell src e
            { status := 0, tag := e.fld 4 4 }).silent)))

/-- An ANSWER to the step whose ratio record was written, before the decision, is the host's answer; a BIND of a home layer to a known rule
with its tensors in order, none pending, is entered; a MODE that may follow the U-die's, and a REPAIR of a HELD or recovering layer of the
tenant with none pending and state tensors that fit, wait for the step boundary. Each completes with DONE. (R214, R218, R235, R241,
10_update_die.md.) -/
def Obligations.LearningEntriesTakeEffect : Prop :=
  ∀ (t : Nat) (cell : Fin 8) (src : Source) (e : Entry) (s : State), let u := (s.at t).cmdServed cell src.who
    let k := u.cell cell
    (u.takes cell 0x34 src e → answerReserved e = false → u.mayFor cell (e.fld 1 1) src.who →
      (u.coord (e.fld 1 1)).active → (u.coord (e.fld 1 1)).ratioAt.isSome → (u.coord (e.fld 1 1)).answer = none →
      (u.coord (e.fld 1 1)).decision = none → e.fld 4 4 = (u.coord (e.fld 1 1)).step →
      Answers (.answer t cell src e) s (fun s' => s'.silent =
        ((u.onCoord (e.fld 1 1) (fun x => { x with answer := some (e.fld 8 1 = 1) })).complete cell src e { status := 0 }).silent)) ∧
    (u.takes cell 0x30 src e → bindReserved e = false → u.homesLayer cell (readBinding e).layer →
      u.mayFor cell (readBinding e).tenant src.who → k.ud.knowsRule (readBinding e).rule →
      (∀ b ∈ k.ud.pendBinds, b.layer ≠ (readBinding e).layer) → k.bindTensors (readBinding e) →
      (k.lrn (readBinding e).tenant).phase = .running → (k.ud.bindOf (readBinding e).layer).isSome →
      Answers (.bind t cell src e) s (fun s' => s'.silent =
        ((u.setCell cell { k with ud := { k.ud with pendBinds := k.ud.pendBinds ++ [readBinding e] } }).complete cell src e
          { status := 0 }).silent)) ∧
    (∀ m, u.takes cell 0x32 src e → modeOf (e.fld 1 1) = some m → e.zeroBytes 2 64 → topIdent src.who → k.ud.pendMode = none →
      modeMove k.ud.mode m → Answers (.mode t cell src e) s (fun s' => s'.silent =
        (((u.onCell cell (fun k => { k with ud := { k.ud with pendMode := some m } })).boundarySoon cell).complete cell src e
          { status := 0 }).silent)) ∧
    (∀ b, u.takes cell 0x35 src e → repairReserved e = false → topIdent src.who → k.ud.mode ≠ .test →
      k.ud.held.contains (e.fld 2 2) ∨ k.ud.mode = .recover → (∀ r ∈ k.ud.repairs, r.2.fld 2 2 ≠ e.fld 2 2) →
      k.ud.bindOf (e.fld 2 2) = some b → b.tenant = e.fld 1 1 → e.fld 4 1 = 2 →
      Answers (.repair t cell src e) s (fun s' => s'.silent =
        (((u.onCell cell (fun k => { k with ud := { k.ud with repairs := k.ud.repairs ++ [(src, e)] } })).boundarySoon cell).complete cell
          src e { status := 0 }).silent))

/-- A RULE LOAD by an identity that may give it, into a slot that no binding names, of an image that verifies, fills the slot and completes
with DONE, and of one that does not verify ends with that check's status. A SNAPSHOT of a tenant with none in progress allocates its
staging tensor in the fast tier and waits, completing nothing yet; where it does not fit it ends with NOSPACE. (R222, R243,
10_update_die.md.) -/
def Obligations.RuleLoadAndSnapshotEntries : Prop :=
  ∀ (t : Nat) (cell : Fin 8) (src : Source) (e : Entry) (s : State), let u := (s.at t).cmdServed cell src.who
    let k := u.cell cell
    (∀ x : Tensor, u.takes cell 0x31 src e → e.fld 2 2 = 0 → e.zeroBytes 7 64 → topIdent src.who → 0x80 ≤ e.fld 1 1 → e.fld 1 1 ≤ 0x83 →
      (∀ b ∈ k.ud.binds ++ k.ud.pendBinds, b.rule ≠ e.fld 1 1) → k.anyInt32 (e.fld 4 3) = some x →
      let r := readRule u.flash.keys u.flash.ruleFloor (4096 * x.count) (k.tensorNat x 0 (4096 * x.count))
      (∀ img, r.2 = some img → Answers (.ruleLoad t cell src e) s (fun s' => s'.silent =
        ((u.setCell cell { k with ud := { k.ud with rules := k.ud.rules.set none (e.fld 1 1 - 0x80) (some img) } }).complete cell src e
          { status := 0 }).silent)) ∧
      (r.2 = none → Answers (.ruleLoad t cell src e) s (fun s' => s'.silent = (u.complete cell src e { status := r.1 }).silent))) ∧
    (u.takes cell 0x33 src e → snapReserved e = false → (k.run (e.fld 1 1)).jobStep.toNat % 2 ^ 32 ≤ e.fld 4 4 →
      u.mayFor cell (e.fld 1 1) src.who → k.ud.snaps.get none (e.fld 1 1) = none →
      let n := ((k.homeLayers (e.fld 1 1)).map (fun l => k.shardTiles (e.fld 1 1) l (e.fld 2 1))).sum
      let x : Tensor := { tenant := e.fld 1 1, ident := stageIdent, fmt := e.fld 2 1, flags := 0x10,
                           base := lowestRun n 0 k.runs', count := n, ready := true, freePend := false, digest := 0, holder := none }
      (n ≠ 0 → k.tiers.dir.length < 65536 → k.allocFits x = 0 → n ≤ k.allocFast x →
        Answers (.snapshot t cell src e) s (fun s' => s'.silent = (u.setCell cell ((k.addTensor x).setSnap (e.fld 1 1)
          (some { src := src, e := e, taken := false, shards := [], step := 0, ver := 0, time := 0, bad := 0 }))).silent)) ∧
      (n = 0 ∨ k.allocFits x ≠ 0 ∨ k.allocFast x < n →
        Answers (.snapshot t cell src e) s (fun s' => s'.silent =
          (u.complete cell src e { status := 9, tag := e.fld 0x10 4 }).silent)))

/-- At the lead of a group, a VERSION that names the version every home has, with no retained version and no push in progress, opens the push
on every cell of the group; a FETCH of a placed layer with destination and manifest in order, and a REFETCH of a shared tensor that the
cell holds with a poisoned tile, begin their transfers without completing yet; a REFETCH of a clean tensor completes with CLEAN. (R262,
R263, R264, R324.) -/
def Obligations.VersionFetchAndRefetchEntries : Prop :=
  ∀ (t : Nat) (cell : Fin 8) (src : Source) (e : Entry) (s : State), let u := (s.at t).cmdServed cell src.who
    let k := u.cell cell
    let n := BitVec.ofNat 16 (e.fld 4 2)
    (u.takes cell 0x23 src e → e.fld 2 1 = cell → versionReserved e = false → topIdent src.who → u.isLead cell →
      ((k.tenantRec (e.fld 1 1)).map (·.gen)).getD false → (∀ h ∈ u.homesOf cell, ((u.cell h).ver (e.fld 1 1)).homeVer = n) →
      newer n n = false → (k.ver (e.fld 1 1)).retLive = false → (k.ver (e.fld 1 1)).push = none → e.fld 3 1 = 2 →
      Answers (.version t cell src e) s (fun s' => s'.silent = (u.onCells (u.groupOf cell) (fun x => x.onVer (e.fld 1 1) (fun y =>
        { y with
          push := some { src := src, e := e, single := true, ver := n, start := e.fld 8 8, hold := false }
          incoming := some n }))).silent)) ∧
    (u.takes cell 0x24 src e → fetchReserved e = false → u.mayFor cell (e.fld 1 1) src.who → u.layerPlaced cell (e.fld 2 2) →
      (k.fetchDest e).isSome → (k.ownTensor (e.fld 1 1) (e.fld 0x10 3)).any (fun x => x.ready && x.fmt = 0x11) →
      Answers (.fetch t cell src e) s (fun s' => s'.silent =
        (u.onCell cell (fun k => { k with fetches := k.fetches ++ [{ src := src, e := e }] })).silent)) ∧
    (∀ x, u.takes cell 0x25 src e → e.fld 1 1 = cell → refetchReserved e = false → topIdent src.who →
      (k.ownTensor (e.fld 2 1) (e.fld 0x10 3)).any (fun y => y.fmt = 0x11) → k.heldShared (e.fld 4 3) = some x →
      ((k.poisonedOf x).isEmpty = false → Answers (.refetch t cell src e) s (fun s' => s'.silent =
        (u.onCell cell (fun k => { k with fetches := k.fetches ++ [{ src := src, e := e }] })).silent)) ∧
      ((k.poisonedOf x).isEmpty = true → Answers (.refetch t cell src e) s (fun s' => s'.silent =
        (u.complete cell src e { status := 4 }).silent)))

/-- A RUN sets a learning tenant's run count; a WRITE whose words fit waits for the step boundary; a MAILBOX from the Manager, bound to the
channel with room for its words, queues them; a REGISTER from the Manager writes TURN_PLAN. Every other field is left, and each completes
with DONE where it does not wait. (R340, R347, R404, 14_host_port_and_mailboxes.md.) -/
def Obligations.RunWriteMailboxAndRegisterEntries : Prop :=
  ∀ (t : Nat) (cell : Fin 8) (src : Source) (e : Entry) (s : State), let u := (s.at t).cmdServed cell src.who
    let k := u.cell cell
    (u.takes cell 0x11 src e → runReserved e = false → u.mayFor cell (e.fld 1 1) src.who →
      ((k.tenantRec (e.fld 1 1)).map (·.learn)).getD false → Answers (.run t cell src e) s (fun s' => s'.silent =
        ((u.onCell cell (fun k => k.onRun (e.fld 1 1) (fun r => { r with runCount := BitVec.ofNat 32 (e.fld 4 4) }))).complete cell src e
          { status := 0 }).silent)) ∧
    (u.takes cell 0x28 src e → writeReserved e = false → u.mayFor cell (e.fld 1 1) src.who → k.writeFits e → k.step.running →
      Answers (.write t cell src e) s (fun s' => s'.silent =
        (u.onCell cell (fun k => { k with writes := k.writes ++ [{ src := src, e := e }] })).silent)) ∧
    (∀ a, u.takes cell 0x27 src e → mailboxReserved e = false → src.who = 0x70 → u.chanSide (e.fld 1 1) 0x70 = some a →
      ((u.chan (e.fld 1 1)).dir a).queue.length + e.fld 2 1 ≤ 16 → e.fld 3 1 ≠ 1 →
      Answers (.mailbox t cell src e) s (fun s' => s'.silent =
        ((u.onDir (e.fld 1 1) a (fun d =>
          { d with queue := d.queue ++ (List.range (e.fld 2 1)).map (fun j => BitVec.ofNat 32 (e.fld (4 + 4 * j) 4)) })).complete cell src e
            { status := 0 }).silent)) ∧
    (u.takes cell 0x29 src e → registerReserved e = false → src.who = 0x70 → e.fld 4 4 = 0x20 →
      Answers (.register t cell src e) s (fun s' => s'.silent =
        ((u.setTurnPlan cell (BitVec.ofNat 64 (e.fld 8 8))).complete cell src e { status := 0 }).silent))

/-- A LOAD IMAGE from its tenant's host function or the Manager, whose image passes every check, makes the image the tenant's next one and
completes with DONE; one that fails a check ends with that check's status and changes nothing. A TEST by an identity that may give it asks
the units of its mask, and completes at once only where none of its tests remains. (R61, R62, R320.) -/
def Obligations.LoadImageAndTestEntries : Prop :=
  ∀ (t : Nat) (cell : Fin 8) (src : Source) (e : Entry) (s : State), let u := (s.at t).cmdServed cell src.who
    let k := u.cell cell
    (∀ v, u.takes cell 0x10 src e → loadImageReserved e = false → k.imageBytes (e.fld 1 1) (e.fld 4 3) (e.fld 8 4) = some v →
      let st := imageStatus k.fig.active cell (e.fld 8 4) v (e.fld 1 1) (k.tenantFn (e.fld 1 1) = src.who.toNat || src.who = 0x70)
        (if (k.run (e.fld 1 1)).carried then (k.run (e.fld 1 1)).image.map (·.figure) else none) u.seating.level
      (st = 0 → Answers (.loadImage t cell src e) s (fun s' => s'.silent =
        ((((u.longRecords cell (e.fld 1 1) (readImage v)).onCell cell (fun k =>
          k.onRun (e.fld 1 1) (fun r => { r with next := some (readImage v) }))).complete cell src e { status := 0 }).boundarySoon
            cell).silent)) ∧
      (st ≠ 0 → Answers (.loadImage t cell src e) s (fun s' => s'.silent = (u.complete cell src e { status := st }).silent))) ∧
    (u.takes cell 0x26 src e → testReserved e = false → topIdent src.who → bit (e.fld 2 1) 2 = false →
      let s1 := (u.testCells e).foldl (fun (x : State) m => (x.wake m).onCell m (fun k => k.askTests src e)) u
      Answers (.test t cell src e) s (fun s' => s'.silent = (if (u.testCells e).any (fun m => (s1.cell m).testing src e) then s1
        else s1.complete cell src e { status := 0 }).silent))

/-- An entry of any of the twenty-one kinds that reaches a cell awake in C0 and in service by a path that does not carry that kind completes
with KIND (0xFF), and nothing else changes. (R340, R347, 14_host_port_and_mailboxes.md.) -/
def Obligations.EntriesOfAKindTheirPathDoesNotCarryEndWithKind : Prop :=
  ∀ (t : Nat) (cell : Fin 8) (src : Source) (e : Entry) (s : State), let u := s.at t
    let ends (c : Instr) (kind : Nat) : Prop := e.fld 0 1 = kind → u.kindOk src kind = false →
      Answers c s (fun s' => s'.silent = (u.complete cell src e { status := 0xFF }).silent)
    u.cellUp cell → (u.cell cell).power.state = .c0 →
    ends (.alloc t cell src e) 0x01 ∧
    ends (.ready t cell src e) 0x02 ∧
    ends (.free t cell src e) 0x03 ∧
    ends (.loadImage t cell src e) 0x10 ∧
    ends (.run t cell src e) 0x11 ∧
    ends (.request t cell src e) 0x20 ∧
    ends (.cancel t cell src e) 0x21 ∧
    ends (.generationSetup t cell src e) 0x22 ∧
    ends (.version t cell src e) 0x23 ∧
    ends (.fetch t cell src e) 0x24 ∧
    ends (.refetch t cell src e) 0x25 ∧
    ends (.test t cell src e) 0x26 ∧
    ends (.mailbox t cell src e) 0x27 ∧
    ends (.write t cell src e) 0x28 ∧
    ends (.register t cell src e) 0x29 ∧
    ends (.bind t cell src e) 0x30 ∧
    ends (.ruleLoad t cell src e) 0x31 ∧
    ends (.mode t cell src e) 0x32 ∧
    ends (.snapshot t cell src e) 0x33 ∧
    ends (.answer t cell src e) 0x34 ∧
    ends (.repair t cell src e) 0x35

/-- Of the 196 commands only the plane swap, the activation of the start figure when a cell initialises, the resets of the module and of a
cell, and the register and effecter writes that reset, can change the active figure or the plane select of any cell; every other command,
from every state, leaves both of every cell as they were. (R29, R45.) -/
def Obligations.ACellKeepsItsActiveFigure : Prop :=
  ∀ (c : Instr) (s s' : State),
    (∀ t cell ok, c ≠ .planeSwap t cell ok) → (∀ t cell, c ≠ .cellInitComplete t cell) → (∀ t, c ≠ .pwrGoodLowReset t) →
    (∀ t mv, c ≠ .undervoltageLockout t mv) → (∀ t who key, c ≠ .moduleReset t who key) → (∀ t, c ≠ .journalCommitWritten t) →
    (∀ t who effecter value, c ≠ .pldmEffecter t who effecter value) → (∀ t fn off size value, c ≠ .registerWrite t fn off size value) →
    exec c s = .next s' → ∀ m, (s'.cell m).fig.plane = (s.cell m).fig.plane

/-- A swap that is due at the boundary of an awake cell in service, with its plane check passed, PWR_FAIL and HALT_N high and no stop-mode
step in progress, makes the figure of the idle plane active and inverts plane select in one step. Where PWR_FAIL or HALT_N stands or the
check fails, the ARM is cleared, admission reopens and the old plane stays. Other cells keep their planes either way. (R43, R45, R50.) -/
def Obligations.ASwapFlipsThePlanesOfItsCellAlone : Prop :=
  ∀ (t : Nat) (cell : Fin 8) (checkOk : Bool) (g : Figure) (s : State), let u := s.at t
    let k := u.cell cell
    k.fig.idle = some g → u.cellUp cell → k.step.running = false → k.swapDue (u.time cell) →
    (u.noFlip = false → k.power.state = .c0 → checkOk →
      (g.stop = false ∨ k.affected = [] ∨ ∀ m ∈ u.groupOf cell, (u.cell m).step.running = false) →
      Answers (.planeSwap t cell checkOk) s (fun s' => (s'.cell cell).fig.plane = (some g, !k.fig.select) ∧
        ∀ m, m ≠ cell.val → (s'.cell m).fig.plane = (u.cell m).fig.plane)) ∧
    (u.noFlip ∨ (k.power.state = .c0 ∧ checkOk = false ∧
        (g.stop = false ∨ k.affected = [] ∨ ∀ m ∈ u.groupOf cell, (u.cell m).step.running = false)) →
      Answers (.planeSwap t cell checkOk) s (fun s' => (s'.cell cell).fig.arm = none ∧
        (s'.cell cell).runs.all (fun r => !r.2.closed) ∧ ∀ m, (s'.cell m).fig.plane = (u.cell m).fig.plane))

/-- While a binding register is unlocked, a write by the PF or the module supervisor sets its valid flag and its two identities, and empties
the channel's queues, doorbells and counters where the pair changes. A write to a locked register, or by another identity that registers
answer, is discarded: the binding and the channel stay, with at most a record entered. (R47, R48, R344, R401.) -/
def Obligations.BindingRegisterWriteWhileUnlocked : Prop :=
  ∀ (t : Nat) (who : BitVec 8) (chan : Fin 64) (value : BitVec 32) (s : State), let u := s.at t
    let b : BindReg := { valid := value.getLsbD 31, locked := false, idA := value.extractLsb' 0 8, idB := value.extractLsb' 8 8 }
    let old := u.binding chan
    let same : Prop := old.valid = b.valid ∧ (b.valid = false ∨ (old.idA = b.idA ∧ old.idB = b.idB))
    let bound (x : State) : State := x.onCell (chanCell chan) (fun k => { k with binds := k.binds.set BindReg.reset (chan % 8) b })
    u.regUp who →
    (old.locked = false → who = 0x00 ∨ who = 0x40 →
      (same → Answers (.bindingRegisterWrite t who chan value) s (fun s' => s'.binding chan = b ∧ Reports (bound u) s')) ∧
      (¬ same → Answers (.bindingRegisterWrite t who chan value) s (fun s' => s'.binding chan = b ∧
        Reports (bound (u.setChan chan { Chan.reset with lastRec := (u.chan chan).lastRec })) s'))) ∧
    (old.locked ∨ (who ≠ 0x00 ∧ who ≠ 0x40) → Answers (.bindingRegisterWrite t who chan value) s (fun s' => Reports u s'))

/-- With every cell of its group able to begin and some request with a row in the plan, a generation lead lays the step out and begins it; a
follower begins when its lead has; a cell without a group begins the learning tenants whose step is open. A step begins at the cell's
device time. With no row to run, or a cell that may not begin, no step begins. (R64, R65, R113, R168, R177, R182, R208.) -/
def Obligations.AStepBegins : Prop :=
  ∀ (t : Nat) (cell : Fin 8) (s : State), let u := s.at t
    let begun (st : State) (ts : List Nat) (s' : State) : Prop :=
      s'.silent = (st.startStep cell ts).silent ∧ (s'.cell cell).step.running ∧ (s'.cell cell).step.began = u.time cell
    (u.leadCell cell = some cell.val → (∀ m ∈ u.groupOf cell, u.mayBegin m) →
      let s0 := u.holdRequests cell
      let rows := (s0.cell cell).planRows
      (rows ≠ [] → Answers (.stepBegin t cell) s (begun (s0.layStep cell rows) ((s0.cell cell).rowTenants rows))) ∧
      (rows = [] → Answers (.stepBegin t cell) s (fun s' => s'.silent = s0.silent))) ∧
    (u.leadCell cell = some cell.val → (∃ m ∈ u.groupOf cell, u.mayBegin m = false) →
      Answers (.stepBegin t cell) s (fun s' => s'.silent = u.silent)) ∧
    (∀ m, u.leadCell cell = some m → m ≠ cell.val → (u.cell m).step.running → (u.cell cell).gen.rows ≠ [] → u.mayBegin cell →
      Answers (.stepBegin t cell) s (begun u ((u.cell cell).rowTenants (u.cell cell).gen.rows))) ∧
    (u.leadCell cell = none → u.mayBegin cell → (u.cell cell).openTenants ≠ [] → Answers (.stepBegin t cell) s (fun s' =>
      s'.silent = ((u.startStep cell (u.cell cell).openTenants).onCell cell (fun k =>
        (u.cell cell).openTenants.foldl (fun k l => k.onLrn l (fun x => { x with phase := .running })) k)).silent ∧
      (s'.cell cell).step.running ∧ (s'.cell cell).step.began = u.time cell))

/-- A SYNC that signals sends one message with the step's number, on the sync wires where its way stands and else in a frame, and goes on,
unless it waits too; one that waits goes on where its counter has reached the threshold, and stays in WAIT where not. A message of the
step in progress is applied to its counter, one of the next step is held at the core in up to 512 places, one that finds them full stays
at the sending side, and any other is discarded with a record; those kept back are tried again in order. (R59, R65, R66, R67.) -/
def Obligations.SyncAndItsMessages : Prop :=
  (∀ (t : Nat) (cell : Fin 8) (core : Fin 128) (v : OpEnv) (s1 s : State), let u := s.at t
    u.issue cell core 9 (fun o => o.opcode = 9) = some (v, s1) → v.op.signal = false →
    let r := readRef v.op.a
    let m : SyncMsg :=
      { src := cell, seat := if r.own then u.mySeat else r.seat, cell := r.cell, tenant := v.tenant, group := r.group, ctr := r.ctr,
        add := bits v.op.param.toNat 0 16, step := BitVec.ofNat 16 (s1.cell cell).step.number }
    (v.op.variant ≠ 2 → Answers (.sync t cell core) s (fun s' => (u.wired m → s'.net = u.net ++ [m]) ∧
      (u.wired m = false → s'.net = u.net) ∧
      s'.silent = ((s1.sendSync m).onCell cell (fun k => k.onCore core (fun y =>
        y.setCtx v.ctx (if v.op.variant = 1 then (y.ctx v.ctx).advance (k.recCount (y.ctx v.ctx)) else k.waitOn v (y.ctx v.ctx))))).silent)) ∧
    (v.op.variant = 2 → Answers (.sync t cell core) s (fun s' => s'.net = u.net ∧
      s'.silent = (s1.onCell cell (fun k => k.onCore core (fun y => y.setCtx v.ctx (k.waitOn v (y.ctx v.ctx))))).silent))) ∧
  (∀ (t index : Nat) (m : SyncMsg) (s : State), let u := s.at t
    let u1 : State := { u with net := u.net.eraseIdx index }
    u.net[index]? = some m → let k := u.cell m.cell
    (k.step.running → m.step = BitVec.ofNat 16 k.step.number → ∀ n i, k.counterAt m.tenant m.group m.ctr = some (n, i) →
      Answers (.syncMessage t index) s (fun s' => s'.silent = (u1.signalAt m.cell m.tenant m.group m.ctr m.add).silent ∧
        (((s'.cell m.cell).core n).ctr i) = (((k.core n).addCtr i m.add).1.ctr i))) ∧
    (m.step = (if k.step.running then BitVec.ofNat 16 k.step.number + 1 else BitVec.ofNat 16 k.step.number) →
      let n := ((k.counterAt m.tenant m.group m.ctr).map (·.1)).getD 0
      ((k.core n).pend.length < 512 → Answers (.syncMessage t index) s (fun s' =>
        s'.silent = (u1.onCore m.cell n (fun x => { x with pend := x.pend ++ [m] })).silent)) ∧
      (512 ≤ (k.core n).pend.length → Answers (.syncMessage t index) s (fun s' =>
        s'.silent = State.silent { u1 with netHeld := u.netHeld ++ [m] }))) ∧
    (m.step ≠ BitVec.ofNat 16 k.step.number → m.step ≠ BitVec.ofNat 16 k.step.number + 1 →
      Answers (.syncMessage t index) s (fun s' => Reports u1 s'))) ∧
  (∀ (t : Nat) (m : SyncMsg) (s : State), let u := s.at t
    let u1 : State := { u with netHeld := [] }
    let k := u.cell m.cell
    u.netHeld = [m] → m.step = (if k.step.running then BitVec.ofNat 16 k.step.number + 1 else BitVec.ofNat 16 k.step.number) →
      let n := ((k.counterAt m.tenant m.group m.ctr).map (·.1)).getD 0
      ((k.core n).pend.length < 512 → Answers (.syncRetry t) s (fun s' =>
        s'.silent = (u1.onCore m.cell n (fun x => { x with pend := x.pend ++ [m] })).silent)) ∧
      (512 ≤ (k.core n).pend.length → Answers (.syncRetry t) s (fun s' => s'.silent = u.silent)))

/-- An operation whose tiles pass, with no recompute due, every remote answer in and every tile for another cell sent, leaves its engine: its
results are written, its signal is sent, its reports are given and its thread goes on. Until then it stays there. Tiles of a PRODUCT that
fail the checksum unit are due for recompute and nothing else changes. A recompute on another core that passes uses one of the redos and
counts a fault against the core; one that fails voids the step with DISAGREE and fences the core; with no core to recompute on, the step
voids with CHECK. (R59, R85, R311, R312, R316, R317.) -/
def Obligations.AnOperationCompletesOrIsRedone : Prop :=
  ∀ (t : Nat) (cell : Fin 8) (core : Fin 128) (s : State), let u := s.at t
    let x := (u.cell cell).core core
    u.issuing cell →
    (∀ engine bad o, x.engine engine = some o → x.out = false →
      ((engine = 1 ∧ ∃ b ∈ bad, b ∈ o.slots) → Answers (.operationComplete t cell core engine bad) s (fun s' => s'.silent =
        (u.onCore cell core (fun y => { y with redoDue :=
          (y.redoDue ++ (bad.filter o.slots.contains).map (fun b => (o.ctx, b))).dedup })).silent)) ∧
      (engine ≠ 1 ∨ (∀ b ∈ bad, b ∉ o.slots) → o.waits = [] → (u.cell cell).sending (x.ctx o.ctx).tenant o = false →
        (∀ r ∈ x.redoDue, r.1 ≠ o.ctx) →
        Answers (.operationComplete t cell core engine bad) s (fun s' => s'.silent = (u.finishOp cell core engine o).silent)) ∧
      (engine ≠ 1 ∨ (∀ b ∈ bad, b ∉ o.slots) → o.waits ≠ [] ∨ (u.cell cell).sending (x.ctx o.ctx).tenant o ∨ (∃ r ∈ x.redoDue, r.1 = o.ctx) →
        Answers (.operationComplete t cell core engine bad) s (fun s' => s'.silent = u.silent))) ∧
    (∀ tile r same passes, x.redoDue.find? (fun y => y.2 = tile) = some r →
      let tenant := (x.ctx r.1).tenant
      let u1 := u.onCore cell core (fun y => { y with redoDue := y.redoDue.erase r })
      ((u.cell cell).redoCore tenant core = none →
        Answers (.tileRedo t cell core tile same passes) s (fun s' => s'.silent = (u1.cause cell vCHECK tenant none).silent)) ∧
      (∀ m, (u.cell cell).redoCore tenant core = some m →
        (passes → Answers (.tileRedo t cell core tile same passes) s (fun s' =>
          Reports ((u1.useRedo cell m).countFault cell core) s')) ∧
        (passes = false → Answers (.tileRedo t cell core tile same passes) s (fun s' =>
          ((s'.cell cell).core core).fenced ∧ ((s'.cell cell).core core).engines = [] ∧
          ∃ c ∈ (s'.cell cell).step.causes, c.code = vDISAGREE ∧ c.tenant = tenant))))

/-- Where some tenant's limit has passed with work left in a running step, the watchdog stops the step: operations in engines run to no
result, no recompute stays due, and each overdue tenant's step has a void cause. A tenant that only homes layers here and whose sums are
missing past its limit gets its causes for its report. Where nothing is overdue nothing happens. (R68, R206, R275.) -/
def Obligations.TheWatchdogStopsAnOverdueStep : Prop :=
  ∀ (t : Nat) (cell : Fin 8) (s : State), let u := s.at t
    u.cellUp cell →
    ((u.cell cell).step.running → (u.cell cell).step.stopped = false → u.overdue cell ≠ [] → Answers (.stepWatchdog t cell) s (fun s' =>
      (s'.cell cell).step.stopped ∧ (s'.cell cell).step.running ∧ (∀ n, ((s'.cell cell).core n).engines = [] ∧ ((s'.cell cell).core n).redoDue = []) ∧
      ∀ l ∈ u.overdue cell, ∃ c ∈ (s'.cell cell).step.causes, c.tenant = l ∧ (c.code = vCHECK ∨ c.code = vLINK))) ∧
    Answers (.stepWatchdog t cell) s (fun s' => ∀ l ∈ u.overdueHomes cell, ((s'.cell cell).lrn l).causes ≠ [] ∧
      ∀ x ∈ ((s'.cell cell).lrn l).causes, x = vCHECK ∨ x = vLINK) ∧
    (u.overdueHomes cell = [] → (u.cell cell).step.running = false ∨ (u.cell cell).step.stopped ∨ u.overdue cell = [] →
      Answers (.stepWatchdog t cell) s (fun s' => s'.silent = u.silent))

/-- When an idle engine of a core in service takes a thread's PRODUCT, SAMPLE or MASK whose operand tiles hold their check values, the
operation enters the engine with the results that the rules of the matrix engine, the sampling contract and the random derivation give, to
be written when it completes; core memory does not change before then. A PRODUCT whose side records are missing enters with no result and
voids with CHECK. With no thread that asks, or with the engine busy or the core out, nothing happens. (R59, R69, R79, R84, R87, R95, R130,
R135, R137, R308.) -/
def Obligations.ProductSampleAndMaskEnterTheirEngines : Prop :=
  (∀ (t : Nat) (cell : Fin 8) (core : Fin 128) (lanes : List (Nat × Bool)) (v : OpEnv) (s1 s : State), let u := s.at t
    let x := (s1.cell cell).core core
    let enters (eng : Nat) (st : State) (r : Result) (cyc : Option Nat) (reps : List SampleReport) (s' : State) : Prop :=
      s'.silent = (st.startOp v eng r cyc reps).silent ∧ ((s'.cell cell).core core).slots = x.slots ∧
      ((s'.cell cell).core core).engine eng =
        some { ctx := v.ctx, oprec := v.op, writes := r.writes, cycles := cyc, reports := reps }
    (u.issue cell core 1 (fun o => o.opcode = 1) = some (v, s1) → (∀ i ∈ productReads x v, (x.slot i).ok) → sideMissing x v = false →
      let d := v.slotOf v.op.d
      let scale := (s1.cell cell).gradScale v.tenant (x.slot d).tile.tag.ident
      Answers (.product t cell core) s (enters 1 s1 (x.valWrites v d v.op.fmtD (productVals x v scale) (x.poisoned (productReads x v)))
        (some (productCycles x v)) [])) ∧
    (u.issue cell core 1 (fun o => o.opcode = 1) = some (v, s1) → (∀ i ∈ productReads x v, (x.slot i).ok) → sideMissing x v →
      Answers (.product t cell core) s (enters 1 (s1.cause cell vCHECK v.tenant none) noResult none [])) ∧
    (u.issue cell core 4 (fun o => o.opcode = 4) = some (v, s1) → (∀ i ∈ sampleReads v, (x.slot i).ok) → lanes = [] →
      let outs := (List.range (v.op.m / v.rowsPer)).map (fun q => sampleOne x v q false (x.poisoned (sampleReads v)))
      Answers (.sample t cell core lanes) s (enters 4 s1
        { writes := x.bitWrites (v.slotOf v.op.d) fINT32 (toBlocksN 4 (outs.flatMap (·.rows))) (x.poisoned (sampleReads v)) }
        (some (32 + (outs.map (·.cycles)).sum)) (outs.filterMap (·.report)))) ∧
    (u.issue cell core 5 (fun o => o.opcode = 5) = some (v, s1) →
      let d := v.slotOf v.op.d
      let n := v.op.m * v.op.n
      (∀ i ∈ slotRun d v.op.fmtD n, (x.slot i).tile.tag.ident ≠ 0) →
      let l := (List.range n).map (fun e => maskBits v (x.slot (d + e / elemsPer v.op.fmtD)) (e % elemsPer v.op.fmtD))
      Answers (.mask t cell core .clean) s (enters 5 s1 { writes := x.bitWrites d v.op.fmtD l false } (some (16 + (n + 63) / 64)) []))) ∧
  (∀ (t : Nat) (cell : Fin 8) (core : Fin 128) (lanes : List (Nat × Bool)) (rep : Repeat) (s : State), let u := s.at t
    let idle (c : Instr) (eng code : Nat) : Prop := u.issue cell core eng (fun o => o.opcode = code) = none →
      Answers c s (fun s' => s'.silent = u.silent)
    idle (.product t cell core) 1 1 ∧ idle (.row t cell core rep) 2 2 ∧ idle (.route t cell core rep) 3 3 ∧
    idle (.sample t cell core lanes) 4 4 ∧ idle (.mask t cell core rep) 5 5 ∧ idle (.move t cell core) 6 6 ∧
    idle (.reduce t cell core) 7 7 ∧ idle (.update t cell core) 7 8 ∧ idle (.element t cell core) 7 0xA)

/-- When an idle engine takes a thread's ROW or ROUTE whose operand tiles hold their check values, and the repeat that the checks of R313 ask
for agrees, the operation enters the engine with the rows of its variant: soft-maximum and normalization over their statistics set, a new
set kept where the variant makes one, its rows beyond the 32,768th spilled into the slots from 767 downward; expert selection with its
buckets and overflow count, permutation and combination. (R111, R113, R116, R123, R125, R126, R127, R128, R129, R313.) -/
def Obligations.RowAndRouteEnterTheirEngines : Prop :=
  (∀ (t : Nat) (cell : Fin 8) (core : Fin 128) (y : StatSet) (v : OpEnv) (s1 s : State), let u := s.at t
    let x := (s1.cell cell).core core
    u.issue cell core 2 (fun o => o.opcode = 2) = some (v, s1) → (∀ i ∈ rowReads v, (x.slot i).ok) → rowSet x v = some y →
    let poison := x.poisoned (rowReads v) || y.poison
    let stats := (List.range v.op.m).map (rowStats x v y)
    let fresh := rowForward v.op.variant && !v.reuse
    let made := { y with rows := stats.map (fun z => (bits32 z.1, bits32 z.2)), poison := poison }
    let start := x.setStart v.tenant v.setNo
    let zeros := if fresh && y.kind ≠ 0 then ((List.range v.op.m).filter (fun r =>
      (normMoments (y.kind = 2) v.eps (rowVals x (v.slotOf v.op.a) v.op.fmtA v.op.n r)).2.isZero)).length else 0
    let kept (x : Core) : Core := { (x.spill start made.rows) with sets := x.sets ++ [made] }
    let res := x.valWrites v (v.slotOf v.op.d) v.op.fmtD (toBlocks v.op.n ((List.range v.op.m).map (rowResult x v y))) poison
    let s3 := s1.onCell cell (fun k => { (if fresh then k.onCore core kept else k) with zeroVar := satAdd k.zeroVar zeros })
    Answers (.row t cell core .clean) s (fun s' => s'.silent = (s3.startOp v 2 res (some (rowCycles v start)) []).silent ∧
      ((s'.cell cell).core core).slots = (if fresh then x.spill start made.rows else x).slots ∧
      (start + v.op.m ≤ 32768 → ((s'.cell cell).core core).slots = x.slots) ∧
      ((s'.cell cell).core core).engine 2 =
        some { ctx := v.ctx, oprec := v.op, writes := res.writes, cycles := some (rowCycles v start), reports := [] })) ∧
  (∀ (t : Nat) (cell : Fin 8) (core : Fin 128) (v : OpEnv) (s1 s : State), let u := s.at t
    let x := (s1.cell cell).core core
    let enters (eng : Nat) (st : State) (r : Result) (cyc : Option Nat) (reps : List SampleReport) (s' : State) : Prop :=
      s'.silent = (st.startOp v eng r cyc reps).silent ∧ ((s'.cell cell).core core).slots = x.slots ∧
      ((s'.cell cell).core core).engine eng =
        some { ctx := v.ctx, oprec := v.op, writes := r.writes, cycles := cyc, reports := reps }
    u.issue cell core 3 (fun o => o.opcode = 3) = some (v, s1) → (∀ i ∈ routeReads v, (x.slot i).ok) →
    let d := v.slotOf v.op.d
    let poison := x.poisoned (routeReads v)
    (v.op.variant = 1 ∨ v.op.variant = 4 →
      let rows := (List.range v.op.m).map (rowVals x (v.slotOf v.op.a) v.op.fmtA v.op.n)
      let toks := rows.map (chooseExperts v.topK)
      let ranks := placeAll v.bucket toks
      let drops := (ranks.map (fun l => (l.filter (· = choiceDropped)).length)).sum
      Answers (.route t cell core .clean) s (enters 3 (s1.onCell cell (fun k => { k with routeOvf := satAdd k.routeOvf drops }))
        { writes := x.bitWrites d fINT32 (toBlocksN 16 ((List.range v.op.m).map (selectionRow toks ranks))) poison
          void := rows.any routeBad } (some (routeCycles v)) [])) ∧
    (v.op.variant = 2 → Answers (.route t cell core .clean) s (enters 3 s1
      { writes := x.bitWrites d v.op.fmtD (permuteBits x v) poison, void := selectionBad x v } (some (routeCycles v)) [])) ∧
    (v.op.variant = 3 →
      let r := x.valWrites v d v.op.fmtD ((List.range (v.op.m * v.op.n)).map (fun i =>
        combineVal x v (blockPlace v.op.n i).1 (blockPlace v.op.n i).2)) poison
      Answers (.route t cell core .clean) s (enters 3 s1 { r with void := r.void || selectionBad x v } (some (routeCycles v)) [])))

/-- When an idle mover or vector engine takes a thread's MOVE whose references are in order and whose source tiles can be read, an ELEMENT or
a REDUCE whose tiles hold their check values, or an UPDATE, the operation enters the engine: a MOVE with its destination writes in order,
tiles for other cells leaving at once, or from another cell, and of a shared tensor held elsewhere, with one read request a tile; an
ELEMENT with its element values, or with none and the cause CHECK where a side record is missing; a REDUCE with its part's tiles; an
UPDATE with none, its layer named to the home cell's U-die where that is on this module. (R59, R100, R147, R204, R215, R273, R432, R434.) -/
def Obligations.MoveElementReduceAndUpdateEnterTheirEngines : Prop :=
  ∀ (t : Nat) (cell : Fin 8) (core : Fin 128) (v : OpEnv) (s1 s : State), let u := s.at t
    let x := (s1.cell cell).core core
    let enters (eng : Nat) (st : State) (r : Result) (cyc : Option Nat) (reps : List SampleReport) (s' : State) : Prop :=
      s'.silent = (st.startOp v eng r cyc reps).silent ∧ ((s'.cell cell).core core).slots = x.slots ∧
      ((s'.cell cell).core core).engine eng =
        some { ctx := v.ctx, oprec := v.op, writes := r.writes, cycles := cyc, reports := reps }
    (u.issue cell core 6 (fun o => o.opcode = 6) = some (v, s1) → moveOk (s1.cell cell) v →
      let n := moveTiles (s1.cell cell) v
      let a := readRef v.op.a
      let seat := if a.own then s1.mySeat else a.seat
      let paged := ((s1.cell cell).pagedSetup v v.op.a).isSome || ((s1.cell cell).pagedSetup v v.op.d).isSome
      let asks (seat c : Nat) : Prop := Answers (.move t cell core) s (fun s' => s'.silent = (s1.remoteReads v n seat c).silent)
      (a.space = 2 → ¬(seat = s1.mySeat ∧ a.cell = cell) → asks seat a.cell) ∧
      (∀ m ro h, a.space = 1 → (s1.cell cell).lookup v.tenant a.ident = some (m, ro) → m.holder = some h → asks s1.mySeat h) ∧
      (s1.farSource v = none →
        (v.op.variant = 3 → a.space = 0 → ∀ i ∈ slotRun (v.slotOf v.op.a) v.op.fmtA (v.op.m * v.op.n), (x.slot i).ok) →
        ∀ s2 l, (s1.tierServed cell core).moveReads v (s1.moveBusy v n) n 0 = (s2, l, true) →
        (v.op.variant = 3 → a.space ≠ 0 → ∀ y ∈ l, y.ok) →
        let s3 := if v.op.variant = 3 && paged then (s2.freePages l).1 else s2
        let tiles := if v.op.variant ≠ 3 then l else if paged then (s2.freePages l).2 else transposed v l
        let ws := (tiles.zipIdx).flatMap (fun q => s3.moveWrites v q.2 q.1)
        Answers (.move t cell core) s (fun s' => s'.silent = (s3.startMove v ws).silent ∧
          ∃ sent, ((s'.cell cell).core core).engine 6 = some { ctx := v.ctx, oprec := v.op, writes := ws.filter (fun w => !w.far),
                                                               cycles := none, reports := [], sent := sent }))) ∧
    (u.issue cell core 7 (fun o => o.opcode = 0xA) = some (v, s1) → (∀ i ∈ elementReads v, (x.slot i).ok) →
      (elementMissing x v → Answers (.element t cell core) s (enters 7 (s1.cause cell vCHECK v.tenant none) noResult none [])) ∧
      (elementMissing x v = false →
      let scale := (s1.cell cell).convertScale v
      let poison := x.poisoned (elementReads v)
      Answers (.element t cell core) s (enters 7 s1 (if v.op.variant = 5 && v.op.mx then mxWrites x v scale poison
        else x.valWrites v (v.slotOf v.op.d) v.op.fmtD ((List.range (v.op.m * v.op.n)).map (elementVal x v scale)) poison) none []))) ∧
    (u.issue cell core 7 (fun o => o.opcode = 7) = some (v, s1) →
      (∀ i ∈ slotRun (v.slotOf v.op.a) v.op.fmtA (v.op.m * v.op.n), (readRef v.op.a).space = 0 → (x.slot i).ok) →
      ∀ s2 l, (s1.tierServed cell core).partReads v (tilesFor v.op.fmtA (v.op.m * v.op.n)) 0 = (s2, l, true) → (∀ y ∈ l, y.ok) →
      Answers (.reduce t cell core) s (enters 7 s2 { writes := (l.zipIdx).map (fun q => s2.partWrite v q.2 q.1) } none [])) ∧
    (u.issue cell core 7 (fun o => o.opcode = 8) = some (v, s1) →
      let named := (bits v.op.param.toNat 0 16, v.op.variant, v.op.a, v.tenant)
      (s1.homeCell cell named.1 = none → Answers (.update t cell core) s (enters 7 s1 noResult none [])) ∧
      ∀ h, s1.homeCell cell named.1 = some h →
        Answers (.update t cell core) s (enters 7 (s1.onCell h (fun k => { k with ud := { k.ud with
          named := if k.ud.named.contains named then k.ud.named else k.ud.named ++ [named] } })) noResult none []))

/-- A host write through BAR2 whose every byte lies in the payload of a tensor being loaded is taken byte for byte: each byte reads back as
written, and every other payload byte of every cell reads as before. A write whose bytes all lie in ready tensors or where nothing is
allocated is discarded, with at most a record. A read answers the current bytes in order, with zero for each byte that has none. (R145,
R146, R147.) -/
def Obligations.TheHostWritesAndReadsTilesThroughBar2 : Prop :=
  ∀ (t off : Nat) (s : State), let u := s.at t
    let dev (i : Nat) : Nat := u.host.bar2.toNat * 2 ^ 37 + off + i
    let byte (x : State) (d : Nat) : Option Byte := (x.cell (d / 2 ^ 41)).deviceByte (d % 2 ^ 41)
    let owner (d : Nat) : Option Tensor := (u.cell (d / 2 ^ 41)).ownerOf (d % 2 ^ 41 / 4096)
    let st (d : Nat) : TState := ((u.cell (d / 2 ^ 41)).ent (d % 2 ^ 41 / 4096)).st
    u.bar2Up 0x00 →
    (∀ bytes : List Byte, off + bytes.length ≤ 2 ^ 37 → bytes ≠ [] →
      ((∀ i, i < bytes.length → dev i % 2 ^ 41 < 2 ^ 40 ∧ (∃ x, owner (dev i) = some x ∧ x.ready = false) ∧
          st (dev i) ≠ .HX ∧ st (dev i) ≠ .E ∧ st (dev i) ≠ .none) →
        Answers (.bar2Write t 0x00 off bytes) s (fun s' => (∀ i, i < bytes.length → byte s' (dev i) = bytes[i]?) ∧
          ∀ d, d % 2 ^ 41 < 2 ^ 40 → d < dev 0 ∨ dev bytes.length ≤ d → byte s' d = byte u d)) ∧
      ((∀ i, i < bytes.length → 2 ^ 40 ≤ dev i % 2 ^ 41 ∨ ∀ x, owner (dev i) = some x → x.ready) →
        Answers (.bar2Write t 0x00 off bytes) s (fun s' => Reports u s'))) ∧
    (∀ n, off + n ≤ 2 ^ 37 → n ≠ 0 → Answers (.bar2Read t 0x00 off n) s (fun s' => ∃ r, Reports u r ∧
      s'.silent = (r.emit (.readData 0 (ofBytes ((List.range n).map (fun i => (byte u (dev i)).getD 0))))).silent))

/-- Between steps a migration moves up to n tiles and changes no tile's current content. A corrected error raises its tier's counter, and an
uncorrected one leaves its tile as Table 7-7 and R166 say; a complete sweep between steps in C1 is noted, and 24 hours without one enter
one record. (R154, R160, R165, R166.) -/
def Obligations.TilesRiseAndMemoryErrorsAreCounted : Prop :=
  ∀ (t : Nat) (cell : Fin 8) (s : State), let u := s.at t
    let k := u.cell cell
    u.cellUp cell →
    (∀ n, k.step.running = false → Answers (.migration t cell n) s (fun s' =>
      s'.silent = (u.onCell cell (Cell.rise n)).silent ∧ ∀ a, ((s'.cell cell).ent a).current = (k.ent a).current)) ∧
    (∀ (a : Nat) (site : EccSite) (x : Tensor), k.ownerOf a = some x → (k.ent a).st ≠ .E →
      (site = .fast → Answers (.patrolScrub t cell [⟨a, site, true⟩] false) s (fun s' =>
        Reports (u.onCell cell (fun k => { k with tiers := { k.tiers with eccFast := satAdd k.tiers.eccFast 1 } })) s')) ∧
      (site = .home ∨ site = .shadow → Answers (.patrolScrub t cell [⟨a, site, true⟩] false) s (fun s' =>
        Reports (u.onCell cell (fun k => { k with tiers := { k.tiers with eccSlow := satAdd k.tiers.eccSlow 1 } })) s')) ∧
      (site = .tagUnit → Answers (.patrolScrub t cell [⟨a, site, true⟩] false) s (fun s' =>
        Reports (u.onCell cell (fun k => { k with tiers := { k.tiers with
          eccFast := if (k.ent a).st.inFast then satAdd k.tiers.eccFast 1 else k.tiers.eccFast
          eccSlow := if (k.ent a).st.inFast then k.tiers.eccSlow else satAdd k.tiers.eccSlow 1 } })) s')) ∧
      (((k.ent a).broken site).2 = false → Answers (.patrolScrub t cell [⟨a, site, false⟩] false) s (fun s' =>
        Reports (u.onCell cell (fun k => k.setEnt a ((k.ent a).broken site).1)) s')) ∧
      (((k.ent a).broken site).2 → Answers (.patrolScrub t cell [⟨a, site, false⟩] false) s (fun s' =>
        (s'.cell cell).ent a = ((k.ent a).broken site).1))) ∧
    (k.step.running = false → k.power.state = .c1 → Answers (.patrolScrub t cell [] true) s (fun s' =>
      s'.silent = (u.onCell cell (fun k => { k with tiers := { k.tiers with sweep := u.time cell } })).silent)) ∧
    (k.tiers.sweep + dayNs ≤ u.time cell → Answers (.sweepOverdue t cell) s (fun s' =>
      Reports u s' ∧ (s'.cell cell).err.prod = k.err.prod + 1))

/-- In a service round with one open queue and one request in it, the queue's deficit rises by its quantum times its weight. The request is
tested where its cost lies within the deficit: admitted with a free entry, it takes the entry on every cell of its group, its cost leaves
the deficit and it leaves the queue; refused, it leaves with its record; held, it stays. Where its cost lies beyond the deficit it stays
and nothing else changes. An empty queue's deficit returns to zero. (R172, R173, R176, R177, R180.) -/
def Obligations.AnAdmissionRoundServesAQueue : Prop :=
  ∀ (t tn q w : Nat) (cell : Fin 8) (f : Figure) (r : QueueRec) (s : State), let u := s.at t
    let k := u.cell cell
    let d := k.deficit tn q + f.quantum * w
    let s0 := u.setDeficit cell tn q d
    u.cellUp cell → u.supply.failing = false → k.fig.active = some f → k.korif.mailGrant = 64 →
    f.queues = [r] → r.tenant = tn → (r.weights.zipIdx).filter (fun x => x.1 ≠ 0) = [(w, q)] → k.unserved tn = false →
    (k.gen.pend = [] → Answers (.admissionRound t cell) s (fun s' => s'.silent = (u.setDeficit cell tn q 0).silent)) ∧
    (∀ p, k.gen.pend = [p] → p.e.rqTenant = tn → p.e.rqQueue = q → k.gen.heldQ.contains (queueKey tn q) = false →
      k.queueWeight tn q ≠ 0 →
      (d < tokenCost p.e → Answers (.admissionRound t cell) s (fun s' => s'.silent = s0.silent)) ∧
      (tokenCost p.e ≤ d →
        (∀ x i, s0.admissionTest cell p = .admitted x → (s0.cell cell).freeEntry tn = some i →
          let first := if k.step.running then k.step.number + 1 else k.step.number
          Answers (.admissionRound t cell) s (fun s' => (s'.cell cell).gen.pend = [] ∧ s'.silent =
            (((s0.takeOn cell p i first).setDeficit cell tn q (d - tokenCost p.e)).unqueue cell p).silent)) ∧
        (∀ code bound, s0.admissionTest cell p = .refused code bound → Answers (.admissionRound t cell) s (fun s' =>
          (s'.cell cell).gen.pend = [] ∧ s'.silent = (((s0.refuse cell p code bound).unqueue cell p).onCell cell (fun k =>
            k.onVer tn (fun v => { v with switchAt := none }))).silent)) ∧
        (s0.admissionTest cell p = .held → Answers (.admissionRound t cell) s (fun s' => (s'.cell cell).gen.pend = [p] ∧
          s'.silent = ((s0.onCell cell (fun k => { k with gen := { k.gen with heldQ := k.gen.heldQ ++ [queueKey tn q] } })).onCell cell
            (fun k => k.onVer tn (fun v => { v with switchAt := none }))).silent))))

/-- When every cell of a lead's group in service has written its results, the seal ends the step on each: its number rises by one, it runs no
longer and its rows go; a live request in which the seal found a cause is ENDING with the chosen one as its reason. Before that nothing
happens. An entry in ENDING whose record waits nowhere becomes free on every cell of the group. (R9, R181, R184, R185, R314.) -/
def Obligations.TheGenerationSealEndsTheStep : Prop :=
  ∀ (t : Nat) (cell : Fin 8) (s : State), let u := s.at t
    let g := u.groupOf cell
    (u.isLead cell → (∀ m ∈ g, u.cellUp m ∧ (u.cell m).stepOver) → Answers (.generationSeal t cell) s (fun s' =>
      (∀ m ∈ g, (s'.cell m).step.number = (u.cell m).step.number + 1 ∧ (s'.cell m).step.running = false ∧ (s'.cell m).gen.rows = []) ∧
      (SMap.wf ReqEntry.free (u.cell cell).gen.table → ∀ i, ((u.cell cell).entry i).live →
        let x := (u.doubtFrames g).findFor cell i ((u.cell cell).entry i)
        x.causes ≠ [] → ((s'.cell cell).entry i).st = .ending ∧ ((s'.cell cell).entry i).reason = pickCause x.causes))) ∧
    (u.isLead cell = false ∨ (∃ m ∈ g, (u.cellUp m && (u.cell m).stepOver) = false) →
      Answers (.generationSeal t cell) s (fun s' => s'.silent = u.silent)) ∧
    (∀ entry, u.cellUp cell → ((u.cell cell).entry entry).st = .ending → u.leadCell cell = none ∨ u.leadCell cell = some cell.val →
      u.recordWaits cell entry = false → Answers (.recordWritten t cell entry) s (fun s' =>
        (∀ m, m = cell.val ∨ m ∈ g → (s'.cell m).entry entry = ReqEntry.free) ∧
        s'.silent = (u.freeEntries (cell.val :: g.filter (· ≠ cell.val)) entry).silent))

/-- With the tenant's group idle and ready, its coordinator there, no record still waiting and every computing cell's gap over, the step
opens: the coordinator holds the group with no report, answer or decision, computing cells wait for their step to begin, and cells that
only home layers are in it at once. While some computing cell's gap runs, the step does not open. (R207, R208, R233, R248, R355, R435.) -/
def Obligations.ALearningStepOpens : Prop :=
  ∀ (t : Nat) (tenant : Fin 64) (s : State), let u := s.at t
    let group := u.learnGroup tenant
    (u.coord tenant).active = false → (u.coord tenant).recWait = false → u.boot.safe = false → u.supply.failing = false →
    u.coordinated tenant → (∃ m ∈ group, (u.cell m).computes tenant) → (∀ m ∈ group, u.learnReady m tenant) →
    ((∀ m ∈ group, (u.cell m).computes tenant → u.gapOver m tenant) → Answers (.learningStepBegin t tenant) s (fun s' =>
      s'.coord tenant = { Coord.reset with group := group, active := true, mod := !u.byManager tenant, jobStep := u.openJob tenant } ∧
      (∀ m ∈ group, ((s'.cell m).lrn tenant).phase = (if (u.cell m).computes tenant then .open else .running) ∧
        ((s'.cell m).lrn tenant).decision = none ∧ ((s'.cell m).lrn tenant).checked = u.checkedStep tenant ∧
        (s'.cell m).ud.entries = [] ∧ (s'.cell m).tiers = (u.cell m).tiers) ∧
      s'.silent = (u.openStep tenant).silent)) ∧
    ((∃ m ∈ group, (u.cell m).computes tenant ∧ u.gapOver m tenant = false) → Answers (.learningStepBegin t tenant) s (fun s' =>
      s'.coord tenant = u.coord tenant ∧ ∀ m, ((s'.cell m).lrn tenant).phase = ((u.cell m).lrn tenant).phase))

/-- The ratio pass of a home cell in RUN under checked commit, with its sums written and its threads over, changes no tile of any cell and
leaves the cell ratioed. A cell that may report adds one report, with the void causes it found, and is reported, and after the loss of its
coordinator's way out it takes that loss's decision with its report; a cell still without report at its step limit makes the coordinator
note the step as missed, and nothing else. (R208, R210, R220, R234, R235, R242.) -/
def Obligations.RatioPassAndReportsReachTheCoordinator : Prop :=
  ∀ (t : Nat) (cell : Fin 8) (tenant : Fin 64) (s : State), let u := s.at t
    let k := u.cell cell
    (u.cellUp cell → (k.lrn tenant).phase = .running → (k.lrn tenant).checked → k.ud.mode = .run → u.sumsDone cell tenant →
      k.workOver tenant → Answers (.ratioPass t cell tenant) s (fun s' => ((s'.cell cell).lrn tenant).phase = .ratioed ∧
        (∀ m, (s'.cell m).tiers = (u.cell m).tiers) ∧ s'.silent = (u.ratioAll cell tenant).silent)) ∧
    (u.reportReady cell tenant → (u.coord tenant).active →
      ((u.coord tenant).decision = none → Answers (.sealReport t cell tenant) s (fun s' => ((s'.cell cell).lrn tenant).phase = .reported ∧
        (s'.coord tenant).reports.map (fun r => (r.cell, r.jobStep, r.causes)) =
          (u.coord tenant).reports.map (fun r => (r.cell, r.jobStep, r.causes)) ++
            [(cell.val, (k.run tenant).jobStep, (k.learnCauses tenant ++ k.homeCauses tenant).dedup)] ∧
        ∀ m, (s'.cell m).tiers = (u.cell m).tiers)) ∧
      (∀ d, (u.coord tenant).decision = some d → u.cutOff tenant → Answers (.sealReport t cell tenant) s (fun s' =>
        ((s'.cell cell).lrn tenant).phase = .decided ∧ ((s'.cell cell).lrn tenant).decision = some d ∧
        ∀ m, (s'.cell m).tiers = (u.cell m).tiers))) ∧
    ((u.coord tenant).active → (u.coord tenant).decision = none → cell.val ∈ (u.coord tenant).group →
      (∀ r ∈ (u.coord tenant).reports, r.cell ≠ cell.val) → u.pastLimit cell tenant →
      Answers (.sealReportStepLimit t tenant cell) s (fun s' =>
        s'.silent = (u.onCoord tenant (fun x => { x with missed := true })).silent))

/-- Where the module's supervisor coordinates the step and every report is in or one was missed at its limit, the step is void with the chosen
cause where some cause is held, and otherwise commits, under checked commit by the answer alone; the same decision reaches every cell of
the group in one step, no tile changes, and nothing is decided before the answer. Where no answer comes within the tenant's timeout the
supervisor's stands: withhold if some ratio lies out of its band, else commit. (R208, R209, R210, R211, R235.) -/
def Obligations.TheSealIsDecidedOnceForTheWholeGroup : Prop :=
  ∀ (t : Nat) (tenant : Fin 64) (s : State), let u := s.at t
    let c := u.coord tenant
    let decides (d : Bool × Nat) : Prop := Answers (.sealDecision t tenant) s (fun s' =>
      (s'.coord tenant).decision = some d ∧
      (∀ m ∈ c.group, ((s'.cell m).lrn tenant).phase = .decided ∧ ((s'.cell m).lrn tenant).decision = some d) ∧
      ∀ m, (s'.cell m).tiers = (u.cell m).tiers)
    c.active → c.decision = none →
    (c.mod → c.allIn ∨ c.missed →
      (u.foundCauses tenant ≠ [] → decides (false, pickCause (u.foundCauses tenant))) ∧
      (u.foundCauses tenant = [] → u.stepChecked tenant = false → decides (true, 0)) ∧
      (u.foundCauses tenant = [] → u.stepChecked tenant →
        (c.answer = some true → decides (true, 0)) ∧ (c.answer = some false → decides (false, vADMIN)) ∧
        (c.answer = none → Answers (.sealDecision t tenant) s (fun s' => s'.silent = u.silent)))) ∧
    (c.mod = false ∨ (c.allIn = false ∧ c.missed = false) → Answers (.sealDecision t tenant) s (fun s' => s'.silent = u.silent)) ∧
    (∀ t0, u.anchorUp → c.ratioAt = some t0 → c.answer = none → t0 + u.host.ansTime.get 100 tenant * 1000000 ≤ u.now →
      Answers (.answerTimeout t tenant) s (fun s' => s'.silent =
        (u.onCoord tenant (fun x => { x with answer := some (!c.entries.any RepEntry.outOfBand) })).silent))

/-- With a commit decision and home layers of the step, the apply pass runs once over every such layer and leaves the cell applied. A cell
that has its decision, and has applied it where it must, completes its seal: its job step count rises by one whatever was decided, its
home version by one only for a commit; after the last cell of the group the step is over on every cell of the group. (R208, R211, R212,
R219, R224.) -/
def Obligations.ACommitAppliesAndTheSealCompletes : Prop :=
  ∀ (t : Nat) (cell : Fin 8) (tenant : Fin 64) (s : State), let u := s.at t
    let k := u.cell cell
    u.cellUp cell →
    (∀ faults, k.applyDue tenant → Answers (.applyPass t cell tenant faults) s (fun s' =>
      ((s'.cell cell).lrn tenant).phase = .applied ∧ ((s'.cell cell).ver tenant).homeVer = (k.ver tenant).homeVer ∧
      s'.silent = (u.applyAll cell tenant faults).silent)) ∧
    (∀ d, (u.coord tenant).active → k.sealReady tenant → (k.lrn tenant).decision = some d → Answers (.sealComplete t cell tenant) s (fun s' =>
      ((s'.cell cell).run tenant).jobStep = (k.run tenant).jobStep + 1 ∧
      ((s'.cell cell).ver tenant).homeVer = (if d.1 then (k.ver tenant).homeVer + 1 else (k.ver tenant).homeVer) ∧
      ((∀ m ∈ (u.coord tenant).group, m ∈ (u.coord tenant).complete ++ [cell.val]) → (s'.coord tenant).active = false ∧
        ∀ m ∈ (u.coord tenant).group, ((s'.cell m).lrn tenant).phase = .idle) ∧
      ((∃ m ∈ (u.coord tenant).group, m ∉ (u.coord tenant).complete ++ [cell.val]) →
        ((s'.cell cell).lrn tenant).phase = .complete ∧ (s'.coord tenant).complete = (u.coord tenant).complete ++ [cell.val])))

/-- A taken snapshot whose tiles hold their check values and carry no poison, whose cell can sign and whose way out stands, leaves with its
shards and then its manifest, and its entry completes with DONE; with the way out failed it completes with reason LINK, the shards
delivered before may have gone (log 9: how many is a free value), and its manifest does not go. Either way the staging tensor leaves the
directory and the tenant has no snapshot in progress. (R243, R244, R245.) -/
def Obligations.ASnapshotIsPublishedOrDropped : Prop :=
  ∀ (t : Nat) (cell : Fin 8) (tenant : Fin 64) (linkOk : Bool) (x : Snap) (s : State), let u := s.at t
    let k := u.cell cell
    let tiles := (List.range ((x.shards.map (fun h => h.2.2.2)).sum)).map (k.stagedTile tenant)
    let gone (y : State) : State := y.onCell cell (fun k => (k.dropTensor tenant stageIdent).setSnap tenant none)
    let whole (y : Tile) : Prop := y.tag.poison = false ∧ y.tag.check = payloadCrc y.payload
    let left (s' : State) : Prop := (s'.cell cell).ud.snaps.get none tenant = none ∧
      ∀ y ∈ (s'.cell cell).tiers.dir, y.tenant ≠ tenant.val ∨ y.ident ≠ stageIdent
    u.cellUp cell → k.ud.snaps.get none tenant = some x → x.taken → x.bad = 0 → (∀ y ∈ tiles, whole y) →
    (∀ h ∈ x.shards, ∀ i, i < h.2.2.2 → whole (k.stagedTile tenant (h.2.2.1 + i))) → (u.cell u.identityCell).keyOk →
    (linkOk → x.e.fld 3 1 ≠ 0 ∨ u.hostUp → Answers (.snapshotTransfer t cell tenant linkOk) s (fun s' => left s' ∧
      s'.silent = ((gone ((u.sendShards cell tenant x tiles.length).sendManifest cell tenant x)).complete cell x.src x.e
        { status := 0, tag := x.e.fld 0x10 4 }).silent)) ∧
    (linkOk = false ∨ (x.e.fld 3 1 = 0 ∧ u.hostUp = false) → Answers (.snapshotTransfer t cell tenant linkOk) s (fun s' => left s' ∧
      let d := u.deliveredTiles cell tenant x linkOk
      d.2 ≤ tiles.length ∧ (x.e.fld 3 1 = 0 → u.hostUp = false → d = (u, 0)) ∧
      s'.silent = ((gone ((d.1.sendShards cell tenant x d.2).err cell
        { cls := clsLINK, sev := 2, unit := 2, tenant := tenant, reason := vLINK, detail := x.e.fld 0x10 4 })).complete cell x.src x.e
          { status := 0, reason := vLINK, tag := x.e.fld 0x10 4 }).silent))

/-- At a lead whose single-copy push has reached its start with no request pinned and no step running, the hold begins on the group and the
homes send their layers; where a home has a newer version by then, the push ends STALE. A cell whose copies carry no poison and are
complete in an expected version reports it. The pointer moves to the version that all serving cells reported, at a boundary with warming
over: it becomes current and valid on every cell of the group with no pin, and the former version is retained exactly where requests pin
it; a push ends with DONE. To the version that is current already it only ends the wait and that version's loss. Where the pointer may not
move, nothing changes. (R252, R253, R254, R257, R263, R264.) -/
def Obligations.PushesAndPointerSwitches : Prop :=
  ∀ (t : Nat) (cell : Fin 8) (tenant : Fin 64) (s : State), let u := s.at t
    let g := u.groupOf cell
    let v := (u.cell cell).ver tenant
    (∀ p, v.push = some p → u.isLead cell → p.single → p.hold = false → p.start ≤ u.time cell → v.curPins = 0 →
      (∀ m ∈ g, (u.cell m).step.running = false) →
      ((∀ h ∈ u.homesOf cell, newer ((u.cell h).ver tenant).homeVer p.ver = false) →
        Answers (.pushHoldBegin t cell tenant) s (fun s' => s'.silent =
          ((u.onCells g (fun x => x.onVer tenant (fun y => { y with push := some { p with hold := true }, warmed := false }))).pushLayers
            cell tenant).silent)) ∧
      ((∃ h ∈ u.homesOf cell, newer ((u.cell h).ver tenant).homeVer p.ver) → Answers (.pushHoldBegin t cell tenant) s (fun s' =>
        s'.silent = (u.stalePush cell tenant p).silent))) ∧
    (∀ n, u.cellUp cell → u.poisonedCopies cell tenant = [] → reportedVer v (u.completeVers cell tenant) = some n →
      Answers (.shuffleComplete t cell tenant) s (fun s' => s'.silent =
        (u.onCell cell (fun k => k.onVer tenant (fun v => { v with copied := some n }))).silent)) ∧
    (u.cellUp cell → u.poisonedCopies cell tenant ≠ [] → Answers (.shuffleComplete t cell tenant) s (fun s' => Reports u s')) ∧
    (∀ n, u.pointerTo cell tenant = some n → v.valid → v.current = n → Answers (.pointerSwitch t cell tenant) s (fun s' =>
      ∀ m ∈ g, let w := (u.cell m).ver tenant
        let w' := (s'.cell m).ver tenant
        w'.current = w.current ∧ w'.valid = w.valid ∧ w'.waitPtr = false ∧ n ∉ w'.lost)) ∧
    (∀ n, u.pointerTo cell tenant = some n → (v.valid = false ∨ v.current ≠ n) → Answers (.pointerSwitch t cell tenant) s (fun s' =>
      ∀ m ∈ g, let w := (u.cell m).ver tenant
        let w' := (s'.cell m).ver tenant
        w'.current = n ∧ w'.valid ∧ w'.curPins = 0 ∧ w'.waitPtr = false ∧ w'.push = none ∧ w'.homeVer = w.homeVer ∧
        (w'.retLive = (w.valid && w.curPins ≠ 0)) ∧ (w'.retLive → w'.retained = w.current ∧ w'.retPins = w.curPins))) ∧
    (u.pointerTo cell tenant = none → Answers (.pointerSwitch t cell tenant) s (fun s' => s'.silent = u.silent))

/-- Warming begins once for a tenant with an image and touches the tiers of no other cell but the holders of the shared weights it reads; when
it ends the image is warmed. Then up to n lagging homes of the tenant are written from their fast copies, which changes no current
content; with n at least their number, none lags any more. (R154, R260, R261.) -/
def Obligations.WarmingReadsInAndLaggingHomesCatchUp : Prop :=
  ∀ (t : Nat) (cell : Fin 8) (tenant : Fin 64) (s : State), let u := s.at t
    let k := u.cell cell
    u.cellUp cell →
    ((k.run tenant).image.isSome → (k.ver tenant).warmed = false → (k.ver tenant).warming = false →
      Answers (.warming t cell tenant) s (fun s' => ((s'.cell cell).ver tenant).warming ∧ ((s'.cell cell).ver tenant).warmed = false ∧
        ∀ m, m ≠ cell.val → (∀ x ∈ u.weightTensors cell tenant, x.1 ≠ m) → (s'.cell m).tiers = (u.cell m).tiers)) ∧
    ((k.ver tenant).warming → Answers (.warmingComplete t cell tenant) s (fun s' => s'.silent =
      (u.onCell cell (fun k => k.onVer tenant (fun v => { v with warming := false, warmed := true }))).silent)) ∧
    (∀ n, (k.ver tenant).warmed → Memory.wf k.tiers.tiles → (∀ a, (k.ent a).lagging → (k.ent a).st.inFast) →
      Answers (.laggingWriteback t cell tenant n) s (fun s' =>
        (∀ a, ((s'.cell cell).ent a).current = (k.ent a).current ∧
          ((s'.cell cell).ent a).lagging = ((k.ent a).lagging && !((k.laggards tenant).take n).contains a)) ∧
        ((k.laggards tenant).length ≤ n → (s'.cell cell).laggards tenant = [])))

/-- The first transfer of a cell ends when its bytes have come. A FETCH whose manifest is signed and names the layer, the length and the
digest of the bytes fills its tensor, which becomes READY, and ends with DONE; a shard that differs, or a manifest that does not hold,
frees the tensor and ends with DIGEST; one whose key is not to be had ends with LINK; a failed transfer ends with LINK and changes nothing
else. A REFETCH whose whole shard has the manifest's digest restores the poisoned tiles and ends with DONE. The transfer leaves the cell's
list in each case. (R244, R262, R325.) -/
def Obligations.AFetchIsAcceptedOrFails : Prop :=
  ∀ (t : Nat) (cell : Fin 8) (linkOk : Bool) (shard : List Byte) (f : FetchRun) (rest : List FetchRun) (s : State), let u := s.at t
    let k := u.cell cell
    let ends (c : Bool) (z : State) (st : Nat) : Prop := c → Answers (.fetchComplete t cell linkOk shard) s (fun s' =>
      s'.silent = (z.endFetch cell f st).silent ∧ (s'.cell cell).fetches = rest)
    k.fetches = f :: rest → u.cellUp cell →
    (∀ d mt, f.e.fld 0 1 = 0x24 → k.fetchDest f.e = some d → k.ownTensor (f.e.fld 1 1) (f.e.fld 0x10 3) = some mt →
      let up := linkOk && (f.e.fld 7 1 ≠ 1 || u.hostUp)
      let man := u.readManifest cell (4096 * mt.count) (k.tensorNat mt 0 (4096 * mt.count))
      ends (!up) u ftLINK ∧ (man = .noKey → ends up u ftLINK) ∧ (man = .bad → ends up (u.freeLoading cell d) ftDIGEST) ∧
      (∀ m l kd len h, man = .good m →
        m.entries[f.e.fld 0x14 4]? = some (l, kd, len, h) →
        let same := decide (l = f.e.fld 2 2) && decide (len = 4096 * d.count) && decide (shard.length = len) && decide (h = sha3 shard)
        ends (up && same) (u.takeShard cell f d m shard) ftDONE ∧
        ends (up && !same) ((u.storeManifest m).freeLoading cell d) ftDIGEST)) ∧
    (∀ d mt, f.e.fld 0 1 = 0x25 → k.heldShared (f.e.fld 4 3) = some d → k.ownTensor (f.e.fld 2 1) (f.e.fld 0x10 3) = some mt →
      k.poisonedOf d ≠ [] →
      let up := linkOk && (f.e.fld 3 1 ≠ 1 || u.hostUp)
      let man := u.readManifest cell (4096 * mt.count) (k.tensorNat mt 0 (4096 * mt.count))
      ends (!up) u rxLINK ∧ (man = .noKey → ends up u rxLINK) ∧ (man = .bad → ends up u rxDIGEST) ∧
      (∀ m l kd len h, man = .good m →
        m.entries[f.e.fld 0x14 4]? = some (l, kd, len, h) →
        let same := decide (len = 4096 * d.count) && decide (h = sha3 (k.mixedBytes d (k.poisonedOf d) shard))
        ends (up && same) ((u.storeManifest m).onCell cell (fun k => (k.poisonedOf d).foldl (fun k i => k.shardTile d shard none i) k)) rxDONE ∧
        ends (up && !same) (u.storeManifest m) rxDIGEST))

/-- Whatever frame arrives, on a port that is not usable nothing happens; a malformed frame only raises the port's error count; one without
the credits it needs is discarded and counted; one of a departed seat, and one that an idle port does not carry, only has its credits
returned, which on lane 0 wait while the sync overflow is full; and whenever the port does not pass a frame on to its own command, the
command changes nothing beyond what the port did. (R270, R271, R272, R274, R278, R282, R286, R292.) -/
def Obligations.AFrameThatAPortRefusesHasNoEffectOfItsOwn : Prop :=
  ∀ (t : Nat) (cell : Fin 8) (port : Fin 12) (f : Frame) (auth : Bool) (s : State), let u := s.at t
    let q := (u.cell cell).port port
    let only (z : State) : Prop := ∀ c ∈ [Instr.tileFrame t cell port f, .reducePart t cell port f, .readRequest t cell port f,
      .mailFrame t cell port f, .presence t cell port f, .offer t cell port f auth, .refuse t cell port f, .leave t cell port f,
      .level t cell port f, .hold t cell port f, .creditReturn t cell port f, .creditGrant t cell port f, .voidFrame t cell port f,
      .heartbeat t cell port f, .timeSync t cell port f, .delayRequest t cell port f, .delayResponse t cell port f],
      Answers c s (fun s' => s'.silent = z.silent)
    (q.usable = false → only u) ∧
    (q.usable → f.malformed → only (u.countError cell port)) ∧
    (q.usable → f.malformed = false → f.isCredit1 = false → q.room.getD f.lane 0 < f.need → only (u.noCredits cell port)) ∧
    (q.usable → f.malformed = false → f.linkLevel = false → f.need ≤ q.room.getD f.lane 0 → u.boot.safe = false →
      u.boot.recovery = false → u.linkDoubt cell = false → u.boot.discovery →
      (u.idlePort cell port ∧ f.idleOk = false) ∨ (u.linkHere cell port f = false ∧ u.seating.departed.contains f.sseat) →
      (f.lane = 0 → (u.cell cell).ovfFull → only ((u.useCredits cell port f).onCell cell (fun k => k.onPort port (fun q =>
        { q with withheld := q.withheld + f.need })))) ∧
      (f.lane ≠ 0 ∨ (u.cell cell).ovfFull = false → only ((u.useCredits cell port f).oweCredits cell port f.lane f.need))) ∧
    ((u.accept cell port f).2 = false → only (u.accept cell port f).1)

/-- An external port that may train comes up at the lower of its own and the offered rate; a failed attempt is counted, and the third in
succession goes one rate lower; without a rate it stays down. An internal port comes up at both ends. A retrain takes every end of an up
port down; the fifth within 1 s quarantines an external port for 10 s doubling to 600 s. A quarantine that has run out ends at every end,
and the port may train again from the highest rate. (R267, R268, R300, R301.) -/
def Obligations.PortsTrainRetrainAndAreQuarantined : Prop :=
  ∀ (t : Nat) (cell : Fin 8) (port : Fin 12) (s : State), let u := s.at t
    let q := (u.cell cell).port port
    let r (s' : State) (e : Nat × Nat) : Port := (s'.cell e.1).port e.2
    (∀ offered trained, u.fabricUp → q.up = false → q.quarUntil = none → (∀ e ∈ portEnds cell port, (u.cell e.1).korif.dead = false) →
      (4 ≤ port.val → let rate := min q.tryRate offered
        (rate = 0 → Answers (.portTrain t cell port offered trained) s (fun s' => s'.silent = u.silent)) ∧
        (rate ≠ 0 → trained → Answers (.portTrain t cell port offered trained) s (fun s' => Reports u s' ∧
          (r s' (cell, port)).up ∧ (r s' (cell, port)).rate = rate)) ∧
        (rate ≠ 0 → trained = false → Answers (.portTrain t cell port offered trained) s (fun s' => Reports u s' ∧
          (r s' (cell, port)).up = false ∧
          (q.fails + 1 < 3 → (r s' (cell, port)).fails = q.fails + 1 ∧ (r s' (cell, port)).tryRate = q.tryRate) ∧
          (3 ≤ q.fails + 1 → (r s' (cell, port)).fails = 0 ∧ (r s' (cell, port)).tryRate = rate - 1)))) ∧
      (port.val < 4 → trained → Answers (.portTrain t cell port offered trained) s (fun s' => Reports u s' ∧
        ∀ e ∈ portEnds cell port, (r s' e).up))) ∧
    (q.up → Answers (.portRetrain t cell port) s (fun s' =>
      ((∀ e ∈ portEnds cell port, (r u e).queue = [] ∧ (r u e).unacked = []) → Reports u s') ∧
      (∀ m, (s'.cell m).tiers = (u.cell m).tiers ∧ (s'.cell m).fig = (u.cell m).fig ∧ (s'.cell m).gen = (u.cell m).gen) ∧
      (∀ e ∈ portEnds cell port, (r s' e).up = false ∧ (r s' e).rate = 0 ∧ (r s' e).dead ∧
        (r s' e).holdUntil = if (r u e).holdUntil = some (2 ^ 64 - 1) then none else (r u e).holdUntil) ∧
      (4 ≤ port.val → let n := (recentTimes u.now 1000000000 q.retrains).length + 1
        let count := if q.quarUntil = none ∧ q.qend + 3600000000000 ≤ u.now then 0 else q.qcount
        (n < 5 → (r s' (cell, port)).quarUntil = q.quarUntil) ∧
        (5 ≤ n → (r s' (cell, port)).quarUntil = some (u.now + min 600 (10 * 2 ^ count) * 1000000000) ∧
          (r s' (cell, port)).qcount = count + 1)))) ∧
    (∀ h, q.quarUntil = some h → h ≤ u.now → Answers (.quarantineEnd t cell port) s (fun s' => Reports u s' ∧
      ∀ e ∈ portEnds cell port, (r s' e).quarUntil = none ∧ (r s' e).tryRate = 3 ∧ (r s' e).fails = 0))

/-- An accepted HOLD of a known reason stops the port until its hold-off has passed, and one without end stops it for good; a malformed one
counts as an error. When the hold-off has passed the hold ends. Returned credits are added, and a return beyond a lane's buffer takes the
port down; owed credits leave in one frame. A grant of kind 0x01 raises the sender's limit for its sum and lets waiting parts go; a VOID
frame gives its reason as a cause of the receiving cell's step. (R10, R275, R278, R279, R304.) -/
def Obligations.HoldsCreditsAndVoidsAtAPort : Prop :=
  (∀ (t : Nat) (cell : Fin 8) (port : Fin 12) (f : Frame) (s1 s : State), let u := s.at t
    u.accept cell port f = (s1, true) →
    (f.ftype = 6 → let bad : Prop := f.p 0 1 = 0 ∨ 4 < f.p 0 1 ∨ f.p 1 3 ≠ 0 ∨ f.p 12 4 ≠ 0 ∨ f.plen ≠ 16
      let until' : Nat := if f.p 4 4 = 0xFFFFFFFF then 2 ^ 64 - 1 else s1.now + f.p 4 4 * 1000
      (bad → Answers (.hold t cell port f) s (fun s' => s'.silent = (s1.countError cell port).silent)) ∧
      let held := s1.onCell cell (fun k => k.onPort port (fun q =>
        { q with holdUntil := some until', beaconAt := if f.p 8 4 = 0 then q.beaconAt else s1.now + f.p 8 4 * 1000 }))
      (¬ bad → Answers (.hold t cell port f) s (fun s' => ((s'.cell cell).port port).holdUntil = some until' ∧
        (f.p 4 4 ≠ 0xFFFFFFFF → s'.silent = held.silent) ∧
        (f.p 4 4 = 0xFFFFFFFF → s'.silent = (held.rerouteQueue cell port false).silent)))) ∧
    (f.isCredit1 → let counts := (List.range 8).map (fun j => f.p (16 + 2 * j) 2)
      let bad : Prop := f.p 1 15 ≠ 0 ∨ f.plen ≠ 32 ∨ (List.zipWith (fun n m => decide (m < n)) counts laneRoom).any id
      (bad → Answers (.creditReturn t cell port f) s (fun s' => ((s'.cell cell).port port).up = false)) ∧
      (¬ bad → Answers (.creditReturn t cell port f) s (fun s' => Reports s1 s' ∧ (((s1.cell cell).port port).queue = [] →
        ((s'.cell cell).port port).credits = List.zipWith (· + ·) ((s1.cell cell).port port).credits counts)))) ∧
    (f.ftype = 8 → f.p 0 1 = 2 → f.p 1 1 = 1 → Answers (.creditGrant t cell port f) s (fun s' => s'.silent =
      ((s1.onCell cell (fun k => { k with korif := { k.korif with
        partLimit := k.korif.partLimit.set 255 (((f.p 2 1 * 2 ^ 24 + f.p 8 3) * 1024 + f.sseat) * 8 + f.scell) (f.p 4 4) } })).retryParts cell).silent)) ∧
    (f.ftype = 0xA → let why := if 1 ≤ f.p 0 1 ∧ f.p 0 1 ≤ 12 then f.p 0 1 else vLINK
      let st := (s1.cell cell).step
      let ahead := (f.p 4 4 + 2 ^ 32 - st.number % 2 ^ 32) % 2 ^ 32
      Answers (.voidFrame t cell port f) s (fun s' => s'.silent = (s1.causeAt cell why (f.p 1 1) (f.p 4 4)).silent ∧
        (ahead = 0 → st.running → ∃ c ∈ (s'.cell cell).step.causes, c.code = why ∧ c.tenant = f.p 1 1) ∧
        (ahead < 2 ^ 31 → ahead ≠ 0 ∨ st.running = false →
          ∃ y ∈ (s'.cell cell).step.later, y.1 = f.p 4 4 ∧ y.2.code = why ∧ y.2.tenant = f.p 1 1) ∧
        (2 ^ 31 ≤ ahead → s'.silent = s1.silent)))) ∧
  (∀ (t : Nat) (cell : Fin 8) (port : Fin 12) (s : State), let u := s.at t
    let q := (u.cell cell).port port
    (∀ h, q.holdUntil = some h → h ≤ u.now → Answers (.holdOffEnd t cell port) s (fun s' => Reports u s' ∧
      ((s'.cell cell).port port).holdUntil = none)) ∧
    (q.usable → Answers (.creditReturnTick t cell port) s (fun s' => Reports u s' ∧ ((s'.cell cell).port port).owed.all (· = 0) ∧
      (q.owed.all (· = 0) = false → ((s'.cell cell).port port).room = List.zipWith (· + ·) q.room q.owed))))

/-- An accepted tile whose check value holds is written where its kind says: into its tensor with the frame's signal, into a figure slot that
its sender is loading, into the tree of its sum, or to the MOVE that waits for the response; one whose check value fails is written
nowhere and voids the work with CHECK. A read request is answered with the tile. A sync message in a frame is applied or held, or kept in
the overflow until it can be, and credits withheld meanwhile are then given. (R40, R42, R205, R273, R274, R309.) -/
def Obligations.TilesRequestsAndSyncFramesAreTakenIn : Prop :=
  (∀ (t : Nat) (cell : Fin 8) (port : Fin 12) (f : Frame) (s1 s : State), let u := s.at t
    let y := frameSlot f
    u.accept cell port f = (s1, true) → u.cellUp cell → f.ftype = 1 →
    (∀ x, y = some x → x.ok → f.tkind = 0 → f.lane ≠ 4 →
      (f.lane = 5 → (((s1.cell cell).lookup f.tenant f.tensor).any (fun y => !y.1.ready)) = false) →
      (∀ s2, s1.tierWrite cell f.tenant f.tensor f.tseq x [] = (s2, true) → Answers (.tileFrame t cell port f) s (fun s' =>
        s'.silent = (s2.frameSignal cell f).silent)) ∧
      (∀ s2, s1.tierWrite cell f.tenant f.tensor f.tseq x [] = (s2, false) → Answers (.tileFrame t cell port f) s (fun s' =>
        s'.silent = (s2.cause cell vCHECK f.tenant none).silent))) ∧
    (∀ x s2, y = some x → x.ok → f.tkind = 0 → f.lane = 4 →
      (s1.broadcastIn cell f.tenant f.tensor f.tseq x = (s2, true) → Answers (.tileFrame t cell port f) s (fun s' =>
        s'.silent = (s2.frameSignal cell f).silent)) ∧
      (s1.broadcastIn cell f.tenant f.tensor f.tseq x = (s2, false) → Answers (.tileFrame t cell port f) s (fun s' =>
        s'.silent = (s2.cause cell vCHECK f.tenant none).silent))) ∧
    (∀ x b who, y = some x → x.ok → f.tkind = 1 → (s1.cell cell).fig.slots.get .empty (bits f.tseq 12 2) = .loading b none who →
      who = f.origin → Answers (.tileFrame t cell port f) s (fun s' => s'.silent = (s1.onCell cell (fun k => { k with fig := { k.fig with
        slots := k.fig.slots.set .empty (bits f.tseq 12 2)
          (.loading (b.set 0 (f.tseq % 4096) (BitVec.ofNat 32768 (f.p 16 4096))) none who) } })).silent)) ∧
    (∀ x, y = some x → x.ok → f.tkind = 2 → ∀ c ∈ [Instr.tileFrame t cell port f, .reducePart t cell port f], Answers c s (fun s' =>
      s'.silent = ((s1.takePart cell (s1.framePart cell f x) x f.resent).retryParts cell).silent)) ∧
    (∀ x n o j, y = some x → x.ok → f.tkind = 4 → (s1.cell cell).readWait f.aux = some (n, o, j) →
      let rest := o.waits.filter (fun w => w.1 ≠ f.aux)
      Answers (.tileFrame t cell port f) s (fun s' => s'.silent = (s1.readResponse cell f.aux x).silent ∧
        (rest ≠ [] → ((s'.cell cell).core n).engine 6 = some { o with waits := rest, got := o.got ++ [(j, x)] }))) ∧
    (∀ x, y = some x → x.ok → f.tkind = 4 → (s1.cell cell).readWait f.aux = none → Answers (.tileFrame t cell port f) s (fun s' =>
      s'.silent = s1.silent)) ∧
    ((∀ x, y = some x → x.ok = false) → f.tkind ≠ 3 → ¬(f.sseat = s1.mySeat ∧ f.scell = cell) →
      Answers (.tileFrame t cell port f) s (fun s' =>
        Reports (s1.causeAt cell vCHECK f.tenant (nearStep (s1.cell cell).step.number f.fstep % 2 ^ 32)) s')) ∧
    (f.tkind = 3 → (∀ s2 x, s1.tierRead cell f.tenant f.tensor f.tseq (moveAsk ≤ f.aux) [] = some (s2, x) →
        Answers (.readRequest t cell port f) s (fun s' => s'.silent = (s2.sendTile cell 0
          { seat := f.sseat, cell := f.scell, tenant := f.tenant, ident := f.tensor, seq := f.tseq, lane := 7, kind := 4, aux := f.aux,
            group := 0xFFFF, ctr := 0xFFFF } x true).1.silent)) ∧
      (s1.tierRead cell f.tenant f.tensor f.tseq (moveAsk ≤ f.aux) [] = none → ¬(f.sseat = s1.mySeat ∧ f.scell = cell) →
        Answers (.readRequest t cell port f) s (fun s' => Reports s1 s')))) ∧
  (∀ (t : Nat) (cell : Fin 8) (port : Fin 12) (f : Frame) (s1 s : State), let u := s.at t
    let m : SyncMsg := { frameSync f with cell := cell }
    u.accept cell port f = (s1, true) → u.cellUp cell → f.ftype = 2 → f.plen = 4 → f.p 0 2 ≠ 0 →
    (∀ s2, s1.syncArrive m = some s2 → Answers (.syncFrame t cell port f) s (fun s' => s'.silent = s2.silent)) ∧
    (s1.syncArrive m = none → Answers (.syncFrame t cell port f) s (fun s' => s'.silent = (s1.onCell cell (fun k =>
      { k with korif := { k.korif with syncOvf := k.korif.syncOvf ++ [f] } })).silent))) ∧
  (∀ (t : Nat) (cell : Fin 8) (f : Frame) (s2 s : State), let u := s.at t
    (u.cell cell).korif.syncOvf = [f] → u.syncArrive { frameSync f with cell := cell } = some s2 →
    Answers (.syncOverflowRetry t cell) s (fun s' => s'.silent = ((s2.onCell cell (fun k =>
      { k with korif := { k.korif with syncOvf := [] } })).giveWithheld cell).silent))

/-- The unit of an accepted MAIL frame acts by its class: an entry at its cell, a figure command, or routes; a frame whose classes do not fit
is an error of the port. A route unit from the Manager sets exactly the routes it names. A receiver takes the oldest sixteen words of its
direction as one entry; a cell whose queue that leaves drained falls back to rest (log 116). A frame for another destination crosses the
switch to its route's output and nothing else of it acts here; a DECISION of the Manager for a group it coordinates decides the cell's
step. (R16, R207, R276, R277, R283, R284, R346, R347.) -/
def Obligations.MailRoutesAndForwarding : Prop :=
  (∀ (t : Nat) (cell : Fin 8) (port : Fin 12) (f : Frame) (s1 s : State), let u := s.at t
    u.accept cell port f = (s1, true) →
    (f.ftype = 3 → u.cellUp cell → let unit : Entry := BitVec.ofNat 512 (f.p 0 64)
      (mailClasses f = none → Answers (.mailFrame t cell port f) s (fun s' => s'.silent = (s1.countError cell port).silent)) ∧
      (mailClasses f = some [1] → Answers (.mailFrame t cell port f) s (fun s' => s'.silent = ((((s1.onCell cell (fun k =>
        { k with korif := { k.korif with mailGrant := k.korif.mailGrant - 1 } })).wake cell).doEntry cell
          { who := f.origin, path := .mail } unit).renewMail cell).silent)) ∧
      (mailClasses f = some [3] → Answers (.mailFrame t cell port f) s (fun s' =>
        s'.silent = ((s1.figureUnit cell f.origin unit).renewMail cell).silent)) ∧
      (mailClasses f = some [5] → Answers (.mailFrame t cell port f) s (fun s' =>
        s'.silent = ((s1.takeRoutes cell f.origin unit).renewMail cell).silent))) ∧
    (∀ tn, f.ftype = 9 → u.fabricUp → u.cellUp cell → s1.fromManager f → f.p 0 1 = 2 → f.p 1 1 = tn → (s1.coord tn).mod = false →
      (s1.coord tn).active → f.p 4 4 = (s1.coord tn).step → ((s1.cell cell).lrn tn).decision = none →
      ((s1.cell cell).lrn tn).phase ≠ .idle → ((s1.cell cell).lrn tn).phase ≠ .complete →
      let commit := (f.p 2 1).testBit 0
      let d : Bool × Nat := (commit, if commit then 0 else if 1 ≤ f.p 3 1 ∧ f.p 3 1 ≤ 12 then f.p 3 1 else vLINK)
      Answers (.frameForward t cell (port.castLE (by decide)) f) s (fun s' =>
        (s'.coord tn).decision = some ((s1.coord tn).decision.getD d) ∧
        ((s'.cell cell).lrn tn).decision = some d ∧ ((s'.cell cell).lrn tn).phase = .decided ∧
        ((s'.cell cell).lrn tn).decTime = f.p 0x10 8))) ∧
  (∀ (t : Nat) (cell : Fin 8) (port : Fin 12) (f : Frame) (s : State), let u := s.at t
    let q := (u.cell cell).port port
    let v := u.useCredits cell port f
    q.usable → f.malformed = false → f.linkLevel = false → u.idlePort cell port = false → (f.lane ≠ 0 ∨ (u.cell cell).ovfFull = false) →
    f.need ≤ q.room.getD f.lane 0 → u.boot.safe = false →
    u.boot.recovery = false → u.linkDoubt cell = false → u.boot.discovery → u.seating.departed.contains f.sseat = false →
    u.prospective f = false → (f.dseat ≠ u.mySeat ∨ f.dcell ≠ cell.val) → u.fabricUp →
    ∀ o, v.route cell f.dseat f.dcell = some o → Answers (.frameForward t cell (port.castLE (by decide)) f) s (fun s' => Reports u s' ∧
      s'.silent = ((v.enqueue cell o port f).oweCredits cell port f.lane f.need).silent)) ∧
  (∀ (t : Nat) (cell : Fin 8) (e : Entry) (s : State), let u := s.at t
    u.fabricUp → u.seating.seated → 1 ≤ e.fld 2 1 → e.fld 2 1 ≤ 60 → e.fld 3 1 = 0 → e.fld 0 2 + e.fld 2 1 ≤ 8192 →
    e.zeroBytes (4 + e.fld 2 1) 64 → (∀ j, j < e.fld 2 1 → ∀ n ∈ [e.fld (4 + j) 1 % 16, e.fld (4 + j) 1 / 16], n < 12 ∨ n = 15) →
    Answers (.routeUnit t cell 0x70 e) s (fun s' => (∀ a, (s'.cell cell).korif.routes.get 0xFF a =
      if e.fld 0 2 ≤ a ∧ a < e.fld 0 2 + e.fld 2 1 then BitVec.ofNat 8 (e.fld (4 + (a - e.fld 0 2)) 1)
      else (u.cell cell).korif.routes.get 0xFF a) ∧
      (∀ n, n ∈ s'.seating.departed ↔ n ∈ u.seating.departed ∧ ∀ j, j < e.fld 2 1 → (e.fld 0 2 + j) / 8 = n → e.fld (4 + j) 1 = 0xFF) ∧
      ∃ r d, s'.silent = (State.onCell { u with seating := { u.seating with departed := d } } cell (fun k =>
        { k with korif := { k.korif with routes := r } })).silent)) ∧
  (∀ (t : Nat) (chan : Fin 64) (toB : Bool) (c : Nat) (s : State), let u := s.at t
    let d := (u.chan chan).dir toB
    receiverCell chan (u.chanTo chan toB) = some c → (u.binding chan).valid → u.cellUp c → d.pend → 16 ≤ d.queue.length →
    ((u.chan chan).dir (!toB)).waits = [] → (u.chanTo chan toB = 0x40 → u.anchorUp) →
    (u.chanTo chan toB = 0x40 ∨ (u.cell c).power.state = .c0) →
    let w := (u.onDir chan toB (fun d => { d with queue := d.queue.drop 16, pend := d.pend && 16 ≤ (d.queue.drop 16).length })).doEntry c
      { who := u.chanTo chan (!toB), path := .box chan } (BitVec.ofNat 512 (pack ((d.queue.take 16).map (fun w => (4, w.toNat)))))
    Answers (.mailboxEntryTake t chan toB) s (fun s' => s'.silent =
      (if u.chanTo chan toB = 0x40 ∨ ((w.chan chan).dir toB).pend then w else w.rest c).silent))

/-- A first-hand presence after discovery makes its sender the port's peer, and a forwarded one goes to the Manager's program; before, it
waits in the buffer while that holds fewer than 64 sources, and beyond them it is answered with a HOLD whose hold-off is a free value (log
9). An idle port beacons. An authentic offer of a seat is taken with its table, seat and level, and with no route but the one to (0, 0); a
seated module refuses it, and an orphan refuses one of another table. A REFUSE changes nothing. A departed seat has no route on any cell.
A level comes into force where no step runs, else it waits. Without a heartbeat for 30 ms the seat is orphaned, and an undecided learning
step that the Manager's program coordinates is void. (R283, R286, R287, R288, R289, R292, R293, R298, R302.) -/
def Obligations.PresenceJoiningAndLeavingATable : Prop :=
  (∀ (t : Nat) (cell : Fin 8) (port : Fin 12) (f : Frame) (s1 s : State), let u := s.at t
    let q := (s1.cell cell).port port
    u.accept cell port f = (s1, true) →
    (f.ftype = 4 → u.boot.discovery → f.firstHand → Answers (.presence t cell port f) s (fun s' => Reports s1 s' ∧
      ((s'.cell cell).port port).peer = some (BitVec.ofNat 256 f.data))) ∧
    (f.ftype = 4 → u.boot.discovery → f.firstHand = false → Answers (.presence t cell port f) s (fun s' =>
      s'.silent = (s1.emit (.frame cell 13 f)).silent)) ∧
    (f.ftype = 4 → u.boot.discovery = false → (∀ y ∈ q.buffered, presenceKey y ≠ presenceKey f) →
      (q.buffered.length < 64 → Answers (.presence t cell port f) s (fun s' =>
        s'.silent = (s1.onCell cell (fun k => k.onPort port (fun q => { q with buffered := q.buffered ++ [f] }))).silent)) ∧
      (64 ≤ q.buffered.length → Answers (.presence t cell port f) s (fun s' => s'.free = s1.free + 1 ∧
        Reports { s1 with free := s1.free + 1 } s'))) ∧
    (∀ auth, f.ftype = 5 → f.p 0 1 = 2 → s1.joinRelay cell port f = none →
      ((s1.seating.seated ∧ s1.seating.orphaned = false) ∨ (s1.prospective f ∧ auth = false) →
        Answers (.offer t cell port f auth) s (fun s' => Reports s1 s')) ∧
      (s1.prospective f → auth → s1.seating.orphaned → f.p 0x10 8 ≠ s1.seating.tableId.toNat →
        Answers (.offer t cell port f auth) s (fun s' => Reports s1 s')) ∧
      (s1.prospective f → auth → (s1.seating.orphaned → f.p 0x10 8 = s1.seating.tableId.toNat) → 1 ≤ f.p 2 2 → f.p 2 2 ≤ 1023 → f.p 0x10 8 ≠ 0 →
        Answers (.offer t cell port f auth) s (fun s' =>
          s'.seating = { s1.seating with
            tableId := BitVec.ofNat 64 (f.p 0x10 8), manager := false, seated := true, orphaned := false, seat := f.p 2 2,
            level := min 3 (f.p 0x18 1), newLevel := none, lastBeat := s1.now, departed := [] } ∧
          ∀ a, (s'.cell cell).korif.routes.get 0xFF a = if a = 0 then BitVec.ofNat 8 (0xF0 + port.val) else 0xFF))) ∧
    (f.ftype = 5 → f.p 0 1 = 4 → s1.joinRelay cell port f = none → Answers (.refuse t cell port f) s (fun s' => s'.silent = s1.silent)) ∧
    (f.ftype = 5 → f.p 0 1 = 5 → s1.fromManager f → f.p 2 2 ≠ s1.seating.seat → f.p 2 2 ≤ 1023 →
      Answers (.leave t cell port f) s (fun s' => f.p 2 2 ∈ s'.seating.departed ∧
        (∀ m ∈ allCells, ∀ j, j < 8 → (s'.cell m).korif.routes.get 0xFF (8 * f.p 2 2 + j) = 0xFF) ∧
        ∀ m, (s'.cell m).tiers = (s1.cell m).tiers)) ∧
    (f.ftype = 5 → f.p 0 1 = 6 → s1.fromManager f → s1.joinRelay cell port f = none → 1 ≤ f.p 0x10 1 → f.p 0x10 1 ≤ 3 →
      ((∀ m ∈ allCells, (s1.cell m).step.running = false) → Answers (.level t cell port f) s (fun s' => s'.silent =
        State.silent { s1 with seating := { s1.seating with level := f.p 0x10 1, newLevel := none } })) ∧
      ((∃ m ∈ allCells, (s1.cell m).step.running) → Answers (.level t cell port f) s (fun s' => s'.silent =
        State.silent { s1 with seating := { s1.seating with newLevel := some (f.p 0x10 1) } })))) ∧
  (∀ (t : Nat) (cell : Fin 8) (port : Fin 12) (s : State), let u := s.at t
    let q := (u.cell cell).port port
    (u.boot.discovery → q.usable → u.idlePort cell port → u.boot.safe = false → q.beaconAt ≤ u.now →
      Answers (.presenceBeacon t cell port) s (fun s' => Reports u s' ∧ s'.silent = (u.sendPort cell port
        { ftype := 4, dseat := 0, dcell := 0, origin := idSupervisor cell, plen := 32, data := u.presencePayload cell port }).silent)) ∧
    (u.boot.running → u.boot.discovery = false → Answers (.discoveryAccept t) s (fun s' =>
      Reports { u with boot := { u.boot with discovery := true } } s' ∧
      ∀ m ∈ allCells, ∀ p, p < 12 → ((s'.cell m).port p).buffered = [])) ∧
    (u.seating.seated → u.seating.orphaned = false → u.seating.seat ≠ 0 → u.seating.lastBeat + 30000000 ≤ u.now →
      Answers (.orphanTimeout t) s (fun s' => s'.seating = { u.seating with orphaned := true } ∧
        (∀ tn, tn < 64 → (u.coord tn).active → (u.coord tn).mod = false → (u.coord tn).decision = none →
          ∃ why, (s'.coord tn).decision = some (false, why)) ∧
        ∀ m, (s'.cell m).tiers = (u.cell m).tiers ∧ (s'.cell m).korif.routes = (u.cell m).korif.routes)))

/-- A heartbeat of seat 0 that cell 0 of a seated module accepts is noted with its time and answered, and any other changes nothing. Every
tick sends a SYNC and a delay request on each table port. A SYNC from the parent's port sets the slew to the negated offset, counts
intervals within 40 ns, aligns after 16 of them and clears the alignment beyond 50 ns; from another port it changes nothing. A delay
request is answered with its arrival time; a response to a pending one sets the measured delay. (R291, R297, R298.) -/
def Obligations.TableTimeIsKept : Prop :=
  (∀ (t : Nat) (cell : Fin 8) (port : Fin 12) (f : Frame) (s1 s : State), let u := s.at t
    u.accept cell port f = (s1, true) → f.ftype = 7 →
    (f.p 0 1 ≠ 4 ∨ s1.seating.seated = false ∨ cell ≠ 0 ∨ f.sseat ≠ 0 → Answers (.heartbeat t cell port f) s (fun s' =>
      s'.silent = s1.silent)) ∧
    (f.p 0 1 = 4 → s1.seating.seated → cell = 0 → f.sseat = 0 → Answers (.heartbeat t cell port f) s (fun s' =>
      Reports { s1 with seating := { s1.seating with lastBeat := s1.now } } s')) ∧
    (f.p 0 1 = 1 → let k := s1.cell cell
      let off : Int := (s1.time cell : Int) - ((f.p 8 8 : Nat) + sval 64 (f.p 0x10 8) / 65536 + (k.port port).delay2 / 2)
      let n := if -40 ≤ off ∧ off ≤ 40 then k.inTol + 1 else 0
      let aligned := decide (-50 ≤ off ∧ off ≤ 50) && (k.aligned || decide (16 ≤ n))
      (s1.parentPort cell ≠ some port.val → Answers (.timeSync t cell port f) s (fun s' => s'.silent = s1.silent)) ∧
      (s1.parentPort cell = some port.val → Answers (.timeSync t cell port f) s (fun s' =>
        Reports (s1.onCell cell (fun k => { k with slew := -off, inTol := min 16 n, aligned := aligned })) s'))) ∧
    (f.p 0 1 = 2 → Answers (.delayRequest t cell port f) s (fun s' => Reports s1 s' ∧
      s'.silent = (s1.sendTime cell port 3 (s1.time cell)).silent)) ∧
    (∀ t1, f.p 0 1 = 3 → ((s1.cell cell).port port).reqAt = some t1 → Answers (.delayResponse t cell port f) s (fun s' => s'.silent =
      (s1.onCell cell (fun k => k.onPort port (fun q => { q with
        reqAt := none, delay2 := ((s1.time cell : Int) - t1) - ((f.p 8 8 : Int) - (f.p 0x18 8 : Int)) }))).silent))) ∧
  (∀ (t : Nat) (cell : Fin 8) (s : State), let u := s.at t
    u.seating.seated → u.fabricUp → u.boot.safe = false → Answers (.timeSyncTick t cell) s (fun s' => Reports u s' ∧
      ∀ p, p < 12 → u.tablePort cell p → ((s'.cell cell).port p).reqAt = some (u.time cell)))

/-- When the host anchor is lost the host paths go, every cell's share is frozen where it stands, no tile changes but in an idle cell that
goes to C4, and an undecided learning step that the module's supervisor coordinates is void. A failed sync wire is noted once, and the
messages it carried leave the wires. A core due for its fence is fenced at the boundary. A round of tests puts the drawn cores under test.
A passed core returns at the next boundary and a failed one is fenced for good, with a store of that; a switch's doubt ends with its test,
and a failed one is dead; a passed U-die runs. (R20, R27, R214, R306, R317, R318, R321, R322.) -/
def Obligations.AnchorLossWiresFencesAndTests : Prop :=
  ∀ (t : Nat) (cell : Fin 8) (s : State), let u := s.at t
    let k := u.cell cell
    (u.boot.anchorLost = false → u.boot.islands → Answers (.hostAnchorLoss t) s (fun s' =>
      s'.boot = { u.boot with anchorLost := true } ∧ s'.host.pathLost ∧ s'.seating = u.seating ∧
      (∀ m ∈ allCells, (s'.cell m).power.frozen = some (u.cell m).power.share ∧ (s'.cell m).power.target = (u.cell m).power.share ∧
        (s'.cell m).power.share = (u.cell m).power.share ∧
        ((s'.cell m).tiers = (u.cell m).tiers ∨ ((u.cell m).step.running = false ∧ (s'.cell m).tiers = (u.cell m).enterC4.tiers)) ∧
        ((u.cell m).step.running → (s'.cell m).step.hostLost ∧ (s'.cell m).power.state = (u.cell m).power.state)) ∧
      ∀ tn, tn < 64 → (u.coord tn).active → (u.coord tn).mod → (u.coord tn).decision = none →
        ∃ why, (s'.coord tn).decision = some (false, why))) ∧
    (∀ port : Fin 4, let a := min cell.val (internalPeer cell port)
      let b := max cell.val (internalPeer cell port)
      let u1 : State := { u with badWires := u.badWires ++ [(a, b)] }
      u.boot.islands → u.badWires.contains (a, b) = false → Answers (.syncWireFail t cell port) s (fun s' =>
        s'.badWires = u1.badWires ∧ s'.net = u.net.filter u1.wired ∧ s'.netHeld = u.netHeld.filter u1.wired ∧
        (∀ m, (s'.cell m).tiers = (u.cell m).tiers) ∧ ((∀ m ∈ u.net ++ u.netHeld, u1.wired m) → Reports u1 s'))) ∧
    (∀ core : Fin 128, u.cellUp cell → k.step.running = false → (k.core core).fenceDue → (k.core core).returning = false →
      Answers (.coreFence t cell core) s (fun s' => ((s'.cell cell).core core).fenced ∧
        s'.silent = ((u.fence cell core).boundarySoon cell).silent)) ∧
    (u.cellUp cell → k.step.running = false → k.drawCores ≠ [] → k.cores.any (fun p => p.2.testing) = false → k.power.state = .c0 →
      Answers (.testRound t cell) s (fun s' => ∃ w : State, (∀ n ∈ k.drawCores, ((w.cell cell).core n).testing) ∧
        (∀ m, m ≠ cell.val → w.cell m = u.cell m) ∧ s'.silent = (w.boundarySoon cell).silent)) ∧
    (∀ unit passed, u.cellUp cell → k.underTest unit → Answers (.fieldTestComplete t cell unit passed) s (fun s' => ∃ w : State,
      s'.silent = (w.boundarySoon cell).silent ∧ (w.cell cell).tiers = k.tiers ∧
      (unit < 128 → passed → ((w.cell cell).core unit).testing = false ∧ ((w.cell cell).core unit).returning) ∧
      (unit < 128 → passed = false → ((w.cell cell).core unit).testing = false ∧ ((w.cell cell).core unit).fenced ∧
        ((w.cell cell).core unit).permFence ∧ Store.permFence cell unit ∈ w.flash.queue) ∧
      (unit = 128 → (w.cell cell).korif.doubt = false ∧ (w.cell cell).korif.dead = (k.korif.dead || !passed)) ∧
      (unit = 129 → (w.cell cell).ud.testing = false ∧
        (w.cell cell).ud.mode = (if passed && !k.ud.failed then .run else k.ud.mode))))

/-- PERST_N taken low resets the host port: its paths and link go, every function's rings are off with no record waiting, BAR2 returns to
zero, and no tile changes. A hot reset does the same with the link, a link-down event keeps the functions, D3hot keeps the link. With the
link up and a ring enabled the paths return. A function level reset takes one function's rings and empties its channels; the PF's takes
every function in use and disables the VFs, and completes when its time has passed. (R20, R335, R336, R372, R403.) -/
def Obligations.TheHostPathsGoAndReturn : Prop :=
  ∀ (t : Nat) (s : State), let u := s.at t
    let off (s' : State) (n : Nat) : Prop := (s'.fn n).cqEn = false ∧ (s'.fn n).recs = [] ∧ (s'.fn n).sq = []
    (u.supply.perstN → u.inReset = false → Answers (.perstN t false) s (fun s' => s'.supply = { u.supply with perstN := false } ∧
      s'.host.pathLost ∧ s'.host.linkUp = false ∧ s'.host.cfgLive = false ∧ s'.host.bar2 = 0 ∧ (∀ n, n < 64 → off s' n) ∧
      ∀ m, (s'.cell m).tiers = (u.cell m).tiers)) ∧
    (u.supply.perstN = false → Answers (.perstN t true) s (fun s' =>
      s'.silent = State.silent { u with supply := { u.supply with perstN := true } })) ∧
    (∀ how : Fin 3, u.host.linkUp → Answers (.hostLinkReset t how) s (fun s' => s'.host.pathLost ∧
      (how.val = 0 → s'.host.linkUp = false ∧ s'.host.bar2 = 0 ∧ ∀ n, n < 64 → off s' n) ∧
      (how.val = 1 → s'.host.linkUp = false ∧ ∀ n, (s'.fn n).sq = (u.fn n).sq ∧ (s'.fn n).cqEn = (u.fn n).cqEn) ∧
      (how.val = 2 → s'.host.linkUp ∧ s'.host.d3hot ∧ ∀ n, (s'.fn n).sq = (u.fn n).sq ∧ (s'.fn n).cqEn = (u.fn n).cqEn))) ∧
    (u.anchorUp → u.host.linkUp → u.host.cfgLive → u.ringsOn → Answers (.hostPathReturn t) s (fun s' => s'.silent =
      State.silent { u with host := { u.host with d3hot := false, pathLost := false, dmaStop := false, vfs := 63 } })) ∧
    (∀ fn : Fin 64, u.barUp → u.fnOn fn → fn.val ≠ 0 → Answers (.vfFlr t fn) s (fun s' => off s' fn ∧ (s'.fn fn).flr ∧
      (∀ n, n ≠ fn.val → n ≠ 0 → (s'.fn n).sq = (u.fn n).sq) ∧
      ∀ n, n < 64 → (u.chanSide n (BitVec.ofNat 8 fn)).isSome → (s'.chan n).ab.queue = [] ∧ (s'.chan n).ba.queue = [])) ∧
    (u.barUp → Answers (.pfFlr t) s (fun s' => s'.host.vfs = 0 ∧ s'.host.bar2 = 0 ∧
      ∀ n, n < 64 → u.fnOn n → off s' n ∧ (s'.fn n).flr)) ∧
    (∀ fn : Fin 64, (u.fn fn).flr → Answers (.flrComplete t fn) s (fun s' =>
      s'.silent = (u.onFn fn (fun h => { h with flr := false })).silent))

/-- A tail below the ring's size is taken, and any other sets BADTAIL and RINGERR and leaves the tail. A disabled ring takes its size with its
enable bit where the size is allowed, and disabling returns its indices to zero. The ring that the button chooses among those ready gives
its next entry to its cell and its head moves on; a failed fetch disables the ring. A waiting record with room is written at the tail,
which moves on, and without room it waits. (R71, R338, R339, R341, R342.) -/
def Obligations.RingsAreWrittenFetchedAndAnswered : Prop :=
  (∀ (t : Nat) (fn : Fin 64) (ring : Fin 8) (value : BitVec 16) (s : State), let u := s.at t
    let r := (u.fn fn).ring ring
    u.barUp → u.fnOn fn → (u.fn fn).flr = false →
    (value.toNat < r.size → Answers (.sqTail t fn ring value) s (fun s' => s'.silent =
      (u.onFn fn (fun h => h.onRing ring (fun r => { r with tail := value.toNat }))).silent)) ∧
    (r.size ≤ value.toNat → Answers (.sqTail t fn ring value) s (fun s' => Reports (u.onFn fn (fun h =>
      { h.onRing ring (fun r => { r with badTail := true }) with ringErr := true })) s'))) ∧
  (∀ (t : Nat) (fn : Fin 64) (ring : Nat) (w : BitVec 32) (s : State), let u := s.at t
    let r := (u.fn fn).ring ring
    let size := bits w.toNat 0 17
    u.barUp → u.fnOn fn → (u.fn fn).flr = false →
    (ring < 8 → r.en = false → w.getLsbD 31 = false ∨ ringSizeOk 16 size → Answers (.ringEnable t fn ring w) s (fun s' => s'.silent =
      (u.onFn fn (fun h => h.onRing ring (fun r => { r with size := size, en := w.getLsbD 31 }))).silent)) ∧
    (ring < 8 → r.en → w.getLsbD 31 = false → Answers (.ringEnable t fn ring w) s (fun s' => s'.silent =
      (u.onFn fn (fun h => h.onRing ring (fun r => { r with en := false, head := 0, tail := 0 }))).silent)) ∧
    (ring = 8 → (u.fn fn).cqEn = false → w.getLsbD 31 = false ∨ ringSizeOk 64 size → Answers (.ringEnable t fn ring w) s (fun s' =>
      s'.silent = (u.onFn fn (fun h => { h with cqSize := size, cqEn := w.getLsbD 31 })).silent)) ∧
    (ring = 8 → (u.fn fn).cqEn → w.getLsbD 31 = false → Answers (.ringEnable t fn ring w) s (fun s' =>
      (s'.fn fn).cqEn = false ∧ (s'.fn fn).cqHead = 0 ∧ (s'.fn fn).cqTail = 0 ∧ (s'.fn fn).recs = []))) ∧
  (∀ (t : Nat) (ready : List (Fin 64 × Fin 8)) (ok : Bool) (e : Entry) (key : Nat) (s : State), let u := s.at t
    let n := key / 8
    let c := key % 8
    let u1 : State := { u with host := { u.host with fetchKey := key + 1 } }
    keyWin u.host.fetchKey ((ready.filter (fun r => u.ringReady r.1 r.2)).map (fun r => 8 * r.1.val + r.2.val)) = some key →
    (ok = false → Answers (.ringFetch t ready ok e) s (fun s' => Reports (u1.onFn n (fun h =>
      { h.onRing c (fun r => { r with en := false, head := 0, tail := 0 }) with ringErr := true })) s')) ∧
    (ok → Answers (.ringFetch t ready ok e) s (fun s' => s'.silent =
      (((u1.onFn n (fun h => h.onRing c (fun r => { r with head := (r.head + 1) % r.size }))).wake c).doEntry c
        { who := BitVec.ofNat 8 n, path := .ring ((u.fn n).ring c).head } e).silent))) ∧
  (∀ (t : Nat) (fn : Fin 64) (r : QRec) (w : BitVec 256) (s : State), let u := s.at t
    let h := u.fn fn
    u.hostUp → u.fnOn fn → h.cqEn → 0 < h.cqSize → h.flr = false → h.recs = [r] → r.slots = [w] → r.learn = none →
    (1 ≤ h.cqFree → Answers (.completionWrite t fn) s (fun s' =>
      Reports (u.onFn fn (fun h => { h with recs := [], cqTail := (h.cqTail + 1) % h.cqSize })) s' ∧
      Emit.hostWrite (h.cqBase.toNat + 32 * h.cqTail) 32 w.toNat ∈ s'.out)) ∧
    (h.cqFree = 0 → Answers (.completionWrite t fn) s (fun s' => s'.silent = u.silent)))

/-- A word that an identity of the channel sends enters its direction behind the others, and a full queue discards and counts it. A doorbell
sets a clear event and raises it, and only counts on a pending one; toward the Manager the queued words leave. The receiver reads the
oldest word and clears its event with the last; it clears the event by RECV_PEND too. A stranger's accesses change neither direction. The
board controller's messages do the same: words that all fit are queued, the oldest are read. (R344, R345, R346, R348, R397.) -/
def Obligations.MailboxChannelsCarryWords : Prop :=
  ∀ (t : Nat) (who : BitVec 8) (chan : Fin 64) (w : BitVec 32) (s : State), let u := s.at t
    let n := chan.val
    (u.mayWindow who → u.chanSide n who = none → ∀ c ∈ [Instr.sendData t who chan w, .sendDb t who chan w, .recvData t who chan,
      .recvPend t who chan w], Answers c s (fun s' => ∀ m, (s'.chan m).ab = (u.chan m).ab ∧ (s'.chan m).ba = (u.chan m).ba)) ∧
    (∀ a, u.mayWindow who → u.chanSide n who = some a →
      let snd := (u.chan n).dir a
      let rcv := (u.chan n).dir (!a)
      (snd.queue.length < 16 → Answers (.sendData t who chan w) s (fun s' => s'.silent =
        (u.onDir n a (fun d => { d with queue := d.queue ++ [w] })).silent)) ∧
      (16 ≤ snd.queue.length → Answers (.sendData t who chan w) s (fun s' => s'.silent =
        (u.onDir n a (fun d => { d with ovf := true, drop := satAdd d.drop 1 })).silent)) ∧
      (w.getLsbD 0 → u.chanTo n a ≠ 0x70 → snd.pend = false → Answers (.sendDb t who chan w) s (fun s' => s'.silent =
        ((u.onDir n a (fun d => { d with pend := true })).raiseEvent n (u.chanTo n a)).silent)) ∧
      (w.getLsbD 0 → u.chanTo n a ≠ 0x70 → snd.pend → Answers (.sendDb t who chan w) s (fun s' => s'.silent =
        (u.onDir n a (fun d => { d with coal := satAdd d.coal 1 })).silent)) ∧
      (w.getLsbD 0 → u.chanTo n a = 0x70 → Answers (.sendDb t who chan w) s (fun s' =>
        Reports (u.onDir n a (fun d => { d with queue := [], pend := false })) s')) ∧
      (∀ x rest, rcv.queue = x :: rest → rcv.waits = [] → Answers (.recvData t who chan) s (fun s' => s'.silent =
        ((u.onDir n (!a) (fun d => { d with queue := rest, pend := d.pend && !rest.isEmpty })).emit
          (.readData who.toNat x.toNat)).silent)) ∧
      (rcv.queue = [] → rcv.waits = [] → Answers (.recvData t who chan) s (fun s' => s'.silent =
        ((u.onDir n (!a) (fun d => { d with under := true })).emit (.readData who.toNat 0)).silent)) ∧
      Answers (.recvPend t who chan w) s (fun s' => s'.silent = (u.onDir n (!a) (fun d =>
        { d with pend := d.pend && !w.getLsbD 8, under := d.under && !w.getLsbD 9 })).silent)) ∧
    (∀ a, u.vendorUp 0x60 → u.chanSide n 0x60 = some a →
      (∀ count words, 1 ≤ count → count ≤ 16 → words.length = count →
        (((u.chan n).dir a).queue.length + count ≤ 16 → Answers (.vendorSend t 0x60 chan count false words) s (fun s' => s'.silent =
          ((u.onDir n a (fun d => { d with queue := d.queue ++ words })).emit (.mctp 0x60 [0])).silent)) ∧
        (16 < ((u.chan n).dir a).queue.length + count → Answers (.vendorSend t 0x60 chan count false words) s (fun s' => s'.silent =
          (u.emit (.mctp 0x60 [2])).silent))) ∧
      (∀ count, 1 ≤ count → count ≤ 16 → ((u.chan n).dir (!a)).waits = [] →
        let got := ((u.chan n).dir (!a)).queue.take count
        Answers (.vendorReceive t 0x60 chan count) s (fun s' => ((s'.chan n).dir (!a)).queue = ((u.chan n).dir (!a)).queue.drop count ∧
          (s'.chan n).dir a = (u.chan n).dir a ∧ Emit.mctp 0x60 (0 :: got.length :: got.map BitVec.toNat) ∈ s'.out)) ∧
      (((u.chan n).dir (!a)).waits = [] → Answers (.vendorWindow t 0x60 chan) s (fun s' =>
        ((s'.chan n).dir (!a)).queue = ((u.chan n).dir (!a)).queue.drop 1 ∧ (s'.chan n).dir a = (u.chan n).dir a)))

/-- VIN out of range, an edge of PWR_FAIL_N and a falling PWR_GOOD count as an assertion: pending swaps are abandoned, each running step gets
a POWER cause, and planes, tiers and what the flash holds stay, and an erase under way is suspended. 10 ms without an edge end it; VIN
then reads in range (log 6). PWR_GOOD still low after 1 ms, and VIN below 36.0 V, reset the module: registers and tiers go, the flash and
its permanent fences stay. Above 37.0 V the lockout ends. (R349, R368, R369, R370, R373, R376.) -/
def Obligations.TheSupplyFailsAndReturns : Prop :=
  ∀ (t mv : Nat) (level : Bool) (s : State), let u := s.at t
    let failed (y : Supply) (s' : State) : Prop := s'.supply = { y with failing := true, lastEdge := u.now } ∧ s'.boot = u.boot ∧
      s'.flash = { u.flash with sectors := if u.flash.sectors = .erasing then .written else u.flash.sectors } ∧
      ∀ m ∈ allCells, (s'.cell m).fig.arm = none ∧ (s'.cell m).fig.plane = (u.cell m).fig.plane ∧
        (s'.cell m).tiers = (u.cell m).tiers ∧
        ((u.cell m).step.running → ({ code := vPOWER, tenant := 0xFF, entry := none } : Cause) ∈ (s'.cell m).step.causes)
    let fresh (s' : State) : Prop := s'.boot.running = false ∧ s'.boot.safe = false ∧ s'.seating = Seating.reset ∧
      s'.host = HostPort.reset ∧ s'.fns = [] ∧ s'.chans = [] ∧ s'.coords = [] ∧
      s'.flash = { u.flash with queue := [], busy := none, deferred := false, sectors := .written } ∧
      (∀ m, (s'.cell m).tiers = Tiers.reset ∧ (s'.cell m).init = false ∧ (s'.cell m).fig.active = none) ∧
      ∀ m ∈ allCells, ∀ n, n < 128 → ((s'.cell m).core n).permFence = u.flash.fences.contains (128 * m + n)
    (u.boot.islands → mv < 38000 ∨ 46000 < mv → Answers (.vinFault t mv) s (failed { u.supply with vin := mv, vinLow := min mv u.supply.vinLow })) ∧
    (u.supply.pwrFailN ≠ level →
      (u.boot.islands → Answers (.pwrFailN t level) s (failed { u.supply with pwrFailN := level })) ∧
      (u.boot.islands = false → Answers (.pwrFailN t level) s (fun s' =>
        s'.silent = State.silent { u with supply := { u.supply with pwrFailN := level } }))) ∧
    (u.supply.failing → u.supply.pwrFailN → u.supply.pwrGood → u.supply.lastEdge + 10000000 ≤ u.now →
      Answers (.pwrFailDeassert t) s (fun s' => ∃ v, 38000 ≤ v ∧ v ≤ 46000 ∧ (vinOk u.supply.vin → v = u.supply.vin) ∧
        s'.silent = State.silent { u with supply := { u.supply with failing := false, vin := v, vinLow := v } })) ∧
    (u.supply.pwrGood →
      (u.boot.islands → Answers (.pwrGoodFall t) s (failed { u.supply with pwrGood := false })) ∧
      (u.boot.islands = false → Answers (.pwrGoodFall t) s (fun s' =>
        s'.silent = State.silent { u with supply := { u.supply with pwrGood := false } }))) ∧
    (u.supply.pwrGood = false → u.boot.islands → u.supply.lastEdge + 1000000 ≤ u.now → Answers (.pwrGoodLowReset t) s (fun s' =>
      fresh s' ∧ s'.boot.islands = false ∧ s'.supply.pwrGood = false)) ∧
    (mv < 36000 → u.supply.uvlo = false → Answers (.undervoltageLockout t mv) s (fun s' =>
      fresh s' ∧ s'.boot.islands = false ∧ s'.supply.uvlo ∧ s'.supply.pwrGood = false ∧ s'.supply.vin = mv)) ∧
    (37000 < mv → u.supply.uvlo → Answers (.undervoltageLockoutRelease t mv) s (fun s' =>
      s'.silent = State.silent { u with supply := { u.supply with uvlo := false, vin := mv, vinLow := mv } }))

/-- HALT_N low, 110 °C on a die and the loss of REFCLK bring a running module into the Safe state: pending swaps are abandoned, engines stop
and serving groups' steps end; high again, it stays. A sample sets the cell's temperature to its highest reading; 103 °C stops new steps
until below 100 °C. Each 500 ms the ceiling falls at 98 °C or above, stays at 95, and else rises until it goes. The loss of AOCLK enters a
TIME record in every ring; its presence releases the islands. A wake brings the cell to C0 after its latency. (R326, R327, R357, R358,
R359, R361, R363, R371, R420.) -/
def Obligations.HaltsTemperaturesClocksAndWakes : Prop :=
  ∀ (t : Nat) (cell : Fin 8) (s : State), let u := s.at t
    let k := u.cell cell
    let stopped (s' : State) : Prop := s'.boot = { u.boot with safe := true } ∧ s'.flash = u.flash ∧ ∀ m ∈ allCells,
      (s'.cell m).fig.arm = none ∧ (∀ n, ((s'.cell m).core n).engines = []) ∧ (u.isLead m → (s'.cell m).step.running = false)
    (u.boot.running → u.boot.islands → u.boot.safe = false →
      Answers (.haltNAssert t) s (fun s' => stopped s' ∧ s'.supply = { u.supply with haltN := false }) ∧
      Answers (.refclkLoss t) s (fun s' => stopped s' ∧ s'.supply = { u.supply with refclk := false })) ∧
    (u.boot.running = false →
      Answers (.haltNAssert t) s (fun s' => s'.silent = State.silent { u with supply := { u.supply with haltN := false } }) ∧
      Answers (.refclkLoss t) s (fun s' => s'.silent = State.silent { u with supply := { u.supply with refclk := false } }) ∧
      Answers (.aoclkLoss t) s (fun s' => s'.silent = State.silent { u with supply := { u.supply with aoclk := false } })) ∧
    Answers (.haltNDeassert t) s (fun s' => s'.silent = State.silent { u with supply := { u.supply with haltN := true } }) ∧
    (∀ dies m, u.boot.running → dies.max? = some m →
      (m < 110 → Answers (.thermalSample t cell dies) s (fun s' => s'.silent = (u.onCell cell (fun k => { k with power := { k.power with
        temp := m, hotDie := dies.findIdx (· = m), tooHot := decide (103 ≤ m) || (decide (100 ≤ m) && k.power.tooHot) } })).silent)) ∧
      (110 ≤ m → u.boot.islands → u.boot.safe = false → Answers (.thermalSample t cell dies) s (fun s' =>
        stopped s' ∧ (s'.cell cell).power.temp = m))) ∧
    (u.cellUp cell →
      let rises (v : Option Nat) := Answers (.thermalCeilingTick t cell) s (fun s' => (s'.cell cell).power.ceiling = v ∧ (k.step.running →
        s'.silent = (u.onCell cell (fun k => { k with power := { k.power with ceiling := v } })).silent))
      let top := k.maxShare
      (98 ≤ k.power.temp → rises (some (max k.minShare (min (k.power.ceiling.getD top) top - k.rated2 / 20)))) ∧
      (95 ≤ k.power.temp → k.power.temp < 98 → rises k.power.ceiling) ∧
      (k.power.temp < 95 → k.power.ceiling = none → rises none) ∧
      (∀ v, k.power.temp < 95 → k.power.ceiling = some v →
        let w := min v top + max 1 (k.rated2 / 200)
        rises (if top ≤ w then none else some w))) ∧
    (u.supply.aoclk → u.boot.running → Answers (.aoclkLoss t) s (fun s' =>
      Reports { u with supply := { u.supply with aoclk := false } } s' ∧ ∀ m ∈ allCells,
        (s'.cell m).err.prod = (u.cell m).err.prod + 1 ∧ ∃ r ∈ (s'.cell m).err.recs, r.cls = clsTIME ∧ r.seq = (u.cell m).err.prod)) ∧
    (u.supply.pwrGood → u.supply.uvlo = false → u.boot.islands = false → Answers (.aoclkPresent t) s (fun s' =>
      s'.silent = State.silent { u with supply := { u.supply with aoclk := true }, boot := { u.boot with islands := true, base := u.now } })) ∧
    (u.boot.islands → Answers (.aoclkPresent t) s (fun s' =>
      s'.silent = State.silent { u with supply := { u.supply with aoclk := true } })) ∧
    (u.cellUp cell → k.power.state ≠ .c0 → Answers (.cellWake t cell) s (fun s' =>
      s'.silent = (u.onCell cell (fun k => { k with power := { k.power with waking := true } })).silent)) ∧
    (k.power.state = .c0 → Answers (.cellWake t cell) s (fun s' => s'.silent = u.silent)) ∧
    (k.power.waking → k.init → Answers (.cellWakeComplete t cell) s (fun s' =>
      s'.silent = (u.onCell cell (fun k => { k with power := { k.power with waking := false, state := .c0 } })).silent))

/-- PWR_GOOD taken high samples the straps and, with AOCLK, releases the islands; after a dip it only returns. The active image, else the
other, runs with the board's power limit; with HALT_N low or no REFCLK the Safe state follows; with neither image the module recovers. The
link trains and configuration space goes live once an image runs. An initialised cell activates its verified start figure, or returns with
the planes it kept. A cell not initialised by 2 s is in C4 and FATAL. (R364, R365, R366, R367, R370, R371, R372, R373, R423.) -/
def Obligations.TheModuleStartsUp : Prop :=
  ∀ (t : Nat) (s : State), let u := s.at t
    (∀ a l b, u.supply.pwrGood = false → u.supply.uvlo = false →
      let good : Supply := { u.supply with pwrGood := true }
      let straps : Boot := { u.boot with i3cAddr := a, layout := l, boardId := b }
      Answers (.pwrGoodRise t a l b) s (fun s' => s'.silent = State.silent (
        if u.boot.islands then { u with supply := good }
        else { u with supply := good, boot := if u.supply.aoclk then { straps with islands := true, base := u.now } else straps }))) ∧
    (∀ (activeOk otherOk : Bool) (n : Nat), u.boot.islands → u.boot.running = false → u.boot.recovery = false →
      let up : Boot := { u.boot with running := true }
      let ran (v : Boot) (s' : State) : Prop := s'.boot = v ∧ s'.fw = { u.fw with running := n, current := u.flash.bundles.get none n } ∧
        s'.supply = { u.supply with limit := u.flash.firstLimit } ∧ s'.flash = u.flash ∧ s'.seating = u.seating
      (u.flashUsable → (activeOk ∧ n = u.flash.active) ∨ (activeOk = false ∧ otherOk ∧ n = 1 - u.flash.active) →
        (u.supply.haltN → u.supply.refclk → Answers (.supervisorImageVerify t activeOk otherOk) s (ran up)) ∧
        (u.supply.haltN = false ∨ u.supply.refclk = false →
          Answers (.supervisorImageVerify t activeOk otherOk) s (ran { up with safe := true }))) ∧
      ((activeOk = false ∧ otherOk = false) ∨ u.flashUsable = false → Answers (.supervisorImageVerify t activeOk otherOk) s (fun s' =>
        s'.silent = State.silent { u with boot := { u.boot with recovery := true } }))) ∧
    (∀ live, u.boot.islands → u.supply.perstN → u.boot.anchorLost = false → Answers (.hostLinkTrained t live) s (fun s' =>
      s'.silent = State.silent { u with host := { u.host with linkUp := true, cfgLive := live && u.boot.running } })) ∧
    (∀ cell : Fin 8, let k := u.cell cell
      (u.boot.running → u.boot.safe = false → k.init = false → k.absent = false →
        (k.restart.isSome → Answers (.cellInitComplete t cell) s (fun s' =>
          (s'.cell cell).init ∧ (s'.cell cell).restart = none ∧ (s'.cell cell).fig.plane = k.fig.plane)) ∧
        (k.restart = none → u.flash.starts.get none cell = none → Answers (.cellInitComplete t cell) s (fun s' =>
          (s'.cell cell).init ∧ (s'.cell cell).fig.plane = k.fig.plane)) ∧
        (∀ n blocks, k.restart = none → u.flash.starts.get none cell = some (n, blocks) →
          let r := (u.onCell cell (fun k => { k with init := true })).verifyBlocks cell n blocks
          (u.noFlip ∨ r.2 = none → Answers (.cellInitComplete t cell) s (fun s' =>
            (s'.cell cell).init ∧ (s'.cell cell).fig.plane = k.fig.plane)) ∧
          (∀ g, u.noFlip = false → r.2 = some g → Answers (.cellInitComplete t cell) s (fun s' => (s'.cell cell).init ∧
            (s'.cell cell).fig.active = some g ∧ (s'.cell cell).fig.activeSlot = some 0 ∧
            (s'.cell cell).fig.slots.get .empty 0 = .resident g blocks)))) ∧
      (u.boot.running → k.init = false → k.absent = false → k.restart = none → u.boot.base + 2000000000 ≤ u.now →
        Answers (.cellInitTimeout t cell) s (fun s' => (s'.cell 0).err.fatal ∧
          Reports (u.onCell cell (fun k => { k with absent := true, power := { k.power with state := .c4 } })) s')))

/-- The reset key resets the module: registers and tiers go, flash and permanent fences stay, and the islands leave reset again; another value
is discarded. A restart is asked of a cell in service, and with drain its group takes no further request; while one waits a second is
discarded. It begins with no step and no request of the group left: the cell leaves service and loses its figure slots, requests and
learning state, and keeps its planes, the fences of its cores and every tile of its slow tier. (R262, R316, R373, R374, R376, R401, R412.) -/
def Obligations.ResetsAndRestarts : Prop :=
  ∀ (t : Nat) (who : BitVec 8) (s : State), let u := s.at t
    let fresh (s' : State) : Prop := s'.boot.running = false ∧ s'.boot.safe = false ∧ s'.seating = Seating.reset ∧
      s'.host = HostPort.reset ∧ s'.fns = [] ∧ s'.chans = [] ∧ s'.coords = [] ∧
      s'.flash = { u.flash with queue := [], busy := none, deferred := false, sectors := .written } ∧
      (∀ m, (s'.cell m).tiers = Tiers.reset ∧ (s'.cell m).init = false ∧ (s'.cell m).fig.active = none) ∧
      ∀ m ∈ allCells, ∀ n, n < 128 → ((s'.cell m).core n).permFence = u.flash.fences.contains (128 * m + n)
    (∀ key : BitVec 16, u.ctlUp who →
      (key = 0xD1A5 → Answers (.moduleReset t who key) s (fun s' => fresh s' ∧ s'.supply.pwrGood = u.supply.pwrGood ∧
        s'.boot.islands = (u.supply.pwrGood && u.supply.aoclk && !u.supply.uvlo))) ∧
      (key ≠ 0xD1A5 → Answers (.moduleReset t who key) s (fun s' => Reports u s'))) ∧
    (∀ cell : Fin 8, u.ctlUp who → (u.cellUp cell → (u.cell cell).restart = none →
      Answers (.restart t who cell) s (fun s' => s'.silent = (u.onCell cell (fun k => { k with restart := some false })).silent) ∧
      Answers (.restartDrain t who cell) s (fun s' => s'.silent = ((u.onCell cell (fun k => { k with restart := some true })).onCells
        (u.groupOf cell) (fun k => { k with gen := { k.gen with drainClosed := true } })).silent)) ∧
      ((u.cell cell).restart.isSome ∨ u.cellUp cell = false →
        Answers (.restart t who cell) s (fun s' => Reports u s') ∧ Answers (.restartDrain t who cell) s (fun s' => Reports u s'))) ∧
    (∀ (cell : Fin 8) (drain : Bool), let k := u.cell cell
      let w := if drain then u else u.adminVoid cell
      u.cellUp cell → k.restart = some drain → (∀ m ∈ cell.val :: u.groupOf cell, (u.cell m).step.running = false) → k.ud.inPass = false →
      (∀ l ∈ k.learn, l.2.phase = .idle) → w.groupBusy (cell.val :: u.groupOf cell) = false →
      Answers (.cellRestartBegin t cell) s (fun s' => (s'.cell cell).init = false ∧ (s'.cell cell).restart = some drain ∧
        (s'.cell cell).fig.plane = k.fig.plane ∧ (s'.cell cell).fig.slots = [] ∧ (s'.cell cell).fig.arm = none ∧
        (s'.cell cell).gen.table = [] ∧ (s'.cell cell).learn = [] ∧ (s'.cell cell).writes = [] ∧
        (∀ n, ((k.core n).fenced → ((s'.cell cell).core n).fenced) ∧ ((s'.cell cell).core n).engines = []) ∧
        (drain → Memory.wf k.tiers.tiles → ∀ a, (s'.cell cell).ent a = (k.ent a).restarted)))

/-- The first waiting store starts where the hold-up check holds for its next operation, the erase of the sectors it needs (1,000 us) or its
program (1,200 us), and else is deferred with a record, and starts once the check holds. When the erase ends the store's program waits;
when the program ends it is true: a floor is raised and never lowered, an owner slot takes its key, a start figure is recorded or cleared,
a bundle lies in its slot; all but the bundle count a commit. A floor above the present and every waiting one waits, and any other is
discarded. An enrolment that passes every check waits, any other ends with its status. PERSIST of a resident figure, or a clear, waits.
(R318, R367, R375, R376, R377, R380, R385, R390, R400, R407, R411.) -/
def Obligations.StoresFloorsEnrolmentsAndStartFigures : Prop :=
  ∀ (t : Nat) (s : State), let u := s.at t
    (∀ x rest, u.flash.queue = x :: rest → u.mayStore →
      let erasing := x.erases ∧ u.flash.sectors ≠ .erased
      let held := u.holdsUp (if erasing then 1000 else 1200)
      let went (s' : State) : Prop :=
        (erasing → s'.silent = State.silent { u with flash := { u.flash with sectors := .erasing, deferred := false } }) ∧
        (¬ erasing → s'.silent = State.silent { u with
          flash := { u.flash with busy := some x, queue := rest, deferred := false, sectors := .written } })
      (u.flash.deferred = false → held → Answers (.flashOperation t) s went) ∧
      (u.flash.deferred = false → held = false → Answers (.flashOperation t) s (fun s' =>
        Reports { u with flash := { u.flash with deferred := true } } s')) ∧
      (u.flash.deferred → held → Answers (.flashDeferRetry t) s went) ∧
      (u.flash.deferred → held = false → Answers (.flashDeferRetry t) s (fun s' => s'.silent = u.silent))) ∧
    (u.flash.busy = none → u.flash.sectors = .erasing → u.boot.anchorLost = false → Answers (.journalCommitWritten t) s (fun s' =>
      s'.silent = State.silent { u with flash := { u.flash with sectors := .erased } })) ∧
    (∀ x, u.flash.busy = some x → u.boot.anchorLost = false →
      let f : Flash := { u.flash with busy := none, commits := u.flash.commits + 1 }
      let done (w : State) := Answers (.journalCommitWritten t) s (fun s' => s'.silent = w.silent)
      (∀ v, x = .figFloor v → done { u with flash := { f with figFloor := if f.figFloor.toNat < v.toNat then v else f.figFloor } }) ∧
      (∀ v, x = .ruleFloor v → done { u with flash := { f with ruleFloor := if f.ruleFloor.toNat < v.toNat then v else f.ruleFloor } }) ∧
      (∀ slot key seq, x = .enrolment slot key seq → Answers (.journalCommitWritten t) s (fun s' =>
        s'.flash.keys.get none slot = key ∧ (∀ n, n ≠ slot → s'.flash.keys.get none n = u.flash.keys.get none n) ∧
        s'.flash.enrFloor.toNat = max u.flash.enrFloor.toNat seq.toNat ∧ s'.flash.commits = f.commits ∧
        s'.host.keyBusy = false ∧ s'.host.keyStatus = 0)) ∧
      (∀ c b, x = .persistSet c b → Answers (.journalCommitWritten t) s (fun s' => s'.flash.starts.get none c = b ∧
        s'.flash.commits = f.commits ∧ (s'.cell c).fig.persist = b.isSome ∧ (s'.cell c).fig.storePend = false)) ∧
      (∀ slot v, x = .fwCommit slot v → done { u with
        flash := { f with active := slot, fwFloor := if f.fwFloor.toNat < v then BitVec.ofNat 32 v else f.fwFloor }
        fw := { u.fw with switched := false, former := none, busy := false, pldm := false, last := 4, status := 0 } }) ∧
      (∀ c n, x = .permFence c n → ∃ l, (∀ m, m ∈ l ↔ m ∈ u.flash.fences ∨ m = 128 * c + n) ∧ done { u with flash := { f with fences := l } }) ∧
      (∀ root l, x = .chain root l → done { u with flash := { f with chain1 := some (root, l) } }) ∧
      (∀ slot b, x = .fwBundle slot b → u.boot.recovery = false → u.fw.pldm = false → Answers (.journalCommitWritten t) s (fun s' =>
        s'.flash.bundles.get none slot = some b ∧ s'.flash.commits = u.flash.commits ∧ s'.flash.busy = none ∧
        s'.fw = { u.fw with busy := false, pldm := false, last := 1, status := 0 }))) ∧
    (∀ (who : BitVec 8) (v : BitVec 32), who = 0x00 ∨ who = 0x40 → u.regUp who →
      let later (x : Store) (s' : State) : Prop := s'.silent = State.silent { u with flash := { u.flash with queue := u.flash.queue ++ [x] } }
      let figs := u.flash.figFloor.toNat :: u.flash.waiting.filterMap Store.figRaise
      let rules := u.flash.ruleFloor.toNat :: u.flash.waiting.filterMap Store.ruleRaise
      ((∀ n ∈ figs, n < v.toNat) → Answers (.figFloor t who v) s (later (.figFloor v))) ∧
      ((∃ n ∈ figs, v.toNat ≤ n) → Answers (.figFloor t who v) s (fun s' => Reports u s')) ∧
      ((∀ n ∈ rules, n < v.toNat) → Answers (.ruleFloor t who v) s (later (.ruleFloor v))) ∧
      ((∃ n ∈ rules, v.toNat ≤ n) → Answers (.ruleFloor t who v) s (fun s' => Reports u s')) ∧
      (∀ len, let r := u.readRecord len (bits (blocksNum u.host.keyWin) 0 (8 * len))
        (u.host.keyBusy → Answers (.enrol t who len) s (fun s' => Reports u s')) ∧
        (u.host.keyBusy = false → r.2 = none → Answers (.enrol t who len) s (fun s' =>
          Reports { u with host := { u.host with keyStatus := r.1 } } s')) ∧
        (∀ x, u.host.keyBusy = false → r.2 = some x → Answers (.enrol t who len) s (fun s' => s'.silent = State.silent { u with
          host := { u.host with keyBusy := true }, flash := { u.flash with queue := u.flash.queue ++ [x] } }))) ∧
      (∀ cell : Fin 8, let f := (u.cell cell).fig
        let slot := v.toNat % 4
        let waits (b : Option (Nat × SMap Payload)) (s' : State) : Prop := s'.silent = ((u.onCell cell (fun k =>
          { k with fig := { k.fig with storePend := true, pslot := slot } })).storeLater (.persistSet cell b)).silent
        (f.storePend → Answers (.persist t who cell v) s (fun s' => Reports u s')) ∧
        (f.storePend = false → v.getLsbD 31 = false → Answers (.persist t who cell v) s (waits none)) ∧
        (∀ g blocks, f.storePend = false → v.getLsbD 31 → f.slots.get .empty slot = .resident g blocks →
          Answers (.persist t who cell v) s (waits (some (fld (blocksNum blocks) 0x18 4, blocks)))) ∧
        (v.getLsbD 31 → f.slotState slot ≠ 2 → f.slotState slot ≠ 3 → Answers (.persist t who cell v) s (fun s' => Reports u s'))))

/-- While FW_BUSY is 1 a firmware command is discarded. WRITE of a bundle that arrived whole waits for the inactive slot, and else ends LENGTH
or LINK. STAGE takes the inactive slot's bundle if its signature verifies and it is not below the floor. SWITCH runs the staged bundle,
keeps the former one and lets each cell change at its step boundary; REVERT returns the former one. COMMIT waits for the journal. Out of
order they end STATE. The board controller's update does the same. (R365, R378, R379, R380, R400, R401, R406.) -/
def Obligations.FirmwareIsUpdatedInStages : Prop :=
  ∀ (t : Nat) (who : BitVec 8) (s : State), let u := s.at t
    let ended (f : Firmware) (code status : Nat) (s' : State) : Prop := s'.silent =
      State.silent { u with fw := { f with busy := false, pldm := false, last := code, status := status } }
    let stored (pldm : Bool) (l : List Byte) (s' : State) : Prop := s'.silent = State.silent { u with
      fw := { u.fw with busy := true, pldm := pldm }
      flash := { u.flash with queue := u.flash.queue ++ [.fwBundle (1 - u.flash.active) (readBundle l)] } }
    let changed (f : Firmware) (s' : State) : Prop := s'.fw = f ∧
      s'.flash = { u.flash with queue := s'.flash.queue } ∧ ∀ m ∈ allCells,
      (s'.cell m).fig.plane = (u.cell m).fig.plane ∧ ((u.cell m).init → (u.cell m).step.running → (s'.cell m).fwDue)
    let switched (b : Bundle) : Firmware := { u.fw with
      former := u.fw.current, current := some b, staged := none, switched := true, running := 1 - u.flash.active
      switchT := u.fw.time.toNat, busy := false, pldm := false, last := 3, status := 0 }
    (u.fwUp who → u.fw.busy → (∀ (ok : Bool) (l : List Byte), Answers (.fwWrite t who ok l) s (fun s' => Reports u s')) ∧
      ∀ c ∈ [Instr.fwStage t who, .fwSwitch t who, .fwCommit t who, .fwRevert t who], Answers c s (fun s' => Reports u s')) ∧
    (u.fwUp who → u.fw.busy = false →
      (∀ (ok : Bool) (l : List Byte),
        (u.fw.len = 0 ∨ 33554432 < u.fw.len → Answers (.fwWrite t who ok l) s (ended u.fw 1 5)) ∧
        (0 < u.fw.len → u.fw.len ≤ 33554432 → ok = false ∨ u.hostUp = false ∨ l.length ≠ u.fw.len →
          Answers (.fwWrite t who ok l) s (ended u.fw 1 4)) ∧
        (0 < u.fw.len → u.fw.len ≤ 33554432 → ok → u.hostUp → l.length = u.fw.len → Answers (.fwWrite t who ok l) s (stored false l))) ∧
      (u.flash.bundles.get none (1 - u.flash.active) = none → Answers (.fwStage t who) s (ended u.fw 2 3)) ∧
      (∀ b, u.flash.bundles.get none (1 - u.flash.active) = some b →
        let signed := (Config.bundleRead b.bytes).1
        (signed = false → Answers (.fwStage t who) s (ended u.fw 2 1)) ∧
        (signed → b.secver < u.flash.fwFloor.toNat → Answers (.fwStage t who) s (ended u.fw 2 2)) ∧
        (signed → u.flash.fwFloor.toNat ≤ b.secver → Answers (.fwStage t who) s (ended { u.fw with staged := some b } 2 0))) ∧
      (u.fw.staged = none → Answers (.fwSwitch t who) s (ended u.fw 3 3)) ∧
      (∀ b, u.fw.staged = some b → Answers (.fwSwitch t who) s (changed (switched b)))) ∧
    (u.fwEndUp who → u.fw.busy = false →
      (∀ b, u.fw.switched → u.fw.current = some b → Answers (.fwCommit t who) s (fun s' => s'.silent = State.silent { u with
        fw := { u.fw with busy := true }, flash := { u.flash with queue := u.flash.queue ++ [.fwCommit u.fw.running b.secver] } })) ∧
      (u.fw.switched = false ∨ u.fw.current = none → Answers (.fwCommit t who) s (ended u.fw 4 3)) ∧
      (u.fw.switched = false → Answers (.fwRevert t who) s (ended u.fw 5 3)) ∧
      (u.fw.switched → Answers (.fwRevert t who) s (changed { u.fw with
        current := u.fw.former, former := none, switched := false, running := u.flash.active
        busy := false, pldm := false, last := 5, status := 0 }))) ∧
    (∀ l : List Byte, u.mgmtUp → u.boot.anchorLost = false → u.fw.busy = false →
      (l.length = 0 ∨ 33554432 < l.length → Answers (.updateComponent t 0x60 l) s (ended u.fw 1 5)) ∧
      (0 < l.length → l.length ≤ 33554432 →
        (u.boot.recovery = false ∨ u.bundleStatus (readBundle l) = 0 → Answers (.updateComponent t 0x60 l) s (stored true l)) ∧
        (u.boot.recovery → u.bundleStatus (readBundle l) ≠ 0 →
          Answers (.updateComponent t 0x60 l) s (ended u.fw 2 (u.bundleStatus (readBundle l)))))) ∧
    (u.boot.running → u.boot.anchorLost = false → u.fw.busy = false ∨ u.fw.pldm →
      (u.fw.staged = none → Answers (.activateFirmware t 0x60) s (ended u.fw 3 3)) ∧
      (∀ b, u.fw.staged = some b → Answers (.activateFirmware t 0x60) s (changed (switched b))))

/-- GET_VERSION opens one of at most four connections. A C-die without an identity answers an error, and so does a request without a
connection, out of order, on a path that does not carry it, or of what is not there. Certificates come from the slots' chains, the
challenge and measurements answer from present state, sessions run on Korif alone and FINISH authenticates only by an anchored chain. A
response too long for Korif waits for CHUNK_GET. Message bytes and error codes are those of SPDM itself (log 15). (R382, R383, R392, R393,
R394.) -/
def Obligations.SpdmAnswersOnItsConnections : Prop :=
  ∀ (t path : Nat) (cell : Fin 8) (msg : List Byte) (s : State), let u := s.at t
    let key := 8 * cell.val + path
    let sent (w : State) (code : Nat) (l : List Nat) (s' : State) : Prop := s'.silent = (w.emit (.spdm path code l)).silent
    let fails (code : Nat) : State → Prop := sent u 0x7F [code]
    let replies (w : State) (x : Spdm) (code : Nat) (l : List Byte) (s' : State) : Prop :=
      (path ≠ 3 ∨ l.length ≤ 236 → sent w code (l.map BitVec.toNat) s') ∧
      (path = 3 → 236 < l.length → sent (w.setSpdm { x with reply := l }) 0x7F [0x0F] s')
    let turns (x : Spdm) (code : Nat) (l : List Byte) : State → Prop := replies (u.setSpdm x) x code l
    let others (ok : Bool) (id : BitVec 64) : List Instr := [.getCapabilities t path cell msg, .negotiateAlgorithms t path cell msg,
      .getDigests t path cell msg, .getCertificate t path cell msg, .challenge t path cell msg, .getMeasurements t path cell msg,
      .keyExchange t path cell msg, .finish t path cell msg ok id, .getEncapsulatedRequest t path cell msg,
      .deliverEncapsulatedResponse t path cell msg, .endSession t path cell msg, .chunkSend t path cell msg, .chunkGet t path cell msg,
      .setCertificate t path cell msg id]
    u.spdmUp path →
    ((u.cell cell).keyOk = false → Answers (.getVersion t path cell msg) s (fails 0x05) ∧
      ∀ (ok : Bool) (id : BitVec 64), ∀ c ∈ others ok id, Answers c s (fails 0x05)) ∧
    ((u.cell cell).keyOk →
      let fresh : Spdm := { path := key, phase := 1, session := false, mutualA := false, chunks := [], reply := [] }
      (u.spdmOf key = none → u.mgmt.spdm.length < 4 → Answers (.getVersion t path cell msg) s
        (sent { u with mgmt := { u.mgmt with spdm := u.mgmt.spdm ++ [fresh] } } 0x04 [0x12, 0x13])) ∧
      (u.spdmOf key = none → 4 ≤ u.mgmt.spdm.length → Answers (.getVersion t path cell msg) s (fails 0x03)) ∧
      (u.spdmOf key = none → ∀ (ok : Bool) (id : BitVec 64), ∀ c ∈ others ok id, Answers c s (fails 0x04)) ∧
      ∀ x, u.spdmOf key = some x →
        Answers (.getVersion t path cell msg) s (turns fresh 0x04 [0x12, 0x13]) ∧
        (1 ≤ x.phase → Answers (.getCapabilities t path cell msg) s
          (turns { x with phase := max x.phase 2 } 0x61 (opaqueReply 0x61 msg))) ∧
        (x.phase < 2 → Answers (.negotiateAlgorithms t path cell msg) s (fails 0x04)) ∧
        (2 ≤ x.phase → Answers (.negotiateAlgorithms t path cell msg) s
          (turns { x with phase := max x.phase 3 } 0x63 (opaqueReply 0x63 msg))) ∧
        (x.phase < 3 → ∀ (ok : Bool) (id : BitVec 64), ∀ c ∈ (others ok id).drop 2, Answers c s (fails 0x04)) ∧
        (3 ≤ x.phase →
          Answers (.getDigests t path cell msg) s (replies u x 0x01
            (([0, 1].filterMap (u.chainOf cell)).flatMap (fun c => digestBytes (sha3 c)))) ∧
          (u.chainOf cell (msgByte msg 2 % 16) = none → Answers (.getCertificate t path cell msg) s (fails 0x01)) ∧
          (∀ c, u.chainOf cell (msgByte msg 2 % 16) = some c →
            let off := msgByte msg 4 + 256 * msgByte msg 5
            let part := (c.drop off).take (msgByte msg 6 + 256 * msgByte msg 7)
            Answers (.getCertificate t path cell msg) s
              (replies u x 0x02 (bytesOf 2 part.length ++ bytesOf 2 (c.length - off - part.length) ++ part))) ∧
          Answers (.challenge t path cell msg) s (replies u x 0x03 (Config.mldsaSign cell (sha3 msg))) ∧
          (msgByte msg 3 = 0 → Answers (.getMeasurements t path cell msg) s (replies u x 0x60 [22])) ∧
          (msgByte msg 3 = 0xFF → Answers (.getMeasurements t path cell msg) s
            (replies u x 0x60 (measureIndices.flatMap u.measureBlock))) ∧
          (∀ l, u.measurement (msgByte msg 3) = some l → Answers (.getMeasurements t path cell msg) s
            (replies u x 0x60 (bytesOf 1 (msgByte msg 3) ++ bytesOf 2 l.length ++ l))) ∧
          (msgByte msg 3 ≠ 0 → msgByte msg 3 ≠ 0xFF → u.measurement (msgByte msg 3) = none →
            Answers (.getMeasurements t path cell msg) s (fails 0x01)) ∧
          (∀ id, (path ≠ 0 → Answers (.setCertificate t path cell msg id) s (fails 0x07)) ∧
            (path = 0 → (∀ k ∈ u.tableKeys, k.keyId ≠ id) → Answers (.setCertificate t path cell msg id) s (fails 0x01)) ∧
            (path = 0 → (∃ k ∈ u.tableKeys, k.keyId = id) → Answers (.setCertificate t path cell msg id) s
              (sent (u.storeLater (.chain id msg)) 0x6E []))) ∧
          (path ≠ 3 → ∀ (ok : Bool) (id : BitVec 64), ∀ c ∈ (([Instr.keyExchange t path cell msg, .finish t path cell msg ok id] : List Instr) ++
            [.getEncapsulatedRequest t path cell msg, .deliverEncapsulatedResponse t path cell msg, .endSession t path cell msg]),
            Answers c s (fails 0x07)) ∧
          (path = 3 →
            Answers (.keyExchange t path cell msg) s
              (turns { x with session := true, mutualA := false } 0x64 (opaqueReply 0x64 msg)) ∧
            (x.session = false → ∀ (ok : Bool) (id : BitVec 64), ∀ c ∈ ([.finish t path cell msg ok id, .getEncapsulatedRequest t path cell msg,
              .deliverEncapsulatedResponse t path cell msg, .endSession t path cell msg] : List Instr), Answers c s (fails 0x04)) ∧
            (x.session →
              (∀ (ok : Bool) (id : BitVec 64), (ok ∧ (u.tableKeys = [] ∨ ∃ k ∈ u.tableKeys, k.keyId = id) → Answers (.finish t path cell msg ok id) s
                  (turns { x with mutualA := true } 0x65 (opaqueReply 0x65 msg))) ∧
                (¬(ok ∧ (u.tableKeys = [] ∨ ∃ k ∈ u.tableKeys, k.keyId = id)) → Answers (.finish t path cell msg ok id) s
                  (sent (u.setSpdm { x with session := false, mutualA := false }) 0x7F [0x05]))) ∧
              Answers (.getEncapsulatedRequest t path cell msg) s (replies u x 0x6A (opaqueReply 0x6A msg)) ∧
              Answers (.deliverEncapsulatedResponse t path cell msg) s (replies u x 0x6B (opaqueReply 0x6B msg)) ∧
              Answers (.endSession t path cell msg) s (sent (u.endSpdm key) 0x6C []))) ∧
          (let first := msgByte msg 4 = 0 ∧ msgByte msg 5 = 0
            ∀ l, (first → l = msg.drop 16) → (¬first → l = x.chunks ++ msg.drop 12) →
            (msgByte msg 2 % 2 = 1 → Answers (.chunkSend t path cell msg) s (turns { x with chunks := [] } 0x05 (opaqueReply 0x05 l))) ∧
            (msgByte msg 2 % 2 = 0 → Answers (.chunkSend t path cell msg) s (turns { x with chunks := l } 0x05 []))) ∧
          (x.reply = [] → Answers (.chunkGet t path cell msg) s (fails 0x04)) ∧
          (x.reply ≠ [] → Answers (.chunkGet t path cell msg) s
            (sent (u.setSpdm { x with reply := x.reply.drop 224 }) 0x06 ((x.reply.take 224).map BitVec.toNat)))))

/-- The control commands of MCTP set and report the endpoint and its abilities, and any other is unsupported. An effecter writes the same
control as its register. The target takes its dynamic address once; GETSTATUS tells the module status, with the low byte free (log 9). A
key whose chain is verified enters the cache of 1,024. PTM sets the device time of a quiet, unseated module at its first answer and slews
it later. Message bytes are those of MCTP (log 15). (R333, R364, R389, R395, R396, R398, R401.) -/
def Obligations.ManagementTransportsAndTime : Prop :=
  ∀ (t : Nat) (s : State), let u := s.at t
    let tells (w : State) (l : List Nat) (who : Nat) (s' : State) : Prop := s'.silent = (w.emit (.mctp who l)).silent
    (∀ (i3c : Bool) (cmd eid : BitVec 8), u.bindingUp i3c →
      let who := if i3c then 0x60 else 0x00
      let mine := if i3c then u.mgmt.eidI3c else u.mgmt.eidPcie
      let got (w : State) (l : List Nat) := Answers (.mctpControl t i3c cmd eid) s (tells w l who)
      (cmd = 0x01 → eid = 0 ∨ eid = 0xFF → got u [1, 2]) ∧
      (cmd = 0x01 → eid ≠ 0 → eid ≠ 0xFF → got { u with mgmt := { u.mgmt with
        eidI3c := if i3c then eid else u.mgmt.eidI3c, eidPcie := if i3c then u.mgmt.eidPcie else eid } } [1, 0, eid.toNat]) ∧
      (cmd = 0x02 → got u [2, 0, mine.toNat]) ∧ (cmd = 0x05 → got u [5, 0, 4, 0x00, 0x01, 0x05, 0x7E]) ∧
      (cmd = 0x03 ∨ cmd = 0x04 ∨ cmd = 0x06 → got u (cmd.toNat :: 0 :: Config.spdmBytes cmd.toNat [])) ∧
      (cmd = 0 ∨ 6 < cmd.toNat → got u [cmd.toNat, 5])) ∧
    (∀ (who : BitVec 8) (v : Nat), u.ctlUp who → u.boot.running →
      let acts (n : BitVec 16) (w : State) := Answers (.pldmEffecter t who n v) s (fun s' => s'.silent = w.silent)
      acts 0x0100 (u.writeLimit v) ∧ acts 0x0101 (u.resetKey v) ∧
      (v = 4 → acts 0x0102 (u.fwCommand State.fwCommit)) ∧ (v = 5 → acts 0x0102 (u.fwCommand State.fwRevert)) ∧
      (∀ c : Fin 8, v % 2 = 1 → acts (BitVec.ofNat 16 (0x0110 + c.val)) (u.askRestart c (v / 2 % 2 = 1))) ∧
      (∀ n : BitVec 16, n.toNat < 0x0100 ∨ (0x0102 < n.toNat ∧ n.toNat < 0x0110) ∨ 0x0118 ≤ n.toNat → acts n u)) ∧
    (∀ fixed dyn : BitVec 7, u.mgmtUp → u.mgmt.i3cDyn = none →
      let named (s' : State) : Prop := s'.silent = State.silent { u with mgmt := { u.mgmt with i3cDyn := some dyn } }
      Answers (.entdaa t dyn) s named ∧ (fixed = u.boot.i3cAddr → i3cReserved fixed = false → Answers (.setdasa t fixed dyn) s named) ∧
      (fixed ≠ u.boot.i3cAddr ∨ i3cReserved fixed → Answers (.setdasa t fixed dyn) s (fun s' => s'.silent = u.silent))) ∧
    (u.mgmtUp → Answers (.getstatus t) s (fun s' => ∃ low, low < 256 ∧
      s'.silent = (State.emit { u with free := u.free + 1 } (.readData 0x60 (256 * u.status + low))).silent)) ∧
    (∀ (id : BitVec 64) (pub : List Byte), u.anchorUp →
      let rest := u.mgmt.idCache.filter (fun x => x.1 ≠ id)
      (keyIdent pub = id → Answers (.identityCacheEntry t id pub true true) s (fun s' => s'.silent = State.silent { u with
        mgmt := { u.mgmt with idCache := (if rest.length < 1024 then rest else rest.drop (rest.length - 1023)) ++ [(id, pub)] } })) ∧
      (∀ ok reach : Bool, ok = false ∨ reach = false ∨ keyIdent pub ≠ id →
        Answers (.identityCacheEntry t id pub ok reach) s (fun s' => s'.silent = u.silent))) ∧
    (∀ master : Nat, u.barUp →
      (u.seating.seated → Answers (.ptmRequest t master) s (fun s' => s'.silent = u.silent)) ∧
      (u.seating.seated = false →
        (u.host.ptmSet = false → u.quiet → Answers (.ptmRequest t master) s (fun s' => s'.host.ptmSet ∧
          (∀ c ∈ allCells, (s'.cell c).slew = 0 ∧
            (s'.cell c).toff = (u.cell c).toff + ((master : Int) - (u.time c : Int)) ∧
            (0 ≤ ((u.now - u.boot.base : Nat) : Int) + (u.cell c).toff → s'.time c = master)) ∧ s'.seating = u.seating ∧ ∀ c, (s'.cell c).tiers = (u.cell c).tiers)) ∧
        (u.host.ptmSet ∨ u.quiet = false → Answers (.ptmRequest t master) s (fun s' => s'.host.ptmSet ∧
          (∀ c ∈ allCells, s'.time c = u.time c ∧ (s'.cell c).slew = (master : Int) - (u.time c : Int)) ∧ s'.seating = u.seating ∧
          ∀ c, (s'.cell c).tiers = (u.cell c).tiers))))

/-- MANAGER written 1 with a table seats an unseated module as seat 0; while seated it is discarded. A limit of 1,200 to 3,000 W is taken, and
a running cell keeps its share; any other is discarded. JOB_STEP is discarded while the tenant has an image. QUAR_RELEASE ends the named
quarantines. STOP waits for the core, or shows 3 where it may not be stopped or another is; the stopped core is fenced. REQ_INDEX captures
its entry. ERR_CONS takes a value at most 65,536 behind ERR_PROD. FATAL is cleared by 1. (R108, R179, R301, R350, R356, R401, R408, R410,
R413, R414, R416.) -/
def Obligations.RegistersWithRowsOfTheirOwn : Prop :=
  ∀ (t : Nat) (who : BitVec 8) (cell : Fin 8) (s : State), let u := s.at t
    let k := u.cell cell
    let discarded (s' : State) : Prop := Reports u s'
    let is (w : State) (s' : State) : Prop := s'.silent = w.silent
    (u.fwUp who →
      (∀ v : BitVec 32, (u.seating.seated → Answers (.managerWrite t who v) s discarded) ∧
        (u.seating.seated = false → (v.getLsbD 31 = false ∨ u.seating.tableId = 0 → Answers (.managerWrite t who v) s
            (is { u with seating := { u.seating with manager := v.getLsbD 31 } })) ∧
          (v.getLsbD 31 → u.seating.tableId ≠ 0 → Answers (.managerWrite t who v) s (is { u with seating :=
            { u.seating with manager := true, seated := true, seat := 0, lastBeat := u.now } })))) ∧
      (∀ (tenant : Fin 64) (v : BitVec 64), ((k.run tenant).image.isSome → Answers (.jobStep t who cell tenant v) s discarded) ∧
        ((k.run tenant).image = none → Answers (.jobStep t who cell tenant v) s
          (is (u.onCell cell (fun k => k.onRun tenant (fun r => { r with jobStep := v })))))) ∧
      (∀ v : BitVec 64, Answers (.turnPlan t who cell v) s (is (u.onCell cell (fun k => { k with gen := { k.gen with turnPlan := v } })))) ∧
      (∀ ports : BitVec 12, Answers (.quarRelease t who cell ports) s (fun s' =>
        (∀ p : Fin 12, ports.getLsbD p → ((s'.cell cell).port p).quarUntil = none) ∧ s'.seating = u.seating ∧
        (∀ m, (s'.cell m).tiers = (u.cell m).tiers) ∧
        ((∀ p : Fin 12, ports.getLsbD p → (k.port p).quarUntil = none) → s'.silent = u.silent))) ∧
      (∀ i : BitVec 14, Answers (.reqIndex t who cell i) s (is (u.onCell cell (fun k =>
        { k with gen := { k.gen with reqIndex := i, reqData := BitVec.ofNat 512 (k.entry i.toNat).bytes } })))) ∧
      (∀ v : BitVec 32, ((k.err.prod - v).toNat ≤ 65536 → Answers (.errCons t who cell v) s
          (is (u.onCell cell (fun k => { k with err := { k.err with cons := v } })))) ∧
        (65536 < (k.err.prod - v).toNat → Answers (.errCons t who cell v) s discarded) ∧
        (v.getLsbD 0 → Answers (.fatal t who cell v) s (is (u.onCell cell (fun k => { k with err := { k.err with fatal := false } })))) ∧
        (v.getLsbD 0 = false → Answers (.fatal t who cell v) s (is u)))) ∧
    (∀ v : BitVec 16, u.fwEndUp who → (v.toNat < 1200 ∨ 3000 < v.toNat → Answers (.powerLimit t who v) s discarded) ∧
      (1200 ≤ v.toNat → v.toNat ≤ 3000 → Answers (.powerLimit t who v) s (fun s' => s'.supply = { u.supply with
          limit := v.toNat, inForce := if v.toNat < u.supply.limit then u.lastPromise else u.supply.inForce } ∧
        ∀ m ∈ allCells, (s'.cell m).fig.plane = (u.cell m).fig.plane ∧
          ((u.cell m).step.running → (s'.cell m).power.share = (u.cell m).power.share)))) ∧
    (∀ core : Fin 128, u.regUp who → u.cellUp cell →
      let stops (d : Nat) (b : Option (Nat × Bool)) := Answers (.stop t who cell core) s
        (is (u.onCell cell (fun k => { k with dcore := core, dstate := d, debugStop := b })))
      ((who ≠ 0x00 ∧ who ≠ 0x40) ∨ (∃ x ∈ k.tenantsOf core, k.tenantFn x ≠ 0) → stops 3 k.debugStop) ∧
      (who = 0x00 ∨ who = 0x40 → (∀ x ∈ k.tenantsOf core, k.tenantFn x = 0) →
        (k.debugStop = none → stops 1 (some (core.val, false))) ∧
        (∀ n done, k.debugStop = some (n, done) → stops (if n ≠ core then 3 else if done then 2 else 1) k.debugStop))) ∧
    (∀ core : Nat, k.debugStop = some (core, false) → Answers (.debugStopReached t cell) s (fun s' =>
      (s'.cell cell).dstate = 2 ∧ (s'.cell cell).stopCore = core ∧ (s'.cell cell).debugStop = some (core, true) ∧
      ((s'.cell cell).core core).fenced ∧ ((s'.cell cell).core core).engines = [] ∧ s'.flash = u.flash ∧
      ((s'.cell cell).core core).window = k.debugWords cell core u.free ∧ s'.free = u.free + 80))

/-- A read answers the register's value; of a 64-bit register the low word latches the high word for its next read, and an 8-byte read answers
the whole. A write of the low word waits and the high word completes the register; an 8-byte write takes it whole. A function's rings take
base and head, the key window is closed while an enrolment waits, the load window takes any size, and read-only registers stay. Any other
size or alignment reads zero, writes nothing and is noted at most once a second. (R337, R338, R339, R401, R402, R405, R407, R409.) -/
def Obligations.RegisterAccessesReadAndWrite : Prop :=
  ∀ (t : Nat) (fn : Fin 64) (s : State), let u := s.at t
    let ring := if fn.val = 0 then 0x80000 else 0
    let h := u.fn fn
    let reads (off size v : Nat) (w : State) := Answers (.registerRead t fn off size) s (fun s' =>
      s'.silent = (w.emit (.readData fn.val v)).silent)
    let writes (off size : Nat) (v : BitVec 64) (w : State) := Answers (.registerWrite t fn off size v) s (fun s' => s'.silent = w.silent)
    u.fnUp fn →
    (fn.val = 0 →
      (∀ p ∈ [(0x00, 0x08400303), (0x40, u.supply.limit), (0x44, u.effLimit), (0x6C, u.host.loadLen), (0x80, u.flash.figFloor.toNat),
        (0x84, u.flash.ruleFloor.toNat), (0x98, u.fw.len)], reads p.1 4 p.2 u) ∧
      (∀ c : Fin 8, let k := u.cell c
        (∀ p ∈ [(0x08, k.cap), (0x80, k.zeroVar.toNat), (0x84, k.routeOvf.toNat), (0x88, k.tiers.eccFast.toNat), (0xC0, k.err.prod.toNat),
          (0xC4, k.err.cons.toNat), (0xC8, k.err.lost.toNat), (0x500, k.gen.reqIndex.toNat)], reads (0x100000 * (c.val + 1) + p.1) 4 p.2 u) ∧
        reads (0x100000 * (c.val + 1) + 0x10) 8 (k.step.number % 2 ^ 64) u) ∧
      (∀ p ∈ [(0x10, u.time 0), (0x20, u.seating.tableId.toNat), (0x30, u.host.bar2.toNat * 2 ^ 37), (0x60, u.host.figCond.toNat)],
        reads p.1 8 (p.2 % 2 ^ 64) u ∧
        reads p.1 4 (p.2 % 2 ^ 32) { u with host := { u.host with
          highHeld := u.host.highHeld.set none p.1 (some (BitVec.ofNat 32 (p.2 % 2 ^ 64 / 2 ^ 32))) } } ∧
        (∀ w, u.host.highHeld.get none p.1 = some w → reads (p.1 + 4) 4 w.toNat
          { u with host := { u.host with highHeld := u.host.highHeld.set none p.1 none } })) ∧
      (∀ off size v, 0x3000000 ≤ off → off < 0x4000000 → reads off size 0 u ∧ (u.windowBusy = false → size ≤ 8 →
        writes off size v { u with host := { u.host with
          window := fillBytes u.host.window (off - 0x3000000) (bytesOf (min size (0x4000000 - off)) v.toNat) } }) ∧
        (u.windowBusy → Answers (.registerWrite t fn off size v) s (fun s' => Reports u s'))) ∧
      (∀ v : BitVec 64, let whole (b : Nat) : HostPort := { u.host with lowHeld := u.host.lowHeld.set none b none }
        writes 0x30 8 v { u with host := { whole 0x30 with bar2 := v.extractLsb' 37 7 } } ∧
        writes 0x60 8 v { u with host := { whole 0x60 with figCond := v } } ∧
        writes 0xA0 8 v { u with host := whole 0xA0, fw := { u.fw with time := v } }) ∧
      (∀ w : BitVec 32, writes 0x60 4 (w.setWidth 64) { u with host := { u.host with lowHeld := u.host.lowHeld.set none 0x60 (some w) } } ∧
        (∀ low, u.host.lowHeld.get none 0x60 = some low → writes 0x64 4 (w.setWidth 64)
          { u with host := { u.host with lowHeld := u.host.lowHeld.set none 0x60 none, figCond := w ++ low } }) ∧
        (∀ off ∈ [0x00, 0x04, 0x08, 0x0C, 0x44, 0x50, 0x88, 0xB4], writes off 4 (w.setWidth 64) u) ∧
        (∀ off, 0x2000 ≤ off → off < 0x4000 → off % 4 = 0 →
          (u.host.keyBusy → Answers (.registerWrite t fn off 4 (w.setWidth 64)) s (fun s' => Reports u s')) ∧
          (u.host.keyBusy = false → writes off 4 (w.setWidth 64) { u with host := { u.host with
            keyWin := fillBytes u.host.keyWin (off - 0x2000) (bytesOf 4 w.toNat) } })))) ∧
    reads (ring + 0x0C) 4 h.cqHead u ∧ reads (ring + 0x10) 4 h.cqTail u ∧ reads (ring + 0x24) 4 fn.val u ∧
    (∀ c : Fin 8, reads (ring + 0x100 + 0x20 * c.val + 0x10) 4 (h.ring c).head u) ∧
    (∀ w : BitVec 32, writes (ring + 0x0C) 4 (w.setWidth 64) (u.onFn fn (fun h => { h with cqHead := w.toNat % 65536 })) ∧
      (h.cqEn = false → writes (ring + 0x04) 4 (w.setWidth 64) (u.onFn fn (fun h => { h with cqBase := withHigh h.cqBase w }))) ∧
      (∀ c : Fin 8, (h.ring c).en = false → writes (ring + 0x100 + 0x20 * c.val + 0x04) 4 (w.setWidth 64)
        (u.onFn fn (fun h => h.onRing c (fun r => { r with base := withHigh r.base w }))))) ∧
    (∀ off size v, fn.val ≠ 0 ∨ off < 0x3000000 ∨ 0x4000000 ≤ off → size ≠ 4 ∨ off % 4 ≠ 0 → size ≠ 8 ∨ wide fn off ≠ some off →
      let noted (s' : State) : Prop := Reports (u.onFn fn (fun h => { h with lastBad := some u.now })) s'
      (h.lastBad = none → Answers (.registerWrite t fn off size v) s noted ∧ Answers (.registerRead t fn off size) s noted) ∧
      (∀ b, h.lastBad = some b → u.now < b + 1000000000 → writes off size v u ∧ reads off size 0 u))

/-- With n requesters and the button at b, the winner is the first asking requester in the order b, b + 1, ..., n - 1, 0, ..., b - 1, and none
where none asks. Buttons are 0 at reset. When an engine of a core takes an operation, its context won so among 4,096 of those that ask and
whose forward R199 does not hold back, the engine's button is the winner's number plus one, modulo 4,096, and no other engine's moves;
with no context asking, no button moves. (R69.) -/
def Obligations.TheFirstAskingRequesterFromTheButtonWins : Prop :=
  (∀ (n b : Nat) (asking : List Nat), b < n →
    (∀ i, i < n → (b + i) % n ∈ asking → (∀ j, j < i → (b + j) % n ∉ asking) → buttonWin n b asking = some ((b + i) % n)) ∧
    ((∀ r ∈ asking, n ≤ r) → buttonWin n b asking = none)) ∧
  (∀ c n e p, ((State.reset.cell c).core n).button e = 0 ∧ ((State.reset.cell c).port p).laneBtn = 0 ∧
    (State.reset.cell c).cmdBtn = 0 ∧ (State.reset.cell c).tiers.button = 0) ∧
  (∀ (s s1 : State) (c n e : Nat) (p : OpRec → Bool) (v : OpEnv), s.issue c n e p = some (v, s1) →
    buttonWin 4096 (((s.cell c).core n).button e) (((s.cell c).asking n p).filter (fun w =>
      !(s.cell c).heldForward s.mySeat c (((s.cell c).core n).ctx w))) = some v.ctx ∧
    ((s1.cell c).core n).button e = (v.ctx + 1) % 4096 ∧
    ∀ e', e' ≠ e → ((s1.cell c).core n).button e' = ((s.cell c).core n).button e') ∧
  (∀ (t : Nat) (cell : Fin 8) (core : Fin 128) (s : State), let u := s.at t
    (u.cell cell).asking core (fun o => o.opcode = 1) = [] → Answers (.product t cell core) s (fun s' =>
      ∀ e, ((s'.cell cell).core core).button e = ((u.cell cell).core core).button e))

/-- Of the asking keys the winner is the smallest at or above the button, or the smallest of all when none is at or above it. The frame that a
port sends of a lane has the winning key of the frames of that lane that the port may pass on, with the credits it needs, and the button
becomes the key immediately after it. (R71.) -/
def Obligations.AnOutputPortServesTheNextAskingKey : Prop :=
  (∀ (b : Nat) (asking : List Nat),
    ((∃ k ∈ asking, b ≤ k) → ∃ w, keyWin b asking = some w ∧ w ∈ asking ∧ b ≤ w ∧ ∀ k ∈ asking, b ≤ k → w ≤ k) ∧
    (asking ≠ [] → (∀ k ∈ asking, k < b) → ∃ w, keyWin b asking = some w ∧ w ∈ asking ∧ ∀ k ∈ asking, w ≤ k) ∧
    (asking = [] → keyWin b asking = none)) ∧
  (∀ (s : State) (c p lane : Nat) (a : Nat × Frame), s.pickLane c p lane = some a → a.2.isCredit1 = false →
    let q := (s.cell c).port p
    keyWin q.btnKey ((q.queue.filter (fun x => x.2.lane = lane && s.mayGo c p x.2)).map qKey) = some (qKey a) ∧
    a ∈ q.queue ∧ s.mayLeave c p a.2 ∧ (((s.sendOne c p a).cell c).port p).btnKey = qKey a + 1)
end

