-- ==== Sys2Proof/Laws/SMap.lean ====
section
/-! SUPPORT. The laws of sparse tables: read after write, and every write keeps the canonical form. -/

namespace Sys2Proof

variable {β : Type}

@[simp] theorem SMap.get_nil (d : β) (k : Nat) : SMap.get [] d k = d := rfl

theorem SMap.get_cons (k k' : Nat) (v d : β) (r : SMap β) :
    SMap.get ((k', v) :: r) d k = if k' = k then v else SMap.get r d k := rfl

@[simp] theorem SMap.get_del_same (m : SMap β) (d : β) (k : Nat) : (m.del k).get d k = d := by
  induction m with
  | nil => rfl
  | cons p r ih =>
    obtain ⟨k', v⟩ := p
    by_cases h : k' = k
    · simpa [SMap.del, h] using ih
    · simpa [SMap.del, h, SMap.get_cons] using ih

@[simp] theorem SMap.get_del_other (m : SMap β) (d : β) {k j : Nat} (h : j ≠ k) :
    (m.del k).get d j = m.get d j := by
  induction m with
  | nil => rfl
  | cons p r ih =>
    obtain ⟨k', v⟩ := p
    by_cases hk : k' = k
    · subst hk
      have : ¬ k' = j := fun e => h e.symm
      simpa [SMap.del, SMap.get_cons, this] using ih
    · by_cases hj : k' = j
      · subst hj
        simp [SMap.del, h, SMap.get_cons]
      · simpa [SMap.del, hk, SMap.get_cons, hj] using ih

theorem SMap.get_ins_same (m : SMap β) (d v : β) (k : Nat) (h : ∀ p ∈ m, p.1 ≠ k) :
    (m.ins k v).get d k = v := by
  induction m with
  | nil => simp [SMap.ins, SMap.get_cons]
  | cons p r ih =>
    obtain ⟨k', v'⟩ := p
    have hk : k' ≠ k := h (k', v') (by simp)
    by_cases hlt : k < k'
    · simp [SMap.ins, hlt, SMap.get_cons]
    · simp [SMap.ins, hlt, SMap.get_cons, hk, ih (fun p hp => h p (by simp [hp]))]

theorem SMap.get_ins_other (m : SMap β) (d v : β) {k j : Nat} (h : j ≠ k) :
    (m.ins k v).get d j = m.get d j := by
  have h' : ¬ k = j := fun e => h e.symm
  induction m with
  | nil => simp [SMap.ins, SMap.get_cons, h']
  | cons p r ih =>
    obtain ⟨k', v'⟩ := p
    by_cases hlt : k < k'
    · simp [SMap.ins, hlt, SMap.get_cons, h']
    · by_cases hj : k' = j
      · subst hj
        simp [SMap.ins, hlt, SMap.get_cons]
      · simp [SMap.ins, hlt, SMap.get_cons, hj, ih]

theorem SMap.del_no_key (m : SMap β) (k : Nat) : ∀ p ∈ m.del k, p.1 ≠ k := by
  intro p hp
  simpa using (List.mem_filter.mp hp).2

@[simp] theorem SMap.get_set_same [DecidableEq β] (m : SMap β) (d v : β) (k : Nat) :
    (m.set d k v).get d k = v := by
  unfold SMap.set
  split
  · rename_i h; simp [h]
  · exact SMap.get_ins_same _ _ _ _ (SMap.del_no_key m k)

@[simp] theorem SMap.get_set_other [DecidableEq β] (m : SMap β) (d v : β) {k j : Nat} (h : j ≠ k) :
    (m.set d k v).get d j = m.get d j := by
  unfold SMap.set
  split
  · exact SMap.get_del_other m d h
  · rw [SMap.get_ins_other _ _ _ h, SMap.get_del_other m d h]

theorem SMap.get_set [DecidableEq β] (m : SMap β) (d v : β) (k j : Nat) :
    (m.set d k v).get d j = if j = k then v else m.get d j := by
  by_cases h : j = k
  · subst h; simp
  · simp [h]

theorem SMap.get_mod [DecidableEq β] (m : SMap β) (d : β) (f : β → β) (k j : Nat) :
    (m.mod d k f).get d j = if j = k then f (m.get d k) else m.get d j := by
  unfold SMap.mod; exact SMap.get_set m d _ k j

theorem SMap.wfFrom_mono [DecidableEq β] {d : β} {m : SMap β} {a b : Nat} (hab : b ≤ a)
    (h : SMap.wfFrom d a m = true) : SMap.wfFrom d b m = true := by
  cases m with
  | nil => rfl
  | cons p r =>
    obtain ⟨k, v⟩ := p
    simp only [SMap.wfFrom, Bool.and_eq_true, decide_eq_true_eq] at h ⊢
    exact ⟨⟨le_trans hab h.1.1, h.1.2⟩, h.2⟩

theorem SMap.wfFrom_del [DecidableEq β] {d : β} {m : SMap β} {a : Nat} (k : Nat)
    (h : SMap.wfFrom d a m = true) : SMap.wfFrom d a (m.del k) = true := by
  induction m generalizing a with
  | nil => rfl
  | cons p r ih =>
    obtain ⟨k', v⟩ := p
    simp only [SMap.wfFrom, Bool.and_eq_true, decide_eq_true_eq] at h
    have hr := ih h.2
    by_cases hk : k' = k
    · simpa [SMap.del, hk] using SMap.wfFrom_mono (Nat.le_succ_of_le h.1.1) (by simpa [SMap.del] using hr)
    · simp only [SMap.del, List.filter_cons, ne_eq, hk, not_false_eq_true, decide_true, if_true, SMap.wfFrom,
        Bool.and_eq_true, decide_eq_true_eq]
      exact ⟨h.1, by simpa [SMap.del] using hr⟩

theorem SMap.wfFrom_ins [DecidableEq β] {d v : β} {m : SMap β} {a k : Nat} (hv : v ≠ d) (hk : a ≤ k)
    (hno : ∀ p ∈ m, p.1 ≠ k) (h : SMap.wfFrom d a m = true) : SMap.wfFrom d a (m.ins k v) = true := by
  induction m generalizing a with
  | nil => simp [SMap.ins, SMap.wfFrom, hv, hk]
  | cons p r ih =>
    obtain ⟨k', v'⟩ := p
    have hne : k' ≠ k := hno (k', v') (by simp)
    simp only [SMap.wfFrom, Bool.and_eq_true, decide_eq_true_eq] at h
    by_cases hlt : k < k'
    · simp only [SMap.ins, hlt, if_true, SMap.wfFrom, Bool.and_eq_true, decide_eq_true_eq]
      exact ⟨⟨hk, hv⟩, ⟨hlt, h.1.2⟩, h.2⟩
    · simp only [SMap.ins, hlt, if_false, SMap.wfFrom, Bool.and_eq_true, decide_eq_true_eq]
      exact ⟨h.1, ih (by omega) (fun p hp => hno p (by simp [hp])) h.2⟩

/-- Every write keeps the canonical form. -/
theorem SMap.wf_set [DecidableEq β] {d : β} {m : SMap β} (k : Nat) (v : β) (h : SMap.wf d m = true) :
    SMap.wf d (m.set d k v) = true := by
  unfold SMap.set
  split
  · exact SMap.wfFrom_del k h
  · rename_i hv
    exact SMap.wfFrom_ins hv (Nat.zero_le k) (SMap.del_no_key m k) (SMap.wfFrom_del k h)

theorem SMap.wf_mod [DecidableEq β] {d : β} {m : SMap β} (k : Nat) (f : β → β) (h : SMap.wf d m = true) :
    SMap.wf d (m.mod d k f) = true := SMap.wf_set k _ h

theorem SMap.wf_nil [DecidableEq β] (d : β) : SMap.wf d ([] : SMap β) = true := rfl

theorem SMap.wfFrom_mapV [DecidableEq β] {d : β} (f : β → β) {m : SMap β} {a : Nat}
    (h : SMap.wfFrom d a m = true) : SMap.wfFrom d a (m.mapV d f) = true := by
  induction m generalizing a with
  | nil => rfl
  | cons p r ih =>
    obtain ⟨k, v⟩ := p
    simp only [SMap.wfFrom, Bool.and_eq_true, decide_eq_true_eq] at h
    have hr := ih h.2
    by_cases hv : f v = d
    · simpa [SMap.mapV, hv] using SMap.wfFrom_mono (Nat.le_succ_of_le h.1.1) (by simpa [SMap.mapV] using hr)
    · simp only [SMap.mapV, List.map_cons, List.filter_cons, ne_eq, hv, not_false_eq_true, decide_true, if_true,
        SMap.wfFrom, Bool.and_eq_true, decide_eq_true_eq]
      exact ⟨⟨h.1.1, trivial⟩, by simpa [SMap.mapV] using hr⟩

theorem SMap.wf_mapV [DecidableEq β] {d : β} (f : β → β) {m : SMap β} (h : SMap.wf d m = true) :
    SMap.wf d (m.mapV d f) = true := SMap.wfFrom_mapV f h

/-- Changing every listed value by a function that fixes the default changes every read by it. -/
theorem SMap.get_mapV_of_wf [DecidableEq β] {d : β} (f : β → β) (hf : f d = d) {m : SMap β} {a : Nat}
    (h : SMap.wfFrom d a m = true) (k : Nat) : (m.mapV d f).get d k = f (m.get d k) := by
  induction m generalizing a with
  | nil => simp [SMap.mapV, hf]
  | cons p r ih =>
    obtain ⟨k', v⟩ := p
    simp only [SMap.wfFrom, Bool.and_eq_true, decide_eq_true_eq] at h
    have hr := ih h.2
    have hcons : SMap.mapV ((k', v) :: r) d f = if f v = d then SMap.mapV r d f else (k', f v) :: SMap.mapV r d f := by
      by_cases hv : f v = d <;> simp [SMap.mapV, hv]
    have hlow : ∀ (q : SMap β) (b : Nat), SMap.wfFrom d b q = true → ∀ j < b, q.get d j = d := by
      intro q
      induction q with
      | nil => intro b _ j _; rfl
      | cons x y ihy =>
        obtain ⟨kx, vx⟩ := x
        intro b hb j hj
        simp only [SMap.wfFrom, Bool.and_eq_true, decide_eq_true_eq] at hb
        have : ¬ kx = j := by omega
        rw [SMap.get_cons, if_neg this]
        exact ihy _ hb.2 j (by omega)
    by_cases hk : k' = k
    · subst hk
      by_cases hv : f v = d
      · rw [hcons, if_pos hv, hr, SMap.get_cons, if_pos rfl, hv, hlow r (k' + 1) h.2 k' (by omega), hf]
      · rw [hcons, if_neg hv, SMap.get_cons, if_pos rfl, SMap.get_cons, if_pos rfl]
    · by_cases hv : f v = d
      · rw [hcons, if_pos hv, hr, SMap.get_cons, if_neg hk]
      · rw [hcons, if_neg hv, SMap.get_cons, if_neg hk, SMap.get_cons, if_neg hk, hr]

theorem SMap.del_del (m : SMap β) (k : Nat) : (m.del k).del k = m.del k := by simp [SMap.del]

theorem SMap.del_ins (m : SMap β) (k : Nat) (v : β) : (m.ins k v).del k = m.del k := by
  induction m with
  | nil => simp [SMap.ins, SMap.del]
  | cons p r ih =>
    obtain ⟨k', v'⟩ := p
    by_cases h : k < k'
    · simp [SMap.ins, h, SMap.del]
    · simp only [SMap.ins, h, if_false, SMap.del, List.filter_cons]
      simp only [SMap.del] at ih
      rw [ih]

/-- Of two writes at one key the last stands. -/
@[simp] theorem SMap.set_set [DecidableEq β] (m : SMap β) (d : β) (k : Nat) (v w : β) : (m.set d k v).set d k w = m.set d k w := by
  have h : (m.set d k v).del k = m.del k := by
    unfold SMap.set
    split
    · exact SMap.del_del m k
    · rw [SMap.del_ins, SMap.del_del]
  show (if w = d then (m.set d k v).del k else ((m.set d k v).del k).ins k w) = _
  rw [h]
  rfl

end Sys2Proof
end

