-- ==== Sys2Proof/Laws/State.lean ====
section
/-!
SUPPORT. What each update of the state leaves in each field, what reads find after it, and what a run keeps apart from the sensor events.
-/

namespace Sys2Proof.Machine

variable (s : State)

/-! ## Reads after writes -/

theorem State.cell_setCell (c : Nat) (v : Cell) (d : Nat) : (s.setCell c v).cell d = if d = c then v else s.cell d :=
  SMap.get_set ..

@[simp] theorem State.cell_setCell_same (c : Nat) (v : Cell) : (s.setCell c v).cell c = v := SMap.get_set_same ..

theorem State.cell_onCell (c : Nat) (f : Cell → Cell) (d : Nat) : (s.onCell c f).cell d = if d = c then f (s.cell c) else s.cell d :=
  SMap.get_set ..

@[simp] theorem State.cell_onCell_same (c : Nat) (f : Cell → Cell) : (s.onCell c f).cell c = f (s.cell c) := SMap.get_set_same ..

theorem State.fn_onFn (n : Nat) (f : HostFn → HostFn) (m : Nat) : (s.onFn n f).fn m = if m = n then f (s.fn n) else s.fn m :=
  SMap.get_set ..

@[simp] theorem State.fn_onFn_same (n : Nat) (f : HostFn → HostFn) : (s.onFn n f).fn n = f (s.fn n) := SMap.get_set_same ..

theorem State.chan_setChan (n : Nat) (v : Chan) (m : Nat) : (s.setChan n v).chan m = if m = n then v else s.chan m := SMap.get_set ..

@[simp] theorem State.chan_setChan_same (n : Nat) (v : Chan) : (s.setChan n v).chan n = v := SMap.get_set_same ..

theorem State.coord_onCoord (n : Nat) (f : Coord → Coord) (m : Nat) :
    (s.onCoord n f).coord m = if m = n then f (s.coord n) else s.coord m := SMap.get_set ..

@[simp] theorem State.coord_onCoord_same (n : Nat) (f : Coord → Coord) : (s.onCoord n f).coord n = f (s.coord n) :=
  SMap.get_set_same ..

@[simp] theorem Cell.core_onCore_same (k : Cell) (n : Nat) (f : Core → Core) : (k.onCore n f).core n = f (k.core n) :=
  SMap.get_set_same ..

@[simp] theorem Cell.ver_onVer_same (k : Cell) (t : Nat) (f : Versions → Versions) : (k.onVer t f).ver t = f (k.ver t) :=
  SMap.get_set_same ..

@[simp] theorem Cell.port_onPort_same (k : Cell) (p : Nat) (f : Port → Port) : (k.onPort p f).port p = f (k.port p) :=
  SMap.get_set_same ..

@[simp] theorem Cell.entry_onEntry_same (k : Cell) (i : Nat) (f : ReqEntry → ReqEntry) : (k.onEntry i f).entry i = f (k.entry i) :=
  SMap.get_set_same ..

/-! ## One law for each field and update -/

@[simp] theorem State.setCell_pending (c : Nat) (v : Cell) : (s.setCell c v).pending = s.pending := rfl
@[simp] theorem State.setCell_now (c : Nat) (v : Cell) : (s.setCell c v).now = s.now := rfl
@[simp] theorem State.setCell_free (c : Nat) (v : Cell) : (s.setCell c v).free = s.free := rfl
@[simp] theorem State.setCell_supply (c : Nat) (v : Cell) : (s.setCell c v).supply = s.supply := rfl
@[simp] theorem State.setCell_boot (c : Nat) (v : Cell) : (s.setCell c v).boot = s.boot := rfl
@[simp] theorem State.setCell_flash (c : Nat) (v : Cell) : (s.setCell c v).flash = s.flash := rfl
@[simp] theorem State.setCell_fw (c : Nat) (v : Cell) : (s.setCell c v).fw = s.fw := rfl
@[simp] theorem State.setCell_host (c : Nat) (v : Cell) : (s.setCell c v).host = s.host := rfl
@[simp] theorem State.setCell_fns (c : Nat) (v : Cell) : (s.setCell c v).fns = s.fns := rfl
@[simp] theorem State.setCell_seating (c : Nat) (v : Cell) : (s.setCell c v).seating = s.seating := rfl
@[simp] theorem State.setCell_chans (c : Nat) (v : Cell) : (s.setCell c v).chans = s.chans := rfl
@[simp] theorem State.setCell_net (c : Nat) (v : Cell) : (s.setCell c v).net = s.net := rfl
@[simp] theorem State.setCell_netHeld (c : Nat) (v : Cell) : (s.setCell c v).netHeld = s.netHeld := rfl
@[simp] theorem State.setCell_badWires (c : Nat) (v : Cell) : (s.setCell c v).badWires = s.badWires := rfl
@[simp] theorem State.setCell_shared (c : Nat) (v : Cell) : (s.setCell c v).shared = s.shared := rfl
@[simp] theorem State.setCell_coords (c : Nat) (v : Cell) : (s.setCell c v).coords = s.coords := rfl
@[simp] theorem State.setCell_mgmt (c : Nat) (v : Cell) : (s.setCell c v).mgmt = s.mgmt := rfl
@[simp] theorem State.setCell_out (c : Nat) (v : Cell) : (s.setCell c v).out = s.out := rfl
@[simp] theorem State.setCell_fn (c : Nat) (v : Cell) (m : Nat) : (s.setCell c v).fn m = s.fn m := rfl
@[simp] theorem State.setCell_chan (c : Nat) (v : Cell) (m : Nat) : (s.setCell c v).chan m = s.chan m := rfl
@[simp] theorem State.setCell_coord (c : Nat) (v : Cell) (m : Nat) : (s.setCell c v).coord m = s.coord m := rfl

@[simp] theorem State.onCell_pending (c : Nat) (f : Cell → Cell) : (s.onCell c f).pending = s.pending := rfl
@[simp] theorem State.onCell_now (c : Nat) (f : Cell → Cell) : (s.onCell c f).now = s.now := rfl
@[simp] theorem State.onCell_free (c : Nat) (f : Cell → Cell) : (s.onCell c f).free = s.free := rfl
@[simp] theorem State.onCell_supply (c : Nat) (f : Cell → Cell) : (s.onCell c f).supply = s.supply := rfl
@[simp] theorem State.onCell_boot (c : Nat) (f : Cell → Cell) : (s.onCell c f).boot = s.boot := rfl
@[simp] theorem State.onCell_flash (c : Nat) (f : Cell → Cell) : (s.onCell c f).flash = s.flash := rfl
@[simp] theorem State.onCell_fw (c : Nat) (f : Cell → Cell) : (s.onCell c f).fw = s.fw := rfl
@[simp] theorem State.onCell_host (c : Nat) (f : Cell → Cell) : (s.onCell c f).host = s.host := rfl
@[simp] theorem State.onCell_fns (c : Nat) (f : Cell → Cell) : (s.onCell c f).fns = s.fns := rfl
@[simp] theorem State.onCell_seating (c : Nat) (f : Cell → Cell) : (s.onCell c f).seating = s.seating := rfl
@[simp] theorem State.onCell_chans (c : Nat) (f : Cell → Cell) : (s.onCell c f).chans = s.chans := rfl
@[simp] theorem State.onCell_net (c : Nat) (f : Cell → Cell) : (s.onCell c f).net = s.net := rfl
@[simp] theorem State.onCell_netHeld (c : Nat) (f : Cell → Cell) : (s.onCell c f).netHeld = s.netHeld := rfl
@[simp] theorem State.onCell_badWires (c : Nat) (f : Cell → Cell) : (s.onCell c f).badWires = s.badWires := rfl
@[simp] theorem State.onCell_shared (c : Nat) (f : Cell → Cell) : (s.onCell c f).shared = s.shared := rfl
@[simp] theorem State.onCell_coords (c : Nat) (f : Cell → Cell) : (s.onCell c f).coords = s.coords := rfl
@[simp] theorem State.onCell_mgmt (c : Nat) (f : Cell → Cell) : (s.onCell c f).mgmt = s.mgmt := rfl
@[simp] theorem State.onCell_out (c : Nat) (f : Cell → Cell) : (s.onCell c f).out = s.out := rfl
@[simp] theorem State.onCell_fn (c : Nat) (f : Cell → Cell) (m : Nat) : (s.onCell c f).fn m = s.fn m := rfl
@[simp] theorem State.onCell_chan (c : Nat) (f : Cell → Cell) (m : Nat) : (s.onCell c f).chan m = s.chan m := rfl
@[simp] theorem State.onCell_coord (c : Nat) (f : Cell → Cell) (m : Nat) : (s.onCell c f).coord m = s.coord m := rfl

@[simp] theorem State.onCore_pending (c n : Nat) (f : Core → Core) : (s.onCore c n f).pending = s.pending := rfl
@[simp] theorem State.onCore_now (c n : Nat) (f : Core → Core) : (s.onCore c n f).now = s.now := rfl
@[simp] theorem State.onCore_free (c n : Nat) (f : Core → Core) : (s.onCore c n f).free = s.free := rfl
@[simp] theorem State.onCore_supply (c n : Nat) (f : Core → Core) : (s.onCore c n f).supply = s.supply := rfl
@[simp] theorem State.onCore_boot (c n : Nat) (f : Core → Core) : (s.onCore c n f).boot = s.boot := rfl
@[simp] theorem State.onCore_flash (c n : Nat) (f : Core → Core) : (s.onCore c n f).flash = s.flash := rfl
@[simp] theorem State.onCore_fw (c n : Nat) (f : Core → Core) : (s.onCore c n f).fw = s.fw := rfl
@[simp] theorem State.onCore_host (c n : Nat) (f : Core → Core) : (s.onCore c n f).host = s.host := rfl
@[simp] theorem State.onCore_fns (c n : Nat) (f : Core → Core) : (s.onCore c n f).fns = s.fns := rfl
@[simp] theorem State.onCore_seating (c n : Nat) (f : Core → Core) : (s.onCore c n f).seating = s.seating := rfl
@[simp] theorem State.onCore_chans (c n : Nat) (f : Core → Core) : (s.onCore c n f).chans = s.chans := rfl
@[simp] theorem State.onCore_net (c n : Nat) (f : Core → Core) : (s.onCore c n f).net = s.net := rfl
@[simp] theorem State.onCore_netHeld (c n : Nat) (f : Core → Core) : (s.onCore c n f).netHeld = s.netHeld := rfl
@[simp] theorem State.onCore_badWires (c n : Nat) (f : Core → Core) : (s.onCore c n f).badWires = s.badWires := rfl
@[simp] theorem State.onCore_shared (c n : Nat) (f : Core → Core) : (s.onCore c n f).shared = s.shared := rfl
@[simp] theorem State.onCore_coords (c n : Nat) (f : Core → Core) : (s.onCore c n f).coords = s.coords := rfl
@[simp] theorem State.onCore_mgmt (c n : Nat) (f : Core → Core) : (s.onCore c n f).mgmt = s.mgmt := rfl
@[simp] theorem State.onCore_out (c n : Nat) (f : Core → Core) : (s.onCore c n f).out = s.out := rfl
@[simp] theorem State.onCore_fn (c n : Nat) (f : Core → Core) (m : Nat) : (s.onCore c n f).fn m = s.fn m := rfl
@[simp] theorem State.onCore_chan (c n : Nat) (f : Core → Core) (m : Nat) : (s.onCore c n f).chan m = s.chan m := rfl
@[simp] theorem State.onCore_coord (c n : Nat) (f : Core → Core) (m : Nat) : (s.onCore c n f).coord m = s.coord m := rfl

@[simp] theorem State.onFn_pending (n : Nat) (f : HostFn → HostFn) : (s.onFn n f).pending = s.pending := rfl
@[simp] theorem State.onFn_now (n : Nat) (f : HostFn → HostFn) : (s.onFn n f).now = s.now := rfl
@[simp] theorem State.onFn_free (n : Nat) (f : HostFn → HostFn) : (s.onFn n f).free = s.free := rfl
@[simp] theorem State.onFn_supply (n : Nat) (f : HostFn → HostFn) : (s.onFn n f).supply = s.supply := rfl
@[simp] theorem State.onFn_boot (n : Nat) (f : HostFn → HostFn) : (s.onFn n f).boot = s.boot := rfl
@[simp] theorem State.onFn_flash (n : Nat) (f : HostFn → HostFn) : (s.onFn n f).flash = s.flash := rfl
@[simp] theorem State.onFn_fw (n : Nat) (f : HostFn → HostFn) : (s.onFn n f).fw = s.fw := rfl
@[simp] theorem State.onFn_host (n : Nat) (f : HostFn → HostFn) : (s.onFn n f).host = s.host := rfl
@[simp] theorem State.onFn_seating (n : Nat) (f : HostFn → HostFn) : (s.onFn n f).seating = s.seating := rfl
@[simp] theorem State.onFn_cells (n : Nat) (f : HostFn → HostFn) : (s.onFn n f).cells = s.cells := rfl
@[simp] theorem State.onFn_chans (n : Nat) (f : HostFn → HostFn) : (s.onFn n f).chans = s.chans := rfl
@[simp] theorem State.onFn_net (n : Nat) (f : HostFn → HostFn) : (s.onFn n f).net = s.net := rfl
@[simp] theorem State.onFn_netHeld (n : Nat) (f : HostFn → HostFn) : (s.onFn n f).netHeld = s.netHeld := rfl
@[simp] theorem State.onFn_badWires (n : Nat) (f : HostFn → HostFn) : (s.onFn n f).badWires = s.badWires := rfl
@[simp] theorem State.onFn_shared (n : Nat) (f : HostFn → HostFn) : (s.onFn n f).shared = s.shared := rfl
@[simp] theorem State.onFn_coords (n : Nat) (f : HostFn → HostFn) : (s.onFn n f).coords = s.coords := rfl
@[simp] theorem State.onFn_mgmt (n : Nat) (f : HostFn → HostFn) : (s.onFn n f).mgmt = s.mgmt := rfl
@[simp] theorem State.onFn_out (n : Nat) (f : HostFn → HostFn) : (s.onFn n f).out = s.out := rfl
@[simp] theorem State.onFn_cell (n : Nat) (f : HostFn → HostFn) (m : Nat) : (s.onFn n f).cell m = s.cell m := rfl
@[simp] theorem State.onFn_chan (n : Nat) (f : HostFn → HostFn) (m : Nat) : (s.onFn n f).chan m = s.chan m := rfl
@[simp] theorem State.onFn_coord (n : Nat) (f : HostFn → HostFn) (m : Nat) : (s.onFn n f).coord m = s.coord m := rfl

@[simp] theorem State.setChan_pending (n : Nat) (v : Chan) : (s.setChan n v).pending = s.pending := rfl
@[simp] theorem State.setChan_now (n : Nat) (v : Chan) : (s.setChan n v).now = s.now := rfl
@[simp] theorem State.setChan_free (n : Nat) (v : Chan) : (s.setChan n v).free = s.free := rfl
@[simp] theorem State.setChan_supply (n : Nat) (v : Chan) : (s.setChan n v).supply = s.supply := rfl
@[simp] theorem State.setChan_boot (n : Nat) (v : Chan) : (s.setChan n v).boot = s.boot := rfl
@[simp] theorem State.setChan_flash (n : Nat) (v : Chan) : (s.setChan n v).flash = s.flash := rfl
@[simp] theorem State.setChan_fw (n : Nat) (v : Chan) : (s.setChan n v).fw = s.fw := rfl
@[simp] theorem State.setChan_host (n : Nat) (v : Chan) : (s.setChan n v).host = s.host := rfl
@[simp] theorem State.setChan_fns (n : Nat) (v : Chan) : (s.setChan n v).fns = s.fns := rfl
@[simp] theorem State.setChan_seating (n : Nat) (v : Chan) : (s.setChan n v).seating = s.seating := rfl
@[simp] theorem State.setChan_cells (n : Nat) (v : Chan) : (s.setChan n v).cells = s.cells := rfl
@[simp] theorem State.setChan_net (n : Nat) (v : Chan) : (s.setChan n v).net = s.net := rfl
@[simp] theorem State.setChan_netHeld (n : Nat) (v : Chan) : (s.setChan n v).netHeld = s.netHeld := rfl
@[simp] theorem State.setChan_badWires (n : Nat) (v : Chan) : (s.setChan n v).badWires = s.badWires := rfl
@[simp] theorem State.setChan_shared (n : Nat) (v : Chan) : (s.setChan n v).shared = s.shared := rfl
@[simp] theorem State.setChan_coords (n : Nat) (v : Chan) : (s.setChan n v).coords = s.coords := rfl
@[simp] theorem State.setChan_mgmt (n : Nat) (v : Chan) : (s.setChan n v).mgmt = s.mgmt := rfl
@[simp] theorem State.setChan_out (n : Nat) (v : Chan) : (s.setChan n v).out = s.out := rfl
@[simp] theorem State.setChan_cell (n : Nat) (v : Chan) (m : Nat) : (s.setChan n v).cell m = s.cell m := rfl
@[simp] theorem State.setChan_fn (n : Nat) (v : Chan) (m : Nat) : (s.setChan n v).fn m = s.fn m := rfl
@[simp] theorem State.setChan_coord (n : Nat) (v : Chan) (m : Nat) : (s.setChan n v).coord m = s.coord m := rfl

@[simp] theorem State.onCoord_pending (n : Nat) (f : Coord → Coord) : (s.onCoord n f).pending = s.pending := rfl
@[simp] theorem State.onCoord_now (n : Nat) (f : Coord → Coord) : (s.onCoord n f).now = s.now := rfl
@[simp] theorem State.onCoord_free (n : Nat) (f : Coord → Coord) : (s.onCoord n f).free = s.free := rfl
@[simp] theorem State.onCoord_supply (n : Nat) (f : Coord → Coord) : (s.onCoord n f).supply = s.supply := rfl
@[simp] theorem State.onCoord_boot (n : Nat) (f : Coord → Coord) : (s.onCoord n f).boot = s.boot := rfl
@[simp] theorem State.onCoord_flash (n : Nat) (f : Coord → Coord) : (s.onCoord n f).flash = s.flash := rfl
@[simp] theorem State.onCoord_fw (n : Nat) (f : Coord → Coord) : (s.onCoord n f).fw = s.fw := rfl
@[simp] theorem State.onCoord_host (n : Nat) (f : Coord → Coord) : (s.onCoord n f).host = s.host := rfl
@[simp] theorem State.onCoord_fns (n : Nat) (f : Coord → Coord) : (s.onCoord n f).fns = s.fns := rfl
@[simp] theorem State.onCoord_seating (n : Nat) (f : Coord → Coord) : (s.onCoord n f).seating = s.seating := rfl
@[simp] theorem State.onCoord_cells (n : Nat) (f : Coord → Coord) : (s.onCoord n f).cells = s.cells := rfl
@[simp] theorem State.onCoord_chans (n : Nat) (f : Coord → Coord) : (s.onCoord n f).chans = s.chans := rfl
@[simp] theorem State.onCoord_net (n : Nat) (f : Coord → Coord) : (s.onCoord n f).net = s.net := rfl
@[simp] theorem State.onCoord_netHeld (n : Nat) (f : Coord → Coord) : (s.onCoord n f).netHeld = s.netHeld := rfl
@[simp] theorem State.onCoord_badWires (n : Nat) (f : Coord → Coord) : (s.onCoord n f).badWires = s.badWires := rfl
@[simp] theorem State.onCoord_shared (n : Nat) (f : Coord → Coord) : (s.onCoord n f).shared = s.shared := rfl
@[simp] theorem State.onCoord_mgmt (n : Nat) (f : Coord → Coord) : (s.onCoord n f).mgmt = s.mgmt := rfl
@[simp] theorem State.onCoord_out (n : Nat) (f : Coord → Coord) : (s.onCoord n f).out = s.out := rfl
@[simp] theorem State.onCoord_cell (n : Nat) (f : Coord → Coord) (m : Nat) : (s.onCoord n f).cell m = s.cell m := rfl
@[simp] theorem State.onCoord_fn (n : Nat) (f : Coord → Coord) (m : Nat) : (s.onCoord n f).fn m = s.fn m := rfl
@[simp] theorem State.onCoord_chan (n : Nat) (f : Coord → Coord) (m : Nat) : (s.onCoord n f).chan m = s.chan m := rfl

@[simp] theorem State.emit_pending (e : Emit) : (s.emit e).pending = s.pending := rfl
@[simp] theorem State.emit_now (e : Emit) : (s.emit e).now = s.now := rfl
@[simp] theorem State.emit_free (e : Emit) : (s.emit e).free = s.free := rfl
@[simp] theorem State.emit_supply (e : Emit) : (s.emit e).supply = s.supply := rfl
@[simp] theorem State.emit_boot (e : Emit) : (s.emit e).boot = s.boot := rfl
@[simp] theorem State.emit_flash (e : Emit) : (s.emit e).flash = s.flash := rfl
@[simp] theorem State.emit_fw (e : Emit) : (s.emit e).fw = s.fw := rfl
@[simp] theorem State.emit_host (e : Emit) : (s.emit e).host = s.host := rfl
@[simp] theorem State.emit_fns (e : Emit) : (s.emit e).fns = s.fns := rfl
@[simp] theorem State.emit_seating (e : Emit) : (s.emit e).seating = s.seating := rfl
@[simp] theorem State.emit_cells (e : Emit) : (s.emit e).cells = s.cells := rfl
@[simp] theorem State.emit_chans (e : Emit) : (s.emit e).chans = s.chans := rfl
@[simp] theorem State.emit_net (e : Emit) : (s.emit e).net = s.net := rfl
@[simp] theorem State.emit_netHeld (e : Emit) : (s.emit e).netHeld = s.netHeld := rfl
@[simp] theorem State.emit_badWires (e : Emit) : (s.emit e).badWires = s.badWires := rfl
@[simp] theorem State.emit_shared (e : Emit) : (s.emit e).shared = s.shared := rfl
@[simp] theorem State.emit_coords (e : Emit) : (s.emit e).coords = s.coords := rfl
@[simp] theorem State.emit_mgmt (e : Emit) : (s.emit e).mgmt = s.mgmt := rfl
@[simp] theorem State.emit_cell (e : Emit) (m : Nat) : (s.emit e).cell m = s.cell m := rfl
@[simp] theorem State.emit_fn (e : Emit) (m : Nat) : (s.emit e).fn m = s.fn m := rfl
@[simp] theorem State.emit_chan (e : Emit) (m : Nat) : (s.emit e).chan m = s.chan m := rfl
@[simp] theorem State.emit_coord (e : Emit) (m : Nat) : (s.emit e).coord m = s.coord m := rfl
@[simp] theorem State.emit_out (e : Emit) : (s.emit e).out = s.out ++ [e] := rfl

/-! ## Time -/

@[simp] theorem State.at_pending (t : Nat) : (s.at t).pending = s.pending := by unfold State.at; split <;> rfl
@[simp] theorem State.at_free (t : Nat) : (s.at t).free = s.free := by unfold State.at; split <;> rfl
@[simp] theorem State.at_supply (t : Nat) : (s.at t).supply = s.supply := by unfold State.at; split <;> rfl
@[simp] theorem State.at_boot (t : Nat) : (s.at t).boot = s.boot := by unfold State.at; split <;> rfl
@[simp] theorem State.at_flash (t : Nat) : (s.at t).flash = s.flash := by unfold State.at; split <;> rfl
@[simp] theorem State.at_fw (t : Nat) : (s.at t).fw = s.fw := by unfold State.at; split <;> rfl
@[simp] theorem State.at_host (t : Nat) : (s.at t).host = s.host := by unfold State.at; split <;> rfl
@[simp] theorem State.at_fns (t : Nat) : (s.at t).fns = s.fns := by unfold State.at; split <;> rfl
@[simp] theorem State.at_seating (t : Nat) : (s.at t).seating = s.seating := by unfold State.at; split <;> rfl
@[simp] theorem State.at_chans (t : Nat) : (s.at t).chans = s.chans := by unfold State.at; split <;> rfl
@[simp] theorem State.at_net (t : Nat) : (s.at t).net = s.net := by unfold State.at; split <;> rfl
@[simp] theorem State.at_netHeld (t : Nat) : (s.at t).netHeld = s.netHeld := by unfold State.at; split <;> rfl
@[simp] theorem State.at_badWires (t : Nat) : (s.at t).badWires = s.badWires := by unfold State.at; split <;> rfl
@[simp] theorem State.at_shared (t : Nat) : (s.at t).shared = s.shared := by unfold State.at; split <;> rfl
@[simp] theorem State.at_coords (t : Nat) : (s.at t).coords = s.coords := by unfold State.at; split <;> rfl
@[simp] theorem State.at_mgmt (t : Nat) : (s.at t).mgmt = s.mgmt := by unfold State.at; split <;> rfl
@[simp] theorem State.at_out (t : Nat) : (s.at t).out = s.out := by unfold State.at; split <;> rfl
@[simp] theorem State.at_fn (t m : Nat) : (s.at t).fn m = s.fn m := by unfold State.at; split <;> rfl
@[simp] theorem State.at_chan (t m : Nat) : (s.at t).chan m = s.chan m := by unfold State.at; split <;> rfl
@[simp] theorem State.at_coord (t m : Nat) : (s.at t).coord m = s.coord m := by unfold State.at; split <;> rfl

theorem State.le_at_now (t : Nat) : s.now ≤ (s.at t).now := by
  unfold State.at
  split
  · exact Nat.le_refl _
  · show s.now ≤ t
    omega

/-! ## Runs, apart from the sensor events (R399) -/

@[simp] theorem State.silent_pldmEvent (l : List Nat) : (s.pldmEvent 0 l).silent = s.silent := by
  unfold State.pldmEvent
  dsimp only
  split
  · simp [State.silent, State.emit, State.onCell, State.setCell, State.cell, Emit.isEvent]
  · simp [State.silent, State.onCell, State.setCell, State.cell]

/-- A run leaves its effect, but for the traces of sensor events. -/
theorem State.silent_senseFrom (b : State) : (s.senseFrom b).silent = s.silent := by
  unfold State.senseFrom
  split
  · rfl
  · generalize List.zip b.sensors s.sensors = l
    suffices h : ∀ a : State, a.silent = s.silent → (l.foldl (fun acc p => if p.1.2 = p.2.2 then acc
        else acc.pldmEvent 0 [p.2.1 % 256, p.2.1 / 256, p.2.2, p.1.2]) a).silent = s.silent from h s rfl
    induction l with
    | nil => exact fun _ h => h
    | cons p l ih =>
      intro a h
      refine ih _ ?_
      dsimp only
      split
      · exact h
      · rw [State.silent_pldmEvent, h]

theorem State.silent_run (t : Nat) (f : State → State) : (s.run t f).silent = (f (s.at t)).silent := State.silent_senseFrom ..

@[simp] theorem State.run_pending (t : Nat) (f : State → State) : (s.run t f).pending = (f (s.at t)).pending := by
  have h := congrArg State.pending (s.silent_run t f)
  exact h

@[simp] theorem State.run_now (t : Nat) (f : State → State) : (s.run t f).now = (f (s.at t)).now := by
  have h := congrArg State.now (s.silent_run t f)
  exact h

@[simp] theorem State.run_free (t : Nat) (f : State → State) : (s.run t f).free = (f (s.at t)).free := by
  have h := congrArg State.free (s.silent_run t f)
  exact h

@[simp] theorem State.run_supply (t : Nat) (f : State → State) : (s.run t f).supply = (f (s.at t)).supply := by
  have h := congrArg State.supply (s.silent_run t f)
  exact h

@[simp] theorem State.run_boot (t : Nat) (f : State → State) : (s.run t f).boot = (f (s.at t)).boot := by
  have h := congrArg State.boot (s.silent_run t f)
  exact h

@[simp] theorem State.run_flash (t : Nat) (f : State → State) : (s.run t f).flash = (f (s.at t)).flash := by
  have h := congrArg State.flash (s.silent_run t f)
  exact h

@[simp] theorem State.run_fw (t : Nat) (f : State → State) : (s.run t f).fw = (f (s.at t)).fw := by
  have h := congrArg State.fw (s.silent_run t f)
  exact h

@[simp] theorem State.run_host (t : Nat) (f : State → State) : (s.run t f).host = (f (s.at t)).host := by
  have h := congrArg State.host (s.silent_run t f)
  exact h

@[simp] theorem State.run_fns (t : Nat) (f : State → State) : (s.run t f).fns = (f (s.at t)).fns := by
  have h := congrArg State.fns (s.silent_run t f)
  exact h

@[simp] theorem State.run_seating (t : Nat) (f : State → State) : (s.run t f).seating = (f (s.at t)).seating := by
  have h := congrArg State.seating (s.silent_run t f)
  exact h

@[simp] theorem State.run_chans (t : Nat) (f : State → State) : (s.run t f).chans = (f (s.at t)).chans := by
  have h := congrArg State.chans (s.silent_run t f)
  exact h

@[simp] theorem State.run_net (t : Nat) (f : State → State) : (s.run t f).net = (f (s.at t)).net := by
  have h := congrArg State.net (s.silent_run t f)
  exact h

@[simp] theorem State.run_netHeld (t : Nat) (f : State → State) : (s.run t f).netHeld = (f (s.at t)).netHeld := by
  have h := congrArg State.netHeld (s.silent_run t f)
  exact h

@[simp] theorem State.run_badWires (t : Nat) (f : State → State) : (s.run t f).badWires = (f (s.at t)).badWires := by
  have h := congrArg State.badWires (s.silent_run t f)
  exact h

@[simp] theorem State.run_shared (t : Nat) (f : State → State) : (s.run t f).shared = (f (s.at t)).shared := by
  have h := congrArg State.shared (s.silent_run t f)
  exact h

@[simp] theorem State.run_coords (t : Nat) (f : State → State) : (s.run t f).coords = (f (s.at t)).coords := by
  have h := congrArg State.coords (s.silent_run t f)
  exact h

@[simp] theorem State.run_fn (t : Nat) (f : State → State) (m : Nat) : (s.run t f).fn m = (f (s.at t)).fn m := by
  simp [State.fn]

@[simp] theorem State.run_chan (t : Nat) (f : State → State) (m : Nat) : (s.run t f).chan m = (f (s.at t)).chan m := by
  simp [State.chan]

@[simp] theorem State.run_coord (t : Nat) (f : State → State) (m : Nat) : (s.run t f).coord m = (f (s.at t)).coord m := by
  simp [State.coord]

@[simp] theorem State.run_mgmt_i3cDyn (t : Nat) (f : State → State) : (s.run t f).mgmt.i3cDyn = (f (s.at t)).mgmt.i3cDyn := by
  have h := congrArg (fun x : State => x.mgmt.i3cDyn) (s.silent_run t f)
  exact h

@[simp] theorem State.run_mgmt_eidI3c (t : Nat) (f : State → State) : (s.run t f).mgmt.eidI3c = (f (s.at t)).mgmt.eidI3c := by
  have h := congrArg (fun x : State => x.mgmt.eidI3c) (s.silent_run t f)
  exact h

@[simp] theorem State.run_mgmt_eidPcie (t : Nat) (f : State → State) : (s.run t f).mgmt.eidPcie = (f (s.at t)).mgmt.eidPcie := by
  have h := congrArg (fun x : State => x.mgmt.eidPcie) (s.silent_run t f)
  exact h

@[simp] theorem State.run_mgmt_spdm (t : Nat) (f : State → State) : (s.run t f).mgmt.spdm = (f (s.at t)).mgmt.spdm := by
  have h := congrArg (fun x : State => x.mgmt.spdm) (s.silent_run t f)
  exact h

@[simp] theorem State.run_mgmt_mails (t : Nat) (f : State → State) : (s.run t f).mgmt.mails = (f (s.at t)).mgmt.mails := by
  have h := congrArg (fun x : State => x.mgmt.mails) (s.silent_run t f)
  exact h

@[simp] theorem State.run_mgmt_idCache (t : Nat) (f : State → State) : (s.run t f).mgmt.idCache = (f (s.at t)).mgmt.idCache := by
  have h := congrArg (fun x : State => x.mgmt.idCache) (s.silent_run t f)
  exact h

@[simp] theorem State.run_mgmt_store (t : Nat) (f : State → State) : (s.run t f).mgmt.store = (f (s.at t)).mgmt.store := by
  have h := congrArg (fun x : State => x.mgmt.store) (s.silent_run t f)
  exact h

/-- What a run leaves of a cell: all of it, but for the count of lost messages. -/
theorem State.run_cell (t : Nat) (f : State → State) (c : Nat) :
    ∃ n, (s.run t f).cell c = { (f (s.at t)).cell c with err := { ((f (s.at t)).cell c).err with lost := n } } := by
  have h := congrArg (fun x : State => x.cell c) (s.silent_run t f)
  simp only [State.silent, State.cell, State.onCell, State.setCell, SMap.get_set] at h
  refine ⟨(((s.run t f).cell c).err).lost, ?_⟩
  by_cases hc : c = 0
  · subst hc
    simp only [if_true, State.cell] at h ⊢
    have e : ∀ a b : Cell, ({ a with err := { a.err with lost := 0 } } : Cell) = { b with err := { b.err with lost := 0 } } →
        a = { b with err := { b.err with lost := a.err.lost } } := by
      intro a b hab
      have h1 := congrArg (fun k : Cell => ({ k with err := { k.err with lost := a.err.lost } } : Cell)) hab
      exact h1
    exact e _ _ h
  · simp only [hc, if_false] at h
    show (s.run t f).cells.get Cell.reset c = _
    rw [h]
    have : ((s.run t f).cell c).err.lost = ((f (s.at t)).cell c).err.lost := by
      simp only [State.cell, h]
    rw [this]
    rfl

@[simp] theorem State.run_cell_init (t : Nat) (f : State → State) (c : Nat) : ((s.run t f).cell c).init = ((f (s.at t)).cell c).init := by
  obtain ⟨n, h⟩ := s.run_cell t f c
  rw [h]

@[simp] theorem State.run_cell_absent (t : Nat) (f : State → State) (c : Nat) : ((s.run t f).cell c).absent = ((f (s.at t)).cell c).absent := by
  obtain ⟨n, h⟩ := s.run_cell t f c
  rw [h]

@[simp] theorem State.run_cell_keyOk (t : Nat) (f : State → State) (c : Nat) : ((s.run t f).cell c).keyOk = ((f (s.at t)).cell c).keyOk := by
  obtain ⟨n, h⟩ := s.run_cell t f c
  rw [h]

@[simp] theorem State.run_cell_restart (t : Nat) (f : State → State) (c : Nat) : ((s.run t f).cell c).restart = ((f (s.at t)).cell c).restart := by
  obtain ⟨n, h⟩ := s.run_cell t f c
  rw [h]

@[simp] theorem State.run_cell_toff (t : Nat) (f : State → State) (c : Nat) : ((s.run t f).cell c).toff = ((f (s.at t)).cell c).toff := by
  obtain ⟨n, h⟩ := s.run_cell t f c
  rw [h]

@[simp] theorem State.run_cell_slew (t : Nat) (f : State → State) (c : Nat) : ((s.run t f).cell c).slew = ((f (s.at t)).cell c).slew := by
  obtain ⟨n, h⟩ := s.run_cell t f c
  rw [h]

@[simp] theorem State.run_cell_aligned (t : Nat) (f : State → State) (c : Nat) : ((s.run t f).cell c).aligned = ((f (s.at t)).cell c).aligned := by
  obtain ⟨n, h⟩ := s.run_cell t f c
  rw [h]

@[simp] theorem State.run_cell_inTol (t : Nat) (f : State → State) (c : Nat) : ((s.run t f).cell c).inTol = ((f (s.at t)).cell c).inTol := by
  obtain ⟨n, h⟩ := s.run_cell t f c
  rw [h]

@[simp] theorem State.run_cell_fig (t : Nat) (f : State → State) (c : Nat) : ((s.run t f).cell c).fig = ((f (s.at t)).cell c).fig := by
  obtain ⟨n, h⟩ := s.run_cell t f c
  rw [h]

@[simp] theorem State.run_cell_runs (t : Nat) (f : State → State) (c : Nat) : ((s.run t f).cell c).runs = ((f (s.at t)).cell c).runs := by
  obtain ⟨n, h⟩ := s.run_cell t f c
  rw [h]

@[simp] theorem State.run_cell_cores (t : Nat) (f : State → State) (c : Nat) : ((s.run t f).cell c).cores = ((f (s.at t)).cell c).cores := by
  obtain ⟨n, h⟩ := s.run_cell t f c
  rw [h]

@[simp] theorem State.run_cell_tiers (t : Nat) (f : State → State) (c : Nat) : ((s.run t f).cell c).tiers = ((f (s.at t)).cell c).tiers := by
  obtain ⟨n, h⟩ := s.run_cell t f c
  rw [h]

@[simp] theorem State.run_cell_gen (t : Nat) (f : State → State) (c : Nat) : ((s.run t f).cell c).gen = ((f (s.at t)).cell c).gen := by
  obtain ⟨n, h⟩ := s.run_cell t f c
  rw [h]

@[simp] theorem State.run_cell_learn (t : Nat) (f : State → State) (c : Nat) : ((s.run t f).cell c).learn = ((f (s.at t)).cell c).learn := by
  obtain ⟨n, h⟩ := s.run_cell t f c
  rw [h]

@[simp] theorem State.run_cell_nodes (t : Nat) (f : State → State) (c : Nat) : ((s.run t f).cell c).nodes = ((f (s.at t)).cell c).nodes := by
  obtain ⟨n, h⟩ := s.run_cell t f c
  rw [h]

@[simp] theorem State.run_cell_partWait (t : Nat) (f : State → State) (c : Nat) : ((s.run t f).cell c).partWait = ((f (s.at t)).cell c).partWait := by
  obtain ⟨n, h⟩ := s.run_cell t f c
  rw [h]

@[simp] theorem State.run_cell_ud (t : Nat) (f : State → State) (c : Nat) : ((s.run t f).cell c).ud = ((f (s.at t)).cell c).ud := by
  obtain ⟨n, h⟩ := s.run_cell t f c
  rw [h]

@[simp] theorem State.run_cell_vers (t : Nat) (f : State → State) (c : Nat) : ((s.run t f).cell c).vers = ((f (s.at t)).cell c).vers := by
  obtain ⟨n, h⟩ := s.run_cell t f c
  rw [h]

@[simp] theorem State.run_cell_fetches (t : Nat) (f : State → State) (c : Nat) : ((s.run t f).cell c).fetches = ((f (s.at t)).cell c).fetches := by
  obtain ⟨n, h⟩ := s.run_cell t f c
  rw [h]

@[simp] theorem State.run_cell_korif (t : Nat) (f : State → State) (c : Nat) : ((s.run t f).cell c).korif = ((f (s.at t)).cell c).korif := by
  obtain ⟨n, h⟩ := s.run_cell t f c
  rw [h]

@[simp] theorem State.run_cell_step (t : Nat) (f : State → State) (c : Nat) : ((s.run t f).cell c).step = ((f (s.at t)).cell c).step := by
  obtain ⟨n, h⟩ := s.run_cell t f c
  rw [h]

@[simp] theorem State.run_cell_power (t : Nat) (f : State → State) (c : Nat) : ((s.run t f).cell c).power = ((f (s.at t)).cell c).power := by
  obtain ⟨n, h⟩ := s.run_cell t f c
  rw [h]

@[simp] theorem State.run_cell_binds (t : Nat) (f : State → State) (c : Nat) : ((s.run t f).cell c).binds = ((f (s.at t)).cell c).binds := by
  obtain ⟨n, h⟩ := s.run_cell t f c
  rw [h]

@[simp] theorem State.run_cell_writes (t : Nat) (f : State → State) (c : Nat) : ((s.run t f).cell c).writes = ((f (s.at t)).cell c).writes := by
  obtain ⟨n, h⟩ := s.run_cell t f c
  rw [h]

@[simp] theorem State.run_cell_tests (t : Nat) (f : State → State) (c : Nat) : ((s.run t f).cell c).tests = ((f (s.at t)).cell c).tests := by
  obtain ⟨n, h⟩ := s.run_cell t f c
  rw [h]

@[simp] theorem State.run_cell_zeroVar (t : Nat) (f : State → State) (c : Nat) : ((s.run t f).cell c).zeroVar = ((f (s.at t)).cell c).zeroVar := by
  obtain ⟨n, h⟩ := s.run_cell t f c
  rw [h]

@[simp] theorem State.run_cell_routeOvf (t : Nat) (f : State → State) (c : Nat) : ((s.run t f).cell c).routeOvf = ((f (s.at t)).cell c).routeOvf := by
  obtain ⟨n, h⟩ := s.run_cell t f c
  rw [h]

@[simp] theorem State.run_cell_dcore (t : Nat) (f : State → State) (c : Nat) : ((s.run t f).cell c).dcore = ((f (s.at t)).cell c).dcore := by
  obtain ⟨n, h⟩ := s.run_cell t f c
  rw [h]

@[simp] theorem State.run_cell_stopCore (t : Nat) (f : State → State) (c : Nat) : ((s.run t f).cell c).stopCore = ((f (s.at t)).cell c).stopCore := by
  obtain ⟨n, h⟩ := s.run_cell t f c
  rw [h]

@[simp] theorem State.run_cell_dstate (t : Nat) (f : State → State) (c : Nat) : ((s.run t f).cell c).dstate = ((f (s.at t)).cell c).dstate := by
  obtain ⟨n, h⟩ := s.run_cell t f c
  rw [h]

@[simp] theorem State.run_cell_debugStop (t : Nat) (f : State → State) (c : Nat) : ((s.run t f).cell c).debugStop = ((f (s.at t)).cell c).debugStop := by
  obtain ⟨n, h⟩ := s.run_cell t f c
  rw [h]

@[simp] theorem State.run_cell_fwDue (t : Nat) (f : State → State) (c : Nat) : ((s.run t f).cell c).fwDue = ((f (s.at t)).cell c).fwDue := by
  obtain ⟨n, h⟩ := s.run_cell t f c
  rw [h]

end Sys2Proof.Machine
end

