-- ==== Sys2Proof/Laws/Keeps.lean ====
section
/-!
SUPPORT. What each operation does to the frame of a run: queue, local time, canonical tables. One law per operation, cited by the laws
of the operations that use it.
-/

namespace Sys2Proof.Machine

variable {s0 s : State}

theorem Keeps.refl (s : State) : Keeps s s := ⟨rfl, rfl, id⟩

theorem Keeps.trans {a b c : State} (h : Keeps a b) (g : Keeps b c) : Keeps a c :=
  ⟨g.pending.trans h.pending, g.now.trans h.now, fun x => g.inv (h.inv x)⟩

theorem ite_keeps {p : Prop} [Decidable p] {a b : State} (ha : Keeps s0 a) (hb : Keeps s0 b) :
    Keeps s0 (if p then a else b) := by split <;> assumption

theorem ite_fst_keeps {γ : Type} {p : Prop} [Decidable p] {a b : State × γ} (ha : Keeps s0 a.1) (hb : Keeps s0 b.1) :
    Keeps s0 (if p then a else b).1 := by split <;> assumption

theorem ite_snd_keeps {γ : Type} {p : Prop} [Decidable p] {a b : γ × State} (ha : Keeps s0 a.2) (hb : Keeps s0 b.2) :
    Keeps s0 (if p then a else b).2 := by split <;> assumption

theorem foldl_keeps {β : Type} (l : List β) (f : State → β → State) (h : Keeps s0 s)
    (hf : ∀ (x : State) (b : β), Keeps s0 x → Keeps s0 (f x b)) : Keeps s0 (l.foldl f s) := by
  induction l generalizing s with
  | nil => exact h
  | cons b l ih => exact ih (hf s b h)

theorem foldl_fst_keeps {β γ : Type} (l : List β) (f : State × γ → β → State × γ) {a : State × γ} (h : Keeps s0 a.1)
    (hf : ∀ (x : State × γ) (b : β), Keeps s0 x.1 → Keeps s0 (f x b).1) : Keeps s0 (l.foldl f a).1 := by
  induction l generalizing a with
  | nil => exact h
  | cons b l ih => exact ih (hf a b h)

/-- A change of fields other than the queue, the time and the tables. -/
theorem same_keeps {s' : State} (h : Keeps s0 s) (hp : s'.pending = s.pending) (hn : s'.now = s.now)
    (hc : s'.cells = s.cells) (hf : s'.fns = s.fns) (hch : s'.chans = s.chans) (hco : s'.coords = s.coords) : Keeps s0 s' :=
  ⟨hp.trans h.pending, hn.trans h.now, fun i =>
    have j := h.inv i
    ⟨hc ▸ j.cells, hf ▸ j.fns, hch ▸ j.chans, hco ▸ j.coords, fun c => by
      have := j.mem c
      simpa only [State.cell, hc] using this⟩⟩

theorem mk_keeps (h : Keeps s0 s) {fr su bo fl fw ho se ne nh bw sh mg ou} :
    Keeps s0 ⟨s.pending, s.now, fr, su, bo, fl, fw, ho, s.fns, se, s.cells, s.chans, ne, nh, bw, sh, s.coords, mg, ou⟩ :=
  same_keeps h rfl rfl rfl rfl rfl rfl

theorem cell_wf (h : Keeps s0 s) (i : Inv s0) (c : Nat) : Memory.wf (s.cell c).tiers.tiles = true := (h.inv i).mem c

theorem State.setCell_keeps (h : Keeps s0 s) (c : Nat) {v : Cell} (hv : Inv s0 → Memory.wf v.tiers.tiles = true) :
    Keeps s0 (s.setCell c v) :=
  ⟨h.pending, h.now, fun i =>
    have j := h.inv i
    ⟨SMap.wf_set c v j.cells, j.fns, j.chans, j.coords, fun m => by
      simp only [State.setCell, State.cell, SMap.get_set]
      split
      · exact hv i
      · exact j.mem m⟩⟩

theorem State.onCell_keeps (h : Keeps s0 s) (c : Nat) {f : Cell → Cell}
    (hf : ∀ k : Cell, Memory.wf k.tiers.tiles = true → Memory.wf (f k).tiers.tiles = true) : Keeps s0 (s.onCell c f) :=
  State.setCell_keeps h c (fun i => hf _ (cell_wf h i c))

theorem State.onFn_keeps (h : Keeps s0 s) (n : Nat) (f : HostFn → HostFn) : Keeps s0 (s.onFn n f) :=
  ⟨h.pending, h.now, fun i =>
    have j := h.inv i
    ⟨j.cells, SMap.wf_set n _ j.fns, j.chans, j.coords, j.mem⟩⟩

theorem State.setChan_keeps (h : Keeps s0 s) (n : Nat) (v : Chan) : Keeps s0 (s.setChan n v) :=
  ⟨h.pending, h.now, fun i =>
    have j := h.inv i
    ⟨j.cells, j.fns, SMap.wf_set n _ j.chans, j.coords, j.mem⟩⟩

theorem State.onCoord_keeps (h : Keeps s0 s) (n : Nat) (f : Coord → Coord) : Keeps s0 (s.onCoord n f) :=
  ⟨h.pending, h.now, fun i =>
    have j := h.inv i
    ⟨j.cells, j.fns, j.chans, SMap.wf_set n _ j.coords, j.mem⟩⟩

theorem State.emit_keeps (h : Keeps s0 s) (e : Emit) : Keeps s0 (s.emit e) := same_keeps h rfl rfl rfl rfl rfl rfl

/-! ## Time -/

theorem Cell.slewBy_reset (dt : Nat) : Cell.slewBy dt Cell.reset = Cell.reset := by
  have h : ∀ n : Nat, (if (0 : Int) > (n : Int) then (n : Int) else if (0 : Int) < -(n : Int) then -(n : Int) else 0) = 0 := by
    intro n
    split
    · omega
    · split <;> omega
  show ({ Cell.reset with toff := Cell.reset.toff + _, slew := Cell.reset.slew - _ } : Cell) = Cell.reset
  rw [show Cell.reset.slew = 0 from rfl, h]
  rfl

@[simp] theorem Cell.slewBy_tiers (dt : Nat) (k : Cell) : (Cell.slewBy dt k).tiers = k.tiers := rfl

/-- What a cell holds after time moved: its device time slewed, nothing else (R6). -/
theorem State.at_cell {s : State} (i : Inv s) (t c : Nat) :
    (s.at t).cell c = if t ≤ s.now then s.cell c else Cell.slewBy (t - s.now) (s.cell c) := by
  unfold State.at State.cell
  split
  · rfl
  · exact SMap.get_mapV_of_wf _ (Cell.slewBy_reset _) i.cells c

theorem State.at_inv {s : State} (t : Nat) (i : Inv s) : Inv (s.at t) := by
  have hm : ∀ c, Memory.wf ((s.at t).cell c).tiers.tiles = true := fun c => by
    rw [State.at_cell i]
    split
    · exact i.mem c
    · exact i.mem c
  revert hm
  unfold State.at
  split
  · exact fun _ => i
  · exact fun hm => ⟨SMap.wf_mapV _ i.cells, i.fns, i.chans, i.coords, hm⟩

/-! ## Tile memory -/

theorem Memory.wf_set {m : SMap TileEnt} (a : Nat) (e : TileEnt) (h : Memory.wf m = true) :
    Memory.wf (m.set TileEnt.absent a e) = true := SMap.wf_set a e h

theorem Memory.wf_mapV {m : SMap TileEnt} (f : TileEnt → TileEnt) (h : Memory.wf m = true) :
    Memory.wf (m.mapV TileEnt.absent f) = true := SMap.wf_mapV f h

theorem SMap.wfFrom_filter {β : Type} [DecidableEq β] {d : β} (p : Nat × β → Bool) {m : SMap β} {a : Nat}
    (h : SMap.wfFrom d a m = true) : SMap.wfFrom d a (m.filter p) = true := by
  induction m generalizing a with
  | nil => rfl
  | cons x r ih =>
    obtain ⟨k, v⟩ := x
    simp only [SMap.wfFrom, Bool.and_eq_true, decide_eq_true_eq] at h
    rw [List.filter_cons]
    split
    · simp only [SMap.wfFrom, Bool.and_eq_true, decide_eq_true_eq]
      exact ⟨h.1, ih h.2⟩
    · exact SMap.wfFrom_mono (Nat.le_succ_of_le h.1.1) (ih h.2)

theorem Memory.wf_filter {m : SMap TileEnt} (p : Nat × TileEnt → Bool) (h : Memory.wf m = true) :
    Memory.wf (m.filter p) = true := SMap.wfFrom_filter p h

/-- Every listed tile changed by a function of its address; tiles that became absent are left out. -/
theorem SMap.wfFrom_mapKV {β : Type} [DecidableEq β] {d : β} (f : Nat × β → β) {m : SMap β} {a : Nat}
    (h : SMap.wfFrom d a m = true) :
    SMap.wfFrom d a ((m.map (fun p => (p.1, f p))).filter (fun p => p.2 ≠ d)) = true := by
  induction m generalizing a with
  | nil => rfl
  | cons x r ih =>
    obtain ⟨k, v⟩ := x
    simp only [SMap.wfFrom, Bool.and_eq_true, decide_eq_true_eq] at h
    rw [List.map_cons, List.filter_cons]
    split
    · rename_i hv
      simp only [SMap.wfFrom, Bool.and_eq_true, decide_eq_true_eq]
      exact ⟨⟨h.1.1, by simpa using hv⟩, ih h.2⟩
    · exact SMap.wfFrom_mono (Nat.le_succ_of_le h.1.1) (ih h.2)

theorem Memory.wf_mapKV {m : SMap TileEnt} (f : Nat × TileEnt → TileEnt) (h : Memory.wf m = true) :
    Memory.wf ((m.map (fun p => (p.1, f p))).filter (fun p => p.2 ≠ TileEnt.absent)) = true := SMap.wfFrom_mapKV f h

theorem getD_keeps {o : Option State} {d : State} (ho : ∀ y, o = some y → Keeps s0 y) (hd : Keeps s0 d) : Keeps s0 (o.getD d) := by
  cases o with
  | none => exact hd
  | some y => exact ho y rfl

theorem fst_keeps {γ : Type} {p : State × γ} {a : State} {b : γ} (e : p = (a, b)) (h : Keeps s0 p.1) : Keeps s0 a := by
  rw [e] at h; exact h

theorem snd_keeps {γ : Type} {p : γ × State} {a : γ} {b : State} (e : p = (a, b)) (h : Keeps s0 p.2) : Keeps s0 b := by
  rw [e] at h; exact h

theorem wf_foldl {β : Type} (l : List β) (f : Cell → β → Cell) {k : Cell} (h : Memory.wf k.tiers.tiles = true)
    (hf : ∀ (x : Cell) (b : β), Memory.wf x.tiers.tiles = true → Memory.wf (f x b).tiers.tiles = true) :
    Memory.wf (l.foldl f k).tiers.tiles = true := by
  induction l generalizing k with
  | nil => exact h
  | cons b l ih => exact ih (hf k b h)

theorem Cell.slewBy_wf {c : Cell} (h : Memory.wf c.tiers.tiles = true) (dt : Nat) : Memory.wf (Cell.slewBy dt c).tiers.tiles = true := by
  unfold Cell.slewBy
  repeat' first
    | with_reducible assumption | intro _ | dsimp only | split

theorem Cell.setCore_wf {k : Cell} (h : Memory.wf k.tiers.tiles = true) (n : Nat) (v : Core) :
    Memory.wf (Cell.setCore k n v).tiers.tiles = true := by
  unfold Cell.setCore
  repeat' first
    | with_reducible assumption | intro _ | dsimp only

theorem Cell.onCore_wf {k : Cell} (h : Memory.wf k.tiers.tiles = true) (n : Nat) (f : Core → Core) :
    Memory.wf (Cell.onCore k n f).tiers.tiles = true := by
  unfold Cell.onCore
  repeat' first
    | with_reducible assumption | intro _ | with_reducible apply Cell.setCore_wf | dsimp only

theorem State.onCore_keeps {s : State} (h : Keeps s0 s) (c : Nat) (n : Nat) (f : Core → Core) : Keeps s0 (State.onCore s c n f) := by
  unfold State.onCore
  repeat' first
    | with_reducible assumption | intro _ | with_reducible apply State.onCell_keeps | with_reducible apply Cell.onCore_wf
    | with_reducible apply cell_wf | dsimp only | with_reducible apply mk_keeps

theorem Cell.onRun_wf {k : Cell} (h : Memory.wf k.tiers.tiles = true) (t : Nat) (f : TenantRun → TenantRun) :
    Memory.wf (Cell.onRun k t f).tiers.tiles = true := by
  unfold Cell.onRun
  repeat' first
    | with_reducible assumption | intro _ | dsimp only

theorem Cell.onVer_wf {k : Cell} (h : Memory.wf k.tiers.tiles = true) (t : Nat) (f : Versions → Versions) :
    Memory.wf (Cell.onVer k t f).tiers.tiles = true := by
  unfold Cell.onVer
  repeat' first
    | with_reducible assumption | intro _ | dsimp only

theorem Cell.onLrn_wf {k : Cell} (h : Memory.wf k.tiers.tiles = true) (t : Nat) (f : LearnRun → LearnRun) :
    Memory.wf (Cell.onLrn k t f).tiers.tiles = true := by
  unfold Cell.onLrn
  repeat' first
    | with_reducible assumption | intro _ | dsimp only

theorem Cell.onEntry_wf {k : Cell} (h : Memory.wf k.tiers.tiles = true) (i : Nat) (f : ReqEntry → ReqEntry) :
    Memory.wf (Cell.onEntry k i f).tiers.tiles = true := by
  unfold Cell.onEntry
  repeat' first
    | with_reducible assumption | intro _ | dsimp only

theorem Cell.onPort_wf {k : Cell} (h : Memory.wf k.tiers.tiles = true) (p : Nat) (f : Port → Port) :
    Memory.wf (Cell.onPort k p f).tiers.tiles = true := by
  unfold Cell.onPort
  repeat' first
    | with_reducible assumption | intro _ | dsimp only

theorem State.takeFree_keeps {s : State} (h : Keeps s0 s)  : Keeps s0 (State.takeFree s).2 := by
  unfold State.takeFree
  repeat' first
    | with_reducible assumption | intro _ | dsimp only | with_reducible apply mk_keeps

theorem State.cause_keeps {s : State} (h : Keeps s0 s) (c : Nat) (code : Nat) (tenant : Nat) (entry : Option Nat) :
    Keeps s0 (State.cause s c code tenant entry) := by
  unfold State.cause
  repeat' first
    | with_reducible assumption | intro _ | with_reducible apply State.onCell_keeps | with_reducible apply ite_keeps
    | with_reducible apply cell_wf | dsimp only | split | with_reducible apply mk_keeps

theorem State.causeAll_keeps {s : State} (h : Keeps s0 s) (c : Nat) (code : Nat) : Keeps s0 (State.causeAll s c code) := by
  unfold State.causeAll
  repeat' first
    | with_reducible assumption | intro _ | with_reducible apply State.cause_keeps | with_reducible apply State.onCell_keeps
    | with_reducible apply ite_keeps | with_reducible apply cell_wf | dsimp only | split | with_reducible apply mk_keeps

theorem State.causeAt_keeps {s : State} (h : Keeps s0 s) (c : Nat) (code : Nat) (tenant : Nat) (step : Nat) :
    Keeps s0 (State.causeAt s c code tenant step) := by
  unfold State.causeAt
  repeat' first
    | with_reducible assumption | intro _ | with_reducible apply State.cause_keeps | with_reducible apply State.onCell_keeps
    | with_reducible apply ite_keeps | with_reducible apply cell_wf | dsimp only | split | with_reducible apply mk_keeps

theorem State.msix_keeps {s : State} (h : Keeps s0 s) (n : Nat) (v : Nat) : Keeps s0 (State.msix s n v) := by
  unfold State.msix
  repeat' first
    | with_reducible assumption | intro _ | with_reducible apply State.onFn_keeps | with_reducible apply State.emit_keeps
    | with_reducible apply ite_keeps | dsimp only | split | with_reducible apply mk_keeps

theorem State.pldmEvent_keeps {s : State} (h : Keeps s0 s) (c : Nat) (bytes : List Nat) : Keeps s0 (State.pldmEvent s c bytes) := by
  unfold State.pldmEvent
  repeat' first
    | with_reducible assumption | intro _ | with_reducible apply State.emit_keeps | with_reducible apply State.onCell_keeps
    | with_reducible apply ite_keeps | with_reducible apply cell_wf | dsimp only | split | with_reducible apply mk_keeps

theorem State.errLocal_keeps {s : State} (h : Keeps s0 s) (c : Nat) (e : Ev) : Keeps s0 (State.errLocal s c e) := by
  unfold State.errLocal
  repeat' first
    | with_reducible assumption | intro _ | with_reducible apply State.onCell_keeps | with_reducible apply State.msix_keeps
    | with_reducible apply State.pldmEvent_keeps | with_reducible apply ite_keeps | with_reducible apply cell_wf | dsimp only | split
    | with_reducible apply mk_keeps

theorem State.dropRec_keeps {s : State} (h : Keeps s0 s) (n : Nat) : Keeps s0 (State.dropRec s n) := by
  unfold State.dropRec
  repeat' first
    | with_reducible assumption | intro _ | with_reducible apply State.onFn_keeps | with_reducible apply State.errLocal_keeps
    | with_reducible apply ite_keeps | dsimp only | split | refine fst_keeps (by with_reducible assumption) ?_
    | refine snd_keeps (by with_reducible assumption) ?_ | with_reducible apply mk_keeps

theorem State.recDone_keeps {s : State} (h : Keeps s0 s) (r : QRec) : Keeps s0 (State.recDone s r) := by
  unfold State.recDone
  repeat' first
    | with_reducible assumption | intro _ | with_reducible apply State.onCoord_keeps | with_reducible apply ite_keeps | dsimp only
    | split | refine fst_keeps (by with_reducible assumption) ?_ | refine snd_keeps (by with_reducible assumption) ?_
    | with_reducible apply mk_keeps

theorem State.queueRec_keeps {s : State} (h : Keeps s0 s) (n : Nat) (r : QRec) : Keeps s0 (State.queueRec s n r) := by
  unfold State.queueRec
  repeat' first
    | with_reducible assumption | intro _ | with_reducible apply State.onFn_keeps | with_reducible apply State.recDone_keeps
    | with_reducible apply State.dropRec_keeps | with_reducible apply ite_keeps | dsimp only | split | with_reducible apply mk_keeps

theorem State.sendOne_keeps {s : State} (h : Keeps s0 s) (c : Nat) (p : Nat) (a : Nat × Frame) : Keeps s0 (State.sendOne s c p a) := by
  unfold State.sendOne
  repeat' first
    | with_reducible assumption | intro _ | with_reducible apply State.onCell_keeps | with_reducible apply State.emit_keeps
    | with_reducible apply ite_keeps | with_reducible apply Cell.onPort_wf | with_reducible apply cell_wf | dsimp only | split
    | with_reducible apply mk_keeps

theorem State.pumpN_keeps {s : State} (h : Keeps s0 s) (n c p : Nat) : Keeps s0 (State.pumpN n s c p) := by
  induction n generalizing s with
  | zero => exact h
  | succ n ih =>
    unfold State.pumpN
    split
    · exact h
    · exact ih (State.sendOne_keeps h ..)

theorem State.pump_keeps {s : State} (h : Keeps s0 s) (c : Nat) (p : Nat) : Keeps s0 (State.pump s c p) := by
  unfold State.pump
  repeat' first
    | with_reducible assumption | intro _ | with_reducible apply State.pumpN_keeps | dsimp only | with_reducible apply mk_keeps

theorem State.enqueue_keeps {s : State} (h : Keeps s0 s) (c : Nat) (p : Nat) (idx : Nat) (x : Frame) :
    Keeps s0 (State.enqueue s c p idx x) := by
  unfold State.enqueue
  repeat' first
    | with_reducible assumption | intro _ | with_reducible apply State.emit_keeps | with_reducible apply State.onCell_keeps
    | with_reducible apply State.pump_keeps | with_reducible apply ite_keeps | with_reducible apply Cell.onPort_wf
    | with_reducible apply cell_wf | dsimp only | split | with_reducible apply mk_keeps

theorem State.mkFrame_keeps {s : State} (h : Keeps s0 s) (c : Nat) (o : Out) : Keeps s0 (State.mkFrame s c o).2 := by
  unfold State.mkFrame
  repeat' first
    | with_reducible assumption | intro _ | with_reducible apply State.onCell_keeps | with_reducible apply ite_keeps
    | with_reducible apply ite_snd_keeps | with_reducible apply cell_wf | dsimp only | split | with_reducible apply mk_keeps

theorem State.send_keeps {s : State} (h : Keeps s0 s) (c : Nat) (idx : Nat) (o : Out) : Keeps s0 (State.send s c idx o).1 := by
  unfold State.send
  repeat' first
    | with_reducible assumption | intro _ | with_reducible apply State.mkFrame_keeps | with_reducible apply State.enqueue_keeps
    | with_reducible apply ite_keeps | with_reducible apply ite_fst_keeps | dsimp only | split
    | refine fst_keeps (by with_reducible assumption) ?_ | refine snd_keeps (by with_reducible assumption) ?_
    | with_reducible apply mk_keeps

theorem State.sendPort_keeps {s : State} (h : Keeps s0 s) (c : Nat) (p : Nat) (o : Out) : Keeps s0 (State.sendPort s c p o) := by
  unfold State.sendPort
  repeat' first
    | with_reducible assumption | intro _ | with_reducible apply State.mkFrame_keeps | with_reducible apply State.enqueue_keeps
    | dsimp only | refine fst_keeps (by with_reducible assumption) ?_ | refine snd_keeps (by with_reducible assumption) ?_
    | with_reducible apply mk_keeps

theorem State.voidFor_keeps {s : State} (h : Keeps s0 s) (c : Nat) (seat : Nat) (cell : Nat) (reason : Nat) (tenant : Nat) (step : Nat) (tensor : Nat) (seq : Nat) :
    Keeps s0 (State.voidFor s c seat cell reason tenant step tensor seq) := by
  unfold State.voidFor
  repeat' first
    | with_reducible assumption | intro _ | with_reducible apply State.causeAt_keeps | with_reducible apply State.send_keeps
    | with_reducible apply ite_keeps | dsimp only | split | with_reducible apply mk_keeps

theorem State.sendVoid_keeps {s : State} (h : Keeps s0 s) (c : Nat) (seat : Nat) (cell : Nat) (reason : Nat) (tenant : Nat) (tensor : Nat) (seq : Nat) :
    Keeps s0 (State.sendVoid s c seat cell reason tenant tensor seq) := by
  unfold State.sendVoid
  repeat' first
    | with_reducible assumption | intro _ | with_reducible apply State.voidFor_keeps | dsimp only | with_reducible apply mk_keeps

theorem State.voidBack_keeps {s : State} (h : Keeps s0 s) (c : Nat) (x : Frame) (reason : Nat) :
    Keeps s0 (State.voidBack s c x reason) := by
  unfold State.voidBack
  repeat' first
    | with_reducible assumption | intro _ | with_reducible apply State.voidFor_keeps | dsimp only | with_reducible apply mk_keeps

theorem State.sendHold_keeps {s : State} (h : Keeps s0 s) (c : Nat) (p : Nat) (reason : Nat) (off : Nat) (hint : Nat) :
    Keeps s0 (State.sendHold s c p reason off hint) := by
  unfold State.sendHold
  repeat' first
    | with_reducible assumption | intro _ | with_reducible apply State.sendPort_keeps | dsimp only | with_reducible apply mk_keeps

theorem State.returnCredits_keeps {s : State} (h : Keeps s0 s) (c : Nat) (p : Nat) : Keeps s0 (State.returnCredits s c p) := by
  unfold State.returnCredits
  repeat' first
    | with_reducible assumption | intro _ | with_reducible apply State.onCell_keeps | with_reducible apply State.sendPort_keeps
    | with_reducible apply ite_keeps | with_reducible apply Cell.onPort_wf | with_reducible apply cell_wf | dsimp only | split
    | with_reducible apply mk_keeps

theorem State.oweCredits_keeps {s : State} (h : Keeps s0 s) (c : Nat) (p : Nat) (l : Nat) (n : Nat) :
    Keeps s0 (State.oweCredits s c p l n) := by
  unfold State.oweCredits
  repeat' first
    | with_reducible assumption | intro _ | with_reducible apply State.onCell_keeps | with_reducible apply State.returnCredits_keeps
    | with_reducible apply ite_keeps | with_reducible apply Cell.onPort_wf | with_reducible apply cell_wf | dsimp only | split
    | with_reducible apply mk_keeps

theorem State.mailUnits_keeps {s : State} (h : Keeps s0 s) (n c : Nat) (us : List (Nat × Nat)) : Keeps s0 (State.mailUnits n s c us) := by
  induction n generalizing s us with
  | zero => exact h
  | succ n ih =>
    unfold State.mailUnits
    split
    · exact h
    · exact ih (State.send_keeps h ..) _

theorem State.mail_keeps {s : State} (h : Keeps s0 s) (c : Nat) (us : List (Nat × Nat)) : Keeps s0 (State.mail s c us) := by
  unfold State.mail
  repeat' first
    | with_reducible assumption | intro _ | with_reducible apply State.mailUnits_keeps | with_reducible apply ite_keeps | dsimp only
    | split | with_reducible apply mk_keeps

theorem State.err_keeps {s : State} (h : Keeps s0 s) (c : Nat) (e : Ev) : Keeps s0 (State.err s c e) := by
  unfold State.err
  repeat' first
    | with_reducible assumption | intro _ | with_reducible apply State.errLocal_keeps | with_reducible apply State.mail_keeps
    | with_reducible apply State.onCell_keeps | with_reducible apply ite_keeps | with_reducible apply cell_wf | dsimp only | split
    | with_reducible apply mk_keeps

theorem State.relay_keeps {s : State} (h : Keeps s0 s) (c : Nat) (idx : Nat) (x : Frame) : Keeps s0 (State.relay s c idx x) := by
  unfold State.relay
  repeat' first
    | with_reducible assumption | intro _ | with_reducible apply State.enqueue_keeps | with_reducible apply State.voidBack_keeps
    | dsimp only | split | refine fst_keeps (by with_reducible assumption) ?_ | refine snd_keeps (by with_reducible assumption) ?_
    | with_reducible apply mk_keeps

theorem State.wake_keeps {s : State} (h : Keeps s0 s) (c : Nat) : Keeps s0 (State.wake s c) := by
  unfold State.wake
  repeat' first
    | with_reducible assumption | intro _ | with_reducible apply State.setCell_keeps | with_reducible apply ite_keeps
    | with_reducible apply cell_wf | dsimp only | split | with_reducible apply mk_keeps

theorem State.onDir_keeps {s : State} (h : Keeps s0 s) (n : Nat) (ab : Bool) (f : ChanDir → ChanDir) : Keeps s0 (State.onDir s n ab f) := by
  unfold State.onDir
  repeat' first
    | with_reducible assumption | intro _ | with_reducible apply State.setChan_keeps | dsimp only | with_reducible apply mk_keeps

theorem State.raiseEvent_keeps {s : State} (h : Keeps s0 s) (n : Nat) (who : BitVec 8) : Keeps s0 (State.raiseEvent s n who) := by
  unfold State.raiseEvent
  repeat' first
    | with_reducible assumption | intro _ | with_reducible apply State.msix_keeps | with_reducible apply State.emit_keeps
    | with_reducible apply State.wake_keeps | with_reducible apply ite_keeps | dsimp only | split | with_reducible apply mk_keeps

theorem State.ring_keeps {s : State} (h : Keeps s0 s) (n : Nat) (ab : Bool) : Keeps s0 (State.ring s n ab) := by
  unfold State.ring
  repeat' first
    | with_reducible assumption | intro _ | with_reducible apply State.onDir_keeps | with_reducible apply State.mail_keeps
    | with_reducible apply State.raiseEvent_keeps | with_reducible apply ite_keeps | with_reducible apply cell_wf | dsimp only | split
    | with_reducible apply mk_keeps

theorem State.flushDir_keeps {s : State} (h : Keeps s0 s) (n : Nat) (ab : Bool) : Keeps s0 (State.flushDir s n ab) := by
  unfold State.flushDir
  repeat' first
    | with_reducible assumption | intro _ | with_reducible apply State.onDir_keeps | with_reducible apply State.ring_keeps
    | with_reducible apply ite_keeps | dsimp only | split | with_reducible apply mk_keeps

theorem State.emptyChan_keeps {s : State} (h : Keeps s0 s) (n : Nat) : Keeps s0 (State.emptyChan s n).1 := by
  unfold State.emptyChan
  repeat' first
    | with_reducible assumption | intro _ | with_reducible apply State.setChan_keeps | dsimp only | with_reducible apply mk_keeps

theorem State.strangerAccess_keeps {s : State} (h : Keeps s0 s) (n : Nat) (who : BitVec 8) : Keeps s0 (State.strangerAccess s n who) := by
  unfold State.strangerAccess
  repeat' first
    | with_reducible assumption | intro _ | with_reducible apply State.setChan_keeps | with_reducible apply State.err_keeps
    | with_reducible apply ite_keeps | with_reducible apply cell_wf | dsimp only | split
    | refine fst_keeps (by with_reducible assumption) ?_ | refine snd_keeps (by with_reducible assumption) ?_
    | with_reducible apply mk_keeps

theorem State.complete_keeps {s : State} (h : Keeps s0 s) (c : Nat) (src : Source) (e : Entry) (d : Done) :
    Keeps s0 (State.complete s c src e d) := by
  unfold State.complete
  repeat' first
    | with_reducible assumption | intro _ | with_reducible apply State.ring_keeps | with_reducible apply State.queueRec_keeps
    | with_reducible apply State.mail_keeps | with_reducible apply State.onDir_keeps | with_reducible apply State.flushDir_keeps
    | dsimp only | split | refine fst_keeps (by with_reducible assumption) ?_ | refine snd_keeps (by with_reducible assumption) ?_
    | with_reducible apply mk_keeps

theorem State.recordTo_keeps {s : State} (h : Keeps s0 s) (fn : Nat) (c : Nat) (r : Nat) : Keeps s0 (State.recordTo s fn c r) := by
  unfold State.recordTo
  repeat' first
    | with_reducible assumption | intro _ | with_reducible apply State.mail_keeps | with_reducible apply State.queueRec_keeps
    | with_reducible apply ite_keeps | dsimp only | split | with_reducible apply mk_keeps

theorem State.sendWord_keeps {s : State} (h : Keeps s0 s) (n : Nat) (who : BitVec 8) (w : BitVec 32) :
    Keeps s0 (State.sendWord s n who w) := by
  unfold State.sendWord
  repeat' first
    | with_reducible assumption | intro _ | with_reducible apply State.strangerAccess_keeps | with_reducible apply State.onDir_keeps
    | dsimp only | split | refine fst_keeps (by with_reducible assumption) ?_ | refine snd_keeps (by with_reducible assumption) ?_
    | with_reducible apply mk_keeps

theorem State.sendBell_keeps {s : State} (h : Keeps s0 s) (n : Nat) (who : BitVec 8) (w : BitVec 32) :
    Keeps s0 (State.sendBell s n who w) := by
  unfold State.sendBell
  repeat' first
    | with_reducible assumption | intro _ | with_reducible apply State.strangerAccess_keeps | with_reducible apply State.ring_keeps
    | with_reducible apply ite_keeps | dsimp only | split | refine fst_keeps (by with_reducible assumption) ?_
    | refine snd_keeps (by with_reducible assumption) ?_ | with_reducible apply mk_keeps

theorem State.recvWord_keeps {s : State} (h : Keeps s0 s) (n : Nat) (who : BitVec 8) : Keeps s0 (State.recvWord s n who).2 := by
  unfold State.recvWord
  repeat' first
    | with_reducible assumption | intro _ | with_reducible apply State.strangerAccess_keeps | with_reducible apply State.onDir_keeps
    | with_reducible apply State.flushDir_keeps | dsimp only | split | refine fst_keeps (by with_reducible assumption) ?_
    | refine snd_keeps (by with_reducible assumption) ?_ | with_reducible apply mk_keeps

theorem State.recvClear_keeps {s : State} (h : Keeps s0 s) (n : Nat) (who : BitVec 8) (w : BitVec 32) :
    Keeps s0 (State.recvClear s n who w) := by
  unfold State.recvClear
  repeat' first
    | with_reducible assumption | intro _ | with_reducible apply State.strangerAccess_keeps | with_reducible apply State.onDir_keeps
    | dsimp only | split | refine fst_keeps (by with_reducible assumption) ?_ | refine snd_keeps (by with_reducible assumption) ?_
    | with_reducible apply mk_keeps

theorem State.sendClear_keeps {s : State} (h : Keeps s0 s) (n : Nat) (who : BitVec 8) (w : BitVec 32) :
    Keeps s0 (State.sendClear s n who w) := by
  unfold State.sendClear
  repeat' first
    | with_reducible assumption | intro _ | with_reducible apply State.strangerAccess_keeps | with_reducible apply State.onDir_keeps
    | dsimp only | split | refine fst_keeps (by with_reducible assumption) ?_ | refine snd_keeps (by with_reducible assumption) ?_
    | with_reducible apply mk_keeps

theorem State.senseFrom_keeps {s : State} (h : Keeps s0 s) (b : State) : Keeps s0 (s.senseFrom b) := by
  unfold State.senseFrom
  split
  · exact h
  · refine foldl_keeps _ _ h (fun x p hx => ?_)
    split
    · exact hx
    · exact State.pldmEvent_keeps hx ..

/-- What a command does to the frame of a run: the queue stays, time never goes back, and canonical tables stay canonical. -/
structure Moves (s s' : State) : Prop where
  pending : s'.pending = s.pending
  now     : s.now ≤ s'.now
  inv     : Inv s → Inv s'

theorem State.run_moves {s : State} {t : Nat} {f : State → State} (hf : ∀ x, Keeps (s.at t) x → Keeps (s.at t) (f x)) :
    Moves s (s.run t f) :=
  have k := State.senseFrom_keeps (hf _ (Keeps.refl _)) (s.at t)
  ⟨k.pending.trans (s.at_pending t), k.now ▸ s.le_at_now t, fun i => k.inv (State.at_inv t i)⟩

end Sys2Proof.Machine
end

