-- ==== Sys2Proof/Laws/KeepsLinks.lean ====
section
/-!
SUPPORT. What each operation of the Korif links and the host port does to the frame of a run (Keeps): one law per operation.
-/

namespace Sys2Proof.Machine

variable {s0 s : State}

theorem State.rerouteQueue_keeps {s : State} (h : Keeps s0 s) (c : Nat) (p : Nat) (down : Bool) :
    Keeps s0 (State.rerouteQueue s c p down) := by
  unfold State.rerouteQueue
  repeat' first
    | with_reducible assumption | intro _ | with_reducible apply State.onCell_keeps | with_reducible apply State.relay_keeps
    | with_reducible apply ite_keeps | with_reducible apply foldl_keeps | with_reducible apply foldl_fst_keeps
    | with_reducible apply Cell.onPort_wf | with_reducible apply cell_wf | with_reducible apply wf_foldl | dsimp only | split
    | with_reducible apply mk_keeps

theorem State.portDown_keeps {s : State} (h : Keeps s0 s) (c : Nat) (p : Nat) : Keeps s0 (State.portDown s c p) := by
  unfold State.portDown
  repeat' first
    | with_reducible assumption | intro _ | with_reducible apply State.onCell_keeps | with_reducible apply State.err_keeps
    | with_reducible apply State.rerouteQueue_keeps | with_reducible apply ite_keeps | with_reducible apply Cell.onPort_wf
    | with_reducible apply cell_wf | dsimp only | split | with_reducible apply mk_keeps

theorem State.retrain_keeps {s : State} (h : Keeps s0 s) (c : Nat) (p : Nat) : Keeps s0 (State.retrain s c p) := by
  unfold State.retrain
  repeat' first
    | with_reducible assumption | intro _ | with_reducible apply State.portDown_keeps | with_reducible apply ite_keeps
    | with_reducible apply foldl_keeps | with_reducible apply foldl_fst_keeps | dsimp only | split | with_reducible apply mk_keeps

theorem State.countError_keeps {s : State} (h : Keeps s0 s) (c : Nat) (p : Nat) : Keeps s0 (State.countError s c p) := by
  unfold State.countError
  repeat' first
    | with_reducible assumption | intro _ | with_reducible apply State.onCell_keeps | with_reducible apply ite_keeps
    | with_reducible apply Cell.onPort_wf | with_reducible apply cell_wf | dsimp only | split | with_reducible apply mk_keeps

theorem State.noCredits_keeps {s : State} (h : Keeps s0 s) (c : Nat) (p : Nat) : Keeps s0 (State.noCredits s c p) := by
  unfold State.noCredits
  repeat' first
    | with_reducible assumption | intro _ | with_reducible apply State.countError_keeps | with_reducible apply State.onCell_keeps
    | with_reducible apply State.retrain_keeps | with_reducible apply ite_keeps | with_reducible apply Cell.onPort_wf
    | with_reducible apply cell_wf | dsimp only | split | with_reducible apply mk_keeps

theorem State.useCredits_keeps {s : State} (h : Keeps s0 s) (c : Nat) (p : Nat) (x : Frame) : Keeps s0 (State.useCredits s c p x) := by
  unfold State.useCredits
  repeat' first
    | with_reducible assumption | intro _ | with_reducible apply State.onCell_keeps | with_reducible apply ite_keeps
    | with_reducible apply Cell.onPort_wf | with_reducible apply cell_wf | dsimp only | split | with_reducible apply mk_keeps

theorem State.headerFail_keeps {s : State} (h : Keeps s0 s) (c : Nat) (x : Frame) : Keeps s0 (State.headerFail s c x) := by
  unfold State.headerFail
  repeat' first
    | with_reducible assumption | intro _ | with_reducible apply State.onCell_keeps | with_reducible apply State.causeAt_keeps
    | with_reducible apply State.err_keeps | with_reducible apply State.voidBack_keeps | with_reducible apply ite_keeps
    | with_reducible apply cell_wf | dsimp only | split | with_reducible apply mk_keeps

theorem State.taken_keeps {s : State} (h : Keeps s0 s) (c : Nat) (p : Nat) (x : Frame) : Keeps s0 (State.taken s c p x) := by
  unfold State.taken
  repeat' first
    | with_reducible assumption | intro _ | with_reducible apply State.onCell_keeps | with_reducible apply State.oweCredits_keeps
    | with_reducible apply ite_keeps | with_reducible apply Cell.onPort_wf | with_reducible apply cell_wf | dsimp only | split
    | with_reducible apply mk_keeps

theorem State.giveWithheld_keeps {s : State} (h : Keeps s0 s) (c : Nat) : Keeps s0 (State.giveWithheld s c) := by
  unfold State.giveWithheld
  repeat' first
    | with_reducible assumption | intro _ | with_reducible apply State.onCell_keeps | with_reducible apply State.oweCredits_keeps
    | with_reducible apply ite_keeps | with_reducible apply foldl_keeps | with_reducible apply foldl_fst_keeps
    | with_reducible apply Cell.onPort_wf | with_reducible apply cell_wf | with_reducible apply wf_foldl | dsimp only | split
    | with_reducible apply mk_keeps

theorem State.accept_keeps {s : State} (h : Keeps s0 s) (c : Nat) (p : Nat) (x : Frame) : Keeps s0 (State.accept s c p x).1 := by
  unfold State.accept
  repeat' first
    | with_reducible assumption | intro _ | with_reducible apply State.countError_keeps | with_reducible apply State.noCredits_keeps
    | with_reducible apply State.useCredits_keeps | with_reducible apply State.taken_keeps | with_reducible apply State.sendHold_keeps
    | with_reducible apply State.relay_keeps | with_reducible apply State.headerFail_keeps | with_reducible apply State.onCell_keeps
    | with_reducible apply State.err_keeps | with_reducible apply ite_keeps | with_reducible apply ite_fst_keeps
    | with_reducible apply cell_wf | dsimp only | split | with_reducible apply mk_keeps

theorem State.train_keeps {s : State} (h : Keeps s0 s) (c : Nat) (p : Nat) (offered : Nat) (ok : Bool) :
    Keeps s0 (State.train s c p offered ok) := by
  unfold State.train
  repeat' first
    | with_reducible assumption | intro _ | with_reducible apply State.onCell_keeps | with_reducible apply State.pump_keeps
    | with_reducible apply State.err_keeps | with_reducible apply ite_keeps | with_reducible apply foldl_keeps
    | with_reducible apply foldl_fst_keeps | with_reducible apply Cell.onPort_wf | with_reducible apply cell_wf
    | with_reducible apply wf_foldl | dsimp only | split | with_reducible apply mk_keeps

theorem State.endQuarantine_keeps {s : State} (h : Keeps s0 s) (c : Nat) (p : Nat) : Keeps s0 (State.endQuarantine s c p) := by
  unfold State.endQuarantine
  repeat' first
    | with_reducible assumption | intro _ | with_reducible apply State.onCell_keeps | with_reducible apply ite_keeps
    | with_reducible apply foldl_keeps | with_reducible apply foldl_fst_keeps | with_reducible apply Cell.onPort_wf
    | with_reducible apply cell_wf | with_reducible apply wf_foldl | dsimp only | split | with_reducible apply mk_keeps

theorem State.takePresence_keeps {s : State} (h : Keeps s0 s) (c : Nat) (p : Nat) (x : Frame) : Keeps s0 (State.takePresence s c p x) := by
  unfold State.takePresence
  repeat' first
    | with_reducible assumption | intro _ | with_reducible apply State.onCell_keeps | with_reducible apply State.emit_keeps
    | with_reducible apply State.pump_keeps | with_reducible apply State.send_keeps | with_reducible apply ite_keeps
    | with_reducible apply Cell.onPort_wf | with_reducible apply cell_wf | dsimp only | split
    | refine fst_keeps (by with_reducible assumption) ?_ | refine snd_keeps (by with_reducible assumption) ?_
    | with_reducible apply mk_keeps

theorem State.bufferPresence_keeps {s : State} (h : Keeps s0 s) (c : Nat) (p : Nat) (x : Frame) :
    Keeps s0 (State.bufferPresence s c p x) := by
  unfold State.bufferPresence
  repeat' first
    | with_reducible assumption | intro _ | with_reducible apply State.onCell_keeps | with_reducible apply State.takeFree_keeps
    | with_reducible apply State.sendHold_keeps | with_reducible apply ite_keeps | with_reducible apply Cell.onPort_wf
    | with_reducible apply cell_wf | dsimp only | split | refine fst_keeps (by with_reducible assumption) ?_
    | refine snd_keeps (by with_reducible assumption) ?_ | with_reducible apply mk_keeps

theorem State.takeHold_keeps {s : State} (h : Keeps s0 s) (c : Nat) (p : Nat) (x : Frame) : Keeps s0 (State.takeHold s c p x) := by
  unfold State.takeHold
  repeat' first
    | with_reducible assumption | intro _ | with_reducible apply State.countError_keeps | with_reducible apply State.onCell_keeps
    | with_reducible apply State.rerouteQueue_keeps | with_reducible apply ite_keeps | with_reducible apply Cell.onPort_wf
    | with_reducible apply cell_wf | dsimp only | split | with_reducible apply mk_keeps

theorem State.takeReturn_keeps {s : State} (h : Keeps s0 s) (c : Nat) (p : Nat) (x : Frame) : Keeps s0 (State.takeReturn s c p x) := by
  unfold State.takeReturn
  repeat' first
    | with_reducible assumption | intro _ | with_reducible apply State.retrain_keeps | with_reducible apply State.onCell_keeps
    | with_reducible apply State.pump_keeps | with_reducible apply ite_keeps | with_reducible apply Cell.onPort_wf
    | with_reducible apply cell_wf | dsimp only | split | with_reducible apply mk_keeps

theorem State.joinRelay_keeps {s s1 : State} {c p : Nat} {x : Frame} (e : s.joinRelay c p x = some s1) (h : Keeps s0 s) : Keeps s0 s1 := by
  unfold State.joinRelay at e
  dsimp only at e
  split at e
  · cases e
    exact State.enqueue_keeps (State.onCell_keeps h _ (fun k hk => Cell.onPort_wf hk ..)) ..
  · split at e
    · split at e
      · cases e
        exact State.enqueue_keeps h ..
      · cases e
        exact h
    · cases e

theorem State.sendJoin_keeps {s : State} (h : Keeps s0 s) (c : Nat) (p : Nat) (subtype : Nat) (status : Nat) (seat : Nat) :
    Keeps s0 (State.sendJoin s c p subtype status seat) := by
  unfold State.sendJoin
  repeat' first
    | with_reducible assumption | intro _ | with_reducible apply State.sendPort_keeps | dsimp only | with_reducible apply mk_keeps

theorem State.setTime_keeps {s : State} (h : Keeps s0 s) (v : Nat) (step : Bool) : Keeps s0 (State.setTime s v step) := by
  unfold State.setTime
  repeat' first
    | with_reducible assumption | intro _ | with_reducible apply State.onCell_keeps | with_reducible apply ite_keeps
    | with_reducible apply foldl_keeps | with_reducible apply foldl_fst_keeps | with_reducible apply cell_wf
    | with_reducible apply wf_foldl | dsimp only | split | with_reducible apply mk_keeps

theorem State.acceptRoutes_keeps {s : State} (h : Keeps s0 s) (c : Nat) (p : Nat) : Keeps s0 (State.acceptRoutes s c p) := by
  unfold State.acceptRoutes
  repeat' first
    | with_reducible assumption | intro _ | with_reducible apply State.onCell_keeps | with_reducible apply ite_keeps
    | with_reducible apply foldl_keeps | with_reducible apply foldl_fst_keeps | with_reducible apply cell_wf
    | with_reducible apply wf_foldl | dsimp only | split | refine fst_keeps (by with_reducible assumption) ?_
    | refine snd_keeps (by with_reducible assumption) ?_ | with_reducible apply mk_keeps

theorem State.takeSeat_keeps {s : State} (h : Keeps s0 s) (c : Nat) (p : Nat) (x : Frame) : Keeps s0 (State.takeSeat s c p x) := by
  unfold State.takeSeat
  repeat' first
    | with_reducible assumption | intro _ | with_reducible apply State.setTime_keeps | with_reducible apply State.acceptRoutes_keeps
    | with_reducible apply State.sendJoin_keeps | dsimp only | with_reducible apply mk_keeps

theorem State.takeOffer_keeps {s : State} (h : Keeps s0 s) (c : Nat) (p : Nat) (x : Frame) (authentic : Bool) :
    Keeps s0 (State.takeOffer s c p x authentic) := by
  unfold State.takeOffer
  repeat' first
    | with_reducible assumption | intro _ | with_reducible apply State.sendJoin_keeps | with_reducible apply State.takeSeat_keeps
    | with_reducible apply ite_keeps | dsimp only | split | with_reducible apply mk_keeps

theorem State.depart_keeps {s : State} (h : Keeps s0 s) (seat : Nat) : Keeps s0 (State.depart s seat) := by
  unfold State.depart
  repeat' first
    | with_reducible assumption | intro _ | with_reducible apply State.onCell_keeps | with_reducible apply State.cause_keeps
    | with_reducible apply ite_keeps | with_reducible apply foldl_keeps | with_reducible apply foldl_fst_keeps
    | with_reducible apply cell_wf | with_reducible apply wf_foldl | dsimp only | split | with_reducible apply mk_keeps

theorem State.takeLeave_keeps {s : State} (h : Keeps s0 s) (x : Frame) : Keeps s0 (State.takeLeave s x) := by
  unfold State.takeLeave
  repeat' first
    | with_reducible assumption | intro _ | with_reducible apply State.depart_keeps | with_reducible apply ite_keeps | dsimp only
    | split | with_reducible apply mk_keeps

theorem State.takeLevel_keeps {s : State} (h : Keeps s0 s)  : Keeps s0 (State.takeLevel s) := by
  unfold State.takeLevel
  repeat' first
    | with_reducible assumption | intro _ | dsimp only | split | refine fst_keeps (by with_reducible assumption) ?_
    | refine snd_keeps (by with_reducible assumption) ?_ | with_reducible apply mk_keeps

theorem State.levelFrame_keeps {s : State} (h : Keeps s0 s) (c : Nat) (p : Nat) (x : Frame) : Keeps s0 (State.levelFrame s c p x) := by
  unfold State.levelFrame
  repeat' first
    | with_reducible assumption | intro _ | with_reducible apply State.countError_keeps | with_reducible apply State.takeLevel_keeps
    | with_reducible apply ite_keeps | with_reducible apply cell_wf | dsimp only | split | with_reducible apply mk_keeps

theorem State.takeRoutes_keeps {s : State} (h : Keeps s0 s) (c : Nat) (who : BitVec 8) (e : Entry) :
    Keeps s0 (State.takeRoutes s c who e) := by
  unfold State.takeRoutes
  repeat' first
    | with_reducible assumption | intro _ | with_reducible apply State.onCell_keeps | with_reducible apply ite_keeps
    | with_reducible apply foldl_keeps | with_reducible apply foldl_fst_keeps | with_reducible apply cell_wf
    | with_reducible apply wf_foldl | dsimp only | split | with_reducible apply mk_keeps

theorem State.sendTime_keeps {s : State} (h : Keeps s0 s) (c : Nat) (p : Nat) (subtype : Nat) (rx : Nat) :
    Keeps s0 (State.sendTime s c p subtype rx) := by
  unfold State.sendTime
  repeat' first
    | with_reducible assumption | intro _ | with_reducible apply State.onCell_keeps | with_reducible apply State.sendPort_keeps
    | with_reducible apply ite_keeps | with_reducible apply Cell.onPort_wf | with_reducible apply cell_wf | dsimp only | split
    | with_reducible apply mk_keeps

theorem State.takeSync_keeps {s : State} (h : Keeps s0 s) (c : Nat) (p : Nat) (x : Frame) : Keeps s0 (State.takeSync s c p x) := by
  unfold State.takeSync
  repeat' first
    | with_reducible assumption | intro _ | with_reducible apply State.onCell_keeps | with_reducible apply State.err_keeps
    | with_reducible apply ite_keeps | with_reducible apply cell_wf | dsimp only | split | with_reducible apply mk_keeps

theorem State.takeBeat_keeps {s : State} (h : Keeps s0 s) (c : Nat) (x : Frame) : Keeps s0 (State.takeBeat s c x) := by
  unfold State.takeBeat
  repeat' first
    | with_reducible assumption | intro _ | with_reducible apply State.send_keeps | with_reducible apply ite_keeps
    | with_reducible apply cell_wf | dsimp only | split | with_reducible apply mk_keeps

theorem State.sendSync_keeps {s : State} (h : Keeps s0 s) (m : SyncMsg) : Keeps s0 (State.sendSync s m) := by
  unfold State.sendSync
  repeat' first
    | with_reducible assumption | intro _ | with_reducible apply State.send_keeps | with_reducible apply State.cause_keeps
    | with_reducible apply ite_keeps | dsimp only | split | refine fst_keeps (by with_reducible assumption) ?_
    | refine snd_keeps (by with_reducible assumption) ?_ | with_reducible apply mk_keeps

theorem State.figEndWith_keeps {s : State} (h : Keeps s0 s) (c : Nat) (cmd : FigCmd) (status : Nat) (head : Nat) :
    Keeps s0 (State.figEndWith s c cmd status head) := by
  unfold State.figEndWith
  repeat' first
    | with_reducible assumption | intro _ | with_reducible apply State.onCell_keeps | with_reducible apply State.mail_keeps
    | with_reducible apply State.err_keeps | with_reducible apply ite_keeps | with_reducible apply cell_wf | dsimp only | split
    | with_reducible apply mk_keeps

theorem State.figEnd_keeps {s : State} (h : Keeps s0 s) (c : Nat) (cmd : FigCmd) (status : Nat) :
    Keeps s0 (State.figEnd s c cmd status) := by
  unfold State.figEnd
  repeat' first
    | with_reducible assumption | intro _ | with_reducible apply State.onCell_keeps | with_reducible apply State.figEndWith_keeps
    | with_reducible apply cell_wf | dsimp only | with_reducible apply mk_keeps

theorem State.abandonLoads_keeps {s : State} (h : Keeps s0 s)  : Keeps s0 (State.abandonLoads s) := by
  unfold State.abandonLoads
  repeat' first
    | with_reducible assumption | intro _ | with_reducible apply State.onCell_keeps | with_reducible apply State.figEnd_keeps
    | with_reducible apply foldl_keeps | with_reducible apply foldl_fst_keeps | with_reducible apply cell_wf
    | with_reducible apply wf_foldl | dsimp only | split | refine fst_keeps (by with_reducible assumption) ?_
    | refine snd_keeps (by with_reducible assumption) ?_ | with_reducible apply mk_keeps

theorem State.loseHost_keeps {s : State} (h : Keeps s0 s)  : Keeps s0 (State.loseHost s) := by
  unfold State.loseHost
  repeat' first
    | with_reducible assumption | intro _ | with_reducible apply State.onCell_keeps | with_reducible apply State.taken_keeps
    | with_reducible apply State.abandonLoads_keeps | with_reducible apply ite_keeps | with_reducible apply foldl_keeps
    | with_reducible apply foldl_fst_keeps | with_reducible apply cell_wf | with_reducible apply wf_foldl | dsimp only | split
    | with_reducible apply mk_keeps

theorem State.resetPortRegs_keeps {s : State} (h : Keeps s0 s)  : Keeps s0 (State.resetPortRegs s) := by
  unfold State.resetPortRegs
  repeat' first
    | with_reducible assumption | intro _ | dsimp only | with_reducible apply mk_keeps

theorem State.resetFn_keeps {s : State} (h : Keeps s0 s) (n : Nat) (flr : Bool) : Keeps s0 (State.resetFn s n flr) := by
  unfold State.resetFn
  repeat' first
    | with_reducible assumption | intro _ | with_reducible apply State.onFn_keeps | with_reducible apply State.recDone_keeps
    | with_reducible apply State.dropRec_keeps | with_reducible apply ite_keeps | with_reducible apply foldl_keeps
    | with_reducible apply foldl_fst_keeps | dsimp only | split | with_reducible apply mk_keeps

theorem State.resetFns_keeps {s : State} (h : Keeps s0 s)  : Keeps s0 (State.resetFns s) := by
  unfold State.resetFns
  repeat' first
    | with_reducible assumption | intro _ | with_reducible apply State.resetFn_keeps | with_reducible apply foldl_keeps
    | with_reducible apply foldl_fst_keeps | dsimp only | with_reducible apply mk_keeps

theorem State.emptyChansOf_keeps {s : State} (h : Keeps s0 s) (who : BitVec 8) : Keeps s0 (State.emptyChansOf s who).1 := by
  unfold State.emptyChansOf
  repeat' first
    | with_reducible assumption | intro _ | with_reducible apply State.emptyChan_keeps | with_reducible apply ite_keeps
    | with_reducible apply ite_fst_keeps | with_reducible apply foldl_keeps | with_reducible apply foldl_fst_keeps | dsimp only | split
    | refine fst_keeps (by with_reducible assumption) ?_ | refine snd_keeps (by with_reducible assumption) ?_
    | with_reducible apply mk_keeps

theorem State.adminHostRequests_keeps {s : State} (h : Keeps s0 s) (n : Nat) : Keeps s0 (State.adminHostRequests s n) := by
  unfold State.adminHostRequests
  repeat' first
    | with_reducible assumption | intro _ | with_reducible apply State.onCell_keeps | with_reducible apply foldl_keeps
    | with_reducible apply foldl_fst_keeps | with_reducible apply Cell.onEntry_wf | with_reducible apply cell_wf
    | with_reducible apply wf_foldl | dsimp only | with_reducible apply mk_keeps

theorem State.flrFn_keeps {s : State} (h : Keeps s0 s) (n : Nat) : Keeps s0 (State.flrFn s n) := by
  unfold State.flrFn
  repeat' first
    | with_reducible assumption | intro _ | with_reducible apply State.resetFn_keeps
    | with_reducible apply State.adminHostRequests_keeps | with_reducible apply State.emptyChansOf_keeps
    | with_reducible apply State.err_keeps | with_reducible apply ite_keeps | dsimp only | split
    | refine fst_keeps (by with_reducible assumption) ?_ | refine snd_keeps (by with_reducible assumption) ?_
    | with_reducible apply mk_keeps

theorem State.ringError_keeps {s : State} (h : Keeps s0 s) (n : Nat) : Keeps s0 (State.ringError s n) := by
  unfold State.ringError
  repeat' first
    | with_reducible assumption | intro _ | with_reducible apply State.onFn_keeps | with_reducible apply State.msix_keeps | dsimp only
    | with_reducible apply mk_keeps

theorem State.writeTail_keeps {s : State} (h : Keeps s0 s) (n : Nat) (c : Nat) (v : Nat) : Keeps s0 (State.writeTail s n c v) := by
  unfold State.writeTail
  repeat' first
    | with_reducible assumption | intro _ | with_reducible apply State.ring_keeps | with_reducible apply State.onFn_keeps
    | with_reducible apply State.ringError_keeps | with_reducible apply ite_keeps | dsimp only | split | with_reducible apply mk_keeps

theorem State.cqControl_keeps {s : State} (h : Keeps s0 s) (n : Nat) (w : Nat) : Keeps s0 (State.cqControl s n w) := by
  unfold State.cqControl
  repeat' first
    | with_reducible assumption | intro _ | with_reducible apply State.onFn_keeps | with_reducible apply State.recDone_keeps
    | with_reducible apply State.dropRec_keeps | with_reducible apply ite_keeps | with_reducible apply foldl_keeps
    | with_reducible apply foldl_fst_keeps | dsimp only | split | with_reducible apply mk_keeps

theorem State.ringControl_keeps {s : State} (h : Keeps s0 s) (n : Nat) (ring : Nat) (w : Nat) :
    Keeps s0 (State.ringControl s n ring w) := by
  unfold State.ringControl
  repeat' first
    | with_reducible assumption | intro _ | with_reducible apply State.onFn_keeps | with_reducible apply State.cqControl_keeps
    | with_reducible apply ite_keeps | dsimp only | split | with_reducible apply mk_keeps

theorem State.writeSlots_keeps {s : State} (h : Keeps s0 s) (n : Nat) (l : List (BitVec 256)) : Keeps s0 (s.writeSlots n l) := by
  induction l generalizing s with
  | nil => exact h
  | cons r l ih => exact ih (State.onFn_keeps (State.emit_keeps h _) _ _)

theorem State.writeRecs_keeps {s : State} (h : Keeps s0 s) (n : Nat) (l : List QRec) : Keeps s0 (s.writeRecs n l).1 := by
  induction l generalizing s with
  | nil => exact h
  | cons r l ih =>
    unfold State.writeRecs
    split
    · exact h
    · exact ih (State.recDone_keeps (State.writeSlots_keeps (State.onFn_keeps h _ _) _ _) _)

theorem State.writeBatch_keeps {s : State} (h : Keeps s0 s) (n : Nat) : Keeps s0 (State.writeBatch s n) := by
  unfold State.writeBatch
  repeat' first
    | with_reducible assumption | intro _ | with_reducible apply State.writeRecs_keeps | with_reducible apply State.emit_keeps
    | with_reducible apply State.msix_keeps | with_reducible apply ite_keeps | dsimp only | split
    | refine fst_keeps (by with_reducible assumption) ?_ | refine snd_keeps (by with_reducible assumption) ?_
    | with_reducible apply mk_keeps

end Sys2Proof.Machine
end

