-- ==== Sys2Proof/Laws/KeepsTiers.lean ====
section
/-!
SUPPORT. What each operation of the memory tiers does to the frame of a run (Keeps): one law per operation.
-/

namespace Sys2Proof.Machine

variable {s0 s : State}

theorem Cell.setEnt_wf {k : Cell} (h : Memory.wf k.tiers.tiles = true) (a : Nat) (e : TileEnt) :
    Memory.wf (Cell.setEnt k a e).tiers.tiles = true := by
  unfold Cell.setEnt
  repeat' first
    | with_reducible assumption | intro _ | with_reducible apply Memory.wf_set | with_reducible apply Memory.wf_mapKV
    | with_reducible apply Memory.wf_mapV | with_reducible apply Memory.wf_filter | dsimp only

theorem Cell.makeRoom_wf {k k1 : Cell} {need : Nat} {busy : List Nat} (e : k.makeRoom need busy = some k1)
    (h : Memory.wf k.tiers.tiles = true) : Memory.wf k1.tiers.tiles = true := by
  unfold Cell.makeRoom at e
  split at e
  · cases e
    exact h
  · split at e
    · cases e
    · cases e
      exact Cell.setEnt_wf h ..

theorem Cell.touched_wf {k : Cell} (h : Memory.wf k.tiers.tiles = true) (a : Nat) (e : TileEnt) :
    Memory.wf (Cell.touched k a e).tiers.tiles = true := by
  unfold Cell.touched
  repeat' first
    | with_reducible assumption | intro _ | with_reducible apply Cell.setEnt_wf | dsimp only

theorem Cell.install_wf {k : Cell} (h : Memory.wf k.tiers.tiles = true) (t : Tensor) (busy : List Nat) (a : Nat) :
    Memory.wf (Cell.install k t busy a).tiers.tiles = true := by
  unfold Cell.install
  repeat' first
    | with_reducible assumption | intro _ | refine Cell.makeRoom_wf (by with_reducible assumption) ?_
    | with_reducible apply Cell.setEnt_wf | dsimp only | split

theorem Cell.readTile_wf {k k1 : Cell} {t : Tensor} {a : Nat} {out : Bool} {busy : List Nat} {x : Tile}
    (e : k.readTile t a out busy = some (k1, x)) (h : Memory.wf k.tiers.tiles = true) : Memory.wf k1.tiers.tiles = true := by
  unfold Cell.readTile at e
  split at e
  · cases e
  · dsimp only at e
    split at e <;>
    · cases e
      exact Cell.touched_wf (Cell.install_wf h ..) ..

theorem Cell.placeTile_wf {k k1 : Cell} {t : Tensor} {a : Nat} {x : Tile} {busy : List Nat} {y : TileEnt}
    (e : k.placeTile t a x busy = some (k1, y)) (h : Memory.wf k.tiers.tiles = true) : Memory.wf k1.tiers.tiles = true := by
  unfold Cell.placeTile at e
  dsimp only at e
  repeat' split at e
  all_goals first
    | (cases e; exact h)
    | (cases e; exact Cell.makeRoom_wf (by assumption) h)
    | cases e

theorem Cell.writeTile_wf {k k1 : Cell} {t : Tensor} {a : Nat} {x : Tile} {busy : List Nat}
    (e : k.writeTile t a x busy = some k1) (h : Memory.wf k.tiers.tiles = true) : Memory.wf k1.tiers.tiles = true := by
  unfold Cell.writeTile at e
  split at e
  · cases e
  · rename_i g
    cases e
    exact Cell.touched_wf (Cell.placeTile_wf g h) ..

theorem State.tierServed_keeps {s : State} (h : Keeps s0 s) (c : Nat) (n : Nat) : Keeps s0 (State.tierServed s c n) := by
  unfold State.tierServed
  repeat' first
    | with_reducible assumption | intro _ | with_reducible apply State.onCell_keeps | with_reducible apply cell_wf | dsimp only
    | with_reducible apply mk_keeps

theorem State.tierRead_keeps {s s1 : State} {c tenant : Nat} {ident : BitVec 24} {seq : Nat} {out : Bool} {busy : List Nat} {x : Slot}
    (e : s.tierRead c tenant ident seq out busy = some (s1, x)) (h : Keeps s0 s) : Keeps s0 s1 := by
  unfold State.tierRead at e
  split at e
  · cases e
  · split at e
    · cases e
    · split at e
      · cases e
      · rename_i g
        split at e
        · split at e
          · cases e
          · rename_i g2
            cases e
            exact State.setCell_keeps h _ (fun i => Cell.readTile_wf g2 (Cell.readTile_wf g (cell_wf h i _)))
        · cases e
          exact State.setCell_keeps h _ (fun i => Cell.readTile_wf g (cell_wf h i _))

theorem State.noRoom_keeps {s : State} (h : Keeps s0 s) (c : Nat) (t : Tensor) : Keeps s0 (State.noRoom s c t) := by
  unfold State.noRoom
  repeat' first
    | with_reducible assumption | intro _ | with_reducible apply State.err_keeps | dsimp only | with_reducible apply mk_keeps

theorem State.tierPut_keeps {s : State} (h : Keeps s0 s) (c : Nat) (tenant : Nat) (ident : BitVec 24) (seq : Nat) (x : Slot) (busy : List Nat) :
    Keeps s0 (State.tierPut s c tenant ident seq x busy).1 := by
  unfold State.tierPut
  repeat' first
    | with_reducible assumption | intro _ | with_reducible apply State.noRoom_keeps | with_reducible apply State.setCell_keeps
    | with_reducible apply ite_keeps | with_reducible apply ite_fst_keeps | refine Cell.writeTile_wf (by with_reducible assumption) ?_
    | with_reducible apply cell_wf | dsimp only | split | refine fst_keeps (by with_reducible assumption) ?_
    | refine snd_keeps (by with_reducible assumption) ?_ | with_reducible apply mk_keeps

theorem State.tierWrite_keeps {s : State} (h : Keeps s0 s) (c : Nat) (tenant : Nat) (ident : BitVec 24) (seq : Nat) (x : Slot) (busy : List Nat) :
    Keeps s0 (State.tierWrite s c tenant ident seq x busy).1 := by
  unfold State.tierWrite
  repeat' first
    | with_reducible assumption | intro _ | with_reducible apply State.tierPut_keeps | with_reducible apply ite_keeps
    | with_reducible apply ite_fst_keeps | dsimp only | split | with_reducible apply mk_keeps

theorem Cell.tierSeal_wf {k : Cell} (h : Memory.wf k.tiers.tiles = true) (tenant : Nat) (commit : Bool) :
    Memory.wf (Cell.tierSeal k tenant commit).tiers.tiles = true := by
  unfold Cell.tierSeal
  repeat' first
    | with_reducible assumption | intro _ | with_reducible apply Memory.wf_set | with_reducible apply Memory.wf_mapKV
    | with_reducible apply Memory.wf_mapV | with_reducible apply Memory.wf_filter | dsimp only | split

theorem Cell.freeDue_wf {k : Cell} (h : Memory.wf k.tiers.tiles = true)  : Memory.wf (Cell.freeDue k).tiers.tiles = true := by
  unfold Cell.freeDue
  repeat' first
    | with_reducible assumption | intro _ | with_reducible apply Memory.wf_set | with_reducible apply Memory.wf_mapKV
    | with_reducible apply Memory.wf_mapV | with_reducible apply Memory.wf_filter | dsimp only

theorem State.freeSoon_keeps {s : State} (h : Keeps s0 s) (c : Nat) : Keeps s0 (State.freeSoon s c) := by
  unfold State.freeSoon
  repeat' first
    | with_reducible assumption | intro _ | with_reducible apply State.onCell_keeps | with_reducible apply ite_keeps
    | with_reducible apply Cell.freeDue_wf | with_reducible apply cell_wf | dsimp only | split | with_reducible apply mk_keeps

theorem Cell.addTensor_wf {k : Cell} (h : Memory.wf k.tiers.tiles = true) (t : Tensor) :
    Memory.wf (Cell.addTensor k t).tiers.tiles = true := by
  unfold Cell.addTensor
  repeat' first
    | with_reducible assumption | intro _ | with_reducible apply Cell.setEnt_wf | with_reducible apply wf_foldl | dsimp only

theorem State.onShared_keeps {s : State} (h : Keeps s0 s) (ident : BitVec 24) (digest : BitVec 256) (f : Shared → Shared) :
    Keeps s0 (State.onShared s ident digest f) := by
  unfold State.onShared
  repeat' first
    | with_reducible assumption | intro _ | with_reducible apply ite_keeps | dsimp only | split | with_reducible apply mk_keeps

theorem Cell.onRefs_wf {k : Cell} (h : Memory.wf k.tiers.tiles = true) (ident : BitVec 24) (f : List Nat → List Nat) :
    Memory.wf (Cell.onRefs k ident f).tiers.tiles = true := by
  unfold Cell.onRefs
  repeat' first
    | with_reducible assumption | intro _ | dsimp only | split

theorem State.attach_keeps {s : State} (h : Keeps s0 s) (c : Nat) (tenant : Nat) (x : Shared) : Keeps s0 (State.attach s c tenant x).1 := by
  unfold State.attach
  repeat' first
    | with_reducible assumption | intro _ | with_reducible apply State.setCell_keeps | with_reducible apply State.onCell_keeps
    | with_reducible apply State.onShared_keeps | with_reducible apply ite_keeps | with_reducible apply ite_fst_keeps
    | with_reducible apply Cell.onRefs_wf | with_reducible apply cell_wf | dsimp only | split
    | refine fst_keeps (by with_reducible assumption) ?_ | refine snd_keeps (by with_reducible assumption) ?_
    | with_reducible apply mk_keeps

theorem State.allocDo_keeps {s : State} (h : Keeps s0 s) (c : Nat) (e : Entry) : Keeps s0 (State.allocDo s c e).1 := by
  unfold State.allocDo
  extract_lets k f ident digest owner mine old
  have hk : Inv s0 → Memory.wf k.tiers.tiles = true := fun i => cell_wf h i c
  clear_value old k
  refine ite_fst_keeps h (ite_fst_keeps h (ite_fst_keeps h ?_))
  extract_lets clash
  refine ite_fst_keeps h ?_
  cases old with
  | some x => exact State.attach_keeps h ..
  | none =>
    refine ite_fst_keeps h ?_
    extract_lets
    refine ite_fst_keeps h ?_
    have h1 (u : Tensor) := State.setCell_keeps h c (fun i => Cell.addTensor_wf (hk i) u)
    exact ite_keeps (mk_keeps (h1 _)) (h1 _)

theorem State.useManifest_keeps {s : State} (h : Keeps s0 s) (d : BitVec 256) : Keeps s0 (State.useManifest s d) := by
  unfold State.useManifest
  repeat' first
    | with_reducible assumption | intro _ | dsimp only | split | refine fst_keeps (by with_reducible assumption) ?_
    | refine snd_keeps (by with_reducible assumption) ?_ | with_reducible apply mk_keeps

theorem Cell.dropTensor_wf {k : Cell} (h : Memory.wf k.tiers.tiles = true) (tenant : Nat) (ident : BitVec 24) :
    Memory.wf (Cell.dropTensor k tenant ident).tiers.tiles = true := by
  unfold Cell.dropTensor
  repeat' first
    | with_reducible assumption | intro _ | with_reducible apply Cell.freeDue_wf | dsimp only

theorem Cell.makeReady_wf {k : Cell} (h : Memory.wf k.tiers.tiles = true) (t : Tensor) :
    Memory.wf (Cell.makeReady k t).tiers.tiles = true := by
  unfold Cell.makeReady
  repeat' first
    | with_reducible assumption | intro _ | with_reducible apply Cell.setEnt_wf | with_reducible apply wf_foldl | dsimp only | split

theorem Cell.newWeights_wf {k : Cell} (h : Memory.wf k.tiers.tiles = true) (tenant : Nat) (layers : List Nat) (ver : BitVec 16) :
    Memory.wf (Cell.newWeights k tenant layers ver).tiers.tiles = true := by
  unfold Cell.newWeights
  repeat' first
    | with_reducible assumption | intro _ | with_reducible apply Cell.onVer_wf | dsimp only | split

theorem State.readyDo_keeps {s : State} (h : Keeps s0 s) (c : Nat) (e : Entry) : Keeps s0 (State.readyDo s c e).1 := by
  unfold State.readyDo
  repeat' first
    | with_reducible assumption | intro _ | with_reducible apply State.onCell_keeps | with_reducible apply State.useManifest_keeps
    | with_reducible apply ite_keeps | with_reducible apply ite_fst_keeps | with_reducible apply Cell.dropTensor_wf
    | with_reducible apply Cell.makeReady_wf | with_reducible apply Cell.newWeights_wf | with_reducible apply cell_wf | dsimp only
    | split | refine fst_keeps (by with_reducible assumption) ?_ | refine snd_keeps (by with_reducible assumption) ?_
    | with_reducible apply mk_keeps

theorem Cell.markFree_wf {k : Cell} (h : Memory.wf k.tiers.tiles = true) (tenant : Nat) (ident : BitVec 24) :
    Memory.wf (Cell.markFree k tenant ident).tiers.tiles = true := by
  unfold Cell.markFree
  repeat' first
    | with_reducible assumption | intro _ | dsimp only | split

theorem State.dropRef_keeps {s : State} (h : Keeps s0 s) (c : Nat) (tenant : Nat) (t : Tensor) : Keeps s0 (State.dropRef s c tenant t) := by
  unfold State.dropRef
  repeat' first
    | with_reducible assumption | intro _ | with_reducible apply State.onCell_keeps | with_reducible apply State.onShared_keeps
    | with_reducible apply State.freeSoon_keeps | with_reducible apply ite_keeps | with_reducible apply Cell.onRefs_wf
    | with_reducible apply Cell.markFree_wf | with_reducible apply cell_wf | dsimp only | split
    | refine fst_keeps (by with_reducible assumption) ?_ | refine snd_keeps (by with_reducible assumption) ?_
    | with_reducible apply mk_keeps

theorem State.freeDo_keeps {s : State} (h : Keeps s0 s) (c : Nat) (e : Entry) : Keeps s0 (State.freeDo s c e).1 := by
  unfold State.freeDo
  repeat' first
    | with_reducible assumption | intro _ | with_reducible apply State.onCell_keeps | with_reducible apply State.freeSoon_keeps
    | with_reducible apply State.dropRef_keeps | with_reducible apply ite_keeps | with_reducible apply ite_fst_keeps
    | with_reducible apply Cell.markFree_wf | with_reducible apply cell_wf | dsimp only | split
    | refine fst_keeps (by with_reducible assumption) ?_ | refine snd_keeps (by with_reducible assumption) ?_
    | with_reducible apply mk_keeps

theorem State.doTensor_keeps {s : State} (h : Keeps s0 s) (c : Nat) (src : Source) (e : Entry) : Keeps s0 (State.doTensor s c src e) := by
  unfold State.doTensor
  repeat' first
    | with_reducible assumption | intro _ | with_reducible apply State.complete_keeps | with_reducible apply State.allocDo_keeps
    | with_reducible apply State.readyDo_keeps | with_reducible apply State.freeDo_keeps | with_reducible apply ite_keeps | dsimp only
    | split | refine fst_keeps (by with_reducible assumption) ?_ | refine snd_keeps (by with_reducible assumption) ?_
    | with_reducible apply mk_keeps

theorem State.cmdServed_keeps {s : State} (h : Keeps s0 s) (c : Nat) (who : BitVec 8) : Keeps s0 (State.cmdServed s c who) := by
  unfold State.cmdServed
  repeat' first
    | with_reducible assumption | intro _ | with_reducible apply State.onCell_keeps | with_reducible apply cell_wf | dsimp only
    | with_reducible apply mk_keeps

theorem State.entryAt_keeps {s : State} (h : Keeps s0 s) (c kind : Nat) (src : Source) (e : Entry) (f : State → State)
    (hf : ∀ x, Keeps s0 x → Keeps s0 (f x)) : Keeps s0 (s.entryAt c kind src e f) := by
  unfold State.entryAt
  repeat' split
  · exact h
  · exact hf _ (State.cmdServed_keeps (State.wake_keeps h ..) ..)
  · exact State.complete_keeps (State.wake_keeps h ..) ..

theorem Cell.deviceWrite_wf {k : Cell} (h : Memory.wf k.tiers.tiles = true) (off : Nat) (b : Byte) :
    Memory.wf (k.deviceWrite off b).1.tiers.tiles = true := by
  unfold Cell.deviceWrite
  split
  · exact h
  · split
    · exact h
    · exact Cell.setEnt_wf h ..

theorem State.badAccess_keeps {s : State} (h : Keeps s0 s) (dev : Nat) : Keeps s0 (State.badAccess s dev) := by
  unfold State.badAccess
  repeat' first
    | with_reducible assumption | intro _ | with_reducible apply State.err_keeps | dsimp only | with_reducible apply mk_keeps

theorem State.devicePut_keeps {s : State} (h : Keeps s0 s) (ok : Bool) (d : Nat) (b : Byte) : Keeps s0 (s.devicePut ok d b).1 :=
  ite_keeps (State.setCell_keeps h _ (fun i => Cell.deviceWrite_wf (cell_wf h i _) ..)) h

theorem Cell.riseOne_wf {k k1 : Cell} (e : k.riseOne = some k1) (h : Memory.wf k.tiers.tiles = true) : Memory.wf k1.tiers.tiles = true := by
  unfold Cell.riseOne at e
  split at e
  · cases e
  · cases e
    exact Cell.setEnt_wf h ..

theorem Cell.rise_wf {k : Cell} (h : Memory.wf k.tiers.tiles = true) (n : Nat) : Memory.wf (Cell.rise n k).tiers.tiles = true := by
  induction n generalizing k with
  | zero => exact h
  | succ n ih =>
    unfold Cell.rise
    split
    · exact h
    · exact ih (Cell.riseOne_wf (by assumption) h)

theorem State.holdLayers_keeps {s : State} (h : Keeps s0 s) (c : Nat) (tenant : Nat) (layers : List Nat) (seq : Nat) :
    Keeps s0 (State.holdLayers s c tenant layers seq) := by
  unfold State.holdLayers
  repeat' first
    | with_reducible assumption | intro _ | with_reducible apply State.onCell_keeps | with_reducible apply State.err_keeps
    | with_reducible apply ite_keeps | with_reducible apply foldl_keeps | with_reducible apply foldl_fst_keeps
    | with_reducible apply cell_wf | with_reducible apply wf_foldl | dsimp only | split | with_reducible apply mk_keeps

theorem State.refetchOwn_keeps {s : State} (h : Keeps s0 s) (c : Nat) (t : Tensor) : Keeps s0 (State.refetchOwn s c t) := by
  unfold State.refetchOwn
  repeat' first
    | with_reducible assumption | intro _ | with_reducible apply State.mail_keeps | with_reducible apply State.onCell_keeps
    | with_reducible apply ite_keeps | with_reducible apply cell_wf | dsimp only | split
    | refine fst_keeps (by with_reducible assumption) ?_ | refine snd_keeps (by with_reducible assumption) ?_
    | with_reducible apply mk_keeps

theorem State.eccHit_keeps {s : State} (h : Keeps s0 s) (c : Nat) (h1 : EccHit) : Keeps s0 (State.eccHit s c h1) := by
  unfold State.eccHit
  repeat' first
    | with_reducible assumption | intro _ | with_reducible apply State.setCell_keeps | with_reducible apply State.err_keeps
    | with_reducible apply State.refetchOwn_keeps | with_reducible apply State.holdLayers_keeps | with_reducible apply ite_keeps
    | with_reducible apply Cell.setEnt_wf | with_reducible apply cell_wf | dsimp only | split
    | refine fst_keeps (by with_reducible assumption) ?_ | refine snd_keeps (by with_reducible assumption) ?_
    | with_reducible apply mk_keeps

end Sys2Proof.Machine
end

