-- ==== Sys2Proof/Laws/KeepsEngines.lean ====
section
/-!
SUPPORT. What each operation of the engines does to the frame of a run (Keeps): one law per operation.
-/

namespace Sys2Proof.Machine

variable {s0 s : State}

theorem Cell.release_wf {k : Cell} (h : Memory.wf k.tiers.tiles = true)  : Memory.wf (Cell.release k).tiers.tiles = true := by
  unfold Cell.release
  repeat' first
    | with_reducible assumption | intro _ | dsimp only | split

theorem State.issue_keeps {s s1 : State} {c n engine : Nat} {p : OpRec → Bool} {v : OpEnv} (e : s.issue c n engine p = some (v, s1))
    (h : Keeps s0 s) : Keeps s0 s1 := by
  unfold State.issue at e
  dsimp only at e
  repeat' split at e
  all_goals first
    | (cases e; exact State.onCore_keeps h ..)
    | cases e

theorem State.useRedo_keeps {s : State} (h : Keeps s0 s) (c : Nat) (n : Nat) : Keeps s0 (State.useRedo s c n) := by
  unfold State.useRedo
  repeat' first
    | with_reducible assumption | intro _ | with_reducible apply State.onCore_keeps | with_reducible apply Cell.onCore_wf
    | with_reducible apply cell_wf | dsimp only | with_reducible apply mk_keeps

theorem State.countFault_keeps {s : State} (h : Keeps s0 s) (c : Nat) (n : Nat) : Keeps s0 (State.countFault s c n) := by
  unfold State.countFault
  repeat' first
    | with_reducible assumption | intro _ | with_reducible apply State.onCore_keeps | with_reducible apply Cell.onCore_wf
    | with_reducible apply cell_wf | dsimp only | with_reducible apply mk_keeps

theorem State.repeatRec_keeps {s : State} (h : Keeps s0 s) (v : OpEnv) (engine : Nat) (sev : Nat) :
    Keeps s0 (State.repeatRec s v engine sev) := by
  unfold State.repeatRec
  repeat' first
    | with_reducible assumption | intro _ | with_reducible apply State.err_keeps | dsimp only | with_reducible apply mk_keeps

theorem State.residue_keeps {s : State} (h : Keeps s0 s) (v : OpEnv) (engine : Nat) (r : Repeat) :
    Keeps s0 (State.residue s v engine r).1 := by
  unfold State.residue
  repeat' first
    | with_reducible assumption | intro _ | with_reducible apply State.useRedo_keeps | with_reducible apply State.countFault_keeps
    | with_reducible apply State.repeatRec_keeps | with_reducible apply State.cause_keeps | with_reducible apply ite_keeps
    | with_reducible apply ite_fst_keeps | dsimp only | split | refine fst_keeps (by with_reducible assumption) ?_
    | refine snd_keeps (by with_reducible assumption) ?_ | with_reducible apply mk_keeps

theorem State.entryCheck_keeps {s : State} (h : Keeps s0 s) (v : OpEnv) (l : List Nat) : Keeps s0 (s.entryCheck v l).1 := by
  induction l generalizing s with
  | nil => exact h
  | cons a l ih =>
    unfold State.entryCheck
    extract_lets x bad again
    refine ite_fst_keeps (ih h) ?_
    have hb : ∀ n y, Keeps s0 y → Keeps s0 (bad n y) := fun _ _ hy => State.err_keeps hy ..
    have hg : ∀ p, again = some p → Keeps s0 p.1 := by
      intro p e
      simp only [again] at e
      split at e
      · exact State.tierRead_keeps e (State.useRedo_keeps h ..)
      · cases e
    clear_value again
    cases again with
    | none => exact hb _ _ (State.cause_keeps h ..)
    | some p =>
      have hp := hg p rfl
      exact ite_fst_keeps (ih (hb _ _ (State.countFault_keeps (State.onCore_keeps hp ..) ..))) (hb _ _ (State.cause_keeps hp ..))

theorem Cell.markSat_wf {k : Cell} (h : Memory.wf k.tiers.tiles = true) (tenant : Nat) (ids : List (BitVec 24)) :
    Memory.wf (Cell.markSat k tenant ids).tiers.tiles = true := by
  unfold Cell.markSat
  repeat' first
    | with_reducible assumption | intro _ | dsimp only

theorem State.startOp_keeps {s : State} (h : Keeps s0 s) (v : OpEnv) (engine : Nat) (r : Result) (cycles : Option Nat) (reports : List SampleReport) :
    Keeps s0 (State.startOp s v engine r cycles reports) := by
  unfold State.startOp
  repeat' first
    | with_reducible assumption | intro _ | with_reducible apply State.onCell_keeps | with_reducible apply State.onCore_keeps
    | with_reducible apply State.cause_keeps | with_reducible apply ite_keeps | with_reducible apply Cell.markSat_wf
    | with_reducible apply Cell.onCore_wf | with_reducible apply cell_wf | dsimp only | split | with_reducible apply mk_keeps

theorem State.product_keeps {s : State} (h : Keeps s0 s) (v : OpEnv) : Keeps s0 (State.product s v) := by
  unfold State.product
  repeat' first
    | with_reducible assumption | intro _ | with_reducible apply State.entryCheck_keeps | with_reducible apply State.startOp_keeps
    | with_reducible apply State.cause_keeps | with_reducible apply ite_keeps | dsimp only | split
    | refine fst_keeps (by with_reducible assumption) ?_ | refine snd_keeps (by with_reducible assumption) ?_
    | with_reducible apply mk_keeps

theorem State.storeLater_keeps {s : State} (h : Keeps s0 s) (x : Store) : Keeps s0 (State.storeLater s x) := by
  unfold State.storeLater
  repeat' first
    | with_reducible assumption | intro _ | with_reducible apply State.errLocal_keeps | with_reducible apply ite_keeps
    | with_reducible apply foldl_keeps | with_reducible apply foldl_fst_keeps | with_reducible apply cell_wf
    | with_reducible apply wf_foldl | dsimp only | split | with_reducible apply mk_keeps

theorem Cell.abandonTest_wf {k : Cell} (h : Memory.wf k.tiers.tiles = true) (t : Nat) :
    Memory.wf (Cell.abandonTest k t).tiers.tiles = true := by
  unfold Cell.abandonTest
  repeat' first
    | with_reducible assumption | intro _ | with_reducible apply Cell.onCore_wf | dsimp only | split

theorem State.fence_keeps {s : State} (h : Keeps s0 s) (c : Nat) (n : Nat) : Keeps s0 (State.fence s c n) := by
  unfold State.fence
  repeat' first
    | with_reducible assumption | intro _ | with_reducible apply State.onCore_keeps | with_reducible apply State.setCell_keeps
    | with_reducible apply State.err_keeps | with_reducible apply State.storeLater_keeps | with_reducible apply ite_keeps
    | with_reducible apply foldl_keeps | with_reducible apply foldl_fst_keeps | with_reducible apply Cell.onCore_wf
    | with_reducible apply Cell.abandonTest_wf | with_reducible apply Cell.onRun_wf | with_reducible apply cell_wf
    | with_reducible apply wf_foldl | dsimp only | split | refine fst_keeps (by with_reducible assumption) ?_
    | refine snd_keeps (by with_reducible assumption) ?_ | with_reducible apply mk_keeps

theorem State.voidWrite_keeps {s : State} (h : Keeps s0 s) (c reason : Nat) (w : Write) : Keeps s0 (s.voidWrite c reason w) := by
  unfold State.voidWrite
  split
  · exact State.sendVoid_keeps h ..
  · exact h

theorem State.fenceNow_keeps {s : State} (h : Keeps s0 s) (c : Nat) (n : Nat) : Keeps s0 (State.fenceNow s c n) := by
  unfold State.fenceNow
  repeat' first
    | with_reducible assumption | intro _ | with_reducible apply State.cause_keeps | with_reducible apply State.voidWrite_keeps
    | with_reducible apply State.onCore_keeps | with_reducible apply State.fence_keeps | with_reducible apply foldl_keeps
    | with_reducible apply foldl_fst_keeps | with_reducible apply Cell.onCore_wf | with_reducible apply cell_wf
    | with_reducible apply wf_foldl | dsimp only | with_reducible apply mk_keeps

theorem State.rowOp_keeps {s : State} (h : Keeps s0 s) (v : OpEnv) (rep : Repeat) : Keeps s0 (State.rowOp s v rep) := by
  unfold State.rowOp
  repeat' first
    | with_reducible assumption | intro _ | with_reducible apply State.entryCheck_keeps | with_reducible apply State.startOp_keeps
    | with_reducible apply State.cause_keeps | with_reducible apply State.residue_keeps | with_reducible apply State.onCell_keeps
    | with_reducible apply State.onCore_keeps | with_reducible apply ite_keeps | with_reducible apply Cell.onCore_wf
    | with_reducible apply cell_wf | dsimp only | split | refine fst_keeps (by with_reducible assumption) ?_
    | refine snd_keeps (by with_reducible assumption) ?_ | with_reducible apply mk_keeps

theorem State.routeOp_keeps {s : State} (h : Keeps s0 s) (v : OpEnv) (rep : Repeat) : Keeps s0 (State.routeOp s v rep) := by
  unfold State.routeOp
  repeat' first
    | with_reducible assumption | intro _ | with_reducible apply State.entryCheck_keeps | with_reducible apply State.startOp_keeps
    | with_reducible apply State.residue_keeps | with_reducible apply State.onCell_keeps | with_reducible apply ite_keeps
    | with_reducible apply cell_wf | dsimp only | split | refine fst_keeps (by with_reducible assumption) ?_
    | refine snd_keeps (by with_reducible assumption) ?_ | with_reducible apply mk_keeps

theorem State.sampleLane_keeps {s : State} (h : Keeps s0 s) (v : OpEnv) (q : Nat) (agree : Option Bool) :
    Keeps s0 (State.sampleLane s v q agree).1 := by
  unfold State.sampleLane
  repeat' first
    | with_reducible assumption | intro _ | with_reducible apply State.repeatRec_keeps | with_reducible apply State.useRedo_keeps
    | with_reducible apply State.countFault_keeps | with_reducible apply ite_keeps | with_reducible apply ite_fst_keeps | dsimp only
    | split | refine fst_keeps (by with_reducible assumption) ?_ | refine snd_keeps (by with_reducible assumption) ?_
    | with_reducible apply mk_keeps

theorem State.sampleAll_keeps {s : State} (h : Keeps s0 s) (v : OpEnv) (lanes : List (Nat × Bool)) (poison : Bool) :
    Keeps s0 (State.sampleAll s v lanes poison).1 := by
  unfold State.sampleAll
  repeat' first
    | with_reducible assumption | intro _ | with_reducible apply State.sampleLane_keeps | with_reducible apply foldl_keeps
    | with_reducible apply foldl_fst_keeps | dsimp only | refine fst_keeps (by with_reducible assumption) ?_
    | refine snd_keeps (by with_reducible assumption) ?_ | with_reducible apply mk_keeps

theorem State.sampleOp_keeps {s : State} (h : Keeps s0 s) (v : OpEnv) (lanes : List (Nat × Bool)) :
    Keeps s0 (State.sampleOp s v lanes) := by
  unfold State.sampleOp
  repeat' first
    | with_reducible assumption | intro _ | with_reducible apply State.entryCheck_keeps | with_reducible apply State.startOp_keeps
    | with_reducible apply State.sampleAll_keeps | with_reducible apply ite_keeps | dsimp only | split
    | refine fst_keeps (by with_reducible assumption) ?_ | refine snd_keeps (by with_reducible assumption) ?_
    | with_reducible apply mk_keeps

theorem State.maskOp_keeps {s : State} (h : Keeps s0 s) (v : OpEnv) (rep : Repeat) : Keeps s0 (State.maskOp s v rep) := by
  unfold State.maskOp
  repeat' first
    | with_reducible assumption | intro _ | with_reducible apply State.residue_keeps | with_reducible apply State.startOp_keeps
    | with_reducible apply ite_keeps | dsimp only | split | refine fst_keeps (by with_reducible assumption) ?_
    | refine snd_keeps (by with_reducible assumption) ?_ | with_reducible apply mk_keeps

theorem State.signalAt_keeps {s : State} (h : Keeps s0 s) (c : Nat) (tenant : Nat) (group : Nat) (ctr : Nat) (add : Nat) :
    Keeps s0 (State.signalAt s c tenant group ctr add) := by
  unfold State.signalAt
  repeat' first
    | with_reducible assumption | intro _ | with_reducible apply State.err_keeps | with_reducible apply State.onCell_keeps
    | with_reducible apply State.cause_keeps | with_reducible apply ite_keeps | with_reducible apply Cell.setCore_wf
    | with_reducible apply Cell.release_wf | with_reducible apply cell_wf | dsimp only | split
    | refine fst_keeps (by with_reducible assumption) ?_ | refine snd_keeps (by with_reducible assumption) ?_
    | with_reducible apply mk_keeps

theorem State.syncArrive_keeps {s s1 : State} {m : SyncMsg} (e : s.syncArrive m = some s1) (h : Keeps s0 s) : Keeps s0 s1 := by
  unfold State.syncArrive at e
  dsimp only at e
  repeat' split at e
  all_goals first
    | (cases e; exact State.signalAt_keeps h ..)
    | (cases e; exact State.onCore_keeps h ..)
    | (cases e; exact State.err_keeps h ..)
    | cases e

theorem State.sendTile_keeps {s : State} (h : Keeps s0 s) (c : Nat) (idx : Nat) (dst : TileTo) (x : Slot) (whole : Bool) :
    Keeps s0 (State.sendTile s c idx dst x whole).1 := by
  unfold State.sendTile
  repeat' first
    | with_reducible assumption | intro _ | with_reducible apply State.send_keeps | with_reducible apply State.onCell_keeps
    | with_reducible apply ite_keeps | with_reducible apply ite_fst_keeps | with_reducible apply cell_wf | dsimp only | split
    | refine fst_keeps (by with_reducible assumption) ?_ | refine snd_keeps (by with_reducible assumption) ?_
    | with_reducible apply mk_keeps

theorem State.broadcastIn_keeps {s : State} (h : Keeps s0 s) (c tenant : Nat) (ident : BitVec 24) (seq : Nat) (x : Slot) :
    Keeps s0 (s.broadcastIn c tenant ident seq x).1 := by
  unfold State.broadcastIn
  extract_lets id
  split
  · exact h
  · refine ite_fst_keeps (State.tierWrite_keeps h ..) ?_
    extract_lets k
    split
    · exact State.tierWrite_keeps h ..
    · rename_i k1 e
      have hk : Inv s0 → Memory.wf k1.tiers.tiles = true := fun i => by
        split at e
        · cases e
          exact cell_wf h i c
        · exact Cell.makeRoom_wf e (cell_wf h i c)
      extract_lets k0 y e1 tile k2
      have h2 : Inv s0 → Memory.wf k2.tiers.tiles = true := fun i => Cell.touched_wf (hk i) ..
      clear_value k2
      refine ite_fst_keeps ?_ (State.setCell_keeps h _ h2)
      extract_lets
      split
      · exact State.noRoom_keeps h ..
      · rename_i g
        exact State.setCell_keeps h _ (fun i => Cell.writeTile_wf g (h2 i))

theorem State.figureBlock_keeps {s : State} (h : Keeps s0 s) (c : Nat) (x : Frame) : Keeps s0 (State.figureBlock s c x) := by
  unfold State.figureBlock
  repeat' first
    | with_reducible assumption | intro _ | with_reducible apply State.setCell_keeps | with_reducible apply ite_keeps
    | with_reducible apply cell_wf | dsimp only | split | refine fst_keeps (by with_reducible assumption) ?_
    | refine snd_keeps (by with_reducible assumption) ?_ | with_reducible apply mk_keeps

theorem State.badTile_keeps {s : State} (h : Keeps s0 s) (c : Nat) (x : Frame) : Keeps s0 (State.badTile s c x) := by
  unfold State.badTile
  repeat' first
    | with_reducible assumption | intro _ | with_reducible apply State.causeAt_keeps | with_reducible apply State.err_keeps
    | with_reducible apply State.voidBack_keeps | dsimp only | with_reducible apply mk_keeps

theorem State.frameArrive_keeps {s : State} (h : Keeps s0 s) (c : Nat) (x : Frame) : Keeps s0 (State.frameArrive s c x) := by
  unfold State.frameArrive
  repeat' first
    | with_reducible assumption | intro _ | refine State.syncArrive_keeps (by with_reducible assumption) ?_
    | with_reducible apply State.onCell_keeps | with_reducible apply cell_wf | dsimp only | split
    | refine fst_keeps (by with_reducible assumption) ?_ | refine snd_keeps (by with_reducible assumption) ?_
    | with_reducible apply mk_keeps

theorem State.frameSignal_keeps {s : State} (h : Keeps s0 s) (c : Nat) (x : Frame) : Keeps s0 (State.frameSignal s c x) := by
  unfold State.frameSignal
  repeat' first
    | with_reducible assumption | intro _ | with_reducible apply State.frameArrive_keeps | with_reducible apply ite_keeps | dsimp only
    | split | with_reducible apply mk_keeps

theorem State.tensorTile_keeps {s : State} (h : Keeps s0 s) (c : Nat) (x : Frame) (y : Slot) : Keeps s0 (State.tensorTile s c x y) := by
  unfold State.tensorTile
  repeat' first
    | with_reducible assumption | intro _ | with_reducible apply State.broadcastIn_keeps | with_reducible apply State.tierWrite_keeps
    | with_reducible apply State.frameSignal_keeps | with_reducible apply State.cause_keeps | with_reducible apply ite_keeps
    | dsimp only | split | refine fst_keeps (by with_reducible assumption) ?_ | refine snd_keeps (by with_reducible assumption) ?_
    | with_reducible apply mk_keeps

theorem State.moveRead_keeps {s s1 : State} {v : OpEnv} {busy : List Nat} {j : Nat} {x : Slot} (e :
    s.moveRead v busy j = some (s1, x)) (h : Keeps s0 s) :
    Keeps s0 s1 := by
  unfold State.moveRead at e
  dsimp only at e
  repeat' split at e
  all_goals first
    | (cases e; exact h)
    | exact State.tierRead_keeps e h
    | cases e

theorem State.moveReads_keeps {s : State} (h : Keeps s0 s) (v : OpEnv) (busy : List Nat) (n j : Nat) :
    Keeps s0 (s.moveReads v busy n j).1 := by
  induction n generalizing s j with
  | zero => exact h
  | succ n ih =>
    unfold State.moveReads
    split
    · exact h
    · rename_i e
      exact ih (State.moveRead_keeps e h) _

theorem State.freePages_keeps {s : State} (h : Keeps s0 s) (l : List Slot) : Keeps s0 (State.freePages s l).1 := by
  unfold State.freePages
  repeat' first
    | with_reducible assumption | intro _ | dsimp only | with_reducible apply mk_keeps

theorem State.grantParts_keeps {s : State} (h : Keeps s0 s) (c : Nat) (tenant : Nat) (ident : BitVec 24) (q : Nat) :
    Keeps s0 (State.grantParts s c tenant ident q) := by
  unfold State.grantParts
  repeat' first
    | with_reducible assumption | intro _ | with_reducible apply State.send_keeps | with_reducible apply ite_keeps
    | with_reducible apply foldl_keeps | with_reducible apply foldl_fst_keeps | dsimp only | split | with_reducible apply mk_keeps

theorem State.writeSum_keeps {s : State} (h : Keeps s0 s) (c : Nat) (x : RedNode) : Keeps s0 (State.writeSum s c x) := by
  unfold State.writeSum
  repeat' first
    | with_reducible assumption | intro _ | with_reducible apply State.setCell_keeps | with_reducible apply State.onCell_keeps
    | with_reducible apply State.onCore_keeps | with_reducible apply State.cause_keeps | with_reducible apply State.tierWrite_keeps
    | with_reducible apply State.grantParts_keeps | with_reducible apply ite_keeps | with_reducible apply Cell.markSat_wf
    | with_reducible apply Cell.onCore_wf | with_reducible apply cell_wf | dsimp only | split
    | refine fst_keeps (by with_reducible assumption) ?_ | refine snd_keeps (by with_reducible assumption) ?_
    | with_reducible apply mk_keeps

theorem State.partPiece_keeps {s : State} (h : Keeps s0 s) (c : Nat) (x : RedNode) (last : Bool) (again : Bool) :
    Keeps s0 (State.partPiece s c x last again) := by
  unfold State.partPiece
  repeat' first
    | with_reducible assumption | intro _ | with_reducible apply State.setCell_keeps | with_reducible apply State.writeSum_keeps
    | with_reducible apply State.noRoom_keeps | with_reducible apply State.cause_keeps | with_reducible apply ite_keeps
    | refine Cell.makeRoom_wf (by with_reducible assumption) ?_ | with_reducible apply cell_wf | dsimp only | split
    | refine fst_keeps (by with_reducible assumption) ?_ | refine snd_keeps (by with_reducible assumption) ?_
    | with_reducible apply mk_keeps

theorem State.partTile_keeps {s : State} (h : Keeps s0 s) (c : Nat) (p : RedNode) (x : Slot) (again : Bool) :
    Keeps s0 (State.partTile s c p x again) := by
  unfold State.partTile
  repeat' first
    | with_reducible assumption | intro _ | with_reducible apply State.cause_keeps | with_reducible apply State.partPiece_keeps
    | with_reducible apply ite_keeps | with_reducible apply foldl_keeps | with_reducible apply foldl_fst_keeps | dsimp only | split
    | refine fst_keeps (by with_reducible assumption) ?_ | refine snd_keeps (by with_reducible assumption) ?_
    | with_reducible apply mk_keeps

theorem State.takePart_keeps {s : State} (h : Keeps s0 s) (c : Nat) (p : RedNode) (x : Slot) (again : Bool) :
    Keeps s0 (State.takePart s c p x again) := by
  unfold State.takePart
  repeat' first
    | with_reducible assumption | intro _ | with_reducible apply State.partTile_keeps | with_reducible apply State.onCell_keeps
    | with_reducible apply ite_keeps | with_reducible apply cell_wf | dsimp only | split | with_reducible apply mk_keeps

theorem Cell.endSums_wf {k : Cell} (h : Memory.wf k.tiers.tiles = true) (t : Nat) : Memory.wf (Cell.endSums k t).tiers.tiles = true := by
  unfold Cell.endSums
  repeat' first
    | with_reducible assumption | intro _ | dsimp only

theorem State.badWrite_keeps {s : State} (h : Keeps s0 s) (c : Nat) (tenant : Nat) (core : Nat) (x : Slot) :
    Keeps s0 (State.badWrite s c tenant core x) := by
  unfold State.badWrite
  repeat' first
    | with_reducible assumption | intro _ | with_reducible apply State.cause_keeps | with_reducible apply State.err_keeps | dsimp only
    | with_reducible apply mk_keeps

theorem State.applyWrite_keeps {s : State} (h : Keeps s0 s) (c : Nat) (n : Nat) (tenant : Nat) (moved : Bool) (sig : Nat × Nat) (w : Write) :
    Keeps s0 (State.applyWrite s c n tenant moved sig w) := by
  unfold State.applyWrite
  repeat' first
    | with_reducible assumption | intro _ | with_reducible apply State.badWrite_keeps | with_reducible apply State.onCore_keeps
    | with_reducible apply State.tierWrite_keeps | with_reducible apply State.cause_keeps | with_reducible apply State.onCell_keeps
    | with_reducible apply State.sendTile_keeps | with_reducible apply State.takePart_keeps | with_reducible apply ite_keeps
    | with_reducible apply Cell.onCore_wf | with_reducible apply cell_wf | dsimp only | split
    | refine fst_keeps (by with_reducible assumption) ?_ | refine snd_keeps (by with_reducible assumption) ?_
    | with_reducible apply mk_keeps

theorem State.retryParts_keeps {s : State} (h : Keeps s0 s) (c : Nat) : Keeps s0 (State.retryParts s c) := by
  unfold State.retryParts
  repeat' first
    | with_reducible assumption | intro _ | with_reducible apply State.onCell_keeps | with_reducible apply State.applyWrite_keeps
    | with_reducible apply foldl_keeps | with_reducible apply foldl_fst_keeps | with_reducible apply cell_wf
    | with_reducible apply wf_foldl | dsimp only | with_reducible apply mk_keeps

theorem State.startMove_keeps {s : State} (h : Keeps s0 s) (v : OpEnv) (l : List Write) : Keeps s0 (State.startMove s v l) := by
  unfold State.startMove
  repeat' first
    | with_reducible assumption | intro _ | with_reducible apply State.applyWrite_keeps | with_reducible apply State.startOp_keeps
    | with_reducible apply State.onCore_keeps | with_reducible apply foldl_keeps | with_reducible apply foldl_fst_keeps
    | with_reducible apply Cell.onCore_wf | with_reducible apply cell_wf | with_reducible apply wf_foldl | dsimp only | split
    | refine fst_keeps (by with_reducible assumption) ?_ | refine snd_keeps (by with_reducible assumption) ?_
    | with_reducible apply mk_keeps

theorem State.transposeCheck_keeps {s : State} (h : Keeps s0 s) (v : OpEnv) (l : List Slot) : Keeps s0 (State.transposeCheck s v l).1 := by
  unfold State.transposeCheck
  repeat' first
    | with_reducible assumption | intro _ | with_reducible apply State.badWrite_keeps | with_reducible apply ite_keeps
    | with_reducible apply ite_fst_keeps | dsimp only | split | refine fst_keeps (by with_reducible assumption) ?_
    | refine snd_keeps (by with_reducible assumption) ?_ | with_reducible apply mk_keeps

theorem State.moveRest_keeps {s : State} (h : Keeps s0 s) (v : OpEnv) (l : List Slot) : Keeps s0 (State.moveRest s v l) := by
  unfold State.moveRest
  repeat' first
    | with_reducible assumption | intro _ | with_reducible apply State.transposeCheck_keeps | with_reducible apply State.freePages_keeps
    | with_reducible apply State.startOp_keeps | with_reducible apply State.startMove_keeps | with_reducible apply ite_keeps
    | dsimp only | split | refine fst_keeps (by with_reducible assumption) ?_ | refine snd_keeps (by with_reducible assumption) ?_
    | with_reducible apply mk_keeps

theorem State.remoteReads_keeps {s : State} (h : Keeps s0 s) (v : OpEnv) (n : Nat) (seat : Nat) (cell : Nat) :
    Keeps s0 (State.remoteReads s v n seat cell) := by
  unfold State.remoteReads
  repeat' first
    | with_reducible assumption | intro _ | with_reducible apply State.onCore_keeps | with_reducible apply State.send_keeps
    | with_reducible apply State.cause_keeps | with_reducible apply ite_keeps | with_reducible apply foldl_keeps
    | with_reducible apply foldl_fst_keeps | with_reducible apply Cell.onCore_wf | with_reducible apply cell_wf
    | with_reducible apply wf_foldl | dsimp only | split | refine fst_keeps (by with_reducible assumption) ?_
    | refine snd_keeps (by with_reducible assumption) ?_ | with_reducible apply mk_keeps

theorem State.readResponse_keeps {s : State} (h : Keeps s0 s) (c : Nat) (num : Nat) (y : Slot) :
    Keeps s0 (State.readResponse s c num y) := by
  unfold State.readResponse
  repeat' first
    | with_reducible assumption | intro _ | with_reducible apply State.onCore_keeps | with_reducible apply State.moveRest_keeps
    | with_reducible apply Cell.onCore_wf | with_reducible apply cell_wf | dsimp only | split
    | refine fst_keeps (by with_reducible assumption) ?_ | refine snd_keeps (by with_reducible assumption) ?_
    | with_reducible apply mk_keeps

theorem State.moveOp_keeps {s : State} (h : Keeps s0 s) (v : OpEnv) : Keeps s0 (s.moveOp v) := by
  unfold State.moveOp
  extract_lets k n
  refine ite_keeps (State.startOp_keeps (State.cause_keeps h ..) ..) ?_
  split
  · exact State.remoteReads_keeps h ..
  · split
    rename_i e
    have h0 := fst_keeps e (ite_fst_keeps (State.entryCheck_keeps h ..) h)
    split
    rename_i e
    have h1 := fst_keeps e (State.moveReads_keeps (State.tierServed_keeps h0 ..) ..)
    exact ite_keeps (State.startOp_keeps h0 ..) (ite_keeps (State.startOp_keeps (State.cause_keeps h1 ..) ..) (State.moveRest_keeps h1 ..))

theorem State.takeTile_keeps {s : State} (h : Keeps s0 s) (c : Nat) (x : Frame) : Keeps s0 (State.takeTile s c x) := by
  unfold State.takeTile
  repeat' first
    | with_reducible assumption | intro _ | with_reducible apply State.badTile_keeps | with_reducible apply State.tensorTile_keeps
    | with_reducible apply State.figureBlock_keeps | with_reducible apply State.takePart_keeps
    | with_reducible apply State.retryParts_keeps | with_reducible apply State.readResponse_keeps | with_reducible apply ite_keeps
    | dsimp only | split | refine fst_keeps (by with_reducible assumption) ?_ | refine snd_keeps (by with_reducible assumption) ?_
    | with_reducible apply mk_keeps

theorem State.takeRead_keeps {s : State} (h : Keeps s0 s) (c : Nat) (x : Frame) : Keeps s0 (State.takeRead s c x) := by
  unfold State.takeRead
  repeat' first
    | with_reducible assumption | intro _ | refine State.tierRead_keeps (by with_reducible assumption) ?_
    | with_reducible apply State.voidBack_keeps | with_reducible apply State.sendTile_keeps | dsimp only | split
    | refine fst_keeps (by with_reducible assumption) ?_ | refine snd_keeps (by with_reducible assumption) ?_
    | with_reducible apply mk_keeps

theorem State.retryOvf_keeps {s : State} (h : Keeps s0 s) (c : Nat) (l : List Frame) : Keeps s0 (s.retryOvf c l).1 := by
  induction l generalizing s with
  | nil => exact h
  | cons a l ih =>
    unfold State.retryOvf
    split
    · rename_i e
      exact ih (State.syncArrive_keeps e h)
    · exact ih h

theorem State.elementOp_keeps {s : State} (h : Keeps s0 s) (v : OpEnv) : Keeps s0 (State.elementOp s v) := by
  unfold State.elementOp
  repeat' first
    | with_reducible assumption | intro _ | with_reducible apply State.entryCheck_keeps | with_reducible apply State.startOp_keeps
    | with_reducible apply State.cause_keeps | with_reducible apply ite_keeps | dsimp only | split
    | refine fst_keeps (by with_reducible assumption) ?_ | refine snd_keeps (by with_reducible assumption) ?_
    | with_reducible apply mk_keeps

theorem State.partRead_keeps {s s1 : State} {v : OpEnv} {j : Nat} {x : Slot} (e : s.partRead v j = some (s1, x)) (h : Keeps s0 s) :
    Keeps s0 s1 := by
  unfold State.partRead at e
  dsimp only at e
  split at e
  all_goals first
    | (cases e; exact h)
    | exact State.tierRead_keeps e h
    | cases e

theorem State.partReads_keeps {s : State} (h : Keeps s0 s) (v : OpEnv) (n j : Nat) : Keeps s0 (s.partReads v n j).1 := by
  induction n generalizing s j with
  | zero => exact h
  | succ n ih =>
    unfold State.partReads
    split
    · exact h
    · rename_i e
      exact ih (State.partRead_keeps e h) _

theorem State.reduceOp_keeps {s : State} (h : Keeps s0 s) (v : OpEnv) : Keeps s0 (State.reduceOp s v) := by
  unfold State.reduceOp
  repeat' first
    | with_reducible assumption | intro _ | with_reducible apply State.entryCheck_keeps | with_reducible apply State.tierServed_keeps
    | with_reducible apply State.partReads_keeps | with_reducible apply State.startOp_keeps | with_reducible apply State.cause_keeps
    | with_reducible apply State.badWrite_keeps | with_reducible apply ite_keeps | dsimp only | split
    | refine fst_keeps (by with_reducible assumption) ?_ | refine snd_keeps (by with_reducible assumption) ?_
    | with_reducible apply mk_keeps

theorem Cell.nameLayer_wf {k : Cell} (h : Memory.wf k.tiers.tiles = true) (x : Named) :
    Memory.wf (Cell.nameLayer k x).tiers.tiles = true := by
  unfold Cell.nameLayer
  repeat' first
    | with_reducible assumption | intro _ | dsimp only | split

theorem State.updateOp_keeps {s : State} (h : Keeps s0 s) (v : OpEnv) : Keeps s0 (State.updateOp s v) := by
  unfold State.updateOp
  repeat' first
    | with_reducible assumption | intro _ | with_reducible apply State.onCell_keeps | with_reducible apply State.startOp_keeps
    | with_reducible apply Cell.nameLayer_wf | with_reducible apply cell_wf | dsimp only | split
    | refine fst_keeps (by with_reducible assumption) ?_ | refine snd_keeps (by with_reducible assumption) ?_
    | with_reducible apply mk_keeps

theorem State.pokeTile_keeps {s : State} (h : Keeps s0 s) (c : Nat) (tenant : Nat) (ident : BitVec 24) (i : Nat) (off : Nat) (n : Nat) (data : Nat) :
    Keeps s0 (State.pokeTile s c tenant ident i off n data).1 := by
  unfold State.pokeTile
  repeat' first
    | with_reducible assumption | intro _ | with_reducible apply State.tierWrite_keeps | with_reducible apply ite_keeps
    | with_reducible apply ite_fst_keeps | dsimp only | split | refine fst_keeps (by with_reducible assumption) ?_
    | refine snd_keeps (by with_reducible assumption) ?_ | with_reducible apply mk_keeps

theorem State.pokeFrom_keeps {s : State} (h : Keeps s0 s) (fuel c tenant : Nat) (ident : BitVec 24) (off n data : Nat) :
    Keeps s0 (State.pokeFrom fuel s c tenant ident off n data).1 := by
  induction fuel generalizing s off n data with
  | zero => exact h
  | succ fuel ih =>
    unfold State.pokeFrom
    split
    · exact h
    · exact ih (State.pokeTile_keeps h ..) ..

theorem State.poke_keeps {s : State} (h : Keeps s0 s) (c : Nat) (tenant : Nat) (ident : Nat) (off : Nat) (n : Nat) (data : Nat) :
    Keeps s0 (State.poke s c tenant ident off n data).1 := by
  unfold State.poke
  repeat' first
    | with_reducible assumption | intro _ | with_reducible apply State.pokeFrom_keeps | dsimp only | with_reducible apply mk_keeps

theorem State.pokeWords_keeps {s : State} (h : Keeps s0 s) (c : Nat) (tenant : Nat) (ident : Nat) (e : Nat) (ws : List Nat) :
    Keeps s0 (State.pokeWords s c tenant ident e ws).1 := by
  unfold State.pokeWords
  repeat' first
    | with_reducible assumption | intro _ | with_reducible apply State.poke_keeps | dsimp only | with_reducible apply mk_keeps

end Sys2Proof.Machine
end

