-- ==== Sys2Proof/Laws/KeepsUpdate.lean ====
section
/-!
SUPPORT. What each operation of the U-dies and the learning steps does to the frame of a run (Keeps): one law per operation.
-/

namespace Sys2Proof.Machine

variable {s0 s : State}

theorem State.putTile_keeps {s : State} (h : Keeps s0 s) (c : Nat) (tenant : Nat) (ident : BitVec 24) (i : Nat) (l : List (Nat × Nat)) :
    Keeps s0 (State.putTile s c tenant ident i l).1 := by
  unfold State.putTile
  repeat' first
    | with_reducible assumption | intro _ | with_reducible apply State.tierPut_keeps | with_reducible apply ite_keeps
    | with_reducible apply ite_fst_keeps | dsimp only | split | refine fst_keeps (by with_reducible assumption) ?_
    | refine snd_keeps (by with_reducible assumption) ?_ | with_reducible apply mk_keeps

theorem State.putElems_keeps {s : State} (h : Keeps s0 s) (c : Nat) (tenant : Nat) (ident : BitVec 24) (per : Nat) (l : List (Nat × Nat)) :
    Keeps s0 (State.putElems s c tenant ident per l).1 := by
  unfold State.putElems
  repeat' first
    | with_reducible assumption | intro _ | with_reducible apply State.putTile_keeps | with_reducible apply foldl_keeps
    | with_reducible apply foldl_fst_keeps | dsimp only | refine fst_keeps (by with_reducible assumption) ?_
    | refine snd_keeps (by with_reducible assumption) ?_ | with_reducible apply mk_keeps

theorem Cell.dealTenant_wf {k : Cell} (h : Memory.wf k.tiers.tiles = true) (t : Nat) :
    Memory.wf (Cell.dealTenant k t).tiers.tiles = true := by
  unfold Cell.dealTenant
  repeat' first
    | with_reducible assumption | intro _ | with_reducible apply Cell.onRun_wf | with_reducible apply Cell.onCore_wf
    | with_reducible apply wf_foldl | dsimp only | split

theorem Cell.takeImages_wf {k : Cell} (h : Memory.wf k.tiers.tiles = true)  : Memory.wf (Cell.takeImages k).tiers.tiles = true := by
  unfold Cell.takeImages
  repeat' first
    | with_reducible assumption | intro _ | with_reducible apply Cell.onRun_wf | with_reducible apply Cell.dealTenant_wf
    | with_reducible apply wf_foldl | dsimp only | split

theorem State.returnCores_keeps {s : State} (h : Keeps s0 s) (c : Nat) : Keeps s0 (State.returnCores s c) := by
  unfold State.returnCores
  repeat' first
    | with_reducible assumption | intro _ | with_reducible apply State.onCell_keeps | with_reducible apply State.onCore_keeps
    | with_reducible apply ite_keeps | with_reducible apply foldl_keeps | with_reducible apply foldl_fst_keeps
    | with_reducible apply Cell.onCore_wf | with_reducible apply Cell.onRun_wf | with_reducible apply cell_wf
    | with_reducible apply wf_foldl | dsimp only | split | with_reducible apply mk_keeps

theorem State.fillTile_keeps {s : State} (h : Keeps s0 s) (c : Nat) (tenant : Nat) (ident : BitVec 24) (i : Nat) (p : Payload) (poison : Bool) :
    Keeps s0 (State.fillTile s c tenant ident i p poison) := by
  unfold State.fillTile
  repeat' first
    | with_reducible assumption | intro _ | with_reducible apply State.tierPut_keeps | dsimp only | with_reducible apply mk_keeps

theorem State.zeroTensor_keeps {s : State} (h : Keeps s0 s) (c : Nat) (tenant : Nat) (ident : BitVec 24) :
    Keeps s0 (State.zeroTensor s c tenant ident) := by
  unfold State.zeroTensor
  repeat' first
    | with_reducible assumption | intro _ | with_reducible apply State.fillTile_keeps | with_reducible apply foldl_keeps
    | with_reducible apply foldl_fst_keeps | dsimp only | split | refine fst_keeps (by with_reducible assumption) ?_
    | refine snd_keeps (by with_reducible assumption) ?_ | with_reducible apply mk_keeps

theorem State.copyTensor_keeps {s : State} (h : Keeps s0 s) (c : Nat) (tenant : Nat) (src : Nat) (dst : BitVec 24) :
    Keeps s0 (State.copyTensor s c tenant src dst) := by
  unfold State.copyTensor
  repeat' first
    | with_reducible assumption | intro _ | with_reducible apply State.fillTile_keeps | with_reducible apply foldl_keeps
    | with_reducible apply foldl_fst_keeps | dsimp only | split | refine fst_keeps (by with_reducible assumption) ?_
    | refine snd_keeps (by with_reducible assumption) ?_ | with_reducible apply mk_keeps

theorem State.rebuildMaster_keeps {s : State} (h : Keeps s0 s) (c : Nat) (b : Binding) : Keeps s0 (State.rebuildMaster s c b) := by
  unfold State.rebuildMaster
  repeat' first
    | with_reducible assumption | intro _ | with_reducible apply State.fillTile_keeps | with_reducible apply foldl_keeps
    | with_reducible apply foldl_fst_keeps | dsimp only | split | refine fst_keeps (by with_reducible assumption) ?_
    | refine snd_keeps (by with_reducible assumption) ?_ | with_reducible apply mk_keeps

theorem State.repairNow_keeps {s : State} (h : Keeps s0 s) (c : Nat) (e : Entry) : Keeps s0 (State.repairNow s c e) := by
  unfold State.repairNow
  repeat' first
    | with_reducible assumption | intro _ | with_reducible apply State.copyTensor_keeps | with_reducible apply State.zeroTensor_keeps
    | with_reducible apply State.rebuildMaster_keeps | with_reducible apply State.onCell_keeps | with_reducible apply ite_keeps
    | with_reducible apply foldl_keeps | with_reducible apply foldl_fst_keeps | with_reducible apply cell_wf
    | with_reducible apply wf_foldl | dsimp only | split | refine fst_keeps (by with_reducible assumption) ?_
    | refine snd_keeps (by with_reducible assumption) ?_ | with_reducible apply mk_keeps

theorem State.udBoundary_keeps {s : State} (h : Keeps s0 s) (c : Nat) : Keeps s0 (State.udBoundary s c) := by
  unfold State.udBoundary
  repeat' first
    | with_reducible assumption | intro _ | with_reducible apply State.repairNow_keeps | with_reducible apply State.onCell_keeps
    | with_reducible apply ite_keeps | with_reducible apply foldl_keeps | with_reducible apply foldl_fst_keeps
    | with_reducible apply cell_wf | with_reducible apply wf_foldl | dsimp only | split | with_reducible apply mk_keeps

theorem State.takeWrites_keeps {s : State} (h : Keeps s0 s) (c : Nat) : Keeps s0 (State.takeWrites s c) := by
  unfold State.takeWrites
  repeat' first
    | with_reducible assumption | intro _ | with_reducible apply State.pokeWords_keeps | with_reducible apply State.complete_keeps
    | with_reducible apply State.onCell_keeps | with_reducible apply ite_keeps | with_reducible apply foldl_keeps
    | with_reducible apply foldl_fst_keeps | with_reducible apply cell_wf | with_reducible apply wf_foldl | dsimp only | split
    | refine fst_keeps (by with_reducible assumption) ?_ | refine snd_keeps (by with_reducible assumption) ?_
    | with_reducible apply mk_keeps

theorem State.coordinate_keeps {s : State} (h : Keeps s0 s)  : Keeps s0 (State.coordinate s) := by
  unfold State.coordinate
  repeat' first
    | with_reducible assumption | intro _ | with_reducible apply State.onCell_keeps | with_reducible apply ite_keeps
    | with_reducible apply foldl_keeps | with_reducible apply foldl_fst_keeps | with_reducible apply cell_wf
    | with_reducible apply wf_foldl | dsimp only | split | with_reducible apply mk_keeps

theorem Cell.takeShare_wf {k : Cell} (h : Memory.wf k.tiers.tiles = true) (lost : Bool) :
    Memory.wf (Cell.takeShare k lost).tiers.tiles = true := by
  unfold Cell.takeShare
  repeat' first
    | with_reducible assumption | intro _ | dsimp only | split

theorem Cell.fwNow_wf {k : Cell} (h : Memory.wf k.tiers.tiles = true) (from_ : Option Nat) (now : Nat) :
    Memory.wf (Cell.fwNow k from_ now).tiers.tiles = true := by
  unfold Cell.fwNow
  repeat' first
    | with_reducible assumption | intro _ | dsimp only | split

theorem State.boundary_keeps {s : State} (h : Keeps s0 s) (c : Nat) : Keeps s0 (State.boundary s c) := by
  unfold State.boundary
  repeat' first
    | with_reducible assumption | intro _ | with_reducible apply State.onCell_keeps | with_reducible apply State.fence_keeps
    | with_reducible apply State.returnCores_keeps | with_reducible apply State.udBoundary_keeps
    | with_reducible apply State.takeWrites_keeps | with_reducible apply State.coordinate_keeps
    | with_reducible apply State.takeLevel_keeps | with_reducible apply foldl_keeps | with_reducible apply foldl_fst_keeps
    | with_reducible apply Cell.freeDue_wf | with_reducible apply Cell.takeImages_wf | with_reducible apply Cell.takeShare_wf
    | with_reducible apply Cell.fwNow_wf | with_reducible apply cell_wf | with_reducible apply wf_foldl | dsimp only
    | with_reducible apply mk_keeps

theorem State.boundarySoon_keeps {s : State} (h : Keeps s0 s) (c : Nat) : Keeps s0 (State.boundarySoon s c) := by
  unfold State.boundarySoon
  repeat' first
    | with_reducible assumption | intro _ | with_reducible apply State.boundary_keeps | with_reducible apply ite_keeps | dsimp only
    | split | with_reducible apply mk_keeps

theorem State.bindDo_keeps {s : State} (h : Keeps s0 s) (c : Nat) (src : Source) (e : Entry) : Keeps s0 (State.bindDo s c src e).1 := by
  unfold State.bindDo
  repeat' first
    | with_reducible assumption | intro _ | with_reducible apply State.setCell_keeps | with_reducible apply ite_keeps
    | with_reducible apply ite_fst_keeps | with_reducible apply cell_wf | dsimp only | split | with_reducible apply mk_keeps

theorem State.doBind_keeps {s : State} (h : Keeps s0 s) (c : Nat) (src : Source) (e : Entry) : Keeps s0 (State.doBind s c src e) := by
  unfold State.doBind
  repeat' first
    | with_reducible assumption | intro _ | with_reducible apply State.bindDo_keeps | with_reducible apply State.complete_keeps
    | dsimp only | refine fst_keeps (by with_reducible assumption) ?_ | refine snd_keeps (by with_reducible assumption) ?_
    | with_reducible apply mk_keeps

theorem State.ruleLoadDo_keeps {s : State} (h : Keeps s0 s) (c : Nat) (src : Source) (e : Entry) :
    Keeps s0 (State.ruleLoadDo s c src e).1 := by
  unfold State.ruleLoadDo
  repeat' first
    | with_reducible assumption | intro _ | with_reducible apply State.setCell_keeps | with_reducible apply ite_keeps
    | with_reducible apply ite_fst_keeps | with_reducible apply cell_wf | dsimp only | split
    | refine fst_keeps (by with_reducible assumption) ?_ | refine snd_keeps (by with_reducible assumption) ?_
    | with_reducible apply mk_keeps

theorem State.doRuleLoad_keeps {s : State} (h : Keeps s0 s) (c : Nat) (src : Source) (e : Entry) :
    Keeps s0 (State.doRuleLoad s c src e) := by
  unfold State.doRuleLoad
  repeat' first
    | with_reducible assumption | intro _ | with_reducible apply State.ruleLoadDo_keeps | with_reducible apply State.complete_keeps
    | dsimp only | refine fst_keeps (by with_reducible assumption) ?_ | refine snd_keeps (by with_reducible assumption) ?_
    | with_reducible apply mk_keeps

theorem State.modeDo_keeps {s : State} (h : Keeps s0 s) (c : Nat) (src : Source) (e : Entry) : Keeps s0 (State.modeDo s c src e).1 := by
  unfold State.modeDo
  repeat' first
    | with_reducible assumption | intro _ | with_reducible apply State.onCell_keeps | with_reducible apply State.boundarySoon_keeps
    | with_reducible apply ite_keeps | with_reducible apply ite_fst_keeps | with_reducible apply cell_wf | dsimp only | split
    | refine fst_keeps (by with_reducible assumption) ?_ | refine snd_keeps (by with_reducible assumption) ?_
    | with_reducible apply mk_keeps

theorem State.doMode_keeps {s : State} (h : Keeps s0 s) (c : Nat) (src : Source) (e : Entry) : Keeps s0 (State.doMode s c src e) := by
  unfold State.doMode
  repeat' first
    | with_reducible assumption | intro _ | with_reducible apply State.modeDo_keeps | with_reducible apply State.complete_keeps
    | dsimp only | refine fst_keeps (by with_reducible assumption) ?_ | refine snd_keeps (by with_reducible assumption) ?_
    | with_reducible apply mk_keeps

theorem State.repairDo_keeps {s : State} (h : Keeps s0 s) (c : Nat) (src : Source) (e : Entry) : Keeps s0 (State.repairDo s c src e).1 := by
  unfold State.repairDo
  repeat' first
    | with_reducible assumption | intro _ | with_reducible apply State.onCell_keeps | with_reducible apply State.boundarySoon_keeps
    | with_reducible apply ite_keeps | with_reducible apply ite_fst_keeps | with_reducible apply cell_wf | dsimp only | split
    | refine fst_keeps (by with_reducible assumption) ?_ | refine snd_keeps (by with_reducible assumption) ?_
    | with_reducible apply mk_keeps

theorem State.doRepair_keeps {s : State} (h : Keeps s0 s) (c : Nat) (src : Source) (e : Entry) : Keeps s0 (State.doRepair s c src e) := by
  unfold State.doRepair
  repeat' first
    | with_reducible assumption | intro _ | with_reducible apply State.repairDo_keeps | with_reducible apply State.complete_keeps
    | dsimp only | refine fst_keeps (by with_reducible assumption) ?_ | refine snd_keeps (by with_reducible assumption) ?_
    | with_reducible apply mk_keeps

theorem Cell.setSnap_wf {k : Cell} (h : Memory.wf k.tiers.tiles = true) (tenant : Nat) (x : Option Snap) :
    Memory.wf (Cell.setSnap k tenant x).tiers.tiles = true := by
  unfold Cell.setSnap
  repeat' first
    | with_reducible assumption | intro _ | dsimp only

theorem State.snapshotDo_keeps {s : State} (h : Keeps s0 s) (c : Nat) (src : Source) (e : Entry) :
    Keeps s0 (State.snapshotDo s c src e).1 := by
  unfold State.snapshotDo
  repeat' first
    | with_reducible assumption | intro _ | with_reducible apply State.setCell_keeps | with_reducible apply ite_keeps
    | with_reducible apply ite_fst_keeps | with_reducible apply Cell.addTensor_wf | with_reducible apply Cell.setSnap_wf
    | with_reducible apply cell_wf | dsimp only | split | with_reducible apply mk_keeps

theorem State.doSnapshot_keeps {s : State} (h : Keeps s0 s) (c : Nat) (src : Source) (e : Entry) :
    Keeps s0 (State.doSnapshot s c src e) := by
  unfold State.doSnapshot
  repeat' first
    | with_reducible assumption | intro _ | with_reducible apply State.snapshotDo_keeps | with_reducible apply State.complete_keeps
    | dsimp only | split | refine fst_keeps (by with_reducible assumption) ?_ | refine snd_keeps (by with_reducible assumption) ?_
    | with_reducible apply mk_keeps

theorem State.takeSnapshot_keeps {s : State} (h : Keeps s0 s) (c : Nat) (tenant : Nat) (ver : BitVec 16) :
    Keeps s0 (State.takeSnapshot s c tenant ver) := by
  unfold State.takeSnapshot
  repeat' first
    | with_reducible assumption | intro _ | with_reducible apply State.taken_keeps | with_reducible apply State.fillTile_keeps
    | with_reducible apply State.onCell_keeps | with_reducible apply ite_keeps | with_reducible apply foldl_keeps
    | with_reducible apply foldl_fst_keeps | with_reducible apply Cell.setSnap_wf | with_reducible apply cell_wf
    | with_reducible apply wf_foldl | dsimp only | split | refine fst_keeps (by with_reducible assumption) ?_
    | refine snd_keeps (by with_reducible assumption) ?_ | with_reducible apply mk_keeps

theorem State.sendSnapTile_keeps {s : State} (h : Keeps s0 s) (c : Nat) (tenant : Nat) (x : Snap) (i : Nat) (p : Payload) :
    Keeps s0 (State.sendSnapTile s c tenant x i p) := by
  unfold State.sendSnapTile
  repeat' first
    | with_reducible assumption | intro _ | with_reducible apply State.sendTile_keeps | with_reducible apply ite_keeps | dsimp only
    | split | with_reducible apply mk_keeps

theorem State.sendShards_keeps {s : State} (h : Keeps s0 s) (c : Nat) (tenant : Nat) (x : Snap) (n : Nat) :
    Keeps s0 (State.sendShards s c tenant x n) := by
  unfold State.sendShards
  repeat' first
    | with_reducible assumption | intro _ | with_reducible apply State.emit_keeps | with_reducible apply State.sendSnapTile_keeps
    | with_reducible apply ite_keeps | with_reducible apply foldl_keeps | with_reducible apply foldl_fst_keeps | dsimp only | split
    | with_reducible apply mk_keeps

theorem State.sendManifest_keeps {s : State} (h : Keeps s0 s) (c : Nat) (tenant : Nat) (x : Snap) :
    Keeps s0 (State.sendManifest s c tenant x) := by
  unfold State.sendManifest
  repeat' first
    | with_reducible assumption | intro _ | with_reducible apply State.emit_keeps | with_reducible apply State.sendSnapTile_keeps
    | with_reducible apply ite_keeps | with_reducible apply foldl_keeps | with_reducible apply foldl_fst_keeps | dsimp only | split
    | refine fst_keeps (by with_reducible assumption) ?_ | refine snd_keeps (by with_reducible assumption) ?_
    | with_reducible apply mk_keeps

theorem State.deliveredTiles_keeps {s : State} (h : Keeps s0 s) (c : Nat) (tenant : Nat) (x : Snap) (linkOk : Bool) :
    Keeps s0 (State.deliveredTiles s c tenant x linkOk).1 := by
  unfold State.deliveredTiles
  repeat' first
    | with_reducible assumption | intro _ | with_reducible apply State.takeFree_keeps | with_reducible apply ite_keeps
    | with_reducible apply ite_fst_keeps | dsimp only | split | refine fst_keeps (by with_reducible assumption) ?_
    | refine snd_keeps (by with_reducible assumption) ?_ | with_reducible apply mk_keeps

theorem State.endSnapshot_keeps {s : State} (h : Keeps s0 s) (c : Nat) (tenant : Nat) (linkOk : Bool) :
    Keeps s0 (State.endSnapshot s c tenant linkOk) := by
  unfold State.endSnapshot
  repeat' first
    | with_reducible assumption | intro _ | with_reducible apply State.taken_keeps | with_reducible apply State.deliveredTiles_keeps
    | with_reducible apply State.sendShards_keeps | with_reducible apply State.sendManifest_keeps | with_reducible apply State.err_keeps
    | with_reducible apply State.onCell_keeps | with_reducible apply State.complete_keeps | with_reducible apply ite_keeps
    | with_reducible apply Cell.dropTensor_wf | with_reducible apply Cell.setSnap_wf | with_reducible apply cell_wf | dsimp only | split
    | refine fst_keeps (by with_reducible assumption) ?_ | refine snd_keeps (by with_reducible assumption) ?_
    | with_reducible apply mk_keeps

theorem State.ratioEvent_keeps {s : State} (h : Keeps s0 s) (c : Nat) (tenant : Nat) (x : RepEntry) :
    Keeps s0 (State.ratioEvent s c tenant x) := by
  unfold State.ratioEvent
  repeat' first
    | with_reducible assumption | intro _ | with_reducible apply State.err_keeps | with_reducible apply State.onCell_keeps
    | with_reducible apply State.onCore_keeps | with_reducible apply ite_keeps | with_reducible apply foldl_keeps
    | with_reducible apply foldl_fst_keeps | with_reducible apply Cell.onCore_wf | with_reducible apply cell_wf
    | with_reducible apply wf_foldl | dsimp only | split | with_reducible apply mk_keeps

theorem State.addEntry_keeps {s : State} (h : Keeps s0 s) (c : Nat) (x : RepEntry) : Keeps s0 (State.addEntry s c x) := by
  unfold State.addEntry
  repeat' first
    | with_reducible assumption | intro _ | with_reducible apply State.onCell_keeps | with_reducible apply cell_wf | dsimp only
    | with_reducible apply mk_keeps

theorem State.trapRecord_keeps {s : State} (h : Keeps s0 s) (c : Nat) (tenant : Nat) (x : RepEntry) :
    Keeps s0 (State.trapRecord s c tenant x) := by
  unfold State.trapRecord
  repeat' first
    | with_reducible assumption | intro _ | with_reducible apply State.err_keeps | with_reducible apply ite_keeps | dsimp only | split
    | with_reducible apply mk_keeps

theorem State.ratioLayer_keeps {s : State} (h : Keeps s0 s) (c : Nat) (x : Named) : Keeps s0 (State.ratioLayer s c x) := by
  unfold State.ratioLayer
  repeat' first
    | with_reducible assumption | intro _ | with_reducible apply State.holdLayers_keeps | with_reducible apply State.addEntry_keeps
    | with_reducible apply State.ratioEvent_keeps | with_reducible apply State.trapRecord_keeps | with_reducible apply ite_keeps
    | dsimp only | split | refine fst_keeps (by with_reducible assumption) ?_ | refine snd_keeps (by with_reducible assumption) ?_
    | with_reducible apply mk_keeps

theorem State.ratioAll_keeps {s : State} (h : Keeps s0 s) (c : Nat) (tenant : Nat) : Keeps s0 (State.ratioAll s c tenant) := by
  unfold State.ratioAll
  repeat' first
    | with_reducible assumption | intro _ | with_reducible apply State.ratioLayer_keeps | with_reducible apply State.onCell_keeps
    | with_reducible apply foldl_keeps | with_reducible apply foldl_fst_keeps | with_reducible apply Cell.onLrn_wf
    | with_reducible apply cell_wf | with_reducible apply wf_foldl | dsimp only | with_reducible apply mk_keeps

theorem State.writeLayer_keeps {s : State} (h : Keeps s0 s) (c : Nat) (v : LayerEnv) (o : LayerOut) :
    Keeps s0 (State.writeLayer s c v o) := by
  unfold State.writeLayer
  repeat' first
    | with_reducible assumption | intro _ | with_reducible apply State.putElems_keeps | with_reducible apply ite_keeps
    | with_reducible apply foldl_keeps | with_reducible apply foldl_fst_keeps | dsimp only | split | with_reducible apply mk_keeps

theorem State.broadcastLayer_keeps {s : State} (h : Keeps s0 s) (c : Nat) (v : LayerEnv) (ver : BitVec 16) :
    Keeps s0 (State.broadcastLayer s c v ver) := by
  unfold State.broadcastLayer
  repeat' first
    | with_reducible assumption | intro _ | with_reducible apply State.sendTile_keeps | with_reducible apply ite_keeps
    | with_reducible apply foldl_keeps | with_reducible apply foldl_fst_keeps | dsimp only | split
    | refine fst_keeps (by with_reducible assumption) ?_ | refine snd_keeps (by with_reducible assumption) ?_
    | with_reducible apply mk_keeps

theorem State.applyLayer_keeps {s : State} (h : Keeps s0 s) (c : Nat) (faults : List PassFault) (ver : BitVec 16) (x : Named) :
    Keeps s0 (State.applyLayer s c faults ver x) := by
  unfold State.applyLayer
  repeat' first
    | with_reducible assumption | intro _ | with_reducible apply State.holdLayers_keeps | with_reducible apply State.addEntry_keeps
    | with_reducible apply State.ratioEvent_keeps | with_reducible apply State.trapRecord_keeps
    | with_reducible apply State.writeLayer_keeps | with_reducible apply State.broadcastLayer_keeps | with_reducible apply ite_keeps
    | dsimp only | split | refine fst_keeps (by with_reducible assumption) ?_ | refine snd_keeps (by with_reducible assumption) ?_
    | with_reducible apply mk_keeps

theorem State.passFault_keeps {s : State} (h : Keeps s0 s) (c : Nat) (tenant : Nat) (f : PassFault) :
    Keeps s0 (State.passFault s c tenant f) := by
  unfold State.passFault
  repeat' first
    | with_reducible assumption | intro _ | with_reducible apply State.err_keeps | with_reducible apply State.onCell_keeps
    | with_reducible apply ite_keeps | with_reducible apply cell_wf | dsimp only | split
    | refine fst_keeps (by with_reducible assumption) ?_ | refine snd_keeps (by with_reducible assumption) ?_
    | with_reducible apply mk_keeps

theorem State.applyAll_keeps {s : State} (h : Keeps s0 s) (c : Nat) (tenant : Nat) (faults : List PassFault) :
    Keeps s0 (State.applyAll s c tenant faults) := by
  unfold State.applyAll
  repeat' first
    | with_reducible assumption | intro _ | with_reducible apply State.passFault_keeps | with_reducible apply State.applyLayer_keeps
    | with_reducible apply State.takeSnapshot_keeps | with_reducible apply State.onCell_keeps | with_reducible apply foldl_keeps
    | with_reducible apply foldl_fst_keeps | with_reducible apply Cell.onLrn_wf | with_reducible apply cell_wf
    | with_reducible apply wf_foldl | dsimp only | with_reducible apply mk_keeps

theorem State.doubtVoids_keeps {s : State} (h : Keeps s0 s) (c : Nat) (codes : List Nat) (inside : Nat → Nat → Bool) :
    Keeps s0 (State.doubtVoids s c codes inside) := by
  unfold State.doubtVoids
  repeat' first
    | with_reducible assumption | intro _ | with_reducible apply State.sendVoid_keeps | with_reducible apply ite_keeps
    | with_reducible apply foldl_keeps | with_reducible apply foldl_fst_keeps | dsimp only | split | with_reducible apply mk_keeps

theorem Cell.enterC4_wf {k : Cell} (h : Memory.wf k.tiers.tiles = true)  : Memory.wf (Cell.enterC4 k).tiers.tiles = true := by
  unfold Cell.enterC4
  repeat' first
    | with_reducible assumption | intro _ | with_reducible apply Memory.wf_set | with_reducible apply Memory.wf_mapKV
    | with_reducible apply Memory.wf_mapV | with_reducible apply Memory.wf_filter | dsimp only

theorem State.rest_keeps {s : State} (h : Keeps s0 s) (c : Nat) : Keeps s0 (State.rest s c) := by
  unfold State.rest
  repeat' first
    | with_reducible assumption | intro _ | with_reducible apply State.setCell_keeps | with_reducible apply ite_keeps
    | with_reducible apply Cell.enterC4_wf | with_reducible apply cell_wf | dsimp only | split | with_reducible apply mk_keeps

theorem State.recordWait_keeps {s : State} (h : Keeps s0 s) (t : Nat) : Keeps s0 (State.recordWait s t) := by
  unfold State.recordWait
  repeat' first
    | with_reducible assumption | intro _ | with_reducible apply State.onCell_keeps | with_reducible apply State.coordinate_keeps
    | with_reducible apply State.err_keeps | with_reducible apply ite_keeps | with_reducible apply foldl_keeps
    | with_reducible apply foldl_fst_keeps | with_reducible apply Cell.onLrn_wf | with_reducible apply cell_wf
    | with_reducible apply wf_foldl | dsimp only | split | with_reducible apply mk_keeps

theorem State.openStep_keeps {s : State} (h : Keeps s0 s) (t : Nat) : Keeps s0 (State.openStep s t) := by
  unfold State.openStep
  repeat' first
    | with_reducible assumption | intro _ | with_reducible apply State.onCoord_keeps | with_reducible apply State.onCell_keeps
    | with_reducible apply ite_keeps | with_reducible apply foldl_keeps | with_reducible apply foldl_fst_keeps
    | with_reducible apply Cell.onLrn_wf | with_reducible apply cell_wf | with_reducible apply wf_foldl | dsimp only | split
    | with_reducible apply mk_keeps

theorem State.learnRecord_keeps {s : State} (h : Keeps s0 s) (t : Nat) (code : Nat) (rec1 : Nat) (l : List RepEntry) :
    Keeps s0 (State.learnRecord s t code rec1 l) := by
  unfold State.learnRecord
  repeat' first
    | with_reducible assumption | intro _ | with_reducible apply State.onCoord_keeps | with_reducible apply State.queueRec_keeps
    | with_reducible apply State.mail_keeps | dsimp only | with_reducible apply mk_keeps

theorem State.ratioRecord_keeps {s : State} (h : Keeps s0 s) (t : Nat) : Keeps s0 (State.ratioRecord s t) := by
  unfold State.ratioRecord
  repeat' first
    | with_reducible assumption | intro _ | with_reducible apply State.learnRecord_keeps | dsimp only | with_reducible apply mk_keeps

theorem State.sealSend_keeps {s : State} (h : Keeps s0 s) (c : Nat) (t : Nat) (body : Nat) (l : List RepEntry) :
    Keeps s0 (State.sealSend s c t body l) := by
  unfold State.sealSend
  repeat' first
    | with_reducible assumption | intro _ | with_reducible apply State.send_keeps | dsimp only | with_reducible apply mk_keeps

theorem State.reportFrames_keeps {s : State} (h : Keeps s0 s) (n c t : Nat) (r : Report) (l : List RepEntry) :
    Keeps s0 (State.reportFrames n s c t r l) := by
  induction n generalizing s l with
  | zero => exact h
  | succ n ih =>
    unfold State.reportFrames
    dsimp only
    split
    · exact State.sealSend_keeps h ..
    · exact ih (State.sealSend_keeps h ..) _

theorem State.fixCell_keeps {s : State} (h : Keeps s0 s) (t : Nat) (c : Nat) : Keeps s0 (State.fixCell s t c) := by
  unfold State.fixCell
  repeat' first
    | with_reducible assumption | intro _ | with_reducible apply State.onCell_keeps | with_reducible apply ite_keeps
    | with_reducible apply cell_wf | dsimp only | split | with_reducible apply mk_keeps

theorem State.fixScales_keeps {s : State} (h : Keeps s0 s) (t : Nat) : Keeps s0 (State.fixScales s t) := by
  unfold State.fixScales
  repeat' first
    | with_reducible assumption | intro _ | with_reducible apply State.fixCell_keeps | with_reducible apply foldl_keeps
    | with_reducible apply foldl_fst_keeps | with_reducible apply cell_wf | with_reducible apply wf_foldl | dsimp only
    | with_reducible apply mk_keeps

theorem State.gatherEntries_keeps {s : State} (h : Keeps s0 s) (t : Nat) : Keeps s0 (State.gatherEntries s t) := by
  unfold State.gatherEntries
  repeat' first
    | with_reducible assumption | intro _ | with_reducible apply State.onCoord_keeps | dsimp only | with_reducible apply mk_keeps

theorem State.scanEntries_keeps {s : State} (h : Keeps s0 s) (c : Nat) (t : Nat) : Keeps s0 (State.scanEntries s c t) := by
  unfold State.scanEntries
  repeat' first
    | with_reducible assumption | intro _ | with_reducible apply State.addEntry_keeps | with_reducible apply ite_keeps
    | with_reducible apply foldl_keeps | with_reducible apply foldl_fst_keeps | dsimp only | split
    | refine fst_keeps (by with_reducible assumption) ?_ | refine snd_keeps (by with_reducible assumption) ?_
    | with_reducible apply mk_keeps

theorem State.report_keeps {s : State} (h : Keeps s0 s) (c : Nat) (t : Nat) : Keeps s0 (State.report s c t) := by
  unfold State.report
  repeat' first
    | with_reducible assumption | intro _ | with_reducible apply State.doubtVoids_keeps | with_reducible apply State.scanEntries_keeps
    | with_reducible apply State.fixCell_keeps | with_reducible apply State.onCell_keeps | with_reducible apply State.onCoord_keeps
    | with_reducible apply State.reportFrames_keeps | with_reducible apply State.fixScales_keeps
    | with_reducible apply State.gatherEntries_keeps | with_reducible apply State.ratioRecord_keeps | with_reducible apply ite_keeps
    | with_reducible apply Cell.onLrn_wf | with_reducible apply cell_wf | dsimp only | split | with_reducible apply mk_keeps

theorem Cell.takeDecision_wf {k : Cell} (h : Memory.wf k.tiers.tiles = true) (t : Nat) (d : Bool × Nat) (time : Nat) (scales : List (Nat × Int)) :
    Memory.wf (Cell.takeDecision k t d time scales).tiers.tiles = true := by
  unfold Cell.takeDecision
  repeat' first
    | with_reducible assumption | intro _ | with_reducible apply Cell.onLrn_wf | dsimp only

theorem State.spread_keeps {s : State} (h : Keeps s0 s) (t : Nat) (d : Bool × Nat) : Keeps s0 (State.spread s t d) := by
  unfold State.spread
  repeat' first
    | with_reducible assumption | intro _ | with_reducible apply State.fixScales_keeps | with_reducible apply State.err_keeps
    | with_reducible apply State.onCoord_keeps | with_reducible apply State.onCell_keeps | with_reducible apply ite_keeps
    | with_reducible apply foldl_keeps | with_reducible apply foldl_fst_keeps | with_reducible apply Cell.takeDecision_wf
    | with_reducible apply cell_wf | with_reducible apply wf_foldl | dsimp only | split | with_reducible apply mk_keeps

theorem State.takeLoss_keeps {s : State} (h : Keeps s0 s) (c : Nat) (t : Nat) : Keeps s0 (State.takeLoss s c t) := by
  unfold State.takeLoss
  repeat' first
    | with_reducible assumption | intro _ | with_reducible apply State.fixCell_keeps | with_reducible apply State.onCell_keeps
    | with_reducible apply ite_keeps | with_reducible apply Cell.takeDecision_wf | with_reducible apply cell_wf | dsimp only | split
    | refine fst_keeps (by with_reducible assumption) ?_ | refine snd_keeps (by with_reducible assumption) ?_
    | with_reducible apply mk_keeps

theorem State.loseStep_keeps {s : State} (h : Keeps s0 s) (t : Nat) : Keeps s0 (State.loseStep s t) := by
  unfold State.loseStep
  repeat' first
    | with_reducible assumption | intro _ | with_reducible apply State.err_keeps | with_reducible apply State.onCoord_keeps
    | with_reducible apply State.takeLoss_keeps | with_reducible apply ite_keeps | with_reducible apply foldl_keeps
    | with_reducible apply foldl_fst_keeps | dsimp only | split | with_reducible apply mk_keeps

theorem State.doAnswer_keeps {s : State} (h : Keeps s0 s) (c : Nat) (src : Source) (e : Entry) : Keeps s0 (State.doAnswer s c src e) := by
  unfold State.doAnswer
  repeat' first
    | with_reducible assumption | intro _ | with_reducible apply State.complete_keeps | with_reducible apply State.onCoord_keeps
    | with_reducible apply State.err_keeps | with_reducible apply ite_keeps | dsimp only | split | with_reducible apply mk_keeps

theorem Cell.tagWeights_wf {k : Cell} (h : Memory.wf k.tiers.tiles = true) (t : Nat) (ver : BitVec 16) :
    Memory.wf (Cell.tagWeights k t ver).tiers.tiles = true := by
  unfold Cell.tagWeights
  repeat' first
    | with_reducible assumption | intro _ | with_reducible apply Memory.wf_set | with_reducible apply Memory.wf_mapKV
    | with_reducible apply Memory.wf_mapV | with_reducible apply Memory.wf_filter | dsimp only | split

theorem State.voidRecords_keeps {s : State} (h : Keeps s0 s) (c : Nat) (t : Nat) (l : List Nat) : Keeps s0 (State.voidRecords s c t l) := by
  unfold State.voidRecords
  repeat' first
    | with_reducible assumption | intro _ | with_reducible apply State.err_keeps | with_reducible apply foldl_keeps
    | with_reducible apply foldl_fst_keeps | dsimp only | with_reducible apply mk_keeps

theorem Cell.sealLearn_wf {k : Cell} (h : Memory.wf k.tiers.tiles = true) (t : Nat) (commit : Bool) (now : Nat) :
    Memory.wf (Cell.sealLearn k t commit now).tiers.tiles = true := by
  unfold Cell.sealLearn
  repeat' first
    | with_reducible assumption | intro _ | with_reducible apply Cell.tierSeal_wf | with_reducible apply Cell.onRun_wf
    | with_reducible apply Cell.tagWeights_wf | with_reducible apply Cell.onVer_wf | with_reducible apply Cell.onLrn_wf
    | with_reducible apply Cell.endSums_wf | with_reducible apply wf_foldl | dsimp only | split

theorem Cell.endStepFor_wf {k : Cell} (h : Memory.wf k.tiers.tiles = true) (ran : List Nat) :
    Memory.wf (Cell.endStepFor k ran).tiers.tiles = true := by
  unfold Cell.endStepFor
  repeat' first
    | with_reducible assumption | intro _ | with_reducible apply Cell.tierSeal_wf | with_reducible apply wf_foldl | dsimp only

theorem Cell.endLearn_wf {k : Cell} (h : Memory.wf k.tiers.tiles = true)  : Memory.wf (Cell.endLearn k).tiers.tiles = true := by
  unfold Cell.endLearn
  repeat' first
    | with_reducible assumption | intro _ | with_reducible apply Cell.endStepFor_wf | dsimp only

theorem State.endLearnStep_keeps {s : State} (h : Keeps s0 s) (c : Nat) : Keeps s0 (State.endLearnStep s c) := by
  unfold State.endLearnStep
  repeat' first
    | with_reducible assumption | intro _ | with_reducible apply State.onCell_keeps | with_reducible apply State.boundary_keeps
    | with_reducible apply State.rest_keeps | with_reducible apply ite_keeps | with_reducible apply Cell.endLearn_wf
    | with_reducible apply cell_wf | dsimp only | split | with_reducible apply mk_keeps

theorem State.writeSeal_keeps {s : State} (h : Keeps s0 s) (t : Nat) : Keeps s0 (State.writeSeal s t) := by
  unfold State.writeSeal
  repeat' first
    | with_reducible assumption | intro _ | with_reducible apply State.learnRecord_keeps | with_reducible apply State.onCoord_keeps
    | with_reducible apply State.onCell_keeps | with_reducible apply ite_keeps | with_reducible apply foldl_keeps
    | with_reducible apply foldl_fst_keeps | with_reducible apply Cell.onLrn_wf | with_reducible apply cell_wf
    | with_reducible apply wf_foldl | dsimp only | split | with_reducible apply mk_keeps

theorem State.sealRecord_keeps {s : State} (h : Keeps s0 s) (t : Nat) : Keeps s0 (State.sealRecord s t) := by
  unfold State.sealRecord
  repeat' first
    | with_reducible assumption | intro _ | with_reducible apply State.endLearnStep_keeps | with_reducible apply State.writeSeal_keeps
    | with_reducible apply foldl_keeps | with_reducible apply foldl_fst_keeps | dsimp only | with_reducible apply mk_keeps

theorem Cell.standCounters_wf {k : Cell} (h : Memory.wf k.tiers.tiles = true) (t : Nat) :
    Memory.wf (Cell.standCounters k t).tiers.tiles = true := by
  unfold Cell.standCounters
  repeat' first
    | with_reducible assumption | intro _ | dsimp only | split

theorem State.sealDone_keeps {s : State} (h : Keeps s0 s) (c : Nat) (t : Nat) : Keeps s0 (State.sealDone s c t) := by
  unfold State.sealDone
  repeat' first
    | with_reducible assumption | intro _ | with_reducible apply State.voidRecords_keeps | with_reducible apply State.onCell_keeps
    | with_reducible apply State.takeSnapshot_keeps | with_reducible apply State.gatherEntries_keeps
    | with_reducible apply State.onCoord_keeps | with_reducible apply State.complete_keeps | with_reducible apply State.sealSend_keeps
    | with_reducible apply State.sealRecord_keeps | with_reducible apply ite_keeps | with_reducible apply Cell.standCounters_wf
    | with_reducible apply Cell.sealLearn_wf | with_reducible apply cell_wf | dsimp only | split | with_reducible apply mk_keeps

theorem State.takeSeal_keeps {s : State} (h : Keeps s0 s) (c : Nat) (x : Frame) : Keeps s0 (State.takeSeal s c x) := by
  unfold State.takeSeal
  repeat' first
    | with_reducible assumption | intro _ | with_reducible apply State.complete_keeps | with_reducible apply State.onCoord_keeps
    | with_reducible apply State.onCell_keeps | with_reducible apply ite_keeps | with_reducible apply Cell.takeDecision_wf
    | with_reducible apply cell_wf | dsimp only | split | with_reducible apply mk_keeps

end Sys2Proof.Machine
end

