-- ==== Sys2Proof/Laws/KeepsSteps.lean ====
section
/-!
SUPPORT. What each operation of the steps and their figures does to the frame of a run (Keeps): one law per operation.
-/

namespace Sys2Proof.Machine

variable {s0 s : State}

theorem State.onCells_keeps {s : State} (h : Keeps s0 s) (g : List Nat) (f : Cell → Cell) (hf : ∀ k : Cell, Memory.wf k.tiers.tiles = true → Memory.wf (f k).tiers.tiles = true) :
    Keeps s0 (State.onCells s g f) := by
  unfold State.onCells
  repeat' first
    | with_reducible assumption | intro _ | with_reducible apply hf | with_reducible apply State.onCell_keeps
    | with_reducible apply foldl_keeps | with_reducible apply foldl_fst_keeps | with_reducible apply cell_wf
    | with_reducible apply wf_foldl | dsimp only | with_reducible apply mk_keeps

theorem State.doSetup_keeps {s : State} (h : Keeps s0 s) (c : Nat) (src : Source) (e : Entry) : Keeps s0 (State.doSetup s c src e) := by
  unfold State.doSetup
  repeat' first
    | with_reducible assumption | intro _ | with_reducible apply State.complete_keeps | with_reducible apply State.setCell_keeps
    | with_reducible apply ite_keeps | with_reducible apply cell_wf | dsimp only | split | with_reducible apply mk_keeps

theorem State.refuse_keeps {s : State} (h : Keeps s0 s) (c : Nat) (p : PendReq) (code : Nat) (bound : Nat) :
    Keeps s0 (State.refuse s c p code bound) := by
  unfold State.refuse
  repeat' first
    | with_reducible assumption | intro _ | with_reducible apply State.recordTo_keeps | dsimp only | with_reducible apply mk_keeps

theorem State.doRequest_keeps {s : State} (h : Keeps s0 s) (c : Nat) (src : Source) (e : Entry) : Keeps s0 (State.doRequest s c src e) := by
  unfold State.doRequest
  repeat' first
    | with_reducible assumption | intro _ | with_reducible apply State.refuse_keeps | with_reducible apply State.setCell_keeps
    | with_reducible apply ite_keeps | with_reducible apply cell_wf | dsimp only | split | with_reducible apply mk_keeps

theorem State.unqueue_keeps {s : State} (h : Keeps s0 s) (c : Nat) (p : PendReq) : Keeps s0 (State.unqueue s c p) := by
  unfold State.unqueue
  repeat' first
    | with_reducible assumption | intro _ | with_reducible apply State.onCell_keeps | with_reducible apply cell_wf | dsimp only
    | with_reducible apply mk_keeps

theorem State.setDeficit_keeps {s : State} (h : Keeps s0 s) (c : Nat) (t : Nat) (q : Nat) (v : Nat) :
    Keeps s0 (State.setDeficit s c t q v) := by
  unfold State.setDeficit
  repeat' first
    | with_reducible assumption | intro _ | with_reducible apply State.onCell_keeps | with_reducible apply cell_wf | dsimp only
    | with_reducible apply mk_keeps

theorem State.pokeGroup_keeps {s : State} (h : Keeps s0 s) (g : List Nat) (t : Nat) (which : Setup → BitVec 24) (word : Nat) (ws : List Nat) :
    Keeps s0 (State.pokeGroup s g t which word ws) := by
  unfold State.pokeGroup
  repeat' first
    | with_reducible assumption | intro _ | with_reducible apply State.pokeWords_keeps | with_reducible apply foldl_keeps
    | with_reducible apply foldl_fst_keeps | dsimp only | split | refine fst_keeps (by with_reducible assumption) ?_
    | refine snd_keeps (by with_reducible assumption) ?_ | with_reducible apply mk_keeps

theorem State.takeOn_keeps {s : State} (h : Keeps s0 s) (c : Nat) (p : PendReq) (i : Nat) (first : Nat) :
    Keeps s0 (State.takeOn s c p i first) := by
  unfold State.takeOn
  repeat' first
    | with_reducible assumption | intro _ | with_reducible apply State.onCell_keeps | with_reducible apply State.pokeGroup_keeps
    | with_reducible apply foldl_keeps | with_reducible apply foldl_fst_keeps | with_reducible apply Cell.onEntry_wf
    | with_reducible apply Cell.onVer_wf | with_reducible apply cell_wf | with_reducible apply wf_foldl | dsimp only
    | with_reducible apply mk_keeps

theorem State.testHead_keeps {s : State} (h : Keeps s0 s) (c : Nat) (t : Nat) (q : Nat) (p : PendReq) :
    Keeps s0 (State.testHead s c t q p).1 := by
  unfold State.testHead
  repeat' first
    | with_reducible assumption | intro _ | with_reducible apply State.onCell_keeps | with_reducible apply State.refuse_keeps
    | with_reducible apply State.unqueue_keeps | with_reducible apply State.takeOn_keeps | with_reducible apply State.setDeficit_keeps
    | with_reducible apply ite_keeps | with_reducible apply ite_fst_keeps | with_reducible apply Cell.onVer_wf
    | with_reducible apply cell_wf | dsimp only | split | refine fst_keeps (by with_reducible assumption) ?_
    | refine snd_keeps (by with_reducible assumption) ?_ | with_reducible apply mk_keeps

theorem State.serveHeads_keeps {s : State} (h : Keeps s0 s) (n c t q : Nat) : Keeps s0 (State.serveHeads n s c t q) := by
  induction n generalizing s with
  | zero => exact h
  | succ n ih =>
    unfold State.serveHeads
    split
    · exact h
    · split
      · exact h
      · have k := State.testHead_keeps h c t q ‹PendReq›
        dsimp only
        split
        · exact ih k
        · exact k

theorem State.serveQueue_keeps {s : State} (h : Keeps s0 s) (c : Nat) (quantum : Nat) (weight : Nat) (t : Nat) (q : Nat) :
    Keeps s0 (State.serveQueue s c quantum weight t q) := by
  unfold State.serveQueue
  repeat' first
    | with_reducible assumption | intro _ | with_reducible apply State.setDeficit_keeps | with_reducible apply State.serveHeads_keeps
    | with_reducible apply ite_keeps | dsimp only | split | with_reducible apply mk_keeps

theorem State.dropClosed_keeps {s : State} (h : Keeps s0 s) (c : Nat) : Keeps s0 (State.dropClosed s c) := by
  unfold State.dropClosed
  repeat' first
    | with_reducible assumption | intro _ | with_reducible apply State.refuse_keeps | with_reducible apply State.unqueue_keeps
    | with_reducible apply ite_keeps | with_reducible apply foldl_keeps | with_reducible apply foldl_fst_keeps | dsimp only | split
    | with_reducible apply mk_keeps

theorem State.serviceRound_keeps {s : State} (h : Keeps s0 s) (c : Nat) : Keeps s0 (State.serviceRound s c) := by
  unfold State.serviceRound
  repeat' first
    | with_reducible assumption | intro _ | with_reducible apply State.serveQueue_keeps | with_reducible apply State.dropClosed_keeps
    | with_reducible apply ite_keeps | with_reducible apply foldl_keeps | with_reducible apply foldl_fst_keeps | dsimp only | split
    | refine fst_keeps (by with_reducible assumption) ?_ | refine snd_keeps (by with_reducible assumption) ?_
    | with_reducible apply mk_keeps

theorem State.renewMail_keeps {s : State} (h : Keeps s0 s) (c : Nat) : Keeps s0 (State.renewMail s c) := by
  unfold State.renewMail
  repeat' first
    | with_reducible assumption | intro _ | with_reducible apply State.onCell_keeps | with_reducible apply State.send_keeps
    | with_reducible apply ite_keeps | with_reducible apply cell_wf | dsimp only | split | with_reducible apply mk_keeps

theorem State.doCancel_keeps {s : State} (h : Keeps s0 s) (c : Nat) (src : Source) (e : Entry) : Keeps s0 (State.doCancel s c src e) := by
  unfold State.doCancel
  repeat' first
    | with_reducible assumption | intro _ | with_reducible apply State.complete_keeps | with_reducible apply State.refuse_keeps
    | with_reducible apply State.unqueue_keeps | with_reducible apply State.onCell_keeps | with_reducible apply ite_keeps
    | with_reducible apply foldl_keeps | with_reducible apply foldl_fst_keeps | with_reducible apply Cell.onEntry_wf
    | with_reducible apply cell_wf | with_reducible apply wf_foldl | dsimp only | split | with_reducible apply mk_keeps

theorem State.freeEntries_keeps {s : State} (h : Keeps s0 s) (g : List Nat) (i : Nat) : Keeps s0 (State.freeEntries s g i) := by
  unfold State.freeEntries
  repeat' first
    | with_reducible assumption | intro _ | with_reducible apply State.onCell_keeps | with_reducible apply foldl_keeps
    | with_reducible apply foldl_fst_keeps | with_reducible apply Cell.onEntry_wf | with_reducible apply Cell.onVer_wf
    | with_reducible apply cell_wf | with_reducible apply wf_foldl | dsimp only | with_reducible apply mk_keeps

theorem State.writeStepList_keeps {s : State} (h : Keeps s0 s) (c : Nat) (rows : List StepRow) (t : Nat) :
    Keeps s0 (State.writeStepList s c rows t) := by
  unfold State.writeStepList
  repeat' first
    | with_reducible assumption | intro _ | with_reducible apply State.poke_keeps | with_reducible apply foldl_keeps
    | with_reducible apply foldl_fst_keeps | dsimp only | split | refine fst_keeps (by with_reducible assumption) ?_
    | refine snd_keeps (by with_reducible assumption) ?_ | with_reducible apply mk_keeps

theorem State.writePosition_keeps {s : State} (h : Keeps s0 s) (c : Nat) (r : StepRow) : Keeps s0 (State.writePosition s c r) := by
  unfold State.writePosition
  repeat' first
    | with_reducible assumption | intro _ | with_reducible apply State.pokeGroup_keeps | dsimp only | with_reducible apply mk_keeps

theorem State.zeroSet_keeps {s : State} (h : Keeps s0 s) (m : Nat) (t : Nat) (u : Setup) (set : Nat) :
    Keeps s0 (State.zeroSet s m t u set) := by
  unfold State.zeroSet
  repeat' first
    | with_reducible assumption | intro _ | with_reducible apply State.fillTile_keeps | with_reducible apply foldl_keeps
    | with_reducible apply foldl_fst_keeps | dsimp only | with_reducible apply mk_keeps

theorem State.takePageTile_keeps {s : State} (h : Keeps s0 s) (m : Nat) (i : Nat) (u : Setup) : Keeps s0 (State.takePageTile s m i u) := by
  unfold State.takePageTile
  repeat' first
    | with_reducible assumption | intro _ | with_reducible apply State.fillTile_keeps | with_reducible apply State.pokeWords_keeps
    | with_reducible apply State.onCell_keeps | with_reducible apply Cell.onEntry_wf | with_reducible apply cell_wf | dsimp only | split
    | refine fst_keeps (by with_reducible assumption) ?_ | refine snd_keeps (by with_reducible assumption) ?_
    | with_reducible apply mk_keeps

theorem State.takePageSet_keeps {s : State} (h : Keeps s0 s) (m : Nat) (i : Nat) (u : Setup) : Keeps s0 (State.takePageSet s m i u) := by
  unfold State.takePageSet
  repeat' first
    | with_reducible assumption | intro _ | with_reducible apply State.takePageTile_keeps | with_reducible apply State.zeroSet_keeps
    | with_reducible apply State.pokeWords_keeps | with_reducible apply State.onCell_keeps | with_reducible apply ite_keeps
    | with_reducible apply Cell.onEntry_wf | with_reducible apply cell_wf | dsimp only | split | with_reducible apply mk_keeps

theorem State.takePages_keeps {s : State} (h : Keeps s0 s) (n m i : Nat) (u : Setup) : Keeps s0 (State.takePages n s m i u) := by
  induction n generalizing s with
  | zero => exact h
  | succ n ih => exact ih (State.takePageSet_keeps h ..)

theorem State.pagesFor_keeps {s : State} (h : Keeps s0 s) (m : Nat) (r : StepRow) : Keeps s0 (State.pagesFor s m r) := by
  unfold State.pagesFor
  repeat' first
    | with_reducible assumption | intro _ | with_reducible apply State.takePages_keeps | dsimp only | split
    | refine fst_keeps (by with_reducible assumption) ?_ | refine snd_keeps (by with_reducible assumption) ?_
    | with_reducible apply mk_keeps

theorem State.releaseOne_keeps {s : State} (h : Keeps s0 s) (c : Nat) (i : Nat) : Keeps s0 (State.releaseOne s c i) := by
  unfold State.releaseOne
  repeat' first
    | with_reducible assumption | intro _ | with_reducible apply State.onCell_keeps | with_reducible apply State.onCells_keeps
    | with_reducible apply State.rest_keeps | with_reducible apply ite_keeps | with_reducible apply Cell.onEntry_wf
    | with_reducible apply cell_wf | dsimp only | split | refine fst_keeps (by with_reducible assumption) ?_
    | refine snd_keeps (by with_reducible assumption) ?_ | with_reducible apply mk_keeps

theorem State.holdRequests_keeps {s : State} (h : Keeps s0 s) (c : Nat) : Keeps s0 (State.holdRequests s c) := by
  unfold State.holdRequests
  repeat' first
    | with_reducible assumption | intro _ | with_reducible apply State.onCells_keeps | with_reducible apply State.releaseOne_keeps
    | with_reducible apply ite_keeps | with_reducible apply foldl_keeps | with_reducible apply foldl_fst_keeps
    | with_reducible apply Cell.onEntry_wf | with_reducible apply cell_wf | with_reducible apply wf_foldl | dsimp only | split
    | with_reducible apply mk_keeps

theorem State.layStep_keeps {s : State} (h : Keeps s0 s) (c : Nat) (rows : List StepRow) : Keeps s0 (State.layStep s c rows) := by
  unfold State.layStep
  repeat' first
    | with_reducible assumption | intro _ | with_reducible apply State.onCell_keeps | with_reducible apply State.pagesFor_keeps
    | with_reducible apply State.writeStepList_keeps | with_reducible apply State.writePosition_keeps | with_reducible apply ite_keeps
    | with_reducible apply foldl_keeps | with_reducible apply foldl_fst_keeps | with_reducible apply Cell.onEntry_wf
    | with_reducible apply cell_wf | with_reducible apply wf_foldl | dsimp only | split | with_reducible apply mk_keeps

theorem State.deliver_keeps {s : State} (h : Keeps s0 s) (c : Nat) (e : ReqEntry) (k0 : Nat) (toks : List (BitVec 32)) :
    Keeps s0 (State.deliver s c e k0 toks) := by
  unfold State.deliver
  repeat' first
    | with_reducible assumption | intro _ | with_reducible apply State.emit_keeps | with_reducible apply State.sendTile_keeps
    | with_reducible apply State.pokeWords_keeps | with_reducible apply ite_keeps | with_reducible apply foldl_keeps
    | with_reducible apply foldl_fst_keeps | dsimp only | split | refine fst_keeps (by with_reducible assumption) ?_
    | refine snd_keeps (by with_reducible assumption) ?_ | with_reducible apply mk_keeps

theorem State.copyPrompt_keeps {s : State} (h : Keeps s0 s) (c : Nat) (e : ReqEntry) : Keeps s0 (State.copyPrompt s c e) := by
  unfold State.copyPrompt
  repeat' first
    | with_reducible assumption | intro _ | with_reducible apply State.poke_keeps | dsimp only | split
    | refine fst_keeps (by with_reducible assumption) ?_ | refine snd_keeps (by with_reducible assumption) ?_
    | with_reducible apply mk_keeps

theorem State.endRecord_keeps {s : State} (h : Keeps s0 s) (c : Nat) (i : Nat) (e : ReqEntry) (rec1 : Nat) :
    Keeps s0 (State.endRecord s c i e rec1) := by
  unfold State.endRecord
  repeat' first
    | with_reducible assumption | intro _ | with_reducible apply State.mail_keeps | with_reducible apply State.queueRec_keeps
    | with_reducible apply State.poke_keeps | with_reducible apply ite_keeps | dsimp only | split
    | refine fst_keeps (by with_reducible assumption) ?_ | refine snd_keeps (by with_reducible assumption) ?_
    | with_reducible apply mk_keeps

theorem State.endRequest_keeps {s : State} (h : Keeps s0 s) (c : Nat) (i : Nat) (code : Nat) (causes : List Nat) :
    Keeps s0 (State.endRequest s c i code causes) := by
  unfold State.endRequest
  repeat' first
    | with_reducible assumption | intro _ | with_reducible apply State.err_keeps | with_reducible apply State.onCell_keeps
    | with_reducible apply State.endRecord_keeps | with_reducible apply ite_keeps | with_reducible apply foldl_keeps
    | with_reducible apply foldl_fst_keeps | with_reducible apply Cell.onEntry_wf | with_reducible apply cell_wf
    | with_reducible apply wf_foldl | dsimp only | split | with_reducible apply mk_keeps

theorem State.commitRow_keeps {s : State} (h : Keeps s0 s) (c : Nat) (i : Nat) (r : StepRow) (x : Found) :
    Keeps s0 (State.commitRow s c i r x) := by
  unfold State.commitRow
  repeat' first
    | with_reducible assumption | intro _ | with_reducible apply State.deliver_keeps | with_reducible apply State.copyPrompt_keeps
    | with_reducible apply State.onCells_keeps | with_reducible apply ite_keeps | with_reducible apply Cell.onEntry_wf
    | with_reducible apply cell_wf | dsimp only | split | with_reducible apply mk_keeps

theorem State.sealEntry_keeps {s : State} (h : Keeps s0 s) (c : Nat) (i : Nat) (x : Found) : Keeps s0 (State.sealEntry s c i x) := by
  unfold State.sealEntry
  repeat' first
    | with_reducible assumption | intro _ | with_reducible apply State.endRequest_keeps | with_reducible apply State.commitRow_keeps
    | with_reducible apply ite_keeps | dsimp only | split | refine fst_keeps (by with_reducible assumption) ?_
    | refine snd_keeps (by with_reducible assumption) ?_ | with_reducible apply mk_keeps

theorem State.doubtFrames_keeps {s : State} (h : Keeps s0 s) (g : List Nat) : Keeps s0 (State.doubtFrames s g) := by
  unfold State.doubtFrames
  repeat' first
    | with_reducible assumption | intro _ | with_reducible apply State.doubtVoids_keeps | with_reducible apply foldl_keeps
    | with_reducible apply foldl_fst_keeps | dsimp only | with_reducible apply mk_keeps

theorem Cell.endStep_wf {k : Cell} (h : Memory.wf k.tiers.tiles = true) (ran : List (Nat × Bool)) :
    Memory.wf (Cell.endStep k ran).tiers.tiles = true := by
  unfold Cell.endStep
  repeat' first
    | with_reducible assumption | intro _ | with_reducible apply Cell.tierSeal_wf | with_reducible apply Cell.endSums_wf
    | with_reducible apply Cell.onRun_wf | with_reducible apply Cell.endStepFor_wf | with_reducible apply wf_foldl | dsimp only

theorem State.sealRequests_keeps {s : State} (h : Keeps s0 s) (c : Nat) : Keeps s0 (State.sealRequests s c) := by
  unfold State.sealRequests
  repeat' first
    | with_reducible assumption | intro _ | with_reducible apply State.sealEntry_keeps | with_reducible apply foldl_keeps
    | with_reducible apply foldl_fst_keeps | dsimp only | with_reducible apply mk_keeps

theorem State.groupBoundary_keeps {s : State} (h : Keeps s0 s) (g : List Nat) : Keeps s0 (State.groupBoundary s g) := by
  unfold State.groupBoundary
  repeat' first
    | with_reducible assumption | intro _ | with_reducible apply State.rest_keeps | with_reducible apply State.boundary_keeps
    | with_reducible apply foldl_keeps | with_reducible apply foldl_fst_keeps | dsimp only | with_reducible apply mk_keeps

theorem State.sealGen_keeps {s : State} (h : Keeps s0 s) (c : Nat) : Keeps s0 (State.sealGen s c) := by
  unfold State.sealGen
  repeat' first
    | with_reducible assumption | intro _ | with_reducible apply State.doubtFrames_keeps | with_reducible apply State.sealRequests_keeps
    | with_reducible apply State.onCells_keeps | with_reducible apply State.groupBoundary_keeps | with_reducible apply Cell.endStep_wf
    | with_reducible apply cell_wf | dsimp only | with_reducible apply mk_keeps

theorem State.emptySeal_keeps {s : State} (h : Keeps s0 s) (c : Nat) (tenants : List Nat) (why : Nat) :
    Keeps s0 (State.emptySeal s c tenants why) := by
  unfold State.emptySeal
  repeat' first
    | with_reducible assumption | intro _ | with_reducible apply State.endRequest_keeps | with_reducible apply foldl_keeps
    | with_reducible apply foldl_fst_keeps | dsimp only | with_reducible apply mk_keeps

theorem State.longRecords_keeps {s : State} (h : Keeps s0 s) (c : Nat) (t : Nat) (img : Image) :
    Keeps s0 (State.longRecords s c t img) := by
  unfold State.longRecords
  repeat' first
    | with_reducible assumption | intro _ | with_reducible apply State.err_keeps | with_reducible apply foldl_keeps
    | with_reducible apply foldl_fst_keeps | dsimp only | with_reducible apply mk_keeps

theorem State.doLoadImage_keeps {s : State} (h : Keeps s0 s) (c : Nat) (src : Source) (e : Entry) :
    Keeps s0 (State.doLoadImage s c src e) := by
  unfold State.doLoadImage
  repeat' first
    | with_reducible assumption | intro _ | with_reducible apply State.complete_keeps | with_reducible apply State.longRecords_keeps
    | with_reducible apply State.onCell_keeps | with_reducible apply State.boundarySoon_keeps | with_reducible apply ite_keeps
    | with_reducible apply Cell.onRun_wf | with_reducible apply cell_wf | dsimp only | split
    | refine fst_keeps (by with_reducible assumption) ?_ | refine snd_keeps (by with_reducible assumption) ?_
    | with_reducible apply mk_keeps

theorem Cell.startCores_wf {k : Cell} (h : Memory.wf k.tiers.tiles = true) (ts : List Nat) :
    Memory.wf (Cell.startCores k ts).tiers.tiles = true := by
  unfold Cell.startCores
  repeat' first
    | with_reducible assumption | intro _ | dsimp only

theorem State.takePending_keeps {s : State} (h : Keeps s0 s) (c : Nat) : Keeps s0 (s.takePending c) := by
  refine foldl_keeps _ _ (State.onCell_keeps h c (fun k hk => hk)) (fun x m hx => ?_)
  cases e : x.syncArrive m with
  | none => exact hx
  | some y => exact State.syncArrive_keeps e hx

theorem State.startStep_keeps {s : State} (h : Keeps s0 s) (c : Nat) (ts : List Nat) : Keeps s0 (State.startStep s c ts) := by
  unfold State.startStep
  repeat' first
    | with_reducible assumption | intro _ | with_reducible apply State.onCell_keeps | with_reducible apply State.cause_keeps
    | with_reducible apply State.takePending_keeps | with_reducible apply ite_keeps | with_reducible apply foldl_keeps
    | with_reducible apply foldl_fst_keeps | with_reducible apply Cell.startCores_wf | with_reducible apply Cell.release_wf
    | with_reducible apply cell_wf | with_reducible apply wf_foldl | dsimp only | split | with_reducible apply mk_keeps

theorem State.beginLead_keeps {s : State} (h : Keeps s0 s) (c : Nat) : Keeps s0 (State.beginLead s c) := by
  unfold State.beginLead
  repeat' first
    | with_reducible assumption | intro _ | with_reducible apply State.holdRequests_keeps | with_reducible apply State.layStep_keeps
    | with_reducible apply State.startStep_keeps | with_reducible apply ite_keeps | dsimp only | split | with_reducible apply mk_keeps

theorem State.beginFollower_keeps {s : State} (h : Keeps s0 s) (c : Nat) (lead : Nat) : Keeps s0 (State.beginFollower s c lead) := by
  unfold State.beginFollower
  repeat' first
    | with_reducible assumption | intro _ | with_reducible apply State.startStep_keeps | with_reducible apply ite_keeps | dsimp only
    | split | with_reducible apply mk_keeps

theorem State.beginLearn_keeps {s : State} (h : Keeps s0 s) (c : Nat) : Keeps s0 (State.beginLearn s c) := by
  unfold State.beginLearn
  repeat' first
    | with_reducible assumption | intro _ | with_reducible apply State.startStep_keeps | with_reducible apply State.onCell_keeps
    | with_reducible apply ite_keeps | with_reducible apply foldl_keeps | with_reducible apply foldl_fst_keeps
    | with_reducible apply Cell.onLrn_wf | with_reducible apply cell_wf | with_reducible apply wf_foldl | dsimp only | split
    | with_reducible apply mk_keeps

theorem State.syncSignal_keeps {s : State} (h : Keeps s0 s) (v : OpEnv) : Keeps s0 (State.syncSignal s v) := by
  unfold State.syncSignal
  repeat' first
    | with_reducible assumption | intro _ | with_reducible apply State.sendSync_keeps | with_reducible apply ite_keeps | dsimp only
    | split | with_reducible apply mk_keeps

theorem State.ownSignal_keeps {s : State} (h : Keeps s0 s) (c : Nat) (x : Ctx) (o : OpRec) : Keeps s0 (State.ownSignal s c x o) := by
  unfold State.ownSignal
  repeat' first
    | with_reducible assumption | intro _ | with_reducible apply State.signalAt_keeps | with_reducible apply ite_keeps | dsimp only
    | split | with_reducible apply mk_keeps

theorem State.syncOp_keeps {s : State} (h : Keeps s0 s) (v : OpEnv) : Keeps s0 (State.syncOp s v) := by
  unfold State.syncOp
  repeat' first
    | with_reducible assumption | intro _ | with_reducible apply State.syncSignal_keeps | with_reducible apply State.onCell_keeps
    | with_reducible apply State.onCore_keeps | with_reducible apply State.ownSignal_keeps | with_reducible apply ite_keeps
    | with_reducible apply Cell.onCore_wf | with_reducible apply cell_wf | dsimp only | split | with_reducible apply mk_keeps

theorem State.giveReports_keeps {s : State} (h : Keeps s0 s) (c : Nat) (l : List SampleReport) : Keeps s0 (State.giveReports s c l) := by
  unfold State.giveReports
  repeat' first
    | with_reducible assumption | intro _ | with_reducible apply State.onCell_keeps | with_reducible apply ite_keeps
    | with_reducible apply cell_wf | dsimp only | split | refine fst_keeps (by with_reducible assumption) ?_
    | refine snd_keeps (by with_reducible assumption) ?_ | with_reducible apply mk_keeps

theorem State.finishOp_keeps {s : State} (h : Keeps s0 s) (c : Nat) (n : Nat) (engine : Nat) (o : EngineOp) :
    Keeps s0 (State.finishOp s c n engine o) := by
  unfold State.finishOp
  repeat' first
    | with_reducible assumption | intro _ | with_reducible apply State.applyWrite_keeps | with_reducible apply State.tierServed_keeps
    | with_reducible apply State.onCore_keeps | with_reducible apply State.onCell_keeps | with_reducible apply State.ownSignal_keeps
    | with_reducible apply State.giveReports_keeps | with_reducible apply State.retryParts_keeps | with_reducible apply ite_keeps
    | with_reducible apply foldl_keeps | with_reducible apply foldl_fst_keeps | with_reducible apply Cell.onCore_wf
    | with_reducible apply cell_wf | with_reducible apply wf_foldl | dsimp only | split | with_reducible apply mk_keeps

theorem State.watchdogRecords_keeps {s : State} (h : Keeps s0 s) (c : Nat) (t : Nat) : Keeps s0 (State.watchdogRecords s c t) := by
  unfold State.watchdogRecords
  repeat' first
    | with_reducible assumption | intro _ | with_reducible apply State.err_keeps | with_reducible apply ite_keeps
    | with_reducible apply foldl_keeps | with_reducible apply foldl_fst_keeps | dsimp only | split | with_reducible apply mk_keeps

theorem State.watchdogHomes_keeps {s : State} (h : Keeps s0 s) (c : Nat) : Keeps s0 (State.watchdogHomes s c) := by
  unfold State.watchdogHomes
  repeat' first
    | with_reducible assumption | intro _ | with_reducible apply State.onCell_keeps | with_reducible apply State.watchdogRecords_keeps
    | with_reducible apply foldl_keeps | with_reducible apply foldl_fst_keeps | with_reducible apply Cell.onLrn_wf
    | with_reducible apply cell_wf | with_reducible apply wf_foldl | dsimp only | with_reducible apply mk_keeps

theorem State.stopStep_keeps {s : State} (h : Keeps s0 s) (c : Nat) : Keeps s0 (State.stopStep s c) := by
  unfold State.stopStep
  repeat' first
    | with_reducible assumption | intro _ | with_reducible apply State.voidWrite_keeps | with_reducible apply State.onCell_keeps
    | with_reducible apply foldl_keeps | with_reducible apply foldl_fst_keeps | with_reducible apply cell_wf
    | with_reducible apply wf_foldl | dsimp only | with_reducible apply mk_keeps

theorem State.watchdogStep_keeps {s : State} (h : Keeps s0 s) (c : Nat) : Keeps s0 (State.watchdogStep s c) := by
  unfold State.watchdogStep
  repeat' first
    | with_reducible assumption | intro _ | with_reducible apply State.cause_keeps | with_reducible apply State.watchdogRecords_keeps
    | with_reducible apply State.stopStep_keeps | with_reducible apply ite_keeps | with_reducible apply foldl_keeps
    | with_reducible apply foldl_fst_keeps | dsimp only | split | with_reducible apply mk_keeps

theorem State.shuffleTile_keeps {s : State} (h : Keeps s0 s) (c : Nat) (ver : BitVec 16) (dst : TileTo) :
    Keeps s0 (State.shuffleTile s c ver dst).1 := by
  unfold State.shuffleTile
  repeat' first
    | with_reducible assumption | intro _ | refine State.tierRead_keeps (by with_reducible assumption) ?_
    | with_reducible apply State.sendTile_keeps | dsimp only | split | refine fst_keeps (by with_reducible assumption) ?_
    | refine snd_keeps (by with_reducible assumption) ?_ | with_reducible apply mk_keeps

theorem State.sendLayer_keeps {s : State} (h : Keeps s0 s) (c : Nat) (tenant : Nat) (layer : Nat) (p : PlaceRec) :
    Keeps s0 (State.sendLayer s c tenant layer p) := by
  unfold State.sendLayer
  repeat' first
    | with_reducible assumption | intro _ | with_reducible apply State.err_keeps | with_reducible apply State.shuffleTile_keeps
    | with_reducible apply State.onCell_keeps | with_reducible apply ite_keeps | with_reducible apply foldl_keeps
    | with_reducible apply foldl_fst_keeps | with_reducible apply cell_wf | with_reducible apply wf_foldl | dsimp only | split
    | refine fst_keeps (by with_reducible assumption) ?_ | refine snd_keeps (by with_reducible assumption) ?_
    | with_reducible apply mk_keeps

theorem State.stopShuffle_keeps {s : State} (h : Keeps s0 s)  : Keeps s0 (State.stopShuffle s) := by
  unfold State.stopShuffle
  repeat' first
    | with_reducible assumption | intro _ | with_reducible apply State.onCell_keeps | with_reducible apply ite_keeps
    | with_reducible apply foldl_keeps | with_reducible apply foldl_fst_keeps | with_reducible apply cell_wf
    | with_reducible apply wf_foldl | dsimp only | split | with_reducible apply mk_keeps

theorem State.sendHomes_keeps {s : State} (h : Keeps s0 s) (c : Nat) (tenant : Nat) (layers : List Nat) (copies : List PlaceRec) :
    Keeps s0 (State.sendHomes s c tenant layers copies) := by
  unfold State.sendHomes
  repeat' first
    | with_reducible assumption | intro _ | with_reducible apply State.sendLayer_keeps | with_reducible apply foldl_keeps
    | with_reducible apply foldl_fst_keeps | dsimp only | with_reducible apply mk_keeps

theorem State.shuffle_keeps {s : State} (h : Keeps s0 s) (c : Nat) (g : Figure) : Keeps s0 (State.shuffle s c g) := by
  unfold State.shuffle
  repeat' first
    | with_reducible assumption | intro _ | with_reducible apply State.sendHomes_keeps | with_reducible apply foldl_keeps
    | with_reducible apply foldl_fst_keeps | dsimp only | with_reducible apply mk_keeps

theorem State.pushLayers_keeps {s : State} (h : Keeps s0 s) (c : Nat) (t : Nat) : Keeps s0 (State.pushLayers s c t) := by
  unfold State.pushLayers
  repeat' first
    | with_reducible assumption | intro _ | with_reducible apply State.sendHomes_keeps | with_reducible apply foldl_keeps
    | with_reducible apply foldl_fst_keeps | dsimp only | split | refine fst_keeps (by with_reducible assumption) ?_
    | refine snd_keeps (by with_reducible assumption) ?_ | with_reducible apply mk_keeps

theorem State.doVersion_keeps {s : State} (h : Keeps s0 s) (c : Nat) (src : Source) (e : Entry) : Keeps s0 (State.doVersion s c src e) := by
  unfold State.doVersion
  repeat' first
    | with_reducible assumption | intro _ | with_reducible apply State.complete_keeps | with_reducible apply State.onCells_keeps
    | with_reducible apply State.pushLayers_keeps | with_reducible apply ite_keeps | with_reducible apply Cell.onVer_wf
    | with_reducible apply cell_wf | dsimp only | split | with_reducible apply mk_keeps

theorem State.stalePush_keeps {s : State} (h : Keeps s0 s) (c : Nat) (t : Nat) (p : Push) : Keeps s0 (State.stalePush s c t p) := by
  unfold State.stalePush
  repeat' first
    | with_reducible assumption | intro _ | with_reducible apply State.onCells_keeps | with_reducible apply State.complete_keeps
    | with_reducible apply Cell.onVer_wf | with_reducible apply cell_wf | dsimp only | with_reducible apply mk_keeps

theorem Cell.warmTile_wf {k : Cell} (h : Memory.wf k.tiers.tiles = true) (t : Tensor) (a : Nat) :
    Memory.wf (Cell.warmTile k t a).tiers.tiles = true := by
  unfold Cell.warmTile
  repeat' first
    | with_reducible assumption | intro _ | refine Cell.makeRoom_wf (by with_reducible assumption) ?_
    | with_reducible apply Cell.touched_wf | with_reducible apply Cell.install_wf | dsimp only | split

theorem State.warmReport_keeps {s : State} (h : Keeps s0 s) (c : Nat) (h1 : Nat) (t : Tensor) (a : Nat) :
    Keeps s0 (State.warmReport s c h1 t a) := by
  unfold State.warmReport
  repeat' first
    | with_reducible assumption | intro _ | with_reducible apply State.err_keeps | with_reducible apply ite_keeps | dsimp only | split
    | with_reducible apply mk_keeps

theorem State.switchPointer_keeps {s : State} (h : Keeps s0 s) (c : Nat) (t : Nat) (n : BitVec 16) :
    Keeps s0 (State.switchPointer s c t n) := by
  unfold State.switchPointer
  repeat' first
    | with_reducible assumption | intro _ | with_reducible apply State.onCell_keeps | with_reducible apply State.complete_keeps
    | with_reducible apply ite_keeps | with_reducible apply foldl_keeps | with_reducible apply foldl_fst_keeps
    | with_reducible apply Cell.onVer_wf | with_reducible apply cell_wf | with_reducible apply wf_foldl | dsimp only | split
    | refine fst_keeps (by with_reducible assumption) ?_ | refine snd_keeps (by with_reducible assumption) ?_
    | with_reducible apply mk_keeps

theorem State.storeManifest_keeps {s : State} (h : Keeps s0 s) (m : Manifest) : Keeps s0 (State.storeManifest s m) := by
  unfold State.storeManifest
  repeat' first
    | with_reducible assumption | intro _ | with_reducible apply ite_keeps | dsimp only | split | with_reducible apply mk_keeps

theorem State.doFetch_keeps {s : State} (h : Keeps s0 s) (c : Nat) (src : Source) (e : Entry) : Keeps s0 (State.doFetch s c src e) := by
  unfold State.doFetch
  repeat' first
    | with_reducible assumption | intro _ | with_reducible apply State.complete_keeps | with_reducible apply State.onCell_keeps
    | with_reducible apply ite_keeps | with_reducible apply cell_wf | dsimp only | split | with_reducible apply mk_keeps

theorem Cell.shardTile_wf {k : Cell} (h : Memory.wf k.tiers.tiles = true) (t : Tensor) (shard : List Byte) (ver : Option (BitVec 16)) (i : Nat) :
    Memory.wf (Cell.shardTile k t shard ver i).tiers.tiles = true := by
  unfold Cell.shardTile
  repeat' first
    | with_reducible assumption | intro _ | with_reducible apply Cell.setEnt_wf | dsimp only | split

theorem Cell.fillTensor_wf {k : Cell} (h : Memory.wf k.tiers.tiles = true) (t : Tensor) (shard : List Byte) (ver : BitVec 16) :
    Memory.wf (Cell.fillTensor k t shard ver).tiers.tiles = true := by
  unfold Cell.fillTensor
  repeat' first
    | with_reducible assumption | intro _ | with_reducible apply Cell.shardTile_wf | with_reducible apply wf_foldl | dsimp only

theorem State.freeLoading_keeps {s : State} (h : Keeps s0 s) (c : Nat) (t : Tensor) : Keeps s0 (State.freeLoading s c t) := by
  unfold State.freeLoading
  repeat' first
    | with_reducible assumption | intro _ | with_reducible apply State.onCell_keeps | with_reducible apply ite_keeps
    | with_reducible apply Cell.dropTensor_wf | with_reducible apply cell_wf | dsimp only | split | with_reducible apply mk_keeps

theorem State.takeShard_keeps {s : State} (h : Keeps s0 s) (c : Nat) (f : FetchRun) (t : Tensor) (m : Manifest) (shard : List Byte) :
    Keeps s0 (State.takeShard s c f t m shard) := by
  unfold State.takeShard
  repeat' first
    | with_reducible assumption | intro _ | with_reducible apply State.storeManifest_keeps | with_reducible apply State.onCell_keeps
    | with_reducible apply State.onShared_keeps | with_reducible apply ite_keeps | with_reducible apply Cell.fillTensor_wf
    | with_reducible apply Cell.makeReady_wf | with_reducible apply Cell.newWeights_wf | with_reducible apply cell_wf | dsimp only
    | split | with_reducible apply mk_keeps

theorem State.endFetch_keeps {s : State} (h : Keeps s0 s) (c : Nat) (f : FetchRun) (status : Nat) :
    Keeps s0 (State.endFetch s c f status) := by
  unfold State.endFetch
  repeat' first
    | with_reducible assumption | intro _ | with_reducible apply State.onCell_keeps | with_reducible apply State.mail_keeps
    | with_reducible apply State.complete_keeps | with_reducible apply ite_keeps | with_reducible apply cell_wf | dsimp only | split
    | with_reducible apply mk_keeps

theorem State.fetchDone_keeps {s : State} (h : Keeps s0 s) (c : Nat) (linkOk : Bool) (shard : List Byte) (f : FetchRun) :
    Keeps s0 (State.fetchDone s c linkOk shard f) := by
  unfold State.fetchDone
  repeat' first
    | with_reducible assumption | intro _ | with_reducible apply State.endFetch_keeps | with_reducible apply State.freeLoading_keeps
    | with_reducible apply State.takeShard_keeps | with_reducible apply State.storeManifest_keeps | with_reducible apply ite_keeps
    | dsimp only | split | refine fst_keeps (by with_reducible assumption) ?_ | refine snd_keeps (by with_reducible assumption) ?_
    | with_reducible apply mk_keeps

theorem State.doRefetch_keeps {s : State} (h : Keeps s0 s) (c : Nat) (src : Source) (e : Entry) : Keeps s0 (State.doRefetch s c src e) := by
  unfold State.doRefetch
  repeat' first
    | with_reducible assumption | intro _ | with_reducible apply State.complete_keeps | with_reducible apply State.onCell_keeps
    | with_reducible apply ite_keeps | with_reducible apply cell_wf | dsimp only | split
    | refine fst_keeps (by with_reducible assumption) ?_ | refine snd_keeps (by with_reducible assumption) ?_
    | with_reducible apply mk_keeps

theorem State.refetchDone_keeps {s : State} (h : Keeps s0 s) (c : Nat) (linkOk : Bool) (shard : List Byte) (f : FetchRun) :
    Keeps s0 (State.refetchDone s c linkOk shard f) := by
  unfold State.refetchDone
  repeat' first
    | with_reducible assumption | intro _ | with_reducible apply State.endFetch_keeps | with_reducible apply State.storeManifest_keeps
    | with_reducible apply State.onCell_keeps | with_reducible apply ite_keeps | with_reducible apply foldl_keeps
    | with_reducible apply foldl_fst_keeps | with_reducible apply Cell.shardTile_wf | with_reducible apply cell_wf
    | with_reducible apply wf_foldl | dsimp only | split | refine fst_keeps (by with_reducible assumption) ?_
    | refine snd_keeps (by with_reducible assumption) ?_ | with_reducible apply mk_keeps

theorem State.discard_keeps {s : State} (h : Keeps s0 s) (off : Nat) : Keeps s0 (State.discard s off) := by
  unfold State.discard
  repeat' first
    | with_reducible assumption | intro _ | with_reducible apply State.err_keeps | with_reducible apply State.onCell_keeps
    | with_reducible apply ite_keeps | with_reducible apply cell_wf | dsimp only | split | with_reducible apply mk_keeps

theorem State.setSlot_keeps {s : State} (h : Keeps s0 s) (c : Nat) (n : Nat) (v : Slot4) : Keeps s0 (State.setSlot s c n v) := by
  unfold State.setSlot
  repeat' first
    | with_reducible assumption | intro _ | with_reducible apply State.onCell_keeps | with_reducible apply cell_wf | dsimp only
    | with_reducible apply mk_keeps

theorem State.figNow_keeps {s : State} (h : Keeps s0 s) (c : Nat) (cmd : FigCmd) (status : Nat) :
    Keeps s0 (State.figNow s c cmd status) := by
  unfold State.figNow
  repeat' first
    | with_reducible assumption | intro _ | with_reducible apply State.figEndWith_keeps | dsimp only | with_reducible apply mk_keeps

theorem State.figBegin_keeps {s : State} (h : Keeps s0 s) (c : Nat) (cmd : FigCmd) : Keeps s0 (State.figBegin s c cmd) := by
  unfold State.figBegin
  repeat' first
    | with_reducible assumption | intro _ | with_reducible apply State.onCell_keeps | with_reducible apply cell_wf | dsimp only
    | with_reducible apply mk_keeps

theorem State.figEndAll_keeps {s : State} (h : Keeps s0 s) (c : Nat) (code : Nat) (status : Nat) :
    Keeps s0 (State.figEndAll s c code status) := by
  unfold State.figEndAll
  repeat' first
    | with_reducible assumption | intro _ | with_reducible apply State.figEnd_keeps | with_reducible apply foldl_keeps
    | with_reducible apply foldl_fst_keeps | dsimp only | with_reducible apply mk_keeps

theorem State.doLoad_keeps {s : State} (h : Keeps s0 s) (c : Nat) (cmd : FigCmd) : Keeps s0 (State.doLoad s c cmd) := by
  unfold State.doLoad
  repeat' first
    | with_reducible assumption | intro _ | with_reducible apply State.figNow_keeps | with_reducible apply State.setSlot_keeps
    | with_reducible apply State.figBegin_keeps | with_reducible apply ite_keeps | dsimp only | split | with_reducible apply mk_keeps

theorem State.doStage_keeps {s : State} (h : Keeps s0 s) (c : Nat) (cmd : FigCmd) : Keeps s0 (State.doStage s c cmd) := by
  unfold State.doStage
  repeat' first
    | with_reducible assumption | intro _ | with_reducible apply State.figNow_keeps | with_reducible apply State.onCell_keeps
    | with_reducible apply State.figBegin_keeps | with_reducible apply ite_keeps | with_reducible apply cell_wf | dsimp only | split
    | with_reducible apply mk_keeps

theorem State.doDrop_keeps {s : State} (h : Keeps s0 s) (c : Nat) (cmd : FigCmd) : Keeps s0 (State.doDrop s c cmd) := by
  unfold State.doDrop
  repeat' first
    | with_reducible assumption | intro _ | with_reducible apply State.figNow_keeps | with_reducible apply State.setSlot_keeps
    | with_reducible apply ite_keeps | dsimp only | split | with_reducible apply mk_keeps

theorem Cell.closeFor_wf {k : Cell} (h : Memory.wf k.tiers.tiles = true)  : Memory.wf (Cell.closeFor k).tiers.tiles = true := by
  unfold Cell.closeFor
  repeat' first
    | with_reducible assumption | intro _ | with_reducible apply Cell.onRun_wf | with_reducible apply wf_foldl | dsimp only

theorem Cell.reopen_wf {k : Cell} (h : Memory.wf k.tiers.tiles = true)  : Memory.wf (Cell.reopen k).tiers.tiles = true := by
  unfold Cell.reopen
  repeat' first
    | with_reducible assumption | intro _ | dsimp only

theorem Cell.clearArm_wf {k : Cell} (h : Memory.wf k.tiers.tiles = true)  : Memory.wf (Cell.clearArm k).tiers.tiles = true := by
  unfold Cell.clearArm
  repeat' first
    | with_reducible assumption | intro _ | with_reducible apply Cell.reopen_wf | dsimp only

theorem State.abandonSwap_keeps {s : State} (h : Keeps s0 s) (c : Nat) : Keeps s0 (State.abandonSwap s c) := by
  unfold State.abandonSwap
  repeat' first
    | with_reducible assumption | intro _ | with_reducible apply State.figEndAll_keeps | with_reducible apply State.onCell_keeps
    | with_reducible apply ite_keeps | with_reducible apply Cell.clearArm_wf | with_reducible apply cell_wf | dsimp only | split
    | with_reducible apply mk_keeps

theorem State.doArm_keeps {s : State} (h : Keeps s0 s) (c : Nat) (cmd : FigCmd) (cond : BitVec 64) :
    Keeps s0 (State.doArm s c cmd cond) := by
  unfold State.doArm
  repeat' first
    | with_reducible assumption | intro _ | with_reducible apply State.figNow_keeps | with_reducible apply State.onCell_keeps
    | with_reducible apply State.abandonSwap_keeps | with_reducible apply ite_keeps | with_reducible apply Cell.closeFor_wf
    | with_reducible apply cell_wf | dsimp only | split | refine fst_keeps (by with_reducible assumption) ?_
    | refine snd_keeps (by with_reducible assumption) ?_ | with_reducible apply mk_keeps

theorem State.doDisarm_keeps {s : State} (h : Keeps s0 s) (c : Nat) (cmd : FigCmd) : Keeps s0 (State.doDisarm s c cmd) := by
  unfold State.doDisarm
  repeat' first
    | with_reducible assumption | intro _ | with_reducible apply State.figNow_keeps | with_reducible apply State.onCell_keeps
    | with_reducible apply ite_keeps | with_reducible apply Cell.clearArm_wf | with_reducible apply cell_wf | dsimp only | split
    | with_reducible apply mk_keeps

theorem State.doFigure_keeps {s : State} (h : Keeps s0 s) (c : Nat) (code : Nat) (slot : Nat) (cond : BitVec 64) (who : BitVec 8) :
    Keeps s0 (State.doFigure s c code slot cond who) := by
  unfold State.doFigure
  repeat' first
    | with_reducible assumption | intro _ | with_reducible apply State.figNow_keeps | with_reducible apply State.doLoad_keeps
    | with_reducible apply State.doStage_keeps | with_reducible apply State.doArm_keeps | with_reducible apply State.doDisarm_keeps
    | with_reducible apply State.doDrop_keeps | with_reducible apply ite_keeps | dsimp only | split
    | refine fst_keeps (by with_reducible assumption) ?_ | refine snd_keeps (by with_reducible assumption) ?_
    | with_reducible apply mk_keeps

theorem State.figCommand_keeps {s : State} (h : Keeps s0 s) (who : BitVec 8) (mask : BitVec 8) (code : Nat) (slot : Nat) (cond : BitVec 64) :
    Keeps s0 (State.figCommand s who mask code slot cond) := by
  unfold State.figCommand
  repeat' first
    | with_reducible assumption | intro _ | with_reducible apply State.discard_keeps | with_reducible apply State.doFigure_keeps
    | with_reducible apply ite_keeps | with_reducible apply foldl_keeps | with_reducible apply foldl_fst_keeps
    | with_reducible apply cell_wf | with_reducible apply wf_foldl | dsimp only | split | with_reducible apply mk_keeps

theorem State.rebind_keeps {s : State} (h : Keeps s0 s) (n : Nat) (b : BindReg) : Keeps s0 (State.rebind s n b) := by
  unfold State.rebind
  repeat' first
    | with_reducible assumption | intro _ | with_reducible apply State.emptyChan_keeps | with_reducible apply State.onCell_keeps
    | with_reducible apply State.err_keeps | with_reducible apply ite_keeps | with_reducible apply cell_wf | dsimp only | split
    | refine fst_keeps (by with_reducible assumption) ?_ | refine snd_keeps (by with_reducible assumption) ?_
    | with_reducible apply mk_keeps

theorem State.bindPlane_keeps {s : State} (h : Keeps s0 s) (c : Nat) (g : Figure) : Keeps s0 (State.bindPlane s c g) := by
  unfold State.bindPlane
  repeat' first
    | with_reducible assumption | intro _ | with_reducible apply State.rebind_keeps | with_reducible apply foldl_keeps
    | with_reducible apply foldl_fst_keeps | dsimp only | split | refine fst_keeps (by with_reducible assumption) ?_
    | refine snd_keeps (by with_reducible assumption) ?_ | with_reducible apply mk_keeps

theorem State.writeBind_keeps {s : State} (h : Keeps s0 s) (who : BitVec 8) (chan : Nat) (value : BitVec 32) :
    Keeps s0 (State.writeBind s who chan value) := by
  unfold State.writeBind
  repeat' first
    | with_reducible assumption | intro _ | with_reducible apply State.discard_keeps | with_reducible apply State.rebind_keeps
    | with_reducible apply ite_keeps | with_reducible apply cell_wf | dsimp only | split | with_reducible apply mk_keeps

theorem Cell.crossTenant_wf {k : Cell} (h : Memory.wf k.tiers.tiles = true) (f : Figure) (g : Figure) (keep : Bool) (carried : Bool) (dropped : Bool) (t : Nat) :
    Memory.wf (Cell.crossTenant k f g keep carried dropped t).tiers.tiles = true := by
  unfold Cell.crossTenant
  repeat' first
    | with_reducible assumption | intro _ | with_reducible apply Cell.onRun_wf | with_reducible apply Cell.onVer_wf
    | with_reducible apply Cell.onEntry_wf | with_reducible apply wf_foldl | dsimp only | split

theorem State.dropRefs_keeps {s : State} (h : Keeps s0 s) (c : Nat) (t : Nat) : Keeps s0 (State.dropRefs s c t) := by
  unfold State.dropRefs
  repeat' first
    | with_reducible assumption | intro _ | with_reducible apply State.dropRef_keeps | with_reducible apply foldl_keeps
    | with_reducible apply foldl_fst_keeps | dsimp only | split | refine fst_keeps (by with_reducible assumption) ?_
    | refine snd_keeps (by with_reducible assumption) ?_ | with_reducible apply mk_keeps

theorem State.crossTenants_keeps {s : State} (h : Keeps s0 s) (c : Nat) (f : Figure) (g : Figure) :
    Keeps s0 (State.crossTenants s c f g) := by
  unfold State.crossTenants
  repeat' first
    | with_reducible assumption | intro _ | with_reducible apply State.onCell_keeps | with_reducible apply State.dropRefs_keeps
    | with_reducible apply foldl_keeps | with_reducible apply foldl_fst_keeps | with_reducible apply Cell.crossTenant_wf
    | with_reducible apply cell_wf | with_reducible apply wf_foldl | dsimp only | with_reducible apply mk_keeps

theorem Cell.flip_wf {k : Cell} (h : Memory.wf k.tiers.tiles = true) (g : Figure) : Memory.wf (Cell.flip k g).tiers.tiles = true := by
  unfold Cell.flip
  repeat' first
    | with_reducible assumption | intro _ | dsimp only

theorem State.limitNotice_keeps {s : State} (h : Keeps s0 s) (old : Nat) : Keeps s0 (State.limitNotice s old) := by
  unfold State.limitNotice
  repeat' first
    | with_reducible assumption | intro _ | with_reducible apply State.err_keeps | with_reducible apply ite_keeps | dsimp only | split
    | with_reducible apply mk_keeps

theorem State.swapTo_keeps {s : State} (h : Keeps s0 s) (c : Nat) (g : Figure) : Keeps s0 (State.swapTo s c g) := by
  unfold State.swapTo
  repeat' first
    | with_reducible assumption | intro _ | with_reducible apply State.shuffle_keeps | with_reducible apply State.crossTenants_keeps
    | with_reducible apply State.onCell_keeps | with_reducible apply State.bindPlane_keeps | with_reducible apply State.figEndAll_keeps
    | with_reducible apply State.limitNotice_keeps | with_reducible apply State.boundary_keeps | with_reducible apply ite_keeps
    | with_reducible apply Cell.flip_wf | with_reducible apply Cell.clearArm_wf | with_reducible apply cell_wf | dsimp only | split
    | with_reducible apply mk_keeps

theorem State.sealEmpty_keeps {s : State} (h : Keeps s0 s) (c : Nat) (tenants : List Nat) (why : Nat) :
    Keeps s0 (State.sealEmpty s c tenants why) := by
  unfold State.sealEmpty
  repeat' first
    | with_reducible assumption | intro _ | with_reducible apply State.emptySeal_keeps | with_reducible apply State.onCell_keeps
    | with_reducible apply ite_keeps | with_reducible apply foldl_keeps | with_reducible apply foldl_fst_keeps
    | with_reducible apply cell_wf | with_reducible apply wf_foldl | dsimp only | split | with_reducible apply mk_keeps

theorem State.stopNow_keeps {s : State} (h : Keeps s0 s) (c : Nat) : Keeps s0 (State.stopNow s c) := by
  unfold State.stopNow
  repeat' first
    | with_reducible assumption | intro _ | with_reducible apply State.sealEmpty_keeps | dsimp only | with_reducible apply mk_keeps

end Sys2Proof.Machine
end

