-- ==== Sys2Proof/Laws/KeepsControl.lean ====
section
/-!
SUPPORT. What each operation of control, power, stores and security does to the frame of a run (Keeps): one law per operation.
-/

namespace Sys2Proof.Machine

variable {s0 s : State}

theorem Cell.askTests_wf {k : Cell} (h : Memory.wf k.tiers.tiles = true) (src : Source) (e : Entry) :
    Memory.wf (Cell.askTests k src e).tiers.tiles = true := by
  unfold Cell.askTests
  repeat' first
    | with_reducible assumption | intro _ | with_reducible apply Cell.onCore_wf | with_reducible apply wf_foldl | dsimp only | split

theorem State.doTest_keeps {s : State} (h : Keeps s0 s) (c : Nat) (src : Source) (e : Entry) : Keeps s0 (State.doTest s c src e) := by
  unfold State.doTest
  repeat' first
    | with_reducible assumption | intro _ | with_reducible apply State.complete_keeps | with_reducible apply State.wake_keeps
    | with_reducible apply State.onCell_keeps | with_reducible apply ite_keeps | with_reducible apply foldl_keeps
    | with_reducible apply foldl_fst_keeps | with_reducible apply Cell.askTests_wf | with_reducible apply cell_wf
    | with_reducible apply wf_foldl | dsimp only | split | with_reducible apply mk_keeps

theorem State.testRecord_keeps {s : State} (h : Keeps s0 s) (c : Nat) (unit : Nat) (passed : Bool) :
    Keeps s0 (State.testRecord s c unit passed) := by
  unfold State.testRecord
  repeat' first
    | with_reducible assumption | intro _ | with_reducible apply State.err_keeps | with_reducible apply ite_keeps | dsimp only | split
    | with_reducible apply mk_keeps

theorem State.coreTested_keeps {s : State} (h : Keeps s0 s) (c : Nat) (n : Nat) (passed : Bool) :
    Keeps s0 (State.coreTested s c n passed) := by
  unfold State.coreTested
  repeat' first
    | with_reducible assumption | intro _ | with_reducible apply State.onCell_keeps | with_reducible apply State.onCore_keeps
    | with_reducible apply State.err_keeps | with_reducible apply State.storeLater_keeps | with_reducible apply ite_keeps
    | with_reducible apply foldl_keeps | with_reducible apply foldl_fst_keeps | with_reducible apply Cell.onCore_wf
    | with_reducible apply Cell.onRun_wf | with_reducible apply cell_wf | with_reducible apply wf_foldl | dsimp only | split
    | with_reducible apply mk_keeps

theorem State.switchTested_keeps {s : State} (h : Keeps s0 s) (c : Nat) (passed : Bool) : Keeps s0 (State.switchTested s c passed) := by
  unfold State.switchTested
  repeat' first
    | with_reducible assumption | intro _ | with_reducible apply State.onCell_keeps | with_reducible apply State.pump_keeps
    | with_reducible apply State.portDown_keeps | with_reducible apply ite_keeps | with_reducible apply foldl_keeps
    | with_reducible apply foldl_fst_keeps | with_reducible apply cell_wf | with_reducible apply wf_foldl | dsimp only | split
    | with_reducible apply mk_keeps

theorem State.udieTested_keeps {s : State} (h : Keeps s0 s) (c : Nat) (passed : Bool) : Keeps s0 (State.udieTested s c passed) := by
  unfold State.udieTested
  repeat' first
    | with_reducible assumption | intro _ | with_reducible apply State.onCell_keeps | with_reducible apply ite_keeps
    | with_reducible apply cell_wf | dsimp only | split | with_reducible apply mk_keeps

theorem State.finishTests_keeps {s : State} (h : Keeps s0 s) (c : Nat) : Keeps s0 (State.finishTests s c) := by
  unfold State.finishTests
  repeat' first
    | with_reducible assumption | intro _ | with_reducible apply State.onCell_keeps | with_reducible apply State.complete_keeps
    | with_reducible apply ite_keeps | with_reducible apply foldl_keeps | with_reducible apply foldl_fst_keeps
    | with_reducible apply cell_wf | with_reducible apply wf_foldl | dsimp only | split | with_reducible apply mk_keeps

theorem State.doRun_keeps {s : State} (h : Keeps s0 s) (c : Nat) (src : Source) (e : Entry) : Keeps s0 (State.doRun s c src e) := by
  unfold State.doRun
  repeat' first
    | with_reducible assumption | intro _ | with_reducible apply State.complete_keeps | with_reducible apply State.onCell_keeps
    | with_reducible apply ite_keeps | with_reducible apply Cell.onRun_wf | with_reducible apply cell_wf | dsimp only | split
    | with_reducible apply mk_keeps

theorem State.doWrite_keeps {s : State} (h : Keeps s0 s) (c : Nat) (src : Source) (e : Entry) : Keeps s0 (State.doWrite s c src e) := by
  unfold State.doWrite
  repeat' first
    | with_reducible assumption | intro _ | with_reducible apply State.complete_keeps | with_reducible apply State.onCell_keeps
    | with_reducible apply State.boundarySoon_keeps | with_reducible apply ite_keeps | with_reducible apply cell_wf | dsimp only | split
    | with_reducible apply mk_keeps

theorem State.doMailbox_keeps {s : State} (h : Keeps s0 s) (c : Nat) (src : Source) (e : Entry) : Keeps s0 (State.doMailbox s c src e) := by
  unfold State.doMailbox
  repeat' first
    | with_reducible assumption | intro _ | with_reducible apply State.complete_keeps | with_reducible apply State.onDir_keeps
    | with_reducible apply State.ring_keeps | with_reducible apply ite_keeps | dsimp only | split
    | refine fst_keeps (by with_reducible assumption) ?_ | refine snd_keeps (by with_reducible assumption) ?_
    | with_reducible apply mk_keeps

theorem State.setTurnPlan_keeps {s : State} (h : Keeps s0 s) (c : Nat) (v : BitVec 64) : Keeps s0 (State.setTurnPlan s c v) := by
  unfold State.setTurnPlan
  repeat' first
    | with_reducible assumption | intro _ | with_reducible apply State.onCell_keeps | with_reducible apply cell_wf | dsimp only
    | with_reducible apply mk_keeps

theorem State.setJobStep_keeps {s : State} (h : Keeps s0 s) (c : Nat) (t : Nat) (v : BitVec 64) :
    Keeps s0 (State.setJobStep s c t v).1 := by
  unfold State.setJobStep
  repeat' first
    | with_reducible assumption | intro _ | with_reducible apply State.onCell_keeps | with_reducible apply ite_keeps
    | with_reducible apply ite_fst_keeps | with_reducible apply Cell.onRun_wf | with_reducible apply cell_wf | dsimp only | split
    | with_reducible apply mk_keeps

theorem State.quarRelease_keeps {s : State} (h : Keeps s0 s) (c : Nat) (v : Nat) : Keeps s0 (State.quarRelease s c v) := by
  unfold State.quarRelease
  repeat' first
    | with_reducible assumption | intro _ | with_reducible apply State.endQuarantine_keeps | with_reducible apply ite_keeps
    | with_reducible apply foldl_keeps | with_reducible apply foldl_fst_keeps | dsimp only | split | with_reducible apply mk_keeps

theorem State.doRegister_keeps {s : State} (h : Keeps s0 s) (c : Nat) (src : Source) (e : Entry) :
    Keeps s0 (State.doRegister s c src e) := by
  unfold State.doRegister
  repeat' first
    | with_reducible assumption | intro _ | with_reducible apply State.complete_keeps | with_reducible apply State.setTurnPlan_keeps
    | with_reducible apply State.setJobStep_keeps | with_reducible apply State.discard_keeps
    | with_reducible apply State.quarRelease_keeps | with_reducible apply ite_keeps | dsimp only | split
    | refine fst_keeps (by with_reducible assumption) ?_ | refine snd_keeps (by with_reducible assumption) ?_
    | with_reducible apply mk_keeps

theorem State.doEntry_keeps {s : State} (h : Keeps s0 s) (c : Nat) (src : Source) (e : Entry) : Keeps s0 (State.doEntry s c src e) := by
  unfold State.doEntry
  repeat' first
    | with_reducible assumption | intro _ | with_reducible apply State.complete_keeps | with_reducible apply State.cmdServed_keeps
    | with_reducible apply State.doTensor_keeps | with_reducible apply State.doLoadImage_keeps | with_reducible apply State.doRun_keeps
    | with_reducible apply State.doRequest_keeps | with_reducible apply State.doCancel_keeps | with_reducible apply State.doSetup_keeps
    | with_reducible apply State.doVersion_keeps | with_reducible apply State.doFetch_keeps | with_reducible apply State.doRefetch_keeps
    | with_reducible apply State.doTest_keeps | with_reducible apply State.doMailbox_keeps | with_reducible apply State.doWrite_keeps
    | with_reducible apply State.doRegister_keeps | with_reducible apply State.doBind_keeps
    | with_reducible apply State.doRuleLoad_keeps | with_reducible apply State.doMode_keeps
    | with_reducible apply State.doSnapshot_keeps | with_reducible apply State.doAnswer_keeps
    | with_reducible apply State.doRepair_keeps | with_reducible apply ite_keeps | dsimp only | split
    | refine fst_keeps (by with_reducible assumption) ?_ | refine snd_keeps (by with_reducible assumption) ?_
    | with_reducible apply mk_keeps

theorem State.fetchFailed_keeps {s : State} (h : Keeps s0 s) (n : Nat) (c : Nat) : Keeps s0 (State.fetchFailed s n c) := by
  unfold State.fetchFailed
  repeat' first
    | with_reducible assumption | intro _ | with_reducible apply State.onFn_keeps | with_reducible apply State.ringError_keeps
    | with_reducible apply State.err_keeps | dsimp only | with_reducible apply mk_keeps

theorem State.figureUnit_keeps {s : State} (h : Keeps s0 s) (c : Nat) (who : BitVec 8) (u : Entry) :
    Keeps s0 (State.figureUnit s c who u) := by
  unfold State.figureUnit
  repeat' first
    | with_reducible assumption | intro _ | with_reducible apply State.figEndWith_keeps | with_reducible apply State.doFigure_keeps
    | with_reducible apply ite_keeps | dsimp only | split | with_reducible apply mk_keeps

theorem State.mailUnit_keeps {s : State} (h : Keeps s0 s) (c : Nat) (who : BitVec 8) (cls : Nat) (u : Entry) :
    Keeps s0 (State.mailUnit s c who cls u) := by
  unfold State.mailUnit
  repeat' first
    | with_reducible assumption | intro _ | with_reducible apply State.onCell_keeps | with_reducible apply State.wake_keeps
    | with_reducible apply State.doEntry_keeps | with_reducible apply State.mail_keeps | with_reducible apply State.figureUnit_keeps
    | with_reducible apply State.takeRoutes_keeps | with_reducible apply cell_wf | dsimp only | split
    | refine fst_keeps (by with_reducible assumption) ?_ | refine snd_keeps (by with_reducible assumption) ?_
    | with_reducible apply mk_keeps

theorem State.takeMail_keeps {s : State} (h : Keeps s0 s) (c : Nat) (p : Nat) (x : Frame) : Keeps s0 (State.takeMail s c p x) := by
  unfold State.takeMail
  repeat' first
    | with_reducible assumption | intro _ | with_reducible apply State.countError_keeps | with_reducible apply State.emit_keeps
    | with_reducible apply State.mailUnit_keeps | with_reducible apply State.renewMail_keeps | with_reducible apply ite_keeps
    | with_reducible apply foldl_keeps | with_reducible apply foldl_fst_keeps | dsimp only | split
    | refine fst_keeps (by with_reducible assumption) ?_ | refine snd_keeps (by with_reducible assumption) ?_
    | with_reducible apply mk_keeps

theorem State.anchorFrame_keeps {s : State} (h : Keeps s0 s) (c : Nat) (x : Frame) : Keeps s0 (State.anchorFrame s c x) := by
  unfold State.anchorFrame
  repeat' first
    | with_reducible assumption | intro _ | with_reducible apply State.takeMail_keeps
    | refine State.joinRelay_keeps (by with_reducible assumption) ?_ | with_reducible apply State.takeLeave_keeps
    | with_reducible apply State.levelFrame_keeps | with_reducible apply State.takeBeat_keeps
    | with_reducible apply State.takeSeal_keeps | with_reducible apply ite_keeps | dsimp only | split
    | refine fst_keeps (by with_reducible assumption) ?_ | refine snd_keeps (by with_reducible assumption) ?_
    | with_reducible apply mk_keeps

theorem Cell.cutApply_wf {k : Cell} (h : Memory.wf k.tiers.tiles = true)  : Memory.wf (Cell.cutApply k).tiers.tiles = true := by
  unfold Cell.cutApply
  repeat' first
    | with_reducible assumption | intro _ | dsimp only

theorem State.haltGen_keeps {s : State} (h : Keeps s0 s) (c : Nat) : Keeps s0 (State.haltGen s c) := by
  unfold State.haltGen
  repeat' first
    | with_reducible assumption | intro _ | with_reducible apply State.sealRequests_keeps | with_reducible apply State.onCells_keeps
    | with_reducible apply ite_keeps | with_reducible apply Cell.endStep_wf | with_reducible apply cell_wf | dsimp only | split
    | with_reducible apply mk_keeps

theorem State.haltSeal_keeps {s : State} (h : Keeps s0 s) (c : Nat) (t : Nat) (d : Bool × Nat) (time : Nat) :
    Keeps s0 (State.haltSeal s c t d time) := by
  unfold State.haltSeal
  repeat' first
    | with_reducible assumption | intro _ | with_reducible apply State.voidRecords_keeps | with_reducible apply State.onCell_keeps
    | with_reducible apply Cell.standCounters_wf | with_reducible apply Cell.takeDecision_wf | with_reducible apply Cell.sealLearn_wf
    | with_reducible apply cell_wf | dsimp only | with_reducible apply mk_keeps

theorem State.haltLearn_keeps {s : State} (h : Keeps s0 s) (t : Nat) : Keeps s0 (State.haltLearn s t) := by
  unfold State.haltLearn
  repeat' first
    | with_reducible assumption | intro _ | with_reducible apply State.fixScales_keeps | with_reducible apply State.onCoord_keeps
    | with_reducible apply State.haltSeal_keeps | with_reducible apply State.gatherEntries_keeps
    | with_reducible apply State.writeSeal_keeps | with_reducible apply State.onCell_keeps | with_reducible apply ite_keeps
    | with_reducible apply foldl_keeps | with_reducible apply foldl_fst_keeps | with_reducible apply Cell.endLearn_wf
    | with_reducible apply cell_wf | with_reducible apply wf_foldl | dsimp only | split | with_reducible apply mk_keeps

theorem Cell.halt_wf {k : Cell} (h : Memory.wf k.tiers.tiles = true)  : Memory.wf (Cell.halt k).tiers.tiles = true := by
  unfold Cell.halt
  repeat' first
    | with_reducible assumption | intro _ | with_reducible apply Cell.cutApply_wf | dsimp only

theorem State.signalSafe_keeps {s : State} (h : Keeps s0 s)  : Keeps s0 (State.signalSafe s) := by
  unfold State.signalSafe
  repeat' first
    | with_reducible assumption | intro _ | with_reducible apply State.emit_keeps | with_reducible apply ite_keeps | dsimp only | split
    | with_reducible apply mk_keeps

theorem State.enterSafe_keeps {s : State} (h : Keeps s0 s)  : Keeps s0 (State.enterSafe s) := by
  unfold State.enterSafe
  repeat' first
    | with_reducible assumption | intro _ | with_reducible apply State.abandonSwap_keeps | with_reducible apply State.causeAll_keeps
    | with_reducible apply State.stopShuffle_keeps | with_reducible apply State.haltGen_keeps
    | with_reducible apply State.haltLearn_keeps | with_reducible apply State.onCell_keeps | with_reducible apply State.signalSafe_keeps
    | with_reducible apply ite_keeps | with_reducible apply foldl_keeps | with_reducible apply foldl_fst_keeps
    | with_reducible apply Cell.halt_wf | with_reducible apply cell_wf | with_reducible apply wf_foldl | dsimp only | split
    | with_reducible apply mk_keeps

theorem State.powerFail_keeps {s : State} (h : Keeps s0 s)  : Keeps s0 (State.powerFail s) := by
  unfold State.powerFail
  repeat' first
    | with_reducible assumption | intro _ | with_reducible apply State.abandonSwap_keeps | with_reducible apply State.causeAll_keeps
    | with_reducible apply State.stopShuffle_keeps | with_reducible apply foldl_keeps | with_reducible apply foldl_fst_keeps
    | with_reducible apply cell_wf | with_reducible apply wf_foldl | dsimp only | with_reducible apply mk_keeps

theorem State.measureVin_keeps {s : State} (h : Keeps s0 s) (mv : Nat) : Keeps s0 (State.measureVin s mv) := by
  unfold State.measureVin
  repeat' first
    | with_reducible assumption | intro _ | dsimp only | with_reducible apply mk_keeps

theorem foldl_cells_wf (f : Nat → Cell) (hf : ∀ c, Memory.wf (f c).tiers.tiles = true) (l : List Nat) {m : SMap Cell}
    (hm : SMap.wf Cell.reset m = true) (ht : ∀ c, Memory.wf (m.get Cell.reset c).tiers.tiles = true) :
    SMap.wf Cell.reset (l.foldl (fun (m : SMap Cell) c => m.set Cell.reset c (f c)) m) = true ∧
      ∀ c, Memory.wf ((l.foldl (fun (m : SMap Cell) c => m.set Cell.reset c (f c)) m).get Cell.reset c).tiers.tiles = true := by
  induction l generalizing m with
  | nil => exact ⟨hm, ht⟩
  | cons a l ih =>
    refine ih (SMap.wf_set a (f a) hm) (fun c => ?_)
    rw [SMap.get_set]
    split
    · exact hf a
    · exact ht c

theorem State.moduleReset_keeps {s : State} (h : Keeps s0 s) : Keeps s0 s.moduleReset :=
  have k := foldl_cells_wf (fun c => { Cell.reset with
    fig := { FigState.reset with persist := (s.flash.starts.get none c).isSome }
    cores := (s.flash.fences.filter (fun n => n / 128 = c)).foldl (fun (m : SMap Core) n =>
      m.set Core.reset (n % 128) { Core.reset with fenced := true, permFence := true }) [] }) (fun _ => rfl) allCells
    (m := []) rfl (fun _ => rfl)
  ⟨h.pending, h.now, fun _ => ⟨k.1, rfl, rfl, rfl, k.2⟩⟩

theorem State.startIslands_keeps {s : State} (h : Keeps s0 s)  : Keeps s0 (State.startIslands s) := by
  unfold State.startIslands
  repeat' first
    | with_reducible assumption | intro _ | with_reducible apply ite_keeps | dsimp only | split | with_reducible apply mk_keeps

theorem State.nameKeyless_keeps {s : State} (h : Keeps s0 s)  : Keeps s0 (State.nameKeyless s) := by
  unfold State.nameKeyless
  repeat' first
    | with_reducible assumption | intro _ | with_reducible apply State.err_keeps | with_reducible apply foldl_keeps
    | with_reducible apply foldl_fst_keeps | with_reducible apply cell_wf | with_reducible apply wf_foldl | dsimp only
    | with_reducible apply mk_keeps

theorem State.strapNotice_keeps {s : State} (h : Keeps s0 s)  : Keeps s0 (State.strapNotice s) := by
  unfold State.strapNotice
  repeat' first
    | with_reducible assumption | intro _ | with_reducible apply State.err_keeps | with_reducible apply ite_keeps | dsimp only | split
    | with_reducible apply mk_keeps

theorem State.superviseFrom_keeps {s : State} (h : Keeps s0 s) (n : Nat) : Keeps s0 (State.superviseFrom s n) := by
  unfold State.superviseFrom
  repeat' first
    | with_reducible assumption | intro _ | with_reducible apply State.nameKeyless_keeps | with_reducible apply State.strapNotice_keeps
    | with_reducible apply State.enterSafe_keeps | with_reducible apply ite_keeps | dsimp only | split | with_reducible apply mk_keeps

theorem State.startFigure_keeps {s : State} (h : Keeps s0 s) (c : Nat) : Keeps s0 (State.startFigure s c) := by
  unfold State.startFigure
  repeat' first
    | with_reducible assumption | intro _ | with_reducible apply State.boundary_keeps | with_reducible apply State.err_keeps
    | with_reducible apply State.onCell_keeps | with_reducible apply State.swapTo_keeps | with_reducible apply ite_keeps
    | with_reducible apply cell_wf | dsimp only | split | refine fst_keeps (by with_reducible assumption) ?_
    | refine snd_keeps (by with_reducible assumption) ?_ | with_reducible apply mk_keeps

theorem State.returnCell_keeps {s : State} (h : Keeps s0 s) (c : Nat) : Keeps s0 (State.returnCell s c) := by
  unfold State.returnCell
  repeat' first
    | with_reducible assumption | intro _ | with_reducible apply State.boundary_keeps | with_reducible apply State.shuffle_keeps
    | with_reducible apply State.crossTenants_keeps | with_reducible apply State.bindPlane_keeps
    | with_reducible apply State.onCell_keeps | with_reducible apply ite_keeps | with_reducible apply cell_wf | dsimp only | split
    | refine fst_keeps (by with_reducible assumption) ?_ | refine snd_keeps (by with_reducible assumption) ?_
    | with_reducible apply mk_keeps

theorem State.resetKey_keeps {s : State} (h : Keeps s0 s) (key : Nat) : Keeps s0 (State.resetKey s key) := by
  unfold State.resetKey
  repeat' first
    | with_reducible assumption | intro _ | with_reducible apply State.moduleReset_keeps | with_reducible apply State.startIslands_keeps
    | with_reducible apply State.discard_keeps | with_reducible apply ite_keeps | dsimp only | split | with_reducible apply mk_keeps

theorem State.askRestart_keeps {s : State} (h : Keeps s0 s) (c : Nat) (drain : Bool) : Keeps s0 (State.askRestart s c drain) := by
  unfold State.askRestart
  repeat' first
    | with_reducible assumption | intro _ | with_reducible apply State.discard_keeps | with_reducible apply State.onCell_keeps
    | with_reducible apply State.onCells_keeps | with_reducible apply ite_keeps | with_reducible apply cell_wf | dsimp only | split
    | with_reducible apply mk_keeps

theorem Cell.restarted_wf {k : Cell} (h : Memory.wf k.tiers.tiles = true)  : Memory.wf (Cell.restarted k).tiers.tiles = true := by
  unfold Cell.restarted
  repeat' first
    | with_reducible assumption | intro _ | with_reducible apply Memory.wf_set | with_reducible apply Memory.wf_mapKV
    | with_reducible apply Memory.wf_mapV | with_reducible apply Memory.wf_filter | dsimp only

theorem Cell.clearVersions_wf {k : Cell} (h : Memory.wf k.tiers.tiles = true) (waits : Bool) :
    Memory.wf (Cell.clearVersions k waits).tiers.tiles = true := by
  unfold Cell.clearVersions
  repeat' first
    | with_reducible assumption | intro _ | dsimp only

theorem Cell.awaitPointer_wf {k : Cell} (h : Memory.wf k.tiers.tiles = true)  : Memory.wf (Cell.awaitPointer k).tiers.tiles = true := by
  unfold Cell.awaitPointer
  repeat' first
    | with_reducible assumption | intro _ | with_reducible apply Cell.onVer_wf | with_reducible apply wf_foldl | dsimp only

theorem State.cutFigures_keeps {s : State} (h : Keeps s0 s) (c : Nat) : Keeps s0 (State.cutFigures s c) := by
  unfold State.cutFigures
  repeat' first
    | with_reducible assumption | intro _ | with_reducible apply State.abandonSwap_keeps | with_reducible apply State.figEnd_keeps
    | with_reducible apply foldl_keeps | with_reducible apply foldl_fst_keeps | dsimp only | with_reducible apply mk_keeps

theorem State.refusePending_keeps {s : State} (h : Keeps s0 s) (c : Nat) : Keeps s0 (State.refusePending s c) := by
  unfold State.refusePending
  repeat' first
    | with_reducible assumption | intro _ | with_reducible apply State.refuse_keeps | with_reducible apply foldl_keeps
    | with_reducible apply foldl_fst_keeps | dsimp only | with_reducible apply mk_keeps

theorem State.cutFetches_keeps {s : State} (h : Keeps s0 s) (c : Nat) : Keeps s0 (State.cutFetches s c) := by
  unfold State.cutFetches
  repeat' first
    | with_reducible assumption | intro _ | with_reducible apply State.endFetch_keeps | with_reducible apply foldl_keeps
    | with_reducible apply foldl_fst_keeps | dsimp only | with_reducible apply mk_keeps

theorem State.unbindCell_keeps {s : State} (h : Keeps s0 s) (c : Nat) : Keeps s0 (State.unbindCell s c) := by
  unfold State.unbindCell
  repeat' first
    | with_reducible assumption | intro _ | with_reducible apply State.emptyChan_keeps | with_reducible apply State.onCell_keeps
    | with_reducible apply State.err_keeps | with_reducible apply ite_keeps | with_reducible apply foldl_keeps
    | with_reducible apply foldl_fst_keeps | with_reducible apply cell_wf | with_reducible apply wf_foldl | dsimp only | split
    | with_reducible apply mk_keeps

theorem State.adminVoid_keeps {s : State} (h : Keeps s0 s) (c : Nat) : Keeps s0 (State.adminVoid s c) := by
  unfold State.adminVoid
  repeat' first
    | with_reducible assumption | intro _ | with_reducible apply State.sealEmpty_keeps | with_reducible apply cell_wf | dsimp only
    | with_reducible apply mk_keeps

theorem State.beginRestart_keeps {s : State} (h : Keeps s0 s) (c : Nat) : Keeps s0 (State.beginRestart s c) := by
  unfold State.beginRestart
  repeat' first
    | with_reducible assumption | intro _ | with_reducible apply State.cutFigures_keeps | with_reducible apply State.cutFetches_keeps
    | with_reducible apply State.refusePending_keeps | with_reducible apply State.onCells_keeps
    | with_reducible apply State.onCell_keeps | with_reducible apply State.unbindCell_keeps
    | with_reducible apply State.coordinate_keeps | with_reducible apply ite_keeps | with_reducible apply foldl_keeps
    | with_reducible apply foldl_fst_keeps | with_reducible apply Cell.clearVersions_wf | with_reducible apply Cell.awaitPointer_wf
    | with_reducible apply Cell.restarted_wf | with_reducible apply cell_wf | with_reducible apply wf_foldl | dsimp only | split
    | with_reducible apply mk_keeps

theorem State.tryStore_keeps {s : State} (h : Keeps s0 s)  : Keeps s0 (State.tryStore s) := by
  unfold State.tryStore
  repeat' first
    | with_reducible assumption | intro _ | with_reducible apply State.err_keeps | with_reducible apply ite_keeps | dsimp only | split
    | refine fst_keeps (by with_reducible assumption) ?_ | refine snd_keeps (by with_reducible assumption) ?_
    | with_reducible apply mk_keeps

theorem State.fwEnd_keeps {s : State} (h : Keeps s0 s) (code : Nat) (status : Nat) : Keeps s0 (State.fwEnd s code status) := by
  unfold State.fwEnd
  repeat' first
    | with_reducible assumption | intro _ | dsimp only | with_reducible apply mk_keeps

theorem State.storeBundle_keeps {s : State} (h : Keeps s0 s) (bytes : List Byte) (pldm : Bool) :
    Keeps s0 (State.storeBundle s bytes pldm) := by
  unfold State.storeBundle
  repeat' first
    | with_reducible assumption | intro _ | with_reducible apply State.storeLater_keeps | dsimp only | with_reducible apply mk_keeps

theorem State.fwWrite_keeps {s : State} (h : Keeps s0 s) (dmaOk : Bool) (bundle : List Byte) : Keeps s0 (State.fwWrite s dmaOk bundle) := by
  unfold State.fwWrite
  repeat' first
    | with_reducible assumption | intro _ | with_reducible apply State.fwEnd_keeps | with_reducible apply State.storeBundle_keeps
    | with_reducible apply ite_keeps | dsimp only | split | with_reducible apply mk_keeps

theorem State.fwStage_keeps {s : State} (h : Keeps s0 s)  : Keeps s0 (State.fwStage s) := by
  unfold State.fwStage
  repeat' first
    | with_reducible assumption | intro _ | with_reducible apply State.fwEnd_keeps | with_reducible apply ite_keeps | dsimp only | split
    | refine fst_keeps (by with_reducible assumption) ?_ | refine snd_keeps (by with_reducible assumption) ?_
    | with_reducible apply mk_keeps

theorem State.fwCells_keeps {s : State} (h : Keeps s0 s)  : Keeps s0 (State.fwCells s) := by
  unfold State.fwCells
  repeat' first
    | with_reducible assumption | intro _ | with_reducible apply State.onCell_keeps | with_reducible apply State.boundarySoon_keeps
    | with_reducible apply foldl_keeps | with_reducible apply foldl_fst_keeps | with_reducible apply cell_wf
    | with_reducible apply wf_foldl | dsimp only | with_reducible apply mk_keeps

theorem State.fwSwitch_keeps {s : State} (h : Keeps s0 s)  : Keeps s0 (State.fwSwitch s) := by
  unfold State.fwSwitch
  repeat' first
    | with_reducible assumption | intro _ | with_reducible apply State.fwEnd_keeps | with_reducible apply State.fwCells_keeps
    | with_reducible apply cell_wf | dsimp only | split | refine fst_keeps (by with_reducible assumption) ?_
    | refine snd_keeps (by with_reducible assumption) ?_ | with_reducible apply mk_keeps

theorem State.fwCommit_keeps {s : State} (h : Keeps s0 s)  : Keeps s0 (State.fwCommit s) := by
  unfold State.fwCommit
  repeat' first
    | with_reducible assumption | intro _ | with_reducible apply State.storeLater_keeps | with_reducible apply State.fwEnd_keeps
    | dsimp only | split | refine fst_keeps (by with_reducible assumption) ?_ | refine snd_keeps (by with_reducible assumption) ?_
    | with_reducible apply mk_keeps

theorem State.fwRevert_keeps {s : State} (h : Keeps s0 s)  : Keeps s0 (State.fwRevert s) := by
  unfold State.fwRevert
  repeat' first
    | with_reducible assumption | intro _ | with_reducible apply State.fwEnd_keeps | with_reducible apply State.fwCells_keeps
    | with_reducible apply ite_keeps | with_reducible apply cell_wf | dsimp only | split | with_reducible apply mk_keeps

theorem State.fwCommand_keeps {s : State} (h : Keeps s0 s) (f : State → State) (hf : ∀ x, Keeps s0 x → Keeps s0 (f x)) :
    Keeps s0 (s.fwCommand f) := by
  unfold State.fwCommand
  split
  · exact State.discard_keeps h ..
  · exact hf _ h

theorem State.raiseFloor_keeps {s : State} (h : Keeps s0 s) (fig : Bool) (v : BitVec 32) : Keeps s0 (State.raiseFloor s fig v) := by
  unfold State.raiseFloor
  repeat' first
    | with_reducible assumption | intro _ | with_reducible apply State.storeLater_keeps | with_reducible apply State.discard_keeps
    | with_reducible apply ite_keeps | dsimp only | split | with_reducible apply mk_keeps

theorem State.enrol_keeps {s : State} (h : Keeps s0 s) (len : Nat) : Keeps s0 (State.enrol s len) := by
  unfold State.enrol
  repeat' first
    | with_reducible assumption | intro _ | with_reducible apply State.discard_keeps | with_reducible apply State.storeLater_keeps
    | with_reducible apply State.err_keeps | with_reducible apply ite_keeps | dsimp only | split
    | refine fst_keeps (by with_reducible assumption) ?_ | refine snd_keeps (by with_reducible assumption) ?_
    | with_reducible apply mk_keeps

theorem State.persist_keeps {s : State} (h : Keeps s0 s) (c : Nat) (v : BitVec 32) : Keeps s0 (State.persist s c v) := by
  unfold State.persist
  repeat' first
    | with_reducible assumption | intro _ | with_reducible apply State.discard_keeps | with_reducible apply State.onCell_keeps
    | with_reducible apply State.storeLater_keeps | with_reducible apply ite_keeps | with_reducible apply cell_wf | dsimp only | split
    | refine fst_keeps (by with_reducible assumption) ?_ | refine snd_keeps (by with_reducible assumption) ?_
    | with_reducible apply mk_keeps

theorem State.verifyComplete_keeps {s : State} (h : Keeps s0 s)  : Keeps s0 (State.verifyComplete s) := by
  unfold State.verifyComplete
  repeat' first
    | with_reducible assumption | intro _ | with_reducible apply State.emit_keeps | dsimp only | with_reducible apply mk_keeps

theorem State.bundleStored_keeps {s : State} (h : Keeps s0 s)  : Keeps s0 (State.bundleStored s) := by
  unfold State.bundleStored
  repeat' first
    | with_reducible assumption | intro _ | with_reducible apply State.moduleReset_keeps | with_reducible apply State.startIslands_keeps
    | with_reducible apply State.fwStage_keeps | with_reducible apply State.verifyComplete_keeps
    | with_reducible apply State.fwEnd_keeps | with_reducible apply ite_keeps | dsimp only | split | with_reducible apply mk_keeps

theorem State.commitStore_keeps {s : State} (h : Keeps s0 s) (x : Store) : Keeps s0 (State.commitStore s x) := by
  unfold State.commitStore
  repeat' first
    | with_reducible assumption | intro _ | with_reducible apply State.onCell_keeps | with_reducible apply State.fwCommit_keeps
    | with_reducible apply State.fwEnd_keeps | with_reducible apply State.bundleStored_keeps | with_reducible apply ite_keeps
    | with_reducible apply cell_wf | dsimp only | split | refine fst_keeps (by with_reducible assumption) ?_
    | refine snd_keeps (by with_reducible assumption) ?_ | with_reducible apply mk_keeps

theorem State.writeManager_keeps {s : State} (h : Keeps s0 s) (v : BitVec 32) : Keeps s0 (State.writeManager s v) := by
  unfold State.writeManager
  repeat' first
    | with_reducible assumption | intro _ | with_reducible apply State.discard_keeps | with_reducible apply ite_keeps | dsimp only
    | split | with_reducible apply mk_keeps

theorem State.writeLimit_keeps {s : State} (h : Keeps s0 s) (v : Nat) : Keeps s0 (State.writeLimit s v) := by
  unfold State.writeLimit
  repeat' first
    | with_reducible assumption | intro _ | with_reducible apply State.discard_keeps | with_reducible apply State.boundarySoon_keeps
    | with_reducible apply State.limitNotice_keeps | with_reducible apply State.coordinate_keeps | with_reducible apply ite_keeps
    | with_reducible apply foldl_keeps | with_reducible apply foldl_fst_keeps | with_reducible apply cell_wf
    | with_reducible apply wf_foldl | dsimp only | split | with_reducible apply mk_keeps

theorem State.writeJobStep_keeps {s : State} (h : Keeps s0 s) (c : Nat) (t : Nat) (v : BitVec 64) :
    Keeps s0 (State.writeJobStep s c t v) := by
  unfold State.writeJobStep
  repeat' first
    | with_reducible assumption | intro _ | with_reducible apply State.setJobStep_keeps | with_reducible apply State.discard_keeps
    | with_reducible apply ite_keeps | dsimp only | split | with_reducible apply mk_keeps

theorem State.askStop_keeps {s : State} (h : Keeps s0 s) (c : Nat) (n : Nat) (who : BitVec 8) : Keeps s0 (State.askStop s c n who) := by
  unfold State.askStop
  repeat' first
    | with_reducible assumption | intro _ | with_reducible apply State.onCell_keeps | with_reducible apply ite_keeps
    | with_reducible apply cell_wf | dsimp only | split | refine fst_keeps (by with_reducible assumption) ?_
    | refine snd_keeps (by with_reducible assumption) ?_ | with_reducible apply mk_keeps

theorem State.capture_keeps {s : State} (h : Keeps s0 s) (c : Nat) (i : BitVec 14) : Keeps s0 (State.capture s c i) := by
  unfold State.capture
  repeat' first
    | with_reducible assumption | intro _ | with_reducible apply State.onCell_keeps | with_reducible apply cell_wf | dsimp only
    | with_reducible apply mk_keeps

theorem State.writeCons_keeps {s : State} (h : Keeps s0 s) (c : Nat) (v : BitVec 32) : Keeps s0 (State.writeCons s c v) := by
  unfold State.writeCons
  repeat' first
    | with_reducible assumption | intro _ | with_reducible apply State.err_keeps | with_reducible apply State.onCell_keeps
    | with_reducible apply State.discard_keeps | with_reducible apply ite_keeps | with_reducible apply cell_wf | dsimp only | split
    | with_reducible apply mk_keeps

theorem State.clearFatal_keeps {s : State} (h : Keeps s0 s) (c : Nat) (v : BitVec 32) : Keeps s0 (State.clearFatal s c v) := by
  unfold State.clearFatal
  repeat' first
    | with_reducible assumption | intro _ | with_reducible apply State.onCell_keeps | with_reducible apply State.err_keeps
    | with_reducible apply ite_keeps | with_reducible apply cell_wf | dsimp only | split | with_reducible apply mk_keeps

theorem State.effecter_keeps {s : State} (h : Keeps s0 s) (n : Nat) (v : Nat) : Keeps s0 (State.effecter s n v) := by
  unfold State.effecter
  repeat' first
    | with_reducible assumption | intro _ | with_reducible apply State.writeLimit_keeps | with_reducible apply State.resetKey_keeps
    | with_reducible apply State.fwCommand_keeps | with_reducible apply State.fwCommit_keeps | with_reducible apply State.fwRevert_keeps
    | with_reducible apply State.askRestart_keeps | with_reducible apply ite_keeps | dsimp only | split | with_reducible apply mk_keeps

theorem State.setSpdm_keeps {s : State} (h : Keeps s0 s) (x : Spdm) : Keeps s0 (State.setSpdm s x) := by
  unfold State.setSpdm
  repeat' first
    | with_reducible assumption | intro _ | with_reducible apply ite_keeps | dsimp only | split | with_reducible apply mk_keeps

theorem State.endSpdm_keeps {s : State} (h : Keeps s0 s) (key : Nat) : Keeps s0 (State.endSpdm s key) := by
  unfold State.endSpdm
  repeat' first
    | with_reducible assumption | intro _ | dsimp only | with_reducible apply mk_keeps

theorem State.spdmError_keeps {s : State} (h : Keeps s0 s) (path : Nat) (code : Nat) : Keeps s0 (State.spdmError s path code) := by
  unfold State.spdmError
  repeat' first
    | with_reducible assumption | intro _ | with_reducible apply State.emit_keeps | dsimp only | with_reducible apply mk_keeps

theorem State.spdmReply_keeps {s : State} (h : Keeps s0 s) (key : Nat) (code : Nat) (l : List Byte) :
    Keeps s0 (State.spdmReply s key code l) := by
  unfold State.spdmReply
  repeat' first
    | with_reducible assumption | intro _ | with_reducible apply State.setSpdm_keeps | with_reducible apply State.spdmError_keeps
    | with_reducible apply State.emit_keeps | with_reducible apply ite_keeps | dsimp only | split
    | refine fst_keeps (by with_reducible assumption) ?_ | refine snd_keeps (by with_reducible assumption) ?_
    | with_reducible apply mk_keeps

theorem State.onSpdm_keeps {s : State} (h : Keeps s0 s) (path : Nat) (cell : Fin 8) (phase : Nat) (f : Nat → Spdm → State → State)
    (hf : ∀ n x y, Keeps s0 y → Keeps s0 (f n x y)) : Keeps s0 (s.onSpdm path cell phase f) := by
  unfold State.onSpdm
  dsimp only
  repeat' split
  all_goals first
    | exact h
    | exact State.spdmError_keeps h ..
    | exact hf _ _ _ h

theorem State.openSpdm_keeps {s : State} (h : Keeps s0 s) (path : Nat) (cell : Fin 8) : Keeps s0 (State.openSpdm s path cell) := by
  unfold State.openSpdm
  repeat' first
    | with_reducible assumption | intro _ | with_reducible apply State.spdmError_keeps | with_reducible apply State.setSpdm_keeps
    | with_reducible apply State.spdmReply_keeps | with_reducible apply ite_keeps | dsimp only | split | with_reducible apply mk_keeps

theorem State.advance_keeps {s : State} (h : Keeps s0 s) (key : Nat) (x : Spdm) (phase : Nat) (code : Nat) (msg : List Byte) :
    Keeps s0 (State.advance s key x phase code msg) := by
  unfold State.advance
  repeat' first
    | with_reducible assumption | intro _ | with_reducible apply State.setSpdm_keeps | with_reducible apply State.spdmReply_keeps
    | dsimp only | with_reducible apply mk_keeps

theorem State.onKorif_keeps {s : State} (h : Keeps s0 s) (path : Nat) (cell : Fin 8) (f : Nat → Spdm → State → State)
    (hf : ∀ n x y, Keeps s0 y → Keeps s0 (f n x y)) : Keeps s0 (s.onKorif path cell f) := by
  refine State.onSpdm_keeps h _ _ _ _ (fun n x y hy => ?_)
  split
  · exact State.spdmError_keeps hy ..
  · exact hf _ _ _ hy

theorem State.inSession_keeps {s : State} (h : Keeps s0 s) (path : Nat) (cell : Fin 8) (f : Nat → Spdm → State → State)
    (hf : ∀ n x y, Keeps s0 y → Keeps s0 (f n x y)) : Keeps s0 (s.inSession path cell f) := by
  refine State.onKorif_keeps h _ _ _ (fun n x y hy => ?_)
  split
  · exact hf _ _ _ hy
  · exact State.spdmError_keeps hy ..

theorem State.mctpControl_keeps {s : State} (h : Keeps s0 s) (i3c : Bool) (command : BitVec 8) (eid : BitVec 8) :
    Keeps s0 (State.mctpControl s i3c command eid) := by
  unfold State.mctpControl
  repeat' first
    | with_reducible assumption | intro _ | with_reducible apply State.emit_keeps | with_reducible apply ite_keeps | dsimp only | split
    | with_reducible apply mk_keeps

theorem State.vendorDenied_keeps {s : State} (h : Keeps s0 s) (who : BitVec 8) (chan : Nat) : Keeps s0 (State.vendorDenied s who chan) := by
  unfold State.vendorDenied
  repeat' first
    | with_reducible assumption | intro _ | with_reducible apply State.strangerAccess_keeps | with_reducible apply State.emit_keeps
    | dsimp only | with_reducible apply mk_keeps

theorem State.vendorSend_keeps {s : State} (h : Keeps s0 s) (who : BitVec 8) (chan : Nat) (doorbell : Bool) (words : List (BitVec 32)) :
    Keeps s0 (State.vendorSend s who chan doorbell words) := by
  unfold State.vendorSend
  repeat' first
    | with_reducible assumption | intro _ | with_reducible apply State.vendorDenied_keeps | with_reducible apply State.emit_keeps
    | with_reducible apply State.sendWord_keeps | with_reducible apply State.sendBell_keeps | with_reducible apply ite_keeps
    | with_reducible apply foldl_keeps | with_reducible apply foldl_fst_keeps | dsimp only | split
    | refine fst_keeps (by with_reducible assumption) ?_ | refine snd_keeps (by with_reducible assumption) ?_
    | with_reducible apply mk_keeps

theorem State.takeWords_keeps {s : State} (h : Keeps s0 s) (n chan : Nat) (l : List (BitVec 32)) :
    Keeps s0 (State.takeWords n s chan l).1 := by
  induction n generalizing s l with
  | zero => exact h
  | succ n ih => exact ih (State.recvWord_keeps h ..) _

theorem State.vendorReceive_keeps {s : State} (h : Keeps s0 s) (who : BitVec 8) (chan : Nat) (n : Nat) :
    Keeps s0 (State.vendorReceive s who chan n) := by
  unfold State.vendorReceive
  repeat' first
    | with_reducible assumption | intro _ | with_reducible apply State.vendorDenied_keeps | with_reducible apply State.takeWords_keeps
    | with_reducible apply State.emit_keeps | dsimp only | split | refine fst_keeps (by with_reducible assumption) ?_
    | refine snd_keeps (by with_reducible assumption) ?_ | with_reducible apply mk_keeps

theorem State.vendorWindow_keeps {s : State} (h : Keeps s0 s) (who : BitVec 8) (chan : Nat) : Keeps s0 (State.vendorWindow s who chan) := by
  unfold State.vendorWindow
  repeat' first
    | with_reducible assumption | intro _ | with_reducible apply State.vendorDenied_keeps | with_reducible apply State.recvWord_keeps
    | with_reducible apply State.emit_keeps | dsimp only | split | refine fst_keeps (by with_reducible assumption) ?_
    | refine snd_keeps (by with_reducible assumption) ?_ | with_reducible apply mk_keeps

theorem State.discardOf_keeps {s : State} (h : Keeps s0 s) (fn : Nat) (off : Nat) : Keeps s0 (State.discardOf s fn off) := by
  unfold State.discardOf
  repeat' first
    | with_reducible assumption | intro _ | with_reducible apply State.discard_keeps | with_reducible apply ite_keeps | dsimp only
    | split | with_reducible apply mk_keeps

theorem State.writeMsix_keeps {s : State} (h : Keeps s0 s) (n : Nat) (i : Nat) (w : BitVec 32) : Keeps s0 (State.writeMsix s n i w) := by
  unfold State.writeMsix
  repeat' first
    | with_reducible assumption | intro _ | with_reducible apply State.onFn_keeps | with_reducible apply State.msix_keeps
    | with_reducible apply ite_keeps | dsimp only | split | with_reducible apply mk_keeps

theorem State.writeRing_keeps {s : State} (h : Keeps s0 s) (n : Nat) (o : Nat) (w : BitVec 32) : Keeps s0 (State.writeRing s n o w) := by
  unfold State.writeRing
  repeat' first
    | with_reducible assumption | intro _ | with_reducible apply State.discardOf_keeps | with_reducible apply State.onFn_keeps
    | with_reducible apply State.ringControl_keeps | with_reducible apply State.ring_keeps | with_reducible apply State.writeTail_keeps
    | with_reducible apply State.writeMsix_keeps | with_reducible apply ite_keeps | dsimp only | split | with_reducible apply mk_keeps

theorem State.writeWindow_keeps {s : State} (h : Keeps s0 s) (who : BitVec 8) (n : Nat) (o : Nat) (w : BitVec 32) :
    Keeps s0 (State.writeWindow s who n o w) := by
  unfold State.writeWindow
  repeat' first
    | with_reducible assumption | intro _ | with_reducible apply State.sendWord_keeps | with_reducible apply State.sendBell_keeps
    | with_reducible apply State.sendClear_keeps | with_reducible apply State.recvClear_keeps | with_reducible apply ite_keeps
    | dsimp only | split | with_reducible apply mk_keeps

theorem State.writeKey_keeps {s : State} (h : Keeps s0 s) (off : Nat) (w : BitVec 32) : Keeps s0 (State.writeKey s off w) := by
  unfold State.writeKey
  repeat' first
    | with_reducible assumption | intro _ | with_reducible apply State.discard_keeps | with_reducible apply ite_keeps | dsimp only
    | split | with_reducible apply mk_keeps

theorem State.writeLoadWindow_keeps {s : State} (h : Keeps s0 s) (off : Nat) (size : Nat) (v : BitVec 64) :
    Keeps s0 (State.writeLoadWindow s off size v) := by
  unfold State.writeLoadWindow
  repeat' first
    | with_reducible assumption | intro _ | with_reducible apply State.discard_keeps | with_reducible apply ite_keeps | dsimp only
    | split | with_reducible apply mk_keeps

theorem State.writeTimeout_keeps {s : State} (h : Keeps s0 s) (t : Nat) (w : BitVec 32) : Keeps s0 (State.writeTimeout s t w) := by
  unfold State.writeTimeout
  repeat' first
    | with_reducible assumption | intro _ | with_reducible apply State.discard_keeps | with_reducible apply ite_keeps | dsimp only
    | split | with_reducible apply mk_keeps

theorem State.fwWriteFree_keeps {s : State} (h : Keeps s0 s)  : Keeps s0 (State.fwWriteFree s) := by
  unfold State.fwWriteFree
  repeat' first
    | with_reducible assumption | intro _ | with_reducible apply State.takeFree_keeps | with_reducible apply State.fwWrite_keeps
    | dsimp only | refine fst_keeps (by with_reducible assumption) ?_ | refine snd_keeps (by with_reducible assumption) ?_
    | with_reducible apply mk_keeps

theorem State.writeFwCmd_keeps {s : State} (h : Keeps s0 s) (code : Nat) : Keeps s0 (State.writeFwCmd s code) := by
  unfold State.writeFwCmd
  repeat' first
    | with_reducible assumption | intro _ | with_reducible apply State.fwCommand_keeps | with_reducible apply State.fwWriteFree_keeps
    | with_reducible apply State.fwStage_keeps | with_reducible apply State.fwSwitch_keeps | with_reducible apply State.fwCommit_keeps
    | with_reducible apply State.fwRevert_keeps | with_reducible apply ite_keeps | dsimp only | split | with_reducible apply mk_keeps

theorem State.writeGlobal_keeps {s : State} (h : Keeps s0 s) (o : Nat) (w : BitVec 32) : Keeps s0 (State.writeGlobal s o w) := by
  unfold State.writeGlobal
  repeat' first
    | with_reducible assumption | intro _ | with_reducible apply State.resetKey_keeps | with_reducible apply State.writeManager_keeps
    | with_reducible apply State.writeLimit_keeps | with_reducible apply State.figCommand_keeps
    | with_reducible apply State.raiseFloor_keeps | with_reducible apply State.writeFwCmd_keeps | with_reducible apply State.enrol_keeps
    | with_reducible apply ite_keeps | dsimp only | split | with_reducible apply mk_keeps

theorem State.writeCell_keeps {s : State} (h : Keeps s0 s) (c : Nat) (o : Nat) (w : BitVec 32) : Keeps s0 (State.writeCell s c o w) := by
  unfold State.writeCell
  repeat' first
    | with_reducible assumption | intro _ | with_reducible apply State.askRestart_keeps | with_reducible apply State.persist_keeps
    | with_reducible apply State.writeBind_keeps | with_reducible apply State.writeCons_keeps
    | with_reducible apply State.clearFatal_keeps | with_reducible apply State.askStop_keeps | with_reducible apply State.onCell_keeps
    | with_reducible apply State.quarRelease_keeps | with_reducible apply State.capture_keeps | with_reducible apply ite_keeps
    | with_reducible apply cell_wf | dsimp only | split | with_reducible apply mk_keeps

theorem State.writeWide_keeps {s : State} (h : Keeps s0 s) (b : Nat) (v : BitVec 64) : Keeps s0 (State.writeWide s b v) := by
  unfold State.writeWide
  repeat' first
    | with_reducible assumption | intro _ | with_reducible apply State.setTurnPlan_keeps | with_reducible apply State.writeJobStep_keeps
    | with_reducible apply State.discard_keeps | with_reducible apply ite_keeps | dsimp only | split
    | refine fst_keeps (by with_reducible assumption) ?_ | refine snd_keeps (by with_reducible assumption) ?_
    | with_reducible apply mk_keeps

theorem State.writeHalf_keeps {s : State} (h : Keeps s0 s) (b : Nat) (high : Bool) (w : BitVec 32) :
    Keeps s0 (State.writeHalf s b high w) := by
  unfold State.writeHalf
  repeat' first
    | with_reducible assumption | intro _ | with_reducible apply State.writeWide_keeps | with_reducible apply ite_keeps | dsimp only
    | split | with_reducible apply mk_keeps

theorem State.writeWord_keeps {s : State} (h : Keeps s0 s) (fn : Nat) (off : Nat) (w : BitVec 32) :
    Keeps s0 (State.writeWord s fn off w) := by
  unfold State.writeWord
  repeat' first
    | with_reducible assumption | intro _ | with_reducible apply State.writeHalf_keeps | with_reducible apply State.writeRing_keeps
    | with_reducible apply State.writeWindow_keeps | with_reducible apply State.writeCell_keeps
    | with_reducible apply State.writeGlobal_keeps | with_reducible apply State.writeTimeout_keeps
    | with_reducible apply State.writeKey_keeps | with_reducible apply ite_keeps | with_reducible apply cell_wf | dsimp only | split
    | refine fst_keeps (by with_reducible assumption) ?_ | refine snd_keeps (by with_reducible assumption) ?_
    | with_reducible apply mk_keeps

theorem State.badSize_keeps {s : State} (h : Keeps s0 s) (fn : Nat) (off : Nat) : Keeps s0 (State.badSize s fn off) := by
  unfold State.badSize
  repeat' first
    | with_reducible assumption | intro _ | with_reducible apply State.onFn_keeps | with_reducible apply State.err_keeps
    | with_reducible apply ite_keeps | dsimp only | split | refine fst_keeps (by with_reducible assumption) ?_
    | refine snd_keeps (by with_reducible assumption) ?_ | with_reducible apply mk_keeps

theorem State.writeReg_keeps {s : State} (h : Keeps s0 s) (fn : Nat) (off : Nat) (size : Nat) (v : BitVec 64) :
    Keeps s0 (State.writeReg s fn off size v) := by
  unfold State.writeReg
  repeat' first
    | with_reducible assumption | intro _ | with_reducible apply State.writeLoadWindow_keeps
    | with_reducible apply State.writeWord_keeps | with_reducible apply State.writeWide_keeps | with_reducible apply State.badSize_keeps
    | with_reducible apply ite_keeps | dsimp only | split | with_reducible apply mk_keeps

theorem State.readHalf_keeps {s : State} (h : Keeps s0 s) (b : Nat) (high : Bool) : Keeps s0 (State.readHalf s b high).2 := by
  unfold State.readHalf
  repeat' first
    | with_reducible assumption | intro _ | with_reducible apply ite_keeps | with_reducible apply ite_snd_keeps | dsimp only | split
    | with_reducible apply mk_keeps

theorem State.readAt_keeps {s : State} (h : Keeps s0 s) (fn : Nat) (off : Nat) : Keeps s0 (State.readAt s fn off).2 := by
  unfold State.readAt
  repeat' first
    | with_reducible assumption | intro _ | with_reducible apply State.readHalf_keeps | with_reducible apply State.recvWord_keeps
    | with_reducible apply ite_keeps | with_reducible apply ite_snd_keeps | dsimp only | split
    | refine fst_keeps (by with_reducible assumption) ?_ | refine snd_keeps (by with_reducible assumption) ?_
    | with_reducible apply mk_keeps

theorem State.readReg_keeps {s : State} (h : Keeps s0 s) (fn : Nat) (off : Nat) (size : Nat) :
    Keeps s0 (State.readReg s fn off size).2 := by
  unfold State.readReg
  repeat' first
    | with_reducible assumption | intro _ | with_reducible apply State.readAt_keeps | with_reducible apply State.badSize_keeps
    | with_reducible apply ite_keeps | with_reducible apply ite_snd_keeps | dsimp only | split | with_reducible apply mk_keeps

end Sys2Proof.Machine
end

