-- ==== Sys2Proof/Laws/Moves.lean ====
section
/-!
SUPPORT. Every meaning answers a next state, and what it does to the frame of a run (Moves): one law per command.
-/

namespace Sys2Proof.Machine

theorem execPortTrain_moves (t : Nat) (cell : Fin 8) (port : Fin 12) (offered : Nat) (trained : Bool) (s : State) :
    ∃ s1, execPortTrain t cell port offered trained s = .next s1 ∧ Moves s s1 := by
  refine ⟨_, rfl, State.run_moves (fun x hx => ?_)⟩
  repeat' first
    | with_reducible assumption | intro _ | with_reducible apply State.train_keeps | dsimp only | with_reducible apply mk_keeps

theorem execPortRetrain_moves (t : Nat) (cell : Fin 8) (port : Fin 12) (s : State) :
    ∃ s1, execPortRetrain t cell port s = .next s1 ∧ Moves s s1 := by
  refine ⟨_, rfl, State.run_moves (fun x hx => ?_)⟩
  repeat' first
    | with_reducible assumption | intro _ | with_reducible apply State.retrain_keeps | dsimp only | with_reducible apply mk_keeps

theorem execQuarantineEnd_moves (t : Nat) (cell : Fin 8) (port : Fin 12) (s : State) :
    ∃ s1, execQuarantineEnd t cell port s = .next s1 ∧ Moves s s1 := by
  refine ⟨_, rfl, State.run_moves (fun x hx => ?_)⟩
  repeat' first
    | with_reducible assumption | intro _ | with_reducible apply State.endQuarantine_keeps | with_reducible apply ite_keeps | dsimp only
    | split | refine fst_keeps (by with_reducible assumption) ?_ | refine snd_keeps (by with_reducible assumption) ?_
    | with_reducible apply mk_keeps

theorem execPresence_moves (t : Nat) (cell : Fin 8) (port : Fin 12) (f : Frame) (s : State) :
    ∃ s1, execPresence t cell port f s = .next s1 ∧ Moves s s1 := by
  refine ⟨_, rfl, State.run_moves (fun x hx => ?_)⟩
  repeat' first
    | with_reducible assumption | intro _ | with_reducible apply State.accept_keeps | with_reducible apply State.takePresence_keeps
    | with_reducible apply State.bufferPresence_keeps | with_reducible apply ite_keeps | dsimp only | split
    | refine fst_keeps (by with_reducible assumption) ?_ | refine snd_keeps (by with_reducible assumption) ?_
    | with_reducible apply mk_keeps

theorem execPresenceBeacon_moves (t : Nat) (cell : Fin 8) (port : Fin 12) (s : State) :
    ∃ s1, execPresenceBeacon t cell port s = .next s1 ∧ Moves s s1 := by
  refine ⟨_, rfl, State.run_moves (fun x hx => ?_)⟩
  repeat' first
    | with_reducible assumption | intro _ | with_reducible apply State.sendPort_keeps | with_reducible apply ite_keeps | dsimp only
    | split | with_reducible apply mk_keeps

theorem execDiscoveryAccept_moves (t : Nat) (s : State) : ∃ s1, execDiscoveryAccept t s = .next s1 ∧ Moves s s1 := by
  refine ⟨_, rfl, State.run_moves (fun x hx => ?_)⟩
  repeat' first
    | with_reducible assumption | intro _ | with_reducible apply State.takePresence_keeps | with_reducible apply State.onCell_keeps
    | with_reducible apply ite_keeps | with_reducible apply foldl_keeps | with_reducible apply foldl_fst_keeps
    | with_reducible apply Cell.onPort_wf | with_reducible apply cell_wf | with_reducible apply wf_foldl | dsimp only | split
    | with_reducible apply mk_keeps

theorem execHold_moves (t : Nat) (cell : Fin 8) (port : Fin 12) (f : Frame) (s : State) :
    ∃ s1, execHold t cell port f s = .next s1 ∧ Moves s s1 := by
  refine ⟨_, rfl, State.run_moves (fun x hx => ?_)⟩
  repeat' first
    | with_reducible assumption | intro _ | with_reducible apply State.accept_keeps | with_reducible apply State.takeHold_keeps
    | with_reducible apply ite_keeps | dsimp only | split | refine fst_keeps (by with_reducible assumption) ?_
    | refine snd_keeps (by with_reducible assumption) ?_ | with_reducible apply mk_keeps

theorem execHoldOffEnd_moves (t : Nat) (cell : Fin 8) (port : Fin 12) (s : State) :
    ∃ s1, execHoldOffEnd t cell port s = .next s1 ∧ Moves s s1 := by
  refine ⟨_, rfl, State.run_moves (fun x hx => ?_)⟩
  repeat' first
    | with_reducible assumption | intro _ | with_reducible apply State.onCell_keeps | with_reducible apply State.pump_keeps
    | with_reducible apply ite_keeps | with_reducible apply Cell.onPort_wf | with_reducible apply cell_wf | dsimp only | split
    | refine fst_keeps (by with_reducible assumption) ?_ | refine snd_keeps (by with_reducible assumption) ?_
    | with_reducible apply mk_keeps

theorem execCreditReturn_moves (t : Nat) (cell : Fin 8) (port : Fin 12) (f : Frame) (s : State) :
    ∃ s1, execCreditReturn t cell port f s = .next s1 ∧ Moves s s1 := by
  refine ⟨_, rfl, State.run_moves (fun x hx => ?_)⟩
  repeat' first
    | with_reducible assumption | intro _ | with_reducible apply State.accept_keeps | with_reducible apply State.takeReturn_keeps
    | with_reducible apply ite_keeps | dsimp only | split | refine fst_keeps (by with_reducible assumption) ?_
    | refine snd_keeps (by with_reducible assumption) ?_ | with_reducible apply mk_keeps

theorem execCreditReturnTick_moves (t : Nat) (cell : Fin 8) (port : Fin 12) (s : State) :
    ∃ s1, execCreditReturnTick t cell port s = .next s1 ∧ Moves s s1 := by
  refine ⟨_, rfl, State.run_moves (fun x hx => ?_)⟩
  repeat' first
    | with_reducible assumption | intro _ | with_reducible apply State.returnCredits_keeps | with_reducible apply ite_keeps | dsimp only
    | split | with_reducible apply mk_keeps

theorem execVoidFrame_moves (t : Nat) (cell : Fin 8) (port : Fin 12) (f : Frame) (s : State) :
    ∃ s1, execVoidFrame t cell port f s = .next s1 ∧ Moves s s1 := by
  refine ⟨_, rfl, State.run_moves (fun x hx => ?_)⟩
  repeat' first
    | with_reducible assumption | intro _ | with_reducible apply State.accept_keeps | with_reducible apply State.causeAt_keeps
    | with_reducible apply ite_keeps | dsimp only | split | refine fst_keeps (by with_reducible assumption) ?_
    | refine snd_keeps (by with_reducible assumption) ?_ | with_reducible apply mk_keeps

theorem execOffer_moves (t : Nat) (cell : Fin 8) (port : Fin 12) (f : Frame) (authentic : Bool) (s : State) :
    ∃ s1, execOffer t cell port f authentic s = .next s1 ∧ Moves s s1 := by
  refine ⟨_, rfl, State.run_moves (fun x hx => ?_)⟩
  repeat' first
    | with_reducible assumption | intro _ | with_reducible apply State.accept_keeps
    | refine State.joinRelay_keeps (by with_reducible assumption) ?_ | with_reducible apply State.takeOffer_keeps
    | with_reducible apply ite_keeps | dsimp only | split | refine fst_keeps (by with_reducible assumption) ?_
    | refine snd_keeps (by with_reducible assumption) ?_ | with_reducible apply mk_keeps

theorem execRefuse_moves (t : Nat) (cell : Fin 8) (port : Fin 12) (f : Frame) (s : State) :
    ∃ s1, execRefuse t cell port f s = .next s1 ∧ Moves s s1 := by
  refine ⟨_, rfl, State.run_moves (fun x hx => ?_)⟩
  have ha := State.accept_keeps hx cell port f
  exact ite_keeps ha (getD_keeps (fun _ e => State.joinRelay_keeps e ha) ha)

theorem execLeave_moves (t : Nat) (cell : Fin 8) (port : Fin 12) (f : Frame) (s : State) :
    ∃ s1, execLeave t cell port f s = .next s1 ∧ Moves s s1 := by
  refine ⟨_, rfl, State.run_moves (fun x hx => ?_)⟩
  repeat' first
    | with_reducible assumption | intro _ | with_reducible apply State.accept_keeps | with_reducible apply State.takeLeave_keeps
    | with_reducible apply ite_keeps | dsimp only | split | refine fst_keeps (by with_reducible assumption) ?_
    | refine snd_keeps (by with_reducible assumption) ?_ | with_reducible apply mk_keeps

theorem execLevel_moves (t : Nat) (cell : Fin 8) (port : Fin 12) (f : Frame) (s : State) :
    ∃ s1, execLevel t cell port f s = .next s1 ∧ Moves s s1 := by
  refine ⟨_, rfl, State.run_moves (fun x hx => ?_)⟩
  repeat' first
    | with_reducible assumption | intro _ | with_reducible apply State.accept_keeps
    | refine State.joinRelay_keeps (by with_reducible assumption) ?_ | with_reducible apply State.levelFrame_keeps
    | with_reducible apply ite_keeps | dsimp only | split | refine fst_keeps (by with_reducible assumption) ?_
    | refine snd_keeps (by with_reducible assumption) ?_ | with_reducible apply mk_keeps

theorem execRouteUnit_moves (t : Nat) (cell : Fin 8) (who : BitVec 8) (e : Entry) (s : State) :
    ∃ s1, execRouteUnit t cell who e s = .next s1 ∧ Moves s s1 := by
  refine ⟨_, rfl, State.run_moves (fun x hx => ?_)⟩
  repeat' first
    | with_reducible assumption | intro _ | with_reducible apply State.takeRoutes_keeps | with_reducible apply ite_keeps | dsimp only
    | split | with_reducible apply mk_keeps

theorem execTimeSyncTick_moves (t : Nat) (cell : Fin 8) (s : State) : ∃ s1, execTimeSyncTick t cell s = .next s1 ∧ Moves s s1 := by
  refine ⟨_, rfl, State.run_moves (fun x hx => ?_)⟩
  repeat' first
    | with_reducible assumption | intro _ | with_reducible apply State.sendTime_keeps | with_reducible apply ite_keeps
    | with_reducible apply foldl_keeps | with_reducible apply foldl_fst_keeps | dsimp only | split | with_reducible apply mk_keeps

theorem execTimeSync_moves (t : Nat) (cell : Fin 8) (port : Fin 12) (f : Frame) (s : State) :
    ∃ s1, execTimeSync t cell port f s = .next s1 ∧ Moves s s1 := by
  refine ⟨_, rfl, State.run_moves (fun x hx => ?_)⟩
  repeat' first
    | with_reducible assumption | intro _ | with_reducible apply State.accept_keeps | with_reducible apply State.takeSync_keeps
    | with_reducible apply ite_keeps | dsimp only | split | refine fst_keeps (by with_reducible assumption) ?_
    | refine snd_keeps (by with_reducible assumption) ?_ | with_reducible apply mk_keeps

theorem execDelayRequest_moves (t : Nat) (cell : Fin 8) (port : Fin 12) (f : Frame) (s : State) :
    ∃ s1, execDelayRequest t cell port f s = .next s1 ∧ Moves s s1 := by
  refine ⟨_, rfl, State.run_moves (fun x hx => ?_)⟩
  repeat' first
    | with_reducible assumption | intro _ | with_reducible apply State.accept_keeps | with_reducible apply State.sendTime_keeps
    | with_reducible apply ite_keeps | dsimp only | split | refine fst_keeps (by with_reducible assumption) ?_
    | refine snd_keeps (by with_reducible assumption) ?_ | with_reducible apply mk_keeps

theorem execDelayResponse_moves (t : Nat) (cell : Fin 8) (port : Fin 12) (f : Frame) (s : State) :
    ∃ s1, execDelayResponse t cell port f s = .next s1 ∧ Moves s s1 := by
  refine ⟨_, rfl, State.run_moves (fun x hx => ?_)⟩
  repeat' first
    | with_reducible assumption | intro _ | with_reducible apply State.accept_keeps | with_reducible apply State.onCell_keeps
    | with_reducible apply Cell.onPort_wf | with_reducible apply cell_wf | dsimp only | split
    | refine fst_keeps (by with_reducible assumption) ?_ | refine snd_keeps (by with_reducible assumption) ?_
    | with_reducible apply mk_keeps

theorem execHeartbeat_moves (t : Nat) (cell : Fin 8) (port : Fin 12) (f : Frame) (s : State) :
    ∃ s1, execHeartbeat t cell port f s = .next s1 ∧ Moves s s1 := by
  refine ⟨_, rfl, State.run_moves (fun x hx => ?_)⟩
  repeat' first
    | with_reducible assumption | intro _ | with_reducible apply State.accept_keeps | with_reducible apply State.takeBeat_keeps
    | with_reducible apply ite_keeps | dsimp only | split | refine fst_keeps (by with_reducible assumption) ?_
    | refine snd_keeps (by with_reducible assumption) ?_ | with_reducible apply mk_keeps

theorem execSyncWireFail_moves (t : Nat) (cell : Fin 8) (port : Fin 4) (s : State) :
    ∃ s1, execSyncWireFail t cell port s = .next s1 ∧ Moves s s1 := by
  refine ⟨_, rfl, State.run_moves (fun x hx => ?_)⟩
  repeat' first
    | with_reducible assumption | intro _ | with_reducible apply State.sendSync_keeps | with_reducible apply State.err_keeps
    | with_reducible apply ite_keeps | with_reducible apply foldl_keeps | with_reducible apply foldl_fst_keeps | dsimp only | split
    | with_reducible apply mk_keeps

theorem execPerstN_moves (t : Nat) (level : Bool) (s : State) : ∃ s1, execPerstN t level s = .next s1 ∧ Moves s s1 := by
  refine ⟨_, rfl, State.run_moves (fun x hx => ?_)⟩
  repeat' first
    | with_reducible assumption | intro _ | with_reducible apply State.loseHost_keeps | with_reducible apply State.resetFns_keeps
    | with_reducible apply State.resetPortRegs_keeps | with_reducible apply ite_keeps | dsimp only | split
    | with_reducible apply mk_keeps

theorem execHostLinkReset_moves (t : Nat) (how : Fin 3) (s : State) : ∃ s1, execHostLinkReset t how s = .next s1 ∧ Moves s s1 := by
  refine ⟨_, rfl, State.run_moves (fun x hx => ?_)⟩
  repeat' first
    | with_reducible assumption | intro _ | with_reducible apply State.loseHost_keeps | with_reducible apply State.resetFns_keeps
    | with_reducible apply State.resetPortRegs_keeps | with_reducible apply ite_keeps | dsimp only | split
    | with_reducible apply mk_keeps

theorem execHostPathReturn_moves (t : Nat) (s : State) : ∃ s1, execHostPathReturn t s = .next s1 ∧ Moves s s1 := by
  refine ⟨_, rfl, State.run_moves (fun x hx => ?_)⟩
  repeat' first
    | with_reducible assumption | intro _ | with_reducible apply ite_keeps | dsimp only | split | with_reducible apply mk_keeps

theorem execVfFlr_moves (t : Nat) (vf : Fin 64) (s : State) : ∃ s1, execVfFlr t vf s = .next s1 ∧ Moves s s1 := by
  refine ⟨_, rfl, State.run_moves (fun x hx => ?_)⟩
  repeat' first
    | with_reducible assumption | intro _ | with_reducible apply State.flrFn_keeps | with_reducible apply ite_keeps | dsimp only | split
    | with_reducible apply mk_keeps

theorem execPfFlr_moves (t : Nat) (s : State) : ∃ s1, execPfFlr t s = .next s1 ∧ Moves s s1 := by
  refine ⟨_, rfl, State.run_moves (fun x hx => ?_)⟩
  repeat' first
    | with_reducible assumption | intro _ | with_reducible apply State.flrFn_keeps | with_reducible apply State.abandonLoads_keeps
    | with_reducible apply State.resetPortRegs_keeps | with_reducible apply ite_keeps | with_reducible apply foldl_keeps
    | with_reducible apply foldl_fst_keeps | dsimp only | split | with_reducible apply mk_keeps

theorem execFlrComplete_moves (t : Nat) (fn : Fin 64) (s : State) : ∃ s1, execFlrComplete t fn s = .next s1 ∧ Moves s s1 := by
  refine ⟨_, rfl, State.run_moves (fun x hx => ?_)⟩
  repeat' first
    | with_reducible assumption | intro _ | with_reducible apply State.onFn_keeps | with_reducible apply ite_keeps | dsimp only | split
    | with_reducible apply mk_keeps

theorem execSqTail_moves (t : Nat) (fn : Fin 64) (ring : Fin 8) (value : BitVec 16) (s : State) :
    ∃ s1, execSqTail t fn ring value s = .next s1 ∧ Moves s s1 := by
  refine ⟨_, rfl, State.run_moves (fun x hx => ?_)⟩
  repeat' first
    | with_reducible assumption | intro _ | with_reducible apply State.writeTail_keeps | with_reducible apply ite_keeps | dsimp only
    | split | with_reducible apply mk_keeps

theorem execRingEnable_moves (t : Nat) (fn : Fin 64) (ring : Nat) (value : BitVec 32) (s : State) :
    ∃ s1, execRingEnable t fn ring value s = .next s1 ∧ Moves s s1 := by
  refine ⟨_, rfl, State.run_moves (fun x hx => ?_)⟩
  repeat' first
    | with_reducible assumption | intro _ | with_reducible apply State.ringControl_keeps | with_reducible apply ite_keeps | dsimp only
    | split | with_reducible apply mk_keeps

theorem execCompletionWrite_moves (t : Nat) (fn : Fin 64) (s : State) : ∃ s1, execCompletionWrite t fn s = .next s1 ∧ Moves s s1 := by
  refine ⟨_, rfl, State.run_moves (fun x hx => ?_)⟩
  repeat' first
    | with_reducible assumption | intro _ | with_reducible apply State.writeBatch_keeps | with_reducible apply ite_keeps | dsimp only
    | split | with_reducible apply mk_keeps

theorem execPtmRequest_moves (t : Nat) (master : Nat) (s : State) : ∃ s1, execPtmRequest t master s = .next s1 ∧ Moves s s1 := by
  refine ⟨_, rfl, State.run_moves (fun x hx => ?_)⟩
  repeat' first
    | with_reducible assumption | intro _ | with_reducible apply State.setTime_keeps | with_reducible apply ite_keeps | dsimp only
    | split | with_reducible apply mk_keeps

theorem execSendData_moves (t : Nat) (who : BitVec 8) (chan : Fin 64) (w : BitVec 32) (s : State) :
    ∃ s1, execSendData t who chan w s = .next s1 ∧ Moves s s1 := by
  refine ⟨_, rfl, State.run_moves (fun x hx => ?_)⟩
  repeat' first
    | with_reducible assumption | intro _ | with_reducible apply State.sendWord_keeps | with_reducible apply ite_keeps | dsimp only
    | split | with_reducible apply mk_keeps

theorem execSendDb_moves (t : Nat) (who : BitVec 8) (chan : Fin 64) (w : BitVec 32) (s : State) :
    ∃ s1, execSendDb t who chan w s = .next s1 ∧ Moves s s1 := by
  refine ⟨_, rfl, State.run_moves (fun x hx => ?_)⟩
  repeat' first
    | with_reducible assumption | intro _ | with_reducible apply State.sendBell_keeps | with_reducible apply ite_keeps | dsimp only
    | split | with_reducible apply mk_keeps

theorem execRecvData_moves (t : Nat) (who : BitVec 8) (chan : Fin 64) (s : State) :
    ∃ s1, execRecvData t who chan s = .next s1 ∧ Moves s s1 := by
  refine ⟨_, rfl, State.run_moves (fun x hx => ?_)⟩
  repeat' first
    | with_reducible assumption | intro _ | with_reducible apply State.recvWord_keeps | with_reducible apply State.emit_keeps
    | with_reducible apply ite_keeps | dsimp only | split | refine fst_keeps (by with_reducible assumption) ?_
    | refine snd_keeps (by with_reducible assumption) ?_ | with_reducible apply mk_keeps

theorem execRecvPend_moves (t : Nat) (who : BitVec 8) (chan : Fin 64) (w : BitVec 32) (s : State) :
    ∃ s1, execRecvPend t who chan w s = .next s1 ∧ Moves s s1 := by
  refine ⟨_, rfl, State.run_moves (fun x hx => ?_)⟩
  repeat' first
    | with_reducible assumption | intro _ | with_reducible apply State.recvClear_keeps | with_reducible apply ite_keeps | dsimp only
    | split | with_reducible apply mk_keeps

theorem execAlloc_moves (t : Nat) (cell : Fin 8) (src : Source) (e : Entry) (s : State) :
    ∃ s1, execAlloc t cell src e s = .next s1 ∧ Moves s s1 := by
  refine ⟨_, rfl, State.run_moves (fun x hx => ?_)⟩
  repeat' first
    | with_reducible assumption | intro _ | with_reducible apply State.entryAt_keeps | with_reducible apply State.doTensor_keeps
    | dsimp only | with_reducible apply mk_keeps

theorem execReady_moves (t : Nat) (cell : Fin 8) (src : Source) (e : Entry) (s : State) :
    ∃ s1, execReady t cell src e s = .next s1 ∧ Moves s s1 := by
  refine ⟨_, rfl, State.run_moves (fun x hx => ?_)⟩
  repeat' first
    | with_reducible assumption | intro _ | with_reducible apply State.entryAt_keeps | with_reducible apply State.doTensor_keeps
    | dsimp only | with_reducible apply mk_keeps

theorem execFree_moves (t : Nat) (cell : Fin 8) (src : Source) (e : Entry) (s : State) :
    ∃ s1, execFree t cell src e s = .next s1 ∧ Moves s s1 := by
  refine ⟨_, rfl, State.run_moves (fun x hx => ?_)⟩
  repeat' first
    | with_reducible assumption | intro _ | with_reducible apply State.entryAt_keeps | with_reducible apply State.doTensor_keeps
    | dsimp only | with_reducible apply mk_keeps

theorem execBar2Write_moves (t : Nat) (who : BitVec 8) (off : Nat) (bytes : List Byte) (s : State) :
    ∃ s1, execBar2Write t who off bytes s = .next s1 ∧ Moves s s1 := by
  refine ⟨_, rfl, State.run_moves (fun x hx => ?_)⟩
  have hf (dev : Nat) := foldl_fst_keeps bytes.zipIdx (fun (acc : State × Bool) b => acc.1.devicePut acc.2 (dev + b.2) b.1)
    (a := (x, true)) hx (fun y b hy => State.devicePut_keeps hy ..)
  exact ite_keeps hx (ite_keeps (hf _) (State.badAccess_keeps (hf _) _))

theorem execBar2Read_moves (t : Nat) (who : BitVec 8) (off n : Nat) (s : State) :
    ∃ s1, execBar2Read t who off n s = .next s1 ∧ Moves s s1 := by
  refine ⟨_, rfl, State.run_moves (fun x hx => ?_)⟩
  exact ite_keeps hx (State.emit_keeps (ite_keeps hx (State.badAccess_keeps hx _)) _)

theorem execMigration_moves (t : Nat) (cell : Fin 8) (n : Nat) (s : State) : ∃ s1, execMigration t cell n s = .next s1 ∧ Moves s s1 := by
  refine ⟨_, rfl, State.run_moves (fun x hx => ?_)⟩
  repeat' first
    | with_reducible assumption | intro _ | with_reducible apply State.onCell_keeps | with_reducible apply ite_keeps
    | with_reducible apply Cell.rise_wf | with_reducible apply cell_wf | dsimp only | split | with_reducible apply mk_keeps

theorem execPatrolScrub_moves (t : Nat) (cell : Fin 8) (hits : List EccHit) (sweepDone : Bool) (s : State) :
    ∃ s1, execPatrolScrub t cell hits sweepDone s = .next s1 ∧ Moves s s1 := by
  refine ⟨_, rfl, State.run_moves (fun x hx => ?_)⟩
  repeat' first
    | with_reducible assumption | intro _ | with_reducible apply State.eccHit_keeps | with_reducible apply State.onCell_keeps
    | with_reducible apply ite_keeps | with_reducible apply foldl_keeps | with_reducible apply foldl_fst_keeps
    | with_reducible apply cell_wf | with_reducible apply wf_foldl | dsimp only | split | with_reducible apply mk_keeps

theorem execSweepOverdue_moves (t : Nat) (cell : Fin 8) (s : State) : ∃ s1, execSweepOverdue t cell s = .next s1 ∧ Moves s s1 := by
  refine ⟨_, rfl, State.run_moves (fun x hx => ?_)⟩
  repeat' first
    | with_reducible assumption | intro _ | with_reducible apply State.err_keeps | with_reducible apply ite_keeps | dsimp only | split
    | with_reducible apply mk_keeps

theorem execProduct_moves (t : Nat) (cell : Fin 8) (core : Fin 128) (s : State) :
    ∃ s1, execProduct t cell core s = .next s1 ∧ Moves s s1 := by
  refine ⟨_, rfl, State.run_moves (fun x hx => ?_)⟩
  repeat' first
    | with_reducible assumption | intro _ | refine State.issue_keeps (by with_reducible assumption) ?_
    | with_reducible apply State.product_keeps | dsimp only | split | refine fst_keeps (by with_reducible assumption) ?_
    | refine snd_keeps (by with_reducible assumption) ?_ | with_reducible apply mk_keeps

theorem execTileRedo_moves (t : Nat) (cell : Fin 8) (core : Fin 128) (tile : Nat) (same : Bool) (passes : Bool) (s : State) :
    ∃ s1, execTileRedo t cell core tile same passes s = .next s1 ∧ Moves s s1 := by
  refine ⟨_, rfl, State.run_moves (fun x hx => ?_)⟩
  repeat' first
    | with_reducible assumption | intro _ | with_reducible apply State.onCore_keeps | with_reducible apply State.err_keeps
    | with_reducible apply State.cause_keeps | with_reducible apply State.useRedo_keeps | with_reducible apply State.countFault_keeps
    | with_reducible apply State.fenceNow_keeps | with_reducible apply ite_keeps | with_reducible apply Cell.onCore_wf
    | with_reducible apply cell_wf | dsimp only | split | refine fst_keeps (by with_reducible assumption) ?_
    | refine snd_keeps (by with_reducible assumption) ?_ | with_reducible apply mk_keeps

theorem execRow_moves (t : Nat) (cell : Fin 8) (core : Fin 128) (rep : Repeat) (s : State) :
    ∃ s1, execRow t cell core rep s = .next s1 ∧ Moves s s1 := by
  refine ⟨_, rfl, State.run_moves (fun x hx => ?_)⟩
  repeat' first
    | with_reducible assumption | intro _ | refine State.issue_keeps (by with_reducible assumption) ?_
    | with_reducible apply State.rowOp_keeps | dsimp only | split | refine fst_keeps (by with_reducible assumption) ?_
    | refine snd_keeps (by with_reducible assumption) ?_ | with_reducible apply mk_keeps

theorem execRoute_moves (t : Nat) (cell : Fin 8) (core : Fin 128) (rep : Repeat) (s : State) :
    ∃ s1, execRoute t cell core rep s = .next s1 ∧ Moves s s1 := by
  refine ⟨_, rfl, State.run_moves (fun x hx => ?_)⟩
  repeat' first
    | with_reducible assumption | intro _ | refine State.issue_keeps (by with_reducible assumption) ?_
    | with_reducible apply State.routeOp_keeps | dsimp only | split | refine fst_keeps (by with_reducible assumption) ?_
    | refine snd_keeps (by with_reducible assumption) ?_ | with_reducible apply mk_keeps

theorem execSample_moves (t : Nat) (cell : Fin 8) (core : Fin 128) (lanes : List (Nat × Bool)) (s : State) :
    ∃ s1, execSample t cell core lanes s = .next s1 ∧ Moves s s1 := by
  refine ⟨_, rfl, State.run_moves (fun x hx => ?_)⟩
  repeat' first
    | with_reducible assumption | intro _ | refine State.issue_keeps (by with_reducible assumption) ?_
    | with_reducible apply State.sampleOp_keeps | dsimp only | split | refine fst_keeps (by with_reducible assumption) ?_
    | refine snd_keeps (by with_reducible assumption) ?_ | with_reducible apply mk_keeps

theorem execMask_moves (t : Nat) (cell : Fin 8) (core : Fin 128) (rep : Repeat) (s : State) :
    ∃ s1, execMask t cell core rep s = .next s1 ∧ Moves s s1 := by
  refine ⟨_, rfl, State.run_moves (fun x hx => ?_)⟩
  repeat' first
    | with_reducible assumption | intro _ | refine State.issue_keeps (by with_reducible assumption) ?_
    | with_reducible apply State.maskOp_keeps | dsimp only | split | refine fst_keeps (by with_reducible assumption) ?_
    | refine snd_keeps (by with_reducible assumption) ?_ | with_reducible apply mk_keeps

theorem execMove_moves (t : Nat) (cell : Fin 8) (core : Fin 128) (s : State) : ∃ s1, execMove t cell core s = .next s1 ∧ Moves s s1 := by
  refine ⟨_, rfl, State.run_moves (fun x hx => ?_)⟩
  repeat' first
    | with_reducible assumption | intro _ | refine State.issue_keeps (by with_reducible assumption) ?_
    | with_reducible apply State.moveOp_keeps | dsimp only | split | refine fst_keeps (by with_reducible assumption) ?_
    | refine snd_keeps (by with_reducible assumption) ?_ | with_reducible apply mk_keeps

theorem execTileFrame_moves (t : Nat) (cell : Fin 8) (port : Fin 12) (f : Frame) (s : State) :
    ∃ s1, execTileFrame t cell port f s = .next s1 ∧ Moves s s1 := by
  refine ⟨_, rfl, State.run_moves (fun x hx => ?_)⟩
  repeat' first
    | with_reducible assumption | intro _ | with_reducible apply State.accept_keeps | with_reducible apply State.takeTile_keeps
    | with_reducible apply ite_keeps | dsimp only | split | refine fst_keeps (by with_reducible assumption) ?_
    | refine snd_keeps (by with_reducible assumption) ?_ | with_reducible apply mk_keeps

theorem execReducePart_moves (t : Nat) (cell : Fin 8) (port : Fin 12) (f : Frame) (s : State) :
    ∃ s1, execReducePart t cell port f s = .next s1 ∧ Moves s s1 := by
  refine ⟨_, rfl, State.run_moves (fun x hx => ?_)⟩
  repeat' first
    | with_reducible assumption | intro _ | with_reducible apply State.accept_keeps | with_reducible apply State.takeTile_keeps
    | with_reducible apply ite_keeps | dsimp only | split | refine fst_keeps (by with_reducible assumption) ?_
    | refine snd_keeps (by with_reducible assumption) ?_ | with_reducible apply mk_keeps

theorem execReadRequest_moves (t : Nat) (cell : Fin 8) (port : Fin 12) (f : Frame) (s : State) :
    ∃ s1, execReadRequest t cell port f s = .next s1 ∧ Moves s s1 := by
  refine ⟨_, rfl, State.run_moves (fun x hx => ?_)⟩
  repeat' first
    | with_reducible assumption | intro _ | with_reducible apply State.accept_keeps | with_reducible apply State.takeRead_keeps
    | with_reducible apply ite_keeps | dsimp only | split | refine fst_keeps (by with_reducible assumption) ?_
    | refine snd_keeps (by with_reducible assumption) ?_ | with_reducible apply mk_keeps

theorem execSyncFrame_moves (t : Nat) (cell : Fin 8) (port : Fin 12) (f : Frame) (s : State) :
    ∃ s1, execSyncFrame t cell port f s = .next s1 ∧ Moves s s1 := by
  refine ⟨_, rfl, State.run_moves (fun x hx => ?_)⟩
  repeat' first
    | with_reducible assumption | intro _ | with_reducible apply State.accept_keeps | with_reducible apply State.frameArrive_keeps
    | with_reducible apply ite_keeps | dsimp only | split | refine fst_keeps (by with_reducible assumption) ?_
    | refine snd_keeps (by with_reducible assumption) ?_ | with_reducible apply mk_keeps

theorem execSyncOverflowRetry_moves (t : Nat) (cell : Fin 8) (s : State) :
    ∃ s1, execSyncOverflowRetry t cell s = .next s1 ∧ Moves s s1 := by
  refine ⟨_, rfl, State.run_moves (fun x hx => ?_)⟩
  repeat' first
    | with_reducible assumption | intro _ | with_reducible apply State.retryOvf_keeps | with_reducible apply State.onCell_keeps
    | with_reducible apply State.giveWithheld_keeps | with_reducible apply cell_wf | dsimp only
    | refine fst_keeps (by with_reducible assumption) ?_ | refine snd_keeps (by with_reducible assumption) ?_
    | with_reducible apply mk_keeps

theorem execCreditGrant_moves (t : Nat) (cell : Fin 8) (port : Fin 12) (f : Frame) (s : State) :
    ∃ s1, execCreditGrant t cell port f s = .next s1 ∧ Moves s s1 := by
  refine ⟨_, rfl, State.run_moves (fun x hx => ?_)⟩
  repeat' first
    | with_reducible assumption | intro _ | with_reducible apply State.accept_keeps | with_reducible apply State.onCell_keeps
    | with_reducible apply State.retryParts_keeps | with_reducible apply ite_keeps | with_reducible apply cell_wf | dsimp only | split
    | refine fst_keeps (by with_reducible assumption) ?_ | refine snd_keeps (by with_reducible assumption) ?_
    | with_reducible apply mk_keeps

theorem execElement_moves (t : Nat) (cell : Fin 8) (core : Fin 128) (s : State) :
    ∃ s1, execElement t cell core s = .next s1 ∧ Moves s s1 := by
  refine ⟨_, rfl, State.run_moves (fun x hx => ?_)⟩
  repeat' first
    | with_reducible assumption | intro _ | refine State.issue_keeps (by with_reducible assumption) ?_
    | with_reducible apply State.elementOp_keeps | dsimp only | split | refine fst_keeps (by with_reducible assumption) ?_
    | refine snd_keeps (by with_reducible assumption) ?_ | with_reducible apply mk_keeps

theorem execReduce_moves (t : Nat) (cell : Fin 8) (core : Fin 128) (s : State) :
    ∃ s1, execReduce t cell core s = .next s1 ∧ Moves s s1 := by
  refine ⟨_, rfl, State.run_moves (fun x hx => ?_)⟩
  repeat' first
    | with_reducible assumption | intro _ | refine State.issue_keeps (by with_reducible assumption) ?_
    | with_reducible apply State.reduceOp_keeps | dsimp only | split | refine fst_keeps (by with_reducible assumption) ?_
    | refine snd_keeps (by with_reducible assumption) ?_ | with_reducible apply mk_keeps

theorem execUpdate_moves (t : Nat) (cell : Fin 8) (core : Fin 128) (s : State) :
    ∃ s1, execUpdate t cell core s = .next s1 ∧ Moves s s1 := by
  refine ⟨_, rfl, State.run_moves (fun x hx => ?_)⟩
  repeat' first
    | with_reducible assumption | intro _ | refine State.issue_keeps (by with_reducible assumption) ?_
    | with_reducible apply State.updateOp_keeps | dsimp only | split | refine fst_keeps (by with_reducible assumption) ?_
    | refine snd_keeps (by with_reducible assumption) ?_ | with_reducible apply mk_keeps

theorem execBind_moves (t : Nat) (cell : Fin 8) (src : Source) (e : Entry) (s : State) :
    ∃ s1, execBind t cell src e s = .next s1 ∧ Moves s s1 := by
  refine ⟨_, rfl, State.run_moves (fun x hx => ?_)⟩
  repeat' first
    | with_reducible assumption | intro _ | with_reducible apply State.entryAt_keeps | with_reducible apply State.doBind_keeps
    | dsimp only | with_reducible apply mk_keeps

theorem execRuleLoad_moves (t : Nat) (cell : Fin 8) (src : Source) (e : Entry) (s : State) :
    ∃ s1, execRuleLoad t cell src e s = .next s1 ∧ Moves s s1 := by
  refine ⟨_, rfl, State.run_moves (fun x hx => ?_)⟩
  repeat' first
    | with_reducible assumption | intro _ | with_reducible apply State.entryAt_keeps | with_reducible apply State.doRuleLoad_keeps
    | dsimp only | with_reducible apply mk_keeps

theorem execMode_moves (t : Nat) (cell : Fin 8) (src : Source) (e : Entry) (s : State) :
    ∃ s1, execMode t cell src e s = .next s1 ∧ Moves s s1 := by
  refine ⟨_, rfl, State.run_moves (fun x hx => ?_)⟩
  repeat' first
    | with_reducible assumption | intro _ | with_reducible apply State.entryAt_keeps | with_reducible apply State.doMode_keeps
    | dsimp only | with_reducible apply mk_keeps

theorem execRepair_moves (t : Nat) (cell : Fin 8) (src : Source) (e : Entry) (s : State) :
    ∃ s1, execRepair t cell src e s = .next s1 ∧ Moves s s1 := by
  refine ⟨_, rfl, State.run_moves (fun x hx => ?_)⟩
  repeat' first
    | with_reducible assumption | intro _ | with_reducible apply State.entryAt_keeps | with_reducible apply State.doRepair_keeps
    | dsimp only | with_reducible apply mk_keeps

theorem execSnapshot_moves (t : Nat) (cell : Fin 8) (src : Source) (e : Entry) (s : State) :
    ∃ s1, execSnapshot t cell src e s = .next s1 ∧ Moves s s1 := by
  refine ⟨_, rfl, State.run_moves (fun x hx => ?_)⟩
  repeat' first
    | with_reducible assumption | intro _ | with_reducible apply State.entryAt_keeps | with_reducible apply State.doSnapshot_keeps
    | dsimp only | with_reducible apply mk_keeps

theorem execSnapshotTransfer_moves (t : Nat) (cell : Fin 8) (tenant : Fin 64) (linkOk : Bool) (s : State) :
    ∃ s1, execSnapshotTransfer t cell tenant linkOk s = .next s1 ∧ Moves s s1 := by
  refine ⟨_, rfl, State.run_moves (fun x hx => ?_)⟩
  repeat' first
    | with_reducible assumption | intro _ | with_reducible apply State.endSnapshot_keeps | with_reducible apply ite_keeps | dsimp only
    | split | with_reducible apply mk_keeps

theorem execRatioPass_moves (t : Nat) (cell : Fin 8) (tenant : Fin 64) (s : State) :
    ∃ s1, execRatioPass t cell tenant s = .next s1 ∧ Moves s s1 := by
  refine ⟨_, rfl, State.run_moves (fun x hx => ?_)⟩
  repeat' first
    | with_reducible assumption | intro _ | with_reducible apply State.ratioAll_keeps | with_reducible apply ite_keeps | dsimp only
    | split | with_reducible apply mk_keeps

theorem execApplyPass_moves (t : Nat) (cell : Fin 8) (tenant : Fin 64) (faults : List PassFault) (s : State) :
    ∃ s1, execApplyPass t cell tenant faults s = .next s1 ∧ Moves s s1 := by
  refine ⟨_, rfl, State.run_moves (fun x hx => ?_)⟩
  repeat' first
    | with_reducible assumption | intro _ | with_reducible apply State.applyAll_keeps | with_reducible apply ite_keeps | dsimp only
    | split | with_reducible apply mk_keeps

theorem execLearningStepBegin_moves (t : Nat) (tenant : Fin 64) (s : State) :
    ∃ s1, execLearningStepBegin t tenant s = .next s1 ∧ Moves s s1 := by
  refine ⟨_, rfl, State.run_moves (fun x hx => ?_)⟩
  repeat' first
    | with_reducible assumption | intro _ | with_reducible apply State.openStep_keeps | with_reducible apply State.recordWait_keeps
    | with_reducible apply ite_keeps | dsimp only | split | with_reducible apply mk_keeps

theorem execSealReportStepLimit_moves (t : Nat) (tenant : Fin 64) (cell : Fin 8) (s : State) :
    ∃ s1, execSealReportStepLimit t tenant cell s = .next s1 ∧ Moves s s1 := by
  refine ⟨_, rfl, State.run_moves (fun x hx => ?_)⟩
  repeat' first
    | with_reducible assumption | intro _ | with_reducible apply State.onCoord_keeps | with_reducible apply ite_keeps | dsimp only
    | split | with_reducible apply mk_keeps

theorem execOrphanTimeout_moves (t : Nat) (s : State) : ∃ s1, execOrphanTimeout t s = .next s1 ∧ Moves s s1 := by
  refine ⟨_, rfl, State.run_moves (fun x hx => ?_)⟩
  repeat' first
    | with_reducible assumption | intro _ | with_reducible apply State.loseStep_keeps | with_reducible apply ite_keeps
    | with_reducible apply foldl_keeps | with_reducible apply foldl_fst_keeps | dsimp only | split | with_reducible apply mk_keeps

theorem execSealReport_moves (t : Nat) (cell : Fin 8) (tenant : Fin 64) (s : State) :
    ∃ s1, execSealReport t cell tenant s = .next s1 ∧ Moves s s1 := by
  refine ⟨_, rfl, State.run_moves (fun x hx => ?_)⟩
  repeat' first
    | with_reducible assumption | intro _ | with_reducible apply State.report_keeps | with_reducible apply State.takeLoss_keeps
    | with_reducible apply ite_keeps | dsimp only | split | with_reducible apply mk_keeps

theorem execSealDecision_moves (t : Nat) (tenant : Fin 64) (s : State) : ∃ s1, execSealDecision t tenant s = .next s1 ∧ Moves s s1 := by
  refine ⟨_, rfl, State.run_moves (fun x hx => ?_)⟩
  repeat' first
    | with_reducible assumption | intro _ | with_reducible apply State.spread_keeps | dsimp only | split
    | refine fst_keeps (by with_reducible assumption) ?_ | refine snd_keeps (by with_reducible assumption) ?_
    | with_reducible apply mk_keeps

theorem execAnswer_moves (t : Nat) (cell : Fin 8) (src : Source) (e : Entry) (s : State) :
    ∃ s1, execAnswer t cell src e s = .next s1 ∧ Moves s s1 := by
  refine ⟨_, rfl, State.run_moves (fun x hx => ?_)⟩
  repeat' first
    | with_reducible assumption | intro _ | with_reducible apply State.entryAt_keeps | with_reducible apply State.doAnswer_keeps
    | dsimp only | with_reducible apply mk_keeps

theorem execAnswerTimeout_moves (t : Nat) (tenant : Fin 64) (s : State) : ∃ s1, execAnswerTimeout t tenant s = .next s1 ∧ Moves s s1 := by
  refine ⟨_, rfl, State.run_moves (fun x hx => ?_)⟩
  repeat' first
    | with_reducible assumption | intro _ | with_reducible apply State.onCoord_keeps | with_reducible apply ite_keeps | dsimp only
    | split | refine fst_keeps (by with_reducible assumption) ?_ | refine snd_keeps (by with_reducible assumption) ?_
    | with_reducible apply mk_keeps

theorem execSealComplete_moves (t : Nat) (cell : Fin 8) (tenant : Fin 64) (s : State) :
    ∃ s1, execSealComplete t cell tenant s = .next s1 ∧ Moves s s1 := by
  refine ⟨_, rfl, State.run_moves (fun x hx => ?_)⟩
  repeat' first
    | with_reducible assumption | intro _ | with_reducible apply State.sealDone_keeps | with_reducible apply ite_keeps | dsimp only
    | split | with_reducible apply mk_keeps

theorem execGenerationSetup_moves (t : Nat) (cell : Fin 8) (src : Source) (e : Entry) (s : State) :
    ∃ s1, execGenerationSetup t cell src e s = .next s1 ∧ Moves s s1 := by
  refine ⟨_, rfl, State.run_moves (fun x hx => ?_)⟩
  repeat' first
    | with_reducible assumption | intro _ | with_reducible apply State.entryAt_keeps | with_reducible apply State.doSetup_keeps
    | dsimp only | with_reducible apply mk_keeps

theorem execRequest_moves (t : Nat) (cell : Fin 8) (src : Source) (e : Entry) (s : State) :
    ∃ s1, execRequest t cell src e s = .next s1 ∧ Moves s s1 := by
  refine ⟨_, rfl, State.run_moves (fun x hx => ?_)⟩
  repeat' first
    | with_reducible assumption | intro _ | with_reducible apply State.entryAt_keeps | with_reducible apply State.doRequest_keeps
    | dsimp only | with_reducible apply mk_keeps

theorem execAdmissionRound_moves (t : Nat) (cell : Fin 8) (s : State) : ∃ s1, execAdmissionRound t cell s = .next s1 ∧ Moves s s1 := by
  refine ⟨_, rfl, State.run_moves (fun x hx => ?_)⟩
  repeat' first
    | with_reducible assumption | intro _ | with_reducible apply State.serviceRound_keeps | with_reducible apply State.renewMail_keeps
    | with_reducible apply ite_keeps | dsimp only | split | with_reducible apply mk_keeps

theorem execCancel_moves (t : Nat) (cell : Fin 8) (src : Source) (e : Entry) (s : State) :
    ∃ s1, execCancel t cell src e s = .next s1 ∧ Moves s s1 := by
  refine ⟨_, rfl, State.run_moves (fun x hx => ?_)⟩
  repeat' first
    | with_reducible assumption | intro _ | with_reducible apply State.entryAt_keeps | with_reducible apply State.doCancel_keeps
    | dsimp only | with_reducible apply mk_keeps

theorem execRecordWritten_moves (t : Nat) (cell : Fin 8) (entry : Nat) (s : State) :
    ∃ s1, execRecordWritten t cell entry s = .next s1 ∧ Moves s s1 := by
  refine ⟨_, rfl, State.run_moves (fun x hx => ?_)⟩
  repeat' first
    | with_reducible assumption | intro _ | with_reducible apply State.freeEntries_keeps | with_reducible apply ite_keeps
    | with_reducible apply cell_wf | dsimp only | split | with_reducible apply mk_keeps

theorem execGenerationSeal_moves (t : Nat) (cell : Fin 8) (s : State) : ∃ s1, execGenerationSeal t cell s = .next s1 ∧ Moves s s1 := by
  refine ⟨_, rfl, State.run_moves (fun x hx => ?_)⟩
  repeat' first
    | with_reducible assumption | intro _ | with_reducible apply State.sealGen_keeps | with_reducible apply ite_keeps | dsimp only
    | split | with_reducible apply mk_keeps

theorem execLoadImage_moves (t : Nat) (cell : Fin 8) (src : Source) (e : Entry) (s : State) :
    ∃ s1, execLoadImage t cell src e s = .next s1 ∧ Moves s s1 := by
  refine ⟨_, rfl, State.run_moves (fun x hx => ?_)⟩
  repeat' first
    | with_reducible assumption | intro _ | with_reducible apply State.entryAt_keeps | with_reducible apply State.doLoadImage_keeps
    | dsimp only | with_reducible apply mk_keeps

theorem execStepBegin_moves (t : Nat) (cell : Fin 8) (s : State) : ∃ s1, execStepBegin t cell s = .next s1 ∧ Moves s s1 := by
  refine ⟨_, rfl, State.run_moves (fun x hx => ?_)⟩
  repeat' first
    | with_reducible assumption | intro _ | with_reducible apply State.beginLearn_keeps | with_reducible apply State.beginLead_keeps
    | with_reducible apply State.beginFollower_keeps | with_reducible apply ite_keeps | with_reducible apply cell_wf | dsimp only
    | split | refine fst_keeps (by with_reducible assumption) ?_ | refine snd_keeps (by with_reducible assumption) ?_
    | with_reducible apply mk_keeps

theorem execSync_moves (t : Nat) (cell : Fin 8) (core : Fin 128) (s : State) : ∃ s1, execSync t cell core s = .next s1 ∧ Moves s s1 := by
  refine ⟨_, rfl, State.run_moves (fun x hx => ?_)⟩
  repeat' first
    | with_reducible assumption | intro _ | refine State.issue_keeps (by with_reducible assumption) ?_
    | with_reducible apply State.syncOp_keeps | dsimp only | split | refine fst_keeps (by with_reducible assumption) ?_
    | refine snd_keeps (by with_reducible assumption) ?_ | with_reducible apply mk_keeps

theorem execSyncMessage_moves (t : Nat) (index : Nat) (s : State) : ∃ s1, execSyncMessage t index s = .next s1 ∧ Moves s s1 := by
  refine ⟨_, rfl, State.run_moves (fun x hx => ?_)⟩
  repeat' first
    | with_reducible assumption | intro _ | refine State.syncArrive_keeps (by with_reducible assumption) ?_ | dsimp only | split
    | refine fst_keeps (by with_reducible assumption) ?_ | refine snd_keeps (by with_reducible assumption) ?_
    | with_reducible apply mk_keeps

theorem execSyncRetry_moves (t : Nat) (s : State) : ∃ s1, execSyncRetry t s = .next s1 ∧ Moves s s1 := by
  refine ⟨_, rfl, State.run_moves (fun x hx => ?_)⟩
  repeat' first
    | with_reducible assumption | intro _ | refine State.syncArrive_keeps (by with_reducible assumption) ?_
    | with_reducible apply foldl_keeps | with_reducible apply foldl_fst_keeps | dsimp only | split
    | refine fst_keeps (by with_reducible assumption) ?_ | refine snd_keeps (by with_reducible assumption) ?_
    | with_reducible apply mk_keeps

theorem execOperationComplete_moves (t : Nat) (cell : Fin 8) (core : Fin 128) (engine : Nat) (bad : List Nat) (s : State) :
    ∃ s1, execOperationComplete t cell core engine bad s = .next s1 ∧ Moves s s1 := by
  refine ⟨_, rfl, State.run_moves (fun x hx => ?_)⟩
  repeat' first
    | with_reducible assumption | intro _ | with_reducible apply State.onCore_keeps | with_reducible apply State.finishOp_keeps
    | with_reducible apply ite_keeps | with_reducible apply Cell.onCore_wf | with_reducible apply cell_wf | dsimp only | split
    | refine fst_keeps (by with_reducible assumption) ?_ | refine snd_keeps (by with_reducible assumption) ?_
    | with_reducible apply mk_keeps

theorem execStepWatchdog_moves (t : Nat) (cell : Fin 8) (s : State) : ∃ s1, execStepWatchdog t cell s = .next s1 ∧ Moves s s1 := by
  refine ⟨_, rfl, State.run_moves (fun x hx => ?_)⟩
  repeat' first
    | with_reducible assumption | intro _ | with_reducible apply State.watchdogHomes_keeps
    | with_reducible apply State.watchdogStep_keeps | with_reducible apply ite_keeps | dsimp only | split
    | with_reducible apply mk_keeps

theorem execVersion_moves (t : Nat) (cell : Fin 8) (src : Source) (e : Entry) (s : State) :
    ∃ s1, execVersion t cell src e s = .next s1 ∧ Moves s s1 := by
  refine ⟨_, rfl, State.run_moves (fun x hx => ?_)⟩
  repeat' first
    | with_reducible assumption | intro _ | with_reducible apply State.entryAt_keeps | with_reducible apply State.doVersion_keeps
    | dsimp only | with_reducible apply mk_keeps

theorem execPushHoldBegin_moves (t : Nat) (cell : Fin 8) (tenant : Fin 64) (s : State) :
    ∃ s1, execPushHoldBegin t cell tenant s = .next s1 ∧ Moves s s1 := by
  refine ⟨_, rfl, State.run_moves (fun x hx => ?_)⟩
  repeat' first
    | with_reducible assumption | intro _ | with_reducible apply State.stalePush_keeps | with_reducible apply State.onCells_keeps
    | with_reducible apply State.pushLayers_keeps | with_reducible apply ite_keeps | with_reducible apply Cell.onVer_wf
    | with_reducible apply cell_wf | dsimp only | split | refine fst_keeps (by with_reducible assumption) ?_
    | refine snd_keeps (by with_reducible assumption) ?_ | with_reducible apply mk_keeps

theorem execShuffleComplete_moves (t : Nat) (cell : Fin 8) (tenant : Fin 64) (s : State) :
    ∃ s1, execShuffleComplete t cell tenant s = .next s1 ∧ Moves s s1 := by
  refine ⟨_, rfl, State.run_moves (fun x hx => ?_)⟩
  repeat' first
    | with_reducible assumption | intro _ | with_reducible apply State.onCell_keeps | with_reducible apply State.err_keeps
    | with_reducible apply ite_keeps | with_reducible apply foldl_keeps | with_reducible apply foldl_fst_keeps
    | with_reducible apply Cell.onVer_wf | with_reducible apply cell_wf | with_reducible apply wf_foldl | dsimp only | split
    | refine fst_keeps (by with_reducible assumption) ?_ | refine snd_keeps (by with_reducible assumption) ?_
    | with_reducible apply mk_keeps

theorem execWarming_moves (t : Nat) (cell : Fin 8) (tenant : Fin 64) (s : State) :
    ∃ s1, execWarming t cell tenant s = .next s1 ∧ Moves s s1 := by
  refine ⟨_, rfl, State.run_moves (fun x hx => ?_)⟩
  repeat' first
    | with_reducible assumption | intro _ | with_reducible apply State.onCell_keeps | with_reducible apply State.warmReport_keeps
    | with_reducible apply ite_keeps | with_reducible apply foldl_keeps | with_reducible apply foldl_fst_keeps
    | with_reducible apply Cell.onVer_wf | with_reducible apply Cell.warmTile_wf | with_reducible apply cell_wf
    | with_reducible apply wf_foldl | dsimp only | split | with_reducible apply mk_keeps

theorem execWarmingComplete_moves (t : Nat) (cell : Fin 8) (tenant : Fin 64) (s : State) :
    ∃ s1, execWarmingComplete t cell tenant s = .next s1 ∧ Moves s s1 := by
  refine ⟨_, rfl, State.run_moves (fun x hx => ?_)⟩
  repeat' first
    | with_reducible assumption | intro _ | with_reducible apply State.onCell_keeps | with_reducible apply ite_keeps
    | with_reducible apply Cell.onVer_wf | with_reducible apply cell_wf | dsimp only | split | with_reducible apply mk_keeps

theorem execPointerSwitch_moves (t : Nat) (cell : Fin 8) (tenant : Fin 64) (s : State) :
    ∃ s1, execPointerSwitch t cell tenant s = .next s1 ∧ Moves s s1 := by
  refine ⟨_, rfl, State.run_moves (fun x hx => ?_)⟩
  repeat' first
    | with_reducible assumption | intro _ | with_reducible apply State.switchPointer_keeps | dsimp only | split
    | refine fst_keeps (by with_reducible assumption) ?_ | refine snd_keeps (by with_reducible assumption) ?_
    | with_reducible apply mk_keeps

theorem execLaggingWriteback_moves (t : Nat) (cell : Fin 8) (tenant : Fin 64) (n : Nat) (s : State) :
    ∃ s1, execLaggingWriteback t cell tenant n s = .next s1 ∧ Moves s s1 := by
  refine ⟨_, rfl, State.run_moves (fun x hx => ?_)⟩
  repeat' first
    | with_reducible assumption | intro _ | with_reducible apply State.onCell_keeps | with_reducible apply ite_keeps
    | with_reducible apply foldl_keeps | with_reducible apply foldl_fst_keeps | with_reducible apply Cell.setEnt_wf
    | with_reducible apply cell_wf | with_reducible apply wf_foldl | dsimp only | split | with_reducible apply mk_keeps

theorem execFetch_moves (t : Nat) (cell : Fin 8) (src : Source) (e : Entry) (s : State) :
    ∃ s1, execFetch t cell src e s = .next s1 ∧ Moves s s1 := by
  refine ⟨_, rfl, State.run_moves (fun x hx => ?_)⟩
  repeat' first
    | with_reducible assumption | intro _ | with_reducible apply State.entryAt_keeps | with_reducible apply State.doFetch_keeps
    | dsimp only | with_reducible apply mk_keeps

theorem execRefetch_moves (t : Nat) (cell : Fin 8) (src : Source) (e : Entry) (s : State) :
    ∃ s1, execRefetch t cell src e s = .next s1 ∧ Moves s s1 := by
  refine ⟨_, rfl, State.run_moves (fun x hx => ?_)⟩
  repeat' first
    | with_reducible assumption | intro _ | with_reducible apply State.entryAt_keeps | with_reducible apply State.doRefetch_keeps
    | dsimp only | with_reducible apply mk_keeps

theorem execFetchComplete_moves (t : Nat) (cell : Fin 8) (linkOk : Bool) (shard : List Byte) (s : State) :
    ∃ s1, execFetchComplete t cell linkOk shard s = .next s1 ∧ Moves s s1 := by
  refine ⟨_, rfl, State.run_moves (fun x hx => ?_)⟩
  repeat' first
    | with_reducible assumption | intro _ | with_reducible apply State.refetchDone_keeps | with_reducible apply State.fetchDone_keeps
    | with_reducible apply ite_keeps | dsimp only | split | refine fst_keeps (by with_reducible assumption) ?_
    | refine snd_keeps (by with_reducible assumption) ?_ | with_reducible apply mk_keeps

theorem execLoad_moves (t : Nat) (who : BitVec 8) (mask : BitVec 8) (slot : Nat) (s : State) :
    ∃ s1, execLoad t who mask slot s = .next s1 ∧ Moves s s1 := by
  refine ⟨_, rfl, State.run_moves (fun x hx => ?_)⟩
  repeat' first
    | with_reducible assumption | intro _ | with_reducible apply State.figCommand_keeps | dsimp only | with_reducible apply mk_keeps

theorem execStage_moves (t : Nat) (who : BitVec 8) (mask : BitVec 8) (slot : Nat) (s : State) :
    ∃ s1, execStage t who mask slot s = .next s1 ∧ Moves s s1 := by
  refine ⟨_, rfl, State.run_moves (fun x hx => ?_)⟩
  repeat' first
    | with_reducible assumption | intro _ | with_reducible apply State.figCommand_keeps | dsimp only | with_reducible apply mk_keeps

theorem execArm_moves (t : Nat) (who : BitVec 8) (mask : BitVec 8) (cond : BitVec 64) (s : State) :
    ∃ s1, execArm t who mask cond s = .next s1 ∧ Moves s s1 := by
  refine ⟨_, rfl, State.run_moves (fun x hx => ?_)⟩
  repeat' first
    | with_reducible assumption | intro _ | with_reducible apply State.figCommand_keeps | dsimp only | with_reducible apply mk_keeps

theorem execDisarm_moves (t : Nat) (who : BitVec 8) (mask : BitVec 8) (s : State) :
    ∃ s1, execDisarm t who mask s = .next s1 ∧ Moves s s1 := by
  refine ⟨_, rfl, State.run_moves (fun x hx => ?_)⟩
  repeat' first
    | with_reducible assumption | intro _ | with_reducible apply State.figCommand_keeps | dsimp only | with_reducible apply mk_keeps

theorem execDrop_moves (t : Nat) (who : BitVec 8) (mask : BitVec 8) (slot : Nat) (s : State) :
    ∃ s1, execDrop t who mask slot s = .next s1 ∧ Moves s s1 := by
  refine ⟨_, rfl, State.run_moves (fun x hx => ?_)⟩
  repeat' first
    | with_reducible assumption | intro _ | with_reducible apply State.figCommand_keeps | dsimp only | with_reducible apply mk_keeps

theorem execLoadVerifyDone_moves (t : Nat) (cell : Fin 8) (slot : Nat) (delivered : Nat) (s : State) :
    ∃ s1, execLoadVerifyDone t cell slot delivered s = .next s1 ∧ Moves s s1 := by
  refine ⟨_, rfl, State.run_moves (fun x hx => ?_)⟩
  repeat' first
    | with_reducible assumption | intro _ | with_reducible apply State.setSlot_keeps | with_reducible apply State.figEnd_keeps
    | with_reducible apply ite_keeps | dsimp only | split | refine fst_keeps (by with_reducible assumption) ?_
    | refine snd_keeps (by with_reducible assumption) ?_ | with_reducible apply mk_keeps

theorem execStagingComplete_moves (t : Nat) (cell : Fin 8) (s : State) : ∃ s1, execStagingComplete t cell s = .next s1 ∧ Moves s s1 := by
  refine ⟨_, rfl, State.run_moves (fun x hx => ?_)⟩
  repeat' first
    | with_reducible assumption | intro _ | with_reducible apply State.onCell_keeps | with_reducible apply State.figEndAll_keeps
    | with_reducible apply ite_keeps | with_reducible apply Cell.closeFor_wf | with_reducible apply cell_wf | dsimp only | split
    | refine fst_keeps (by with_reducible assumption) ?_ | refine snd_keeps (by with_reducible assumption) ?_
    | with_reducible apply mk_keeps

theorem execBindingRegisterWrite_moves (t : Nat) (who : BitVec 8) (chan : Fin 64) (value : BitVec 32) (s : State) :
    ∃ s1, execBindingRegisterWrite t who chan value s = .next s1 ∧ Moves s s1 := by
  refine ⟨_, rfl, State.run_moves (fun x hx => ?_)⟩
  repeat' first
    | with_reducible assumption | intro _ | with_reducible apply State.writeBind_keeps | dsimp only | with_reducible apply mk_keeps

theorem execPlaneSwap_moves (t : Nat) (cell : Fin 8) (checkOk : Bool) (s : State) :
    ∃ s1, execPlaneSwap t cell checkOk s = .next s1 ∧ Moves s s1 := by
  refine ⟨_, rfl, State.run_moves (fun x hx => ?_)⟩
  repeat' first
    | with_reducible assumption | intro _ | with_reducible apply State.abandonSwap_keeps | with_reducible apply State.wake_keeps
    | with_reducible apply State.stopNow_keeps | with_reducible apply State.swapTo_keeps | with_reducible apply ite_keeps | dsimp only
    | split | refine fst_keeps (by with_reducible assumption) ?_ | refine snd_keeps (by with_reducible assumption) ?_
    | with_reducible apply mk_keeps

theorem execHostAnchorLoss_moves (t : Nat) (s : State) : ∃ s1, execHostAnchorLoss t s = .next s1 ∧ Moves s s1 := by
  refine ⟨_, rfl, State.run_moves (fun x hx => ?_)⟩
  repeat' first
    | with_reducible assumption | intro _ | with_reducible apply State.loseHost_keeps | with_reducible apply State.onCell_keeps
    | with_reducible apply State.errLocal_keeps | with_reducible apply State.loseStep_keeps | with_reducible apply State.rest_keeps
    | with_reducible apply ite_keeps | with_reducible apply foldl_keeps | with_reducible apply foldl_fst_keeps
    | with_reducible apply cell_wf | with_reducible apply wf_foldl | dsimp only | split | with_reducible apply mk_keeps

theorem execCoreFence_moves (t : Nat) (cell : Fin 8) (core : Fin 128) (s : State) :
    ∃ s1, execCoreFence t cell core s = .next s1 ∧ Moves s s1 := by
  refine ⟨_, rfl, State.run_moves (fun x hx => ?_)⟩
  repeat' first
    | with_reducible assumption | intro _ | with_reducible apply State.fence_keeps | with_reducible apply State.boundarySoon_keeps
    | with_reducible apply ite_keeps | dsimp only | split | with_reducible apply mk_keeps

theorem execTest_moves (t : Nat) (cell : Fin 8) (src : Source) (e : Entry) (s : State) :
    ∃ s1, execTest t cell src e s = .next s1 ∧ Moves s s1 := by
  refine ⟨_, rfl, State.run_moves (fun x hx => ?_)⟩
  repeat' first
    | with_reducible assumption | intro _ | with_reducible apply State.entryAt_keeps | with_reducible apply State.doTest_keeps
    | dsimp only | with_reducible apply mk_keeps

theorem execTestRound_moves (t : Nat) (cell : Fin 8) (s : State) : ∃ s1, execTestRound t cell s = .next s1 ∧ Moves s s1 := by
  refine ⟨_, rfl, State.run_moves (fun x hx => ?_)⟩
  repeat' first
    | with_reducible assumption | intro _ | with_reducible apply State.wake_keeps | with_reducible apply State.onCore_keeps
    | with_reducible apply State.setCell_keeps | with_reducible apply State.boundarySoon_keeps | with_reducible apply ite_keeps
    | with_reducible apply foldl_keeps | with_reducible apply foldl_fst_keeps | with_reducible apply Cell.onRun_wf
    | with_reducible apply Cell.onCore_wf | with_reducible apply cell_wf | with_reducible apply wf_foldl | dsimp only | split
    | with_reducible apply mk_keeps

theorem execFieldTestComplete_moves (t : Nat) (cell : Fin 8) (unit : Nat) (passed : Bool) (s : State) :
    ∃ s1, execFieldTestComplete t cell unit passed s = .next s1 ∧ Moves s s1 := by
  refine ⟨_, rfl, State.run_moves (fun x hx => ?_)⟩
  repeat' first
    | with_reducible assumption | intro _ | with_reducible apply State.testRecord_keeps | with_reducible apply State.coreTested_keeps
    | with_reducible apply State.switchTested_keeps | with_reducible apply State.udieTested_keeps
    | with_reducible apply State.onCell_keeps | with_reducible apply State.finishTests_keeps
    | with_reducible apply State.boundarySoon_keeps | with_reducible apply ite_keeps | with_reducible apply cell_wf | dsimp only | split
    | with_reducible apply mk_keeps

theorem execRun_moves (t : Nat) (cell : Fin 8) (src : Source) (e : Entry) (s : State) :
    ∃ s1, execRun t cell src e s = .next s1 ∧ Moves s s1 := by
  refine ⟨_, rfl, State.run_moves (fun x hx => ?_)⟩
  repeat' first
    | with_reducible assumption | intro _ | with_reducible apply State.entryAt_keeps | with_reducible apply State.doRun_keeps
    | dsimp only | with_reducible apply mk_keeps

theorem execWrite_moves (t : Nat) (cell : Fin 8) (src : Source) (e : Entry) (s : State) :
    ∃ s1, execWrite t cell src e s = .next s1 ∧ Moves s s1 := by
  refine ⟨_, rfl, State.run_moves (fun x hx => ?_)⟩
  repeat' first
    | with_reducible assumption | intro _ | with_reducible apply State.entryAt_keeps | with_reducible apply State.doWrite_keeps
    | dsimp only | with_reducible apply mk_keeps

theorem execMailbox_moves (t : Nat) (cell : Fin 8) (src : Source) (e : Entry) (s : State) :
    ∃ s1, execMailbox t cell src e s = .next s1 ∧ Moves s s1 := by
  refine ⟨_, rfl, State.run_moves (fun x hx => ?_)⟩
  repeat' first
    | with_reducible assumption | intro _ | with_reducible apply State.entryAt_keeps | with_reducible apply State.doMailbox_keeps
    | dsimp only | with_reducible apply mk_keeps

theorem execRegister_moves (t : Nat) (cell : Fin 8) (src : Source) (e : Entry) (s : State) :
    ∃ s1, execRegister t cell src e s = .next s1 ∧ Moves s s1 := by
  refine ⟨_, rfl, State.run_moves (fun x hx => ?_)⟩
  repeat' first
    | with_reducible assumption | intro _ | with_reducible apply State.entryAt_keeps | with_reducible apply State.doRegister_keeps
    | dsimp only | with_reducible apply mk_keeps

theorem execRingFetch_moves (t : Nat) (ready : List (Fin 64 × Fin 8)) (ok : Bool) (e : Entry) (s : State) :
    ∃ s1, execRingFetch t ready ok e s = .next s1 ∧ Moves s s1 := by
  refine ⟨_, rfl, State.run_moves (fun x hx => ?_)⟩
  repeat' first
    | with_reducible assumption | intro _ | with_reducible apply State.fetchFailed_keeps | with_reducible apply State.ring_keeps
    | with_reducible apply State.onFn_keeps | with_reducible apply State.wake_keeps | with_reducible apply State.doEntry_keeps
    | with_reducible apply ite_keeps | dsimp only | split | refine fst_keeps (by with_reducible assumption) ?_
    | refine snd_keeps (by with_reducible assumption) ?_ | with_reducible apply mk_keeps

theorem execMailboxEntryTake_moves (t : Nat) (chan : Fin 64) (toB : Bool) (s : State) :
    ∃ s1, execMailboxEntryTake t chan toB s = .next s1 ∧ Moves s s1 := by
  refine ⟨_, rfl, State.run_moves (fun x hx => ?_)⟩
  repeat' first
    | with_reducible assumption | intro _ | with_reducible apply State.wake_keeps | with_reducible apply State.onDir_keeps
    | with_reducible apply State.doEntry_keeps | with_reducible apply State.rest_keeps | with_reducible apply ite_keeps
    | with_reducible apply cell_wf | dsimp only | split | refine fst_keeps (by with_reducible assumption) ?_
    | refine snd_keeps (by with_reducible assumption) ?_ | with_reducible apply mk_keeps

theorem execMailFrame_moves (t : Nat) (cell : Fin 8) (port : Fin 12) (f : Frame) (s : State) :
    ∃ s1, execMailFrame t cell port f s = .next s1 ∧ Moves s s1 := by
  refine ⟨_, rfl, State.run_moves (fun x hx => ?_)⟩
  repeat' first
    | with_reducible assumption | intro _ | with_reducible apply State.accept_keeps | with_reducible apply State.takeMail_keeps
    | with_reducible apply ite_keeps | dsimp only | split | refine fst_keeps (by with_reducible assumption) ?_
    | refine snd_keeps (by with_reducible assumption) ?_ | with_reducible apply mk_keeps

theorem execFrameForward_moves (t : Nat) (cell : Fin 8) (port : Fin 14) (f : Frame) (s : State) :
    ∃ s1, execFrameForward t cell port f s = .next s1 ∧ Moves s s1 := by
  refine ⟨_, rfl, State.run_moves (fun x hx => ?_)⟩
  have ha := State.accept_keeps hx cell port f
  exact ite_keeps hx (ite_keeps (ite_keeps (getD_keeps (fun _ e => State.joinRelay_keeps e ha) ha)
    (ite_keeps (State.takeSeal_keeps ha ..) ha)) (ite_keeps hx (ite_keeps (ite_keeps (State.anchorFrame_keeps hx ..) hx)
    (State.relay_keeps hx ..))))

theorem execHaltNAssert_moves (t : Nat) (s : State) : ∃ s1, execHaltNAssert t s = .next s1 ∧ Moves s s1 := by
  refine ⟨_, rfl, State.run_moves (fun x hx => ?_)⟩
  repeat' first
    | with_reducible assumption | intro _ | with_reducible apply State.enterSafe_keeps | with_reducible apply ite_keeps | dsimp only
    | split | with_reducible apply mk_keeps

theorem execHaltNDeassert_moves (t : Nat) (s : State) : ∃ s1, execHaltNDeassert t s = .next s1 ∧ Moves s s1 := by
  refine ⟨_, rfl, State.run_moves (fun x hx => ?_)⟩
  repeat' first
    | with_reducible assumption | intro _ | dsimp only | with_reducible apply mk_keeps

theorem execVinFault_moves (t : Nat) (mv : Nat) (s : State) : ∃ s1, execVinFault t mv s = .next s1 ∧ Moves s s1 := by
  refine ⟨_, rfl, State.run_moves (fun x hx => ?_)⟩
  repeat' first
    | with_reducible assumption | intro _ | with_reducible apply State.measureVin_keeps | with_reducible apply State.powerFail_keeps
    | with_reducible apply ite_keeps | dsimp only | split | with_reducible apply mk_keeps

theorem execPwrFailN_moves (t : Nat) (level : Bool) (s : State) : ∃ s1, execPwrFailN t level s = .next s1 ∧ Moves s s1 := by
  refine ⟨_, rfl, State.run_moves (fun x hx => ?_)⟩
  repeat' first
    | with_reducible assumption | intro _ | with_reducible apply State.powerFail_keeps | with_reducible apply ite_keeps | dsimp only
    | split | with_reducible apply mk_keeps

theorem execPwrFailDeassert_moves (t : Nat) (s : State) : ∃ s1, execPwrFailDeassert t s = .next s1 ∧ Moves s s1 := by
  refine ⟨_, rfl, State.run_moves (fun x hx => ?_)⟩
  repeat' first
    | with_reducible assumption | intro _ | with_reducible apply ite_keeps | dsimp only | split | with_reducible apply mk_keeps

theorem execPwrGoodFall_moves (t : Nat) (s : State) : ∃ s1, execPwrGoodFall t s = .next s1 ∧ Moves s s1 := by
  refine ⟨_, rfl, State.run_moves (fun x hx => ?_)⟩
  repeat' first
    | with_reducible assumption | intro _ | with_reducible apply State.powerFail_keeps | with_reducible apply ite_keeps | dsimp only
    | split | with_reducible apply mk_keeps

theorem execPwrGoodLowReset_moves (t : Nat) (s : State) : ∃ s1, execPwrGoodLowReset t s = .next s1 ∧ Moves s s1 := by
  refine ⟨_, rfl, State.run_moves (fun x hx => ?_)⟩
  repeat' first
    | with_reducible assumption | intro _ | with_reducible apply State.moduleReset_keeps | with_reducible apply ite_keeps | dsimp only
    | split | with_reducible apply mk_keeps

theorem execUndervoltageLockout_moves (t : Nat) (mv : Nat) (s : State) : ∃ s1, execUndervoltageLockout t mv s = .next s1 ∧ Moves s s1 := by
  refine ⟨_, rfl, State.run_moves (fun x hx => ?_)⟩
  repeat' first
    | with_reducible assumption | intro _ | with_reducible apply State.measureVin_keeps | with_reducible apply State.moduleReset_keeps
    | with_reducible apply ite_keeps | dsimp only | split | with_reducible apply mk_keeps

theorem execUndervoltageLockoutRelease_moves (t : Nat) (mv : Nat) (s : State) :
    ∃ s1, execUndervoltageLockoutRelease t mv s = .next s1 ∧ Moves s s1 := by
  refine ⟨_, rfl, State.run_moves (fun x hx => ?_)⟩
  repeat' first
    | with_reducible assumption | intro _ | with_reducible apply ite_keeps | dsimp only | split | with_reducible apply mk_keeps

theorem execThermalSample_moves (t : Nat) (cell : Fin 8) (dies : List Nat) (s : State) :
    ∃ s1, execThermalSample t cell dies s = .next s1 ∧ Moves s s1 := by
  refine ⟨_, rfl, State.run_moves (fun x hx => ?_)⟩
  repeat' first
    | with_reducible assumption | intro _ | with_reducible apply State.onCell_keeps | with_reducible apply State.enterSafe_keeps
    | with_reducible apply ite_keeps | with_reducible apply cell_wf | dsimp only | split
    | refine fst_keeps (by with_reducible assumption) ?_ | refine snd_keeps (by with_reducible assumption) ?_
    | with_reducible apply mk_keeps

theorem execThermalCeilingTick_moves (t : Nat) (cell : Fin 8) (s : State) :
    ∃ s1, execThermalCeilingTick t cell s = .next s1 ∧ Moves s s1 := by
  refine ⟨_, rfl, State.run_moves (fun x hx => ?_)⟩
  repeat' first
    | with_reducible assumption | intro _ | with_reducible apply State.onCell_keeps | with_reducible apply State.boundarySoon_keeps
    | with_reducible apply ite_keeps | with_reducible apply cell_wf | dsimp only | split | with_reducible apply mk_keeps

theorem execAoclkLoss_moves (t : Nat) (s : State) : ∃ s1, execAoclkLoss t s = .next s1 ∧ Moves s s1 := by
  refine ⟨_, rfl, State.run_moves (fun x hx => ?_)⟩
  repeat' first
    | with_reducible assumption | intro _ | with_reducible apply State.err_keeps | with_reducible apply ite_keeps
    | with_reducible apply foldl_keeps | with_reducible apply foldl_fst_keeps | with_reducible apply cell_wf
    | with_reducible apply wf_foldl | dsimp only | split | with_reducible apply mk_keeps

theorem execRefclkLoss_moves (t : Nat) (s : State) : ∃ s1, execRefclkLoss t s = .next s1 ∧ Moves s s1 := by
  refine ⟨_, rfl, State.run_moves (fun x hx => ?_)⟩
  repeat' first
    | with_reducible assumption | intro _ | with_reducible apply State.enterSafe_keeps | with_reducible apply ite_keeps | dsimp only
    | split | with_reducible apply mk_keeps

theorem execAoclkPresent_moves (t : Nat) (s : State) : ∃ s1, execAoclkPresent t s = .next s1 ∧ Moves s s1 := by
  refine ⟨_, rfl, State.run_moves (fun x hx => ?_)⟩
  repeat' first
    | with_reducible assumption | intro _ | with_reducible apply State.startIslands_keeps | dsimp only | with_reducible apply mk_keeps

theorem execCellWake_moves (t : Nat) (cell : Fin 8) (s : State) : ∃ s1, execCellWake t cell s = .next s1 ∧ Moves s s1 := by
  refine ⟨_, rfl, State.run_moves (fun x hx => ?_)⟩
  repeat' first
    | with_reducible assumption | intro _ | with_reducible apply State.wake_keeps | with_reducible apply ite_keeps | dsimp only | split
    | with_reducible apply mk_keeps

theorem execCellWakeComplete_moves (t : Nat) (cell : Fin 8) (s : State) : ∃ s1, execCellWakeComplete t cell s = .next s1 ∧ Moves s s1 := by
  refine ⟨_, rfl, State.run_moves (fun x hx => ?_)⟩
  repeat' first
    | with_reducible assumption | intro _ | with_reducible apply State.onCell_keeps | with_reducible apply ite_keeps
    | with_reducible apply cell_wf | dsimp only | split | with_reducible apply mk_keeps

theorem execPwrGoodRise_moves (t : Nat) (i3cAddr : BitVec 7) (flashLayout : BitVec 4) (boardId : BitVec 4) (s : State) :
    ∃ s1, execPwrGoodRise t i3cAddr flashLayout boardId s = .next s1 ∧ Moves s s1 := by
  refine ⟨_, rfl, State.run_moves (fun x hx => ?_)⟩
  repeat' first
    | with_reducible assumption | intro _ | with_reducible apply State.startIslands_keeps | with_reducible apply ite_keeps | dsimp only
    | split | with_reducible apply mk_keeps

theorem execSupervisorImageVerify_moves (t : Nat) (activeOk : Bool) (otherOk : Bool) (s : State) :
    ∃ s1, execSupervisorImageVerify t activeOk otherOk s = .next s1 ∧ Moves s s1 := by
  refine ⟨_, rfl, State.run_moves (fun x hx => ?_)⟩
  repeat' first
    | with_reducible assumption | intro _ | with_reducible apply State.superviseFrom_keeps | with_reducible apply ite_keeps | dsimp only
    | split | with_reducible apply mk_keeps

theorem execHostLinkTrained_moves (t : Nat) (configLive : Bool) (s : State) :
    ∃ s1, execHostLinkTrained t configLive s = .next s1 ∧ Moves s s1 := by
  refine ⟨_, rfl, State.run_moves (fun x hx => ?_)⟩
  repeat' first
    | with_reducible assumption | intro _ | with_reducible apply ite_keeps | dsimp only | split | with_reducible apply mk_keeps

theorem execCellInitComplete_moves (t : Nat) (cell : Fin 8) (s : State) : ∃ s1, execCellInitComplete t cell s = .next s1 ∧ Moves s s1 := by
  refine ⟨_, rfl, State.run_moves (fun x hx => ?_)⟩
  repeat' first
    | with_reducible assumption | intro _ | with_reducible apply State.onCell_keeps | with_reducible apply State.returnCell_keeps
    | with_reducible apply State.startFigure_keeps | with_reducible apply ite_keeps | with_reducible apply cell_wf | dsimp only | split
    | with_reducible apply mk_keeps

theorem execCellInitTimeout_moves (t : Nat) (cell : Fin 8) (s : State) : ∃ s1, execCellInitTimeout t cell s = .next s1 ∧ Moves s s1 := by
  refine ⟨_, rfl, State.run_moves (fun x hx => ?_)⟩
  repeat' first
    | with_reducible assumption | intro _ | with_reducible apply State.onCell_keeps | with_reducible apply State.err_keeps
    | with_reducible apply ite_keeps | with_reducible apply cell_wf | dsimp only | split | with_reducible apply mk_keeps

theorem execModuleReset_moves (t : Nat) (who : BitVec 8) (key : BitVec 16) (s : State) :
    ∃ s1, execModuleReset t who key s = .next s1 ∧ Moves s s1 := by
  refine ⟨_, rfl, State.run_moves (fun x hx => ?_)⟩
  repeat' first
    | with_reducible assumption | intro _ | with_reducible apply State.resetKey_keeps | with_reducible apply ite_keeps | dsimp only
    | split | with_reducible apply mk_keeps

theorem execRestart_moves (t : Nat) (who : BitVec 8) (cell : Fin 8) (s : State) :
    ∃ s1, execRestart t who cell s = .next s1 ∧ Moves s s1 := by
  refine ⟨_, rfl, State.run_moves (fun x hx => ?_)⟩
  repeat' first
    | with_reducible assumption | intro _ | with_reducible apply State.askRestart_keeps | with_reducible apply ite_keeps | dsimp only
    | split | with_reducible apply mk_keeps

theorem execRestartDrain_moves (t : Nat) (who : BitVec 8) (cell : Fin 8) (s : State) :
    ∃ s1, execRestartDrain t who cell s = .next s1 ∧ Moves s s1 := by
  refine ⟨_, rfl, State.run_moves (fun x hx => ?_)⟩
  repeat' first
    | with_reducible assumption | intro _ | with_reducible apply State.askRestart_keeps | with_reducible apply ite_keeps | dsimp only
    | split | with_reducible apply mk_keeps

theorem execCellRestartBegin_moves (t : Nat) (cell : Fin 8) (s : State) : ∃ s1, execCellRestartBegin t cell s = .next s1 ∧ Moves s s1 := by
  refine ⟨_, rfl, State.run_moves (fun x hx => ?_)⟩
  repeat' first
    | with_reducible assumption | intro _ | with_reducible apply State.adminVoid_keeps | with_reducible apply State.beginRestart_keeps
    | with_reducible apply ite_keeps | dsimp only | split | refine fst_keeps (by with_reducible assumption) ?_
    | refine snd_keeps (by with_reducible assumption) ?_ | with_reducible apply mk_keeps

theorem execFlashOperation_moves (t : Nat) (s : State) : ∃ s1, execFlashOperation t s = .next s1 ∧ Moves s s1 := by
  refine ⟨_, rfl, State.run_moves (fun x hx => ?_)⟩
  repeat' first
    | with_reducible assumption | intro _ | with_reducible apply State.tryStore_keeps | with_reducible apply ite_keeps | dsimp only
    | split | with_reducible apply mk_keeps

theorem execFlashDeferRetry_moves (t : Nat) (s : State) : ∃ s1, execFlashDeferRetry t s = .next s1 ∧ Moves s s1 := by
  refine ⟨_, rfl, State.run_moves (fun x hx => ?_)⟩
  repeat' first
    | with_reducible assumption | intro _ | with_reducible apply State.tryStore_keeps | with_reducible apply ite_keeps | dsimp only
    | split | with_reducible apply mk_keeps

theorem execFwWrite_moves (t : Nat) (who : BitVec 8) (dmaOk : Bool) (bundle : List Byte) (s : State) :
    ∃ s1, execFwWrite t who dmaOk bundle s = .next s1 ∧ Moves s s1 := by
  refine ⟨_, rfl, State.run_moves (fun x hx => ?_)⟩
  repeat' first
    | with_reducible assumption | intro _ | with_reducible apply State.fwCommand_keeps | with_reducible apply State.fwWrite_keeps
    | with_reducible apply ite_keeps | dsimp only | split | with_reducible apply mk_keeps

theorem execFwStage_moves (t : Nat) (who : BitVec 8) (s : State) : ∃ s1, execFwStage t who s = .next s1 ∧ Moves s s1 := by
  refine ⟨_, rfl, State.run_moves (fun x hx => ?_)⟩
  repeat' first
    | with_reducible assumption | intro _ | with_reducible apply State.fwCommand_keeps | with_reducible apply State.fwStage_keeps
    | with_reducible apply ite_keeps | dsimp only | split | with_reducible apply mk_keeps

theorem execFwSwitch_moves (t : Nat) (who : BitVec 8) (s : State) : ∃ s1, execFwSwitch t who s = .next s1 ∧ Moves s s1 := by
  refine ⟨_, rfl, State.run_moves (fun x hx => ?_)⟩
  repeat' first
    | with_reducible assumption | intro _ | with_reducible apply State.fwCommand_keeps | with_reducible apply State.fwSwitch_keeps
    | with_reducible apply ite_keeps | dsimp only | split | with_reducible apply mk_keeps

theorem execFwCommit_moves (t : Nat) (who : BitVec 8) (s : State) : ∃ s1, execFwCommit t who s = .next s1 ∧ Moves s s1 := by
  refine ⟨_, rfl, State.run_moves (fun x hx => ?_)⟩
  repeat' first
    | with_reducible assumption | intro _ | with_reducible apply State.fwCommand_keeps | with_reducible apply State.fwCommit_keeps
    | with_reducible apply ite_keeps | dsimp only | split | with_reducible apply mk_keeps

theorem execFwRevert_moves (t : Nat) (who : BitVec 8) (s : State) : ∃ s1, execFwRevert t who s = .next s1 ∧ Moves s s1 := by
  refine ⟨_, rfl, State.run_moves (fun x hx => ?_)⟩
  repeat' first
    | with_reducible assumption | intro _ | with_reducible apply State.fwCommand_keeps | with_reducible apply State.fwRevert_keeps
    | with_reducible apply ite_keeps | dsimp only | split | with_reducible apply mk_keeps

theorem execUpdateComponent_moves (t : Nat) (who : BitVec 8) (bundle : List Byte) (s : State) :
    ∃ s1, execUpdateComponent t who bundle s = .next s1 ∧ Moves s s1 := by
  refine ⟨_, rfl, State.run_moves (fun x hx => ?_)⟩
  repeat' first
    | with_reducible assumption | intro _ | with_reducible apply State.fwEnd_keeps | with_reducible apply State.storeBundle_keeps
    | with_reducible apply ite_keeps | dsimp only | split | with_reducible apply mk_keeps

theorem execActivateFirmware_moves (t : Nat) (who : BitVec 8) (s : State) : ∃ s1, execActivateFirmware t who s = .next s1 ∧ Moves s s1 := by
  refine ⟨_, rfl, State.run_moves (fun x hx => ?_)⟩
  repeat' first
    | with_reducible assumption | intro _ | with_reducible apply State.fwSwitch_keeps | with_reducible apply ite_keeps | dsimp only
    | split | with_reducible apply mk_keeps

theorem execFigFloor_moves (t : Nat) (who : BitVec 8) (value : BitVec 32) (s : State) :
    ∃ s1, execFigFloor t who value s = .next s1 ∧ Moves s s1 := by
  refine ⟨_, rfl, State.run_moves (fun x hx => ?_)⟩
  repeat' first
    | with_reducible assumption | intro _ | with_reducible apply State.raiseFloor_keeps | with_reducible apply ite_keeps | dsimp only
    | split | with_reducible apply mk_keeps

theorem execRuleFloor_moves (t : Nat) (who : BitVec 8) (value : BitVec 32) (s : State) :
    ∃ s1, execRuleFloor t who value s = .next s1 ∧ Moves s s1 := by
  refine ⟨_, rfl, State.run_moves (fun x hx => ?_)⟩
  repeat' first
    | with_reducible assumption | intro _ | with_reducible apply State.raiseFloor_keeps | with_reducible apply ite_keeps | dsimp only
    | split | with_reducible apply mk_keeps

theorem execEnrol_moves (t : Nat) (who : BitVec 8) (len : Nat) (s : State) : ∃ s1, execEnrol t who len s = .next s1 ∧ Moves s s1 := by
  refine ⟨_, rfl, State.run_moves (fun x hx => ?_)⟩
  repeat' first
    | with_reducible assumption | intro _ | with_reducible apply State.enrol_keeps | with_reducible apply ite_keeps | dsimp only | split
    | with_reducible apply mk_keeps

theorem execPersist_moves (t : Nat) (who : BitVec 8) (cell : Fin 8) (value : BitVec 32) (s : State) :
    ∃ s1, execPersist t who cell value s = .next s1 ∧ Moves s s1 := by
  refine ⟨_, rfl, State.run_moves (fun x hx => ?_)⟩
  repeat' first
    | with_reducible assumption | intro _ | with_reducible apply State.persist_keeps | with_reducible apply ite_keeps | dsimp only
    | split | with_reducible apply mk_keeps

theorem execJournalCommitWritten_moves (t : Nat) (s : State) : ∃ s1, execJournalCommitWritten t s = .next s1 ∧ Moves s s1 := by
  refine ⟨_, rfl, State.run_moves (fun x hx => ?_)⟩
  repeat' first
    | with_reducible assumption | intro _ | with_reducible apply State.commitStore_keeps | with_reducible apply ite_keeps | dsimp only
    | split | refine fst_keeps (by with_reducible assumption) ?_ | refine snd_keeps (by with_reducible assumption) ?_
    | with_reducible apply mk_keeps

theorem execManagerWrite_moves (t : Nat) (who : BitVec 8) (value : BitVec 32) (s : State) :
    ∃ s1, execManagerWrite t who value s = .next s1 ∧ Moves s s1 := by
  refine ⟨_, rfl, State.run_moves (fun x hx => ?_)⟩
  repeat' first
    | with_reducible assumption | intro _ | with_reducible apply State.writeManager_keeps | with_reducible apply ite_keeps | dsimp only
    | split | with_reducible apply mk_keeps

theorem execPowerLimit_moves (t : Nat) (who : BitVec 8) (value : BitVec 16) (s : State) :
    ∃ s1, execPowerLimit t who value s = .next s1 ∧ Moves s s1 := by
  refine ⟨_, rfl, State.run_moves (fun x hx => ?_)⟩
  repeat' first
    | with_reducible assumption | intro _ | with_reducible apply State.writeLimit_keeps | with_reducible apply ite_keeps | dsimp only
    | split | with_reducible apply mk_keeps

theorem execJobStep_moves (t : Nat) (who : BitVec 8) (cell : Fin 8) (tenant : Fin 64) (value : BitVec 64) (s : State) :
    ∃ s1, execJobStep t who cell tenant value s = .next s1 ∧ Moves s s1 := by
  refine ⟨_, rfl, State.run_moves (fun x hx => ?_)⟩
  repeat' first
    | with_reducible assumption | intro _ | with_reducible apply State.writeJobStep_keeps | with_reducible apply ite_keeps | dsimp only
    | split | with_reducible apply mk_keeps

theorem execTurnPlan_moves (t : Nat) (who : BitVec 8) (cell : Fin 8) (value : BitVec 64) (s : State) :
    ∃ s1, execTurnPlan t who cell value s = .next s1 ∧ Moves s s1 := by
  refine ⟨_, rfl, State.run_moves (fun x hx => ?_)⟩
  repeat' first
    | with_reducible assumption | intro _ | with_reducible apply State.setTurnPlan_keeps | with_reducible apply ite_keeps | dsimp only
    | split | with_reducible apply mk_keeps

theorem execQuarRelease_moves (t : Nat) (who : BitVec 8) (cell : Fin 8) (ports : BitVec 12) (s : State) :
    ∃ s1, execQuarRelease t who cell ports s = .next s1 ∧ Moves s s1 := by
  refine ⟨_, rfl, State.run_moves (fun x hx => ?_)⟩
  repeat' first
    | with_reducible assumption | intro _ | with_reducible apply State.quarRelease_keeps | with_reducible apply ite_keeps | dsimp only
    | split | with_reducible apply mk_keeps

theorem execStop_moves (t : Nat) (who : BitVec 8) (cell : Fin 8) (core : Fin 128) (s : State) :
    ∃ s1, execStop t who cell core s = .next s1 ∧ Moves s s1 := by
  refine ⟨_, rfl, State.run_moves (fun x hx => ?_)⟩
  repeat' first
    | with_reducible assumption | intro _ | with_reducible apply State.askStop_keeps | with_reducible apply ite_keeps | dsimp only
    | split | with_reducible apply mk_keeps

theorem execDebugStopReached_moves (t : Nat) (cell : Fin 8) (s : State) : ∃ s1, execDebugStopReached t cell s = .next s1 ∧ Moves s s1 := by
  refine ⟨_, rfl, State.run_moves (fun x hx => ?_)⟩
  repeat' first
    | with_reducible assumption | intro _ | with_reducible apply State.onCore_keeps | with_reducible apply State.fenceNow_keeps
    | with_reducible apply State.onCell_keeps | with_reducible apply Cell.onCore_wf | with_reducible apply cell_wf | dsimp only | split
    | refine fst_keeps (by with_reducible assumption) ?_ | refine snd_keeps (by with_reducible assumption) ?_
    | with_reducible apply mk_keeps

theorem execReqIndex_moves (t : Nat) (who : BitVec 8) (cell : Fin 8) (index : BitVec 14) (s : State) :
    ∃ s1, execReqIndex t who cell index s = .next s1 ∧ Moves s s1 := by
  refine ⟨_, rfl, State.run_moves (fun x hx => ?_)⟩
  repeat' first
    | with_reducible assumption | intro _ | with_reducible apply State.capture_keeps | with_reducible apply ite_keeps | dsimp only
    | split | with_reducible apply mk_keeps

theorem execErrCons_moves (t : Nat) (who : BitVec 8) (cell : Fin 8) (value : BitVec 32) (s : State) :
    ∃ s1, execErrCons t who cell value s = .next s1 ∧ Moves s s1 := by
  refine ⟨_, rfl, State.run_moves (fun x hx => ?_)⟩
  repeat' first
    | with_reducible assumption | intro _ | with_reducible apply State.writeCons_keeps | with_reducible apply ite_keeps | dsimp only
    | split | with_reducible apply mk_keeps

theorem execFatal_moves (t : Nat) (who : BitVec 8) (cell : Fin 8) (value : BitVec 32) (s : State) :
    ∃ s1, execFatal t who cell value s = .next s1 ∧ Moves s s1 := by
  refine ⟨_, rfl, State.run_moves (fun x hx => ?_)⟩
  repeat' first
    | with_reducible assumption | intro _ | with_reducible apply State.clearFatal_keeps | with_reducible apply ite_keeps | dsimp only
    | split | with_reducible apply mk_keeps

theorem execPldmEffecter_moves (t : Nat) (who : BitVec 8) (effecter : BitVec 16) (value : Nat) (s : State) :
    ∃ s1, execPldmEffecter t who effecter value s = .next s1 ∧ Moves s s1 := by
  refine ⟨_, rfl, State.run_moves (fun x hx => ?_)⟩
  repeat' first
    | with_reducible assumption | intro _ | with_reducible apply State.effecter_keeps | with_reducible apply ite_keeps | dsimp only
    | split | with_reducible apply mk_keeps

theorem execIdentityCacheEntry_moves (t : Nat) (keyId : BitVec 64) (publicKey : List Byte) (chainOk : Bool) (reachable : Bool) (s : State) :
    ∃ s1, execIdentityCacheEntry t keyId publicKey chainOk reachable s = .next s1 ∧ Moves s s1 := by
  refine ⟨_, rfl, State.run_moves (fun x hx => ?_)⟩
  repeat' first
    | with_reducible assumption | intro _ | with_reducible apply ite_keeps | dsimp only | split | with_reducible apply mk_keeps

theorem execGetVersion_moves (t : Nat) (path : Nat) (cell : Fin 8) (_msg : List Byte) (s : State) :
    ∃ s1, execGetVersion t path cell _msg s = .next s1 ∧ Moves s s1 := by
  refine ⟨_, rfl, State.run_moves (fun x hx => ?_)⟩
  repeat' first
    | with_reducible assumption | intro _ | with_reducible apply State.openSpdm_keeps | dsimp only | with_reducible apply mk_keeps

theorem execGetCapabilities_moves (t : Nat) (path : Nat) (cell : Fin 8) (msg : List Byte) (s : State) :
    ∃ s1, execGetCapabilities t path cell msg s = .next s1 ∧ Moves s s1 := by
  refine ⟨_, rfl, State.run_moves (fun x hx => ?_)⟩
  repeat' first
    | with_reducible assumption | intro _ | with_reducible apply State.onSpdm_keeps | with_reducible apply State.advance_keeps
    | dsimp only | with_reducible apply mk_keeps

theorem execNegotiateAlgorithms_moves (t : Nat) (path : Nat) (cell : Fin 8) (msg : List Byte) (s : State) :
    ∃ s1, execNegotiateAlgorithms t path cell msg s = .next s1 ∧ Moves s s1 := by
  refine ⟨_, rfl, State.run_moves (fun x hx => ?_)⟩
  repeat' first
    | with_reducible assumption | intro _ | with_reducible apply State.onSpdm_keeps | with_reducible apply State.advance_keeps
    | dsimp only | with_reducible apply mk_keeps

theorem execGetDigests_moves (t : Nat) (path : Nat) (cell : Fin 8) (_msg : List Byte) (s : State) :
    ∃ s1, execGetDigests t path cell _msg s = .next s1 ∧ Moves s s1 := by
  refine ⟨_, rfl, State.run_moves (fun x hx => ?_)⟩
  repeat' first
    | with_reducible assumption | intro _ | with_reducible apply State.onSpdm_keeps | with_reducible apply State.spdmReply_keeps
    | dsimp only | with_reducible apply mk_keeps

theorem execGetCertificate_moves (t : Nat) (path : Nat) (cell : Fin 8) (msg : List Byte) (s : State) :
    ∃ s1, execGetCertificate t path cell msg s = .next s1 ∧ Moves s s1 := by
  refine ⟨_, rfl, State.run_moves (fun x hx => ?_)⟩
  repeat' first
    | with_reducible assumption | intro _ | with_reducible apply State.onSpdm_keeps | with_reducible apply State.spdmError_keeps
    | with_reducible apply State.spdmReply_keeps | dsimp only | split | refine fst_keeps (by with_reducible assumption) ?_
    | refine snd_keeps (by with_reducible assumption) ?_ | with_reducible apply mk_keeps

theorem execChallenge_moves (t : Nat) (path : Nat) (cell : Fin 8) (msg : List Byte) (s : State) :
    ∃ s1, execChallenge t path cell msg s = .next s1 ∧ Moves s s1 := by
  refine ⟨_, rfl, State.run_moves (fun x hx => ?_)⟩
  repeat' first
    | with_reducible assumption | intro _ | with_reducible apply State.onSpdm_keeps | with_reducible apply State.spdmReply_keeps
    | dsimp only | with_reducible apply mk_keeps

theorem execSetCertificate_moves (t : Nat) (path : Nat) (cell : Fin 8) (chain : List Byte) (root : BitVec 64) (s : State) :
    ∃ s1, execSetCertificate t path cell chain root s = .next s1 ∧ Moves s s1 := by
  refine ⟨_, rfl, State.run_moves (fun x hx => ?_)⟩
  repeat' first
    | with_reducible assumption | intro _ | with_reducible apply State.onSpdm_keeps | with_reducible apply State.spdmError_keeps
    | with_reducible apply State.storeLater_keeps | with_reducible apply State.spdmReply_keeps | with_reducible apply ite_keeps
    | dsimp only | split | with_reducible apply mk_keeps

theorem execGetMeasurements_moves (t : Nat) (path : Nat) (cell : Fin 8) (msg : List Byte) (s : State) :
    ∃ s1, execGetMeasurements t path cell msg s = .next s1 ∧ Moves s s1 := by
  refine ⟨_, rfl, State.run_moves (fun x hx => ?_)⟩
  repeat' first
    | with_reducible assumption | intro _ | with_reducible apply State.onSpdm_keeps | with_reducible apply State.spdmReply_keeps
    | with_reducible apply State.spdmError_keeps | with_reducible apply ite_keeps | dsimp only | split | with_reducible apply mk_keeps

theorem execKeyExchange_moves (t : Nat) (path : Nat) (cell : Fin 8) (msg : List Byte) (s : State) :
    ∃ s1, execKeyExchange t path cell msg s = .next s1 ∧ Moves s s1 := by
  refine ⟨_, rfl, State.run_moves (fun x hx => ?_)⟩
  repeat' first
    | with_reducible assumption | intro _ | with_reducible apply State.onKorif_keeps | with_reducible apply State.setSpdm_keeps
    | with_reducible apply State.spdmReply_keeps | dsimp only | with_reducible apply mk_keeps

theorem execFinish_moves (t : Nat) (path : Nat) (cell : Fin 8) (msg : List Byte) (verified : Bool) (keyId : BitVec 64) (s : State) :
    ∃ s1, execFinish t path cell msg verified keyId s = .next s1 ∧ Moves s s1 := by
  refine ⟨_, rfl, State.run_moves (fun x hx => ?_)⟩
  repeat' first
    | with_reducible assumption | intro _ | with_reducible apply State.inSession_keeps | with_reducible apply State.setSpdm_keeps
    | with_reducible apply State.spdmReply_keeps | with_reducible apply State.spdmError_keeps | with_reducible apply ite_keeps
    | dsimp only | split | with_reducible apply mk_keeps

theorem execGetEncapsulatedRequest_moves (t : Nat) (path : Nat) (cell : Fin 8) (msg : List Byte) (s : State) :
    ∃ s1, execGetEncapsulatedRequest t path cell msg s = .next s1 ∧ Moves s s1 := by
  refine ⟨_, rfl, State.run_moves (fun x hx => ?_)⟩
  repeat' first
    | with_reducible assumption | intro _ | with_reducible apply State.inSession_keeps | with_reducible apply State.spdmReply_keeps
    | dsimp only | with_reducible apply mk_keeps

theorem execDeliverEncapsulatedResponse_moves (t : Nat) (path : Nat) (cell : Fin 8) (msg : List Byte) (s : State) :
    ∃ s1, execDeliverEncapsulatedResponse t path cell msg s = .next s1 ∧ Moves s s1 := by
  refine ⟨_, rfl, State.run_moves (fun x hx => ?_)⟩
  repeat' first
    | with_reducible assumption | intro _ | with_reducible apply State.inSession_keeps | with_reducible apply State.spdmReply_keeps
    | dsimp only | with_reducible apply mk_keeps

theorem execEndSession_moves (t : Nat) (path : Nat) (cell : Fin 8) (_msg : List Byte) (s : State) :
    ∃ s1, execEndSession t path cell _msg s = .next s1 ∧ Moves s s1 := by
  refine ⟨_, rfl, State.run_moves (fun x hx => ?_)⟩
  repeat' first
    | with_reducible assumption | intro _ | with_reducible apply State.inSession_keeps | with_reducible apply State.spdmReply_keeps
    | with_reducible apply State.endSpdm_keeps | dsimp only | with_reducible apply mk_keeps

theorem execChunkSend_moves (t : Nat) (path : Nat) (cell : Fin 8) (msg : List Byte) (s : State) :
    ∃ s1, execChunkSend t path cell msg s = .next s1 ∧ Moves s s1 := by
  refine ⟨_, rfl, State.run_moves (fun x hx => ?_)⟩
  repeat' first
    | with_reducible assumption | intro _ | with_reducible apply State.onSpdm_keeps | with_reducible apply State.setSpdm_keeps
    | with_reducible apply State.spdmReply_keeps | with_reducible apply ite_keeps | dsimp only | split | with_reducible apply mk_keeps

theorem execChunkGet_moves (t : Nat) (path : Nat) (cell : Fin 8) (_msg : List Byte) (s : State) :
    ∃ s1, execChunkGet t path cell _msg s = .next s1 ∧ Moves s s1 := by
  refine ⟨_, rfl, State.run_moves (fun x hx => ?_)⟩
  repeat' first
    | with_reducible assumption | intro _ | with_reducible apply State.onSpdm_keeps | with_reducible apply State.spdmError_keeps
    | with_reducible apply State.setSpdm_keeps | with_reducible apply State.spdmReply_keeps | with_reducible apply ite_keeps
    | dsimp only | split | with_reducible apply mk_keeps

theorem execMctpControl_moves (t : Nat) (i3c : Bool) (command : BitVec 8) (eid : BitVec 8) (s : State) :
    ∃ s1, execMctpControl t i3c command eid s = .next s1 ∧ Moves s s1 := by
  refine ⟨_, rfl, State.run_moves (fun x hx => ?_)⟩
  repeat' first
    | with_reducible assumption | intro _ | with_reducible apply State.mctpControl_keeps | with_reducible apply ite_keeps | dsimp only
    | split | with_reducible apply mk_keeps

theorem execEntdaa_moves (t : Nat) (addr : BitVec 7) (s : State) : ∃ s1, execEntdaa t addr s = .next s1 ∧ Moves s s1 := by
  refine ⟨_, rfl, State.run_moves (fun x hx => ?_)⟩
  repeat' first
    | with_reducible assumption | intro _ | with_reducible apply ite_keeps | dsimp only | split | with_reducible apply mk_keeps

theorem execSetdasa_moves (t : Nat) (static : BitVec 7) (dynamic : BitVec 7) (s : State) :
    ∃ s1, execSetdasa t static dynamic s = .next s1 ∧ Moves s s1 := by
  refine ⟨_, rfl, State.run_moves (fun x hx => ?_)⟩
  repeat' first
    | with_reducible assumption | intro _ | with_reducible apply ite_keeps | dsimp only | split | with_reducible apply mk_keeps

theorem execGetstatus_moves (t : Nat) (s : State) : ∃ s1, execGetstatus t s = .next s1 ∧ Moves s s1 := by
  refine ⟨_, rfl, State.run_moves (fun x hx => ?_)⟩
  repeat' first
    | with_reducible assumption | intro _ | with_reducible apply State.takeFree_keeps | with_reducible apply State.emit_keeps
    | with_reducible apply ite_keeps | dsimp only | split | with_reducible apply mk_keeps

theorem execVendorSend_moves (t : Nat) (who : BitVec 8) (chan : Fin 64) (count : Nat) (doorbell : Bool) (words : List (BitVec 32)) (s : State) :
    ∃ s1, execVendorSend t who chan count doorbell words s = .next s1 ∧ Moves s s1 := by
  refine ⟨_, rfl, State.run_moves (fun x hx => ?_)⟩
  repeat' first
    | with_reducible assumption | intro _ | with_reducible apply State.emit_keeps | with_reducible apply State.vendorSend_keeps
    | with_reducible apply ite_keeps | dsimp only | split | with_reducible apply mk_keeps

theorem execVendorReceive_moves (t : Nat) (who : BitVec 8) (chan : Fin 64) (count : Nat) (s : State) :
    ∃ s1, execVendorReceive t who chan count s = .next s1 ∧ Moves s s1 := by
  refine ⟨_, rfl, State.run_moves (fun x hx => ?_)⟩
  repeat' first
    | with_reducible assumption | intro _ | with_reducible apply State.emit_keeps | with_reducible apply State.vendorReceive_keeps
    | with_reducible apply ite_keeps | dsimp only | split | with_reducible apply mk_keeps

theorem execVendorWindow_moves (t : Nat) (who : BitVec 8) (chan : Fin 64) (s : State) :
    ∃ s1, execVendorWindow t who chan s = .next s1 ∧ Moves s s1 := by
  refine ⟨_, rfl, State.run_moves (fun x hx => ?_)⟩
  repeat' first
    | with_reducible assumption | intro _ | with_reducible apply State.vendorWindow_keeps | with_reducible apply ite_keeps | dsimp only
    | split | with_reducible apply mk_keeps

theorem execRegisterWrite_moves (t : Nat) (fn : Fin 64) (off : Nat) (size : Nat) (value : BitVec 64) (s : State) :
    ∃ s1, execRegisterWrite t fn off size value s = .next s1 ∧ Moves s s1 := by
  refine ⟨_, rfl, State.run_moves (fun x hx => ?_)⟩
  repeat' first
    | with_reducible assumption | intro _ | with_reducible apply State.writeReg_keeps | with_reducible apply ite_keeps | dsimp only
    | split | with_reducible apply mk_keeps

theorem execRegisterRead_moves (t : Nat) (fn : Fin 64) (off : Nat) (size : Nat) (s : State) :
    ∃ s1, execRegisterRead t fn off size s = .next s1 ∧ Moves s s1 := by
  refine ⟨_, rfl, State.run_moves (fun x hx => ?_)⟩
  repeat' first
    | with_reducible assumption | intro _ | with_reducible apply State.readReg_keeps | with_reducible apply State.emit_keeps
    | with_reducible apply ite_keeps | dsimp only | split | with_reducible apply mk_keeps

end Sys2Proof.Machine
end

