-- ==== Sys2Proof/Laws/Planes.lean ====
section
/-!
SUPPORT. What leaves the active figure and plane select of every cell alone (Planes): one law per operation.
-/

namespace Sys2Proof.Machine

variable {s0 s : State}

theorem ite_planes {p : Prop} [Decidable p] {a b : State} (ha : Planes s0 a) (hb : Planes s0 b) :
    Planes s0 (if p then a else b) := by split <;> assumption

theorem ite_fst_planes {γ : Type} {p : Prop} [Decidable p] {a b : State × γ} (ha : Planes s0 a.1) (hb : Planes s0 b.1) :
    Planes s0 (if p then a else b).1 := by split <;> assumption

theorem ite_snd_planes {γ : Type} {p : Prop} [Decidable p] {a b : γ × State} (ha : Planes s0 a.2) (hb : Planes s0 b.2) :
    Planes s0 (if p then a else b).2 := by split <;> assumption

theorem foldl_planes {β : Type} (l : List β) (f : State → β → State) (h : Planes s0 s)
    (hf : ∀ (x : State) (b : β), Planes s0 x → Planes s0 (f x b)) : Planes s0 (l.foldl f s) := by
  induction l generalizing s with
  | nil => exact h
  | cons b l ih => exact ih (hf s b h)

theorem foldl_fst_planes {β γ : Type} (l : List β) (f : State × γ → β → State × γ) {a : State × γ} (h : Planes s0 a.1)
    (hf : ∀ (x : State × γ) (b : β), Planes s0 x.1 → Planes s0 (f x b).1) : Planes s0 (l.foldl f a).1 := by
  induction l generalizing a with
  | nil => exact h
  | cons b l ih => exact ih (hf a b h)

/-- A change of fields other than the cells. -/
theorem same_planes {s' : State} (h : Planes s0 s) (hc : s'.cells = s.cells) : Planes s0 s' := ⟨fun c => by
  have := h.plane c
  simpa only [State.cell, hc] using this⟩

theorem mk_planes (h : Planes s0 s) {pe nw fr su bo fl fw ho fn se ch ne nh bw sh co mg ou} :
    Planes s0 ⟨pe, nw, fr, su, bo, fl, fw, ho, fn, se, s.cells, ch, ne, nh, bw, sh, co, mg, ou⟩ := same_planes h rfl

theorem cell_plane (h : Planes s0 s) (c : Nat) : (s.cell c).fig.plane = (s0.cell c).fig.plane := h.plane c

theorem plane_mk {f : FigState} {p} (h : f.plane = p) {a b c d e g i j k l m n o q} :
    FigState.plane ⟨a, f.active, b, c, d, f.select, e, g, i, j, k, l, m, n, o, q⟩ = p := h

theorem State.setCell_planes (h : Planes s0 s) (c : Nat) {v : Cell} (hv : v.fig.plane = (s0.cell c).fig.plane) :
    Planes s0 (s.setCell c v) := ⟨fun m => by
  rw [State.cell_setCell]
  split
  · subst_vars
    exact hv
  · exact h.plane m⟩

theorem State.onCell_planes (h : Planes s0 s) (c : Nat) {f : Cell → Cell}
    (hf : ∀ (k : Cell) (p : Option Figure × Bool), k.fig.plane = p → (f k).fig.plane = p) : Planes s0 (s.onCell c f) :=
  State.setCell_planes h c (hf _ _ (h.plane c))

theorem State.onFn_planes (h : Planes s0 s) (n : Nat) (f : HostFn → HostFn) : Planes s0 (s.onFn n f) := same_planes h rfl

theorem State.setChan_planes (h : Planes s0 s) (n : Nat) (v : Chan) : Planes s0 (s.setChan n v) := same_planes h rfl

theorem State.onCoord_planes (h : Planes s0 s) (n : Nat) (f : Coord → Coord) : Planes s0 (s.onCoord n f) := same_planes h rfl

theorem State.emit_planes (h : Planes s0 s) (e : Emit) : Planes s0 (s.emit e) := same_planes h rfl

theorem getD_planes {o : Option State} {d : State} (ho : ∀ y, o = some y → Planes s0 y) (hd : Planes s0 d) : Planes s0 (o.getD d) := by
  cases o with
  | none => exact hd
  | some y => exact ho y rfl

theorem fst_planes {γ : Type} {p : State × γ} {a : State} {b : γ} (e : p = (a, b)) (h : Planes s0 p.1) : Planes s0 a := by
  rw [e] at h; exact h

theorem snd_planes {γ : Type} {p : γ × State} {a : γ} {b : State} (e : p = (a, b)) (h : Planes s0 p.2) : Planes s0 b := by
  rw [e] at h; exact h

theorem plane_foldl {β : Type} (l : List β) (f : Cell → β → Cell) {k : Cell} {p : Option Figure × Bool} (h : k.fig.plane = p)
    (hf : ∀ (x : Cell) (b : β), x.fig.plane = p → (f x b).fig.plane = p) : (l.foldl f k).fig.plane = p := by
  induction l generalizing k with
  | nil => exact h
  | cons b l ih => exact ih (hf k b h)

theorem Cell.slewBy_plane {pl : Option Figure × Bool} {c : Cell} (h : c.fig.plane = pl) (dt : Nat) : (Cell.slewBy dt c).fig.plane = pl := by
  unfold Cell.slewBy
  repeat' first
    | with_reducible assumption | intro _ | dsimp only | split

theorem Cell.setCore_plane {pl : Option Figure × Bool} {k : Cell} (h : k.fig.plane = pl) (n : Nat) (v : Core) :
    (Cell.setCore k n v).fig.plane = pl := by
  unfold Cell.setCore
  repeat' first
    | with_reducible assumption | intro _ | dsimp only

theorem Cell.onCore_plane {pl : Option Figure × Bool} {k : Cell} (h : k.fig.plane = pl) (n : Nat) (f : Core → Core) :
    (Cell.onCore k n f).fig.plane = pl := by
  unfold Cell.onCore
  repeat' first
    | with_reducible assumption | intro _ | with_reducible apply Cell.setCore_plane | dsimp only

theorem State.onCore_planes {s : State} (h : Planes s0 s) (c : Nat) (n : Nat) (f : Core → Core) : Planes s0 (State.onCore s c n f) := by
  unfold State.onCore
  repeat' first
    | with_reducible assumption | intro _ | with_reducible apply State.onCell_planes | with_reducible apply Cell.onCore_plane
    | with_reducible apply cell_plane | dsimp only | with_reducible apply mk_planes

theorem Cell.onRun_plane {pl : Option Figure × Bool} {k : Cell} (h : k.fig.plane = pl) (t : Nat) (f : TenantRun → TenantRun) :
    (Cell.onRun k t f).fig.plane = pl := by
  unfold Cell.onRun
  repeat' first
    | with_reducible assumption | intro _ | dsimp only

theorem Cell.onVer_plane {pl : Option Figure × Bool} {k : Cell} (h : k.fig.plane = pl) (t : Nat) (f : Versions → Versions) :
    (Cell.onVer k t f).fig.plane = pl := by
  unfold Cell.onVer
  repeat' first
    | with_reducible assumption | intro _ | dsimp only

theorem Cell.onLrn_plane {pl : Option Figure × Bool} {k : Cell} (h : k.fig.plane = pl) (t : Nat) (f : LearnRun → LearnRun) :
    (Cell.onLrn k t f).fig.plane = pl := by
  unfold Cell.onLrn
  repeat' first
    | with_reducible assumption | intro _ | dsimp only

theorem Cell.onEntry_plane {pl : Option Figure × Bool} {k : Cell} (h : k.fig.plane = pl) (i : Nat) (f : ReqEntry → ReqEntry) :
    (Cell.onEntry k i f).fig.plane = pl := by
  unfold Cell.onEntry
  repeat' first
    | with_reducible assumption | intro _ | dsimp only

theorem Cell.onPort_plane {pl : Option Figure × Bool} {k : Cell} (h : k.fig.plane = pl) (p : Nat) (f : Port → Port) :
    (Cell.onPort k p f).fig.plane = pl := by
  unfold Cell.onPort
  repeat' first
    | with_reducible assumption | intro _ | dsimp only

theorem State.takeFree_planes {s : State} (h : Planes s0 s)  : Planes s0 (State.takeFree s).2 := by
  unfold State.takeFree
  repeat' first
    | with_reducible assumption | intro _ | dsimp only | with_reducible apply mk_planes

theorem State.cause_planes {s : State} (h : Planes s0 s) (c : Nat) (code : Nat) (tenant : Nat) (entry : Option Nat) :
    Planes s0 (State.cause s c code tenant entry) := by
  unfold State.cause
  repeat' first
    | with_reducible assumption | intro _ | with_reducible apply State.onCell_planes | with_reducible apply ite_planes
    | with_reducible apply cell_plane | dsimp only | split | with_reducible apply mk_planes

theorem State.causeAll_planes {s : State} (h : Planes s0 s) (c : Nat) (code : Nat) : Planes s0 (State.causeAll s c code) := by
  unfold State.causeAll
  repeat' first
    | with_reducible assumption | intro _ | with_reducible apply State.cause_planes | with_reducible apply State.onCell_planes
    | with_reducible apply ite_planes | with_reducible apply cell_plane | dsimp only | split | with_reducible apply mk_planes

theorem State.causeAt_planes {s : State} (h : Planes s0 s) (c : Nat) (code : Nat) (tenant : Nat) (step : Nat) :
    Planes s0 (State.causeAt s c code tenant step) := by
  unfold State.causeAt
  repeat' first
    | with_reducible assumption | intro _ | with_reducible apply State.cause_planes | with_reducible apply State.onCell_planes
    | with_reducible apply ite_planes | with_reducible apply cell_plane | dsimp only | split | with_reducible apply mk_planes

theorem State.msix_planes {s : State} (h : Planes s0 s) (n : Nat) (v : Nat) : Planes s0 (State.msix s n v) := by
  unfold State.msix
  repeat' first
    | with_reducible assumption | intro _ | with_reducible apply State.onFn_planes | with_reducible apply State.emit_planes
    | with_reducible apply ite_planes | dsimp only | split | with_reducible apply mk_planes

theorem State.pldmEvent_planes {s : State} (h : Planes s0 s) (c : Nat) (bytes : List Nat) : Planes s0 (State.pldmEvent s c bytes) := by
  unfold State.pldmEvent
  repeat' first
    | with_reducible assumption | intro _ | with_reducible apply State.emit_planes | with_reducible apply State.onCell_planes
    | with_reducible apply ite_planes | with_reducible apply cell_plane | dsimp only | split | with_reducible apply mk_planes

theorem State.errLocal_planes {s : State} (h : Planes s0 s) (c : Nat) (e : Ev) : Planes s0 (State.errLocal s c e) := by
  unfold State.errLocal
  repeat' first
    | with_reducible assumption | intro _ | with_reducible apply State.onCell_planes | with_reducible apply State.msix_planes
    | with_reducible apply State.pldmEvent_planes | with_reducible apply ite_planes | with_reducible apply cell_plane | dsimp only | split
    | with_reducible apply mk_planes

theorem State.dropRec_planes {s : State} (h : Planes s0 s) (n : Nat) : Planes s0 (State.dropRec s n) := by
  unfold State.dropRec
  repeat' first
    | with_reducible assumption | intro _ | with_reducible apply State.onFn_planes | with_reducible apply State.errLocal_planes
    | with_reducible apply ite_planes | dsimp only | split | refine fst_planes (by with_reducible assumption) ?_
    | refine snd_planes (by with_reducible assumption) ?_ | with_reducible apply mk_planes

theorem State.recDone_planes {s : State} (h : Planes s0 s) (r : QRec) : Planes s0 (State.recDone s r) := by
  unfold State.recDone
  repeat' first
    | with_reducible assumption | intro _ | with_reducible apply State.onCoord_planes | with_reducible apply ite_planes | dsimp only
    | split | refine fst_planes (by with_reducible assumption) ?_ | refine snd_planes (by with_reducible assumption) ?_
    | with_reducible apply mk_planes

theorem State.queueRec_planes {s : State} (h : Planes s0 s) (n : Nat) (r : QRec) : Planes s0 (State.queueRec s n r) := by
  unfold State.queueRec
  repeat' first
    | with_reducible assumption | intro _ | with_reducible apply State.onFn_planes | with_reducible apply State.recDone_planes
    | with_reducible apply State.dropRec_planes | with_reducible apply ite_planes | dsimp only | split | with_reducible apply mk_planes

theorem State.sendOne_planes {s : State} (h : Planes s0 s) (c : Nat) (p : Nat) (a : Nat × Frame) : Planes s0 (State.sendOne s c p a) := by
  unfold State.sendOne
  repeat' first
    | with_reducible assumption | intro _ | with_reducible apply State.onCell_planes | with_reducible apply State.emit_planes
    | with_reducible apply ite_planes | with_reducible apply Cell.onPort_plane | with_reducible apply cell_plane | dsimp only | split
    | with_reducible apply mk_planes

theorem State.pumpN_planes {s : State} (h : Planes s0 s) (n c p : Nat) : Planes s0 (State.pumpN n s c p) := by
  induction n generalizing s with
  | zero => exact h
  | succ n ih =>
    unfold State.pumpN
    split
    · exact h
    · exact ih (State.sendOne_planes h ..)

theorem State.pump_planes {s : State} (h : Planes s0 s) (c : Nat) (p : Nat) : Planes s0 (State.pump s c p) := by
  unfold State.pump
  repeat' first
    | with_reducible assumption | intro _ | with_reducible apply State.pumpN_planes | dsimp only | with_reducible apply mk_planes

theorem State.enqueue_planes {s : State} (h : Planes s0 s) (c : Nat) (p : Nat) (idx : Nat) (x : Frame) :
    Planes s0 (State.enqueue s c p idx x) := by
  unfold State.enqueue
  repeat' first
    | with_reducible assumption | intro _ | with_reducible apply State.emit_planes | with_reducible apply State.onCell_planes
    | with_reducible apply State.pump_planes | with_reducible apply ite_planes | with_reducible apply Cell.onPort_plane
    | with_reducible apply cell_plane | dsimp only | split | with_reducible apply mk_planes

theorem State.mkFrame_planes {s : State} (h : Planes s0 s) (c : Nat) (o : Out) : Planes s0 (State.mkFrame s c o).2 := by
  unfold State.mkFrame
  repeat' first
    | with_reducible assumption | intro _ | with_reducible apply State.onCell_planes | with_reducible apply ite_planes
    | with_reducible apply ite_snd_planes | with_reducible apply cell_plane | dsimp only | split | with_reducible apply mk_planes

theorem State.send_planes {s : State} (h : Planes s0 s) (c : Nat) (idx : Nat) (o : Out) : Planes s0 (State.send s c idx o).1 := by
  unfold State.send
  repeat' first
    | with_reducible assumption | intro _ | with_reducible apply State.mkFrame_planes | with_reducible apply State.enqueue_planes
    | with_reducible apply ite_planes | with_reducible apply ite_fst_planes | dsimp only | split
    | refine fst_planes (by with_reducible assumption) ?_ | refine snd_planes (by with_reducible assumption) ?_
    | with_reducible apply mk_planes

theorem State.sendPort_planes {s : State} (h : Planes s0 s) (c : Nat) (p : Nat) (o : Out) : Planes s0 (State.sendPort s c p o) := by
  unfold State.sendPort
  repeat' first
    | with_reducible assumption | intro _ | with_reducible apply State.mkFrame_planes | with_reducible apply State.enqueue_planes
    | dsimp only | refine fst_planes (by with_reducible assumption) ?_ | refine snd_planes (by with_reducible assumption) ?_
    | with_reducible apply mk_planes

theorem State.voidFor_planes {s : State} (h : Planes s0 s) (c : Nat) (seat : Nat) (cell : Nat) (reason : Nat) (tenant : Nat) (step : Nat) (tensor : Nat) (seq : Nat) :
    Planes s0 (State.voidFor s c seat cell reason tenant step tensor seq) := by
  unfold State.voidFor
  repeat' first
    | with_reducible assumption | intro _ | with_reducible apply State.causeAt_planes | with_reducible apply State.send_planes
    | with_reducible apply ite_planes | dsimp only | split | with_reducible apply mk_planes

theorem State.sendVoid_planes {s : State} (h : Planes s0 s) (c : Nat) (seat : Nat) (cell : Nat) (reason : Nat) (tenant : Nat) (tensor : Nat) (seq : Nat) :
    Planes s0 (State.sendVoid s c seat cell reason tenant tensor seq) := by
  unfold State.sendVoid
  repeat' first
    | with_reducible assumption | intro _ | with_reducible apply State.voidFor_planes | dsimp only | with_reducible apply mk_planes

theorem State.voidBack_planes {s : State} (h : Planes s0 s) (c : Nat) (x : Frame) (reason : Nat) :
    Planes s0 (State.voidBack s c x reason) := by
  unfold State.voidBack
  repeat' first
    | with_reducible assumption | intro _ | with_reducible apply State.voidFor_planes | dsimp only | with_reducible apply mk_planes

theorem State.sendHold_planes {s : State} (h : Planes s0 s) (c : Nat) (p : Nat) (reason : Nat) (off : Nat) (hint : Nat) :
    Planes s0 (State.sendHold s c p reason off hint) := by
  unfold State.sendHold
  repeat' first
    | with_reducible assumption | intro _ | with_reducible apply State.sendPort_planes | dsimp only | with_reducible apply mk_planes

theorem State.returnCredits_planes {s : State} (h : Planes s0 s) (c : Nat) (p : Nat) : Planes s0 (State.returnCredits s c p) := by
  unfold State.returnCredits
  repeat' first
    | with_reducible assumption | intro _ | with_reducible apply State.onCell_planes | with_reducible apply State.sendPort_planes
    | with_reducible apply ite_planes | with_reducible apply Cell.onPort_plane | with_reducible apply cell_plane | dsimp only | split
    | with_reducible apply mk_planes

theorem State.oweCredits_planes {s : State} (h : Planes s0 s) (c : Nat) (p : Nat) (l : Nat) (n : Nat) :
    Planes s0 (State.oweCredits s c p l n) := by
  unfold State.oweCredits
  repeat' first
    | with_reducible assumption | intro _ | with_reducible apply State.onCell_planes | with_reducible apply State.returnCredits_planes
    | with_reducible apply ite_planes | with_reducible apply Cell.onPort_plane | with_reducible apply cell_plane | dsimp only | split
    | with_reducible apply mk_planes

theorem State.mailUnits_planes {s : State} (h : Planes s0 s) (n c : Nat) (us : List (Nat × Nat)) :
    Planes s0 (State.mailUnits n s c us) := by
  induction n generalizing s us with
  | zero => exact h
  | succ n ih =>
    unfold State.mailUnits
    split
    · exact h
    · exact ih (State.send_planes h ..) _

theorem State.mail_planes {s : State} (h : Planes s0 s) (c : Nat) (us : List (Nat × Nat)) : Planes s0 (State.mail s c us) := by
  unfold State.mail
  repeat' first
    | with_reducible assumption | intro _ | with_reducible apply State.mailUnits_planes | with_reducible apply ite_planes | dsimp only
    | split | with_reducible apply mk_planes

theorem State.err_planes {s : State} (h : Planes s0 s) (c : Nat) (e : Ev) : Planes s0 (State.err s c e) := by
  unfold State.err
  repeat' first
    | with_reducible assumption | intro _ | with_reducible apply State.errLocal_planes | with_reducible apply State.mail_planes
    | with_reducible apply State.onCell_planes | with_reducible apply ite_planes | with_reducible apply cell_plane | dsimp only | split
    | with_reducible apply mk_planes

theorem State.relay_planes {s : State} (h : Planes s0 s) (c : Nat) (idx : Nat) (x : Frame) : Planes s0 (State.relay s c idx x) := by
  unfold State.relay
  repeat' first
    | with_reducible assumption | intro _ | with_reducible apply State.enqueue_planes | with_reducible apply State.voidBack_planes
    | dsimp only | split | refine fst_planes (by with_reducible assumption) ?_ | refine snd_planes (by with_reducible assumption) ?_
    | with_reducible apply mk_planes

theorem State.wake_planes {s : State} (h : Planes s0 s) (c : Nat) : Planes s0 (State.wake s c) := by
  unfold State.wake
  repeat' first
    | with_reducible assumption | intro _ | with_reducible apply State.setCell_planes | with_reducible apply ite_planes
    | with_reducible apply cell_plane | dsimp only | split | with_reducible apply mk_planes

theorem State.onDir_planes {s : State} (h : Planes s0 s) (n : Nat) (ab : Bool) (f : ChanDir → ChanDir) :
    Planes s0 (State.onDir s n ab f) := by
  unfold State.onDir
  repeat' first
    | with_reducible assumption | intro _ | with_reducible apply State.setChan_planes | dsimp only | with_reducible apply mk_planes

theorem State.raiseEvent_planes {s : State} (h : Planes s0 s) (n : Nat) (who : BitVec 8) : Planes s0 (State.raiseEvent s n who) := by
  unfold State.raiseEvent
  repeat' first
    | with_reducible assumption | intro _ | with_reducible apply State.msix_planes | with_reducible apply State.emit_planes
    | with_reducible apply State.wake_planes | with_reducible apply ite_planes | dsimp only | split | with_reducible apply mk_planes

theorem State.ring_planes {s : State} (h : Planes s0 s) (n : Nat) (ab : Bool) : Planes s0 (State.ring s n ab) := by
  unfold State.ring
  repeat' first
    | with_reducible assumption | intro _ | with_reducible apply State.onDir_planes | with_reducible apply State.mail_planes
    | with_reducible apply State.raiseEvent_planes | with_reducible apply ite_planes | with_reducible apply cell_plane | dsimp only | split
    | with_reducible apply mk_planes

theorem State.flushDir_planes {s : State} (h : Planes s0 s) (n : Nat) (ab : Bool) : Planes s0 (State.flushDir s n ab) := by
  unfold State.flushDir
  repeat' first
    | with_reducible assumption | intro _ | with_reducible apply State.onDir_planes | with_reducible apply State.ring_planes
    | with_reducible apply ite_planes | dsimp only | split | with_reducible apply mk_planes

theorem State.emptyChan_planes {s : State} (h : Planes s0 s) (n : Nat) : Planes s0 (State.emptyChan s n).1 := by
  unfold State.emptyChan
  repeat' first
    | with_reducible assumption | intro _ | with_reducible apply State.setChan_planes | dsimp only | with_reducible apply mk_planes

theorem State.strangerAccess_planes {s : State} (h : Planes s0 s) (n : Nat) (who : BitVec 8) :
    Planes s0 (State.strangerAccess s n who) := by
  unfold State.strangerAccess
  repeat' first
    | with_reducible assumption | intro _ | with_reducible apply State.setChan_planes | with_reducible apply State.err_planes
    | with_reducible apply ite_planes | with_reducible apply cell_plane | dsimp only | split
    | refine fst_planes (by with_reducible assumption) ?_ | refine snd_planes (by with_reducible assumption) ?_
    | with_reducible apply mk_planes

theorem State.complete_planes {s : State} (h : Planes s0 s) (c : Nat) (src : Source) (e : Entry) (d : Done) :
    Planes s0 (State.complete s c src e d) := by
  unfold State.complete
  repeat' first
    | with_reducible assumption | intro _ | with_reducible apply State.ring_planes | with_reducible apply State.queueRec_planes
    | with_reducible apply State.mail_planes | with_reducible apply State.onDir_planes | with_reducible apply State.flushDir_planes
    | dsimp only | split | refine fst_planes (by with_reducible assumption) ?_ | refine snd_planes (by with_reducible assumption) ?_
    | with_reducible apply mk_planes

theorem State.recordTo_planes {s : State} (h : Planes s0 s) (fn : Nat) (c : Nat) (r : Nat) : Planes s0 (State.recordTo s fn c r) := by
  unfold State.recordTo
  repeat' first
    | with_reducible assumption | intro _ | with_reducible apply State.mail_planes | with_reducible apply State.queueRec_planes
    | with_reducible apply ite_planes | dsimp only | split | with_reducible apply mk_planes

theorem State.sendWord_planes {s : State} (h : Planes s0 s) (n : Nat) (who : BitVec 8) (w : BitVec 32) :
    Planes s0 (State.sendWord s n who w) := by
  unfold State.sendWord
  repeat' first
    | with_reducible assumption | intro _ | with_reducible apply State.strangerAccess_planes | with_reducible apply State.onDir_planes
    | dsimp only | split | refine fst_planes (by with_reducible assumption) ?_ | refine snd_planes (by with_reducible assumption) ?_
    | with_reducible apply mk_planes

theorem State.sendBell_planes {s : State} (h : Planes s0 s) (n : Nat) (who : BitVec 8) (w : BitVec 32) :
    Planes s0 (State.sendBell s n who w) := by
  unfold State.sendBell
  repeat' first
    | with_reducible assumption | intro _ | with_reducible apply State.strangerAccess_planes | with_reducible apply State.ring_planes
    | with_reducible apply ite_planes | dsimp only | split | refine fst_planes (by with_reducible assumption) ?_
    | refine snd_planes (by with_reducible assumption) ?_ | with_reducible apply mk_planes

theorem State.recvWord_planes {s : State} (h : Planes s0 s) (n : Nat) (who : BitVec 8) : Planes s0 (State.recvWord s n who).2 := by
  unfold State.recvWord
  repeat' first
    | with_reducible assumption | intro _ | with_reducible apply State.strangerAccess_planes | with_reducible apply State.onDir_planes
    | with_reducible apply State.flushDir_planes | dsimp only | split | refine fst_planes (by with_reducible assumption) ?_
    | refine snd_planes (by with_reducible assumption) ?_ | with_reducible apply mk_planes

theorem State.recvClear_planes {s : State} (h : Planes s0 s) (n : Nat) (who : BitVec 8) (w : BitVec 32) :
    Planes s0 (State.recvClear s n who w) := by
  unfold State.recvClear
  repeat' first
    | with_reducible assumption | intro _ | with_reducible apply State.strangerAccess_planes | with_reducible apply State.onDir_planes
    | dsimp only | split | refine fst_planes (by with_reducible assumption) ?_ | refine snd_planes (by with_reducible assumption) ?_
    | with_reducible apply mk_planes

theorem State.sendClear_planes {s : State} (h : Planes s0 s) (n : Nat) (who : BitVec 8) (w : BitVec 32) :
    Planes s0 (State.sendClear s n who w) := by
  unfold State.sendClear
  repeat' first
    | with_reducible assumption | intro _ | with_reducible apply State.strangerAccess_planes | with_reducible apply State.onDir_planes
    | dsimp only | split | refine fst_planes (by with_reducible assumption) ?_ | refine snd_planes (by with_reducible assumption) ?_
    | with_reducible apply mk_planes

theorem State.senseFrom_planes {s : State} (h : Planes s0 s) (b : State) : Planes s0 (s.senseFrom b) := by
  unfold State.senseFrom
  split
  · exact h
  · refine foldl_planes _ _ h (fun x p hx => ?_)
    split
    · exact hx
    · exact State.pldmEvent_planes hx ..

theorem State.run_planes {s : State} {t : Nat} {f : State → State} (hf : ∀ x, Planes (s.at t) x → Planes (s.at t) (f x)) :
    Planes (s.at t) (s.run t f) := State.senseFrom_planes (hf _ ⟨fun _ => rfl⟩) _

theorem State.rerouteQueue_planes {s : State} (h : Planes s0 s) (c : Nat) (p : Nat) (down : Bool) :
    Planes s0 (State.rerouteQueue s c p down) := by
  unfold State.rerouteQueue
  repeat' first
    | with_reducible assumption | intro _ | with_reducible apply State.onCell_planes | with_reducible apply State.relay_planes
    | with_reducible apply ite_planes | with_reducible apply foldl_planes | with_reducible apply foldl_fst_planes
    | with_reducible apply Cell.onPort_plane | with_reducible apply cell_plane | with_reducible apply plane_foldl | dsimp only | split
    | with_reducible apply mk_planes

theorem State.portDown_planes {s : State} (h : Planes s0 s) (c : Nat) (p : Nat) : Planes s0 (State.portDown s c p) := by
  unfold State.portDown
  repeat' first
    | with_reducible assumption | intro _ | with_reducible apply State.onCell_planes | with_reducible apply State.err_planes
    | with_reducible apply State.rerouteQueue_planes | with_reducible apply ite_planes | with_reducible apply Cell.onPort_plane
    | with_reducible apply cell_plane | dsimp only | split | with_reducible apply mk_planes

theorem State.retrain_planes {s : State} (h : Planes s0 s) (c : Nat) (p : Nat) : Planes s0 (State.retrain s c p) := by
  unfold State.retrain
  repeat' first
    | with_reducible assumption | intro _ | with_reducible apply State.portDown_planes | with_reducible apply ite_planes
    | with_reducible apply foldl_planes | with_reducible apply foldl_fst_planes | dsimp only | split | with_reducible apply mk_planes

theorem State.countError_planes {s : State} (h : Planes s0 s) (c : Nat) (p : Nat) : Planes s0 (State.countError s c p) := by
  unfold State.countError
  repeat' first
    | with_reducible assumption | intro _ | with_reducible apply State.onCell_planes | with_reducible apply ite_planes
    | with_reducible apply Cell.onPort_plane | with_reducible apply cell_plane | dsimp only | split | with_reducible apply mk_planes

theorem State.noCredits_planes {s : State} (h : Planes s0 s) (c : Nat) (p : Nat) : Planes s0 (State.noCredits s c p) := by
  unfold State.noCredits
  repeat' first
    | with_reducible assumption | intro _ | with_reducible apply State.countError_planes | with_reducible apply State.onCell_planes
    | with_reducible apply State.retrain_planes | with_reducible apply ite_planes | with_reducible apply Cell.onPort_plane
    | with_reducible apply cell_plane | dsimp only | split | with_reducible apply mk_planes

theorem State.useCredits_planes {s : State} (h : Planes s0 s) (c : Nat) (p : Nat) (x : Frame) : Planes s0 (State.useCredits s c p x) := by
  unfold State.useCredits
  repeat' first
    | with_reducible assumption | intro _ | with_reducible apply State.onCell_planes | with_reducible apply ite_planes
    | with_reducible apply Cell.onPort_plane | with_reducible apply cell_plane | dsimp only | split | with_reducible apply mk_planes

theorem State.headerFail_planes {s : State} (h : Planes s0 s) (c : Nat) (x : Frame) : Planes s0 (State.headerFail s c x) := by
  unfold State.headerFail
  repeat' first
    | with_reducible assumption | intro _ | with_reducible apply State.onCell_planes | with_reducible apply State.causeAt_planes
    | with_reducible apply State.err_planes | with_reducible apply State.voidBack_planes | with_reducible apply ite_planes
    | with_reducible apply cell_plane | dsimp only | split | with_reducible apply mk_planes

theorem State.taken_planes {s : State} (h : Planes s0 s) (c : Nat) (p : Nat) (x : Frame) : Planes s0 (State.taken s c p x) := by
  unfold State.taken
  repeat' first
    | with_reducible assumption | intro _ | with_reducible apply State.onCell_planes | with_reducible apply State.oweCredits_planes
    | with_reducible apply ite_planes | with_reducible apply Cell.onPort_plane | with_reducible apply cell_plane | dsimp only | split
    | with_reducible apply mk_planes

theorem State.giveWithheld_planes {s : State} (h : Planes s0 s) (c : Nat) : Planes s0 (State.giveWithheld s c) := by
  unfold State.giveWithheld
  repeat' first
    | with_reducible assumption | intro _ | with_reducible apply State.onCell_planes | with_reducible apply State.oweCredits_planes
    | with_reducible apply ite_planes | with_reducible apply foldl_planes | with_reducible apply foldl_fst_planes
    | with_reducible apply Cell.onPort_plane | with_reducible apply cell_plane | with_reducible apply plane_foldl | dsimp only | split
    | with_reducible apply mk_planes

theorem State.accept_planes {s : State} (h : Planes s0 s) (c : Nat) (p : Nat) (x : Frame) : Planes s0 (State.accept s c p x).1 := by
  unfold State.accept
  repeat' first
    | with_reducible assumption | intro _ | with_reducible apply State.countError_planes | with_reducible apply State.noCredits_planes
    | with_reducible apply State.useCredits_planes | with_reducible apply State.taken_planes | with_reducible apply State.sendHold_planes
    | with_reducible apply State.relay_planes | with_reducible apply State.headerFail_planes | with_reducible apply State.onCell_planes
    | with_reducible apply State.err_planes | with_reducible apply ite_planes | with_reducible apply ite_fst_planes
    | with_reducible apply cell_plane | dsimp only | split | with_reducible apply mk_planes

theorem State.train_planes {s : State} (h : Planes s0 s) (c : Nat) (p : Nat) (offered : Nat) (ok : Bool) :
    Planes s0 (State.train s c p offered ok) := by
  unfold State.train
  repeat' first
    | with_reducible assumption | intro _ | with_reducible apply State.onCell_planes | with_reducible apply State.pump_planes
    | with_reducible apply State.err_planes | with_reducible apply ite_planes | with_reducible apply foldl_planes
    | with_reducible apply foldl_fst_planes | with_reducible apply Cell.onPort_plane | with_reducible apply cell_plane
    | with_reducible apply plane_foldl | dsimp only | split | with_reducible apply mk_planes

theorem State.endQuarantine_planes {s : State} (h : Planes s0 s) (c : Nat) (p : Nat) : Planes s0 (State.endQuarantine s c p) := by
  unfold State.endQuarantine
  repeat' first
    | with_reducible assumption | intro _ | with_reducible apply State.onCell_planes | with_reducible apply ite_planes
    | with_reducible apply foldl_planes | with_reducible apply foldl_fst_planes | with_reducible apply Cell.onPort_plane
    | with_reducible apply cell_plane | with_reducible apply plane_foldl | dsimp only | split | with_reducible apply mk_planes

theorem State.takePresence_planes {s : State} (h : Planes s0 s) (c : Nat) (p : Nat) (x : Frame) :
    Planes s0 (State.takePresence s c p x) := by
  unfold State.takePresence
  repeat' first
    | with_reducible assumption | intro _ | with_reducible apply State.onCell_planes | with_reducible apply State.emit_planes
    | with_reducible apply State.pump_planes | with_reducible apply State.send_planes | with_reducible apply ite_planes
    | with_reducible apply Cell.onPort_plane | with_reducible apply cell_plane | dsimp only | split
    | refine fst_planes (by with_reducible assumption) ?_ | refine snd_planes (by with_reducible assumption) ?_
    | with_reducible apply mk_planes

theorem State.bufferPresence_planes {s : State} (h : Planes s0 s) (c : Nat) (p : Nat) (x : Frame) :
    Planes s0 (State.bufferPresence s c p x) := by
  unfold State.bufferPresence
  repeat' first
    | with_reducible assumption | intro _ | with_reducible apply State.onCell_planes | with_reducible apply State.takeFree_planes
    | with_reducible apply State.sendHold_planes | with_reducible apply ite_planes | with_reducible apply Cell.onPort_plane
    | with_reducible apply cell_plane | dsimp only | split | refine fst_planes (by with_reducible assumption) ?_
    | refine snd_planes (by with_reducible assumption) ?_ | with_reducible apply mk_planes

theorem State.takeHold_planes {s : State} (h : Planes s0 s) (c : Nat) (p : Nat) (x : Frame) : Planes s0 (State.takeHold s c p x) := by
  unfold State.takeHold
  repeat' first
    | with_reducible assumption | intro _ | with_reducible apply State.countError_planes | with_reducible apply State.onCell_planes
    | with_reducible apply State.rerouteQueue_planes | with_reducible apply ite_planes | with_reducible apply Cell.onPort_plane
    | with_reducible apply cell_plane | dsimp only | split | with_reducible apply mk_planes

theorem State.takeReturn_planes {s : State} (h : Planes s0 s) (c : Nat) (p : Nat) (x : Frame) : Planes s0 (State.takeReturn s c p x) := by
  unfold State.takeReturn
  repeat' first
    | with_reducible assumption | intro _ | with_reducible apply State.retrain_planes | with_reducible apply State.onCell_planes
    | with_reducible apply State.pump_planes | with_reducible apply ite_planes | with_reducible apply Cell.onPort_plane
    | with_reducible apply cell_plane | dsimp only | split | with_reducible apply mk_planes

theorem State.joinRelay_planes {s s1 : State} {c p : Nat} {x : Frame} (e : s.joinRelay c p x = some s1) (h : Planes s0 s) :
    Planes s0 s1 := by
  unfold State.joinRelay at e
  dsimp only at e
  split at e
  · cases e
    exact State.enqueue_planes (State.onCell_planes h _ (fun k _ hk => Cell.onPort_plane hk ..)) ..
  · split at e
    · split at e
      · cases e
        exact State.enqueue_planes h ..
      · cases e
        exact h
    · cases e

theorem State.sendJoin_planes {s : State} (h : Planes s0 s) (c : Nat) (p : Nat) (subtype : Nat) (status : Nat) (seat : Nat) :
    Planes s0 (State.sendJoin s c p subtype status seat) := by
  unfold State.sendJoin
  repeat' first
    | with_reducible assumption | intro _ | with_reducible apply State.sendPort_planes | dsimp only | with_reducible apply mk_planes

theorem State.setTime_planes {s : State} (h : Planes s0 s) (v : Nat) (step : Bool) : Planes s0 (State.setTime s v step) := by
  unfold State.setTime
  repeat' first
    | with_reducible assumption | intro _ | with_reducible apply State.onCell_planes | with_reducible apply ite_planes
    | with_reducible apply foldl_planes | with_reducible apply foldl_fst_planes | with_reducible apply cell_plane
    | with_reducible apply plane_foldl | dsimp only | split | with_reducible apply mk_planes

theorem State.acceptRoutes_planes {s : State} (h : Planes s0 s) (c : Nat) (p : Nat) : Planes s0 (State.acceptRoutes s c p) := by
  unfold State.acceptRoutes
  repeat' first
    | with_reducible assumption | intro _ | with_reducible apply State.onCell_planes | with_reducible apply ite_planes
    | with_reducible apply foldl_planes | with_reducible apply foldl_fst_planes | with_reducible apply cell_plane
    | with_reducible apply plane_foldl | dsimp only | split | refine fst_planes (by with_reducible assumption) ?_
    | refine snd_planes (by with_reducible assumption) ?_ | with_reducible apply mk_planes

theorem State.takeSeat_planes {s : State} (h : Planes s0 s) (c : Nat) (p : Nat) (x : Frame) : Planes s0 (State.takeSeat s c p x) := by
  unfold State.takeSeat
  repeat' first
    | with_reducible assumption | intro _ | with_reducible apply State.setTime_planes | with_reducible apply State.acceptRoutes_planes
    | with_reducible apply State.sendJoin_planes | dsimp only | with_reducible apply mk_planes

theorem State.takeOffer_planes {s : State} (h : Planes s0 s) (c : Nat) (p : Nat) (x : Frame) (authentic : Bool) :
    Planes s0 (State.takeOffer s c p x authentic) := by
  unfold State.takeOffer
  repeat' first
    | with_reducible assumption | intro _ | with_reducible apply State.sendJoin_planes | with_reducible apply State.takeSeat_planes
    | with_reducible apply ite_planes | dsimp only | split | with_reducible apply mk_planes

theorem State.depart_planes {s : State} (h : Planes s0 s) (seat : Nat) : Planes s0 (State.depart s seat) := by
  unfold State.depart
  repeat' first
    | with_reducible assumption | intro _ | with_reducible apply State.onCell_planes | with_reducible apply State.cause_planes
    | with_reducible apply ite_planes | with_reducible apply foldl_planes | with_reducible apply foldl_fst_planes
    | with_reducible apply cell_plane | with_reducible apply plane_foldl | dsimp only | split | with_reducible apply mk_planes

theorem State.takeLeave_planes {s : State} (h : Planes s0 s) (x : Frame) : Planes s0 (State.takeLeave s x) := by
  unfold State.takeLeave
  repeat' first
    | with_reducible assumption | intro _ | with_reducible apply State.depart_planes | with_reducible apply ite_planes | dsimp only
    | split | with_reducible apply mk_planes

theorem State.takeLevel_planes {s : State} (h : Planes s0 s)  : Planes s0 (State.takeLevel s) := by
  unfold State.takeLevel
  repeat' first
    | with_reducible assumption | intro _ | dsimp only | split | refine fst_planes (by with_reducible assumption) ?_
    | refine snd_planes (by with_reducible assumption) ?_ | with_reducible apply mk_planes

theorem State.levelFrame_planes {s : State} (h : Planes s0 s) (c : Nat) (p : Nat) (x : Frame) : Planes s0 (State.levelFrame s c p x) := by
  unfold State.levelFrame
  repeat' first
    | with_reducible assumption | intro _ | with_reducible apply State.countError_planes | with_reducible apply State.takeLevel_planes
    | with_reducible apply ite_planes | with_reducible apply cell_plane | dsimp only | split | with_reducible apply mk_planes

theorem State.takeRoutes_planes {s : State} (h : Planes s0 s) (c : Nat) (who : BitVec 8) (e : Entry) :
    Planes s0 (State.takeRoutes s c who e) := by
  unfold State.takeRoutes
  repeat' first
    | with_reducible assumption | intro _ | with_reducible apply State.onCell_planes | with_reducible apply ite_planes
    | with_reducible apply foldl_planes | with_reducible apply foldl_fst_planes | with_reducible apply cell_plane
    | with_reducible apply plane_foldl | dsimp only | split | with_reducible apply mk_planes

theorem State.sendTime_planes {s : State} (h : Planes s0 s) (c : Nat) (p : Nat) (subtype : Nat) (rx : Nat) :
    Planes s0 (State.sendTime s c p subtype rx) := by
  unfold State.sendTime
  repeat' first
    | with_reducible assumption | intro _ | with_reducible apply State.onCell_planes | with_reducible apply State.sendPort_planes
    | with_reducible apply ite_planes | with_reducible apply Cell.onPort_plane | with_reducible apply cell_plane | dsimp only | split
    | with_reducible apply mk_planes

theorem State.takeSync_planes {s : State} (h : Planes s0 s) (c : Nat) (p : Nat) (x : Frame) : Planes s0 (State.takeSync s c p x) := by
  unfold State.takeSync
  repeat' first
    | with_reducible assumption | intro _ | with_reducible apply State.onCell_planes | with_reducible apply State.err_planes
    | with_reducible apply ite_planes | with_reducible apply cell_plane | dsimp only | split | with_reducible apply mk_planes

theorem State.takeBeat_planes {s : State} (h : Planes s0 s) (c : Nat) (x : Frame) : Planes s0 (State.takeBeat s c x) := by
  unfold State.takeBeat
  repeat' first
    | with_reducible assumption | intro _ | with_reducible apply State.send_planes | with_reducible apply ite_planes
    | with_reducible apply cell_plane | dsimp only | split | with_reducible apply mk_planes

theorem State.sendSync_planes {s : State} (h : Planes s0 s) (m : SyncMsg) : Planes s0 (State.sendSync s m) := by
  unfold State.sendSync
  repeat' first
    | with_reducible assumption | intro _ | with_reducible apply State.send_planes | with_reducible apply State.cause_planes
    | with_reducible apply ite_planes | dsimp only | split | refine fst_planes (by with_reducible assumption) ?_
    | refine snd_planes (by with_reducible assumption) ?_ | with_reducible apply mk_planes

theorem State.figEndWith_planes {s : State} (h : Planes s0 s) (c : Nat) (cmd : FigCmd) (status : Nat) (head : Nat) :
    Planes s0 (State.figEndWith s c cmd status head) := by
  unfold State.figEndWith
  repeat' first
    | with_reducible assumption | intro _ | with_reducible apply State.onCell_planes | with_reducible apply State.mail_planes
    | with_reducible apply State.err_planes | with_reducible apply ite_planes | with_reducible apply cell_plane | dsimp only | split
    | with_reducible apply plane_mk | with_reducible apply mk_planes

theorem State.figEnd_planes {s : State} (h : Planes s0 s) (c : Nat) (cmd : FigCmd) (status : Nat) :
    Planes s0 (State.figEnd s c cmd status) := by
  unfold State.figEnd
  repeat' first
    | with_reducible assumption | intro _ | with_reducible apply State.onCell_planes | with_reducible apply State.figEndWith_planes
    | with_reducible apply cell_plane | dsimp only | with_reducible apply plane_mk | with_reducible apply mk_planes

theorem State.abandonLoads_planes {s : State} (h : Planes s0 s)  : Planes s0 (State.abandonLoads s) := by
  unfold State.abandonLoads
  repeat' first
    | with_reducible assumption | intro _ | with_reducible apply State.onCell_planes | with_reducible apply State.figEnd_planes
    | with_reducible apply foldl_planes | with_reducible apply foldl_fst_planes | with_reducible apply cell_plane
    | with_reducible apply plane_foldl | dsimp only | split | refine fst_planes (by with_reducible assumption) ?_
    | refine snd_planes (by with_reducible assumption) ?_ | with_reducible apply plane_mk | with_reducible apply mk_planes

theorem State.loseHost_planes {s : State} (h : Planes s0 s)  : Planes s0 (State.loseHost s) := by
  unfold State.loseHost
  repeat' first
    | with_reducible assumption | intro _ | with_reducible apply State.onCell_planes | with_reducible apply State.taken_planes
    | with_reducible apply State.abandonLoads_planes | with_reducible apply ite_planes | with_reducible apply foldl_planes
    | with_reducible apply foldl_fst_planes | with_reducible apply cell_plane | with_reducible apply plane_foldl | dsimp only | split
    | with_reducible apply mk_planes

theorem State.resetPortRegs_planes {s : State} (h : Planes s0 s)  : Planes s0 (State.resetPortRegs s) := by
  unfold State.resetPortRegs
  repeat' first
    | with_reducible assumption | intro _ | dsimp only | with_reducible apply mk_planes

theorem State.resetFn_planes {s : State} (h : Planes s0 s) (n : Nat) (flr : Bool) : Planes s0 (State.resetFn s n flr) := by
  unfold State.resetFn
  repeat' first
    | with_reducible assumption | intro _ | with_reducible apply State.onFn_planes | with_reducible apply State.recDone_planes
    | with_reducible apply State.dropRec_planes | with_reducible apply ite_planes | with_reducible apply foldl_planes
    | with_reducible apply foldl_fst_planes | dsimp only | split | with_reducible apply mk_planes

theorem State.resetFns_planes {s : State} (h : Planes s0 s)  : Planes s0 (State.resetFns s) := by
  unfold State.resetFns
  repeat' first
    | with_reducible assumption | intro _ | with_reducible apply State.resetFn_planes | with_reducible apply foldl_planes
    | with_reducible apply foldl_fst_planes | dsimp only | with_reducible apply mk_planes

theorem State.emptyChansOf_planes {s : State} (h : Planes s0 s) (who : BitVec 8) : Planes s0 (State.emptyChansOf s who).1 := by
  unfold State.emptyChansOf
  repeat' first
    | with_reducible assumption | intro _ | with_reducible apply State.emptyChan_planes | with_reducible apply ite_planes
    | with_reducible apply ite_fst_planes | with_reducible apply foldl_planes | with_reducible apply foldl_fst_planes | dsimp only | split
    | refine fst_planes (by with_reducible assumption) ?_ | refine snd_planes (by with_reducible assumption) ?_
    | with_reducible apply mk_planes

theorem State.adminHostRequests_planes {s : State} (h : Planes s0 s) (n : Nat) : Planes s0 (State.adminHostRequests s n) := by
  unfold State.adminHostRequests
  repeat' first
    | with_reducible assumption | intro _ | with_reducible apply State.onCell_planes | with_reducible apply foldl_planes
    | with_reducible apply foldl_fst_planes | with_reducible apply Cell.onEntry_plane | with_reducible apply cell_plane
    | with_reducible apply plane_foldl | dsimp only | with_reducible apply mk_planes

theorem State.flrFn_planes {s : State} (h : Planes s0 s) (n : Nat) : Planes s0 (State.flrFn s n) := by
  unfold State.flrFn
  repeat' first
    | with_reducible assumption | intro _ | with_reducible apply State.resetFn_planes
    | with_reducible apply State.adminHostRequests_planes | with_reducible apply State.emptyChansOf_planes
    | with_reducible apply State.err_planes | with_reducible apply ite_planes | dsimp only | split
    | refine fst_planes (by with_reducible assumption) ?_ | refine snd_planes (by with_reducible assumption) ?_
    | with_reducible apply mk_planes

theorem State.ringError_planes {s : State} (h : Planes s0 s) (n : Nat) : Planes s0 (State.ringError s n) := by
  unfold State.ringError
  repeat' first
    | with_reducible assumption | intro _ | with_reducible apply State.onFn_planes | with_reducible apply State.msix_planes | dsimp only
    | with_reducible apply mk_planes

theorem State.writeTail_planes {s : State} (h : Planes s0 s) (n : Nat) (c : Nat) (v : Nat) : Planes s0 (State.writeTail s n c v) := by
  unfold State.writeTail
  repeat' first
    | with_reducible assumption | intro _ | with_reducible apply State.ring_planes | with_reducible apply State.onFn_planes
    | with_reducible apply State.ringError_planes | with_reducible apply ite_planes | dsimp only | split | with_reducible apply mk_planes

theorem State.cqControl_planes {s : State} (h : Planes s0 s) (n : Nat) (w : Nat) : Planes s0 (State.cqControl s n w) := by
  unfold State.cqControl
  repeat' first
    | with_reducible assumption | intro _ | with_reducible apply State.onFn_planes | with_reducible apply State.recDone_planes
    | with_reducible apply State.dropRec_planes | with_reducible apply ite_planes | with_reducible apply foldl_planes
    | with_reducible apply foldl_fst_planes | dsimp only | split | with_reducible apply mk_planes

theorem State.ringControl_planes {s : State} (h : Planes s0 s) (n : Nat) (ring : Nat) (w : Nat) :
    Planes s0 (State.ringControl s n ring w) := by
  unfold State.ringControl
  repeat' first
    | with_reducible assumption | intro _ | with_reducible apply State.onFn_planes | with_reducible apply State.cqControl_planes
    | with_reducible apply ite_planes | dsimp only | split | with_reducible apply mk_planes

theorem State.writeSlots_planes {s : State} (h : Planes s0 s) (n : Nat) (l : List (BitVec 256)) : Planes s0 (s.writeSlots n l) := by
  induction l generalizing s with
  | nil => exact h
  | cons r l ih => exact ih (State.onFn_planes (State.emit_planes h _) _ _)

theorem State.writeRecs_planes {s : State} (h : Planes s0 s) (n : Nat) (l : List QRec) : Planes s0 (s.writeRecs n l).1 := by
  induction l generalizing s with
  | nil => exact h
  | cons r l ih =>
    unfold State.writeRecs
    split
    · exact h
    · exact ih (State.recDone_planes (State.writeSlots_planes (State.onFn_planes h _ _) _ _) _)

theorem State.writeBatch_planes {s : State} (h : Planes s0 s) (n : Nat) : Planes s0 (State.writeBatch s n) := by
  unfold State.writeBatch
  repeat' first
    | with_reducible assumption | intro _ | with_reducible apply State.writeRecs_planes | with_reducible apply State.emit_planes
    | with_reducible apply State.msix_planes | with_reducible apply ite_planes | dsimp only | split
    | refine fst_planes (by with_reducible assumption) ?_ | refine snd_planes (by with_reducible assumption) ?_
    | with_reducible apply mk_planes

theorem Cell.setEnt_plane {pl : Option Figure × Bool} {k : Cell} (h : k.fig.plane = pl) (a : Nat) (e : TileEnt) :
    (Cell.setEnt k a e).fig.plane = pl := by
  unfold Cell.setEnt
  repeat' first
    | with_reducible assumption | intro _
    | dsimp only

theorem Cell.makeRoom_plane {pl : Option Figure × Bool} {k k1 : Cell} {need : Nat} {busy : List Nat} (e : k.makeRoom need busy = some k1)
    (h : k.fig.plane = pl) : k1.fig.plane = pl := by
  unfold Cell.makeRoom at e
  split at e
  · cases e
    exact h
  · split at e
    · cases e
    · cases e
      exact Cell.setEnt_plane h ..

theorem Cell.touched_plane {pl : Option Figure × Bool} {k : Cell} (h : k.fig.plane = pl) (a : Nat) (e : TileEnt) :
    (Cell.touched k a e).fig.plane = pl := by
  unfold Cell.touched
  repeat' first
    | with_reducible assumption | intro _ | with_reducible apply Cell.setEnt_plane | dsimp only

theorem Cell.install_plane {pl : Option Figure × Bool} {k : Cell} (h : k.fig.plane = pl) (t : Tensor) (busy : List Nat) (a : Nat) :
    (Cell.install k t busy a).fig.plane = pl := by
  unfold Cell.install
  repeat' first
    | with_reducible assumption | intro _ | refine Cell.makeRoom_plane (by with_reducible assumption) ?_
    | with_reducible apply Cell.setEnt_plane | dsimp only | split

theorem Cell.readTile_plane {pl : Option Figure × Bool} {k k1 : Cell} {t : Tensor} {a : Nat} {out : Bool} {busy : List Nat} {x : Tile}
    (e : k.readTile t a out busy = some (k1, x)) (h : k.fig.plane = pl) : k1.fig.plane = pl := by
  unfold Cell.readTile at e
  split at e
  · cases e
  · dsimp only at e
    split at e <;>
    · cases e
      exact Cell.touched_plane (Cell.install_plane h ..) ..

theorem Cell.placeTile_plane {pl : Option Figure × Bool} {k k1 : Cell} {t : Tensor} {a : Nat} {x : Tile} {busy : List Nat} {y : TileEnt}
    (e : k.placeTile t a x busy = some (k1, y)) (h : k.fig.plane = pl) : k1.fig.plane = pl := by
  unfold Cell.placeTile at e
  dsimp only at e
  repeat' split at e
  all_goals first
    | (cases e; exact h)
    | (cases e; exact Cell.makeRoom_plane (by assumption) h)
    | cases e

theorem Cell.writeTile_plane {pl : Option Figure × Bool} {k k1 : Cell} {t : Tensor} {a : Nat} {x : Tile} {busy : List Nat}
    (e : k.writeTile t a x busy = some k1) (h : k.fig.plane = pl) : k1.fig.plane = pl := by
  unfold Cell.writeTile at e
  split at e
  · cases e
  · rename_i g
    cases e
    exact Cell.touched_plane (Cell.placeTile_plane g h) ..

theorem State.tierServed_planes {s : State} (h : Planes s0 s) (c : Nat) (n : Nat) : Planes s0 (State.tierServed s c n) := by
  unfold State.tierServed
  repeat' first
    | with_reducible assumption | intro _ | with_reducible apply State.onCell_planes | with_reducible apply cell_plane | dsimp only
    | with_reducible apply mk_planes

theorem State.tierRead_planes {s s1 : State} {c tenant : Nat} {ident : BitVec 24} {seq : Nat} {out : Bool} {busy : List Nat} {x : Slot}
    (e : s.tierRead c tenant ident seq out busy = some (s1, x)) (h : Planes s0 s) : Planes s0 s1 := by
  unfold State.tierRead at e
  split at e
  · cases e
  · split at e
    · cases e
    · split at e
      · cases e
      · rename_i g
        split at e
        · split at e
          · cases e
          · rename_i g2
            cases e
            exact State.setCell_planes h _ (Cell.readTile_plane g2 (Cell.readTile_plane g (cell_plane h _)))
        · cases e
          exact State.setCell_planes h _ (Cell.readTile_plane g (cell_plane h _))

theorem State.noRoom_planes {s : State} (h : Planes s0 s) (c : Nat) (t : Tensor) : Planes s0 (State.noRoom s c t) := by
  unfold State.noRoom
  repeat' first
    | with_reducible assumption | intro _ | with_reducible apply State.err_planes | dsimp only | with_reducible apply mk_planes

theorem State.tierPut_planes {s : State} (h : Planes s0 s) (c : Nat) (tenant : Nat) (ident : BitVec 24) (seq : Nat) (x : Slot) (busy : List Nat) :
    Planes s0 (State.tierPut s c tenant ident seq x busy).1 := by
  unfold State.tierPut
  repeat' first
    | with_reducible assumption | intro _ | with_reducible apply State.noRoom_planes | with_reducible apply State.setCell_planes
    | with_reducible apply ite_planes | with_reducible apply ite_fst_planes | refine Cell.writeTile_plane (by with_reducible assumption) ?_
    | with_reducible apply cell_plane | dsimp only | split | refine fst_planes (by with_reducible assumption) ?_
    | refine snd_planes (by with_reducible assumption) ?_ | with_reducible apply mk_planes

theorem State.tierWrite_planes {s : State} (h : Planes s0 s) (c : Nat) (tenant : Nat) (ident : BitVec 24) (seq : Nat) (x : Slot) (busy : List Nat) :
    Planes s0 (State.tierWrite s c tenant ident seq x busy).1 := by
  unfold State.tierWrite
  repeat' first
    | with_reducible assumption | intro _ | with_reducible apply State.tierPut_planes | with_reducible apply ite_planes
    | with_reducible apply ite_fst_planes | dsimp only | split | with_reducible apply mk_planes

theorem Cell.tierSeal_plane {pl : Option Figure × Bool} {k : Cell} (h : k.fig.plane = pl) (tenant : Nat) (commit : Bool) :
    (Cell.tierSeal k tenant commit).fig.plane = pl := by
  unfold Cell.tierSeal
  repeat' first
    | with_reducible assumption | intro _
    | dsimp only | split

theorem Cell.freeDue_plane {pl : Option Figure × Bool} {k : Cell} (h : k.fig.plane = pl)  : (Cell.freeDue k).fig.plane = pl := by
  unfold Cell.freeDue
  repeat' first
    | with_reducible assumption | intro _
    | dsimp only

theorem State.freeSoon_planes {s : State} (h : Planes s0 s) (c : Nat) : Planes s0 (State.freeSoon s c) := by
  unfold State.freeSoon
  repeat' first
    | with_reducible assumption | intro _ | with_reducible apply State.onCell_planes | with_reducible apply ite_planes
    | with_reducible apply Cell.freeDue_plane | with_reducible apply cell_plane | dsimp only | split | with_reducible apply mk_planes

theorem Cell.addTensor_plane {pl : Option Figure × Bool} {k : Cell} (h : k.fig.plane = pl) (t : Tensor) :
    (Cell.addTensor k t).fig.plane = pl := by
  unfold Cell.addTensor
  repeat' first
    | with_reducible assumption | intro _ | with_reducible apply Cell.setEnt_plane | with_reducible apply plane_foldl | dsimp only

theorem State.onShared_planes {s : State} (h : Planes s0 s) (ident : BitVec 24) (digest : BitVec 256) (f : Shared → Shared) :
    Planes s0 (State.onShared s ident digest f) := by
  unfold State.onShared
  repeat' first
    | with_reducible assumption | intro _ | with_reducible apply ite_planes | dsimp only | split | with_reducible apply mk_planes

theorem Cell.onRefs_plane {pl : Option Figure × Bool} {k : Cell} (h : k.fig.plane = pl) (ident : BitVec 24) (f : List Nat → List Nat) :
    (Cell.onRefs k ident f).fig.plane = pl := by
  unfold Cell.onRefs
  repeat' first
    | with_reducible assumption | intro _ | dsimp only | split

theorem State.attach_planes {s : State} (h : Planes s0 s) (c : Nat) (tenant : Nat) (x : Shared) :
    Planes s0 (State.attach s c tenant x).1 := by
  unfold State.attach
  repeat' first
    | with_reducible assumption | intro _ | with_reducible apply State.setCell_planes | with_reducible apply State.onCell_planes
    | with_reducible apply State.onShared_planes | with_reducible apply ite_planes | with_reducible apply ite_fst_planes
    | with_reducible apply Cell.onRefs_plane | with_reducible apply cell_plane | dsimp only | split
    | refine fst_planes (by with_reducible assumption) ?_ | refine snd_planes (by with_reducible assumption) ?_
    | with_reducible apply mk_planes

theorem State.allocDo_planes {s : State} (h : Planes s0 s) (c : Nat) (e : Entry) : Planes s0 (State.allocDo s c e).1 := by
  unfold State.allocDo
  extract_lets k f ident digest owner mine old
  have hk : k.fig.plane = (s0.cell c).fig.plane := cell_plane h c
  clear_value old k
  refine ite_fst_planes h (ite_fst_planes h (ite_fst_planes h ?_))
  extract_lets clash
  refine ite_fst_planes h ?_
  cases old with
  | some x => exact State.attach_planes h ..
  | none =>
    refine ite_fst_planes h ?_
    extract_lets
    refine ite_fst_planes h ?_
    have h1 (u : Tensor) := State.setCell_planes h c (Cell.addTensor_plane hk u)
    exact ite_planes (mk_planes (h1 _)) (h1 _)

theorem State.useManifest_planes {s : State} (h : Planes s0 s) (d : BitVec 256) : Planes s0 (State.useManifest s d) := by
  unfold State.useManifest
  repeat' first
    | with_reducible assumption | intro _ | dsimp only | split | refine fst_planes (by with_reducible assumption) ?_
    | refine snd_planes (by with_reducible assumption) ?_ | with_reducible apply mk_planes

theorem Cell.dropTensor_plane {pl : Option Figure × Bool} {k : Cell} (h : k.fig.plane = pl) (tenant : Nat) (ident : BitVec 24) :
    (Cell.dropTensor k tenant ident).fig.plane = pl := by
  unfold Cell.dropTensor
  repeat' first
    | with_reducible assumption | intro _ | with_reducible apply Cell.freeDue_plane | dsimp only

theorem Cell.makeReady_plane {pl : Option Figure × Bool} {k : Cell} (h : k.fig.plane = pl) (t : Tensor) :
    (Cell.makeReady k t).fig.plane = pl := by
  unfold Cell.makeReady
  repeat' first
    | with_reducible assumption | intro _ | with_reducible apply Cell.setEnt_plane | with_reducible apply plane_foldl | dsimp only | split

theorem Cell.newWeights_plane {pl : Option Figure × Bool} {k : Cell} (h : k.fig.plane = pl) (tenant : Nat) (layers : List Nat) (ver : BitVec 16) :
    (Cell.newWeights k tenant layers ver).fig.plane = pl := by
  unfold Cell.newWeights
  repeat' first
    | with_reducible assumption | intro _ | with_reducible apply Cell.onVer_plane | dsimp only | split

theorem State.readyDo_planes {s : State} (h : Planes s0 s) (c : Nat) (e : Entry) : Planes s0 (State.readyDo s c e).1 := by
  unfold State.readyDo
  repeat' first
    | with_reducible assumption | intro _ | with_reducible apply State.onCell_planes | with_reducible apply State.useManifest_planes
    | with_reducible apply ite_planes | with_reducible apply ite_fst_planes | with_reducible apply Cell.dropTensor_plane
    | with_reducible apply Cell.makeReady_plane | with_reducible apply Cell.newWeights_plane | with_reducible apply cell_plane | dsimp only
    | split | refine fst_planes (by with_reducible assumption) ?_ | refine snd_planes (by with_reducible assumption) ?_
    | with_reducible apply mk_planes

theorem Cell.markFree_plane {pl : Option Figure × Bool} {k : Cell} (h : k.fig.plane = pl) (tenant : Nat) (ident : BitVec 24) :
    (Cell.markFree k tenant ident).fig.plane = pl := by
  unfold Cell.markFree
  repeat' first
    | with_reducible assumption | intro _ | dsimp only | split

theorem State.dropRef_planes {s : State} (h : Planes s0 s) (c : Nat) (tenant : Nat) (t : Tensor) :
    Planes s0 (State.dropRef s c tenant t) := by
  unfold State.dropRef
  repeat' first
    | with_reducible assumption | intro _ | with_reducible apply State.onCell_planes | with_reducible apply State.onShared_planes
    | with_reducible apply State.freeSoon_planes | with_reducible apply ite_planes | with_reducible apply Cell.onRefs_plane
    | with_reducible apply Cell.markFree_plane | with_reducible apply cell_plane | dsimp only | split
    | refine fst_planes (by with_reducible assumption) ?_ | refine snd_planes (by with_reducible assumption) ?_
    | with_reducible apply mk_planes

theorem State.freeDo_planes {s : State} (h : Planes s0 s) (c : Nat) (e : Entry) : Planes s0 (State.freeDo s c e).1 := by
  unfold State.freeDo
  repeat' first
    | with_reducible assumption | intro _ | with_reducible apply State.onCell_planes | with_reducible apply State.freeSoon_planes
    | with_reducible apply State.dropRef_planes | with_reducible apply ite_planes | with_reducible apply ite_fst_planes
    | with_reducible apply Cell.markFree_plane | with_reducible apply cell_plane | dsimp only | split
    | refine fst_planes (by with_reducible assumption) ?_ | refine snd_planes (by with_reducible assumption) ?_
    | with_reducible apply mk_planes

theorem State.doTensor_planes {s : State} (h : Planes s0 s) (c : Nat) (src : Source) (e : Entry) :
    Planes s0 (State.doTensor s c src e) := by
  unfold State.doTensor
  repeat' first
    | with_reducible assumption | intro _ | with_reducible apply State.complete_planes | with_reducible apply State.allocDo_planes
    | with_reducible apply State.readyDo_planes | with_reducible apply State.freeDo_planes | with_reducible apply ite_planes | dsimp only
    | split | refine fst_planes (by with_reducible assumption) ?_ | refine snd_planes (by with_reducible assumption) ?_
    | with_reducible apply mk_planes

theorem State.cmdServed_planes {s : State} (h : Planes s0 s) (c : Nat) (who : BitVec 8) : Planes s0 (State.cmdServed s c who) := by
  unfold State.cmdServed
  repeat' first
    | with_reducible assumption | intro _ | with_reducible apply State.onCell_planes | with_reducible apply cell_plane | dsimp only
    | with_reducible apply mk_planes

theorem State.entryAt_planes {s : State} (h : Planes s0 s) (c kind : Nat) (src : Source) (e : Entry) (f : State → State)
    (hf : ∀ x, Planes s0 x → Planes s0 (f x)) : Planes s0 (s.entryAt c kind src e f) := by
  unfold State.entryAt
  repeat' split
  · exact h
  · exact hf _ (State.cmdServed_planes (State.wake_planes h ..) ..)
  · exact State.complete_planes (State.wake_planes h ..) ..

theorem Cell.deviceWrite_plane {pl : Option Figure × Bool} {k : Cell} (h : k.fig.plane = pl) (off : Nat) (b : Byte) :
    (k.deviceWrite off b).1.fig.plane = pl := by
  unfold Cell.deviceWrite
  split
  · exact h
  · split
    · exact h
    · exact Cell.setEnt_plane h ..

theorem State.badAccess_planes {s : State} (h : Planes s0 s) (dev : Nat) : Planes s0 (State.badAccess s dev) := by
  unfold State.badAccess
  repeat' first
    | with_reducible assumption | intro _ | with_reducible apply State.err_planes | dsimp only | with_reducible apply mk_planes

theorem State.devicePut_planes {s : State} (h : Planes s0 s) (ok : Bool) (d : Nat) (b : Byte) : Planes s0 (s.devicePut ok d b).1 :=
  ite_planes (State.setCell_planes h _ (Cell.deviceWrite_plane (cell_plane h _) ..)) h

theorem Cell.riseOne_plane {pl : Option Figure × Bool} {k k1 : Cell} (e : k.riseOne = some k1) (h : k.fig.plane = pl) :
    k1.fig.plane = pl := by
  unfold Cell.riseOne at e
  split at e
  · cases e
  · cases e
    exact Cell.setEnt_plane h ..

theorem Cell.rise_plane {pl : Option Figure × Bool} {k : Cell} (h : k.fig.plane = pl) (n : Nat) : (Cell.rise n k).fig.plane = pl := by
  induction n generalizing k with
  | zero => exact h
  | succ n ih =>
    unfold Cell.rise
    split
    · exact h
    · exact ih (Cell.riseOne_plane (by assumption) h)

theorem State.holdLayers_planes {s : State} (h : Planes s0 s) (c : Nat) (tenant : Nat) (layers : List Nat) (seq : Nat) :
    Planes s0 (State.holdLayers s c tenant layers seq) := by
  unfold State.holdLayers
  repeat' first
    | with_reducible assumption | intro _ | with_reducible apply State.onCell_planes | with_reducible apply State.err_planes
    | with_reducible apply ite_planes | with_reducible apply foldl_planes | with_reducible apply foldl_fst_planes
    | with_reducible apply cell_plane | with_reducible apply plane_foldl | dsimp only | split | with_reducible apply mk_planes

theorem State.refetchOwn_planes {s : State} (h : Planes s0 s) (c : Nat) (t : Tensor) : Planes s0 (State.refetchOwn s c t) := by
  unfold State.refetchOwn
  repeat' first
    | with_reducible assumption | intro _ | with_reducible apply State.mail_planes | with_reducible apply State.onCell_planes
    | with_reducible apply ite_planes | with_reducible apply cell_plane | dsimp only | split
    | refine fst_planes (by with_reducible assumption) ?_ | refine snd_planes (by with_reducible assumption) ?_
    | with_reducible apply mk_planes

theorem State.eccHit_planes {s : State} (h : Planes s0 s) (c : Nat) (h1 : EccHit) : Planes s0 (State.eccHit s c h1) := by
  unfold State.eccHit
  repeat' first
    | with_reducible assumption | intro _ | with_reducible apply State.setCell_planes | with_reducible apply State.err_planes
    | with_reducible apply State.refetchOwn_planes | with_reducible apply State.holdLayers_planes | with_reducible apply ite_planes
    | with_reducible apply Cell.setEnt_plane | with_reducible apply cell_plane | dsimp only | split
    | refine fst_planes (by with_reducible assumption) ?_ | refine snd_planes (by with_reducible assumption) ?_
    | with_reducible apply mk_planes

end Sys2Proof.Machine
end

