-- ==== Sys2Proof/Laws/PlanesEngines.lean ====
section
/-!
SUPPORT. What leaves the active figure and plane select of every cell alone (Planes): the engines.
-/

namespace Sys2Proof.Machine

variable {s0 s : State}

theorem Cell.release_plane {pl : Option Figure × Bool} {k : Cell} (h : k.fig.plane = pl)  : (Cell.release k).fig.plane = pl := by
  unfold Cell.release
  repeat' first
    | with_reducible assumption | intro _ | dsimp only | split

theorem State.issue_planes {s s1 : State} {c n engine : Nat} {p : OpRec → Bool} {v : OpEnv} (e : s.issue c n engine p = some (v, s1))
    (h : Planes s0 s) : Planes s0 s1 := by
  unfold State.issue at e
  dsimp only at e
  repeat' split at e
  all_goals first
    | (cases e; exact State.onCore_planes h ..)
    | cases e

theorem State.useRedo_planes {s : State} (h : Planes s0 s) (c : Nat) (n : Nat) : Planes s0 (State.useRedo s c n) := by
  unfold State.useRedo
  repeat' first
    | with_reducible assumption | intro _ | with_reducible apply State.onCore_planes | with_reducible apply Cell.onCore_plane
    | with_reducible apply cell_plane | dsimp only | with_reducible apply mk_planes

theorem State.countFault_planes {s : State} (h : Planes s0 s) (c : Nat) (n : Nat) : Planes s0 (State.countFault s c n) := by
  unfold State.countFault
  repeat' first
    | with_reducible assumption | intro _ | with_reducible apply State.onCore_planes | with_reducible apply Cell.onCore_plane
    | with_reducible apply cell_plane | dsimp only | with_reducible apply mk_planes

theorem State.repeatRec_planes {s : State} (h : Planes s0 s) (v : OpEnv) (engine : Nat) (sev : Nat) :
    Planes s0 (State.repeatRec s v engine sev) := by
  unfold State.repeatRec
  repeat' first
    | with_reducible assumption | intro _ | with_reducible apply State.err_planes | dsimp only | with_reducible apply mk_planes

theorem State.residue_planes {s : State} (h : Planes s0 s) (v : OpEnv) (engine : Nat) (r : Repeat) :
    Planes s0 (State.residue s v engine r).1 := by
  unfold State.residue
  repeat' first
    | with_reducible assumption | intro _ | with_reducible apply State.useRedo_planes | with_reducible apply State.countFault_planes
    | with_reducible apply State.repeatRec_planes | with_reducible apply State.cause_planes | with_reducible apply ite_planes
    | with_reducible apply ite_fst_planes | dsimp only | split | refine fst_planes (by with_reducible assumption) ?_
    | refine snd_planes (by with_reducible assumption) ?_ | with_reducible apply mk_planes

theorem State.entryCheck_planes {s : State} (h : Planes s0 s) (v : OpEnv) (l : List Nat) : Planes s0 (s.entryCheck v l).1 := by
  induction l generalizing s with
  | nil => exact h
  | cons a l ih =>
    unfold State.entryCheck
    extract_lets x bad again
    refine ite_fst_planes (ih h) ?_
    have hb : ∀ n y, Planes s0 y → Planes s0 (bad n y) := fun _ _ hy => State.err_planes hy ..
    have hg : ∀ p, again = some p → Planes s0 p.1 := by
      intro p e
      simp only [again] at e
      split at e
      · exact State.tierRead_planes e (State.useRedo_planes h ..)
      · cases e
    clear_value again
    cases again with
    | none => exact hb _ _ (State.cause_planes h ..)
    | some p =>
      have hp := hg p rfl
      exact ite_fst_planes (ih (hb _ _ (State.countFault_planes (State.onCore_planes hp ..) ..))) (hb _ _ (State.cause_planes hp ..))

theorem Cell.markSat_plane {pl : Option Figure × Bool} {k : Cell} (h : k.fig.plane = pl) (tenant : Nat) (ids : List (BitVec 24)) :
    (Cell.markSat k tenant ids).fig.plane = pl := by
  unfold Cell.markSat
  repeat' first
    | with_reducible assumption | intro _ | dsimp only

theorem State.startOp_planes {s : State} (h : Planes s0 s) (v : OpEnv) (engine : Nat) (r : Result) (cycles : Option Nat) (reports : List SampleReport) :
    Planes s0 (State.startOp s v engine r cycles reports) := by
  unfold State.startOp
  repeat' first
    | with_reducible assumption | intro _ | with_reducible apply State.onCell_planes | with_reducible apply State.onCore_planes
    | with_reducible apply State.cause_planes | with_reducible apply ite_planes | with_reducible apply Cell.markSat_plane
    | with_reducible apply Cell.onCore_plane | with_reducible apply cell_plane | dsimp only | split | with_reducible apply mk_planes

theorem State.product_planes {s : State} (h : Planes s0 s) (v : OpEnv) : Planes s0 (State.product s v) := by
  unfold State.product
  repeat' first
    | with_reducible assumption | intro _ | with_reducible apply State.entryCheck_planes | with_reducible apply State.startOp_planes
    | with_reducible apply State.cause_planes | with_reducible apply ite_planes | dsimp only | split
    | refine fst_planes (by with_reducible assumption) ?_ | refine snd_planes (by with_reducible assumption) ?_
    | with_reducible apply mk_planes

theorem State.storeLater_planes {s : State} (h : Planes s0 s) (x : Store) : Planes s0 (State.storeLater s x) := by
  unfold State.storeLater
  repeat' first
    | with_reducible assumption | intro _ | with_reducible apply State.errLocal_planes | with_reducible apply ite_planes
    | with_reducible apply foldl_planes | with_reducible apply foldl_fst_planes | with_reducible apply cell_plane
    | with_reducible apply plane_foldl | dsimp only | split | with_reducible apply mk_planes

theorem Cell.abandonTest_plane {pl : Option Figure × Bool} {k : Cell} (h : k.fig.plane = pl) (t : Nat) :
    (Cell.abandonTest k t).fig.plane = pl := by
  unfold Cell.abandonTest
  repeat' first
    | with_reducible assumption | intro _ | with_reducible apply Cell.onCore_plane | dsimp only | split

theorem State.fence_planes {s : State} (h : Planes s0 s) (c : Nat) (n : Nat) : Planes s0 (State.fence s c n) := by
  unfold State.fence
  repeat' first
    | with_reducible assumption | intro _ | with_reducible apply State.onCore_planes | with_reducible apply State.setCell_planes
    | with_reducible apply State.err_planes | with_reducible apply State.storeLater_planes | with_reducible apply ite_planes
    | with_reducible apply foldl_planes | with_reducible apply foldl_fst_planes | with_reducible apply Cell.onCore_plane
    | with_reducible apply Cell.abandonTest_plane | with_reducible apply Cell.onRun_plane | with_reducible apply cell_plane
    | with_reducible apply plane_foldl | dsimp only | split | refine fst_planes (by with_reducible assumption) ?_
    | refine snd_planes (by with_reducible assumption) ?_ | with_reducible apply mk_planes

theorem State.voidWrite_planes {s : State} (h : Planes s0 s) (c reason : Nat) (w : Write) : Planes s0 (s.voidWrite c reason w) := by
  unfold State.voidWrite
  split
  · exact State.sendVoid_planes h ..
  · exact h

theorem State.fenceNow_planes {s : State} (h : Planes s0 s) (c : Nat) (n : Nat) : Planes s0 (State.fenceNow s c n) := by
  unfold State.fenceNow
  repeat' first
    | with_reducible assumption | intro _ | with_reducible apply State.cause_planes | with_reducible apply State.voidWrite_planes
    | with_reducible apply State.onCore_planes | with_reducible apply State.fence_planes | with_reducible apply foldl_planes
    | with_reducible apply foldl_fst_planes | with_reducible apply Cell.onCore_plane | with_reducible apply cell_plane
    | with_reducible apply plane_foldl | dsimp only | with_reducible apply mk_planes

theorem State.rowOp_planes {s : State} (h : Planes s0 s) (v : OpEnv) (rep : Repeat) : Planes s0 (State.rowOp s v rep) := by
  unfold State.rowOp
  repeat' first
    | with_reducible assumption | intro _ | with_reducible apply State.entryCheck_planes | with_reducible apply State.startOp_planes
    | with_reducible apply State.cause_planes | with_reducible apply State.residue_planes | with_reducible apply State.onCell_planes
    | with_reducible apply State.onCore_planes | with_reducible apply ite_planes | with_reducible apply Cell.onCore_plane
    | with_reducible apply cell_plane | dsimp only | split | refine fst_planes (by with_reducible assumption) ?_
    | refine snd_planes (by with_reducible assumption) ?_ | with_reducible apply mk_planes

theorem State.routeOp_planes {s : State} (h : Planes s0 s) (v : OpEnv) (rep : Repeat) : Planes s0 (State.routeOp s v rep) := by
  unfold State.routeOp
  repeat' first
    | with_reducible assumption | intro _ | with_reducible apply State.entryCheck_planes | with_reducible apply State.startOp_planes
    | with_reducible apply State.residue_planes | with_reducible apply State.onCell_planes | with_reducible apply ite_planes
    | with_reducible apply cell_plane | dsimp only | split | refine fst_planes (by with_reducible assumption) ?_
    | refine snd_planes (by with_reducible assumption) ?_ | with_reducible apply mk_planes

theorem State.sampleLane_planes {s : State} (h : Planes s0 s) (v : OpEnv) (q : Nat) (agree : Option Bool) :
    Planes s0 (State.sampleLane s v q agree).1 := by
  unfold State.sampleLane
  repeat' first
    | with_reducible assumption | intro _ | with_reducible apply State.repeatRec_planes | with_reducible apply State.useRedo_planes
    | with_reducible apply State.countFault_planes | with_reducible apply ite_planes | with_reducible apply ite_fst_planes | dsimp only
    | split | refine fst_planes (by with_reducible assumption) ?_ | refine snd_planes (by with_reducible assumption) ?_
    | with_reducible apply mk_planes

theorem State.sampleAll_planes {s : State} (h : Planes s0 s) (v : OpEnv) (lanes : List (Nat × Bool)) (poison : Bool) :
    Planes s0 (State.sampleAll s v lanes poison).1 := by
  unfold State.sampleAll
  repeat' first
    | with_reducible assumption | intro _ | with_reducible apply State.sampleLane_planes | with_reducible apply foldl_planes
    | with_reducible apply foldl_fst_planes | dsimp only | refine fst_planes (by with_reducible assumption) ?_
    | refine snd_planes (by with_reducible assumption) ?_ | with_reducible apply mk_planes

theorem State.sampleOp_planes {s : State} (h : Planes s0 s) (v : OpEnv) (lanes : List (Nat × Bool)) :
    Planes s0 (State.sampleOp s v lanes) := by
  unfold State.sampleOp
  repeat' first
    | with_reducible assumption | intro _ | with_reducible apply State.entryCheck_planes | with_reducible apply State.startOp_planes
    | with_reducible apply State.sampleAll_planes | with_reducible apply ite_planes | dsimp only | split
    | refine fst_planes (by with_reducible assumption) ?_ | refine snd_planes (by with_reducible assumption) ?_
    | with_reducible apply mk_planes

theorem State.maskOp_planes {s : State} (h : Planes s0 s) (v : OpEnv) (rep : Repeat) : Planes s0 (State.maskOp s v rep) := by
  unfold State.maskOp
  repeat' first
    | with_reducible assumption | intro _ | with_reducible apply State.residue_planes | with_reducible apply State.startOp_planes
    | with_reducible apply ite_planes | dsimp only | split | refine fst_planes (by with_reducible assumption) ?_
    | refine snd_planes (by with_reducible assumption) ?_ | with_reducible apply mk_planes

theorem State.signalAt_planes {s : State} (h : Planes s0 s) (c : Nat) (tenant : Nat) (group : Nat) (ctr : Nat) (add : Nat) :
    Planes s0 (State.signalAt s c tenant group ctr add) := by
  unfold State.signalAt
  repeat' first
    | with_reducible assumption | intro _ | with_reducible apply State.err_planes | with_reducible apply State.onCell_planes
    | with_reducible apply State.cause_planes | with_reducible apply ite_planes | with_reducible apply Cell.setCore_plane
    | with_reducible apply Cell.release_plane | with_reducible apply cell_plane | dsimp only | split
    | refine fst_planes (by with_reducible assumption) ?_ | refine snd_planes (by with_reducible assumption) ?_
    | with_reducible apply mk_planes

theorem State.syncArrive_planes {s s1 : State} {m : SyncMsg} (e : s.syncArrive m = some s1) (h : Planes s0 s) : Planes s0 s1 := by
  unfold State.syncArrive at e
  dsimp only at e
  repeat' split at e
  all_goals first
    | (cases e; exact State.signalAt_planes h ..)
    | (cases e; exact State.onCore_planes h ..)
    | (cases e; exact State.err_planes h ..)
    | cases e

theorem State.sendTile_planes {s : State} (h : Planes s0 s) (c : Nat) (idx : Nat) (dst : TileTo) (x : Slot) (whole : Bool) :
    Planes s0 (State.sendTile s c idx dst x whole).1 := by
  unfold State.sendTile
  repeat' first
    | with_reducible assumption | intro _ | with_reducible apply State.send_planes | with_reducible apply State.onCell_planes
    | with_reducible apply ite_planes | with_reducible apply ite_fst_planes | with_reducible apply cell_plane | dsimp only | split
    | refine fst_planes (by with_reducible assumption) ?_ | refine snd_planes (by with_reducible assumption) ?_
    | with_reducible apply mk_planes

theorem State.broadcastIn_planes {s : State} (h : Planes s0 s) (c tenant : Nat) (ident : BitVec 24) (seq : Nat) (x : Slot) :
    Planes s0 (s.broadcastIn c tenant ident seq x).1 := by
  unfold State.broadcastIn
  extract_lets id
  split
  · exact h
  · refine ite_fst_planes (State.tierWrite_planes h ..) ?_
    extract_lets k
    split
    · exact State.tierWrite_planes h ..
    · rename_i k1 e
      have hk : k1.fig.plane = (s0.cell c).fig.plane := by
        split at e
        · cases e
          exact cell_plane h c
        · exact Cell.makeRoom_plane e (cell_plane h c)
      extract_lets k0 y e1 tile k2
      have h2 : k2.fig.plane = (s0.cell c).fig.plane := Cell.touched_plane hk ..
      clear_value k2
      refine ite_fst_planes ?_ (State.setCell_planes h _ h2)
      extract_lets
      split
      · exact State.noRoom_planes h ..
      · rename_i g
        exact State.setCell_planes h _ (Cell.writeTile_plane g h2)

theorem State.figureBlock_planes {s : State} (h : Planes s0 s) (c : Nat) (x : Frame) : Planes s0 (State.figureBlock s c x) := by
  unfold State.figureBlock
  repeat' first
    | with_reducible assumption | intro _ | with_reducible apply State.setCell_planes | with_reducible apply ite_planes
    | with_reducible apply cell_plane | dsimp only | split | refine fst_planes (by with_reducible assumption) ?_
    | refine snd_planes (by with_reducible assumption) ?_ | with_reducible apply plane_mk | with_reducible apply mk_planes

theorem State.badTile_planes {s : State} (h : Planes s0 s) (c : Nat) (x : Frame) : Planes s0 (State.badTile s c x) := by
  unfold State.badTile
  repeat' first
    | with_reducible assumption | intro _ | with_reducible apply State.causeAt_planes | with_reducible apply State.err_planes
    | with_reducible apply State.voidBack_planes | dsimp only | with_reducible apply mk_planes

theorem State.frameArrive_planes {s : State} (h : Planes s0 s) (c : Nat) (x : Frame) : Planes s0 (State.frameArrive s c x) := by
  unfold State.frameArrive
  repeat' first
    | with_reducible assumption | intro _ | refine State.syncArrive_planes (by with_reducible assumption) ?_
    | with_reducible apply State.onCell_planes | with_reducible apply cell_plane | dsimp only | split
    | refine fst_planes (by with_reducible assumption) ?_ | refine snd_planes (by with_reducible assumption) ?_
    | with_reducible apply mk_planes

theorem State.frameSignal_planes {s : State} (h : Planes s0 s) (c : Nat) (x : Frame) : Planes s0 (State.frameSignal s c x) := by
  unfold State.frameSignal
  repeat' first
    | with_reducible assumption | intro _ | with_reducible apply State.frameArrive_planes | with_reducible apply ite_planes | dsimp only
    | split | with_reducible apply mk_planes

theorem State.tensorTile_planes {s : State} (h : Planes s0 s) (c : Nat) (x : Frame) (y : Slot) : Planes s0 (State.tensorTile s c x y) := by
  unfold State.tensorTile
  repeat' first
    | with_reducible assumption | intro _ | with_reducible apply State.broadcastIn_planes | with_reducible apply State.tierWrite_planes
    | with_reducible apply State.frameSignal_planes | with_reducible apply State.cause_planes | with_reducible apply ite_planes
    | dsimp only | split | refine fst_planes (by with_reducible assumption) ?_ | refine snd_planes (by with_reducible assumption) ?_
    | with_reducible apply mk_planes

theorem State.moveRead_planes {s s1 : State} {v : OpEnv} {busy : List Nat} {j : Nat} {x : Slot} (e :
    s.moveRead v busy j = some (s1, x)) (h : Planes s0 s) :
    Planes s0 s1 := by
  unfold State.moveRead at e
  dsimp only at e
  repeat' split at e
  all_goals first
    | (cases e; exact h)
    | exact State.tierRead_planes e h
    | cases e

theorem State.moveReads_planes {s : State} (h : Planes s0 s) (v : OpEnv) (busy : List Nat) (n j : Nat) :
    Planes s0 (s.moveReads v busy n j).1 := by
  induction n generalizing s j with
  | zero => exact h
  | succ n ih =>
    unfold State.moveReads
    split
    · exact h
    · rename_i e
      exact ih (State.moveRead_planes e h) _

theorem State.freePages_planes {s : State} (h : Planes s0 s) (l : List Slot) : Planes s0 (State.freePages s l).1 := by
  unfold State.freePages
  repeat' first
    | with_reducible assumption | intro _ | dsimp only | with_reducible apply mk_planes

theorem State.grantParts_planes {s : State} (h : Planes s0 s) (c : Nat) (tenant : Nat) (ident : BitVec 24) (q : Nat) :
    Planes s0 (State.grantParts s c tenant ident q) := by
  unfold State.grantParts
  repeat' first
    | with_reducible assumption | intro _ | with_reducible apply State.send_planes | with_reducible apply ite_planes
    | with_reducible apply foldl_planes | with_reducible apply foldl_fst_planes | dsimp only | split | with_reducible apply mk_planes

theorem State.writeSum_planes {s : State} (h : Planes s0 s) (c : Nat) (x : RedNode) : Planes s0 (State.writeSum s c x) := by
  unfold State.writeSum
  repeat' first
    | with_reducible assumption | intro _ | with_reducible apply State.setCell_planes | with_reducible apply State.onCell_planes
    | with_reducible apply State.onCore_planes | with_reducible apply State.cause_planes | with_reducible apply State.tierWrite_planes
    | with_reducible apply State.grantParts_planes | with_reducible apply ite_planes | with_reducible apply Cell.markSat_plane
    | with_reducible apply Cell.onCore_plane | with_reducible apply cell_plane | dsimp only | split
    | refine fst_planes (by with_reducible assumption) ?_ | refine snd_planes (by with_reducible assumption) ?_
    | with_reducible apply mk_planes

theorem State.partPiece_planes {s : State} (h : Planes s0 s) (c : Nat) (x : RedNode) (last : Bool) (again : Bool) :
    Planes s0 (State.partPiece s c x last again) := by
  unfold State.partPiece
  repeat' first
    | with_reducible assumption | intro _ | with_reducible apply State.setCell_planes | with_reducible apply State.writeSum_planes
    | with_reducible apply State.noRoom_planes | with_reducible apply State.cause_planes | with_reducible apply ite_planes
    | refine Cell.makeRoom_plane (by with_reducible assumption) ?_ | with_reducible apply cell_plane | dsimp only | split
    | refine fst_planes (by with_reducible assumption) ?_ | refine snd_planes (by with_reducible assumption) ?_
    | with_reducible apply mk_planes

theorem State.partTile_planes {s : State} (h : Planes s0 s) (c : Nat) (p : RedNode) (x : Slot) (again : Bool) :
    Planes s0 (State.partTile s c p x again) := by
  unfold State.partTile
  repeat' first
    | with_reducible assumption | intro _ | with_reducible apply State.cause_planes | with_reducible apply State.partPiece_planes
    | with_reducible apply ite_planes | with_reducible apply foldl_planes | with_reducible apply foldl_fst_planes | dsimp only | split
    | refine fst_planes (by with_reducible assumption) ?_ | refine snd_planes (by with_reducible assumption) ?_
    | with_reducible apply mk_planes

theorem State.takePart_planes {s : State} (h : Planes s0 s) (c : Nat) (p : RedNode) (x : Slot) (again : Bool) :
    Planes s0 (State.takePart s c p x again) := by
  unfold State.takePart
  repeat' first
    | with_reducible assumption | intro _ | with_reducible apply State.partTile_planes | with_reducible apply State.onCell_planes
    | with_reducible apply ite_planes | with_reducible apply cell_plane | dsimp only | split | with_reducible apply mk_planes

theorem Cell.endSums_plane {pl : Option Figure × Bool} {k : Cell} (h : k.fig.plane = pl) (t : Nat) : (Cell.endSums k t).fig.plane = pl := by
  unfold Cell.endSums
  repeat' first
    | with_reducible assumption | intro _ | dsimp only

theorem State.badWrite_planes {s : State} (h : Planes s0 s) (c : Nat) (tenant : Nat) (core : Nat) (x : Slot) :
    Planes s0 (State.badWrite s c tenant core x) := by
  unfold State.badWrite
  repeat' first
    | with_reducible assumption | intro _ | with_reducible apply State.cause_planes | with_reducible apply State.err_planes | dsimp only
    | with_reducible apply mk_planes

theorem State.applyWrite_planes {s : State} (h : Planes s0 s) (c : Nat) (n : Nat) (tenant : Nat) (moved : Bool) (sig : Nat × Nat) (w : Write) :
    Planes s0 (State.applyWrite s c n tenant moved sig w) := by
  unfold State.applyWrite
  repeat' first
    | with_reducible assumption | intro _ | with_reducible apply State.badWrite_planes | with_reducible apply State.onCore_planes
    | with_reducible apply State.tierWrite_planes | with_reducible apply State.cause_planes | with_reducible apply State.onCell_planes
    | with_reducible apply State.sendTile_planes | with_reducible apply State.takePart_planes | with_reducible apply ite_planes
    | with_reducible apply Cell.onCore_plane | with_reducible apply cell_plane | dsimp only | split
    | refine fst_planes (by with_reducible assumption) ?_ | refine snd_planes (by with_reducible assumption) ?_
    | with_reducible apply mk_planes

theorem State.retryParts_planes {s : State} (h : Planes s0 s) (c : Nat) : Planes s0 (State.retryParts s c) := by
  unfold State.retryParts
  repeat' first
    | with_reducible assumption | intro _ | with_reducible apply State.onCell_planes | with_reducible apply State.applyWrite_planes
    | with_reducible apply foldl_planes | with_reducible apply foldl_fst_planes | with_reducible apply cell_plane
    | with_reducible apply plane_foldl | dsimp only | with_reducible apply mk_planes

theorem State.startMove_planes {s : State} (h : Planes s0 s) (v : OpEnv) (l : List Write) : Planes s0 (State.startMove s v l) := by
  unfold State.startMove
  repeat' first
    | with_reducible assumption | intro _ | with_reducible apply State.applyWrite_planes | with_reducible apply State.startOp_planes
    | with_reducible apply State.onCore_planes | with_reducible apply foldl_planes | with_reducible apply foldl_fst_planes
    | with_reducible apply Cell.onCore_plane | with_reducible apply cell_plane | with_reducible apply plane_foldl | dsimp only | split
    | refine fst_planes (by with_reducible assumption) ?_ | refine snd_planes (by with_reducible assumption) ?_
    | with_reducible apply mk_planes

theorem State.transposeCheck_planes {s : State} (h : Planes s0 s) (v : OpEnv) (l : List Slot) :
    Planes s0 (State.transposeCheck s v l).1 := by
  unfold State.transposeCheck
  repeat' first
    | with_reducible assumption | intro _ | with_reducible apply State.badWrite_planes | with_reducible apply ite_planes
    | with_reducible apply ite_fst_planes | dsimp only | split | refine fst_planes (by with_reducible assumption) ?_
    | refine snd_planes (by with_reducible assumption) ?_ | with_reducible apply mk_planes

theorem State.moveRest_planes {s : State} (h : Planes s0 s) (v : OpEnv) (l : List Slot) : Planes s0 (State.moveRest s v l) := by
  unfold State.moveRest
  repeat' first
    | with_reducible assumption | intro _ | with_reducible apply State.transposeCheck_planes | with_reducible apply State.freePages_planes
    | with_reducible apply State.startOp_planes | with_reducible apply State.startMove_planes | with_reducible apply ite_planes
    | dsimp only | split | refine fst_planes (by with_reducible assumption) ?_ | refine snd_planes (by with_reducible assumption) ?_
    | with_reducible apply mk_planes

theorem State.remoteReads_planes {s : State} (h : Planes s0 s) (v : OpEnv) (n : Nat) (seat : Nat) (cell : Nat) :
    Planes s0 (State.remoteReads s v n seat cell) := by
  unfold State.remoteReads
  repeat' first
    | with_reducible assumption | intro _ | with_reducible apply State.onCore_planes | with_reducible apply State.send_planes
    | with_reducible apply State.cause_planes | with_reducible apply ite_planes | with_reducible apply foldl_planes
    | with_reducible apply foldl_fst_planes | with_reducible apply Cell.onCore_plane | with_reducible apply cell_plane
    | with_reducible apply plane_foldl | dsimp only | split | refine fst_planes (by with_reducible assumption) ?_
    | refine snd_planes (by with_reducible assumption) ?_ | with_reducible apply mk_planes

theorem State.readResponse_planes {s : State} (h : Planes s0 s) (c : Nat) (num : Nat) (y : Slot) :
    Planes s0 (State.readResponse s c num y) := by
  unfold State.readResponse
  repeat' first
    | with_reducible assumption | intro _ | with_reducible apply State.onCore_planes | with_reducible apply State.moveRest_planes
    | with_reducible apply Cell.onCore_plane | with_reducible apply cell_plane | dsimp only | split
    | refine fst_planes (by with_reducible assumption) ?_ | refine snd_planes (by with_reducible assumption) ?_
    | with_reducible apply mk_planes

theorem State.moveOp_planes {s : State} (h : Planes s0 s) (v : OpEnv) : Planes s0 (s.moveOp v) := by
  unfold State.moveOp
  extract_lets k n
  refine ite_planes (State.startOp_planes (State.cause_planes h ..) ..) ?_
  split
  · exact State.remoteReads_planes h ..
  · split
    rename_i e
    have h0 := fst_planes e (ite_fst_planes (State.entryCheck_planes h ..) h)
    split
    rename_i e
    have h1 := fst_planes e (State.moveReads_planes (State.tierServed_planes h0 ..) ..)
    exact ite_planes (State.startOp_planes h0 ..) (ite_planes (State.startOp_planes (State.cause_planes h1 ..) ..) (State.moveRest_planes h1 ..))

theorem State.takeTile_planes {s : State} (h : Planes s0 s) (c : Nat) (x : Frame) : Planes s0 (State.takeTile s c x) := by
  unfold State.takeTile
  repeat' first
    | with_reducible assumption | intro _ | with_reducible apply State.badTile_planes | with_reducible apply State.tensorTile_planes
    | with_reducible apply State.figureBlock_planes | with_reducible apply State.takePart_planes
    | with_reducible apply State.retryParts_planes | with_reducible apply State.readResponse_planes | with_reducible apply ite_planes
    | dsimp only | split | refine fst_planes (by with_reducible assumption) ?_ | refine snd_planes (by with_reducible assumption) ?_
    | with_reducible apply mk_planes

theorem State.takeRead_planes {s : State} (h : Planes s0 s) (c : Nat) (x : Frame) : Planes s0 (State.takeRead s c x) := by
  unfold State.takeRead
  repeat' first
    | with_reducible assumption | intro _ | refine State.tierRead_planes (by with_reducible assumption) ?_
    | with_reducible apply State.voidBack_planes | with_reducible apply State.sendTile_planes | dsimp only | split
    | refine fst_planes (by with_reducible assumption) ?_ | refine snd_planes (by with_reducible assumption) ?_
    | with_reducible apply mk_planes

theorem State.retryOvf_planes {s : State} (h : Planes s0 s) (c : Nat) (l : List Frame) : Planes s0 (s.retryOvf c l).1 := by
  induction l generalizing s with
  | nil => exact h
  | cons a l ih =>
    unfold State.retryOvf
    split
    · rename_i e
      exact ih (State.syncArrive_planes e h)
    · exact ih h

theorem State.elementOp_planes {s : State} (h : Planes s0 s) (v : OpEnv) : Planes s0 (State.elementOp s v) := by
  unfold State.elementOp
  repeat' first
    | with_reducible assumption | intro _ | with_reducible apply State.entryCheck_planes | with_reducible apply State.startOp_planes
    | with_reducible apply State.cause_planes | with_reducible apply ite_planes | dsimp only | split
    | refine fst_planes (by with_reducible assumption) ?_ | refine snd_planes (by with_reducible assumption) ?_
    | with_reducible apply mk_planes

theorem State.partRead_planes {s s1 : State} {v : OpEnv} {j : Nat} {x : Slot} (e : s.partRead v j = some (s1, x)) (h : Planes s0 s) :
    Planes s0 s1 := by
  unfold State.partRead at e
  dsimp only at e
  split at e
  all_goals first
    | (cases e; exact h)
    | exact State.tierRead_planes e h
    | cases e

theorem State.partReads_planes {s : State} (h : Planes s0 s) (v : OpEnv) (n j : Nat) : Planes s0 (s.partReads v n j).1 := by
  induction n generalizing s j with
  | zero => exact h
  | succ n ih =>
    unfold State.partReads
    split
    · exact h
    · rename_i e
      exact ih (State.partRead_planes e h) _

theorem State.reduceOp_planes {s : State} (h : Planes s0 s) (v : OpEnv) : Planes s0 (State.reduceOp s v) := by
  unfold State.reduceOp
  repeat' first
    | with_reducible assumption | intro _ | with_reducible apply State.entryCheck_planes | with_reducible apply State.tierServed_planes
    | with_reducible apply State.partReads_planes | with_reducible apply State.startOp_planes | with_reducible apply State.cause_planes
    | with_reducible apply State.badWrite_planes | with_reducible apply ite_planes | dsimp only | split
    | refine fst_planes (by with_reducible assumption) ?_ | refine snd_planes (by with_reducible assumption) ?_
    | with_reducible apply mk_planes

theorem Cell.nameLayer_plane {pl : Option Figure × Bool} {k : Cell} (h : k.fig.plane = pl) (x : Named) :
    (Cell.nameLayer k x).fig.plane = pl := by
  unfold Cell.nameLayer
  repeat' first
    | with_reducible assumption | intro _ | dsimp only | split

theorem State.updateOp_planes {s : State} (h : Planes s0 s) (v : OpEnv) : Planes s0 (State.updateOp s v) := by
  unfold State.updateOp
  repeat' first
    | with_reducible assumption | intro _ | with_reducible apply State.onCell_planes | with_reducible apply State.startOp_planes
    | with_reducible apply Cell.nameLayer_plane | with_reducible apply cell_plane | dsimp only | split
    | refine fst_planes (by with_reducible assumption) ?_ | refine snd_planes (by with_reducible assumption) ?_
    | with_reducible apply mk_planes

theorem State.pokeTile_planes {s : State} (h : Planes s0 s) (c : Nat) (tenant : Nat) (ident : BitVec 24) (i : Nat) (off : Nat) (n : Nat) (data : Nat) :
    Planes s0 (State.pokeTile s c tenant ident i off n data).1 := by
  unfold State.pokeTile
  repeat' first
    | with_reducible assumption | intro _ | with_reducible apply State.tierWrite_planes | with_reducible apply ite_planes
    | with_reducible apply ite_fst_planes | dsimp only | split | refine fst_planes (by with_reducible assumption) ?_
    | refine snd_planes (by with_reducible assumption) ?_ | with_reducible apply mk_planes

theorem State.pokeFrom_planes {s : State} (h : Planes s0 s) (fuel c tenant : Nat) (ident : BitVec 24) (off n data : Nat) :
    Planes s0 (State.pokeFrom fuel s c tenant ident off n data).1 := by
  induction fuel generalizing s off n data with
  | zero => exact h
  | succ fuel ih =>
    unfold State.pokeFrom
    split
    · exact h
    · exact ih (State.pokeTile_planes h ..) ..

theorem State.poke_planes {s : State} (h : Planes s0 s) (c : Nat) (tenant : Nat) (ident : Nat) (off : Nat) (n : Nat) (data : Nat) :
    Planes s0 (State.poke s c tenant ident off n data).1 := by
  unfold State.poke
  repeat' first
    | with_reducible assumption | intro _ | with_reducible apply State.pokeFrom_planes | dsimp only | with_reducible apply mk_planes

theorem State.pokeWords_planes {s : State} (h : Planes s0 s) (c : Nat) (tenant : Nat) (ident : Nat) (e : Nat) (ws : List Nat) :
    Planes s0 (State.pokeWords s c tenant ident e ws).1 := by
  unfold State.pokeWords
  repeat' first
    | with_reducible assumption | intro _ | with_reducible apply State.poke_planes | dsimp only | with_reducible apply mk_planes

end Sys2Proof.Machine
end

