-- ==== Sys2Proof/Laws/PlanesUpdate.lean ====
section
/-!
SUPPORT. What leaves the active figure and plane select of every cell alone (Planes): the U-dies and the learning steps.
-/

namespace Sys2Proof.Machine

variable {s0 s : State}

theorem State.putTile_planes {s : State} (h : Planes s0 s) (c : Nat) (tenant : Nat) (ident : BitVec 24) (i : Nat) (l : List (Nat × Nat)) :
    Planes s0 (State.putTile s c tenant ident i l).1 := by
  unfold State.putTile
  repeat' first
    | with_reducible assumption | intro _ | with_reducible apply State.tierPut_planes | with_reducible apply ite_planes
    | with_reducible apply ite_fst_planes | dsimp only | split | refine fst_planes (by with_reducible assumption) ?_
    | refine snd_planes (by with_reducible assumption) ?_ | with_reducible apply mk_planes

theorem State.putElems_planes {s : State} (h : Planes s0 s) (c : Nat) (tenant : Nat) (ident : BitVec 24) (per : Nat) (l : List (Nat × Nat)) :
    Planes s0 (State.putElems s c tenant ident per l).1 := by
  unfold State.putElems
  repeat' first
    | with_reducible assumption | intro _ | with_reducible apply State.putTile_planes | with_reducible apply foldl_planes
    | with_reducible apply foldl_fst_planes | dsimp only | refine fst_planes (by with_reducible assumption) ?_
    | refine snd_planes (by with_reducible assumption) ?_ | with_reducible apply mk_planes

theorem Cell.dealTenant_plane {pl : Option Figure × Bool} {k : Cell} (h : k.fig.plane = pl) (t : Nat) :
    (Cell.dealTenant k t).fig.plane = pl := by
  unfold Cell.dealTenant
  repeat' first
    | with_reducible assumption | intro _ | with_reducible apply Cell.onRun_plane | with_reducible apply Cell.onCore_plane
    | with_reducible apply plane_foldl | dsimp only | split

theorem Cell.takeImages_plane {pl : Option Figure × Bool} {k : Cell} (h : k.fig.plane = pl)  : (Cell.takeImages k).fig.plane = pl := by
  unfold Cell.takeImages
  repeat' first
    | with_reducible assumption | intro _ | with_reducible apply Cell.onRun_plane | with_reducible apply Cell.dealTenant_plane
    | with_reducible apply plane_foldl | dsimp only | split

theorem State.returnCores_planes {s : State} (h : Planes s0 s) (c : Nat) : Planes s0 (State.returnCores s c) := by
  unfold State.returnCores
  repeat' first
    | with_reducible assumption | intro _ | with_reducible apply State.onCell_planes | with_reducible apply State.onCore_planes
    | with_reducible apply ite_planes | with_reducible apply foldl_planes | with_reducible apply foldl_fst_planes
    | with_reducible apply Cell.onCore_plane | with_reducible apply Cell.onRun_plane | with_reducible apply cell_plane
    | with_reducible apply plane_foldl | dsimp only | split | with_reducible apply mk_planes

theorem State.fillTile_planes {s : State} (h : Planes s0 s) (c : Nat) (tenant : Nat) (ident : BitVec 24) (i : Nat) (p : Payload) (poison : Bool) :
    Planes s0 (State.fillTile s c tenant ident i p poison) := by
  unfold State.fillTile
  repeat' first
    | with_reducible assumption | intro _ | with_reducible apply State.tierPut_planes | dsimp only | with_reducible apply mk_planes

theorem State.zeroTensor_planes {s : State} (h : Planes s0 s) (c : Nat) (tenant : Nat) (ident : BitVec 24) :
    Planes s0 (State.zeroTensor s c tenant ident) := by
  unfold State.zeroTensor
  repeat' first
    | with_reducible assumption | intro _ | with_reducible apply State.fillTile_planes | with_reducible apply foldl_planes
    | with_reducible apply foldl_fst_planes | dsimp only | split | refine fst_planes (by with_reducible assumption) ?_
    | refine snd_planes (by with_reducible assumption) ?_ | with_reducible apply mk_planes

theorem State.copyTensor_planes {s : State} (h : Planes s0 s) (c : Nat) (tenant : Nat) (src : Nat) (dst : BitVec 24) :
    Planes s0 (State.copyTensor s c tenant src dst) := by
  unfold State.copyTensor
  repeat' first
    | with_reducible assumption | intro _ | with_reducible apply State.fillTile_planes | with_reducible apply foldl_planes
    | with_reducible apply foldl_fst_planes | dsimp only | split | refine fst_planes (by with_reducible assumption) ?_
    | refine snd_planes (by with_reducible assumption) ?_ | with_reducible apply mk_planes

theorem State.rebuildMaster_planes {s : State} (h : Planes s0 s) (c : Nat) (b : Binding) : Planes s0 (State.rebuildMaster s c b) := by
  unfold State.rebuildMaster
  repeat' first
    | with_reducible assumption | intro _ | with_reducible apply State.fillTile_planes | with_reducible apply foldl_planes
    | with_reducible apply foldl_fst_planes | dsimp only | split | refine fst_planes (by with_reducible assumption) ?_
    | refine snd_planes (by with_reducible assumption) ?_ | with_reducible apply mk_planes

theorem State.repairNow_planes {s : State} (h : Planes s0 s) (c : Nat) (e : Entry) : Planes s0 (State.repairNow s c e) := by
  unfold State.repairNow
  repeat' first
    | with_reducible assumption | intro _ | with_reducible apply State.copyTensor_planes | with_reducible apply State.zeroTensor_planes
    | with_reducible apply State.rebuildMaster_planes | with_reducible apply State.onCell_planes | with_reducible apply ite_planes
    | with_reducible apply foldl_planes | with_reducible apply foldl_fst_planes | with_reducible apply cell_plane
    | with_reducible apply plane_foldl | dsimp only | split | refine fst_planes (by with_reducible assumption) ?_
    | refine snd_planes (by with_reducible assumption) ?_ | with_reducible apply mk_planes

theorem State.udBoundary_planes {s : State} (h : Planes s0 s) (c : Nat) : Planes s0 (State.udBoundary s c) := by
  unfold State.udBoundary
  repeat' first
    | with_reducible assumption | intro _ | with_reducible apply State.repairNow_planes | with_reducible apply State.onCell_planes
    | with_reducible apply ite_planes | with_reducible apply foldl_planes | with_reducible apply foldl_fst_planes
    | with_reducible apply cell_plane | with_reducible apply plane_foldl | dsimp only | split | with_reducible apply mk_planes

theorem State.takeWrites_planes {s : State} (h : Planes s0 s) (c : Nat) : Planes s0 (State.takeWrites s c) := by
  unfold State.takeWrites
  repeat' first
    | with_reducible assumption | intro _ | with_reducible apply State.pokeWords_planes | with_reducible apply State.complete_planes
    | with_reducible apply State.onCell_planes | with_reducible apply ite_planes | with_reducible apply foldl_planes
    | with_reducible apply foldl_fst_planes | with_reducible apply cell_plane | with_reducible apply plane_foldl | dsimp only | split
    | refine fst_planes (by with_reducible assumption) ?_ | refine snd_planes (by with_reducible assumption) ?_
    | with_reducible apply mk_planes

theorem State.coordinate_planes {s : State} (h : Planes s0 s)  : Planes s0 (State.coordinate s) := by
  unfold State.coordinate
  repeat' first
    | with_reducible assumption | intro _ | with_reducible apply State.onCell_planes | with_reducible apply ite_planes
    | with_reducible apply foldl_planes | with_reducible apply foldl_fst_planes | with_reducible apply cell_plane
    | with_reducible apply plane_foldl | dsimp only | split | with_reducible apply mk_planes

theorem Cell.takeShare_plane {pl : Option Figure × Bool} {k : Cell} (h : k.fig.plane = pl) (lost : Bool) :
    (Cell.takeShare k lost).fig.plane = pl := by
  unfold Cell.takeShare
  repeat' first
    | with_reducible assumption | intro _ | dsimp only | split

theorem Cell.fwNow_plane {pl : Option Figure × Bool} {k : Cell} (h : k.fig.plane = pl) (from_ : Option Nat) (now : Nat) :
    (Cell.fwNow k from_ now).fig.plane = pl := by
  unfold Cell.fwNow
  repeat' first
    | with_reducible assumption | intro _ | dsimp only | split

theorem State.boundary_planes {s : State} (h : Planes s0 s) (c : Nat) : Planes s0 (State.boundary s c) := by
  unfold State.boundary
  repeat' first
    | with_reducible assumption | intro _ | with_reducible apply State.onCell_planes | with_reducible apply State.fence_planes
    | with_reducible apply State.returnCores_planes | with_reducible apply State.udBoundary_planes
    | with_reducible apply State.takeWrites_planes | with_reducible apply State.coordinate_planes
    | with_reducible apply State.takeLevel_planes | with_reducible apply foldl_planes | with_reducible apply foldl_fst_planes
    | with_reducible apply Cell.freeDue_plane | with_reducible apply Cell.takeImages_plane | with_reducible apply Cell.takeShare_plane
    | with_reducible apply Cell.fwNow_plane | with_reducible apply cell_plane | with_reducible apply plane_foldl | dsimp only
    | with_reducible apply mk_planes

theorem State.boundarySoon_planes {s : State} (h : Planes s0 s) (c : Nat) : Planes s0 (State.boundarySoon s c) := by
  unfold State.boundarySoon
  repeat' first
    | with_reducible assumption | intro _ | with_reducible apply State.boundary_planes | with_reducible apply ite_planes | dsimp only
    | split | with_reducible apply mk_planes

theorem State.bindDo_planes {s : State} (h : Planes s0 s) (c : Nat) (src : Source) (e : Entry) : Planes s0 (State.bindDo s c src e).1 := by
  unfold State.bindDo
  repeat' first
    | with_reducible assumption | intro _ | with_reducible apply State.setCell_planes | with_reducible apply ite_planes
    | with_reducible apply ite_fst_planes | with_reducible apply cell_plane | dsimp only | split | with_reducible apply mk_planes

theorem State.doBind_planes {s : State} (h : Planes s0 s) (c : Nat) (src : Source) (e : Entry) : Planes s0 (State.doBind s c src e) := by
  unfold State.doBind
  repeat' first
    | with_reducible assumption | intro _ | with_reducible apply State.bindDo_planes | with_reducible apply State.complete_planes
    | dsimp only | refine fst_planes (by with_reducible assumption) ?_ | refine snd_planes (by with_reducible assumption) ?_
    | with_reducible apply mk_planes

theorem State.ruleLoadDo_planes {s : State} (h : Planes s0 s) (c : Nat) (src : Source) (e : Entry) :
    Planes s0 (State.ruleLoadDo s c src e).1 := by
  unfold State.ruleLoadDo
  repeat' first
    | with_reducible assumption | intro _ | with_reducible apply State.setCell_planes | with_reducible apply ite_planes
    | with_reducible apply ite_fst_planes | with_reducible apply cell_plane | dsimp only | split
    | refine fst_planes (by with_reducible assumption) ?_ | refine snd_planes (by with_reducible assumption) ?_
    | with_reducible apply mk_planes

theorem State.doRuleLoad_planes {s : State} (h : Planes s0 s) (c : Nat) (src : Source) (e : Entry) :
    Planes s0 (State.doRuleLoad s c src e) := by
  unfold State.doRuleLoad
  repeat' first
    | with_reducible assumption | intro _ | with_reducible apply State.ruleLoadDo_planes | with_reducible apply State.complete_planes
    | dsimp only | refine fst_planes (by with_reducible assumption) ?_ | refine snd_planes (by with_reducible assumption) ?_
    | with_reducible apply mk_planes

theorem State.modeDo_planes {s : State} (h : Planes s0 s) (c : Nat) (src : Source) (e : Entry) : Planes s0 (State.modeDo s c src e).1 := by
  unfold State.modeDo
  repeat' first
    | with_reducible assumption | intro _ | with_reducible apply State.onCell_planes | with_reducible apply State.boundarySoon_planes
    | with_reducible apply ite_planes | with_reducible apply ite_fst_planes | with_reducible apply cell_plane | dsimp only | split
    | refine fst_planes (by with_reducible assumption) ?_ | refine snd_planes (by with_reducible assumption) ?_
    | with_reducible apply mk_planes

theorem State.doMode_planes {s : State} (h : Planes s0 s) (c : Nat) (src : Source) (e : Entry) : Planes s0 (State.doMode s c src e) := by
  unfold State.doMode
  repeat' first
    | with_reducible assumption | intro _ | with_reducible apply State.modeDo_planes | with_reducible apply State.complete_planes
    | dsimp only | refine fst_planes (by with_reducible assumption) ?_ | refine snd_planes (by with_reducible assumption) ?_
    | with_reducible apply mk_planes

theorem State.repairDo_planes {s : State} (h : Planes s0 s) (c : Nat) (src : Source) (e : Entry) :
    Planes s0 (State.repairDo s c src e).1 := by
  unfold State.repairDo
  repeat' first
    | with_reducible assumption | intro _ | with_reducible apply State.onCell_planes | with_reducible apply State.boundarySoon_planes
    | with_reducible apply ite_planes | with_reducible apply ite_fst_planes | with_reducible apply cell_plane | dsimp only | split
    | refine fst_planes (by with_reducible assumption) ?_ | refine snd_planes (by with_reducible assumption) ?_
    | with_reducible apply mk_planes

theorem State.doRepair_planes {s : State} (h : Planes s0 s) (c : Nat) (src : Source) (e : Entry) :
    Planes s0 (State.doRepair s c src e) := by
  unfold State.doRepair
  repeat' first
    | with_reducible assumption | intro _ | with_reducible apply State.repairDo_planes | with_reducible apply State.complete_planes
    | dsimp only | refine fst_planes (by with_reducible assumption) ?_ | refine snd_planes (by with_reducible assumption) ?_
    | with_reducible apply mk_planes

theorem Cell.setSnap_plane {pl : Option Figure × Bool} {k : Cell} (h : k.fig.plane = pl) (tenant : Nat) (x : Option Snap) :
    (Cell.setSnap k tenant x).fig.plane = pl := by
  unfold Cell.setSnap
  repeat' first
    | with_reducible assumption | intro _ | dsimp only

theorem State.snapshotDo_planes {s : State} (h : Planes s0 s) (c : Nat) (src : Source) (e : Entry) :
    Planes s0 (State.snapshotDo s c src e).1 := by
  unfold State.snapshotDo
  repeat' first
    | with_reducible assumption | intro _ | with_reducible apply State.setCell_planes | with_reducible apply ite_planes
    | with_reducible apply ite_fst_planes | with_reducible apply Cell.addTensor_plane | with_reducible apply Cell.setSnap_plane
    | with_reducible apply cell_plane | dsimp only | split | with_reducible apply mk_planes

theorem State.doSnapshot_planes {s : State} (h : Planes s0 s) (c : Nat) (src : Source) (e : Entry) :
    Planes s0 (State.doSnapshot s c src e) := by
  unfold State.doSnapshot
  repeat' first
    | with_reducible assumption | intro _ | with_reducible apply State.snapshotDo_planes | with_reducible apply State.complete_planes
    | dsimp only | split | refine fst_planes (by with_reducible assumption) ?_ | refine snd_planes (by with_reducible assumption) ?_
    | with_reducible apply mk_planes

theorem State.takeSnapshot_planes {s : State} (h : Planes s0 s) (c : Nat) (tenant : Nat) (ver : BitVec 16) :
    Planes s0 (State.takeSnapshot s c tenant ver) := by
  unfold State.takeSnapshot
  repeat' first
    | with_reducible assumption | intro _ | with_reducible apply State.taken_planes | with_reducible apply State.fillTile_planes
    | with_reducible apply State.onCell_planes | with_reducible apply ite_planes | with_reducible apply foldl_planes
    | with_reducible apply foldl_fst_planes | with_reducible apply Cell.setSnap_plane | with_reducible apply cell_plane
    | with_reducible apply plane_foldl | dsimp only | split | refine fst_planes (by with_reducible assumption) ?_
    | refine snd_planes (by with_reducible assumption) ?_ | with_reducible apply mk_planes

theorem State.sendSnapTile_planes {s : State} (h : Planes s0 s) (c : Nat) (tenant : Nat) (x : Snap) (i : Nat) (p : Payload) :
    Planes s0 (State.sendSnapTile s c tenant x i p) := by
  unfold State.sendSnapTile
  repeat' first
    | with_reducible assumption | intro _ | with_reducible apply State.sendTile_planes | with_reducible apply ite_planes | dsimp only
    | split | with_reducible apply mk_planes

theorem State.sendShards_planes {s : State} (h : Planes s0 s) (c : Nat) (tenant : Nat) (x : Snap) (n : Nat) :
    Planes s0 (State.sendShards s c tenant x n) := by
  unfold State.sendShards
  repeat' first
    | with_reducible assumption | intro _ | with_reducible apply State.emit_planes | with_reducible apply State.sendSnapTile_planes
    | with_reducible apply ite_planes | with_reducible apply foldl_planes | with_reducible apply foldl_fst_planes | dsimp only | split
    | with_reducible apply mk_planes

theorem State.sendManifest_planes {s : State} (h : Planes s0 s) (c : Nat) (tenant : Nat) (x : Snap) :
    Planes s0 (State.sendManifest s c tenant x) := by
  unfold State.sendManifest
  repeat' first
    | with_reducible assumption | intro _ | with_reducible apply State.emit_planes | with_reducible apply State.sendSnapTile_planes
    | with_reducible apply ite_planes | with_reducible apply foldl_planes | with_reducible apply foldl_fst_planes | dsimp only | split
    | refine fst_planes (by with_reducible assumption) ?_ | refine snd_planes (by with_reducible assumption) ?_
    | with_reducible apply mk_planes

theorem State.deliveredTiles_planes {s : State} (h : Planes s0 s) (c : Nat) (tenant : Nat) (x : Snap) (linkOk : Bool) :
    Planes s0 (State.deliveredTiles s c tenant x linkOk).1 := by
  unfold State.deliveredTiles
  repeat' first
    | with_reducible assumption | intro _ | with_reducible apply State.takeFree_planes | with_reducible apply ite_planes
    | with_reducible apply ite_fst_planes | dsimp only | split | refine fst_planes (by with_reducible assumption) ?_
    | refine snd_planes (by with_reducible assumption) ?_ | with_reducible apply mk_planes

theorem State.endSnapshot_planes {s : State} (h : Planes s0 s) (c : Nat) (tenant : Nat) (linkOk : Bool) :
    Planes s0 (State.endSnapshot s c tenant linkOk) := by
  unfold State.endSnapshot
  repeat' first
    | with_reducible assumption | intro _ | with_reducible apply State.taken_planes | with_reducible apply State.deliveredTiles_planes
    | with_reducible apply State.sendShards_planes | with_reducible apply State.sendManifest_planes | with_reducible apply State.err_planes
    | with_reducible apply State.onCell_planes | with_reducible apply State.complete_planes | with_reducible apply ite_planes
    | with_reducible apply Cell.dropTensor_plane | with_reducible apply Cell.setSnap_plane | with_reducible apply cell_plane | dsimp only | split
    | refine fst_planes (by with_reducible assumption) ?_ | refine snd_planes (by with_reducible assumption) ?_
    | with_reducible apply mk_planes

theorem State.ratioEvent_planes {s : State} (h : Planes s0 s) (c : Nat) (tenant : Nat) (x : RepEntry) :
    Planes s0 (State.ratioEvent s c tenant x) := by
  unfold State.ratioEvent
  repeat' first
    | with_reducible assumption | intro _ | with_reducible apply State.err_planes | with_reducible apply State.onCell_planes
    | with_reducible apply State.onCore_planes | with_reducible apply ite_planes | with_reducible apply foldl_planes
    | with_reducible apply foldl_fst_planes | with_reducible apply Cell.onCore_plane | with_reducible apply cell_plane
    | with_reducible apply plane_foldl | dsimp only | split | with_reducible apply mk_planes

theorem State.addEntry_planes {s : State} (h : Planes s0 s) (c : Nat) (x : RepEntry) : Planes s0 (State.addEntry s c x) := by
  unfold State.addEntry
  repeat' first
    | with_reducible assumption | intro _ | with_reducible apply State.onCell_planes | with_reducible apply cell_plane | dsimp only
    | with_reducible apply mk_planes

theorem State.trapRecord_planes {s : State} (h : Planes s0 s) (c : Nat) (tenant : Nat) (x : RepEntry) :
    Planes s0 (State.trapRecord s c tenant x) := by
  unfold State.trapRecord
  repeat' first
    | with_reducible assumption | intro _ | with_reducible apply State.err_planes | with_reducible apply ite_planes | dsimp only | split
    | with_reducible apply mk_planes

theorem State.ratioLayer_planes {s : State} (h : Planes s0 s) (c : Nat) (x : Named) : Planes s0 (State.ratioLayer s c x) := by
  unfold State.ratioLayer
  repeat' first
    | with_reducible assumption | intro _ | with_reducible apply State.holdLayers_planes | with_reducible apply State.addEntry_planes
    | with_reducible apply State.ratioEvent_planes | with_reducible apply State.trapRecord_planes | with_reducible apply ite_planes
    | dsimp only | split | refine fst_planes (by with_reducible assumption) ?_ | refine snd_planes (by with_reducible assumption) ?_
    | with_reducible apply mk_planes

theorem State.ratioAll_planes {s : State} (h : Planes s0 s) (c : Nat) (tenant : Nat) : Planes s0 (State.ratioAll s c tenant) := by
  unfold State.ratioAll
  repeat' first
    | with_reducible assumption | intro _ | with_reducible apply State.ratioLayer_planes | with_reducible apply State.onCell_planes
    | with_reducible apply foldl_planes | with_reducible apply foldl_fst_planes | with_reducible apply Cell.onLrn_plane
    | with_reducible apply cell_plane | with_reducible apply plane_foldl | dsimp only | with_reducible apply mk_planes

theorem State.writeLayer_planes {s : State} (h : Planes s0 s) (c : Nat) (v : LayerEnv) (o : LayerOut) :
    Planes s0 (State.writeLayer s c v o) := by
  unfold State.writeLayer
  repeat' first
    | with_reducible assumption | intro _ | with_reducible apply State.putElems_planes | with_reducible apply ite_planes
    | with_reducible apply foldl_planes | with_reducible apply foldl_fst_planes | dsimp only | split | with_reducible apply mk_planes

theorem State.broadcastLayer_planes {s : State} (h : Planes s0 s) (c : Nat) (v : LayerEnv) (ver : BitVec 16) :
    Planes s0 (State.broadcastLayer s c v ver) := by
  unfold State.broadcastLayer
  repeat' first
    | with_reducible assumption | intro _ | with_reducible apply State.sendTile_planes | with_reducible apply ite_planes
    | with_reducible apply foldl_planes | with_reducible apply foldl_fst_planes | dsimp only | split
    | refine fst_planes (by with_reducible assumption) ?_ | refine snd_planes (by with_reducible assumption) ?_
    | with_reducible apply mk_planes

theorem State.applyLayer_planes {s : State} (h : Planes s0 s) (c : Nat) (faults : List PassFault) (ver : BitVec 16) (x : Named) :
    Planes s0 (State.applyLayer s c faults ver x) := by
  unfold State.applyLayer
  repeat' first
    | with_reducible assumption | intro _ | with_reducible apply State.holdLayers_planes | with_reducible apply State.addEntry_planes
    | with_reducible apply State.ratioEvent_planes | with_reducible apply State.trapRecord_planes
    | with_reducible apply State.writeLayer_planes | with_reducible apply State.broadcastLayer_planes | with_reducible apply ite_planes
    | dsimp only | split | refine fst_planes (by with_reducible assumption) ?_ | refine snd_planes (by with_reducible assumption) ?_
    | with_reducible apply mk_planes

theorem State.passFault_planes {s : State} (h : Planes s0 s) (c : Nat) (tenant : Nat) (f : PassFault) :
    Planes s0 (State.passFault s c tenant f) := by
  unfold State.passFault
  repeat' first
    | with_reducible assumption | intro _ | with_reducible apply State.err_planes | with_reducible apply State.onCell_planes
    | with_reducible apply ite_planes | with_reducible apply cell_plane | dsimp only | split
    | refine fst_planes (by with_reducible assumption) ?_ | refine snd_planes (by with_reducible assumption) ?_
    | with_reducible apply mk_planes

theorem State.applyAll_planes {s : State} (h : Planes s0 s) (c : Nat) (tenant : Nat) (faults : List PassFault) :
    Planes s0 (State.applyAll s c tenant faults) := by
  unfold State.applyAll
  repeat' first
    | with_reducible assumption | intro _ | with_reducible apply State.passFault_planes | with_reducible apply State.applyLayer_planes
    | with_reducible apply State.takeSnapshot_planes | with_reducible apply State.onCell_planes | with_reducible apply foldl_planes
    | with_reducible apply foldl_fst_planes | with_reducible apply Cell.onLrn_plane | with_reducible apply cell_plane
    | with_reducible apply plane_foldl | dsimp only | with_reducible apply mk_planes

theorem State.doubtVoids_planes {s : State} (h : Planes s0 s) (c : Nat) (codes : List Nat) (inside : Nat → Nat → Bool) :
    Planes s0 (State.doubtVoids s c codes inside) := by
  unfold State.doubtVoids
  repeat' first
    | with_reducible assumption | intro _ | with_reducible apply State.sendVoid_planes | with_reducible apply ite_planes
    | with_reducible apply foldl_planes | with_reducible apply foldl_fst_planes | dsimp only | split | with_reducible apply mk_planes

theorem Cell.enterC4_plane {pl : Option Figure × Bool} {k : Cell} (h : k.fig.plane = pl)  : (Cell.enterC4 k).fig.plane = pl := by
  unfold Cell.enterC4
  repeat' first
    | with_reducible assumption | intro _
    | dsimp only | with_reducible apply plane_mk

theorem State.rest_planes {s : State} (h : Planes s0 s) (c : Nat) : Planes s0 (State.rest s c) := by
  unfold State.rest
  repeat' first
    | with_reducible assumption | intro _ | with_reducible apply State.setCell_planes | with_reducible apply ite_planes
    | with_reducible apply Cell.enterC4_plane | with_reducible apply cell_plane | dsimp only | split | with_reducible apply mk_planes

theorem State.recordWait_planes {s : State} (h : Planes s0 s) (t : Nat) : Planes s0 (State.recordWait s t) := by
  unfold State.recordWait
  repeat' first
    | with_reducible assumption | intro _ | with_reducible apply State.onCell_planes | with_reducible apply State.coordinate_planes
    | with_reducible apply State.err_planes | with_reducible apply ite_planes | with_reducible apply foldl_planes
    | with_reducible apply foldl_fst_planes | with_reducible apply Cell.onLrn_plane | with_reducible apply cell_plane
    | with_reducible apply plane_foldl | dsimp only | split | with_reducible apply mk_planes

theorem State.openStep_planes {s : State} (h : Planes s0 s) (t : Nat) : Planes s0 (State.openStep s t) := by
  unfold State.openStep
  repeat' first
    | with_reducible assumption | intro _ | with_reducible apply State.onCoord_planes | with_reducible apply State.onCell_planes
    | with_reducible apply ite_planes | with_reducible apply foldl_planes | with_reducible apply foldl_fst_planes
    | with_reducible apply Cell.onLrn_plane | with_reducible apply cell_plane | with_reducible apply plane_foldl | dsimp only | split
    | with_reducible apply mk_planes

theorem State.learnRecord_planes {s : State} (h : Planes s0 s) (t : Nat) (code : Nat) (rec1 : Nat) (l : List RepEntry) :
    Planes s0 (State.learnRecord s t code rec1 l) := by
  unfold State.learnRecord
  repeat' first
    | with_reducible assumption | intro _ | with_reducible apply State.onCoord_planes | with_reducible apply State.queueRec_planes
    | with_reducible apply State.mail_planes | dsimp only | with_reducible apply mk_planes

theorem State.ratioRecord_planes {s : State} (h : Planes s0 s) (t : Nat) : Planes s0 (State.ratioRecord s t) := by
  unfold State.ratioRecord
  repeat' first
    | with_reducible assumption | intro _ | with_reducible apply State.learnRecord_planes | dsimp only | with_reducible apply mk_planes

theorem State.sealSend_planes {s : State} (h : Planes s0 s) (c : Nat) (t : Nat) (body : Nat) (l : List RepEntry) :
    Planes s0 (State.sealSend s c t body l) := by
  unfold State.sealSend
  repeat' first
    | with_reducible assumption | intro _ | with_reducible apply State.send_planes | dsimp only | with_reducible apply mk_planes

theorem State.reportFrames_planes {s : State} (h : Planes s0 s) (n c t : Nat) (r : Report) (l : List RepEntry) :
    Planes s0 (State.reportFrames n s c t r l) := by
  induction n generalizing s l with
  | zero => exact h
  | succ n ih =>
    unfold State.reportFrames
    dsimp only
    split
    · exact State.sealSend_planes h ..
    · exact ih (State.sealSend_planes h ..) _

theorem State.fixCell_planes {s : State} (h : Planes s0 s) (t : Nat) (c : Nat) : Planes s0 (State.fixCell s t c) := by
  unfold State.fixCell
  repeat' first
    | with_reducible assumption | intro _ | with_reducible apply State.onCell_planes | with_reducible apply ite_planes
    | with_reducible apply cell_plane | dsimp only | split | with_reducible apply mk_planes

theorem State.fixScales_planes {s : State} (h : Planes s0 s) (t : Nat) : Planes s0 (State.fixScales s t) := by
  unfold State.fixScales
  repeat' first
    | with_reducible assumption | intro _ | with_reducible apply State.fixCell_planes | with_reducible apply foldl_planes
    | with_reducible apply foldl_fst_planes | with_reducible apply cell_plane | with_reducible apply plane_foldl | dsimp only
    | with_reducible apply mk_planes

theorem State.gatherEntries_planes {s : State} (h : Planes s0 s) (t : Nat) : Planes s0 (State.gatherEntries s t) := by
  unfold State.gatherEntries
  repeat' first
    | with_reducible assumption | intro _ | with_reducible apply State.onCoord_planes | dsimp only | with_reducible apply mk_planes

theorem State.scanEntries_planes {s : State} (h : Planes s0 s) (c : Nat) (t : Nat) : Planes s0 (State.scanEntries s c t) := by
  unfold State.scanEntries
  repeat' first
    | with_reducible assumption | intro _ | with_reducible apply State.addEntry_planes | with_reducible apply ite_planes
    | with_reducible apply foldl_planes | with_reducible apply foldl_fst_planes | dsimp only | split
    | refine fst_planes (by with_reducible assumption) ?_ | refine snd_planes (by with_reducible assumption) ?_
    | with_reducible apply mk_planes

theorem State.report_planes {s : State} (h : Planes s0 s) (c : Nat) (t : Nat) : Planes s0 (State.report s c t) := by
  unfold State.report
  repeat' first
    | with_reducible assumption | intro _ | with_reducible apply State.doubtVoids_planes | with_reducible apply State.scanEntries_planes
    | with_reducible apply State.fixCell_planes | with_reducible apply State.onCell_planes | with_reducible apply State.onCoord_planes
    | with_reducible apply State.reportFrames_planes | with_reducible apply State.fixScales_planes
    | with_reducible apply State.gatherEntries_planes | with_reducible apply State.ratioRecord_planes | with_reducible apply ite_planes
    | with_reducible apply Cell.onLrn_plane | with_reducible apply cell_plane | dsimp only | split | with_reducible apply mk_planes

theorem Cell.takeDecision_plane {pl : Option Figure × Bool} {k : Cell} (h : k.fig.plane = pl) (t : Nat) (d : Bool × Nat) (time : Nat) (scales : List (Nat × Int)) :
    (Cell.takeDecision k t d time scales).fig.plane = pl := by
  unfold Cell.takeDecision
  repeat' first
    | with_reducible assumption | intro _ | with_reducible apply Cell.onLrn_plane | dsimp only

theorem State.spread_planes {s : State} (h : Planes s0 s) (t : Nat) (d : Bool × Nat) : Planes s0 (State.spread s t d) := by
  unfold State.spread
  repeat' first
    | with_reducible assumption | intro _ | with_reducible apply State.fixScales_planes | with_reducible apply State.err_planes
    | with_reducible apply State.onCoord_planes | with_reducible apply State.onCell_planes | with_reducible apply ite_planes
    | with_reducible apply foldl_planes | with_reducible apply foldl_fst_planes | with_reducible apply Cell.takeDecision_plane
    | with_reducible apply cell_plane | with_reducible apply plane_foldl | dsimp only | split | with_reducible apply mk_planes

theorem State.takeLoss_planes {s : State} (h : Planes s0 s) (c : Nat) (t : Nat) : Planes s0 (State.takeLoss s c t) := by
  unfold State.takeLoss
  repeat' first
    | with_reducible assumption | intro _ | with_reducible apply State.fixCell_planes | with_reducible apply State.onCell_planes
    | with_reducible apply ite_planes | with_reducible apply Cell.takeDecision_plane | with_reducible apply cell_plane | dsimp only | split
    | refine fst_planes (by with_reducible assumption) ?_ | refine snd_planes (by with_reducible assumption) ?_
    | with_reducible apply mk_planes

theorem State.loseStep_planes {s : State} (h : Planes s0 s) (t : Nat) : Planes s0 (State.loseStep s t) := by
  unfold State.loseStep
  repeat' first
    | with_reducible assumption | intro _ | with_reducible apply State.err_planes | with_reducible apply State.onCoord_planes
    | with_reducible apply State.takeLoss_planes | with_reducible apply ite_planes | with_reducible apply foldl_planes
    | with_reducible apply foldl_fst_planes | dsimp only | split | with_reducible apply mk_planes

theorem State.doAnswer_planes {s : State} (h : Planes s0 s) (c : Nat) (src : Source) (e : Entry) :
    Planes s0 (State.doAnswer s c src e) := by
  unfold State.doAnswer
  repeat' first
    | with_reducible assumption | intro _ | with_reducible apply State.complete_planes | with_reducible apply State.onCoord_planes
    | with_reducible apply State.err_planes | with_reducible apply ite_planes | dsimp only | split | with_reducible apply mk_planes

theorem Cell.tagWeights_plane {pl : Option Figure × Bool} {k : Cell} (h : k.fig.plane = pl) (t : Nat) (ver : BitVec 16) :
    (Cell.tagWeights k t ver).fig.plane = pl := by
  unfold Cell.tagWeights
  repeat' first
    | with_reducible assumption | intro _
    | dsimp only | split

theorem State.voidRecords_planes {s : State} (h : Planes s0 s) (c : Nat) (t : Nat) (l : List Nat) :
    Planes s0 (State.voidRecords s c t l) := by
  unfold State.voidRecords
  repeat' first
    | with_reducible assumption | intro _ | with_reducible apply State.err_planes | with_reducible apply foldl_planes
    | with_reducible apply foldl_fst_planes | dsimp only | with_reducible apply mk_planes

theorem Cell.sealLearn_plane {pl : Option Figure × Bool} {k : Cell} (h : k.fig.plane = pl) (t : Nat) (commit : Bool) (now : Nat) :
    (Cell.sealLearn k t commit now).fig.plane = pl := by
  unfold Cell.sealLearn
  repeat' first
    | with_reducible assumption | intro _ | with_reducible apply Cell.tierSeal_plane | with_reducible apply Cell.onRun_plane
    | with_reducible apply Cell.tagWeights_plane | with_reducible apply Cell.onVer_plane | with_reducible apply Cell.onLrn_plane
    | with_reducible apply Cell.endSums_plane | with_reducible apply plane_foldl | dsimp only | split

theorem Cell.endStepFor_plane {pl : Option Figure × Bool} {k : Cell} (h : k.fig.plane = pl) (ran : List Nat) :
    (Cell.endStepFor k ran).fig.plane = pl := by
  unfold Cell.endStepFor
  repeat' first
    | with_reducible assumption | intro _ | with_reducible apply Cell.tierSeal_plane | with_reducible apply plane_foldl | dsimp only

theorem Cell.endLearn_plane {pl : Option Figure × Bool} {k : Cell} (h : k.fig.plane = pl)  : (Cell.endLearn k).fig.plane = pl := by
  unfold Cell.endLearn
  repeat' first
    | with_reducible assumption | intro _ | with_reducible apply Cell.endStepFor_plane | dsimp only

theorem State.endLearnStep_planes {s : State} (h : Planes s0 s) (c : Nat) : Planes s0 (State.endLearnStep s c) := by
  unfold State.endLearnStep
  repeat' first
    | with_reducible assumption | intro _ | with_reducible apply State.onCell_planes | with_reducible apply State.boundary_planes
    | with_reducible apply State.rest_planes | with_reducible apply ite_planes | with_reducible apply Cell.endLearn_plane
    | with_reducible apply cell_plane | dsimp only | split | with_reducible apply mk_planes

theorem State.writeSeal_planes {s : State} (h : Planes s0 s) (t : Nat) : Planes s0 (State.writeSeal s t) := by
  unfold State.writeSeal
  repeat' first
    | with_reducible assumption | intro _ | with_reducible apply State.learnRecord_planes | with_reducible apply State.onCoord_planes
    | with_reducible apply State.onCell_planes | with_reducible apply ite_planes | with_reducible apply foldl_planes
    | with_reducible apply foldl_fst_planes | with_reducible apply Cell.onLrn_plane | with_reducible apply cell_plane
    | with_reducible apply plane_foldl | dsimp only | split | with_reducible apply mk_planes

theorem State.sealRecord_planes {s : State} (h : Planes s0 s) (t : Nat) : Planes s0 (State.sealRecord s t) := by
  unfold State.sealRecord
  repeat' first
    | with_reducible assumption | intro _ | with_reducible apply State.endLearnStep_planes | with_reducible apply State.writeSeal_planes
    | with_reducible apply foldl_planes | with_reducible apply foldl_fst_planes | dsimp only | with_reducible apply mk_planes

theorem Cell.standCounters_plane {pl : Option Figure × Bool} {k : Cell} (h : k.fig.plane = pl) (t : Nat) :
    (Cell.standCounters k t).fig.plane = pl := by
  unfold Cell.standCounters
  repeat' first
    | with_reducible assumption | intro _ | dsimp only | split

theorem State.sealDone_planes {s : State} (h : Planes s0 s) (c : Nat) (t : Nat) : Planes s0 (State.sealDone s c t) := by
  unfold State.sealDone
  repeat' first
    | with_reducible assumption | intro _ | with_reducible apply State.voidRecords_planes | with_reducible apply State.onCell_planes
    | with_reducible apply State.takeSnapshot_planes | with_reducible apply State.gatherEntries_planes
    | with_reducible apply State.onCoord_planes | with_reducible apply State.complete_planes | with_reducible apply State.sealSend_planes
    | with_reducible apply State.sealRecord_planes | with_reducible apply ite_planes | with_reducible apply Cell.standCounters_plane
    | with_reducible apply Cell.sealLearn_plane | with_reducible apply cell_plane | dsimp only | split | with_reducible apply mk_planes

theorem State.takeSeal_planes {s : State} (h : Planes s0 s) (c : Nat) (x : Frame) : Planes s0 (State.takeSeal s c x) := by
  unfold State.takeSeal
  repeat' first
    | with_reducible assumption | intro _ | with_reducible apply State.complete_planes | with_reducible apply State.onCoord_planes
    | with_reducible apply State.onCell_planes | with_reducible apply ite_planes | with_reducible apply Cell.takeDecision_plane
    | with_reducible apply cell_plane | dsimp only | split | with_reducible apply mk_planes

end Sys2Proof.Machine
end

