-- ==== Sys2Proof/Laws/PlanesSteps.lean ====
section
/-!
SUPPORT. What leaves the active figure and plane select of every cell alone (Planes): the steps and their figures.
-/

namespace Sys2Proof.Machine

variable {s0 s : State}

theorem State.onCells_planes {s : State} (h : Planes s0 s) (g : List Nat) (f : Cell → Cell) (hf : ∀ (k : Cell) (pl : Option Figure × Bool), k.fig.plane = pl → (f k).fig.plane = pl) :
    Planes s0 (State.onCells s g f) := by
  unfold State.onCells
  repeat' first
    | with_reducible assumption | intro _ | with_reducible apply hf | with_reducible apply State.onCell_planes
    | with_reducible apply foldl_planes | with_reducible apply foldl_fst_planes | with_reducible apply cell_plane
    | with_reducible apply plane_foldl | dsimp only | with_reducible apply mk_planes

theorem State.doSetup_planes {s : State} (h : Planes s0 s) (c : Nat) (src : Source) (e : Entry) : Planes s0 (State.doSetup s c src e) := by
  unfold State.doSetup
  repeat' first
    | with_reducible assumption | intro _ | with_reducible apply State.complete_planes | with_reducible apply State.setCell_planes
    | with_reducible apply ite_planes | with_reducible apply cell_plane | dsimp only | split | with_reducible apply mk_planes

theorem State.refuse_planes {s : State} (h : Planes s0 s) (c : Nat) (p : PendReq) (code : Nat) (bound : Nat) :
    Planes s0 (State.refuse s c p code bound) := by
  unfold State.refuse
  repeat' first
    | with_reducible assumption | intro _ | with_reducible apply State.recordTo_planes | dsimp only | with_reducible apply mk_planes

theorem State.doRequest_planes {s : State} (h : Planes s0 s) (c : Nat) (src : Source) (e : Entry) :
    Planes s0 (State.doRequest s c src e) := by
  unfold State.doRequest
  repeat' first
    | with_reducible assumption | intro _ | with_reducible apply State.refuse_planes | with_reducible apply State.setCell_planes
    | with_reducible apply ite_planes | with_reducible apply cell_plane | dsimp only | split | with_reducible apply mk_planes

theorem State.unqueue_planes {s : State} (h : Planes s0 s) (c : Nat) (p : PendReq) : Planes s0 (State.unqueue s c p) := by
  unfold State.unqueue
  repeat' first
    | with_reducible assumption | intro _ | with_reducible apply State.onCell_planes | with_reducible apply cell_plane | dsimp only
    | with_reducible apply mk_planes

theorem State.setDeficit_planes {s : State} (h : Planes s0 s) (c : Nat) (t : Nat) (q : Nat) (v : Nat) :
    Planes s0 (State.setDeficit s c t q v) := by
  unfold State.setDeficit
  repeat' first
    | with_reducible assumption | intro _ | with_reducible apply State.onCell_planes | with_reducible apply cell_plane | dsimp only
    | with_reducible apply mk_planes

theorem State.pokeGroup_planes {s : State} (h : Planes s0 s) (g : List Nat) (t : Nat) (which : Setup → BitVec 24) (word : Nat) (ws : List Nat) :
    Planes s0 (State.pokeGroup s g t which word ws) := by
  unfold State.pokeGroup
  repeat' first
    | with_reducible assumption | intro _ | with_reducible apply State.pokeWords_planes | with_reducible apply foldl_planes
    | with_reducible apply foldl_fst_planes | dsimp only | split | refine fst_planes (by with_reducible assumption) ?_
    | refine snd_planes (by with_reducible assumption) ?_ | with_reducible apply mk_planes

theorem State.takeOn_planes {s : State} (h : Planes s0 s) (c : Nat) (p : PendReq) (i : Nat) (first : Nat) :
    Planes s0 (State.takeOn s c p i first) := by
  unfold State.takeOn
  repeat' first
    | with_reducible assumption | intro _ | with_reducible apply State.onCell_planes | with_reducible apply State.pokeGroup_planes
    | with_reducible apply foldl_planes | with_reducible apply foldl_fst_planes | with_reducible apply Cell.onEntry_plane
    | with_reducible apply Cell.onVer_plane | with_reducible apply cell_plane | with_reducible apply plane_foldl | dsimp only
    | with_reducible apply mk_planes

theorem State.testHead_planes {s : State} (h : Planes s0 s) (c : Nat) (t : Nat) (q : Nat) (p : PendReq) :
    Planes s0 (State.testHead s c t q p).1 := by
  unfold State.testHead
  repeat' first
    | with_reducible assumption | intro _ | with_reducible apply State.onCell_planes | with_reducible apply State.refuse_planes
    | with_reducible apply State.unqueue_planes | with_reducible apply State.takeOn_planes | with_reducible apply State.setDeficit_planes
    | with_reducible apply ite_planes | with_reducible apply ite_fst_planes | with_reducible apply Cell.onVer_plane
    | with_reducible apply cell_plane | dsimp only | split | refine fst_planes (by with_reducible assumption) ?_
    | refine snd_planes (by with_reducible assumption) ?_ | with_reducible apply mk_planes

theorem State.serveHeads_planes {s : State} (h : Planes s0 s) (n c t q : Nat) : Planes s0 (State.serveHeads n s c t q) := by
  induction n generalizing s with
  | zero => exact h
  | succ n ih =>
    unfold State.serveHeads
    split
    · exact h
    · split
      · exact h
      · have k := State.testHead_planes h c t q ‹PendReq›
        dsimp only
        split
        · exact ih k
        · exact k

theorem State.serveQueue_planes {s : State} (h : Planes s0 s) (c : Nat) (quantum : Nat) (weight : Nat) (t : Nat) (q : Nat) :
    Planes s0 (State.serveQueue s c quantum weight t q) := by
  unfold State.serveQueue
  repeat' first
    | with_reducible assumption | intro _ | with_reducible apply State.setDeficit_planes | with_reducible apply State.serveHeads_planes
    | with_reducible apply ite_planes | dsimp only | split | with_reducible apply mk_planes

theorem State.dropClosed_planes {s : State} (h : Planes s0 s) (c : Nat) : Planes s0 (State.dropClosed s c) := by
  unfold State.dropClosed
  repeat' first
    | with_reducible assumption | intro _ | with_reducible apply State.refuse_planes | with_reducible apply State.unqueue_planes
    | with_reducible apply ite_planes | with_reducible apply foldl_planes | with_reducible apply foldl_fst_planes | dsimp only | split
    | with_reducible apply mk_planes

theorem State.serviceRound_planes {s : State} (h : Planes s0 s) (c : Nat) : Planes s0 (State.serviceRound s c) := by
  unfold State.serviceRound
  repeat' first
    | with_reducible assumption | intro _ | with_reducible apply State.serveQueue_planes | with_reducible apply State.dropClosed_planes
    | with_reducible apply ite_planes | with_reducible apply foldl_planes | with_reducible apply foldl_fst_planes | dsimp only | split
    | refine fst_planes (by with_reducible assumption) ?_ | refine snd_planes (by with_reducible assumption) ?_
    | with_reducible apply mk_planes

theorem State.renewMail_planes {s : State} (h : Planes s0 s) (c : Nat) : Planes s0 (State.renewMail s c) := by
  unfold State.renewMail
  repeat' first
    | with_reducible assumption | intro _ | with_reducible apply State.onCell_planes | with_reducible apply State.send_planes
    | with_reducible apply ite_planes | with_reducible apply cell_plane | dsimp only | split | with_reducible apply mk_planes

theorem State.doCancel_planes {s : State} (h : Planes s0 s) (c : Nat) (src : Source) (e : Entry) :
    Planes s0 (State.doCancel s c src e) := by
  unfold State.doCancel
  repeat' first
    | with_reducible assumption | intro _ | with_reducible apply State.complete_planes | with_reducible apply State.refuse_planes
    | with_reducible apply State.unqueue_planes | with_reducible apply State.onCell_planes | with_reducible apply ite_planes
    | with_reducible apply foldl_planes | with_reducible apply foldl_fst_planes | with_reducible apply Cell.onEntry_plane
    | with_reducible apply cell_plane | with_reducible apply plane_foldl | dsimp only | split | with_reducible apply mk_planes

theorem State.freeEntries_planes {s : State} (h : Planes s0 s) (g : List Nat) (i : Nat) : Planes s0 (State.freeEntries s g i) := by
  unfold State.freeEntries
  repeat' first
    | with_reducible assumption | intro _ | with_reducible apply State.onCell_planes | with_reducible apply foldl_planes
    | with_reducible apply foldl_fst_planes | with_reducible apply Cell.onEntry_plane | with_reducible apply Cell.onVer_plane
    | with_reducible apply cell_plane | with_reducible apply plane_foldl | dsimp only | with_reducible apply mk_planes

theorem State.writeStepList_planes {s : State} (h : Planes s0 s) (c : Nat) (rows : List StepRow) (t : Nat) :
    Planes s0 (State.writeStepList s c rows t) := by
  unfold State.writeStepList
  repeat' first
    | with_reducible assumption | intro _ | with_reducible apply State.poke_planes | with_reducible apply foldl_planes
    | with_reducible apply foldl_fst_planes | dsimp only | split | refine fst_planes (by with_reducible assumption) ?_
    | refine snd_planes (by with_reducible assumption) ?_ | with_reducible apply mk_planes

theorem State.writePosition_planes {s : State} (h : Planes s0 s) (c : Nat) (r : StepRow) : Planes s0 (State.writePosition s c r) := by
  unfold State.writePosition
  repeat' first
    | with_reducible assumption | intro _ | with_reducible apply State.pokeGroup_planes | dsimp only | with_reducible apply mk_planes

theorem State.zeroSet_planes {s : State} (h : Planes s0 s) (m : Nat) (t : Nat) (u : Setup) (set : Nat) :
    Planes s0 (State.zeroSet s m t u set) := by
  unfold State.zeroSet
  repeat' first
    | with_reducible assumption | intro _ | with_reducible apply State.fillTile_planes | with_reducible apply foldl_planes
    | with_reducible apply foldl_fst_planes | dsimp only | with_reducible apply mk_planes

theorem State.takePageTile_planes {s : State} (h : Planes s0 s) (m : Nat) (i : Nat) (u : Setup) :
    Planes s0 (State.takePageTile s m i u) := by
  unfold State.takePageTile
  repeat' first
    | with_reducible assumption | intro _ | with_reducible apply State.fillTile_planes | with_reducible apply State.pokeWords_planes
    | with_reducible apply State.onCell_planes | with_reducible apply Cell.onEntry_plane | with_reducible apply cell_plane | dsimp only | split
    | refine fst_planes (by with_reducible assumption) ?_ | refine snd_planes (by with_reducible assumption) ?_
    | with_reducible apply mk_planes

theorem State.takePageSet_planes {s : State} (h : Planes s0 s) (m : Nat) (i : Nat) (u : Setup) : Planes s0 (State.takePageSet s m i u) := by
  unfold State.takePageSet
  repeat' first
    | with_reducible assumption | intro _ | with_reducible apply State.takePageTile_planes | with_reducible apply State.zeroSet_planes
    | with_reducible apply State.pokeWords_planes | with_reducible apply State.onCell_planes | with_reducible apply ite_planes
    | with_reducible apply Cell.onEntry_plane | with_reducible apply cell_plane | dsimp only | split | with_reducible apply mk_planes

theorem State.takePages_planes {s : State} (h : Planes s0 s) (n m i : Nat) (u : Setup) : Planes s0 (State.takePages n s m i u) := by
  induction n generalizing s with
  | zero => exact h
  | succ n ih => exact ih (State.takePageSet_planes h ..)

theorem State.pagesFor_planes {s : State} (h : Planes s0 s) (m : Nat) (r : StepRow) : Planes s0 (State.pagesFor s m r) := by
  unfold State.pagesFor
  repeat' first
    | with_reducible assumption | intro _ | with_reducible apply State.takePages_planes | dsimp only | split
    | refine fst_planes (by with_reducible assumption) ?_ | refine snd_planes (by with_reducible assumption) ?_
    | with_reducible apply mk_planes

theorem State.releaseOne_planes {s : State} (h : Planes s0 s) (c : Nat) (i : Nat) : Planes s0 (State.releaseOne s c i) := by
  unfold State.releaseOne
  repeat' first
    | with_reducible assumption | intro _ | with_reducible apply State.onCell_planes | with_reducible apply State.onCells_planes
    | with_reducible apply State.rest_planes | with_reducible apply ite_planes | with_reducible apply Cell.onEntry_plane
    | with_reducible apply cell_plane | dsimp only | split | refine fst_planes (by with_reducible assumption) ?_
    | refine snd_planes (by with_reducible assumption) ?_ | with_reducible apply mk_planes

theorem State.holdRequests_planes {s : State} (h : Planes s0 s) (c : Nat) : Planes s0 (State.holdRequests s c) := by
  unfold State.holdRequests
  repeat' first
    | with_reducible assumption | intro _ | with_reducible apply State.onCells_planes | with_reducible apply State.releaseOne_planes
    | with_reducible apply ite_planes | with_reducible apply foldl_planes | with_reducible apply foldl_fst_planes
    | with_reducible apply Cell.onEntry_plane | with_reducible apply cell_plane | with_reducible apply plane_foldl | dsimp only | split
    | with_reducible apply mk_planes

theorem State.layStep_planes {s : State} (h : Planes s0 s) (c : Nat) (rows : List StepRow) : Planes s0 (State.layStep s c rows) := by
  unfold State.layStep
  repeat' first
    | with_reducible assumption | intro _ | with_reducible apply State.onCell_planes | with_reducible apply State.pagesFor_planes
    | with_reducible apply State.writeStepList_planes | with_reducible apply State.writePosition_planes | with_reducible apply ite_planes
    | with_reducible apply foldl_planes | with_reducible apply foldl_fst_planes | with_reducible apply Cell.onEntry_plane
    | with_reducible apply cell_plane | with_reducible apply plane_foldl | dsimp only | split | with_reducible apply mk_planes

theorem State.deliver_planes {s : State} (h : Planes s0 s) (c : Nat) (e : ReqEntry) (k0 : Nat) (toks : List (BitVec 32)) :
    Planes s0 (State.deliver s c e k0 toks) := by
  unfold State.deliver
  repeat' first
    | with_reducible assumption | intro _ | with_reducible apply State.emit_planes | with_reducible apply State.sendTile_planes
    | with_reducible apply State.pokeWords_planes | with_reducible apply ite_planes | with_reducible apply foldl_planes
    | with_reducible apply foldl_fst_planes | dsimp only | split | refine fst_planes (by with_reducible assumption) ?_
    | refine snd_planes (by with_reducible assumption) ?_ | with_reducible apply mk_planes

theorem State.copyPrompt_planes {s : State} (h : Planes s0 s) (c : Nat) (e : ReqEntry) : Planes s0 (State.copyPrompt s c e) := by
  unfold State.copyPrompt
  repeat' first
    | with_reducible assumption | intro _ | with_reducible apply State.poke_planes | dsimp only | split
    | refine fst_planes (by with_reducible assumption) ?_ | refine snd_planes (by with_reducible assumption) ?_
    | with_reducible apply mk_planes

theorem State.endRecord_planes {s : State} (h : Planes s0 s) (c : Nat) (i : Nat) (e : ReqEntry) (rec1 : Nat) :
    Planes s0 (State.endRecord s c i e rec1) := by
  unfold State.endRecord
  repeat' first
    | with_reducible assumption | intro _ | with_reducible apply State.mail_planes | with_reducible apply State.queueRec_planes
    | with_reducible apply State.poke_planes | with_reducible apply ite_planes | dsimp only | split
    | refine fst_planes (by with_reducible assumption) ?_ | refine snd_planes (by with_reducible assumption) ?_
    | with_reducible apply mk_planes

theorem State.endRequest_planes {s : State} (h : Planes s0 s) (c : Nat) (i : Nat) (code : Nat) (causes : List Nat) :
    Planes s0 (State.endRequest s c i code causes) := by
  unfold State.endRequest
  repeat' first
    | with_reducible assumption | intro _ | with_reducible apply State.err_planes | with_reducible apply State.onCell_planes
    | with_reducible apply State.endRecord_planes | with_reducible apply ite_planes | with_reducible apply foldl_planes
    | with_reducible apply foldl_fst_planes | with_reducible apply Cell.onEntry_plane | with_reducible apply cell_plane
    | with_reducible apply plane_foldl | dsimp only | split | with_reducible apply mk_planes

theorem State.commitRow_planes {s : State} (h : Planes s0 s) (c : Nat) (i : Nat) (r : StepRow) (x : Found) :
    Planes s0 (State.commitRow s c i r x) := by
  unfold State.commitRow
  repeat' first
    | with_reducible assumption | intro _ | with_reducible apply State.deliver_planes | with_reducible apply State.copyPrompt_planes
    | with_reducible apply State.onCells_planes | with_reducible apply ite_planes | with_reducible apply Cell.onEntry_plane
    | with_reducible apply cell_plane | dsimp only | split | with_reducible apply mk_planes

theorem State.sealEntry_planes {s : State} (h : Planes s0 s) (c : Nat) (i : Nat) (x : Found) : Planes s0 (State.sealEntry s c i x) := by
  unfold State.sealEntry
  repeat' first
    | with_reducible assumption | intro _ | with_reducible apply State.endRequest_planes | with_reducible apply State.commitRow_planes
    | with_reducible apply ite_planes | dsimp only | split | refine fst_planes (by with_reducible assumption) ?_
    | refine snd_planes (by with_reducible assumption) ?_ | with_reducible apply mk_planes

theorem State.doubtFrames_planes {s : State} (h : Planes s0 s) (g : List Nat) : Planes s0 (State.doubtFrames s g) := by
  unfold State.doubtFrames
  repeat' first
    | with_reducible assumption | intro _ | with_reducible apply State.doubtVoids_planes | with_reducible apply foldl_planes
    | with_reducible apply foldl_fst_planes | dsimp only | with_reducible apply mk_planes

theorem Cell.endStep_plane {pl : Option Figure × Bool} {k : Cell} (h : k.fig.plane = pl) (ran : List (Nat × Bool)) :
    (Cell.endStep k ran).fig.plane = pl := by
  unfold Cell.endStep
  repeat' first
    | with_reducible assumption | intro _ | with_reducible apply Cell.tierSeal_plane | with_reducible apply Cell.endSums_plane
    | with_reducible apply Cell.onRun_plane | with_reducible apply Cell.endStepFor_plane | with_reducible apply plane_foldl | dsimp only

theorem State.sealRequests_planes {s : State} (h : Planes s0 s) (c : Nat) : Planes s0 (State.sealRequests s c) := by
  unfold State.sealRequests
  repeat' first
    | with_reducible assumption | intro _ | with_reducible apply State.sealEntry_planes | with_reducible apply foldl_planes
    | with_reducible apply foldl_fst_planes | dsimp only | with_reducible apply mk_planes

theorem State.groupBoundary_planes {s : State} (h : Planes s0 s) (g : List Nat) : Planes s0 (State.groupBoundary s g) := by
  unfold State.groupBoundary
  repeat' first
    | with_reducible assumption | intro _ | with_reducible apply State.rest_planes | with_reducible apply State.boundary_planes
    | with_reducible apply foldl_planes | with_reducible apply foldl_fst_planes | dsimp only | with_reducible apply mk_planes

theorem State.sealGen_planes {s : State} (h : Planes s0 s) (c : Nat) : Planes s0 (State.sealGen s c) := by
  unfold State.sealGen
  repeat' first
    | with_reducible assumption | intro _ | with_reducible apply State.doubtFrames_planes | with_reducible apply State.sealRequests_planes
    | with_reducible apply State.onCells_planes | with_reducible apply State.groupBoundary_planes | with_reducible apply Cell.endStep_plane
    | with_reducible apply cell_plane | dsimp only | with_reducible apply mk_planes

theorem State.emptySeal_planes {s : State} (h : Planes s0 s) (c : Nat) (tenants : List Nat) (why : Nat) :
    Planes s0 (State.emptySeal s c tenants why) := by
  unfold State.emptySeal
  repeat' first
    | with_reducible assumption | intro _ | with_reducible apply State.endRequest_planes | with_reducible apply foldl_planes
    | with_reducible apply foldl_fst_planes | dsimp only | with_reducible apply mk_planes

theorem State.longRecords_planes {s : State} (h : Planes s0 s) (c : Nat) (t : Nat) (img : Image) :
    Planes s0 (State.longRecords s c t img) := by
  unfold State.longRecords
  repeat' first
    | with_reducible assumption | intro _ | with_reducible apply State.err_planes | with_reducible apply foldl_planes
    | with_reducible apply foldl_fst_planes | dsimp only | with_reducible apply mk_planes

theorem State.doLoadImage_planes {s : State} (h : Planes s0 s) (c : Nat) (src : Source) (e : Entry) :
    Planes s0 (State.doLoadImage s c src e) := by
  unfold State.doLoadImage
  repeat' first
    | with_reducible assumption | intro _ | with_reducible apply State.complete_planes | with_reducible apply State.longRecords_planes
    | with_reducible apply State.onCell_planes | with_reducible apply State.boundarySoon_planes | with_reducible apply ite_planes
    | with_reducible apply Cell.onRun_plane | with_reducible apply cell_plane | dsimp only | split
    | refine fst_planes (by with_reducible assumption) ?_ | refine snd_planes (by with_reducible assumption) ?_
    | with_reducible apply mk_planes

theorem Cell.startCores_plane {pl : Option Figure × Bool} {k : Cell} (h : k.fig.plane = pl) (ts : List Nat) :
    (Cell.startCores k ts).fig.plane = pl := by
  unfold Cell.startCores
  repeat' first
    | with_reducible assumption | intro _ | dsimp only

theorem State.takePending_planes {s : State} (h : Planes s0 s) (c : Nat) : Planes s0 (s.takePending c) := by
  refine foldl_planes _ _ (State.onCell_planes h c (fun k _ hk => hk)) (fun x m hx => ?_)
  cases e : x.syncArrive m with
  | none => exact hx
  | some y => exact State.syncArrive_planes e hx

theorem State.startStep_planes {s : State} (h : Planes s0 s) (c : Nat) (ts : List Nat) : Planes s0 (State.startStep s c ts) := by
  unfold State.startStep
  repeat' first
    | with_reducible assumption | intro _ | with_reducible apply State.onCell_planes | with_reducible apply State.cause_planes
    | with_reducible apply State.takePending_planes | with_reducible apply ite_planes | with_reducible apply foldl_planes
    | with_reducible apply foldl_fst_planes | with_reducible apply Cell.startCores_plane | with_reducible apply Cell.release_plane
    | with_reducible apply cell_plane | with_reducible apply plane_foldl | dsimp only | split | with_reducible apply mk_planes

theorem State.beginLead_planes {s : State} (h : Planes s0 s) (c : Nat) : Planes s0 (State.beginLead s c) := by
  unfold State.beginLead
  repeat' first
    | with_reducible assumption | intro _ | with_reducible apply State.holdRequests_planes | with_reducible apply State.layStep_planes
    | with_reducible apply State.startStep_planes | with_reducible apply ite_planes | dsimp only | split | with_reducible apply mk_planes

theorem State.beginFollower_planes {s : State} (h : Planes s0 s) (c : Nat) (lead : Nat) : Planes s0 (State.beginFollower s c lead) := by
  unfold State.beginFollower
  repeat' first
    | with_reducible assumption | intro _ | with_reducible apply State.startStep_planes | with_reducible apply ite_planes | dsimp only
    | split | with_reducible apply mk_planes

theorem State.beginLearn_planes {s : State} (h : Planes s0 s) (c : Nat) : Planes s0 (State.beginLearn s c) := by
  unfold State.beginLearn
  repeat' first
    | with_reducible assumption | intro _ | with_reducible apply State.startStep_planes | with_reducible apply State.onCell_planes
    | with_reducible apply ite_planes | with_reducible apply foldl_planes | with_reducible apply foldl_fst_planes
    | with_reducible apply Cell.onLrn_plane | with_reducible apply cell_plane | with_reducible apply plane_foldl | dsimp only | split
    | with_reducible apply mk_planes

theorem State.syncSignal_planes {s : State} (h : Planes s0 s) (v : OpEnv) : Planes s0 (State.syncSignal s v) := by
  unfold State.syncSignal
  repeat' first
    | with_reducible assumption | intro _ | with_reducible apply State.sendSync_planes | with_reducible apply ite_planes | dsimp only
    | split | with_reducible apply mk_planes

theorem State.ownSignal_planes {s : State} (h : Planes s0 s) (c : Nat) (x : Ctx) (o : OpRec) : Planes s0 (State.ownSignal s c x o) := by
  unfold State.ownSignal
  repeat' first
    | with_reducible assumption | intro _ | with_reducible apply State.signalAt_planes | with_reducible apply ite_planes | dsimp only
    | split | with_reducible apply mk_planes

theorem State.syncOp_planes {s : State} (h : Planes s0 s) (v : OpEnv) : Planes s0 (State.syncOp s v) := by
  unfold State.syncOp
  repeat' first
    | with_reducible assumption | intro _ | with_reducible apply State.syncSignal_planes | with_reducible apply State.onCell_planes
    | with_reducible apply State.onCore_planes | with_reducible apply State.ownSignal_planes | with_reducible apply ite_planes
    | with_reducible apply Cell.onCore_plane | with_reducible apply cell_plane | dsimp only | split | with_reducible apply mk_planes

theorem State.giveReports_planes {s : State} (h : Planes s0 s) (c : Nat) (l : List SampleReport) : Planes s0 (State.giveReports s c l) := by
  unfold State.giveReports
  repeat' first
    | with_reducible assumption | intro _ | with_reducible apply State.onCell_planes | with_reducible apply ite_planes
    | with_reducible apply cell_plane | dsimp only | split | refine fst_planes (by with_reducible assumption) ?_
    | refine snd_planes (by with_reducible assumption) ?_ | with_reducible apply mk_planes

theorem State.finishOp_planes {s : State} (h : Planes s0 s) (c : Nat) (n : Nat) (engine : Nat) (o : EngineOp) :
    Planes s0 (State.finishOp s c n engine o) := by
  unfold State.finishOp
  repeat' first
    | with_reducible assumption | intro _ | with_reducible apply State.applyWrite_planes | with_reducible apply State.tierServed_planes
    | with_reducible apply State.onCore_planes | with_reducible apply State.onCell_planes | with_reducible apply State.ownSignal_planes
    | with_reducible apply State.giveReports_planes | with_reducible apply State.retryParts_planes | with_reducible apply ite_planes
    | with_reducible apply foldl_planes | with_reducible apply foldl_fst_planes | with_reducible apply Cell.onCore_plane
    | with_reducible apply cell_plane | with_reducible apply plane_foldl | dsimp only | split | with_reducible apply mk_planes

theorem State.watchdogRecords_planes {s : State} (h : Planes s0 s) (c : Nat) (t : Nat) : Planes s0 (State.watchdogRecords s c t) := by
  unfold State.watchdogRecords
  repeat' first
    | with_reducible assumption | intro _ | with_reducible apply State.err_planes | with_reducible apply ite_planes
    | with_reducible apply foldl_planes | with_reducible apply foldl_fst_planes | dsimp only | split | with_reducible apply mk_planes

theorem State.watchdogHomes_planes {s : State} (h : Planes s0 s) (c : Nat) : Planes s0 (State.watchdogHomes s c) := by
  unfold State.watchdogHomes
  repeat' first
    | with_reducible assumption | intro _ | with_reducible apply State.onCell_planes | with_reducible apply State.watchdogRecords_planes
    | with_reducible apply foldl_planes | with_reducible apply foldl_fst_planes | with_reducible apply Cell.onLrn_plane
    | with_reducible apply cell_plane | with_reducible apply plane_foldl | dsimp only | with_reducible apply mk_planes

theorem State.stopStep_planes {s : State} (h : Planes s0 s) (c : Nat) : Planes s0 (State.stopStep s c) := by
  unfold State.stopStep
  repeat' first
    | with_reducible assumption | intro _ | with_reducible apply State.voidWrite_planes | with_reducible apply State.onCell_planes
    | with_reducible apply foldl_planes | with_reducible apply foldl_fst_planes | with_reducible apply cell_plane
    | with_reducible apply plane_foldl | dsimp only | with_reducible apply mk_planes

theorem State.watchdogStep_planes {s : State} (h : Planes s0 s) (c : Nat) : Planes s0 (State.watchdogStep s c) := by
  unfold State.watchdogStep
  repeat' first
    | with_reducible assumption | intro _ | with_reducible apply State.cause_planes | with_reducible apply State.watchdogRecords_planes
    | with_reducible apply State.stopStep_planes | with_reducible apply ite_planes | with_reducible apply foldl_planes
    | with_reducible apply foldl_fst_planes | dsimp only | split | with_reducible apply mk_planes

theorem State.shuffleTile_planes {s : State} (h : Planes s0 s) (c : Nat) (ver : BitVec 16) (dst : TileTo) :
    Planes s0 (State.shuffleTile s c ver dst).1 := by
  unfold State.shuffleTile
  repeat' first
    | with_reducible assumption | intro _ | refine State.tierRead_planes (by with_reducible assumption) ?_
    | with_reducible apply State.sendTile_planes | dsimp only | split | refine fst_planes (by with_reducible assumption) ?_
    | refine snd_planes (by with_reducible assumption) ?_ | with_reducible apply mk_planes

theorem State.sendLayer_planes {s : State} (h : Planes s0 s) (c : Nat) (tenant : Nat) (layer : Nat) (p : PlaceRec) :
    Planes s0 (State.sendLayer s c tenant layer p) := by
  unfold State.sendLayer
  repeat' first
    | with_reducible assumption | intro _ | with_reducible apply State.err_planes | with_reducible apply State.shuffleTile_planes
    | with_reducible apply State.onCell_planes | with_reducible apply ite_planes | with_reducible apply foldl_planes
    | with_reducible apply foldl_fst_planes | with_reducible apply cell_plane | with_reducible apply plane_foldl | dsimp only | split
    | refine fst_planes (by with_reducible assumption) ?_ | refine snd_planes (by with_reducible assumption) ?_
    | with_reducible apply mk_planes

theorem State.stopShuffle_planes {s : State} (h : Planes s0 s)  : Planes s0 (State.stopShuffle s) := by
  unfold State.stopShuffle
  repeat' first
    | with_reducible assumption | intro _ | with_reducible apply State.onCell_planes | with_reducible apply ite_planes
    | with_reducible apply foldl_planes | with_reducible apply foldl_fst_planes | with_reducible apply cell_plane
    | with_reducible apply plane_foldl | dsimp only | split | with_reducible apply mk_planes

theorem State.sendHomes_planes {s : State} (h : Planes s0 s) (c : Nat) (tenant : Nat) (layers : List Nat) (copies : List PlaceRec) :
    Planes s0 (State.sendHomes s c tenant layers copies) := by
  unfold State.sendHomes
  repeat' first
    | with_reducible assumption | intro _ | with_reducible apply State.sendLayer_planes | with_reducible apply foldl_planes
    | with_reducible apply foldl_fst_planes | dsimp only | with_reducible apply mk_planes

theorem State.shuffle_planes {s : State} (h : Planes s0 s) (c : Nat) (g : Figure) : Planes s0 (State.shuffle s c g) := by
  unfold State.shuffle
  repeat' first
    | with_reducible assumption | intro _ | with_reducible apply State.sendHomes_planes | with_reducible apply foldl_planes
    | with_reducible apply foldl_fst_planes | dsimp only | with_reducible apply mk_planes

theorem State.pushLayers_planes {s : State} (h : Planes s0 s) (c : Nat) (t : Nat) : Planes s0 (State.pushLayers s c t) := by
  unfold State.pushLayers
  repeat' first
    | with_reducible assumption | intro _ | with_reducible apply State.sendHomes_planes | with_reducible apply foldl_planes
    | with_reducible apply foldl_fst_planes | dsimp only | split | refine fst_planes (by with_reducible assumption) ?_
    | refine snd_planes (by with_reducible assumption) ?_ | with_reducible apply mk_planes

theorem State.doVersion_planes {s : State} (h : Planes s0 s) (c : Nat) (src : Source) (e : Entry) :
    Planes s0 (State.doVersion s c src e) := by
  unfold State.doVersion
  repeat' first
    | with_reducible assumption | intro _ | with_reducible apply State.complete_planes | with_reducible apply State.onCells_planes
    | with_reducible apply State.pushLayers_planes | with_reducible apply ite_planes | with_reducible apply Cell.onVer_plane
    | with_reducible apply cell_plane | dsimp only | split | with_reducible apply mk_planes

theorem State.stalePush_planes {s : State} (h : Planes s0 s) (c : Nat) (t : Nat) (p : Push) : Planes s0 (State.stalePush s c t p) := by
  unfold State.stalePush
  repeat' first
    | with_reducible assumption | intro _ | with_reducible apply State.onCells_planes | with_reducible apply State.complete_planes
    | with_reducible apply Cell.onVer_plane | with_reducible apply cell_plane | dsimp only | with_reducible apply mk_planes

theorem Cell.warmTile_plane {pl : Option Figure × Bool} {k : Cell} (h : k.fig.plane = pl) (t : Tensor) (a : Nat) :
    (Cell.warmTile k t a).fig.plane = pl := by
  unfold Cell.warmTile
  repeat' first
    | with_reducible assumption | intro _ | refine Cell.makeRoom_plane (by with_reducible assumption) ?_
    | with_reducible apply Cell.touched_plane | with_reducible apply Cell.install_plane | dsimp only | split

theorem State.warmReport_planes {s : State} (h : Planes s0 s) (c : Nat) (h1 : Nat) (t : Tensor) (a : Nat) :
    Planes s0 (State.warmReport s c h1 t a) := by
  unfold State.warmReport
  repeat' first
    | with_reducible assumption | intro _ | with_reducible apply State.err_planes | with_reducible apply ite_planes | dsimp only | split
    | with_reducible apply mk_planes

theorem State.switchPointer_planes {s : State} (h : Planes s0 s) (c : Nat) (t : Nat) (n : BitVec 16) :
    Planes s0 (State.switchPointer s c t n) := by
  unfold State.switchPointer
  repeat' first
    | with_reducible assumption | intro _ | with_reducible apply State.onCell_planes | with_reducible apply State.complete_planes
    | with_reducible apply ite_planes | with_reducible apply foldl_planes | with_reducible apply foldl_fst_planes
    | with_reducible apply Cell.onVer_plane | with_reducible apply cell_plane | with_reducible apply plane_foldl | dsimp only | split
    | refine fst_planes (by with_reducible assumption) ?_ | refine snd_planes (by with_reducible assumption) ?_
    | with_reducible apply mk_planes

theorem State.storeManifest_planes {s : State} (h : Planes s0 s) (m : Manifest) : Planes s0 (State.storeManifest s m) := by
  unfold State.storeManifest
  repeat' first
    | with_reducible assumption | intro _ | with_reducible apply ite_planes | dsimp only | split | with_reducible apply mk_planes

theorem State.doFetch_planes {s : State} (h : Planes s0 s) (c : Nat) (src : Source) (e : Entry) : Planes s0 (State.doFetch s c src e) := by
  unfold State.doFetch
  repeat' first
    | with_reducible assumption | intro _ | with_reducible apply State.complete_planes | with_reducible apply State.onCell_planes
    | with_reducible apply ite_planes | with_reducible apply cell_plane | dsimp only | split | with_reducible apply mk_planes

theorem Cell.shardTile_plane {pl : Option Figure × Bool} {k : Cell} (h : k.fig.plane = pl) (t : Tensor) (shard : List Byte) (ver : Option (BitVec 16)) (i : Nat) :
    (Cell.shardTile k t shard ver i).fig.plane = pl := by
  unfold Cell.shardTile
  repeat' first
    | with_reducible assumption | intro _ | with_reducible apply Cell.setEnt_plane | dsimp only | split

theorem Cell.fillTensor_plane {pl : Option Figure × Bool} {k : Cell} (h : k.fig.plane = pl) (t : Tensor) (shard : List Byte) (ver : BitVec 16) :
    (Cell.fillTensor k t shard ver).fig.plane = pl := by
  unfold Cell.fillTensor
  repeat' first
    | with_reducible assumption | intro _ | with_reducible apply Cell.shardTile_plane | with_reducible apply plane_foldl | dsimp only

theorem State.freeLoading_planes {s : State} (h : Planes s0 s) (c : Nat) (t : Tensor) : Planes s0 (State.freeLoading s c t) := by
  unfold State.freeLoading
  repeat' first
    | with_reducible assumption | intro _ | with_reducible apply State.onCell_planes | with_reducible apply ite_planes
    | with_reducible apply Cell.dropTensor_plane | with_reducible apply cell_plane | dsimp only | split | with_reducible apply mk_planes

theorem State.takeShard_planes {s : State} (h : Planes s0 s) (c : Nat) (f : FetchRun) (t : Tensor) (m : Manifest) (shard : List Byte) :
    Planes s0 (State.takeShard s c f t m shard) := by
  unfold State.takeShard
  repeat' first
    | with_reducible assumption | intro _ | with_reducible apply State.storeManifest_planes | with_reducible apply State.onCell_planes
    | with_reducible apply State.onShared_planes | with_reducible apply ite_planes | with_reducible apply Cell.fillTensor_plane
    | with_reducible apply Cell.makeReady_plane | with_reducible apply Cell.newWeights_plane | with_reducible apply cell_plane | dsimp only
    | split | with_reducible apply mk_planes

theorem State.endFetch_planes {s : State} (h : Planes s0 s) (c : Nat) (f : FetchRun) (status : Nat) :
    Planes s0 (State.endFetch s c f status) := by
  unfold State.endFetch
  repeat' first
    | with_reducible assumption | intro _ | with_reducible apply State.onCell_planes | with_reducible apply State.mail_planes
    | with_reducible apply State.complete_planes | with_reducible apply ite_planes | with_reducible apply cell_plane | dsimp only | split
    | with_reducible apply mk_planes

theorem State.fetchDone_planes {s : State} (h : Planes s0 s) (c : Nat) (linkOk : Bool) (shard : List Byte) (f : FetchRun) :
    Planes s0 (State.fetchDone s c linkOk shard f) := by
  unfold State.fetchDone
  repeat' first
    | with_reducible assumption | intro _ | with_reducible apply State.endFetch_planes | with_reducible apply State.freeLoading_planes
    | with_reducible apply State.takeShard_planes | with_reducible apply State.storeManifest_planes | with_reducible apply ite_planes
    | dsimp only | split | refine fst_planes (by with_reducible assumption) ?_ | refine snd_planes (by with_reducible assumption) ?_
    | with_reducible apply mk_planes

theorem State.doRefetch_planes {s : State} (h : Planes s0 s) (c : Nat) (src : Source) (e : Entry) :
    Planes s0 (State.doRefetch s c src e) := by
  unfold State.doRefetch
  repeat' first
    | with_reducible assumption | intro _ | with_reducible apply State.complete_planes | with_reducible apply State.onCell_planes
    | with_reducible apply ite_planes | with_reducible apply cell_plane | dsimp only | split
    | refine fst_planes (by with_reducible assumption) ?_ | refine snd_planes (by with_reducible assumption) ?_
    | with_reducible apply mk_planes

theorem State.refetchDone_planes {s : State} (h : Planes s0 s) (c : Nat) (linkOk : Bool) (shard : List Byte) (f : FetchRun) :
    Planes s0 (State.refetchDone s c linkOk shard f) := by
  unfold State.refetchDone
  repeat' first
    | with_reducible assumption | intro _ | with_reducible apply State.endFetch_planes | with_reducible apply State.storeManifest_planes
    | with_reducible apply State.onCell_planes | with_reducible apply ite_planes | with_reducible apply foldl_planes
    | with_reducible apply foldl_fst_planes | with_reducible apply Cell.shardTile_plane | with_reducible apply cell_plane
    | with_reducible apply plane_foldl | dsimp only | split | refine fst_planes (by with_reducible assumption) ?_
    | refine snd_planes (by with_reducible assumption) ?_ | with_reducible apply mk_planes

theorem State.discard_planes {s : State} (h : Planes s0 s) (off : Nat) : Planes s0 (State.discard s off) := by
  unfold State.discard
  repeat' first
    | with_reducible assumption | intro _ | with_reducible apply State.err_planes | with_reducible apply State.onCell_planes
    | with_reducible apply ite_planes | with_reducible apply cell_plane | dsimp only | split | with_reducible apply mk_planes

theorem State.setSlot_planes {s : State} (h : Planes s0 s) (c : Nat) (n : Nat) (v : Slot4) : Planes s0 (State.setSlot s c n v) := by
  unfold State.setSlot
  repeat' first
    | with_reducible assumption | intro _ | with_reducible apply State.onCell_planes | with_reducible apply cell_plane | dsimp only
    | with_reducible apply plane_mk | with_reducible apply mk_planes

theorem State.figNow_planes {s : State} (h : Planes s0 s) (c : Nat) (cmd : FigCmd) (status : Nat) :
    Planes s0 (State.figNow s c cmd status) := by
  unfold State.figNow
  repeat' first
    | with_reducible assumption | intro _ | with_reducible apply State.figEndWith_planes | dsimp only | with_reducible apply mk_planes

theorem State.figBegin_planes {s : State} (h : Planes s0 s) (c : Nat) (cmd : FigCmd) : Planes s0 (State.figBegin s c cmd) := by
  unfold State.figBegin
  repeat' first
    | with_reducible assumption | intro _ | with_reducible apply State.onCell_planes | with_reducible apply cell_plane | dsimp only
    | with_reducible apply plane_mk | with_reducible apply mk_planes

theorem State.figEndAll_planes {s : State} (h : Planes s0 s) (c : Nat) (code : Nat) (status : Nat) :
    Planes s0 (State.figEndAll s c code status) := by
  unfold State.figEndAll
  repeat' first
    | with_reducible assumption | intro _ | with_reducible apply State.figEnd_planes | with_reducible apply foldl_planes
    | with_reducible apply foldl_fst_planes | dsimp only | with_reducible apply mk_planes

theorem State.doLoad_planes {s : State} (h : Planes s0 s) (c : Nat) (cmd : FigCmd) : Planes s0 (State.doLoad s c cmd) := by
  unfold State.doLoad
  repeat' first
    | with_reducible assumption | intro _ | with_reducible apply State.figNow_planes | with_reducible apply State.setSlot_planes
    | with_reducible apply State.figBegin_planes | with_reducible apply ite_planes | dsimp only | split | with_reducible apply mk_planes

theorem State.doStage_planes {s : State} (h : Planes s0 s) (c : Nat) (cmd : FigCmd) : Planes s0 (State.doStage s c cmd) := by
  unfold State.doStage
  repeat' first
    | with_reducible assumption | intro _ | with_reducible apply State.figNow_planes | with_reducible apply State.onCell_planes
    | with_reducible apply State.figBegin_planes | with_reducible apply ite_planes | with_reducible apply cell_plane | dsimp only | split
    | with_reducible apply plane_mk | with_reducible apply mk_planes

theorem State.doDrop_planes {s : State} (h : Planes s0 s) (c : Nat) (cmd : FigCmd) : Planes s0 (State.doDrop s c cmd) := by
  unfold State.doDrop
  repeat' first
    | with_reducible assumption | intro _ | with_reducible apply State.figNow_planes | with_reducible apply State.setSlot_planes
    | with_reducible apply ite_planes | dsimp only | split | with_reducible apply mk_planes

theorem Cell.closeFor_plane {pl : Option Figure × Bool} {k : Cell} (h : k.fig.plane = pl)  : (Cell.closeFor k).fig.plane = pl := by
  unfold Cell.closeFor
  repeat' first
    | with_reducible assumption | intro _ | with_reducible apply Cell.onRun_plane | with_reducible apply plane_foldl | dsimp only

theorem Cell.reopen_plane {pl : Option Figure × Bool} {k : Cell} (h : k.fig.plane = pl)  : (Cell.reopen k).fig.plane = pl := by
  unfold Cell.reopen
  repeat' first
    | with_reducible assumption | intro _ | dsimp only

theorem Cell.clearArm_plane {pl : Option Figure × Bool} {k : Cell} (h : k.fig.plane = pl)  : (Cell.clearArm k).fig.plane = pl := by
  unfold Cell.clearArm
  repeat' first
    | with_reducible assumption | intro _ | with_reducible apply Cell.reopen_plane | dsimp only | with_reducible apply plane_mk

theorem State.abandonSwap_planes {s : State} (h : Planes s0 s) (c : Nat) : Planes s0 (State.abandonSwap s c) := by
  unfold State.abandonSwap
  repeat' first
    | with_reducible assumption | intro _ | with_reducible apply State.figEndAll_planes | with_reducible apply State.onCell_planes
    | with_reducible apply ite_planes | with_reducible apply Cell.clearArm_plane | with_reducible apply cell_plane | dsimp only | split
    | with_reducible apply mk_planes

theorem State.doArm_planes {s : State} (h : Planes s0 s) (c : Nat) (cmd : FigCmd) (cond : BitVec 64) :
    Planes s0 (State.doArm s c cmd cond) := by
  unfold State.doArm
  repeat' first
    | with_reducible assumption | intro _ | with_reducible apply State.figNow_planes | with_reducible apply State.onCell_planes
    | with_reducible apply State.abandonSwap_planes | with_reducible apply ite_planes | with_reducible apply Cell.closeFor_plane
    | with_reducible apply cell_plane | dsimp only | split | refine fst_planes (by with_reducible assumption) ?_
    | refine snd_planes (by with_reducible assumption) ?_ | with_reducible apply plane_mk | with_reducible apply mk_planes

theorem State.doDisarm_planes {s : State} (h : Planes s0 s) (c : Nat) (cmd : FigCmd) : Planes s0 (State.doDisarm s c cmd) := by
  unfold State.doDisarm
  repeat' first
    | with_reducible assumption | intro _ | with_reducible apply State.figNow_planes | with_reducible apply State.onCell_planes
    | with_reducible apply ite_planes | with_reducible apply Cell.clearArm_plane | with_reducible apply cell_plane | dsimp only | split
    | with_reducible apply mk_planes

theorem State.doFigure_planes {s : State} (h : Planes s0 s) (c : Nat) (code : Nat) (slot : Nat) (cond : BitVec 64) (who : BitVec 8) :
    Planes s0 (State.doFigure s c code slot cond who) := by
  unfold State.doFigure
  repeat' first
    | with_reducible assumption | intro _ | with_reducible apply State.figNow_planes | with_reducible apply State.doLoad_planes
    | with_reducible apply State.doStage_planes | with_reducible apply State.doArm_planes | with_reducible apply State.doDisarm_planes
    | with_reducible apply State.doDrop_planes | with_reducible apply ite_planes | dsimp only | split
    | refine fst_planes (by with_reducible assumption) ?_ | refine snd_planes (by with_reducible assumption) ?_
    | with_reducible apply mk_planes

theorem State.figCommand_planes {s : State} (h : Planes s0 s) (who : BitVec 8) (mask : BitVec 8) (code : Nat) (slot : Nat) (cond : BitVec 64) :
    Planes s0 (State.figCommand s who mask code slot cond) := by
  unfold State.figCommand
  repeat' first
    | with_reducible assumption | intro _ | with_reducible apply State.discard_planes | with_reducible apply State.doFigure_planes
    | with_reducible apply ite_planes | with_reducible apply foldl_planes | with_reducible apply foldl_fst_planes
    | with_reducible apply cell_plane | with_reducible apply plane_foldl | dsimp only | split | with_reducible apply mk_planes

theorem State.rebind_planes {s : State} (h : Planes s0 s) (n : Nat) (b : BindReg) : Planes s0 (State.rebind s n b) := by
  unfold State.rebind
  repeat' first
    | with_reducible assumption | intro _ | with_reducible apply State.emptyChan_planes | with_reducible apply State.onCell_planes
    | with_reducible apply State.err_planes | with_reducible apply ite_planes | with_reducible apply cell_plane | dsimp only | split
    | refine fst_planes (by with_reducible assumption) ?_ | refine snd_planes (by with_reducible assumption) ?_
    | with_reducible apply mk_planes

theorem State.bindPlane_planes {s : State} (h : Planes s0 s) (c : Nat) (g : Figure) : Planes s0 (State.bindPlane s c g) := by
  unfold State.bindPlane
  repeat' first
    | with_reducible assumption | intro _ | with_reducible apply State.rebind_planes | with_reducible apply foldl_planes
    | with_reducible apply foldl_fst_planes | dsimp only | split | refine fst_planes (by with_reducible assumption) ?_
    | refine snd_planes (by with_reducible assumption) ?_ | with_reducible apply mk_planes

theorem State.writeBind_planes {s : State} (h : Planes s0 s) (who : BitVec 8) (chan : Nat) (value : BitVec 32) :
    Planes s0 (State.writeBind s who chan value) := by
  unfold State.writeBind
  repeat' first
    | with_reducible assumption | intro _ | with_reducible apply State.discard_planes | with_reducible apply State.rebind_planes
    | with_reducible apply ite_planes | with_reducible apply cell_plane | dsimp only | split | with_reducible apply mk_planes

theorem Cell.crossTenant_plane {pl : Option Figure × Bool} {k : Cell} (h : k.fig.plane = pl) (f : Figure) (g : Figure) (keep : Bool) (carried : Bool) (dropped : Bool) (t : Nat) :
    (Cell.crossTenant k f g keep carried dropped t).fig.plane = pl := by
  unfold Cell.crossTenant
  repeat' first
    | with_reducible assumption | intro _ | with_reducible apply Cell.onRun_plane | with_reducible apply Cell.onVer_plane
    | with_reducible apply Cell.onEntry_plane | with_reducible apply plane_foldl | dsimp only | split

theorem State.dropRefs_planes {s : State} (h : Planes s0 s) (c : Nat) (t : Nat) : Planes s0 (State.dropRefs s c t) := by
  unfold State.dropRefs
  repeat' first
    | with_reducible assumption | intro _ | with_reducible apply State.dropRef_planes | with_reducible apply foldl_planes
    | with_reducible apply foldl_fst_planes | dsimp only | split | refine fst_planes (by with_reducible assumption) ?_
    | refine snd_planes (by with_reducible assumption) ?_ | with_reducible apply mk_planes

theorem State.crossTenants_planes {s : State} (h : Planes s0 s) (c : Nat) (f : Figure) (g : Figure) :
    Planes s0 (State.crossTenants s c f g) := by
  unfold State.crossTenants
  repeat' first
    | with_reducible assumption | intro _ | with_reducible apply State.onCell_planes | with_reducible apply State.dropRefs_planes
    | with_reducible apply foldl_planes | with_reducible apply foldl_fst_planes | with_reducible apply Cell.crossTenant_plane
    | with_reducible apply cell_plane | with_reducible apply plane_foldl | dsimp only | with_reducible apply mk_planes

theorem State.limitNotice_planes {s : State} (h : Planes s0 s) (old : Nat) : Planes s0 (State.limitNotice s old) := by
  unfold State.limitNotice
  repeat' first
    | with_reducible assumption | intro _ | with_reducible apply State.err_planes | with_reducible apply ite_planes | dsimp only | split
    | with_reducible apply mk_planes

theorem State.sealEmpty_planes {s : State} (h : Planes s0 s) (c : Nat) (tenants : List Nat) (why : Nat) :
    Planes s0 (State.sealEmpty s c tenants why) := by
  unfold State.sealEmpty
  repeat' first
    | with_reducible assumption | intro _ | with_reducible apply State.emptySeal_planes | with_reducible apply State.onCell_planes
    | with_reducible apply ite_planes | with_reducible apply foldl_planes | with_reducible apply foldl_fst_planes
    | with_reducible apply cell_plane | with_reducible apply plane_foldl | dsimp only | split | with_reducible apply mk_planes

theorem State.stopNow_planes {s : State} (h : Planes s0 s) (c : Nat) : Planes s0 (State.stopNow s c) := by
  unfold State.stopNow
  repeat' first
    | with_reducible assumption | intro _ | with_reducible apply State.sealEmpty_planes | dsimp only | with_reducible apply mk_planes

end Sys2Proof.Machine
end

