-- ==== Sys2Proof/Laws/PlanesControl.lean ====
section
/-!
SUPPORT. What leaves the active figure and plane select of every cell alone (Planes): control, power, stores and security.
-/

namespace Sys2Proof.Machine

variable {s0 s : State}

theorem Cell.askTests_plane {pl : Option Figure × Bool} {k : Cell} (h : k.fig.plane = pl) (src : Source) (e : Entry) :
    (Cell.askTests k src e).fig.plane = pl := by
  unfold Cell.askTests
  repeat' first
    | with_reducible assumption | intro _ | with_reducible apply Cell.onCore_plane | with_reducible apply plane_foldl | dsimp only | split

theorem State.doTest_planes {s : State} (h : Planes s0 s) (c : Nat) (src : Source) (e : Entry) : Planes s0 (State.doTest s c src e) := by
  unfold State.doTest
  repeat' first
    | with_reducible assumption | intro _ | with_reducible apply State.complete_planes | with_reducible apply State.wake_planes
    | with_reducible apply State.onCell_planes | with_reducible apply ite_planes | with_reducible apply foldl_planes
    | with_reducible apply foldl_fst_planes | with_reducible apply Cell.askTests_plane | with_reducible apply cell_plane
    | with_reducible apply plane_foldl | dsimp only | split | with_reducible apply mk_planes

theorem State.testRecord_planes {s : State} (h : Planes s0 s) (c : Nat) (unit : Nat) (passed : Bool) :
    Planes s0 (State.testRecord s c unit passed) := by
  unfold State.testRecord
  repeat' first
    | with_reducible assumption | intro _ | with_reducible apply State.err_planes | with_reducible apply ite_planes | dsimp only | split
    | with_reducible apply mk_planes

theorem State.coreTested_planes {s : State} (h : Planes s0 s) (c : Nat) (n : Nat) (passed : Bool) :
    Planes s0 (State.coreTested s c n passed) := by
  unfold State.coreTested
  repeat' first
    | with_reducible assumption | intro _ | with_reducible apply State.onCell_planes | with_reducible apply State.onCore_planes
    | with_reducible apply State.err_planes | with_reducible apply State.storeLater_planes | with_reducible apply ite_planes
    | with_reducible apply foldl_planes | with_reducible apply foldl_fst_planes | with_reducible apply Cell.onCore_plane
    | with_reducible apply Cell.onRun_plane | with_reducible apply cell_plane | with_reducible apply plane_foldl | dsimp only | split
    | with_reducible apply mk_planes

theorem State.switchTested_planes {s : State} (h : Planes s0 s) (c : Nat) (passed : Bool) : Planes s0 (State.switchTested s c passed) := by
  unfold State.switchTested
  repeat' first
    | with_reducible assumption | intro _ | with_reducible apply State.onCell_planes | with_reducible apply State.pump_planes
    | with_reducible apply State.portDown_planes | with_reducible apply ite_planes | with_reducible apply foldl_planes
    | with_reducible apply foldl_fst_planes | with_reducible apply cell_plane | with_reducible apply plane_foldl | dsimp only | split
    | with_reducible apply mk_planes

theorem State.udieTested_planes {s : State} (h : Planes s0 s) (c : Nat) (passed : Bool) : Planes s0 (State.udieTested s c passed) := by
  unfold State.udieTested
  repeat' first
    | with_reducible assumption | intro _ | with_reducible apply State.onCell_planes | with_reducible apply ite_planes
    | with_reducible apply cell_plane | dsimp only | split | with_reducible apply mk_planes

theorem State.finishTests_planes {s : State} (h : Planes s0 s) (c : Nat) : Planes s0 (State.finishTests s c) := by
  unfold State.finishTests
  repeat' first
    | with_reducible assumption | intro _ | with_reducible apply State.onCell_planes | with_reducible apply State.complete_planes
    | with_reducible apply ite_planes | with_reducible apply foldl_planes | with_reducible apply foldl_fst_planes
    | with_reducible apply cell_plane | with_reducible apply plane_foldl | dsimp only | split | with_reducible apply mk_planes

theorem State.doRun_planes {s : State} (h : Planes s0 s) (c : Nat) (src : Source) (e : Entry) : Planes s0 (State.doRun s c src e) := by
  unfold State.doRun
  repeat' first
    | with_reducible assumption | intro _ | with_reducible apply State.complete_planes | with_reducible apply State.onCell_planes
    | with_reducible apply ite_planes | with_reducible apply Cell.onRun_plane | with_reducible apply cell_plane | dsimp only | split
    | with_reducible apply mk_planes

theorem State.doWrite_planes {s : State} (h : Planes s0 s) (c : Nat) (src : Source) (e : Entry) : Planes s0 (State.doWrite s c src e) := by
  unfold State.doWrite
  repeat' first
    | with_reducible assumption | intro _ | with_reducible apply State.complete_planes | with_reducible apply State.onCell_planes
    | with_reducible apply State.boundarySoon_planes | with_reducible apply ite_planes | with_reducible apply cell_plane | dsimp only | split
    | with_reducible apply mk_planes

theorem State.doMailbox_planes {s : State} (h : Planes s0 s) (c : Nat) (src : Source) (e : Entry) :
    Planes s0 (State.doMailbox s c src e) := by
  unfold State.doMailbox
  repeat' first
    | with_reducible assumption | intro _ | with_reducible apply State.complete_planes | with_reducible apply State.onDir_planes
    | with_reducible apply State.ring_planes | with_reducible apply ite_planes | dsimp only | split
    | refine fst_planes (by with_reducible assumption) ?_ | refine snd_planes (by with_reducible assumption) ?_
    | with_reducible apply mk_planes

theorem State.setTurnPlan_planes {s : State} (h : Planes s0 s) (c : Nat) (v : BitVec 64) : Planes s0 (State.setTurnPlan s c v) := by
  unfold State.setTurnPlan
  repeat' first
    | with_reducible assumption | intro _ | with_reducible apply State.onCell_planes | with_reducible apply cell_plane | dsimp only
    | with_reducible apply mk_planes

theorem State.setJobStep_planes {s : State} (h : Planes s0 s) (c : Nat) (t : Nat) (v : BitVec 64) :
    Planes s0 (State.setJobStep s c t v).1 := by
  unfold State.setJobStep
  repeat' first
    | with_reducible assumption | intro _ | with_reducible apply State.onCell_planes | with_reducible apply ite_planes
    | with_reducible apply ite_fst_planes | with_reducible apply Cell.onRun_plane | with_reducible apply cell_plane | dsimp only | split
    | with_reducible apply mk_planes

theorem State.quarRelease_planes {s : State} (h : Planes s0 s) (c : Nat) (v : Nat) : Planes s0 (State.quarRelease s c v) := by
  unfold State.quarRelease
  repeat' first
    | with_reducible assumption | intro _ | with_reducible apply State.endQuarantine_planes | with_reducible apply ite_planes
    | with_reducible apply foldl_planes | with_reducible apply foldl_fst_planes | dsimp only | split | with_reducible apply mk_planes

theorem State.doRegister_planes {s : State} (h : Planes s0 s) (c : Nat) (src : Source) (e : Entry) :
    Planes s0 (State.doRegister s c src e) := by
  unfold State.doRegister
  repeat' first
    | with_reducible assumption | intro _ | with_reducible apply State.complete_planes | with_reducible apply State.setTurnPlan_planes
    | with_reducible apply State.setJobStep_planes | with_reducible apply State.discard_planes
    | with_reducible apply State.quarRelease_planes | with_reducible apply ite_planes | dsimp only | split
    | refine fst_planes (by with_reducible assumption) ?_ | refine snd_planes (by with_reducible assumption) ?_
    | with_reducible apply mk_planes

theorem State.doEntry_planes {s : State} (h : Planes s0 s) (c : Nat) (src : Source) (e : Entry) : Planes s0 (State.doEntry s c src e) := by
  unfold State.doEntry
  repeat' first
    | with_reducible assumption | intro _ | with_reducible apply State.complete_planes | with_reducible apply State.cmdServed_planes
    | with_reducible apply State.doTensor_planes | with_reducible apply State.doLoadImage_planes | with_reducible apply State.doRun_planes
    | with_reducible apply State.doRequest_planes | with_reducible apply State.doCancel_planes | with_reducible apply State.doSetup_planes
    | with_reducible apply State.doVersion_planes | with_reducible apply State.doFetch_planes | with_reducible apply State.doRefetch_planes
    | with_reducible apply State.doTest_planes | with_reducible apply State.doMailbox_planes | with_reducible apply State.doWrite_planes
    | with_reducible apply State.doRegister_planes | with_reducible apply State.doBind_planes
    | with_reducible apply State.doRuleLoad_planes | with_reducible apply State.doMode_planes
    | with_reducible apply State.doSnapshot_planes | with_reducible apply State.doAnswer_planes
    | with_reducible apply State.doRepair_planes | with_reducible apply ite_planes | dsimp only | split
    | refine fst_planes (by with_reducible assumption) ?_ | refine snd_planes (by with_reducible assumption) ?_
    | with_reducible apply mk_planes

theorem State.fetchFailed_planes {s : State} (h : Planes s0 s) (n : Nat) (c : Nat) : Planes s0 (State.fetchFailed s n c) := by
  unfold State.fetchFailed
  repeat' first
    | with_reducible assumption | intro _ | with_reducible apply State.onFn_planes | with_reducible apply State.ringError_planes
    | with_reducible apply State.err_planes | dsimp only | with_reducible apply mk_planes

theorem State.figureUnit_planes {s : State} (h : Planes s0 s) (c : Nat) (who : BitVec 8) (u : Entry) :
    Planes s0 (State.figureUnit s c who u) := by
  unfold State.figureUnit
  repeat' first
    | with_reducible assumption | intro _ | with_reducible apply State.figEndWith_planes | with_reducible apply State.doFigure_planes
    | with_reducible apply ite_planes | dsimp only | split | with_reducible apply mk_planes

theorem State.mailUnit_planes {s : State} (h : Planes s0 s) (c : Nat) (who : BitVec 8) (cls : Nat) (u : Entry) :
    Planes s0 (State.mailUnit s c who cls u) := by
  unfold State.mailUnit
  repeat' first
    | with_reducible assumption | intro _ | with_reducible apply State.onCell_planes | with_reducible apply State.wake_planes
    | with_reducible apply State.doEntry_planes | with_reducible apply State.mail_planes | with_reducible apply State.figureUnit_planes
    | with_reducible apply State.takeRoutes_planes | with_reducible apply cell_plane | dsimp only | split
    | refine fst_planes (by with_reducible assumption) ?_ | refine snd_planes (by with_reducible assumption) ?_
    | with_reducible apply mk_planes

theorem State.takeMail_planes {s : State} (h : Planes s0 s) (c : Nat) (p : Nat) (x : Frame) : Planes s0 (State.takeMail s c p x) := by
  unfold State.takeMail
  repeat' first
    | with_reducible assumption | intro _ | with_reducible apply State.countError_planes | with_reducible apply State.emit_planes
    | with_reducible apply State.mailUnit_planes | with_reducible apply State.renewMail_planes | with_reducible apply ite_planes
    | with_reducible apply foldl_planes | with_reducible apply foldl_fst_planes | dsimp only | split
    | refine fst_planes (by with_reducible assumption) ?_ | refine snd_planes (by with_reducible assumption) ?_
    | with_reducible apply mk_planes

theorem State.anchorFrame_planes {s : State} (h : Planes s0 s) (c : Nat) (x : Frame) : Planes s0 (State.anchorFrame s c x) := by
  unfold State.anchorFrame
  repeat' first
    | with_reducible assumption | intro _ | with_reducible apply State.takeMail_planes
    | refine State.joinRelay_planes (by with_reducible assumption) ?_ | with_reducible apply State.takeLeave_planes
    | with_reducible apply State.levelFrame_planes | with_reducible apply State.takeBeat_planes
    | with_reducible apply State.takeSeal_planes | with_reducible apply ite_planes | dsimp only | split
    | refine fst_planes (by with_reducible assumption) ?_ | refine snd_planes (by with_reducible assumption) ?_
    | with_reducible apply mk_planes

theorem Cell.cutApply_plane {pl : Option Figure × Bool} {k : Cell} (h : k.fig.plane = pl)  : (Cell.cutApply k).fig.plane = pl := by
  unfold Cell.cutApply
  repeat' first
    | with_reducible assumption | intro _ | dsimp only

theorem State.haltGen_planes {s : State} (h : Planes s0 s) (c : Nat) : Planes s0 (State.haltGen s c) := by
  unfold State.haltGen
  repeat' first
    | with_reducible assumption | intro _ | with_reducible apply State.sealRequests_planes | with_reducible apply State.onCells_planes
    | with_reducible apply ite_planes | with_reducible apply Cell.endStep_plane | with_reducible apply cell_plane | dsimp only | split
    | with_reducible apply mk_planes

theorem State.haltSeal_planes {s : State} (h : Planes s0 s) (c : Nat) (t : Nat) (d : Bool × Nat) (time : Nat) :
    Planes s0 (State.haltSeal s c t d time) := by
  unfold State.haltSeal
  repeat' first
    | with_reducible assumption | intro _ | with_reducible apply State.voidRecords_planes | with_reducible apply State.onCell_planes
    | with_reducible apply Cell.standCounters_plane | with_reducible apply Cell.takeDecision_plane | with_reducible apply Cell.sealLearn_plane
    | with_reducible apply cell_plane | dsimp only | with_reducible apply mk_planes

theorem State.haltLearn_planes {s : State} (h : Planes s0 s) (t : Nat) : Planes s0 (State.haltLearn s t) := by
  unfold State.haltLearn
  repeat' first
    | with_reducible assumption | intro _ | with_reducible apply State.fixScales_planes | with_reducible apply State.onCoord_planes
    | with_reducible apply State.haltSeal_planes | with_reducible apply State.gatherEntries_planes
    | with_reducible apply State.writeSeal_planes | with_reducible apply State.onCell_planes | with_reducible apply ite_planes
    | with_reducible apply foldl_planes | with_reducible apply foldl_fst_planes | with_reducible apply Cell.endLearn_plane
    | with_reducible apply cell_plane | with_reducible apply plane_foldl | dsimp only | split | with_reducible apply mk_planes

theorem Cell.halt_plane {pl : Option Figure × Bool} {k : Cell} (h : k.fig.plane = pl)  : (Cell.halt k).fig.plane = pl := by
  unfold Cell.halt
  repeat' first
    | with_reducible assumption | intro _ | with_reducible apply Cell.cutApply_plane | dsimp only

theorem State.signalSafe_planes {s : State} (h : Planes s0 s)  : Planes s0 (State.signalSafe s) := by
  unfold State.signalSafe
  repeat' first
    | with_reducible assumption | intro _ | with_reducible apply State.emit_planes | with_reducible apply ite_planes | dsimp only | split
    | with_reducible apply mk_planes

theorem State.enterSafe_planes {s : State} (h : Planes s0 s)  : Planes s0 (State.enterSafe s) := by
  unfold State.enterSafe
  repeat' first
    | with_reducible assumption | intro _ | with_reducible apply State.abandonSwap_planes | with_reducible apply State.causeAll_planes
    | with_reducible apply State.stopShuffle_planes | with_reducible apply State.haltGen_planes
    | with_reducible apply State.haltLearn_planes | with_reducible apply State.onCell_planes | with_reducible apply State.signalSafe_planes
    | with_reducible apply ite_planes | with_reducible apply foldl_planes | with_reducible apply foldl_fst_planes
    | with_reducible apply Cell.halt_plane | with_reducible apply cell_plane | with_reducible apply plane_foldl | dsimp only | split
    | with_reducible apply mk_planes

theorem State.powerFail_planes {s : State} (h : Planes s0 s)  : Planes s0 (State.powerFail s) := by
  unfold State.powerFail
  repeat' first
    | with_reducible assumption | intro _ | with_reducible apply State.abandonSwap_planes | with_reducible apply State.causeAll_planes
    | with_reducible apply State.stopShuffle_planes | with_reducible apply foldl_planes | with_reducible apply foldl_fst_planes
    | with_reducible apply cell_plane | with_reducible apply plane_foldl | dsimp only | with_reducible apply mk_planes

theorem State.measureVin_planes {s : State} (h : Planes s0 s) (mv : Nat) : Planes s0 (State.measureVin s mv) := by
  unfold State.measureVin
  repeat' first
    | with_reducible assumption | intro _ | dsimp only | with_reducible apply mk_planes

theorem State.startIslands_planes {s : State} (h : Planes s0 s)  : Planes s0 (State.startIslands s) := by
  unfold State.startIslands
  repeat' first
    | with_reducible assumption | intro _ | with_reducible apply ite_planes | dsimp only | split | with_reducible apply mk_planes

theorem State.nameKeyless_planes {s : State} (h : Planes s0 s)  : Planes s0 (State.nameKeyless s) := by
  unfold State.nameKeyless
  repeat' first
    | with_reducible assumption | intro _ | with_reducible apply State.err_planes | with_reducible apply foldl_planes
    | with_reducible apply foldl_fst_planes | with_reducible apply cell_plane | with_reducible apply plane_foldl | dsimp only
    | with_reducible apply mk_planes

theorem State.strapNotice_planes {s : State} (h : Planes s0 s)  : Planes s0 (State.strapNotice s) := by
  unfold State.strapNotice
  repeat' first
    | with_reducible assumption | intro _ | with_reducible apply State.err_planes | with_reducible apply ite_planes | dsimp only | split
    | with_reducible apply mk_planes

theorem State.superviseFrom_planes {s : State} (h : Planes s0 s) (n : Nat) : Planes s0 (State.superviseFrom s n) := by
  unfold State.superviseFrom
  repeat' first
    | with_reducible assumption | intro _ | with_reducible apply State.nameKeyless_planes | with_reducible apply State.strapNotice_planes
    | with_reducible apply State.enterSafe_planes | with_reducible apply ite_planes | dsimp only | split | with_reducible apply mk_planes

theorem State.returnCell_planes {s : State} (h : Planes s0 s) (c : Nat) : Planes s0 (State.returnCell s c) := by
  unfold State.returnCell
  repeat' first
    | with_reducible assumption | intro _ | with_reducible apply State.boundary_planes | with_reducible apply State.shuffle_planes
    | with_reducible apply State.crossTenants_planes | with_reducible apply State.bindPlane_planes
    | with_reducible apply State.onCell_planes | with_reducible apply ite_planes | with_reducible apply cell_plane | dsimp only | split
    | refine fst_planes (by with_reducible assumption) ?_ | refine snd_planes (by with_reducible assumption) ?_
    | with_reducible apply mk_planes

theorem State.askRestart_planes {s : State} (h : Planes s0 s) (c : Nat) (drain : Bool) : Planes s0 (State.askRestart s c drain) := by
  unfold State.askRestart
  repeat' first
    | with_reducible assumption | intro _ | with_reducible apply State.discard_planes | with_reducible apply State.onCell_planes
    | with_reducible apply State.onCells_planes | with_reducible apply ite_planes | with_reducible apply cell_plane | dsimp only | split
    | with_reducible apply mk_planes

theorem Cell.restarted_plane {pl : Option Figure × Bool} {k : Cell} (h : k.fig.plane = pl)  : (Cell.restarted k).fig.plane = pl := by
  unfold Cell.restarted
  repeat' first
    | with_reducible assumption | intro _
    | dsimp only | with_reducible apply plane_mk

theorem Cell.clearVersions_plane {pl : Option Figure × Bool} {k : Cell} (h : k.fig.plane = pl) (waits : Bool) :
    (Cell.clearVersions k waits).fig.plane = pl := by
  unfold Cell.clearVersions
  repeat' first
    | with_reducible assumption | intro _ | dsimp only

theorem Cell.awaitPointer_plane {pl : Option Figure × Bool} {k : Cell} (h : k.fig.plane = pl)  : (Cell.awaitPointer k).fig.plane = pl := by
  unfold Cell.awaitPointer
  repeat' first
    | with_reducible assumption | intro _ | with_reducible apply Cell.onVer_plane | with_reducible apply plane_foldl | dsimp only

theorem State.cutFigures_planes {s : State} (h : Planes s0 s) (c : Nat) : Planes s0 (State.cutFigures s c) := by
  unfold State.cutFigures
  repeat' first
    | with_reducible assumption | intro _ | with_reducible apply State.abandonSwap_planes | with_reducible apply State.figEnd_planes
    | with_reducible apply foldl_planes | with_reducible apply foldl_fst_planes | dsimp only | with_reducible apply mk_planes

theorem State.refusePending_planes {s : State} (h : Planes s0 s) (c : Nat) : Planes s0 (State.refusePending s c) := by
  unfold State.refusePending
  repeat' first
    | with_reducible assumption | intro _ | with_reducible apply State.refuse_planes | with_reducible apply foldl_planes
    | with_reducible apply foldl_fst_planes | dsimp only | with_reducible apply mk_planes

theorem State.cutFetches_planes {s : State} (h : Planes s0 s) (c : Nat) : Planes s0 (State.cutFetches s c) := by
  unfold State.cutFetches
  repeat' first
    | with_reducible assumption | intro _ | with_reducible apply State.endFetch_planes | with_reducible apply foldl_planes
    | with_reducible apply foldl_fst_planes | dsimp only | with_reducible apply mk_planes

theorem State.unbindCell_planes {s : State} (h : Planes s0 s) (c : Nat) : Planes s0 (State.unbindCell s c) := by
  unfold State.unbindCell
  repeat' first
    | with_reducible assumption | intro _ | with_reducible apply State.emptyChan_planes | with_reducible apply State.onCell_planes
    | with_reducible apply State.err_planes | with_reducible apply ite_planes | with_reducible apply foldl_planes
    | with_reducible apply foldl_fst_planes | with_reducible apply cell_plane | with_reducible apply plane_foldl | dsimp only | split
    | with_reducible apply mk_planes

theorem State.adminVoid_planes {s : State} (h : Planes s0 s) (c : Nat) : Planes s0 (State.adminVoid s c) := by
  unfold State.adminVoid
  repeat' first
    | with_reducible assumption | intro _ | with_reducible apply State.sealEmpty_planes | with_reducible apply cell_plane | dsimp only
    | with_reducible apply mk_planes

theorem State.beginRestart_planes {s : State} (h : Planes s0 s) (c : Nat) : Planes s0 (State.beginRestart s c) := by
  unfold State.beginRestart
  repeat' first
    | with_reducible assumption | intro _ | with_reducible apply State.cutFigures_planes | with_reducible apply State.cutFetches_planes
    | with_reducible apply State.refusePending_planes | with_reducible apply State.onCells_planes
    | with_reducible apply State.onCell_planes | with_reducible apply State.unbindCell_planes
    | with_reducible apply State.coordinate_planes | with_reducible apply ite_planes | with_reducible apply foldl_planes
    | with_reducible apply foldl_fst_planes | with_reducible apply Cell.clearVersions_plane | with_reducible apply Cell.awaitPointer_plane
    | with_reducible apply Cell.restarted_plane | with_reducible apply cell_plane | with_reducible apply plane_foldl | dsimp only | split
    | with_reducible apply mk_planes

theorem State.tryStore_planes {s : State} (h : Planes s0 s)  : Planes s0 (State.tryStore s) := by
  unfold State.tryStore
  repeat' first
    | with_reducible assumption | intro _ | with_reducible apply State.err_planes | with_reducible apply ite_planes | dsimp only | split
    | refine fst_planes (by with_reducible assumption) ?_ | refine snd_planes (by with_reducible assumption) ?_
    | with_reducible apply mk_planes

theorem State.fwEnd_planes {s : State} (h : Planes s0 s) (code : Nat) (status : Nat) : Planes s0 (State.fwEnd s code status) := by
  unfold State.fwEnd
  repeat' first
    | with_reducible assumption | intro _ | dsimp only | with_reducible apply mk_planes

theorem State.storeBundle_planes {s : State} (h : Planes s0 s) (bytes : List Byte) (pldm : Bool) :
    Planes s0 (State.storeBundle s bytes pldm) := by
  unfold State.storeBundle
  repeat' first
    | with_reducible assumption | intro _ | with_reducible apply State.storeLater_planes | dsimp only | with_reducible apply mk_planes

theorem State.fwWrite_planes {s : State} (h : Planes s0 s) (dmaOk : Bool) (bundle : List Byte) :
    Planes s0 (State.fwWrite s dmaOk bundle) := by
  unfold State.fwWrite
  repeat' first
    | with_reducible assumption | intro _ | with_reducible apply State.fwEnd_planes | with_reducible apply State.storeBundle_planes
    | with_reducible apply ite_planes | dsimp only | split | with_reducible apply mk_planes

theorem State.fwStage_planes {s : State} (h : Planes s0 s)  : Planes s0 (State.fwStage s) := by
  unfold State.fwStage
  repeat' first
    | with_reducible assumption | intro _ | with_reducible apply State.fwEnd_planes | with_reducible apply ite_planes | dsimp only | split
    | refine fst_planes (by with_reducible assumption) ?_ | refine snd_planes (by with_reducible assumption) ?_
    | with_reducible apply mk_planes

theorem State.fwCells_planes {s : State} (h : Planes s0 s)  : Planes s0 (State.fwCells s) := by
  unfold State.fwCells
  repeat' first
    | with_reducible assumption | intro _ | with_reducible apply State.onCell_planes | with_reducible apply State.boundarySoon_planes
    | with_reducible apply foldl_planes | with_reducible apply foldl_fst_planes | with_reducible apply cell_plane
    | with_reducible apply plane_foldl | dsimp only | with_reducible apply mk_planes

theorem State.fwSwitch_planes {s : State} (h : Planes s0 s)  : Planes s0 (State.fwSwitch s) := by
  unfold State.fwSwitch
  repeat' first
    | with_reducible assumption | intro _ | with_reducible apply State.fwEnd_planes | with_reducible apply State.fwCells_planes
    | with_reducible apply cell_plane | dsimp only | split | refine fst_planes (by with_reducible assumption) ?_
    | refine snd_planes (by with_reducible assumption) ?_ | with_reducible apply mk_planes

theorem State.fwCommit_planes {s : State} (h : Planes s0 s)  : Planes s0 (State.fwCommit s) := by
  unfold State.fwCommit
  repeat' first
    | with_reducible assumption | intro _ | with_reducible apply State.storeLater_planes | with_reducible apply State.fwEnd_planes
    | dsimp only | split | refine fst_planes (by with_reducible assumption) ?_ | refine snd_planes (by with_reducible assumption) ?_
    | with_reducible apply mk_planes

theorem State.fwRevert_planes {s : State} (h : Planes s0 s)  : Planes s0 (State.fwRevert s) := by
  unfold State.fwRevert
  repeat' first
    | with_reducible assumption | intro _ | with_reducible apply State.fwEnd_planes | with_reducible apply State.fwCells_planes
    | with_reducible apply ite_planes | with_reducible apply cell_plane | dsimp only | split | with_reducible apply mk_planes

theorem State.fwCommand_planes {s : State} (h : Planes s0 s) (f : State → State) (hf : ∀ x, Planes s0 x → Planes s0 (f x)) :
    Planes s0 (s.fwCommand f) := by
  unfold State.fwCommand
  split
  · exact State.discard_planes h ..
  · exact hf _ h

theorem State.raiseFloor_planes {s : State} (h : Planes s0 s) (fig : Bool) (v : BitVec 32) : Planes s0 (State.raiseFloor s fig v) := by
  unfold State.raiseFloor
  repeat' first
    | with_reducible assumption | intro _ | with_reducible apply State.storeLater_planes | with_reducible apply State.discard_planes
    | with_reducible apply ite_planes | dsimp only | split | with_reducible apply mk_planes

theorem State.enrol_planes {s : State} (h : Planes s0 s) (len : Nat) : Planes s0 (State.enrol s len) := by
  unfold State.enrol
  repeat' first
    | with_reducible assumption | intro _ | with_reducible apply State.discard_planes | with_reducible apply State.storeLater_planes
    | with_reducible apply State.err_planes | with_reducible apply ite_planes | dsimp only | split
    | refine fst_planes (by with_reducible assumption) ?_ | refine snd_planes (by with_reducible assumption) ?_
    | with_reducible apply mk_planes

theorem State.persist_planes {s : State} (h : Planes s0 s) (c : Nat) (v : BitVec 32) : Planes s0 (State.persist s c v) := by
  unfold State.persist
  repeat' first
    | with_reducible assumption | intro _ | with_reducible apply State.discard_planes | with_reducible apply State.onCell_planes
    | with_reducible apply State.storeLater_planes | with_reducible apply ite_planes | with_reducible apply cell_plane | dsimp only | split
    | refine fst_planes (by with_reducible assumption) ?_ | refine snd_planes (by with_reducible assumption) ?_
    | with_reducible apply plane_mk | with_reducible apply mk_planes

theorem State.verifyComplete_planes {s : State} (h : Planes s0 s)  : Planes s0 (State.verifyComplete s) := by
  unfold State.verifyComplete
  repeat' first
    | with_reducible assumption | intro _ | with_reducible apply State.emit_planes | dsimp only | with_reducible apply mk_planes

theorem State.writeManager_planes {s : State} (h : Planes s0 s) (v : BitVec 32) : Planes s0 (State.writeManager s v) := by
  unfold State.writeManager
  repeat' first
    | with_reducible assumption | intro _ | with_reducible apply State.discard_planes | with_reducible apply ite_planes | dsimp only
    | split | with_reducible apply mk_planes

theorem State.writeLimit_planes {s : State} (h : Planes s0 s) (v : Nat) : Planes s0 (State.writeLimit s v) := by
  unfold State.writeLimit
  repeat' first
    | with_reducible assumption | intro _ | with_reducible apply State.discard_planes | with_reducible apply State.boundarySoon_planes
    | with_reducible apply State.limitNotice_planes | with_reducible apply State.coordinate_planes | with_reducible apply ite_planes
    | with_reducible apply foldl_planes | with_reducible apply foldl_fst_planes | with_reducible apply cell_plane
    | with_reducible apply plane_foldl | dsimp only | split | with_reducible apply mk_planes

theorem State.writeJobStep_planes {s : State} (h : Planes s0 s) (c : Nat) (t : Nat) (v : BitVec 64) :
    Planes s0 (State.writeJobStep s c t v) := by
  unfold State.writeJobStep
  repeat' first
    | with_reducible assumption | intro _ | with_reducible apply State.setJobStep_planes | with_reducible apply State.discard_planes
    | with_reducible apply ite_planes | dsimp only | split | with_reducible apply mk_planes

theorem State.askStop_planes {s : State} (h : Planes s0 s) (c : Nat) (n : Nat) (who : BitVec 8) : Planes s0 (State.askStop s c n who) := by
  unfold State.askStop
  repeat' first
    | with_reducible assumption | intro _ | with_reducible apply State.onCell_planes | with_reducible apply ite_planes
    | with_reducible apply cell_plane | dsimp only | split | refine fst_planes (by with_reducible assumption) ?_
    | refine snd_planes (by with_reducible assumption) ?_ | with_reducible apply mk_planes

theorem State.capture_planes {s : State} (h : Planes s0 s) (c : Nat) (i : BitVec 14) : Planes s0 (State.capture s c i) := by
  unfold State.capture
  repeat' first
    | with_reducible assumption | intro _ | with_reducible apply State.onCell_planes | with_reducible apply cell_plane | dsimp only
    | with_reducible apply mk_planes

theorem State.writeCons_planes {s : State} (h : Planes s0 s) (c : Nat) (v : BitVec 32) : Planes s0 (State.writeCons s c v) := by
  unfold State.writeCons
  repeat' first
    | with_reducible assumption | intro _ | with_reducible apply State.err_planes | with_reducible apply State.onCell_planes
    | with_reducible apply State.discard_planes | with_reducible apply ite_planes | with_reducible apply cell_plane | dsimp only | split
    | with_reducible apply mk_planes

theorem State.clearFatal_planes {s : State} (h : Planes s0 s) (c : Nat) (v : BitVec 32) : Planes s0 (State.clearFatal s c v) := by
  unfold State.clearFatal
  repeat' first
    | with_reducible assumption | intro _ | with_reducible apply State.onCell_planes | with_reducible apply State.err_planes
    | with_reducible apply ite_planes | with_reducible apply cell_plane | dsimp only | split | with_reducible apply mk_planes

theorem State.setSpdm_planes {s : State} (h : Planes s0 s) (x : Spdm) : Planes s0 (State.setSpdm s x) := by
  unfold State.setSpdm
  repeat' first
    | with_reducible assumption | intro _ | with_reducible apply ite_planes | dsimp only | split | with_reducible apply mk_planes

theorem State.endSpdm_planes {s : State} (h : Planes s0 s) (key : Nat) : Planes s0 (State.endSpdm s key) := by
  unfold State.endSpdm
  repeat' first
    | with_reducible assumption | intro _ | dsimp only | with_reducible apply mk_planes

theorem State.spdmError_planes {s : State} (h : Planes s0 s) (path : Nat) (code : Nat) : Planes s0 (State.spdmError s path code) := by
  unfold State.spdmError
  repeat' first
    | with_reducible assumption | intro _ | with_reducible apply State.emit_planes | dsimp only | with_reducible apply mk_planes

theorem State.spdmReply_planes {s : State} (h : Planes s0 s) (key : Nat) (code : Nat) (l : List Byte) :
    Planes s0 (State.spdmReply s key code l) := by
  unfold State.spdmReply
  repeat' first
    | with_reducible assumption | intro _ | with_reducible apply State.setSpdm_planes | with_reducible apply State.spdmError_planes
    | with_reducible apply State.emit_planes | with_reducible apply ite_planes | dsimp only | split
    | refine fst_planes (by with_reducible assumption) ?_ | refine snd_planes (by with_reducible assumption) ?_
    | with_reducible apply mk_planes

theorem State.onSpdm_planes {s : State} (h : Planes s0 s) (path : Nat) (cell : Fin 8) (phase : Nat) (f : Nat → Spdm → State → State)
    (hf : ∀ n x y, Planes s0 y → Planes s0 (f n x y)) : Planes s0 (s.onSpdm path cell phase f) := by
  unfold State.onSpdm
  dsimp only
  repeat' split
  all_goals first
    | exact h
    | exact State.spdmError_planes h ..
    | exact hf _ _ _ h

theorem State.openSpdm_planes {s : State} (h : Planes s0 s) (path : Nat) (cell : Fin 8) : Planes s0 (State.openSpdm s path cell) := by
  unfold State.openSpdm
  repeat' first
    | with_reducible assumption | intro _ | with_reducible apply State.spdmError_planes | with_reducible apply State.setSpdm_planes
    | with_reducible apply State.spdmReply_planes | with_reducible apply ite_planes | dsimp only | split | with_reducible apply mk_planes

theorem State.advance_planes {s : State} (h : Planes s0 s) (key : Nat) (x : Spdm) (phase : Nat) (code : Nat) (msg : List Byte) :
    Planes s0 (State.advance s key x phase code msg) := by
  unfold State.advance
  repeat' first
    | with_reducible assumption | intro _ | with_reducible apply State.setSpdm_planes | with_reducible apply State.spdmReply_planes
    | dsimp only | with_reducible apply mk_planes

theorem State.onKorif_planes {s : State} (h : Planes s0 s) (path : Nat) (cell : Fin 8) (f : Nat → Spdm → State → State)
    (hf : ∀ n x y, Planes s0 y → Planes s0 (f n x y)) : Planes s0 (s.onKorif path cell f) := by
  refine State.onSpdm_planes h _ _ _ _ (fun n x y hy => ?_)
  split
  · exact State.spdmError_planes hy ..
  · exact hf _ _ _ hy

theorem State.inSession_planes {s : State} (h : Planes s0 s) (path : Nat) (cell : Fin 8) (f : Nat → Spdm → State → State)
    (hf : ∀ n x y, Planes s0 y → Planes s0 (f n x y)) : Planes s0 (s.inSession path cell f) := by
  refine State.onKorif_planes h _ _ _ (fun n x y hy => ?_)
  split
  · exact hf _ _ _ hy
  · exact State.spdmError_planes hy ..

theorem State.mctpControl_planes {s : State} (h : Planes s0 s) (i3c : Bool) (command : BitVec 8) (eid : BitVec 8) :
    Planes s0 (State.mctpControl s i3c command eid) := by
  unfold State.mctpControl
  repeat' first
    | with_reducible assumption | intro _ | with_reducible apply State.emit_planes | with_reducible apply ite_planes | dsimp only | split
    | with_reducible apply mk_planes

theorem State.vendorDenied_planes {s : State} (h : Planes s0 s) (who : BitVec 8) (chan : Nat) :
    Planes s0 (State.vendorDenied s who chan) := by
  unfold State.vendorDenied
  repeat' first
    | with_reducible assumption | intro _ | with_reducible apply State.strangerAccess_planes | with_reducible apply State.emit_planes
    | dsimp only | with_reducible apply mk_planes

theorem State.vendorSend_planes {s : State} (h : Planes s0 s) (who : BitVec 8) (chan : Nat) (doorbell : Bool) (words : List (BitVec 32)) :
    Planes s0 (State.vendorSend s who chan doorbell words) := by
  unfold State.vendorSend
  repeat' first
    | with_reducible assumption | intro _ | with_reducible apply State.vendorDenied_planes | with_reducible apply State.emit_planes
    | with_reducible apply State.sendWord_planes | with_reducible apply State.sendBell_planes | with_reducible apply ite_planes
    | with_reducible apply foldl_planes | with_reducible apply foldl_fst_planes | dsimp only | split
    | refine fst_planes (by with_reducible assumption) ?_ | refine snd_planes (by with_reducible assumption) ?_
    | with_reducible apply mk_planes

theorem State.takeWords_planes {s : State} (h : Planes s0 s) (n chan : Nat) (l : List (BitVec 32)) :
    Planes s0 (State.takeWords n s chan l).1 := by
  induction n generalizing s l with
  | zero => exact h
  | succ n ih => exact ih (State.recvWord_planes h ..) _

theorem State.vendorReceive_planes {s : State} (h : Planes s0 s) (who : BitVec 8) (chan : Nat) (n : Nat) :
    Planes s0 (State.vendorReceive s who chan n) := by
  unfold State.vendorReceive
  repeat' first
    | with_reducible assumption | intro _ | with_reducible apply State.vendorDenied_planes | with_reducible apply State.takeWords_planes
    | with_reducible apply State.emit_planes | dsimp only | split | refine fst_planes (by with_reducible assumption) ?_
    | refine snd_planes (by with_reducible assumption) ?_ | with_reducible apply mk_planes

theorem State.vendorWindow_planes {s : State} (h : Planes s0 s) (who : BitVec 8) (chan : Nat) :
    Planes s0 (State.vendorWindow s who chan) := by
  unfold State.vendorWindow
  repeat' first
    | with_reducible assumption | intro _ | with_reducible apply State.vendorDenied_planes | with_reducible apply State.recvWord_planes
    | with_reducible apply State.emit_planes | dsimp only | split | refine fst_planes (by with_reducible assumption) ?_
    | refine snd_planes (by with_reducible assumption) ?_ | with_reducible apply mk_planes

theorem State.discardOf_planes {s : State} (h : Planes s0 s) (fn : Nat) (off : Nat) : Planes s0 (State.discardOf s fn off) := by
  unfold State.discardOf
  repeat' first
    | with_reducible assumption | intro _ | with_reducible apply State.discard_planes | with_reducible apply ite_planes | dsimp only
    | split | with_reducible apply mk_planes

theorem State.writeMsix_planes {s : State} (h : Planes s0 s) (n : Nat) (i : Nat) (w : BitVec 32) : Planes s0 (State.writeMsix s n i w) := by
  unfold State.writeMsix
  repeat' first
    | with_reducible assumption | intro _ | with_reducible apply State.onFn_planes | with_reducible apply State.msix_planes
    | with_reducible apply ite_planes | dsimp only | split | with_reducible apply mk_planes

theorem State.writeRing_planes {s : State} (h : Planes s0 s) (n : Nat) (o : Nat) (w : BitVec 32) : Planes s0 (State.writeRing s n o w) := by
  unfold State.writeRing
  repeat' first
    | with_reducible assumption | intro _ | with_reducible apply State.discardOf_planes | with_reducible apply State.onFn_planes
    | with_reducible apply State.ringControl_planes | with_reducible apply State.ring_planes | with_reducible apply State.writeTail_planes
    | with_reducible apply State.writeMsix_planes | with_reducible apply ite_planes | dsimp only | split | with_reducible apply mk_planes

theorem State.writeWindow_planes {s : State} (h : Planes s0 s) (who : BitVec 8) (n : Nat) (o : Nat) (w : BitVec 32) :
    Planes s0 (State.writeWindow s who n o w) := by
  unfold State.writeWindow
  repeat' first
    | with_reducible assumption | intro _ | with_reducible apply State.sendWord_planes | with_reducible apply State.sendBell_planes
    | with_reducible apply State.sendClear_planes | with_reducible apply State.recvClear_planes | with_reducible apply ite_planes
    | dsimp only | split | with_reducible apply mk_planes

theorem State.writeKey_planes {s : State} (h : Planes s0 s) (off : Nat) (w : BitVec 32) : Planes s0 (State.writeKey s off w) := by
  unfold State.writeKey
  repeat' first
    | with_reducible assumption | intro _ | with_reducible apply State.discard_planes | with_reducible apply ite_planes | dsimp only
    | split | with_reducible apply mk_planes

theorem State.writeLoadWindow_planes {s : State} (h : Planes s0 s) (off : Nat) (size : Nat) (v : BitVec 64) :
    Planes s0 (State.writeLoadWindow s off size v) := by
  unfold State.writeLoadWindow
  repeat' first
    | with_reducible assumption | intro _ | with_reducible apply State.discard_planes | with_reducible apply ite_planes | dsimp only
    | split | with_reducible apply mk_planes

theorem State.writeTimeout_planes {s : State} (h : Planes s0 s) (t : Nat) (w : BitVec 32) : Planes s0 (State.writeTimeout s t w) := by
  unfold State.writeTimeout
  repeat' first
    | with_reducible assumption | intro _ | with_reducible apply State.discard_planes | with_reducible apply ite_planes | dsimp only
    | split | with_reducible apply mk_planes

theorem State.fwWriteFree_planes {s : State} (h : Planes s0 s)  : Planes s0 (State.fwWriteFree s) := by
  unfold State.fwWriteFree
  repeat' first
    | with_reducible assumption | intro _ | with_reducible apply State.takeFree_planes | with_reducible apply State.fwWrite_planes
    | dsimp only | refine fst_planes (by with_reducible assumption) ?_ | refine snd_planes (by with_reducible assumption) ?_
    | with_reducible apply mk_planes

theorem State.writeFwCmd_planes {s : State} (h : Planes s0 s) (code : Nat) : Planes s0 (State.writeFwCmd s code) := by
  unfold State.writeFwCmd
  repeat' first
    | with_reducible assumption | intro _ | with_reducible apply State.fwCommand_planes | with_reducible apply State.fwWriteFree_planes
    | with_reducible apply State.fwStage_planes | with_reducible apply State.fwSwitch_planes | with_reducible apply State.fwCommit_planes
    | with_reducible apply State.fwRevert_planes | with_reducible apply ite_planes | dsimp only | split | with_reducible apply mk_planes

theorem State.writeCell_planes {s : State} (h : Planes s0 s) (c : Nat) (o : Nat) (w : BitVec 32) : Planes s0 (State.writeCell s c o w) := by
  unfold State.writeCell
  repeat' first
    | with_reducible assumption | intro _ | with_reducible apply State.askRestart_planes | with_reducible apply State.persist_planes
    | with_reducible apply State.writeBind_planes | with_reducible apply State.writeCons_planes
    | with_reducible apply State.clearFatal_planes | with_reducible apply State.askStop_planes | with_reducible apply State.onCell_planes
    | with_reducible apply State.quarRelease_planes | with_reducible apply State.capture_planes | with_reducible apply ite_planes
    | with_reducible apply cell_plane | dsimp only | split | with_reducible apply mk_planes

theorem State.writeWide_planes {s : State} (h : Planes s0 s) (b : Nat) (v : BitVec 64) : Planes s0 (State.writeWide s b v) := by
  unfold State.writeWide
  repeat' first
    | with_reducible assumption | intro _ | with_reducible apply State.setTurnPlan_planes | with_reducible apply State.writeJobStep_planes
    | with_reducible apply State.discard_planes | with_reducible apply ite_planes | dsimp only | split
    | refine fst_planes (by with_reducible assumption) ?_ | refine snd_planes (by with_reducible assumption) ?_
    | with_reducible apply mk_planes

theorem State.writeHalf_planes {s : State} (h : Planes s0 s) (b : Nat) (high : Bool) (w : BitVec 32) :
    Planes s0 (State.writeHalf s b high w) := by
  unfold State.writeHalf
  repeat' first
    | with_reducible assumption | intro _ | with_reducible apply State.writeWide_planes | with_reducible apply ite_planes | dsimp only
    | split | with_reducible apply mk_planes

theorem State.badSize_planes {s : State} (h : Planes s0 s) (fn : Nat) (off : Nat) : Planes s0 (State.badSize s fn off) := by
  unfold State.badSize
  repeat' first
    | with_reducible assumption | intro _ | with_reducible apply State.onFn_planes | with_reducible apply State.err_planes
    | with_reducible apply ite_planes | dsimp only | split | refine fst_planes (by with_reducible assumption) ?_
    | refine snd_planes (by with_reducible assumption) ?_ | with_reducible apply mk_planes

theorem State.readHalf_planes {s : State} (h : Planes s0 s) (b : Nat) (high : Bool) : Planes s0 (State.readHalf s b high).2 := by
  unfold State.readHalf
  repeat' first
    | with_reducible assumption | intro _ | with_reducible apply ite_planes | with_reducible apply ite_snd_planes | dsimp only | split
    | with_reducible apply mk_planes

theorem State.readAt_planes {s : State} (h : Planes s0 s) (fn : Nat) (off : Nat) : Planes s0 (State.readAt s fn off).2 := by
  unfold State.readAt
  repeat' first
    | with_reducible assumption | intro _ | with_reducible apply State.readHalf_planes | with_reducible apply State.recvWord_planes
    | with_reducible apply ite_planes | with_reducible apply ite_snd_planes | dsimp only | split
    | refine fst_planes (by with_reducible assumption) ?_ | refine snd_planes (by with_reducible assumption) ?_
    | with_reducible apply mk_planes

theorem State.readReg_planes {s : State} (h : Planes s0 s) (fn : Nat) (off : Nat) (size : Nat) :
    Planes s0 (State.readReg s fn off size).2 := by
  unfold State.readReg
  repeat' first
    | with_reducible assumption | intro _ | with_reducible apply State.readAt_planes | with_reducible apply State.badSize_planes
    | with_reducible apply ite_planes | with_reducible apply ite_snd_planes | dsimp only | split | with_reducible apply mk_planes

end Sys2Proof.Machine
end

