-- ==== Sys2Proof/Laws/PlanesCommands.lean ====
section
/-!
SUPPORT. The commands that leave the active figure and plane select of every cell alone: one law per command.
-/

namespace Sys2Proof.Machine

theorem execPortTrain_planes (t : Nat) (cell : Fin 8) (port : Fin 12) (offered : Nat) (trained : Bool) (s : State) :
    ∃ s1, execPortTrain t cell port offered trained s = .next s1 ∧ Planes (s.at t) s1 := by
  refine ⟨_, rfl, State.run_planes (fun x hx => ?_)⟩
  repeat' first
    | with_reducible assumption | intro _ | with_reducible apply State.train_planes | dsimp only | with_reducible apply mk_planes

theorem execPortRetrain_planes (t : Nat) (cell : Fin 8) (port : Fin 12) (s : State) :
    ∃ s1, execPortRetrain t cell port s = .next s1 ∧ Planes (s.at t) s1 := by
  refine ⟨_, rfl, State.run_planes (fun x hx => ?_)⟩
  repeat' first
    | with_reducible assumption | intro _ | with_reducible apply State.retrain_planes | dsimp only | with_reducible apply mk_planes

theorem execQuarantineEnd_planes (t : Nat) (cell : Fin 8) (port : Fin 12) (s : State) :
    ∃ s1, execQuarantineEnd t cell port s = .next s1 ∧ Planes (s.at t) s1 := by
  refine ⟨_, rfl, State.run_planes (fun x hx => ?_)⟩
  repeat' first
    | with_reducible assumption | intro _ | with_reducible apply State.endQuarantine_planes | with_reducible apply ite_planes | dsimp only
    | split | refine fst_planes (by with_reducible assumption) ?_ | refine snd_planes (by with_reducible assumption) ?_
    | with_reducible apply mk_planes

theorem execPresence_planes (t : Nat) (cell : Fin 8) (port : Fin 12) (f : Frame) (s : State) :
    ∃ s1, execPresence t cell port f s = .next s1 ∧ Planes (s.at t) s1 := by
  refine ⟨_, rfl, State.run_planes (fun x hx => ?_)⟩
  repeat' first
    | with_reducible assumption | intro _ | with_reducible apply State.accept_planes | with_reducible apply State.takePresence_planes
    | with_reducible apply State.bufferPresence_planes | with_reducible apply ite_planes | dsimp only | split
    | refine fst_planes (by with_reducible assumption) ?_ | refine snd_planes (by with_reducible assumption) ?_
    | with_reducible apply mk_planes

theorem execPresenceBeacon_planes (t : Nat) (cell : Fin 8) (port : Fin 12) (s : State) :
    ∃ s1, execPresenceBeacon t cell port s = .next s1 ∧ Planes (s.at t) s1 := by
  refine ⟨_, rfl, State.run_planes (fun x hx => ?_)⟩
  repeat' first
    | with_reducible assumption | intro _ | with_reducible apply State.sendPort_planes | with_reducible apply ite_planes | dsimp only
    | split | with_reducible apply mk_planes

theorem execDiscoveryAccept_planes (t : Nat) (s : State) : ∃ s1, execDiscoveryAccept t s = .next s1 ∧ Planes (s.at t) s1 := by
  refine ⟨_, rfl, State.run_planes (fun x hx => ?_)⟩
  repeat' first
    | with_reducible assumption | intro _ | with_reducible apply State.takePresence_planes | with_reducible apply State.onCell_planes
    | with_reducible apply ite_planes | with_reducible apply foldl_planes | with_reducible apply foldl_fst_planes
    | with_reducible apply Cell.onPort_plane | with_reducible apply cell_plane | with_reducible apply plane_foldl | dsimp only | split
    | with_reducible apply mk_planes

theorem execHold_planes (t : Nat) (cell : Fin 8) (port : Fin 12) (f : Frame) (s : State) :
    ∃ s1, execHold t cell port f s = .next s1 ∧ Planes (s.at t) s1 := by
  refine ⟨_, rfl, State.run_planes (fun x hx => ?_)⟩
  repeat' first
    | with_reducible assumption | intro _ | with_reducible apply State.accept_planes | with_reducible apply State.takeHold_planes
    | with_reducible apply ite_planes | dsimp only | split | refine fst_planes (by with_reducible assumption) ?_
    | refine snd_planes (by with_reducible assumption) ?_ | with_reducible apply mk_planes

theorem execHoldOffEnd_planes (t : Nat) (cell : Fin 8) (port : Fin 12) (s : State) :
    ∃ s1, execHoldOffEnd t cell port s = .next s1 ∧ Planes (s.at t) s1 := by
  refine ⟨_, rfl, State.run_planes (fun x hx => ?_)⟩
  repeat' first
    | with_reducible assumption | intro _ | with_reducible apply State.onCell_planes | with_reducible apply State.pump_planes
    | with_reducible apply ite_planes | with_reducible apply Cell.onPort_plane | with_reducible apply cell_plane | dsimp only | split
    | refine fst_planes (by with_reducible assumption) ?_ | refine snd_planes (by with_reducible assumption) ?_
    | with_reducible apply mk_planes

theorem execCreditReturn_planes (t : Nat) (cell : Fin 8) (port : Fin 12) (f : Frame) (s : State) :
    ∃ s1, execCreditReturn t cell port f s = .next s1 ∧ Planes (s.at t) s1 := by
  refine ⟨_, rfl, State.run_planes (fun x hx => ?_)⟩
  repeat' first
    | with_reducible assumption | intro _ | with_reducible apply State.accept_planes | with_reducible apply State.takeReturn_planes
    | with_reducible apply ite_planes | dsimp only | split | refine fst_planes (by with_reducible assumption) ?_
    | refine snd_planes (by with_reducible assumption) ?_ | with_reducible apply mk_planes

theorem execCreditReturnTick_planes (t : Nat) (cell : Fin 8) (port : Fin 12) (s : State) :
    ∃ s1, execCreditReturnTick t cell port s = .next s1 ∧ Planes (s.at t) s1 := by
  refine ⟨_, rfl, State.run_planes (fun x hx => ?_)⟩
  repeat' first
    | with_reducible assumption | intro _ | with_reducible apply State.returnCredits_planes | with_reducible apply ite_planes | dsimp only
    | split | with_reducible apply mk_planes

theorem execVoidFrame_planes (t : Nat) (cell : Fin 8) (port : Fin 12) (f : Frame) (s : State) :
    ∃ s1, execVoidFrame t cell port f s = .next s1 ∧ Planes (s.at t) s1 := by
  refine ⟨_, rfl, State.run_planes (fun x hx => ?_)⟩
  repeat' first
    | with_reducible assumption | intro _ | with_reducible apply State.accept_planes | with_reducible apply State.causeAt_planes
    | with_reducible apply ite_planes | dsimp only | split | refine fst_planes (by with_reducible assumption) ?_
    | refine snd_planes (by with_reducible assumption) ?_ | with_reducible apply mk_planes

theorem execOffer_planes (t : Nat) (cell : Fin 8) (port : Fin 12) (f : Frame) (authentic : Bool) (s : State) :
    ∃ s1, execOffer t cell port f authentic s = .next s1 ∧ Planes (s.at t) s1 := by
  refine ⟨_, rfl, State.run_planes (fun x hx => ?_)⟩
  repeat' first
    | with_reducible assumption | intro _ | with_reducible apply State.accept_planes
    | refine State.joinRelay_planes (by with_reducible assumption) ?_ | with_reducible apply State.takeOffer_planes
    | with_reducible apply ite_planes | dsimp only | split | refine fst_planes (by with_reducible assumption) ?_
    | refine snd_planes (by with_reducible assumption) ?_ | with_reducible apply mk_planes

theorem execRefuse_planes (t : Nat) (cell : Fin 8) (port : Fin 12) (f : Frame) (s : State) :
    ∃ s1, execRefuse t cell port f s = .next s1 ∧ Planes (s.at t) s1 := by
  refine ⟨_, rfl, State.run_planes (fun x hx => ?_)⟩
  have ha := State.accept_planes hx cell port f
  exact ite_planes ha (getD_planes (fun _ e => State.joinRelay_planes e ha) ha)

theorem execLeave_planes (t : Nat) (cell : Fin 8) (port : Fin 12) (f : Frame) (s : State) :
    ∃ s1, execLeave t cell port f s = .next s1 ∧ Planes (s.at t) s1 := by
  refine ⟨_, rfl, State.run_planes (fun x hx => ?_)⟩
  repeat' first
    | with_reducible assumption | intro _ | with_reducible apply State.accept_planes | with_reducible apply State.takeLeave_planes
    | with_reducible apply ite_planes | dsimp only | split | refine fst_planes (by with_reducible assumption) ?_
    | refine snd_planes (by with_reducible assumption) ?_ | with_reducible apply mk_planes

theorem execLevel_planes (t : Nat) (cell : Fin 8) (port : Fin 12) (f : Frame) (s : State) :
    ∃ s1, execLevel t cell port f s = .next s1 ∧ Planes (s.at t) s1 := by
  refine ⟨_, rfl, State.run_planes (fun x hx => ?_)⟩
  repeat' first
    | with_reducible assumption | intro _ | with_reducible apply State.accept_planes
    | refine State.joinRelay_planes (by with_reducible assumption) ?_ | with_reducible apply State.levelFrame_planes
    | with_reducible apply ite_planes | dsimp only | split | refine fst_planes (by with_reducible assumption) ?_
    | refine snd_planes (by with_reducible assumption) ?_ | with_reducible apply mk_planes

theorem execRouteUnit_planes (t : Nat) (cell : Fin 8) (who : BitVec 8) (e : Entry) (s : State) :
    ∃ s1, execRouteUnit t cell who e s = .next s1 ∧ Planes (s.at t) s1 := by
  refine ⟨_, rfl, State.run_planes (fun x hx => ?_)⟩
  repeat' first
    | with_reducible assumption | intro _ | with_reducible apply State.takeRoutes_planes | with_reducible apply ite_planes | dsimp only
    | split | with_reducible apply mk_planes

theorem execTimeSyncTick_planes (t : Nat) (cell : Fin 8) (s : State) : ∃ s1, execTimeSyncTick t cell s = .next s1 ∧ Planes (s.at t) s1 := by
  refine ⟨_, rfl, State.run_planes (fun x hx => ?_)⟩
  repeat' first
    | with_reducible assumption | intro _ | with_reducible apply State.sendTime_planes | with_reducible apply ite_planes
    | with_reducible apply foldl_planes | with_reducible apply foldl_fst_planes | dsimp only | split | with_reducible apply mk_planes

theorem execTimeSync_planes (t : Nat) (cell : Fin 8) (port : Fin 12) (f : Frame) (s : State) :
    ∃ s1, execTimeSync t cell port f s = .next s1 ∧ Planes (s.at t) s1 := by
  refine ⟨_, rfl, State.run_planes (fun x hx => ?_)⟩
  repeat' first
    | with_reducible assumption | intro _ | with_reducible apply State.accept_planes | with_reducible apply State.takeSync_planes
    | with_reducible apply ite_planes | dsimp only | split | refine fst_planes (by with_reducible assumption) ?_
    | refine snd_planes (by with_reducible assumption) ?_ | with_reducible apply mk_planes

theorem execDelayRequest_planes (t : Nat) (cell : Fin 8) (port : Fin 12) (f : Frame) (s : State) :
    ∃ s1, execDelayRequest t cell port f s = .next s1 ∧ Planes (s.at t) s1 := by
  refine ⟨_, rfl, State.run_planes (fun x hx => ?_)⟩
  repeat' first
    | with_reducible assumption | intro _ | with_reducible apply State.accept_planes | with_reducible apply State.sendTime_planes
    | with_reducible apply ite_planes | dsimp only | split | refine fst_planes (by with_reducible assumption) ?_
    | refine snd_planes (by with_reducible assumption) ?_ | with_reducible apply mk_planes

theorem execDelayResponse_planes (t : Nat) (cell : Fin 8) (port : Fin 12) (f : Frame) (s : State) :
    ∃ s1, execDelayResponse t cell port f s = .next s1 ∧ Planes (s.at t) s1 := by
  refine ⟨_, rfl, State.run_planes (fun x hx => ?_)⟩
  repeat' first
    | with_reducible assumption | intro _ | with_reducible apply State.accept_planes | with_reducible apply State.onCell_planes
    | with_reducible apply Cell.onPort_plane | with_reducible apply cell_plane | dsimp only | split
    | refine fst_planes (by with_reducible assumption) ?_ | refine snd_planes (by with_reducible assumption) ?_
    | with_reducible apply mk_planes

theorem execHeartbeat_planes (t : Nat) (cell : Fin 8) (port : Fin 12) (f : Frame) (s : State) :
    ∃ s1, execHeartbeat t cell port f s = .next s1 ∧ Planes (s.at t) s1 := by
  refine ⟨_, rfl, State.run_planes (fun x hx => ?_)⟩
  repeat' first
    | with_reducible assumption | intro _ | with_reducible apply State.accept_planes | with_reducible apply State.takeBeat_planes
    | with_reducible apply ite_planes | dsimp only | split | refine fst_planes (by with_reducible assumption) ?_
    | refine snd_planes (by with_reducible assumption) ?_ | with_reducible apply mk_planes

theorem execSyncWireFail_planes (t : Nat) (cell : Fin 8) (port : Fin 4) (s : State) :
    ∃ s1, execSyncWireFail t cell port s = .next s1 ∧ Planes (s.at t) s1 := by
  refine ⟨_, rfl, State.run_planes (fun x hx => ?_)⟩
  repeat' first
    | with_reducible assumption | intro _ | with_reducible apply State.sendSync_planes | with_reducible apply State.err_planes
    | with_reducible apply ite_planes | with_reducible apply foldl_planes | with_reducible apply foldl_fst_planes | dsimp only | split
    | with_reducible apply mk_planes

theorem execPerstN_planes (t : Nat) (level : Bool) (s : State) : ∃ s1, execPerstN t level s = .next s1 ∧ Planes (s.at t) s1 := by
  refine ⟨_, rfl, State.run_planes (fun x hx => ?_)⟩
  repeat' first
    | with_reducible assumption | intro _ | with_reducible apply State.loseHost_planes | with_reducible apply State.resetFns_planes
    | with_reducible apply State.resetPortRegs_planes | with_reducible apply ite_planes | dsimp only | split
    | with_reducible apply mk_planes

theorem execHostLinkReset_planes (t : Nat) (how : Fin 3) (s : State) : ∃ s1, execHostLinkReset t how s = .next s1 ∧ Planes (s.at t) s1 := by
  refine ⟨_, rfl, State.run_planes (fun x hx => ?_)⟩
  repeat' first
    | with_reducible assumption | intro _ | with_reducible apply State.loseHost_planes | with_reducible apply State.resetFns_planes
    | with_reducible apply State.resetPortRegs_planes | with_reducible apply ite_planes | dsimp only | split
    | with_reducible apply mk_planes

theorem execHostPathReturn_planes (t : Nat) (s : State) : ∃ s1, execHostPathReturn t s = .next s1 ∧ Planes (s.at t) s1 := by
  refine ⟨_, rfl, State.run_planes (fun x hx => ?_)⟩
  repeat' first
    | with_reducible assumption | intro _ | with_reducible apply ite_planes | dsimp only | split | with_reducible apply mk_planes

theorem execVfFlr_planes (t : Nat) (vf : Fin 64) (s : State) : ∃ s1, execVfFlr t vf s = .next s1 ∧ Planes (s.at t) s1 := by
  refine ⟨_, rfl, State.run_planes (fun x hx => ?_)⟩
  repeat' first
    | with_reducible assumption | intro _ | with_reducible apply State.flrFn_planes | with_reducible apply ite_planes | dsimp only | split
    | with_reducible apply mk_planes

theorem execPfFlr_planes (t : Nat) (s : State) : ∃ s1, execPfFlr t s = .next s1 ∧ Planes (s.at t) s1 := by
  refine ⟨_, rfl, State.run_planes (fun x hx => ?_)⟩
  repeat' first
    | with_reducible assumption | intro _ | with_reducible apply State.flrFn_planes | with_reducible apply State.abandonLoads_planes
    | with_reducible apply State.resetPortRegs_planes | with_reducible apply ite_planes | with_reducible apply foldl_planes
    | with_reducible apply foldl_fst_planes | dsimp only | split | with_reducible apply mk_planes

theorem execFlrComplete_planes (t : Nat) (fn : Fin 64) (s : State) : ∃ s1, execFlrComplete t fn s = .next s1 ∧ Planes (s.at t) s1 := by
  refine ⟨_, rfl, State.run_planes (fun x hx => ?_)⟩
  repeat' first
    | with_reducible assumption | intro _ | with_reducible apply State.onFn_planes | with_reducible apply ite_planes | dsimp only | split
    | with_reducible apply mk_planes

theorem execSqTail_planes (t : Nat) (fn : Fin 64) (ring : Fin 8) (value : BitVec 16) (s : State) :
    ∃ s1, execSqTail t fn ring value s = .next s1 ∧ Planes (s.at t) s1 := by
  refine ⟨_, rfl, State.run_planes (fun x hx => ?_)⟩
  repeat' first
    | with_reducible assumption | intro _ | with_reducible apply State.writeTail_planes | with_reducible apply ite_planes | dsimp only
    | split | with_reducible apply mk_planes

theorem execRingEnable_planes (t : Nat) (fn : Fin 64) (ring : Nat) (value : BitVec 32) (s : State) :
    ∃ s1, execRingEnable t fn ring value s = .next s1 ∧ Planes (s.at t) s1 := by
  refine ⟨_, rfl, State.run_planes (fun x hx => ?_)⟩
  repeat' first
    | with_reducible assumption | intro _ | with_reducible apply State.ringControl_planes | with_reducible apply ite_planes | dsimp only
    | split | with_reducible apply mk_planes

theorem execCompletionWrite_planes (t : Nat) (fn : Fin 64) (s : State) :
    ∃ s1, execCompletionWrite t fn s = .next s1 ∧ Planes (s.at t) s1 := by
  refine ⟨_, rfl, State.run_planes (fun x hx => ?_)⟩
  repeat' first
    | with_reducible assumption | intro _ | with_reducible apply State.writeBatch_planes | with_reducible apply ite_planes | dsimp only
    | split | with_reducible apply mk_planes

theorem execPtmRequest_planes (t : Nat) (master : Nat) (s : State) : ∃ s1, execPtmRequest t master s = .next s1 ∧ Planes (s.at t) s1 := by
  refine ⟨_, rfl, State.run_planes (fun x hx => ?_)⟩
  repeat' first
    | with_reducible assumption | intro _ | with_reducible apply State.setTime_planes | with_reducible apply ite_planes | dsimp only
    | split | with_reducible apply mk_planes

theorem execSendData_planes (t : Nat) (who : BitVec 8) (chan : Fin 64) (w : BitVec 32) (s : State) :
    ∃ s1, execSendData t who chan w s = .next s1 ∧ Planes (s.at t) s1 := by
  refine ⟨_, rfl, State.run_planes (fun x hx => ?_)⟩
  repeat' first
    | with_reducible assumption | intro _ | with_reducible apply State.sendWord_planes | with_reducible apply ite_planes | dsimp only
    | split | with_reducible apply mk_planes

theorem execSendDb_planes (t : Nat) (who : BitVec 8) (chan : Fin 64) (w : BitVec 32) (s : State) :
    ∃ s1, execSendDb t who chan w s = .next s1 ∧ Planes (s.at t) s1 := by
  refine ⟨_, rfl, State.run_planes (fun x hx => ?_)⟩
  repeat' first
    | with_reducible assumption | intro _ | with_reducible apply State.sendBell_planes | with_reducible apply ite_planes | dsimp only
    | split | with_reducible apply mk_planes

theorem execRecvData_planes (t : Nat) (who : BitVec 8) (chan : Fin 64) (s : State) :
    ∃ s1, execRecvData t who chan s = .next s1 ∧ Planes (s.at t) s1 := by
  refine ⟨_, rfl, State.run_planes (fun x hx => ?_)⟩
  repeat' first
    | with_reducible assumption | intro _ | with_reducible apply State.recvWord_planes | with_reducible apply State.emit_planes
    | with_reducible apply ite_planes | dsimp only | split | refine fst_planes (by with_reducible assumption) ?_
    | refine snd_planes (by with_reducible assumption) ?_ | with_reducible apply mk_planes

theorem execRecvPend_planes (t : Nat) (who : BitVec 8) (chan : Fin 64) (w : BitVec 32) (s : State) :
    ∃ s1, execRecvPend t who chan w s = .next s1 ∧ Planes (s.at t) s1 := by
  refine ⟨_, rfl, State.run_planes (fun x hx => ?_)⟩
  repeat' first
    | with_reducible assumption | intro _ | with_reducible apply State.recvClear_planes | with_reducible apply ite_planes | dsimp only
    | split | with_reducible apply mk_planes

theorem execAlloc_planes (t : Nat) (cell : Fin 8) (src : Source) (e : Entry) (s : State) :
    ∃ s1, execAlloc t cell src e s = .next s1 ∧ Planes (s.at t) s1 := by
  refine ⟨_, rfl, State.run_planes (fun x hx => ?_)⟩
  repeat' first
    | with_reducible assumption | intro _ | with_reducible apply State.entryAt_planes | with_reducible apply State.doTensor_planes
    | dsimp only | with_reducible apply mk_planes

theorem execReady_planes (t : Nat) (cell : Fin 8) (src : Source) (e : Entry) (s : State) :
    ∃ s1, execReady t cell src e s = .next s1 ∧ Planes (s.at t) s1 := by
  refine ⟨_, rfl, State.run_planes (fun x hx => ?_)⟩
  repeat' first
    | with_reducible assumption | intro _ | with_reducible apply State.entryAt_planes | with_reducible apply State.doTensor_planes
    | dsimp only | with_reducible apply mk_planes

theorem execFree_planes (t : Nat) (cell : Fin 8) (src : Source) (e : Entry) (s : State) :
    ∃ s1, execFree t cell src e s = .next s1 ∧ Planes (s.at t) s1 := by
  refine ⟨_, rfl, State.run_planes (fun x hx => ?_)⟩
  repeat' first
    | with_reducible assumption | intro _ | with_reducible apply State.entryAt_planes | with_reducible apply State.doTensor_planes
    | dsimp only | with_reducible apply mk_planes

theorem execBar2Write_planes (t : Nat) (who : BitVec 8) (off : Nat) (bytes : List Byte) (s : State) :
    ∃ s1, execBar2Write t who off bytes s = .next s1 ∧ Planes (s.at t) s1 := by
  refine ⟨_, rfl, State.run_planes (fun x hx => ?_)⟩
  have hf (dev : Nat) := foldl_fst_planes bytes.zipIdx (fun (acc : State × Bool) b => acc.1.devicePut acc.2 (dev + b.2) b.1)
    (a := (x, true)) hx (fun y b hy => State.devicePut_planes hy ..)
  exact ite_planes hx (ite_planes (hf _) (State.badAccess_planes (hf _) _))

theorem execBar2Read_planes (t : Nat) (who : BitVec 8) (off n : Nat) (s : State) :
    ∃ s1, execBar2Read t who off n s = .next s1 ∧ Planes (s.at t) s1 := by
  refine ⟨_, rfl, State.run_planes (fun x hx => ?_)⟩
  exact ite_planes hx (State.emit_planes (ite_planes hx (State.badAccess_planes hx _)) _)

theorem execMigration_planes (t : Nat) (cell : Fin 8) (n : Nat) (s : State) :
    ∃ s1, execMigration t cell n s = .next s1 ∧ Planes (s.at t) s1 := by
  refine ⟨_, rfl, State.run_planes (fun x hx => ?_)⟩
  repeat' first
    | with_reducible assumption | intro _ | with_reducible apply State.onCell_planes | with_reducible apply ite_planes
    | with_reducible apply Cell.rise_plane | with_reducible apply cell_plane | dsimp only | split | with_reducible apply mk_planes

theorem execPatrolScrub_planes (t : Nat) (cell : Fin 8) (hits : List EccHit) (sweepDone : Bool) (s : State) :
    ∃ s1, execPatrolScrub t cell hits sweepDone s = .next s1 ∧ Planes (s.at t) s1 := by
  refine ⟨_, rfl, State.run_planes (fun x hx => ?_)⟩
  repeat' first
    | with_reducible assumption | intro _ | with_reducible apply State.eccHit_planes | with_reducible apply State.onCell_planes
    | with_reducible apply ite_planes | with_reducible apply foldl_planes | with_reducible apply foldl_fst_planes
    | with_reducible apply cell_plane | with_reducible apply plane_foldl | dsimp only | split | with_reducible apply mk_planes

theorem execSweepOverdue_planes (t : Nat) (cell : Fin 8) (s : State) : ∃ s1, execSweepOverdue t cell s = .next s1 ∧ Planes (s.at t) s1 := by
  refine ⟨_, rfl, State.run_planes (fun x hx => ?_)⟩
  repeat' first
    | with_reducible assumption | intro _ | with_reducible apply State.err_planes | with_reducible apply ite_planes | dsimp only | split
    | with_reducible apply mk_planes

theorem execProduct_planes (t : Nat) (cell : Fin 8) (core : Fin 128) (s : State) :
    ∃ s1, execProduct t cell core s = .next s1 ∧ Planes (s.at t) s1 := by
  refine ⟨_, rfl, State.run_planes (fun x hx => ?_)⟩
  repeat' first
    | with_reducible assumption | intro _ | refine State.issue_planes (by with_reducible assumption) ?_
    | with_reducible apply State.product_planes | dsimp only | split | refine fst_planes (by with_reducible assumption) ?_
    | refine snd_planes (by with_reducible assumption) ?_ | with_reducible apply mk_planes

theorem execTileRedo_planes (t : Nat) (cell : Fin 8) (core : Fin 128) (tile : Nat) (same : Bool) (passes : Bool) (s : State) :
    ∃ s1, execTileRedo t cell core tile same passes s = .next s1 ∧ Planes (s.at t) s1 := by
  refine ⟨_, rfl, State.run_planes (fun x hx => ?_)⟩
  repeat' first
    | with_reducible assumption | intro _ | with_reducible apply State.onCore_planes | with_reducible apply State.err_planes
    | with_reducible apply State.cause_planes | with_reducible apply State.useRedo_planes | with_reducible apply State.countFault_planes
    | with_reducible apply State.fenceNow_planes | with_reducible apply ite_planes | with_reducible apply Cell.onCore_plane
    | with_reducible apply cell_plane | dsimp only | split | refine fst_planes (by with_reducible assumption) ?_
    | refine snd_planes (by with_reducible assumption) ?_ | with_reducible apply mk_planes

theorem execRow_planes (t : Nat) (cell : Fin 8) (core : Fin 128) (rep : Repeat) (s : State) :
    ∃ s1, execRow t cell core rep s = .next s1 ∧ Planes (s.at t) s1 := by
  refine ⟨_, rfl, State.run_planes (fun x hx => ?_)⟩
  repeat' first
    | with_reducible assumption | intro _ | refine State.issue_planes (by with_reducible assumption) ?_
    | with_reducible apply State.rowOp_planes | dsimp only | split | refine fst_planes (by with_reducible assumption) ?_
    | refine snd_planes (by with_reducible assumption) ?_ | with_reducible apply mk_planes

theorem execRoute_planes (t : Nat) (cell : Fin 8) (core : Fin 128) (rep : Repeat) (s : State) :
    ∃ s1, execRoute t cell core rep s = .next s1 ∧ Planes (s.at t) s1 := by
  refine ⟨_, rfl, State.run_planes (fun x hx => ?_)⟩
  repeat' first
    | with_reducible assumption | intro _ | refine State.issue_planes (by with_reducible assumption) ?_
    | with_reducible apply State.routeOp_planes | dsimp only | split | refine fst_planes (by with_reducible assumption) ?_
    | refine snd_planes (by with_reducible assumption) ?_ | with_reducible apply mk_planes

theorem execSample_planes (t : Nat) (cell : Fin 8) (core : Fin 128) (lanes : List (Nat × Bool)) (s : State) :
    ∃ s1, execSample t cell core lanes s = .next s1 ∧ Planes (s.at t) s1 := by
  refine ⟨_, rfl, State.run_planes (fun x hx => ?_)⟩
  repeat' first
    | with_reducible assumption | intro _ | refine State.issue_planes (by with_reducible assumption) ?_
    | with_reducible apply State.sampleOp_planes | dsimp only | split | refine fst_planes (by with_reducible assumption) ?_
    | refine snd_planes (by with_reducible assumption) ?_ | with_reducible apply mk_planes

theorem execMask_planes (t : Nat) (cell : Fin 8) (core : Fin 128) (rep : Repeat) (s : State) :
    ∃ s1, execMask t cell core rep s = .next s1 ∧ Planes (s.at t) s1 := by
  refine ⟨_, rfl, State.run_planes (fun x hx => ?_)⟩
  repeat' first
    | with_reducible assumption | intro _ | refine State.issue_planes (by with_reducible assumption) ?_
    | with_reducible apply State.maskOp_planes | dsimp only | split | refine fst_planes (by with_reducible assumption) ?_
    | refine snd_planes (by with_reducible assumption) ?_ | with_reducible apply mk_planes

theorem execMove_planes (t : Nat) (cell : Fin 8) (core : Fin 128) (s : State) :
    ∃ s1, execMove t cell core s = .next s1 ∧ Planes (s.at t) s1 := by
  refine ⟨_, rfl, State.run_planes (fun x hx => ?_)⟩
  repeat' first
    | with_reducible assumption | intro _ | refine State.issue_planes (by with_reducible assumption) ?_
    | with_reducible apply State.moveOp_planes | dsimp only | split | refine fst_planes (by with_reducible assumption) ?_
    | refine snd_planes (by with_reducible assumption) ?_ | with_reducible apply mk_planes

theorem execTileFrame_planes (t : Nat) (cell : Fin 8) (port : Fin 12) (f : Frame) (s : State) :
    ∃ s1, execTileFrame t cell port f s = .next s1 ∧ Planes (s.at t) s1 := by
  refine ⟨_, rfl, State.run_planes (fun x hx => ?_)⟩
  repeat' first
    | with_reducible assumption | intro _ | with_reducible apply State.accept_planes | with_reducible apply State.takeTile_planes
    | with_reducible apply ite_planes | dsimp only | split | refine fst_planes (by with_reducible assumption) ?_
    | refine snd_planes (by with_reducible assumption) ?_ | with_reducible apply mk_planes

theorem execReducePart_planes (t : Nat) (cell : Fin 8) (port : Fin 12) (f : Frame) (s : State) :
    ∃ s1, execReducePart t cell port f s = .next s1 ∧ Planes (s.at t) s1 := by
  refine ⟨_, rfl, State.run_planes (fun x hx => ?_)⟩
  repeat' first
    | with_reducible assumption | intro _ | with_reducible apply State.accept_planes | with_reducible apply State.takeTile_planes
    | with_reducible apply ite_planes | dsimp only | split | refine fst_planes (by with_reducible assumption) ?_
    | refine snd_planes (by with_reducible assumption) ?_ | with_reducible apply mk_planes

theorem execReadRequest_planes (t : Nat) (cell : Fin 8) (port : Fin 12) (f : Frame) (s : State) :
    ∃ s1, execReadRequest t cell port f s = .next s1 ∧ Planes (s.at t) s1 := by
  refine ⟨_, rfl, State.run_planes (fun x hx => ?_)⟩
  repeat' first
    | with_reducible assumption | intro _ | with_reducible apply State.accept_planes | with_reducible apply State.takeRead_planes
    | with_reducible apply ite_planes | dsimp only | split | refine fst_planes (by with_reducible assumption) ?_
    | refine snd_planes (by with_reducible assumption) ?_ | with_reducible apply mk_planes

theorem execSyncFrame_planes (t : Nat) (cell : Fin 8) (port : Fin 12) (f : Frame) (s : State) :
    ∃ s1, execSyncFrame t cell port f s = .next s1 ∧ Planes (s.at t) s1 := by
  refine ⟨_, rfl, State.run_planes (fun x hx => ?_)⟩
  repeat' first
    | with_reducible assumption | intro _ | with_reducible apply State.accept_planes | with_reducible apply State.frameArrive_planes
    | with_reducible apply ite_planes | dsimp only | split | refine fst_planes (by with_reducible assumption) ?_
    | refine snd_planes (by with_reducible assumption) ?_ | with_reducible apply mk_planes

theorem execSyncOverflowRetry_planes (t : Nat) (cell : Fin 8) (s : State) :
    ∃ s1, execSyncOverflowRetry t cell s = .next s1 ∧ Planes (s.at t) s1 := by
  refine ⟨_, rfl, State.run_planes (fun x hx => ?_)⟩
  repeat' first
    | with_reducible assumption | intro _ | with_reducible apply State.retryOvf_planes | with_reducible apply State.onCell_planes
    | with_reducible apply State.giveWithheld_planes | with_reducible apply cell_plane | dsimp only
    | refine fst_planes (by with_reducible assumption) ?_ | refine snd_planes (by with_reducible assumption) ?_
    | with_reducible apply mk_planes

theorem execCreditGrant_planes (t : Nat) (cell : Fin 8) (port : Fin 12) (f : Frame) (s : State) :
    ∃ s1, execCreditGrant t cell port f s = .next s1 ∧ Planes (s.at t) s1 := by
  refine ⟨_, rfl, State.run_planes (fun x hx => ?_)⟩
  repeat' first
    | with_reducible assumption | intro _ | with_reducible apply State.accept_planes | with_reducible apply State.onCell_planes
    | with_reducible apply State.retryParts_planes | with_reducible apply ite_planes | with_reducible apply cell_plane | dsimp only | split
    | refine fst_planes (by with_reducible assumption) ?_ | refine snd_planes (by with_reducible assumption) ?_
    | with_reducible apply mk_planes

theorem execElement_planes (t : Nat) (cell : Fin 8) (core : Fin 128) (s : State) :
    ∃ s1, execElement t cell core s = .next s1 ∧ Planes (s.at t) s1 := by
  refine ⟨_, rfl, State.run_planes (fun x hx => ?_)⟩
  repeat' first
    | with_reducible assumption | intro _ | refine State.issue_planes (by with_reducible assumption) ?_
    | with_reducible apply State.elementOp_planes | dsimp only | split | refine fst_planes (by with_reducible assumption) ?_
    | refine snd_planes (by with_reducible assumption) ?_ | with_reducible apply mk_planes

theorem execReduce_planes (t : Nat) (cell : Fin 8) (core : Fin 128) (s : State) :
    ∃ s1, execReduce t cell core s = .next s1 ∧ Planes (s.at t) s1 := by
  refine ⟨_, rfl, State.run_planes (fun x hx => ?_)⟩
  repeat' first
    | with_reducible assumption | intro _ | refine State.issue_planes (by with_reducible assumption) ?_
    | with_reducible apply State.reduceOp_planes | dsimp only | split | refine fst_planes (by with_reducible assumption) ?_
    | refine snd_planes (by with_reducible assumption) ?_ | with_reducible apply mk_planes

theorem execUpdate_planes (t : Nat) (cell : Fin 8) (core : Fin 128) (s : State) :
    ∃ s1, execUpdate t cell core s = .next s1 ∧ Planes (s.at t) s1 := by
  refine ⟨_, rfl, State.run_planes (fun x hx => ?_)⟩
  repeat' first
    | with_reducible assumption | intro _ | refine State.issue_planes (by with_reducible assumption) ?_
    | with_reducible apply State.updateOp_planes | dsimp only | split | refine fst_planes (by with_reducible assumption) ?_
    | refine snd_planes (by with_reducible assumption) ?_ | with_reducible apply mk_planes

theorem execBind_planes (t : Nat) (cell : Fin 8) (src : Source) (e : Entry) (s : State) :
    ∃ s1, execBind t cell src e s = .next s1 ∧ Planes (s.at t) s1 := by
  refine ⟨_, rfl, State.run_planes (fun x hx => ?_)⟩
  repeat' first
    | with_reducible assumption | intro _ | with_reducible apply State.entryAt_planes | with_reducible apply State.doBind_planes
    | dsimp only | with_reducible apply mk_planes

theorem execRuleLoad_planes (t : Nat) (cell : Fin 8) (src : Source) (e : Entry) (s : State) :
    ∃ s1, execRuleLoad t cell src e s = .next s1 ∧ Planes (s.at t) s1 := by
  refine ⟨_, rfl, State.run_planes (fun x hx => ?_)⟩
  repeat' first
    | with_reducible assumption | intro _ | with_reducible apply State.entryAt_planes | with_reducible apply State.doRuleLoad_planes
    | dsimp only | with_reducible apply mk_planes

theorem execMode_planes (t : Nat) (cell : Fin 8) (src : Source) (e : Entry) (s : State) :
    ∃ s1, execMode t cell src e s = .next s1 ∧ Planes (s.at t) s1 := by
  refine ⟨_, rfl, State.run_planes (fun x hx => ?_)⟩
  repeat' first
    | with_reducible assumption | intro _ | with_reducible apply State.entryAt_planes | with_reducible apply State.doMode_planes
    | dsimp only | with_reducible apply mk_planes

theorem execRepair_planes (t : Nat) (cell : Fin 8) (src : Source) (e : Entry) (s : State) :
    ∃ s1, execRepair t cell src e s = .next s1 ∧ Planes (s.at t) s1 := by
  refine ⟨_, rfl, State.run_planes (fun x hx => ?_)⟩
  repeat' first
    | with_reducible assumption | intro _ | with_reducible apply State.entryAt_planes | with_reducible apply State.doRepair_planes
    | dsimp only | with_reducible apply mk_planes

theorem execSnapshot_planes (t : Nat) (cell : Fin 8) (src : Source) (e : Entry) (s : State) :
    ∃ s1, execSnapshot t cell src e s = .next s1 ∧ Planes (s.at t) s1 := by
  refine ⟨_, rfl, State.run_planes (fun x hx => ?_)⟩
  repeat' first
    | with_reducible assumption | intro _ | with_reducible apply State.entryAt_planes | with_reducible apply State.doSnapshot_planes
    | dsimp only | with_reducible apply mk_planes

theorem execSnapshotTransfer_planes (t : Nat) (cell : Fin 8) (tenant : Fin 64) (linkOk : Bool) (s : State) :
    ∃ s1, execSnapshotTransfer t cell tenant linkOk s = .next s1 ∧ Planes (s.at t) s1 := by
  refine ⟨_, rfl, State.run_planes (fun x hx => ?_)⟩
  repeat' first
    | with_reducible assumption | intro _ | with_reducible apply State.endSnapshot_planes | with_reducible apply ite_planes | dsimp only
    | split | with_reducible apply mk_planes

theorem execRatioPass_planes (t : Nat) (cell : Fin 8) (tenant : Fin 64) (s : State) :
    ∃ s1, execRatioPass t cell tenant s = .next s1 ∧ Planes (s.at t) s1 := by
  refine ⟨_, rfl, State.run_planes (fun x hx => ?_)⟩
  repeat' first
    | with_reducible assumption | intro _ | with_reducible apply State.ratioAll_planes | with_reducible apply ite_planes | dsimp only
    | split | with_reducible apply mk_planes

theorem execApplyPass_planes (t : Nat) (cell : Fin 8) (tenant : Fin 64) (faults : List PassFault) (s : State) :
    ∃ s1, execApplyPass t cell tenant faults s = .next s1 ∧ Planes (s.at t) s1 := by
  refine ⟨_, rfl, State.run_planes (fun x hx => ?_)⟩
  repeat' first
    | with_reducible assumption | intro _ | with_reducible apply State.applyAll_planes | with_reducible apply ite_planes | dsimp only
    | split | with_reducible apply mk_planes

theorem execLearningStepBegin_planes (t : Nat) (tenant : Fin 64) (s : State) :
    ∃ s1, execLearningStepBegin t tenant s = .next s1 ∧ Planes (s.at t) s1 := by
  refine ⟨_, rfl, State.run_planes (fun x hx => ?_)⟩
  repeat' first
    | with_reducible assumption | intro _ | with_reducible apply State.openStep_planes | with_reducible apply State.recordWait_planes
    | with_reducible apply ite_planes | dsimp only | split | with_reducible apply mk_planes

theorem execSealReportStepLimit_planes (t : Nat) (tenant : Fin 64) (cell : Fin 8) (s : State) :
    ∃ s1, execSealReportStepLimit t tenant cell s = .next s1 ∧ Planes (s.at t) s1 := by
  refine ⟨_, rfl, State.run_planes (fun x hx => ?_)⟩
  repeat' first
    | with_reducible assumption | intro _ | with_reducible apply State.onCoord_planes | with_reducible apply ite_planes | dsimp only
    | split | with_reducible apply mk_planes

theorem execOrphanTimeout_planes (t : Nat) (s : State) : ∃ s1, execOrphanTimeout t s = .next s1 ∧ Planes (s.at t) s1 := by
  refine ⟨_, rfl, State.run_planes (fun x hx => ?_)⟩
  repeat' first
    | with_reducible assumption | intro _ | with_reducible apply State.loseStep_planes | with_reducible apply ite_planes
    | with_reducible apply foldl_planes | with_reducible apply foldl_fst_planes | dsimp only | split | with_reducible apply mk_planes

theorem execSealReport_planes (t : Nat) (cell : Fin 8) (tenant : Fin 64) (s : State) :
    ∃ s1, execSealReport t cell tenant s = .next s1 ∧ Planes (s.at t) s1 := by
  refine ⟨_, rfl, State.run_planes (fun x hx => ?_)⟩
  repeat' first
    | with_reducible assumption | intro _ | with_reducible apply State.report_planes | with_reducible apply State.takeLoss_planes
    | with_reducible apply ite_planes | dsimp only | split | with_reducible apply mk_planes

theorem execSealDecision_planes (t : Nat) (tenant : Fin 64) (s : State) :
    ∃ s1, execSealDecision t tenant s = .next s1 ∧ Planes (s.at t) s1 := by
  refine ⟨_, rfl, State.run_planes (fun x hx => ?_)⟩
  repeat' first
    | with_reducible assumption | intro _ | with_reducible apply State.spread_planes | dsimp only | split
    | refine fst_planes (by with_reducible assumption) ?_ | refine snd_planes (by with_reducible assumption) ?_
    | with_reducible apply mk_planes

theorem execAnswer_planes (t : Nat) (cell : Fin 8) (src : Source) (e : Entry) (s : State) :
    ∃ s1, execAnswer t cell src e s = .next s1 ∧ Planes (s.at t) s1 := by
  refine ⟨_, rfl, State.run_planes (fun x hx => ?_)⟩
  repeat' first
    | with_reducible assumption | intro _ | with_reducible apply State.entryAt_planes | with_reducible apply State.doAnswer_planes
    | dsimp only | with_reducible apply mk_planes

theorem execAnswerTimeout_planes (t : Nat) (tenant : Fin 64) (s : State) :
    ∃ s1, execAnswerTimeout t tenant s = .next s1 ∧ Planes (s.at t) s1 := by
  refine ⟨_, rfl, State.run_planes (fun x hx => ?_)⟩
  repeat' first
    | with_reducible assumption | intro _ | with_reducible apply State.onCoord_planes | with_reducible apply ite_planes | dsimp only
    | split | refine fst_planes (by with_reducible assumption) ?_ | refine snd_planes (by with_reducible assumption) ?_
    | with_reducible apply mk_planes

theorem execSealComplete_planes (t : Nat) (cell : Fin 8) (tenant : Fin 64) (s : State) :
    ∃ s1, execSealComplete t cell tenant s = .next s1 ∧ Planes (s.at t) s1 := by
  refine ⟨_, rfl, State.run_planes (fun x hx => ?_)⟩
  repeat' first
    | with_reducible assumption | intro _ | with_reducible apply State.sealDone_planes | with_reducible apply ite_planes | dsimp only
    | split | with_reducible apply mk_planes

theorem execGenerationSetup_planes (t : Nat) (cell : Fin 8) (src : Source) (e : Entry) (s : State) :
    ∃ s1, execGenerationSetup t cell src e s = .next s1 ∧ Planes (s.at t) s1 := by
  refine ⟨_, rfl, State.run_planes (fun x hx => ?_)⟩
  repeat' first
    | with_reducible assumption | intro _ | with_reducible apply State.entryAt_planes | with_reducible apply State.doSetup_planes
    | dsimp only | with_reducible apply mk_planes

theorem execRequest_planes (t : Nat) (cell : Fin 8) (src : Source) (e : Entry) (s : State) :
    ∃ s1, execRequest t cell src e s = .next s1 ∧ Planes (s.at t) s1 := by
  refine ⟨_, rfl, State.run_planes (fun x hx => ?_)⟩
  repeat' first
    | with_reducible assumption | intro _ | with_reducible apply State.entryAt_planes | with_reducible apply State.doRequest_planes
    | dsimp only | with_reducible apply mk_planes

theorem execAdmissionRound_planes (t : Nat) (cell : Fin 8) (s : State) :
    ∃ s1, execAdmissionRound t cell s = .next s1 ∧ Planes (s.at t) s1 := by
  refine ⟨_, rfl, State.run_planes (fun x hx => ?_)⟩
  repeat' first
    | with_reducible assumption | intro _ | with_reducible apply State.serviceRound_planes | with_reducible apply State.renewMail_planes
    | with_reducible apply ite_planes | dsimp only | split | with_reducible apply mk_planes

theorem execCancel_planes (t : Nat) (cell : Fin 8) (src : Source) (e : Entry) (s : State) :
    ∃ s1, execCancel t cell src e s = .next s1 ∧ Planes (s.at t) s1 := by
  refine ⟨_, rfl, State.run_planes (fun x hx => ?_)⟩
  repeat' first
    | with_reducible assumption | intro _ | with_reducible apply State.entryAt_planes | with_reducible apply State.doCancel_planes
    | dsimp only | with_reducible apply mk_planes

theorem execRecordWritten_planes (t : Nat) (cell : Fin 8) (entry : Nat) (s : State) :
    ∃ s1, execRecordWritten t cell entry s = .next s1 ∧ Planes (s.at t) s1 := by
  refine ⟨_, rfl, State.run_planes (fun x hx => ?_)⟩
  repeat' first
    | with_reducible assumption | intro _ | with_reducible apply State.freeEntries_planes | with_reducible apply ite_planes
    | with_reducible apply cell_plane | dsimp only | split | with_reducible apply mk_planes

theorem execGenerationSeal_planes (t : Nat) (cell : Fin 8) (s : State) :
    ∃ s1, execGenerationSeal t cell s = .next s1 ∧ Planes (s.at t) s1 := by
  refine ⟨_, rfl, State.run_planes (fun x hx => ?_)⟩
  repeat' first
    | with_reducible assumption | intro _ | with_reducible apply State.sealGen_planes | with_reducible apply ite_planes | dsimp only
    | split | with_reducible apply mk_planes

theorem execLoadImage_planes (t : Nat) (cell : Fin 8) (src : Source) (e : Entry) (s : State) :
    ∃ s1, execLoadImage t cell src e s = .next s1 ∧ Planes (s.at t) s1 := by
  refine ⟨_, rfl, State.run_planes (fun x hx => ?_)⟩
  repeat' first
    | with_reducible assumption | intro _ | with_reducible apply State.entryAt_planes | with_reducible apply State.doLoadImage_planes
    | dsimp only | with_reducible apply mk_planes

theorem execStepBegin_planes (t : Nat) (cell : Fin 8) (s : State) : ∃ s1, execStepBegin t cell s = .next s1 ∧ Planes (s.at t) s1 := by
  refine ⟨_, rfl, State.run_planes (fun x hx => ?_)⟩
  repeat' first
    | with_reducible assumption | intro _ | with_reducible apply State.beginLearn_planes | with_reducible apply State.beginLead_planes
    | with_reducible apply State.beginFollower_planes | with_reducible apply ite_planes | with_reducible apply cell_plane | dsimp only
    | split | refine fst_planes (by with_reducible assumption) ?_ | refine snd_planes (by with_reducible assumption) ?_
    | with_reducible apply mk_planes

theorem execSync_planes (t : Nat) (cell : Fin 8) (core : Fin 128) (s : State) :
    ∃ s1, execSync t cell core s = .next s1 ∧ Planes (s.at t) s1 := by
  refine ⟨_, rfl, State.run_planes (fun x hx => ?_)⟩
  repeat' first
    | with_reducible assumption | intro _ | refine State.issue_planes (by with_reducible assumption) ?_
    | with_reducible apply State.syncOp_planes | dsimp only | split | refine fst_planes (by with_reducible assumption) ?_
    | refine snd_planes (by with_reducible assumption) ?_ | with_reducible apply mk_planes

theorem execSyncMessage_planes (t : Nat) (index : Nat) (s : State) : ∃ s1, execSyncMessage t index s = .next s1 ∧ Planes (s.at t) s1 := by
  refine ⟨_, rfl, State.run_planes (fun x hx => ?_)⟩
  repeat' first
    | with_reducible assumption | intro _ | refine State.syncArrive_planes (by with_reducible assumption) ?_ | dsimp only | split
    | refine fst_planes (by with_reducible assumption) ?_ | refine snd_planes (by with_reducible assumption) ?_
    | with_reducible apply mk_planes

theorem execSyncRetry_planes (t : Nat) (s : State) : ∃ s1, execSyncRetry t s = .next s1 ∧ Planes (s.at t) s1 := by
  refine ⟨_, rfl, State.run_planes (fun x hx => ?_)⟩
  repeat' first
    | with_reducible assumption | intro _ | refine State.syncArrive_planes (by with_reducible assumption) ?_
    | with_reducible apply foldl_planes | with_reducible apply foldl_fst_planes | dsimp only | split
    | refine fst_planes (by with_reducible assumption) ?_ | refine snd_planes (by with_reducible assumption) ?_
    | with_reducible apply mk_planes

theorem execOperationComplete_planes (t : Nat) (cell : Fin 8) (core : Fin 128) (engine : Nat) (bad : List Nat) (s : State) :
    ∃ s1, execOperationComplete t cell core engine bad s = .next s1 ∧ Planes (s.at t) s1 := by
  refine ⟨_, rfl, State.run_planes (fun x hx => ?_)⟩
  repeat' first
    | with_reducible assumption | intro _ | with_reducible apply State.onCore_planes | with_reducible apply State.finishOp_planes
    | with_reducible apply ite_planes | with_reducible apply Cell.onCore_plane | with_reducible apply cell_plane | dsimp only | split
    | refine fst_planes (by with_reducible assumption) ?_ | refine snd_planes (by with_reducible assumption) ?_
    | with_reducible apply mk_planes

theorem execStepWatchdog_planes (t : Nat) (cell : Fin 8) (s : State) : ∃ s1, execStepWatchdog t cell s = .next s1 ∧ Planes (s.at t) s1 := by
  refine ⟨_, rfl, State.run_planes (fun x hx => ?_)⟩
  repeat' first
    | with_reducible assumption | intro _ | with_reducible apply State.watchdogHomes_planes
    | with_reducible apply State.watchdogStep_planes | with_reducible apply ite_planes | dsimp only | split
    | with_reducible apply mk_planes

theorem execVersion_planes (t : Nat) (cell : Fin 8) (src : Source) (e : Entry) (s : State) :
    ∃ s1, execVersion t cell src e s = .next s1 ∧ Planes (s.at t) s1 := by
  refine ⟨_, rfl, State.run_planes (fun x hx => ?_)⟩
  repeat' first
    | with_reducible assumption | intro _ | with_reducible apply State.entryAt_planes | with_reducible apply State.doVersion_planes
    | dsimp only | with_reducible apply mk_planes

theorem execPushHoldBegin_planes (t : Nat) (cell : Fin 8) (tenant : Fin 64) (s : State) :
    ∃ s1, execPushHoldBegin t cell tenant s = .next s1 ∧ Planes (s.at t) s1 := by
  refine ⟨_, rfl, State.run_planes (fun x hx => ?_)⟩
  repeat' first
    | with_reducible assumption | intro _ | with_reducible apply State.stalePush_planes | with_reducible apply State.onCells_planes
    | with_reducible apply State.pushLayers_planes | with_reducible apply ite_planes | with_reducible apply Cell.onVer_plane
    | with_reducible apply cell_plane | dsimp only | split | refine fst_planes (by with_reducible assumption) ?_
    | refine snd_planes (by with_reducible assumption) ?_ | with_reducible apply mk_planes

theorem execShuffleComplete_planes (t : Nat) (cell : Fin 8) (tenant : Fin 64) (s : State) :
    ∃ s1, execShuffleComplete t cell tenant s = .next s1 ∧ Planes (s.at t) s1 := by
  refine ⟨_, rfl, State.run_planes (fun x hx => ?_)⟩
  repeat' first
    | with_reducible assumption | intro _ | with_reducible apply State.onCell_planes | with_reducible apply State.err_planes
    | with_reducible apply ite_planes | with_reducible apply foldl_planes | with_reducible apply foldl_fst_planes
    | with_reducible apply Cell.onVer_plane | with_reducible apply cell_plane | with_reducible apply plane_foldl | dsimp only | split
    | refine fst_planes (by with_reducible assumption) ?_ | refine snd_planes (by with_reducible assumption) ?_
    | with_reducible apply mk_planes

theorem execWarming_planes (t : Nat) (cell : Fin 8) (tenant : Fin 64) (s : State) :
    ∃ s1, execWarming t cell tenant s = .next s1 ∧ Planes (s.at t) s1 := by
  refine ⟨_, rfl, State.run_planes (fun x hx => ?_)⟩
  repeat' first
    | with_reducible assumption | intro _ | with_reducible apply State.onCell_planes | with_reducible apply State.warmReport_planes
    | with_reducible apply ite_planes | with_reducible apply foldl_planes | with_reducible apply foldl_fst_planes
    | with_reducible apply Cell.onVer_plane | with_reducible apply Cell.warmTile_plane | with_reducible apply cell_plane
    | with_reducible apply plane_foldl | dsimp only | split | with_reducible apply mk_planes

theorem execWarmingComplete_planes (t : Nat) (cell : Fin 8) (tenant : Fin 64) (s : State) :
    ∃ s1, execWarmingComplete t cell tenant s = .next s1 ∧ Planes (s.at t) s1 := by
  refine ⟨_, rfl, State.run_planes (fun x hx => ?_)⟩
  repeat' first
    | with_reducible assumption | intro _ | with_reducible apply State.onCell_planes | with_reducible apply ite_planes
    | with_reducible apply Cell.onVer_plane | with_reducible apply cell_plane | dsimp only | split | with_reducible apply mk_planes

theorem execPointerSwitch_planes (t : Nat) (cell : Fin 8) (tenant : Fin 64) (s : State) :
    ∃ s1, execPointerSwitch t cell tenant s = .next s1 ∧ Planes (s.at t) s1 := by
  refine ⟨_, rfl, State.run_planes (fun x hx => ?_)⟩
  repeat' first
    | with_reducible assumption | intro _ | with_reducible apply State.switchPointer_planes | dsimp only | split
    | refine fst_planes (by with_reducible assumption) ?_ | refine snd_planes (by with_reducible assumption) ?_
    | with_reducible apply mk_planes

theorem execLaggingWriteback_planes (t : Nat) (cell : Fin 8) (tenant : Fin 64) (n : Nat) (s : State) :
    ∃ s1, execLaggingWriteback t cell tenant n s = .next s1 ∧ Planes (s.at t) s1 := by
  refine ⟨_, rfl, State.run_planes (fun x hx => ?_)⟩
  repeat' first
    | with_reducible assumption | intro _ | with_reducible apply State.onCell_planes | with_reducible apply ite_planes
    | with_reducible apply foldl_planes | with_reducible apply foldl_fst_planes | with_reducible apply Cell.setEnt_plane
    | with_reducible apply cell_plane | with_reducible apply plane_foldl | dsimp only | split | with_reducible apply mk_planes

theorem execFetch_planes (t : Nat) (cell : Fin 8) (src : Source) (e : Entry) (s : State) :
    ∃ s1, execFetch t cell src e s = .next s1 ∧ Planes (s.at t) s1 := by
  refine ⟨_, rfl, State.run_planes (fun x hx => ?_)⟩
  repeat' first
    | with_reducible assumption | intro _ | with_reducible apply State.entryAt_planes | with_reducible apply State.doFetch_planes
    | dsimp only | with_reducible apply mk_planes

theorem execRefetch_planes (t : Nat) (cell : Fin 8) (src : Source) (e : Entry) (s : State) :
    ∃ s1, execRefetch t cell src e s = .next s1 ∧ Planes (s.at t) s1 := by
  refine ⟨_, rfl, State.run_planes (fun x hx => ?_)⟩
  repeat' first
    | with_reducible assumption | intro _ | with_reducible apply State.entryAt_planes | with_reducible apply State.doRefetch_planes
    | dsimp only | with_reducible apply mk_planes

theorem execFetchComplete_planes (t : Nat) (cell : Fin 8) (linkOk : Bool) (shard : List Byte) (s : State) :
    ∃ s1, execFetchComplete t cell linkOk shard s = .next s1 ∧ Planes (s.at t) s1 := by
  refine ⟨_, rfl, State.run_planes (fun x hx => ?_)⟩
  repeat' first
    | with_reducible assumption | intro _ | with_reducible apply State.refetchDone_planes | with_reducible apply State.fetchDone_planes
    | with_reducible apply ite_planes | dsimp only | split | refine fst_planes (by with_reducible assumption) ?_
    | refine snd_planes (by with_reducible assumption) ?_ | with_reducible apply mk_planes

theorem execLoad_planes (t : Nat) (who : BitVec 8) (mask : BitVec 8) (slot : Nat) (s : State) :
    ∃ s1, execLoad t who mask slot s = .next s1 ∧ Planes (s.at t) s1 := by
  refine ⟨_, rfl, State.run_planes (fun x hx => ?_)⟩
  repeat' first
    | with_reducible assumption | intro _ | with_reducible apply State.figCommand_planes | dsimp only | with_reducible apply mk_planes

theorem execStage_planes (t : Nat) (who : BitVec 8) (mask : BitVec 8) (slot : Nat) (s : State) :
    ∃ s1, execStage t who mask slot s = .next s1 ∧ Planes (s.at t) s1 := by
  refine ⟨_, rfl, State.run_planes (fun x hx => ?_)⟩
  repeat' first
    | with_reducible assumption | intro _ | with_reducible apply State.figCommand_planes | dsimp only | with_reducible apply mk_planes

theorem execArm_planes (t : Nat) (who : BitVec 8) (mask : BitVec 8) (cond : BitVec 64) (s : State) :
    ∃ s1, execArm t who mask cond s = .next s1 ∧ Planes (s.at t) s1 := by
  refine ⟨_, rfl, State.run_planes (fun x hx => ?_)⟩
  repeat' first
    | with_reducible assumption | intro _ | with_reducible apply State.figCommand_planes | dsimp only | with_reducible apply mk_planes

theorem execDisarm_planes (t : Nat) (who : BitVec 8) (mask : BitVec 8) (s : State) :
    ∃ s1, execDisarm t who mask s = .next s1 ∧ Planes (s.at t) s1 := by
  refine ⟨_, rfl, State.run_planes (fun x hx => ?_)⟩
  repeat' first
    | with_reducible assumption | intro _ | with_reducible apply State.figCommand_planes | dsimp only | with_reducible apply mk_planes

theorem execDrop_planes (t : Nat) (who : BitVec 8) (mask : BitVec 8) (slot : Nat) (s : State) :
    ∃ s1, execDrop t who mask slot s = .next s1 ∧ Planes (s.at t) s1 := by
  refine ⟨_, rfl, State.run_planes (fun x hx => ?_)⟩
  repeat' first
    | with_reducible assumption | intro _ | with_reducible apply State.figCommand_planes | dsimp only | with_reducible apply mk_planes

theorem execLoadVerifyDone_planes (t : Nat) (cell : Fin 8) (slot : Nat) (delivered : Nat) (s : State) :
    ∃ s1, execLoadVerifyDone t cell slot delivered s = .next s1 ∧ Planes (s.at t) s1 := by
  refine ⟨_, rfl, State.run_planes (fun x hx => ?_)⟩
  repeat' first
    | with_reducible assumption | intro _ | with_reducible apply State.setSlot_planes | with_reducible apply State.figEnd_planes
    | with_reducible apply ite_planes | dsimp only | split | refine fst_planes (by with_reducible assumption) ?_
    | refine snd_planes (by with_reducible assumption) ?_ | with_reducible apply mk_planes

theorem execStagingComplete_planes (t : Nat) (cell : Fin 8) (s : State) :
    ∃ s1, execStagingComplete t cell s = .next s1 ∧ Planes (s.at t) s1 := by
  refine ⟨_, rfl, State.run_planes (fun x hx => ?_)⟩
  repeat' first
    | with_reducible assumption | intro _ | with_reducible apply State.onCell_planes | with_reducible apply State.figEndAll_planes
    | with_reducible apply ite_planes | with_reducible apply Cell.closeFor_plane | with_reducible apply cell_plane | dsimp only | split
    | refine fst_planes (by with_reducible assumption) ?_ | refine snd_planes (by with_reducible assumption) ?_
    | with_reducible apply mk_planes | with_reducible apply plane_mk

theorem execBindingRegisterWrite_planes (t : Nat) (who : BitVec 8) (chan : Fin 64) (value : BitVec 32) (s : State) :
    ∃ s1, execBindingRegisterWrite t who chan value s = .next s1 ∧ Planes (s.at t) s1 := by
  refine ⟨_, rfl, State.run_planes (fun x hx => ?_)⟩
  repeat' first
    | with_reducible assumption | intro _ | with_reducible apply State.writeBind_planes | dsimp only | with_reducible apply mk_planes

theorem execHostAnchorLoss_planes (t : Nat) (s : State) : ∃ s1, execHostAnchorLoss t s = .next s1 ∧ Planes (s.at t) s1 := by
  refine ⟨_, rfl, State.run_planes (fun x hx => ?_)⟩
  repeat' first
    | with_reducible assumption | intro _ | with_reducible apply State.loseHost_planes | with_reducible apply State.onCell_planes
    | with_reducible apply State.errLocal_planes | with_reducible apply State.loseStep_planes | with_reducible apply State.rest_planes
    | with_reducible apply ite_planes | with_reducible apply foldl_planes | with_reducible apply foldl_fst_planes
    | with_reducible apply cell_plane | with_reducible apply plane_foldl | dsimp only | split | with_reducible apply mk_planes

theorem execCoreFence_planes (t : Nat) (cell : Fin 8) (core : Fin 128) (s : State) :
    ∃ s1, execCoreFence t cell core s = .next s1 ∧ Planes (s.at t) s1 := by
  refine ⟨_, rfl, State.run_planes (fun x hx => ?_)⟩
  repeat' first
    | with_reducible assumption | intro _ | with_reducible apply State.fence_planes | with_reducible apply State.boundarySoon_planes
    | with_reducible apply ite_planes | dsimp only | split | with_reducible apply mk_planes

theorem execTest_planes (t : Nat) (cell : Fin 8) (src : Source) (e : Entry) (s : State) :
    ∃ s1, execTest t cell src e s = .next s1 ∧ Planes (s.at t) s1 := by
  refine ⟨_, rfl, State.run_planes (fun x hx => ?_)⟩
  repeat' first
    | with_reducible assumption | intro _ | with_reducible apply State.entryAt_planes | with_reducible apply State.doTest_planes
    | dsimp only | with_reducible apply mk_planes

theorem execTestRound_planes (t : Nat) (cell : Fin 8) (s : State) : ∃ s1, execTestRound t cell s = .next s1 ∧ Planes (s.at t) s1 := by
  refine ⟨_, rfl, State.run_planes (fun x hx => ?_)⟩
  repeat' first
    | with_reducible assumption | intro _ | with_reducible apply State.wake_planes | with_reducible apply State.onCore_planes
    | with_reducible apply State.setCell_planes | with_reducible apply State.boundarySoon_planes | with_reducible apply ite_planes
    | with_reducible apply foldl_planes | with_reducible apply foldl_fst_planes | with_reducible apply Cell.onRun_plane
    | with_reducible apply Cell.onCore_plane | with_reducible apply cell_plane | with_reducible apply plane_foldl | dsimp only | split
    | with_reducible apply mk_planes

theorem execFieldTestComplete_planes (t : Nat) (cell : Fin 8) (unit : Nat) (passed : Bool) (s : State) :
    ∃ s1, execFieldTestComplete t cell unit passed s = .next s1 ∧ Planes (s.at t) s1 := by
  refine ⟨_, rfl, State.run_planes (fun x hx => ?_)⟩
  repeat' first
    | with_reducible assumption | intro _ | with_reducible apply State.testRecord_planes | with_reducible apply State.coreTested_planes
    | with_reducible apply State.switchTested_planes | with_reducible apply State.udieTested_planes
    | with_reducible apply State.onCell_planes | with_reducible apply State.finishTests_planes
    | with_reducible apply State.boundarySoon_planes | with_reducible apply ite_planes | with_reducible apply cell_plane | dsimp only | split
    | with_reducible apply mk_planes

theorem execRun_planes (t : Nat) (cell : Fin 8) (src : Source) (e : Entry) (s : State) :
    ∃ s1, execRun t cell src e s = .next s1 ∧ Planes (s.at t) s1 := by
  refine ⟨_, rfl, State.run_planes (fun x hx => ?_)⟩
  repeat' first
    | with_reducible assumption | intro _ | with_reducible apply State.entryAt_planes | with_reducible apply State.doRun_planes
    | dsimp only | with_reducible apply mk_planes

theorem execWrite_planes (t : Nat) (cell : Fin 8) (src : Source) (e : Entry) (s : State) :
    ∃ s1, execWrite t cell src e s = .next s1 ∧ Planes (s.at t) s1 := by
  refine ⟨_, rfl, State.run_planes (fun x hx => ?_)⟩
  repeat' first
    | with_reducible assumption | intro _ | with_reducible apply State.entryAt_planes | with_reducible apply State.doWrite_planes
    | dsimp only | with_reducible apply mk_planes

theorem execMailbox_planes (t : Nat) (cell : Fin 8) (src : Source) (e : Entry) (s : State) :
    ∃ s1, execMailbox t cell src e s = .next s1 ∧ Planes (s.at t) s1 := by
  refine ⟨_, rfl, State.run_planes (fun x hx => ?_)⟩
  repeat' first
    | with_reducible assumption | intro _ | with_reducible apply State.entryAt_planes | with_reducible apply State.doMailbox_planes
    | dsimp only | with_reducible apply mk_planes

theorem execRegister_planes (t : Nat) (cell : Fin 8) (src : Source) (e : Entry) (s : State) :
    ∃ s1, execRegister t cell src e s = .next s1 ∧ Planes (s.at t) s1 := by
  refine ⟨_, rfl, State.run_planes (fun x hx => ?_)⟩
  repeat' first
    | with_reducible assumption | intro _ | with_reducible apply State.entryAt_planes | with_reducible apply State.doRegister_planes
    | dsimp only | with_reducible apply mk_planes

theorem execRingFetch_planes (t : Nat) (ready : List (Fin 64 × Fin 8)) (ok : Bool) (e : Entry) (s : State) :
    ∃ s1, execRingFetch t ready ok e s = .next s1 ∧ Planes (s.at t) s1 := by
  refine ⟨_, rfl, State.run_planes (fun x hx => ?_)⟩
  repeat' first
    | with_reducible assumption | intro _ | with_reducible apply State.fetchFailed_planes | with_reducible apply State.ring_planes
    | with_reducible apply State.onFn_planes | with_reducible apply State.wake_planes | with_reducible apply State.doEntry_planes
    | with_reducible apply ite_planes | dsimp only | split | refine fst_planes (by with_reducible assumption) ?_
    | refine snd_planes (by with_reducible assumption) ?_ | with_reducible apply mk_planes

theorem execMailboxEntryTake_planes (t : Nat) (chan : Fin 64) (toB : Bool) (s : State) :
    ∃ s1, execMailboxEntryTake t chan toB s = .next s1 ∧ Planes (s.at t) s1 := by
  refine ⟨_, rfl, State.run_planes (fun x hx => ?_)⟩
  repeat' first
    | with_reducible assumption | intro _ | with_reducible apply State.wake_planes | with_reducible apply State.onDir_planes
    | with_reducible apply State.doEntry_planes | with_reducible apply State.rest_planes | with_reducible apply ite_planes
    | with_reducible apply cell_plane | dsimp only | split | refine fst_planes (by with_reducible assumption) ?_
    | refine snd_planes (by with_reducible assumption) ?_ | with_reducible apply mk_planes

theorem execMailFrame_planes (t : Nat) (cell : Fin 8) (port : Fin 12) (f : Frame) (s : State) :
    ∃ s1, execMailFrame t cell port f s = .next s1 ∧ Planes (s.at t) s1 := by
  refine ⟨_, rfl, State.run_planes (fun x hx => ?_)⟩
  repeat' first
    | with_reducible assumption | intro _ | with_reducible apply State.accept_planes | with_reducible apply State.takeMail_planes
    | with_reducible apply ite_planes | dsimp only | split | refine fst_planes (by with_reducible assumption) ?_
    | refine snd_planes (by with_reducible assumption) ?_ | with_reducible apply mk_planes

theorem execFrameForward_planes (t : Nat) (cell : Fin 8) (port : Fin 14) (f : Frame) (s : State) :
    ∃ s1, execFrameForward t cell port f s = .next s1 ∧ Planes (s.at t) s1 := by
  refine ⟨_, rfl, State.run_planes (fun x hx => ?_)⟩
  have ha := State.accept_planes hx cell port f
  exact ite_planes hx (ite_planes (ite_planes (getD_planes (fun _ e => State.joinRelay_planes e ha) ha)
    (ite_planes (State.takeSeal_planes ha ..) ha)) (ite_planes hx (ite_planes (ite_planes (State.anchorFrame_planes hx ..) hx)
    (State.relay_planes hx ..))))

theorem execHaltNAssert_planes (t : Nat) (s : State) : ∃ s1, execHaltNAssert t s = .next s1 ∧ Planes (s.at t) s1 := by
  refine ⟨_, rfl, State.run_planes (fun x hx => ?_)⟩
  repeat' first
    | with_reducible assumption | intro _ | with_reducible apply State.enterSafe_planes | with_reducible apply ite_planes | dsimp only
    | split | with_reducible apply mk_planes

theorem execHaltNDeassert_planes (t : Nat) (s : State) : ∃ s1, execHaltNDeassert t s = .next s1 ∧ Planes (s.at t) s1 := by
  refine ⟨_, rfl, State.run_planes (fun x hx => ?_)⟩
  repeat' first
    | with_reducible assumption | intro _ | dsimp only | with_reducible apply mk_planes

theorem execVinFault_planes (t : Nat) (mv : Nat) (s : State) : ∃ s1, execVinFault t mv s = .next s1 ∧ Planes (s.at t) s1 := by
  refine ⟨_, rfl, State.run_planes (fun x hx => ?_)⟩
  repeat' first
    | with_reducible assumption | intro _ | with_reducible apply State.measureVin_planes | with_reducible apply State.powerFail_planes
    | with_reducible apply ite_planes | dsimp only | split | with_reducible apply mk_planes

theorem execPwrFailN_planes (t : Nat) (level : Bool) (s : State) : ∃ s1, execPwrFailN t level s = .next s1 ∧ Planes (s.at t) s1 := by
  refine ⟨_, rfl, State.run_planes (fun x hx => ?_)⟩
  repeat' first
    | with_reducible assumption | intro _ | with_reducible apply State.powerFail_planes | with_reducible apply ite_planes | dsimp only
    | split | with_reducible apply mk_planes

theorem execPwrFailDeassert_planes (t : Nat) (s : State) : ∃ s1, execPwrFailDeassert t s = .next s1 ∧ Planes (s.at t) s1 := by
  refine ⟨_, rfl, State.run_planes (fun x hx => ?_)⟩
  repeat' first
    | with_reducible assumption | intro _ | with_reducible apply ite_planes | dsimp only | split | with_reducible apply mk_planes

theorem execPwrGoodFall_planes (t : Nat) (s : State) : ∃ s1, execPwrGoodFall t s = .next s1 ∧ Planes (s.at t) s1 := by
  refine ⟨_, rfl, State.run_planes (fun x hx => ?_)⟩
  repeat' first
    | with_reducible assumption | intro _ | with_reducible apply State.powerFail_planes | with_reducible apply ite_planes | dsimp only
    | split | with_reducible apply mk_planes

theorem execUndervoltageLockoutRelease_planes (t : Nat) (mv : Nat) (s : State) :
    ∃ s1, execUndervoltageLockoutRelease t mv s = .next s1 ∧ Planes (s.at t) s1 := by
  refine ⟨_, rfl, State.run_planes (fun x hx => ?_)⟩
  repeat' first
    | with_reducible assumption | intro _ | with_reducible apply ite_planes | dsimp only | split | with_reducible apply mk_planes

theorem execThermalSample_planes (t : Nat) (cell : Fin 8) (dies : List Nat) (s : State) :
    ∃ s1, execThermalSample t cell dies s = .next s1 ∧ Planes (s.at t) s1 := by
  refine ⟨_, rfl, State.run_planes (fun x hx => ?_)⟩
  repeat' first
    | with_reducible assumption | intro _ | with_reducible apply State.onCell_planes | with_reducible apply State.enterSafe_planes
    | with_reducible apply ite_planes | with_reducible apply cell_plane | dsimp only | split
    | refine fst_planes (by with_reducible assumption) ?_ | refine snd_planes (by with_reducible assumption) ?_
    | with_reducible apply mk_planes

theorem execThermalCeilingTick_planes (t : Nat) (cell : Fin 8) (s : State) :
    ∃ s1, execThermalCeilingTick t cell s = .next s1 ∧ Planes (s.at t) s1 := by
  refine ⟨_, rfl, State.run_planes (fun x hx => ?_)⟩
  repeat' first
    | with_reducible assumption | intro _ | with_reducible apply State.onCell_planes | with_reducible apply State.boundarySoon_planes
    | with_reducible apply ite_planes | with_reducible apply cell_plane | dsimp only | split | with_reducible apply mk_planes

theorem execAoclkLoss_planes (t : Nat) (s : State) : ∃ s1, execAoclkLoss t s = .next s1 ∧ Planes (s.at t) s1 := by
  refine ⟨_, rfl, State.run_planes (fun x hx => ?_)⟩
  repeat' first
    | with_reducible assumption | intro _ | with_reducible apply State.err_planes | with_reducible apply ite_planes
    | with_reducible apply foldl_planes | with_reducible apply foldl_fst_planes | with_reducible apply cell_plane
    | with_reducible apply plane_foldl | dsimp only | split | with_reducible apply mk_planes

theorem execRefclkLoss_planes (t : Nat) (s : State) : ∃ s1, execRefclkLoss t s = .next s1 ∧ Planes (s.at t) s1 := by
  refine ⟨_, rfl, State.run_planes (fun x hx => ?_)⟩
  repeat' first
    | with_reducible assumption | intro _ | with_reducible apply State.enterSafe_planes | with_reducible apply ite_planes | dsimp only
    | split | with_reducible apply mk_planes

theorem execAoclkPresent_planes (t : Nat) (s : State) : ∃ s1, execAoclkPresent t s = .next s1 ∧ Planes (s.at t) s1 := by
  refine ⟨_, rfl, State.run_planes (fun x hx => ?_)⟩
  repeat' first
    | with_reducible assumption | intro _ | with_reducible apply State.startIslands_planes | dsimp only | with_reducible apply mk_planes

theorem execCellWake_planes (t : Nat) (cell : Fin 8) (s : State) : ∃ s1, execCellWake t cell s = .next s1 ∧ Planes (s.at t) s1 := by
  refine ⟨_, rfl, State.run_planes (fun x hx => ?_)⟩
  repeat' first
    | with_reducible assumption | intro _ | with_reducible apply State.wake_planes | with_reducible apply ite_planes | dsimp only | split
    | with_reducible apply mk_planes

theorem execCellWakeComplete_planes (t : Nat) (cell : Fin 8) (s : State) :
    ∃ s1, execCellWakeComplete t cell s = .next s1 ∧ Planes (s.at t) s1 := by
  refine ⟨_, rfl, State.run_planes (fun x hx => ?_)⟩
  repeat' first
    | with_reducible assumption | intro _ | with_reducible apply State.onCell_planes | with_reducible apply ite_planes
    | with_reducible apply cell_plane | dsimp only | split | with_reducible apply mk_planes

theorem execPwrGoodRise_planes (t : Nat) (i3cAddr : BitVec 7) (flashLayout : BitVec 4) (boardId : BitVec 4) (s : State) :
    ∃ s1, execPwrGoodRise t i3cAddr flashLayout boardId s = .next s1 ∧ Planes (s.at t) s1 := by
  refine ⟨_, rfl, State.run_planes (fun x hx => ?_)⟩
  repeat' first
    | with_reducible assumption | intro _ | with_reducible apply State.startIslands_planes | with_reducible apply ite_planes | dsimp only
    | split | with_reducible apply mk_planes

theorem execSupervisorImageVerify_planes (t : Nat) (activeOk : Bool) (otherOk : Bool) (s : State) :
    ∃ s1, execSupervisorImageVerify t activeOk otherOk s = .next s1 ∧ Planes (s.at t) s1 := by
  refine ⟨_, rfl, State.run_planes (fun x hx => ?_)⟩
  repeat' first
    | with_reducible assumption | intro _ | with_reducible apply State.superviseFrom_planes | with_reducible apply ite_planes | dsimp only
    | split | with_reducible apply mk_planes

theorem execHostLinkTrained_planes (t : Nat) (configLive : Bool) (s : State) :
    ∃ s1, execHostLinkTrained t configLive s = .next s1 ∧ Planes (s.at t) s1 := by
  refine ⟨_, rfl, State.run_planes (fun x hx => ?_)⟩
  repeat' first
    | with_reducible assumption | intro _ | with_reducible apply ite_planes | dsimp only | split | with_reducible apply mk_planes

theorem execCellInitTimeout_planes (t : Nat) (cell : Fin 8) (s : State) :
    ∃ s1, execCellInitTimeout t cell s = .next s1 ∧ Planes (s.at t) s1 := by
  refine ⟨_, rfl, State.run_planes (fun x hx => ?_)⟩
  repeat' first
    | with_reducible assumption | intro _ | with_reducible apply State.onCell_planes | with_reducible apply State.err_planes
    | with_reducible apply ite_planes | with_reducible apply cell_plane | dsimp only | split | with_reducible apply mk_planes

theorem execRestart_planes (t : Nat) (who : BitVec 8) (cell : Fin 8) (s : State) :
    ∃ s1, execRestart t who cell s = .next s1 ∧ Planes (s.at t) s1 := by
  refine ⟨_, rfl, State.run_planes (fun x hx => ?_)⟩
  repeat' first
    | with_reducible assumption | intro _ | with_reducible apply State.askRestart_planes | with_reducible apply ite_planes | dsimp only
    | split | with_reducible apply mk_planes

theorem execRestartDrain_planes (t : Nat) (who : BitVec 8) (cell : Fin 8) (s : State) :
    ∃ s1, execRestartDrain t who cell s = .next s1 ∧ Planes (s.at t) s1 := by
  refine ⟨_, rfl, State.run_planes (fun x hx => ?_)⟩
  repeat' first
    | with_reducible assumption | intro _ | with_reducible apply State.askRestart_planes | with_reducible apply ite_planes | dsimp only
    | split | with_reducible apply mk_planes

theorem execCellRestartBegin_planes (t : Nat) (cell : Fin 8) (s : State) :
    ∃ s1, execCellRestartBegin t cell s = .next s1 ∧ Planes (s.at t) s1 := by
  refine ⟨_, rfl, State.run_planes (fun x hx => ?_)⟩
  repeat' first
    | with_reducible assumption | intro _ | with_reducible apply State.adminVoid_planes | with_reducible apply State.beginRestart_planes
    | with_reducible apply ite_planes | dsimp only | split | refine fst_planes (by with_reducible assumption) ?_
    | refine snd_planes (by with_reducible assumption) ?_ | with_reducible apply mk_planes

theorem execFlashOperation_planes (t : Nat) (s : State) : ∃ s1, execFlashOperation t s = .next s1 ∧ Planes (s.at t) s1 := by
  refine ⟨_, rfl, State.run_planes (fun x hx => ?_)⟩
  repeat' first
    | with_reducible assumption | intro _ | with_reducible apply State.tryStore_planes | with_reducible apply ite_planes | dsimp only
    | split | with_reducible apply mk_planes

theorem execFlashDeferRetry_planes (t : Nat) (s : State) : ∃ s1, execFlashDeferRetry t s = .next s1 ∧ Planes (s.at t) s1 := by
  refine ⟨_, rfl, State.run_planes (fun x hx => ?_)⟩
  repeat' first
    | with_reducible assumption | intro _ | with_reducible apply State.tryStore_planes | with_reducible apply ite_planes | dsimp only
    | split | with_reducible apply mk_planes

theorem execFwWrite_planes (t : Nat) (who : BitVec 8) (dmaOk : Bool) (bundle : List Byte) (s : State) :
    ∃ s1, execFwWrite t who dmaOk bundle s = .next s1 ∧ Planes (s.at t) s1 := by
  refine ⟨_, rfl, State.run_planes (fun x hx => ?_)⟩
  repeat' first
    | with_reducible assumption | intro _ | with_reducible apply State.fwCommand_planes | with_reducible apply State.fwWrite_planes
    | with_reducible apply ite_planes | dsimp only | split | with_reducible apply mk_planes

theorem execFwStage_planes (t : Nat) (who : BitVec 8) (s : State) : ∃ s1, execFwStage t who s = .next s1 ∧ Planes (s.at t) s1 := by
  refine ⟨_, rfl, State.run_planes (fun x hx => ?_)⟩
  repeat' first
    | with_reducible assumption | intro _ | with_reducible apply State.fwCommand_planes | with_reducible apply State.fwStage_planes
    | with_reducible apply ite_planes | dsimp only | split | with_reducible apply mk_planes

theorem execFwSwitch_planes (t : Nat) (who : BitVec 8) (s : State) : ∃ s1, execFwSwitch t who s = .next s1 ∧ Planes (s.at t) s1 := by
  refine ⟨_, rfl, State.run_planes (fun x hx => ?_)⟩
  repeat' first
    | with_reducible assumption | intro _ | with_reducible apply State.fwCommand_planes | with_reducible apply State.fwSwitch_planes
    | with_reducible apply ite_planes | dsimp only | split | with_reducible apply mk_planes

theorem execFwCommit_planes (t : Nat) (who : BitVec 8) (s : State) : ∃ s1, execFwCommit t who s = .next s1 ∧ Planes (s.at t) s1 := by
  refine ⟨_, rfl, State.run_planes (fun x hx => ?_)⟩
  repeat' first
    | with_reducible assumption | intro _ | with_reducible apply State.fwCommand_planes | with_reducible apply State.fwCommit_planes
    | with_reducible apply ite_planes | dsimp only | split | with_reducible apply mk_planes

theorem execFwRevert_planes (t : Nat) (who : BitVec 8) (s : State) : ∃ s1, execFwRevert t who s = .next s1 ∧ Planes (s.at t) s1 := by
  refine ⟨_, rfl, State.run_planes (fun x hx => ?_)⟩
  repeat' first
    | with_reducible assumption | intro _ | with_reducible apply State.fwCommand_planes | with_reducible apply State.fwRevert_planes
    | with_reducible apply ite_planes | dsimp only | split | with_reducible apply mk_planes

theorem execUpdateComponent_planes (t : Nat) (who : BitVec 8) (bundle : List Byte) (s : State) :
    ∃ s1, execUpdateComponent t who bundle s = .next s1 ∧ Planes (s.at t) s1 := by
  refine ⟨_, rfl, State.run_planes (fun x hx => ?_)⟩
  repeat' first
    | with_reducible assumption | intro _ | with_reducible apply State.fwEnd_planes | with_reducible apply State.storeBundle_planes
    | with_reducible apply ite_planes | dsimp only | split | with_reducible apply mk_planes

theorem execActivateFirmware_planes (t : Nat) (who : BitVec 8) (s : State) :
    ∃ s1, execActivateFirmware t who s = .next s1 ∧ Planes (s.at t) s1 := by
  refine ⟨_, rfl, State.run_planes (fun x hx => ?_)⟩
  repeat' first
    | with_reducible assumption | intro _ | with_reducible apply State.fwSwitch_planes | with_reducible apply ite_planes | dsimp only
    | split | with_reducible apply mk_planes

theorem execFigFloor_planes (t : Nat) (who : BitVec 8) (value : BitVec 32) (s : State) :
    ∃ s1, execFigFloor t who value s = .next s1 ∧ Planes (s.at t) s1 := by
  refine ⟨_, rfl, State.run_planes (fun x hx => ?_)⟩
  repeat' first
    | with_reducible assumption | intro _ | with_reducible apply State.raiseFloor_planes | with_reducible apply ite_planes | dsimp only
    | split | with_reducible apply mk_planes

theorem execRuleFloor_planes (t : Nat) (who : BitVec 8) (value : BitVec 32) (s : State) :
    ∃ s1, execRuleFloor t who value s = .next s1 ∧ Planes (s.at t) s1 := by
  refine ⟨_, rfl, State.run_planes (fun x hx => ?_)⟩
  repeat' first
    | with_reducible assumption | intro _ | with_reducible apply State.raiseFloor_planes | with_reducible apply ite_planes | dsimp only
    | split | with_reducible apply mk_planes

theorem execEnrol_planes (t : Nat) (who : BitVec 8) (len : Nat) (s : State) :
    ∃ s1, execEnrol t who len s = .next s1 ∧ Planes (s.at t) s1 := by
  refine ⟨_, rfl, State.run_planes (fun x hx => ?_)⟩
  repeat' first
    | with_reducible assumption | intro _ | with_reducible apply State.enrol_planes | with_reducible apply ite_planes | dsimp only | split
    | with_reducible apply mk_planes

theorem execPersist_planes (t : Nat) (who : BitVec 8) (cell : Fin 8) (value : BitVec 32) (s : State) :
    ∃ s1, execPersist t who cell value s = .next s1 ∧ Planes (s.at t) s1 := by
  refine ⟨_, rfl, State.run_planes (fun x hx => ?_)⟩
  repeat' first
    | with_reducible assumption | intro _ | with_reducible apply State.persist_planes | with_reducible apply ite_planes | dsimp only
    | split | with_reducible apply mk_planes

theorem execManagerWrite_planes (t : Nat) (who : BitVec 8) (value : BitVec 32) (s : State) :
    ∃ s1, execManagerWrite t who value s = .next s1 ∧ Planes (s.at t) s1 := by
  refine ⟨_, rfl, State.run_planes (fun x hx => ?_)⟩
  repeat' first
    | with_reducible assumption | intro _ | with_reducible apply State.writeManager_planes | with_reducible apply ite_planes | dsimp only
    | split | with_reducible apply mk_planes

theorem execPowerLimit_planes (t : Nat) (who : BitVec 8) (value : BitVec 16) (s : State) :
    ∃ s1, execPowerLimit t who value s = .next s1 ∧ Planes (s.at t) s1 := by
  refine ⟨_, rfl, State.run_planes (fun x hx => ?_)⟩
  repeat' first
    | with_reducible assumption | intro _ | with_reducible apply State.writeLimit_planes | with_reducible apply ite_planes | dsimp only
    | split | with_reducible apply mk_planes

theorem execJobStep_planes (t : Nat) (who : BitVec 8) (cell : Fin 8) (tenant : Fin 64) (value : BitVec 64) (s : State) :
    ∃ s1, execJobStep t who cell tenant value s = .next s1 ∧ Planes (s.at t) s1 := by
  refine ⟨_, rfl, State.run_planes (fun x hx => ?_)⟩
  repeat' first
    | with_reducible assumption | intro _ | with_reducible apply State.writeJobStep_planes | with_reducible apply ite_planes | dsimp only
    | split | with_reducible apply mk_planes

theorem execTurnPlan_planes (t : Nat) (who : BitVec 8) (cell : Fin 8) (value : BitVec 64) (s : State) :
    ∃ s1, execTurnPlan t who cell value s = .next s1 ∧ Planes (s.at t) s1 := by
  refine ⟨_, rfl, State.run_planes (fun x hx => ?_)⟩
  repeat' first
    | with_reducible assumption | intro _ | with_reducible apply State.setTurnPlan_planes | with_reducible apply ite_planes | dsimp only
    | split | with_reducible apply mk_planes

theorem execQuarRelease_planes (t : Nat) (who : BitVec 8) (cell : Fin 8) (ports : BitVec 12) (s : State) :
    ∃ s1, execQuarRelease t who cell ports s = .next s1 ∧ Planes (s.at t) s1 := by
  refine ⟨_, rfl, State.run_planes (fun x hx => ?_)⟩
  repeat' first
    | with_reducible assumption | intro _ | with_reducible apply State.quarRelease_planes | with_reducible apply ite_planes | dsimp only
    | split | with_reducible apply mk_planes

theorem execStop_planes (t : Nat) (who : BitVec 8) (cell : Fin 8) (core : Fin 128) (s : State) :
    ∃ s1, execStop t who cell core s = .next s1 ∧ Planes (s.at t) s1 := by
  refine ⟨_, rfl, State.run_planes (fun x hx => ?_)⟩
  repeat' first
    | with_reducible assumption | intro _ | with_reducible apply State.askStop_planes | with_reducible apply ite_planes | dsimp only
    | split | with_reducible apply mk_planes

theorem execDebugStopReached_planes (t : Nat) (cell : Fin 8) (s : State) :
    ∃ s1, execDebugStopReached t cell s = .next s1 ∧ Planes (s.at t) s1 := by
  refine ⟨_, rfl, State.run_planes (fun x hx => ?_)⟩
  repeat' first
    | with_reducible assumption | intro _ | with_reducible apply State.onCore_planes | with_reducible apply State.fenceNow_planes
    | with_reducible apply State.onCell_planes | with_reducible apply Cell.onCore_plane | with_reducible apply cell_plane | dsimp only | split
    | refine fst_planes (by with_reducible assumption) ?_ | refine snd_planes (by with_reducible assumption) ?_
    | with_reducible apply mk_planes

theorem execReqIndex_planes (t : Nat) (who : BitVec 8) (cell : Fin 8) (index : BitVec 14) (s : State) :
    ∃ s1, execReqIndex t who cell index s = .next s1 ∧ Planes (s.at t) s1 := by
  refine ⟨_, rfl, State.run_planes (fun x hx => ?_)⟩
  repeat' first
    | with_reducible assumption | intro _ | with_reducible apply State.capture_planes | with_reducible apply ite_planes | dsimp only
    | split | with_reducible apply mk_planes

theorem execErrCons_planes (t : Nat) (who : BitVec 8) (cell : Fin 8) (value : BitVec 32) (s : State) :
    ∃ s1, execErrCons t who cell value s = .next s1 ∧ Planes (s.at t) s1 := by
  refine ⟨_, rfl, State.run_planes (fun x hx => ?_)⟩
  repeat' first
    | with_reducible assumption | intro _ | with_reducible apply State.writeCons_planes | with_reducible apply ite_planes | dsimp only
    | split | with_reducible apply mk_planes

theorem execFatal_planes (t : Nat) (who : BitVec 8) (cell : Fin 8) (value : BitVec 32) (s : State) :
    ∃ s1, execFatal t who cell value s = .next s1 ∧ Planes (s.at t) s1 := by
  refine ⟨_, rfl, State.run_planes (fun x hx => ?_)⟩
  repeat' first
    | with_reducible assumption | intro _ | with_reducible apply State.clearFatal_planes | with_reducible apply ite_planes | dsimp only
    | split | with_reducible apply mk_planes

theorem execIdentityCacheEntry_planes (t : Nat) (keyId : BitVec 64) (publicKey : List Byte) (chainOk : Bool) (reachable : Bool) (s : State) :
    ∃ s1, execIdentityCacheEntry t keyId publicKey chainOk reachable s = .next s1 ∧ Planes (s.at t) s1 := by
  refine ⟨_, rfl, State.run_planes (fun x hx => ?_)⟩
  repeat' first
    | with_reducible assumption | intro _ | with_reducible apply ite_planes | dsimp only | split | with_reducible apply mk_planes

theorem execGetVersion_planes (t : Nat) (path : Nat) (cell : Fin 8) (_msg : List Byte) (s : State) :
    ∃ s1, execGetVersion t path cell _msg s = .next s1 ∧ Planes (s.at t) s1 := by
  refine ⟨_, rfl, State.run_planes (fun x hx => ?_)⟩
  repeat' first
    | with_reducible assumption | intro _ | with_reducible apply State.openSpdm_planes | dsimp only | with_reducible apply mk_planes

theorem execGetCapabilities_planes (t : Nat) (path : Nat) (cell : Fin 8) (msg : List Byte) (s : State) :
    ∃ s1, execGetCapabilities t path cell msg s = .next s1 ∧ Planes (s.at t) s1 := by
  refine ⟨_, rfl, State.run_planes (fun x hx => ?_)⟩
  repeat' first
    | with_reducible assumption | intro _ | with_reducible apply State.onSpdm_planes | with_reducible apply State.advance_planes
    | dsimp only | with_reducible apply mk_planes

theorem execNegotiateAlgorithms_planes (t : Nat) (path : Nat) (cell : Fin 8) (msg : List Byte) (s : State) :
    ∃ s1, execNegotiateAlgorithms t path cell msg s = .next s1 ∧ Planes (s.at t) s1 := by
  refine ⟨_, rfl, State.run_planes (fun x hx => ?_)⟩
  repeat' first
    | with_reducible assumption | intro _ | with_reducible apply State.onSpdm_planes | with_reducible apply State.advance_planes
    | dsimp only | with_reducible apply mk_planes

theorem execGetDigests_planes (t : Nat) (path : Nat) (cell : Fin 8) (_msg : List Byte) (s : State) :
    ∃ s1, execGetDigests t path cell _msg s = .next s1 ∧ Planes (s.at t) s1 := by
  refine ⟨_, rfl, State.run_planes (fun x hx => ?_)⟩
  repeat' first
    | with_reducible assumption | intro _ | with_reducible apply State.onSpdm_planes | with_reducible apply State.spdmReply_planes
    | dsimp only | with_reducible apply mk_planes

theorem execGetCertificate_planes (t : Nat) (path : Nat) (cell : Fin 8) (msg : List Byte) (s : State) :
    ∃ s1, execGetCertificate t path cell msg s = .next s1 ∧ Planes (s.at t) s1 := by
  refine ⟨_, rfl, State.run_planes (fun x hx => ?_)⟩
  repeat' first
    | with_reducible assumption | intro _ | with_reducible apply State.onSpdm_planes | with_reducible apply State.spdmError_planes
    | with_reducible apply State.spdmReply_planes | dsimp only | split | refine fst_planes (by with_reducible assumption) ?_
    | refine snd_planes (by with_reducible assumption) ?_ | with_reducible apply mk_planes

theorem execChallenge_planes (t : Nat) (path : Nat) (cell : Fin 8) (msg : List Byte) (s : State) :
    ∃ s1, execChallenge t path cell msg s = .next s1 ∧ Planes (s.at t) s1 := by
  refine ⟨_, rfl, State.run_planes (fun x hx => ?_)⟩
  repeat' first
    | with_reducible assumption | intro _ | with_reducible apply State.onSpdm_planes | with_reducible apply State.spdmReply_planes
    | dsimp only | with_reducible apply mk_planes

theorem execSetCertificate_planes (t : Nat) (path : Nat) (cell : Fin 8) (chain : List Byte) (root : BitVec 64) (s : State) :
    ∃ s1, execSetCertificate t path cell chain root s = .next s1 ∧ Planes (s.at t) s1 := by
  refine ⟨_, rfl, State.run_planes (fun x hx => ?_)⟩
  repeat' first
    | with_reducible assumption | intro _ | with_reducible apply State.onSpdm_planes | with_reducible apply State.spdmError_planes
    | with_reducible apply State.storeLater_planes | with_reducible apply State.spdmReply_planes | with_reducible apply ite_planes
    | dsimp only | split | with_reducible apply mk_planes

theorem execGetMeasurements_planes (t : Nat) (path : Nat) (cell : Fin 8) (msg : List Byte) (s : State) :
    ∃ s1, execGetMeasurements t path cell msg s = .next s1 ∧ Planes (s.at t) s1 := by
  refine ⟨_, rfl, State.run_planes (fun x hx => ?_)⟩
  repeat' first
    | with_reducible assumption | intro _ | with_reducible apply State.onSpdm_planes | with_reducible apply State.spdmReply_planes
    | with_reducible apply State.spdmError_planes | with_reducible apply ite_planes | dsimp only | split | with_reducible apply mk_planes

theorem execKeyExchange_planes (t : Nat) (path : Nat) (cell : Fin 8) (msg : List Byte) (s : State) :
    ∃ s1, execKeyExchange t path cell msg s = .next s1 ∧ Planes (s.at t) s1 := by
  refine ⟨_, rfl, State.run_planes (fun x hx => ?_)⟩
  repeat' first
    | with_reducible assumption | intro _ | with_reducible apply State.onKorif_planes | with_reducible apply State.setSpdm_planes
    | with_reducible apply State.spdmReply_planes | dsimp only | with_reducible apply mk_planes

theorem execFinish_planes (t : Nat) (path : Nat) (cell : Fin 8) (msg : List Byte) (verified : Bool) (keyId : BitVec 64) (s : State) :
    ∃ s1, execFinish t path cell msg verified keyId s = .next s1 ∧ Planes (s.at t) s1 := by
  refine ⟨_, rfl, State.run_planes (fun x hx => ?_)⟩
  repeat' first
    | with_reducible assumption | intro _ | with_reducible apply State.inSession_planes | with_reducible apply State.setSpdm_planes
    | with_reducible apply State.spdmReply_planes | with_reducible apply State.spdmError_planes | with_reducible apply ite_planes
    | dsimp only | split | with_reducible apply mk_planes

theorem execGetEncapsulatedRequest_planes (t : Nat) (path : Nat) (cell : Fin 8) (msg : List Byte) (s : State) :
    ∃ s1, execGetEncapsulatedRequest t path cell msg s = .next s1 ∧ Planes (s.at t) s1 := by
  refine ⟨_, rfl, State.run_planes (fun x hx => ?_)⟩
  repeat' first
    | with_reducible assumption | intro _ | with_reducible apply State.inSession_planes | with_reducible apply State.spdmReply_planes
    | dsimp only | with_reducible apply mk_planes

theorem execDeliverEncapsulatedResponse_planes (t : Nat) (path : Nat) (cell : Fin 8) (msg : List Byte) (s : State) :
    ∃ s1, execDeliverEncapsulatedResponse t path cell msg s = .next s1 ∧ Planes (s.at t) s1 := by
  refine ⟨_, rfl, State.run_planes (fun x hx => ?_)⟩
  repeat' first
    | with_reducible assumption | intro _ | with_reducible apply State.inSession_planes | with_reducible apply State.spdmReply_planes
    | dsimp only | with_reducible apply mk_planes

theorem execEndSession_planes (t : Nat) (path : Nat) (cell : Fin 8) (_msg : List Byte) (s : State) :
    ∃ s1, execEndSession t path cell _msg s = .next s1 ∧ Planes (s.at t) s1 := by
  refine ⟨_, rfl, State.run_planes (fun x hx => ?_)⟩
  repeat' first
    | with_reducible assumption | intro _ | with_reducible apply State.inSession_planes | with_reducible apply State.spdmReply_planes
    | with_reducible apply State.endSpdm_planes | dsimp only | with_reducible apply mk_planes

theorem execChunkSend_planes (t : Nat) (path : Nat) (cell : Fin 8) (msg : List Byte) (s : State) :
    ∃ s1, execChunkSend t path cell msg s = .next s1 ∧ Planes (s.at t) s1 := by
  refine ⟨_, rfl, State.run_planes (fun x hx => ?_)⟩
  repeat' first
    | with_reducible assumption | intro _ | with_reducible apply State.onSpdm_planes | with_reducible apply State.setSpdm_planes
    | with_reducible apply State.spdmReply_planes | with_reducible apply ite_planes | dsimp only | split | with_reducible apply mk_planes

theorem execChunkGet_planes (t : Nat) (path : Nat) (cell : Fin 8) (_msg : List Byte) (s : State) :
    ∃ s1, execChunkGet t path cell _msg s = .next s1 ∧ Planes (s.at t) s1 := by
  refine ⟨_, rfl, State.run_planes (fun x hx => ?_)⟩
  repeat' first
    | with_reducible assumption | intro _ | with_reducible apply State.onSpdm_planes | with_reducible apply State.spdmError_planes
    | with_reducible apply State.setSpdm_planes | with_reducible apply State.spdmReply_planes | with_reducible apply ite_planes
    | dsimp only | split | with_reducible apply mk_planes

theorem execMctpControl_planes (t : Nat) (i3c : Bool) (command : BitVec 8) (eid : BitVec 8) (s : State) :
    ∃ s1, execMctpControl t i3c command eid s = .next s1 ∧ Planes (s.at t) s1 := by
  refine ⟨_, rfl, State.run_planes (fun x hx => ?_)⟩
  repeat' first
    | with_reducible assumption | intro _ | with_reducible apply State.mctpControl_planes | with_reducible apply ite_planes | dsimp only
    | split | with_reducible apply mk_planes

theorem execEntdaa_planes (t : Nat) (addr : BitVec 7) (s : State) : ∃ s1, execEntdaa t addr s = .next s1 ∧ Planes (s.at t) s1 := by
  refine ⟨_, rfl, State.run_planes (fun x hx => ?_)⟩
  repeat' first
    | with_reducible assumption | intro _ | with_reducible apply ite_planes | dsimp only | split | with_reducible apply mk_planes

theorem execSetdasa_planes (t : Nat) (static : BitVec 7) (dynamic : BitVec 7) (s : State) :
    ∃ s1, execSetdasa t static dynamic s = .next s1 ∧ Planes (s.at t) s1 := by
  refine ⟨_, rfl, State.run_planes (fun x hx => ?_)⟩
  repeat' first
    | with_reducible assumption | intro _ | with_reducible apply ite_planes | dsimp only | split | with_reducible apply mk_planes

theorem execGetstatus_planes (t : Nat) (s : State) : ∃ s1, execGetstatus t s = .next s1 ∧ Planes (s.at t) s1 := by
  refine ⟨_, rfl, State.run_planes (fun x hx => ?_)⟩
  repeat' first
    | with_reducible assumption | intro _ | with_reducible apply State.takeFree_planes | with_reducible apply State.emit_planes
    | with_reducible apply ite_planes | dsimp only | split | with_reducible apply mk_planes

theorem execVendorSend_planes (t : Nat) (who : BitVec 8) (chan : Fin 64) (count : Nat) (doorbell : Bool) (words : List (BitVec 32)) (s : State) :
    ∃ s1, execVendorSend t who chan count doorbell words s = .next s1 ∧ Planes (s.at t) s1 := by
  refine ⟨_, rfl, State.run_planes (fun x hx => ?_)⟩
  repeat' first
    | with_reducible assumption | intro _ | with_reducible apply State.emit_planes | with_reducible apply State.vendorSend_planes
    | with_reducible apply ite_planes | dsimp only | split | with_reducible apply mk_planes

theorem execVendorReceive_planes (t : Nat) (who : BitVec 8) (chan : Fin 64) (count : Nat) (s : State) :
    ∃ s1, execVendorReceive t who chan count s = .next s1 ∧ Planes (s.at t) s1 := by
  refine ⟨_, rfl, State.run_planes (fun x hx => ?_)⟩
  repeat' first
    | with_reducible assumption | intro _ | with_reducible apply State.emit_planes | with_reducible apply State.vendorReceive_planes
    | with_reducible apply ite_planes | dsimp only | split | with_reducible apply mk_planes

theorem execVendorWindow_planes (t : Nat) (who : BitVec 8) (chan : Fin 64) (s : State) :
    ∃ s1, execVendorWindow t who chan s = .next s1 ∧ Planes (s.at t) s1 := by
  refine ⟨_, rfl, State.run_planes (fun x hx => ?_)⟩
  repeat' first
    | with_reducible assumption | intro _ | with_reducible apply State.vendorWindow_planes | with_reducible apply ite_planes | dsimp only
    | split | with_reducible apply mk_planes

theorem execRegisterRead_planes (t : Nat) (fn : Fin 64) (off : Nat) (size : Nat) (s : State) :
    ∃ s1, execRegisterRead t fn off size s = .next s1 ∧ Planes (s.at t) s1 := by
  refine ⟨_, rfl, State.run_planes (fun x hx => ?_)⟩
  repeat' first
    | with_reducible assumption | intro _ | with_reducible apply State.readReg_planes | with_reducible apply State.emit_planes
    | with_reducible apply ite_planes | dsimp only | split | with_reducible apply mk_planes

end Sys2Proof.Machine
end

