-- ==== Sys2Proof/Laws/Reports.lean ====
section
/-!
SUPPORT. What reporting and sending leave alone (Reports): one law for each operation that reports or sends, and for a run as a whole.
-/

namespace Sys2Proof.Machine

variable {s0 s : State}

theorem Reports.refl (s : State) : Reports s s where
  pending := rfl
  now := rfl
  free := rfl
  supply := rfl
  boot := rfl
  flash := rfl
  fw := rfl
  host := rfl
  seating := rfl
  chans := rfl
  net := rfl
  netHeld := rfl
  badWires := rfl
  shared := rfl
  coords := rfl
  fn _ := ⟨_, rfl⟩
  cell _ := ⟨_, _, _, rfl⟩
  mgmt := ⟨_, _, rfl⟩

theorem Reports.trans {a b c : State} (h : Reports a b) (g : Reports b c) : Reports a c where
  pending := g.pending.trans h.pending
  now := g.now.trans h.now
  free := g.free.trans h.free
  supply := g.supply.trans h.supply
  boot := g.boot.trans h.boot
  flash := g.flash.trans h.flash
  fw := g.fw.trans h.fw
  host := g.host.trans h.host
  seating := g.seating.trans h.seating
  chans := g.chans.trans h.chans
  net := g.net.trans h.net
  netHeld := g.netHeld.trans h.netHeld
  badWires := g.badWires.trans h.badWires
  shared := g.shared.trans h.shared
  coords := g.coords.trans h.coords
  fn n := by
    obtain ⟨p, hp⟩ := h.fn n
    obtain ⟨q, hq⟩ := g.fn n
    exact ⟨q, by rw [hq, hp]⟩
  cell c := by
    obtain ⟨e, p, q, hp⟩ := h.cell c
    obtain ⟨e', p', q', hq⟩ := g.cell c
    exact ⟨e', p', q', by rw [hq, hp]⟩
  mgmt := by
    obtain ⟨e, m, hp⟩ := h.mgmt
    obtain ⟨e', m', hq⟩ := g.mgmt
    exact ⟨e', m', by rw [hq, hp]⟩

theorem ite_reports {p : Prop} [Decidable p] {a b : State} (ha : Reports s0 a) (hb : Reports s0 b) :
    Reports s0 (if p then a else b) := by split <;> assumption

theorem foldl_reports {β : Type} (l : List β) (f : State → β → State) (h : Reports s0 s)
    (hf : ∀ (x : State) (b : β), Reports s0 x → Reports s0 (f x b)) : Reports s0 (l.foldl f s) := by
  induction l generalizing s with
  | nil => exact h
  | cons b l ih => exact ih (hf s b h)

theorem State.onCell_reports (h : Reports s0 s) (c : Nat) {f : Cell → Cell}
    (hf : ∀ k : Cell, ∃ e p q, f k = { k with err := e, korif := { k.korif with ports := p, sent := q } }) :
    Reports s0 (s.onCell c f) := by
  refine h.trans { Reports.refl s with cell := fun d => ?_ }
  rw [State.cell_onCell]
  split
  · subst_vars
    exact hf _
  · exact ⟨_, _, _, rfl⟩

theorem State.onFn_reports (h : Reports s0 s) (n : Nat) {f : HostFn → HostFn} (hf : ∀ k, ∃ p, f k = { k with pba := p }) :
    Reports s0 (s.onFn n f) := by
  refine h.trans { Reports.refl s with fn := fun d => ?_ }
  rw [State.fn_onFn]
  split
  · subst_vars
    exact hf _
  · exact ⟨_, rfl⟩

theorem State.emit_reports (h : Reports s0 s) (e : Emit) : Reports s0 (s.emit e) := h.trans { Reports.refl s with }

theorem mails_reports (h : Reports s0 s) (e : List Nat) (m : SMap (List Nat)) :
    Reports s0 { s with mgmt := { s.mgmt with events := e, mails := m } } := h.trans { Reports.refl s with mgmt := ⟨e, m, rfl⟩ }

theorem State.pldmEvent_reports (h : Reports s0 s) (c : Nat) (l : List Nat) : Reports s0 (s.pldmEvent c l) := by
  unfold State.pldmEvent
  exact ite_reports (State.emit_reports (mails_reports h _ _) _) (State.onCell_reports h _ (fun _ => ⟨_, _, _, rfl⟩))

theorem State.msix_reports (h : Reports s0 s) (n v : Nat) : Reports s0 (s.msix n v) := by
  unfold State.msix
  exact ite_reports h (ite_reports (State.onFn_reports h _ (fun _ => ⟨_, rfl⟩)) (State.emit_reports h _))

theorem State.errLocal_reports (h : Reports s0 s) (c : Nat) (e : Ev) : Reports s0 (s.errLocal c e) := by
  have h1 := State.onCell_reports h c (f := fun k => { k with err := k.err.push (s.mkErr c e) }) (fun _ => ⟨_, _, _, rfl⟩)
  have h2 := ite_reports (p := e.sev ≥ 2) (State.msix_reports h1 0 3) h1
  exact ite_reports (State.pldmEvent_reports h2 _ _) h2

/-! ## Frames -/

theorem State.sendOne_reports (h : Reports s0 s) (c p : Nat) (a : Nat × Frame) : Reports s0 (s.sendOne c p a) :=
  State.emit_reports (State.onCell_reports h _ (fun _ => ⟨_, _, _, rfl⟩)) _

theorem State.pumpN_reports (h : Reports s0 s) (n c p : Nat) : Reports s0 (State.pumpN n s c p) := by
  induction n generalizing s with
  | zero => exact h
  | succ n ih =>
    unfold State.pumpN
    split
    · exact h
    · exact ih (State.sendOne_reports h ..)

theorem State.pump_reports (h : Reports s0 s) (c p : Nat) : Reports s0 (s.pump c p) := State.pumpN_reports h ..

theorem State.onPort_reports (h : Reports s0 s) (c p : Nat) (f : Port → Port) : Reports s0 (s.onCell c (fun k => k.onPort p f)) :=
  State.onCell_reports h _ (fun _ => ⟨_, _, _, rfl⟩)

theorem State.enqueue_reports (h : Reports s0 s) (c p i : Nat) (x : Frame) : Reports s0 (s.enqueue c p i x) := by
  unfold State.enqueue
  exact ite_reports (State.emit_reports h _) (ite_reports (State.onPort_reports h ..) (State.pump_reports (State.onPort_reports h ..) ..))

theorem State.mkFrame_reports (h : Reports s0 s) (c : Nat) (o : Out) : Reports s0 (s.mkFrame c o).2 :=
  ite_reports (State.onCell_reports h _ (fun _ => ⟨_, _, _, rfl⟩)) h

theorem State.send_reports (h : Reports s0 s) (c i : Nat) (o : Out) : Reports s0 (s.send c i o).1 := by
  unfold State.send
  split
  · exact h
  · split
    · exact h
    · exact State.enqueue_reports (State.mkFrame_reports h ..) ..

theorem State.sendPort_reports (h : Reports s0 s) (c p : Nat) (o : Out) : Reports s0 (s.sendPort c p o) :=
  State.enqueue_reports (State.mkFrame_reports h ..) ..

/-- A VOID for another cell only sends; one for the cell itself is a cause of its step (R275). -/
theorem State.voidFor_reports (h : Reports s0 s) (c seat cell reason tenant step tensor seq : Nat) (far : ¬(seat = s.mySeat ∧ cell = c)) :
    Reports s0 (s.voidFor c seat cell reason tenant step tensor seq) := by
  unfold State.voidFor
  rw [if_neg far]
  exact State.send_reports h ..

theorem State.sendHold_reports (h : Reports s0 s) (c p reason off hint : Nat) : Reports s0 (s.sendHold c p reason off hint) :=
  State.sendPort_reports h ..

theorem State.returnCredits_reports (h : Reports s0 s) (c p : Nat) : Reports s0 (s.returnCredits c p) := by
  unfold State.returnCredits
  exact ite_reports h (State.sendPort_reports (State.onPort_reports h ..) ..)

theorem State.oweCredits_reports (h : Reports s0 s) (c p l n : Nat) : Reports s0 (s.oweCredits c p l n) :=
  ite_reports (State.returnCredits_reports (State.onPort_reports h ..) ..) (State.onPort_reports h ..)

theorem State.mailUnits_reports (h : Reports s0 s) (n c : Nat) (us : List (Nat × Nat)) : Reports s0 (State.mailUnits n s c us) := by
  induction n generalizing s us with
  | zero => exact h
  | succ n ih =>
    unfold State.mailUnits
    split
    · exact h
    · exact ih (State.send_reports h ..) _

theorem State.mail_reports (h : Reports s0 s) (c : Nat) (us : List (Nat × Nat)) : Reports s0 (s.mail c us) := by
  unfold State.mail
  exact ite_reports (State.mailUnits_reports h ..) h

/-- An error record does nothing but report (R328, R329). -/
theorem State.err_reports (h : Reports s0 s) (c : Nat) (e : Ev) : Reports s0 (s.err c e) := by
  have h1 := State.errLocal_reports h c e
  unfold State.err
  refine ite_reports h1 (ite_reports (State.mail_reports ?_ ..) (State.onCell_reports h1 _ (fun _ => ⟨_, _, _, rfl⟩)))
  exact h1.trans { Reports.refl _ with mgmt := ⟨_, _, rfl⟩ }

/-! ## A run -/

/-- A run leaves its effect, but for sensor events (R399). -/
theorem State.senseFrom_reports (h : Reports s0 s) (b : State) : Reports s0 (s.senseFrom b) := by
  unfold State.senseFrom
  refine ite_reports h (foldl_reports _ _ h (fun x p hx => ?_))
  exact ite_reports hx (State.pldmEvent_reports hx ..)

theorem State.run_reports {t : Nat} {f : State → State} (h : Reports s0 (f (s.at t))) : Reports s0 (s.run t f) :=
  State.senseFrom_reports h _

end Sys2Proof.Machine
end

