-- ==== Sys2Proof/WellFormed.lean ====
section
/-!
DEFINITION. The commands whose operands lie where their rows of the table allow. The machine takes any operand; what it does with one out
of range is the rule's own refusal or nothing.
-/

namespace Sys2Proof

/-- A frame's payload fits the length in its header (Table 12-2). -/
def Frame.wf (f : Frame) : Bool := f.data < 2 ^ (8 * f.plen)

/-- An access through BAR2: some bytes, within the window (R145). -/
def bar2Wf (off n : Nat) : Bool := 0 < n && off + n ≤ 2 ^ 37

/-- A register access: 4 or 8 bytes at a multiple of the size (R337). -/
def accessWf (off size : Nat) : Bool := (size = 4 || size = 8) && off % size = 0

/-- A slot of a core memory (R57). -/
def coreSlotWf (n : Nat) : Bool := n < 768

/-- The operands of a command lie where its row of the table allows. -/
def Instr.wf : Instr → Bool
  | .load _ _ _ slot => slot < 4
  | .loadVerifyDone _ _ slot delivered => slot < 4 && delivered ≤ 2 ^ 24
  | .stage _ _ _ slot => slot < 4
  | .stagingComplete _ _ => true
  | .arm _ _ _ _ => true
  | .disarm _ _ _ => true
  | .drop _ _ _ slot => slot < 4
  | .planeSwap _ _ _ => true
  | .bindingRegisterWrite _ _ _ _ => true
  | .loadImage _ _ _ _ => true
  | .stepBegin _ _ => true
  | .product _ _ _ => true
  | .row _ _ _ _ => true
  | .route _ _ _ _ => true
  | .sample _ _ _ _ => true
  | .mask _ _ _ _ => true
  | .move _ _ _ => true
  | .reduce _ _ _ => true
  | .update _ _ _ => true
  | .sync _ _ _ => true
  | .element _ _ _ => true
  | .operationComplete _ _ _ engine bad => engine ≤ 9 && bad.all coreSlotWf
  | .tileRedo _ _ _ tile _ _ => coreSlotWf tile
  | .syncMessage _ _ => true
  | .syncRetry _ => true
  | .stepWatchdog _ _ => true
  | .alloc _ _ _ _ => true
  | .ready _ _ _ _ => true
  | .free _ _ _ _ => true
  | .bar2Write _ _ off bytes => bar2Wf off bytes.length
  | .bar2Read _ _ off n => bar2Wf off n
  | .migration _ _ _ => true
  | .patrolScrub _ _ hits _ => hits.all (fun h => h.addr < 2 ^ 28)
  | .sweepOverdue _ _ => true
  | .generationSetup _ _ _ _ => true
  | .request _ _ _ _ => true
  | .admissionRound _ _ => true
  | .cancel _ _ _ _ => true
  | .generationSeal _ _ => true
  | .recordWritten _ _ entry => entry < 2 ^ 14
  | .learningStepBegin _ _ => true
  | .reducePart _ _ _ f => f.wf
  | .ratioPass _ _ _ => true
  | .sealReport _ _ _ => true
  | .sealDecision _ _ => true
  | .applyPass _ _ _ _ => true
  | .sealComplete _ _ _ => true
  | .answer _ _ _ _ => true
  | .answerTimeout _ _ => true
  | .bind _ _ _ _ => true
  | .ruleLoad _ _ _ _ => true
  | .mode _ _ _ _ => true
  | .snapshot _ _ _ _ => true
  | .snapshotTransfer _ _ _ _ => true
  | .repair _ _ _ _ => true
  | .version _ _ _ _ => true
  | .pushHoldBegin _ _ _ => true
  | .shuffleComplete _ _ _ => true
  | .warming _ _ _ => true
  | .warmingComplete _ _ _ => true
  | .pointerSwitch _ _ _ => true
  | .laggingWriteback _ _ _ _ => true
  | .fetch _ _ _ _ => true
  | .fetchComplete _ _ _ _ => true
  | .portTrain _ _ _ _ _ => true
  | .portRetrain _ _ _ => true
  | .quarantineEnd _ _ _ => true
  | .tileFrame _ _ _ f => f.wf
  | .readRequest _ _ _ f => f.wf
  | .syncFrame _ _ _ f => f.wf
  | .syncOverflowRetry _ _ => true
  | .mailFrame _ _ _ f => f.wf
  | .routeUnit _ _ _ _ => true
  | .presence _ _ _ f => f.wf
  | .presenceBeacon _ _ _ => true
  | .offer _ _ _ f _ => f.wf
  | .refuse _ _ _ f => f.wf
  | .leave _ _ _ f => f.wf
  | .level _ _ _ f => f.wf
  | .hold _ _ _ f => f.wf
  | .holdOffEnd _ _ _ => true
  | .creditReturn _ _ _ f => f.wf
  | .creditReturnTick _ _ _ => true
  | .creditGrant _ _ _ f => f.wf
  | .voidFrame _ _ _ f => f.wf
  | .frameForward _ _ _ f => f.wf
  | .heartbeat _ _ _ f => f.wf
  | .orphanTimeout _ => true
  | .timeSyncTick _ _ => true
  | .timeSync _ _ _ f => f.wf
  | .delayRequest _ _ _ f => f.wf
  | .delayResponse _ _ _ f => f.wf
  | .discoveryAccept _ => true
  | .hostAnchorLoss _ => true
  | .syncWireFail _ _ _ => true
  | .coreFence _ _ _ => true
  | .test _ _ _ _ => true
  | .testRound _ _ => true
  | .fieldTestComplete _ _ unit _ => unit ≤ 129
  | .refetch _ _ _ _ => true
  | .perstN _ _ => true
  | .hostLinkReset _ _ => true
  | .hostPathReturn _ => true
  | .vfFlr _ _ => true
  | .pfFlr _ => true
  | .sqTail _ _ _ _ => true
  | .ringEnable _ _ ring _ => ring ≤ 8
  | .ringFetch _ _ _ _ => true
  | .completionWrite _ _ => true
  | .run _ _ _ _ => true
  | .write _ _ _ _ => true
  | .mailbox _ _ _ _ => true
  | .sendData _ _ _ _ => true
  | .sendDb _ _ _ _ => true
  | .recvData _ _ _ => true
  | .recvPend _ _ _ _ => true
  | .mailboxEntryTake _ _ _ => true
  | .ptmRequest _ _ => true
  | .vinFault _ _ => true
  | .thermalSample _ _ dies => dies.length = 5
  | .thermalCeilingTick _ _ => true
  | .aoclkLoss _ => true
  | .refclkLoss _ => true
  | .cellWake _ _ => true
  | .cellWakeComplete _ _ => true
  | .pwrGoodRise _ _ _ _ => true
  | .supervisorImageVerify _ _ _ => true
  | .hostLinkTrained _ _ => true
  | .cellInitComplete _ _ => true
  | .cellInitTimeout _ _ => true
  | .pwrFailN _ _ => true
  | .pwrFailDeassert _ => true
  | .pwrGoodFall _ => true
  | .haltNAssert _ => true
  | .moduleReset _ _ _ => true
  | .restart _ _ _ => true
  | .restartDrain _ _ _ => true
  | .cellRestartBegin _ _ => true
  | .flashOperation _ => true
  | .flashDeferRetry _ => true
  | .fwWrite _ _ _ bundle => bundle.length ≤ 2 ^ 25
  | .fwStage _ _ => true
  | .fwSwitch _ _ => true
  | .fwCommit _ _ => true
  | .fwRevert _ _ => true
  | .enrol _ _ _ => true
  | .getVersion _ path _ _ => path ≤ 3
  | .getCapabilities _ path _ _ => path ≤ 3
  | .negotiateAlgorithms _ path _ _ => path ≤ 3
  | .getDigests _ path _ _ => path ≤ 3
  | .getCertificate _ path _ _ => path ≤ 3
  | .challenge _ path _ _ => path ≤ 3
  | .getMeasurements _ path _ _ => path ≤ 3
  | .keyExchange _ path _ _ => path ≤ 3
  | .finish _ path _ _ _ _ => path ≤ 3
  | .getEncapsulatedRequest _ path _ _ => path ≤ 3
  | .deliverEncapsulatedResponse _ path _ _ => path ≤ 3
  | .endSession _ path _ _ => path ≤ 3
  | .chunkSend _ path _ _ => path ≤ 3
  | .chunkGet _ path _ _ => path ≤ 3
  | .setCertificate _ path _ _ _ => path ≤ 3
  | .mctpControl _ _ _ _ => true
  | .pldmEffecter _ _ _ _ => true
  | .updateComponent _ _ bundle => bundle.length ≤ 2 ^ 25
  | .activateFirmware _ _ => true
  | .vendorSend _ _ _ count _ words => words.length = count
  | .vendorReceive _ _ _ _ => true
  | .vendorWindow _ _ _ => true
  | .entdaa _ _ => true
  | .setdasa _ _ _ => true
  | .getstatus _ => true
  | .register _ _ _ _ => true
  | .managerWrite _ _ _ => true
  | .powerLimit _ _ _ => true
  | .figFloor _ _ _ => true
  | .ruleFloor _ _ _ => true
  | .jobStep _ _ _ _ _ => true
  | .turnPlan _ _ _ _ => true
  | .quarRelease _ _ _ _ => true
  | .persist _ _ _ _ => true
  | .stop _ _ _ _ => true
  | .debugStopReached _ _ => true
  | .reqIndex _ _ _ _ => true
  | .errCons _ _ _ _ => true
  | .fatal _ _ _ _ => true
  | .registerWrite _ _ off size _ => accessWf off size
  | .journalCommitWritten _ => true
  | .haltNDeassert _ => true
  | .undervoltageLockout _ _ => true
  | .undervoltageLockoutRelease _ _ => true
  | .pwrGoodLowReset _ => true
  | .aoclkPresent _ => true
  | .flrComplete _ _ => true
  | .sealReportStepLimit _ _ _ => true
  | .registerRead _ _ off size => accessWf off size
  | .identityCacheEntry _ _ _ _ _ => true

end Sys2Proof
end

