-- ==== Sys2Proof/Tests/Slice0.lean ====
section
/-!
SUPPORT. Tests: an ill-formed command for each check of WellFormed; for each statement, states and operands that meet its hypotheses, for
each of its clauses; and single steps whose results the spec's own tables and examples give.
-/

namespace Sys2Proof.Tests

open Sys2Proof.Machine

set_option Elab.async false

/-! ## Ill-formed commands: each check refuses one -/

/-- A frame of the two-byte MAIL kind of nothing: its payload does not fit a length of zero. -/
def longFrame : Frame := { hdr := 0, data := 1 }

def src0 : Source := { who := 0, path := .mail }

theorem test_wf_slots : ([.load 0 0 1 4, .loadVerifyDone 0 0 4 0, .loadVerifyDone 0 0 0 (2 ^ 24 + 1), .stage 0 0 1 4, .drop 0 0 1 4] :
    List Instr).all (fun c => !c.wf) = true := by decide +kernel

theorem test_wf_engines : ([.operationComplete 0 0 0 10 [], .operationComplete 0 0 0 1 [768], .tileRedo 0 0 0 768 true true,
    .fieldTestComplete 0 0 130 true, .recordWritten 0 0 16384] : List Instr).all (fun c => !c.wf) = true := by decide +kernel

theorem test_wf_accesses : ([.bar2Write 0 0 (2 ^ 37 - 1) [0, 0], .bar2Write 0 0 0 [], .bar2Read 0 0 (2 ^ 37) 1,
    .patrolScrub 0 0 [{ addr := 2 ^ 28, site := .fast, corrected := true }] 0, .registerWrite 0 0 2 4 0, .registerRead 0 0 0 3,
    .ringEnable 0 0 9 0] : List Instr).all (fun c => !c.wf) = true := by decide +kernel

theorem test_wf_frames : ([.reducePart 0 0 0 longFrame, .tileFrame 0 0 0 longFrame, .readRequest 0 0 0 longFrame, .syncFrame 0 0 0 longFrame,
    .mailFrame 0 0 0 longFrame, .presence 0 0 0 longFrame, .offer 0 0 0 longFrame 0, .refuse 0 0 0 longFrame, .leave 0 0 0 longFrame,
    .level 0 0 0 longFrame, .hold 0 0 0 longFrame, .creditReturn 0 0 0 longFrame, .creditGrant 0 0 0 longFrame, .voidFrame 0 0 0 longFrame,
    .frameForward 0 0 0 longFrame, .heartbeat 0 0 0 longFrame, .timeSync 0 0 0 longFrame, .delayRequest 0 0 0 longFrame,
    .delayResponse 0 0 0 longFrame] : List Instr).all (fun c => !c.wf) = true := by decide +kernel

theorem test_wf_management : ([.thermalSample 0 0 [20, 20, 20, 20], .vendorSend 0 0x60 0 2 false [0], .getVersion 0 4 0 [],
    .getCapabilities 0 4 0 [], .negotiateAlgorithms 0 4 0 [], .getDigests 0 4 0 [], .getCertificate 0 4 0 [], .challenge 0 4 0 [],
    .getMeasurements 0 4 0 [], .keyExchange 0 4 0 [], .finish 0 4 0 [] true 0, .getEncapsulatedRequest 0 4 0 [],
    .deliverEncapsulatedResponse 0 4 0 [], .endSession 0 4 0 [], .chunkSend 0 4 0 [], .chunkGet 0 4 0 [], .setCertificate 0 4 0 [] 0] :
    List Instr).all (fun c => !c.wf) = true := by decide +kernel

theorem test_wf_bundles : ∀ l : List Byte, 2 ^ 25 < l.length →
    (Instr.fwWrite 0 0 true l).wf = false ∧ (Instr.updateComponent 0 0x60 l).wf = false := by
  intro l h
  simp [Instr.wf]
  omega

/-! ## States -/

/-- A serving figure of one cell: tenant 0 generates and learns on core 0, layer 1 is home and served at cell 0, its lead. -/
def fig0 : Figure :=
  { level := 3, phase := 1, ident := 5, secver := 1, cellMask := 1, stop := false, manifest := 0, digest := 7
    chains := [{ clusters := 1, index := 0, stages := [1], share := 64 }]
    tenants := [{ tenant := 0, hostFn := 0, gen := true, learn := true, cores := 1 }]
    pools := [{ tenant := 0, fastBw := 1, slowBw := 1, fastFloor := 0, fastLimit := 1000, slowFloor := 0, slowLimit := 1000 }]
    reqtabs := [{ tenant := 0, first := 0, count := 16 }], quantum := 256, queues := [{ tenant := 0, weights := [1] }], binds := []
    deepest := 0, minShare := 40, maxShare := 400, power := [], freeze := [], updates := [], fenceReserve := 2, redoReserve := 4
    costs := [{ tokens := 512, draft := 8, context := 4096, duration := 1000 }], replicas := 1
    places := [{ layer := 1, seat := 0xFFFF, cell := 0, kind := 2, home := true, serve := true, reference := false, format := 0, replica := 0 }] }

/-- A running module with its link up, eight cells in service and the figure on cell 0, whose command queue served the PF last. -/
def up : State :=
  { State.reset with
    supply := { Supply.reset with pwrGood := true }
    boot := { Boot.reset with islands := true, running := true }
    host := { HostPort.reset with linkUp := true, cfgLive := true }
    cells := (0, { Cell.reset with init := true, cmdBtn := 1, fig := { FigState.reset with active := some fig0 } }) ::
      [1, 2, 3, 4, 5, 6, 7].map (fun c => (c, { Cell.reset with init := true })) }

/-- The module with cell 0 changed. -/
def with0 (f : Cell → Cell) : State := up.onCell 0 f

/-- The module with the figures of cell 0 changed. -/
def withFig (f : FigState → FigState) : State := with0 (fun k => { k with fig := f k.fig })

/-- An entry from its fields: offset, width in bytes, value. -/
def entry (l : List (Nat × Nat × Nat)) : Entry := BitVec.ofNat 512 (l.map (fun p => p.2.2 * 256 ^ p.1)).sum

/-! ## Witnesses of the statements' hypotheses -/

theorem witness_StepRunsTheFrontCommand : ({ up with pending := [.aoclkLoss 0] } : State).pending = .aoclkLoss 0 :: [] ∧ up.pending = [] := by
  decide +kernel

theorem witness_StepKeepsEveryTableCanonical : ∃ s', step State.reset = .next s' := ⟨_, rfl⟩

def res0 : Slot4 := .resident fig0 []

theorem witness_SlotsAreLoadedStagedAndDropped :
    (up.regUp 0 ∧ topIdent 0 ∧ allCells.filter (fun m => (1#8).getLsbD m) = [0] ∧ up.cellUp 0 ∧
      (((up.cell 0).fig.cmds).filter (·.viaReg)).length < 4 ∧ (up.cell 0).fig.slotState 0 = 0 ∧ (up.cell 0).fig.slotState 3 = 0 ∧
      (up.cell 0).fig.arm = none ∧ (up.cell 0).fig.staging = none) ∧
    ((withFig (fun f => { f with slots := [(3, .loading [] none 0)] })).cell 0).fig.slotState 3 = 1 ∧
    ((withFig (fun f => { f with slots := [(3, res0)] })).cell 0).fig.slotState 3 = 2 ∧
    ((withFig (fun f => { f with slots := [(3, res0)], activeSlot := some 3 })).cell 0).fig.slotState 3 = 3 := by decide +kernel

theorem witness_ArmPendsAndDisarmClears :
    (let u := withFig (fun f => { f with idle := some fig0 });
      u.regUp 0x40 ∧ topIdent 0x40 ∧ allCells.filter (fun m => (1#8).getLsbD m) = [0] ∧ u.cellUp 0 ∧
      (((u.cell 0).fig.cmds).filter (·.viaReg)).length < 4 ∧ (u.cell 0).fig.idle = some fig0 ∧ (u.cell 0).fig.staging = none ∧
      u.noFlip = false ∧ fig0.level ≤ u.seating.level ∧ (u.cell 0).fig.arm = none) ∧
    (let u : State := { withFig (fun f => { f with idle := some fig0 }) with seating := { Seating.reset with level := 2 } };
      (u.cell 0).fig.idle = some fig0 ∧ u.seating.level < fig0.level) ∧
    ((withFig (fun f => { f with arm := some 0 })).cell 0).fig.arm.isSome := by decide +kernel

theorem witness_LoadVerifiesAndStagingEnds :
    ((withFig (fun f => { f with slots := [(3, .loading [] (some 0) 0)] })).cell 0).fig.slots.get .empty 3 = .loading [] (some 0) 0 ∧ up.cellUp 0 ∧
    (let f := ((withFig (fun f => { f with staging := some 3, slots := [(3, res0)] })).cell 0).fig;
      f.staging = some 3 ∧ f.toArm = some fig0 ∧ f.arm = none) := by decide +kernel

/-- A tensor of tenant 0 or, with `who`, of another. -/
def tensorOf (ident : BitVec 24) (fmt : Nat) (flags : BitVec 8) (base count : Nat) (ready : Bool) : Tensor :=
  { tenant := 0, ident := ident, fmt := fmt, flags := flags, base := base, count := count, ready := ready, freePend := false, digest := 0, holder := none }

def withDir (l : List Tensor) : State := with0 (fun k => { k with tiers := { k.tiers with dir := l } })

theorem witness_TensorEntriesAllocateReadyAndFree :
    (let e := entry [(0, 1, 1), (1, 1, 0x11), (4, 3, 7), (8, 4, 1)];
      let x : Tensor := { tenant := 0, ident := 7, fmt := 0x11, flags := 0, base := lowestRun 1 0 (up.cell 0).runs', count := 1, ready := false,
                          freePend := false, digest := 0, holder := none };
      tensorReserved e = false ∧ up.mayFor 0 (e.fld 2 1) 0 ∧ up.takes 0 0x01 src0 e ∧ flagsBad (e.fld 3 1) = false ∧
      identBad (e.fld 4 3) (e.fld 1 1) (e.fld 3 1) = false ∧ bit (e.fld 3 1) 3 = false ∧
      (up.cell 0).tiers.dir.find? (fun x => x.tenant = e.fld 2 1 && x.ident = BitVec.ofNat 24 (e.fld 4 3)) = none ∧
      (up.cell 0).tiers.dir.length < 65536 ∧ (up.cell 0).allocFits x = 0) ∧
    (let u := withDir [tensorOf 7 0x11 0 0 1 false]; let e := entry [(0, 1, 2), (4, 3, 7)];
      tensorReserved e = false ∧ u.takes 0 0x02 src0 e ∧ (u.cell 0).lookup (e.fld 2 1) (BitVec.ofNat 24 (e.fld 4 3)) = some (tensorOf 7 0x11 0 0 1 false, false) ∧
      (tensorOf 7 0x11 0 0 1 false).sharedRo = false) ∧
    (let u := withDir [tensorOf 7 0x11 0 0 1 true]; let e := entry [(0, 1, 3), (4, 3, 7)];
      tensorReserved e = false ∧ u.takes 0 0x03 src0 e ∧
      (u.cell 0).lookup (e.fld 2 1) (BitVec.ofNat 24 (e.fld 4 3)) = some (tensorOf 7 0x11 0 0 1 true, false)) := by decide +kernel

def genDir : List Tensor := [tensorOf 1 0x08 4 0 1 true, tensorOf 2 0x11 4 1 1 true, tensorOf 3 0x11 4 2 1 true, tensorOf 4 0x11 4 3 1 true]

def liveReq : ReqEntry := { ReqEntry.free with st := .decode, desc := entry [(4, 4, 9)] }

theorem witness_GenerationEntriesTakeEffect :
    (let u := withDir genDir; let e := entry [(0, 1, 0x22), (2, 2, 1), (4, 3, 1), (8, 3, 2), (0xC, 3, 3), (0x10, 3, 4), (0x14, 4, 1), (0x24, 2, 4)];
      u.takes 0 0x22 src0 e ∧ setupReserved e = false ∧ u.mayFor 0 (readSetup e).tenant 0 ∧
      (((u.cell 0).tenantRec (readSetup e).tenant).map (·.gen)).getD false ∧ (u.cell 0).gen.table = [] ∧ (u.cell 0).setupTensors (readSetup e)) ∧
    (let e := entry [(0, 1, 0x20)]; up.takes 0 0x20 src0 e ∧ e.rqTenant ≤ 63 ∧ e.rqQueue ≤ 63 ∧ (up.cell 0).gen.pend.length < 4096) ∧
    (let u := with0 (fun k => { k with gen := { k.gen with table := [(5, { liveReq with desc := 0 })] } }); let e := entry [(0, 1, 0x21)];
      u.takes 0 0x21 src0 e ∧ cancelReserved e = false ∧ e.fld 2 1 = 0 ∧ u.mayFor 0 (e.fld 1 1) 0 ∧
      up.takes 0 0x21 src0 e ∧ (up.cell 0).gen.pend = [] ∧ (up.cell 0).gen.table = [] ∧
      (u.cell 0).gen.table.filter (fun x => x.2.live && x.2.tenant = e.fld 1 1 && x.2.desc.rqTag = e.fld 4 4) = [(5, { liveReq with desc := 0 })]) := by
  decide +kernel

def bind1 : Binding :=
  { tenant := 0, layer := 1, rule := 1, strict := false, srw := false, decay := false, block := 0, fromStep := 0, master := 5, m1 := 6, m2 := 7,
    counter := 8, precond := 0, words := [0, 0, 0, 0, 0, 0, 0, 0] }

def img0 : Image :=
  { level := 1, phase := 1, ident := 9, tenant := 0, stepLimit := 1000, seed := 1, figure := 5, groups := [{ threads := 1, counters := 4 }]
    threads := [{ first := 0, count := 1, chain := 0, startCtr := 0xFFFF, startThr := 0 }], ops := []
    layers := [{ layer := 1, role := 0, expert := 0, tensor := 1 }] }

def learnDir : List Tensor := tensorOf 1 0x08 0 0 1 true :: [5, 6, 7].map (fun i => tensorOf i 0x0C 0x12 i.toNat 2 true) ++ [tensorOf 8 0x11 0x12 20 1 true]

theorem witness_LearningEntriesTakeEffect :
    (let u := ({ up with coords := [(0, { Coord.reset with group := [0], active := true, ratioAt := some 1 })] } : State);
      let e := entry [(0, 1, 0x34), (4, 4, (u.coord 0).step), (8, 1, 1)];
      u.takes 0 0x34 src0 e ∧ answerReserved e = false ∧ u.mayFor 0 (e.fld 1 1) 0 ∧ (u.coord (e.fld 1 1)).active ∧
      (u.coord (e.fld 1 1)).ratioAt.isSome ∧ (u.coord (e.fld 1 1)).answer = none ∧ (u.coord (e.fld 1 1)).decision = none ∧
      e.fld 4 4 = (u.coord (e.fld 1 1)).step) ∧
    (let u := with0 (fun k => { k with
        tiers := { k.tiers with dir := learnDir }, runs := [(0, { TenantRun.reset with image := some img0 })]
        learn := [(0, { LearnRun.reset with phase := .running })], ud := { k.ud with binds := [bind1] } });
      let e := entry [(0, 1, 0x30), (2, 2, 1), (4, 1, 1), (0xC, 3, 5), (0x10, 3, 6), (0x14, 3, 7), (0x18, 3, 8)];
      u.takes 0 0x30 src0 e ∧ bindReserved e = false ∧ u.homesLayer 0 (readBinding e).layer ∧ u.mayFor 0 (readBinding e).tenant 0 ∧
      (u.cell 0).ud.knowsRule (readBinding e).rule ∧ (u.cell 0).ud.pendBinds = [] ∧ (u.cell 0).bindTensors (readBinding e) ∧
      ((u.cell 0).lrn (readBinding e).tenant).phase = .running ∧ ((u.cell 0).ud.bindOf (readBinding e).layer).isSome) ∧
    (let u := with0 (fun k => { k with ud := { k.ud with mode := .run } }); let e := entry [(0, 1, 0x32), (1, 1, 2)];
      u.takes 0 0x32 src0 e ∧ modeOf (e.fld 1 1) = some .test ∧ e.zeroBytes 2 64 ∧ topIdent 0 ∧ (u.cell 0).ud.pendMode = none ∧
      modeMove (u.cell 0).ud.mode .test) ∧
    (let u := with0 (fun k => { k with ud := { k.ud with mode := .run, held := [1], binds := [bind1] } });
      let e := entry [(0, 1, 0x35), (2, 2, 1), (4, 1, 2)];
      u.takes 0 0x35 src0 e ∧ repairReserved e = false ∧ topIdent 0 ∧ (u.cell 0).ud.mode ≠ .test ∧ (u.cell 0).ud.held.contains (e.fld 2 2) ∧
      (u.cell 0).ud.repairs = [] ∧ (u.cell 0).ud.bindOf (e.fld 2 2) = some bind1 ∧ bind1.tenant = e.fld 1 1 ∧ e.fld 4 1 = 2) := by decide +kernel

theorem witness_RuleLoadAndSnapshotEntries :
    (let u := withDir [tensorOf 1 0x11 4 0 1 true]; let e := entry [(0, 1, 0x31), (1, 1, 0x83), (4, 3, 1)]; let x := tensorOf 1 0x11 4 0 1 true;
      u.takes 0 0x31 src0 e ∧ e.fld 2 2 = 0 ∧ e.zeroBytes 7 64 ∧ topIdent 0 ∧ 0x80 ≤ e.fld 1 1 ∧ e.fld 1 1 ≤ 0x83 ∧
      (u.cell 0).ud.binds ++ (u.cell 0).ud.pendBinds = [] ∧ (u.cell 0).anyInt32 (e.fld 4 3) = some x ∧
      (readRule u.flash.keys u.flash.ruleFloor 4096 ((u.cell 0).tensorNat x 0 4096)).2 = none) ∧
    (let e := entry [(0, 1, 0x33), (2, 1, 0x08)];
      up.takes 0 0x33 src0 e ∧ snapReserved e = false ∧ ((up.cell 0).run (e.fld 1 1)).jobStep.toNat % 2 ^ 32 ≤ e.fld 4 4 ∧ up.mayFor 0 (e.fld 1 1) 0 ∧
      (up.cell 0).ud.snaps.get none (e.fld 1 1) = none ∧ (up.cell 0).homeLayers 0 = []) ∧
    (let u := with0 (fun k => { k with
        tiers := { k.tiers with dir := learnDir }, runs := [(0, { TenantRun.reset with image := some img0 })], ud := { k.ud with binds := [bind1] } });
      let e := entry [(0, 1, 0x33), (2, 1, 0x08)];
      let n := (((u.cell 0).homeLayers (e.fld 1 1)).map (fun l => (u.cell 0).shardTiles (e.fld 1 1) l (e.fld 2 1))).sum;
      let x : Tensor := { tenant := e.fld 1 1, ident := stageIdent, fmt := e.fld 2 1, flags := 0x10,
                          base := lowestRun n 0 (u.cell 0).runs', count := n, ready := true, freePend := false, digest := 0, holder := none };
      u.takes 0 0x33 src0 e ∧ n ≠ 0 ∧ (u.cell 0).allocFits x = 0 ∧ n ≤ (u.cell 0).allocFast x) := by decide +kernel

def shared1 : Tensor := { tensorOf 0x200001 0x08 0x0C 0 1 true with tenant := 0xFF }

theorem witness_VersionFetchAndRefetchEntries :
    (let e := entry [(0, 1, 0x23), (3, 1, 2)]; let n := BitVec.ofNat 16 (e.fld 4 2);
      up.takes 0 0x23 src0 e ∧ e.fld 2 1 = 0 ∧ versionReserved e = false ∧ topIdent 0 ∧ up.isLead 0 ∧
      (((up.cell 0).tenantRec (e.fld 1 1)).map (·.gen)).getD false ∧ (∀ h ∈ up.homesOf 0, ((up.cell h).ver (e.fld 1 1)).homeVer = n) ∧
      newer n n = false ∧ ((up.cell 0).ver (e.fld 1 1)).retLive = false ∧ ((up.cell 0).ver (e.fld 1 1)).push = none ∧ e.fld 3 1 = 2) ∧
    (let u := withDir [tensorOf 1 0x08 0 0 1 false, tensorOf 2 0x11 4 1 1 true];
      let e := entry [(0, 1, 0x24), (2, 2, 1), (4, 3, 1), (7, 1, 1), (0x10, 3, 2)];
      u.takes 0 0x24 src0 e ∧ fetchReserved e = false ∧ u.mayFor 0 (e.fld 1 1) 0 ∧ u.layerPlaced 0 (e.fld 2 2) ∧ ((u.cell 0).fetchDest e).isSome ∧
      ((u.cell 0).ownTensor (e.fld 1 1) (e.fld 0x10 3)).any (fun x => x.ready && x.fmt = 0x11)) ∧
    (let u := withDir [shared1, tensorOf 2 0x11 4 1 1 true]; let e := entry [(0, 1, 0x25), (3, 1, 1), (4, 3, 0x200001), (0x10, 3, 2)];
      let w := u.onCell 0 (fun k => { k with tiers := { k.tiers with tiles := [(0, { TileEnt.absent with
        st := .F, fast := { Tile.zero with tag := { Tile.zero.tag with poison := true } } })] } });
      u.takes 0 0x25 src0 e ∧ e.fld 1 1 = 0 ∧ refetchReserved e = false ∧ topIdent 0 ∧
      ((u.cell 0).ownTensor (e.fld 2 1) (e.fld 0x10 3)).any (fun y => y.fmt = 0x11) ∧ (u.cell 0).heldShared (e.fld 4 3) = some shared1 ∧
      ((u.cell 0).poisonedOf shared1).isEmpty = true ∧ ((w.cell 0).poisonedOf shared1).isEmpty = false) := by decide +kernel

def src70 : Source := { who := 0x70, path := .mail }

def boundTo70 : State := with0 (fun k => { k with cmdBtn := 0x71, binds := [(0, { valid := true, locked := true, idA := 0x70, idB := 0 })] })

theorem witness_RunWriteMailboxAndRegisterEntries :
    (let e := entry [(0, 1, 0x11)]; up.takes 0 0x11 src0 e ∧ runReserved e = false ∧ up.mayFor 0 (e.fld 1 1) 0 ∧
      (((up.cell 0).tenantRec (e.fld 1 1)).map (·.learn)).getD false) ∧
    (let u := with0 (fun k => { k with step := { k.step with running := true }, tiers := { k.tiers with
        dir := [tensorOf 1 0x11 0x10 0 1 true], tiles := [(0, { TileEnt.absent with st := .H })] } });
      let e := entry [(0, 1, 0x28), (2, 1, 12), (4, 3, 1), (8, 4, 1012)];
      u.takes 0 0x28 src0 e ∧ writeReserved e = false ∧ u.mayFor 0 (e.fld 1 1) 0 ∧ (u.cell 0).writeFits e ∧ (u.cell 0).step.running) ∧
    (let e := entry [(0, 1, 0x27), (2, 1, 15)];
      boundTo70.takes 0 0x27 src70 e ∧ mailboxReserved e = false ∧ boundTo70.chanSide (e.fld 1 1) 0x70 = some true ∧
      ((boundTo70.chan (e.fld 1 1)).dir true).queue.length + e.fld 2 1 ≤ 16 ∧ e.fld 3 1 ≠ 1) ∧
    (let e := entry [(0, 1, 0x29), (4, 4, 0x20)]; boundTo70.takes 0 0x29 src70 e ∧ registerReserved e = false ∧ e.fld 4 4 = 0x20) := by decide +kernel

theorem witness_LoadImageAndTestEntries :
    (let u := withDir [tensorOf 1 0x11 4 0 1 true]; let e := entry [(0, 1, 0x10), (4, 3, 1), (8, 4, 64)];
      u.takes 0 0x10 src0 e ∧ loadImageReserved e = false ∧ (u.cell 0).imageBytes (e.fld 1 1) (e.fld 4 3) (e.fld 8 4) = some 0 ∧
      imageStatus (u.cell 0).fig.active 0 64 0 0 true none u.seating.level ≠ 0) ∧
    (let e := entry [(0, 1, 0x26)]; up.takes 0 0x26 src0 e ∧ testReserved e = false ∧ topIdent 0 ∧ bit (e.fld 2 1) 2 = false) := by decide +kernel

theorem witness_EntriesOfAKindTheirPathDoesNotCarryEndWithKind :
    up.cellUp 0 ∧ (up.cell 0).power.state = .c0 ∧
    ([1, 2, 3, 0x10, 0x11, 0x20, 0x21, 0x22, 0x23, 0x24, 0x25, 0x26, 0x27, 0x28, 0x29, 0x30, 0x31, 0x32, 0x33, 0x34, 0x35] : List Nat).all
      (fun n => (entry [(0, 1, n)]).fld 0 1 = n && !up.kindOk { who := 0, path := .box 0 } n) := by decide +kernel

theorem witness_ACellKeepsItsActiveFigure : ∃ s', exec (.aoclkLoss 0) State.reset = .next s' := ⟨_, rfl⟩

def armed : State := withFig (fun f => { f with idle := some fig0, arm := some 0 })

theorem witness_ASwapFlipsThePlanesOfItsCellAlone :
    ((armed.cell 0).fig.idle = some fig0 ∧ armed.cellUp 0 ∧ (armed.cell 0).step.running = false ∧ (armed.cell 0).swapDue (armed.time 0)) ∧
    (armed.noFlip = false ∧ (armed.cell 0).power.state = .c0 ∧ fig0.stop = false) ∧
    ({ armed with supply := { armed.supply with haltN := false } } : State).noFlip := by decide +kernel

theorem witness_BindingRegisterWriteWhileUnlocked :
    up.regUp 0 ∧ up.regUp 0x60 ∧ (up.binding 63).locked = false ∧ (boundTo70.binding 0).locked ∧ (up.binding 63).valid = false := by decide +kernel

/-- The states of the entry witnesses are states after the service of their own sender. -/
theorem witness_served : up.cmdServed 0 src0.who = up ∧ boundTo70.cmdServed 0 src70.who = boundTo70 := by decide +kernel

/-! ## Steps and operations -/

def op (opcode variant : Nat) : OpRec :=
  { opcode := opcode, variant := variant, flags := 0, fmtA := 0x0C, fmtB := 0x0C, fmtD := 0x0C, sigCtr := 0xFFFF, a := 0, b := 0, d := 0,
    m := 4, n := 4, k := 4, param := 0 }

/-- Cell 0 in a step of tenant 0, whose one thread is to run `o`. -/
def inStep (o : OpRec) : State := with0 (fun k => { k with
  step := { k.step with running := true }
  runs := [(0, { TenantRun.reset with image := some { img0 with ops := [o] }, deal := [some { core := 0, ctr := 0, ctx := 0 }] })]
  cores := [(0, { Core.reset with ctxs := [(0, { Ctx.free with st := .ready })] })] })

/-- What an engine takes of `o`, with the state it leaves. -/
def issued (o : OpRec) (e : Nat) : Option (OpEnv × State) := (inStep o).issue 0 0 e (fun x => x.opcode = o.opcode)

def noEnv (o : OpRec) : OpEnv :=
  { cell := 0, core := 0, ctx := 0, tenant := 0, group := 0, op := o, index := 0, base := 0, span := 0, seed := 0, jobStep := 0, gen := true }

def envOf (o : OpRec) (e : Nat) : OpEnv := ((issued o e).map (·.1)).getD (noEnv o)

def decoding : ReqEntry := { ReqEntry.free with st := .decode, lp := 1, np := 0, steps := 4, g := 4, lmax := 8, done := 1, first := 0 }

theorem witness_AStepBegins :
    (let u := with0 (fun k => { k with gen := { k.gen with table := [(0, decoding)] } });
      u.leadCell 0 = some 0 ∧ (∀ m ∈ u.groupOf 0, u.mayBegin m) ∧ (((u.holdRequests 0).cell 0).planRows ≠ [])) ∧
    (up.leadCell 0 = some 0 ∧ (∀ m ∈ up.groupOf 0, up.mayBegin m) ∧ ((up.holdRequests 0).cell 0).planRows = []) ∧
    (∃ m ∈ (inStep (op 9 0)).groupOf 0, (inStep (op 9 0)).mayBegin m = false) ∧
    (let two : Figure := { fig0 with places := { layer := 2, seat := 0xFFFF, cell := 1, kind := 1, home := true, serve := true, reference := false, format := 0, replica := 0 } :: fig0.places };
      let lead := with0 (fun k => { k with fig := { k.fig with active := some two }, step := { k.step with running := true } });
      let u := lead.onCell 1 (fun k => { k with fig := { k.fig with active := some two }, gen := { k.gen with rows := [stepRow 0 decoding] } });
      u.leadCell 1 = some 0 ∧ (u.cell 0).step.running ∧ (u.cell 1).gen.rows ≠ [] ∧ u.mayBegin 1) ∧
    (let u := with0 (fun k => { k with
        fig := { k.fig with active := some { fig0 with phase := 2 } }, learn := [(0, { LearnRun.reset with phase := .open })]
        runs := [(0, { TenantRun.reset with image := some { img0 with phase := 2 } })] });
      u.leadCell 0 = none ∧ u.mayBegin 0 ∧ (u.cell 0).openTenants ≠ []) := by decide +kernel

def msg0 (step : BitVec 16) : SyncMsg := { src := 0, seat := 0, cell := 0, tenant := 0, group := 0, ctr := 0, add := 1, step := step }

/-- The message of a SYNC that signals. -/
def signalled (v : OpEnv) : SyncMsg :=
  let r := readRef v.op.a
  { src := 0, seat := if r.own then up.mySeat else r.seat, cell := r.cell, tenant := v.tenant, group := r.group, ctr := r.ctr,
    add := bits v.op.param.toNat 0 16, step := 0 }

theorem witness_SyncAndItsMessages :
    (let v := envOf (op 9 0) 9; (issued (op 9 0) 9).isSome ∧ v.op.signal = false ∧ v.op.variant ≠ 2 ∧ up.wired (signalled v)) ∧
    (let o := { op 9 1 with a := 2 ^ 44 }; let s := { inStep o with badWires := [(0, 1)] };
      ((s.issue 0 0 9 (fun x => x.opcode = 9)).map (fun r => s.wired (signalled r.1))) = some false) ∧
    ((issued (op 9 2) 9).isSome ∧ (envOf (op 9 2) 9).op.signal = false ∧ (envOf (op 9 2) 9).op.variant = 2) ∧
    (let u : State := { inStep (op 9 0) with net := [msg0 0] };
      u.net[0]? = some (msg0 0) ∧ (u.cell 0).step.running ∧ (msg0 0).step = BitVec.ofNat 16 (u.cell 0).step.number ∧ (u.cell 0).counterAt 0 0 0 = some (0, 0)) ∧
    (let u : State := { up with net := [msg0 0] }; u.net[0]? = some (msg0 0) ∧ (u.cell 0).step.running = false ∧
      (msg0 0).step = BitVec.ofNat 16 (u.cell 0).step.number ∧ ((u.cell 0).core 0).pend.length < 512) ∧
    (let u := with0 (fun k => { k with cores := [(0, { Core.reset with pend := List.replicate 512 (msg0 0) })] });
      512 ≤ ((u.cell 0).core 0).pend.length) ∧
    ((msg0 2).step ≠ BitVec.ofNat 16 (up.cell 0).step.number ∧ (msg0 2).step ≠ BitVec.ofNat 16 (up.cell 0).step.number + 1) ∧
    ({ up with netHeld := [msg0 0] } : State).netHeld = [msg0 0] := by decide +kernel

/-- A PRODUCT of context 0 in the matrix engine, its result one tile at slot 3. -/
def inEngine : EngineOp := { ctx := 0, oprec := op 1 0, writes := [.slot 3 Slot.zero], cycles := none, reports := [] }

def withEngine (due : List (Nat × Nat)) : State :=
  (inStep (op 1 0)).onCell 0 (fun k => k.onCore 0 (fun x => { x with engines := [(1, some inEngine)], redoDue := due }))

theorem witness_AnOperationCompletesOrIsRedone :
    ((withEngine []).issuing 0 ∧ (((withEngine []).cell 0).core 0).engine 1 = some inEngine ∧ (((withEngine []).cell 0).core 0).out = false ∧
      inEngine.slots.contains 3 ∧ inEngine.slots.contains 4 = false ∧ inEngine.waits = [] ∧ (((withEngine []).cell 0).core 0).redoDue = []) ∧
    ((((withEngine [(0, 3)]).cell 0).core 0).redoDue.find? (fun y => y.2 = 3) = some (0, 3) ∧
      ((withEngine [(0, 3)]).cell 0).redoCore 0 0 = none) ∧
    (let two : Figure := { fig0 with tenants := [{ tenant := 0, hostFn := 0, gen := true, learn := true, cores := 3 }] };
      let u := (withEngine [(0, 3)]).onCell 0 (fun k => { k with fig := { k.fig with active := some two } });
      (u.cell 0).redoCore 0 0 = some 1) ∧
    ((withEngine []).cell 0).sending 0 inEngine = false ∧ { inEngine with waits := [(1, 0)] }.waits ≠ [] ∧
    (let f := Out.frame { ftype := 1, lane := 1, dseat := 0, dcell := 1, tenant := 0, origin := 0, tensor := 7, plen := 0, data := 0 } 0 0 0 0;
      let u := (withEngine []).onCell 0 (fun k => k.onPort 0 (fun q => { q with queue := [(12, f)] }));
      (u.cell 0).sending 0 { inEngine with sent := [(7, 0)] }) := by decide +kernel

theorem witness_TheWatchdogStopsAnOverdueStep :
    ((inStep (op 1 0)).cellUp 0 ∧ ((inStep (op 1 0)).cell 0).step.running ∧ ((inStep (op 1 0)).cell 0).step.stopped = false ∧
      (inStep (op 1 0)).overdue 0 = []) ∧
    (((inStep (op 1 0)).at 1000).cellUp 0 ∧ ((inStep (op 1 0)).at 1000).overdue 0 = [0]) ∧
    (let u := (with0 (fun k => { k with
        learn := [(0, { LearnRun.reset with phase := .running })], runs := [(0, { TenantRun.reset with image := some img0 })]
        tiers := { k.tiers with dir := tensorOf 9 0x08 0x10 30 1 true :: learnDir }
        ud := { k.ud with binds := [bind1], named := [(1, 0, 2 ^ 62 + 9 * 2 ^ 20, 0)] } })).at 1000;
      u.cellUp 0 ∧ u.overdueHomes 0 = [0]) := by decide +kernel

/-! ## The check value of a zero tile (R57, R141) -/

theorem bytes_of_zero (n : Nat) : bytesOf n 0 = List.replicate n 0 := by
  induction n with
  | zero => rfl
  | succ n ih => simp [bytesOf, ih, List.replicate_succ]

theorem test_crc_of_zero_bytes : crc32c (List.replicate 4096 0) = crcZero := by decide +kernel

theorem test_crc_of_a_zero_tile : payloadCrc 0 = crcZero := by
  unfold payloadCrc
  rw [show BitVec.toNat (0 : Payload) = 0 by simp, bytes_of_zero, test_crc_of_zero_bytes]

theorem zeroSlot_ok : Slot.zero.ok = true := by
  unfold Slot.ok
  rw [show Slot.zero.tile.payload = 0 from rfl, test_crc_of_a_zero_tile]
  rfl

/-- Slots that hold what an initialised slot holds have their check values. -/
theorem zeroSlots_ok (x : Core) (l : List Nat) (h : l.all (fun i => decide (x.slot i = Slot.zero)) = true) : ∀ i ∈ l, (x.slot i).ok := by
  intro i hi
  have := List.all_eq_true.mp h i hi
  rw [of_decide_eq_true this]
  exact zeroSlot_ok

def coreOf (o : OpRec) (e : Nat) : Core := ((issued o e).map (fun r => (r.2.cell 0).core 0)).getD Core.reset

theorem witness_ProductSampleAndMaskEnterTheirEngines :
    ((issued (op 1 0) 1).isSome ∧ sideMissing (coreOf (op 1 0) 1) (envOf (op 1 0) 1) = false) ∧
    (∀ i ∈ productReads (coreOf (op 1 0) 1) (envOf (op 1 0) 1), ((coreOf (op 1 0) 1).slot i).ok) ∧
    ((issued { op 1 0 with flags := 0x10 } 1).map (fun r => sideMissing ((r.2.cell 0).core 0) r.1)) = some true ∧
    (issued (op 4 0) 4).isSome ∧ (∀ i ∈ sampleReads (envOf (op 4 0) 4), ((coreOf (op 4 0) 4).slot i).ok) ∧
    (let u := (inStep (op 5 0)).onCell 0 (fun k => k.onCore 0 (fun x =>
        { x with slots := [(0, { Slot.zero with tile := { Tile.zero with tag := { Tile.zero.tag with ident := 1 } } })] }));
      (u.issue 0 0 5 (fun o => o.opcode = 5)).isSome ∧
      (∀ i ∈ slotRun ((envOf (op 5 0) 5).slotOf 0) 0x0C 16, (((u.cell 0).core 0).slot i).tile.tag.ident ≠ 0)) ∧
    ([(1, 1), (2, 2), (3, 3), (4, 4), (5, 5), (6, 6), (7, 7), (7, 8), (7, 0xA)] : List (Nat × Nat)).all
      (fun p => (up.issue 0 0 p.1 (fun o => o.opcode = p.2)).isNone) :=
  ⟨by decide +kernel, zeroSlots_ok _ _ (by decide +kernel), by decide +kernel, by decide +kernel, zeroSlots_ok _ _ (by decide +kernel),
    by decide +kernel, by decide +kernel⟩

theorem witness_RowAndRouteEnterTheirEngines :
    ((issued (op 2 3) 2).isSome ∧ (rowSet (coreOf (op 2 3) 2) (envOf (op 2 3) 2)).isSome) ∧
    (∀ i ∈ rowReads (envOf (op 2 3) 2), ((coreOf (op 2 3) 2).slot i).ok) ∧
    (([1, 2, 3, 4] : List Nat).all (fun n => (issued (op 3 n) 3).isSome)) ∧
    (∀ i ∈ routeReads (envOf (op 3 1) 3), ((coreOf (op 3 1) 3).slot i).ok) ∧
    (∀ i ∈ routeReads (envOf (op 3 2) 3), ((coreOf (op 3 2) 3).slot i).ok) ∧
    (∀ i ∈ routeReads (envOf (op 3 3) 3), ((coreOf (op 3 3) 3).slot i).ok) :=
  ⟨by decide +kernel, zeroSlots_ok _ _ (by decide +kernel), by decide +kernel, zeroSlots_ok _ _ (by decide +kernel),
    zeroSlots_ok _ _ (by decide +kernel), zeroSlots_ok _ _ (by decide +kernel)⟩

theorem witness_MoveElementReduceAndUpdateEnterTheirEngines :
    (let near := { op 6 0 with k := 0 }; let far := { near with a := BitVec.ofNat 64 (2 ^ 63 + 2 ^ 44) };
      let held := { near with a := 2 ^ 62 + 7 * 2 ^ 20 };
      let u := (inStep held).onCell 0 (fun k => { k with tiers := { k.tiers with dir := [{ tensorOf 7 0x0C 0x0C 0 1 true with holder := some 1 }] } });
      (issued near 6).isSome ∧ ((issued near 6).map (fun r => moveOk (r.2.cell 0) r.1 && (r.2.farSource r.1).isNone)) = some true ∧
      ((issued near 6).map (fun r => let n := moveTiles (r.2.cell 0) r.1;
        ((r.2.tierServed 0 0).moveReads r.1 (r.2.moveBusy r.1 n) n 0).2.2)) = some true ∧
      ((u.issue 0 0 6 (fun o => o.opcode = 6)).map (fun r => moveOk (r.2.cell 0) r.1)) = some true ∧ (readRef held.a).space = 1 ∧
      (((u.cell 0).lookup 0 (readRef held.a).ident).bind (·.1.holder)) = some 1 ∧
      ((issued far 6).map (fun r => moveOk (r.2.cell 0) r.1)) = some true ∧ (readRef far.a).space = 2 ∧ (readRef far.a).cell = 1) ∧
    (issued (op 0xA 0) 7).isSome ∧ (∀ i ∈ elementReads (envOf (op 0xA 0) 7), ((coreOf (op 0xA 0) 7).slot i).ok) ∧
    ((issued { op 0xA 5 with flags := 0x30 } 7).map (fun r => elementMissing ((r.2.cell 0).core 0) r.1)) = some true ∧
    (issued (op 0xA 0) 7).map (fun r => elementMissing ((r.2.cell 0).core 0) r.1) = some false ∧
    ((issued (op 7 0) 7).map (fun r => ((r.2.tierServed 0 0).partReads r.1 (tilesFor r.1.op.fmtA (r.1.op.m * r.1.op.n)) 0).2)) =
      some ([Slot.zero], true) ∧ (∀ y ∈ [Slot.zero], y.ok) ∧
    ((issued (op 8 0) 7).map (fun r => r.2.homeCell 0 0)) = some none ∧ (issued { op 8 0 with param := 1 } 7).isSome ∧ up.homeCell 0 1 = some 0 :=
  ⟨by decide +kernel, by decide +kernel, zeroSlots_ok _ _ (by decide +kernel), by decide +kernel, by decide +kernel, by decide +kernel,
    by simp [zeroSlot_ok], by decide +kernel, by decide +kernel, by decide +kernel⟩

/-! ## Tiers, generation and learning -/

def withTile (l : List Tensor) (e : TileEnt) : State := (withDir l).onCell 0 (fun k => { k with tiers := { k.tiers with tiles := [(0, e)] } })

def inH : TileEnt := { TileEnt.absent with st := .H }

theorem witness_TheHostWritesAndReadsTilesThroughBar2 :
    (let u := withTile [tensorOf 1 0x11 0x10 0 1 false] inH;
      u.bar2Up 0x00 ∧ u.host.bar2.toNat * 2 ^ 37 + 4095 < 2 ^ 40 ∧ (u.cell 0).ownerOf 0 = some (tensorOf 1 0x11 0x10 0 1 false) ∧
      ((u.cell 0).ent 0).st = .H) ∧
    ((up.cell 0).ownerOf 0 = none) ∧ (2 ^ 37 - 1) + 1 ≤ 2 ^ 37 := by decide +kernel

theorem witness_TilesRiseAndMemoryErrorsAreCounted :
    (up.cellUp 0 ∧ (up.cell 0).step.running = false) ∧
    (let u := withTile [tensorOf 1 0x11 0x10 0 1 true] inH;
      (u.cell 0).ownerOf 0 = some (tensorOf 1 0x11 0x10 0 1 true) ∧ ((u.cell 0).ent 0).st ≠ .E ∧ (((u.cell 0).ent 0).broken .shadow).2 = false ∧
      (((u.cell 0).ent 0).broken .home).2 = true) ∧
    (((with0 (fun k => { k with power := { k.power with state := .c1 } })).cell 0).power.state = .c1) ∧
    ((up.at dayNs).cell 0).tiers.sweep + dayNs ≤ (up.at dayNs).time 0 := by decide +kernel

/-- A request of tenant 0 and queue 0: one prompt token, one token to generate, by the deadline given. -/
def want (deadline : Nat) : PendReq :=
  { src := src0, e := entry [(0, 1, 0x20), (8, 8, deadline), (0x10, 4, 1), (0x14, 4, 1), (0x18, 3, 4)], arr := 0 }

def setup0 : Setup :=
  { tenant := 0, pages := 1, kvPool := 1, pageList := 2, stepList := 3, sampling := 4, sets := 1, exper := 0, expRec := 0, stride := 0, rmax := 4 }

/-- A lead with a setup, a valid pointer and the given requests waiting. -/
def waiting (l : List PendReq) : State := (withDir genDir).onCell 0 (fun k => { k with
  gen := { k.gen with pend := l, setups := [(0, some setup0)] }, vers := [(0, { Versions.reset with valid := true })], power := { k.power with share := 400 } })

theorem witness_AnAdmissionRoundServesAQueue :
    (let u := waiting []; u.cellUp 0 ∧ u.supply.failing = false ∧ (u.cell 0).fig.active = some fig0 ∧ (u.cell 0).korif.mailGrant = 64 ∧
      fig0.queues = [{ tenant := 0, weights := [1] }] ∧ ([1].zipIdx).filter (fun x => x.1 ≠ 0) = [(1, 0)] ∧ (u.cell 0).unserved 0 = false ∧
      (u.cell 0).gen.pend = []) ∧
    (let p := want (10 ^ 9); let u := waiting [p]; let s0 := u.setDeficit 0 0 0 256;
      (u.cell 0).gen.pend = [p] ∧ p.e.rqTenant = 0 ∧ p.e.rqQueue = 0 ∧ (u.cell 0).gen.heldQ.contains (queueKey 0 0) = false ∧
      (u.cell 0).queueWeight 0 0 ≠ 0 ∧ (u.cell 0).deficit 0 0 + fig0.quantum * 1 = 256 ∧ tokenCost p.e = 256 ∧
      s0.admissionTest 0 p = .admitted 1000 ∧ (s0.cell 0).freeEntry 0 = some 0) ∧
    (let p := want 0; ((waiting [p]).setDeficit 0 0 0 256).admissionTest 0 p = .refused 7 1000) ∧
    (let p := want (10 ^ 9); let none0 : Figure := { fig0 with reqtabs := [] };
      ((waiting [p]).onCell 0 (fun k => { k with fig := { k.fig with active := some none0 } })).admissionTest 0 p = .held) := by decide +kernel

theorem witness_TheGenerationSealEndsTheStep :
    (let u := (inStep (op 1 0)).onCell 0 (fun k => { k with
        step := { k.step with stopped := true }, gen := { k.gen with table := [(0, { decoding with causes := [vADMIN] })] } });
      u.isLead 0 ∧ u.groupOf 0 = [0] ∧ u.cellUp 0 ∧ (u.cell 0).stepOver ∧ ((u.cell 0).entry 0).live ∧
      SMap.wf ReqEntry.free (u.cell 0).gen.table = true ∧ ((u.doubtFrames [0]).findFor 0 0 ((u.cell 0).entry 0)).causes ≠ []) ∧
    (up.isLead 1 = false ∧ (up.cellUp 0 && (up.cell 0).stepOver) = false) ∧
    (let u := with0 (fun k => { k with gen := { k.gen with table := [(16383, { ReqEntry.free with st := .ending })] } });
      ((u.cell 0).entry 16383).st = .ending ∧ u.leadCell 0 = some 0 ∧ u.recordWaits 0 16383 = false) := by decide +kernel

/-- Cell 0 learns for tenant 0 under a learning figure. -/
def learning (image : Bool) (f : Cell → Cell) : State := with0 (fun k => f { k with
  fig := { k.fig with active := some { fig0 with phase := 2 } }
  runs := [(0, { TenantRun.reset with image := if image then some { img0 with phase := 2 } else none, runCount := 1 })]
  vers := [(0, { Versions.reset with warmed := true })] })

theorem witness_ALearningStepOpens :
    (let u := learning true id;
      (u.coord 0).active = false ∧ (u.coord 0).recWait = false ∧ u.boot.safe = false ∧ u.supply.failing = false ∧ u.coordinated 0 ∧
      u.learnGroup 0 = [0] ∧ (u.cell 0).computes 0 ∧ u.learnReady 0 0) ∧
    (let u := learning true (fun k => { k with power := { k.power with share := 400 } }); u.gapOver 0 0) ∧
    (learning true (fun k => { k with power := { k.power with share := 40 }, learn := [(0, { LearnRun.reset with gapFrom := some 0 })] })).gapOver 0 0 = false := by
  decide +kernel

def phased (p : LPhase) (checked : Bool) (d : Option (Bool × Nat)) (named : List (Nat × Nat × BitVec 64 × Nat)) : State :=
  { learning true (fun k => { k with
      learn := [(0, { LearnRun.reset with phase := p, checked := checked, decision := d })]
      ud := { k.ud with mode := .run, named := named, binds := [bind1] } }) with
    coords := [(0, { Coord.reset with group := [0], active := true, mod := true, ratioAt := some 0 })] }

theorem witness_RatioPassAndReportsReachTheCoordinator :
    (let u := phased .running true none []; u.cellUp 0 ∧ ((u.cell 0).lrn 0).phase = .running ∧ ((u.cell 0).lrn 0).checked ∧ (u.cell 0).ud.mode = .run ∧
      u.sumsDone 0 0 ∧ (u.cell 0).workOver 0) ∧
    (let u := phased .ratioed true none []; (u.coord 0).active ∧ (u.coord 0).decision = none ∧ u.reportReady 0 0) ∧
    (let s := phased .ratioed true none [];
      let u : State := { s.onCoord 0 (fun x => { x with decision := some (false, vLINK) }) with boot := { s.boot with anchorLost := true } };
      u.reportReady 0 0 ∧ (u.coord 0).active ∧ (u.coord 0).decision = some (false, vLINK) ∧ u.cutOff 0) ∧
    (let u := ((phased .running true none []).onCell 0 (fun k => { k with step := { k.step with running := true } })).at 1000;
      0 ∈ (u.coord 0).group ∧ (u.coord 0).reports = [] ∧ u.pastLimit 0 0) := by
  decide +kernel

def reported (causes : List Nat) (checked : Bool) (answer : Option Bool) : State :=
  { phased .reported checked none [] with
    coords := [(0, { Coord.reset with
      group := [0], active := true, mod := true, ratioAt := some 0, answer := answer
      reports := [{ cell := 0, allDone := true, jobStep := 0, causes := causes, entries := [] }] })] }

theorem witness_TheSealIsDecidedOnceForTheWholeGroup :
    (let u := reported [vCHECK] false none; (u.coord 0).active ∧ (u.coord 0).decision = none ∧ (u.coord 0).mod ∧ (u.coord 0).allIn ∧
      u.foundCauses 0 = [vCHECK]) ∧
    (let u := reported [] false none; u.foundCauses 0 = [] ∧ u.stepChecked 0 = false) ∧
    (let u := reported [] true none; u.foundCauses 0 = [] ∧ u.stepChecked 0 ∧ (u.coord 0).answer = none) ∧
    (let u := phased .ratioed true none []; (u.coord 0).allIn = false ∧ (u.coord 0).missed = false ∧
      ((u.onCoord 0 (fun x => { x with mod := false })).coord 0).mod = false) ∧
    ((reported [] true (some true)).coord 0).answer = some true ∧ ((reported [] true (some false)).coord 0).answer = some false ∧
    (let u := (reported [] true none).at (100 * 1000000);
      u.anchorUp ∧ (u.coord 0).ratioAt = some 0 ∧ (u.coord 0).answer = none ∧ 0 + u.host.ansTime.get 100 0 * 1000000 ≤ u.now) := by decide +kernel

theorem witness_ACommitAppliesAndTheSealCompletes :
    (let u := phased .decided false (some (true, 0)) [(1, 0, 0, 0)]; u.cellUp 0 ∧ (u.cell 0).applyDue 0) ∧
    (let u := phased .applied false (some (true, 0)) []; (u.coord 0).active ∧ (u.cell 0).sealReady 0 ∧ ((u.cell 0).lrn 0).decision = some (true, 0) ∧
      ∀ m ∈ (u.coord 0).group, m ∈ (u.coord 0).complete ++ [0]) ∧
    (let u : State := { phased .applied false (some (true, 0)) [] with coords := [(0, { Coord.reset with group := [0, 1], active := true })] };
      ∃ m ∈ (u.coord 0).group, m ∉ (u.coord 0).complete ++ [0]) := by decide +kernel

def snapped (way : Nat) : Snap :=
  { src := src0, e := entry [(0, 1, 0x33), (3, 1, way)], taken := true, shards := [], step := 0, ver := 0, time := 0, bad := 0 }

theorem witness_ASnapshotIsPublishedOrDropped :
    (let u := with0 (fun k => k.setSnap 0 (some (snapped 0)));
      u.cellUp 0 ∧ (u.cell 0).ud.snaps.get none 0 = some (snapped 0) ∧ ((snapped 0).shards.map (fun h => h.2.2.2)).sum = 0 ∧
      (u.cell u.identityCell).keyOk ∧ u.hostUp) ∧
    (let u : State := { with0 (fun k => k.setSnap 0 (some (snapped 0))) with host := { up.host with pathLost := true } };
      (snapped 0).e.fld 3 1 = 0 ∧ u.hostUp = false) ∧ (snapped 1).e.fld 3 1 ≠ 0 := by decide +kernel

def pushing : Push := { src := src0, e := 0, single := true, ver := 0, start := 0, hold := false }

def serveDir : List Tensor := [tensorOf 1 0x08 0x10 0 1 true]

theorem witness_PushesAndPointerSwitches :
    (let u := with0 (fun k => k.onVer 0 (fun v => { v with push := some pushing }));
      ((u.cell 0).ver 0).push = some pushing ∧ u.isLead 0 ∧ pushing.start ≤ u.time 0 ∧ ((u.cell 0).ver 0).curPins = 0 ∧
      (∀ m ∈ u.groupOf 0, (u.cell m).step.running = false) ∧ (∀ h ∈ u.homesOf 0, newer ((u.cell h).ver 0).homeVer pushing.ver = false) ∧
      (∃ h ∈ u.homesOf 0, newer (((u.onCell 0 (fun k => k.onVer 0 (fun v => { v with homeVer := 1 }))).cell h).ver 0).homeVer pushing.ver)) ∧
    (let u := (withTile serveDir inH).onCell 0 (fun k => { k with runs := [(0, { TenantRun.reset with image := some img0 })] });
      u.cellUp 0 ∧ u.poisonedCopies 0 0 = [] ∧ reportedVer ((u.cell 0).ver 0) (u.completeVers 0 0) = some 0) ∧
    (let u := with0 (fun k => k.onVer 0 (fun v => { v with warmed := true }));
      u.pointerTo 0 0 = some 0 ∧ ((u.cell 0).ver 0).valid = false) ∧
    (let u := with0 (fun k => k.onVer 0 (fun v => { v with warmed := true, valid := true, waitPtr := true, lost := [0] }));
      u.pointerTo 0 0 = some 0 ∧ ((u.cell 0).ver 0).valid ∧ ((u.cell 0).ver 0).current = 0) ∧
    (let u := (withTile serveDir { inH with home := { Tile.zero with tag := { Tile.zero.tag with poison := true } } }).onCell 0 (fun k =>
        { k with runs := [(0, { TenantRun.reset with image := some img0 })] });
      u.cellUp 0 ∧ u.poisonedCopies 0 0 ≠ []) ∧
    up.pointerTo 0 0 = none := by decide +kernel

theorem witness_WarmingReadsInAndLaggingHomesCatchUp :
    (let u := with0 (fun k => { k with runs := [(0, { TenantRun.reset with image := some img0 })] });
      u.cellUp 0 ∧ ((u.cell 0).run 0).image.isSome ∧ ((u.cell 0).ver 0).warmed = false ∧ ((u.cell 0).ver 0).warming = false) ∧
    (((with0 (fun k => k.onVer 0 (fun v => { v with warming := true }))).cell 0).ver 0).warming ∧
    (let u := ((withTile serveDir { inH with st := .HC, lagging := true }).onCell 0 (fun k => k.onVer 0 (fun v => { v with warmed := true })));
      ((u.cell 0).ver 0).warmed ∧ Memory.wf (u.cell 0).tiers.tiles = true ∧ ((u.cell 0).ent 0).lagging ∧ ((u.cell 0).ent 0).st.inFast ∧
      (u.cell 0).laggards 0 = [0]) := by decide +kernel

/-! ## Ports, frames and the table -/

theorem witness_AFetchIsAcceptedOrFails :
    (let e := entry [(0, 1, 0x24), (2, 2, 1), (4, 3, 1), (7, 1, 1), (0x10, 3, 2)];
      let u := (withDir [tensorOf 1 0x08 0 0 1 false, tensorOf 2 0x11 4 1 1 true]).onCell 0 (fun k => { k with fetches := [{ src := src0, e := e }] });
      (u.cell 0).fetches = { src := src0, e := e } :: [] ∧ u.cellUp 0 ∧ e.fld 0 1 = 0x24 ∧
      (u.cell 0).fetchDest e = some (tensorOf 1 0x08 0 0 1 false) ∧ (u.cell 0).ownTensor (e.fld 1 1) (e.fld 0x10 3) = some (tensorOf 2 0x11 4 1 1 true)) ∧
    (let e := entry [(0, 1, 0x25), (3, 1, 1), (4, 3, 0x200001), (0x10, 3, 2)];
      let u := (withDir [shared1, tensorOf 2 0x11 4 1 1 true]).onCell 0 (fun k => { k with
        fetches := [{ src := src0, e := e }], tiers := { k.tiers with
          tiles := [(0, { TileEnt.absent with st := .F, fast := { Tile.zero with tag := { Tile.zero.tag with poison := true } } })] } });
      (u.cell 0).fetches = { src := src0, e := e } :: [] ∧ u.cellUp 0 ∧ e.fld 0 1 = 0x25 ∧ (u.cell 0).heldShared (e.fld 4 3) = some shared1 ∧
      (u.cell 0).ownTensor (e.fld 2 1) (e.fld 0x10 3) = some (tensorOf 2 0x11 4 1 1 true) ∧ (u.cell 0).poisonedOf shared1 ≠ []) := by decide +kernel

/-- Cell 0 with discovery done and its ports 0 and 4 up, the second toward a module of the table 5. -/
def lan : State :=
  { (up.onCell 0 (fun k => (k.onPort 0 (fun q => { q with up := true })).onPort 4 (fun q => { q with up := true, rate := 3, peer := some (5 * 2 ^ 64) }))) with
    boot := { up.boot with discovery := true } }

/-- A frame of cell 1 for cell 0. -/
def fr (o : Out) : Frame := o.frame 0 1 0 0

def voidFr : Frame := fr { ftype := 0xA, dseat := 0, dcell := 0, origin := 0x41, plen := 16, data := 7 }

def accepted (s : State) (p : Nat) (f : Frame) : Bool := (s.accept 0 p f).2

theorem witness_AFrameThatAPortRefusesHasNoEffectOfItsOwn :
    (((lan.cell 0).port 5).usable = false) ∧
    (((lan.cell 0).port 0).usable ∧ ({ hdr := 0, data := 0 } : Frame).malformed) ∧
    (let u := lan.onCell 0 (fun k => k.onPort 0 (fun q => { q with room := [0] }));
      ((u.cell 0).port 0).usable ∧ voidFr.malformed = false ∧ voidFr.isCredit1 = false ∧ ((u.cell 0).port 0).room.getD voidFr.lane 0 < voidFr.need) ∧
    (let u : State := { lan with seating := { Seating.reset with departed := [0] } };
      ((u.cell 0).port 0).usable ∧ voidFr.malformed = false ∧ voidFr.linkLevel = false ∧ voidFr.need ≤ ((u.cell 0).port 0).room.getD voidFr.lane 0 ∧
      u.boot.safe = false ∧ u.boot.recovery = false ∧ u.linkDoubt 0 = false ∧ u.boot.discovery ∧ u.linkHere 0 0 voidFr = false ∧
      u.seating.departed.contains voidFr.sseat ∧ voidFr.lane = 0 ∧ (u.cell 0).ovfFull = false ∧
      ((u.onCell 0 (fun k => { k with korif := { k.korif with syncOvf := List.replicate 1024 voidFr } })).cell 0).ovfFull) ∧
    (((lan.cell 0).port 4).usable ∧ voidFr.need ≤ ((lan.cell 0).port 4).room.getD voidFr.lane 0 ∧ lan.idlePort 0 4 ∧ voidFr.idleOk = false) ∧
    accepted lan 0 { voidFr with data := 8 } = false := by decide +kernel

theorem witness_PortsTrainRetrainAndAreQuarantined :
    (up.fabricUp ∧ ∀ p ∈ [0, 4], ((up.cell 0).port p).up = false ∧ ((up.cell 0).port p).quarUntil = none ∧
      ∀ e ∈ portEnds 0 p, (up.cell e.1).korif.dead = false) ∧
    (min ((up.cell 0).port 4).tryRate 0 = 0 ∧ min ((up.cell 0).port 4).tryRate 3 = 3 ∧ ((up.cell 0).port 4).fails + 1 < 3) ∧
    (let u := up.onCell 0 (fun k => k.onPort 4 (fun q => { q with fails := 2 })); 3 ≤ ((u.cell 0).port 4).fails + 1) ∧
    (((lan.cell 0).port 4).up ∧ (recentTimes lan.now 1000000000 ((lan.cell 0).port 4).retrains).length + 1 < 5) ∧
    (let u := lan.onCell 0 (fun k => k.onPort 4 (fun q => { q with retrains := [0, 0, 0, 0] }));
      (recentTimes u.now 1000000000 ((u.cell 0).port 4).retrains).length + 1 = 5 ∧
      ((u.cell 0).port 4).quarUntil = none ∧ ((u.cell 0).port 4).qend + 3600000000000 ≤ (u.at 3600000000000).now) ∧
    (let u := lan.onCell 0 (fun k => k.onPort 4 (fun q => { q with holdUntil := some (2 ^ 64 - 1) }));
      ((u.cell 0).port 4).up ∧ ((u.cell 0).port 4).holdUntil = some (2 ^ 64 - 1)) ∧
    (let u := lan.onCell 0 (fun k => k.onPort 4 (fun q => { q with quarUntil := some 0 })); ((u.cell 0).port 4).quarUntil = some 0 ∧ 0 ≤ u.now) := by
  decide +kernel

def holdFr (reason time : Nat) : Frame :=
  fr { ftype := 6, dseat := 0, dcell := 0, origin := 0x41, plen := 16, data := reason + time * 2 ^ 32 }

def creditFr (sub kind plen rest : Nat) : Frame :=
  fr { ftype := 8, dseat := 0, dcell := 0, origin := 0x41, plen := plen, data := sub + kind * 2 ^ 8 + rest }

theorem witness_HoldsCreditsAndVoidsAtAPort :
    (accepted lan 0 (holdFr 0 5) ∧ (holdFr 0 5).ftype = 6 ∧ (holdFr 0 5).p 0 1 = 0 ∧ accepted lan 0 (holdFr 4 5) ∧ (holdFr 4 5).p 0 1 = 4 ∧
      (holdFr 4 5).plen = 16 ∧ (holdFr 4 5).p 4 4 = 5 ∧ accepted lan 0 (holdFr 1 0xFFFFFFFF) ∧ (holdFr 1 0xFFFFFFFF).p 4 4 = 0xFFFFFFFF) ∧
    (accepted lan 0 (creditFr 1 0 32 (2 ^ 128)) ∧ (creditFr 1 0 32 (2 ^ 128)).isCredit1 ∧ (creditFr 1 0 32 (2 ^ 128)).p 16 2 = 1 ∧
      accepted lan 0 (creditFr 1 0 32 (257 * 2 ^ 128)) ∧ (creditFr 1 0 32 (257 * 2 ^ 128)).p 16 2 = 257 ∧ ((lan.cell 0).port 0).queue = []) ∧
    (accepted lan 0 (creditFr 2 1 16 0) ∧ (creditFr 2 1 16 0).ftype = 8 ∧ (creditFr 2 1 16 0).p 0 1 = 2 ∧ (creditFr 2 1 16 0).p 1 1 = 1) ∧
    (let u := lan.onCell 0 (fun k => { k with step := { k.step with running := true } });
      accepted u 0 voidFr ∧ voidFr.ftype = 0xA ∧ voidFr.p 4 4 = 0 ∧ ((u.accept 0 0 voidFr).1.cell 0).step.running ∧ accepted lan 0 voidFr) ∧
    (let f (n : Nat) : Frame := fr { ftype := 0xA, dseat := 0, dcell := 0, origin := 0x41, plen := 16, data := 7 + n * 2 ^ 32 };
      accepted lan 0 (f 1) ∧ (f 1).p 4 4 = 1 ∧ accepted lan 0 (f (2 ^ 32 - 1)) ∧ (f (2 ^ 32 - 1)).p 4 4 = 2 ^ 32 - 1) ∧
    (let u := lan.onCell 0 (fun k => k.onPort 0 (fun q => { q with holdUntil := some 0, owed := [1, 0, 0, 0, 0, 0, 0, 0] }));
      ((u.cell 0).port 0).holdUntil = some 0 ∧ 0 ≤ u.now ∧ ((u.cell 0).port 0).usable ∧ ((u.cell 0).port 0).owed.all (· = 0) = false) := by
  decide +kernel

theorem slot_ok_of_zero (x : Slot) (h : x.tile.payload = 0) (c : x.tile.tag.check = crcZero) : x.ok = true := by
  unfold Slot.ok
  rw [h, c, test_crc_of_a_zero_tile]
  simp

/-- A TILE frame of kind `kind` with a zero payload under the check value given. -/
def tileFr (kind check : Nat) : Frame :=
  fr { ftype := 1, lane := [1, 5, 3, 6, 7].getD kind 0, dseat := 0, dcell := 0, tenant := 0, origin := 0x41, tensor := 1, tkind := kind, plen := 4112,
       data := check + 1 * 2 ^ 32 + 0x11 * 2 ^ 56 }

def slotOf (f : Frame) : Slot := (frameSlot f).getD Slot.zero

theorem tileFr_zero (kind : Nat) (h : (slotOf (tileFr kind crcZero.toNat)).tile.payload = 0 ∧
    (slotOf (tileFr kind crcZero.toNat)).tile.tag.check = crcZero) : (slotOf (tileFr kind crcZero.toNat)).ok = true :=
  slot_ok_of_zero _ h.1 h.2

theorem tileFr_bad : (slotOf (tileFr 0 0)).ok = false := by
  have h : (slotOf (tileFr 0 0)).tile.payload = 0 := by decide +kernel
  have c : (slotOf (tileFr 0 0)).tile.tag.check ≠ crcZero := by decide +kernel
  unfold Slot.ok
  rw [h, test_crc_of_a_zero_tile]
  simpa using c

/-- `lan` with a tensor at cell 0 whose one tile is in H. -/
def lanTile (e : TileEnt) (ready : Bool) : State := lan.onCell 0 (fun k => { k with
  tiers := { k.tiers with dir := [tensorOf 1 0x11 0x10 0 1 ready], tiles := [(0, e)] } })

def asking (n : Nat) : Frame :=
  fr { ftype := 1, lane := 6, dseat := 0, dcell := 0, tenant := 0, origin := 0x41, tensor := 1, tkind := 3, aux := n, plen := 0, data := 0 }

def syncFr : Frame := fr { ftype := 2, dseat := 0, dcell := 0, tenant := 0, origin := 0x41, sgroup := 0, sctr := 0, plen := 4, data := 1 }

theorem witness_TilesRequestsAndSyncFramesAreTakenIn :
    ((frameSlot (tileFr 0 crcZero.toNat)).isSome ∧ (slotOf (tileFr 0 crcZero.toNat)).ok ∧ (slotOf (tileFr 1 crcZero.toNat)).ok ∧
      (slotOf (tileFr 2 crcZero.toNat)).ok ∧ (slotOf (tileFr 4 crcZero.toNat)).ok ∧ (slotOf (tileFr 0 0)).ok = false) ∧
    (let u := lanTile inH true; let f := tileFr 0 crcZero.toNat; let s1 := (u.accept 0 0 f).1;
      accepted u 0 f ∧ u.cellUp 0 ∧ f.ftype = 1 ∧ f.tkind = 0 ∧ f.lane = 1 ∧ (s1.tierWrite 0 f.tenant f.tensor f.tseq (slotOf f) []).2 = true ∧
      ((lan.accept 0 0 f).1.tierWrite 0 f.tenant f.tensor f.tseq (slotOf f) []).2 = false) ∧
    (let u := lan.onCell 0 (fun k => { k with fig := { k.fig with slots := [(0, .loading [] none 0x41)] } }); let f := tileFr 1 crcZero.toNat;
      accepted u 0 f ∧ (((u.accept 0 0 f).1.cell 0).fig.slots.get .empty (bits f.tseq 12 2)) = .loading [] none 0x41 ∧ f.origin = 0x41) ∧
    (accepted lan 0 (tileFr 2 crcZero.toNat) ∧ accepted lan 0 (tileFr 0 0) ∧ (tileFr 0 0).scell = 1) ∧
    (let on (n : Nat) : Frame := fr { ftype := 1, lane := n, dseat := 0, dcell := 0, tenant := 0, origin := 0x41, tensor := 1, tkind := 0, plen := 4112,
                                      data := crcZero.toNat + 1 * 2 ^ 32 + 0x11 * 2 ^ 56 };
      let u := lanTile inH true; let s1 := (u.accept 0 0 (on 4)).1;
      accepted u 0 (on 4) ∧ (on 4).lane = 4 ∧ slotOf (on 4) = slotOf (tileFr 0 crcZero.toNat) ∧ (s1.broadcastIn 0 0 1 0 (slotOf (on 4))).2 = true ∧
      (lan.broadcastIn 0 0 1 0 (slotOf (on 4))).2 = false ∧ accepted u 0 (on 5) ∧
      (((u.accept 0 0 (on 5)).1.cell 0).lookup 0 1).any (fun y => !y.1.ready) = false) ∧
    (let u := lan.onCell 0 (fun k => { k with cores := [(0, { Core.reset with engines := [(6, some { inEngine with waits := [(0, 3)] })] })] });
      let f := tileFr 4 crcZero.toNat; accepted u 0 f ∧ ((u.accept 0 0 f).1.cell 0).readWait f.aux = some (0, { inEngine with waits := [(0, 3)] }, 3) ∧
      accepted lan 0 f ∧ ((lan.accept 0 0 f).1.cell 0).readWait f.aux = none) ∧
    (let u := lanTile inH true; accepted u 0 (asking 0) ∧ (asking 0).tkind = 3 ∧
      ((u.accept 0 0 (asking 0)).1.tierRead 0 0 1 0 false []).isSome ∧ ((lan.accept 0 0 (asking 0)).1.tierRead 0 0 1 0 false []).isNone) ∧
    (let u := lan.onCell 0 (fun k => { k with cores := [(0, { Core.reset with pend := List.replicate 512 (msg0 0) })] });
      accepted lan 0 syncFr ∧ syncFr.ftype = 2 ∧ syncFr.plen = 4 ∧ syncFr.p 0 2 = 1 ∧ syncFr.p 2 2 = 0 ∧
      ((lan.accept 0 0 syncFr).1.syncArrive { frameSync syncFr with cell := 0 }).isSome ∧ accepted u 0 syncFr ∧
      ((u.accept 0 0 syncFr).1.syncArrive { frameSync syncFr with cell := 0 }).isNone) ∧
    (let u := lan.onCell 0 (fun k => { k with korif := { k.korif with syncOvf := [syncFr] } });
      (u.cell 0).korif.syncOvf = [syncFr] ∧ (u.syncArrive { frameSync syncFr with cell := 0 }).isSome) :=
  ⟨⟨by decide +kernel, tileFr_zero 0 (by decide +kernel), tileFr_zero 1 (by decide +kernel), tileFr_zero 2 (by decide +kernel),
    tileFr_zero 4 (by decide +kernel), tileFr_bad⟩, by decide +kernel, by decide +kernel, by decide +kernel, by decide +kernel, by decide +kernel,
    by decide +kernel, by decide +kernel, by decide +kernel⟩

/-- A MAIL frame of one unit of class `cls`. -/
def mailFr (cls : Nat) : Frame := fr { ftype := 3, dseat := 0, dcell := 0, origin := 0x41, aux := cls, plen := 64, data := 1 }

/-- This module as seat 1 of the table 5. -/
def seat1 (s : State) : State := { s with seating := { Seating.reset with seated := true, seat := 1, tableId := 5 } }

/-- A frame of the Manager at seat 0. -/
def frM (type plen data : Nat) : Frame :=
  Out.frame { ftype := type, dseat := 1, dcell := 0, origin := 0x70, plen := plen, data := data } 0 0 0 0

def managed (p : LPhase) : State :=
  let s := phased p false none []
  seat1 { (s.onCell 0 (fun k => k.onPort 4 (fun q => { q with up := true, rate := 3, peer := some (5 * 2 ^ 64) }))) with
    boot := { s.boot with discovery := true, anchorLost := true }
    coords := [(0, { Coord.reset with group := [0], active := true })] }

theorem witness_MailRoutesAndForwarding :
    (accepted lan 0 (mailFr 0) ∧ (mailFr 0).ftype = 3 ∧ lan.cellUp 0 ∧ mailClasses (mailFr 0) = none ∧
      ([1, 3, 5] : List Nat).all (fun n => accepted lan 0 (mailFr n) && (mailClasses (mailFr n) == some [n]))) ∧
    (let u := managed .reported; let f := frM 9 64 2; let s1 := (u.accept 0 4 f).1;
      accepted u 4 f ∧ f.ftype = 9 ∧ u.fabricUp ∧ u.cellUp 0 ∧ s1.fromManager f ∧ f.p 0 1 = 2 ∧ f.p 1 1 = 0 ∧ (s1.coord 0).mod = false ∧ (s1.coord 0).active ∧
      f.p 4 4 = (s1.coord 0).step ∧
      ((s1.cell 0).lrn 0).decision = none ∧ ((s1.cell 0).lrn 0).phase = .reported) ∧
    (let f := Out.frame { ftype := 0xA, dseat := 1, dcell := 1, origin := 0x41, plen := 16, data := 7 } 2 1 0 0;
      let u := seat1 lan; let q := (u.cell 0).port 4;
      q.usable ∧ f.malformed = false ∧ f.linkLevel = false ∧ u.idlePort 0 4 = false ∧ (u.cell 0).ovfFull = false ∧ f.need ≤ q.room.getD f.lane 0 ∧
      u.boot.safe = false ∧ u.boot.recovery = false ∧ u.linkDoubt 0 = false ∧ u.boot.discovery ∧ u.seating.departed.contains f.sseat = false ∧
      u.prospective f = false ∧ f.dcell ≠ 0 ∧ u.fabricUp ∧ (u.useCredits 0 4 f).route 0 f.dseat f.dcell = some 0) ∧
    (let e := entry [(0, 2, 8190), (2, 1, 2), (4, 1, 0xF4), (5, 1, 0xFB)]; (seat1 lan).fabricUp ∧ (seat1 lan).seating.seated ∧ 1 ≤ e.fld 2 1 ∧
      e.fld 2 1 ≤ 60 ∧ e.fld 3 1 = 0 ∧ e.fld 0 2 + e.fld 2 1 ≤ 8192 ∧ e.zeroBytes (4 + e.fld 2 1) 64 ∧
      (∀ j, j < e.fld 2 1 → ∀ n ∈ [e.fld (4 + j) 1 % 16, e.fld (4 + j) 1 / 16], n < 12 ∨ n = 15)) ∧
    (let u : State := { seat1 lan with seating := { (seat1 lan).seating with departed := [3, 1023] } };
      (match Sys2Proof.Machine.execRouteUnit 0 0 0x70 (entry [(0, 2, 8184), (2, 1, 1), (4, 1, 0x44)]) u with
        | .next s' => s'.seating.departed
        | _ => []) = [3]) ∧
    (let u := (with0 (fun k => { k with binds := [(0, { valid := true, locked := true, idA := 0x41, idB := 0x40 })] })).onDir 0 true
        (fun d => { d with queue := List.replicate 16 0, pend := true });
      receiverCell 0 (u.chanTo 0 true) = some 0 ∧ (u.binding 0).valid ∧ u.cellUp 0 ∧ ((u.chan 0).dir true).pend ∧
      16 ≤ ((u.chan 0).dir true).queue.length ∧ ((u.chan 0).dir (!true)).waits = [] ∧ u.anchorUp ∧ u.chanTo 0 true = 0x40 ∧
      (u.cell 0).power.state = .c0) := by decide +kernel

def joinFr (type : Nat) (l : List (Nat × Nat)) : Frame :=
  frM 5 64 (type + (l.map (fun p => p.2 * 256 ^ p.1)).sum)

def toOrphan (f : Frame) : Frame := Frame.withCheck { f with hdr := BitVec.ofNat 256 (f.hdr.toNat % 2 ^ 224 - 2 ^ 32) }

theorem witness_PresenceJoiningAndLeavingATable :
    (let f := fr { ftype := 4, dseat := 0, dcell := 0, origin := 0x41, plen := 32, data := 3 + 2 ^ 32 };
      let second := fr { ftype := 4, dseat := 0, dcell := 0, origin := 0x41, plen := 32, data := 3 + 2 ^ 16 };
      let early : State := { lan with boot := up.boot };
      accepted lan 4 f ∧ f.ftype = 4 ∧ f.firstHand ∧ accepted lan 4 second ∧ second.firstHand = false ∧ lan.boot.discovery ∧ accepted early 4 f ∧ early.boot.discovery = false ∧
      ((early.accept 0 4 f).1.cell 0 |>.port 4).buffered = []) ∧
    (let f := fr { ftype := 4, dseat := 0, dcell := 0, origin := 0x41, plen := 32, data := 3 };
      let other := fr { ftype := 4, dseat := 0, dcell := 0, origin := 0x41, plen := 32, data := 3 + 2 ^ 128 };
      let full := ({ lan with boot := up.boot } : State).onCell 0 (fun k => k.onPort 4 (fun q => { q with buffered := List.replicate 64 other }));
      accepted full 4 f ∧ presenceKey other ≠ presenceKey f ∧ (((full.accept 0 4 f).1.cell 0).port 4).buffered.length = 64) ∧
    (let f := toOrphan (joinFr 2 [(2, 1), (0x10, 5), (0x18, 2)]); let s1 := (lan.accept 0 4 f).1;
      accepted lan 4 f ∧ f.ftype = 5 ∧ f.p 0 1 = 2 ∧ (s1.joinRelay 0 4 f).isNone ∧ s1.prospective f ∧ s1.seating.orphaned = false ∧ f.p 2 2 = 1 ∧
      f.p 0x10 8 = 5) ∧
    (let f := joinFr 2 [(2, 1), (0x10, 5)]; let w := seat1 lan;
      let orphan (id : BitVec 64) : State := { w with seating := { w.seating with orphaned := true, tableId := id } };
      ([5, 6] : List (BitVec 64)).all (fun n => accepted (orphan n) 4 f && (((orphan n).accept 0 4 f).1.joinRelay 0 4 f).isNone &&
        ((orphan n).accept 0 4 f).1.prospective f && ((orphan n).accept 0 4 f).1.seating.orphaned) = true ∧ f.p 0x10 8 = 5) ∧
    (let f := joinFr 2 [(2, 1), (0x10, 5)]; let s1 := ((seat1 lan).accept 0 4 f).1;
      accepted (seat1 lan) 4 f ∧ (s1.joinRelay 0 4 f).isNone ∧ s1.seating.seated ∧ s1.seating.orphaned = false) ∧
    (let f := joinFr 4 []; accepted (seat1 lan) 4 f ∧ f.p 0 1 = 4 ∧ (((seat1 lan).accept 0 4 f).1.joinRelay 0 4 f).isNone) ∧
    (let f := joinFr 5 [(2, 7)]; let s1 := ((seat1 lan).accept 0 4 f).1;
      accepted (seat1 lan) 4 f ∧ f.p 0 1 = 5 ∧ s1.fromManager f ∧ f.p 2 2 = 7 ∧ s1.seating.seat = 1) ∧
    (let f := joinFr 6 [(0x10, 2)]; let s1 := ((seat1 lan).accept 0 4 f).1;
      let u := (seat1 lan).onCell 0 (fun k => { k with step := { k.step with running := true } });
      accepted (seat1 lan) 4 f ∧ f.p 0 1 = 6 ∧ s1.fromManager f ∧ (s1.joinRelay 0 4 f).isNone ∧ f.p 0x10 1 = 2 ∧
      (∀ m ∈ allCells, (s1.cell m).step.running = false) ∧ accepted u 4 f ∧ ((u.accept 0 4 f).1.cell 0).step.running) ∧
    (lan.boot.discovery ∧ ((lan.cell 0).port 4).usable ∧ lan.idlePort 0 4 ∧ lan.boot.safe = false ∧ ((lan.cell 0).port 4).beaconAt ≤ lan.now) ∧
    (up.boot.running ∧ up.boot.discovery = false) ∧
    (let u := (seat1 lan).at 30000000; u.seating.seated ∧ u.seating.orphaned = false ∧ u.seating.seat ≠ 0 ∧ u.seating.lastBeat + 30000000 ≤ u.now ∧
      (let v := u.onCoord 0 (fun x => { x with active := true }); (v.coord 0).active ∧ (v.coord 0).mod = false ∧ (v.coord 0).decision = none)) := by
  decide +kernel

/-- A link TIME frame of subtype `sub` of the parent. -/
def timeFr (sub time : Nat) : Frame := fr { ftype := 7, dseat := 1, dcell := 0, origin := 0x40, plen := 64, data := sub + time * 2 ^ 64 }

theorem witness_TableTimeIsKept :
    (accepted (seat1 lan) 4 (frM 7 64 4) ∧ (frM 7 64 4).ftype = 7 ∧ (frM 7 64 4).p 0 1 = 4 ∧ ((seat1 lan).accept 0 4 (frM 7 64 4)).1.seating.seated) ∧
    (let u := (seat1 lan).onCell 0 (fun k => { k with korif := { k.korif with routes := [(0, 0xF4)] } });
      ([1, 2, 3] : List Nat).all (fun n => accepted u 4 (timeFr n 5) && ((timeFr n 5).p 0 1 == n) && ((timeFr n 5).ftype == 7)) ∧
      (u.accept 0 4 (timeFr 1 5)).1.parentPort 0 = some 4 ∧ (lan.accept 0 4 (timeFr 1 5)).1.parentPort 0 ≠ some 4) ∧
    (let u := (seat1 lan).onCell 0 (fun k => k.onPort 4 (fun q => { q with reqAt := some 0 }));
      (((u.accept 0 4 (timeFr 3 5)).1.cell 0).port 4).reqAt = some 0) ∧
    ((seat1 lan).seating.seated ∧ (seat1 lan).fabricUp ∧ (seat1 lan).boot.safe = false ∧ (seat1 lan).tablePort 0 0) := by decide +kernel

/-! ## Host, supply and lifecycle -/

theorem witness_AnchorLossWiresFencesAndTests :
    (up.boot.anchorLost = false ∧ up.boot.islands ∧ up.badWires.contains (0, 1) = false ∧ up.cellUp 0 ∧ (up.cell 0).step.running = false ∧
      (up.cell 0).power.state = .c0) ∧
    (let u := with0 (fun k => { k with cores := [(3, { Core.reset with fenceDue := true, testReq := true })] });
      ((u.cell 0).core 3).fenceDue ∧ ((u.cell 0).core 3).returning = false ∧ (u.cell 0).drawCores = [3] ∧
      (u.cell 0).cores.any (fun p => p.2.testing) = false) ∧
    (((with0 (fun k => { k with cores := [(3, { Core.reset with testing := true })] })).cell 0).underTest 3) ∧
    (((with0 (fun k => { k with korif := { k.korif with doubt := true }, ud := { k.ud with testing := true } })).cell 0).underTest 128) ∧
    (((with0 (fun k => { k with ud := { k.ud with testing := true } })).cell 0).underTest 129) := by decide +kernel

/-- The PF with ring 0 of 16 entries and a completion ring of 64 slots enabled. -/
def ringed : State := up.onFn 0 (fun h => { h with
  cqEn := true, cqSize := 64, sq := [(0, { SubRing.reset with en := true, size := 16, tail := 1 })] })

theorem witness_TheHostPathsGoAndReturn :
    (up.supply.perstN ∧ up.inReset = false ∧ up.host.linkUp ∧ up.anchorUp ∧ up.host.cfgLive ∧ ringed.ringsOn ∧ up.barUp) ∧
    ({ up with supply := { up.supply with perstN := false } } : State).supply.perstN = false ∧
    (let u : State := { up with host := { up.host with vfs := 63 } }; u.barUp ∧ u.fnOn 63 ∧ u.fnOn 1) ∧
    ((up.onFn 1 (fun h => { h with flr := true })).fn 1).flr := by decide +kernel

def slot32 : BitVec 256 := 5

theorem witness_RingsAreWrittenFetchedAndAnswered :
    (let r := (ringed.fn 0).ring 0; ringed.barUp ∧ ringed.fnOn 0 ∧ (ringed.fn 0).flr = false ∧ r.size = 16 ∧ r.en ∧ ((up.fn 0).ring 0).en = false ∧
      (ringed.fn 0).cqEn ∧ (up.fn 0).cqEn = false) ∧
    (let w : BitVec 32 := 0x80000040; w.getLsbD 31 ∧ ringSizeOk 16 (bits w.toNat 0 17) ∧ ringSizeOk 64 (bits w.toNat 0 17)) ∧
    keyWin ringed.host.fetchKey (([(0, 0)] : List (Fin 64 × Fin 8)).filter (fun r => ringed.ringReady r.1 r.2) |>.map
      (fun r => 8 * r.1.val + r.2.val)) = some 0 ∧
    (let r : QRec := { slots := [slot32], status := true, entry := none, learn := none }; let u := ringed.onFn 0 (fun h => { h with recs := [r] });
      u.hostUp ∧ u.fnOn 0 ∧ (u.fn 0).cqEn ∧ 0 < (u.fn 0).cqSize ∧ (u.fn 0).flr = false ∧ (u.fn 0).recs = [r] ∧ r.slots = [slot32] ∧
      r.learn = none ∧ 1 ≤ (u.fn 0).cqFree) ∧
    ((ringed.onFn 0 (fun h => { h with cqHead := 1 })).fn 0).cqFree = 0 := by decide +kernel

/-- Channel 0 bound to 0x60 and 0x41, with words toward 0x60. -/
def boxed (to60 : List (BitVec 32)) (p : Bool) : State :=
  (with0 (fun k => { k with binds := [(0, { valid := true, locked := true, idA := 0x60, idB := 0x41 })] })).onDir 0 false
    (fun d => { d with queue := to60, pend := p })

theorem witness_MailboxChannelsCarryWords :
    (up.mayWindow 0x41 ∧ up.chanSide 0 0x41 = none) ∧
    ((boxed [1] true).mayWindow 0x60 ∧ (boxed [1] true).chanSide 0 0x60 = some true ∧ (((boxed [1] true).chan 0).dir true).queue.length < 16 ∧
      (((boxed [1] true).chan 0).dir false).queue = 1 :: [] ∧ (((boxed [1] true).chan 0).dir false).waits = [] ∧ (boxed [1] true).vendorUp 0x60 ∧
      (boxed [1] true).chanTo 0 true = 0x41) ∧
    ((boxed (List.replicate 16 1) true).chanSide 0 0x41 = some false ∧
      16 ≤ (((boxed (List.replicate 16 1) true).chan 0).dir false).queue.length ∧ (((boxed [1] true).chan 0).dir false).pend ∧
      (((boxed [1] true).chan 0).dir true).pend = false ∧ (((boxed [] false).chan 0).dir false).queue = []) ∧
    (boundTo70.chanSide 0 0 = some false ∧ boundTo70.chanTo 0 false = 0x70) := by decide +kernel

theorem witness_TheSupplyFailsAndReturns :
    (up.boot.islands ∧ up.supply.pwrFailN ≠ false ∧ State.reset.boot.islands = false ∧ State.reset.supply.pwrFailN ≠ false) ∧
    (let u : State := { (up.at 10000000) with supply := { up.supply with failing := true } };
      u.supply.failing ∧ u.supply.pwrFailN ∧ u.supply.pwrGood ∧ u.supply.lastEdge + 10000000 ≤ u.now ∧ vinOk u.supply.vin) ∧
    (let u : State := { (up.at 1000000) with supply := { up.supply with pwrGood := false } };
      u.supply.pwrGood = false ∧ u.boot.islands ∧ u.supply.lastEdge + 1000000 ≤ u.now) ∧
    (up.supply.uvlo = false ∧ ({ up with supply := { up.supply with uvlo := true } } : State).supply.uvlo) := by decide +kernel

theorem witness_HaltsTemperaturesClocksAndWakes :
    (up.boot.running ∧ up.boot.islands ∧ up.boot.safe = false ∧ State.reset.boot.running = false ∧ up.cellUp 0 ∧ up.supply.aoclk) ∧
    (([20, 110, 30] : List Nat).max? = some 110 ∧ ([20, 99] : List Nat).max? = some 99) ∧
    (let u := with0 (fun k => { k with power := { k.power with temp := 98 } }); 98 ≤ (u.cell 0).power.temp) ∧
    (let u := with0 (fun k => { k with power := { k.power with temp := 97 } }); 95 ≤ (u.cell 0).power.temp ∧ (u.cell 0).power.temp < 98) ∧
    (let u := with0 (fun k => { k with power := { k.power with ceiling := some 300 } });
      (u.cell 0).power.temp < 95 ∧ (u.cell 0).power.ceiling = some 300 ∧ (up.cell 0).power.ceiling = none) ∧
    (let u : State := { State.reset with supply := { Supply.reset with pwrGood := true } };
      u.supply.pwrGood ∧ u.supply.uvlo = false ∧ u.boot.islands = false) ∧
    (let u := with0 (fun k => { k with power := { k.power with state := .c1, waking := true } });
      u.cellUp 0 ∧ (u.cell 0).power.state ≠ .c0 ∧ (u.cell 0).power.waking ∧ (u.cell 0).init ∧ (up.cell 0).power.state = .c0) := by decide +kernel

theorem witness_TheModuleStartsUp :
    (State.reset.supply.pwrGood = false ∧ State.reset.supply.uvlo = false ∧ State.reset.boot.islands = false) ∧
    (let u : State := { State.reset with boot := { Boot.reset with islands := true } };
      u.boot.islands ∧ u.boot.running = false ∧ u.boot.recovery = false ∧ u.supply.haltN ∧ u.supply.refclk ∧ u.flash.active = 0 ∧
      u.supply.perstN ∧ u.boot.anchorLost = false) ∧
    (let u := with0 (fun k => { k with init := false });
      u.boot.running ∧ u.boot.safe = false ∧ (u.cell 0).init = false ∧ (u.cell 0).absent = false ∧ (u.cell 0).restart = none ∧
      u.flash.starts.get none 0 = none ∧ (u.at 2000000000).boot.base + 2000000000 ≤ (u.at 2000000000).now) ∧
    (let u := with0 (fun k => { k with init := false, restart := some true }); (u.cell 0).restart.isSome) ∧
    (let u : State := { with0 (fun k => { k with init := false }) with flash := { Flash.reset with starts := [(0, some (64, []))] } };
      u.flash.starts.get none 0 = some (64, []) ∧ ((u.onCell 0 (fun k => { k with init := true })).verifyBlocks 0 64 []).2.isNone ∧
      u.noFlip = false) := by decide +kernel

theorem witness_ResetsAndRestarts :
    (up.ctlUp 0x00 ∧ up.ctlUp 0x60 ∧ up.cellUp 0 ∧ (up.cell 0).restart = none) ∧
    (let u := with0 (fun k => { k with restart := some true });
      u.cellUp 0 ∧ (u.cell 0).restart = some true ∧ (∀ m ∈ 0 :: u.groupOf 0, (u.cell m).step.running = false) ∧ (u.cell 0).ud.inPass = false ∧
      (∀ l ∈ (u.cell 0).learn, l.2.phase = .idle) ∧ u.groupBusy (0 :: u.groupOf 0) = false) ∧
    (let u := with0 (fun k => { k with restart := some false }); (u.adminVoid 0).groupBusy (0 :: u.groupOf 0) = false) := by decide +kernel

/-! ## Stores, firmware, security and registers -/

def holding (q : List Store) (b : Option Store) : State :=
  { up with flash := { Flash.reset with queue := q, busy := b, holdUp := 2 ^ 20 } }

theorem witness_StoresFloorsEnrolmentsAndStartFigures :
    (let u := holding [.figFloor 5] none; u.flash.queue = .figFloor 5 :: [] ∧ u.mayStore ∧ u.flash.deferred = false ∧ u.holdsUp 1200 ∧
      Store.erases (.figFloor 5) = false) ∧
    (let u := holding [.chain 7 []] none; u.flash.queue = .chain 7 [] :: [] ∧ u.mayStore ∧ u.holdsUp 1000 ∧ Store.erases (.chain 7 []) ∧
      u.flash.sectors = .written) ∧
    (let u : State := { holding [] none with flash := { Flash.reset with sectors := .erasing } };
      u.flash.busy = none ∧ u.flash.sectors = .erasing ∧ u.boot.anchorLost = false) ∧
    (let u : State := { up with flash := { Flash.reset with queue := [.figFloor 5] } }; u.mayStore ∧ u.holdsUp 1200 = false ∧
      ({ u with flash := { u.flash with deferred := true } } : State).flash.deferred) ∧
    ([.figFloor 5, .ruleFloor 5, .enrolment 3 none 1, .persistSet 0 none, .fwCommit 1 2, .permFence 0 3, .chain 7 [],
      .fwBundle 1 { bytes := [], secver := 0, lockstep := false, digest := 0 }] : List Store).all
      (fun x => decide ((holding [] (some x)).flash.busy = some x) && !(holding [] (some x)).boot.anchorLost) ∧
    (up.boot.recovery = false ∧ up.fw.pldm = false ∧ up.regUp 0x00 ∧ up.regUp 0x40) ∧
    (let u := holding [.figFloor 9] none; let figs := u.flash.figFloor.toNat :: u.flash.waiting.filterMap Store.figRaise;
      (∀ n ∈ figs, n < 10) ∧ 9 ∈ figs) ∧
    (up.host.keyBusy = false ∧ (up.readRecord 0 (bits (blocksNum up.host.keyWin) 0 0)).2.isNone ∧
      ({ up with host := { up.host with keyBusy := true } } : State).host.keyBusy) ∧
    ((up.cell 0).fig.storePend = false ∧ (0x80000003 : BitVec 32).getLsbD 31 ∧ (up.cell 0).fig.slotState 3 = 0 ∧
      ((withFig (fun f => { f with slots := [(3, res0)] })).cell 0).fig.slots.get .empty 3 = res0 ∧
      ((withFig (fun f => { f with storePend := true })).cell 0).fig.storePend) := by decide +kernel

def bundle0 : Bundle := { bytes := [0], secver := 0, lockstep := false, digest := 0 }

def fwState (f : Firmware → Firmware) : State :=
  { up with fw := f up.fw, flash := { Flash.reset with bundles := [(1, some bundle0)] } }

theorem witness_FirmwareIsUpdatedInStages :
    (up.fwUp 0x00 ∧ up.fw.busy = false ∧ up.fw.len = 0 ∧ up.fw.staged = none ∧ up.flash.bundles.get none (1 - up.flash.active) = none ∧
      up.fwEndUp 0x60 ∧ up.fw.switched = false ∧ up.mgmtUp ∧ up.boot.anchorLost = false ∧ up.boot.running) ∧
    ((fwState (fun f => { f with busy := true })).fwUp 0x40 ∧ (fwState (fun f => { f with busy := true })).fw.busy) ∧
    (let u := fwState (fun f => { f with len := 1 }); 0 < u.fw.len ∧ u.fw.len ≤ 33554432 ∧ u.hostUp ∧ ([0] : List Byte).length = u.fw.len) ∧
    (fwState id).flash.bundles.get none (1 - (fwState id).flash.active) = some bundle0 ∧
    (fwState (fun f => { f with staged := some bundle0 })).fw.staged = some bundle0 ∧
    (let u := fwState (fun f => { f with switched := true, current := some bundle0 }); u.fw.switched ∧ u.fw.current = some bundle0) ∧
    ({ up with boot := { up.boot with running := false, recovery := true } } : State).mgmtUp ∧
    (let u := fwState (fun f => { f with busy := true, pldm := true }); u.fw.pldm) := by decide +kernel

def connected (path phase : Nat) (session : Bool) (reply : List Byte) : State :=
  { up with mgmt := { Mgmt.reset with
      spdm := [{ path := path, phase := phase, session := session, mutualA := false, chunks := [], reply := reply }] } }

theorem witness_SpdmAnswersOnItsConnections :
    (([0, 1, 2, 3] : List Nat).all (fun p => up.spdmUp p) ∧ ((with0 (fun k => { k with keyOk := false })).cell 0).keyOk = false ∧
      (up.cell 0).keyOk ∧ up.spdmOf 0 = none ∧ up.mgmt.spdm.length < 4) ∧
    (let x : Spdm := { path := 1, phase := 1, session := false, mutualA := false, chunks := [], reply := [] };
      let u : State := { up with mgmt := { Mgmt.reset with spdm := [x, x, x, x] } }; u.spdmOf 0 = none ∧ 4 ≤ u.mgmt.spdm.length) ∧
    (let u := connected 0 1 false []; (u.spdmOf 0).map (·.phase) = some 1) ∧
    (let u := connected 0 3 false []; (u.spdmOf 0).map (·.phase) = some 3 ∧ u.chainOf 0 2 = none ∧ (u.chainOf 0 0).isSome) ∧
    (let u := connected 3 3 true [1]; (u.spdmOf 3).map (·.session) = some true ∧ (u.spdmOf 3).map (·.reply) = some [1] ∧ u.tableKeys = []) ∧
    (let k : OwnerKey := { perms := 8, alg := 1, keyId := 7, pub := [] };
      let u : State := { connected 0 3 false [] with flash := { Flash.reset with keys := [(0, some k)] } }; ∃ x ∈ u.tableKeys, x.keyId = 7) ∧
    (up.measurement 5).isSome ∧ (up.measurement 6).isNone ∧ msgByte [0x05, 0xE0, 0, 0xFF] 3 = 0xFF := by decide +kernel

theorem witness_ManagementTransportsAndTime :
    (up.bindingUp true ∧ up.bindingUp false ∧ up.ctlUp 0x60 ∧ up.ctlUp 0x00 ∧ up.boot.running ∧ up.mgmtUp ∧ up.mgmt.i3cDyn = none ∧
      ({ up with boot := { up.boot with i3cAddr := 0x10 } } : State).boot.i3cAddr = 0x10 ∧ i3cReserved 0x10 = false ∧ i3cReserved 0x7C ∧ up.anchorUp ∧ up.barUp ∧ up.seating.seated = false ∧ up.host.ptmSet = false ∧ up.quiet) ∧
    (seat1 up).seating.seated ∧ ({ up with host := { up.host with ptmSet := true } } : State).host.ptmSet ∧
    0 ≤ ((up.now - up.boot.base : Nat) : Int) + (up.cell 0).toff := by decide +kernel

/-- Cell 0 asked to stop core 5. -/
def stopping (n : Nat) (done : Bool) : State := with0 (fun k => { k with debugStop := some (n, done) })

theorem witness_RegistersWithRowsOfTheirOwn :
    (up.fwUp 0x00 ∧ (seat1 up).seating.seated ∧ up.seating.seated = false ∧ up.seating.tableId = 0 ∧
      ({ up with seating := { Seating.reset with tableId := 5 } } : State).seating.tableId ≠ 0) ∧
    (((with0 (fun k => { k with runs := [(0, { TenantRun.reset with image := some img0 })] })).cell 0).run 0).image.isSome ∧
    ((up.cell 0).run 0).image = none ∧ ((up.cell 0).err.prod - 0).toNat ≤ 65536 ∧ 65536 < ((up.cell 0).err.prod - 1).toNat ∧
    (up.fwEndUp 0x60 ∧ up.supply.limit = 1200 ∧ up.cellUp 0) ∧
    ((∀ x ∈ (up.cell 0).tenantsOf 0, (up.cell 0).tenantFn x = 0) ∧ (up.cell 0).debugStop = none ∧
      ((stopping 5 false).cell 0).debugStop = some (5, false) ∧ ((stopping 5 true).cell 0).debugStop = some (5, true)) ∧
    (let two : Figure := { fig0 with tenants := [{ tenant := 0, hostFn := 1, gen := true, learn := true, cores := 1 }] };
      let u := with0 (fun k => { k with fig := { k.fig with active := some two } });
      ∃ x ∈ (u.cell 0).tenantsOf 0, (u.cell 0).tenantFn x ≠ 0) := by decide +kernel

theorem witness_RegisterAccessesReadAndWrite :
    (up.fnUp 0 ∧ up.fnUp 1 ∧ up.windowBusy = false ∧
      (withFig (fun f => { f with slots := [(3, .loading [] (some 0) 0)] })).windowBusy ∧ up.host.keyBusy = false) ∧
    (let u : State := { up with host := { up.host with highHeld := [(0x60, some 1)], lowHeld := [(0x60, some 2)] } };
      u.host.highHeld.get none 0x60 = some 1 ∧ u.host.lowHeld.get none 0x60 = some 2) ∧
    ((up.fn 0).cqEn = false ∧ ((up.fn 0).ring 0).en = false ∧ (up.fn 0).lastBad = none ∧ wide 0 0x04 ≠ some 0x04) ∧
    ((up.onFn 0 (fun h => { h with lastBad := some 0 })).fn 0).lastBad = some 0 ∧ up.now < 0 + 1000000000 := by decide +kernel

theorem witness_TheFirstAskingRequesterFromTheButtonWins :
    (3 < 4 ∧ (3 + 2) % 4 ∈ [1, 2] ∧ ∀ j, j < 2 → (3 + j) % 4 ∉ [1, 2]) ∧ (∀ r ∈ ([] : List Nat), 4 ≤ r) ∧
    (issued (op 1 0) 1).isSome ∧ (up.cell 0).asking 0 (fun o => o.opcode = 1) = [] := by decide +kernel

theorem witness_AnOutputPortServesTheNextAskingKey :
    ((∃ k ∈ [1, 5], 3 ≤ k) ∧ (∀ k ∈ [1, 2], k < 3)) ∧
    (let u := lan.onCell 0 (fun k => k.onPort 0 (fun q => { q with queue := [(0, voidFr)] }));
      (u.pickLane 0 0 0).isSome ∧ voidFr.isCredit1 = false) := by decide +kernel

/-! ## The spec's own tables and worked examples -/

/-- Table 1-3 of R15. -/
theorem test_internal_port_map : allCells.map (fun c => [0, 1, 2, 3].map (internalPeer c)) =
    [[1, 2, 4, 7], [0, 3, 5, 6], [3, 0, 6, 5], [2, 1, 7, 4], [5, 6, 0, 3], [4, 7, 1, 2], [7, 4, 2, 1], [6, 5, 3, 0]] := by decide +kernel

/-- R16's example: cell 0 reaches cell 3 through cell 1, and through cell 2 while the link between 1 and 3 is down. -/
theorem test_relayed_through_the_lowest_cell :
    (let all (k : Cell) : Cell := [0, 1, 2, 3].foldl (fun k p => k.onPort p (fun q => { q with up := true })) k;
      let u := allCells.foldl (fun s c => State.onCell s c all) up;
      let cut := u.onCell 3 (fun k => k.onPort 1 (fun q => { q with up := false }));
      u.route 0 0 3 = some 0 ∧ cut.route 0 0 3 = some 1) := by decide +kernel

/-- Table 3-13. -/
theorem test_button_sequence : buttonWin 4 0 [1, 3] = some 1 ∧ buttonWin 4 2 [1, 3] = some 3 ∧ buttonWin 4 0 [0, 1] = some 0 ∧
    buttonWin 4 1 [] = none ∧ buttonWin 4 1 [1] = some 1 := by decide +kernel

/-- The example under it: keys (1, 1) and (7, 2), from key (0, 0) and from key (1, 2). -/
theorem test_button_over_keys : keyWin 0 [17, 114] = some 17 ∧ keyWin 18 [114] = some 114 := by decide +kernel

/-- Cores of 252 groups of 2,048 threads and 100 counters that are dealt to `cores` (3, worked example). -/
def dealtTo (cores : List Nat) : List (Option Nat) :=
  (deal (List.replicate 252 { threads := 2048, counters := 100 }) cores).map (fun d => d.map (·.core))

/-- The re-deal on the 127 cores that remain without core 5: cores 126 and 127 hold one group each. -/
theorem test_redeal : dealtTo ((List.range 128).erase 5) =
    (((List.range 128).erase 5) ++ (List.range 126).erase 5).map some := by decide +kernel

/-- Table 5-3: sixteen equal products of 16,641 units make the chunk 266,248 · 2⁻¹⁴; two chunks make 32.5 in BF16, 0x4202. -/
theorem test_pa24_chunk :
    (let a := decodeVal fBF16 0x3F81;
      let chunk := (List.replicate 16 a).foldl (fun s x => rnd fPA24 (s.add (x.mul x))) (.zero false);
      (chunk.sub (.fin false 266248 (-14))).isZero ∧ (conv fBF16 (fadd (fadd (.zero false) chunk) chunk) none).bits = 0x4202) := by decide +kernel

/-- The update scale of the example under R107: 24 + (15 − 4 − 5) = 30. -/
theorem test_next_update_scale : nextScaleOf fE5M2 24 false [.fin false 52 0] = 30 := by decide +kernel

/-- Drop-out of the example under R139: the kept value of k = 58,982 in BF16 is 0x3F8E. -/
theorem test_kept_value : keepBits fBF16 58982 58981 = 0x3F8E ∧ keepBits fBF16 58982 58982 = 0 := by decide +kernel

/-- Capacity overflow (6, worked example): expert 3 of bucket 12 with ten rank-0 and five rank-1 choices. -/
theorem test_capacity_overflow :
    (let first := [0, 1, 2, 3, 4, 5, 6, 8, 9, 10]; let second := [7, 20, 33, 41, 58];
      let toks : List (List (Nat × BitVec 32)) := (List.range 64).map (fun t =>
        [(if t ∈ first then 3 else 4 + t % 6, 0), (if t ∈ second then 3 else 10 + t % 6, 0)]);
      let ranks := placeAll 12 toks;
      first.map (fun t => (ranks.getD 0 []).getD t 0) = (List.range 10).map (fun j => 3 * 65536 + j) ∧
      second.map (fun t => (ranks.getD 1 []).getD t 0) = [3 * 65536 + 10, 3 * 65536 + 11, 0xFFFFFFFE, 0xFFFFFFFE, 0xFFFFFFFE]) := by decide +kernel

/-- The sampling example under R133. -/
theorem test_top_p_choice :
    (let logits : List Val := [.fin false 2 0, .fin false 1 0, .zero false, .zero false, .inf true, .inf true, .inf true, .inf true];
      let r (p : Nat) : SampRec := { temp := 0x3F800000, topP := p, topK := 0, key := 0, pos := 0, flags := 1, rest := 0, drafts := [] };
      let pick (p u : Nat) : Option Nat := match decideRow (r p) logits with
        | .kept l => some (choose l u)
        | _ => none;
      pick 0x3F333333 (2 ^ 31) = some 0 ∧ pick 0x3F333333 (2 ^ 32 * 8 / 10) = some 1 ∧ pick 0x3F000000 (2 ^ 32 * 8 / 10) = some 0) := by decide +kernel

/-- The cap of a share of 295 W on a cell rated at 370 W (15, example under R356). -/
theorem test_token_cap : tokenCap 295 740 = 5888 := by decide +kernel

/-- Hold-up decisions of Table 15-6, with VIN 0.5 % above the voltage used. -/
theorem test_hold_up :
    (let u (vin limit : Nat) : State := { State.reset with
        supply := { Supply.reset with vinLow := vin, limit := limit }, flash := { Flash.reset with holdUp := 60000 } };
      (u 41809 2400).holdsUp 1200 ∧ (u 41809 3000).holdsUp 1200 = false ∧ (u 41809 3000).holdsUp 1000 ∧
      (u 40201 2400).holdsUp 1200 = false ∧ (u 40201 1800).holdsUp 1200) := by decide +kernel

/-- MODULE_ID of Table 17-2 through BAR0. -/
theorem test_module_id : (match exec (.registerRead 0 0 0x00 4) up with
    | .next s' => decide (Emit.readData 0 0x08400303 ∈ s'.out)
    | _ => false) = true := by decide +kernel

end Sys2Proof.Tests
end

/-! ## Every command answers (00_scope.md) -/

namespace Sys2Proof.Machine

/-- Every command answers a next state, and does to the frame of a run what `Moves` says: the arm of each command is its meaning, and each
meaning has its law. -/
theorem exec_moves (c : Instr) (s : State) : ∃ s1, exec c s = .next s1 ∧ Moves s s1 := by
  cases c with
  | load => exact execLoad_moves ..
  | loadVerifyDone => exact execLoadVerifyDone_moves ..
  | stage => exact execStage_moves ..
  | stagingComplete => exact execStagingComplete_moves ..
  | arm => exact execArm_moves ..
  | disarm => exact execDisarm_moves ..
  | drop => exact execDrop_moves ..
  | planeSwap => exact execPlaneSwap_moves ..
  | bindingRegisterWrite => exact execBindingRegisterWrite_moves ..
  | loadImage => exact execLoadImage_moves ..
  | stepBegin => exact execStepBegin_moves ..
  | product => exact execProduct_moves ..
  | row => exact execRow_moves ..
  | route => exact execRoute_moves ..
  | sample => exact execSample_moves ..
  | mask => exact execMask_moves ..
  | move => exact execMove_moves ..
  | reduce => exact execReduce_moves ..
  | update => exact execUpdate_moves ..
  | sync => exact execSync_moves ..
  | element => exact execElement_moves ..
  | operationComplete => exact execOperationComplete_moves ..
  | tileRedo => exact execTileRedo_moves ..
  | syncMessage => exact execSyncMessage_moves ..
  | syncRetry => exact execSyncRetry_moves ..
  | stepWatchdog => exact execStepWatchdog_moves ..
  | alloc => exact execAlloc_moves ..
  | ready => exact execReady_moves ..
  | free => exact execFree_moves ..
  | bar2Write => exact execBar2Write_moves ..
  | bar2Read => exact execBar2Read_moves ..
  | migration => exact execMigration_moves ..
  | patrolScrub => exact execPatrolScrub_moves ..
  | sweepOverdue => exact execSweepOverdue_moves ..
  | generationSetup => exact execGenerationSetup_moves ..
  | request => exact execRequest_moves ..
  | admissionRound => exact execAdmissionRound_moves ..
  | cancel => exact execCancel_moves ..
  | generationSeal => exact execGenerationSeal_moves ..
  | recordWritten => exact execRecordWritten_moves ..
  | learningStepBegin => exact execLearningStepBegin_moves ..
  | reducePart => exact execReducePart_moves ..
  | ratioPass => exact execRatioPass_moves ..
  | sealReport => exact execSealReport_moves ..
  | sealDecision => exact execSealDecision_moves ..
  | applyPass => exact execApplyPass_moves ..
  | sealComplete => exact execSealComplete_moves ..
  | answer => exact execAnswer_moves ..
  | answerTimeout => exact execAnswerTimeout_moves ..
  | bind => exact execBind_moves ..
  | ruleLoad => exact execRuleLoad_moves ..
  | mode => exact execMode_moves ..
  | snapshot => exact execSnapshot_moves ..
  | snapshotTransfer => exact execSnapshotTransfer_moves ..
  | repair => exact execRepair_moves ..
  | version => exact execVersion_moves ..
  | pushHoldBegin => exact execPushHoldBegin_moves ..
  | shuffleComplete => exact execShuffleComplete_moves ..
  | warming => exact execWarming_moves ..
  | warmingComplete => exact execWarmingComplete_moves ..
  | pointerSwitch => exact execPointerSwitch_moves ..
  | laggingWriteback => exact execLaggingWriteback_moves ..
  | fetch => exact execFetch_moves ..
  | fetchComplete => exact execFetchComplete_moves ..
  | portTrain => exact execPortTrain_moves ..
  | portRetrain => exact execPortRetrain_moves ..
  | quarantineEnd => exact execQuarantineEnd_moves ..
  | tileFrame => exact execTileFrame_moves ..
  | readRequest => exact execReadRequest_moves ..
  | syncFrame => exact execSyncFrame_moves ..
  | syncOverflowRetry => exact execSyncOverflowRetry_moves ..
  | mailFrame => exact execMailFrame_moves ..
  | routeUnit => exact execRouteUnit_moves ..
  | presence => exact execPresence_moves ..
  | presenceBeacon => exact execPresenceBeacon_moves ..
  | offer => exact execOffer_moves ..
  | refuse => exact execRefuse_moves ..
  | leave => exact execLeave_moves ..
  | level => exact execLevel_moves ..
  | hold => exact execHold_moves ..
  | holdOffEnd => exact execHoldOffEnd_moves ..
  | creditReturn => exact execCreditReturn_moves ..
  | creditReturnTick => exact execCreditReturnTick_moves ..
  | creditGrant => exact execCreditGrant_moves ..
  | voidFrame => exact execVoidFrame_moves ..
  | frameForward => exact execFrameForward_moves ..
  | heartbeat => exact execHeartbeat_moves ..
  | orphanTimeout => exact execOrphanTimeout_moves ..
  | timeSyncTick => exact execTimeSyncTick_moves ..
  | timeSync => exact execTimeSync_moves ..
  | delayRequest => exact execDelayRequest_moves ..
  | delayResponse => exact execDelayResponse_moves ..
  | discoveryAccept => exact execDiscoveryAccept_moves ..
  | hostAnchorLoss => exact execHostAnchorLoss_moves ..
  | syncWireFail => exact execSyncWireFail_moves ..
  | coreFence => exact execCoreFence_moves ..
  | test => exact execTest_moves ..
  | testRound => exact execTestRound_moves ..
  | fieldTestComplete => exact execFieldTestComplete_moves ..
  | refetch => exact execRefetch_moves ..
  | perstN => exact execPerstN_moves ..
  | hostLinkReset => exact execHostLinkReset_moves ..
  | hostPathReturn => exact execHostPathReturn_moves ..
  | vfFlr => exact execVfFlr_moves ..
  | pfFlr => exact execPfFlr_moves ..
  | sqTail => exact execSqTail_moves ..
  | ringEnable => exact execRingEnable_moves ..
  | ringFetch => exact execRingFetch_moves ..
  | completionWrite => exact execCompletionWrite_moves ..
  | run => exact execRun_moves ..
  | write => exact execWrite_moves ..
  | mailbox => exact execMailbox_moves ..
  | sendData => exact execSendData_moves ..
  | sendDb => exact execSendDb_moves ..
  | recvData => exact execRecvData_moves ..
  | recvPend => exact execRecvPend_moves ..
  | mailboxEntryTake => exact execMailboxEntryTake_moves ..
  | ptmRequest => exact execPtmRequest_moves ..
  | vinFault => exact execVinFault_moves ..
  | thermalSample => exact execThermalSample_moves ..
  | thermalCeilingTick => exact execThermalCeilingTick_moves ..
  | aoclkLoss => exact execAoclkLoss_moves ..
  | refclkLoss => exact execRefclkLoss_moves ..
  | cellWake => exact execCellWake_moves ..
  | cellWakeComplete => exact execCellWakeComplete_moves ..
  | pwrGoodRise => exact execPwrGoodRise_moves ..
  | supervisorImageVerify => exact execSupervisorImageVerify_moves ..
  | hostLinkTrained => exact execHostLinkTrained_moves ..
  | cellInitComplete => exact execCellInitComplete_moves ..
  | cellInitTimeout => exact execCellInitTimeout_moves ..
  | pwrFailN => exact execPwrFailN_moves ..
  | pwrFailDeassert => exact execPwrFailDeassert_moves ..
  | pwrGoodFall => exact execPwrGoodFall_moves ..
  | haltNAssert => exact execHaltNAssert_moves ..
  | moduleReset => exact execModuleReset_moves ..
  | restart => exact execRestart_moves ..
  | restartDrain => exact execRestartDrain_moves ..
  | cellRestartBegin => exact execCellRestartBegin_moves ..
  | flashOperation => exact execFlashOperation_moves ..
  | flashDeferRetry => exact execFlashDeferRetry_moves ..
  | fwWrite => exact execFwWrite_moves ..
  | fwStage => exact execFwStage_moves ..
  | fwSwitch => exact execFwSwitch_moves ..
  | fwCommit => exact execFwCommit_moves ..
  | fwRevert => exact execFwRevert_moves ..
  | enrol => exact execEnrol_moves ..
  | getVersion _ _ _ msg => exact execGetVersion_moves (_msg := msg) ..
  | getCapabilities => exact execGetCapabilities_moves ..
  | negotiateAlgorithms => exact execNegotiateAlgorithms_moves ..
  | getDigests _ _ _ msg => exact execGetDigests_moves (_msg := msg) ..
  | getCertificate => exact execGetCertificate_moves ..
  | challenge => exact execChallenge_moves ..
  | getMeasurements => exact execGetMeasurements_moves ..
  | keyExchange => exact execKeyExchange_moves ..
  | finish => exact execFinish_moves ..
  | getEncapsulatedRequest => exact execGetEncapsulatedRequest_moves ..
  | deliverEncapsulatedResponse => exact execDeliverEncapsulatedResponse_moves ..
  | endSession _ _ _ msg => exact execEndSession_moves (_msg := msg) ..
  | chunkSend => exact execChunkSend_moves ..
  | chunkGet _ _ _ msg => exact execChunkGet_moves (_msg := msg) ..
  | setCertificate => exact execSetCertificate_moves ..
  | mctpControl => exact execMctpControl_moves ..
  | pldmEffecter => exact execPldmEffecter_moves ..
  | updateComponent => exact execUpdateComponent_moves ..
  | activateFirmware => exact execActivateFirmware_moves ..
  | vendorSend => exact execVendorSend_moves ..
  | vendorReceive => exact execVendorReceive_moves ..
  | vendorWindow => exact execVendorWindow_moves ..
  | entdaa => exact execEntdaa_moves ..
  | setdasa => exact execSetdasa_moves ..
  | getstatus => exact execGetstatus_moves ..
  | register => exact execRegister_moves ..
  | managerWrite => exact execManagerWrite_moves ..
  | powerLimit => exact execPowerLimit_moves ..
  | figFloor => exact execFigFloor_moves ..
  | ruleFloor => exact execRuleFloor_moves ..
  | jobStep => exact execJobStep_moves ..
  | turnPlan => exact execTurnPlan_moves ..
  | quarRelease => exact execQuarRelease_moves ..
  | persist => exact execPersist_moves ..
  | stop => exact execStop_moves ..
  | debugStopReached => exact execDebugStopReached_moves ..
  | reqIndex => exact execReqIndex_moves ..
  | errCons => exact execErrCons_moves ..
  | fatal => exact execFatal_moves ..
  | registerWrite => exact execRegisterWrite_moves ..
  | journalCommitWritten => exact execJournalCommitWritten_moves ..
  | haltNDeassert => exact execHaltNDeassert_moves ..
  | undervoltageLockout => exact execUndervoltageLockout_moves ..
  | undervoltageLockoutRelease => exact execUndervoltageLockoutRelease_moves ..
  | pwrGoodLowReset => exact execPwrGoodLowReset_moves ..
  | aoclkPresent => exact execAoclkPresent_moves ..
  | flrComplete => exact execFlrComplete_moves ..
  | sealReportStepLimit => exact execSealReportStepLimit_moves ..
  | registerRead => exact execRegisterRead_moves ..
  | identityCacheEntry => exact execIdentityCacheEntry_moves ..

/-- Settles O4: on an empty queue the step idles; else the front command runs on the queue's rest, and every command moves on. -/
theorem everyCommandAnswersAndTakesOne : Obligations.EveryCommandAnswersAndTakesOne := by
  intro s
  unfold step
  split
  case h_1 he => exact ⟨s, rfl, by rw [he]; rfl, Nat.le_refl _⟩
  case h_2 c rest he =>
    obtain ⟨s', hexec, hmoves⟩ := exec_moves c { s with pending := rest }
    exact ⟨s', hexec, by rw [hmoves.pending, he]; rfl, hmoves.now⟩

end Sys2Proof.Machine

/-! ## What a run ends as (R399) -/

namespace Sys2Proof.Machine

/-- `s'` is `x` but for the traces of sensor events (R399): what a run leaves of its effect `x`. -/
structure EndsAs (x s' : State) : Prop where
  silent  : s'.silent = x.silent
  reports : Reports x s'
  cell    : ∀ c, ∃ n, s'.cell c = { x.cell c with err := { (x.cell c).err with lost := n } }

theorem State.run_endsAs (s : State) (t : Nat) (f : State → State) : EndsAs (f (s.at t)) (s.run t f) where
  silent := s.silent_run t f
  reports := State.run_reports (Reports.refl _)
  cell := s.run_cell t f

theorem EndsAs.port {x s' : State} (h : EndsAs x s') (c p : Nat) : (s'.cell c).port p = (x.cell c).port p := by
  obtain ⟨n, hc⟩ := h.cell c
  rw [hc]
  rfl

theorem EndsAs.step {x s' : State} (h : EndsAs x s') (c : Nat) : (s'.cell c).step = (x.cell c).step := by
  obtain ⟨n, hc⟩ := h.cell c
  rw [hc]

theorem EndsAs.gen {x s' : State} (h : EndsAs x s') (c : Nat) : (s'.cell c).gen = (x.cell c).gen := by
  obtain ⟨n, hc⟩ := h.cell c
  rw [hc]

/-- A command whose run has effect `x` answers a state that is `x` but for sensor events. -/
theorem Answers.of_run {c : Instr} {t : Nat} {s x : State} {g : State → State} {P : State → Prop}
    (he : exec c s = .next (s.run t g)) (hg : g (s.at t) = x) (hP : ∀ s', EndsAs x s' → P s') : Answers c s P :=
  ⟨_, he, hP _ (hg ▸ s.run_endsAs t g)⟩

/-! ## What sending and reporting leave of a port (R268, R278, R280, R304) -/

/-- A port without what the frames that pass through it move: its queues, credits, buttons and count of errors. -/
def Port.link (q : Port) : Port := { q with queue := [], unacked := [], credits := [], laneBtn := 0, btnKey := 0, errors := 0 }

/-- Every port of the module is as it was, but for the frames that passed through it. -/
structure Links (s s' : State) : Prop where
  port : ∀ c p, ((s'.cell c).port p).link = ((s.cell c).port p).link

theorem Links.refl (s : State) : Links s s := ⟨fun _ _ => rfl⟩

theorem Links.trans {a b c : State} (h : Links a b) (g : Links b c) : Links a c := ⟨fun d p => (g.port d p).trans (h.port d p)⟩

/-- What changes no cell changes no port. -/
theorem Links.of_cells {s s' : State} (h : s'.cells = s.cells) : Links s s' := ⟨fun c p => by rw [State.cell, State.cell, h]⟩

/-- Any field of a port that passing frames do not move is as it was. -/
theorem Links.field {a b : State} (h : Links a b) {γ : Type} (π : Port → γ) (hπ : ∀ q : Port, π q.link = π q) (c p : Nat) :
    π ((b.cell c).port p) = π ((a.cell c).port p) := by
  rw [← hπ ((b.cell c).port p), h.port, hπ]

theorem Cell.port_onPort (k : Cell) (p : Nat) (f : Port → Port) (q : Nat) :
    (k.onPort p f).port q = if q = p then f (k.port p) else k.port q := SMap.get_set ..

section
variable (s : State)

theorem ite_links {p : Prop} [Decidable p] {a b : State} (ha : Links s a) (hb : Links s b) : Links s (if p then a else b) := by
  split <;> assumption

theorem foldl_links {β : Type} (l : List β) {f : State → β → State} (hf : ∀ x b, Links x (f x b)) : Links s (l.foldl f s) := by
  induction l generalizing s with
  | nil => exact Links.refl s
  | cons b l ih => exact (hf s b).trans (ih _)

theorem State.onCell_links (c : Nat) {f : Cell → Cell} (hf : ∀ k p, ((f k).port p).link = (k.port p).link) :
    Links s (s.onCell c f) := by
  refine ⟨fun d p => ?_⟩
  rw [State.cell_onCell]
  split
  · subst_vars
    exact hf _ p
  · rfl

theorem State.onPort_links (c p : Nat) {f : Port → Port} (hf : ∀ q, (f q).link = q.link) :
    Links s (s.onCell c (fun k => k.onPort p f)) := by
  refine s.onCell_links c (fun k q => ?_)
  rw [Cell.port_onPort]
  split
  · subst_vars
    exact hf _
  · rfl

theorem State.sendOne_links (c p : Nat) (a : Nat × Frame) : Links s (s.sendOne c p a) :=
  (s.onPort_links c p fun _ => by rfl).trans (.of_cells rfl)

theorem State.pumpN_links (n c p : Nat) : Links s (State.pumpN n s c p) := by
  induction n generalizing s with
  | zero => exact Links.refl s
  | succ n ih =>
    unfold State.pumpN
    split
    · exact Links.refl s
    · exact (s.sendOne_links ..).trans (ih _)

theorem State.pump_links (c p : Nat) : Links s (s.pump c p) := s.pumpN_links ..

theorem State.enqueue_links (c p i : Nat) (x : Frame) : Links s (s.enqueue c p i x) := by
  unfold State.enqueue
  refine ite_links s (.of_cells rfl) (ite_links s (s.onPort_links c p fun _ => by rfl) ?_)
  exact (s.onPort_links c p fun _ => by rfl).trans (State.pump_links ..)

theorem State.mkFrame_links (c : Nat) (o : Out) : Links s (s.mkFrame c o).2 :=
  ite_links s (s.onCell_links c fun _ _ => by rfl) (Links.refl s)

theorem State.send_links (c i : Nat) (o : Out) : Links s (s.send c i o).1 := by
  unfold State.send
  split
  · exact Links.refl s
  · split
    · exact Links.refl s
    · exact (s.mkFrame_links c o).trans (State.enqueue_links ..)

theorem State.sendPort_links (c p : Nat) (o : Out) : Links s (s.sendPort c p o) :=
  (s.mkFrame_links c o).trans (State.enqueue_links ..)

theorem State.cause_links (c code tenant : Nat) (entry : Option Nat) : Links s (s.cause c code tenant entry) := by
  refine s.onCell_links c (fun k p => ?_)
  dsimp only
  split <;> rfl

theorem State.causeAt_links (c code tenant step : Nat) : Links s (s.causeAt c code tenant step) :=
  ite_links s (s.cause_links ..) (ite_links s (Links.refl s) (ite_links s (Links.refl s) (s.onCell_links c fun _ _ => by rfl)))

theorem State.voidBack_links (c : Nat) (x : Frame) (reason : Nat) : Links s (s.voidBack c x reason) :=
  ite_links s (s.causeAt_links ..) (s.send_links ..)

theorem State.relay_links (c i : Nat) (x : Frame) : Links s (s.relay c i x) := by
  unfold State.relay
  split
  · exact s.enqueue_links ..
  · exact s.voidBack_links ..

theorem State.msix_links (n v : Nat) : Links s (s.msix n v) :=
  ite_links s (.refl s) (ite_links s (.of_cells rfl) (.of_cells rfl))

theorem State.pldmEvent_links (c : Nat) (l : List Nat) : Links s (s.pldmEvent c l) :=
  ite_links s (.of_cells rfl) (s.onCell_links c fun _ _ => by rfl)

theorem State.errLocal_links (c : Nat) (e : Ev) : Links s (s.errLocal c e) := by
  have h1 := s.onCell_links c (f := fun k => { k with err := k.err.push (s.mkErr c e) }) fun _ _ => rfl
  have h2 := ite_links s (p := e.sev ≥ 2) (h1.trans (State.msix_links _ 0 3)) h1
  exact ite_links s (h2.trans (State.pldmEvent_links ..)) h2

theorem State.mailUnits_links (n c : Nat) (us : List (Nat × Nat)) : Links s (State.mailUnits n s c us) := by
  induction n generalizing s us with
  | zero => exact Links.refl s
  | succ n ih =>
    unfold State.mailUnits
    split
    · exact Links.refl s
    · exact (s.send_links ..).trans (ih _ _)

theorem State.mail_links (c : Nat) (us : List (Nat × Nat)) : Links s (s.mail c us) :=
  ite_links s (s.mailUnits_links ..) (Links.refl s)

theorem State.err_links (c : Nat) (e : Ev) : Links s (s.err c e) := by
  have h1 := s.errLocal_links c e
  refine ite_links s h1 (ite_links s (h1.trans ?_) (h1.trans (State.onCell_links _ c fun _ _ => by rfl)))
  refine .trans (.of_cells ?_) (State.mail_links ..)
  rfl

theorem State.rerouteQueue_links (c p : Nat) (down : Bool) : Links s (s.rerouteQueue c p down) :=
  (s.onPort_links c p fun _ => by rfl).trans (foldl_links _ _ fun x _ => x.relay_links ..)

end

/-! ## HOLD, credits and VOID frames at a port (R275, R278, R279, R304) -/

section
variable (s : State)

/-- A port that goes down is marked down first; what follows reports and sends (R268). -/
theorem State.portDown_links (c p : Nat) :
    ∃ f : Port → Port, (∀ q, (f q).up = false) ∧ Links (s.onCell c (fun k => k.onPort p f)) (s.portDown c p) := by
  unfold State.portDown
  exact ⟨_, fun _ => by rfl, .trans (ite_links _ (State.err_links ..) (State.err_links ..)) (State.rerouteQueue_links ..)⟩

/-- A port that goes down goes down alone (R268). -/
theorem State.portDown_up (c p d q : Nat) :
    (((s.portDown c p).cell d).port q).up = if d = c ∧ q = p then false else ((s.cell d).port q).up := by
  obtain ⟨f, hf, hl⟩ := s.portDown_links c p
  rw [hl.field Port.up (fun _ => rfl), State.cell_onCell]
  by_cases hd : d = c
  · subst hd
    rw [if_pos rfl, Cell.port_onPort]
    by_cases hq : q = p <;> simp [hq, hf]
  · simp [hd]

/-- A port that retrains is down (R268). -/
theorem State.retrain_up (c p : Nat) : (((s.retrain c p).cell c).port p).up = false := by
  unfold State.retrain
  split
  case isTrue => unfold portEnds; split <;> simp [State.portDown_up]
  case isFalse h => simpa using h

/-- The counts of a CREDIT return, one for each lane (Table 12-4). -/
def returnCounts (x : Frame) : List Nat := (List.range 8).map (fun j => x.p (16 + 2 * j) 2)

/-- A CREDIT return that breaks Table 12-4: a reserved byte set, another length, or a count beyond its lane's buffer (R278). -/
def badReturn (x : Frame) : Prop :=
  x.p 1 15 ≠ 0 ∨ x.plen ≠ 32 ∨ (List.zipWith (fun n m => decide (m < n)) (returnCounts x) laneRoom).any id = true

theorem takeReturn_of_bad {c p : Nat} {x : Frame} (h : badReturn x) : s.takeReturn c p x = s.retrain c p :=
  if_pos (by simpa [badReturn, returnCounts, or_assoc] using h)

theorem takeReturn_of_good {c p : Nat} {x : Frame} (h : ¬badReturn x) :
    s.takeReturn c p x = (s.onCell c (fun k => k.onPort p (fun q =>
      Port.acknowledge { q with credits := List.zipWith (· + ·) q.credits (returnCounts x) }))).pump c p :=
  if_neg (by simpa [badReturn, returnCounts, or_assoc] using h)

/-- Nothing leaves an output where nothing waits (R280). -/
theorem pump_of_queue_nil {c p : Nat} (h : ((s.cell c).port p).queue = []) : s.pump c p = s := by
  rw [State.pump, h]
  rfl

/-- What a return of credits does to the port: what it owed is in the peer's hands, whatever the frame that tells it (R278). -/
theorem returnCredits_port (c p : Nat) : let q := (s.cell c).port p
    let q' := ((s.returnCredits c p).cell c).port p
    q'.owed.all (· = 0) = true ∧ (q.owed.all (· = 0) = false → q'.room = List.zipWith (· + ·) q.room q.owed) := by
  dsimp only
  unfold State.returnCredits
  dsimp only
  split
  case isTrue h => exact ⟨h, fun hn => absurd h (by simp [hn])⟩
  case isFalse =>
    refine ⟨?_, fun _ => ?_⟩
    · rw [(State.sendPort_links ..).field Port.owed fun _ => rfl]
      simp
    · rw [(State.sendPort_links ..).field Port.room fun _ => rfl]
      simp

/-- A cause found in a step in progress is among its causes (R9). -/
theorem mem_causes_cause {c code tenant : Nat} {entry : Option Nat} (h : (s.cell c).step.running = true) :
    ⟨code, tenant, entry⟩ ∈ ((s.cause c code tenant entry).cell c).step.causes := by
  simp only [State.cause, State.cell_onCell_same, h, Bool.true_and]
  split
  · simp
  · rename_i hc
    simpa using hc

/-- How far the step that the low 32 bits `step` name lies ahead of the cell's own (R275). -/
def StepState.ahead (x : StepState) (step : Nat) : Nat := (step + 2 ^ 32 - x.number % 2 ^ 32) % 2 ^ 32

/-- A cause of the step in progress is found in it (R275). -/
theorem causeAt_of_current {c code tenant step : Nat} (ha : (s.cell c).step.ahead step = 0) (hr : (s.cell c).step.running = true) :
    s.causeAt c code tenant step = s.cause c code tenant none := if_pos ⟨ha, hr⟩

/-- A cause of a step that is over finds nothing to void (R275). -/
theorem causeAt_of_over {c code tenant step : Nat} (ha : 2 ^ 31 ≤ (s.cell c).step.ahead step) : s.causeAt c code tenant step = s := by
  have h0 : ¬((s.cell c).step.ahead step = 0 ∧ (s.cell c).step.running = true) := by omega
  exact (if_neg h0).trans (if_pos ha)

/-- A cause of a step to come waits for it (R275). -/
theorem mem_later_causeAt {c code tenant step : Nat} (ha : (s.cell c).step.ahead step < 2 ^ 31)
    (hn : (s.cell c).step.ahead step ≠ 0 ∨ (s.cell c).step.running = false) :
    (step, ⟨code, tenant, none⟩) ∈ ((s.causeAt c code tenant step).cell c).step.later := by
  have h0 : ¬((s.cell c).step.ahead step = 0 ∧ (s.cell c).step.running = true) := fun ⟨ha0, hr⟩ =>
    hn.elim (· ha0) (fun hf => by simp [hr] at hf)
  rw [show s.causeAt c code tenant step = _ from (if_neg h0).trans (if_neg (Nat.not_le.mpr ha))]
  dsimp only
  split
  case isTrue h => simpa using h
  case isFalse => simp

end

section
variable {t : Nat} {cell : Fin 8} {port : Fin 12} {f : Frame} {s s1 : State} {P : State → Prop}

theorem hold_answers (ha : (s.at t).accept cell port f = (s1, true)) (hf : f.ftype = 6)
    (hP : ∀ s', EndsAs (s1.takeHold cell port f) s' → P s') : Answers (.hold t cell port f) s P :=
  .of_run rfl (by simp [ha, hf]) hP

theorem creditReturn_answers (ha : (s.at t).accept cell port f = (s1, true)) (hf : f.isCredit1 = true)
    (hP : ∀ s', EndsAs (s1.takeReturn cell port f) s' → P s') : Answers (.creditReturn t cell port f) s P :=
  .of_run rfl (by simp [ha, hf]) hP

theorem voidFrame_answers (ha : (s.at t).accept cell port f = (s1, true)) (hf : f.ftype = 0xA)
    (hP : ∀ s', EndsAs (s1.causeAt cell (voidReason (f.p 0 1)) (f.p 1 1) (f.p 4 4)) s' → P s') :
    Answers (.voidFrame t cell port f) s P :=
  .of_run rfl (by simp [ha, hf]) hP

theorem creditGrant_answers (ha : (s.at t).accept cell port f = (s1, true)) (h8 : f.ftype = 8) (h2 : f.p 0 1 = 2) (h1 : f.p 1 1 = 1)
    (hP : ∀ s', EndsAs ((s1.onCell cell (fun k => { k with korif := { k.korif with
      partLimit := k.korif.partLimit.set 255 (partKey (f.p 2 1) (BitVec.ofNat 24 (f.p 8 3)) f.sseat f.scell) (f.p 4 4) } })).retryParts
        cell) s' → P s') : Answers (.creditGrant t cell port f) s P :=
  .of_run rfl (by simp [ha, h8, h2, h1]) hP

/-- The key of a sum whose tensor a frame's payload names: three bytes are all of the identifier. -/
theorem partKey_p (x : Frame) (tenant off seat cell : Nat) :
    partKey tenant (BitVec.ofNat 24 (x.p off 3)) seat cell = ((tenant * 2 ^ 24 + x.p off 3) * 1024 + seat) * 8 + cell := by
  have hlt : x.p off 3 < 2 ^ 24 := Nat.mod_lt _ (by decide)
  rw [partKey, BitVec.toNat_ofNat, Nat.mod_eq_of_lt hlt]

end

/-- Settles O40, command by command: each run's effect is the shared operation of its frame, and what the port keeps of it is what sending
leaves alone. -/
theorem holdsCreditsAndVoidsAtAPort : Obligations.HoldsCreditsAndVoidsAtAPort := by
  refine ⟨fun t cell port f s1 s ha => ⟨fun hf => ⟨fun hbad => ?holdBad, fun hgood => ?holdGood⟩,
    fun hf => ⟨fun hbad => ?returnBad, fun hgood => ?returnGood⟩, fun h8 h2 h1 => ?grant, fun hf => ?void⟩,
    fun t cell port s => ⟨fun u hu hle => ?holdOff, fun hq => ?tick⟩⟩
  case holdBad => exact hold_answers ha hf fun s' h => by rw [h.silent, State.takeHold, if_pos hbad]
  case holdGood =>
    refine hold_answers ha hf fun s' h => ?_
    rw [State.takeHold, if_neg hgood] at h
    by_cases hoff : f.p 4 4 = 0xFFFFFFFF
    · simp only [hoff, if_true] at h ⊢
      refine ⟨?_, fun hn => absurd rfl hn, fun _ => h.silent⟩
      rw [h.port, (State.rerouteQueue_links ..).field Port.holdUntil fun _ => rfl]
      simp
    · simp only [hoff, if_false] at h ⊢
      refine ⟨?_, fun _ => h.silent, fun hn => hn.elim⟩
      rw [h.port]
      simp
  case returnBad =>
    refine creditReturn_answers ha hf fun s' h => ?_
    rw [takeReturn_of_bad s1 hbad] at h
    rw [h.port, State.retrain_up]
  case returnGood =>
    refine creditReturn_answers ha hf fun s' h => ?_
    rw [takeReturn_of_good s1 hgood] at h
    refine ⟨.trans ((State.onPort_reports (Reports.refl _) ..).trans (State.pump_reports (Reports.refl _) ..)) h.reports, fun hnil => ?_⟩
    rw [h.port, pump_of_queue_nil _ (by simpa [Port.acknowledge] using hnil)]
    simp [Port.acknowledge, returnCounts]
  case grant =>
    exact creditGrant_answers ha h8 h2 h1 fun s' h => by rw [h.silent, partKey_p]
  case void =>
    refine voidFrame_answers ha hf fun s' h => ⟨h.silent, fun ha0 hr => ?_, fun hlt hn => ?_, fun hle => ?_⟩
    · rw [h.step, causeAt_of_current _ ha0 hr]
      exact ⟨_, mem_causes_cause _ hr, rfl, rfl⟩
    · rw [h.step]
      exact ⟨_, mem_later_causeAt _ hlt hn, rfl, rfl, rfl⟩
    · rw [h.silent, causeAt_of_over _ hle]
  case holdOff =>
    have waiting := fun x q => State.pump_reports (State.onPort_reports (Reports.refl (s.at t)) cell port q) x port
    refine .of_run rfl (by rw [hu]; exact if_pos hle) fun s' h => ⟨(waiting _ _).trans h.reports, ?_⟩
    rw [h.port, (State.pump_links ..).field Port.holdUntil fun _ => rfl]
    simp
  case tick =>
    refine .of_run rfl (if_pos hq) fun s' h => ⟨.trans (State.returnCredits_reports (Reports.refl _) ..) h.reports, ?_⟩
    rw [h.port]
    exact returnCredits_port ..

end Sys2Proof.Machine

/-! ## What a step's seal does not touch: figure, step, requests and rows -/

namespace Sys2Proof.Machine

/-- The cell runs under the same figure, in the same step, with the same request table and rows. -/
structure SteadyCell (k k' : Cell) : Prop where
  active  : k'.fig.active = k.fig.active
  number  : k'.step.number = k.step.number
  running : k'.step.running = k.step.running
  table   : k'.gen.table = k.gen.table
  rows    : k'.gen.rows = k.gen.rows

theorem SteadyCell.refl (k : Cell) : SteadyCell k k := ⟨rfl, rfl, rfl, rfl, rfl⟩

theorem SteadyCell.trans {a b c : Cell} (h : SteadyCell a b) (g : SteadyCell b c) : SteadyCell a c :=
  ⟨g.active.trans h.active, g.number.trans h.number, g.running.trans h.running, g.table.trans h.table, g.rows.trans h.rows⟩

theorem SteadyCell.of_eq {k k' : Cell} (hf : k'.fig.active = k.fig.active) (hs : k'.step = k.step) (hg : k'.gen = k.gen) :
    SteadyCell k k' := by
  refine ⟨hf, ?_, ?_, ?_, ?_⟩ <;> simp only [hs, hg]

/-- The module keeps its seat and every cell is steady. -/
structure Steady (s s' : State) : Prop where
  seat : s'.mySeat = s.mySeat
  cell : ∀ c, SteadyCell (s.cell c) (s'.cell c)

theorem Steady.refl (s : State) : Steady s s := ⟨rfl, fun _ => .refl _⟩

theorem Steady.trans {a b c : State} (h : Steady a b) (g : Steady b c) : Steady a c :=
  ⟨g.seat.trans h.seat, fun d => (h.cell d).trans (g.cell d)⟩

/-- What only reports and sends is steady. -/
theorem Reports.steady {s s' : State} (h : Reports s s') : Steady s s' where
  seat := by rw [State.mySeat, State.mySeat, h.seating]
  cell c := by
    obtain ⟨e, p, q, hc⟩ := h.cell c
    rw [hc]
    exact .of_eq rfl rfl rfl

theorem Steady.of_cells {s s' : State} (hs : s'.mySeat = s.mySeat) (hc : s'.cells = s.cells) : Steady s s' :=
  ⟨hs, fun c => by rw [State.cell, State.cell, hc]; exact .refl _⟩

/-! ### Cells -/

section
variable (k : Cell)

theorem ite_steadyCell {p : Prop} [Decidable p] {a b : Cell} (ha : SteadyCell k a) (hb : SteadyCell k b) :
    SteadyCell k (if p then a else b) := by split <;> assumption

theorem foldl_steadyCell {β : Type} (l : List β) {f : Cell → β → Cell} (hf : ∀ x b, SteadyCell x (f x b)) :
    SteadyCell k (l.foldl f k) := by
  induction l generalizing k with
  | nil => exact .refl k
  | cons b l ih => exact (hf k b).trans (ih _)

theorem Cell.onRun_steady (t : Nat) (f : TenantRun → TenantRun) : SteadyCell k (k.onRun t f) := .of_eq rfl rfl rfl

theorem Cell.onCore_steady (n : Nat) (f : Core → Core) : SteadyCell k (k.onCore n f) := .of_eq rfl rfl rfl

theorem Cell.makeRoom_steady {k k1 : Cell} {t : Nat} {busy : List Nat} (h : k.makeRoom t busy = some k1) : SteadyCell k k1 := by
  unfold Cell.makeRoom at h
  split at h
  · cases h
    exact .refl _
  · split at h <;> cases h
    exact .of_eq rfl rfl rfl

/-- A tile is placed, if at all, in a cell that is steady: the cell itself, or the cell with room made. -/
def PlacedSteady (k : Cell) (o : Option (Cell × TileEnt)) : Prop := ∀ r, o = some r → SteadyCell k r.1

theorem PlacedSteady.none : PlacedSteady k none := fun _ h => nomatch h

theorem PlacedSteady.some {k1 : Cell} (h : SteadyCell k k1) (e : TileEnt) : PlacedSteady k (some (k1, e)) := fun _ hr => by
  cases hr
  exact h

theorem PlacedSteady.ite {p : Prop} [Decidable p] {a b : Option (Cell × TileEnt)} (ha : PlacedSteady k a) (hb : PlacedSteady k b) :
    PlacedSteady k (if p then a else b) := by split <;> assumption

theorem Cell.placeTile_steady (t : Tensor) (a : Nat) (x : Tile) (busy : List Nat) : PlacedSteady k (k.placeTile t a x busy) := by
  have here (e : TileEnt) := PlacedSteady.some k (.refl k) e
  have slow {p q r : Prop} [Decidable p] [Decidable q] [Decidable r] (e e' : TileEnt) : PlacedSteady k
      (if p then if q then some (k, e) else none else if r then some (k, e') else none) :=
    .ite k (.ite k (here e) (.none k)) (.ite k (here e') (.none k))
  unfold Cell.placeTile
  refine .ite k (here _) (.ite k (slow _ _) ?_)
  split
  next hroom => exact .some k (Cell.makeRoom_steady hroom) _
  · exact slow _ _

theorem Cell.writeTile_steady {k k1 : Cell} {t : Tensor} {a : Nat} {x : Tile} {busy : List Nat}
    (h : k.writeTile t a x busy = some k1) : SteadyCell k k1 := by
  unfold Cell.writeTile at h
  split at h <;> cases h
  rename_i g
  exact (k.placeTile_steady t a _ busy _ g).trans (.of_eq rfl rfl rfl)

theorem Cell.abandonTest_steady (t : Nat) : SteadyCell k (k.abandonTest t) := by
  unfold Cell.abandonTest
  split
  · exact .refl k
  · exact k.onCore_steady ..

theorem Cell.dealTenant_steady (t : Nat) : SteadyCell k (k.dealTenant t) := by
  unfold Cell.dealTenant
  dsimp only
  split
  · exact .of_eq rfl rfl rfl
  · refine .trans (.trans ?_ (foldl_steadyCell _ _ fun x q => ?_)) (Cell.onRun_steady ..)
    · exact .of_eq rfl rfl rfl
    · split
      · exact .refl x
      · exact x.onCore_steady ..

theorem Cell.takeImages_steady : SteadyCell k k.takeImages :=
  foldl_steadyCell k _ fun x _ => .trans (ite_steadyCell x (x.onRun_steady ..) (.refl x))
    (ite_steadyCell _ (Cell.dealTenant_steady ..) (.refl _))

theorem Cell.fwNow_steady (at_ : Option Nat) (now : Nat) : SteadyCell k (k.fwNow at_ now) := by
  unfold Cell.fwNow
  repeat' split
  all_goals exact .of_eq rfl rfl rfl

end

/-! ### The state -/

section
variable (s : State)

theorem ite_steady {p : Prop} [Decidable p] {a b : State} (ha : Steady s a) (hb : Steady s b) : Steady s (if p then a else b) := by
  split <;> assumption

theorem foldl_steady {β : Type} (l : List β) {f : State → β → State} (hf : ∀ x b, Steady x (f x b)) : Steady s (l.foldl f s) := by
  induction l generalizing s with
  | nil => exact .refl s
  | cons b l ih => exact (hf s b).trans (ih _)

theorem State.setCell_steady (c : Nat) {v : Cell} (hv : SteadyCell (s.cell c) v) : Steady s (s.setCell c v) := by
  refine ⟨rfl, fun d => ?_⟩
  rw [State.cell_setCell]
  split
  · subst_vars
    exact hv
  · exact .refl _

theorem State.onCell_steady (c : Nat) {f : Cell → Cell} (hf : ∀ k, SteadyCell k (f k)) : Steady s (s.onCell c f) :=
  s.setCell_steady c (hf _)

theorem State.err_steady (c : Nat) (e : Ev) : Steady s (s.err c e) := (State.err_reports (.refl s) c e).steady

theorem State.errLocal_steady (c : Nat) (e : Ev) : Steady s (s.errLocal c e) := (State.errLocal_reports (.refl s) c e).steady

theorem State.mail_steady (c : Nat) (us : List (Nat × Nat)) : Steady s (s.mail c us) := (State.mail_reports (.refl s) c us).steady

theorem State.cause_steady (c code tenant : Nat) (entry : Option Nat) : Steady s (s.cause c code tenant entry) :=
  s.onCell_steady c fun k => ite_steadyCell k ⟨rfl, rfl, rfl, rfl, rfl⟩ (.refl k)

theorem State.causeAt_steady (c code tenant step : Nat) : Steady s (s.causeAt c code tenant step) :=
  ite_steady s (s.cause_steady ..) (ite_steady s (.refl s) (ite_steady s (.refl s)
    (s.onCell_steady c fun _ => ⟨rfl, rfl, rfl, rfl, rfl⟩)))

theorem State.voidFor_steady (c seat cell reason tenant step tensor seq : Nat) :
    Steady s (s.voidFor c seat cell reason tenant step tensor seq) :=
  ite_steady s (s.causeAt_steady ..) (State.send_reports (.refl s) ..).steady

theorem State.doubtVoids_steady (c : Nat) (codes : List Nat) (inside : Nat → Nat → Bool) : Steady s (s.doubtVoids c codes inside) := by
  refine ite_steady s (.refl s) (foldl_steady s _ fun x y => ?_)
  exact ite_steady x (.refl x) (x.voidFor_steady ..)

theorem State.doubtFrames_steady (g : List Nat) : Steady s (s.doubtFrames g) :=
  foldl_steady s _ fun x _ => x.doubtVoids_steady ..

/-! Records and completions (R340 to R342, R347). -/

theorem State.dropRec_steady (n : Nat) : Steady s (s.dropRec n) := by
  have drop := fun e => Steady.trans (a := s) (b := s.onFn n fun h => { h with lastDrop := some s.now }) (.of_cells rfl rfl)
    (State.errLocal_steady _ 0 e)
  unfold State.dropRec
  dsimp only
  split
  · exact ite_steady s (.refl s) (drop _)
  · exact drop _

theorem State.recDone_steady (r : QRec) : Steady s (s.recDone r) := by
  unfold State.recDone
  split
  · exact .refl s
  · exact ite_steady s (.of_cells rfl rfl) (.of_cells rfl rfl)

theorem State.queueRec_steady (n : Nat) (r : QRec) : Steady s (s.queueRec n r) :=
  ite_steady s (.of_cells rfl rfl) (ite_steady s ((s.recDone_steady r).trans (State.dropRec_steady ..)) (s.recDone_steady r))

theorem State.wake_steady (c : Nat) : Steady s (s.wake c) :=
  ite_steady s (s.setCell_steady c (.of_eq rfl rfl rfl)) (.refl s)

theorem State.raiseEvent_steady (n : Nat) (who : BitVec 8) : Steady s (s.raiseEvent n who) :=
  ite_steady s (State.msix_reports (.refl s) ..).steady (ite_steady s (.of_cells rfl rfl) (ite_steady s (s.wake_steady _) (.refl s)))

theorem State.onDir_steady (n : Nat) (ab : Bool) (f : ChanDir → ChanDir) : Steady s (s.onDir n ab f) := .of_cells rfl rfl

theorem State.ring_steady (n : Nat) (ab : Bool) : Steady s (s.ring n ab) :=
  ite_steady s ((s.onDir_steady ..).trans (State.mail_steady ..))
    (ite_steady s (s.onDir_steady ..) ((s.onDir_steady ..).trans (State.raiseEvent_steady ..)))

theorem State.flushDir_steady (n : Nat) (ab : Bool) : Steady s (s.flushDir n ab) :=
  ite_steady s (.refl s) ((s.onDir_steady ..).trans (State.ring_steady ..))

theorem State.complete_steady (c : Nat) (src : Source) (e : Entry) (d : Done) : Steady s (s.complete c src e d) := by
  unfold State.complete
  split
  · exact s.queueRec_steady ..
  · exact s.mail_steady ..
  · exact (s.onDir_steady ..).trans (State.flushDir_steady ..)

/-! Tiles sent and written (R147, R154, R186, R190). -/

theorem State.sendTile_steady (c i : Nat) (dst : TileTo) (x : Slot) (whole : Bool) : Steady s (s.sendTile c i dst x whole).1 := by
  unfold State.sendTile
  split
  split
  next h =>
    have hsend := congrArg Prod.fst h ▸ State.send_reports (.refl s) c i _
    dsimp only
    exact hsend.steady.trans (State.onCell_steady _ c fun k => ite_steadyCell k ⟨rfl, rfl, rfl, rfl, rfl⟩ (.refl k))

theorem State.tierPut_steady (c tenant : Nat) (ident : BitVec 24) (seq : Nat) (x : Slot) (busy : List Nat) :
    Steady s (s.tierPut c tenant ident seq x busy).1 := by
  unfold State.tierPut
  split
  · exact .refl s
  · split
    · exact .refl s
    · split
      · exact s.err_steady ..
      next k1 h1 =>
        have hk1 := Cell.writeTile_steady h1
        split
        · dsimp only
          split
          · exact s.err_steady ..
          next k2 h2 => exact s.setCell_steady _ (hk1.trans (Cell.writeTile_steady h2))
        · exact s.setCell_steady _ hk1

theorem State.tierWrite_steady (c tenant : Nat) (ident : BitVec 24) (seq : Nat) (x : Slot) (busy : List Nat) :
    Steady s (s.tierWrite c tenant ident seq x busy).1 := by
  unfold State.tierWrite
  split
  · exact .refl s
  · exact s.tierPut_steady ..

theorem State.pokeTile_steady (c tenant : Nat) (ident : BitVec 24) (i off n data : Nat) :
    Steady s (s.pokeTile c tenant ident i off n data).1 := by
  unfold State.pokeTile
  split
  · exact .refl s
  · exact s.tierWrite_steady ..

theorem State.pokeFrom_steady (fuel c tenant : Nat) (ident : BitVec 24) (off n data : Nat) :
    Steady s (State.pokeFrom fuel s c tenant ident off n data).1 := by
  induction fuel generalizing s off n data with
  | zero => exact .refl s
  | succ fuel ih =>
    unfold State.pokeFrom
    split
    · exact .refl s
    · exact (s.pokeTile_steady ..).trans (ih ..)

theorem State.poke_steady (c tenant ident off n data : Nat) : Steady s (s.poke c tenant ident off n data).1 := s.pokeFrom_steady ..

theorem State.pokeWords_steady (c tenant ident e : Nat) (ws : List Nat) : Steady s (s.pokeWords c tenant ident e ws).1 := s.poke_steady ..

theorem State.fillTile_steady (c tenant : Nat) (ident : BitVec 24) (i : Nat) (p : Payload) (poison : Bool) :
    Steady s (s.fillTile c tenant ident i p poison) := s.tierPut_steady ..

end

/-! ## The boundary is steady (R43, R361) -/

section
variable (s : State)

theorem State.storeLater_steady (x : Store) : Steady s (s.storeLater x) := by
  have h1 : Steady s { s with flash := { s.flash with queue := s.flash.queue ++ [x] } } := .of_cells rfl rfl
  exact ite_steady s (h1.trans (foldl_steady _ _ fun y _ => y.errLocal_steady ..)) h1

theorem State.fence_steady (c n : Nat) : Steady s (s.fence c n) := by
  have whole (s0 a : State) (x : Store) {p : Prop} [Decidable p] (h : Steady s0 a) : Steady s0 (if p then a.storeLater x else a) :=
    ite_steady s0 (h.trans (a.storeLater_steady x)) h
  unfold State.fence
  dsimp only
  refine ite_steady s (.refl s) (whole s _ _ (.trans (s.setCell_steady c ?_) (.trans (State.err_steady ..)
    (foldl_steady _ _ fun x t => ?_))))
  · exact ((s.cell c).onCore_steady ..).trans (foldl_steadyCell _ _ fun x t => (x.abandonTest_steady t).trans (Cell.onRun_steady ..))
  · exact ite_steady x (x.err_steady ..) (.refl x)

theorem State.returnCores_steady (c : Nat) : Steady s (s.returnCores c) := by
  refine foldl_steady s _ fun x n => x.onCell_steady c fun k => ?_
  exact (k.onCore_steady ..).trans (foldl_steadyCell _ _ fun y _ => y.onRun_steady ..)

theorem State.zeroTensor_steady (c tenant : Nat) (ident : BitVec 24) : Steady s (s.zeroTensor c tenant ident) := by
  unfold State.zeroTensor
  split
  · exact .refl s
  · exact foldl_steady s _ fun x _ => x.fillTile_steady ..

theorem State.copyTensor_steady (c tenant src : Nat) (dst : BitVec 24) : Steady s (s.copyTensor c tenant src dst) := by
  unfold State.copyTensor
  split
  · exact .refl s
  · exact foldl_steady s _ fun x _ => x.fillTile_steady ..

theorem State.rebuildMaster_steady (c : Nat) (b : Binding) : Steady s (s.rebuildMaster c b) := by
  unfold State.rebuildMaster
  dsimp only
  split
  · exact .refl s
  · exact foldl_steady s _ fun x _ => x.fillTile_steady ..

theorem State.repairNow_steady (c : Nat) (e : Entry) : Steady s (s.repairNow c e) := by
  unfold State.repairNow
  dsimp only
  split
  · exact .refl s
  · refine .trans (ite_steady s ?_ ?_) (State.onCell_steady _ c fun _ => .of_eq rfl rfl rfl)
    · have h1 (b : Binding) := (s.copyTensor_steady c (e.fld 1 1) (e.fld 8 3) b.master).trans
        (State.copyTensor_steady _ c (e.fld 1 1) (e.fld 0xC 3) b.m1)
      exact .trans (ite_steady s (h1 _) ((h1 _).trans (State.copyTensor_steady ..))) (State.copyTensor_steady ..)
    · exact (s.rebuildMaster_steady ..).trans (foldl_steady _ _ fun x _ => x.zeroTensor_steady ..)

theorem State.udBoundary_steady (c : Nat) : Steady s (s.udBoundary c) := by
  unfold State.udBoundary
  dsimp only
  refine .trans (foldl_steady s _ fun x r => ?_) (State.onCell_steady _ c fun k => ?_)
  · exact x.repairNow_steady c r.2
  · exact .of_eq rfl rfl rfl

theorem State.takeWrites_steady (c : Nat) : Steady s (s.takeWrites c) := by
  refine .trans (s.onCell_steady c fun k => ?_) (foldl_steady _ _ fun x w => (x.pokeWords_steady ..).trans (State.complete_steady ..))
  exact .of_eq rfl rfl rfl

theorem State.coordinate_steady : Steady s s.coordinate :=
  ite_steady s (.refl s) (foldl_steady s _ fun x _ => x.onCell_steady _ fun _ => .of_eq rfl rfl rfl)

theorem State.takeLevel_steady : Steady s s.takeLevel := by
  unfold State.takeLevel
  split
  · exact .refl s
  · exact .of_cells rfl rfl

theorem State.boundary_steady (c : Nat) : Steady s (s.boundary c) := by
  have freed := s.onCell_steady c (f := Cell.freeDue) fun _ => .of_eq rfl rfl rfl
  have images (k : Cell) : SteadyCell k { k.takeImages with gen := { k.gen with heldQ := [] } } :=
    ⟨k.takeImages_steady.active, k.takeImages_steady.number, k.takeImages_steady.running, rfl, rfl⟩
  have share (k : Cell) (lost : Bool) : SteadyCell k (k.takeShare lost) := .of_eq rfl rfl rfl
  unfold State.boundary
  dsimp only
  refine .trans ?_ (State.takeLevel_steady _)
  refine .trans ?_ (State.onCell_steady _ c fun k => (share k _).trans (Cell.fwNow_steady ..))
  refine .trans ?_ (State.coordinate_steady _)
  refine .trans ?_ (State.onCell_steady _ c images)
  refine .trans ?_ (State.takeWrites_steady _ c)
  refine .trans ?_ (State.udBoundary_steady _ c)
  refine .trans ?_ (State.returnCores_steady _ c)
  exact freed.trans (foldl_steady _ _ fun x n => x.fence_steady c n)

theorem State.rest_steady (c : Nat) : Steady s (s.rest c) := by
  unfold State.rest
  dsimp only
  refine ite_steady s (.refl s) (ite_steady s (.refl s) (s.setCell_steady c ?_))
  split <;> exact .of_eq rfl rfl rfl

theorem State.groupBoundary_steady (g : List Nat) : Steady s (s.groupBoundary g) :=
  (foldl_steady s _ fun x m => x.boundary_steady m).trans (foldl_steady _ _ fun x m => x.rest_steady m)

/-! ## Deliveries and records of a seal are steady (R190, R194) -/

theorem State.deliver_steady (c : Nat) (e : ReqEntry) (k0 : Nat) (toks : List (BitVec 32)) : Steady s (s.deliver c e k0 toks) := by
  unfold State.deliver
  dsimp only
  refine ite_steady s (.refl s) (ite_steady s (.of_cells rfl rfl) (ite_steady s ?_ ?_))
  · exact foldl_steady s _ fun x _ => x.sendTile_steady ..
  · split
    · exact .refl s
    · exact s.pokeWords_steady ..

theorem State.copyPrompt_steady (c : Nat) (e : ReqEntry) : Steady s (s.copyPrompt c e) := by
  unfold State.copyPrompt
  split
  · exact s.poke_steady ..
  · exact .refl s

theorem State.endRecord_steady (c i : Nat) (e : ReqEntry) (r : Nat) : Steady s (s.endRecord c i e r) := by
  unfold State.endRecord
  dsimp only
  split
  · refine ite_steady s ?_ (s.poke_steady ..)
    exact ite_steady s (s.mail_steady ..) (s.queueRec_steady ..)
  · exact ite_steady s (s.mail_steady ..) (s.queueRec_steady ..)

end

end Sys2Proof.Machine

/-! ## Sparse tables: listed keys -/

namespace Sys2Proof

/-- What a table does not hold by default stands in its list. -/
theorem SMap.mem_of_get_ne {β : Type} {m : SMap β} {d : β} {i : Nat} (h : m.get d i ≠ d) : (i, m.get d i) ∈ m := by
  induction m with
  | nil => exact absurd rfl h
  | cons p r ih =>
    obtain ⟨j, v⟩ := p
    rw [SMap.get_cons] at h ⊢
    split
    case isTrue hj => exact hj ▸ .head _
    case isFalse hj =>
      rw [if_neg hj] at h
      exact .tail _ (ih h)

theorem SMap.keys_of_wfFrom {β : Type} [DecidableEq β] {d : β} {m : SMap β} {lo : Nat} (h : SMap.wfFrom d lo m = true) :
    (∀ p ∈ m, lo ≤ p.1) ∧ (m.map Prod.fst).Nodup := by
  induction m generalizing lo with
  | nil => simp
  | cons p r ih =>
    obtain ⟨k, v⟩ := p
    simp only [SMap.wfFrom, Bool.and_eq_true, decide_eq_true_eq] at h
    obtain ⟨hlow, hnd⟩ := ih h.2
    refine ⟨fun q hq => ?_, List.nodup_cons.mpr ⟨fun hk => ?_, hnd⟩⟩
    · rcases List.mem_cons.mp hq with rfl | hq
      · exact h.1.1
      · have := hlow q hq
        omega
    · obtain ⟨q, hq, hqk⟩ := List.mem_map.mp hk
      have := hlow q hq
      simp only at hqk
      omega

/-- A canonical table lists every key once. -/
theorem SMap.keys_nodup {β : Type} [DecidableEq β] {d : β} {m : SMap β} (h : SMap.wf d m = true) : (m.map Prod.fst).Nodup :=
  (SMap.keys_of_wfFrom h).2

end Sys2Proof

/-! ## The serving group (R168) -/

namespace Sys2Proof.Machine

/-- A cell's serving group is read from its active figure and the module's seat. -/
theorem groupOf_congr {s s' : State} {c : Nat} (hs : s'.mySeat = s.mySeat) (ha : (s'.cell c).fig.active = (s.cell c).fig.active) :
    s'.groupOf c = s.groupOf c := by
  have hv : s'.serves c = s.serves c := by
    unfold State.serves State.placedHere State.fig
    rw [hs, ha]
  unfold State.groupOf State.replicaOf
  rw [hv]

theorem groupOf_nodup (s : State) (c : Nat) : (s.groupOf c).Nodup := by
  unfold State.groupOf
  split
  · exact List.nodup_nil
  · exact List.Nodup.filter _ (by decide)

/-- A lead is in the group that it leads. -/
theorem mem_groupOf_of_isLead {s : State} {c : Fin 8} (h : s.isLead c = true) : c.val ∈ s.groupOf c := by
  cases hp : (s.serves c).find? (fun p => p.cell = c.val) with
  | none => simp [State.isLead, State.leadCell, State.replicaOf, hp] at h
  | some p =>
    have hin := List.mem_of_find?_eq_some hp
    have hc : p.cell = c.val := by simpa using List.find?_some hp
    have hall : c.val ∈ allCells := by fin_cases c <;> decide
    simp only [State.groupOf, State.replicaOf, hp, Option.map_some, List.mem_filter, List.any_eq_true]
    exact ⟨hall, p, hin, by simp [hc]⟩

/-- A change made on each of several cells, once on each. -/
theorem cell_onCells {g : List Nat} (hg : g.Nodup) (s : State) (f : Cell → Cell) (m : Nat) :
    (s.onCells g f).cell m = if m ∈ g then f (s.cell m) else s.cell m := by
  induction g generalizing s with
  | nil => rfl
  | cons c g ih =>
    obtain ⟨hc, hg⟩ := List.nodup_cons.mp hg
    show ((s.onCell c f).onCells g f).cell m = _
    rw [ih hg, State.cell_onCell]
    by_cases hm : m = c
    · subst hm
      simp [hc]
    · simp [hm]

theorem Cell.entry_onEntry (k : Cell) (i : Nat) (f : ReqEntry → ReqEntry) (j : Nat) :
    (k.onEntry i f).entry j = if j = i then f (k.entry i) else k.entry j := SMap.get_set ..

/-! ## One request at the seal touches its own entry alone (R9, R184) -/

/-- Seat, figures and steps stay, and so do all entries but those that `l` lists. -/
structure Sealing (l : List Nat) (s s' : State) : Prop where
  seat   : s'.mySeat = s.mySeat
  active : ∀ c, (s'.cell c).fig.active = (s.cell c).fig.active
  number : ∀ c, (s'.cell c).step.number = (s.cell c).step.number
  entry  : ∀ c, ∀ j ∉ l, (s'.cell c).entry j = (s.cell c).entry j

theorem SteadyCell.entry {k k' : Cell} (h : SteadyCell k k') (i : Nat) : k'.entry i = k.entry i := by
  rw [Cell.entry, Cell.entry, h.table]

theorem Steady.sealing {s s' : State} (h : Steady s s') (l : List Nat) : Sealing l s s' where
  seat := h.seat
  active c := (h.cell c).active
  number c := (h.cell c).number
  entry c j _ := (h.cell c).entry j

theorem Sealing.trans {l : List Nat} {a b c : State} (h : Sealing l a b) (g : Sealing l b c) : Sealing l a c where
  seat := g.seat.trans h.seat
  active d := (g.active d).trans (h.active d)
  number d := (g.number d).trans (h.number d)
  entry d j hj := (g.entry d j hj).trans (h.entry d j hj)

theorem Sealing.mono {l l' : List Nat} {s s' : State} (h : Sealing l s s') (hl : l ⊆ l') : Sealing l' s s' :=
  ⟨h.seat, h.active, h.number, fun c j hj => h.entry c j (fun hi => hj (hl hi))⟩

theorem Sealing.groupOf {l : List Nat} {s s' : State} (h : Sealing l s s') (c : Nat) : s'.groupOf c = s.groupOf c :=
  groupOf_congr h.seat (h.active c)

theorem onCell_sealing {i : Nat} {f : Cell → Cell} (hf : ∀ k, ∃ e, f k = k.onEntry i e) (s : State) (m : Nat) :
    Sealing [i] s (s.onCell m f) := by
  obtain ⟨e, he⟩ := hf (s.cell m)
  have hm (c : Nat) : (s.onCell m f).cell c = if c = m then (s.cell m).onEntry i e else s.cell c := by rw [State.cell_onCell, he]
  refine ⟨rfl, fun c => ?_, fun c => ?_, fun c j hj => ?_⟩ <;> rw [hm] <;> split
  case refine_3.isTrue hc =>
    subst hc
    rw [Cell.entry_onEntry, if_neg (by simpa using hj)]
  all_goals subst_vars
  all_goals rfl

theorem onCells_sealing {i : Nat} {f : Cell → Cell} (hf : ∀ k, ∃ e, f k = k.onEntry i e) (g : List Nat) (s : State) :
    Sealing [i] s (s.onCells g f) := by
  induction g generalizing s with
  | nil => exact (Steady.refl s).sealing _
  | cons m g ih => exact (onCell_sealing hf s m).trans (ih _)

/-- Entry `i` holds a request that ended, with the chosen one of `causes` as its reason (R9, R195). -/
def Ended (k : Cell) (i : Nat) (causes : List Nat) : Prop := (k.entry i).st = .ending ∧ (k.entry i).reason = pickCause causes

theorem Ended.congr {k k' : Cell} {i : Nat} {causes : List Nat} (h : Ended k i causes) (he : k'.entry i = k.entry i) :
    Ended k' i causes := by
  rw [Ended, he]
  exact h

/-- The end of a request: reports, then its entry on every cell of the group, then its record (R181, R194, R195). -/
theorem endRequest_eq (s : State) (c i code : Nat) (causes : List Nat) : ∃ (s1 : State) (f : Cell → Cell), Steady s s1 ∧
    (∀ k, ∃ e : ReqEntry → ReqEntry, f k = k.onEntry i e ∧ ∀ x, (e x).st = .ending ∧ (e x).reason = pickCause causes) ∧
    Steady (s1.onCells (s.groupOf c) f) (s.endRequest c i code causes) :=
  ⟨_, _, foldl_steady s _ fun x _ => x.err_steady .., fun _ => ⟨_, rfl, fun _ => ⟨rfl, rfl⟩⟩, State.endRecord_steady ..⟩

theorem endRequest_sealing (s : State) (c i code : Nat) (causes : List Nat) : Sealing [i] s (s.endRequest c i code causes) := by
  obtain ⟨s1, f, h1, hf, h2⟩ := endRequest_eq s c i code causes
  have hf' : ∀ k, ∃ e, f k = k.onEntry i e := fun k => (hf k).imp fun _ he => he.1
  exact ((h1.sealing _).trans (onCells_sealing hf' _ _)).trans (h2.sealing _)

theorem endRequest_ends {s : State} {c : Nat} (hg : c ∈ s.groupOf c) (i code : Nat) (causes : List Nat) :
    Ended ((s.endRequest c i code causes).cell c) i causes := by
  obtain ⟨s1, f, -, hf, h2⟩ := endRequest_eq s c i code causes
  obtain ⟨e, he, hend⟩ := hf (s1.cell c)
  refine Ended.congr ?_ ((h2.cell c).entry i)
  rw [cell_onCells (groupOf_nodup s c), if_pos hg, he, Ended, Cell.entry_onEntry_same]
  exact hend _

theorem commitRow_sealing (s : State) (c i : Nat) (r : StepRow) (x : Found) : Sealing [i] s (s.commitRow c i r x) := by
  have delivered := s.deliver_steady c ((s.cell c).entry i) ((s.cell c).entry i).g x.toks
  unfold State.commitRow
  exact ((ite_steady s (delivered.trans (State.copyPrompt_steady ..)) delivered).sealing _).trans (onCells_sealing (fun _ => ⟨_, rfl⟩) ..)

theorem sealEntry_sealing (s : State) (c i : Nat) (x : Found) : Sealing [i] s (s.sealEntry c i x) := by
  unfold State.sealEntry
  split
  · exact endRequest_sealing ..
  · split
    · exact (Steady.refl s).sealing _
    · dsimp only
      split
      · exact commitRow_sealing ..
      · exact (commitRow_sealing ..).trans (endRequest_sealing ..)

theorem sealEntry_ends {s : State} {c : Nat} (hg : c ∈ s.groupOf c) (i : Nat) {x : Found} (hx : x.causes ≠ []) :
    Ended ((s.sealEntry c i x).cell c) i x.causes := by
  rw [State.sealEntry, if_pos (by simpa using hx)]
  exact endRequest_ends hg ..

/-! ## All requests of a seal (R9, R184) -/

/-- Requests are decided one after the other. -/
def sealAll (c : Nat) (l : List (Nat × Found)) (s : State) : State := l.foldl (fun s x => s.sealEntry c x.1 x.2) s

theorem sealAll_sealing (c : Nat) (l : List (Nat × Found)) (s : State) : Sealing (l.map Prod.fst) s (sealAll c l s) := by
  induction l generalizing s with
  | nil => exact (Steady.refl s).sealing _
  | cons x l ih => exact ((sealEntry_sealing s c x.1 x.2).mono (by simp)).trans ((ih _).mono (by simp))

theorem sealAll_ends {c i : Nat} {x : Found} (hx : x.causes ≠ []) {l : List (Nat × Found)} (hn : (l.map Prod.fst).Nodup)
    (hi : (i, x) ∈ l) {s : State} (hg : c ∈ s.groupOf c) : Ended ((sealAll c l s).cell c) i x.causes := by
  induction l generalizing s with
  | nil => cases hi
  | cons y l ih =>
    obtain ⟨hy, hn⟩ := List.nodup_cons.mp hn
    rcases List.mem_cons.mp hi with rfl | hi
    · exact (sealEntry_ends hg i hx).congr ((sealAll_sealing c l _).entry c i hy)
    · exact ih hn hi ((sealEntry_sealing s c y.1 y.2).groupOf c ▸ hg)

/-- What the seal finds for each live request of the lead's table, before any is decided (R9). -/
def sealFound (s : State) (c : Nat) : List (Nat × Found) :=
  ((s.cell c).gen.table.filter (fun e => e.2.live)).map (fun e => (e.1, s.findFor c e.1 e.2))

theorem sealRequests_eq (s : State) (c : Nat) : s.sealRequests c = sealAll c (sealFound s c) s := rfl

theorem sealFound_keys_nodup {s : State} {c : Nat} (h : SMap.wf ReqEntry.free (s.cell c).gen.table = true) :
    ((sealFound s c).map Prod.fst).Nodup := by
  rw [sealFound, List.map_map]
  exact (SMap.keys_nodup h).sublist (List.filter_sublist.map _)

theorem mem_sealFound {s : State} {c i : Nat} (h : ((s.cell c).entry i).live = true) :
    (i, s.findFor c i ((s.cell c).entry i)) ∈ sealFound s c := by
  have hne : (s.cell c).entry i ≠ ReqEntry.free := fun he => by
    rw [he] at h
    exact absurd h (by decide)
  exact List.mem_map.mpr ⟨_, List.mem_filter.mpr ⟨SMap.mem_of_get_ne hne, h⟩, rfl⟩

theorem sealRequests_ends {s : State} {c i : Nat} (hwf : SMap.wf ReqEntry.free (s.cell c).gen.table = true)
    (hl : ((s.cell c).entry i).live = true) (hx : (s.findFor c i ((s.cell c).entry i)).causes ≠ []) (hg : c ∈ s.groupOf c) :
    Ended ((s.sealRequests c).cell c) i (s.findFor c i ((s.cell c).entry i)).causes :=
  sealAll_ends hx (sealFound_keys_nodup hwf) (mem_sealFound hl) hg

/-! ## The step ends (R65, R156, R181) -/

/-- The step of a cell is over in `k'`: its number has risen, it runs no longer, and the request table stands. -/
structure StepEnded (k k' : Cell) : Prop where
  number  : k'.step.number = k.step.number + 1
  running : k'.step.running = false
  table   : k'.gen.table = k.gen.table

theorem SteadyCell.stepEnded {a b c : Cell} (h : SteadyCell a b) (g : StepEnded b c) : StepEnded a c :=
  ⟨by rw [g.number, h.number], g.running, g.table.trans h.table⟩

theorem Cell.tierSeal_steady (k : Cell) (t : Nat) (commit : Bool) : SteadyCell k (k.tierSeal t commit) := .of_eq rfl rfl rfl

theorem Cell.endStepFor_ended (k : Cell) (ran : List Nat) : StepEnded k (k.endStepFor ran) := by
  unfold Cell.endStepFor
  exact (foldl_steadyCell k _ fun x t => x.tierSeal_steady t true).stepEnded ⟨rfl, rfl, rfl⟩

theorem Cell.endStep_ended (k : Cell) (ran : List (Nat × Bool)) : StepEnded k (k.endStep ran) ∧ (k.endStep ran).gen.rows = [] := by
  have sealed (x : Cell) (t : Nat × Bool) (f : TenantRun → TenantRun) :
      SteadyCell x (((x.tierSeal t.1 t.2).endSums t.1).onRun t.1 f) := .of_eq rfl rfl rfl
  obtain ⟨hn, hr, ht⟩ := (foldl_steadyCell k ran fun x t => sealed x t (fun r => { r with jobStep := r.jobStep + 1 })).stepEnded
    (Cell.endStepFor_ended _ (ran.map (·.1)))
  exact ⟨⟨hn, hr, ht⟩, rfl⟩

/-- The lead's seal: the requests are decided, then the step ends on every cell of the group, and their boundary follows (R181, R184). -/
theorem sealGen_eq (s : State) (c : Nat) : ∃ ran, Steady
    (((s.doubtFrames (s.groupOf c)).sealRequests c).onCells (s.groupOf c) (fun k => k.endStep ran)) (s.sealGen c) :=
  ⟨_, State.groupBoundary_steady ..⟩

/-- What the seal leaves of a cell of the group, by what the requests' decisions left of it. -/
theorem sealGen_cell (s : State) {c m : Nat} (hm : m ∈ s.groupOf c) :
    StepEnded (((s.doubtFrames (s.groupOf c)).sealRequests c).cell m) ((s.sealGen c).cell m) ∧ ((s.sealGen c).cell m).gen.rows = [] := by
  obtain ⟨ran, h⟩ := sealGen_eq s c
  have hc := h.cell m
  rw [cell_onCells (groupOf_nodup s c), if_pos hm] at hc
  obtain ⟨he, hrows⟩ := Cell.endStep_ended (((s.doubtFrames (s.groupOf c)).sealRequests c).cell m) ran
  exact ⟨⟨hc.number.trans he.number, hc.running.trans he.running, hc.table.trans he.table⟩, hc.rows.trans hrows⟩

theorem sealGen_number (s : State) {c m : Nat} (hm : m ∈ s.groupOf c) :
    ((s.sealGen c).cell m).step.number = (s.cell m).step.number + 1 := by
  have hd := (s.doubtFrames_steady (s.groupOf c)).cell m
  rw [(sealGen_cell s hm).1.number, sealRequests_eq, (sealAll_sealing ..).number, hd.number]

theorem sealGen_ends {s : State} {c i : Nat} (hg : c ∈ s.groupOf c) (hwf : SMap.wf ReqEntry.free (s.cell c).gen.table = true)
    (hl : ((s.cell c).entry i).live = true) :
    let x := (s.doubtFrames (s.groupOf c)).findFor c i ((s.cell c).entry i)
    x.causes ≠ [] → Ended ((s.sealGen c).cell c) i x.causes := by
  intro x hx
  have hd := s.doubtFrames_steady (s.groupOf c)
  have hent := (hd.cell c).entry i
  have hends := sealRequests_ends (s := s.doubtFrames (s.groupOf c)) (c := c) (i := i) (by rwa [(hd.cell c).table]) (by rwa [hent])
    (by rwa [hent]) (by rwa [(hd.sealing []).groupOf])
  rw [hent] at hends
  exact hends.congr (by rw [Cell.entry, (sealGen_cell s hg).1.table]; rfl)

/-! ## The end of an entry (R181) -/

theorem Cell.entry_onVer (k : Cell) (t : Nat) (f : Versions → Versions) (i : Nat) : (k.onVer t f).entry i = k.entry i := rfl

theorem freeEntries_entry {g : List Nat} (hg : g.Nodup) (s : State) (i : Nat) {m : Nat} (hm : m ∈ g) :
    ((s.freeEntries g i).cell m).entry i = ReqEntry.free := by
  show ((s.onCells g _).cell m).entry i = _
  rw [cell_onCells hg, if_pos hm, Cell.entry_onVer, Cell.entry_onEntry_same]

/-- Settles O29: a ready lead's seal is `sealGen`, whose effect on steps and requests the lemmas above give; any other seal changes nothing;
a written record frees its entry on each cell of the group. -/
theorem theGenerationSealEndsTheStep : Obligations.TheGenerationSealEndsTheStep := by
  intro t cell s u g
  refine ⟨fun hlead hready => ?seals, fun hnot => ?nothing, fun entry hup hend hl hw => ?frees⟩
  case seals =>
    have hcond : (u.isLead cell && g.all (fun m => u.cellUp m && (u.cell m).stepOver)) = true := by
      simpa [hlead] using hready
    refine .of_run rfl (if_pos hcond) fun s' h => ⟨fun m hm => ?_, fun hwf i hlive => ?_⟩
    · obtain ⟨hstep, hrows⟩ := sealGen_cell u hm
      rw [h.step, h.gen]
      exact ⟨sealGen_number u hm, hstep.running, hrows⟩
    · intro x hx
      exact (sealGen_ends (mem_groupOf_of_isLead hlead) hwf hlive hx).congr (by rw [Cell.entry, h.gen]; rfl)
  case nothing =>
    have hcond : ¬(u.isLead cell && g.all (fun m => u.cellUp m && (u.cell m).stepOver)) = true := by
      rintro h
      rw [Bool.and_eq_true, List.all_eq_true] at h
      rcases hnot with hlead | ⟨m, hm, hm'⟩
      · simp [hlead] at h
      · simp [h.2 m hm] at hm'
    exact .of_run rfl (if_neg hcond) fun s' h => h.silent
  case frees =>
    refine .of_run rfl (if_pos ?_) fun s' h => ⟨fun m hm => ?_, h.silent⟩
    · simp only [Bool.and_eq_true, Bool.or_eq_true, decide_eq_true_eq, Bool.not_eq_true']
      exact ⟨⟨⟨hup, hend⟩, hl⟩, hw⟩
    · rw [Cell.entry, h.gen]
      have hnodup : (cell.val :: g.filter (· ≠ cell.val)).Nodup :=
        List.nodup_cons.mpr ⟨by simp, (groupOf_nodup u cell).filter _⟩
      refine freeEntries_entry hnodup u entry ?_
      by_cases hc : m = cell.val
      · simp [hc]
      · simp [hc, hm.resolve_left hc]

end Sys2Proof.Machine

/-! ## A core due for its fence that another core's fence brings back (R317, R321) -/

namespace Sys2Proof.Machine

/-- A generation figure whose one tenant holds cores 3 and 5. -/
def coresShared : Figure :=
  { level := 0, phase := 1, ident := 0, secver := 0, cellMask := 1, stop := false, manifest := 0, digest := 0, chains := []
    tenants := [{ tenant := 0, hostFn := 0xFF, gen := true, learn := false, cores := 0x28 }], pools := [], reqtabs := [], quantum := 0
    queues := [], binds := [], deepest := 0, minShare := 0, maxShare := 0, power := [], freeze := [], updates := [], fenceReserve := 2
    redoReserve := 0, costs := [], replicas := 0, places := [] }

/-- Cell 0 at a boundary, cores 3 and 5 of one tenant due for their fences; core 3 is fenced already and under test. -/
def fencesDue : State :=
  { State.reset with
    boot := { Boot.reset with islands := true }
    cells := [(0, { Cell.reset with
      init := true
      fig := { FigState.reset with active := some coresShared }
      cores := [(3, { Core.reset with fenced := true, fenceDue := true, testing := true }), (5, { Core.reset with fenceDue := true })] })] }

/-- The fence of core 5 abandons the test of core 3, its tenant's highest core under test, which is to return at the boundary (R321). -/
theorem fence_abandons_test_of_fenced_core : ((((fencesDue.at 0).fence 0 5).cell 0).core 3).returning = true := by decide +kernel

/-- The boundary that follows core 3's own fence, of no effect, fences core 5, and core 3 returns by it. -/
theorem coreFence_ends_unfenced : Answers (.coreFence 0 0 3) fencesDue (fun s' => ((s'.cell 0).core 3).fenced = false) :=
  ⟨_, rfl, by decide +kernel⟩

/-- Refutes O45: the clause of CORE_FENCE does not ask that the core be in service. One that is fenced and under test is not fenced again;
at the boundary that follows, the fence of another core of its tenant abandons that test (R321), and the core returns, fenced no longer. -/
theorem not_anchorLossWiresFencesAndTests : ¬ Obligations.AnchorLossWiresFencesAndTests := by
  intro h
  obtain ⟨-, -, hfence, -⟩ := h 0 0 fencesDue
  obtain ⟨s', hs', hfenced, -⟩ := hfence 3 (by decide +kernel) (by decide +kernel) (by decide +kernel) (by decide +kernel)
  obtain ⟨s'', hs'', hfree⟩ := coreFence_ends_unfenced
  cases hs'.symm.trans hs''
  exact absurd hfenced (by simpa using hfree)

end Sys2Proof.Machine

/-! ## What reports, records and figure commands leave of the host port (R335, R336, R341) -/

namespace Sys2Proof.Machine

/-- A host function without what reports and dropped records leave in it: its pending vectors and the time of its last drop. -/
def HostFn.rings (h : HostFn) : HostFn := { h with pba := 0, lastDrop := none }

/-- Supply, host port, bindings and tile memory stay, and so do the rings of every host function that `l` does not list. -/
structure HostCalm (l : List Nat) (s s' : State) : Prop where
  supply : s'.supply = s.supply
  host   : s'.host = s.host
  tiers  : ∀ c, (s'.cell c).tiers = (s.cell c).tiers
  binds  : ∀ c, (s'.cell c).binds = (s.cell c).binds
  rings  : ∀ n ∉ l, (s'.fn n).rings = (s.fn n).rings

theorem HostCalm.refl (l : List Nat) (s : State) : HostCalm l s s := ⟨rfl, rfl, fun _ => rfl, fun _ => rfl, fun _ _ => rfl⟩

theorem HostCalm.trans {l : List Nat} {a b c : State} (h : HostCalm l a b) (g : HostCalm l b c) : HostCalm l a c where
  supply := g.supply.trans h.supply
  host := g.host.trans h.host
  tiers d := (g.tiers d).trans (h.tiers d)
  binds d := (g.binds d).trans (h.binds d)
  rings n hn := (g.rings n hn).trans (h.rings n hn)

theorem HostCalm.mono {l l' : List Nat} {s s' : State} (h : HostCalm l s s') (hl : l ⊆ l') : HostCalm l' s s' :=
  ⟨h.supply, h.host, h.tiers, h.binds, fun n hn => h.rings n (fun hm => hn (hl hm))⟩

theorem HostCalm.of_nil {s s' : State} (h : HostCalm [] s s') (l : List Nat) : HostCalm l s s' := h.mono (List.nil_subset l)

theorem Reports.hostCalm {s s' : State} (h : Reports s s') : HostCalm [] s s' where
  supply := h.supply
  host := h.host
  tiers c := by
    obtain ⟨e, p, q, hc⟩ := h.cell c
    rw [hc]
  binds c := by
    obtain ⟨e, p, q, hc⟩ := h.cell c
    rw [hc]
  rings n _ := by
    obtain ⟨p, hn⟩ := h.fn n
    rw [hn]
    rfl

/-- A channel has the same sides where the bindings are the same. -/
theorem HostCalm.chanSide {l : List Nat} {s s' : State} (h : HostCalm l s s') (n : Nat) (who : BitVec 8) :
    s'.chanSide n who = s.chanSide n who := by
  have hb : s'.binding n = s.binding n := by rw [State.binding, h.binds]; rfl
  rw [State.chanSide, hb]
  rfl

/-- A function whose completion ring is off, without rings or records, its reset by an FLR as `flr` says (R335, R336). -/
structure HostFn.Cleared (flr : Bool) (h : HostFn) : Prop where
  cqEn  : h.cqEn = false
  recs  : h.recs = []
  sq    : h.sq = []
  inFlr : h.flr = flr

theorem HostFn.Cleared.congr {flr : Bool} {h h' : HostFn} (hc : h.Cleared flr) (he : h'.rings = h.rings) : h'.Cleared flr := by
  exact ⟨(congrArg HostFn.cqEn he).trans hc.cqEn, (congrArg HostFn.recs he).trans hc.recs, (congrArg HostFn.sq he).trans hc.sq,
    (congrArg HostFn.flr he).trans hc.inFlr⟩

section
variable (s : State)

theorem ite_hostCalm {l : List Nat} {p : Prop} [Decidable p] {a b : State} (ha : HostCalm l s a) (hb : HostCalm l s b) :
    HostCalm l s (if p then a else b) := by split <;> assumption

theorem foldl_hostCalm {β : Type} {l : List Nat} (bs : List β) {f : State → β → State} (hf : ∀ x, ∀ b ∈ bs, HostCalm l x (f x b)) :
    HostCalm l s (bs.foldl f s) := by
  induction bs generalizing s with
  | nil => exact .refl l s
  | cons b bs ih => exact (hf s b (.head _)).trans (ih _ fun x b' hb => hf x b' (.tail _ hb))

theorem State.onCell_hostCalm (c : Nat) {f : Cell → Cell} (ht : ∀ k, (f k).tiers = k.tiers) (hb : ∀ k, (f k).binds = k.binds) :
    HostCalm [] s (s.onCell c f) := by
  refine ⟨rfl, rfl, fun d => ?_, fun d => ?_, fun _ _ => rfl⟩ <;> rw [State.cell_onCell] <;> split
  · subst_vars
    exact ht _
  · rfl
  · subst_vars
    exact hb _
  · rfl

theorem State.onFn_hostCalm (n : Nat) (f : HostFn → HostFn) : HostCalm [n] s (s.onFn n f) := by
  refine ⟨rfl, rfl, fun _ => rfl, fun _ => rfl, fun m hm => ?_⟩
  rw [State.fn_onFn, if_neg (by simpa using hm)]

/-! ### Records that are dropped (R341) -/

theorem State.recDone_hostCalm (r : QRec) : HostCalm [] s (s.recDone r) := by
  have onCoord (n : Nat) (f : Coord → Coord) : HostCalm [] s (s.onCoord n f) := ⟨rfl, rfl, fun _ => rfl, fun _ => rfl, fun _ _ => rfl⟩
  unfold State.recDone
  split
  · exact .refl _ s
  · exact ite_hostCalm s (onCoord ..) (onCoord ..)

theorem State.dropRec_hostCalm (n : Nat) : HostCalm [] s (s.dropRec n) := by
  have dropped (e : Ev) : HostCalm [] s ((s.onFn n (fun h => { h with lastDrop := some s.now })).errLocal 0 e) := by
    have marked : HostCalm [] s (s.onFn n (fun h => { h with lastDrop := some s.now })) :=
      ⟨rfl, rfl, fun _ => rfl, fun _ => rfl, fun m _ => ?_⟩
    · exact marked.trans (State.errLocal_reports (.refl _) 0 e).hostCalm
    rw [State.fn_onFn]
    split
    · subst_vars
      rfl
    · rfl
  unfold State.dropRec
  dsimp only
  split
  · exact ite_hostCalm s (.refl _ s) (dropped _)
  · exact dropped _

/-! ### A load through the window is abandoned, and the host paths are lost (R20, R335) -/

theorem State.figEndWith_hostCalm (c : Nat) (cmd : FigCmd) (status head : Nat) : HostCalm [] s (s.figEndWith c cmd status head) := by
  unfold State.figEndWith
  dsimp only
  have ended := s.onCell_hostCalm c (f := fun k => { k with fig := { k.fig with
    seq := k.fig.seq + 1, lastCode := BitVec.ofNat 8 cmd.code, lastStatus := BitVec.ofNat 8 status, lastSlot := cmd.slot % 4 } })
    (fun _ => rfl) (fun _ => rfl)
  have told := ite_hostCalm s (p := cmd.viaReg = true) ended (ended.trans (State.mail_reports (.refl _) c
    [(4, pack [(1, 3), (1, cmd.code), (1, status), (5, 0), (8, head)])]).hostCalm)
  exact ite_hostCalm s told (told.trans (State.err_reports (.refl _) ..).hostCalm)

theorem State.figEnd_hostCalm (c : Nat) (cmd : FigCmd) (status : Nat) : HostCalm [] s (s.figEnd c cmd status) :=
  .trans (s.onCell_hostCalm c (fun _ => by rfl) (fun _ => by rfl)) (State.figEndWith_hostCalm ..)

theorem State.abandonLoads_hostCalm : HostCalm [] s s.abandonLoads := by
  unfold State.abandonLoads
  refine foldl_hostCalm s _ fun x c _ => foldl_hostCalm x _ fun y cmd _ => ?_
  dsimp only
  split
  · exact .trans (y.onCell_hostCalm c (fun _ => by rfl) (fun _ => by rfl)) (State.figEnd_hostCalm ..)
  · exact .refl _ y

/-- The host port of a module whose host paths are lost. -/
def State.lostPort (s : State) : HostPort := { s.host with pathLost := true, dmaStop := s.host.dmaStop || s.hostDma }

theorem State.loseHost_hostCalm : HostCalm [] { s with host := s.lostPort } s.loseHost :=
  .trans (foldl_hostCalm _ _ fun x c _ => x.onCell_hostCalm c (fun _ => by rfl) (fun _ => by rfl)) (State.abandonLoads_hostCalm _)

/-! ### A function's registers are reset (R335, R336) -/

theorem State.resetFn_hostCalm_from (n : Nat) (flr : Bool) :
    HostCalm [] (s.onFn n (fun h => { HostFn.reset with flr := flr, lastBad := h.lastBad, lastDrop := h.lastDrop })) (s.resetFn n flr) := by
  have done := foldl_hostCalm (l := [])
    (s.onFn n (fun h => { HostFn.reset with flr := flr, lastBad := h.lastBad, lastDrop := h.lastDrop })) (s.fn n).recs
    fun x r _ => x.recDone_hostCalm r
  exact ite_hostCalm _ done (done.trans (State.dropRec_hostCalm ..))

theorem State.resetFn_hostCalm (n : Nat) (flr : Bool) : HostCalm [n] s (s.resetFn n flr) :=
  (s.onFn_hostCalm ..).trans ((s.resetFn_hostCalm_from n flr).of_nil _)

theorem State.resetFn_cleared (n : Nat) (flr : Bool) : ((s.resetFn n flr).fn n).Cleared flr := by
  refine .congr ?_ ((s.resetFn_hostCalm_from n flr).rings n (by simp))
  rw [State.fn_onFn_same]
  exact ⟨rfl, rfl, rfl, rfl⟩

/-- Each of several functions is cleared in turn, and none by another's turn. -/
theorem foldl_cleared {flr : Bool} {f : State → Nat → State} (hcalm : ∀ x n, HostCalm [n] x (f x n))
    (hclear : ∀ x n, ((f x n).fn n).Cleared flr) {l : List Nat} {n : Nat} (hn : n ∈ l) : ((l.foldl f s).fn n).Cleared flr := by
  induction l generalizing s with
  | nil => cases hn
  | cons m l ih =>
    by_cases hl : n ∈ l
    · exact ih _ hl
    · obtain rfl : n = m := (List.mem_cons.mp hn).resolve_right hl
      refine (hclear s n).congr ((foldl_hostCalm (l := l) _ l fun x m hm => ?_).rings n hl)
      exact (hcalm x m).mono (by simpa using hm)

theorem State.resetFns_hostCalm : HostCalm (List.range 64) s s.resetFns :=
  foldl_hostCalm s _ fun x n hn => (x.resetFn_hostCalm n false).mono (by simpa using hn)

theorem State.resetFns_cleared {n : Nat} (hn : n < 64) : (s.resetFns.fn n).Cleared false :=
  foldl_cleared s (fun x n => x.resetFn_hostCalm n false) (fun x n => x.resetFn_cleared n false) (List.mem_range.mpr hn)

/-! ### A function level reset (R336) -/

theorem State.adminHostRequests_hostCalm (n : Nat) : HostCalm [] s (s.adminHostRequests n) :=
  foldl_hostCalm s _ fun x c _ => foldl_hostCalm x _ fun y _ _ => y.onCell_hostCalm c (fun _ => by rfl) (fun _ => by rfl)

/-- The turn of channel `n` as the channels of an identity are emptied. -/
def emptyTurn (who : BitVec 8) (acc : State × Nat) (n : Nat) : State × Nat :=
  if (acc.1.chanSide n who).isSome then ((acc.1.emptyChan n).1, acc.2 + (acc.1.emptyChan n).2) else acc

theorem State.emptyChansOf_eq (who : BitVec 8) : s.emptyChansOf who = (List.range 64).foldl (emptyTurn who) (s, 0) := rfl

/-- No word waits in either direction of a channel. -/
def Chan.Empty (x : Chan) : Prop := x.ab.queue = [] ∧ x.ba.queue = []

theorem emptyTurn_spec (who : BitVec 8) (acc : State × Nat) (n : Nat) :
    HostCalm [] acc.1 (emptyTurn who acc n).1 ∧
    (∀ m, (acc.1.chan m).Empty → ((emptyTurn who acc n).1.chan m).Empty) ∧
    ((acc.1.chanSide n who).isSome → ((emptyTurn who acc n).1.chan n).Empty) := by
  unfold emptyTurn
  split
  case isTrue =>
    have hchan (m : Nat) : ((acc.1.emptyChan n).1).chan m =
        if m = n then { Chan.reset with lastRec := (acc.1.chan n).lastRec } else acc.1.chan m := State.chan_setChan ..
    refine ⟨⟨rfl, rfl, fun _ => rfl, fun _ => rfl, fun _ _ => rfl⟩, fun m hm => ?_, fun _ => ?_⟩
    · dsimp only
      rw [hchan]
      split
      · exact ⟨rfl, rfl⟩
      · exact hm
    · dsimp only
      rw [hchan, if_pos rfl]
      exact ⟨rfl, rfl⟩
  case isFalse h => exact ⟨.refl _ _, fun _ hm => hm, fun hn => absurd hn h⟩

theorem foldl_emptyTurn_spec (who : BitVec 8) (l : List Nat) (acc : State × Nat) :
    HostCalm [] acc.1 (l.foldl (emptyTurn who) acc).1 ∧
    ∀ m, (acc.1.chan m).Empty ∨ (m ∈ l ∧ (acc.1.chanSide m who).isSome) → ((l.foldl (emptyTurn who) acc).1.chan m).Empty := by
  induction l generalizing acc with
  | nil => exact ⟨.refl _ _, fun m hm => hm.resolve_right (by simp)⟩
  | cons n l ih =>
    obtain ⟨hcalm, hkeep, hempty⟩ := emptyTurn_spec who acc n
    obtain ⟨ihcalm, ihempty⟩ := ih (emptyTurn who acc n)
    refine ⟨hcalm.trans ihcalm, fun m hm => ihempty m ?_⟩
    rcases hm with hm | ⟨hm, hs⟩
    · exact .inl (hkeep m hm)
    · rcases List.mem_cons.mp hm with rfl | hm
      · exact .inl (hempty hs)
      · exact .inr ⟨hm, by rwa [hcalm.chanSide]⟩

theorem State.emptyChansOf_hostCalm (who : BitVec 8) : HostCalm [] s (s.emptyChansOf who).1 := (foldl_emptyTurn_spec who _ (s, 0)).1

theorem State.emptyChansOf_empty {who : BitVec 8} {n : Nat} (hn : n < 64) (hs : (s.chanSide n who).isSome) :
    ((s.emptyChansOf who).1.chan n).Empty :=
  (foldl_emptyTurn_spec who _ (s, 0)).2 n (.inr ⟨List.mem_range.mpr hn, hs⟩)

/-- An FLR resets the function, ends its requests, empties its channels, and reports at most. -/
theorem State.flrFn_reports (n : Nat) :
    Reports (((s.resetFn n true).adminHostRequests n).emptyChansOf (BitVec.ofNat 8 n)).1 (s.flrFn n) := by
  unfold State.flrFn
  generalize ((s.resetFn n true).adminHostRequests n).emptyChansOf (BitVec.ofNat 8 n) = r
  exact ite_reports (.refl _) (State.err_reports (.refl _) ..)

theorem State.flrFn_hostCalm_from (n : Nat) : HostCalm [] (s.resetFn n true) (s.flrFn n) :=
  ((State.adminHostRequests_hostCalm ..).trans (State.emptyChansOf_hostCalm ..)).trans (s.flrFn_reports n).hostCalm

theorem State.flrFn_hostCalm (n : Nat) : HostCalm [n] s (s.flrFn n) :=
  (s.resetFn_hostCalm n true).trans ((s.flrFn_hostCalm_from n).of_nil _)

theorem State.flrFn_cleared (n : Nat) : ((s.flrFn n).fn n).Cleared true :=
  (s.resetFn_cleared n true).congr ((s.flrFn_hostCalm_from n).rings n (by simp))

theorem State.flrFn_empty (n : Nat) {m : Nat} (hm : m < 64) (hs : (s.chanSide m (BitVec.ofNat 8 n)).isSome) :
    ((s.flrFn n).chan m).Empty := by
  have hcalm := (s.resetFn_hostCalm n true).trans ((State.adminHostRequests_hostCalm _ n).of_nil _)
  have hempty := State.emptyChansOf_empty _ hm ((hcalm.chanSide m (BitVec.ofNat 8 n)).symm ▸ hs)
  rwa [State.chan, ← (s.flrFn_reports n).chans] at hempty

end

/-! ## The host paths go and return (R335, R336, R372) -/

theorem HostFn.Cleared.off {flr : Bool} {h : HostFn} (hc : h.Cleared flr) : h.cqEn = false ∧ h.recs = [] ∧ h.sq = [] :=
  ⟨hc.cqEn, hc.recs, hc.sq⟩

/-- A run that ends as `x` leaves its host functions cleared where `x` does. -/
theorem EndsAs.cleared {x s' : State} (h : EndsAs x s') {flr : Bool} {n : Nat} (hc : (x.fn n).Cleared flr) : (s'.fn n).Cleared flr :=
  hc.congr (h.reports.hostCalm.rings n (by simp))

theorem State.loseHost_pathLost (s : State) : s.loseHost.host.pathLost = true := congrArg HostPort.pathLost s.loseHost_hostCalm.host

theorem State.loseHost_linkUp (s : State) : s.loseHost.host.linkUp = s.host.linkUp := by
  rw [s.loseHost_hostCalm.host]
  rfl

theorem State.loseHost_rings (s : State) (n : Nat) : (s.loseHost.fn n).rings = (s.fn n).rings :=
  s.loseHost_hostCalm.rings n (by simp)

@[simp] theorem State.resetPortRegs_pathLost (s : State) : s.resetPortRegs.host.pathLost = s.host.pathLost := rfl

theorem State.portReset_pathLost (s : State) : s.loseHost.resetFns.resetPortRegs.host.pathLost = true := by
  rw [State.resetPortRegs_pathLost, (State.resetFns_hostCalm _).host, State.loseHost_pathLost]

/-- What resets the whole host port keeps supply and tiles. -/
theorem State.loseHost_resetFns_keeps (s : State) : s.loseHost.resetFns.supply = s.supply ∧
    ∀ m, (s.loseHost.resetFns.cell m).tiers = (s.cell m).tiers := by
  have hlose := s.loseHost_hostCalm
  have hreset := s.loseHost.resetFns_hostCalm
  exact ⟨hreset.supply.trans hlose.supply, fun m => (hreset.tiers m).trans (hlose.tiers m)⟩

/-- A run that ends with the host port set reports at most beside it. -/
theorem EndsAs.setHost {y s' : State} {p : HostPort} (h : EndsAs { y with host := p } s') : s'.host = p ∧ s'.supply = y.supply ∧
    (∀ n, (s'.fn n).rings = (y.fn n).rings) ∧ ∀ m, (s'.cell m).tiers = (y.cell m).tiers :=
  ⟨h.reports.host, h.reports.supply, fun n => h.reports.hostCalm.rings n (by simp), h.reports.hostCalm.tiers⟩

/-- A run that ends with the registers of the host port reset, and the port set. -/
theorem EndsAs.resetPortRegs {y s' : State} {p : HostPort} (h : EndsAs { y.resetPortRegs with host := p } s') : s'.host = p ∧
    s'.supply = y.supply ∧ (∀ n, (s'.fn n).rings = (y.fn n).rings) ∧ ∀ m, (s'.cell m).tiers = (y.cell m).tiers :=
  h.setHost

/-- A run that resets the whole host port clears every function, and changes neither supply nor tiles. -/
theorem EndsAs.portReset {s s' : State} {p : HostPort} (h : EndsAs { s.loseHost.resetFns.resetPortRegs with host := p } s') :
    s'.host = p ∧ s'.supply = s.supply ∧ (∀ n, n < 64 → (s'.fn n).Cleared false) ∧ ∀ m, (s'.cell m).tiers = (s.cell m).tiers := by
  obtain ⟨hhost, hsupply, hrings, htiles⟩ := h.resetPortRegs
  obtain ⟨hs, ht⟩ := s.loseHost_resetFns_keeps
  exact ⟨hhost, hsupply.trans hs, fun n hn => (State.resetFns_cleared _ hn).congr (hrings n), fun m => (htiles m).trans (ht m)⟩

theorem HostFn.sq_of_rings {h h' : HostFn} (e : h'.rings = h.rings) : h'.sq = h.sq := by
  have hsq := congrArg HostFn.sq e
  exact hsq

theorem HostFn.cqEn_of_rings {h h' : HostFn} (e : h'.rings = h.rings) : h'.cqEn = h.cqEn := by
  have hen := congrArg HostFn.cqEn e
  exact hen

/-- A run that loses the paths alone leaves every ring as it is. -/
theorem EndsAs.loseHost {s s' : State} {p : HostPort} (h : EndsAs { s.loseHost with host := p } s') (n : Nat) :
    (s'.fn n).sq = (s.fn n).sq ∧ (s'.fn n).cqEn = (s.fn n).cqEn := by
  obtain ⟨-, -, hrings, -⟩ := h.setHost
  have hn := (hrings n).trans (s.loseHost_rings n)
  exact ⟨HostFn.sq_of_rings hn, HostFn.cqEn_of_rings hn⟩

/-! ### The function level resets of every function in use (R336) -/

/-- An FLR of every function in use. -/
def State.flrAll (s : State) : State := ((List.range 64).filter s.fnOn).foldl (fun acc n => acc.flrFn n) s

theorem State.flrAll_cleared (s : State) {n : Nat} (hn : n < 64) (hon : s.fnOn n = true) : (s.flrAll.fn n).Cleared true :=
  foldl_cleared s (fun x n => x.flrFn_hostCalm n) (fun x n => x.flrFn_cleared n) (List.mem_filter.mpr ⟨List.mem_range.mpr hn, hon⟩)

/-- Settles O46, command by command: what loses the paths or resets a function is followed by reports alone, which leave supply, host port,
rings and tiles as they are. -/
theorem theHostPathsGoAndReturn : Obligations.TheHostPathsGoAndReturn := by
  intro t s u off
  refine ⟨fun hp hr => ?perstLow, fun hp => ?perstHigh, fun how hup => ?linkReset, fun ha hup hc hr => ?pathReturn,
    fun fn hb hon hne => ?vfReset, fun hb => ?pfReset, fun fn hf => ?complete⟩
  case perstLow =>
    have hcond : ¬(false || u.inReset) = true := by simp [hr]
    refine .of_run rfl ((if_neg (ne_false_of_eq_true hp)).trans (if_neg hcond)) fun s' h => ?_
    obtain ⟨hhost, hsupply, hfns, htiles⟩ := EndsAs.portReset (s := { u with supply := { u.supply with perstN := false } }) h
    rw [hhost]
    dsimp only
    exact ⟨hsupply, State.portReset_pathLost _, rfl, rfl, rfl, fun n hn => (hfns n hn).off, htiles⟩
  case perstHigh =>
    exact .of_run rfl ((if_neg (ne_true_of_eq_false hp)).trans (if_pos rfl)) fun s' h => h.silent
  case linkReset =>
    have hcond : ¬(!u.host.linkUp) = true := by rw [hup]; decide
    by_cases h0 : how.val = 0
    · refine .of_run rfl ((if_neg hcond).trans (if_pos h0)) fun s' h => ?_
      obtain ⟨hhost, -, hfns, -⟩ := EndsAs.portReset (s := u) h
      rw [hhost]
      dsimp only
      exact ⟨State.portReset_pathLost _, fun _ => ⟨rfl, rfl, fun n hn => (hfns n hn).off⟩, fun h1 => by omega, fun h2 => by omega⟩
    by_cases h1 : how.val = 1
    · refine .of_run rfl (((if_neg hcond).trans (if_neg h0)).trans (if_pos h1)) fun s' h => ?_
      have hrings := EndsAs.loseHost (s := u) h
      rw [h.reports.host]
      dsimp only
      exact ⟨State.loseHost_pathLost _, fun h0' => by omega, fun _ => ⟨rfl, hrings⟩, fun h2 => by omega⟩
    · refine .of_run rfl (((if_neg hcond).trans (if_neg h0)).trans (if_neg h1)) fun s' h => ?_
      have hrings := EndsAs.loseHost (s := u) h
      rw [h.reports.host]
      dsimp only
      exact ⟨State.loseHost_pathLost _, fun h0' => by omega, fun h1' => by omega,
        fun _ => ⟨(State.loseHost_linkUp _).trans hup, rfl, hrings⟩⟩
  case pathReturn =>
    refine .of_run rfl ((if_neg (by rw [ha]; decide)).trans (if_pos ?_)) fun s' h => h.silent
    exact Bool.and_eq_true_iff.mpr ⟨Bool.and_eq_true_iff.mpr ⟨hup, hc⟩, hr⟩
  case vfReset =>
    have hcond : (u.barUp && u.fnOn fn && decide (fn.val ≠ 0)) = true := by rw [hb, hon, decide_eq_true hne]; rfl
    refine .of_run rfl (if_pos hcond) fun s' h => ?_
    have hclear := h.cleared (u.flrFn_cleared fn)
    have hcalm := (u.flrFn_hostCalm fn).trans (h.reports.hostCalm.of_nil _)
    refine ⟨hclear.off, hclear.inFlr, fun n hn _ => HostFn.sq_of_rings (hcalm.rings n (by simpa using hn)), fun n hn hs => ?_⟩
    have hempty := u.flrFn_empty fn hn hs
    rwa [State.chan, ← h.reports.chans] at hempty
  case pfReset =>
    have hcond : ¬(!u.barUp) = true := by rw [hb]; decide
    refine .of_run rfl (if_neg hcond) fun s' h => ?_
    obtain ⟨hhost, -, hrings, -⟩ := EndsAs.resetPortRegs (y := u.flrAll.abandonLoads) h
    rw [hhost]
    refine ⟨rfl, rfl, fun n hn hon => ?_⟩
    have hclear := (u.flrAll_cleared hn hon).congr ((hrings n).trans (u.flrAll.abandonLoads_hostCalm.rings n (by simp)))
    exact ⟨hclear.off, hclear.inFlr⟩
  case complete =>
    exact .of_run rfl (if_pos hf) fun s' h => h.silent

end Sys2Proof.Machine

/-! ## Frames that a port accepts or hands on (R16, R271, R278, R284) -/

namespace Sys2Proof.Machine

/-- Which cells are in service depends on nothing that reports move. -/
theorem Reports.cellUp {s s' : State} (h : Reports s s') (c : Nat) : s'.cellUp c = s.cellUp c := by
  obtain ⟨e, p, q, hc⟩ := h.cell c
  rw [State.cellUp, State.cellUp, hc, h.boot]

theorem Reports.ovfFull {s s' : State} (h : Reports s s') (c : Nat) : (s'.cell c).ovfFull = (s.cell c).ovfFull := by
  obtain ⟨e, p, q, hc⟩ := h.cell c
  rw [hc]
  rfl

section
variable (s : State)

theorem State.useCredits_reports (c p : Nat) (x : Frame) : Reports s (s.useCredits c p x) :=
  ite_reports (.refl s) (State.onPort_reports (.refl s) ..)

theorem State.taken_reports (c p : Nat) (x : Frame) : Reports s (s.taken c p x) :=
  ite_reports (.refl s) (ite_reports (State.onPort_reports (.refl s) ..) (State.oweCredits_reports (.refl s) ..))

/-- The sequence numbers that a cell has seen do not tell whether it is in service. -/
theorem onCell_seen_cellUp (c d : Nat) (f : Cell → SMap (List (BitVec 16))) :
    (s.onCell c (fun k => { k with korif := { k.korif with seen := f k } })).cellUp d = s.cellUp d := by
  rw [State.cellUp, State.cellUp, State.cell_onCell]
  split <;> simp_all

/-- Where the port's answer lets the command of a frame act, cell `d` is in service as in `s`. -/
def Serving (s : State) (d : Nat) (r : State × Bool) : Prop := r.2 = true → r.1.cellUp d = s.cellUp d

theorem Serving.refused {s : State} {d : Nat} (y : State) : Serving s d (y, false) := fun h => nomatch h

theorem Serving.ite {s : State} {d : Nat} {p : Prop} [Decidable p] {a b : State × Bool} (ha : Serving s d a) (hb : Serving s d b) :
    Serving s d (if p then a else b) := by split <;> assumption

/-- A frame whose command acts has used credits, has been seen, and has been taken in; no cell's service ends with that. -/
theorem State.accept_serving (c p : Nat) (x : Frame) (d : Nat) : Serving s d (s.accept c p x) := by
  have used := (s.useCredits_reports c p x).cellUp d
  have took (y : State) := (y.taken_reports c p x).cellUp d
  unfold State.accept
  dsimp only
  refine .ite (.refused _) (.ite (.refused _) (.ite (.refused _) (.ite (.refused _) (.ite (.refused _) (.ite (.refused _) (.ite (.refused _)
    (.ite (.refused _) (.ite (.refused _) (.ite (.refused _) (.ite (.refused _) (.ite (.refused _) fun _ => (took _).trans ?_)))))))))))
  split
  · rw [onCell_seen_cellUp, used]
  · exact used

theorem cellUp_of_accept {s s1 : State} {c p : Nat} {x : Frame} (h : s.accept c p x = (s1, true)) (d : Nat) :
    s1.cellUp d = s.cellUp d := by
  have hs := s.accept_serving c p x d
  rw [Serving, h] at hs
  exact hs rfl

/-- A sound frame for another destination, with the credits that it needs: it goes on by the route, and then its credits fall due (R16, R278). -/
theorem accept_of_other {c p : Nat} {x : Frame} (hu : ((s.cell c).port p).usable = true) (hm : x.malformed = false)
    (hl : x.linkLevel = false) (hi : s.idlePort c p = false) (hn : x.need ≤ ((s.cell c).port p).room.getD x.lane 0)
    (hsafe : s.boot.safe = false) (hrec : s.boot.recovery = false) (hd : s.linkDoubt c = false) (hdisc : s.boot.discovery = true)
    (hdep : s.seating.departed.contains x.sseat = false) (hp : s.prospective x = false) (ho : x.dseat ≠ s.mySeat ∨ x.dcell ≠ c) :
    s.accept c p x = (((s.useCredits c p x).relay c p x).taken c p x, false) := by
  have hhere : s.linkHere c p x = false := by simp [State.linkHere, hl, hi]
  have hdest : (decide (x.dseat = s.mySeat) && decide (x.dcell = c)) = false := by
    rcases ho with h | h <;> simp [h]
  unfold State.accept
  simp only [hu, hm, hsafe, hrec, hd, hdisc, hi, hdep, hhere, hp, hdest, Nat.not_lt.mpr hn, decide_false, Bool.not_true, Bool.not_false,
    Bool.and_false, Bool.false_and, Bool.or_false, Bool.and_true, if_false, if_true, Bool.false_eq_true]

/-- A relayed frame that has a route waits at its output, and the credits of its lane fall due at once. -/
theorem taken_relay_of_route {c p o : Nat} {x : Frame} (hl : x.linkLevel = false) (hr : s.route c x.dseat x.dcell = some o)
    (ho : x.lane ≠ 0 ∨ (s.cell c).ovfFull = false) :
    (s.relay c p x).taken c p x = (s.enqueue c o p x).oweCredits c p x.lane x.need := by
  have hcredit : x.isCredit1 = false := by
    simp only [Frame.linkLevel, Bool.or_eq_false_iff] at hl
    exact hl.1.2
  have hovf : (decide (x.lane = 0) && ((s.enqueue c o p x).cell c).ovfFull) = false := by
    rw [(State.enqueue_reports (.refl s) c o p x).ovfFull c]
    rcases ho with h | h <;> simp [h]
  have hrelay : s.relay c p x = s.enqueue c o p x := by rw [State.relay, hr]
  rw [hrelay, State.taken, if_neg (by simp [hcredit]), if_neg (by simp [hovf])]

end

/-! ## The unit of a MAIL frame (R276) -/

/-- A frame whose classes do not fit its payload is an error of the port. -/
theorem takeMail_of_none {s : State} {c p : Nat} {x : Frame} (h : mailClasses x = none) : s.takeMail c p x = s.countError c p := by
  rw [State.takeMail, h]

/-- A frame of one unit that is no record and no status: the unit acts, and the grant of entries is renewed. -/
theorem takeMail_of_unit {s : State} {c p k : Nat} {x : Frame} (h : mailClasses x = some [k]) (hk : k ≠ 2 ∧ k ≠ 4)
    (hup : s.cellUp c = true) : s.takeMail c p x = (s.mailUnit c x.origin k (BitVec.ofNat 512 (x.p 0 64))).renewMail c := by
  rw [State.takeMail, h]
  simp [hk, hup]

/-! ## Route units (R276, R283, R292) -/

/-- The values that a route unit gives to the entries from its first on. -/
def routeVals (e : Entry) : List Nat := (List.range (e.fld 2 1)).map (fun j => e.fld (4 + j) 1)

theorem zipIdx_map_range {β : Type} (g : Nat → β) (n : Nat) : ((List.range n).map g).zipIdx = (List.range n).map (fun j => (g j, j)) := by
  apply List.ext_getElem <;> simp

/-- Routes set one after the other from entry `first` on. -/
theorem get_foldl_set_range (r : SMap (BitVec 8)) (d : BitVec 8) (g : Nat → BitVec 8) (first n a : Nat) :
    ((List.range n).foldl (fun r j => r.set d (first + j) (g j)) r).get d a =
      if first ≤ a ∧ a < first + n then g (a - first) else r.get d a := by
  induction n with
  | zero => simp
  | succ n ih =>
    rw [List.range_succ, List.foldl_append, List.foldl_cons, List.foldl_nil, SMap.get_set, ih]
    by_cases ha : a = first + n
    · subst ha
      simp
    · have hle : (first ≤ a ∧ a < first + (n + 1)) ↔ (first ≤ a ∧ a < first + n) := by omega
      simp only [ha, if_false, hle]

/-- The routes of a cell after a route unit. -/
def newRoutes (e : Entry) (r : SMap (BitVec 8)) : SMap (BitVec 8) :=
  (List.range (e.fld 2 1)).foldl (fun r j => r.set 0xFF (e.fld 0 2 + j) (BitVec.ofNat 8 (e.fld (4 + j) 1))) r

/-- The departed seats that a route unit does not seat again. -/
def stillDeparted (e : Entry) (l : List Nat) : List Nat :=
  let back := ((routeVals e).zipIdx.filter (fun v : Nat × Nat => v.1 ≠ 0xFF)).map (fun v : Nat × Nat => (e.fld 0 2 + v.2) / 8)
  l.filter (fun x => !back.contains x)

theorem mem_stillDeparted {e : Entry} {l : List Nat} {n : Nat} : n ∈ stillDeparted e l ↔
    n ∈ l ∧ ∀ j, j < e.fld 2 1 → (e.fld 0 2 + j) / 8 = n → e.fld (4 + j) 1 = 0xFF := by
  rw [stillDeparted, routeVals, zipIdx_map_range]
  simp only [List.mem_filter, List.contains_eq_mem, List.mem_map, List.mem_range, Bool.not_eq_true', decide_eq_false_iff_not,
    decide_eq_true_eq, ne_eq]
  refine and_congr_right fun _ => ⟨fun h j hj hn => by_contra fun hv => h ⟨_, ⟨⟨j, hj, rfl⟩, hv⟩, hn⟩, ?_⟩
  rintro h ⟨_, ⟨⟨j, hj, rfl⟩, hv⟩, hn⟩
  exact hv (h j hj hn)

/-- The Manager's unit of routes is taken: seats that it names again have not departed, and the routes are its own (R283, R292). -/
theorem takeRoutes_of_manager {s : State} {c : Nat} {e : Entry} (hseat : s.seating.seated = true) (hpos : 1 ≤ e.fld 2 1)
    (hmax : e.fld 2 1 ≤ 60) (hres : e.fld 3 1 = 0) (hend : e.fld 0 2 + e.fld 2 1 ≤ 8192) (hz : e.zeroBytes (4 + e.fld 2 1) 64 = true)
    (hval : ∀ j, j < e.fld 2 1 → ∀ n ∈ [e.fld (4 + j) 1 % 16, e.fld (4 + j) 1 / 16], n < 12 ∨ n = 15) :
    s.takeRoutes c 0x70 e = State.onCell { s with seating := { s.seating with departed := stillDeparted e s.seating.departed } } c (fun k =>
      { k with korif := { k.korif with routes := newRoutes e k.korif.routes } }) := by
  have hset (r : SMap (BitVec 8)) :
      (routeVals e).zipIdx.foldl (fun r v => r.set 0xFF (e.fld 0 2 + v.2) (BitVec.ofNat 8 v.1)) r = newRoutes e r := by
    rw [routeVals, zipIdx_map_range, List.foldl_map]
    rfl
  unfold State.takeRoutes
  rw [if_neg ?_]
  · simp only [← hset]
    rfl
  · have hnib : ∀ j, j < e.fld 2 1 → (e.fld (4 + j) 1 % 16 < 12 ∨ e.fld (4 + j) 1 % 16 = 15) ∧
        (12 ≤ e.fld (4 + j) 1 / 16 → e.fld (4 + j) 1 / 16 = 15) := fun j hj => by
      obtain ⟨hlow, hhigh⟩ : _ ∧ _ := by simpa using hval j hj
      exact ⟨hlow, by omega⟩
    simpa [hseat, hres, hz, hmax, hend, Nat.one_le_iff_ne_zero.mp hpos] using hnib

/-! ## A DECISION of the Manager (R207, R211, R277) -/

theorem Cell.lrn_onLrn_same (k : Cell) (t : Nat) (f : LearnRun → LearnRun) : (k.onLrn t f).lrn t = f (k.lrn t) := SMap.get_set_same ..

@[simp] theorem Cell.lrn_takeDecision (k : Cell) (t : Nat) (d : Bool × Nat) (time : Nat) (scales : List (Nat × Int)) :
    (k.takeDecision t d time scales).lrn t = { k.lrn t with phase := .decided, decision := some d, decTime := time } :=
  k.lrn_onLrn_same t fun l => { l with phase := .decided, decision := some d, decTime := time }

/-- What the Manager's DECISION says: the outcome, and the reason of a void (R10). -/
def sealDecision (x : Frame) : Bool × Nat := ((x.p 2 1).testBit 0, if (x.p 2 1).testBit 0 then 0 else voidReason (x.p 3 1))

/-- A DECISION of the Manager for a group that it coordinates, at a cell that has none. -/
theorem takeSeal_of_manager {s : State} {c tn : Nat} {x : Frame} (hm : s.fromManager x = true) (h2 : x.p 0 1 = 2) (ht : x.p 1 1 = tn)
    (hmod : (s.coord tn).mod = false) (hact : (s.coord tn).active = true) (hstep : x.p 4 4 = (s.coord tn).step)
    (hnone : ((s.cell c).lrn tn).decision = none) (hidle : ((s.cell c).lrn tn).phase ≠ .idle)
    (hcomp : ((s.cell c).lrn tn).phase ≠ .complete) :
    ((s.takeSeal c x).coord tn).decision = some ((s.coord tn).decision.getD (sealDecision x)) ∧
    ((s.takeSeal c x).cell c).lrn tn =
      { (s.cell c).lrn tn with phase := .decided, decision := some (sealDecision x), decTime := x.p 0x10 8 } := by
  subst ht
  unfold State.takeSeal
  dsimp only
  rw [if_neg (by simp [hm, h2, hmod, hact, hstep, hidle, hcomp])]
  simp only [State.onCell_coord, State.coord_onCoord_same, State.cell_onCell_same, State.onCoord_cell, hnone, Option.getD_none,
    Option.isSome_none, Bool.false_eq_true, if_false, Cell.lrn_takeDecision, sealDecision, and_self]

/-! ## MAIL frames, route units, entries from channels and frames for others (R276, R283, R284, R346) -/

section
variable {t : Nat} {cell : Fin 8} {port : Fin 12} {f : Frame} {s s1 : State} {P : State → Prop}

theorem mailFrame_answers (ha : (s.at t).accept cell port f = (s1, true)) (hf : f.ftype = 3)
    (hP : ∀ s', EndsAs (s1.takeMail cell port f) s' → P s') : Answers (.mailFrame t cell port f) s P :=
  .of_run rfl (by simp [ha, hf]) hP

theorem frameForward_seal_answers (ha : (s.at t).accept cell port f = (s1, true)) (hf : f.ftype = 9) (hfab : (s.at t).fabricUp = true)
    (hup : (s.at t).cellUp cell = true) (hP : ∀ s', EndsAs (s1.takeSeal cell f) s' → P s') :
    Answers (.frameForward t cell (port.castLE (by decide)) f) s P :=
  .of_run rfl (by simp [ha, hf, hfab, hup]) hP

theorem frameForward_refused_answers (ha : (s.at t).accept cell port f = (s1, false)) (hfab : (s.at t).fabricUp = true)
    (hP : ∀ s', EndsAs s1 s' → P s') : Answers (.frameForward t cell (port.castLE (by decide)) f) s P :=
  .of_run rfl (by simp [ha, hfab]) hP

end

theorem EndsAs.lrn {x s' : State} (h : EndsAs x s') (c tn : Nat) : (s'.cell c).lrn tn = (x.cell c).lrn tn := by
  obtain ⟨n, hc⟩ := h.cell c
  rw [hc]
  rfl

theorem EndsAs.coord {x s' : State} (h : EndsAs x s') (tn : Nat) : s'.coord tn = x.coord tn := by
  rw [State.coord, h.reports.coords]
  rfl

theorem EndsAs.routes {x s' : State} (h : EndsAs x s') (c : Nat) : (s'.cell c).korif.routes = (x.cell c).korif.routes := by
  obtain ⟨n, hc⟩ := h.cell c
  rw [hc]

/-- Settles O42, command by command: an accepted frame's unit acts by its class, a relayed frame waits at its route's output, routes and
words are taken as the operations above say. -/
theorem mailRoutesAndForwarding : Obligations.MailRoutesAndForwarding := by
  refine ⟨fun t cell port f s1 s ha => ⟨fun hf hup => ?mail, fun tn hf hfab hup hm h2 ht hmod hact hstep hnone hidle hcomp => ?decision⟩,
    fun t cell port f s hu hm hl hi ho hn hsafe hrec hd hdisc hdep hp hother hfab o hr => ?relay,
    fun t cell e s hfab hseat hpos hmax hres hend hz hval => ?routes,
    fun t chan toB c s hrecv hvalid hup hpend hlen hwaits hanchor hstate => ?words⟩
  case mail =>
    have hup1 : s1.cellUp cell = true := (cellUp_of_accept ha cell).trans hup
    refine ⟨fun hc => ?_, fun hc => ?_, fun hc => ?_, fun hc => ?_⟩ <;> refine mailFrame_answers ha hf fun s' h => ?_
    · rw [h.silent, takeMail_of_none hc]
    all_goals
      rw [h.silent, takeMail_of_unit hc (by decide) hup1]
      rfl
  case decision =>
    refine frameForward_seal_answers ha hf hfab hup fun s' h => ?_
    obtain ⟨hcoord, hlrn⟩ := takeSeal_of_manager hm h2 ht hmod hact hstep hnone hidle hcomp
    rw [h.coord, h.lrn, hcoord, hlrn]
    exact ⟨rfl, rfl, rfl, rfl⟩
  case relay =>
    have ha := accept_of_other (s.at t) hu hm hl hi hn hsafe hrec hd hdisc hdep hp hother
    have hused := (s.at t).useCredits_reports cell port f
    rw [taken_relay_of_route _ hl hr (by rwa [hused.ovfFull])] at ha
    refine frameForward_refused_answers ha hfab fun s' h => ⟨.trans ?_ h.reports, h.silent⟩
    exact State.oweCredits_reports (State.enqueue_reports hused ..) ..
  case routes =>
    refine .of_run rfl ((if_pos hfab).trans (takeRoutes_of_manager hseat hpos hmax hres hend hz hval)) fun s' h =>
      ⟨fun a => ?_, fun n => ?_, _, _, h.silent⟩
    · rw [h.routes, State.cell_onCell_same]
      exact get_foldl_set_range ..
    · rw [h.reports.seating]
      exact mem_stillDeparted
  case words =>
    refine .of_run rfl ?_ fun s' h => h.silent
    have hready : ¬(!((s.at t).binding chan).valid || !(s.at t).cellUp c || !(((s.at t).chan chan).dir toB).pend ||
        decide ((((s.at t).chan chan).dir toB).queue.length < 16) || !(((s.at t).chan chan).dir (!toB)).waits.isEmpty ||
        decide ((s.at t).chanTo chan toB = 0x40) && !(s.at t).anchorUp) = true := by
      simp only [hvalid, hup, hpend, Nat.not_lt.mpr hlen, hwaits]
      simpa using hanchor
    have hawake : ¬((s.at t).chanTo chan toB ≠ 0x40 ∧ ((s.at t).cell c).power.state ≠ .c0) := fun h => hstate.elim h.1 h.2
    simp only [hrecv]
    rw [if_neg hready, if_neg (by simpa using hawake)]
    simp only [Bool.or_eq_true, decide_eq_true_eq]
    rfl

end Sys2Proof.Machine

/-! ## The figure that a cell runs (R29, R45) -/

namespace Sys2Proof.Machine

/-- The commands that may change the active figure or the plane select of a cell: the swap, a cell's initialisation, resets, and the writes
that reset. -/
def mayChangePlanes : Instr → Bool
  | .planeSwap .. | .cellInitComplete .. | .pwrGoodLowReset .. | .undervoltageLockout .. | .moduleReset .. | .journalCommitWritten ..
  | .pldmEffecter .. | .registerWrite .. => true
  | _ => false

/-- Every other command keeps the planes of the state in which it is taken: the arm of each is its meaning, and each meaning has its law. -/
theorem exec_planes (c : Instr) (hc : mayChangePlanes c = false) (s : State) : ∃ t s1, exec c s = .next s1 ∧ Planes (s.at t) s1 := by
  cases c with
  | load => exact ⟨_, execLoad_planes ..⟩
  | loadVerifyDone => exact ⟨_, execLoadVerifyDone_planes ..⟩
  | stage => exact ⟨_, execStage_planes ..⟩
  | stagingComplete => exact ⟨_, execStagingComplete_planes ..⟩
  | arm => exact ⟨_, execArm_planes ..⟩
  | disarm => exact ⟨_, execDisarm_planes ..⟩
  | drop => exact ⟨_, execDrop_planes ..⟩
  | planeSwap => cases hc
  | bindingRegisterWrite => exact ⟨_, execBindingRegisterWrite_planes ..⟩
  | loadImage => exact ⟨_, execLoadImage_planes ..⟩
  | stepBegin => exact ⟨_, execStepBegin_planes ..⟩
  | product => exact ⟨_, execProduct_planes ..⟩
  | row => exact ⟨_, execRow_planes ..⟩
  | route => exact ⟨_, execRoute_planes ..⟩
  | sample => exact ⟨_, execSample_planes ..⟩
  | mask => exact ⟨_, execMask_planes ..⟩
  | move => exact ⟨_, execMove_planes ..⟩
  | reduce => exact ⟨_, execReduce_planes ..⟩
  | update => exact ⟨_, execUpdate_planes ..⟩
  | sync => exact ⟨_, execSync_planes ..⟩
  | element => exact ⟨_, execElement_planes ..⟩
  | operationComplete => exact ⟨_, execOperationComplete_planes ..⟩
  | tileRedo => exact ⟨_, execTileRedo_planes ..⟩
  | syncMessage => exact ⟨_, execSyncMessage_planes ..⟩
  | syncRetry => exact ⟨_, execSyncRetry_planes ..⟩
  | stepWatchdog => exact ⟨_, execStepWatchdog_planes ..⟩
  | alloc => exact ⟨_, execAlloc_planes ..⟩
  | ready => exact ⟨_, execReady_planes ..⟩
  | free => exact ⟨_, execFree_planes ..⟩
  | bar2Write => exact ⟨_, execBar2Write_planes ..⟩
  | bar2Read => exact ⟨_, execBar2Read_planes ..⟩
  | migration => exact ⟨_, execMigration_planes ..⟩
  | patrolScrub => exact ⟨_, execPatrolScrub_planes ..⟩
  | sweepOverdue => exact ⟨_, execSweepOverdue_planes ..⟩
  | generationSetup => exact ⟨_, execGenerationSetup_planes ..⟩
  | request => exact ⟨_, execRequest_planes ..⟩
  | admissionRound => exact ⟨_, execAdmissionRound_planes ..⟩
  | cancel => exact ⟨_, execCancel_planes ..⟩
  | generationSeal => exact ⟨_, execGenerationSeal_planes ..⟩
  | recordWritten => exact ⟨_, execRecordWritten_planes ..⟩
  | learningStepBegin => exact ⟨_, execLearningStepBegin_planes ..⟩
  | reducePart => exact ⟨_, execReducePart_planes ..⟩
  | ratioPass => exact ⟨_, execRatioPass_planes ..⟩
  | sealReport => exact ⟨_, execSealReport_planes ..⟩
  | sealDecision => exact ⟨_, execSealDecision_planes ..⟩
  | applyPass => exact ⟨_, execApplyPass_planes ..⟩
  | sealComplete => exact ⟨_, execSealComplete_planes ..⟩
  | answer => exact ⟨_, execAnswer_planes ..⟩
  | answerTimeout => exact ⟨_, execAnswerTimeout_planes ..⟩
  | bind => exact ⟨_, execBind_planes ..⟩
  | ruleLoad => exact ⟨_, execRuleLoad_planes ..⟩
  | mode => exact ⟨_, execMode_planes ..⟩
  | snapshot => exact ⟨_, execSnapshot_planes ..⟩
  | snapshotTransfer => exact ⟨_, execSnapshotTransfer_planes ..⟩
  | repair => exact ⟨_, execRepair_planes ..⟩
  | version => exact ⟨_, execVersion_planes ..⟩
  | pushHoldBegin => exact ⟨_, execPushHoldBegin_planes ..⟩
  | shuffleComplete => exact ⟨_, execShuffleComplete_planes ..⟩
  | warming => exact ⟨_, execWarming_planes ..⟩
  | warmingComplete => exact ⟨_, execWarmingComplete_planes ..⟩
  | pointerSwitch => exact ⟨_, execPointerSwitch_planes ..⟩
  | laggingWriteback => exact ⟨_, execLaggingWriteback_planes ..⟩
  | fetch => exact ⟨_, execFetch_planes ..⟩
  | fetchComplete => exact ⟨_, execFetchComplete_planes ..⟩
  | portTrain => exact ⟨_, execPortTrain_planes ..⟩
  | portRetrain => exact ⟨_, execPortRetrain_planes ..⟩
  | quarantineEnd => exact ⟨_, execQuarantineEnd_planes ..⟩
  | tileFrame => exact ⟨_, execTileFrame_planes ..⟩
  | readRequest => exact ⟨_, execReadRequest_planes ..⟩
  | syncFrame => exact ⟨_, execSyncFrame_planes ..⟩
  | syncOverflowRetry => exact ⟨_, execSyncOverflowRetry_planes ..⟩
  | mailFrame => exact ⟨_, execMailFrame_planes ..⟩
  | routeUnit => exact ⟨_, execRouteUnit_planes ..⟩
  | presence => exact ⟨_, execPresence_planes ..⟩
  | presenceBeacon => exact ⟨_, execPresenceBeacon_planes ..⟩
  | offer => exact ⟨_, execOffer_planes ..⟩
  | refuse => exact ⟨_, execRefuse_planes ..⟩
  | leave => exact ⟨_, execLeave_planes ..⟩
  | level => exact ⟨_, execLevel_planes ..⟩
  | hold => exact ⟨_, execHold_planes ..⟩
  | holdOffEnd => exact ⟨_, execHoldOffEnd_planes ..⟩
  | creditReturn => exact ⟨_, execCreditReturn_planes ..⟩
  | creditReturnTick => exact ⟨_, execCreditReturnTick_planes ..⟩
  | creditGrant => exact ⟨_, execCreditGrant_planes ..⟩
  | voidFrame => exact ⟨_, execVoidFrame_planes ..⟩
  | frameForward => exact ⟨_, execFrameForward_planes ..⟩
  | heartbeat => exact ⟨_, execHeartbeat_planes ..⟩
  | orphanTimeout => exact ⟨_, execOrphanTimeout_planes ..⟩
  | timeSyncTick => exact ⟨_, execTimeSyncTick_planes ..⟩
  | timeSync => exact ⟨_, execTimeSync_planes ..⟩
  | delayRequest => exact ⟨_, execDelayRequest_planes ..⟩
  | delayResponse => exact ⟨_, execDelayResponse_planes ..⟩
  | discoveryAccept => exact ⟨_, execDiscoveryAccept_planes ..⟩
  | hostAnchorLoss => exact ⟨_, execHostAnchorLoss_planes ..⟩
  | syncWireFail => exact ⟨_, execSyncWireFail_planes ..⟩
  | coreFence => exact ⟨_, execCoreFence_planes ..⟩
  | test => exact ⟨_, execTest_planes ..⟩
  | testRound => exact ⟨_, execTestRound_planes ..⟩
  | fieldTestComplete => exact ⟨_, execFieldTestComplete_planes ..⟩
  | refetch => exact ⟨_, execRefetch_planes ..⟩
  | perstN => exact ⟨_, execPerstN_planes ..⟩
  | hostLinkReset => exact ⟨_, execHostLinkReset_planes ..⟩
  | hostPathReturn => exact ⟨_, execHostPathReturn_planes ..⟩
  | vfFlr => exact ⟨_, execVfFlr_planes ..⟩
  | pfFlr => exact ⟨_, execPfFlr_planes ..⟩
  | sqTail => exact ⟨_, execSqTail_planes ..⟩
  | ringEnable => exact ⟨_, execRingEnable_planes ..⟩
  | ringFetch => exact ⟨_, execRingFetch_planes ..⟩
  | completionWrite => exact ⟨_, execCompletionWrite_planes ..⟩
  | run => exact ⟨_, execRun_planes ..⟩
  | write => exact ⟨_, execWrite_planes ..⟩
  | mailbox => exact ⟨_, execMailbox_planes ..⟩
  | sendData => exact ⟨_, execSendData_planes ..⟩
  | sendDb => exact ⟨_, execSendDb_planes ..⟩
  | recvData => exact ⟨_, execRecvData_planes ..⟩
  | recvPend => exact ⟨_, execRecvPend_planes ..⟩
  | mailboxEntryTake => exact ⟨_, execMailboxEntryTake_planes ..⟩
  | ptmRequest => exact ⟨_, execPtmRequest_planes ..⟩
  | vinFault => exact ⟨_, execVinFault_planes ..⟩
  | thermalSample => exact ⟨_, execThermalSample_planes ..⟩
  | thermalCeilingTick => exact ⟨_, execThermalCeilingTick_planes ..⟩
  | aoclkLoss => exact ⟨_, execAoclkLoss_planes ..⟩
  | refclkLoss => exact ⟨_, execRefclkLoss_planes ..⟩
  | cellWake => exact ⟨_, execCellWake_planes ..⟩
  | cellWakeComplete => exact ⟨_, execCellWakeComplete_planes ..⟩
  | pwrGoodRise => exact ⟨_, execPwrGoodRise_planes ..⟩
  | supervisorImageVerify => exact ⟨_, execSupervisorImageVerify_planes ..⟩
  | hostLinkTrained => exact ⟨_, execHostLinkTrained_planes ..⟩
  | cellInitComplete => cases hc
  | cellInitTimeout => exact ⟨_, execCellInitTimeout_planes ..⟩
  | pwrFailN => exact ⟨_, execPwrFailN_planes ..⟩
  | pwrFailDeassert => exact ⟨_, execPwrFailDeassert_planes ..⟩
  | pwrGoodFall => exact ⟨_, execPwrGoodFall_planes ..⟩
  | haltNAssert => exact ⟨_, execHaltNAssert_planes ..⟩
  | moduleReset => cases hc
  | restart => exact ⟨_, execRestart_planes ..⟩
  | restartDrain => exact ⟨_, execRestartDrain_planes ..⟩
  | cellRestartBegin => exact ⟨_, execCellRestartBegin_planes ..⟩
  | flashOperation => exact ⟨_, execFlashOperation_planes ..⟩
  | flashDeferRetry => exact ⟨_, execFlashDeferRetry_planes ..⟩
  | fwWrite => exact ⟨_, execFwWrite_planes ..⟩
  | fwStage => exact ⟨_, execFwStage_planes ..⟩
  | fwSwitch => exact ⟨_, execFwSwitch_planes ..⟩
  | fwCommit => exact ⟨_, execFwCommit_planes ..⟩
  | fwRevert => exact ⟨_, execFwRevert_planes ..⟩
  | enrol => exact ⟨_, execEnrol_planes ..⟩
  | getVersion _ _ _ msg => exact ⟨_, execGetVersion_planes (_msg := msg) ..⟩
  | getCapabilities => exact ⟨_, execGetCapabilities_planes ..⟩
  | negotiateAlgorithms => exact ⟨_, execNegotiateAlgorithms_planes ..⟩
  | getDigests _ _ _ msg => exact ⟨_, execGetDigests_planes (_msg := msg) ..⟩
  | getCertificate => exact ⟨_, execGetCertificate_planes ..⟩
  | challenge => exact ⟨_, execChallenge_planes ..⟩
  | getMeasurements => exact ⟨_, execGetMeasurements_planes ..⟩
  | keyExchange => exact ⟨_, execKeyExchange_planes ..⟩
  | finish => exact ⟨_, execFinish_planes ..⟩
  | getEncapsulatedRequest => exact ⟨_, execGetEncapsulatedRequest_planes ..⟩
  | deliverEncapsulatedResponse => exact ⟨_, execDeliverEncapsulatedResponse_planes ..⟩
  | endSession _ _ _ msg => exact ⟨_, execEndSession_planes (_msg := msg) ..⟩
  | chunkSend => exact ⟨_, execChunkSend_planes ..⟩
  | chunkGet _ _ _ msg => exact ⟨_, execChunkGet_planes (_msg := msg) ..⟩
  | setCertificate => exact ⟨_, execSetCertificate_planes ..⟩
  | mctpControl => exact ⟨_, execMctpControl_planes ..⟩
  | pldmEffecter => cases hc
  | updateComponent => exact ⟨_, execUpdateComponent_planes ..⟩
  | activateFirmware => exact ⟨_, execActivateFirmware_planes ..⟩
  | vendorSend => exact ⟨_, execVendorSend_planes ..⟩
  | vendorReceive => exact ⟨_, execVendorReceive_planes ..⟩
  | vendorWindow => exact ⟨_, execVendorWindow_planes ..⟩
  | entdaa => exact ⟨_, execEntdaa_planes ..⟩
  | setdasa => exact ⟨_, execSetdasa_planes ..⟩
  | getstatus => exact ⟨_, execGetstatus_planes ..⟩
  | register => exact ⟨_, execRegister_planes ..⟩
  | managerWrite => exact ⟨_, execManagerWrite_planes ..⟩
  | powerLimit => exact ⟨_, execPowerLimit_planes ..⟩
  | figFloor => exact ⟨_, execFigFloor_planes ..⟩
  | ruleFloor => exact ⟨_, execRuleFloor_planes ..⟩
  | jobStep => exact ⟨_, execJobStep_planes ..⟩
  | turnPlan => exact ⟨_, execTurnPlan_planes ..⟩
  | quarRelease => exact ⟨_, execQuarRelease_planes ..⟩
  | persist => exact ⟨_, execPersist_planes ..⟩
  | stop => exact ⟨_, execStop_planes ..⟩
  | debugStopReached => exact ⟨_, execDebugStopReached_planes ..⟩
  | reqIndex => exact ⟨_, execReqIndex_planes ..⟩
  | errCons => exact ⟨_, execErrCons_planes ..⟩
  | fatal => exact ⟨_, execFatal_planes ..⟩
  | registerWrite => cases hc
  | journalCommitWritten => cases hc
  | haltNDeassert => exact ⟨_, execHaltNDeassert_planes ..⟩
  | undervoltageLockout => cases hc
  | undervoltageLockoutRelease => exact ⟨_, execUndervoltageLockoutRelease_planes ..⟩
  | pwrGoodLowReset => cases hc
  | aoclkPresent => exact ⟨_, execAoclkPresent_planes ..⟩
  | flrComplete => exact ⟨_, execFlrComplete_planes ..⟩
  | sealReportStepLimit => exact ⟨_, execSealReportStepLimit_planes ..⟩
  | registerRead => exact ⟨_, execRegisterRead_planes ..⟩
  | identityCacheEntry => exact ⟨_, execIdentityCacheEntry_planes ..⟩

/-- Time that moves keeps the planes of canonical cells (R6). -/
theorem State.at_plane {s : State} (i : Inv s) (t m : Nat) : ((s.at t).cell m).fig.plane = (s.cell m).fig.plane := by
  rw [State.at_cell i]
  split <;> rfl

/-- From a state whose tables are canonical, as they are in every state that a run reaches, no command but those named changes the figure
or the plane select of a cell (R29, R45). -/
theorem exec_keeps_planes {c : Instr} {s s' : State} (i : Inv s) (hc : mayChangePlanes c = false) (h : exec c s = .next s') :
    Planes s s' := by
  obtain ⟨t, s1, hexec, hplanes⟩ := exec_planes c hc s
  cases h.symm.trans hexec
  exact ⟨fun m => (hplanes.plane m).trans (s.at_plane i t m)⟩

/-- A cell at rest, of which a slew of 1 ns is still to be worked off. -/
def slewing : Cell := { Cell.reset with toff := -1, slew := 1 }

/-- Cell 0 stands twice in the table of cells. Reads find the entry whose device time slews; below it stands one on the other plane. -/
def listedTwice : State :=
  { State.reset with cells := [(0, slewing), (0, { Cell.reset with fig := { FigState.reset with select := true } })] }

/-- With the slew worked off, the first entry is the default and leaves the table; reads now find the second. -/
theorem at_listedTwice_plane : ((listedTwice.at 4096).cell 0).fig.plane = (none, true) := by decide +kernel

/-- The completion of an FLR that does not run: time moves, and the figure registers are those that time leaves (R336). -/
theorem flrComplete_keeps_fig {t : Nat} {fn : Fin 64} {s : State} (hoff : (s.fn fn).flr = false) :
    Answers (.flrComplete t fn) s (fun s' => ∀ m, (s'.cell m).fig = ((s.at t).cell m).fig) := by
  refine .of_run rfl (if_neg (by simp [hoff])) fun s' h m => ?_
  obtain ⟨n, hc⟩ := h.cell m
  rw [hc]

/-- Refutes O16: the statement speaks of every state, also of one whose table of cells is not canonical. Where a cell is listed twice, the
passing of time alone, by a command that touches no figure, can make reads find the other entry. From canonical tables it holds
(`exec_keeps_planes`). -/
theorem not_aCellKeepsItsActiveFigure : ¬ Obligations.ACellKeepsItsActiveFigure := by
  intro h
  obtain ⟨s', hexec, hfig⟩ := flrComplete_keeps_fig (t := 4096) (fn := 0) (s := listedTwice) (by decide +kernel)
  have hkeeps := h (.flrComplete 4096 0) listedTwice s' nofun nofun nofun nofun nofun nofun nofun nofun hexec 0
  rw [hfig, at_listedTwice_plane] at hkeeps
  exact absurd hkeeps (by decide +kernel)

end Sys2Proof.Machine

/-! ## Figure commands at a cell (R40 to R42, R405) -/

namespace Sys2Proof.Machine

theorem EndsAs.fig {x s' : State} (h : EndsAs x s') (c : Nat) : (s'.cell c).fig = (x.cell c).fig := by
  obtain ⟨n, hc⟩ := h.cell c
  rw [hc]

theorem EndsAs.runs {x s' : State} (h : EndsAs x s') (c : Nat) : (s'.cell c).runs = (x.cell c).runs := by
  obtain ⟨n, hc⟩ := h.cell c
  rw [hc]

theorem Reports.fig {s s' : State} (h : Reports s s') (c : Nat) : (s'.cell c).fig = (s.cell c).fig := by
  obtain ⟨e, p, q, hc⟩ := h.cell c
  rw [hc]

theorem Reports.runs {s s' : State} (h : Reports s s') (c : Nat) : (s'.cell c).runs = (s.cell c).runs := by
  obtain ⟨e, p, q, hc⟩ := h.cell c
  rw [hc]

/-- Two changes of a cell are one. -/
theorem State.onCell_onCell (s : State) (c : Nat) (f g : Cell → Cell) : (s.onCell c f).onCell c g = s.onCell c (fun k => g (f k)) := by
  simp [State.onCell, State.setCell, State.cell]

/-- The command of an identity through its path: the Manager's units, or else the register (R40, R276). -/
def figCmd (code slot : Nat) (who : BitVec 8) : FigCmd := { code := code, slot := slot, who := who, viaReg := who ≠ 0x70 }

/-- A figure command that names cell `c` alone is taken there: its sender may give one and registers answer it, the cell is in service, and
the register has room for it (R40, R405). -/
structure FigTaken (u : State) (who mask : BitVec 8) (c : Nat) : Prop where
  reg   : u.regUp who = true
  ident : topIdent who = true
  mask  : allCells.filter (fun m => mask.getLsbD m) = [c]
  up    : u.cellUp c = true
  room  : (((u.cell c).fig.cmds).filter (·.viaReg)).length < 4

theorem FigTaken.figCommand {u : State} {who mask : BitVec 8} {c : Nat} (h : FigTaken u who mask c) (code slot : Nat) (cond : BitVec 64) :
    u.figCommand who mask code slot cond = u.doFigure c code slot cond who := by
  have hroom := Nat.not_le.mpr h.room
  simp [State.figCommand, h.reg, h.mask, h.up, hroom]

/-- A command that ends at once leaves its code and status in the figure registers, and reports (R40, R405). -/
theorem State.figEndWith_reports (s : State) (c : Nat) (cmd : FigCmd) (status head : Nat) :
    Reports (s.onCell c (fun k => k.figEnded cmd.code cmd.slot status)) (s.figEndWith c cmd status head) := by
  have hmail := ite_reports (p := cmd.viaReg = true) (.refl (s.onCell c (fun k => k.figEnded cmd.code cmd.slot status)))
    (State.mail_reports (.refl _) c [(4, pack [(1, 3), (1, cmd.code), (1, status), (5, 0), (8, head)])])
  exact ite_reports hmail (State.err_reports hmail ..)

theorem State.figNow_reports (s : State) (c : Nat) (cmd : FigCmd) (status : Nat) :
    Reports (s.onCell c (fun k => k.figEnded cmd.code cmd.slot status)) (s.figNow c cmd status) := s.figEndWith_reports ..

section
variable {s : State} {c : Nat} {cmd : FigCmd}

theorem doLoad_of_free (h : (s.cell c).fig.slotState cmd.slot = 0 ∨ (s.cell c).fig.slotState cmd.slot = 2) :
    s.doLoad c cmd = (s.setSlot c cmd.slot (if cmd.viaReg then .loading s.host.window (some s.host.loadLen) cmd.who
      else .loading [] none cmd.who)).figBegin c cmd := by
  rw [State.doLoad, if_neg (by rcases h with h | h <;> simp [h])]

theorem doLoad_of_busy (h : (s.cell c).fig.slotState cmd.slot = 1 ∨ (s.cell c).fig.slotState cmd.slot = 3) :
    s.doLoad c cmd = s.figNow c cmd stBUSY := by
  rw [State.doLoad, if_pos (by simpa using h)]

theorem doStage_of_filled (h : (s.cell c).fig.slotState cmd.slot = 2 ∨ (s.cell c).fig.slotState cmd.slot = 3)
    (ha : (s.cell c).fig.arm = none) (hs : (s.cell c).fig.staging = none) : s.doStage c cmd =
      (s.onCell c (fun k => { k with fig := { k.fig with staging := some cmd.slot, idle := none, idleSlot := none } })).figBegin c cmd := by
  rw [State.doStage, if_neg (by rcases h with h | h <;> simp [h, ha, hs]), if_neg (by rcases h with h | h <;> simp [h])]

theorem doStage_of_empty (h : (s.cell c).fig.slotState cmd.slot = 0) (ha : (s.cell c).fig.arm = none)
    (hs : (s.cell c).fig.staging = none) : s.doStage c cmd = s.figNow c cmd stEMPTY := by
  rw [State.doStage, if_neg (by simp [h, ha, hs]), if_pos h]

theorem doDrop_of_resident (h : (s.cell c).fig.slotState cmd.slot = 2) :
    s.doDrop c cmd = (s.setSlot c cmd.slot .empty).figNow c cmd stDONE := by
  rw [State.doDrop, if_neg (by simp [h]), if_neg (by simp [h])]

theorem doDrop_of_empty (h : (s.cell c).fig.slotState cmd.slot = 0) : s.doDrop c cmd = s.figNow c cmd stEMPTY := by
  rw [State.doDrop, if_neg (by simp [h]), if_pos h]

end

/-- What a figure command of a top identity does, by its code. -/
theorem doFigure_eq {u : State} {c slot : Nat} {who : BitVec 8} (hident : topIdent who = true) (hslot : slot ≤ 3) (cond : BitVec 64) :
    u.doFigure c 1 slot cond who = u.doLoad c (figCmd 1 slot who) ∧ u.doFigure c 2 slot cond who = u.doStage c (figCmd 2 slot who) ∧
    u.doFigure c 3 slot cond who = u.doArm c (figCmd 3 slot who) cond ∧ u.doFigure c 4 slot cond who = u.doDisarm c (figCmd 4 slot who) ∧
    u.doFigure c 5 slot cond who = u.doDrop c (figCmd 5 slot who) := by
  simp [State.doFigure, hident, Nat.not_lt.mpr hslot, figCmd]

/-- A command that is taken answers what its work at the cell leaves. -/
theorem FigTaken.answers {t c code slot : Nat} {who mask : BitVec 8} {cond : BitVec 64} {s x : State} {P : State → Prop} {i : Instr}
    (h : FigTaken (s.at t) who mask c) (he : exec i s = .next (s.run t (fun s => s.figCommand who mask code slot cond)))
    (hx : (s.at t).doFigure c code slot cond who = x) (hP : ∀ s', EndsAs x s' → P s') : Answers i s P :=
  .of_run he ((h.figCommand ..).trans hx) hP

/-- Settles O5, command by command: what each does at the cell follows from the state of its slot, and what then ends reports. -/
theorem slotsAreLoadedStagedAndDropped : Obligations.SlotsAreLoadedStagedAndDropped := by
  intro t who mask slot c s u hreg hident hslot hmask hup hroom cmd f
  have h : FigTaken u who mask c := ⟨hreg, hident, hmask, hup, hroom⟩
  obtain ⟨hload, hstage, -, -, hdrop⟩ := doFigure_eq (u := u) (c := c) hident hslot 0
  have ended (x : State) (code status : Nat) {s' : State} (hs' : EndsAs (x.figNow c (figCmd code slot who) status) s') :
      Reports (x.onCell c (fun k => k.figEnded code slot status)) s' := (x.figNow_reports ..).trans hs'.reports
  refine ⟨fun hst => ?load, fun hst => ?busy, fun hst ha hs => ?stage, fun hst => ?drop, fun hst ha hs => ⟨?stageEmpty, ?dropEmpty⟩⟩
  case load =>
    refine h.answers rfl (hload.trans (doLoad_of_free hst)) fun s' hs' => ?_
    rw [State.setSlot, State.figBegin, State.onCell_onCell] at hs'
    rw [hs'.fig, State.cell_onCell_same]
    refine ⟨rfl, ?_, fun n hn => SMap.get_set_other _ _ _ hn, _, hs'.silent⟩
    by_cases hm : who = 0x70 <;> simp [figCmd, hm]
  case busy => exact h.answers rfl (hload.trans (doLoad_of_busy hst)) fun s' hs' => ended u 1 stBUSY hs'
  case stage =>
    refine h.answers rfl (hstage.trans (doStage_of_filled hst ha hs)) fun s' hs' => ?_
    rw [hs'.silent, State.figBegin, State.onCell_onCell]
    rfl
  case drop =>
    refine h.answers rfl (hdrop.trans (doDrop_of_resident hst)) fun s' hs' => ?_
    have hr := ended _ 5 stDONE hs'
    rw [State.setSlot, State.onCell_onCell] at hr
    refine ⟨?_, hr⟩
    rw [hr.fig, State.cell_onCell_same]
    simp [Cell.figEnded, FigState.slotState, figCmd]
  case stageEmpty => exact h.answers rfl (hstage.trans (doStage_of_empty hst ha hs)) fun s' hs' => ended u 2 stEMPTY hs'
  case dropEmpty => exact h.answers rfl (hdrop.trans (doDrop_of_empty hst)) fun s' hs' => ended u 5 stEMPTY hs'

end Sys2Proof.Machine

/-! ## ARM and DISARM (R43, R50, R52) -/

namespace Sys2Proof.Machine

theorem Cell.run_onRun (k : Cell) (t : Nat) (f : TenantRun → TenantRun) (d : Nat) :
    (k.onRun t f).run d = if d = t then f (k.run t) else k.run d := SMap.get_set ..

/-- Admission closes tenant after tenant, and what is closed stays so. -/
theorem closed_foldl_onRun (l : List Nat) (k : Cell) (d : Nat) (hd : d ∈ l ∨ (k.run d).closed = true) :
    ((l.foldl (fun (k : Cell) t => k.onRun t (fun r => { r with closed := true })) k).run d).closed = true := by
  induction l generalizing k with
  | nil => simpa using hd
  | cons t l ih =>
    refine ih _ ?_
    rw [Cell.run_onRun]
    rcases hd with hd | hd
    · rcases List.mem_cons.mp hd with rfl | hd
      · exact .inr (by rw [if_pos rfl])
      · exact .inl hd
    · right
      split
      · rfl
      · exact hd

theorem foldl_onRun_fig (l : List Nat) (k : Cell) (f : TenantRun → TenantRun) :
    (l.foldl (fun (k : Cell) t => k.onRun t f) k).fig = k.fig := by
  induction l generalizing k with
  | nil => rfl
  | cons t l ih => exact ih _

/-- Admission is closed for every discontinuous tenant, and the figure registers stay (R50). -/
theorem Cell.closeFor_closed (k : Cell) {d : Nat} (hd : d ∈ k.discontinuous) : (k.closeFor.run d).closed = true :=
  closed_foldl_onRun _ k d (.inl hd)

@[simp] theorem Cell.closeFor_fig (k : Cell) : k.closeFor.fig = k.fig := foldl_onRun_fig ..

/-- Admission of every tenant is open (R50). -/
def Cell.Open (k : Cell) : Prop := k.runs.all (fun r => !r.2.closed) = true

theorem Cell.clearArm_open (k : Cell) : k.clearArm.Open := by
  simp only [Cell.Open, Cell.clearArm, Cell.reopen, SMap.mapV, List.all_filter, List.all_map]
  simp

/-- The cell with its ARM pending under a condition (R43). -/
def Cell.armed (k : Cell) (cmd : FigCmd) (cond : BitVec 64) : Cell :=
  { k with fig := { k.fig with arm := some cond, cmds := k.fig.cmds.filter (fun x => x.code ≠ 3) ++ [cmd] } }

section
variable {s : State} {c : Nat} {cmd : FigCmd} {cond : BitVec 64} {g : Figure}

theorem toArm_of_idle {f : FigState} (hi : f.idle = some g) (hs : f.staging = none) : f.toArm = some g := by
  rw [FigState.toArm, hs]
  exact hi

theorem doArm_of_level (hi : (s.cell c).fig.idle = some g) (hs : (s.cell c).fig.staging = none) (hn : s.noFlip = false)
    (hl : g.level ≤ s.seating.level) : s.doArm c cmd cond = s.onCell c (fun k => (k.armed cmd cond).closeFor) := by
  simp only [State.doArm, toArm_of_idle hi hs, Nat.not_lt.mpr hl, if_false, State.cell_onCell_same, hs, Option.isNone_none, if_true, hn,
    Bool.false_eq_true]
  exact s.onCell_onCell c ..

theorem doArm_of_above_level (hi : (s.cell c).fig.idle = some g) (hs : (s.cell c).fig.staging = none) (hl : s.seating.level < g.level) :
    s.doArm c cmd cond = s.figNow c cmd stLEVEL := by
  simp only [State.doArm, toArm_of_idle hi hs, hl, if_true]

theorem doDisarm_of_armed (ha : (s.cell c).fig.arm.isSome = true) :
    s.doDisarm c cmd = (s.onCell c Cell.clearArm).figNow c cmd stDONE := by
  rw [State.doDisarm, if_neg (by simpa [Option.isSome_iff_ne_none] using ha)]

theorem doDisarm_of_none (ha : (s.cell c).fig.arm = none) : s.doDisarm c cmd = s.figNow c cmd stEMPTY := by
  rw [State.doDisarm, if_pos (by simp [ha])]

end

/-- Settles O6: an ARM at the level pends and closes admission, one above it ends; a DISARM clears what pends. -/
theorem armPendsAndDisarmClears : Obligations.ArmPendsAndDisarmClears := by
  intro t who mask cond g c s u hreg hident hmask hup hroom arm
  have h : FigTaken u who mask c := ⟨hreg, hident, hmask, hup, hroom⟩
  obtain ⟨-, -, harm, -, -⟩ := doFigure_eq (u := u) (c := c) hident (Nat.zero_le 3) cond
  obtain ⟨-, -, -, hdisarm, -⟩ := doFigure_eq (u := u) (c := c) hident (Nat.zero_le 3) 0
  refine ⟨fun hi hs hn hl => ?pends, fun hi hs hl => ?above, fun ha => ?clears, fun ha => ?empty⟩
  case pends =>
    refine h.answers rfl (harm.trans (doArm_of_level hi hs hn hl)) fun s' hs' => ?_
    have hfig : (s'.cell c).fig = ((u.cell c).armed arm cond).fig := by
      rw [hs'.fig, State.cell_onCell_same, Cell.closeFor_fig]
      rfl
    rw [hfig]
    refine ⟨rfl, by simp [Cell.armed], fun d hd => ?_, _, hs'.silent⟩
    rw [Cell.run, hs'.runs, State.cell_onCell_same]
    exact Cell.closeFor_closed _ hd
  case above =>
    exact h.answers rfl (harm.trans (doArm_of_above_level hi hs hl)) fun s' hs' => (u.figNow_reports ..).trans hs'.reports
  case clears =>
    refine h.answers rfl (hdisarm.trans (doDisarm_of_armed ha)) fun s' hs' => ?_
    have hr := (State.figNow_reports ..).trans hs'.reports
    rw [State.onCell_onCell] at hr
    refine ⟨?_, ?_, hr⟩
    · rw [hr.fig, State.cell_onCell_same]
      rfl
    · rw [hr.runs, State.cell_onCell_same]
      exact (u.cell c).clearArm_open
  case empty => exact h.answers rfl (hdisarm.trans (doDisarm_of_none ha)) fun s' hs' => (u.figNow_reports ..).trans hs'.reports

end Sys2Proof.Machine

/-! ## LOAD and staging end (R39, R41, R42) -/

namespace Sys2Proof.Machine

/-- The figure registers of a cell without what the end of a command writes there: the list of commands and the last command's status. -/
def FigState.kept (f : FigState) : FigState := { f with cmds := [], seq := 0, lastCode := 0, lastStatus := 0, lastSlot := 0 }

/-- A field that the end of a command does not write. -/
theorem FigState.field_of_kept {f g : FigState} (h : f.kept = g.kept) {γ : Type} (π : FigState → γ) (hπ : ∀ f : FigState, π f.kept = π f) :
    π f = π g := by
  rw [← hπ f, h, hπ]

/-- The end of a command in progress takes it off the list, writes the last command's registers, and reports (R405). -/
theorem State.figEnd_reports (s : State) (c : Nat) (cmd : FigCmd) (status : Nat) :
    Reports (s.onCell c (fun k => { k with fig := { k.fig with cmds := k.fig.cmds.erase cmd } }.figEnded cmd.code cmd.slot status))
      (s.figEnd c cmd status) := by
  have hr := State.figEndWith_reports (s.onCell c (fun k => { k with fig := { k.fig with cmds := k.fig.cmds.erase cmd } })) c cmd status
    (cmd.code % 256 + 256 * (cmd.slot % 256))
  rwa [State.onCell_onCell] at hr

theorem State.figEnd_kept (s : State) (c : Nat) (cmd : FigCmd) (status d : Nat) :
    ((s.figEnd c cmd status).cell d).fig.kept = (s.cell d).fig.kept := by
  rw [(s.figEnd_reports ..).fig, State.cell_onCell]
  split
  · subst_vars
    rfl
  · rfl

theorem foldl_figEnd_kept (l : List FigCmd) (s : State) (c status d : Nat) :
    ((l.foldl (fun s x => s.figEnd c x status) s).cell d).fig.kept = (s.cell d).fig.kept := by
  induction l generalizing s with
  | nil => rfl
  | cons cmd l ih => exact (ih _).trans (s.figEnd_kept ..)

theorem State.figEndAll_kept (s : State) (c code status d : Nat) : ((s.figEndAll c code status).cell d).fig.kept = (s.cell d).fig.kept :=
  foldl_figEnd_kept ..

/-- The figure that a verification found is resident in its slot; a failed one leaves the slot empty (R42). -/
def verified (b : SMap Payload) (g : Option Figure) : Slot4 := (g.map (fun g => Slot4.resident g b)).getD .empty

theorem loadVerifyDone_answers {t slot delivered : Nat} {cell : Fin 8} {b : SMap Payload} {len : Option Nat} {who : BitVec 8} {s : State}
    {v : Nat × Option Figure} {P : State → Prop} (hload : ((s.at t).cell cell).fig.slots.get .empty slot = .loading b len who)
    (hup : (s.at t).cellUp cell = true) (hv : (s.at t).verifyBlocks cell (len.getD delivered) b = v)
    (hP : ∀ cmd s', EndsAs (((s.at t).setSlot cell slot (verified b v.2)).figEnd cell cmd v.1) s' → P s') :
    Answers (.loadVerifyDone t cell slot delivered) s P := by
  obtain ⟨cmd, hcmd⟩ : ∃ cmd, cmd = (((s.at t).cell cell).fig.cmds.find? (fun x => x.code = 1 && x.slot = slot)).getD
    { code := 1, slot := slot, who := who, viaReg := len.isSome } := ⟨_, rfl⟩
  refine .of_run rfl ?_ (hP cmd)
  simp only [hload, hup, hv, Bool.not_true, Bool.false_eq_true, if_false, hcmd]
  obtain ⟨status, g⟩ := v
  cases g <;> rfl

/-- The idle plane of a cell holds the figure that was staged from slot `n` (R41). -/
def Cell.afterStaging (k : Cell) (n : Nat) (g : Figure) : Cell :=
  { k with fig := { k.fig with staging := none, idle := some g, idleSlot := some n } }

theorem stagingComplete_answers {t n : Nat} {cell : Fin 8} {g : Figure} {s : State} {P : State → Prop}
    (hs : ((s.at t).cell cell).fig.staging = some n) (hg : ((s.at t).cell cell).fig.toArm = some g)
    (ha : ((s.at t).cell cell).fig.arm = none)
    (hP : ∀ s', EndsAs (((s.at t).onCell cell (fun k => k.afterStaging n g)).figEndAll cell 2 stDONE) s' → P s') :
    Answers (.stagingComplete t cell) s P := by
  refine .of_run rfl ?_ hP
  simp only [hs, hg, ha, Option.isSome_none, Bool.false_eq_true, if_false]
  rfl

/-- Settles O7: what the last byte of a LOAD and the end of staging leave in slot and plane stays as their commands end. -/
theorem loadVerifiesAndStagingEnds : Obligations.LoadVerifiesAndStagingEnds := by
  refine ⟨fun t slot delivered cell b len who s hload hup => ?verified, fun t n cell g s hs hg ha => ?staged⟩
  case verified =>
    refine loadVerifyDone_answers hload hup rfl fun cmd s' h => ?_
    rw [h.fig, (State.figEnd_reports ..).fig]
    simp [State.setSlot, Cell.figEnded, verified]
  case staged =>
    refine stagingComplete_answers hs hg ha fun s' h => ?_
    have hkept := State.figEndAll_kept ((s.at t).onCell cell (fun k => k.afterStaging n g)) cell 2 stDONE cell
    rw [State.cell_onCell_same] at hkept
    rw [h.fig]
    exact ⟨FigState.field_of_kept hkept FigState.idle (fun _ => rfl), FigState.field_of_kept hkept FigState.idleSlot (fun _ => rfl),
      FigState.field_of_kept hkept FigState.staging (fun _ => rfl), FigState.field_of_kept hkept FigState.active (fun _ => rfl), h.silent⟩

end Sys2Proof.Machine

/-! ## What leaves the figure registers of every cell alone -/

namespace Sys2Proof.Machine

/-- Every cell's figure registers are as they were. -/
structure SameFigs (s s' : State) : Prop where
  fig : ∀ c, (s'.cell c).fig = (s.cell c).fig

theorem SameFigs.refl (s : State) : SameFigs s s := ⟨fun _ => rfl⟩

theorem SameFigs.trans {a b c : State} (h : SameFigs a b) (g : SameFigs b c) : SameFigs a c := ⟨fun d => (g.fig d).trans (h.fig d)⟩

theorem SameFigs.of_cells {s s' : State} (h : s'.cells = s.cells) : SameFigs s s' := ⟨fun c => by rw [State.cell, State.cell, h]⟩

theorem Reports.sameFigs {s s' : State} (h : Reports s s') : SameFigs s s' := ⟨h.fig⟩

section
variable (s : State)

theorem ite_sameFigs {p : Prop} [Decidable p] {a b : State} (ha : SameFigs s a) (hb : SameFigs s b) : SameFigs s (if p then a else b) := by
  split <;> assumption

theorem foldl_sameFigs {β : Type} (l : List β) {f : State → β → State} (hf : ∀ x b, SameFigs x (f x b)) : SameFigs s (l.foldl f s) := by
  induction l generalizing s with
  | nil => exact .refl s
  | cons b l ih => exact (hf s b).trans (ih _)

theorem State.setCell_sameFigs (c : Nat) {v : Cell} (hv : v.fig = (s.cell c).fig) : SameFigs s (s.setCell c v) := by
  refine ⟨fun d => ?_⟩
  rw [State.cell_setCell]
  split
  · subst_vars
    exact hv
  · rfl

theorem State.onCell_sameFigs (c : Nat) {f : Cell → Cell} (hf : ∀ k, (f k).fig = k.fig) : SameFigs s (s.onCell c f) :=
  s.setCell_sameFigs c (hf _)

/-! ### Tile writes (R147, R159) -/

theorem Cell.makeRoom_fig {k k1 : Cell} {t : Nat} {busy : List Nat} (h : k.makeRoom t busy = some k1) : k1.fig = k.fig := by
  unfold Cell.makeRoom at h
  split at h
  · cases h
    rfl
  · split at h <;> cases h
    rfl

theorem Cell.placeTile_fig {k : Cell} {t : Tensor} {a : Nat} {x : Tile} {busy : List Nat} {r : Cell × TileEnt}
    (h : k.placeTile t a x busy = some r) : r.1.fig = k.fig := by
  have slow {p q v : Prop} [Decidable p] [Decidable q] [Decidable v] {e e' : TileEnt}
      (h : (if p then if q then some (k, e) else none else if v then some (k, e') else none) = some r) : r.1.fig = k.fig := by
    repeat' split at h
    all_goals cases h
    all_goals rfl
  unfold Cell.placeTile at h
  dsimp only at h
  split at h
  · cases h
    rfl
  · split at h
    · exact slow h
    · split at h
      next hroom =>
        cases h
        exact Cell.makeRoom_fig hroom
      · exact slow h

theorem Cell.writeTile_fig {k k1 : Cell} {t : Tensor} {a : Nat} {x : Tile} {busy : List Nat} (h : k.writeTile t a x busy = some k1) :
    k1.fig = k.fig := by
  unfold Cell.writeTile at h
  split at h <;> cases h
  rename_i hplaced
  exact (Cell.placeTile_fig hplaced :)

theorem State.tierPut_sameFigs (c tenant : Nat) (ident : BitVec 24) (seq : Nat) (x : Slot) (busy : List Nat) :
    SameFigs s (s.tierPut c tenant ident seq x busy).1 := by
  have full (h : Nat) (t : Tensor) : SameFigs s (s.noRoom h t) := (State.err_reports (.refl s) ..).sameFigs
  unfold State.tierPut
  split
  · exact .refl s
  · split
    · exact .refl s
    · split
      · exact full ..
      next k1 h1 =>
        have hk1 := Cell.writeTile_fig h1
        split
        · dsimp only
          split
          · exact full ..
          next k2 h2 => exact s.setCell_sameFigs _ ((Cell.writeTile_fig h2).trans hk1)
        · exact s.setCell_sameFigs _ hk1

theorem State.tierWrite_sameFigs (c tenant : Nat) (ident : BitVec 24) (seq : Nat) (x : Slot) (busy : List Nat) :
    SameFigs s (s.tierWrite c tenant ident seq x busy).1 := by
  unfold State.tierWrite
  split
  · exact .refl s
  · exact s.tierPut_sameFigs ..

theorem State.pokeTile_sameFigs (c tenant : Nat) (ident : BitVec 24) (i off n data : Nat) :
    SameFigs s (s.pokeTile c tenant ident i off n data).1 := by
  unfold State.pokeTile
  split
  · exact .refl s
  · exact s.tierWrite_sameFigs ..

theorem State.pokeFrom_sameFigs (fuel c tenant : Nat) (ident : BitVec 24) (off n data : Nat) :
    SameFigs s (State.pokeFrom fuel s c tenant ident off n data).1 := by
  induction fuel generalizing s off n data with
  | zero => exact .refl s
  | succ fuel ih =>
    unfold State.pokeFrom
    split
    · exact .refl s
    · exact (s.pokeTile_sameFigs ..).trans (ih ..)

/-! ### Records of requests that end (R190, R195, R341) -/

theorem State.dropRec_sameFigs (n : Nat) : SameFigs s (s.dropRec n) := by
  have drop (e : Ev) : SameFigs s ((s.onFn n (fun h => { h with lastDrop := some s.now })).errLocal 0 e) :=
    .trans (b := s.onFn n (fun h => { h with lastDrop := some s.now })) (.of_cells rfl) (State.errLocal_reports (.refl _) 0 e).sameFigs
  unfold State.dropRec
  dsimp only
  split
  · exact ite_sameFigs s (.refl s) (drop _)
  · exact drop _

theorem State.recDone_sameFigs (r : QRec) : SameFigs s (s.recDone r) := by
  unfold State.recDone
  split
  · exact .refl s
  · exact ite_sameFigs s (.of_cells rfl) (.of_cells rfl)

theorem State.queueRec_sameFigs (n : Nat) (r : QRec) : SameFigs s (s.queueRec n r) :=
  ite_sameFigs s (.of_cells rfl) (ite_sameFigs s ((s.recDone_sameFigs r).trans (State.dropRec_sameFigs ..)) (s.recDone_sameFigs r))

theorem State.endRecord_sameFigs (c i : Nat) (e : ReqEntry) (r : Nat) : SameFigs s (s.endRecord c i e r) := by
  have ring (n : Nat) (q : QRec) : SameFigs s (if n = 0x70 then s.mail c [(2, r)] else s.queueRec n q) :=
    ite_sameFigs s (State.mail_reports (.refl s) ..).sameFigs (s.queueRec_sameFigs ..)
  unfold State.endRecord
  dsimp only
  split
  · exact ite_sameFigs s (ring ..) (s.pokeFrom_sameFigs ..)
  · exact ring ..

theorem State.endRequest_sameFigs (c i code : Nat) (causes : List Nat) : SameFigs s (s.endRequest c i code causes) := by
  have told := foldl_sameFigs s causes fun x y => (State.err_reports (.refl x) c
    { cls := clsVOID, sev := 1, unit := 5, tenant := ((s.cell c).entry i).tenant, reason := y, obj := i,
      detail := ((s.cell c).entry i).desc.rqTag }).sameFigs
  unfold State.endRequest
  refine .trans (told.trans (foldl_sameFigs _ _ fun x m => ?_)) (State.endRecord_sameFigs ..)
  exact x.onCell_sameFigs m fun _ => rfl

/-- In stop mode the affected requests are voided; no figure register changes with that (R50). -/
theorem State.stopNow_sameFigs (c : Nat) : SameFigs s (s.stopNow c) := by
  have voided (m : Nat) (tenants : List Nat) (why : Nat) : SameFigs s (s.emptySeal m tenants why) :=
    foldl_sameFigs s _ fun x y => x.endRequest_sameFigs ..
  refine ite_sameFigs s (.refl s) ((voided ..).trans (foldl_sameFigs _ _ fun x m => ?_))
  exact x.onCell_sameFigs m fun _ => rfl

end

end Sys2Proof.Machine

/-! ## The plane swap (R43, R45, R50) -/

namespace Sys2Proof.Machine

theorem Planes.refl (s : State) : Planes s s := ⟨fun _ => rfl⟩

theorem EndsAs.plane {x s' : State} (h : EndsAs x s') (c : Nat) : (s'.cell c).fig.plane = (x.cell c).fig.plane := by rw [h.fig]

/-- A swap that is due has its ARM pending. -/
theorem Cell.swapDue_arm {k : Cell} {now : Nat} (h : k.swapDue now = true) : k.fig.arm.isSome = true := by
  cases ha : k.fig.arm with
  | none => simp [Cell.swapDue, Cell.armMet, ha] at h
  | some cond => rfl

section
variable (s : State) (c : Nat)

/-- An abandoned swap: no ARM pends, admission is open, and every cell keeps its planes (R45, R50). -/
structure Abandoned (s s' : State) (c : Nat) : Prop where
  arm    : (s'.cell c).fig.arm = none
  opened : (s'.cell c).Open
  planes : Planes s s'

theorem State.abandonSwap_abandoned (ha : (s.cell c).fig.arm.isSome = true) : Abandoned s (s.abandonSwap c) c := by
  have he : s.abandonSwap c = (s.figEndAll c 3 stABANDONED).onCell c Cell.clearArm :=
    if_neg (by simpa [Option.isSome_iff_ne_none] using ha)
  refine ⟨?_, ?_, State.abandonSwap_planes (.refl s) c⟩ <;> rw [he, State.cell_onCell_same]
  · rfl
  · exact Cell.clearArm_open _

/-- What the swap does up to the flip, and after it, leaves the planes (R45). -/
theorem State.swapTo_planes (g : Figure) :
    ∃ s1, Planes s s1 ∧ Planes (s1.onCell c (fun k => k.flip g)) (s.swapTo c g) := by
  have sent := ite_planes (p := g.places.isEmpty = true) (.refl s) (State.shuffle_planes (.refl s) c g)
  refine ⟨_, State.crossTenants_planes sent c (((s.cell c).fig.active).getD g.blank) g, ?_⟩
  unfold State.swapTo
  dsimp only
  refine State.boundary_planes (State.limitNotice_planes ?_ _) c
  refine State.onCell_planes (State.figEndAll_planes ?_ c 3 stDONE) c fun k p h => Cell.clearArm_plane h
  exact State.onCell_planes (State.bindPlane_planes (.refl _) c g) c fun k p h => h

/-- The flip alone makes figure `g` active and inverts the plane select, on the one cell. -/
theorem State.swapTo_plane (g : Figure) : ((s.swapTo c g).cell c).fig.plane = (some g, !(s.cell c).fig.select) ∧
    ∀ m, m ≠ c → ((s.swapTo c g).cell m).fig.plane = (s.cell m).fig.plane := by
  obtain ⟨s1, hbefore, hafter⟩ := s.swapTo_planes c g
  refine ⟨?_, fun m hm => ?_⟩
  · have hselect : (s1.cell c).fig.select = (s.cell c).fig.select := congrArg Prod.snd (hbefore.plane c)
    rw [hafter.plane, State.cell_onCell_same, ← hselect]
    rfl
  · rw [hafter.plane, State.cell_onCell, if_neg hm, hbefore.plane]

end

section
variable {t : Nat} {cell : Fin 8} {checkOk : Bool} {g : Figure} {s : State} {P : State → Prop}

/-- Every step of the group that a swap in stop mode would have to seal first is over (R50). -/
def NoStopStep (u : State) (c : Nat) (g : Figure) : Prop :=
  g.stop = false ∨ (u.cell c).affected = [] ∨ ∀ m ∈ u.groupOf c, (u.cell m).step.running = false

/-- A swap that is due at its cell's boundary (R43). -/
structure SwapReady (u : State) (c : Nat) (g : Figure) : Prop where
  idle : (u.cell c).fig.idle = some g
  up   : u.cellUp c = true
  rest : (u.cell c).step.running = false
  due  : (u.cell c).swapDue (u.time c) = true

/-- A due swap is abandoned while PWR_FAIL or HALT_N stands; else the plane's check decides (R45, R369, R371). -/
theorem planeSwap_answers (h : SwapReady (s.at t) cell g)
    (hP : ∀ s', EndsAs (if (s.at t).noFlip = true then (s.at t).abandonSwap cell
      else if checkOk = true then ((s.at t).stopNow cell).swapTo cell g else ((s.at t).stopNow cell).abandonSwap cell) s' → P s')
    (hcan : (s.at t).noFlip = false → ((s.at t).cell cell).power.state = .c0 ∧ NoStopStep (s.at t) cell g) :
    Answers (.planeSwap t cell checkOk) s P := by
  refine .of_run rfl ?_ hP
  simp only [h.idle, h.up, h.rest, h.due, Bool.not_true, Bool.or_self, Bool.false_eq_true, if_false]
  split
  · rfl
  next hn =>
    obtain ⟨hawake, hstop⟩ := hcan (by simpa using hn)
    rw [if_neg (by simp [hawake]), if_neg ?_]
    rcases hstop with hstop | hstop | hstop
    · simp [hstop]
    · simp [hstop]
    · simpa using fun _ _ => hstop

end

/-- Settles O17: a due swap that may flip does so once the step that stop mode calls for has sealed; one that may not is abandoned. -/
theorem aSwapFlipsThePlanesOfItsCellAlone : Obligations.ASwapFlipsThePlanesOfItsCellAlone := by
  intro t cell checkOk g s u k hidle hup hrest hdue
  have h : SwapReady u cell g := ⟨hidle, hup, hrest, hdue⟩
  have stopped := State.stopNow_planes (.refl u) cell
  refine ⟨fun hn hawake hok hstop => ?flips, fun hwhy => ?abandoned⟩
  case flips =>
    refine planeSwap_answers h (fun s' hs' => ?_) fun _ => ⟨hawake, hstop⟩
    rw [if_neg (by simp [u, hn]), if_pos hok] at hs'
    obtain ⟨hflip, hothers⟩ := (u.stopNow cell).swapTo_plane cell g
    have hselect : ((u.stopNow cell).cell cell).fig.select = k.fig.select := congrArg Prod.snd (stopped.plane cell)
    refine ⟨?_, fun m hm => ?_⟩
    · rw [hs'.plane, hflip, hselect]
    · rw [hs'.plane, hothers m hm, stopped.plane]
  case abandoned =>
    have harm := Cell.swapDue_arm hdue
    have habandoned : Abandoned u (if u.noFlip = true then u.abandonSwap cell
        else if checkOk = true then (u.stopNow cell).swapTo cell g else (u.stopNow cell).abandonSwap cell) cell := by
      by_cases hn : u.noFlip = true
      · rw [if_pos hn]
        exact u.abandonSwap_abandoned cell harm
      · obtain ⟨-, hbad, -⟩ := hwhy.resolve_left hn
        obtain ⟨ha, ho, hp⟩ := (u.stopNow cell).abandonSwap_abandoned cell (by rwa [(u.stopNow_sameFigs cell).fig])
        rw [if_neg hn, if_neg (by simp [hbad])]
        exact ⟨ha, ho, ⟨fun m => (hp.plane m).trans (stopped.plane m)⟩⟩
    refine planeSwap_answers h (fun s' hs' => ?_) fun hn => ?_
    · obtain ⟨ha, ho, hp⟩ := habandoned
      rw [hs'.fig, hs'.runs]
      exact ⟨ha, ho, fun m => by rw [hs'.plane, hp.plane]⟩
    · obtain ⟨hawake, -, hstop⟩ := hwhy.resolve_left (by simp [u, hn])
      exact ⟨hawake, hstop⟩

end Sys2Proof.Machine

/-! ## Writes of a binding register (R47, R48, R344, R401) -/

namespace Sys2Proof.Machine

/-- A binding register takes its value at its channel's cell (R47). -/
def State.bindTo (s : State) (n : Nat) (b : BindReg) : State :=
  s.onCell (chanCell n) (fun k => { k with binds := k.binds.set BindReg.reset (n % 8) b })

/-- The channel without words, doorbells and counts (R48). -/
def State.cleared (s : State) (n : Nat) : State := s.setChan n { Chan.reset with lastRec := (s.chan n).lastRec }

/-- A binding of the same pair as before, or none again: the channel keeps its words (R48). -/
def BindReg.SamePair (old b : BindReg) : Prop := old.valid = b.valid ∧ (b.valid = false ∨ (old.idA = b.idA ∧ old.idB = b.idB))

@[simp] theorem State.binding_bindTo (s : State) (n : Nat) (b : BindReg) : (s.bindTo n b).binding n = b := by
  simp [State.binding, State.bindTo]

theorem Reports.binding {s s' : State} (h : Reports s s') (n : Nat) : s'.binding n = s.binding n := by
  rw [State.binding, h.hostCalm.binds]
  rfl

section
variable (s : State) {n : Nat} {b : BindReg}

theorem rebind_of_samePair (h : (s.binding n).SamePair b) : s.rebind n b = s.bindTo n b := by
  have hc : ((s.binding n).valid = b.valid && (!b.valid || ((s.binding n).idA = b.idA && (s.binding n).idB = b.idB))) = true := by
    simpa [BindReg.SamePair] using h
  simp only [State.rebind, hc, if_true]
  rfl

theorem rebind_of_newPair (h : ¬(s.binding n).SamePair b) : Reports ((s.cleared n).bindTo n b) (s.rebind n b) := by
  have hc : ((s.binding n).valid = b.valid && (!b.valid || ((s.binding n).idA = b.idA && (s.binding n).idB = b.idB))) = false := by
    simpa [BindReg.SamePair] using h
  simp only [State.rebind, hc, Bool.false_eq_true, if_false]
  exact ite_reports (.refl _) (State.err_reports (.refl _) ..)

/-- A discarded write of a register changes nothing but the record of it (R401). -/
theorem State.discard_reports (off : Nat) : Reports s (s.discard off) :=
  ite_reports (.refl s) (State.err_reports (State.onCell_reports (.refl s) 0 fun _ => ⟨_, _, _, rfl⟩) ..)

end

/-- Settles O18: an unlocked register takes the value, and the channel is emptied where the pair changes; any other write is discarded. -/
theorem bindingRegisterWriteWhileUnlocked : Obligations.BindingRegisterWriteWhileUnlocked := by
  intro t who chan value s u b old same bound hreg
  have hup : ¬(!u.regUp who) = true := by simp [hreg]
  refine ⟨fun hfree hwho => ?written, fun hno => ?discarded⟩
  case written =>
    have htakes : ¬((u.binding chan).locked || !(who = 0x00 || who = 0x40)) = true := by
      simpa [old, or_iff_not_imp_left] using ⟨hfree, hwho.resolve_left⟩
    have hwrite : u.writeBind who chan value = u.rebind chan b := (if_neg hup).trans (if_neg htakes)
    refine ⟨fun hsame => ?_, fun hnew => ?_⟩
    · refine .of_run rfl (hwrite.trans (rebind_of_samePair u hsame)) fun s' h => ⟨?_, h.reports⟩
      rw [h.reports.binding, State.binding_bindTo]
    · refine .of_run rfl hwrite fun s' h => ?_
      have hr := (rebind_of_newPair u hnew).trans h.reports
      exact ⟨by rw [hr.binding, State.binding_bindTo], hr⟩
  case discarded =>
    have hkeeps : ((u.binding chan).locked || !(who = 0x00 || who = 0x40)) = true := by simpa [old] using hno
    exact .of_run rfl ((if_neg hup).trans (if_pos hkeeps)) fun s' h => (u.discard_reports _).trans h.reports

end Sys2Proof.Machine

/-! ## Frames that bring tiles, requests and sync messages (R205, R273, R274, R309) -/

namespace Sys2Proof.Machine

theorem Core.engine_setEngine_same (x : Core) (e : Nat) (o : Option EngineOp) : (x.setEngine e o).engine e = o := SMap.get_set_same ..

section
variable {s : State} {c : Nat} {f : Frame} {x : Slot}

/-- A tile that comes whole and whose check value holds goes where its kind says (R273). -/
theorem takeTile_of_good (hy : frameSlot f = some x) (hok : x.ok = true) :
    (f.tkind = 0 → s.takeTile c f = s.tensorTile c f x) ∧ (f.tkind = 1 → s.takeTile c f = s.figureBlock c f) ∧
    (f.tkind = 2 → s.takeTile c f = (s.takePart c (s.framePart c f x) x f.resent).retryParts c) ∧
    (f.tkind = 4 → s.takeTile c f = s.readResponse c f.aux x) := by
  refine ⟨fun h => ?_, fun h => ?_, fun h => ?_, fun h => ?_⟩ <;> simp [State.takeTile, hy, hok, h]

theorem takeTile_of_bad (hk : f.tkind ≠ 3) (hy : ∀ x, frameSlot f = some x → x.ok = false) : s.takeTile c f = s.badTile c f := by
  rw [State.takeTile, if_neg hk]
  split
  · rfl
  next x hx => rw [if_pos (by simp [hy x hx])]

/-- A tile for a tensor that a task holds, on a lane other than the broadcasts' (R147, R262). -/
theorem tensorTile_of_write {s2 : State} {ok : Bool} (h4 : f.lane ≠ 4)
    (h5 : f.lane = 5 → ((s.cell c).lookup f.tenant f.tensor).any (fun y => !y.1.ready) = false)
    (hw : s.tierWrite c f.tenant f.tensor f.tseq x [] = (s2, ok)) :
    s.tensorTile c f x = if ok then s2.frameSignal c f else s2.cause c vCHECK f.tenant none := by
  have hl : (f.lane = 5 && ((s.cell c).lookup f.tenant f.tensor).any (fun y => !y.1.ready)) = false := by
    by_cases h : f.lane = 5
    · simp [h5 h]
    · simp [h]
  simp only [State.tensorTile, hl, Bool.false_eq_true, if_false, h4, hw]

/-- A tile of a broadcast (R259, R260). -/
theorem tensorTile_of_broadcast {s2 : State} {ok : Bool} (h4 : f.lane = 4)
    (hw : s.broadcastIn c f.tenant f.tensor f.tseq x = (s2, ok)) :
    s.tensorTile c f x = if ok then s2.frameSignal c f else s2.cause c vCHECK f.tenant none := by
  simp [State.tensorTile, h4, hw]

/-- A block of a figure whose slot is loading for the sender (R40, R42). -/
theorem figureBlock_of_loading {b : SMap Payload} {who : BitVec 8}
    (hl : (s.cell c).fig.slots.get .empty (bits f.tseq 12 2) = .loading b none who) (hw : who = f.origin) :
    s.figureBlock c f = s.onCell c (fun k => { k with fig := { k.fig with
      slots := k.fig.slots.set .empty (bits f.tseq 12 2)
        (.loading (b.set 0 (f.tseq % 4096) (BitVec.ofNat 32768 (f.p 16 4096))) none who) } }) := by
  simp only [State.figureBlock, hl, ne_eq, hw, not_true, if_false]
  rfl

/-- A tile whose check fails voids the work at its step; what else follows reports (R309). -/
theorem State.badTile_reports (s : State) (far : ¬(f.sseat = s.mySeat ∧ f.scell = c)) :
    Reports (s.causeAt c vCHECK f.tenant (nearStep (s.cell c).step.number f.fstep % 2 ^ 32)) (s.badTile c f) := by
  have hseat : ∀ e, ((s.causeAt c vCHECK f.tenant (nearStep (s.cell c).step.number f.fstep % 2 ^ 32)).err c e).mySeat = s.mySeat :=
    fun e => ((s.causeAt_steady ..).trans (State.err_steady ..)).seat
  exact State.voidFor_reports (State.err_reports (.refl _) ..) _ _ _ _ _ _ _ _ (by rwa [hseat])

/-- A response leaves the MOVE that waits for further tiles with what has come (R273). -/
theorem readResponse_engine {num n j : Nat} {o : EngineOp} (hw : (s.cell c).readWait num = some (n, o, j))
    (hr : o.waits.filter (fun w => w.1 ≠ num) ≠ []) :
    (((s.readResponse c num x).cell c).core n).engine 6 =
      some { o with waits := o.waits.filter (fun w => w.1 ≠ num), got := o.got ++ [(j, x)] } := by
  simp only [State.readResponse, hw]
  split
  next hnil _ => exact absurd hnil hr
  · rw [State.onCore, State.cell_onCell_same, Cell.core_onCore_same]
    exact Core.engine_setEngine_same ..

theorem readResponse_of_none {num : Nat} (hw : (s.cell c).readWait num = none) : s.readResponse c num x = s := by
  simp only [State.readResponse, hw]

/-- One pass over an overflow of a single frame that finds room (R274). -/
theorem retryOvf_singleton {s2 : State} (h : s.syncArrive { frameSync f with cell := c } = some s2) : s.retryOvf c [f] = (s2, []) := by
  simp only [State.retryOvf, h]

end

section
variable {t : Nat} {cell : Fin 8} {port : Fin 12} {f : Frame} {s s1 x : State} {P : State → Prop}

theorem tileFrame_answers (ha : (s.at t).accept cell port f = (s1, true)) (hup : (s.at t).cellUp cell = true) (hf : f.ftype = 1)
    (hx : s1.takeTile cell f = x) (hP : ∀ s', EndsAs x s' → P s') : Answers (.tileFrame t cell port f) s P :=
  .of_run rfl (by simp [ha, hf, hup, hx]) hP

theorem reducePart_answers (ha : (s.at t).accept cell port f = (s1, true)) (hup : (s.at t).cellUp cell = true) (hf : f.ftype = 1)
    (hk : f.tkind = 2) (hx : s1.takeTile cell f = x) (hP : ∀ s', EndsAs x s' → P s') : Answers (.reducePart t cell port f) s P :=
  .of_run rfl (by simp [ha, hf, hk, hup, hx]) hP

theorem readRequest_answers (ha : (s.at t).accept cell port f = (s1, true)) (hup : (s.at t).cellUp cell = true) (hf : f.ftype = 1)
    (hk : f.tkind = 3) (hx : s1.takeRead cell f = x) (hP : ∀ s', EndsAs x s' → P s') : Answers (.readRequest t cell port f) s P :=
  .of_run rfl (by simp [ha, hf, hk, hup, hx]) hP

theorem syncFrame_answers (ha : (s.at t).accept cell port f = (s1, true)) (hup : (s.at t).cellUp cell = true) (hf : f.ftype = 2)
    (hl : f.plen = 4) (hv : f.p 0 2 ≠ 0) (hx : s1.frameArrive cell f = x) (hP : ∀ s', EndsAs x s' → P s') :
    Answers (.syncFrame t cell port f) s P :=
  .of_run rfl (by simp [ha, hf, hl, hv, hup, hx]) hP

end

/-- Settles O41, command by command: each run's effect is what its frame's kind calls for. -/
theorem tilesRequestsAndSyncFramesAreTakenIn : Obligations.TilesRequestsAndSyncFramesAreTakenIn := by
  refine ⟨fun t cell port f s1 s ha hup hf => ⟨fun x hy hok hk h4 h5 => ⟨fun s2 hw => ?write, fun s2 hw => ?noWrite⟩,
    fun x s2 hy hok hk h4 => ⟨fun hw => ?broadcast, fun hw => ?noBroadcast⟩, fun x b who hy hok hk hl hw => ?block,
    fun x hy hok hk i hi => ?part, fun x n o j hy hok hk hw => ?response, fun x hy hok hk hw => ?unasked,
    fun hy hk far => ?bad, fun hk => ⟨fun s2 x hr => ?read, fun hr far => ?noRead⟩⟩,
    fun t cell port f s1 s ha hup hf hl hv => ⟨fun s2 hm => ?arrives, fun hm => ?overflows⟩,
    fun t cell f s2 s hovf hm => ?retried⟩
  case write | noWrite =>
    obtain ⟨htensor, -⟩ := takeTile_of_good (s := s1) (c := cell) hy hok
    exact tileFrame_answers ha hup hf ((htensor hk).trans (tensorTile_of_write h4 h5 hw)) fun s' h => h.silent
  case broadcast | noBroadcast =>
    obtain ⟨htensor, -⟩ := takeTile_of_good (s := s1) (c := cell) hy hok
    exact tileFrame_answers ha hup hf ((htensor hk).trans (tensorTile_of_broadcast h4 hw)) fun s' h => h.silent
  case block =>
    obtain ⟨-, hblock, -⟩ := takeTile_of_good (s := s1) (c := cell) hy hok
    exact tileFrame_answers ha hup hf ((hblock hk).trans (figureBlock_of_loading hl hw)) fun s' h => h.silent
  case part =>
    obtain ⟨-, -, hpart, -⟩ := takeTile_of_good (s := s1) (c := cell) hy hok
    rcases List.mem_pair.mp hi with rfl | rfl
    · exact tileFrame_answers ha hup hf (hpart hk) fun s' h => h.silent
    · exact reducePart_answers ha hup hf hk (hpart hk) fun s' h => h.silent
  case response =>
    obtain ⟨-, -, -, hresponse⟩ := takeTile_of_good (s := s1) (c := cell) hy hok
    refine tileFrame_answers ha hup hf (hresponse hk) fun s' h => ⟨h.silent, fun hr => ?_⟩
    obtain ⟨m, hc⟩ := h.cell cell
    rw [hc]
    exact readResponse_engine hw hr
  case unasked =>
    obtain ⟨-, -, -, hresponse⟩ := takeTile_of_good (s := s1) (c := cell) hy hok
    exact tileFrame_answers ha hup hf ((hresponse hk).trans (readResponse_of_none hw)) fun s' h => h.silent
  case bad => exact tileFrame_answers ha hup hf (takeTile_of_bad hk hy) fun s' h => (s1.badTile_reports far).trans h.reports
  case read =>
    refine readRequest_answers ha hup hf hk ?_ fun s' h => h.silent
    simp only [State.takeRead, hr]
  case noRead =>
    refine readRequest_answers ha hup hf hk (x := s1.voidBack cell f vCHECK) ?_ fun s' h => .trans ?_ h.reports
    · simp only [State.takeRead, hr]
    · exact State.voidFor_reports (.refl s1) _ _ _ _ _ _ _ _ far
  case arrives => exact syncFrame_answers ha hup hf hl hv (by simp only [State.frameArrive, hm]) fun s' h => h.silent
  case overflows => exact syncFrame_answers ha hup hf hl hv (by simp only [State.frameArrive, hm]) fun s' h => h.silent
  case retried => exact .of_run rfl (by simp only [hovf, retryOvf_singleton hm]) fun s' h => h.silent

end Sys2Proof.Machine

/-! ## The arbiter of an output port (R71, R280) -/

namespace Sys2Proof.Machine

/-- The winner among the keys at or above the button is the smallest of them. -/
theorem keyWin_of_above {b : Nat} {asking : List Nat} (h : ∃ k ∈ asking, b ≤ k) :
    ∃ w, keyWin b asking = some w ∧ w ∈ asking ∧ b ≤ w ∧ ∀ k ∈ asking, b ≤ k → w ≤ k := by
  obtain ⟨k, hk, hb⟩ := h
  have hmem : k ∈ asking.filter (fun r => b ≤ r) := by simp [hk, hb]
  have hne : asking.filter (fun r => b ≤ r) ≠ [] := List.ne_nil_of_mem hmem
  obtain ⟨w, hw⟩ := Option.isSome_iff_exists.mp (List.isSome_min?_of_mem hmem)
  obtain ⟨hin, hle⟩ := List.min?_eq_some_iff.mp hw
  obtain ⟨hin, hbw⟩ : w ∈ asking ∧ b ≤ w := by simpa using hin
  refine ⟨w, ?_, hin, hbw, fun j hj hbj => hle j (by simp [hj, hbj])⟩
  unfold keyWin
  split
  case h_1 hnil => exact absurd hnil hne
  case h_2 => exact hw

/-- With no key at or above the button the smallest of all wins. -/
theorem keyWin_of_below {b : Nat} {asking : List Nat} (h : ∀ k ∈ asking, k < b) : keyWin b asking = asking.min? := by
  have hnil : asking.filter (fun r => b ≤ r) = [] := List.filter_eq_nil_iff.mpr fun k hk => by simpa using h k hk
  simp [keyWin, hnil]

theorem keyWin_nil (b : Nat) : keyWin b [] = none := rfl

/-- The head of a lane has the winning key, waits in the queue and holds its credits (R71, R280). -/
theorem pickLane_spec {s : State} {c p lane : Nat} {a : Nat × Frame} (h : s.pickLane c p lane = some a) :
    let q := (s.cell c).port p
    keyWin q.btnKey ((q.queue.filter (fun x => x.2.lane = lane && s.mayGo c p x.2)).map qKey) = some (qKey a) ∧
    a ∈ q.queue ∧ s.mayLeave c p a.2 = true := by
  simp only [State.pickLane] at h
  split at h
  case h_1 => exact nomatch h
  case h_2 key hkey =>
    obtain ⟨hfind, hmay⟩ := Option.filter_eq_some_iff.mp h
    have hk : qKey a = key := by simpa using List.find?_some hfind
    have hin : a ∈ ((s.cell c).port p).queue := (List.mem_filter.mp (List.mem_of_find?_eq_some hfind)).1
    exact ⟨hk ▸ hkey, hin, hmay⟩

/-- After a frame other than a CREDIT return the button is at the key after the frame's (R71). -/
theorem sendOne_btnKey (s : State) (c p : Nat) {a : Nat × Frame} (h : a.2.isCredit1 = false) :
    (((s.sendOne c p a).cell c).port p).btnKey = qKey a + 1 := by
  simp [State.sendOne, h]

/-- Settles O60: the two cases of the choice among keys, and the head of a lane as that choice. -/
theorem anOutputPortServesTheNextAskingKey : Obligations.AnOutputPortServesTheNextAskingKey := by
  refine ⟨fun b asking => ⟨keyWin_of_above, fun hne hbelow => ?below, fun hnil => ?none⟩, fun s c p lane a hpick hcredit => ?frame⟩
  case below =>
    obtain ⟨w, hw⟩ := Option.isSome_iff_exists.mp (List.isSome_min?_of_ne_nil hne)
    obtain ⟨hin, hle⟩ := List.min?_eq_some_iff.mp hw
    exact ⟨w, (keyWin_of_below hbelow).trans hw, hin, hle⟩
  case none => rw [hnil, keyWin_nil]
  case frame =>
    obtain ⟨hwin, hin, hmay⟩ := pickLane_spec hpick
    exact ⟨hwin, hin, hmay, sendOne_btnKey s c p hcredit⟩
end Sys2Proof.Machine

/-! ## The arbiter of an engine and the issue of an operation (R69, R199) -/

namespace Sys2Proof.Machine

/-- An arbiter over `n` requesters chooses among them as one among keys does (R69, R71). -/
theorem buttonWin_eq_keyWin (n b : Nat) (asking : List Nat) : buttonWin n b asking = keyWin b (asking.filter (fun r => r < n)) := by
  unfold buttonWin keyWin
  dsimp only
  split <;> rfl

/-- The requester `i` places after the button wins where it asks and none between does (R69). -/
theorem buttonWin_of_first {n b i : Nat} {asking : List Nat} (hb : b < n) (hi : i < n) (hin : (b + i) % n ∈ asking)
    (hfirst : ∀ j, j < i → (b + j) % n ∉ asking) : buttonWin n b asking = some ((b + i) % n) := by
  rw [buttonWin_eq_keyWin]
  by_cases hwrap : b + i < n
  · rw [Nat.mod_eq_of_lt hwrap] at hin ⊢
    have hasks : b + i ∈ asking.filter (fun r => r < n) := by simp [hin, hwrap]
    obtain ⟨w, hwin, hw, hbw, hmin⟩ := keyWin_of_above ⟨_, hasks, Nat.le_add_right b i⟩
    obtain ⟨hw, hwn⟩ : w ∈ asking ∧ w < n := by simpa using hw
    have hle : w ≤ b + i := hmin _ hasks (Nat.le_add_right b i)
    have hge : ¬w < b + i := fun hlt => hfirst (w - b) (by omega) (by rwa [Nat.add_sub_cancel' hbw, Nat.mod_eq_of_lt hwn])
    rw [hwin, Nat.le_antisymm hle (Nat.le_of_not_lt hge)]
  · have hmod : (b + i) % n = b + i - n := by rw [Nat.mod_eq_sub_mod (by omega), Nat.mod_eq_of_lt (by omega)]
    rw [hmod] at hin ⊢
    have hbelow : ∀ r ∈ asking.filter (fun r => r < n), r < b := fun r hr => by
      obtain ⟨hr, hrn⟩ : r ∈ asking ∧ r < n := by simpa using hr
      by_contra hle
      exact hfirst (r - b) (by omega) (by rwa [Nat.add_sub_cancel' (by omega), Nat.mod_eq_of_lt hrn])
    refine (keyWin_of_below hbelow).trans (List.min?_eq_some_iff.mpr ⟨?_, fun r hr => ?_⟩)
    · simp only [List.mem_filter, hin, true_and, decide_eq_true_eq]
      omega
    · obtain ⟨hr', hrn⟩ : r ∈ asking ∧ r < n := by simpa using hr
      have hrb := hbelow r hr
      by_contra hlt
      have hplace : (b + (n - b + r)) % n = r := by
        rw [show b + (n - b + r) = r + n by omega, Nat.add_mod_right, Nat.mod_eq_of_lt hrn]
      exact hfirst (n - b + r) (by omega) (by rwa [hplace])

theorem buttonWin_of_none {n b : Nat} {asking : List Nat} (h : ∀ r ∈ asking, n ≤ r) : buttonWin n b asking = none := by
  have hnil : asking.filter (fun r => r < n) = [] := List.filter_eq_nil_iff.mpr fun r hr => by simpa using h r hr
  rw [buttonWin_eq_keyWin, hnil, keyWin_nil]

/-- What an operation at issue says of where it runs. -/
structure OpEnv.At (v : OpEnv) (c n w : Nat) (x : Ctx) : Prop where
  cell   : v.cell = c
  core   : v.core = n
  ctx    : v.ctx = w
  tenant : v.tenant = x.tenant
  group  : v.group = x.group

theorem opEnv_at {k : Cell} {c n w : Nat} {v : OpEnv} (h : k.opEnv c n w = some v) : v.At c n w ((k.core n).ctx w) := by
  unfold Cell.opEnv at h
  dsimp only at h
  split at h
  · cases h
    exact ⟨rfl, rfl, rfl, rfl, rfl⟩
  · exact nomatch h

/-- The requesters of an engine: contexts that ask and whose forward R199 does not hold back. -/
def State.requesters (s : State) (c n : Nat) (p : OpRec → Bool) : List Nat :=
  ((s.cell c).asking n p).filter (fun w => !(s.cell c).heldForward s.mySeat c (((s.cell c).core n).ctx w))

/-- A core whose engine has taken the operation of context `w`: the context runs, the button is past it (R69). -/
def Core.issued (x : Core) (engine w : Nat) : Core :=
  { x.setCtx w { x.ctx w with st := .run } with buttons := x.buttons.set 0 engine (buttonNext 4096 w) }

/-- What it takes that an engine of a core has taken an operation (R69, R72, R199). -/
structure Issued (s : State) (c n engine : Nat) (p : OpRec → Bool) (v : OpEnv) (s1 : State) : Prop where
  wins  : buttonWin 4096 (((s.cell c).core n).button engine) (s.requesters c n p) = some v.ctx
  env   : v.At c n v.ctx (((s.cell c).core n).ctx v.ctx)
  state : s1 = s.onCore c n (fun x => x.issued engine v.ctx)

theorem issue_issued {s s1 : State} {c n engine : Nat} {p : OpRec → Bool} {v : OpEnv} (h : s.issue c n engine p = some (v, s1)) :
    Issued s c n engine p v s1 := by
  unfold State.issue at h
  dsimp only at h
  split at h
  · exact nomatch h
  split at h
  · exact nomatch h
  next w hw =>
    split at h
    next v' hv =>
      cases h
      obtain rfl : v.ctx = w := (opEnv_at hv).ctx
      exact ⟨hw, opEnv_at hv, rfl⟩
    · exact nomatch h

/-- Where no thread asks, the engine takes nothing. -/
theorem issue_of_not_asking {s : State} {c n engine : Nat} {p : OpRec → Bool} (h : (s.cell c).asking n p = []) :
    s.issue c n engine p = none := by
  have hw : buttonWin 4096 (((s.cell c).core n).button engine) [] = none := buttonWin_of_none (by simp)
  unfold State.issue
  simp [h, hw]

@[simp] theorem State.onCore_core_same (s : State) (c n : Nat) (f : Core → Core) :
    ((s.onCore c n f).cell c).core n = f ((s.cell c).core n) := by
  rw [State.onCore, State.cell_onCell_same, Cell.core_onCore_same]

theorem Core.button_issued_same (x : Core) (e w : Nat) : (x.issued e w).button e = (w + 1) % 4096 := SMap.get_set_same ..

theorem Core.button_issued_other (x : Core) (w : Nat) {e e' : Nat} (h : e' ≠ e) : (x.issued e w).button e' = x.button e' :=
  SMap.get_set_other _ _ _ h

theorem EndsAs.core {x s' : State} (h : EndsAs x s') (c n : Nat) : (s'.cell c).core n = (x.cell c).core n := by
  obtain ⟨m, hc⟩ := h.cell c
  rw [hc]
  rfl

/-- Settles O59: the choice by the button, the buttons at reset, and the issue of an operation as that choice. -/
theorem theFirstAskingRequesterFromTheButtonWins : Obligations.TheFirstAskingRequesterFromTheButtonWins := by
  refine ⟨fun n b asking hb => ⟨fun i hi hin hfirst => buttonWin_of_first hb hi hin hfirst, buttonWin_of_none⟩,
    fun c n e p => ⟨rfl, rfl, rfl, rfl⟩, fun s s1 c n e p v h => ?_, fun t cell core s hnone => ?_⟩
  · have hissued := issue_issued h
    refine ⟨hissued.wins, ?_, fun e' he => ?_⟩ <;> rw [hissued.state, State.onCore_core_same]
    · exact Core.button_issued_same ..
    · exact Core.button_issued_other _ _ he
  · refine .of_run (x := s.at t) rfl ?_ fun s' hs' e => by rw [hs'.core]
    simp only [engMatrix, issue_of_not_asking (s := s.at t) hnone]

end Sys2Proof.Machine

/-! ## Operations enter their engines (R59, R79, R87, R130, R137, R308) -/

namespace Sys2Proof.Machine

/-! ### Entry at an engine -/

theorem State.cause_core (s : State) (c code tenant : Nat) (entry : Option Nat) (d n : Nat) :
    ((s.cause c code tenant entry).cell d).core n = (s.cell d).core n := by
  rw [State.cause, State.cell_onCell]
  split
  · subst_vars
    dsimp only
    split <;> rfl
  · rfl

/-- The engine of the operation holds it with its results; nothing else of the core changes (R59). -/
theorem State.startOp_core (s : State) (v : OpEnv) (e : Nat) (r : Result) (cyc : Option Nat) (reps : List SampleReport) :
    ((s.startOp v e r cyc reps).cell v.cell).core v.core = ((s.cell v.cell).core v.core).setEngine e
      (some { ctx := v.ctx, oprec := v.op, writes := r.writes, cycles := cyc, reports := reps }) := by
  unfold State.startOp
  dsimp only
  split
  · rw [State.cause_core, State.cell_onCell_same, Cell.core_onCore_same]
    rfl
  · rw [State.cell_onCell_same, Cell.core_onCore_same]
    rfl

/-- A run that ends with an operation's entry leaves the core's memory, and the engine holds the operation. -/
theorem EndsAs.enters {s s' : State} {v : OpEnv} {c n e : Nat} {r : Result} {cyc : Option Nat} {reps : List SampleReport}
    (h : EndsAs (s.startOp v e r cyc reps) s') (hc : v.cell = c) (hn : v.core = n) :
    s'.silent = (s.startOp v e r cyc reps).silent ∧ ((s'.cell c).core n).slots = ((s.cell c).core n).slots ∧
    ((s'.cell c).core n).engine e =
      some { ctx := v.ctx, oprec := v.op, writes := r.writes, cycles := cyc, reports := reps } := by
  subst hc hn
  rw [h.core, State.startOp_core]
  exact ⟨h.silent, rfl, Core.engine_setEngine_same ..⟩

/-- Tiles that hold their check values pass the check at engine entry as they are (R308). -/
theorem entryCheck_of_ok {s : State} {v : OpEnv} {l : List Nat} (h : ∀ i ∈ l, (((s.cell v.cell).core v.core).slot i).ok = true) :
    s.entryCheck v l = (s, true) := by
  induction l with
  | nil => rfl
  | cons i l ih =>
    obtain ⟨hi, hl⟩ := List.forall_mem_cons.mp h
    simp only [State.entryCheck, hi, if_true]
    exact ih hl

/-! ### PRODUCT, SAMPLE and MASK -/

section
variable {s : State} {v : OpEnv} {x : Core}

/-- A PRODUCT whose operands are whole enters with the values of the Reference Order (R79, R95). -/
theorem product_of_whole (hx : (s.cell v.cell).core v.core = x) (hok : ∀ i ∈ productReads x v, (x.slot i).ok = true)
    (hside : sideMissing x v = false) :
    s.product v = s.startOp v 1 (x.valWrites v (v.slotOf v.op.d) v.op.fmtD
      (productVals x v ((s.cell v.cell).gradScale v.tenant (x.slot (v.slotOf v.op.d)).tile.tag.ident))
      (x.poisoned (productReads x v))) (some (productCycles x v)) [] := by
  subst hx
  simp only [State.product, entryCheck_of_ok hok, hside, Bool.not_true, Bool.false_eq_true, if_false]
  rfl

/-- A PRODUCT without a side record that it needs enters with no result and voids with CHECK (R87). -/
theorem product_of_sideMissing (hx : (s.cell v.cell).core v.core = x) (hok : ∀ i ∈ productReads x v, (x.slot i).ok = true)
    (hside : sideMissing x v = true) :
    s.product v = (s.cause v.cell vCHECK v.tenant none).startOp v 1 noResult none [] := by
  subst hx
  simp only [State.product, entryCheck_of_ok hok, hside, Bool.not_true, Bool.false_eq_true, if_false, if_true]
  rfl

/-- While the lanes agree no record uses a redo, and each decides for itself (R130, R135). -/
theorem sampleAll_of_agreeing (s : State) (v : OpEnv) (poison : Bool) :
    s.sampleAll v [] poison =
      (s, (List.range (v.op.m / v.rowsPer)).map (fun q => sampleOne ((s.cell v.cell).core v.core) v q false poison)) := by
  have each (l : List Nat) (outs : List SampOut) : l.foldl (fun (acc : State × List SampOut) q =>
      let (s1, bad, extra) := acc.1.sampleLane v q ((([] : List (Nat × Bool)).find? (fun z => z.1 = q * v.rowsPer)).map (·.2))
      let o := sampleOne ((s1.cell v.cell).core v.core) v q bad poison
      (s1, acc.2 ++ [{ o with cycles := o.cycles + extra }])) (s, outs) =
      (s, outs ++ l.map (fun q => sampleOne ((s.cell v.cell).core v.core) v q false poison)) := by
    induction l generalizing outs with
    | nil => simp
    | cons q l ih =>
      rw [List.foldl_cons, List.map_cons, List.append_cons]
      exact ih _
  exact each _ []

/-- A SAMPLE whose lanes agree enters with what its records decide (R130 to R136). -/
theorem sampleOp_of_agreeing (hx : (s.cell v.cell).core v.core = x) (hok : ∀ i ∈ sampleReads v, (x.slot i).ok = true) :
    let outs := (List.range (v.op.m / v.rowsPer)).map (fun q => sampleOne x v q false (x.poisoned (sampleReads v)))
    s.sampleOp v [] = s.startOp v 4
      { writes := x.bitWrites (v.slotOf v.op.d) fINT32 (toBlocksN 4 (outs.flatMap (·.rows))) (x.poisoned (sampleReads v)) }
      (some (32 + (outs.map (·.cycles)).sum)) (outs.filterMap (·.report)) := by
  subst hx
  simp only [State.sampleOp, entryCheck_of_ok hok, sampleAll_of_agreeing, Bool.not_true, Bool.false_eq_true, if_false]
  rfl

/-- A MASK of a named tensor enters with the bits of the counter generator (R137 to R139). -/
theorem maskOp_of_named (hx : (s.cell v.cell).core v.core = x)
    (hnamed : ∀ i ∈ slotRun (v.slotOf v.op.d) v.op.fmtD (v.op.m * v.op.n), (x.slot i).tile.tag.ident ≠ 0) :
    let bits := (List.range (v.op.m * v.op.n)).map (fun e =>
      maskBits v (x.slot (v.slotOf v.op.d + e / elemsPer v.op.fmtD)) (e % elemsPer v.op.fmtD))
    s.maskOp v .clean = s.startOp v 5 { writes := x.bitWrites (v.slotOf v.op.d) v.op.fmtD bits false }
      (some (16 + (v.op.m * v.op.n + 63) / 64)) [] := by
  subst hx
  simp only [State.maskOp, State.residue, Bool.not_true, Bool.false_eq_true, if_false]
  refine if_neg fun hany => ?_
  obtain ⟨i, hi, hfree⟩ := List.any_eq_true.mp hany
  exact hnamed i hi (of_decide_eq_true hfree)

end

/-- Settles O23: each operation's entry by its engine's rules, and engines that take nothing. -/
theorem productSampleAndMaskEnterTheirEngines : Obligations.ProductSampleAndMaskEnterTheirEngines := by
  refine ⟨fun t cell core lanes v s1 s => ⟨fun hi hok hside => ?product, fun hi hok hside => ?sideMissing,
    fun hi hok hlanes => ?sample, fun hi hnamed => ?mask⟩, fun t cell core lanes rep s => ?idle⟩
  case product =>
    obtain ⟨-, hat, -⟩ := issue_issued hi
    have hx : (s1.cell v.cell).core v.core = (s1.cell cell).core core := by rw [hat.cell, hat.core]
    refine .of_run rfl ?_ fun s' h => h.enters hat.cell hat.core
    simp only [engMatrix, hi]
    rw [product_of_whole hx hok hside, hat.cell]
  case sideMissing =>
    obtain ⟨-, hat, -⟩ := issue_issued hi
    have hx : (s1.cell v.cell).core v.core = (s1.cell cell).core core := by rw [hat.cell, hat.core]
    refine .of_run (x := (s1.cause cell vCHECK v.tenant none).startOp v 1 noResult none []) rfl ?_ fun s' h => ?_
    · simp only [engMatrix, hi]
      rw [product_of_sideMissing hx hok hside, hat.cell]
    · obtain ⟨hsilent, hslots, hengine⟩ := h.enters hat.cell hat.core
      exact ⟨hsilent, by rw [hslots, State.cause_core], hengine⟩
  case sample =>
    subst hlanes
    obtain ⟨-, hat, -⟩ := issue_issued hi
    have hx : (s1.cell v.cell).core v.core = (s1.cell cell).core core := by rw [hat.cell, hat.core]
    refine .of_run rfl ?_ fun s' h => h.enters hat.cell hat.core
    simp only [engSample, hi]
    exact sampleOp_of_agreeing hx hok
  case mask =>
    obtain ⟨-, hat, -⟩ := issue_issued hi
    have hx : (s1.cell v.cell).core v.core = (s1.cell cell).core core := by rw [hat.cell, hat.core]
    refine .of_run rfl ?_ fun s' h => h.enters hat.cell hat.core
    simp only [engMask, hi]
    exact maskOp_of_named hx hnamed
  case idle =>
    refine ⟨?_, ?_, ?_, ?_, ?_, ?_, ?_, ?_, ?_⟩ <;> intro hi <;> refine .of_run (x := s.at t) rfl ?_ fun s' h => h.silent <;>
      simp only [engMatrix, engRow, engRoute, engSample, engMask, engMover, engVector, hi]

end Sys2Proof.Machine

/-! ## What reads and writes of tiles leave alone (R147, R154, R158, R159) -/

namespace Sys2Proof.Machine

/-! ### Cells: all but the tiers -/

/-- The cell is as it was but for its tiers. -/
def Cell.Tiered (k k' : Cell) : Prop := k' = { k with tiers := k'.tiers }

theorem Cell.Tiered.refl (k : Cell) : k.Tiered k := rfl

theorem Cell.Tiered.trans {a b c : Cell} (h : a.Tiered b) (g : b.Tiered c) : a.Tiered c := by
  unfold Cell.Tiered at *
  rw [g, h]

theorem Cell.makeRoom_tiered {k k1 : Cell} {t : Nat} {busy : List Nat} (h : k.makeRoom t busy = some k1) : k.Tiered k1 := by
  unfold Cell.makeRoom at h
  split at h
  · cases h
    exact .refl k
  · split at h <;> cases h
    rfl

theorem Cell.install_tiered (k : Cell) (t : Tensor) (busy : List Nat) (a : Nat) : k.Tiered (k.install t busy a) := by
  unfold Cell.install
  dsimp only
  split
  · exact .refl k
  · split
    · exact .refl k
    next k1 h => exact (Cell.makeRoom_tiered h).trans rfl

theorem Cell.readTile_tiered {k : Cell} {t : Tensor} {a : Nat} {out : Bool} {busy : List Nat} {r : Cell × Tile}
    (h : k.readTile t a out busy = some r) : k.Tiered r.1 := by
  have hk := k.install_tiered t busy a
  unfold Cell.readTile at h
  split at h
  · exact nomatch h
  · dsimp only at h
    split at h <;> cases h <;> exact hk.trans rfl

theorem Cell.placeTile_tiered {k : Cell} {t : Tensor} {a : Nat} {x : Tile} {busy : List Nat} {r : Cell × TileEnt}
    (h : k.placeTile t a x busy = some r) : k.Tiered r.1 := by
  have slow {p q r' : Prop} [Decidable p] [Decidable q] [Decidable r'] {e e' : TileEnt}
      (hs : (if p then if q then some (k, e) else none else if r' then some (k, e') else none) = some r) : k.Tiered r.1 := by
    repeat' split at hs
    all_goals cases hs
    all_goals exact .refl k
  unfold Cell.placeTile at h
  dsimp only at h
  split at h
  · cases h
    exact .refl k
  split at h
  · exact slow h
  · split at h
    next k1 hroom =>
      cases h
      exact Cell.makeRoom_tiered hroom
    · exact slow h

theorem Cell.writeTile_tiered {k k1 : Cell} {t : Tensor} {a : Nat} {x : Tile} {busy : List Nat}
    (h : k.writeTile t a x busy = some k1) : k.Tiered k1 := by
  unfold Cell.writeTile at h
  split at h <;> cases h
  next g => exact (Cell.placeTile_tiered g).trans rfl

/-! ### The state: all but tiers, records and frames -/

/-- `s'` is `s` but for what tiles lie where, and what is reported and sent meanwhile. -/
structure TierMoves (s s' : State) : Prop where
  now     : s'.now = s.now
  boot    : s'.boot = s.boot
  seating : s'.seating = s.seating
  cell    : ∀ c, ∃ t e q, s'.cell c = { s.cell c with tiers := t, err := e, korif := q }

theorem TierMoves.refl (s : State) : TierMoves s s := ⟨rfl, rfl, rfl, fun _ => ⟨_, _, _, rfl⟩⟩

theorem TierMoves.trans {a b c : State} (h : TierMoves a b) (g : TierMoves b c) : TierMoves a c where
  now := g.now.trans h.now
  boot := g.boot.trans h.boot
  seating := g.seating.trans h.seating
  cell d := by
    obtain ⟨_, _, _, hb⟩ := h.cell d
    obtain ⟨t, e, q, hc⟩ := g.cell d
    exact ⟨t, e, q, by rw [hc, hb]⟩

theorem Reports.tierMoves {s s' : State} (h : Reports s s') : TierMoves s s' where
  now := h.now
  boot := h.boot
  seating := h.seating
  cell c := by
    obtain ⟨e, p, q, hc⟩ := h.cell c
    exact ⟨_, e, _, hc⟩

theorem TierMoves.core {s s' : State} (h : TierMoves s s') (c n : Nat) : (s'.cell c).core n = (s.cell c).core n := by
  obtain ⟨t, e, q, hc⟩ := h.cell c
  rw [hc]
  rfl

theorem TierMoves.gen {s s' : State} (h : TierMoves s s') (c : Nat) : (s'.cell c).gen = (s.cell c).gen := by
  obtain ⟨t, e, q, hc⟩ := h.cell c
  rw [hc]

section
variable (s : State)

theorem foldl_tierMoves {β : Type} (l : List β) {f : State → β → State} (hf : ∀ x b, TierMoves x (f x b)) :
    TierMoves s (l.foldl f s) := by
  induction l generalizing s with
  | nil => exact .refl s
  | cons b l ih => exact (hf s b).trans (ih _)

theorem State.setCell_tierMoves (c : Nat) {v : Cell} (hv : (s.cell c).Tiered v) : TierMoves s (s.setCell c v) := by
  refine ⟨rfl, rfl, rfl, fun d => ?_⟩
  rw [State.cell_setCell]
  split
  · subst_vars
    exact ⟨_, _, _, hv⟩
  · exact ⟨_, _, _, rfl⟩

theorem State.tierServed_tierMoves (c n : Nat) : TierMoves s (s.tierServed c n) := s.setCell_tierMoves c rfl

theorem State.tierRead_tierMoves {c tenant : Nat} {ident : BitVec 24} {seq : Nat} {out : Bool} {busy : List Nat} {r : State × Slot}
    (h : s.tierRead c tenant ident seq out busy = some r) : TierMoves s r.1 := by
  unfold State.tierRead at h
  split at h
  · exact nomatch h
  split at h
  · exact nomatch h
  split at h
  · exact nomatch h
  next k1 x h1 =>
    have hk1 := Cell.readTile_tiered h1
    split at h
    · split at h
      · exact nomatch h
      next k2 y h2 =>
        cases h
        exact s.setCell_tierMoves _ (hk1.trans (Cell.readTile_tiered h2))
    · cases h
      exact s.setCell_tierMoves _ hk1

theorem State.tierPut_tierMoves (c tenant : Nat) (ident : BitVec 24) (seq : Nat) (x : Slot) (busy : List Nat) :
    TierMoves s (s.tierPut c tenant ident seq x busy).1 := by
  unfold State.tierPut
  split
  · exact .refl s
  split
  · exact .refl s
  split
  · exact (State.err_reports (.refl s) ..).tierMoves
  next k1 h1 =>
    have hk1 := Cell.writeTile_tiered h1
    split
    · dsimp only
      split
      · exact (State.err_reports (.refl s) ..).tierMoves
      next k2 h2 => exact s.setCell_tierMoves _ (hk1.trans (Cell.writeTile_tiered h2))
    · exact s.setCell_tierMoves _ hk1

theorem State.tierWrite_tierMoves (c tenant : Nat) (ident : BitVec 24) (seq : Nat) (x : Slot) (busy : List Nat) :
    TierMoves s (s.tierWrite c tenant ident seq x busy).1 := by
  unfold State.tierWrite
  split
  · exact .refl s
  · exact s.tierPut_tierMoves ..

/-- The tiles of a MOVE are read one after the other (R147, R187). -/
theorem State.moveRead_tierMoves {v : OpEnv} {busy : List Nat} {j : Nat} {r : State × Slot} (h : s.moveRead v busy j = some r) :
    TierMoves s r.1 := by
  unfold State.moveRead at h
  dsimp only at h
  split at h
  · cases h
    exact .refl s
  split at h
  · exact s.tierRead_tierMoves h
  split at h
  · split at h
    · exact nomatch h
    · cases h
      exact .refl s
    · exact s.tierRead_tierMoves h
  · exact s.tierRead_tierMoves h

theorem State.moveReads_tierMoves (v : OpEnv) (busy : List Nat) (n j : Nat) : TierMoves s (s.moveReads v busy n j).1 := by
  induction n generalizing s j with
  | zero => exact .refl s
  | succ n ih =>
    unfold State.moveReads
    split
    · exact .refl s
    next h => exact (s.moveRead_tierMoves h).trans (ih ..)

theorem State.partRead_tierMoves {v : OpEnv} {j : Nat} {r : State × Slot} (h : s.partRead v j = some r) : TierMoves s r.1 := by
  unfold State.partRead at h
  dsimp only at h
  split at h
  · cases h
    exact .refl s
  · exact s.tierRead_tierMoves h

theorem State.partReads_tierMoves (v : OpEnv) (n j : Nat) : TierMoves s (s.partReads v n j).1 := by
  induction n generalizing s j with
  | zero => exact .refl s
  | succ n ih =>
    unfold State.partReads
    split
    · exact .refl s
    next h => exact (s.partRead_tierMoves h).trans (ih ..)

end

end Sys2Proof.Machine

/-! ## MOVE, ELEMENT, REDUCE and UPDATE at issue (R100, R215, R273, R432, R434) -/

namespace Sys2Proof.Machine

section
variable {s : State} {v : OpEnv}

/-! ### MOVE -/

theorem pagedSetup_congr {k k' : Cell} (h : k'.gen = k.gen) (v : OpEnv) (w : BitVec 64) : k'.pagedSetup v w = k.pagedSetup v w := by
  simp only [Cell.pagedSetup, h]

/-- A side of the MOVE is paged (R187). -/
def Cell.paged (k : Cell) (v : OpEnv) : Bool := (k.pagedSetup v v.op.a).isSome || (k.pagedSetup v v.op.d).isSome

/-- A MOVE whose source lies in another cell asks for its tiles (R273). -/
theorem moveOp_of_far {seat c : Nat} (hok : moveOk (s.cell v.cell) v = true) (hfar : s.farSource v = some (seat, c)) :
    s.moveOp v = s.remoteReads v (moveTiles (s.cell v.cell) v) seat c := by
  simp only [State.moveOp, hok, Bool.not_true, Bool.false_eq_true, if_false, hfar]

theorem farSource_of_space2 (ha : (readRef v.op.a).space = 2)
    (hfar : ¬((if (readRef v.op.a).own then s.mySeat else (readRef v.op.a).seat) = s.mySeat ∧ (readRef v.op.a).cell = v.cell)) :
    s.farSource v = some (if (readRef v.op.a).own then s.mySeat else (readRef v.op.a).seat, (readRef v.op.a).cell) :=
  (if_pos ha).trans (if_neg hfar)

theorem farSource_of_holder {m : Tensor} {ro : Bool} {h : Nat} (ha : (readRef v.op.a).space = 1)
    (hl : (s.cell v.cell).lookup v.tenant (readRef v.op.a).ident = some (m, ro)) (hm : m.holder = some h) :
    s.farSource v = some (s.mySeat, h) := by
  simp [State.farSource, ha, hl, hm]

/-- The tiles of a transpose-move that hold their check values pass (R25, R309). -/
theorem transposeCheck_of_ok {l : List Slot} (h : v.op.variant = 3 → (readRef v.op.a).space ≠ 0 → ∀ y ∈ l, y.ok = true) :
    s.transposeCheck v l = (s, true) := by
  unfold State.transposeCheck
  split
  · rfl
  next hv =>
    obtain ⟨h3, ha⟩ : v.op.variant = 3 ∧ (readRef v.op.a).space ≠ 0 := by simpa using hv
    have hnone : l.find? (fun x => !x.ok) = none := List.find?_eq_none.mpr fun y hy => by simp [h h3 ha y hy]
    rw [hnone]

/-- A MOVE whose tiles were read whole enters the mover with its writes, transposed where its variant says so (R432). -/
theorem moveRest_of_whole {l : List Slot} (h : v.op.variant = 3 → (readRef v.op.a).space ≠ 0 → ∀ y ∈ l, y.ok = true) :
    let s3 := if v.op.variant = 3 && (s.cell v.cell).paged v then (s.freePages l).1 else s
    let tiles := if v.op.variant ≠ 3 then l else if (s.cell v.cell).paged v then (s.freePages l).2 else transposed v l
    s.moveRest v l = s3.startMove v ((tiles.zipIdx).flatMap (fun q => s3.moveWrites v q.2 q.1)) := by
  have hpaged : (((s.cell v.cell).pagedSetup v v.op.a).isSome || ((s.cell v.cell).pagedSetup v v.op.d).isSome) =
    (s.cell v.cell).paged v := rfl
  simp only [State.moveRest, transposeCheck_of_ok h, hpaged, Bool.not_true, Bool.false_eq_true, if_false]
  by_cases h3 : v.op.variant = 3
  · by_cases hp : (s.cell v.cell).paged v = true
    · simp [h3, hp]
    · simp [h3, hp]
  · simp [h3]

/-- A MOVE from this cell enters the mover with the tiles that its reads found (R147, R432). -/
theorem moveOp_of_near {s2 : State} {l : List Slot} (hok : moveOk (s.cell v.cell) v = true) (hnear : s.farSource v = none)
    (hcore : v.op.variant = 3 → (readRef v.op.a).space = 0 →
      ∀ i ∈ slotRun (v.slotOf v.op.a) v.op.fmtA (v.op.m * v.op.n), (((s.cell v.cell).core v.core).slot i).ok = true)
    (hreads : (s.tierServed v.cell v.core).moveReads v (s.moveBusy v (moveTiles (s.cell v.cell) v)) (moveTiles (s.cell v.cell) v) 0 =
      (s2, l, true)) :
    s.moveOp v = s2.moveRest v l := by
  have hgood : (if (v.op.variant = 3 && (readRef v.op.a).space = 0) = true then
      s.entryCheck v (slotRun (v.slotOf v.op.a) v.op.fmtA (v.op.m * v.op.n)) else (s, true)) = (s, true) := by
    split
    next h =>
      obtain ⟨h3, ha⟩ : v.op.variant = 3 ∧ (readRef v.op.a).space = 0 := by simpa using h
      exact entryCheck_of_ok (hcore h3 ha)
    · rfl
  simp only [State.moveOp, hok, Bool.not_true, Bool.false_eq_true, if_false, hnear, hgood, hreads]

/-- The mover holds the MOVE that has entered it, with its writes in this cell (R56, R59). -/
theorem startMove_engine (s : State) (v : OpEnv) (l : List Write) : ∃ sent,
    (((s.startMove v l).cell v.cell).core v.core).engine 6 = some
      { ctx := v.ctx, oprec := v.op, writes := l.filter (fun w => !w.far), cycles := none, reports := [], sent := sent } := by
  simp only [State.startMove, State.onCore_core_same, State.startOp_core, engMover, Core.engine_setEngine_same, Option.map_some]
  exact ⟨_, rfl⟩

/-! ### ELEMENT, REDUCE and UPDATE -/

section
variable {x : Core}

/-- An ELEMENT whose tiles are whole enters with its element values (R434). -/
theorem elementOp_of_whole (hx : (s.cell v.cell).core v.core = x) (hok : ∀ i ∈ elementReads v, (x.slot i).ok = true)
    (hside : elementMissing x v = false) :
    let scale := (s.cell v.cell).convertScale v
    let poison := x.poisoned (elementReads v)
    s.elementOp v = s.startOp v 7 (if v.op.variant = 5 && v.op.mx then mxWrites x v scale poison
      else x.valWrites v (v.slotOf v.op.d) v.op.fmtD ((List.range (v.op.m * v.op.n)).map (elementVal x v scale)) poison) none [] := by
  subst hx
  simp only [State.elementOp, entryCheck_of_ok hok, hside, Bool.not_true, Bool.false_eq_true, if_false]
  rfl

theorem elementOp_of_sideMissing (hx : (s.cell v.cell).core v.core = x) (hok : ∀ i ∈ elementReads v, (x.slot i).ok = true)
    (hside : elementMissing x v = true) :
    s.elementOp v = (s.cause v.cell vCHECK v.tenant none).startOp v 7 noResult none [] := by
  subst hx
  simp only [State.elementOp, entryCheck_of_ok hok, hside, Bool.not_true, Bool.false_eq_true, if_false, if_true]
  rfl

end

/-- A REDUCE whose part was read whole enters with its tiles (R100, R204). -/
theorem reduceOp_of_whole {s2 : State} {l : List Slot}
    (hcore : ∀ i ∈ slotRun (v.slotOf v.op.a) v.op.fmtA (v.op.m * v.op.n), (readRef v.op.a).space = 0 →
      (((s.cell v.cell).core v.core).slot i).ok = true)
    (hreads : (s.tierServed v.cell v.core).partReads v (tilesFor v.op.fmtA (v.op.m * v.op.n)) 0 = (s2, l, true))
    (hok : ∀ y ∈ l, y.ok = true) :
    s.reduceOp v = s2.startOp v 7 { writes := (l.zipIdx).map (fun q => s2.partWrite v q.2 q.1) } none [] := by
  have hgood : (if (readRef v.op.a).space = 0 then
      s.entryCheck v (slotRun (v.slotOf v.op.a) v.op.fmtA (v.op.m * v.op.n)) else (s, true)) = (s, true) := by
    split
    next ha => exact entryCheck_of_ok fun i hi => hcore i hi ha
    · rfl
  have hwhole : l.find? (fun x => !x.ok) = none := List.find?_eq_none.mpr fun y hy => by simp [hok y hy]
  simp only [State.reduceOp, hgood, hreads, hwhole, Bool.not_true, Bool.false_eq_true, if_false]
  rfl

theorem updateOp_of_away (h : s.homeCell v.cell (bits v.op.param.toNat 0 16) = none) :
    s.updateOp v = s.startOp v 7 noResult none [] := by
  simp only [State.updateOp, h]
  rfl

theorem updateOp_of_home {c : Nat} (h : s.homeCell v.cell (bits v.op.param.toNat 0 16) = some c) :
    s.updateOp v = (s.onCell c (fun k =>
      k.nameLayer (bits v.op.param.toNat 0 16, v.op.variant, v.op.a, v.tenant))).startOp v 7 noResult none [] := by
  simp only [State.updateOp, h]
  rfl

/-- A layer named to a U-die leaves every core as it is (R215). -/
theorem nameLayer_core (s : State) (h : Nat) (x : Named) (c n : Nat) :
    ((s.onCell h (fun k => k.nameLayer x)).cell c).core n = (s.cell c).core n := by
  rw [State.cell_onCell]
  split
  · subst_vars
    rfl
  · rfl

end

/-- Settles O25: each operation's entry as its references, its tiles and its layer's home have it. -/
theorem moveElementReduceAndUpdateEnterTheirEngines : Obligations.MoveElementReduceAndUpdateEnterTheirEngines := by
  refine fun t cell core v s1 s => ⟨fun hi hok => ?move, fun hi hwhole => ⟨fun hside => ?missing, fun hside => ?element⟩,
    fun hi hcore s2 l hreads hwhole => ?reduce, fun hi => ⟨fun haway => ?away, fun h hhome => ?home⟩⟩
  case move =>
    obtain ⟨-, hat, -⟩ := issue_issued hi
    have hcell := hat.cell
    have hcoreN := hat.core
    have far {seat c : Nat} (hfar : s1.farSource v = some (seat, c)) : Answers (.move t cell core) s (fun s' =>
        s'.silent = (s1.remoteReads v (moveTiles (s1.cell cell) v) seat c).silent) := by
      refine .of_run rfl ?_ fun s' h => h.silent
      simp only [engMover, hi]
      rw [moveOp_of_far (by rwa [hcell]) hfar, hcell]
    refine ⟨fun ha hfar => far (farSource_of_space2 ha (by rwa [hcell])),
      fun m ro h ha hl hm => far (farSource_of_holder ha (by rwa [hcell]) hm), fun hnear hslots s2 l hreads hwhole => ?_⟩
    have hpaged : (s2.cell v.cell).paged v = (s1.cell cell).paged v := by
      have hmoves := (s1.tierServed_tierMoves cell core).trans (State.moveReads_tierMoves _ v (s1.moveBusy v (moveTiles (s1.cell cell) v))
        (moveTiles (s1.cell cell) v) 0)
      rw [hreads] at hmoves
      simp only [Cell.paged, hcell, pagedSetup_congr (hmoves.gen cell)]
    have hrest := moveRest_of_whole (s := s2) hwhole
    rw [hpaged] at hrest
    refine .of_run rfl ?_ fun s' h => ⟨h.silent, ?_⟩
    · simp only [engMover, hi]
      rw [moveOp_of_near (by rwa [hcell]) hnear (by rwa [hcell, hcoreN]) (by rwa [hcell, hcoreN])]
      exact hrest
    · obtain ⟨sent, hengine⟩ := startMove_engine _ v _
      exact ⟨sent, by rw [h.core, ← hcell, ← hcoreN]; exact hengine⟩
  case missing =>
    obtain ⟨-, hat, -⟩ := issue_issued hi
    have hx : (s1.cell v.cell).core v.core = (s1.cell cell).core core := by rw [hat.cell, hat.core]
    refine .of_run (x := (s1.cause cell vCHECK v.tenant none).startOp v 7 noResult none []) rfl ?_ fun s' h => ?_
    · simp only [engVector, hi]
      rw [elementOp_of_sideMissing hx hwhole hside, hat.cell]
    · obtain ⟨hsilent, hslots, hengine⟩ := h.enters hat.cell hat.core
      exact ⟨hsilent, by rw [hslots, State.cause_core], hengine⟩
  case element =>
    obtain ⟨-, hat, -⟩ := issue_issued hi
    have hx : (s1.cell v.cell).core v.core = (s1.cell cell).core core := by rw [hat.cell, hat.core]
    refine .of_run rfl ?_ fun s' h => h.enters hat.cell hat.core
    simp only [engVector, hi]
    rw [elementOp_of_whole hx hwhole hside, hat.cell]
  case reduce =>
    obtain ⟨-, hat, -⟩ := issue_issued hi
    have hmoves := (s1.tierServed_tierMoves cell core).trans
      (State.partReads_tierMoves _ v (tilesFor v.op.fmtA (v.op.m * v.op.n)) 0)
    rw [hreads] at hmoves
    refine .of_run (x := s2.startOp v 7 { writes := (l.zipIdx).map (fun q => s2.partWrite v q.2 q.1) } none []) rfl ?_ fun s' h => ?_
    · simp only [engVector, hi]
      exact reduceOp_of_whole (by rwa [hat.cell, hat.core]) (by rwa [hat.cell, hat.core]) hwhole
    · obtain ⟨hsilent, hslots, hengine⟩ := h.enters hat.cell hat.core
      exact ⟨hsilent, by rw [hslots, hmoves.core], hengine⟩
  case away =>
    obtain ⟨-, hat, -⟩ := issue_issued hi
    refine .of_run rfl ?_ fun s' h => h.enters hat.cell hat.core
    simp only [engVector, hi]
    exact updateOp_of_away (by rwa [hat.cell])
  case home =>
    obtain ⟨-, hat, -⟩ := issue_issued hi
    refine .of_run rfl (?_ : _ = (s1.onCell h fun k => k.nameLayer
      (bits v.op.param.toNat 0 16, v.op.variant, v.op.a, v.tenant)).startOp v 7 noResult none []) fun s' h' => ?_
    · simp only [engVector, hi]
      exact updateOp_of_home (by rwa [hat.cell])
    · obtain ⟨hsilent, hslots, hengine⟩ := h'.enters hat.cell hat.core
      exact ⟨hsilent, by rw [hslots, nameLayer_core], hengine⟩

end Sys2Proof.Machine

/-! ## LOAD IMAGE and TEST at their cell (R61, R62, R320, R340) -/

namespace Sys2Proof.Machine

/-- A cell in C0 needs no wake (R363). -/
theorem wake_of_c0 {s : State} {c : Nat} (h : (s.cell c).power.state = .c0) : s.wake c = s := by simp [State.wake, h]

section
variable (s : State) (c : Nat) (who : BitVec 8)

/-- The button of a cell's commands moves nothing else of any cell (R70). -/
theorem cmdServed_cell (d : Nat) : ∃ b, (s.cmdServed c who).cell d = { s.cell d with cmdBtn := b } := by
  rw [State.cmdServed, State.cell_onCell]
  split
  · subst_vars
    exact ⟨_, rfl⟩
  · exact ⟨_, rfl⟩

theorem cmdServed_cellUp (d : Nat) : (s.cmdServed c who).cellUp d = s.cellUp d := by
  obtain ⟨b, hb⟩ := cmdServed_cell s c who d
  rw [State.cellUp, hb]
  rfl

theorem cmdServed_kindOk (src : Source) (kind : Nat) : (s.cmdServed c who).kindOk src kind = s.kindOk src kind := by
  have hbind (n : Nat) : (s.cmdServed c who).binding n = s.binding n := by
    obtain ⟨b, hb⟩ := cmdServed_cell s c who (chanCell n)
    rw [State.binding, hb]
    rfl
  simp only [State.kindOk, State.chanSide, State.chanTo, hbind]

end

/-- An entry that its cell takes acts once the button has passed its sender (R70, R340). -/
theorem entryAt_of_takes {s : State} {c kind : Nat} {src : Source} {e : Entry} (h : (s.cmdServed c src.who).takes c kind src e = true)
    (f : State → State) : s.entryAt c kind src e f = f (s.cmdServed c src.who) := by
  obtain ⟨b, hb⟩ := cmdServed_cell s c src.who c
  obtain ⟨⟨⟨hup, hkind⟩, hpath⟩, hawake⟩ : ((s.cellUp c = true ∧ e.fld 0 1 = kind) ∧ s.kindOk src kind = true) ∧
      (s.cell c).power.state = .c0 := by
    simpa [State.takes, cmdServed_cellUp, cmdServed_kindOk, hb] using h
  simp only [State.entryAt, hup, hkind, hpath, wake_of_c0 hawake, decide_true, Bool.and_self, Bool.not_true, Bool.false_eq_true,
    if_false, if_true]

section
variable {s : State} {c : Nat} {src : Source} {e : Entry}

/-- What the checks of R61 find of the image that a LOAD IMAGE names. -/
def State.loadStatus (s : State) (c : Nat) (src : Source) (e : Entry) (v : Nat) : Nat :=
  imageStatus (s.cell c).fig.active c (e.fld 8 4) v (e.fld 1 1) ((s.cell c).tenantFn (e.fld 1 1) = src.who.toNat || src.who = 0x70)
    (if ((s.cell c).run (e.fld 1 1)).carried then ((s.cell c).run (e.fld 1 1)).image.map (·.figure) else none) s.seating.level

section
variable {v : Nat} (hfields : loadImageReserved e = false) (hbytes : (s.cell c).imageBytes (e.fld 1 1) (e.fld 4 3) (e.fld 8 4) = some v)
include hfields hbytes

/-- An image that passes every check becomes the tenant's next one (R62). -/
theorem doLoadImage_of_good (hgood : s.loadStatus c src e v = 0) :
    s.doLoadImage c src e = (((s.longRecords c (e.fld 1 1) (readImage v)).onCell c (fun k =>
      k.onRun (e.fld 1 1) (fun r => { r with next := some (readImage v) }))).complete c src e { status := 0 }).boundarySoon c := by
  simp only [State.doLoadImage, hfields, Bool.false_eq_true, if_false, hbytes]
  exact if_neg (not_not_intro hgood)

/-- One that fails a check changes nothing (R61). -/
theorem doLoadImage_of_bad (hbad : s.loadStatus c src e v ≠ 0) :
    s.doLoadImage c src e = s.complete c src e { status := s.loadStatus c src e v } := by
  simp only [State.doLoadImage, hfields, Bool.false_eq_true, if_false, hbytes]
  exact if_pos hbad

end

/-- A TEST that leaves the U-die alone asks the units of its mask, and is over where none of its tests remains (R320). -/
theorem doTest_of_granted (hfields : testReserved e = false) (hident : topIdent src.who = true) (hud : bit (e.fld 2 1) 2 = false) :
    let s1 := (s.testCells e).foldl (fun (x : State) m => (x.wake m).onCell m (fun k => k.askTests src e)) s
    s.doTest c src e =
      if (s.testCells e).any (fun m => (s1.cell m).testing src e) then s1 else s1.complete c src e { status := 0 } := by
  simp only [State.doTest, hfields, hident, hud, Bool.not_true, Bool.false_and, Bool.false_eq_true, if_false]
  rfl

end

/-- Settles O14: the entry is taken, and its effect is what the image's checks or the cell's tests call for. -/
theorem loadImageAndTestEntries : Obligations.LoadImageAndTestEntries := by
  refine fun t cell src e s => ⟨fun v htakes hfields hbytes => ⟨fun hgood => ?good, fun hbad => ?bad⟩,
    fun htakes hfields hident hud => ?test⟩
  case good => exact .of_run rfl ((entryAt_of_takes htakes _).trans (doLoadImage_of_good hfields hbytes hgood)) fun s' h => h.silent
  case bad => exact .of_run rfl ((entryAt_of_takes htakes _).trans (doLoadImage_of_bad hfields hbytes hbad)) fun s' h => h.silent
  case test => exact .of_run rfl ((entryAt_of_takes htakes _).trans (doTest_of_granted hfields hident hud)) fun s' h => h.silent

end Sys2Proof.Machine

/-! ## SYNC and sync messages (R59, R65, R66, R67) -/

namespace Sys2Proof

variable {β : Type} [DecidableEq β]

/-- A key that every pair listed under it takes to `w` has `w` after all values changed. -/
theorem SMap.get_mapV_of_all {d w : β} {f : β → β} {k : Nat} {m : SMap β} (hall : ∀ p ∈ m, p.1 = k → f p.2 = w)
    (hsome : w = d ∨ ∃ p ∈ m, p.1 = k) : (m.mapV d f).get d k = w := by
  induction m with
  | nil => exact (hsome.resolve_right (by simp)).symm
  | cons q m ih =>
    obtain ⟨hq, hm⟩ := List.forall_mem_cons.mp hall
    by_cases hd : f q.2 = d
    · have hrest : w = d ∨ ∃ p ∈ m, p.1 = k := by
        by_cases hk : q.1 = k
        · exact .inl ((hq hk).symm.trans hd)
        · refine hsome.imp_right fun ⟨p, hp, hpk⟩ => ⟨p, (List.mem_cons.mp hp).resolve_left ?_, hpk⟩
          rintro rfl
          exact hk hpk
      rw [show SMap.mapV (q :: m) d f = SMap.mapV m d f by simp [SMap.mapV, hd]]
      exact ih hm hrest
    · rw [show SMap.mapV (q :: m) d f = (q.1, f q.2) :: SMap.mapV m d f by simp [SMap.mapV, hd], SMap.get_cons]
      split
      next hk => exact hq hk
      next hk =>
        refine ih hm (hsome.imp_right fun ⟨p, hp, hpk⟩ => ⟨p, (List.mem_cons.mp hp).resolve_left ?_, hpk⟩)
        rintro rfl
        exact hk hpk

theorem SMap.mem_ins {m : SMap β} {k : Nat} {v : β} {p : Nat × β} : p ∈ m.ins k v ↔ p = (k, v) ∨ p ∈ m := by
  induction m with
  | nil => simp [SMap.ins]
  | cons q m ih =>
    unfold SMap.ins
    split
    · simp
    · rw [List.mem_cons, ih, List.mem_cons]
      tauto

/-- The value just written is found changed like every other, whatever else the table lists. -/
theorem SMap.get_mapV_set_same (m : SMap β) {d : β} {f : β → β} (hf : f d = d) (k : Nat) (v : β) :
    ((m.set d k v).mapV d f).get d k = f v := by
  unfold SMap.set
  split
  next hv => exact SMap.get_mapV_of_all (fun p hp hk => absurd hk (SMap.del_no_key m k p hp)) (.inl (by rw [hv, hf]))
  · refine SMap.get_mapV_of_all (fun p hp hk => ?_) (.inr ⟨(k, v), SMap.mem_ins.mpr (.inl rfl), rfl⟩)
    obtain rfl | hp := SMap.mem_ins.mp hp
    · rfl
    · exact absurd hk (SMap.del_no_key m k p hp)

end Sys2Proof

namespace Sys2Proof.Machine

/-! ### A SYNC at issue -/

theorem State.cause_net (s : State) (c code tenant : Nat) (entry : Option Nat) : (s.cause c code tenant entry).net = s.net := rfl

section
variable (s : State) (m : SyncMsg)

theorem sendSync_net_of_wired (h : s.wired m = true) : (s.sendSync m).net = s.net ++ [m] := by simp only [State.sendSync, h, if_true]

/-- A message off the wires goes in a frame (R13, R27). -/
theorem sendSync_net_of_unwired (h : s.wired m = false) : (s.sendSync m).net = s.net := by
  have hsend (i : Nat) (o : Out) := (State.send_reports (.refl s) m.src i o).net
  simp only [State.sendSync, h, Bool.false_eq_true, if_false]
  split
  · exact hsend ..
  · rw [State.cause_net]
    exact hsend ..

end

section
variable {s : State} {v : OpEnv}

/-- The message of a SYNC that signals (Table 3-8). -/
def OpEnv.syncMsg (v : OpEnv) (c seat step : Nat) : SyncMsg :=
  let r := readRef v.op.a
  { src := c, seat := if r.own then seat else r.seat, cell := r.cell, tenant := v.tenant, group := r.group, ctr := r.ctr,
    add := bits v.op.param.toNat 0 16, step := BitVec.ofNat 16 step }

/-- What becomes of the context of a SYNC: it goes on, or waits (R65, R67). -/
def Cell.afterSync (k : Cell) (v : OpEnv) (x : Ctx) : Ctx :=
  if v.op.variant = 1 then x.advance (k.recCount x) else k.waitOn v x

/-- A SYNC that signals and has no SIGNAL flag sends its message, and its thread goes on or waits. -/
theorem syncOp_of_signalling (hflag : v.op.signal = false) (hsig : v.op.variant ≠ 2) :
    s.syncOp v = (s.sendSync (v.syncMsg v.cell s.mySeat (s.cell v.cell).step.number)).onCell v.cell (fun k =>
      k.onCore v.core (fun y => y.setCtx v.ctx (k.afterSync v (y.ctx v.ctx)))) := by
  simp only [State.syncOp, State.ownSignal, hflag, Bool.false_eq_true, if_false, State.syncSignal, hsig]
  rfl

/-- One that only waits sends nothing. -/
theorem syncOp_of_waiting (hflag : v.op.signal = false) (hwait : v.op.variant = 2) :
    s.syncOp v = s.onCell v.cell (fun k => k.onCore v.core (fun y => y.setCtx v.ctx (k.waitOn v (y.ctx v.ctx)))) := by
  simp only [State.syncOp, State.ownSignal, hflag, Bool.false_eq_true, if_false, State.syncSignal, hwait, if_true]
  rfl

end

/-! ### A sync message at its cell -/

/-- A context whose wait is over goes on (R65, R67). -/
def Cell.released (k : Cell) (x : Ctx) : Ctx :=
  if x.st = .wait && x.waitThr ≤ ((k.core (x.waitCtr / 256)).ctr (x.waitCtr % 256)).toNat then
    { x with st := if k.recCount x ≤ x.nextRec then .done else .ready }
  else x

/-- A core whose contexts go on where their waits are over. -/
def Cell.releaseCore (k : Cell) (x : Core) : Core := { x with ctxs := x.ctxs.mapV Ctx.free k.released }

theorem release_eq (k : Cell) : k.release = { k with cores := k.cores.mapV Core.reset k.releaseCore } := rfl

/-- Waits that end leave the counters of a core just written (R65). -/
theorem release_setCore_ctr (k : Cell) (n i : Nat) (x : Core) : (((k.setCore n x).release.core n).ctr i) = x.ctr i := by
  have hget : (k.setCore n x).release.core n = (k.setCore n x).releaseCore x :=
    SMap.get_mapV_set_same (d := Core.reset) (f := (k.setCore n x).releaseCore) k.cores rfl n x
  rw [hget]
  rfl

section
variable {s : State} {m : SyncMsg}

/-- A signal adds to its counter (R65). -/
theorem signalAt_ctr {c tenant group ctr add n i : Nat} (h : (s.cell c).counterAt tenant group ctr = some (n, i)) :
    (((s.signalAt c tenant group ctr add).cell c).core n).ctr i = (((s.cell c).core n).addCtr i add).1.ctr i := by
  unfold State.signalAt
  rw [h]
  dsimp only
  split
  · rw [State.cause_core, State.cell_onCell_same, release_setCore_ctr]
  · rw [State.cell_onCell_same, release_setCore_ctr]

/-- The number that messages for a cell's next step carry (R66). -/
def StepState.nextNum (x : StepState) : BitVec 16 := if x.running then BitVec.ofNat 16 x.number + 1 else BitVec.ofNat 16 x.number

/-- The core that holds a message for the next step: that of its counter (R66). -/
def Cell.heldAt (k : Cell) (m : SyncMsg) : Nat := ((k.counterAt m.tenant m.group m.ctr).map (·.1)).getD 0

theorem syncArrive_of_current (hr : (s.cell m.cell).step.running = true) (hm : m.step = BitVec.ofNat 16 (s.cell m.cell).step.number) :
    s.syncArrive m = some (s.signalAt m.cell m.tenant m.group m.ctr m.add) := by
  simp [State.syncArrive, hr, hm]

/-- A message for the next step finds a place at its counter's core while 512 places are not taken (R66). -/
theorem syncArrive_of_next (hm : m.step = (s.cell m.cell).step.nextNum) : s.syncArrive m =
    if 512 ≤ ((s.cell m.cell).core ((s.cell m.cell).heldAt m)).pend.length then none
    else some (s.onCore m.cell ((s.cell m.cell).heldAt m) (fun x => { x with pend := x.pend ++ [m] })) := by
  have hnow : ((s.cell m.cell).step.running && m.step = BitVec.ofNat 16 (s.cell m.cell).step.number) = false := by
    cases hr : (s.cell m.cell).step.running with
    | false => rfl
    | true => simp [hm, StepState.nextNum, hr]
  have hnext : m.step = (if (s.cell m.cell).step.running then BitVec.ofNat 16 (s.cell m.cell).step.number + 1
    else BitVec.ofNat 16 (s.cell m.cell).step.number) := hm
  simp only [State.syncArrive, hnow, Bool.false_eq_true, if_false]
  exact if_pos hnext

/-- Any other message is discarded with a record (R66). -/
theorem syncArrive_of_other (h0 : m.step ≠ BitVec.ofNat 16 (s.cell m.cell).step.number)
    (h1 : m.step ≠ BitVec.ofNat 16 (s.cell m.cell).step.number + 1) : ∃ s1, s.syncArrive m = some s1 ∧ Reports s s1 := by
  refine ⟨_, ?_, State.err_reports (.refl s) m.cell
    { cls := clsCOMMAND, sev := 1, unit := 6, tenant := m.tenant, obj := m.group, detail := m.ctr }⟩
  have hnow : ((s.cell m.cell).step.running && m.step = BitVec.ofNat 16 (s.cell m.cell).step.number) = false := by simp [h0]
  have hnext : ¬m.step = (if (s.cell m.cell).step.running then BitVec.ofNat 16 (s.cell m.cell).step.number + 1
      else BitVec.ofNat 16 (s.cell m.cell).step.number) := by
    split <;> assumption
  simp only [State.syncArrive, hnow, Bool.false_eq_true, if_false]
  exact if_neg hnext

end

/-- Settles O20: the SYNC by its variant, the message by the step that it names. -/
theorem syncAndItsMessages : Obligations.SyncAndItsMessages := by
  refine ⟨fun t cell core v s1 s hi hflag => ⟨fun hsig => ?signals, fun hwait => ?waits⟩,
    fun t index m s hm => ⟨fun hr hstep n i hctr => ?current, fun hstep => ⟨fun hroom => ?held, fun hfull => ?kept⟩,
      fun h0 h1 => ?other⟩,
    fun t m s hheld hstep => ⟨fun hroom => ?retried, fun hfull => ?keptAgain⟩⟩
  case signals =>
    obtain ⟨-, hat, hs1⟩ := issue_issued hi
    have hwired (m : SyncMsg) : s1.wired m = (s.at t).wired m := by rw [hs1]; rfl
    have hnet : s1.net = (s.at t).net := by rw [hs1]; rfl
    have hseat : s1.mySeat = (s.at t).mySeat := by rw [hs1]; rfl
    refine .of_run (x := (s1.sendSync (v.syncMsg cell (s.at t).mySeat (s1.cell cell).step.number)).onCell cell (fun k =>
      k.onCore core (fun y => y.setCtx v.ctx (k.afterSync v (y.ctx v.ctx))))) rfl ?_ fun s' h => ⟨fun hw => ?_, fun hw => ?_, h.silent⟩
    · simp only [hi]
      rw [syncOp_of_signalling hflag hsig, hat.cell, hat.core, hseat]
    · exact h.reports.net.trans ((sendSync_net_of_wired s1 _ ((hwired _).trans hw)).trans (congrArg (· ++ _) hnet))
    · exact h.reports.net.trans ((sendSync_net_of_unwired s1 _ ((hwired _).trans hw)).trans hnet)
  case waits =>
    obtain ⟨-, hat, hs1⟩ := issue_issued hi
    refine .of_run rfl ?_ fun s' h => ⟨?_, h.silent⟩
    · simp only [hi]
      rw [syncOp_of_waiting hflag hwait, hat.cell, hat.core]
    · rw [h.reports.net, State.onCell_net, hs1]
      rfl
  case current =>
    have harrive := syncArrive_of_current (s := { s.at t with net := (s.at t).net.eraseIdx index }) hr hstep
    refine .of_run rfl (by simp only [hm, harrive]) fun s' h => ⟨h.silent, ?_⟩
    rw [h.core]
    exact signalAt_ctr hctr
  case held =>
    have harrive := (syncArrive_of_next (s := { s.at t with net := (s.at t).net.eraseIdx index }) hstep).trans
      (if_neg (Nat.not_le.mpr hroom))
    exact .of_run rfl (by simp only [hm, harrive]; rfl) fun s' h => h.silent
  case kept =>
    have harrive := (syncArrive_of_next (s := { s.at t with net := (s.at t).net.eraseIdx index }) hstep).trans (if_pos hfull)
    exact .of_run rfl (by simp only [hm, harrive]) fun s' h => h.silent
  case other =>
    obtain ⟨s2, harrive, hreports⟩ := syncArrive_of_other (s := { s.at t with net := (s.at t).net.eraseIdx index }) h0 h1
    exact .of_run rfl (by simp only [hm, harrive]) fun s' h => hreports.trans h.reports
  case retried =>
    have harrive := (syncArrive_of_next (s := { s.at t with netHeld := [] }) hstep).trans (if_neg (Nat.not_le.mpr hroom))
    refine .of_run rfl ?_ fun s' h => h.silent
    simp only [hheld, List.foldl_cons, List.foldl_nil, harrive]
    rfl
  case keptAgain =>
    have harrive := (syncArrive_of_next (s := { s.at t with netHeld := [] }) hstep).trans (if_pos hfull)
    refine .of_run (x := s.at t) rfl ?_ fun s' h => h.silent
    simp only [hheld, List.foldl_cons, List.foldl_nil, harrive, List.nil_append]
    rw [← hheld]

end Sys2Proof.Machine

/-! ## A step in progress goes on and keeps its causes (R9, R68) -/

namespace Sys2Proof.Machine

/-- The step goes on: as before running or not, begun and stopped, and with every cause found so far. -/
structure StepState.GoesOn (x y : StepState) : Prop where
  running : y.running = x.running
  began   : y.began = x.began
  stopped : y.stopped = x.stopped
  causes  : x.causes ⊆ y.causes

theorem StepState.GoesOn.refl (x : StepState) : x.GoesOn x := ⟨rfl, rfl, rfl, List.Subset.refl _⟩

theorem StepState.GoesOn.trans {x y z : StepState} (h : x.GoesOn y) (g : y.GoesOn z) : x.GoesOn z :=
  ⟨g.running.trans h.running, g.began.trans h.began, g.stopped.trans h.stopped, List.Subset.trans h.causes g.causes⟩

theorem StepState.GoesOn.of_eq {x y : StepState} (h : y = x) : x.GoesOn y := h ▸ .refl y

/-- The cell goes on with its step, and with its part in learning steps. -/
structure Cell.GoesOn (k k' : Cell) : Prop where
  step  : k.step.GoesOn k'.step
  learn : k'.learn = k.learn

theorem Cell.GoesOn.of_eq {k k' : Cell} (hs : k'.step = k.step) (hl : k'.learn = k.learn) : k.GoesOn k' := ⟨.of_eq hs, hl⟩

theorem Cell.GoesOn.refl (k : Cell) : k.GoesOn k := .of_eq rfl rfl

theorem Cell.GoesOn.trans {a b c : Cell} (h : a.GoesOn b) (g : b.GoesOn c) : a.GoesOn c := ⟨h.step.trans g.step, g.learn.trans h.learn⟩

/-- Every cell goes on with its step. -/
structure StepsGoOn (s s' : State) : Prop where
  cell : ∀ c, (s.cell c).GoesOn (s'.cell c)

theorem StepsGoOn.refl (s : State) : StepsGoOn s s := ⟨fun _ => .refl _⟩

theorem StepsGoOn.trans {a b c : State} (h : StepsGoOn a b) (g : StepsGoOn b c) : StepsGoOn a c := ⟨fun d => (h.cell d).trans (g.cell d)⟩

theorem StepsGoOn.step {s s' : State} (h : StepsGoOn s s') (c : Nat) : (s.cell c).step.GoesOn (s'.cell c).step := (h.cell c).step

theorem StepsGoOn.lrn {s s' : State} (h : StepsGoOn s s') (c t : Nat) : (s'.cell c).lrn t = (s.cell c).lrn t :=
  congrArg (fun l => SMap.get l LearnRun.reset t) (h.cell c).learn

theorem TierMoves.stepsGoOn {s s' : State} (h : TierMoves s s') : StepsGoOn s s' where
  cell c := by
    obtain ⟨t, e, q, hc⟩ := h.cell c
    rw [hc]
    exact .of_eq rfl rfl

theorem Reports.stepsGoOn {s s' : State} (h : Reports s s') : StepsGoOn s s' := h.tierMoves.stepsGoOn

section
variable (s : State)

theorem ite_stepsGoOn {p : Prop} [Decidable p] {a b : State} (ha : StepsGoOn s a) (hb : StepsGoOn s b) :
    StepsGoOn s (if p then a else b) := by split <;> assumption

theorem foldl_stepsGoOn {β : Type} (l : List β) {f : State → β → State} (hf : ∀ x b, StepsGoOn x (f x b)) :
    StepsGoOn s (l.foldl f s) := by
  induction l generalizing s with
  | nil => exact .refl s
  | cons b l ih => exact (hf s b).trans (ih _)

theorem State.setCell_stepsGoOn (c : Nat) {v : Cell} (hv : (s.cell c).GoesOn v) : StepsGoOn s (s.setCell c v) := by
  refine ⟨fun d => ?_⟩
  rw [State.cell_setCell]
  split
  · subst_vars
    exact hv
  · exact .refl _

theorem State.onCell_stepsGoOn (c : Nat) {f : Cell → Cell} (hf : ∀ k : Cell, k.GoesOn (f k)) : StepsGoOn s (s.onCell c f) :=
  s.setCell_stepsGoOn c (hf _)

theorem State.onCore_stepsGoOn (c n : Nat) (f : Core → Core) : StepsGoOn s (s.onCore c n f) := s.onCell_stepsGoOn c fun _ => .of_eq rfl rfl

theorem State.cause_stepsGoOn (c code tenant : Nat) (entry : Option Nat) : StepsGoOn s (s.cause c code tenant entry) := by
  refine s.onCell_stepsGoOn c fun k => ?_
  dsimp only
  split
  · exact ⟨⟨rfl, rfl, rfl, List.subset_append_left _ _⟩, rfl⟩
  · exact .refl _

theorem State.causeAt_stepsGoOn (c code tenant step : Nat) : StepsGoOn s (s.causeAt c code tenant step) :=
  ite_stepsGoOn s (s.cause_stepsGoOn ..) (ite_stepsGoOn s (.refl s) (ite_stepsGoOn s (.refl s)
    (s.onCell_stepsGoOn c fun _ => ⟨⟨rfl, rfl, rfl, List.Subset.refl _⟩, rfl⟩)))

theorem State.voidFor_stepsGoOn (c seat cell reason tenant step tensor seq : Nat) :
    StepsGoOn s (s.voidFor c seat cell reason tenant step tensor seq) :=
  ite_stepsGoOn s (s.causeAt_stepsGoOn ..) (State.send_reports (.refl s) ..).stepsGoOn

theorem State.voidWrite_stepsGoOn (c reason : Nat) (w : Write) : StepsGoOn s (s.voidWrite c reason w) := by
  unfold State.voidWrite
  split
  · exact s.voidFor_stepsGoOn ..
  · exact .refl s

end

/-! ## A core is fenced (R88, R317) -/

/-- A core under test that is given up stays fenced or not, and with what its engines hold. -/
theorem abandonTest_core (k : Cell) (t n : Nat) : ((k.abandonTest t).core n).fenced = (k.core n).fenced ∧
    ((k.abandonTest t).core n).engines = (k.core n).engines := by
  unfold Cell.abandonTest
  split
  · exact ⟨rfl, rfl⟩
  next m _ =>
    have hcore (f : Core → Core) : (k.onCore m f).core n = if n = m then f (k.core m) else k.core n := SMap.get_set ..
    rw [hcore]
    split
    · subst_vars
      exact ⟨rfl, rfl⟩
    · exact ⟨rfl, rfl⟩

/-- What becomes of the fenced core's tenants: each gives up a test and is dealt anew (R319, R321). -/
def Cell.redealt (k : Cell) (ts : List Nat) : Cell := ts.foldl (fun k t => (k.abandonTest t).onRun t (fun r => { r with redeal := true })) k

theorem redealt_core (ts : List Nat) (k : Cell) (n : Nat) : ((k.redealt ts).core n).fenced = (k.core n).fenced ∧
    ((k.redealt ts).core n).engines = (k.core n).engines := by
  induction ts generalizing k with
  | nil => exact ⟨rfl, rfl⟩
  | cons t ts ih =>
    obtain ⟨hf, he⟩ := abandonTest_core k t n
    obtain ⟨hf', he'⟩ := ih ((k.abandonTest t).onRun t (fun r => { r with redeal := true }))
    exact ⟨hf'.trans hf, he'.trans he⟩

theorem redealt_goesOn (ts : List Nat) (k : Cell) : k.GoesOn (k.redealt ts) := by
  induction ts generalizing k with
  | nil => exact .refl k
  | cons t ts ih =>
    have habandon : k.GoesOn (k.abandonTest t) := by
      unfold Cell.abandonTest
      split
      · exact .refl k
      · exact .of_eq rfl rfl
    have hredeal (j : Cell) : j.GoesOn (j.onRun t (fun r => { r with redeal := true })) := .of_eq rfl rfl
    exact habandon.trans ((hredeal _).trans (ih _))

theorem State.storeLater_tierMoves (s : State) (x : Store) : TierMoves s (s.storeLater x) := by
  have queued : TierMoves s { s with flash := { s.flash with queue := s.flash.queue ++ [x] } } := ⟨rfl, rfl, rfl, fun _ => ⟨_, _, _, rfl⟩⟩
  unfold State.storeLater
  dsimp only
  split
  · exact queued.trans (foldl_tierMoves _ _ fun y c => (State.errLocal_reports (.refl y) ..).tierMoves)
  · exact queued

theorem ite_tierMoves {s a b : State} {p : Prop} [Decidable p] (ha : TierMoves s a) (hb : TierMoves s b) :
    TierMoves s (if p then a else b) := by split <;> assumption

/-- A core as a fence leaves it (R317, R318). -/
def Core.fencedAs (perm : Bool) (x : Core) : Core :=
  { x with fenced := true, fenceDue := false, testing := false, permFence := perm, testReq := !perm }

/-- The cell of a core just fenced. -/
def Cell.fencing (k : Cell) (n : Nat) (perm : Bool) : Cell := (k.onCore n (Core.fencedAs perm)).redealt (k.tenantsOf n)

theorem fencing_goesOn (k : Cell) (n : Nat) (perm : Bool) : k.GoesOn (k.fencing n perm) :=
  have fenced : k.GoesOn (k.onCore n (Core.fencedAs perm)) := .of_eq rfl rfl
  fenced.trans (redealt_goesOn ..)

/-- What a fence reports and stores (R317, R319). -/
def State.fenceTold (s : State) (c n faults : Nat) (ts : List Nat) (perm : Bool) : State :=
  let s1 := s.err c { cls := clsFENCE, sev := if perm then 3 else 2, unit := 1, core := n, detail := faults }
  let s2 := ts.foldl (fun x t =>
    if 2 < (x.cell c).outCores t then x.err c { cls := clsFENCE, sev := 3, unit := 6, tenant := t, core := n } else x) s1
  if perm then s2.storeLater (.permFence c n) else s2

theorem State.fenceTold_tierMoves (s : State) (c n faults : Nat) (ts : List Nat) (perm : Bool) :
    TierMoves s (s.fenceTold c n faults ts perm) := by
  have told (x : State) (e : Ev) : TierMoves x (x.err c e) := (State.err_reports (.refl x) c e).tierMoves
  have all := (told s { cls := clsFENCE, sev := if perm then 3 else 2, unit := 1, core := n, detail := faults }).trans
    (foldl_tierMoves _ ts fun x t => ite_tierMoves (p := 2 < (x.cell c).outCores t)
      (told x { cls := clsFENCE, sev := 3, unit := 6, tenant := t, core := n }) (.refl x))
  exact ite_tierMoves (all.trans (State.storeLater_tierMoves ..)) all

theorem fence_of_unfenced {s : State} {c n : Nat} (h : ¬((s.cell c).core n).fenced = true) :
    ∃ perm faults, s.fence c n = (s.setCell c ((s.cell c).fencing n perm)).fenceTold c n faults ((s.cell c).tenantsOf n) perm :=
  ⟨_, _, (if_neg h).trans rfl⟩

/-- A fenced core is out, and its engines hold what they held. -/
theorem fence_core (s : State) (c n : Nat) : (((s.fence c n).cell c).core n).fenced = true ∧
    (((s.fence c n).cell c).core n).engines = ((s.cell c).core n).engines := by
  by_cases h : ((s.cell c).core n).fenced = true
  · rw [show s.fence c n = s from if_pos h]
    exact ⟨h, rfl⟩
  · obtain ⟨perm, faults, he⟩ := fence_of_unfenced h
    rw [he, (State.fenceTold_tierMoves ..).core, State.cell_setCell_same]
    obtain ⟨hfenced, hengines⟩ := redealt_core ((s.cell c).tenantsOf n) ((s.cell c).onCore n (Core.fencedAs perm)) n
    rw [Cell.core_onCore_same] at hfenced hengines
    exact ⟨hfenced, hengines⟩

theorem fence_stepsGoOn (s : State) (c n : Nat) : StepsGoOn s (s.fence c n) := by
  by_cases h : ((s.cell c).core n).fenced = true
  · rw [show s.fence c n = s from if_pos h]
    exact .refl s
  · obtain ⟨perm, faults, he⟩ := fence_of_unfenced h
    have hset : StepsGoOn s (s.setCell c ((s.cell c).fencing n perm)) := s.setCell_stepsGoOn c (fencing_goesOn ..)
    rw [he]
    exact hset.trans (State.fenceTold_tierMoves ..).stepsGoOn

/-- What a fence at once voids: the step with FENCE, and tiles not yet sent (R88, R275). -/
def State.fenceVoids (s : State) (c n : Nat) : State :=
  ((s.cell c).core n).unsent.foldl (fun s w => s.voidWrite c vFENCE w)
    (((s.cell c).tenantsOf n).foldl (fun s t => s.cause c vFENCE t none) s)

theorem fenceNow_eq (s : State) (c n : Nat) :
    s.fenceNow c n = ((s.fenceVoids c n).onCore c n (fun x => { x with engines := [], redoDue := [] })).fence c n := rfl

/-- A core fenced at once is out with its engines empty (R88). -/
theorem fenceNow_core (s : State) (c n : Nat) : (((s.fenceNow c n).cell c).core n).fenced = true ∧
    (((s.fenceNow c n).cell c).core n).engines = [] := by
  obtain ⟨hfenced, hengines⟩ := fence_core ((s.fenceVoids c n).onCore c n (fun x => { x with engines := [], redoDue := [] })) c n
  rw [State.onCore_core_same] at hengines
  exact ⟨hfenced, hengines⟩

theorem fenceNow_stepsGoOn (s : State) (c n : Nat) : StepsGoOn s (s.fenceNow c n) := by
  have voided : StepsGoOn s (s.fenceVoids c n) :=
    (foldl_stepsGoOn s _ fun x t => x.cause_stepsGoOn ..).trans (foldl_stepsGoOn _ _ fun x w => x.voidWrite_stepsGoOn ..)
  rw [fenceNow_eq]
  exact voided.trans ((State.onCore_stepsGoOn _ c n _).trans (fence_stepsGoOn _ c n))

end Sys2Proof.Machine

/-! ## Operations complete, and tiles are recomputed (R59, R85, R311, R312) -/

namespace Sys2Proof.Machine

section
variable {t : Nat} {cell : Fin 8} {core : Fin 128} {s : State} {P : State → Prop}

/-! ### OPERATION_COMPLETE -/

section
variable {engine : Nat} {bad : List Nat} {o : EngineOp} (hiss : (s.at t).issuing cell = true)
  (ho : (((s.at t).cell cell).core core).engine engine = some o) (hin : (((s.at t).cell cell).core core).out = false)
include hiss ho hin

/-- Tiles of a PRODUCT that fail the checksum unit fall due for their recompute (R311). -/
theorem operationComplete_of_failing (he : engine = 1) (hbad : ∃ b ∈ bad, b ∈ o.slots)
    (hP : ∀ s', EndsAs ((s.at t).onCore cell core (fun y => { y with redoDue :=
      (y.redoDue ++ (bad.filter o.slots.contains).map (fun b => (o.ctx, b))).dedup })) s' → P s') :
    Answers (.operationComplete t cell core engine bad) s P := by
  subst he
  obtain ⟨b, hb, hslot⟩ := hbad
  have hmem : b ∈ bad.filter o.slots.contains := by simp [hb, hslot]
  have hfailed : (bad.filter o.slots.contains).isEmpty = false := List.isEmpty_eq_false_iff.mpr (List.ne_nil_of_mem hmem)
  refine .of_run rfl ?_ hP
  simp only [ho, hiss, hin, hfailed, if_true, Bool.not_true, Bool.or_self, Bool.false_eq_true, if_false, Bool.not_false]

/-- Where no tile fails, the operation is over, or stays while something of it is still due (R59, R311). -/
theorem operationComplete_of_passing (hpass : engine ≠ 1 ∨ ∀ b ∈ bad, b ∉ o.slots) {x : State}
    (hx : (if (!o.waits.isEmpty || ((s.at t).cell cell).sending ((((s.at t).cell cell).core core).ctx o.ctx).tenant o ||
      (((s.at t).cell cell).core core).redoDue.any (fun r => r.1 = o.ctx)) = true then s.at t
      else (s.at t).finishOp cell core engine o) = x)
    (hP : ∀ s', EndsAs x s' → P s') : Answers (.operationComplete t cell core engine bad) s P := by
  have hfailed : (if engine = 1 then bad.filter o.slots.contains else []).isEmpty = true := by
    rcases hpass with he | hb
    · simp [he]
    · split
      · simpa using hb
      · rfl
  refine .of_run rfl ?_ hP
  simp only [ho, hiss, hin, hfailed, Bool.not_true, Bool.or_self, Bool.false_eq_true, if_false]
  exact hx

end

/-! ### TILE_REDO -/

/-- The VOTE record of a recompute (R312). -/
def Core.voteEv (x : Core) (n tile tenant code sev : Nat) : Ev :=
  { cls := clsVOTE, code := code, sev := sev, unit := 1, tenant := tenant, core := n, obj := (x.slot tile).tile.tag.ident.toNat,
    detail := (x.slot tile).tile.tag.seq }

section
variable {tile : Nat} {r : Nat × Nat} {same passes : Bool} (hiss : (s.at t).issuing cell = true)
  (hr : (((s.at t).cell cell).core core).redoDue.find? (fun y => y.2 = tile) = some r)
include hiss hr

/-- With no core to recompute on, the step voids with CHECK (R311). -/
theorem tileRedo_of_no_core (hm : ((s.at t).cell cell).redoCore ((((s.at t).cell cell).core core).ctx r.1).tenant core = none)
    (hP : ∀ s', EndsAs (((s.at t).onCore cell core (fun y => { y with redoDue := y.redoDue.erase r })).cause cell vCHECK
      ((((s.at t).cell cell).core core).ctx r.1).tenant none) s' → P s') :
    Answers (.tileRedo t cell core tile same passes) s P := by
  refine .of_run rfl ?_ hP
  simp only [hr, hiss, hm, Bool.not_true, Bool.false_eq_true, if_false]

/-- The vote over a recompute (R312). -/
theorem tileRedo_of_core {m : Nat} (hm : ((s.at t).cell cell).redoCore ((((s.at t).cell cell).core core).ctx r.1).tenant core = some m)
    (hP : let x := ((s.at t).cell cell).core core
      let tenant := (x.ctx r.1).tenant
      let s2 := ((s.at t).onCore cell core (fun y => { y with redoDue := y.redoDue.erase r })).useRedo cell m
      ∀ s', EndsAs (if passes then (s2.countFault cell core).err cell (x.voteEv core tile tenant (if same then 1 else 2) 1)
        else ((s2.cause cell vDISAGREE tenant none).err cell (x.voteEv core tile tenant (if same then 3 else 4) 2)).fenceNow cell core)
        s' → P s') :
    Answers (.tileRedo t cell core tile same passes) s P := by
  refine .of_run rfl ?_ hP
  simp only [hr, hiss, hm, Bool.not_true, Bool.false_eq_true, if_false]
  rfl

end

end

theorem State.onCore_step (s : State) (c n d : Nat) (f : Core → Core) : ((s.onCore c n f).cell d).step = (s.cell d).step := by
  rw [State.onCore, State.cell_onCell]
  split
  · subst_vars
    rfl
  · rfl

/-- A failed vote voids the running step with DISAGREE and fences the core (R88, R312). -/
theorem disagreed_cell (s : State) (c n tenant : Nat) (e : Ev) (hrun : (s.cell c).step.running = true) :
    let x := ((s.cause c vDISAGREE tenant none).err c e).fenceNow c n
    ((x.cell c).core n).fenced = true ∧ ((x.cell c).core n).engines = [] ∧
      { code := vDISAGREE, tenant := tenant, entry := none } ∈ (x.cell c).step.causes := by
  obtain ⟨hfenced, hengines⟩ := fenceNow_core ((s.cause c vDISAGREE tenant none).err c e) c n
  have hgoes : StepsGoOn (s.cause c vDISAGREE tenant none) (((s.cause c vDISAGREE tenant none).err c e).fenceNow c n) :=
    (State.err_reports (.refl (s.cause c vDISAGREE tenant none)) c e).stepsGoOn.trans (fenceNow_stepsGoOn _ c n)
  exact ⟨hfenced, hengines, (hgoes.step c).causes (mem_causes_cause _ hrun)⟩

/-- Settles O21: the operation by what is still due of it, the recompute by its vote. -/
theorem anOperationCompletesOrIsRedone : Obligations.AnOperationCompletesOrIsRedone := by
  refine fun t cell core s hiss => ⟨fun engine bad o ho hin => ⟨fun ⟨he, hbad⟩ => ?failing, fun hpass hwaits hsent hdue => ?finished,
    fun hpass hdue => ?stays⟩, fun tile r same passes hr => ⟨fun hm => ?noCore, fun m hm => ⟨fun hp => ?passes, fun hp => ?fails⟩⟩⟩
  case failing => exact operationComplete_of_failing hiss ho hin he hbad fun s' h => h.silent
  case finished =>
    have hdone : (((s.at t).cell cell).core core).redoDue.any (fun r => r.1 = o.ctx) = false := by simpa using fun a b => hdue (a, b)
    exact operationComplete_of_passing hiss ho hin hpass (if_neg (by simp [hwaits, hsent, hdone])) fun s' h => h.silent
  case stays =>
    refine operationComplete_of_passing hiss ho hin hpass (if_pos ?_) fun s' h => h.silent
    rcases hdue with hwaits | hsent | ⟨r, hr, hctx⟩
    · simp [hwaits]
    · simp [hsent]
    · have hdue : (((s.at t).cell cell).core core).redoDue.any (fun r => r.1 = o.ctx) = true :=
        List.any_eq_true.mpr ⟨r, hr, decide_eq_true hctx⟩
      simp [hdue]
  case noCore => exact tileRedo_of_no_core hiss hr hm fun s' h => h.silent
  case passes =>
    refine tileRedo_of_core hiss hr hm fun s' h => .trans ?_ h.reports
    rw [if_pos hp]
    exact State.err_reports (.refl _) ..
  case fails =>
    refine tileRedo_of_core hiss hr hm fun s' h => ?_
    rw [if_neg (by simp [hp])] at h
    have hrun : ((s.at t).cell cell).step.running = true := by
      simp only [State.issuing, Bool.and_eq_true] at hiss
      exact hiss.1.2
    obtain ⟨hfenced, hengines, hcause⟩ := disagreed_cell
      (((s.at t).onCore cell core (fun y => { y with redoDue := y.redoDue.erase r })).useRedo cell m) cell core
      ((((s.at t).cell cell).core core).ctx r.1).tenant
      ((((s.at t).cell cell).core core).voteEv core tile ((((s.at t).cell cell).core core).ctx r.1).tenant (if same then 3 else 4) 2)
      (by rw [State.useRedo, State.onCore_step, State.onCore_step, hrun])
    refine ⟨?_, ?_, ⟨vDISAGREE, ((((s.at t).cell cell).core core).ctx r.1).tenant, none⟩, ?_, rfl, rfl⟩
    · rw [h.core]
      exact hfenced
    · rw [h.core]
      exact hengines
    · rw [h.step]
      exact hcause

end Sys2Proof.Machine

/-! ## The watchdog (R68, R206) -/

namespace Sys2Proof

/-- What a change makes of every value, and what the default has, holds of every value changed. -/
theorem SMap.get_mapV_ind {β : Type} [DecidableEq β] {d : β} {f : β → β} {P : β → Prop} (hd : P d) (hf : ∀ v, P (f v))
    (m : SMap β) (k : Nat) : P ((m.mapV d f).get d k) := by
  by_cases h : (m.mapV d f).get d k = d
  · rwa [h]
  · obtain ⟨p, _, hp⟩ := List.mem_map.mp (List.mem_filter.mp (SMap.mem_of_get_ne h)).1
    have hv : f p.2 = (m.mapV d f).get d k := congrArg Prod.snd hp
    rw [← hv]
    exact hf p.2

end Sys2Proof

namespace Sys2Proof.Machine

theorem State.watchdogRecords_reports (s : State) (c t : Nat) : Reports s (s.watchdogRecords c t) :=
  List.foldlRecOn _ _ (Reports.refl s) fun _ h _ _ => State.err_reports h ..

/-- A void cause of an overdue step: CHECK or LINK (R68, R206). -/
def IsOverdueCode (code : Nat) : Prop := code = vCHECK ∨ code = vLINK

theorem overdueCauses_code {s : State} {c t code : Nat} (h : code ∈ s.overdueCauses c t) : IsOverdueCode code := by
  simp only [State.overdueCauses, List.mem_append] at h
  rcases h with h | h <;> split at h <;> simp_all [IsOverdueCode]

/-- Where the cause is not LINK, it is CHECK: an overdue step is never without one. -/
theorem overdueCauses_ne_nil (s : State) (c t : Nat) : s.overdueCauses c t ≠ [] := by
  unfold State.overdueCauses
  by_cases h : s.sumsMissing c t && s.partPathLost c t <;> simp [h]

/-! ### Homes -/

/-- What the watchdog does to homes: causes for their reports, and records; the learning steps stay in their phases. -/
structure HomesTold (s s' : State) : Prop where
  now     : s'.now = s.now
  boot    : s'.boot = s.boot
  seating : s'.seating = s.seating
  coords  : s'.coords = s.coords
  cell    : ∀ c, ∃ l e q, s'.cell c = { s.cell c with learn := l, err := e, korif := q }
  phase   : ∀ c t, ((s'.cell c).lrn t).phase = ((s.cell c).lrn t).phase

theorem HomesTold.refl (s : State) : HomesTold s s := ⟨rfl, rfl, rfl, rfl, fun _ => ⟨_, _, _, rfl⟩, fun _ _ => rfl⟩

theorem HomesTold.trans {a b c : State} (h : HomesTold a b) (g : HomesTold b c) : HomesTold a c where
  now := g.now.trans h.now
  boot := g.boot.trans h.boot
  seating := g.seating.trans h.seating
  coords := g.coords.trans h.coords
  cell d := by
    obtain ⟨_, _, _, hb⟩ := h.cell d
    obtain ⟨l, e, q, hc⟩ := g.cell d
    exact ⟨l, e, q, by rw [hc, hb]⟩
  phase d t := (g.phase d t).trans (h.phase d t)

theorem Reports.homesTold {s s' : State} (h : Reports s s') : HomesTold s s' where
  now := h.now
  boot := h.boot
  seating := h.seating
  coords := h.coords
  cell c := by
    obtain ⟨e, p, q, hc⟩ := h.cell c
    exact ⟨_, e, _, hc⟩
  phase c t := by
    obtain ⟨e, p, q, hc⟩ := h.cell c
    rw [hc]
    rfl

theorem State.onLrn_causes_homesTold (s : State) (c t : Nat) (l : List Nat) :
    HomesTold s (s.onCell c (fun k => k.onLrn t (fun x => { x with causes := l }))) := by
  refine ⟨rfl, rfl, rfl, rfl, fun d => ?_, fun d t' => ?_⟩ <;> rw [State.cell_onCell]
  · split
    · subst_vars
      exact ⟨_, _, _, rfl⟩
    · exact ⟨_, _, _, rfl⟩
  · split
    · subst_vars
      rw [Cell.lrn, Cell.onLrn, SMap.get_set]
      split
      · subst_vars
        rfl
      · rfl
    · rfl

theorem State.watchdogHomes_told (s : State) (c : Nat) : HomesTold s (s.watchdogHomes c) :=
  List.foldlRecOn _ _ (.refl s) fun x h t _ =>
    h.trans ((x.onLrn_causes_homesTold c t (x.overdueCauses c t)).trans (State.watchdogRecords_reports _ c t).homesTold)

/-- The layout of a layer's tensors reads nothing of the cell but its images. -/
theorem layParts_congr {k k' : Cell} (h : k'.runs = k.runs) (tenant : Nat) (l : List Tensor) (first row : Nat) :
    layParts k' tenant l first row = layParts k tenant l first row := by
  induction l generalizing first row with
  | nil => rfl
  | cons x l ih => simp only [layParts, Cell.columnsOf, Cell.run, h, ih]

section
variable {s s' : State} (h : HomesTold s s') (c : Nat)
include h

theorem HomesTold.step : (s'.cell c).step = (s.cell c).step := by
  obtain ⟨_, _, _, hc⟩ := h.cell c
  rw [hc]

theorem HomesTold.runs : (s'.cell c).runs = (s.cell c).runs := by
  obtain ⟨_, _, _, hc⟩ := h.cell c
  rw [hc]

theorem HomesTold.run (t : Nat) : (s'.cell c).run t = (s.cell c).run t := by rw [Cell.run, h.runs, Cell.run]

theorem HomesTold.homeCell (layer : Nat) : s'.homeCell c layer = s.homeCell c layer := by
  obtain ⟨_, _, _, hc⟩ := h.cell c
  rw [State.homeCell, State.homeCell, State.mySeat, State.mySeat, h.seating, hc]

theorem HomesTold.groupImages (t : Nat) : s'.groupImages t = s.groupImages t := by
  simp only [State.groupImages, State.coord, h.coords, h.run]

theorem HomesTold.updatesAt (t : Nat) : s'.updatesAt c t = s.updatesAt c t := by
  obtain ⟨_, _, _, hc⟩ := h.cell c
  simp only [State.updatesAt, h.groupImages, h.homeCell, hc]

theorem HomesTold.unwritten (x : Named) : s'.unwritten c x = s.unwritten c x := by
  obtain ⟨l, e, q, hc⟩ := h.cell c
  have hown : (s'.cell c).ownTensor = (s.cell c).ownTensor := by
    rw [hc]
    rfl
  have helems : (s'.cell c).layerElems = (s.cell c).layerElems := by
    funext tenant layer
    simp only [Cell.layerElems, Cell.partsOf, hown, h.run, layParts_congr (h.runs c)]
  have hsums : (s'.cell c).sums = (s.cell c).sums := by rw [hc]
  have hseat : s'.mySeat = s.mySeat := by rw [State.mySeat, h.seating, State.mySeat]
  simp only [State.unwritten, State.sumTiles, hown, helems, hsums, hseat, h.groupImages]

theorem HomesTold.sumsDone (t : Nat) : s'.sumsDone c t = s.sumsDone c t := by
  obtain ⟨l, e, q, hc⟩ := h.cell c
  simp only [State.sumsDone, h.updatesAt, h.unwritten, hc]

theorem HomesTold.sumsMissing (t : Nat) : s'.sumsMissing c t = s.sumsMissing c t := by
  rw [State.sumsMissing, h.phase, h.sumsDone, State.sumsMissing]

/-- Which tenants are overdue does not change as homes are told. -/
theorem HomesTold.overdue : s'.overdue c = s.overdue c := by
  obtain ⟨l, e, q, hc⟩ := h.cell c
  have hlimit : (s'.cell c).stepLimit = (s.cell c).stepLimit := by
    rw [hc]
    rfl
  have hover : (s'.cell c).threadsOver = (s.cell c).threadsOver := by
    rw [hc]
    rfl
  have hcomputes : (s'.cell c).computes = (s.cell c).computes := by
    rw [hc]
    rfl
  have htime : s'.time c = s.time c := by rw [State.time, h.now, h.boot, hc, State.time]
  simp only [State.overdue, h.runs, h.step, hlimit, hover, hcomputes, htime, h.sumsMissing]

end

/-- Causes as the watchdog gives them to a report. -/
def CutCauses (l : List Nat) : Prop := l ≠ [] ∧ ∀ x ∈ l, IsOverdueCode x

theorem overdueCauses_cut (s : State) (c t : Nat) : CutCauses (s.overdueCauses c t) :=
  ⟨overdueCauses_ne_nil s c t, fun _ => overdueCauses_code⟩

/-- The causes of one home are set, and those of the others stay. -/
theorem cutHome_causes (s : State) (c t t' : Nat) :
    (((s.onCell c (fun k => k.onLrn t (fun l => { l with causes := s.overdueCauses c t }))).watchdogRecords c t).cell c |>.lrn t').causes =
      if t' = t then s.overdueCauses c t else ((s.cell c).lrn t').causes := by
  rw [(State.watchdogRecords_reports _ c t).stepsGoOn.lrn, State.cell_onCell_same, Cell.lrn, Cell.onLrn, SMap.get_set]
  split <;> rfl

/-- Every home that is told has the causes for its report. -/
theorem watchdogHomes_causes {s : State} {c t : Nat} (ht : t ∈ s.overdueHomes c) :
    CutCauses (((s.watchdogHomes c).cell c).lrn t).causes := by
  have told (l : List Nat) : ∀ x : State, t ∈ l ∨ CutCauses ((x.cell c).lrn t).causes → CutCauses (((l.foldl (fun x t =>
      (x.onCell c (fun k => k.onLrn t (fun y => { y with causes := x.overdueCauses c t }))).watchdogRecords c t) x).cell c).lrn t).causes := by
    induction l with
    | nil => exact fun x hx => hx.resolve_left (by simp)
    | cons a l ih =>
      refine fun x hx => ih _ ?_
      rw [cutHome_causes]
      split
      · exact .inr (overdueCauses_cut x c a)
      next hne => exact hx.imp_left fun hmem => (List.mem_cons.mp hmem).resolve_left hne
  exact told _ s (.inl ht)

/-! ### The step -/

/-- The causes that one overdue tenant's step gets (R68). -/
def State.cutTenant (s : State) (c t : Nat) : State := ((s.overdueCauses c t).foldl (fun s why => s.cause c why t none) s).watchdogRecords c t

theorem State.cutTenant_goesOn (s : State) (c t : Nat) : StepsGoOn s (s.cutTenant c t) :=
  (foldl_stepsGoOn s _ fun x why => x.cause_stepsGoOn c why t none).trans (State.watchdogRecords_reports _ c t).stepsGoOn

/-- The step of the tenant in the cell has a cause of void that an overdue step can have. -/
def State.CutFor (s : State) (c t : Nat) : Prop := ∃ x ∈ (s.cell c).step.causes, x.tenant = t ∧ IsOverdueCode x.code

theorem State.CutFor.goesOn {s s' : State} {c t : Nat} (h : s.CutFor c t) (hgo : StepsGoOn s s') : s'.CutFor c t :=
  let ⟨x, hx, hrest⟩ := h
  ⟨x, (hgo.step c).causes hx, hrest⟩

theorem State.cutTenant_cutFor {s : State} {c : Nat} (t : Nat) (hrun : (s.cell c).step.running = true) : (s.cutTenant c t).CutFor c t := by
  obtain ⟨why, l, hl⟩ := List.exists_cons_of_ne_nil (overdueCauses_ne_nil s c t)
  have hcut : (s.cause c why t none).CutFor c t :=
    ⟨⟨why, t, none⟩, mem_causes_cause s hrun, rfl, overdueCauses_code (hl ▸ List.mem_cons_self)⟩
  rw [State.cutTenant, hl]
  exact (hcut.goesOn (foldl_stepsGoOn _ l fun x why => x.cause_stepsGoOn c why t none)).goesOn
    (State.watchdogRecords_reports _ c t).stepsGoOn

/-- Each tenant cut gets its cause, and the step goes on meanwhile. -/
theorem foldl_cutTenant (c : Nat) (l : List Nat) {s : State} (hrun : (s.cell c).step.running = true) :
    ∀ t ∈ l, (l.foldl (fun s t => s.cutTenant c t) s).CutFor c t := by
  induction l generalizing s with
  | nil => simp
  | cons a l ih =>
    have hgo := s.cutTenant_goesOn c a
    refine List.forall_mem_cons.mpr ⟨?_, ih ((hgo.step c).running.trans hrun)⟩
    exact (State.cutTenant_cutFor a hrun).goesOn (foldl_stepsGoOn _ l fun x t => x.cutTenant_goesOn c t)

/-- The step as its threads are stopped: tiles that will not be sent are named first (R275). -/
theorem State.stopStep_eq (s : State) (c : Nat) : ∃ s1, StepsGoOn s s1 ∧ s.stopStep c = s1.onCell c (fun k => { k with
    cores := k.cores.mapV Core.reset (fun x => { x with engines := [], redoDue := [] }), step := { k.step with stopped := true } }) :=
  ⟨_, foldl_stepsGoOn s _ fun x _ => foldl_stepsGoOn x _ fun y w => y.voidWrite_stepsGoOn c vCHECK w, rfl⟩

theorem State.stopStep_cores (s : State) (c n : Nat) :
    (((s.stopStep c).cell c).core n).engines = [] ∧ (((s.stopStep c).cell c).core n).redoDue = [] := by
  obtain ⟨s1, _, he⟩ := s.stopStep_eq c
  rw [he, State.cell_onCell_same]
  exact SMap.get_mapV_ind (f := fun x : Core => { x with engines := [], redoDue := [] })
    (P := fun x => x.engines = [] ∧ x.redoDue = []) ⟨rfl, rfl⟩ (fun _ => ⟨rfl, rfl⟩) (s1.cell c).cores n

theorem State.stopStep_step (s : State) (c : Nat) : ((s.stopStep c).cell c).step.stopped = true ∧
    ((s.stopStep c).cell c).step.running = (s.cell c).step.running ∧ (s.cell c).step.causes ⊆ ((s.stopStep c).cell c).step.causes := by
  obtain ⟨s1, hgo, he⟩ := s.stopStep_eq c
  rw [he, State.cell_onCell_same]
  exact ⟨rfl, (hgo.step c).running, (hgo.step c).causes⟩

theorem State.stopStep_lrn (s : State) (c t : Nat) : ((s.stopStep c).cell c).lrn t = (s.cell c).lrn t := by
  obtain ⟨s1, hgo, he⟩ := s.stopStep_eq c
  rw [he, State.cell_onCell_same]
  exact hgo.lrn c t

theorem watchdogStep_of_idle {s : State} {c : Nat} (h : (s.cell c).step.running = false ∨ (s.cell c).step.stopped ∨ s.overdue c = []) :
    s.watchdogStep c = s := if_pos (by rcases h with h | h | h <;> simp [h])

theorem watchdogStep_of_overdue {s : State} {c : Nat} (hrun : (s.cell c).step.running) (hstop : (s.cell c).step.stopped = false)
    (hl : s.overdue c ≠ []) : s.watchdogStep c = ((s.overdue c).foldl (fun s t => s.cutTenant c t) s).stopStep c :=
  if_neg (by simp [hrun, hstop, hl])

/-- The cell's step is no matter of its learning runs. -/
theorem watchdogStep_lrn (s : State) (c t : Nat) : ((s.watchdogStep c).cell c).lrn t = (s.cell c).lrn t := by
  by_cases h : (s.cell c).step.running = false ∨ (s.cell c).step.stopped ∨ s.overdue c = []
  · rw [watchdogStep_of_idle h]
  · simp only [not_or, Bool.not_eq_false, Bool.not_eq_true] at h
    obtain ⟨hrun, hstop, hl⟩ := h
    rw [watchdogStep_of_overdue hrun hstop hl, State.stopStep_lrn]
    exact (foldl_stepsGoOn s _ fun x t => x.cutTenant_goesOn c t).lrn c t

theorem stepWatchdog_of_up {t : Nat} {cell : Fin 8} {s : State} {P : State → Prop} (hup : (s.at t).cellUp cell = true)
    (hP : ∀ s', EndsAs (((s.at t).watchdogHomes cell).watchdogStep cell) s' → P s') : Answers (.stepWatchdog t cell) s P :=
  .of_run rfl (if_pos hup) hP

/-- Settles O22: telling homes leaves what is overdue as it is; each tenant cut gets its cause, and the stop empties the engines. -/
theorem theWatchdogStopsAnOverdueStep : Obligations.TheWatchdogStopsAnOverdueStep := by
  refine fun t cell s hup => ⟨fun hrun hstop hl => stepWatchdog_of_up hup fun s' h => ?overdue,
    stepWatchdog_of_up hup fun s' h => ?homes, fun hno hidle => stepWatchdog_of_up hup fun s' h => ?idle⟩
  case overdue =>
    have told := (s.at t).watchdogHomes_told cell
    rw [← told.step] at hrun hstop
    rw [← told.overdue] at hl ⊢
    rw [watchdogStep_of_overdue hrun hstop hl] at h
    have hgo := foldl_stepsGoOn ((s.at t).watchdogHomes cell) (((s.at t).watchdogHomes cell).overdue cell) fun x t => x.cutTenant_goesOn cell t
    obtain ⟨hstopped, hrunning, hcauses⟩ := State.stopStep_step (((((s.at t).watchdogHomes cell).overdue cell).foldl
      (fun s t => s.cutTenant cell t) ((s.at t).watchdogHomes cell))) cell
    simp only [h.step, h.core]
    refine ⟨hstopped, hrunning.trans ((hgo.step cell).running.trans hrun), State.stopStep_cores _ cell, fun tn htn => ?_⟩
    obtain ⟨x, hx, htenant, hcode⟩ := foldl_cutTenant cell _ hrun tn htn
    exact ⟨x, hcauses hx, htenant, hcode⟩
  case homes =>
    intro tn htn
    rw [h.lrn, watchdogStep_lrn]
    exact watchdogHomes_causes htn
  case idle =>
    rw [State.watchdogHomes, hno, List.foldl_nil, watchdogStep_of_idle hidle] at h
    exact h.silent

end Sys2Proof.Machine

/-! ## The beginning of a step (R64, R168, R177, R182, R208) -/

namespace Sys2Proof.Machine

/-! ### Writes of tiles -/

section
variable (s : State)

theorem State.pokeTile_tierMoves (c tenant : Nat) (ident : BitVec 24) (i off n data : Nat) :
    TierMoves s (s.pokeTile c tenant ident i off n data).1 := by
  unfold State.pokeTile
  split
  · exact .refl s
  · exact s.tierWrite_tierMoves ..

theorem State.pokeFrom_tierMoves (fuel c tenant : Nat) (ident : BitVec 24) (off n data : Nat) :
    TierMoves s (State.pokeFrom fuel s c tenant ident off n data).1 := by
  induction fuel generalizing s off n data with
  | zero => exact .refl s
  | succ fuel ih =>
    unfold State.pokeFrom
    split
    · exact .refl s
    · exact (s.pokeTile_tierMoves ..).trans (ih ..)

theorem State.poke_tierMoves (c tenant ident off n data : Nat) : TierMoves s (s.poke c tenant ident off n data).1 :=
  s.pokeFrom_tierMoves ..

theorem State.pokeWords_tierMoves (c tenant ident e : Nat) (ws : List Nat) : TierMoves s (s.pokeWords c tenant ident e ws).1 :=
  s.poke_tierMoves ..

theorem State.pokeGroup_tierMoves (g : List Nat) (t : Nat) (which : Setup → BitVec 24) (word : Nat) (ws : List Nat) :
    TierMoves s (s.pokeGroup g t which word ws) := by
  refine foldl_tierMoves s g fun x m => ?_
  split
  · exact .refl x
  · exact x.pokeWords_tierMoves ..

theorem State.fillTile_tierMoves (c tenant : Nat) (ident : BitVec 24) (i : Nat) (p : Payload) (poison : Bool) :
    TierMoves s (s.fillTile c tenant ident i p poison) := s.tierPut_tierMoves ..

theorem State.zeroSet_tierMoves (m t : Nat) (u : Setup) (set : Nat) : TierMoves s (s.zeroSet m t u set) :=
  foldl_tierMoves s _ fun x _ => x.fillTile_tierMoves ..

theorem State.writePosition_tierMoves (c : Nat) (r : StepRow) : TierMoves s (s.writePosition c r) := s.pokeGroup_tierMoves ..

theorem State.writeStepList_tierMoves (c : Nat) (rows : List StepRow) (t : Nat) : TierMoves s (s.writeStepList c rows t) := by
  refine foldl_tierMoves s _ fun x m => ?_
  split
  · exact .refl x
  · exact x.poke_tierMoves ..

end

/-! ### Every cell's clock -/

/-- No clock has moved: device time reads on every cell as before (R13). -/
structure SameClock (s s' : State) : Prop where
  now  : s'.now = s.now
  boot : s'.boot = s.boot
  toff : ∀ c, (s'.cell c).toff = (s.cell c).toff

theorem SameClock.refl (s : State) : SameClock s s := ⟨rfl, rfl, fun _ => rfl⟩

theorem SameClock.trans {a b c : State} (h : SameClock a b) (g : SameClock b c) : SameClock a c :=
  ⟨g.now.trans h.now, g.boot.trans h.boot, fun d => (g.toff d).trans (h.toff d)⟩

theorem SameClock.time {s s' : State} (h : SameClock s s') (c : Nat) : s'.time c = s.time c := by
  rw [State.time, h.now, h.boot, h.toff, State.time]

theorem TierMoves.sameClock {s s' : State} (h : TierMoves s s') : SameClock s s' where
  now := h.now
  boot := h.boot
  toff c := by
    obtain ⟨t, e, q, hc⟩ := h.cell c
    rw [hc]

section
variable (s : State)

theorem foldl_sameClock {β : Type} (l : List β) {f : State → β → State} (hf : ∀ x b, SameClock x (f x b)) : SameClock s (l.foldl f s) :=
  List.foldlRecOn l f (.refl s) fun x h b _ => h.trans (hf x b)

theorem ite_sameClock {p : Prop} [Decidable p] {a b : State} (ha : SameClock s a) (hb : SameClock s b) :
    SameClock s (if p then a else b) := by split <;> assumption

theorem State.onCell_sameClock (c : Nat) {f : Cell → Cell} (hf : ∀ k, (f k).toff = k.toff) : SameClock s (s.onCell c f) := by
  refine ⟨rfl, rfl, fun d => ?_⟩
  rw [State.cell_onCell]
  split
  · subst_vars
    exact hf _
  · rfl

theorem State.onEntry_sameClock (c i : Nat) (f : ReqEntry → ReqEntry) : SameClock s (s.onCell c (fun k => k.onEntry i f)) :=
  s.onCell_sameClock c fun _ => rfl

theorem State.onCells_onEntry_sameClock (g : List Nat) (i : Nat) (f : ReqEntry → ReqEntry) :
    SameClock s (s.onCells g (fun k => k.onEntry i f)) := foldl_sameClock s g fun x m => x.onEntry_sameClock m i f

/-! ### A step is laid out -/

theorem State.takePageTile_sameClock (m i : Nat) (u : Setup) : SameClock s (s.takePageTile m i u) := by
  have linked (t n : Nat) (e : Nat) : TierMoves s ((s.fillTile m t u.pageList n 0 false).pokeWords m t u.pageList.toNat e [0xFFFFFFFF]).1 :=
    (s.fillTile_tierMoves ..).trans (State.pokeWords_tierMoves ..)
  unfold State.takePageTile
  dsimp only
  refine .trans (TierMoves.sameClock ?_) (State.onEntry_sameClock _ m i _)
  split
  · exact linked ..
  · exact (linked ..).trans (State.pokeWords_tierMoves ..)

theorem State.takePageSet_sameClock (m i : Nat) (u : Setup) : SameClock s (s.takePageSet m i u) := by
  unfold State.takePageSet
  dsimp only
  refine .trans ?_ (State.onEntry_sameClock _ m i _)
  refine .trans ?_ ((State.zeroSet_tierMoves _ m _ u _).trans (State.pokeWords_tierMoves ..)).sameClock
  exact ite_sameClock s (s.takePageTile_sameClock m i u) (.refl s)

theorem State.takePages_sameClock (n m i : Nat) (u : Setup) : SameClock s (State.takePages n s m i u) := by
  induction n generalizing s with
  | zero => exact .refl s
  | succ n ih => exact (s.takePageSet_sameClock m i u).trans (ih _)

theorem State.pagesFor_sameClock (m : Nat) (r : StepRow) : SameClock s (s.pagesFor m r) := by
  unfold State.pagesFor
  dsimp only
  split
  · exact .refl s
  · exact s.takePages_sameClock ..

theorem State.releaseOne_sameClock (c i : Nat) : SameClock s (s.releaseOne c i) := by
  unfold State.releaseOne
  dsimp only
  split
  · exact s.onEntry_sameClock c i _
  · split
    · exact s.onCells_onEntry_sameClock ..
    · exact s.onEntry_sameClock c i _

theorem State.holdRequests_sameClock (c : Nat) : SameClock s (s.holdRequests c) :=
  foldl_sameClock s _ fun x _ => ite_sameClock x (x.onCells_onEntry_sameClock ..) (ite_sameClock x (x.releaseOne_sameClock ..) (.refl x))

/-- Rows that take entries into prefill leave the cell's clock. -/
theorem foldl_onEntry_toff (rows : List StepRow) (f : ReqEntry → ReqEntry) (k : Cell) :
    (rows.foldl (fun k r => k.onEntry r.entry f) k).toff = k.toff :=
  List.foldlRecOn (motive := fun x : Cell => x.toff = k.toff) rows _ rfl fun _ h _ _ => h

theorem State.layStep_sameClock (c : Nat) (rows : List StepRow) : SameClock s (s.layStep c rows) := by
  have laid (g : List Nat) (f : ReqEntry → ReqEntry) : SameClock s (g.foldl (fun s m => s.onCell m (fun k =>
      let k1 := rows.foldl (fun k r => k.onEntry r.entry f) k
      { k1 with gen := { k1.gen with rows := rows, reports := [] } })) s) :=
    foldl_sameClock s g fun x m => x.onCell_sameClock m fun k => foldl_onEntry_toff rows f k
  have planned (x : State) (d : Nat) : SameClock x (x.onCell c (fun k => { k with gen := { k.gen with planned := d } })) :=
    x.onCell_sameClock c fun _ => rfl
  have paged (x : State) (g : List Nat) : SameClock x (g.foldl (fun s m => rows.foldl (fun s r => s.pagesFor m r) s) x) :=
    foldl_sameClock x g fun y m => foldl_sameClock y rows fun z r => z.pagesFor_sameClock m r
  have listed (x : State) (ts : List Nat) : SameClock x (ts.foldl (fun s t => s.writeStepList c rows t) x) :=
    (foldl_tierMoves x ts fun y t => y.writeStepList_tierMoves c rows t).sameClock
  have placed (x : State) : SameClock x (rows.foldl (fun s r => s.writePosition c r) x) :=
    (foldl_tierMoves x rows fun y r => y.writePosition_tierMoves c r).sameClock
  exact (laid ..).trans ((planned ..).trans ((paged ..).trans ((listed ..).trans (placed _))))

/-! ### The step begins -/

theorem State.release_stepsGoOn (c : Nat) : StepsGoOn s (s.onCell c Cell.release) := s.onCell_stepsGoOn c fun _ => .of_eq rfl rfl

theorem State.signalAt_stepsGoOn (c tenant group ctr add : Nat) : StepsGoOn s (s.signalAt c tenant group ctr add) := by
  unfold State.signalAt
  split
  · exact (State.err_reports (.refl s) ..).stepsGoOn
  · split
    next x _ _ =>
      have signalled (n : Nat) : StepsGoOn s (s.onCell c (fun k => (k.setCore n x).release)) :=
        s.onCell_stepsGoOn c fun _ => .of_eq rfl rfl
      exact ite_stepsGoOn s ((signalled _).trans (State.cause_stepsGoOn ..)) (signalled _)

theorem State.syncArrive_stepsGoOn (m : SyncMsg) : StepsGoOn s ((s.syncArrive m).getD s) := by
  have either {p : Prop} [Decidable p] {a b : Option State} (ha : StepsGoOn s (a.getD s)) (hb : StepsGoOn s (b.getD s)) :
      StepsGoOn s ((if p then a else b).getD s) := by split <;> assumption
  have discarded (e : Ev) : StepsGoOn s ((some (s.err m.cell e)).getD s) := (State.err_reports (.refl s) m.cell e).stepsGoOn
  exact either (s.signalAt_stepsGoOn ..) (either (either (.refl s) (s.onCore_stepsGoOn ..)) (discarded _))

theorem State.takePending_stepsGoOn (c : Nat) : StepsGoOn s (s.takePending c) := by
  have taken : StepsGoOn s (s.onCell c (fun k => { k with cores := k.cores.mapV Core.reset (fun x => { x with pend := [] }) })) :=
    s.onCell_stepsGoOn c fun _ => .of_eq rfl rfl
  exact taken.trans (foldl_stepsGoOn _ _ fun x m => x.syncArrive_stepsGoOn m)

/-- A step that begins runs from the cell's device time on (R64). -/
theorem startStep_step (c : Nat) (ts : List Nat) : ((s.startStep c ts).cell c).step.running = true ∧
    ((s.startStep c ts).cell c).step.began = s.time c := by
  let s1 := s.onCell c (fun k => { k.startCores ts with step := k.step.start (s.time c) })
  have hgo : StepsGoOn s1 (s.startStep c ts) :=
    (foldl_stepsGoOn s1 ts fun x t => ite_stepsGoOn x (x.cause_stepsGoOn c vFENCE t none) (.refl x)).trans
      ((State.takePending_stepsGoOn _ c).trans (State.release_stepsGoOn _ c))
  have hs1 : (s1.cell c).step = (s.cell c).step.start (s.time c) := by rw [State.cell_onCell_same]
  exact ⟨(hgo.step c).running.trans (by rw [hs1]; rfl), (hgo.step c).began.trans (by rw [hs1]; rfl)⟩

end

theorem foldl_onLrn_step (ts : List Nat) (f : LearnRun → LearnRun) (k : Cell) : (ts.foldl (fun k l => k.onLrn l f) k).step = k.step :=
  List.foldlRecOn (motive := fun x : Cell => x.step = k.step) ts _ rfl fun _ h _ _ => h

section
variable {s : State} {c : Nat}

theorem beginLead_of_not_all (h : ∃ m ∈ s.groupOf c, s.mayBegin m = false) : s.beginLead c = s := by
  obtain ⟨m, hm, hno⟩ := h
  have hall : (s.groupOf c).all s.mayBegin = false := List.all_eq_false.mpr ⟨m, hm, by simp [hno]⟩
  exact if_pos (by rw [hall]; rfl)

/-- A lead whose group may begin: the step where some request has a row, else the held requests alone (R182, R193). -/
theorem beginLead_of_all (h : ∀ m ∈ s.groupOf c, s.mayBegin m) : s.beginLead c =
    if ((s.holdRequests c).cell c).planRows.isEmpty then s.holdRequests c
    else ((s.holdRequests c).layStep c ((s.holdRequests c).cell c).planRows).startStep c
      (((s.holdRequests c).cell c).rowTenants ((s.holdRequests c).cell c).planRows) :=
  if_neg (by rw [List.all_eq_true.mpr h]; decide)

theorem beginFollower_of_ready {m : Nat} (hm : (s.cell m).step.running) (hrows : (s.cell c).gen.rows ≠ []) (hmay : s.mayBegin c) :
    s.beginFollower c m = s.startStep c ((s.cell c).rowTenants (s.cell c).gen.rows) := if_pos (by simp [hm, hrows, hmay])

theorem beginLearn_of_open (hmay : s.mayBegin c) (ho : (s.cell c).openTenants ≠ []) : s.beginLearn c =
    (s.startStep c (s.cell c).openTenants).onCell c (fun k =>
      (s.cell c).openTenants.foldl (fun k t => k.onLrn t (fun l => { l with phase := .running })) k) := if_neg (by simp [hmay, ho])

end

section
variable {t : Nat} {cell : Fin 8} {s : State} {P : State → Prop}

theorem stepBegin_of_lead {x : State} (hl : (s.at t).leadCell cell = some cell.val) (hx : (s.at t).beginLead cell = x)
    (hP : ∀ s', EndsAs x s' → P s') : Answers (.stepBegin t cell) s P := by
  refine .of_run rfl ?_ hP
  simp only [hl, if_true]
  exact hx

theorem stepBegin_of_follower {x : State} {m : Nat} (hl : (s.at t).leadCell cell = some m) (hm : m ≠ cell.val)
    (hx : (s.at t).beginFollower cell m = x) (hP : ∀ s', EndsAs x s' → P s') : Answers (.stepBegin t cell) s P := by
  refine .of_run rfl ?_ hP
  simp only [hl, if_neg hm]
  exact hx

theorem stepBegin_of_learner {x : State} (hl : (s.at t).leadCell cell = none) (hx : (s.at t).beginLearn cell = x)
    (hP : ∀ s', EndsAs x s' → P s') : Answers (.stepBegin t cell) s P := by
  refine .of_run rfl ?_ hP
  simp only [hl]
  exact hx

/-- What a cell's step is just after it has begun. -/
theorem EndsAs.begun {u st s' : State} {ts : List Nat} (h : EndsAs (st.startStep cell ts) s') (hclock : SameClock u st) :
    s'.silent = (st.startStep cell ts).silent ∧ (s'.cell cell).step.running ∧ (s'.cell cell).step.began = u.time cell := by
  obtain ⟨hrun, hbegan⟩ := startStep_step st cell ts
  rw [h.step]
  exact ⟨h.silent, hrun, hbegan.trans (hclock.time cell)⟩

end

/-- Settles O19: by the cell's part in its group; laying the step out moves no clock, and what follows its beginning goes on with it. -/
theorem aStepBegins : Obligations.AStepBegins := by
  refine fun t cell s => ⟨fun hl hall => ⟨fun hrows => ?lead, fun hrows => ?noRows⟩, fun hl hnot => ?notAll,
    fun m hl hm hrun hrows hmay => ?follower, fun hl hmay ho => ?learner⟩
  case lead =>
    refine stepBegin_of_lead hl ((beginLead_of_all hall).trans (if_neg (by simpa using hrows))) fun s' h => ?_
    exact h.begun (((s.at t).holdRequests_sameClock cell).trans (State.layStep_sameClock _ cell _))
  case noRows =>
    exact stepBegin_of_lead hl ((beginLead_of_all hall).trans (if_pos (by simpa using hrows))) fun s' h => h.silent
  case notAll => exact stepBegin_of_lead hl (beginLead_of_not_all hnot) fun s' h => h.silent
  case follower => exact stepBegin_of_follower hl hm (beginFollower_of_ready hrun hrows hmay) fun s' h => h.begun (.refl _)
  case learner =>
    refine stepBegin_of_learner hl (beginLearn_of_open hmay ho) fun s' h => ⟨h.silent, ?_⟩
    rw [h.step, State.cell_onCell_same, foldl_onLrn_step]
    exact startStep_step (s.at t) cell _

end Sys2Proof.Machine

/-! ## Rings (R71, R338, R339, R341, R342) -/

namespace Sys2Proof.Machine

/-! ### Host functions and outputs -/

theorem State.onFn_onFn (s : State) (n : Nat) (f g : HostFn → HostFn) : (s.onFn n f).onFn n g = s.onFn n (fun h => g (f h)) := by
  simp [State.onFn, State.fn]

theorem State.onFn_congr {s : State} {n : Nat} {f g : HostFn → HostFn} (h : f (s.fn n) = g (s.fn n)) : s.onFn n f = s.onFn n g := by
  rw [State.onFn, h, State.onFn]

/-- What the effect of a command puts out leaves, events apart. -/
theorem EndsAs.mem_out {x s' : State} (h : EndsAs x s') {e : Emit} (he : e ∈ x.out) (hno : e.isEvent = false) : e ∈ s'.out := by
  have hout : s'.out.filter (fun e => !e.isEvent) = x.out.filter (fun e => !e.isEvent) := congrArg State.out h.silent
  exact List.mem_of_mem_filter (hout ▸ List.mem_filter.mpr ⟨he, by simp [hno]⟩)

theorem State.mem_out_msix {s : State} {e : Emit} (h : e ∈ s.out) (n v : Nat) : e ∈ (s.msix n v).out := by
  unfold State.msix
  split
  · exact h
  · split
    · exact h
    · exact List.mem_append_left _ h

/-- RINGERR joins what else an error sets in the function (R342). -/
theorem State.ringError_reports (s : State) (n : Nat) (f : HostFn → HostFn) :
    Reports (s.onFn n (fun h => { f h with ringErr := true })) ((s.onFn n f).ringError n) := by
  rw [State.ringError, State.onFn_onFn]
  exact State.msix_reports (.refl _) n 2

/-! ### SQ_TAIL -/

section
variable {t : Nat} {fn : Fin 64} {s : State} {P : State → Prop} (hbar : (s.at t).barUp = true) (hon : (s.at t).fnOn fn = true)
  (hflr : ((s.at t).fn fn).flr = false)

theorem writeTail_of_inside {s : State} {n c v : Nat} (hflr : (s.fn n).flr = false) (hv : v < ((s.fn n).ring c).size) :
    s.writeTail n c v = s.onFn n (fun h => h.onRing c (fun r => { r with tail := v })) :=
  (if_neg (by simp [hflr])).trans (if_neg (Nat.not_le.mpr hv))

theorem writeTail_of_beyond {s : State} {n c v : Nat} (hflr : (s.fn n).flr = false) (hv : ((s.fn n).ring c).size ≤ v) :
    s.writeTail n c v = (s.onFn n (fun h => h.onRing c (fun r => { r with badTail := true }))).ringError n :=
  (if_neg (by simp [hflr])).trans (if_pos hv)

include hbar hon in
theorem sqTail_of_on {ring : Fin 8} {value : BitVec 16} {x : State} (hx : (s.at t).writeTail fn ring value.toNat = x)
    (hP : ∀ s', EndsAs x s' → P s') : Answers (.sqTail t fn ring value) s P :=
  .of_run rfl ((if_pos (by simp [hbar, hon])).trans hx) hP

/-! ### RING_ENABLE -/

include hbar hon in
theorem ringEnable_of_on {ring : Nat} {w : BitVec 32} {x : State} (hx : (s.at t).ringControl fn ring w.toNat = x)
    (hP : ∀ s', EndsAs x s' → P s') : Answers (.ringEnable t fn ring w) s P :=
  .of_run rfl ((if_pos (by simp [hbar, hon])).trans hx) hP

end

section
variable {s : State} {n ring : Nat} {w : BitVec 32} (hflr : (s.fn n).flr = false)

theorem bit_toNat (w : BitVec 32) (i : Nat) : bit w.toNat i = w.getLsbD i := rfl

theorem sizeRefused_eq_false {b ok : Bool} (h : b = false ∨ ok = true) : (b && !ok) = false := by
  rcases h with h | h
  · rw [h, Bool.false_and]
  · rw [h, Bool.not_true, Bool.and_false]

/-- A disabled submission ring takes an allowed size with its enable bit (R338). -/
theorem SubRing.control_of_off {r : SubRing} (hen : r.en = false) (hsize : w.getLsbD 31 = false ∨ ringSizeOk 16 (bits w.toNat 0 17) = true) :
    r.control w.toNat = { r with size := bits w.toNat 0 17, en := w.getLsbD 31 } := by
  rw [SubRing.control, hen, if_neg (by simp), bit_toNat, sizeRefused_eq_false hsize, if_neg (by simp)]

theorem SubRing.control_of_on {r : SubRing} (hen : r.en = true) (hw : w.getLsbD 31 = false) :
    r.control w.toNat = { r with en := false, head := 0, tail := 0 } := by
  rw [SubRing.control, hen, if_pos rfl, bit_toNat, hw, if_neg (by simp)]

include hflr in
theorem ringControl_of_sub (hring : ring < 8) {f : SubRing → SubRing}
    (hf : ((s.fn n).ring ring).control w.toNat = f ((s.fn n).ring ring)) :
    s.ringControl n ring w.toNat = s.onFn n (fun h => h.onRing ring f) := by
  rw [State.ringControl, hflr, if_neg (by simp), if_pos hring]
  exact State.onFn_congr (by rw [HostFn.onRing, hf, HostFn.onRing])

include hflr in
theorem ringControl_of_completion : s.ringControl n 8 w.toNat = s.cqControl n w.toNat := by
  rw [State.ringControl, hflr, if_neg (by simp), if_neg (by simp), if_pos rfl]

theorem cqControl_of_off (hen : (s.fn n).cqEn = false) (hsize : w.getLsbD 31 = false ∨ ringSizeOk 64 (bits w.toNat 0 17) = true) :
    s.cqControl n w.toNat = s.onFn n (fun h => { h with cqSize := bits w.toNat 0 17, cqEn := w.getLsbD 31 }) := by
  rw [State.cqControl, hen, if_neg (by simp), bit_toNat, sizeRefused_eq_false hsize, if_neg (by simp)]

/-- Disabling the completion ring empties it; what then counts as written leaves the ring as it is (R338, R341). -/
theorem cqControl_of_on (hen : (s.fn n).cqEn = true) (hw : w.getLsbD 31 = false) :
    ((s.cqControl n w.toNat).fn n).rings =
      ({ s.fn n with cqEn := false, cqHead := 0, cqTail := 0, recs := [] } : HostFn).rings := by
  let s1 := s.onFn n (fun h => { h with cqEn := false, cqHead := 0, cqTail := 0, recs := [] })
  have hdone : HostCalm [] s1 ((s.fn n).recs.foldl (fun acc r => acc.recDone r) s1) := foldl_hostCalm _ _ fun x r _ => x.recDone_hostCalm r
  have hcalm : HostCalm [] s1 (s.cqControl n w.toNat) := by
    rw [State.cqControl, hen, if_pos rfl, bit_toNat, hw, if_neg (by simp)]
    exact ite_hostCalm _ hdone (hdone.trans (State.dropRec_hostCalm ..))
  rw [hcalm.rings n (by simp), State.fn_onFn_same]

end

/-! ### RING_FETCH -/

section
variable {t : Nat} {ready : List (Fin 64 × Fin 8)} {e : Entry} {key : Nat} {s : State} {P : State → Prop}
  (hk : keyWin (s.at t).host.fetchKey ((ready.filter (fun r => (s.at t).ringReady r.1 r.2)).map (fun r => 8 * r.1.val + r.2.val)) = some key)
include hk

/-- A fetch whose read failed disables its ring (R339). -/
theorem ringFetch_of_failed (hP : ∀ s', EndsAs (({ s.at t with host := { (s.at t).host with fetchKey := key + 1 } } : State).fetchFailed
    (key / 8) (key % 8)) s' → P s') : Answers (.ringFetch t ready false e) s P := by
  refine .of_run rfl ?_ hP
  simp only [hk, Bool.not_false, if_true]

/-- A fetched entry goes to its cell, and the head moves on (R339). -/
theorem ringFetch_of_read (hP : ∀ s', EndsAs (((({ s.at t with host := { (s.at t).host with fetchKey := key + 1 } } : State).onFn (key / 8)
    (fun h => h.onRing (key % 8) (fun r => { r with head := (r.head + 1) % r.size }))).wake (key % 8)).doEntry (key % 8)
      { who := BitVec.ofNat 8 (key / 8), path := .ring (((s.at t).fn (key / 8)).ring (key % 8)).head } e) s' → P s') :
    Answers (.ringFetch t ready true e) s P := by
  refine .of_run rfl ?_ hP
  simp only [hk, Bool.not_true, Bool.false_eq_true, if_false]
  rfl

end

theorem State.fetchFailed_reports (s : State) (n c : Nat) : Reports (s.onFn n (fun h =>
    { h.onRing c (fun r => { r with en := false, head := 0, tail := 0 }) with ringErr := true })) (s.fetchFailed n c) :=
  State.err_reports (s.ringError_reports n fun h => h.onRing c (fun r => { r with en := false, head := 0, tail := 0 })) 0 _

/-! ### COMPLETION_WRITE -/

/-- The state with the one record waiting, of one slot, written at the tail (R341). -/
def State.recWritten (s : State) (n : Nat) (w : BitVec 256) : State :=
  (s.onFn n (fun h => { h with recs := [], cqTail := (h.cqTail + 1) % h.cqSize })).emit
    (.hostWrite ((s.fn n).cqBase.toNat + 32 * (s.fn n).cqTail) 32 w.toNat)

section
variable {s : State} {n : Nat} {r : QRec} {w : BitVec 256} (hrecs : (s.fn n).recs = [r]) (hslots : r.slots = [w])
include hrecs hslots

theorem writeRecs_of_room (hlearn : r.learn = none) (hfree : 1 ≤ (s.fn n).cqFree) : s.writeRecs n [r] = (s.recWritten n w, 1) := by
  have hroom : ¬ (s.fn n).cqFree < r.slots.length := by simpa [hslots] using Nat.pos_iff_ne_zero.mp hfree
  have hslot : (s.onFn n (fun h => { h with recs := h.recs.tail })).writeSlots n [w] = s.recWritten n w := by
    rw [State.writeSlots, State.writeSlots, State.fn_onFn_same]
    have hmove : (s.onFn n (fun h => { h with recs := h.recs.tail })).onFn n (fun h => { h with cqTail := (h.cqTail + 1) % h.cqSize }) =
        s.onFn n (fun h => { h with recs := [], cqTail := (h.cqTail + 1) % h.cqSize }) := by
      rw [State.onFn_onFn]
      exact State.onFn_congr (by rw [hrecs]; rfl)
    exact congrArg (State.emit · _) hmove
  rw [State.writeRecs, if_neg hroom, hslots, hslot, State.recDone, hlearn]
  rfl

theorem writeBatch_of_full (hfree : (s.fn n).cqFree = 0) : s.writeBatch n = s := by
  have hnone : s.writeRecs n (s.fn n).recs = (s, 0) := by
    rw [hrecs, State.writeRecs, if_pos (by simp [hfree, hslots])]
  rw [State.writeBatch, hnone]
  exact if_pos rfl

/-- The record stands in the ring, and the shadow tail and the vector are told after it (R341). -/
theorem writeBatch_of_room (hlearn : r.learn = none) (hfree : 1 ≤ (s.fn n).cqFree) :
    Reports (s.recWritten n w) (s.writeBatch n) ∧ (s.recWritten n w).out ⊆ (s.writeBatch n).out := by
  have hbatch : s.writeBatch n = (if ((s.recWritten n w).fn n).shadow = 0 then s.recWritten n w
      else (s.recWritten n w).emit (.hostWrite ((s.recWritten n w).fn n).shadow.toNat 4 ((s.recWritten n w).fn n).cqTail)).msix n 0 := by
    rw [State.writeBatch, hrecs, writeRecs_of_room hrecs hslots hlearn hfree]
    exact if_neg (by simp)
  rw [hbatch]
  refine ⟨State.msix_reports (ite_reports (.refl _) (State.emit_reports (.refl _) _)) n 0, fun e he => State.mem_out_msix ?_ n 0⟩
  split
  · exact he
  · exact List.mem_append_left _ he

end

theorem completionWrite_of_on {t : Nat} {fn : Fin 64} {s x : State} {P : State → Prop} (hup : (s.at t).hostUp) (hon : (s.at t).fnOn fn)
    (hen : ((s.at t).fn fn).cqEn) (hsize : 0 < ((s.at t).fn fn).cqSize) (hflr : ((s.at t).fn fn).flr = false)
    (hx : (s.at t).writeBatch fn = x) (hP : ∀ s', EndsAs x s' → P s') : Answers (.completionWrite t fn) s P :=
  .of_run rfl ((if_pos (by rw [hup, hon, hen, hflr, decide_eq_true hsize]; rfl)).trans hx) hP

/-- Settles O47: per command, by what the ring's registers and its waiting records decide. -/
theorem ringsAreWrittenFetchedAndAnswered : Obligations.RingsAreWrittenFetchedAndAnswered := by
  refine ⟨fun t fn ring value s hbar hon hflr => ⟨fun hv => ?tail, fun hv => ?badTail⟩,
    fun t fn ring w s hbar hon hflr => ⟨fun hring hen hsize => ?on, fun hring hen hw => ?off, fun hring hen hsize => ?cqOn,
      fun hring hen hw => ?cqOff⟩,
    fun t ready ok e key s hk => ⟨fun hok => ?failed, fun hok => ?fetched⟩,
    fun t fn r w s hup hon hen hsize hflr hrecs hslots hlearn => ⟨fun hfree => ?room, fun hfree => ?full⟩⟩
  case tail => exact sqTail_of_on hbar hon (writeTail_of_inside hflr hv) fun s' h => h.silent
  case badTail =>
    exact sqTail_of_on hbar hon (writeTail_of_beyond hflr hv) fun s' h => (State.ringError_reports ..).trans h.reports
  case on =>
    exact ringEnable_of_on hbar hon (ringControl_of_sub hflr hring (f := fun r => { r with size := bits w.toNat 0 17, en := w.getLsbD 31 })
      (SubRing.control_of_off hen hsize)) fun s' h => h.silent
  case off =>
    exact ringEnable_of_on hbar hon (ringControl_of_sub hflr hring (f := fun r => { r with en := false, head := 0, tail := 0 })
      (SubRing.control_of_on hen hw)) fun s' h => h.silent
  case cqOn =>
    subst hring
    exact ringEnable_of_on hbar hon ((ringControl_of_completion hflr).trans (cqControl_of_off hen hsize)) fun s' h => h.silent
  case cqOff =>
    subst hring
    refine ringEnable_of_on hbar hon (ringControl_of_completion hflr) fun s' h => ?_
    have hrings := (h.reports.hostCalm.rings fn (by simp)).trans (cqControl_of_on hen hw)
    exact ⟨congrArg HostFn.cqEn hrings, congrArg HostFn.cqHead hrings, congrArg HostFn.cqTail hrings, congrArg HostFn.recs hrings⟩
  case failed =>
    subst hok
    exact ringFetch_of_failed hk fun s' h => (State.fetchFailed_reports ..).trans h.reports
  case fetched =>
    subst hok
    exact ringFetch_of_read hk fun s' h => h.silent
  case room =>
    obtain ⟨hreports, hout⟩ := writeBatch_of_room hrecs hslots hlearn hfree
    refine completionWrite_of_on hup hon hen hsize hflr rfl fun s' h => ⟨?_, h.mem_out (hout ?_) rfl⟩
    · exact ((State.emit_reports (.refl _) _).trans hreports).trans h.reports
    · exact List.mem_append_right _ (List.mem_singleton.mpr rfl)
  case full => exact completionWrite_of_on hup hon hen hsize hflr (writeBatch_of_full hrecs hslots hfree) fun s' h => h.silent

end Sys2Proof.Machine

/-! ## Supply and power shares (R350, R353) -/

namespace Sys2Proof.Machine

/-- What a fold's steps leave alone, the fold leaves alone. -/
theorem foldl_same {α β : Type} (π : State → α) (l : List β) {f : State → β → State} (s : State) (hf : ∀ x b, π (f x b) = π x) :
    π (l.foldl f s) = π s := List.foldlRecOn (motive := fun x => π x = π s) l f rfl fun x h b _ => (hf x b).trans h

theorem ite_same {α : Type} {v : α} (π : State → α) {p : Prop} [Decidable p] {a b : State} (ha : π a = v) (hb : π b = v) :
    π (if p then a else b) = v := by split <;> assumption

/-- The supply, and the share that each cell runs on (R350, R353). -/
def State.watts (s : State) : Supply × (Nat → Nat) := (s.supply, fun c => (s.cell c).power.share)

theorem watts_supply {s s' : State} (h : s'.watts = s.watts) : s'.supply = s.supply := congrArg Prod.fst h

theorem watts_share {s s' : State} (h : s'.watts = s.watts) (c : Nat) : (s'.cell c).power.share = (s.cell c).power.share :=
  congrFun (congrArg Prod.snd h) c

theorem Reports.watts {s s' : State} (h : Reports s s') : s'.watts = s.watts := by
  refine Prod.ext h.supply (funext fun c => ?_)
  obtain ⟨e, p, q, hc⟩ := h.cell c
  simp only [State.watts, hc]

section
variable (s : State)

theorem State.setCell_watts (c : Nat) {v : Cell} (hv : v.power.share = (s.cell c).power.share) : (s.setCell c v).watts = s.watts := by
  refine Prod.ext rfl (funext fun d => ?_)
  simp only [State.watts, State.cell_setCell]
  split
  · subst_vars
    exact hv
  · rfl

theorem State.onCell_watts (c : Nat) {f : Cell → Cell} (hf : ∀ k, (f k).power.share = k.power.share) : (s.onCell c f).watts = s.watts :=
  s.setCell_watts c (hf _)

theorem State.err_watts (c : Nat) (e : Ev) : (s.err c e).watts = s.watts := (State.err_reports (.refl s) c e).watts

theorem State.errLocal_watts (c : Nat) (e : Ev) : (s.errLocal c e).watts = s.watts := (State.errLocal_reports (.refl s) c e).watts

/-! ### Records and completions (R340 to R342, R347) -/

theorem State.recDone_watts (r : QRec) : (s.recDone r).watts = s.watts := by
  unfold State.recDone
  split
  · rfl
  · exact ite_same State.watts rfl rfl

theorem State.dropRec_watts (n : Nat) : (s.dropRec n).watts = s.watts := by
  have dropped (e : Ev) : ((s.onFn n (fun h => { h with lastDrop := some s.now })).errLocal 0 e).watts = s.watts := State.errLocal_watts _ 0 e
  unfold State.dropRec
  dsimp only
  split
  · exact ite_same State.watts rfl (dropped _)
  · exact dropped _

theorem State.queueRec_watts (n : Nat) (r : QRec) : (s.queueRec n r).watts = s.watts :=
  ite_same State.watts rfl (ite_same State.watts ((State.dropRec_watts ..).trans (s.recDone_watts r)) (s.recDone_watts r))

theorem State.wake_watts (c : Nat) : (s.wake c).watts = s.watts := ite_same State.watts (s.setCell_watts c rfl) rfl

theorem State.raiseEvent_watts (n : Nat) (who : BitVec 8) : (s.raiseEvent n who).watts = s.watts :=
  ite_same State.watts (State.msix_reports (.refl s) ..).watts
    (ite_same State.watts rfl (ite_same State.watts (s.wake_watts _) rfl))

theorem State.ring_watts (n : Nat) (ab : Bool) : (s.ring n ab).watts = s.watts :=
  ite_same State.watts (State.mail_reports (.refl _) ..).watts (ite_same State.watts rfl (State.raiseEvent_watts ..))

theorem State.complete_watts (c : Nat) (src : Source) (e : Entry) (d : Done) : (s.complete c src e d).watts = s.watts := by
  unfold State.complete
  split
  · exact s.queueRec_watts ..
  · exact (State.mail_reports (.refl s) ..).watts
  · exact ite_same State.watts rfl (State.ring_watts ..)

/-! ### Tiles written (R147) -/

theorem Cell.Tiered.power {k k' : Cell} (h : k.Tiered k') : k'.power = k.power :=
  (congrArg Cell.power (show k' = { k with tiers := k'.tiers } from h) :)

theorem State.tierPut_watts (c tenant : Nat) (ident : BitVec 24) (seq : Nat) (x : Slot) (busy : List Nat) :
    (s.tierPut c tenant ident seq x busy).1.watts = s.watts := by
  have placed {h : Nat} {k1 : Cell} (hk : (s.cell h).Tiered k1) : (s.setCell h k1).watts = s.watts :=
    s.setCell_watts h (congrArg CellPower.share hk.power)
  unfold State.tierPut
  split
  · rfl
  split
  · rfl
  split
  · exact s.err_watts ..
  next k1 h1 =>
    have hk1 := Cell.writeTile_tiered h1
    split
    · dsimp only
      split
      · exact s.err_watts ..
      next k2 h2 => exact placed (hk1.trans (Cell.writeTile_tiered h2))
    · exact placed hk1

theorem State.tierWrite_watts (c tenant : Nat) (ident : BitVec 24) (seq : Nat) (x : Slot) (busy : List Nat) :
    (s.tierWrite c tenant ident seq x busy).1.watts = s.watts := by
  unfold State.tierWrite
  split
  · rfl
  · exact s.tierPut_watts ..

theorem State.pokeTile_watts (c tenant : Nat) (ident : BitVec 24) (i off n data : Nat) :
    (s.pokeTile c tenant ident i off n data).1.watts = s.watts := by
  unfold State.pokeTile
  split
  · rfl
  · exact s.tierWrite_watts ..

theorem State.pokeFrom_watts (fuel c tenant : Nat) (ident : BitVec 24) (off n data : Nat) :
    (State.pokeFrom fuel s c tenant ident off n data).1.watts = s.watts := by
  induction fuel generalizing s off n data with
  | zero => rfl
  | succ fuel ih =>
    unfold State.pokeFrom
    split
    · rfl
    · exact (ih ..).trans (s.pokeTile_watts ..)

theorem State.pokeWords_watts (c tenant ident e : Nat) (ws : List Nat) : (s.pokeWords c tenant ident e ws).1.watts = s.watts :=
  s.pokeFrom_watts ..

theorem State.fillTile_watts (c tenant : Nat) (ident : BitVec 24) (i : Nat) (p : Payload) (poison : Bool) :
    (s.fillTile c tenant ident i p poison).watts = s.watts := s.tierPut_watts ..

/-! ### The boundary (R43, R353) -/

theorem State.storeLater_watts (x : Store) : (s.storeLater x).watts = s.watts :=
  ite_same State.watts (foldl_same State.watts _ _ fun y _ => y.errLocal_watts ..) rfl

theorem Cell.abandonTest_power (k : Cell) (t : Nat) : (k.abandonTest t).power = k.power := by
  unfold Cell.abandonTest
  split <;> rfl

theorem Cell.redealt_power (ts : List Nat) (k : Cell) : (k.redealt ts).power = k.power :=
  List.foldlRecOn (motive := fun x : Cell => x.power = k.power) ts _ rfl fun x h t _ => (x.abandonTest_power t).trans h

theorem State.fenceTold_watts (c n faults : Nat) (ts : List Nat) (perm : Bool) : (s.fenceTold c n faults ts perm).watts = s.watts := by
  have told (x : State) := foldl_same State.watts ts x fun y t => ite_same State.watts (p := 2 < (y.cell c).outCores t)
    (y.err_watts c { cls := clsFENCE, sev := 3, unit := 6, tenant := t, core := n }) rfl
  have all := (told _).trans (s.err_watts c { cls := clsFENCE, sev := if perm then 3 else 2, unit := 1, core := n, detail := faults })
  exact ite_same State.watts ((State.storeLater_watts ..).trans all) all

theorem State.fence_watts (c n : Nat) : (s.fence c n).watts = s.watts := by
  by_cases h : ((s.cell c).core n).fenced = true
  · rw [show s.fence c n = s from if_pos h]
  · obtain ⟨perm, faults, he⟩ := fence_of_unfenced h
    rw [he, State.fenceTold_watts]
    exact s.setCell_watts c (congrArg CellPower.share (Cell.redealt_power ..))

theorem State.returnCores_watts (c : Nat) : (s.returnCores c).watts = s.watts :=
  foldl_same State.watts _ s fun x _ => x.onCell_watts c fun k =>
    List.foldlRecOn (motive := fun y : Cell => y.power.share = k.power.share) _ _ rfl fun _ h _ _ => h

theorem State.zeroTensor_watts (c tenant : Nat) (ident : BitVec 24) : (s.zeroTensor c tenant ident).watts = s.watts := by
  unfold State.zeroTensor
  split
  · rfl
  · exact foldl_same State.watts _ s fun x _ => x.fillTile_watts ..

theorem State.copyTensor_watts (c tenant src : Nat) (dst : BitVec 24) : (s.copyTensor c tenant src dst).watts = s.watts := by
  unfold State.copyTensor
  split
  · rfl
  · exact foldl_same State.watts _ s fun x _ => x.fillTile_watts ..

theorem State.rebuildMaster_watts (c : Nat) (b : Binding) : (s.rebuildMaster c b).watts = s.watts := by
  unfold State.rebuildMaster
  dsimp only
  split
  · rfl
  · exact foldl_same State.watts _ s fun x _ => x.fillTile_watts ..

theorem State.repairNow_watts (c : Nat) (e : Entry) : (s.repairNow c e).watts = s.watts := by
  have copies (b : Binding) : ((s.copyTensor c (e.fld 1 1) (e.fld 8 3) b.master).copyTensor c (e.fld 1 1) (e.fld 0xC 3) b.m1).watts =
      s.watts := (State.copyTensor_watts ..).trans (s.copyTensor_watts ..)
  unfold State.repairNow
  dsimp only
  split
  · rfl
  next b _ =>
    refine (State.onCell_watts _ c fun _ => by rfl).trans ?_
    split
    · refine (State.copyTensor_watts ..).trans ?_
      split
      · exact copies b
      · exact (State.copyTensor_watts ..).trans (copies b)
    · exact (foldl_same State.watts _ _ fun x i => x.zeroTensor_watts ..).trans (s.rebuildMaster_watts ..)

theorem State.udBoundary_watts (c : Nat) : (s.udBoundary c).watts = s.watts := by
  unfold State.udBoundary
  dsimp only
  refine (State.onCell_watts _ c fun _ => by rfl).trans ?_
  exact foldl_same State.watts _ s fun x r => x.repairNow_watts c r.2

theorem State.takeWrites_watts (c : Nat) : (s.takeWrites c).watts = s.watts := by
  unfold State.takeWrites
  dsimp only
  refine (foldl_same State.watts _ _ fun x w => ?_).trans (s.onCell_watts c fun _ => rfl)
  exact (State.complete_watts ..).trans (x.pokeWords_watts ..)

theorem Cell.dealTenant_power (k : Cell) (t : Nat) : (k.dealTenant t).power = k.power := by
  unfold Cell.dealTenant
  dsimp only
  split
  · rfl
  · refine List.foldlRecOn (motive := fun x : Cell => x.power = k.power) _ _ rfl fun x h q _ => ?_
    split <;> exact h

theorem Cell.takeImages_power (k : Cell) : k.takeImages.power = k.power := by
  have dealt (x : Cell) (t : Nat) : (if (x.run t).redeal then x.dealTenant t else x).power = x.power := by
    split
    · exact x.dealTenant_power t
    · rfl
  refine List.foldlRecOn (motive := fun x : Cell => x.power = k.power) _ _ rfl fun x h t _ => (dealt _ t).trans ?_
  split <;> exact h

/-- The coordinator sets targets; a share follows at its cell's own boundary (R353). -/
theorem State.coordinate_watts : s.coordinate.watts = s.watts :=
  ite_same State.watts rfl (foldl_same State.watts _ s fun x _ => x.onCell_watts _ fun _ => rfl)

theorem State.takeLevel_watts : s.takeLevel.watts = s.watts := by
  unfold State.takeLevel
  split <;> rfl

/-- A cell's boundary up to the coordinator's targets: all but the share that the cell then takes (R43, R353). -/
def State.toTargets (s : State) (c : Nat) : State :=
  let s1 := s.onCell c Cell.freeDue
  let due := ((s1.cell c).cores.filter (fun p => p.2.fenceDue)).map (·.1)
  let s2 := (due.foldl (fun s n => s.fence c n) s1).returnCores c
  (((s2.udBoundary c).takeWrites c).onCell c (fun k => { k.takeImages with gen := { k.gen with heldQ := [] } })).coordinate

theorem State.boundary_eq (c : Nat) : s.boundary c = ((s.toTargets c).onCell c (fun k =>
    (k.takeShare s.boot.anchorLost).fwNow s.lockstepAt (s.time c))).takeLevel := rfl

theorem State.toTargets_watts (c : Nat) : (s.toTargets c).watts = s.watts := by
  have images (k : Cell) : ({ k.takeImages with gen := { k.gen with heldQ := [] } } : Cell).power.share = k.power.share :=
    congrArg CellPower.share k.takeImages_power
  unfold State.toTargets
  dsimp only
  refine (State.coordinate_watts _).trans ?_
  refine (State.onCell_watts _ c images).trans ?_
  refine (State.takeWrites_watts _ c).trans ?_
  refine (State.udBoundary_watts _ c).trans ?_
  refine (State.returnCores_watts _ c).trans ?_
  refine (foldl_same State.watts _ _ fun x _ => x.fence_watts ..).trans ?_
  exact s.onCell_watts c fun _ => rfl

/-- A cell's boundary keeps the supply, and the share of every other cell (R353). -/
theorem State.boundary_watts (c : Nat) :
    (s.boundary c).supply = s.supply ∧ ∀ d, d ≠ c → ((s.boundary c).cell d).power.share = (s.cell d).power.share := by
  rw [s.boundary_eq c]
  refine ⟨?_, fun d hd => ?_⟩
  · rw [watts_supply (State.takeLevel_watts _), State.onCell_supply, watts_supply (s.toTargets_watts c)]
  · rw [watts_share (State.takeLevel_watts _), State.cell_onCell, if_neg hd, watts_share (s.toTargets_watts c)]

/-! ### POWER_LIMIT (R350, R356) -/

/-- The supply stays; running cells go on running, on the share they have (R353). -/
structure SharesStand (s s' : State) : Prop where
  supply  : s'.supply = s.supply
  running : ∀ c, (s'.cell c).step.running = (s.cell c).step.running
  share   : ∀ c, (s.cell c).step.running = true → (s'.cell c).power.share = (s.cell c).power.share

theorem SharesStand.refl : SharesStand s s := ⟨rfl, fun _ => rfl, fun _ _ => rfl⟩

theorem SharesStand.trans {a b c : State} (h : SharesStand a b) (g : SharesStand b c) : SharesStand a c where
  supply := g.supply.trans h.supply
  running d := (g.running d).trans (h.running d)
  share d hd := (g.share d ((h.running d).trans hd)).trans (h.share d hd)

theorem SharesStand.of_watts {s s' : State} (hsteady : Steady s s') (hw : s'.watts = s.watts) : SharesStand s s' :=
  ⟨watts_supply hw, fun c => (hsteady.cell c).running, fun c _ => watts_share hw c⟩

theorem State.boundarySoon_sharesStand (c : Nat) : SharesStand s (s.boundarySoon c) := by
  unfold State.boundarySoon
  split
  · exact .refl s
  next h =>
    obtain ⟨hsupply, hother⟩ := s.boundary_watts c
    refine ⟨hsupply, fun d => ((s.boundary_steady c).cell d).running, fun d hd => hother d ?_⟩
    rintro rfl
    exact h (by simp [hd])

theorem State.limitNotice_reports (old : Nat) : Reports s (s.limitNotice old) := ite_reports (State.err_reports (.refl s) ..) (.refl s)

/-- The supply under the limit `v` (R356). -/
def State.withLimit (s : State) (v : Nat) : State :=
  { s with supply := { s.supply with limit := v, inForce := if v < s.supply.limit then s.lastPromise else s.supply.inForce } }

theorem State.writeLimit_of_inside {v : Nat} (hlow : 1200 ≤ v) (hhigh : v ≤ 3000) : s.writeLimit v =
    allCells.foldl (fun s c => s.boundarySoon c) (((s.withLimit v).limitNotice s.effLimit).coordinate) :=
  if_neg (by simp [hlow, hhigh])

/-- A limit in range is taken into the supply; cells that run keep their shares (R350, R353). -/
theorem State.writeLimit_sharesStand {v : Nat} (hlow : 1200 ≤ v) (hhigh : v ≤ 3000) : SharesStand (s.withLimit v) (s.writeLimit v) := by
  have noticed (x : State) (old : Nat) : SharesStand x (x.limitNotice old).coordinate :=
    .of_watts ((x.limitNotice_reports old).steady.trans (State.coordinate_steady _))
      ((State.coordinate_watts _).trans (x.limitNotice_reports old).watts)
  have soon (x : State) : SharesStand x (allCells.foldl (fun y c => y.boundarySoon c) x) :=
    List.foldlRecOn (motive := SharesStand x) _ _ (.refl x) fun y h c _ => h.trans (y.boundarySoon_sharesStand c)
  rw [s.writeLimit_of_inside hlow hhigh]
  exact (noticed ..).trans (soon _)

theorem State.writeLimit_of_outside {v : Nat} (hv : v < 1200 ∨ 3000 < v) : s.writeLimit v = s.discard 0x40 := if_pos (by simpa using hv)

end

theorem EndsAs.share {x s' : State} (h : EndsAs x s') (c : Nat) : (s'.cell c).power.share = (x.cell c).power.share := by
  obtain ⟨n, hc⟩ := h.cell c
  rw [hc]

end Sys2Proof.Machine

/-! ## Registers with rows of their own (R108, R179, R301, R350, R356, R401, R408, R410, R413, R414, R416) -/

namespace Sys2Proof.Machine

/-! ### QUAR_RELEASE (R301) -/

/-- Quarantines end or stay, and none begins; seat and tile memory stay. -/
structure QuarsEnd (s s' : State) : Prop where
  seating : s'.seating = s.seating
  tiers   : ∀ c, (s'.cell c).tiers = (s.cell c).tiers
  port    : ∀ c p, ((s.cell c).port p).quarUntil = none → ((s'.cell c).port p).quarUntil = none

theorem QuarsEnd.refl (s : State) : QuarsEnd s s := ⟨rfl, fun _ => rfl, fun _ _ h => h⟩

theorem QuarsEnd.trans {a b c : State} (h : QuarsEnd a b) (g : QuarsEnd b c) : QuarsEnd a c :=
  ⟨g.seating.trans h.seating, fun d => (g.tiers d).trans (h.tiers d), fun d p hp => g.port d p (h.port d p hp)⟩

theorem foldl_quarsEnd {β : Type} (l : List β) {f : State → β → State} (s : State) (hf : ∀ x b, QuarsEnd x (f x b)) :
    QuarsEnd s (l.foldl f s) := List.foldlRecOn l f (.refl s) fun x h b _ => h.trans (hf x b)

section
variable (s : State)

theorem State.onPort_quarsEnd (c p : Nat) {f : Port → Port} (hf : ∀ q, (f q).quarUntil = none) :
    QuarsEnd s (s.onCell c (fun k => k.onPort p f)) := by
  refine ⟨rfl, fun d => ?_, fun d q hq => ?_⟩ <;> rw [State.cell_onCell] <;> split
  · subst_vars
    rfl
  · rfl
  · subst_vars
    rw [Cell.port_onPort]
    split
    · exact hf _
    · exact hq
  · exact hq

theorem State.endQuarantine_quarsEnd (c p : Nat) : QuarsEnd s (s.endQuarantine c p) := by
  unfold State.endQuarantine
  split
  · exact .refl s
  · exact foldl_quarsEnd _ s fun x e => x.onPort_quarsEnd e.1 e.2 fun _ => rfl

theorem portEnds_eq_cons (c p : Nat) : ∃ l, portEnds c p = (c, p) :: l := by
  unfold portEnds
  split <;> exact ⟨_, rfl⟩

/-- A port whose quarantine is ended is in none (R300). -/
theorem State.endQuarantine_port (c p : Nat) : (((s.endQuarantine c p).cell c).port p).quarUntil = none := by
  unfold State.endQuarantine
  split
  next h => exact Option.isNone_iff_eq_none.mp h
  · obtain ⟨l, hl⟩ := portEnds_eq_cons c p
    rw [hl, List.foldl_cons]
    refine (foldl_quarsEnd l _ fun x e => x.onPort_quarsEnd e.1 e.2 fun _ => rfl).port c p ?_
    simp

theorem State.endQuarantine_of_none {c p : Nat} (h : ((s.cell c).port p).quarUntil = none) : s.endQuarantine c p = s :=
  if_pos (by rw [h]; rfl)

theorem State.releasePort_quarsEnd (c v p : Nat) : QuarsEnd s (if bit v p then s.endQuarantine c p else s) := by
  split
  · exact s.endQuarantine_quarsEnd c p
  · exact .refl s

theorem State.quarRelease_quarsEnd (c v : Nat) : QuarsEnd s (s.quarRelease c v) := foldl_quarsEnd _ s fun x p => x.releasePort_quarsEnd c v p

/-- Each port that the mask names is in no quarantine after its turn, and no later turn brings one. -/
theorem State.quarRelease_port {c v p : Nat} (hp : p < 12) (hv : bit v p = true) :
    (((s.quarRelease c v).cell c).port p).quarUntil = none := by
  obtain ⟨before, after, hl⟩ := List.append_of_mem (List.mem_range.mpr hp)
  rw [State.quarRelease, hl, List.foldl_append, List.foldl_cons, if_pos hv]
  exact (foldl_quarsEnd after _ fun x q => x.releasePort_quarsEnd c v q).port c p (State.endQuarantine_port ..)

/-- Where no named port is in quarantine, none ends. -/
theorem State.quarRelease_of_none {c v : Nat} (h : ∀ p < 12, bit v p = true → ((s.cell c).port p).quarUntil = none) :
    s.quarRelease c v = s := by
  refine List.foldlRecOn (motive := fun x => x = s) _ _ rfl fun x hx p hp => ?_
  subst hx
  split
  next hv => exact x.endQuarantine_of_none (h p (List.mem_range.mp hp) hv)
  · rfl

/-! ### STOP (R108, R413) -/

theorem State.onCell_congr {c : Nat} {f g : Cell → Cell} (h : f (s.cell c) = g (s.cell c)) : s.onCell c f = s.onCell c g := by
  rw [State.onCell, h, State.onCell]

theorem Cell.mayStop_iff {k : Cell} {who : BitVec 8} {n : Nat} :
    k.mayStop who n = true ↔ (who = 0x00 ∨ who = 0x40) ∧ ∀ x ∈ k.tenantsOf n, k.tenantFn x = 0 := by simp [Cell.mayStop]

/-- The cell's debug registers as STOP leaves them. -/
def Cell.stopShown (k : Cell) (n d : Nat) (b : Option (Nat × Bool)) : Cell := { k with dcore := n, dstate := d, debugStop := b }

section
variable {s} {c n : Nat} {who : BitVec 8}

theorem askStop_of_denied (h : (s.cell c).mayStop who n = false) :
    s.askStop c n who = s.onCell c (fun k => k.stopShown n 3 (s.cell c).debugStop) :=
  s.onCell_congr (if_pos (by rw [h]; rfl))

theorem askStop_of_other {m : Nat} {done : Bool} (hs : (s.cell c).debugStop = some (m, done)) (hm : m ≠ n) :
    s.askStop c n who = s.onCell c (fun k => k.stopShown n 3 (s.cell c).debugStop) :=
  s.onCell_congr (if_pos (by simp [hs, hm]))

theorem askStop_of_free (h : (s.cell c).mayStop who n = true) (hs : (s.cell c).debugStop = none) :
    s.askStop c n who = s.onCell c (fun k => k.stopShown n 1 (some (n, false))) := by
  refine s.onCell_congr ((if_neg (by simp [h, hs])).trans ?_)
  simp only [hs]
  rfl

theorem askStop_of_same {done : Bool} (h : (s.cell c).mayStop who n = true) (hs : (s.cell c).debugStop = some (n, done)) :
    s.askStop c n who = s.onCell c (fun k => k.stopShown n (if done then 2 else 1) (s.cell c).debugStop) := by
  refine s.onCell_congr ((if_neg (by simp [h, hs])).trans ?_)
  simp only [hs, Cell.stopShown]

end

/-! ### A core stops for debugging (R108, R317) -/

/-- The flash, the free values taken, and the cores of every cell. -/
def State.coreView (s : State) : Flash × Nat × (Nat → SMap Core) := (s.flash, s.free, fun c => (s.cell c).cores)

theorem Reports.coreView {s s' : State} (h : Reports s s') : s'.coreView = s.coreView := by
  refine Prod.ext h.flash (Prod.ext h.free (funext fun c => ?_))
  obtain ⟨e, p, q, hc⟩ := h.cell c
  simp only [State.coreView, hc]

theorem State.onCell_coreView (c : Nat) {f : Cell → Cell} (hf : ∀ k, (f k).cores = k.cores) : (s.onCell c f).coreView = s.coreView := by
  refine Prod.ext rfl (Prod.ext rfl (funext fun d => ?_))
  simp only [State.coreView, State.cell_onCell]
  split
  · subst_vars
    exact hf _
  · rfl

theorem State.cause_coreView (c code tenant : Nat) (entry : Option Nat) : (s.cause c code tenant entry).coreView = s.coreView := by
  refine s.onCell_coreView c fun k => ?_
  dsimp only
  split <;> rfl

theorem State.causeAt_coreView (c code tenant step : Nat) : (s.causeAt c code tenant step).coreView = s.coreView :=
  ite_same State.coreView (s.cause_coreView ..) (ite_same State.coreView rfl (ite_same State.coreView rfl
    (s.onCell_coreView c fun _ => by rfl)))

theorem State.voidWrite_coreView (c reason : Nat) (w : Write) : (s.voidWrite c reason w).coreView = s.coreView := by
  unfold State.voidWrite
  split
  · exact ite_same State.coreView (s.causeAt_coreView ..) (State.send_reports (.refl s) ..).coreView
  · rfl

/-- Voids of a core that is fenced at once reach neither flash nor cores. -/
theorem State.fenceVoids_coreView (c n : Nat) : (s.fenceVoids c n).coreView = s.coreView :=
  (foldl_same State.coreView _ _ fun x _ => x.voidWrite_coreView ..).trans (foldl_same State.coreView _ s fun x _ => x.cause_coreView ..)

end

theorem abandonTest_window (k : Cell) (t n : Nat) : ((k.abandonTest t).core n).window = (k.core n).window := by
  unfold Cell.abandonTest
  split
  · rfl
  next m _ =>
    have hcore (f : Core → Core) : (k.onCore m f).core n = if n = m then f (k.core m) else k.core n := SMap.get_set ..
    rw [hcore]
    split
    · subst_vars
      rfl
    · rfl

theorem redealt_window (ts : List Nat) (k : Cell) (n : Nat) : ((k.redealt ts).core n).window = (k.core n).window :=
  List.foldlRecOn (motive := fun x : Cell => (x.core n).window = (k.core n).window) ts _ rfl fun x h t _ =>
    (abandonTest_window x t n).trans h

section
variable {s : State} {c n : Nat} (hr : ((s.cell c).core n).returned = none)
include hr

/-- A core with no return of late is not fenced for good (R318). -/
theorem fence_of_unreturned (h : ¬((s.cell c).core n).fenced = true) : s.fence c n =
    (s.setCell c ((s.cell c).fencing n false)).fenceTold c n ((s.cell c).core n).faults.length ((s.cell c).tenantsOf n) false := by
  unfold State.fence
  dsimp only
  rw [if_neg h, hr]
  rfl

/-- Such a fence stores nothing and leaves the core's debug window (R108, R318). -/
theorem fence_unreturned : (s.fence c n).flash = s.flash ∧ (s.fence c n).free = s.free ∧
    (((s.fence c n).cell c).core n).window = ((s.cell c).core n).window := by
  by_cases h : ((s.cell c).core n).fenced = true
  · rw [show s.fence c n = s from if_pos h]
    exact ⟨rfl, rfl, rfl⟩
  · have told (x : State) (faults : Nat) : Reports x (x.fenceTold c n faults ((s.cell c).tenantsOf n) false) :=
      foldl_reports _ _ (State.err_reports (.refl x) ..) fun _ _ hy => ite_reports (State.err_reports hy ..) hy
    rw [fence_of_unreturned hr h]
    refine ⟨(told ..).flash, (told ..).free, ?_⟩
    rw [(told ..).tierMoves.core, State.cell_setCell_same, Cell.fencing, redealt_window, Cell.core_onCore_same]
    rfl

theorem fenceNow_unreturned : (s.fenceNow c n).flash = s.flash ∧ (s.fenceNow c n).free = s.free ∧
    (((s.fenceNow c n).cell c).core n).window = ((s.cell c).core n).window := by
  have hview := s.fenceVoids_coreView c n
  have hcore : ((s.fenceVoids c n).cell c).core n = (s.cell c).core n :=
    congrArg (fun m : SMap Core => m.get Core.reset n) (congrFun (congrArg (·.2.2) hview) c)
  obtain ⟨hflash, hfree, hwindow⟩ := fence_unreturned (s := (s.fenceVoids c n).onCore c n (fun x => { x with engines := [], redoDue := [] }))
    (c := c) (n := n) (by rw [State.onCore_core_same, hcore, hr])
  rw [State.onCore_core_same, hcore] at hwindow
  exact ⟨hflash.trans (congrArg (·.1) hview), hfree.trans (congrArg (·.2.1) hview), hwindow⟩

end

/-- The window of core `n` is captured; the fence that follows sees no return of late (R108, R318). -/
def State.captureWindow (s : State) (c n : Nat) : State := State.onCore { s with free := s.free + 80 } c n (fun x =>
  { x with returned := none, window := (s.cell c).debugWords c n s.free })

theorem State.captureWindow_core (s : State) (c n : Nat) : ((s.captureWindow c n).cell c).core n =
    { (s.cell c).core n with returned := none, window := (s.cell c).debugWords c n s.free } := State.onCore_core_same ..

/-- Core `n` of cell `c` after its stop, its last return as it was before (R108). -/
def State.stopCell (s : State) (c n : Nat) (r : Option Nat) : State :=
  (s.onCore c n (fun y => { y with returned := r })).onCell c (fun k => { k with dstate := 2, stopCore := n, debugStop := some (n, true) })

theorem State.stopCell_cell (s : State) (c n : Nat) (r : Option Nat) : (s.stopCell c n r).cell c =
    { (s.cell c).onCore n (fun y => { y with returned := r }) with dstate := 2, stopCore := n, debugStop := some (n, true) } := by
  rw [State.stopCell, State.cell_onCell_same, State.onCore, State.cell_onCell_same]

theorem State.stopCell_core (s : State) (c n : Nat) (r : Option Nat) :
    ((s.stopCell c n r).cell c).core n = { (s.cell c).core n with returned := r } := by
  rw [State.stopCell_cell]
  exact (Cell.core_onCore_same (s.cell c) n (fun y => { y with returned := r }) :)

theorem State.stopCell_flash (s : State) (c n : Nat) (r : Option Nat) : (s.stopCell c n r).flash = s.flash := rfl

theorem State.stopCell_free (s : State) (c n : Nat) (r : Option Nat) : (s.stopCell c n r).free = s.free := rfl

/-- The state as core `n` of cell `c` stops for debugging (R108). -/
def State.stoppedCore (s : State) (c n : Nat) : State :=
  ((s.captureWindow c n).fenceNow c n).stopCell c n ((s.cell c).core n).returned

/-- A core that stops is fenced, its engines empty, its window captured (R108, R317). -/
theorem State.stoppedCore_core (s : State) (c n : Nat) : (((s.stoppedCore c n).cell c).core n).fenced = true ∧
    (((s.stoppedCore c n).cell c).core n).engines = [] ∧
    (((s.stoppedCore c n).cell c).core n).window = (s.cell c).debugWords c n s.free := by
  obtain ⟨hfenced, hengines⟩ := fenceNow_core (s.captureWindow c n) c n
  obtain ⟨-, -, hwindow⟩ := fenceNow_unreturned (s := s.captureWindow c n) (c := c) (n := n) (by rw [State.captureWindow_core])
  rw [State.captureWindow_core] at hwindow
  rw [State.stoppedCore, State.stopCell_core]
  dsimp only
  exact ⟨hfenced, hengines, hwindow⟩

/-- A debug stop stores nothing (R108, R318). -/
theorem State.stoppedCore_flash_free (s : State) (c n : Nat) :
    (s.stoppedCore c n).flash = s.flash ∧ (s.stoppedCore c n).free = s.free + 80 := by
  obtain ⟨hflash, hfree, -⟩ := fenceNow_unreturned (s := s.captureWindow c n) (c := c) (n := n) (by rw [State.captureWindow_core])
  exact ⟨((s.captureWindow c n).fenceNow c n).stopCell_flash c n _ |>.trans hflash,
    ((s.captureWindow c n).fenceNow c n).stopCell_free c n _ |>.trans hfree⟩

theorem debugStopReached_of_stopping {t : Nat} {cell : Fin 8} {core : Nat} {s : State} {P : State → Prop}
    (hd : ((s.at t).cell cell).debugStop = some (core, false)) (hP : ∀ s', EndsAs ((s.at t).stoppedCore cell core) s' → P s') :
    Answers (.debugStopReached t cell) s P :=
  .of_run rfl (by rw [hd]; rfl) hP

/-! ### MANAGER and JOB_STEP (R408, R410) -/

section
variable {s : State}

theorem writeManager_of_seated {v : BitVec 32} (h : s.seating.seated = true) : s.writeManager v = s.discard 0x28 := if_pos h

theorem writeManager_of_table {v : BitVec 32} (h : s.seating.seated = false) (hv : v.getLsbD 31 = true) (ht : s.seating.tableId ≠ 0) :
    s.writeManager v = { s with seating := { s.seating with manager := true, seated := true, seat := 0, lastBeat := s.now } } :=
  (if_neg (Bool.eq_false_iff.mp h)).trans (if_pos (by rw [hv, decide_eq_true ht]; rfl))

theorem writeManager_of_no_table {v : BitVec 32} (h : s.seating.seated = false) (hno : v.getLsbD 31 = false ∨ s.seating.tableId = 0) :
    s.writeManager v = { s with seating := { s.seating with manager := v.getLsbD 31 } } := by
  refine (if_neg (Bool.eq_false_iff.mp h)).trans (if_neg ?_)
  rcases hno with hv | ht
  · rw [hv]
    exact Bool.false_ne_true
  · simp [ht]

theorem writeJobStep_of_image {c t : Nat} {v : BitVec 64} (h : ((s.cell c).run t).image.isSome = true) :
    s.writeJobStep c t v = s.discard (cellReg c (0x200 + 8 * t)) := by
  rw [State.writeJobStep, State.setJobStep, if_pos h]
  rfl

theorem writeJobStep_of_none {c t : Nat} {v : BitVec 64} (h : ((s.cell c).run t).image = none) :
    s.writeJobStep c t v = s.onCell c (fun k => k.onRun t (fun r => { r with jobStep := v })) := by
  have hset : s.setJobStep c t v = (s.onCell c (fun k => k.onRun t (fun r => { r with jobStep := v })), true) :=
    if_neg (by rw [h]; exact Bool.false_ne_true)
  rw [State.writeJobStep, hset]
  rfl

end

/-! ### Writes by their register -/

section
variable {t : Nat} {who : BitVec 8} {s x : State} {c : Instr} {op : State → State} {P : State → Prop}

/-- A register that the PF and the module supervisor write (R401). -/
theorem fwUp_answers (hup : (s.at t).fwUp who = true) (he : exec c s = .next (s.run t (fun s => if s.fwUp who then op s else s)))
    (hx : op (s.at t) = x) (hP : ∀ s', EndsAs x s' → P s') : Answers c s P :=
  .of_run he ((if_pos hup).trans hx) hP

theorem powerLimit_answers {v : BitVec 16} (hup : (s.at t).fwEndUp who = true) (hP : ∀ s', EndsAs ((s.at t).writeLimit v.toNat) s' → P s') :
    Answers (.powerLimit t who v) s P := .of_run rfl (if_pos hup) hP

theorem stop_answers {cell : Fin 8} {core : Fin 128} (hup : (s.at t).regUp who = true) (hcell : (s.at t).cellUp cell = true)
    (hx : (s.at t).askStop cell core who = x) (hP : ∀ s', EndsAs x s' → P s') : Answers (.stop t who cell core) s P :=
  .of_run rfl ((if_pos (by rw [hup, hcell]; rfl)).trans hx) hP

end

/-- Settles O57, register by register: what the write finds decides whether it is taken or discarded. After a limit, boundaries follow at idle
cells alone; the core that a debug stop fences shows no return of late, so that nothing is stored. -/
theorem registersWithRowsOfTheirOwn : Obligations.RegistersWithRowsOfTheirOwn := by
  refine fun t who cell s => ⟨fun hup => ⟨fun v => ⟨fun hseated => ?seated, fun hfree => ⟨fun hno => ?role, fun hv htable => ?seats⟩⟩,
    fun tenant v => ⟨fun himage => ?jobHeld, fun hnone => ?jobTaken⟩, fun v => ?turnPlan, fun ports => ?quar, fun i => ?capture,
    fun v => ⟨fun hnear => ?consTaken, fun hfar => ?consFar, fun hset => ?cleared, fun hclear => ?kept⟩⟩,
    fun v hup => ⟨fun hout => ?limitOut, fun hlow hhigh => ?limit⟩,
    fun core hup hcell => ⟨fun hdenied => ?denied, fun hwho htenants => ⟨fun hnone => ?stops, fun n done hd => ?asked⟩⟩,
    fun core hd => ?reached⟩
  case seated => exact fwUp_answers hup rfl (writeManager_of_seated hseated) fun s' h => (State.discard_reports _ _).trans h.reports
  case role => exact fwUp_answers hup rfl (writeManager_of_no_table hfree hno) fun s' h => h.silent
  case seats => exact fwUp_answers hup rfl (writeManager_of_table hfree hv htable) fun s' h => h.silent
  case jobHeld => exact fwUp_answers hup rfl (writeJobStep_of_image himage) fun s' h => (State.discard_reports _ _).trans h.reports
  case jobTaken => exact fwUp_answers hup rfl (writeJobStep_of_none hnone) fun s' h => h.silent
  case turnPlan => exact fwUp_answers hup rfl rfl fun s' h => h.silent
  case quar =>
    refine fwUp_answers hup rfl rfl fun s' h => ?_
    have hquar := (s.at t).quarRelease_quarsEnd cell ports.toNat
    refine ⟨fun p hp => ?_, h.reports.seating.trans hquar.seating, fun m => (h.reports.hostCalm.tiers m).trans (hquar.tiers m), fun hnone => ?_⟩
    · rw [h.port]
      exact (s.at t).quarRelease_port p.isLt hp
    · rw [h.silent, (s.at t).quarRelease_of_none fun p hp hv => hnone ⟨p, hp⟩ hv]
  case capture => exact fwUp_answers hup rfl rfl fun s' h => h.silent
  case consTaken => exact fwUp_answers hup rfl (if_pos hnear) fun s' h => h.silent
  case consFar => exact fwUp_answers hup rfl (if_neg (Nat.not_le.mpr hfar)) fun s' h => (State.discard_reports _ _).trans h.reports
  case cleared => exact fwUp_answers hup rfl (if_pos hset) fun s' h => h.silent
  case kept => exact fwUp_answers hup rfl (if_neg (Bool.eq_false_iff.mp hclear)) fun s' h => h.silent
  case limitOut =>
    refine powerLimit_answers hup fun s' h => .trans ?_ h.reports
    rw [State.writeLimit_of_outside _ hout]
    exact State.discard_reports _ _
  case limit =>
    have hstand := (s.at t).writeLimit_sharesStand hlow hhigh
    refine powerLimit_answers hup fun s' h => ⟨h.reports.supply.trans hstand.supply, fun m _ => ⟨?_, fun hrun => ?_⟩⟩
    · exact (h.plane m).trans ((State.writeLimit_planes (.refl (s.at t)) _).plane m)
    · exact (h.share m).trans (hstand.share m hrun)
  case denied =>
    have hno : ((s.at t).cell cell).mayStop who core = false := by
      refine Bool.eq_false_iff.mpr fun hmay => ?_
      obtain ⟨hwho, htenants⟩ := Cell.mayStop_iff.mp hmay
      rcases hdenied with ⟨h0, h40⟩ | ⟨x, hx, hfn⟩
      · exact hwho.elim h0 h40
      · exact hfn (htenants x hx)
    exact stop_answers hup hcell (askStop_of_denied hno) fun s' h => h.silent
  case stops =>
    exact stop_answers hup hcell (askStop_of_free (Cell.mayStop_iff.mpr ⟨hwho, htenants⟩) hnone) fun s' h => h.silent
  case asked =>
    by_cases hn : n = core
    · subst hn
      rw [if_neg (not_not.mpr rfl)]
      exact stop_answers hup hcell (askStop_of_same (Cell.mayStop_iff.mpr ⟨hwho, htenants⟩) hd) fun s' h => h.silent
    · rw [if_pos hn]
      exact stop_answers hup hcell (askStop_of_other hd hn) fun s' h => h.silent
  case reached =>
    refine debugStopReached_of_stopping hd fun s' h => ?_
    obtain ⟨hfenced, hengines, hwindow⟩ := (s.at t).stoppedCore_core cell core
    obtain ⟨hflash, hfree⟩ := (s.at t).stoppedCore_flash_free cell core
    obtain ⟨m, hcell⟩ := h.cell cell
    rw [State.stoppedCore, State.stopCell_cell] at hcell
    refine ⟨?_, ?_, ?_, ?_, ?_, h.reports.flash.trans hflash, ?_, h.reports.free.trans hfree⟩
    · rw [hcell]
    · rw [hcell]
    · rw [hcell]
    · rw [h.core, hfenced]
    · rw [h.core, hengines]
    · rw [h.core, hwindow]

end Sys2Proof.Machine

/-! ## ROW and ROUTE enter their engines (R111, R113, R115, R116, R123, R125 to R129) -/

namespace Sys2Proof.Machine

/-! ### The statistics set that a ROW makes -/

/-- A forward without REUSE makes a new set (R113). -/
def OpEnv.makesSet (v : OpEnv) : Bool := rowForward v.op.variant && !v.reuse

/-- The set that a ROW over `y` makes, a row of FP32 statistics for each of its rows (R113, R142). -/
def madeSet (x : Core) (v : OpEnv) (y : StatSet) : StatSet :=
  { y with rows := ((List.range v.op.m).map (rowStats x v y)).map (fun z => (bits32 z.1, bits32 z.2))
           poison := x.poisoned (rowReads v) || y.poison }

/-- Rows of a new normalisation set whose v + ε is zero (R121). -/
def zeroVarRows (x : Core) (v : OpEnv) (y : StatSet) : Nat :=
  if v.makesSet && y.kind ≠ 0 then ((List.range v.op.m).filter (fun r =>
    (normMoments (y.kind = 2) v.eps (rowVals x (v.slotOf v.op.a) v.op.fmtA v.op.n r)).2.isZero)).length else 0

def Core.withSets (x : Core) (l : List StatSet) : Core := { x with sets := l }

theorem Core.withSets_slots (x : Core) (l : List StatSet) : (x.withSets l).slots = x.slots := rfl

/-- A core that keeps a set made, its rows from row `start` of side memory on (R113, R115). -/
def Core.keepSet (x : Core) (start : Nat) (made : StatSet) : Core :=
  (x.spill start made.rows).withSets (x.sets ++ [made])

/-- The state as a ROW over the set `y` enters on core `n` of cell `c`: a set made is kept and its rows of zero variance are counted. -/
def State.rowEntered (s : State) (c n : Nat) (v : OpEnv) (y : StatSet) : State :=
  let x := (s.cell c).core n
  s.onCell c (fun k =>
    { (if v.makesSet then k.onCore n (fun z => z.keepSet (x.setStart v.tenant v.setNo) (madeSet x v y)) else k) with
      zeroVar := satAdd k.zeroVar (zeroVarRows x v y) })

theorem madeSet_rows_length (x : Core) (v : OpEnv) (y : StatSet) : (madeSet x v y).rows.length = v.op.m := by simp [madeSet]

/-- Rows that side memory holds spill nothing (R115). -/
theorem Core.spill_of_held (x : Core) {start : Nat} {rows : List (BitVec 32 × BitVec 32)} (h : start + rows.length ≤ 32768) :
    x.spill start rows = x := by
  have hnone : (start + rows.length - 32768 + 511) / 512 = 0 := by omega
  rw [Core.spill, hnone]
  rfl

theorem Core.keepSet_slots (x : Core) (start : Nat) (made : StatSet) : (x.keepSet start made).slots = (x.spill start made.rows).slots :=
  Core.withSets_slots ..

theorem Cell.onCore_congr {k : Cell} {n : Nat} {f g : Core → Core} (h : f (k.core n) = g (k.core n)) : k.onCore n f = k.onCore n g :=
  congrArg (k.setCore n) h

theorem Cell.core_zeroVar (k : Cell) (z : BitVec 32) (n : Nat) : Cell.core { k with zeroVar := z } n = k.core n := rfl

/-- The row engine takes the set's first row from the core that keeps it (R113). -/
theorem State.rowEntered_eq (s : State) (c n : Nat) (v : OpEnv) (y : StatSet) :
    let x := (s.cell c).core n
    s.rowEntered c n v y = s.onCell c (fun k =>
      { (if v.makesSet then k.onCore n (fun z => z.keepSet (z.setStart v.tenant v.setNo) (madeSet x v y)) else k) with
        zeroVar := satAdd k.zeroVar (zeroVarRows x v y) }) := by
  intro x
  unfold State.rowEntered
  have hkeep : (s.cell c).onCore n (fun z => z.keepSet (x.setStart v.tenant v.setNo) (madeSet x v y)) =
      (s.cell c).onCore n (fun z => z.keepSet (z.setStart v.tenant v.setNo) (madeSet x v y)) := Cell.onCore_congr rfl
  refine State.onCell_congr s ?_
  dsimp only
  rw [hkeep]

/-- A ROW that makes a set leaves its core with the set kept; another leaves its core as it is (R113). -/
theorem State.rowEntered_core (s : State) (c n : Nat) (v : OpEnv) (y : StatSet) :
    let x := (s.cell c).core n
    ((s.rowEntered c n v y).cell c).core n =
      if v.makesSet then x.keepSet (x.setStart v.tenant v.setNo) (madeSet x v y) else x := by
  rw [State.rowEntered, State.cell_onCell_same]
  dsimp only
  rw [Cell.core_zeroVar]
  split
  · rw [Cell.core_onCore_same]
  · rfl

/-- Only what a new set spills changes the core's memory (R115). -/
theorem State.rowEntered_slots (s : State) (c n : Nat) (v : OpEnv) (y : StatSet) :
    let x := (s.cell c).core n
    (((s.rowEntered c n v y).cell c).core n).slots =
      (if v.makesSet then x.spill (x.setStart v.tenant v.setNo) (madeSet x v y).rows else x).slots := by
  intro x
  rw [State.rowEntered_core, apply_ite Core.slots, apply_ite Core.slots, Core.keepSet_slots]

/-- A set whose rows side memory holds changes no slot (R115). -/
theorem State.rowEntered_slots_of_held {s : State} {c n : Nat} {v : OpEnv} (y : StatSet)
    (h : ((s.cell c).core n).setStart v.tenant v.setNo + v.op.m ≤ 32768) :
    (((s.rowEntered c n v y).cell c).core n).slots = ((s.cell c).core n).slots := by
  rw [State.rowEntered_slots, Core.spill_of_held _ (by rwa [madeSet_rows_length]), ite_self]

/-! ### ROW and ROUTE at issue -/

section
variable {s : State} {v : OpEnv} {x : Core}

/-- A ROW over its statistics set enters with its rows (R111, R113, R123). -/
theorem rowOp_of_set {y : StatSet} (hx : (s.cell v.cell).core v.core = x) (hok : ∀ i ∈ rowReads v, (x.slot i).ok = true)
    (hset : rowSet x v = some y) :
    s.rowOp v .clean = (s.rowEntered v.cell v.core v y).startOp v 2
      (x.valWrites v (v.slotOf v.op.d) v.op.fmtD (toBlocks v.op.n ((List.range v.op.m).map (rowResult x v y)))
        (x.poisoned (rowReads v) || y.poison))
      (some (rowCycles v (x.setStart v.tenant v.setNo))) [] := by
  subst hx
  simp only [State.rowOp, entryCheck_of_ok hok, hset, State.residue, Bool.not_true, Bool.false_eq_true, if_false]
  rw [State.rowEntered_eq]
  rfl

/-- Expert selection enters with its choices, its bucket overflow counted (R125, R126). -/
theorem routeOp_of_select (hx : (s.cell v.cell).core v.core = x) (hok : ∀ i ∈ routeReads v, (x.slot i).ok = true)
    (hv : v.op.variant = 1 ∨ v.op.variant = 4) :
    let rows := (List.range v.op.m).map (rowVals x (v.slotOf v.op.a) v.op.fmtA v.op.n)
    let toks := rows.map (chooseExperts v.topK)
    let ranks := placeAll v.bucket toks
    let drops := (ranks.map (fun l => (l.filter (· = choiceDropped)).length)).sum
    s.routeOp v .clean = (s.onCell v.cell (fun k => { k with routeOvf := satAdd k.routeOvf drops })).startOp v 3
      { writes := x.bitWrites (v.slotOf v.op.d) fINT32 (toBlocksN 16 ((List.range v.op.m).map (selectionRow toks ranks)))
          (x.poisoned (routeReads v))
        void := rows.any routeBad } (some (routeCycles v)) [] := by
  subst hx
  simp only [State.routeOp, entryCheck_of_ok hok, State.residue, Bool.not_true, Bool.false_eq_true, if_false, if_pos hv]
  rfl

/-- A permutation enters with the rows that its selection places (R127). -/
theorem routeOp_of_permute (hx : (s.cell v.cell).core v.core = x) (hok : ∀ i ∈ routeReads v, (x.slot i).ok = true)
    (hv : v.op.variant = 2) :
    s.routeOp v .clean = s.startOp v 3 { writes := x.bitWrites (v.slotOf v.op.d) v.op.fmtD (permuteBits x v) (x.poisoned (routeReads v))
                                         void := selectionBad x v } (some (routeCycles v)) [] := by
  subst hx
  have hselect : ¬(v.op.variant = 1 ∨ v.op.variant = 4) := by omega
  simp only [State.routeOp, entryCheck_of_ok hok, State.residue, Bool.not_true, Bool.false_eq_true, if_false, if_neg hselect, if_pos hv]
  rfl

/-- A combination enters with each token's weighted sum (R128). -/
theorem routeOp_of_combine (hx : (s.cell v.cell).core v.core = x) (hok : ∀ i ∈ routeReads v, (x.slot i).ok = true)
    (hv : v.op.variant = 3) :
    let r := x.valWrites v (v.slotOf v.op.d) v.op.fmtD ((List.range (v.op.m * v.op.n)).map (fun i =>
      combineVal x v (blockPlace v.op.n i).1 (blockPlace v.op.n i).2)) (x.poisoned (routeReads v))
    s.routeOp v .clean = s.startOp v 3 { r with void := r.void || selectionBad x v } (some (routeCycles v)) [] := by
  subst hx
  have hselect : ¬(v.op.variant = 1 ∨ v.op.variant = 4) := by omega
  have hpermute : ¬v.op.variant = 2 := by omega
  simp only [State.routeOp, entryCheck_of_ok hok, State.residue, Bool.not_true, Bool.false_eq_true, if_false, if_neg hselect,
    if_neg hpermute]
  rfl

end

/-- The count of bucket overflow leaves every core as it is (R126). -/
theorem routeOvf_core (s : State) (c drops n : Nat) :
    ((s.onCell c (fun k => { k with routeOvf := satAdd k.routeOvf drops })).cell c).core n = (s.cell c).core n := by
  rw [State.cell_onCell_same]
  rfl

section
variable {t : Nat} {cell : Fin 8} {core : Fin 128} {rep : Repeat} {v : OpEnv} {s s1 z : State} {P : State → Prop}

theorem row_answers (hi : (s.at t).issue cell core 2 (fun o => o.opcode = 2) = some (v, s1)) (hz : s1.rowOp v rep = z)
    (hP : ∀ s', EndsAs z s' → P s') : Answers (.row t cell core rep) s P :=
  .of_run rfl (by simp only [engRow, hi]; exact hz) hP

theorem route_answers (hi : (s.at t).issue cell core 3 (fun o => o.opcode = 3) = some (v, s1)) (hz : s1.routeOp v rep = z)
    (hP : ∀ s', EndsAs z s' → P s') : Answers (.route t cell core rep) s P :=
  .of_run rfl (by simp only [engRoute, hi]; exact hz) hP

end

/-- Settles O24: a ROW by what becomes of its set, a ROUTE by its variant. -/
theorem rowAndRouteEnterTheirEngines : Obligations.RowAndRouteEnterTheirEngines := by
  refine ⟨fun t cell core y v s1 s hi hok hset => ?row, fun t cell core v s1 s hi hok =>
    ⟨fun hv => ?select, fun hv => ?permute, fun hv => ?combine⟩⟩
  all_goals
    obtain ⟨-, hat, -⟩ := issue_issued hi
    have hx : (s1.cell v.cell).core v.core = (s1.cell cell).core core := by rw [hat.cell, hat.core]
  case row =>
    refine row_answers hi (rowOp_of_set hx hok hset) fun s' h => ?_
    obtain ⟨hsilent, hslots, hengine⟩ := h.enters hat.cell hat.core
    rw [hat.cell, hat.core] at hsilent hslots
    exact ⟨hsilent, hslots.trans (s1.rowEntered_slots cell core v y),
      fun hheld => hslots.trans (State.rowEntered_slots_of_held y hheld), hengine⟩
  case select =>
    refine route_answers hi (routeOp_of_select hx hok hv) fun s' h => ?_
    obtain ⟨hsilent, hslots, hengine⟩ := h.enters hat.cell hat.core
    rw [hat.cell] at hsilent hslots
    exact ⟨hsilent, hslots.trans (by rw [routeOvf_core]), hengine⟩
  case permute => exact route_answers hi (routeOp_of_permute hx hok hv) fun s' h => h.enters hat.cell hat.core
  case combine => exact route_answers hi (routeOp_of_combine hx hok hv) fun s' h => h.enters hat.cell hat.core

end Sys2Proof.Machine

/-! ## Canonical tables at reset and after every step (R140, R145, R370) -/

namespace Sys2Proof.Machine

/-- After reset every table is empty, and with it the tile memory of every cell (R370). -/
theorem reset_inv : Inv State.reset := ⟨rfl, rfl, rfl, rfl, fun _ => rfl⟩

/-- Settles O2: no table lists anything after reset. -/
theorem resetHoldsEveryTableCanonical : Obligations.ResetHoldsEveryTableCanonical := ⟨reset_inv, rfl, fun _ _ => rfl⟩

/-- The queue is none of the tables. -/
theorem Inv.withPending {s : State} (h : Inv s) (l : List Instr) : Inv { s with pending := l } :=
  ⟨h.cells, h.fns, h.chans, h.coords, h.mem⟩

/-- Settles O3: a step idles, or it runs the front command, whose law `exec_moves` says that canonical tables stay so. -/
theorem stepKeepsEveryTableCanonical : Obligations.StepKeepsEveryTableCanonical := by
  intro s s' hinv hstep
  unfold step at hstep
  split at hstep
  case h_1 =>
    cases hstep
    exact hinv
  case h_2 c rest _ =>
    obtain ⟨s1, hexec, hmoves⟩ := exec_moves c { s with pending := rest }
    cases hstep.symm.trans hexec
    exact hmoves.inv (hinv.withPending rest)

end Sys2Proof.Machine

/-! ## ALLOC, READY and FREE of a tenant's own tensor (R147, R150, R151, R152, R251) -/

namespace Sys2Proof.Machine

/-- The unshared tensor that an ALLOC asks for, before it has its place (Table 7-3). -/
def askedTensor (e : Entry) : Tensor :=
  { tenant := e.fld 2 1, ident := BitVec.ofNat 24 (e.fld 4 3), fmt := e.fld 1 1, flags := BitVec.ofNat 8 (e.fld 3 1), base := 0,
    count := e.fld 8 4, ready := false, freePend := false, digest := BitVec.ofNat 256 (e.fld 0x10 32), holder := none }

/-- The tensor at the lowest free run of the cell's tile addresses (R150). -/
def Cell.placed (k : Cell) (x : Tensor) : Tensor := { x with base := lowestRun x.total 0 k.runs' }

section
variable {s : State} {c : Nat} {src : Source} {e : Entry}

/-- An ALLOC of an unshared tensor that is well formed, new and fits enters the tensor and ends with its device address (R150). -/
theorem allocDo_of_fits (hflags : flagsBad (e.fld 3 1) = false) (hident : identBad (e.fld 4 3) (e.fld 1 1) (e.fld 3 1) = false)
    (hown : bit (e.fld 3 1) 3 = false)
    (hnew : (s.cell c).tiers.dir.find? (fun x => x.tenant = e.fld 2 1 && x.ident = BitVec.ofNat 24 (e.fld 4 3)) = none)
    (hlen : (s.cell c).tiers.dir.length < 65536) (hfits : (s.cell c).allocFits ((s.cell c).placed (askedTensor e)) = 0) :
    s.allocDo c e = (s.setCell c ((s.cell c).addTensor ((s.cell c).placed (askedTensor e))),
      { status := 0, result := deviceAddr c ((s.cell c).placed (askedTensor e)).base }) := by
  simp only [State.allocDo, hflags, hident, hown, hnew, Bool.false_and, Bool.false_eq_true, if_false, not_le.mpr hlen]
  exact if_neg (not_not_intro hfits)

section
variable {x : Tensor} (hx : (s.cell c).lookup (e.fld 2 1) (BitVec.ofNat 24 (e.fld 4 3)) = some (x, false)) (hfree : x.freePend = false)
include hx hfree

/-- READY of an unshared tensor that its own cell holds, loading: it becomes ready, and home weights get version 0 (R151, R251). -/
theorem readyDo_of_loading (hhere : x.holder = none) (hready : x.ready = false) (hro : x.sharedRo = false) :
    s.readyDo c e = (s.setCell c (((s.cell c).makeReady x).newWeights x.tenant ((s.cell c).layersHomed s.mySeat c x) 0),
      { status := 0 }) := by
  simp only [State.readyDo, State.locate, hx, hhere, hfree, hready, hro, Bool.or_self, Bool.false_and, Bool.false_eq_true, if_false]
  rfl

/-- FREE of a tenant's own tensor marks it for the step boundary (R152). -/
theorem freeDo_of_own (hown : x.tenant ≠ 0xFF) :
    s.freeDo c e = ((s.setCell c ((s.cell c).markFree x.tenant x.ident)).freeSoon c, { status := 0 }) := by
  simp only [State.freeDo, hx, hfree, Bool.false_eq_true, if_false, ne_eq, hown, not_false_eq_true, if_true]
  rfl

end

/-- The effect of a tensor command by its kind (R147). -/
def State.tensorDo (s : State) (c : Nat) (e : Entry) : State × Done :=
  if e.fld 0 1 = 1 then s.allocDo c e else if e.fld 0 1 = 2 then s.readyDo c e else s.freeDo c e

/-- A well-formed tensor command of a sender that may give it has the effect of its kind, and completes by its path (R147, R149). -/
theorem doTensor_of_accepted (hfields : tensorReserved e = false) (hsender : s.mayFor c (e.fld 2 1) src.who = true) {x : State} {d : Done}
    (hdo : s.tensorDo c e = (x, d)) : s.doTensor c src e = x.complete c src e d := by
  unfold State.tensorDo at hdo
  simp only [State.doTensor, hfields, hsender, hdo, Bool.not_true, Bool.false_eq_true, if_false]

end

/-- An entry that a cell takes is of the command's kind (R340). -/
theorem kind_of_takes {s : State} {c kind : Nat} {src : Source} {e : Entry} (h : s.takes c kind src e = true) : e.fld 0 1 = kind := by
  simp only [State.takes, Bool.and_eq_true, decide_eq_true_eq] at h
  obtain ⟨⟨⟨-, hkind⟩, -⟩, -⟩ := h
  exact hkind

/-- Settles O8: the cell takes the entry, and its effect is that of its kind. -/
theorem tensorEntriesAllocateReadyAndFree : Obligations.TensorEntriesAllocateReadyAndFree := by
  refine fun t cell src e s hfields hsender => ⟨fun htakes hflags hident hown hnew hlen hfits => ?alloc,
    fun htakes x hx hhere hfree hready hro => ?ready, fun htakes x hx hown hfree => ?free⟩
  all_goals
    have hkind := kind_of_takes htakes
    refine .of_run rfl ((entryAt_of_takes htakes _).trans (doTensor_of_accepted hfields hsender ?_)) fun s' h => h.silent
  case alloc => exact (if_pos hkind).trans (allocDo_of_fits hflags hident hown hnew hlen hfits)
  case ready => exact (if_neg (by omega)).trans ((if_pos hkind).trans (readyDo_of_loading hx hfree hhere hready hro))
  case free => exact (if_neg (by omega)).trans ((if_neg (by omega)).trans (freeDo_of_own hx hfree hown))

end Sys2Proof.Machine

/-! ## Warming and lagging homes (R154, R260, R261) -/

namespace Sys2Proof

/-- What a canonical table lists under a key is what a read finds there. -/
theorem SMap.get_of_mem {β : Type} [DecidableEq β] {d : β} {m : SMap β} (hwf : SMap.wf d m = true) {p : Nat × β} (hp : p ∈ m) :
    m.get d p.1 = p.2 := by
  have hnodup := SMap.keys_nodup hwf
  clear hwf
  induction m with
  | nil => exact nomatch hp
  | cons q r ih =>
    obtain ⟨hq, hr⟩ := List.nodup_cons.mp hnodup
    rw [SMap.get_cons]
    rcases List.mem_cons.mp hp with rfl | hp
    · exact if_pos rfl
    · have hne : q.1 ≠ p.1 := fun e => hq (e ▸ List.mem_map_of_mem hp)
      rw [if_neg hne]
      exact ih hp hr

end Sys2Proof

namespace Sys2Proof.Machine

theorem Cell.ent_setEnt (k : Cell) (a : Nat) (e : TileEnt) (b : Nat) : (k.setEnt a e).ent b = if b = a then e else k.ent b :=
  SMap.get_set ..

theorem EndsAs.tiers {x s' : State} (h : EndsAs x s') (c : Nat) : (s'.cell c).tiers = (x.cell c).tiers := by
  obtain ⟨n, hc⟩ := h.cell c
  rw [hc]

theorem Reports.tiers {s s' : State} (h : Reports s s') (c : Nat) : (s'.cell c).tiers = (s.cell c).tiers := by
  obtain ⟨e, p, q, hc⟩ := h.cell c
  rw [hc]

theorem TierMoves.ver {s s' : State} (h : TierMoves s s') (c t : Nat) : (s'.cell c).ver t = (s.cell c).ver t := by
  obtain ⟨t', e, q, hc⟩ := h.cell c
  rw [hc]
  rfl

/-! ### Warming (R261) -/

theorem Cell.warmTile_tiered (k : Cell) (t : Tensor) (a : Nat) : k.Tiered (k.warmTile t a) := by
  unfold Cell.warmTile
  dsimp only
  split
  · exact .refl k
  split
  · split
    · rfl
    next k1 hroom => exact (Cell.makeRoom_tiered hroom).trans rfl
  · exact (k.install_tiered t [a] a).trans rfl

/-- `s'` is `s` but for the tiles of cells in `l`, and what is reported meanwhile. -/
structure WarmsAt (l : List Nat) (s s' : State) : Prop where
  moves : TierMoves s s'
  tiers : ∀ m, m ∉ l → (s'.cell m).tiers = (s.cell m).tiers

theorem WarmsAt.refl (l : List Nat) (s : State) : WarmsAt l s s := ⟨.refl s, fun _ _ => rfl⟩

theorem WarmsAt.trans {l : List Nat} {a b c : State} (h : WarmsAt l a b) (g : WarmsAt l b c) : WarmsAt l a c :=
  ⟨h.moves.trans g.moves, fun m hm => (g.tiers m hm).trans (h.tiers m hm)⟩

theorem foldl_warmsAt {β : Type} {l : List Nat} (bs : List β) {f : State → β → State} (hf : ∀ x, ∀ b ∈ bs, WarmsAt l x (f x b))
    (s : State) :
    WarmsAt l s (bs.foldl f s) :=
  List.foldlRecOn bs f (motive := WarmsAt l s) (.refl l s) fun x hx b hb => hx.trans (hf x b hb)

/-- One tile that warming reads in moves tiles of its holder alone. -/
theorem warmOne_warmsAt {l : List Nat} {h : Nat} (hh : h ∈ l) (s : State) (c : Nat) (x : Tensor) (a : Nat) :
    WarmsAt l s ((s.onCell h (fun k => k.warmTile x a)).warmReport c h x a) := by
  have hread : WarmsAt l s (s.onCell h (fun k => k.warmTile x a)) := by
    refine ⟨s.setCell_tierMoves h (Cell.warmTile_tiered ..), fun m hm => ?_⟩
    have hne : m ≠ h := fun e => hm (e ▸ hh)
    rw [State.cell_onCell, if_neg hne]
  have hreport : Reports (s.onCell h (fun k => k.warmTile x a)) ((s.onCell h (fun k => k.warmTile x a)).warmReport c h x a) :=
    ite_reports (State.err_reports (.refl _) ..) (ite_reports (State.err_reports (.refl _) ..) (.refl _))
  exact hread.trans ⟨hreport.tierMoves, fun m _ => hreport.tiers m⟩

/-- Every tile of the weight tensors is read in, one after the other (R261). -/
def State.warmAll (s : State) (c : Nat) (l : List (Nat × Tensor)) : State :=
  l.foldl (fun s x => (List.range x.2.count).foldl (fun s i =>
    (s.onCell x.1 (fun k => k.warmTile x.2 (x.2.base + i))).warmReport c x.1 x.2 (x.2.base + i)) s) s

theorem State.warmAll_warmsAt (s : State) (c : Nat) (l : List (Nat × Tensor)) : WarmsAt (l.map Prod.fst) s (s.warmAll c l) :=
  foldl_warmsAt l (fun y x hx => foldl_warmsAt _ (fun z _ _ => warmOne_warmsAt (List.mem_map_of_mem hx) z c x.2 _) y) s

/-- Warming of the tenant's image has begun. -/
def State.warmBegun (s : State) (c t : Nat) : State := s.onCell c (fun k => k.onVer t (fun v => { v with warming := true }))

theorem State.warmBegun_tiers (s : State) (c t m : Nat) : ((s.warmBegun c t).cell m).tiers = (s.cell m).tiers := by
  rw [State.warmBegun, State.cell_onCell]
  split
  · subst_vars
    rfl
  · rfl

/-! ### Lagging homes (R260) -/

theorem TileEnt.caughtUp_lagging (e : TileEnt) : e.caughtUp.lagging = false := by
  unfold TileEnt.caughtUp
  split
  · rfl
  next h => simpa using h

theorem TileEnt.caughtUp_of_not_lagging {e : TileEnt} (h : e.lagging = false) : e.caughtUp = e := by simp [TileEnt.caughtUp, h]

/-- A tile whose copy is in the fast tier has that copy as its content, whatever its home (Table 7-7). -/
theorem TileEnt.current_of_inFast {e : TileEnt} (h : e.st.inFast = true) : e.current = some e.fast := by
  unfold TileEnt.current
  cases hst : e.st <;> simp_all [TState.inFast]

/-- Writing a lagging home from its fast copy changes no content (R154, R260). -/
theorem TileEnt.caughtUp_current {e : TileEnt} (h : e.lagging = true → e.st.inFast = true) : e.caughtUp.current = e.current := by
  cases hlag : e.lagging
  · rw [TileEnt.caughtUp_of_not_lagging hlag]
  · have hfast := h hlag
    rw [TileEnt.current_of_inFast hfast, TileEnt.caughtUp, if_pos hlag]
    exact TileEnt.current_of_inFast hfast

/-- The homes at the listed addresses are written from their copies. -/
def Cell.catchUp (k : Cell) (l : List Nat) : Cell := l.foldl (fun k a => k.setEnt a (k.ent a).caughtUp) k

theorem Cell.catchUp_ent (k : Cell) (l : List Nat) (a : Nat) :
    (k.catchUp l).ent a = if a ∈ l then (k.ent a).caughtUp else k.ent a := by
  induction l generalizing k with
  | nil => rfl
  | cons b l ih =>
    refine (ih (k.setEnt b (k.ent b).caughtUp)).trans ?_
    rw [Cell.ent_setEnt]
    by_cases hab : a = b
    · subst hab
      simp [TileEnt.caughtUp_of_not_lagging (TileEnt.caughtUp_lagging _)]
    · simp [hab]

theorem Cell.catchUp_dir (k : Cell) (l : List Nat) : (k.catchUp l).tiers.dir = k.tiers.dir :=
  List.foldlRecOn l _ (motive := fun x : Cell => x.tiers.dir = k.tiers.dir) rfl fun _ hx _ _ => hx

theorem Cell.catchUp_wf {k : Cell} (h : Memory.wf k.tiers.tiles = true) (l : List Nat) : Memory.wf (k.catchUp l).tiers.tiles = true :=
  wf_foldl l _ h fun _ _ hx => Cell.setEnt_wf hx ..

/-- A tile at address `a` belongs to a tensor of the tenant. -/
def Cell.ownsTile (k : Cell) (t a : Nat) : Bool := (k.tiers.dir.filter (fun x => x.tenant = t)).any (fun x => x.owns a)

theorem Cell.mem_laggards {k : Cell} (h : Memory.wf k.tiers.tiles = true) (t a : Nat) :
    a ∈ k.laggards t ↔ (k.ent a).lagging = true ∧ k.ownsTile t a = true := by
  unfold Cell.laggards
  simp only [List.mem_map, List.mem_filter, Bool.and_eq_true]
  constructor
  · rintro ⟨p, ⟨hp, hlag, howns⟩, rfl⟩
    refine ⟨?_, howns⟩
    rwa [Cell.ent, SMap.get_of_mem h hp]
  · rintro ⟨hlag, howns⟩
    refine ⟨(a, k.ent a), ⟨SMap.mem_of_get_ne fun hnone => ?_, hlag, howns⟩, rfl⟩
    rw [Cell.ent, hnone] at hlag
    exact absurd hlag (by decide)

/-- Once all have been written no home of the tenant lags (R260). -/
theorem Cell.laggards_catchUp {k : Cell} (h : Memory.wf k.tiers.tiles = true) (t : Nat) :
    (k.catchUp (k.laggards t)).laggards t = [] := by
  refine List.eq_nil_iff_forall_not_mem.mpr fun a ha => ?_
  obtain ⟨hlag, howns⟩ := (Cell.mem_laggards (Cell.catchUp_wf h _) t a).mp ha
  rw [Cell.catchUp_ent] at hlag
  split at hlag
  · rw [TileEnt.caughtUp_lagging] at hlag
    exact absurd hlag (by decide)
  next hout => exact hout ((Cell.mem_laggards h t a).mpr ⟨hlag, by rwa [Cell.ownsTile, Cell.catchUp_dir] at howns⟩)

/-! ### WARMING, WARMING_COMPLETE and LAGGING_WRITEBACK -/

section
variable {t : Nat} {cell : Fin 8} {tenant : Fin 64} {s : State} {P : State → Prop} (hup : (s.at t).cellUp cell = true)
include hup

theorem warming_answers (himage : (((s.at t).cell cell).run tenant).image.isSome = true)
    (hcold : (((s.at t).cell cell).ver tenant).warmed = false) (hidle : (((s.at t).cell cell).ver tenant).warming = false)
    (hP : ∀ s', EndsAs (((s.at t).warmBegun cell tenant).warmAll cell ((s.at t).weightTensors cell tenant)) s' → P s') :
    Answers (.warming t cell tenant) s P :=
  .of_run rfl (if_neg (by simp [hup, Option.isNone_eq_false_iff.mpr himage, hcold, hidle])) hP

theorem laggingWriteback_answers {n : Nat} (hwarm : (((s.at t).cell cell).ver tenant).warmed = true)
    (hP : ∀ s', EndsAs ((s.at t).onCell cell (fun k => k.catchUp ((k.laggards tenant).take n))) s' → P s') :
    Answers (.laggingWriteback t cell tenant n) s P :=
  .of_run rfl (if_pos (by simp [hup, hwarm])) hP

end

/-- Settles O36: warming moves tiles at the holders of what it reads alone; a lagging home is written from the copy that is its content. -/
theorem warmingReadsInAndLaggingHomesCatchUp : Obligations.WarmingReadsInAndLaggingHomesCatchUp := by
  refine fun t cell tenant s hup => ⟨fun himage hcold hidle => ?warming, fun hwarming => ?complete,
    fun n hwarm hwf hfast => ?lagging⟩
  case warming =>
    refine warming_answers hup himage hcold hidle fun s' h => ?_
    have hwarms := ((s.at t).warmBegun cell tenant).warmAll_warmsAt cell ((s.at t).weightTensors cell tenant)
    have hver : (s'.cell cell).ver tenant = { ((s.at t).cell cell).ver tenant with warming := true } := by
      rw [h.reports.tierMoves.ver, hwarms.moves.ver, State.warmBegun, State.cell_onCell_same, Cell.ver_onVer_same]
    refine ⟨by rw [hver], by rw [hver]; exact hcold, fun m hm hfar => ?_⟩
    rw [h.tiers, hwarms.tiers m (by simpa using fun x hx => hfar (m, x) hx rfl), State.warmBegun_tiers]
  case complete => exact .of_run rfl (if_pos (by simp [hup, hwarming])) fun s' h => h.silent
  case lagging =>
    refine laggingWriteback_answers hup hwarm fun s' h => ?_
    have hent (a : Nat) : (s'.cell cell).ent a =
        (((s.at t).cell cell).catchUp ((((s.at t).cell cell).laggards tenant).take n)).ent a := by
      rw [Cell.ent, h.tiers, State.cell_onCell_same, Cell.ent]
    refine ⟨fun a => ?_, fun hall => ?_⟩
    · rw [hent, Cell.catchUp_ent]
      split
      next hin => exact ⟨TileEnt.caughtUp_current (hfast a), by simp [TileEnt.caughtUp_lagging, hin]⟩
      next hout => exact ⟨rfl, by simp [hout]⟩
    · rw [Cell.laggards, h.tiers, State.cell_onCell_same, List.take_of_length_le hall]
      exact Cell.laggards_catchUp hwf tenant

end Sys2Proof.Machine

/-! ## The device range through BAR2 (R144 to R147) -/

namespace Sys2Proof.Machine

/-! ### Bytes of a payload and of a tile (R140) -/

/-- Byte `o` of a payload. -/
def byteAt (p : Payload) (o : Nat) : Byte := p.extractLsb' (8 * o) 8

theorem getLsbD_oneByte (i : Nat) : (0xFF#32768).getLsbD i = decide (i < 8) := by
  rw [BitVec.getLsbD_ofNat, show (0xFF : Nat) = 2 ^ 8 - 1 from rfl, Nat.testBit_two_pow_sub_one]
  by_cases h : i < 8
  · simp only [h, decide_true, Bool.and_true, decide_eq_true_eq]
    omega
  · simp [h]

theorem getLsbD_setByte (p : Payload) (o : Nat) (b : Byte) {j : Nat} (hj : j < 32768) :
    (setByte p o b).getLsbD j = if 8 * o ≤ j ∧ j < 8 * o + 8 then b.getLsbD (j - 8 * o) else p.getLsbD j := by
  simp only [setByte, BitVec.getLsbD_or, BitVec.getLsbD_and, BitVec.getLsbD_not, BitVec.getLsbD_shiftLeft, BitVec.getLsbD_setWidth,
    getLsbD_oneByte, hj, decide_true, Bool.true_and]
  by_cases hlow : j < 8 * o
  · have hout : ¬(8 * o ≤ j ∧ j < 8 * o + 8) := by omega
    simp [hlow, hout]
  by_cases hhigh : j < 8 * o + 8
  · have hin : 8 * o ≤ j ∧ j < 8 * o + 8 := by omega
    have hbit : j - 8 * o < 8 ∧ j - 8 * o < 32768 := by omega
    simp [hlow, hin, hbit]
  · have hout : ¬(8 * o ≤ j ∧ j < 8 * o + 8) := by omega
    have hbit : 8 ≤ j - 8 * o := by omega
    simp [hlow, hout, not_lt.mpr hbit, BitVec.getLsbD_of_ge b _ hbit]

/-- A replaced byte reads as written, every other as before. -/
theorem byteAt_setByte (p : Payload) {o o' : Nat} (ho : o' < 4096) (b : Byte) :
    byteAt (setByte p o b) o' = if o' = o then b else byteAt p o' := by
  refine BitVec.eq_of_getLsbD_eq fun i hi => ?_
  have hj : 8 * o' + i < 32768 := by omega
  rw [byteAt, BitVec.getLsbD_extractLsb', getLsbD_setByte p o b hj]
  by_cases h : o' = o
  · subst h
    simp [hi]
  · have hout : ¬(8 * o ≤ 8 * o' + i ∧ 8 * o' + i < 8 * o + 8) := by omega
    simp [h, hi, byteAt, hout]

/-- Byte `o` of a tile's current content. -/
def TileEnt.byte (e : TileEnt) (o : Nat) : Option Byte := e.current.map (fun x => byteAt x.payload o)

/-- A state whose content a host write reaches: there is one, and it is no shadow. -/
def TState.shows (x : TState) : Prop := x ≠ .HX ∧ x ≠ .E ∧ x ≠ .none

/-- A tile with byte `o` written by the host (R146): in its fast copy where it has one, and in its home. -/
def TileEnt.hostWrote (e : TileEnt) (o : Nat) (b : Byte) : TileEnt :=
  { e with
    fast := if e.st.inFast then { e.fast with payload := setByte e.fast.payload o b } else e.fast
    home := if e.st = .F then e.home else { e.home with payload := setByte e.home.payload o b } }

/-- The write changes the content's payload and nothing else of it. -/
theorem TileEnt.hostWrote_current {e : TileEnt} (h : e.st.shows) (o : Nat) (b : Byte) :
    ∃ x, e.current = some x ∧ (e.hostWrote o b).current = some { x with payload := setByte x.payload o b } := by
  obtain ⟨hHX, hE, hnone⟩ := h
  unfold TileEnt.current TileEnt.hostWrote
  cases hst : e.st with
  | F | HC | HD | HDX | S | H => exact ⟨_, rfl, rfl⟩
  | HX => exact absurd hst hHX
  | E => exact absurd hst hE
  | none => exact absurd hst hnone

theorem TileEnt.hostWrote_byte {e : TileEnt} (h : e.st.shows) (o : Nat) {o' : Nat} (ho : o' < 4096) (b : Byte) :
    (e.hostWrote o b).byte o' = if o' = o then some b else e.byte o' := by
  obtain ⟨x, hx, hw⟩ := TileEnt.hostWrote_current h o b
  simp only [TileEnt.byte, hx, hw, Option.map_some, byteAt_setByte _ ho, apply_ite some]

/-! ### Bytes of the device range (R144) -/

/-- The byte at a device address as the host reads it. -/
def State.devByte (s : State) (d : Nat) : Option Byte := (s.cell (d / 2 ^ 41)).deviceByte (d % 2 ^ 41)

/-- A device address in the payload of a tensor being loaded, in a tile whose content a host write reaches (R146). -/
def State.loadingAt (s : State) (d : Nat) : Prop :=
  d % 2 ^ 41 < 2 ^ 40 ∧ (∃ x, (s.cell (d / 2 ^ 41)).ownerOf (d % 2 ^ 41 / 4096) = some x ∧ x.ready = false) ∧
    ((s.cell (d / 2 ^ 41)).ent (d % 2 ^ 41 / 4096)).st.shows

/-- A device address that takes no host write: no payload, in a ready tensor, or where nothing is allocated (R146). -/
def State.closedAt (s : State) (d : Nat) : Prop :=
  2 ^ 40 ≤ d % 2 ^ 41 ∨ ∀ x, (s.cell (d / 2 ^ 41)).ownerOf (d % 2 ^ 41 / 4096) = some x → x.ready = true

/-- The state with the byte at a device address written. -/
def State.hostPut (s : State) (d : Nat) (b : Byte) : State :=
  s.onCell (d / 2 ^ 41) (fun k => k.setEnt (d % 2 ^ 41 / 4096) ((k.ent (d % 2 ^ 41 / 4096)).hostWrote (d % 2 ^ 41 % 4096) b))

theorem EndsAs.devByte {x s' : State} (h : EndsAs x s') (d : Nat) : s'.devByte d = x.devByte d := by
  obtain ⟨n, hc⟩ := h.cell (d / 2 ^ 41)
  rw [State.devByte, hc]
  rfl

section
variable (s : State)

theorem devByte_of_payload {d : Nat} (h : d % 2 ^ 41 < 2 ^ 40) :
    s.devByte d = ((s.cell (d / 2 ^ 41)).ent (d % 2 ^ 41 / 4096)).byte (d % 2 ^ 41 % 4096) := by
  rw [State.devByte, Cell.deviceByte, if_pos h, TileEnt.byte]
  split
  next hc => rw [hc]; rfl
  next x hc => rw [hc]; rfl

theorem devicePut_of_loading {d : Nat} (h : s.loadingAt d) (ok : Bool) (b : Byte) : s.devicePut ok d b = (s.hostPut d b, ok) := by
  obtain ⟨hd, ⟨x, hx, hr⟩, -⟩ := h
  simp only [State.devicePut, Cell.deviceWrite, if_pos hd, hx, hr, Bool.false_eq_true, if_false, if_true, Bool.and_true]
  rfl

theorem devicePut_of_closed {d : Nat} (h : s.closedAt d) (ok : Bool) (b : Byte) : s.devicePut ok d b = (s, false) := by
  have hw : ∃ k, (s.cell (d / 2 ^ 41)).deviceWrite (d % 2 ^ 41) b = (k, false) := by
    unfold Cell.deviceWrite
    split
    · exact ⟨_, rfl⟩
    next x hx =>
      split at hx
      next hd => exact ⟨_, if_pos (h.resolve_left (not_le.mpr hd) x hx)⟩
      next => exact nomatch hx
  obtain ⟨k, hk⟩ := hw
  simp only [State.devicePut, hk, Bool.false_eq_true, if_false, Bool.and_false]

theorem hostPut_ent (d : Nat) (b : Byte) (c a : Nat) : ((s.hostPut d b).cell c).ent a =
    if c = d / 2 ^ 41 ∧ a = d % 2 ^ 41 / 4096 then ((s.cell c).ent a).hostWrote (d % 2 ^ 41 % 4096) b else (s.cell c).ent a := by
  rw [State.hostPut, State.cell_onCell]
  by_cases hc : c = d / 2 ^ 41
  · rw [if_pos hc, Cell.ent_setEnt, ← hc]
    by_cases ha : a = d % 2 ^ 41 / 4096
    · rw [if_pos ha, if_pos ⟨rfl, ha⟩, ← ha]
    · rw [if_neg ha, if_neg fun h => ha h.2]
  · rw [if_neg hc, if_neg fun h => hc h.1]

theorem hostPut_ownerOf (d : Nat) (b : Byte) (c : Nat) : ((s.hostPut d b).cell c).ownerOf = (s.cell c).ownerOf := by
  rw [State.hostPut, State.cell_onCell]
  split
  · subst_vars
    rfl
  · rfl

/-- A byte written reads back, and every other payload byte of every cell reads as before (R145, R146). -/
theorem hostPut_devByte {d : Nat} (hd : s.loadingAt d) (b : Byte) {d' : Nat} (hd' : d' % 2 ^ 41 < 2 ^ 40) :
    (s.hostPut d b).devByte d' = if d' = d then some b else s.devByte d' := by
  obtain ⟨-, -, hshows⟩ := hd
  rw [devByte_of_payload _ hd', devByte_of_payload _ hd', hostPut_ent]
  by_cases htile : d' / 2 ^ 41 = d / 2 ^ 41 ∧ d' % 2 ^ 41 / 4096 = d % 2 ^ 41 / 4096
  · obtain ⟨hc, ha⟩ := htile
    rw [if_pos ⟨hc, ha⟩, hc, ha, TileEnt.hostWrote_byte hshows _ (Nat.mod_lt _ (by decide))]
    refine if_congr ⟨fun h => ?_, fun h => by rw [h]⟩ rfl rfl
    omega
  · have hne : d' ≠ d := fun h => htile (h ▸ ⟨rfl, rfl⟩)
    rw [if_neg htile, if_neg hne]

theorem hostPut_loadingAt (d : Nat) (b : Byte) {d' : Nat} (h : s.loadingAt d') : (s.hostPut d b).loadingAt d' := by
  obtain ⟨hd, howner, hshows⟩ := h
  refine ⟨hd, by rwa [hostPut_ownerOf], ?_⟩
  rw [hostPut_ent]
  split
  · exact hshows
  · exact hshows

/-! ### A host write (R145, R146) -/

/-- The bytes, each with its place, written one after the other from a device address on; the Bool says that all were taken. -/
def State.putBytes (s : State) (dev : Nat) (l : List (Byte × Nat)) (ok : Bool) : State × Bool :=
  l.foldl (fun acc b => acc.1.devicePut acc.2 (dev + b.2) b.1) (s, ok)

/-- The bytes stand from device address `lo` on, and every other payload byte of every cell is as it was. -/
structure BytesAt (s : State) (lo : Nat) (bytes : List Byte) (s' : State) : Prop where
  inside  : ∀ i, i < bytes.length → s'.devByte (lo + i) = bytes[i]?
  outside : ∀ d, d % 2 ^ 41 < 2 ^ 40 → d < lo ∨ lo + bytes.length ≤ d → s'.devByte d = s.devByte d

theorem putBytes_of_loading {dev n lo : Nat} (hlo : lo = dev + n) (bytes : List Byte)
    (h : ∀ i, i < bytes.length → s.loadingAt (lo + i)) :
    ∃ s', s.putBytes dev (bytes.zipIdx n) true = (s', true) ∧ BytesAt s lo bytes s' := by
  induction bytes generalizing s n lo with
  | nil => exact ⟨s, rfl, nofun, fun _ _ _ => rfl⟩
  | cons b bytes ih =>
    have hfirst : s.loadingAt lo := h 0 (Nat.succ_pos _)
    obtain ⟨s', hput, hbytes⟩ := ih (s.hostPut lo b) (n := n + 1) (lo := lo + 1) (by omega) fun i hi => by
      have := hostPut_loadingAt s lo b (h (i + 1) (Nat.succ_lt_succ hi))
      rwa [Nat.add_assoc, Nat.add_comm 1 i]
    refine ⟨s', ?_, fun i hi => ?_, fun d hd hout => ?_⟩
    · rw [← hput, List.zipIdx_cons, State.putBytes, List.foldl_cons, ← hlo, devicePut_of_loading s hfirst]
      rfl
    · cases i with
      | zero =>
        rw [Nat.add_zero, hbytes.outside _ hfirst.1 (by omega), hostPut_devByte s hfirst b hfirst.1, if_pos rfl]
        rfl
      | succ i =>
        rw [Nat.add_comm i 1, ← Nat.add_assoc, hbytes.inside i (Nat.lt_of_succ_lt_succ hi), Nat.add_comm 1 i]
        rfl
    · rw [List.length_cons] at hout
      rw [hbytes.outside d hd (by omega), hostPut_devByte s hfirst b hd, if_neg (by omega)]

theorem putBytes_of_closed {dev n lo : Nat} (hlo : lo = dev + n) {bytes : List Byte} (hne : bytes ≠ [])
    (h : ∀ i, i < bytes.length → s.closedAt (lo + i)) (ok : Bool) : s.putBytes dev (bytes.zipIdx n) ok = (s, false) := by
  induction bytes generalizing n lo ok with
  | nil => exact absurd rfl hne
  | cons b bytes ih =>
    have hfirst : s.closedAt lo := h 0 (Nat.succ_pos _)
    rw [List.zipIdx_cons, State.putBytes, List.foldl_cons, ← hlo, devicePut_of_closed s hfirst]
    by_cases hnil : bytes = []
    · subst hnil
      rfl
    · refine ih (lo := lo + 1) (by omega) hnil (fun i hi => ?_) false
      rw [Nat.add_assoc, Nat.add_comm 1 i]
      exact h (i + 1) (Nat.succ_lt_succ hi)

end

/-! ### BAR2_WRITE and BAR2_READ -/

theorem badAccess_reports (s : State) (dev : Nat) : Reports s (s.badAccess dev) := State.err_reports (.refl s) ..

/-- Device address of the first byte of an access at `off` in the window (R145). -/
def State.devBase (s : State) (off : Nat) : Nat := s.host.bar2.toNat * 2 ^ 37 + off

section
variable {t off : Nat} {s : State} {P : State → Prop} (hup : (s.at t).bar2Up 0x00 = true)
include hup

theorem bar2Write_answers {bytes : List Byte} (hlen : off + bytes.length ≤ 2 ^ 37) (hne : bytes ≠ []) {s1 : State} {ok : Bool}
    (hput : (s.at t).putBytes ((s.at t).devBase off) bytes.zipIdx true = (s1, ok))
    (hP : ∀ s', EndsAs (if ok then s1 else s1.badAccess ((s.at t).devBase off)) s' → P s') : Answers (.bar2Write t 0x00 off bytes) s P := by
  have heffect (r : State × Bool) (hr : r = (s1, ok)) : (if r.2 then r.1 else r.1.badAccess ((s.at t).devBase off)) =
      if ok then s1 else s1.badAccess ((s.at t).devBase off) := by rw [hr]
  exact .of_run rfl ((if_neg (by simpa [hne] using And.intro hup hlen)).trans (heffect _ hput)) hP

theorem bar2Read_answers {n : Nat} (hlen : off + n ≤ 2 ^ 37) (hn : n ≠ 0)
    (hP : ∀ r, Reports (s.at t) r → ∀ s',
      EndsAs (r.emit (.readData 0 (ofBytes ((List.range n).map (fun i => ((s.at t).devByte ((s.at t).devBase off + i)).getD 0))))) s' → P s') :
    Answers (.bar2Read t 0x00 off n) s P := by
  have hreports : Reports (s.at t) (if ((List.range n).map (fun i => (s.at t).devByte ((s.at t).devBase off + i))).all Option.isSome
      then s.at t else (s.at t).badAccess ((s.at t).devBase off)) := ite_reports (.refl _) (badAccess_reports ..)
  refine .of_run rfl (if_neg (by simpa [hn] using And.intro hup hlen)) fun s' h => hP _ hreports s' ?_
  dsimp only at h
  rw [List.map_map] at h
  exact h

end

/-- Settles O26: a write byte by byte, by whether its tensor loads; a read by the bytes' current values. -/
theorem theHostWritesAndReadsTilesThroughBar2 : Obligations.TheHostWritesAndReadsTilesThroughBar2 := by
  refine fun t off s hup => ⟨fun bytes hlen hne => ⟨fun hload => ?taken, fun hclosed => ?discarded⟩, fun n hlen hn => ?read⟩
  case taken =>
    obtain ⟨s1, hput, hbytes⟩ := putBytes_of_loading (s.at t) (lo := (s.at t).devBase off) (Nat.add_zero _).symm bytes hload
    refine bar2Write_answers hup hlen hne hput fun s' h => ⟨fun i hi => ?_, fun d hd hout => ?_⟩
    · exact (h.devByte _).trans (hbytes.inside i hi)
    · exact (h.devByte d).trans (hbytes.outside d hd (by simpa only [State.devBase, Nat.add_zero] using hout))
  case discarded =>
    have hput := putBytes_of_closed (s.at t) (lo := (s.at t).devBase off) (Nat.add_zero _).symm hne hclosed true
    exact bar2Write_answers hup hlen hne hput fun s' h => (badAccess_reports _ _).trans h.reports
  case read => exact bar2Read_answers hup hlen hn fun r hr s' h => ⟨r, hr, h.silent⟩

end Sys2Proof.Machine

/-! ## Migration (R154, R160) -/

namespace Sys2Proof.Machine

/-! ### From canonical tile memory a migration keeps every content -/

/-- An entry of the slow tier after its tile has moved up (R160). -/
def TileEnt.risen (e : TileEnt) : TileEnt := { e with st := .F, fast := e.home.spoil e.homeBad, home := Tile.zero, homeBad := false }

theorem TileEnt.risen_current {e : TileEnt} (h : e.st = .S) : e.risen.current = e.current := by
  simp [TileEnt.risen, TileEnt.current, h]

/-- What the tile that moves up next is chosen among: the later stamp stands, then the earlier place in the list (R160). -/
def Cell.riseBest (k : Cell) (best : Option (Nat × Nat)) (x : Nat × TileEnt) : Option (Nat × Nat) :=
  if !k.mayRise x.1 x.2 then best
  else match best with
    | none => some (x.1, x.2.stamp)
    | some b => if b.2 < x.2.stamp then some (x.1, x.2.stamp) else best

/-- An address with an entry in the tile map that may rise. -/
def Cell.Rising (k : Cell) (a : Nat) : Prop := ∃ e, (a, e) ∈ k.tiers.tiles ∧ k.mayRise a e = true

theorem rising_of_riseBest (k : Cell) : ∀ b ∈ k.tiers.tiles.foldl k.riseBest none, k.Rising b.1 := by
  refine List.foldlRecOn (motive := fun best : Option (Nat × Nat) => ∀ b ∈ best, k.Rising b.1) _ _ (fun b hb => nomatch hb)
    fun best hbest x hx b hb => ?_
  unfold Cell.riseBest at hb
  split at hb
  · exact hbest b hb
  next hrise =>
    have hnew : k.Rising x.1 := ⟨x.2, hx, by simpa using hrise⟩
    split at hb
    · cases hb
      exact hnew
    · split at hb
      · cases hb
        exact hnew
      · exact hbest b hb

theorem mayRise_slow {k : Cell} {a : Nat} {e : TileEnt} (h : k.mayRise a e = true) : e.st = .S := by
  unfold Cell.mayRise at h
  split at h
  · exact nomatch h
  · simp only [Bool.and_eq_true, decide_eq_true_eq] at h
    obtain ⟨⟨⟨⟨hslow, -⟩, -⟩, -⟩, -⟩ := h
    exact hslow

/-- With every tile listed once, the one that moves up lies in the slow tier, and only it is written. -/
theorem riseOne_of_wf {k k1 : Cell} (hwf : Memory.wf k.tiers.tiles = true) (h : k.riseOne = some k1) :
    ∃ a, (k.ent a).st = .S ∧ k1 = k.setEnt a (k.ent a).risen := by
  unfold Cell.riseOne at h
  split at h
  · exact nomatch h
  next a n hb =>
    cases h
    obtain ⟨e, he, hrise⟩ := rising_of_riseBest k (a, n) hb
    have hent : k.ent a = e := SMap.get_of_mem hwf he
    exact ⟨a, hent ▸ mayRise_slow hrise, rfl⟩

theorem rise_current {k : Cell} (hwf : Memory.wf k.tiers.tiles = true) (n a : Nat) : ((k.rise n).ent a).current = (k.ent a).current := by
  induction n generalizing k with
  | zero => rfl
  | succ n ih =>
    unfold Cell.rise
    split
    · rfl
    next k1 h =>
      rw [ih (Cell.riseOne_wf h hwf)]
      obtain ⟨b, hslow, rfl⟩ := riseOne_of_wf hwf h
      rw [Cell.ent_setEnt]
      split
      next hab => rw [hab, TileEnt.risen_current hslow]
      · rfl

/-- From a state whose tables are canonical, as they are in every state that a run reaches, a migration between steps changes no tile's
current content (R154, R160). -/
theorem migration_keeps_content {t n : Nat} {cell : Fin 8} {s : State} (i : Inv s) (hup : (s.at t).cellUp cell = true)
    (hidle : ((s.at t).cell cell).step.running = false) : Answers (.migration t cell n) s (fun s' =>
      s'.silent = ((s.at t).onCell cell (Cell.rise n)).silent ∧
        ∀ a, ((s'.cell cell).ent a).current = (((s.at t).cell cell).ent a).current) := by
  refine .of_run rfl (if_pos (by simp [hup, hidle])) fun s' h => ⟨h.silent, fun a => ?_⟩
  rw [Cell.ent, h.tiers, State.cell_onCell_same]
  exact rise_current ((State.at_inv t i).mem cell) n a

/-! ### From tile memory that lists a tile twice it need not -/

/-- Cell 0 with a one-home tensor of one tile, which stands twice in the tile map: reads find it in state E, below it stands an entry in S. -/
def tileTwice : State :=
  { State.reset with
    boot := { Boot.reset with islands := true }
    cells := [(0, { Cell.reset with
      init := true
      tiers := { Tiers.reset with
        dir := [{ tenant := 0, ident := 1, fmt := 0x11, flags := 0x10, base := 0, count := 1, ready := true, freePend := false, digest := 0,
                  holder := none }]
        tiles := [(0, { TileEnt.absent with st := .E }), (0, { TileEnt.absent with st := .S })] } })] }

/-- The tile moves up for the second entry, and the first gets a content. -/
theorem migration_fills_tileTwice :
    Answers (.migration 0 0 1) tileTwice (fun s' => ((s'.cell 0).ent 0).current.isSome = true) := ⟨_, rfl, by decide +kernel⟩

/-- Refutes O27: the statement speaks of every state, also of one whose tile memory is not canonical. Where a tile address is listed twice,
a migration chooses the tile for an entry that no read finds, and so changes the content of the one that reads find. From canonical tables
no migration does (`migration_keeps_content`). -/
theorem not_tilesRiseAndMemoryErrorsAreCounted : ¬ Obligations.TilesRiseAndMemoryErrorsAreCounted := by
  intro h
  obtain ⟨hmigration, -⟩ := h 0 0 tileTwice (by decide +kernel)
  obtain ⟨s', hexec, -, hkeeps⟩ := hmigration 1 (by decide +kernel)
  obtain ⟨s'', hexec', hfilled⟩ := migration_fills_tileTwice
  cases hexec.symm.trans hexec'
  have hempty : (((tileTwice.at 0).cell 0).ent 0).current = none := by decide +kernel
  rw [show ((s'.cell 0).ent 0).current = none from (hkeeps 0).trans hempty] at hfilled
  exact absurd hfilled (by decide)

end Sys2Proof.Machine

/-! ## GENERATION SETUP, REQUEST and CANCEL at a cell (R170, R172, R192) -/

namespace Sys2Proof.Machine

section
variable {s : State} {c : Nat} {src : Source} {e : Entry}

/-- Whether a tenant's record gives it GEN (R170), asked as a proposition of the record or as its Boolean. -/
theorem gen_of_tenantRec {r : Option TenantRec} (h : (r.map (fun x => x.gen = true)).getD (false = true)) :
    (r.map (·.gen)).getD false = true := by
  cases r with
  | none => exact h
  | some x => exact h

/-- A setup that passes every check is kept, and the entry ends with DONE (R170). -/
theorem doSetup_of_accepted (hfields : setupReserved e = false) (hsender : s.mayFor c (readSetup e).tenant src.who = true)
    (hgen : (((s.cell c).tenantRec (readSetup e).tenant).map (·.gen)).getD false = true)
    (hidle : ∀ x ∈ (s.cell c).gen.table, x.2.st = .free ∨ x.2.tenant ≠ (readSetup e).tenant)
    (htensors : (s.cell c).setupTensors (readSetup e) = true) :
    s.doSetup c src e = (s.setCell c { s.cell c with gen := { (s.cell c).gen with
      setups := (s.cell c).gen.setups.set none (readSetup e).tenant (some (readSetup e)) } }).complete c src e { status := 0 } := by
  have hnone : (s.cell c).gen.table.any (fun x => x.2.st ≠ .free && x.2.tenant = (readSetup e).tenant) = false := by
    simpa [or_iff_not_imp_left] using hidle
  simp only [State.doSetup, hfields, hsender, hgen, hnone, htensors, Bool.not_true, Bool.or_self, Bool.false_eq_true, if_false]
  rfl

/-- A request of an existing queue joins the cell's pending requests behind all others (R172). -/
theorem doRequest_of_queue (htenant : e.rqTenant ≤ 63) (hqueue : e.rqQueue ≤ 63) :
    s.doRequest c src e = s.setCell c { s.cell c with gen := { (s.cell c).gen with
      pend := (s.cell c).gen.pend ++ [{ src := src, e := e, arr := (s.cell c).gen.arrivals }]
      arrivals := (s.cell c).gen.arrivals + 1 } } := by
  have hexists : ¬((63 < e.rqTenant || 63 < e.rqQueue) = true) := by simp [htenant, hqueue]
  exact if_neg hexists

/-- The live entries of the cell's request table that a cancel names (R192). -/
def Cell.named (k : Cell) (e : Entry) : List (Nat × ReqEntry) :=
  k.gen.table.filter (fun x => x.2.live && x.2.tenant = e.fld 1 1 && x.2.desc.rqTag = e.fld 4 4)

/-- A cancel with a tag that no pending request carries marks the live entries with the tag, and finds none where there is none (R192). -/
theorem doCancel_of_none_pending (hfields : cancelReserved e = false) (hcell : e.fld 2 1 = c)
    (hsender : s.mayFor c (e.fld 1 1) src.who = true)
    (hpend : (s.cell c).gen.pend.filter (fun p => p.e.rqTenant = e.fld 1 1 && p.e.rqTag = e.fld 4 4) = []) :
    s.doCancel c src e =
      (((s.cell c).named e).foldl (fun s x => s.onCell c (fun k => k.onEntry x.1 (fun y => { y with cancel := true }))) s).complete c src e
        { status := if ((s.cell c).named e).isEmpty then 2 else 0, tag := e.fld 4 4 } := by
  simp only [State.doCancel, hfields, hcell, hsender, hpend, ne_eq, not_true_eq_false, Bool.not_true, Bool.false_eq_true, if_false,
    List.foldl_nil, List.isEmpty_nil, Bool.true_and]
  rfl

end

/-- Settles O9: the cell takes the entry, and its effect is that of its kind; a cancel's, by the entries that it names. -/
theorem generationEntriesTakeEffect : Obligations.GenerationEntriesTakeEffect := by
  refine fun t cell src e s => ⟨fun htakes hfields hsender hgen hidle htensors => ?setup, fun htakes htenant hqueue => ?request,
    fun htakes hfields hcell hsender hpend => ⟨fun hnone => ?unknown, fun i x hone => ?admitted⟩⟩
  all_goals refine .of_run rfl ((entryAt_of_takes htakes _).trans ?_) fun s' h => h.silent
  case setup => exact doSetup_of_accepted hfields hsender (gen_of_tenantRec hgen) hidle htensors
  case request => exact doRequest_of_queue htenant hqueue
  case unknown => rw [doCancel_of_none_pending hfields hcell hsender hpend, show Cell.named _ e = [] from hnone]; rfl
  case admitted => rw [doCancel_of_none_pending hfields hcell hsender hpend, show Cell.named _ e = [(i, x)] from hone]; rfl

end Sys2Proof.Machine

/-! ## What serving a queue leaves of pending requests and of MAIL grants (R147, R172, R279, R341) -/

namespace Sys2Proof.Machine

/-- The requests that wait at each cell, and what is left there of the Manager's grant of MAIL units (R172, R279). -/
def State.queues (s : State) (c : Nat) : List PendReq × Nat := ((s.cell c).gen.pend, (s.cell c).korif.mailGrant)

theorem Reports.queues {s s' : State} (h : Reports s s') : s'.queues = s.queues := by
  funext c
  obtain ⟨e, p, q, hc⟩ := h.cell c
  simp only [State.queues, hc]

theorem Cell.Tiered.gen {k k' : Cell} (h : k.Tiered k') : k'.gen = k.gen :=
  (congrArg Cell.gen (show k' = { k with tiers := k'.tiers } from h) :)

theorem Cell.Tiered.korif {k k' : Cell} (h : k.Tiered k') : k'.korif = k.korif :=
  (congrArg Cell.korif (show k' = { k with tiers := k'.tiers } from h) :)

section
variable (s : State)

theorem State.setCell_queues (c : Nat) {v : Cell} (hpend : v.gen.pend = (s.cell c).gen.pend)
    (hgrant : v.korif.mailGrant = (s.cell c).korif.mailGrant) : (s.setCell c v).queues = s.queues := by
  funext d
  simp only [State.queues, State.cell_setCell]
  split
  · subst_vars
    exact Prod.ext hpend hgrant
  · rfl

theorem State.onCell_queues (c : Nat) {f : Cell → Cell} (hpend : ∀ k, (f k).gen.pend = k.gen.pend)
    (hgrant : ∀ k, (f k).korif.mailGrant = k.korif.mailGrant) : (s.onCell c f).queues = s.queues :=
  s.setCell_queues c (hpend _) (hgrant _)

/-! ### Records (R341) -/

theorem State.recDone_cells (r : QRec) : (s.recDone r).cells = s.cells := by
  unfold State.recDone
  split
  · rfl
  · exact ite_same State.cells rfl rfl

theorem State.dropRec_queues (n : Nat) : (s.dropRec n).queues = s.queues := by
  have dropped (e : Ev) : ((s.onFn n (fun h => { h with lastDrop := some s.now })).errLocal 0 e).queues = s.queues :=
    (State.errLocal_reports (.refl _) 0 e).queues
  unfold State.dropRec
  dsimp only
  split
  · exact ite_same State.queues rfl (dropped _)
  · exact dropped _

theorem State.queueRec_queues (n : Nat) (r : QRec) : (s.queueRec n r).queues = s.queues := by
  have hdone : (s.recDone r).queues = s.queues := by
    funext c
    rw [State.queues, State.queues, State.cell, State.cell, s.recDone_cells]
  exact ite_same State.queues rfl (ite_same State.queues ((State.dropRec_queues ..).trans hdone) hdone)

theorem State.refuse_queues (c : Nat) (p : PendReq) (code bound : Nat) : (s.refuse c p code bound).queues = s.queues :=
  ite_same State.queues (State.mail_reports (.refl s) ..).queues (s.queueRec_queues ..)

/-! ### Tiles written (R147) -/

theorem State.tierPut_queues (c tenant : Nat) (ident : BitVec 24) (seq : Nat) (x : Slot) (busy : List Nat) :
    (s.tierPut c tenant ident seq x busy).1.queues = s.queues := by
  have placed {h : Nat} {k1 : Cell} (hk : (s.cell h).Tiered k1) : (s.setCell h k1).queues = s.queues :=
    s.setCell_queues h (congrArg Gen.pend hk.gen) (congrArg Korif.mailGrant hk.korif)
  unfold State.tierPut
  split
  · rfl
  split
  · rfl
  split
  · exact (State.err_reports (.refl s) ..).queues
  next k1 h1 =>
    have hk1 := Cell.writeTile_tiered h1
    split
    · dsimp only
      split
      · exact (State.err_reports (.refl s) ..).queues
      next k2 h2 => exact placed (hk1.trans (Cell.writeTile_tiered h2))
    · exact placed hk1

theorem State.tierWrite_queues (c tenant : Nat) (ident : BitVec 24) (seq : Nat) (x : Slot) (busy : List Nat) :
    (s.tierWrite c tenant ident seq x busy).1.queues = s.queues := by
  unfold State.tierWrite
  split
  · rfl
  · exact s.tierPut_queues ..

theorem State.pokeTile_queues (c tenant : Nat) (ident : BitVec 24) (i off n data : Nat) :
    (s.pokeTile c tenant ident i off n data).1.queues = s.queues := by
  unfold State.pokeTile
  split
  · rfl
  · exact s.tierWrite_queues ..

theorem State.pokeFrom_queues (fuel c tenant : Nat) (ident : BitVec 24) (off n data : Nat) :
    (State.pokeFrom fuel s c tenant ident off n data).1.queues = s.queues := by
  induction fuel generalizing s off n data with
  | zero => rfl
  | succ fuel ih =>
    unfold State.pokeFrom
    split
    · rfl
    · exact (ih ..).trans (s.pokeTile_queues ..)

theorem State.pokeGroup_queues (g : List Nat) (t : Nat) (which : Setup → BitVec 24) (word : Nat) (ws : List Nat) :
    (s.pokeGroup g t which word ws).queues = s.queues := by
  refine foldl_same State.queues g s fun x m => ?_
  split
  · rfl
  · exact x.pokeFrom_queues ..

/-! ### Effects of an admission test (R173, R180, R253) -/

theorem State.takeOn_queues (c : Nat) (p : PendReq) (i first : Nat) : (s.takeOn c p i first).queues = s.queues :=
  (State.pokeGroup_queues ..).trans
    (foldl_same State.queues _ s fun x m => x.onCell_queues m (fun _ => rfl) (fun _ => rfl))

theorem State.setDeficit_queues (c t q v : Nat) : (s.setDeficit c t q v).queues = s.queues :=
  s.onCell_queues c (fun _ => rfl) (fun _ => rfl)

@[simp] theorem State.setDeficit_deficit (c t q v : Nat) : ((s.setDeficit c t q v).cell c).deficit t q = v := by
  simp [State.setDeficit, Cell.deficit]

/-- The first step that a request admitted now can have: the one after the step in progress, else the next one (R176). -/
def Cell.nextStep (k : Cell) : Nat := if k.step.running then k.step.number + 1 else k.step.number

@[simp] theorem State.setDeficit_nextStep (c t q v : Nat) : ((s.setDeficit c t q v).cell c).nextStep = (s.cell c).nextStep := by
  simp [State.setDeficit, Cell.nextStep]

/-- Taking the time of a pointer switch clears it for the next test (R257). -/
def State.switchTaken (c t : Nat) : State := s.onCell c (fun k => k.onVer t (fun v => { v with switchAt := none }))

theorem State.switchTaken_queues (c t : Nat) : (s.switchTaken c t).queues = s.queues :=
  s.onCell_queues c (fun _ => rfl) (fun _ => rfl)

/-- A held request marks its queue (R173). -/
def State.holdQueue (c t q : Nat) : State :=
  s.onCell c (fun k => { k with gen := { k.gen with heldQ := k.gen.heldQ ++ [queueKey t q] } })

theorem State.holdQueue_queues (c t q : Nat) : (s.holdQueue c t q).queues = s.queues :=
  s.onCell_queues c (fun _ => rfl) (fun _ => rfl)

/-- The only request that waits leaves its queue, and the grant stays. -/
theorem State.unqueue_queues_only {c : Nat} {p : PendReq} {n : Nat} (h : s.queues c = ([p], n)) :
    (s.unqueue c p).queues c = ([], n) := by
  obtain ⟨hpend, hgrant⟩ := Prod.mk.inj h
  simp [State.queues, State.unqueue, hpend, hgrant]

end

end Sys2Proof.Machine

/-! ## A service round with one open queue (R172, R173, R177, R180) -/

namespace Sys2Proof.Machine

section
variable {s : State} {c t q : Nat} {p : PendReq}

theorem head_of_none_pending (h : (s.cell c).gen.pend = []) : (s.cell c).head t q = none := by
  simp [Cell.head, Cell.queued, h]

section
variable (hpend : (s.cell c).gen.pend = [p]) (htenant : p.e.rqTenant = t) (hqueue : p.e.rqQueue = q)
include hpend htenant hqueue

theorem queued_of_one_pending : (s.cell c).queued t q = [p] := by simp [Cell.queued, hpend, htenant, hqueue]

theorem head_of_one_pending : (s.cell c).head t q = some p := by
  rw [Cell.head, queued_of_one_pending hpend htenant hqueue]
  rfl

end

/-- No pending request of a queue in force is refused for its queue's sake (R173). -/
theorem dropClosed_of_open (h : ∀ p ∈ (s.cell c).gen.pend, (s.cell c).queueWeight p.e.rqTenant p.e.rqQueue ≠ 0) :
    s.dropClosed c = s := by
  have hclosed : (s.cell c).gen.pend.filter (fun p => (s.cell c).queueWeight p.e.rqTenant p.e.rqQueue = 0 &&
      !(s.cell c).unserved p.e.rqTenant) = [] :=
    List.filter_eq_nil_iff.mpr fun p hp => by simp [h p hp]
  rw [State.dropClosed, hclosed]
  rfl

/-- The Manager's grant is not renewed while all of it is left (R279). -/
theorem renewMail_of_full (h : (s.cell c).korif.mailGrant = 64) : s.renewMail c = s := if_pos (by simp [h])

/-- The open pairs of a figure whose only queue record has one weight, `w` of queue `q` (R173). -/
theorem openPairs_of_one {weights : List Nat} {w : Nat} (h : weights.zipIdx.filter (fun x => x.1 ≠ 0) = [(w, q)]) :
    weights.zipIdx.filterMap (fun x => if x.1 = 0 then none else some (t, x.2, x.1)) = [(t, q, w)] := by
  have hmap := congrArg (List.map fun x : Nat × Nat => (t, x.2, x.1)) h
  rw [← List.filterMap_eq_map, List.filterMap_filter] at hmap
  simpa using hmap

/-- The figure that cell `c` runs has one open queue, `q` of tenant `t` with weight `w`, which the lead serves (R173, R257). -/
structure OneQueue (s : State) (c t q w : Nat) (f : Figure) (r : QueueRec) : Prop where
  active  : (s.cell c).fig.active = some f
  queues  : f.queues = [r]
  tenant  : r.tenant = t
  weights : r.weights.zipIdx.filter (fun x => x.1 ≠ 0) = [(w, q)]
  served  : (s.cell c).unserved t = false

/-- A service round with one open queue and no request of a closed one is that queue's turn (R173). -/
theorem serviceRound_of_oneQueue {w : Nat} {f : Figure} {r : QueueRec} (h : OneQueue s c t q w f r)
    (hopen : ∀ p ∈ (s.cell c).gen.pend, (s.cell c).queueWeight p.e.rqTenant p.e.rqQueue ≠ 0) :
    s.serviceRound c = s.serveQueue c f.quantum w t q := by
  have hpairs := openPairs_of_one (t := t) h.weights
  simp only [State.serviceRound, h.active, h.queues, inOrder, List.foldr_cons, List.foldr_nil, putInOrder, List.flatMap_cons,
    List.flatMap_nil, List.append_nil, h.tenant, hpairs, List.foldl_cons, List.foldl_nil, dropClosed_of_open hopen, h.served,
    Bool.false_eq_true, if_false]

/-- The turn of a queue with one request, not held: with its deficit raised, the head is tested where its cost lies within (R173). -/
theorem serveQueue_of_one_pending {quantum w : Nat} (hpend : (s.cell c).gen.pend = [p]) (htenant : p.e.rqTenant = t)
    (hqueue : p.e.rqQueue = q) (hheld : (s.cell c).gen.heldQ.contains (queueKey t q) = false) :
    let d := (s.cell c).deficit t q + quantum * w
    let s0 := s.setDeficit c t q d
    s.serveQueue c quantum w t q = if d < tokenCost p.e then s0 else (s0.testHead c t q p).1 := by
  intro d s0
  have hpend0 : (s0.cell c).gen.pend = [p] := by simpa [s0, State.setDeficit] using hpend
  have hturn : s.serveQueue c quantum w t q = State.serveHeads 1 s0 c t q := by
    simp only [State.serveQueue, head_of_one_pending hpend htenant hqueue, hheld, queued_of_one_pending hpend htenant hqueue]
    rfl
  rw [hturn, State.serveHeads, head_of_one_pending hpend0 htenant hqueue]
  simp only [s0, State.setDeficit_deficit]
  split
  · rfl
  · exact ite_self _

/-- The turn of an empty queue (R173). -/
theorem serveQueue_of_none_pending {quantum w : Nat} (hpend : (s.cell c).gen.pend = []) :
    s.serveQueue c quantum w t q = s.setDeficit c t q 0 := if_pos (by rw [head_of_none_pending hpend]; rfl)

end

/-! ### The test of a head (R177) -/

section
variable {s : State} {c t : Nat} {p : PendReq} (q : Nat)

/-- An admitted head takes its entry, pays its cost and leaves the queue (R173, R180). -/
theorem testHead_of_admitted {x i : Nat} (htest : s.admissionTest c p = .admitted x) (hentry : (s.cell c).freeEntry t = some i) :
    (s.testHead c t q p).1 =
      ((s.takeOn c p i (s.cell c).nextStep).setDeficit c t q ((s.cell c).deficit t q - tokenCost p.e)).unqueue c p := by
  unfold State.testHead
  rw [htest]
  dsimp only
  rw [hentry]
  rfl

/-- A refused head leaves the queue with its record (R175). -/
theorem testHead_of_refused {code bound : Nat} (htest : s.admissionTest c p = .refused code bound) :
    (s.testHead c t q p).1 = ((s.refuse c p code bound).unqueue c p).switchTaken c t := by
  unfold State.testHead
  rw [htest]
  rfl

/-- A held head holds its queue (R173). -/
theorem testHead_of_held (htest : s.admissionTest c p = .held) :
    (s.testHead c t q p).1 = (s.holdQueue c t q).switchTaken c t := by
  unfold State.testHead
  rw [htest]
  rfl

end

/-- A round's command in whose one queue's turn the grant of MAIL units stays whole answers with that turn's effect (R173, R279). -/
theorem admissionRound_answers {time t q w : Nat} {cell : Fin 8} {f : Figure} {r : QueueRec} {s x : State} {l : List PendReq}
    {P : State → Prop} (hup : (s.at time).cellUp cell = true) (hsupply : (s.at time).supply.failing = false)
    (h : OneQueue (s.at time) cell t q w f r)
    (hopen : ∀ p ∈ ((s.at time).cell cell).gen.pend, ((s.at time).cell cell).queueWeight p.e.rqTenant p.e.rqQueue ≠ 0)
    (hturn : (s.at time).serveQueue cell f.quantum w t q = x) (hleft : x.queues cell = (l, 64))
    (hP : ∀ s', (s'.cell cell).gen.pend = l → s'.silent = x.silent → P s') : Answers (.admissionRound time cell) s P := by
  obtain ⟨hpend, hgrant⟩ := Prod.mk.inj hleft
  refine .of_run rfl ?_ fun s' hs' => hP s' ((congrArg Gen.pend (hs'.gen cell)).trans hpend) hs'.silent
  simp only [State.fig, h.active, hup, hsupply, serviceRound_of_oneQueue h hopen, hturn, renewMail_of_full hgrant, Option.isNone_some,
    Bool.not_true, Bool.or_self, Bool.false_eq_true, if_false]

/-- Settles O28: the round is the one queue's turn, and each turn's effect follows from the head's cost and its test. -/
theorem anAdmissionRoundServesAQueue : Obligations.AnAdmissionRoundServesAQueue := by
  intro t tn q w cell f r s u k d s0 hup hsupply hactive hgrant hqueues htenant hweights hserved
  have hone : OneQueue u cell tn q w f r := ⟨hactive, hqueues, htenant, hweights, hserved⟩
  refine ⟨fun hnone => ?empty, fun p hpend hptenant hpqueue hheld hweight => ?_⟩
  case empty =>
    have hopen : ∀ p ∈ k.gen.pend, k.queueWeight p.e.rqTenant p.e.rqQueue ≠ 0 := by simp [hnone]
    have hleft : (u.setDeficit cell tn q 0).queues cell = ([], 64) :=
      (congrFun (State.setDeficit_queues ..) _).trans (Prod.ext hnone hgrant)
    exact admissionRound_answers hup hsupply hone hopen (serveQueue_of_none_pending hnone) hleft fun _ _ h => h
  have hopen : ∀ p ∈ k.gen.pend, k.queueWeight p.e.rqTenant p.e.rqQueue ≠ 0 := by simpa [hpend, hptenant, hpqueue] using hweight
  have hturn := serveQueue_of_one_pending (quantum := f.quantum) (w := w) hpend hptenant hpqueue hheld
  have hleft : s0.queues cell = ([p], 64) := (congrFun (State.setDeficit_queues ..) _).trans (Prod.ext hpend hgrant)
  refine ⟨fun hbeyond => ?beyond, fun hwithin => ?_⟩
  case beyond => exact admissionRound_answers hup hsupply hone hopen (hturn.trans (if_pos hbeyond)) hleft fun _ _ h => h
  have htested := hturn.trans (if_neg (not_lt.mpr hwithin))
  refine ⟨fun x i htest hentry => ?admitted, fun code bound htest => ?refused, fun htest => ?held⟩
  case admitted =>
    have hhead := testHead_of_admitted q htest hentry
    simp only [s0, State.setDeficit_deficit, State.setDeficit_nextStep] at hhead
    refine admissionRound_answers hup hsupply hone hopen (htested.trans hhead) (State.unqueue_queues_only _ ?_) fun _ => And.intro
    rw [State.setDeficit_queues, State.takeOn_queues]
    exact hleft
  case refused =>
    refine admissionRound_answers hup hsupply hone hopen (htested.trans (testHead_of_refused q htest)) ?_ fun _ => And.intro
    rw [State.switchTaken_queues]
    exact State.unqueue_queues_only _ ((congrFun (State.refuse_queues ..) _).trans hleft)
  case held =>
    refine admissionRound_answers hup hsupply hone hopen (htested.trans (testHead_of_held q htest)) ?_ fun _ => And.intro
    rw [State.switchTaken_queues, State.holdQueue_queues]
    exact hleft

end Sys2Proof.Machine

/-! ## How far a learning step has come, and what leaves that alone (R207, R208, R211) -/

namespace Sys2Proof.Machine

/-- How far a tenant's step has come at its coordinator (R207, R208): what its records and report entries leave alone. -/
structure Stage where
  group    : List Nat
  active   : Bool
  mod      : Bool
  decision : Option (Bool × Nat)
  complete : List Nat
  reports  : List (Nat × BitVec 64 × List Nat)

def Coord.stage (x : Coord) : Stage :=
  ⟨x.group, x.active, x.mod, x.decision, x.complete, x.reports.map (fun r => (r.cell, r.jobStep, r.causes))⟩

/-- How far a cell has come in the learning steps of every tenant (R208, R211). -/
structure Learnt where
  learn   : SMap LearnRun
  vers    : SMap Versions
  jobStep : Nat → BitVec 64

def Cell.learnt (k : Cell) : Learnt := ⟨k.learn, k.vers, fun t => (k.run t).jobStep⟩

/-- How far every learning step has come, at its coordinator and on every cell. -/
def State.learnt (s : State) : (Nat → Stage) × (Nat → Learnt) := (fun t => (s.coord t).stage, fun c => (s.cell c).learnt)

section
variable {s s' : State} (h : s'.learnt = s.learnt)
include h

theorem learnt_stage (t : Nat) : (s'.coord t).stage = (s.coord t).stage := congrFun (congrArg Prod.fst h) t

theorem learnt_cell (c : Nat) : (s'.cell c).learnt = (s.cell c).learnt := congrFun (congrArg Prod.snd h) c

theorem learnt_lrn (c t : Nat) : (s'.cell c).lrn t = (s.cell c).lrn t :=
  congrArg (fun x : Learnt => x.learn.get LearnRun.reset t) (learnt_cell h c)

theorem learnt_ver (c t : Nat) : (s'.cell c).ver t = (s.cell c).ver t :=
  congrArg (fun x : Learnt => x.vers.get Versions.reset t) (learnt_cell h c)

theorem learnt_jobStep (c t : Nat) : ((s'.cell c).run t).jobStep = ((s.cell c).run t).jobStep :=
  congrArg (fun x : Learnt => x.jobStep t) (learnt_cell h c)

theorem learnt_group (t : Nat) : (s'.coord t).group = (s.coord t).group := congrArg Stage.group (learnt_stage h t)

theorem learnt_active (t : Nat) : (s'.coord t).active = (s.coord t).active := congrArg Stage.active (learnt_stage h t)

theorem learnt_mod (t : Nat) : (s'.coord t).mod = (s.coord t).mod := congrArg Stage.mod (learnt_stage h t)

theorem learnt_decision (t : Nat) : (s'.coord t).decision = (s.coord t).decision := congrArg Stage.decision (learnt_stage h t)

theorem learnt_complete (t : Nat) : (s'.coord t).complete = (s.coord t).complete := congrArg Stage.complete (learnt_stage h t)

theorem learnt_reports (t : Nat) : (s'.coord t).reports.map (fun r => (r.cell, r.jobStep, r.causes)) =
    (s.coord t).reports.map (fun r => (r.cell, r.jobStep, r.causes)) := congrArg Stage.reports (learnt_stage h t)

end

theorem Reports.learnt {s s' : State} (h : Reports s s') : s'.learnt = s.learnt := by
  refine Prod.ext (funext fun t => ?_) (funext fun c => ?_)
  · show (s'.coord t).stage = (s.coord t).stage
    rw [State.coord, h.coords]
    rfl
  · obtain ⟨e, p, q, hc⟩ := h.cell c
    show (s'.cell c).learnt = (s.cell c).learnt
    rw [hc]
    rfl

/-- A run counts as a report at the end of its effect, so what it leaves has come as far as the effect. -/
theorem EndsAs.learnt {x s' : State} (h : EndsAs x s') : s'.learnt = x.learnt := h.reports.learnt

/-! ### Cells -/

theorem Cell.Tiered.learnt {k k' : Cell} (h : k.Tiered k') : k'.learnt = k.learnt :=
  (congrArg Cell.learnt (show k' = { k with tiers := k'.tiers } from h) :)

theorem Cell.onRun_learnt (k : Cell) (t : Nat) {f : TenantRun → TenantRun} (hf : ∀ r, (f r).jobStep = r.jobStep) :
    (k.onRun t f).learnt = k.learnt := by
  have hrun (d : Nat) : ((k.onRun t f).run d).jobStep = (k.run d).jobStep := by
    rw [Cell.run_onRun]
    split
    · subst_vars
      exact hf _
    · rfl
  exact congrArg (Learnt.mk k.learn k.vers) (funext hrun)

theorem foldl_learntCell {β : Type} (l : List β) (k : Cell) {f : Cell → β → Cell} (hf : ∀ x b, (f x b).learnt = x.learnt) :
    (l.foldl f k).learnt = k.learnt := List.foldlRecOn (motive := fun x : Cell => x.learnt = k.learnt) l f rfl fun x h b _ => (hf x b).trans h

theorem Cell.redealt_learnt (ts : List Nat) (k : Cell) : (k.redealt ts).learnt = k.learnt := by
  have abandoned (x : Cell) (t : Nat) : (x.abandonTest t).learnt = x.learnt := by
    unfold Cell.abandonTest
    split <;> rfl
  exact foldl_learntCell ts k fun x t => (Cell.onRun_learnt _ t fun _ => by rfl).trans (abandoned x t)

theorem Cell.dealTenant_learnt (k : Cell) (t : Nat) : (k.dealTenant t).learnt = k.learnt := by
  unfold Cell.dealTenant
  dsimp only
  split
  · exact Cell.onRun_learnt _ t fun _ => rfl
  · refine (Cell.onRun_learnt _ t fun _ => by rfl).trans (foldl_learntCell _ _ fun x q => ?_)
    split <;> rfl

/-- An accepted image becomes current with the job step count as it was (R62, R64). -/
theorem Cell.takeImages_learnt (k : Cell) : k.takeImages.learnt = k.learnt := by
  refine foldl_learntCell _ k fun x t => ?_
  have dealt (y : Cell) : (if (y.run t).redeal then y.dealTenant t else y).learnt = y.learnt := by
    split
    · exact y.dealTenant_learnt t
    · rfl
  refine (dealt _).trans ?_
  split
  · exact Cell.onRun_learnt _ t fun _ => rfl
  · rfl

/-! ### The state -/

section
variable (s : State)

theorem State.setCell_learnt (c : Nat) {v : Cell} (hv : v.learnt = (s.cell c).learnt) : (s.setCell c v).learnt = s.learnt := by
  refine Prod.ext rfl (funext fun d => ?_)
  show ((s.setCell c v).cell d).learnt = (s.cell d).learnt
  rw [State.cell_setCell]
  split
  · subst_vars
    exact hv
  · rfl

theorem State.onCell_learnt (c : Nat) {f : Cell → Cell} (hf : ∀ k, (f k).learnt = k.learnt) : (s.onCell c f).learnt = s.learnt :=
  s.setCell_learnt c (hf _)

theorem State.onCoord_learnt (t : Nat) {f : Coord → Coord} (hf : ∀ x, (f x).stage = x.stage) : (s.onCoord t f).learnt = s.learnt := by
  refine Prod.ext (funext fun d => ?_) rfl
  show ((s.onCoord t f).coord d).stage = (s.coord d).stage
  rw [State.coord_onCoord]
  split
  · subst_vars
    exact hf _
  · rfl

theorem State.err_learnt (c : Nat) (e : Ev) : (s.err c e).learnt = s.learnt := (State.err_reports (.refl s) c e).learnt

theorem State.errLocal_learnt (c : Nat) (e : Ev) : (s.errLocal c e).learnt = s.learnt := (State.errLocal_reports (.refl s) c e).learnt

/-! Records and completions (R340 to R342, R347). -/

theorem State.recDone_learnt (r : QRec) : (s.recDone r).learnt = s.learnt := by
  unfold State.recDone
  split
  · rfl
  · exact ite_same State.learnt (s.onCoord_learnt _ fun _ => rfl) (s.onCoord_learnt _ fun _ => rfl)

theorem State.dropRec_learnt (n : Nat) : (s.dropRec n).learnt = s.learnt := by
  have dropped (e : Ev) : ((s.onFn n (fun h => { h with lastDrop := some s.now })).errLocal 0 e).learnt = s.learnt :=
    State.errLocal_learnt _ 0 e
  unfold State.dropRec
  dsimp only
  split
  · exact ite_same State.learnt rfl (dropped _)
  · exact dropped _

theorem State.queueRec_learnt (n : Nat) (r : QRec) : (s.queueRec n r).learnt = s.learnt :=
  ite_same State.learnt rfl (ite_same State.learnt ((State.dropRec_learnt ..).trans (s.recDone_learnt r)) (s.recDone_learnt r))

theorem State.wake_learnt (c : Nat) : (s.wake c).learnt = s.learnt := ite_same State.learnt (s.setCell_learnt c rfl) rfl

theorem State.raiseEvent_learnt (n : Nat) (who : BitVec 8) : (s.raiseEvent n who).learnt = s.learnt :=
  ite_same State.learnt (State.msix_reports (.refl s) ..).learnt
    (ite_same State.learnt rfl (ite_same State.learnt (s.wake_learnt _) rfl))

theorem State.ring_learnt (n : Nat) (ab : Bool) : (s.ring n ab).learnt = s.learnt :=
  ite_same State.learnt (State.mail_reports (.refl _) ..).learnt (ite_same State.learnt rfl (State.raiseEvent_learnt ..))

theorem State.complete_learnt (c : Nat) (src : Source) (e : Entry) (d : Done) : (s.complete c src e d).learnt = s.learnt := by
  unfold State.complete
  split
  · exact s.queueRec_learnt ..
  · exact (State.mail_reports (.refl s) ..).learnt
  · exact ite_same State.learnt rfl (State.ring_learnt ..)

/-! Tiles sent and written (R147, R154). -/

theorem State.sendTile_learnt (c i : Nat) (dst : TileTo) (x : Slot) (whole : Bool) : (s.sendTile c i dst x whole).1.learnt = s.learnt := by
  have sent (k : Cell) (key : Nat × Nat × Nat × BitVec 24) : (if k.step.running && !k.step.sentTo.contains key then
      { k with step := { k.step with sentTo := k.step.sentTo ++ [key] } } else k : Cell).learnt = k.learnt := by split <;> rfl
  exact (State.onCell_learnt _ c fun k => sent k _).trans (State.send_reports (.refl s) ..).learnt

theorem State.tierPut_learnt (c tenant : Nat) (ident : BitVec 24) (seq : Nat) (x : Slot) (busy : List Nat) :
    (s.tierPut c tenant ident seq x busy).1.learnt = s.learnt := by
  have placed {h : Nat} {k1 : Cell} (hk : (s.cell h).Tiered k1) : (s.setCell h k1).learnt = s.learnt := s.setCell_learnt h hk.learnt
  unfold State.tierPut
  split
  · rfl
  split
  · rfl
  split
  · exact s.err_learnt ..
  next k1 h1 =>
    have hk1 := Cell.writeTile_tiered h1
    split
    · dsimp only
      split
      · exact s.err_learnt ..
      next k2 h2 => exact placed (hk1.trans (Cell.writeTile_tiered h2))
    · exact placed hk1

theorem State.tierWrite_learnt (c tenant : Nat) (ident : BitVec 24) (seq : Nat) (x : Slot) (busy : List Nat) :
    (s.tierWrite c tenant ident seq x busy).1.learnt = s.learnt := by
  unfold State.tierWrite
  split
  · rfl
  · exact s.tierPut_learnt ..

theorem State.pokeTile_learnt (c tenant : Nat) (ident : BitVec 24) (i off n data : Nat) :
    (s.pokeTile c tenant ident i off n data).1.learnt = s.learnt := by
  unfold State.pokeTile
  split
  · rfl
  · exact s.tierWrite_learnt ..

theorem State.pokeFrom_learnt (fuel c tenant : Nat) (ident : BitVec 24) (off n data : Nat) :
    (State.pokeFrom fuel s c tenant ident off n data).1.learnt = s.learnt := by
  induction fuel generalizing s off n data with
  | zero => rfl
  | succ fuel ih =>
    unfold State.pokeFrom
    split
    · rfl
    · exact (ih ..).trans (s.pokeTile_learnt ..)

theorem State.pokeWords_learnt (c tenant ident e : Nat) (ws : List Nat) : (s.pokeWords c tenant ident e ws).1.learnt = s.learnt :=
  s.pokeFrom_learnt ..

theorem State.fillTile_learnt (c tenant : Nat) (ident : BitVec 24) (i : Nat) (p : Payload) (poison : Bool) :
    (s.fillTile c tenant ident i p poison).learnt = s.learnt := s.tierPut_learnt ..

/-! ### The boundary and the rest after it (R43, R361) -/

theorem State.storeLater_learnt (x : Store) : (s.storeLater x).learnt = s.learnt :=
  ite_same State.learnt (foldl_same State.learnt _ _ fun y _ => y.errLocal_learnt ..) rfl

theorem State.fenceTold_learnt (c n faults : Nat) (ts : List Nat) (perm : Bool) : (s.fenceTold c n faults ts perm).learnt = s.learnt := by
  have told (x : State) := foldl_same State.learnt ts x fun y t => ite_same State.learnt (p := 2 < (y.cell c).outCores t)
    (y.err_learnt c { cls := clsFENCE, sev := 3, unit := 6, tenant := t, core := n }) rfl
  have all := (told _).trans (s.err_learnt c { cls := clsFENCE, sev := if perm then 3 else 2, unit := 1, core := n, detail := faults })
  exact ite_same State.learnt ((State.storeLater_learnt ..).trans all) all

theorem State.fence_learnt (c n : Nat) : (s.fence c n).learnt = s.learnt := by
  by_cases h : ((s.cell c).core n).fenced = true
  · rw [show s.fence c n = s from if_pos h]
  · obtain ⟨perm, faults, he⟩ := fence_of_unfenced h
    rw [he, State.fenceTold_learnt]
    exact s.setCell_learnt c (Cell.redealt_learnt ..)

theorem State.returnCores_learnt (c : Nat) : (s.returnCores c).learnt = s.learnt :=
  foldl_same State.learnt _ s fun x _ => x.onCell_learnt c fun _ =>
    foldl_learntCell _ _ fun y t => y.onRun_learnt t fun _ => rfl

theorem State.zeroTensor_learnt (c tenant : Nat) (ident : BitVec 24) : (s.zeroTensor c tenant ident).learnt = s.learnt := by
  unfold State.zeroTensor
  split
  · rfl
  · exact foldl_same State.learnt _ s fun x _ => x.fillTile_learnt ..

theorem State.copyTensor_learnt (c tenant src : Nat) (dst : BitVec 24) : (s.copyTensor c tenant src dst).learnt = s.learnt := by
  unfold State.copyTensor
  split
  · rfl
  · exact foldl_same State.learnt _ s fun x _ => x.fillTile_learnt ..

theorem State.rebuildMaster_learnt (c : Nat) (b : Binding) : (s.rebuildMaster c b).learnt = s.learnt := by
  unfold State.rebuildMaster
  dsimp only
  split
  · rfl
  · exact foldl_same State.learnt _ s fun x _ => x.fillTile_learnt ..

theorem State.repairNow_learnt (c : Nat) (e : Entry) : (s.repairNow c e).learnt = s.learnt := by
  have copies (b : Binding) : ((s.copyTensor c (e.fld 1 1) (e.fld 8 3) b.master).copyTensor c (e.fld 1 1) (e.fld 0xC 3) b.m1).learnt =
      s.learnt := (State.copyTensor_learnt ..).trans (s.copyTensor_learnt ..)
  unfold State.repairNow
  dsimp only
  split
  · rfl
  next b _ =>
    refine (State.onCell_learnt _ c fun _ => by rfl).trans ?_
    split
    · refine (State.copyTensor_learnt ..).trans ?_
      exact ite_same State.learnt (copies b) ((State.copyTensor_learnt ..).trans (copies b))
    · exact (foldl_same State.learnt _ _ fun x i => x.zeroTensor_learnt ..).trans (s.rebuildMaster_learnt ..)

theorem State.udBoundary_learnt (c : Nat) : (s.udBoundary c).learnt = s.learnt :=
  (State.onCell_learnt _ c fun _ => by rfl).trans (foldl_same State.learnt _ s fun x r => x.repairNow_learnt c r.2)

theorem State.takeWrites_learnt (c : Nat) : (s.takeWrites c).learnt = s.learnt :=
  (foldl_same State.learnt _ _ fun x _ => (State.complete_learnt ..).trans (x.pokeWords_learnt ..)).trans (s.onCell_learnt c fun _ => rfl)

/-- The coordinator of the watts sets targets alone (R353). -/
theorem State.coordinate_learnt : s.coordinate.learnt = s.learnt :=
  ite_same State.learnt rfl (foldl_same State.learnt _ s fun x _ => x.onCell_learnt _ fun _ => rfl)

theorem State.takeLevel_learnt : s.takeLevel.learnt = s.learnt := by
  unfold State.takeLevel
  split <;> rfl

theorem State.toTargets_learnt (c : Nat) : (s.toTargets c).learnt = s.learnt := by
  have images (k : Cell) : ({ k.takeImages with gen := { k.gen with heldQ := [] } } : Cell).learnt = k.learnt :=
    (show _ = k.takeImages.learnt from rfl).trans k.takeImages_learnt
  unfold State.toTargets
  dsimp only
  refine (State.coordinate_learnt _).trans ?_
  refine (State.onCell_learnt _ c images).trans ?_
  refine (State.takeWrites_learnt _ c).trans ?_
  refine (State.udBoundary_learnt _ c).trans ?_
  refine (State.returnCores_learnt _ c).trans ?_
  refine (foldl_same State.learnt _ _ fun x _ => x.fence_learnt ..).trans ?_
  exact s.onCell_learnt c fun _ => rfl

/-- A cell's boundary takes no learning step further (R43). -/
theorem State.boundary_learnt (c : Nat) : (s.boundary c).learnt = s.learnt := by
  have share (k : Cell) (lost : Bool) (at_ : Option Nat) (now : Nat) : ((k.takeShare lost).fwNow at_ now).learnt = k.learnt := by
    unfold Cell.fwNow
    repeat' split
    all_goals rfl
  rw [s.boundary_eq c, State.takeLevel_learnt, State.onCell_learnt _ c fun k => share k _ _ _, State.toTargets_learnt]

theorem State.rest_learnt (c : Nat) : (s.rest c).learnt = s.learnt := by
  have slept (k : Cell) (n : Nat) : ({ (if n = 4 then k.enterC4 else k) with
      power := { (if n = 4 then k.enterC4 else k).power with state := stateOf n } } : Cell).learnt = k.learnt := by split <;> rfl
  exact ite_same State.learnt rfl (ite_same State.learnt rfl (s.setCell_learnt c (slept ..)))

end

end Sys2Proof.Machine

/-! ## A learning step opens (R207, R208, R248, R355) -/

namespace Sys2Proof.Machine

section
variable {g : State → Nat → Cell → Cell} (s : State)

/-- What one turn of a fold makes true of its cell, whatever the cell held, holds of every cell that the fold names. -/
theorem foldl_onCell_reaches {P : Cell → Prop} {l : List Nat} {m : Nat} (hm : m ∈ l) (hg : ∀ x c k, P (g x c k)) :
    P ((l.foldl (fun x c => x.onCell c (g x c)) s).cell m) := by
  induction l generalizing s with
  | nil => exact nomatch hm
  | cons c l ih =>
    by_cases hl : m ∈ l
    · exact ih _ hl
    · obtain rfl : m = c := (List.mem_cons.mp hm).resolve_right hl
      refine List.foldlRecOn (motive := fun x : State => P (x.cell m)) l _ ?_ fun x hx d _ => ?_
      · rw [State.cell_onCell_same]
        exact hg _ _ _
      · rw [State.cell_onCell]
        split
        · exact hg _ _ _
        · exact hx

theorem foldl_onCell_same {α : Type} (π : Cell → α) (l : List Nat) (hg : ∀ x c k, π (g x c k) = π k) (m : Nat) :
    π ((l.foldl (fun x c => x.onCell c (g x c)) s).cell m) = π (s.cell m) :=
  foldl_same (fun x => π (x.cell m)) l s fun x c => by
    rw [State.cell_onCell]
    split
    · subst_vars
      exact hg _ _ _
    · rfl

end

/-- A cell's part in a step that opens at device time `time`: one that computes waits for its own step, another is in it at once (R248). -/
def LearnRun.opened (l : LearnRun) (computes checked : Bool) (time : Nat) : LearnRun :=
  { l with phase := if computes then .open else .running, decision := none, checked := checked, waitRec := false
           began := time, causes := [] }

/-- A cell as the opening of a tenant's step at device time `time` leaves it (R218, R248). -/
def Cell.opened (k : Cell) (t : Nat) (checked : Bool) (time : Nat) : Cell :=
  let k1 := k.onLrn t (fun l => l.opened (k.computes t) checked time)
  { k1 with ud := { (k1.ud.promote t (k.run t).jobStep) with
      named := k1.ud.named.filter (fun x => decide (x.2.2.2 ≠ t)), entries := [], nextScale := [] } }

/-- What an opened cell holds of the step. -/
structure Cell.Opened (t : Nat) (checked : Bool) (k : Cell) : Prop where
  phase    : (k.lrn t).phase = if k.computes t then .open else .running
  decision : (k.lrn t).decision = none
  checked  : (k.lrn t).checked = checked
  entries  : k.ud.entries = []

theorem Cell.opened_lrn (k : Cell) (t : Nat) (checked : Bool) (time : Nat) : (k.opened t checked time).lrn t =
    (k.lrn t).opened (k.computes t) checked time :=
  k.lrn_onLrn_same t (LearnRun.opened · (k.computes t) checked time)

theorem Cell.opened_computes (k : Cell) (t : Nat) (checked : Bool) (time : Nat) : (k.opened t checked time).computes t = k.computes t := rfl

theorem Cell.opened_spec (k : Cell) (t : Nat) (checked : Bool) (time : Nat) : (k.opened t checked time).Opened t checked where
  phase := by rw [k.opened_lrn, k.opened_computes, LearnRun.opened]
  decision := by rw [k.opened_lrn, LearnRun.opened]
  checked := by rw [k.opened_lrn, LearnRun.opened]
  entries := rfl

/-- The coordinator's view of a step that just opened (R207). -/
def State.newCoord (s : State) (t : Nat) : Coord :=
  { Coord.reset with group := s.learnGroup t, active := true, mod := !s.byManager t, jobStep := s.openJob t }

section
variable (s : State) (t : Nat)

theorem State.openStep_eq : s.openStep t = (s.learnGroup t).foldl (fun x c =>
    x.onCell c (fun k => k.opened t (s.checkedStep t) (x.time c))) (s.onCoord t (fun _ => s.newCoord t)) := rfl

theorem State.openStep_coord : (s.openStep t).coord t = s.newCoord t := by
  rw [s.openStep_eq]
  exact (foldl_same (State.coord · t) _ _ fun _ _ => by rfl).trans (State.coord_onCoord_same ..)

theorem State.openStep_tiers (m : Nat) : ((s.openStep t).cell m).tiers = (s.cell m).tiers := by
  rw [s.openStep_eq]
  exact foldl_onCell_same _ Cell.tiers _ (fun _ _ _ => by rfl) m

theorem State.openStep_computes (m : Nat) : ((s.openStep t).cell m).computes t = (s.cell m).computes t := by
  rw [s.openStep_eq]
  exact foldl_onCell_same _ (Cell.computes · t) _ (fun _ _ k => by exact k.opened_computes ..) m

theorem State.openStep_opened {m : Nat} (hm : m ∈ s.learnGroup t) : ((s.openStep t).cell m).Opened t (s.checkedStep t) := by
  rw [s.openStep_eq]
  exact foldl_onCell_reaches (g := fun x c k => k.opened t (s.checkedStep t) (x.time c)) _ hm fun _ _ k => k.opened_spec ..

/-- A tenant's coordinator, and the phase of its step on every cell. -/
def State.phases (s : State) (t : Nat) : Coord × (Nat → LPhase) := (s.coord t, fun m => ((s.cell m).lrn t).phase)

theorem Reports.phases {s s' : State} (h : Reports s s') (t : Nat) : s'.phases t = s.phases t := by
  refine Prod.ext ?_ (funext fun c => congrArg LearnRun.phase (learnt_lrn h.learnt c t))
  rw [State.phases, State.coord, h.coords]
  rfl

theorem State.onCell_phases (c : Nat) {f : Cell → Cell} (hf : ∀ k, ((f k).lrn t).phase = (k.lrn t).phase) :
    (s.onCell c f).phases t = s.phases t := by
  refine Prod.ext rfl (funext fun d => ?_)
  show (((s.onCell c f).cell d).lrn t).phase = ((s.cell d).lrn t).phase
  rw [State.cell_onCell]
  split
  · subst_vars
    exact hf _
  · rfl

/-- A wait that is recorded takes no cell of the group into the step (R355). -/
theorem State.recordWait_phases : (s.recordWait t).phases t = s.phases t := by
  have waited (k : Cell) : ((k.onLrn t (fun l => { l with waitRec := true })).lrn t).phase = (k.lrn t).phase := by
    rw [k.lrn_onLrn_same]
  refine foldl_same (State.phases · t) _ s fun x c => ite_same (State.phases · t) ?_ rfl
  refine ((State.err_reports (.refl _) ..).phases t).trans (Eq.trans ?_ (x.onCell_phases t c waited))
  exact ite_same (State.phases · t) rfl (foldl_same (State.phases · t) _ _ fun y _ => y.onCell_phases t _ fun _ => rfl)

end

/-- What LEARNING_STEP_BEGIN does for a tenant whose group may begin (R208, R355). -/
theorem learningStepBegin_run {time : Nat} {tenant : Fin 64} {s x : State} {P : State → Prop} (hidle : ((s.at time).coord tenant).active = false)
    (hrec : ((s.at time).coord tenant).recWait = false) (hsafe : (s.at time).boot.safe = false)
    (hsupply : (s.at time).supply.failing = false) (hcoord : (s.at time).coordinated tenant = true)
    (hsome : ∃ m ∈ (s.at time).learnGroup tenant, ((s.at time).cell m).computes tenant = true)
    (hready : ∀ m ∈ (s.at time).learnGroup tenant, (s.at time).learnReady m tenant = true)
    (hx : (if ((s.at time).learnGroup tenant).all (fun m => !((s.at time).cell m).computes tenant || (s.at time).gapOver m tenant) then
      (s.at time).openStep tenant else (s.at time).recordWait tenant) = x) (hP : ∀ s', EndsAs x s' → P s') :
    Answers (.learningStepBegin time tenant) s P := by
  refine .of_run rfl ((if_neg ?_).trans hx) hP
  simp only [hidle, hrec, hsafe, hsupply, hcoord, List.any_eq_true.mpr hsome, List.all_eq_true.mpr hready, Bool.not_true, Bool.or_self,
    Bool.false_eq_true, not_false_eq_true]

/-- Settles O30: with every gap over the step opens at the coordinator and on each cell of the group; while one runs only its wait is
recorded. -/
theorem aLearningStepOpens : Obligations.ALearningStepOpens := by
  intro t tenant s u group hidle hrec hsafe hsupply hcoord hsome hready
  refine ⟨fun hgaps => ?opens, fun ⟨m, hm, hcomputes, hgap⟩ => ?waits⟩
  case opens =>
    have hover : group.all (fun m => !(u.cell m).computes tenant || u.gapOver m tenant) = true :=
      List.all_eq_true.mpr fun m hm => by
        cases hc : (u.cell m).computes tenant with
        | false => rfl
        | true => exact hgaps m hm hc
    refine learningStepBegin_run hidle hrec hsafe hsupply hcoord hsome hready (if_pos hover) fun s' hs' => ⟨?_, fun m hm => ?_, hs'.silent⟩
    · exact (hs'.coord tenant).trans (u.openStep_coord tenant)
    · obtain ⟨hphase, hdecision, hchecked, hentries⟩ := u.openStep_opened tenant hm
      rw [u.openStep_computes] at hphase
      obtain ⟨n, hcell⟩ := hs'.cell m
      rw [hs'.lrn, hs'.tiers, u.openStep_tiers]
      exact ⟨hphase, hdecision, hchecked, (congrArg (fun k : Cell => k.ud.entries) hcell).trans hentries, rfl⟩
  case waits =>
    have hover : ¬group.all (fun m => !(u.cell m).computes tenant || u.gapOver m tenant) = true := fun hall => by
      simpa [hcomputes, hgap] using List.all_eq_true.mp hall m hm
    refine learningStepBegin_run hidle hrec hsafe hsupply hcoord hsome hready (if_neg hover) fun s' hs' => ?_
    have hphases := (hs'.reports.phases tenant).trans (u.recordWait_phases tenant)
    exact ⟨congrArg Prod.fst hphases, congrFun (congrArg Prod.snd hphases)⟩

end Sys2Proof.Machine

/-! ## Reports of a learning step (R208, R210, R226, R234) -/

namespace Sys2Proof.Machine

/-! ### What passes and reports leave of tiers and steps -/

/-- How far every learning step has come, and every tile: what passes that only read leave alone (R234). -/
def State.kept (s : State) : ((Nat → Stage) × (Nat → Learnt)) × (Nat → Tiers) := (s.learnt, fun c => (s.cell c).tiers)

theorem kept_learnt {s s' : State} (h : s'.kept = s.kept) : s'.learnt = s.learnt := congrArg Prod.fst h

theorem kept_tiers {s s' : State} (h : s'.kept = s.kept) (c : Nat) : (s'.cell c).tiers = (s.cell c).tiers := congrFun (congrArg Prod.snd h) c

theorem Reports.kept {s s' : State} (h : Reports s s') : s'.kept = s.kept := Prod.ext h.learnt (funext h.tiers)

section
variable (s : State)

theorem State.onCell_kept (c : Nat) {f : Cell → Cell} (hl : ∀ k, (f k).learnt = k.learnt) (ht : ∀ k, (f k).tiers = k.tiers) :
    (s.onCell c f).kept = s.kept := by
  refine Prod.ext (s.onCell_learnt c hl) (funext fun d => ?_)
  show ((s.onCell c f).cell d).tiers = (s.cell d).tiers
  rw [State.cell_onCell]
  split
  · subst_vars
    exact ht _
  · rfl

theorem State.err_kept (c : Nat) (e : Ev) : (s.err c e).kept = s.kept := (State.err_reports (.refl s) c e).kept

/-- Held layers are entered in the ring (R238). -/
theorem State.holdLayers_kept (c tenant : Nat) (layers : List Nat) (seq : Nat) : (s.holdLayers c tenant layers seq).kept = s.kept :=
  foldl_same State.kept layers s fun x _ => ite_same State.kept rfl
    ((State.err_kept ..).trans (x.onCell_kept c (fun _ => rfl) (fun _ => rfl)))

theorem State.addEntry_kept (c : Nat) (x : RepEntry) : (s.addEntry c x).kept = s.kept :=
  s.onCell_kept c (fun _ => rfl) (fun _ => rfl)

/-- An out-of-band ratio asks for field tests, no more (R232). -/
theorem State.ratioEvent_kept (c tenant : Nat) (x : RepEntry) : (s.ratioEvent c tenant x).kept = s.kept := by
  have asks (k : Cell) (l : List Nat) {α : Type} (π : Cell → α) (hπ : ∀ (y : Cell) n f, π (y.onCore n f) = π y) :
      π (l.foldl (fun (k : Cell) n => k.onCore n (fun y => { y with testReq := true })) k) = π k :=
    List.foldlRecOn (motive := fun y : Cell => π y = π k) l _ rfl fun y h n _ => (hπ y n _).trans h
  refine ite_same State.kept rfl ((foldl_same State.kept _ _ fun y m => ?_).trans (s.err_kept ..))
  exact y.onCell_kept m (fun k => asks k _ Cell.learnt fun _ _ _ => rfl) (fun k => asks k _ Cell.tiers fun _ _ _ => rfl)

theorem State.trapRecord_kept (c tenant : Nat) (x : RepEntry) : (s.trapRecord c tenant x).kept = s.kept :=
  ite_same State.kept (s.err_kept ..) rfl

theorem State.ratioLayer_kept (c : Nat) (x : Named) : (s.ratioLayer c x).kept = s.kept := by
  unfold State.ratioLayer
  split
  · rfl
  · dsimp only
    refine (State.trapRecord_kept ..).trans ((State.ratioEvent_kept ..).trans ((State.addEntry_kept ..).trans ?_))
    split
    · rfl
    · exact s.holdLayers_kept ..

/-- The ratio pass writes no tile, and leaves its cell ratioed (R234). -/
theorem State.ratioAll_tiers (c tenant m : Nat) : ((s.ratioAll c tenant).cell m).tiers = (s.cell m).tiers := by
  have hread := foldl_same State.kept ((s.cell c).ud.namedFor tenant) s (f := fun s x => s.ratioLayer c x) fun x y => x.ratioLayer_kept c y
  refine Eq.trans ?_ (kept_tiers hread m)
  unfold State.ratioAll
  dsimp only
  rw [State.cell_onCell]
  split
  · subst_vars
    rfl
  · rfl

theorem State.ratioAll_phase (c tenant : Nat) : (((s.ratioAll c tenant).cell c).lrn tenant).phase = .ratioed := by
  unfold State.ratioAll
  dsimp only
  rw [State.cell_onCell_same, Cell.lrn_onLrn_same]

end

/-! ### Report entries and next scales alone -/

/-- The cell with other report entries and next scales, and with what it has reported and sent. -/
def Cell.entered (k : Cell) (e : ErrRing) (q : Korif) (l : List RepEntry) (n : List (Nat × Int)) : Cell :=
  { k with err := e, korif := q, ud := { k.ud with entries := l, nextScale := n } }

section
variable (k : Cell) (e : ErrRing) (q : Korif) (l : List RepEntry) (n : List (Nat × Int))

theorem Cell.layParts_entered (tenant : Nat) (ts : List Tensor) (first row : Nat) :
    layParts (k.entered e q l n) tenant ts first row = layParts k tenant ts first row := by
  induction ts generalizing first row with
  | nil => rfl
  | cons t ts ih => exact congrArg (List.cons _) (ih ..)

/-- No report entry and no next scale is among what a pass reads of a layer (R216). -/
theorem Cell.layerEnv_entered (x : Named) (extra : List Nat) (ratio : Bool) : (k.entered e q l n).layerEnv x extra ratio =
    (k.layerEnv x extra ratio).map (fun v => { v with cell := k.entered e q l n }) := by
  have hparts : (k.entered e q l n).partsOf x.2.2.2 x.1 = k.partsOf x.2.2.2 x.1 := Cell.layParts_entered ..
  have hbind : (k.entered e q l n).ud.bindOf x.1 = k.ud.bindOf x.1 := rfl
  have hgrad : (k.entered e q l n).gradOf = k.gradOf := rfl
  unfold Cell.layerEnv
  rw [hparts, hbind, hgrad]
  cases k.ud.bindOf x.1 with
  | none => rfl
  | some b =>
    dsimp only
    by_cases hno : b.tenant ≠ x.2.2.2 ∨ partElems (k.partsOf x.2.2.2 x.1) = 0
    · rw [if_pos hno, if_pos hno]
      rfl
    · rw [if_neg hno, if_neg hno]
      cases k.gradOf x.2.2.2 x.2.2.1 (partElems (k.partsOf x.2.2.2 x.1)) <;> rfl

theorem LayerEnv.requests_entered (v : LayerEnv) (hv : v.cell = k) :
    ({ v with cell := k.entered e q l n } : LayerEnv).requests = v.requests := by
  subst hv
  rfl

theorem Cell.layerEnv_cell {x : Named} {extra : List Nat} {ratio : Bool} {v : LayerEnv} (h : k.layerEnv x extra ratio = some v) :
    v.cell = k := by
  unfold Cell.layerEnv at h
  split at h
  · exact nomatch h
  · dsimp only at h
    split at h
    · exact nomatch h
    · split at h <;> cases h
      rfl

theorem Cell.layerCauses_entered (x : Named) : (k.entered e q l n).layerCauses x = k.layerCauses x := by
  unfold Cell.layerCauses
  rw [k.layerEnv_entered]
  cases hv : k.layerEnv x [] false with
  | none => rfl
  | some v =>
    have hpoison : (k.entered e q l n).gradPoison = k.gradPoison := rfl
    simp only [Option.map_some, LayerEnv.requests_entered k e q l n v (k.layerEnv_cell hv), hpoison]

/-- Void causes that a home cell finds do not hang on its report entries (R206, R215, R230). -/
theorem Cell.homeCauses_entered (tenant : Nat) : (k.entered e q l n).homeCauses tenant = k.homeCauses tenant := by
  have hlayers : (k.entered e q l n).layerCauses = k.layerCauses := funext fun x => k.layerCauses_entered e q l n x
  unfold Cell.homeCauses
  rw [hlayers]
  rfl

theorem Cell.learnCauses_entered (tenant : Nat) : (k.entered e q l n).learnCauses tenant = k.learnCauses tenant := rfl

end

/-- `s'` is `s` but for report entries, next scales, and what is recorded, reported and sent meanwhile. -/
structure EntryMoves (s s' : State) : Prop where
  boot    : s'.boot = s.boot
  seating : s'.seating = s.seating
  stage   : ∀ t, (s'.coord t).stage = (s.coord t).stage
  cell    : ∀ c, ∃ e q l n, s'.cell c = (s.cell c).entered e q l n

theorem EntryMoves.refl (s : State) : EntryMoves s s := ⟨rfl, rfl, fun _ => rfl, fun _ => ⟨_, _, _, _, rfl⟩⟩

theorem EntryMoves.trans {a b c : State} (h : EntryMoves a b) (g : EntryMoves b c) : EntryMoves a c where
  boot := g.boot.trans h.boot
  seating := g.seating.trans h.seating
  stage t := (g.stage t).trans (h.stage t)
  cell d := by
    obtain ⟨_, _, _, _, hb⟩ := h.cell d
    obtain ⟨e, q, l, n, hc⟩ := g.cell d
    exact ⟨e, q, l, n, by rw [hc, hb]; rfl⟩

theorem Reports.entryMoves {s s' : State} (h : Reports s s') : EntryMoves s s' where
  boot := h.boot
  seating := h.seating
  stage := learnt_stage h.learnt
  cell c := by
    obtain ⟨e, p, q, hc⟩ := h.cell c
    exact ⟨e, _, _, _, hc⟩

theorem EntryMoves.kept {s s' : State} (h : EntryMoves s s') : s'.kept = s.kept := by
  refine Prod.ext (Prod.ext (funext h.stage) (funext fun c => ?_)) (funext fun c => ?_)
  all_goals
    obtain ⟨e, q, l, n, hc⟩ := h.cell c
    simp only [State.kept, State.learnt, hc]
    rfl

section
variable (s : State)

theorem ite_entryMoves {p : Prop} [Decidable p] {a b : State} (ha : EntryMoves s a) (hb : EntryMoves s b) :
    EntryMoves s (if p then a else b) := by split <;> assumption

theorem foldl_entryMoves {β : Type} (l : List β) {f : State → β → State} (hf : ∀ x b, EntryMoves x (f x b)) :
    EntryMoves s (l.foldl f s) :=
  List.foldlRecOn (motive := EntryMoves s) l f (.refl s) fun x h b _ => h.trans (hf x b)

theorem State.onCell_entryMoves (c : Nat) {f : Cell → Cell} (hf : ∀ k, ∃ l n, f k = k.entered k.err k.korif l n) :
    EntryMoves s (s.onCell c f) := by
  refine ⟨rfl, rfl, fun _ => rfl, fun d => ?_⟩
  rw [State.cell_onCell]
  split
  · subst_vars
    obtain ⟨l, n, hk⟩ := hf (s.cell d)
    exact ⟨_, _, l, n, hk⟩
  · exact ⟨_, _, _, _, rfl⟩

theorem State.onCoord_entryMoves (t : Nat) {f : Coord → Coord} (hf : ∀ x, (f x).stage = x.stage) : EntryMoves s (s.onCoord t f) :=
  ⟨rfl, rfl, learnt_stage (s.onCoord_learnt t hf), fun _ => ⟨_, _, _, _, rfl⟩⟩

theorem State.onFn_entryMoves (n : Nat) (f : HostFn → HostFn) : EntryMoves s (s.onFn n f) :=
  ⟨rfl, rfl, fun _ => rfl, fun _ => ⟨_, _, _, _, rfl⟩⟩

theorem State.addEntry_entryMoves (c : Nat) (x : RepEntry) : EntryMoves s (s.addEntry c x) :=
  s.onCell_entryMoves c fun _ => ⟨_, _, rfl⟩

theorem State.scanEntries_entryMoves (c t : Nat) : EntryMoves s (s.scanEntries c t) :=
  ite_entryMoves s (.refl s) (foldl_entryMoves s _ fun x y => by
    split
    · exact .refl x
    · exact x.addEntry_entryMoves ..)

theorem State.fixCell_entryMoves (t c : Nat) : EntryMoves s (s.fixCell t c) := s.onCell_entryMoves c fun _ => ⟨_, _, rfl⟩

theorem State.fixScales_entryMoves (t : Nat) : EntryMoves s (s.fixScales t) := foldl_entryMoves s _ fun x _ => x.fixCell_entryMoves ..

theorem State.gatherEntries_entryMoves (t : Nat) : EntryMoves s (s.gatherEntries t) :=
  s.onCoord_entryMoves t fun x => by simp only [Coord.stage, List.map_map, Function.comp_def]

/-- A VOID about a doubted step goes to other cells, never to its own (R275, R315). -/
theorem State.doubtVoids_reports (c : Nat) (codes : List Nat) (inside : Nat → Nat → Bool) : Reports s (s.doubtVoids c codes inside) := by
  refine ite_reports (.refl s) (foldl_reports _ _ (.refl s) fun x y hx => ?_)
  split
  · exact hx
  next hfar => exact State.voidFor_reports hx _ _ _ _ _ _ _ _ fun ⟨hseat, hcell⟩ => hfar (by simp [hseat, hcell])

theorem State.recDone_entryMoves (r : QRec) : EntryMoves s (s.recDone r) := by
  unfold State.recDone
  split
  · exact .refl s
  · exact ite_entryMoves s (s.onCoord_entryMoves _ fun _ => rfl) (s.onCoord_entryMoves _ fun _ => rfl)

theorem State.dropRec_entryMoves (n : Nat) : EntryMoves s (s.dropRec n) := by
  have dropped (e : Ev) : EntryMoves s ((s.onFn n (fun h => { h with lastDrop := some s.now })).errLocal 0 e) :=
    (s.onFn_entryMoves n _).trans (State.errLocal_reports (.refl _) ..).entryMoves
  unfold State.dropRec
  dsimp only
  split
  · exact ite_entryMoves s (.refl s) (dropped _)
  · exact dropped _

theorem State.queueRec_entryMoves (n : Nat) (r : QRec) : EntryMoves s (s.queueRec n r) :=
  ite_entryMoves s (s.onFn_entryMoves n _)
    (ite_entryMoves s ((s.recDone_entryMoves r).trans (State.dropRec_entryMoves ..)) (s.recDone_entryMoves r))

/-- A record of a learning step waits for its ring; the step stands where it stood (R212, R235, R342). -/
theorem State.learnRecord_entryMoves (t code rec1 : Nat) (l : List RepEntry) : EntryMoves s (s.learnRecord t code rec1 l) :=
  (s.onCoord_entryMoves t fun _ => by rfl).trans
    ((State.queueRec_entryMoves ..).trans (State.mail_reports (.refl _) ..).entryMoves)

theorem State.sealSend_reports {s0 s : State} (h : Reports s0 s) (c t body : Nat) (l : List RepEntry) :
    Reports s0 (s.sealSend c t body l) := State.send_reports h ..

theorem State.reportFrames_reports (n c t : Nat) (r : Report) (l : List RepEntry) : Reports s (State.reportFrames n s c t r l) := by
  induction n generalizing s l with
  | zero => exact .refl s
  | succ n ih =>
    unfold State.reportFrames
    have sent (body : Nat) := State.sealSend_reports (.refl s) c t body (l.take 7)
    exact ite_reports (sent _) ((sent _).trans (ih ..))

/-! ### A cell reports (order 4 of Table 9-3) -/

/-- What a cell's report to the coordinator holds (R208, R277). -/
def State.reportOf (c t : Nat) : Report :=
  let k := s.cell c
  { cell := c, allDone := !k.step.stopped || !k.computes t, jobStep := (k.run t).jobStep,
    causes := (k.learnCauses t ++ k.homeCauses t).dedup, entries := k.ud.entries }

/-- The report is with the coordinator. -/
def State.reportedBy (c t : Nat) : State :=
  (s.onCell c (fun k => k.onLrn t (fun l => { l with phase := .reported }))).onCoord t (fun x =>
    { x with reports := x.reports ++ [s.reportOf c t] })

/-- A cell that is about to report: VOID frames are out, its scan's entries are in (R226, R230, R315). -/
def State.beforeReport (c t : Nat) : State :=
  let s0 := (s.doubtVoids c (if (s.cell c).computes t then (s.cell c).causesOf t else []) (s.inLearnGroup c t)).scanEntries c t
  if (s.coord t).mod then s0 else s0.fixCell t c

theorem State.beforeReport_entryMoves (c t : Nat) : EntryMoves s (s.beforeReport c t) := by
  have hscan := (s.doubtVoids_reports c (if (s.cell c).computes t then (s.cell c).causesOf t else []) (s.inLearnGroup c t)).entryMoves.trans
    (State.scanEntries_entryMoves _ c t)
  exact ite_entryMoves s hscan (hscan.trans (State.fixCell_entryMoves _ t c))

/-- After a cell's report only entries and scales follow, and the ratio record (R226, R235). -/
theorem State.report_entryMoves (c t : Nat) : EntryMoves ((s.beforeReport c t).reportedBy c t) (s.report c t) := by
  have hfixed (x : State) := (x.fixScales_entryMoves t).trans (State.gatherEntries_entryMoves _ t)
  refine ite_entryMoves _ (State.reportFrames_reports ..).entryMoves (ite_entryMoves _ (.refl _) ?_)
  exact ite_entryMoves _ ((hfixed _).trans (State.learnRecord_entryMoves ..)) (hfixed _)

end

/-- What a cell's report leaves: one report more at the coordinator, the cell reported, every tile as it was. -/
structure ReportedAt (c t : Nat) (s s' : State) : Prop where
  boot     : s'.boot = s.boot
  seating  : s'.seating = s.seating
  active   : (s'.coord t).active = (s.coord t).active
  mod      : (s'.coord t).mod = (s.coord t).mod
  decision : (s'.coord t).decision = (s.coord t).decision
  phase    : ((s'.cell c).lrn t).phase = .reported
  tiers    : ∀ m, (s'.cell m).tiers = (s.cell m).tiers
  reports  : (s'.coord t).reports.map (fun r => (r.cell, r.jobStep, r.causes)) =
    (s.coord t).reports.map (fun r => (r.cell, r.jobStep, r.causes)) ++
      [(c, ((s.cell c).run t).jobStep, ((s.cell c).learnCauses t ++ (s.cell c).homeCauses t).dedup)]

theorem State.reportedBy_coord (s : State) (c t : Nat) :
    (s.reportedBy c t).coord t = { s.coord t with reports := (s.coord t).reports ++ [s.reportOf c t] } := State.coord_onCoord_same ..

theorem State.reportedBy_cell (s : State) (c t m : Nat) : (s.reportedBy c t).cell m =
    if m = c then (s.cell c).onLrn t (fun l => { l with phase := .reported }) else s.cell m := by
  rw [State.reportedBy, State.onCoord_cell, State.cell_onCell]

theorem State.reportedBy_reportedAt (s : State) (c t : Nat) : ReportedAt c t s (s.reportedBy c t) where
  boot := rfl
  seating := rfl
  active := by rw [s.reportedBy_coord]
  mod := by rw [s.reportedBy_coord]
  decision := by rw [s.reportedBy_coord]
  phase := by rw [s.reportedBy_cell, if_pos rfl, Cell.lrn_onLrn_same]
  tiers m := by
    rw [s.reportedBy_cell]
    split
    · subst_vars
      rfl
    · rfl
  reports := by
    rw [s.reportedBy_coord]
    exact List.map_append

theorem EntryMoves.reportKey {s s' : State} (h : EntryMoves s s') (c t : Nat) :
    (((s'.cell c).run t).jobStep, ((s'.cell c).learnCauses t ++ (s'.cell c).homeCauses t).dedup) =
    (((s.cell c).run t).jobStep, ((s.cell c).learnCauses t ++ (s.cell c).homeCauses t).dedup) := by
  obtain ⟨e, q, l, n, hc⟩ := h.cell c
  rw [hc, Cell.homeCauses_entered, Cell.learnCauses_entered]
  rfl

theorem State.report_reportedAt (s : State) (c t : Nat) : ReportedAt c t s (s.report c t) := by
  have hbefore := s.beforeReport_entryMoves c t
  have hafter := s.report_entryMoves c t
  obtain ⟨hboot, hseating, hactive, hmod, hdecision, hphase, htiers, hreports⟩ := (s.beforeReport c t).reportedBy_reportedAt c t
  have h0 := kept_learnt hbefore.kept
  have h1 := kept_learnt hafter.kept
  exact {
    boot := hafter.boot.trans (hboot.trans hbefore.boot)
    seating := hafter.seating.trans (hseating.trans hbefore.seating)
    active := (learnt_active h1 t).trans (hactive.trans (learnt_active h0 t))
    mod := (learnt_mod h1 t).trans (hmod.trans (learnt_mod h0 t))
    decision := (learnt_decision h1 t).trans (hdecision.trans (learnt_decision h0 t))
    phase := (congrArg LearnRun.phase (learnt_lrn h1 c t)).trans hphase
    tiers := fun m => (kept_tiers hafter.kept m).trans ((htiers m).trans (kept_tiers hbefore.kept m))
    reports := by rw [learnt_reports h1, hreports, learnt_reports h0, hbefore.reportKey] }

/-! ### The loss of the coordinator (R20, R293) -/

theorem takeLoss_of_undecided {s : State} {c t : Nat} (h : (s.coord t).decision = none) : s.takeLoss c t = s := by
  unfold State.takeLoss
  dsimp only
  rw [h]

/-- A reported cell whose coordinator is lost takes the loss's decision, and writes no tile. -/
theorem takeLoss_decided {s : State} {c t : Nat} {d : Bool × Nat} (hd : (s.coord t).decision = some d) (hactive : (s.coord t).active = true)
    (hcut : s.cutOff t = true) (hphase : ((s.cell c).lrn t).phase = .reported) :
    (((s.takeLoss c t).cell c).lrn t).phase = .decided ∧ (((s.takeLoss c t).cell c).lrn t).decision = some d ∧
    ∀ m, ((s.takeLoss c t).cell m).tiers = (s.cell m).tiers := by
  have htake : s.takeLoss c t = (s.fixCell t c).onCell c (fun k => k.takeDecision t d (s.coord t).decTime k.ud.nextScale) := by
    unfold State.takeLoss
    dsimp only
    rw [hd]
    exact if_pos (by simp [hactive, hcut, hphase])
  rw [htake]
  refine ⟨?_, ?_, fun m => Eq.trans ?_ (kept_tiers (s.fixCell_entryMoves t c).kept m)⟩
  · rw [State.cell_onCell_same, Cell.lrn_takeDecision]
  · rw [State.cell_onCell_same, Cell.lrn_takeDecision]
  · rw [State.cell_onCell]
    split
    · subst_vars
      rfl
    · rfl

theorem ReportedAt.cutOff {c t : Nat} {s s' : State} (h : ReportedAt c t s s') : s'.cutOff t = s.cutOff t := by
  simp only [State.cutOff, h.mod, h.boot, h.seating]

/-- SEAL_REPORT of a cell that may report (R208). -/
theorem sealReport_answers {time : Nat} {cell : Fin 8} {tenant : Fin 64} {s : State} {P : State → Prop}
    (hready : (s.at time).reportReady cell tenant = true) (hactive : ((s.at time).coord tenant).active = true)
    (hopen : ((s.at time).coord tenant).decision = none ∨ (s.at time).cutOff tenant = true)
    (hP : ∀ s', EndsAs (((s.at time).report cell tenant).takeLoss cell tenant) s' → P s') : Answers (.sealReport time cell tenant) s P :=
  .of_run rfl (if_pos (by simpa [-State.at_coord, hready, hactive] using hopen)) hP

/-- Settles O31: the ratio pass only reads, a report adds itself alone, and a missed one is noted. -/
theorem ratioPassAndReportsReachTheCoordinator : Obligations.RatioPassAndReportsReachTheCoordinator := by
  intro t cell tenant s u k
  refine ⟨fun hup hphase hchecked hmode hsums hover => ?ratio, fun hready hactive => ⟨fun hnone => ?report, fun d hd hcut => ?lost⟩,
    fun hactive hnone hmember hmissing hlimit => ?missed⟩
  case ratio =>
    refine .of_run rfl (if_pos (by simp [u, k, hup, hphase, hchecked, hmode, hsums, hover])) fun s' hs' => ⟨?_, fun m => ?_, hs'.silent⟩
    · rw [hs'.lrn, State.ratioAll_phase]
    · rw [hs'.tiers, State.ratioAll_tiers]
  case report =>
    have hreport := u.report_reportedAt cell tenant
    refine sealReport_answers hready hactive (.inl hnone) fun s' hs' => ?_
    rw [takeLoss_of_undecided (hreport.decision.trans hnone)] at hs'
    refine ⟨?_, ?_, fun m => ?_⟩
    · rw [hs'.lrn, hreport.phase]
    · rw [hs'.coord, hreport.reports]
    · rw [hs'.tiers, hreport.tiers]
  case lost =>
    have hreport := u.report_reportedAt cell tenant
    obtain ⟨hphase, hdecision, htiers⟩ := takeLoss_decided (hreport.decision.trans hd) (hreport.active.trans hactive)
      (hreport.cutOff.trans hcut) hreport.phase
    refine sealReport_answers hready hactive (.inr hcut) fun s' hs' => ⟨?_, ?_, fun m => ?_⟩
    · rw [hs'.lrn, hphase]
    · rw [hs'.lrn, hdecision]
    · rw [hs'.tiers, htiers, hreport.tiers]
  case missed =>
    exact .of_run rfl (if_pos (by simpa [-State.at_coord, u, hactive, hnone, hmember, hlimit] using hmissing)) fun s' hs' => hs'.silent

end Sys2Proof.Machine

/-! ## The decision of a learning step (R208 to R211, R235) -/

namespace Sys2Proof.Machine

section
variable (s : State) (t : Nat) (d : Bool × Nat)

/-- The coordinator with its decision taken, its causes recorded and the next scales fixed, before any cell has it (R209, R210). -/
def State.withDecision : State :=
  ((s.coordCauses t d).foldl (fun (s : State) r => s.err 0 { cls := clsVOID, sev := 1, unit := 7, tenant := t, reason := r })
    (if (s.coord t).allIn then s else s.fixScales t)).onCoord t (fun c =>
      { c with decision := some d, decTime := s.time (((s.coord t).group.head?).getD 0) })

/-- Every cell of the group takes the one decision. -/
theorem State.spread_eq : ∃ time scales, s.spread t d = (s.coord t).group.foldl (fun x c =>
    x.onCell c (fun k => k.takeDecision t d time scales)) (s.withDecision t d) := ⟨_, _, rfl⟩

theorem State.withDecision_tiers (m : Nat) : ((s.withDecision t d).cell m).tiers = (s.cell m).tiers := by
  have hfixed : EntryMoves s (if (s.coord t).allIn then s else s.fixScales t) := ite_entryMoves s (.refl s) (s.fixScales_entryMoves t)
  exact kept_tiers ((foldl_same State.kept (s.coordCauses t d) _ fun x r => x.err_kept ..).trans hfixed.kept) m

theorem State.spread_decision : ((s.spread t d).coord t).decision = some d := by
  obtain ⟨time, scales, he⟩ := s.spread_eq t d
  rw [he, foldl_same (State.coord · t) _ _ fun _ _ => by rfl, State.withDecision, State.coord_onCoord_same]

theorem State.spread_lrn {m : Nat} (hm : m ∈ (s.coord t).group) :
    (((s.spread t d).cell m).lrn t).phase = .decided ∧ (((s.spread t d).cell m).lrn t).decision = some d := by
  obtain ⟨time, scales, he⟩ := s.spread_eq t d
  rw [he]
  refine foldl_onCell_reaches (P := fun k => (k.lrn t).phase = .decided ∧ (k.lrn t).decision = some d) _ hm fun _ _ k => ?_
  rw [k.lrn_takeDecision]
  exact ⟨rfl, rfl⟩

theorem State.spread_tiers (m : Nat) : ((s.spread t d).cell m).tiers = (s.cell m).tiers := by
  obtain ⟨time, scales, he⟩ := s.spread_eq t d
  rw [he, foldl_onCell_same _ Cell.tiers _ fun _ _ _ => by rfl, State.withDecision_tiers]

end

/-- The supervisor's decision where every report is in, or one was missed (R210, R235). -/
theorem decide_of_reports {s : State} {t : Nat} (hactive : (s.coord t).active = true) (hnone : (s.coord t).decision = none)
    (hmod : (s.coord t).mod = true) (hin : (s.coord t).allIn = true ∨ (s.coord t).missed = true) :
    s.decide t = if !(s.foundCauses t).isEmpty then some (false, pickCause (s.foundCauses t))
      else if s.stepChecked t then (s.coord t).answer.map (fun a => if a then (true, 0) else (false, vADMIN))
      else some (true, 0) := by
  refine (if_neg (by rcases hin with h | h <;> simp [hactive, hnone, hmod, h])).trans ?_
  cases (s.coord t).answer with
  | none => rfl
  | some a => cases a <;> rfl

section
variable {time : Nat} {tenant : Fin 64} {s : State}

theorem sealDecision_answers {d : Bool × Nat} (h : (s.at time).decide tenant = some d) :
    Answers (.sealDecision time tenant) s (fun s' => (s'.coord tenant).decision = some d ∧
      (∀ m ∈ ((s.at time).coord tenant).group, ((s'.cell m).lrn tenant).phase = .decided ∧ ((s'.cell m).lrn tenant).decision = some d) ∧
      ∀ m, (s'.cell m).tiers = ((s.at time).cell m).tiers) := by
  refine .of_run (x := (s.at time).spread tenant d) rfl (by rw [h]) fun s' hs' => ⟨?_, fun m hm => ?_, fun m => ?_⟩
  · rw [hs'.coord, State.spread_decision]
  · rw [hs'.lrn]
    exact State.spread_lrn _ _ _ hm
  · rw [hs'.tiers, State.spread_tiers]

theorem sealDecision_waits (h : (s.at time).decide tenant = none) :
    Answers (.sealDecision time tenant) s (fun s' => s'.silent = (s.at time).silent) :=
  .of_run (x := s.at time) rfl (by rw [h]) fun s' hs' => hs'.silent

end

/-- Settles O32: the supervisor's decision follows from the causes found, the checked commit and the answer, and one decision reaches the
whole group. -/
theorem theSealIsDecidedOnceForTheWholeGroup : Obligations.TheSealIsDecidedOnceForTheWholeGroup := by
  intro t tenant s u c decides hactive hnone
  refine ⟨fun hmod hin => ?reports, fun hwait => ?early, fun t0 hup hratio hanswer hdue => ?timeout⟩
  case reports =>
    have hdecide := decide_of_reports hactive hnone hmod hin
    refine ⟨fun hcause => sealDecision_answers ?_, fun hclean hdirect => sealDecision_answers ?_, fun hclean hchecked =>
      ⟨fun hyes => sealDecision_answers ?_, fun hno => sealDecision_answers ?_, fun hopen => sealDecision_waits ?_⟩⟩
    · exact hdecide.trans (if_pos (by simpa using hcause))
    · exact hdecide.trans (by simp [u, hclean, hdirect])
    all_goals rw [hdecide, hclean, hchecked]
    · rw [hyes]
      rfl
    · rw [hno]
      rfl
    · rw [hopen]
      rfl
  case early =>
    refine sealDecision_waits (if_pos ?_)
    rcases hwait with hmanager | ⟨hnotin, hnotmissed⟩
    · rw [hmanager]
      simp
    · rw [hnotin, hnotmissed]
      simp
  case timeout =>
    refine .of_run rfl ?_ fun s' hs' => hs'.silent
    dsimp only
    rw [hratio]
    exact if_pos (by simp [-State.at_coord, -State.at_host, u, c, hup, hactive, hnone, hanswer, hdue])

end Sys2Proof.Machine

/-! ## The apply pass and the end of the seal (R208, R211, R212, R219, R224) -/

namespace Sys2Proof.Machine

/-! ### The apply pass takes no step further -/

section
variable (s : State)

theorem State.putTile_learnt (c tenant : Nat) (ident : BitVec 24) (i : Nat) (l : List (Nat × Nat)) :
    (s.putTile c tenant ident i l).1.learnt = s.learnt := by
  unfold State.putTile
  split
  · rfl
  · exact s.tierPut_learnt ..

theorem State.putElems_learnt (c tenant : Nat) (ident : BitVec 24) (per : Nat) (l : List (Nat × Nat)) :
    (s.putElems c tenant ident per l).1.learnt = s.learnt :=
  List.foldlRecOn (motive := fun x : State × Bool => x.1.learnt = s.learnt) _ _ rfl fun x h _ _ => (x.1.putTile_learnt ..).trans h

theorem State.writeLayer_learnt (c : Nat) (v : LayerEnv) (o : LayerOut) : (s.writeLayer c v o).learnt = s.learnt := by
  have put (x : State) (ident : BitVec 24) (l : List (Nat × Nat)) :
      (if ident = 0 then x else (x.putElems c v.bind.tenant ident 1024 l).1).learnt = x.learnt :=
    ite_same State.learnt rfl (x.putElems_learnt ..)
  refine (foldl_same State.learnt _ _ fun x p => x.putElems_learnt ..).trans ?_
  exact (put ..).trans ((put ..).trans ((put ..).trans ((put ..).trans (put ..))))

theorem State.broadcastLayer_learnt (c : Nat) (v : LayerEnv) (ver : BitVec 16) : (s.broadcastLayer c v ver).learnt = s.learnt := by
  unfold State.broadcastLayer
  dsimp only
  split
  · rfl
  · exact ite_same State.learnt rfl (foldl_same State.learnt _ s fun x p => foldl_same State.learnt _ x fun y h =>
      foldl_same State.learnt _ y fun z _ => z.sendTile_learnt ..)

theorem State.applyLayer_learnt (c : Nat) (faults : List PassFault) (ver : BitVec 16) (x : Named) :
    (s.applyLayer c faults ver x).learnt = s.learnt := by
  unfold State.applyLayer
  dsimp only
  split
  · rfl
  next v _ =>
    have entered (y : State) (e : RepEntry) (checked : Bool) (hy : y.kept = s.kept) :
        (if checked then y.addEntry c e else (y.addEntry c e).ratioEvent c x.2.2.2 e).kept = s.kept :=
      have added := (y.addEntry_kept c e).trans hy
      ite_same State.kept added ((State.ratioEvent_kept ..).trans added)
    have recorded (y : State) (e e' : RepEntry) (checked : Bool) (hy : y.kept = s.kept) := kept_learnt
      (((State.trapRecord_kept _ c x.2.2.2 e').trans (entered y e checked hy)))
    refine ite_same State.learnt (recorded _ _ _ _ ?_) (.trans (State.broadcastLayer_learnt ..) (.trans (State.writeLayer_learnt ..)
      (recorded _ _ _ _ ?_)))
    all_goals
      split
      · rfl
      · exact s.holdLayers_kept ..

theorem State.passFault_learnt (c tenant : Nat) (f : PassFault) : (s.passFault c tenant f).learnt = s.learnt := by
  unfold State.passFault
  split
  · rfl
  · exact ite_same State.learnt ((State.onCell_learnt _ c fun _ => by rfl).trans (s.err_learnt ..)) (s.err_learnt ..)

theorem State.takeSnapshot_learnt (c tenant : Nat) (ver : BitVec 16) : (s.takeSnapshot c tenant ver).learnt = s.learnt := by
  unfold State.takeSnapshot
  dsimp only
  split
  · rfl
  · refine ite_same State.learnt rfl ((State.onCell_learnt _ c fun _ => by rfl).trans (foldl_same State.learnt _ s fun x h => ?_))
    split
    · rfl
    · exact foldl_same State.learnt _ x fun y i => y.fillTile_learnt ..

/-- The apply pass up to its end, where the cell becomes applied (R219, R243). -/
def State.applyRun (c tenant : Nat) (faults : List PassFault) : State :=
  let ver := ((s.cell c).ver tenant).homeVer + 1
  let s1 := faults.foldl (fun s f => s.passFault c tenant f) s
  (((s1.cell c).ud.namedFor tenant).foldl (fun s x => s.applyLayer c faults ver x) s1).takeSnapshot c tenant ver

theorem State.applyRun_learnt (c tenant : Nat) (faults : List PassFault) : (s.applyRun c tenant faults).learnt = s.learnt :=
  (State.takeSnapshot_learnt ..).trans ((foldl_same State.learnt _ _ fun x _ => x.applyLayer_learnt ..).trans
    (foldl_same State.learnt _ s fun x _ => x.passFault_learnt ..))

/-- A cell at the end of its apply pass; another tenant's pass may still run (R214). -/
def Cell.appliedFor (k : Cell) (tenant : Nat) : Cell :=
  let k1 := k.onLrn tenant (fun l => { l with phase := .applied })
  { k1 with ud := { k1.ud with inPass := k1.learn.any (fun l => l.2.phase = .decided && l.2.decision.map (·.1) = some true) } }

theorem Cell.appliedFor_phase (k : Cell) (tenant : Nat) : ((k.appliedFor tenant).lrn tenant).phase = .applied :=
  congrArg LearnRun.phase (k.lrn_onLrn_same tenant fun l => { l with phase := .applied })

theorem Cell.appliedFor_ver (k : Cell) (tenant : Nat) : (k.appliedFor tenant).ver tenant = k.ver tenant := rfl

theorem State.applyAll_eq (c tenant : Nat) (faults : List PassFault) :
    s.applyAll c tenant faults = (s.applyRun c tenant faults).onCell c (fun k => k.appliedFor tenant) := rfl

/-- The apply pass leaves its cell applied; the version rises only with the seal (R211). -/
theorem State.applyAll_applied (c tenant : Nat) (faults : List PassFault) :
    (((s.applyAll c tenant faults).cell c).lrn tenant).phase = .applied ∧
    ((s.applyAll c tenant faults).cell c).ver tenant = (s.cell c).ver tenant := by
  rw [s.applyAll_eq, State.cell_onCell_same, Cell.appliedFor_phase, Cell.appliedFor_ver]
  exact ⟨rfl, learnt_ver (s.applyRun_learnt c tenant faults) c tenant⟩

end

/-! ### One cell completes its seal (orders 8 and 9 of Table 9-3) -/

section
variable (k : Cell) (t : Nat) (commit : Bool) (now : Nat)

theorem Cell.sealLearn_phase : ((k.sealLearn t commit now).lrn t).phase = .complete := by
  cases commit <;> exact congrArg LearnRun.phase (Cell.lrn_onLrn_same _ t fun l => { l with phase := .complete, gapFrom := some now })

/-- The job step count rises by one whatever was decided (R211). -/
theorem Cell.sealLearn_jobStep : ((k.sealLearn t commit now).run t).jobStep = (k.run t).jobStep + 1 := by
  have hruns : (k.sealLearn t commit now).runs = ((k.tierSeal t commit).onRun t (fun r =>
      { r with jobStep := r.jobStep + 1, runCount := nextRun r.runCount })).runs := by cases commit <;> rfl
  have hrun : (k.sealLearn t commit now).run t = _ := congrArg (fun m : SMap TenantRun => m.get TenantRun.reset t) hruns
  exact congrArg TenantRun.jobStep (hrun.trans (SMap.get_set_same ..))

/-- The home version rises by one for a commit alone (R211). -/
theorem Cell.sealLearn_homeVer : ((k.sealLearn t commit now).ver t).homeVer =
    if commit then (k.ver t).homeVer + 1 else (k.ver t).homeVer := by
  cases commit with
  | false => rfl
  | true => exact congrArg Versions.homeVer (Cell.ver_onVer_same _ t fun v => { v with homeVer := v.homeVer + 1 })

end

section
variable (s : State)

/-- What a cell's seal does before its counts rise: VOID records of a void, or a snapshot that waited (R212, R219, R243). -/
def State.beforeSeal (c t : Nat) (d : Bool × Nat) : State :=
  let k := s.cell c
  let mine := ((((s.coord t).reports.find? (fun r => r.cell = c)).map (·.causes)).getD []) ++ k.learnCauses t
  if !d.1 then (s.voidRecords c t mine.dedup).onCell c (fun k => k.standCounters t)
  else if (k.lrn t).phase = .decided then s.takeSnapshot c t ((k.ver t).homeVer + 1) else s

theorem State.beforeSeal_learnt (c t : Nat) (d : Bool × Nat) : (s.beforeSeal c t d).learnt = s.learnt :=
  ite_same State.learnt
    ((State.onCell_learnt _ c fun _ => by rfl).trans (foldl_same State.learnt _ s fun x r => x.err_learnt ..))
    (ite_same State.learnt (s.takeSnapshot_learnt ..) rfl)

/-- The cell's counts have risen, and its coordinator knows (R211). -/
def State.sealCounted (c t : Nat) (d : Bool × Nat) : State :=
  (((s.beforeSeal c t d).onCell c (fun k => k.sealLearn t d.1 (s.time c))).gatherEntries t).onCoord t (fun x =>
    { x with complete := x.complete ++ [c] })

/-- The cell's seal is complete, and a Manager that coordinates has been told (R277). -/
def State.sealTold (c t : Nat) (d : Bool × Nat) : State :=
  let s2 := s.sealCounted c t d
  if (s.coord t).mod then s2
  else s2.sealSend c t (sealBody 3 t 0 d.2 (((s.cell c).run t).jobStep.toNat % 2 ^ 32) ((s2.cell c).ver t).homeVer.toNat 0 0 (s.time c)) []

theorem State.sealDone_eq (c t : Nat) {d : Bool × Nat} (hd : ((s.cell c).lrn t).decision = some d) : s.sealDone c t =
    let x := (s.sealTold c t d).coord t
    if x.group.all x.complete.contains then (s.sealTold c t d).sealRecord t else s.sealTold c t d := by
  have hget : ((s.cell c).lrn t).decision.getD (false, vLINK) = d := by rw [hd, Option.getD_some]
  rw [← hget]
  rfl

theorem State.sealTold_learnt (c t : Nat) (d : Bool × Nat) : (s.sealTold c t d).learnt = (s.sealCounted c t d).learnt :=
  ite_same State.learnt rfl (State.sealSend_reports (.refl _) ..).learnt

theorem State.sealCounted_coord (c t : Nat) (d : Bool × Nat) : ((s.sealCounted c t d).coord t).group = (s.coord t).group ∧
    ((s.sealCounted c t d).coord t).complete = (s.coord t).complete ++ [c] := by
  have hbefore := s.beforeSeal_learnt c t d
  have hgathered := (((s.beforeSeal c t d).onCell c (fun k => k.sealLearn t d.1 (s.time c))).gatherEntries_entryMoves t).stage t
  have hgroup := (congrArg Stage.group hgathered).trans (learnt_group hbefore t)
  have hcomplete := (congrArg Stage.complete hgathered).trans (learnt_complete hbefore t)
  rw [State.sealCounted, State.coord_onCoord_same]
  exact ⟨hgroup, congrArg (· ++ [c]) hcomplete⟩

theorem State.sealCounted_cell (c t : Nat) (d : Bool × Nat) :
    (s.sealCounted c t d).cell c = ((s.beforeSeal c t d).cell c).sealLearn t d.1 (s.time c) := by
  rw [State.sealCounted, State.onCoord_cell, State.gatherEntries, State.onCoord_cell, State.cell_onCell_same]

/-- What a cell's seal leaves, up to the seal record (R208, R211). -/
theorem State.sealTold_spec (c t : Nat) (d : Bool × Nat) :
    (((s.sealTold c t d).cell c).lrn t).phase = .complete ∧
    (((s.sealTold c t d).cell c).run t).jobStep = ((s.cell c).run t).jobStep + 1 ∧
    (((s.sealTold c t d).cell c).ver t).homeVer = (if d.1 then ((s.cell c).ver t).homeVer + 1 else ((s.cell c).ver t).homeVer) ∧
    ((s.sealTold c t d).coord t).group = (s.coord t).group ∧
    ((s.sealTold c t d).coord t).complete = (s.coord t).complete ++ [c] := by
  have htold := s.sealTold_learnt c t d
  have hbefore := s.beforeSeal_learnt c t d
  obtain ⟨hgroup, hcomplete⟩ := s.sealCounted_coord c t d
  rw [learnt_lrn htold, learnt_jobStep htold, learnt_ver htold, learnt_group htold, learnt_complete htold, s.sealCounted_cell,
    Cell.sealLearn_phase, Cell.sealLearn_jobStep, Cell.sealLearn_homeVer, learnt_jobStep hbefore, learnt_ver hbefore]
  exact ⟨rfl, rfl, rfl, hgroup, hcomplete⟩

/-! ### The seal record, and the cells' own steps end (R208, R212) -/

theorem Cell.endLearn_learnt (k : Cell) : k.endLearn.learnt = k.learnt :=
  foldl_learntCell _ k fun _ _ => rfl

theorem State.endLearnStep_learnt (c : Nat) : (s.endLearnStep c).learnt = s.learnt :=
  ite_same State.learnt ((State.rest_learnt ..).trans ((State.boundary_learnt ..).trans (s.onCell_learnt c Cell.endLearn_learnt))) rfl

/-- The seal record is on its way and the coordinator is free again (R212). -/
def State.sealWritten (t rec1 : Nat) : State :=
  (s.learnRecord t t rec1 (s.coord t).entries).onCoord t (fun x => { Coord.reset with recWait := x.recWait })

theorem State.writeSeal_eq (t : Nat) : ∃ rec1, s.writeSeal t = (s.coord t).group.foldl (fun x m => x.onCell m (fun k =>
    k.onLrn t (fun l => { l with phase := .idle, decision := none, causes := [] }))) (s.sealWritten t rec1) := ⟨_, rfl⟩

theorem State.sealRecord_learnt (t : Nat) : (s.sealRecord t).learnt = (s.writeSeal t).learnt :=
  foldl_same State.learnt _ _ fun x _ => x.endLearnStep_learnt ..

/-- After the seal record the step is over at the coordinator and on every cell of the group; counts stand as they were (R208). -/
theorem State.sealRecord_spec (t : Nat) : ((s.sealRecord t).coord t).active = false ∧
    (∀ m ∈ (s.coord t).group, (((s.sealRecord t).cell m).lrn t).phase = .idle) ∧
    ∀ m, (((s.sealRecord t).cell m).run t).jobStep = ((s.cell m).run t).jobStep ∧
      ((s.sealRecord t).cell m).ver t = (s.cell m).ver t := by
  obtain ⟨rec1, hwritten⟩ := s.writeSeal_eq t
  have hend := s.sealRecord_learnt t
  have hrecord := kept_learnt (s.learnRecord_entryMoves t t rec1 (s.coord t).entries).kept
  rw [hwritten] at hend
  refine ⟨?_, fun m hm => ?_, fun m => ⟨?_, ?_⟩⟩
  · rw [learnt_active hend, foldl_same (State.coord · t) _ _ fun _ _ => by rfl, State.sealWritten, State.coord_onCoord_same]
    rfl
  · rw [learnt_lrn hend]
    refine foldl_onCell_reaches (P := fun k => (k.lrn t).phase = .idle) _ hm fun _ _ k => ?_
    rw [k.lrn_onLrn_same]
  · rw [learnt_jobStep hend, foldl_onCell_same _ (fun k => (k.run t).jobStep) _ fun _ _ _ => by rfl]
    exact learnt_jobStep hrecord m t
  · rw [learnt_ver hend, foldl_onCell_same _ (Cell.ver · t) _ fun _ _ _ => by rfl]
    exact learnt_ver hrecord m t

end

/-- SEAL_COMPLETE at a cell that has its decision, and has applied it where it must (R208). -/
theorem sealComplete_answers {time : Nat} {cell : Fin 8} {tenant : Fin 64} {s x : State} {P : State → Prop}
    (hup : (s.at time).cellUp cell = true) (hactive : ((s.at time).coord tenant).active = true)
    (hready : ((s.at time).cell cell).sealReady tenant = true) (hx : (s.at time).sealDone cell tenant = x)
    (hP : ∀ s', EndsAs x s' → P s') : Answers (.sealComplete time cell tenant) s P :=
  .of_run rfl ((if_pos (by rw [hup, hactive, hready]; rfl)).trans hx) hP

/-- Settles O33: the apply pass leaves the cell applied, a cell's seal raises its counts, and the last cell's ends the step. -/
theorem aCommitAppliesAndTheSealCompletes : Obligations.ACommitAppliesAndTheSealCompletes := by
  intro t cell tenant s u k hup
  refine ⟨fun faults hdue => ?apply, fun d hactive hready hd => ?complete⟩
  case apply =>
    obtain ⟨hphase, hver⟩ := u.applyAll_applied cell tenant faults
    refine .of_run rfl (if_pos (by simpa [u, hup] using hdue)) fun s' hs' => ⟨?_, ?_, hs'.silent⟩
    · rw [hs'.lrn, hphase]
    · rw [learnt_ver hs'.learnt, hver]
  case complete =>
    obtain ⟨hphase, hstep, hver, hgroup, hcomplete⟩ := u.sealTold_spec cell tenant d
    have hdone := u.sealDone_eq cell tenant hd
    dsimp only at hdone
    rw [hgroup, hcomplete] at hdone
    by_cases hall : ∀ m ∈ (u.coord tenant).group, m ∈ (u.coord tenant).complete ++ [cell.val]
    · rw [if_pos (by simpa [-State.at_coord] using hall)] at hdone
      obtain ⟨hover, hidle, hcounts⟩ := (u.sealTold cell tenant d).sealRecord_spec tenant
      obtain ⟨hstep', hver'⟩ := hcounts cell
      refine sealComplete_answers hup hactive hready hdone fun s' hs' => ⟨?_, ?_, fun _ => ⟨?_, fun m hm => ?_⟩, fun ⟨m, hm, hno⟩ => ?_⟩
      · rw [learnt_jobStep hs'.learnt, hstep', hstep]
      · rw [learnt_ver hs'.learnt, hver', hver]
      · rw [hs'.coord, hover]
      · rw [hs'.lrn]
        exact hidle m (hgroup ▸ hm)
      · exact absurd (hall m hm) hno
    · rw [if_neg (by simpa [-State.at_coord] using hall)] at hdone
      refine sealComplete_answers hup hactive hready hdone fun s' hs' => ⟨?_, ?_, fun hin => absurd hin hall, fun _ => ⟨?_, ?_⟩⟩
      · rw [learnt_jobStep hs'.learnt, hstep]
      · rw [learnt_ver hs'.learnt, hver]
      · rw [hs'.lrn, hphase]
      · rw [hs'.coord, hcomplete]

end Sys2Proof.Machine

/-! ## ANSWER, BIND, MODE and REPAIR (R214, R218, R235, R241) -/

namespace Sys2Proof.Machine

section
variable {s : State} {c : Nat} {src : Source} {e : Entry}

/-- An ANSWER to the step whose ratio record was written, before its decision, is the host's answer (R235). -/
theorem doAnswer_of_timely (hfields : answerReserved e = false) (hsender : s.mayFor c (e.fld 1 1) src.who = true)
    (hactive : (s.coord (e.fld 1 1)).active = true) (hratio : (s.coord (e.fld 1 1)).ratioAt.isSome = true)
    (hfirst : (s.coord (e.fld 1 1)).answer = none) (hopen : (s.coord (e.fld 1 1)).decision = none)
    (hstep : e.fld 4 4 = (s.coord (e.fld 1 1)).step) : s.doAnswer c src e =
      (s.onCoord (e.fld 1 1) (fun x => { x with answer := some (e.fld 8 1 = 1) })).complete c src e { status := uDONE } := by
  simp [State.doAnswer, hfields, hsender, hactive, hratio, hfirst, hopen, hstep]

/-- A BIND that passes every check while a step of its tenant runs waits for its step; the layer's scale goes on where it was bound before
(R218, R250). -/
theorem doBind_of_accepted (hfields : bindReserved e = false) (hhome : s.homesLayer c (readBinding e).layer = true)
    (hsender : s.mayFor c (readBinding e).tenant src.who = true) (hrule : (s.cell c).ud.knowsRule (readBinding e).rule = true)
    (hnone : ∀ b ∈ (s.cell c).ud.pendBinds, b.layer ≠ (readBinding e).layer) (htensors : (s.cell c).bindTensors (readBinding e) = true)
    (hrunning : ((s.cell c).lrn (readBinding e).tenant).phase = .running)
    (hbound : ((s.cell c).ud.bindOf (readBinding e).layer).isSome = true) :
    s.doBind c src e = (s.setCell c { s.cell c with ud := { (s.cell c).ud with
      pendBinds := (s.cell c).ud.pendBinds ++ [readBinding e] } }).complete c src e { status := uDONE } := by
  have hfree : (s.cell c).ud.pendBinds.any (fun b => b.layer = (readBinding e).layer) = false := by simpa using hnone
  have hrebound : ((s.cell c).ud.bindOf (readBinding e).layer).isNone = false := Option.isNone_eq_false_iff.mpr hbound
  simp only [State.doBind, State.bindDo, hfields, hhome, hsender, hrule, hfree, htensors, hrunning, hrebound, reduceCtorEq, decide_false,
    Bool.not_true, Bool.or_self, Bool.false_and, Bool.false_eq_true, if_false]

/-- A MODE that may follow the U-die's waits for the step boundary (R214). -/
theorem doMode_of_accepted {m : UMode} (hmode : modeOf (e.fld 1 1) = some m) (hfields : e.zeroBytes 2 64 = true)
    (hident : topIdent src.who = true) (hnone : (s.cell c).ud.pendMode = none) (hmove : modeMove (s.cell c).ud.mode m = true) :
    s.doMode c src e = ((s.onCell c (fun k => { k with ud := { k.ud with pendMode := some m } })).boundarySoon c).complete c src e
      { status := uDONE } := by
  simp only [State.doMode, State.modeDo, hmode, hfields, hident, hnone, hmove, Option.isSome_none, Bool.not_true, Bool.false_eq_true,
    if_false]

/-- A REPAIR of a layer that is HELD or recovering, from its working weights, waits for the step boundary (R241). -/
theorem doRepair_of_accepted {b : Binding} (hfields : repairReserved e = false) (hident : topIdent src.who = true)
    (htest : (s.cell c).ud.mode ≠ .test) (hlayer : (s.cell c).ud.held.contains (e.fld 2 2) = true ∨ (s.cell c).ud.mode = .recover)
    (hnone : ∀ r ∈ (s.cell c).ud.repairs, r.2.fld 2 2 ≠ e.fld 2 2) (hbind : (s.cell c).ud.bindOf (e.fld 2 2) = some b)
    (htenant : b.tenant = e.fld 1 1) (hsource : e.fld 4 1 = 2) :
    s.doRepair c src e = ((s.onCell c (fun k => { k with ud := { k.ud with repairs := k.ud.repairs ++ [(src, e)] } })).boundarySoon
      c).complete c src e { status := uDONE } := by
  have hfree : (s.cell c).ud.repairs.any (fun r => r.2.fld 2 2 = e.fld 2 2) = false := by simpa using hnone
  have hmay : ((s.cell c).ud.held.contains (e.fld 2 2) || decide ((s.cell c).ud.mode = .recover)) = true := by simpa using hlayer
  simp only [State.doRepair, State.repairDo, hfields, hident, htest, hmay, hfree, hbind, htenant, hsource, ne_eq, not_true_eq_false,
    decide_true, decide_false, Bool.true_or, Bool.not_true, Bool.or_self, Bool.false_eq_true, if_false]

end

/-- Settles O10: the cell takes the entry, and its effect is that of its kind. -/
theorem learningEntriesTakeEffect : Obligations.LearningEntriesTakeEffect := by
  refine fun t cell src e s => ⟨fun htakes hfields hsender hactive hratio hfirst hopen hstep => ?answer,
    fun htakes hfields hhome hsender hrule hnone htensors hrunning hbound => ?bind,
    fun m htakes hmode hfields hident hnone hmove => ?mode,
    fun b htakes hfields hident htest hlayer hnone hbind htenant hsource => ?repair⟩
  all_goals refine .of_run rfl ((entryAt_of_takes htakes _).trans ?_) fun s' h => h.silent
  case answer => exact doAnswer_of_timely hfields hsender hactive hratio hfirst hopen hstep
  case bind => exact doBind_of_accepted hfields hhome hsender hrule hnone htensors hrunning hbound
  case mode => exact doMode_of_accepted hmode hfields hident hnone hmove
  case repair => exact doRepair_of_accepted hfields hident htest hlayer hnone hbind htenant hsource

end Sys2Proof.Machine

/-! ## RULE LOAD and SNAPSHOT (R222, R243) -/

namespace Sys2Proof.Machine

section
variable {s : State} {c : Nat} {src : Source} {e : Entry}

/-- What the checks of Table 10-6 find in the INT32 tensor that a RULE LOAD names (R222). -/
def State.ruleIn (s : State) (c : Nat) (x : Tensor) : Nat × Option RuleImage :=
  readRule s.flash.keys s.flash.ruleFloor (4096 * x.count) ((s.cell c).tensorNat x 0 (4096 * x.count))

section
variable {x : Tensor} (hreserved : e.fld 2 2 = 0) (hzero : e.zeroBytes 7 64 = true) (hident : topIdent src.who = true)
  (hlow : 0x80 ≤ e.fld 1 1) (hhigh : e.fld 1 1 ≤ 0x83)
  (hunnamed : ∀ b ∈ (s.cell c).ud.binds ++ (s.cell c).ud.pendBinds, b.rule ≠ e.fld 1 1)
  (htensor : (s.cell c).anyInt32 (e.fld 4 3) = some x)
include hreserved hzero hident hlow hhigh hunnamed htensor

/-- A RULE LOAD into an owner slot that no binding names ends as its image's checks do: an image that verifies fills the slot, and one that
does not changes nothing (Table 10-2, R222). -/
theorem ruleLoadDo_of_unnamed : s.ruleLoadDo c src e = (s.ruleIn c x).2.elim (s, (s.ruleIn c x).1) (fun img =>
    (s.setCell c { s.cell c with ud := { (s.cell c).ud with
      rules := (s.cell c).ud.rules.set none (e.fld 1 1 - 0x80) (some img) } }, uDONE)) := by
  have hslot : (decide (e.fld 1 1 < 0x80) || decide (0x83 < e.fld 1 1) ||
      ((s.cell c).ud.binds ++ (s.cell c).ud.pendBinds).any (fun b => b.rule = e.fld 1 1)) = false := by
    simpa [-List.any_append, hlow, hhigh] using hunnamed
  simp only [State.ruleLoadDo, hreserved, hzero, hident, hslot, htensor, ne_eq, not_true_eq_false, decide_false, Bool.not_true, Bool.or_self,
    Bool.false_eq_true, if_false]
  unfold State.ruleIn
  split
  next hrule => rw [hrule, Option.elim_some]
  next hrule => rw [hrule, Option.elim_none]

theorem doRuleLoad_of_good {img : RuleImage} (hgood : (s.ruleIn c x).2 = some img) :
    s.doRuleLoad c src e = (s.setCell c { s.cell c with ud := { (s.cell c).ud with
      rules := (s.cell c).ud.rules.set none (e.fld 1 1 - 0x80) (some img) } }).complete c src e { status := uDONE } := by
  rw [State.doRuleLoad, ruleLoadDo_of_unnamed hreserved hzero hident hlow hhigh hunnamed htensor, hgood, Option.elim_some]

theorem doRuleLoad_of_bad (hbad : (s.ruleIn c x).2 = none) :
    s.doRuleLoad c src e = s.complete c src e { status := (s.ruleIn c x).1 } := by
  rw [State.doRuleLoad, ruleLoadDo_of_unnamed hreserved hzero hident hlow hhigh hunnamed htensor, hbad, Option.elim_none]

end

/-- Tiles that a SNAPSHOT entry's shards take at the cell (R244). -/
def Cell.snapTiles (k : Cell) (e : Entry) : Nat :=
  ((k.homeLayers (e.fld 1 1)).map (fun l => k.shardTiles (e.fld 1 1) l (e.fld 2 1))).sum

/-- The staging tensor that a SNAPSHOT entry asks for, at the lowest free run of tile addresses (R243). -/
def Cell.staging (k : Cell) (e : Entry) : Tensor :=
  { tenant := e.fld 1 1, ident := stageIdent, fmt := e.fld 2 1, flags := 0x10, base := lowestRun (k.snapTiles e) 0 k.runs',
    count := k.snapTiles e, ready := true, freePend := false, digest := 0, holder := none }

section
variable (hfields : snapReserved e = false) (hstep : ((s.cell c).run (e.fld 1 1)).jobStep.toNat % 2 ^ 32 ≤ e.fld 4 4)
  (hsender : s.mayFor c (e.fld 1 1) src.who = true) (hnone : (s.cell c).ud.snaps.get none (e.fld 1 1) = none)
include hfields hstep hsender hnone

/-- A well-formed SNAPSHOT of a tenant with none in progress turns on whether its staging tensor can be allocated (R243). -/
theorem snapshotDo_of_first : s.snapshotDo c src e =
    if (s.cell c).snapTiles e = 0 || 65536 ≤ (s.cell c).tiers.dir.length || (s.cell c).allocFits ((s.cell c).staging e) ≠ 0 ||
        (s.cell c).allocFast ((s.cell c).staging e) < (s.cell c).snapTiles e then (s, some uNOSPACE)
    else (s.setCell c (((s.cell c).addTensor ((s.cell c).staging e)).setSnap (e.fld 1 1)
      (some { src := src, e := e, taken := false, shards := [], step := 0, ver := 0, time := 0, bad := 0 })), none) := by
  simp only [State.snapshotDo, hfields, not_lt.mpr hstep, hsender, hnone, Option.isSome_none, decide_false, Bool.not_true, Bool.or_self,
    Bool.false_eq_true, if_false]
  rfl

/-- A SNAPSHOT whose staging tensor fits allocates it and waits for a committed step (R243). -/
theorem doSnapshot_of_fits (htiles : (s.cell c).snapTiles e ≠ 0) (hlen : (s.cell c).tiers.dir.length < 65536)
    (hfits : (s.cell c).allocFits ((s.cell c).staging e) = 0)
    (hfast : (s.cell c).snapTiles e ≤ (s.cell c).allocFast ((s.cell c).staging e)) :
    s.doSnapshot c src e = s.setCell c (((s.cell c).addTensor ((s.cell c).staging e)).setSnap (e.fld 1 1)
      (some { src := src, e := e, taken := false, shards := [], step := 0, ver := 0, time := 0, bad := 0 })) := by
  rw [State.doSnapshot, snapshotDo_of_first hfields hstep hsender hnone, if_neg (by simp [htiles, hlen, hfits, hfast])]

/-- One whose staging tensor does not fit changes nothing (R243). -/
theorem doSnapshot_of_no_space (hspace : (s.cell c).snapTiles e = 0 ∨ (s.cell c).allocFits ((s.cell c).staging e) ≠ 0 ∨
      (s.cell c).allocFast ((s.cell c).staging e) < (s.cell c).snapTiles e) :
    s.doSnapshot c src e = s.complete c src e { status := uNOSPACE, tag := e.fld 0x10 4 } := by
  rw [State.doSnapshot, snapshotDo_of_first hfields hstep hsender hnone, if_pos]
  rcases hspace with h | h | h <;> simp [h]

end

end

/-- Settles O11: the cell takes the entry; a RULE LOAD's effect is that of its image's checks, a SNAPSHOT's that of its staging tensor. -/
theorem ruleLoadAndSnapshotEntries : Obligations.RuleLoadAndSnapshotEntries := by
  refine fun t cell src e s => ⟨fun x htakes hreserved hzero hident hlow hhigh hunnamed htensor =>
      ⟨fun img hgood => ?good, fun hbad => ?bad⟩,
    fun htakes hfields hstep hsender hnone => ⟨fun htiles hlen hfits hfast => ?fits, fun hspace => ?noSpace⟩⟩
  all_goals refine .of_run rfl ((entryAt_of_takes htakes _).trans ?_) fun s' h => h.silent
  case good => exact doRuleLoad_of_good hreserved hzero hident hlow hhigh hunnamed htensor hgood
  case bad => exact doRuleLoad_of_bad hreserved hzero hident hlow hhigh hunnamed htensor hbad
  case fits => exact doSnapshot_of_fits hfields hstep hsender hnone htiles hlen hfits hfast
  case noSpace => exact doSnapshot_of_no_space hfields hstep hsender hnone hspace

end Sys2Proof.Machine

/-! ## What a completion leaves of tiers, update dies and fetches (R147, R214, R262, R340) -/

namespace Sys2Proof.Machine

/-- The tiers, the update die and the transfers in progress of each cell. -/
def State.holdings (s : State) (c : Nat) : Tiers × UDie × List FetchRun := ((s.cell c).tiers, (s.cell c).ud, (s.cell c).fetches)

theorem holdings_tiers {s s' : State} (h : s'.holdings = s.holdings) (c : Nat) : (s'.cell c).tiers = (s.cell c).tiers :=
  congrArg Prod.fst (congrFun h c)

theorem holdings_ud {s s' : State} (h : s'.holdings = s.holdings) (c : Nat) : (s'.cell c).ud = (s.cell c).ud :=
  congrArg (fun x => x.2.1) (congrFun h c)

theorem holdings_fetches {s s' : State} (h : s'.holdings = s.holdings) (c : Nat) : (s'.cell c).fetches = (s.cell c).fetches :=
  congrArg (fun x => x.2.2) (congrFun h c)

theorem Reports.holdings {s s' : State} (h : Reports s s') : s'.holdings = s.holdings := by
  funext c
  obtain ⟨e, p, q, hc⟩ := h.cell c
  simp only [State.holdings, hc]

section
variable (s : State)

theorem State.dropRec_holdings (n : Nat) : (s.dropRec n).holdings = s.holdings := by
  have dropped (e : Ev) : ((s.onFn n (fun h => { h with lastDrop := some s.now })).errLocal 0 e).holdings = s.holdings :=
    (State.errLocal_reports (.refl _) 0 e).holdings
  unfold State.dropRec
  dsimp only
  split
  · exact ite_same State.holdings rfl (dropped _)
  · exact dropped _

theorem State.queueRec_holdings (n : Nat) (r : QRec) : (s.queueRec n r).holdings = s.holdings := by
  have hdone : (s.recDone r).holdings = s.holdings := by
    funext c
    rw [State.holdings, State.holdings, State.cell, State.cell, s.recDone_cells]
  exact ite_same State.holdings rfl (ite_same State.holdings ((State.dropRec_holdings ..).trans hdone) hdone)

theorem State.wake_holdings (c : Nat) : (s.wake c).holdings = s.holdings := by
  refine ite_same State.holdings (funext fun d => ?_) rfl
  simp only [State.holdings, State.cell_setCell]
  split
  · subst_vars
    rfl
  · rfl

theorem State.raiseEvent_holdings (n : Nat) (who : BitVec 8) : (s.raiseEvent n who).holdings = s.holdings :=
  ite_same State.holdings (State.msix_reports (.refl s) ..).holdings
    (ite_same State.holdings rfl (ite_same State.holdings (s.wake_holdings _) rfl))

theorem State.ring_holdings (n : Nat) (ab : Bool) : (s.ring n ab).holdings = s.holdings :=
  ite_same State.holdings (State.mail_reports (.refl _) ..).holdings (ite_same State.holdings rfl (State.raiseEvent_holdings ..))

theorem State.complete_holdings (c : Nat) (src : Source) (e : Entry) (d : Done) : (s.complete c src e d).holdings = s.holdings := by
  unfold State.complete
  split
  · exact s.queueRec_holdings ..
  · exact (State.mail_reports (.refl s) ..).holdings
  · exact ite_same State.holdings rfl (State.ring_holdings ..)

end

end Sys2Proof.Machine

/-! ## The end of a snapshot (R243 to R245) -/

namespace Sys2Proof.Machine

/-- A staged tile holds its check value and carries no poison (R245). -/
def Tile.Whole (y : Tile) : Prop := y.tag.poison = false ∧ y.tag.check = payloadCrc y.payload

/-- Tiles that a list of shards takes (R244). -/
def shardSum (l : List (Nat × Nat × Nat × Nat)) : Nat := (l.map (fun h => h.2.2.2)).sum

/-- The tenant's snapshot was taken, and nothing in the cell keeps it from being published (R245). -/
structure Publishable (s : State) (c tenant : Nat) (x : Snap) : Prop where
  held   : (s.cell c).ud.snaps.get none tenant = some x
  taken  : x.taken = true
  bad    : x.bad = 0
  tiles  : ∀ y ∈ (List.range (shardSum x.shards)).map ((s.cell c).stagedTile tenant), y.Whole
  shards : ∀ h ∈ x.shards, ∀ i, i < h.2.2.2 → ((s.cell c).stagedTile tenant (h.2.2.1 + i)).Whole
  key    : (s.cell s.identityCell).keyOk = true

/-- The way out of a snapshot stands: its transfers succeed, and to host memory the host is reached (R244, R245). -/
def State.snapWay (s : State) (x : Snap) (linkOk : Bool) : Bool := linkOk && (x.e.fld 3 1 ≠ 0 || s.hostUp)

/-- The tenant's snapshot is over at the cell: its staging tensor is freed (R243, R245). -/
def State.dropSnap (s : State) (c tenant : Nat) : State := s.onCell c (fun k => (k.dropTensor tenant stageIdent).setSnap tenant none)

/-- The cell holds neither a pending snapshot of the tenant nor its staging tensor. -/
def State.SnapGone (s : State) (c tenant : Nat) : Prop :=
  (s.cell c).ud.snaps.get none tenant = none ∧ ∀ y ∈ (s.cell c).tiers.dir, y.tenant ≠ tenant ∨ y.ident ≠ stageIdent

theorem State.dropSnap_gone (s : State) (c tenant : Nat) : (s.dropSnap c tenant).SnapGone c tenant := by
  rw [State.SnapGone, State.dropSnap, State.cell_onCell_same]
  refine ⟨by simp [Cell.setSnap], fun y hy => ?_⟩
  obtain ⟨-, hother⟩ : y ∈ (s.cell c).tiers.dir ∧ _ := List.mem_filter.mp hy
  simpa [imp_iff_not_or] using hother

theorem State.SnapGone.complete {s : State} {c tenant : Nat} (h : s.SnapGone c tenant) (src : Source) (e : Entry) (d : Done) :
    (s.complete c src e d).SnapGone c tenant := by
  have hheld := s.complete_holdings c src e d
  rwa [State.SnapGone, holdings_ud hheld, holdings_tiers hheld]

theorem EndsAs.snapGone {x s' : State} (h : EndsAs x s') {c tenant : Nat} (hx : x.SnapGone c tenant) : s'.SnapGone c tenant := by
  rwa [State.SnapGone, holdings_ud h.reports.holdings, holdings_tiers h.reports.holdings]

theorem shardSum_le_of_sublist {l m : List (Nat × Nat × Nat × Nat)} (h : l.Sublist m) : shardSum l ≤ shardSum m :=
  (h.map _).sum_le_sum fun _ _ => Nat.zero_le _

section
variable {s : State} {c tenant : Nat} {x : Snap} {linkOk : Bool}

/-- No more tiles are delivered than the shards hold (R245). -/
theorem deliveredTiles_le : (s.deliveredTiles c tenant x linkOk).2 ≤ shardSum x.shards := by
  unfold State.deliveredTiles
  dsimp only
  split_ifs
  · exact Nat.zero_le _
  · exact shardSum_le_of_sublist (List.takeWhile_sublist _)
  · exact le_rfl
  · exact shardSum_le_of_sublist (List.take_sublist ..)

/-- To host memory nothing is delivered while the host is not reached (R245). -/
theorem deliveredTiles_of_no_host (hway : x.e.fld 3 1 = 0) (hhost : s.hostUp = false) : s.deliveredTiles c tenant x linkOk = (s, 0) := by
  simp [State.deliveredTiles, hway, hhost]

/-- All tiles are delivered where nothing keeps the snapshot back and its way out stands (R244). -/
theorem deliveredTiles_of_way (h : Publishable s c tenant x) (hway : s.snapWay x linkOk = true) :
    s.deliveredTiles c tenant x linkOk = (s, shardSum x.shards) := by
  obtain ⟨hlink, hout⟩ : linkOk = true ∧ (x.e.fld 3 1 = 0 → s.hostUp = true) := by
    simpa [State.snapWay, or_iff_not_imp_left] using hway
  have hback : (x.bad ≠ 0 || (x.e.fld 3 1 = 0 && !s.hostUp)) = false := by simpa [h.bad] using hout
  have hgood : x.shards.all (fun y => (List.range y.2.2.2).all (fun i =>
      !((s.cell c).stagedTile tenant (y.2.2.1 + i)).tag.poison &&
        ((s.cell c).stagedTile tenant (y.2.2.1 + i)).tag.check = payloadCrc ((s.cell c).stagedTile tenant (y.2.2.1 + i)).payload)) = true := by
    simpa [Tile.Whole] using h.shards
  simp only [State.deliveredTiles, hback, hgood, hlink, Bool.not_true, Bool.false_eq_true, if_false, if_true]
  rfl

/-- A snapshot that nothing in the cell keeps back ends as its way out does: with the shards and then the manifest, or with LINK after the
shards that went before (R244, R245). -/
theorem endSnapshot_of_publishable (h : Publishable s c tenant x) :
    let d := s.deliveredTiles c tenant x linkOk
    let sent := d.1.sendShards c tenant x d.2
    s.endSnapshot c tenant linkOk = if s.snapWay x linkOk then
      ((sent.sendManifest c tenant x).dropSnap c tenant).complete c x.src x.e { status := uDONE, tag := x.e.fld 0x10 4 }
    else
      let lost : Ev := { cls := clsLINK, sev := 2, unit := 2, tenant := tenant, reason := vLINK, detail := x.e.fld 0x10 4 }
      ((sent.err c lost).dropSnap c tenant).complete c x.src x.e { status := uDONE, reason := vLINK, tag := x.e.fld 0x10 4 } := by
  have hpoison : ((List.range (shardSum x.shards)).map ((s.cell c).stagedTile tenant)).any (·.tag.poison) = false :=
    List.any_eq_false.mpr fun y hy => by simp [(h.tiles y hy).1]
  have hcheck : ((List.range (shardSum x.shards)).map ((s.cell c).stagedTile tenant)).any
      (fun y => y.tag.check ≠ payloadCrc y.payload) = false :=
    List.any_eq_false.mpr fun y hy => by simp [(h.tiles y hy).2]
  unfold shardSum at hpoison hcheck
  have hblocked : (!linkOk || (decide (x.e.fld 3 1 = 0) && !s.hostUp)) = !s.snapWay x linkOk := by
    simp [State.snapWay]
  simp only [State.endSnapshot, h.held, h.taken, h.bad, hpoison, hcheck, h.key, hblocked, ne_eq, not_true_eq_false, Bool.not_true,
    Bool.or_self, Bool.false_eq_true, if_false]
  cases s.snapWay x linkOk
  case false => rfl
  case true =>
    simp only [Bool.not_true, Bool.false_eq_true, if_false, if_true]
    rfl

/-- SNAPSHOT_TRANSFER of a cell in service leaves nothing of the snapshot behind. -/
theorem snapshotTransfer_answers {t : Nat} {cell : Fin 8} {tenant : Fin 64} {y : State} {d : Done} (hup : (s.at t).cellUp cell = true)
    (hend : (s.at t).endSnapshot cell tenant linkOk = (y.dropSnap cell tenant).complete cell x.src x.e d) {P : State → Prop}
    (hP : ∀ s', s'.SnapGone cell tenant → s'.silent = ((y.dropSnap cell tenant).complete cell x.src x.e d).silent → P s') :
    Answers (.snapshotTransfer t cell tenant linkOk) s P :=
  .of_run rfl ((if_pos hup).trans hend) fun s' hs' => hP s' (hs'.snapGone ((y.dropSnap_gone ..).complete ..)) hs'.silent

end

/-- Settles O34: the snapshot ends as its way out does, and either way nothing of it is left at the cell. -/
theorem aSnapshotIsPublishedOrDropped : Obligations.ASnapshotIsPublishedOrDropped := by
  intro t cell tenant linkOk x s u k tiles gone whole left hup hheld htaken hbad htiles hshards hkey
  have h : Publishable u cell tenant x := ⟨hheld, htaken, hbad, htiles, hshards, hkey⟩
  have hlen : tiles.length = shardSum x.shards := by simp [tiles, shardSum]
  have hend := endSnapshot_of_publishable (linkOk := linkOk) h
  dsimp only at hend
  refine ⟨fun hlink hout => ?published, fun hfailed => ?dropped⟩
  case published =>
    have hway : u.snapWay x linkOk = true := by simpa [State.snapWay, hlink] using hout
    rw [if_pos hway, deliveredTiles_of_way h hway, ← hlen] at hend
    exact snapshotTransfer_answers hup hend fun s' hgone hsilent => ⟨hgone, hsilent⟩
  case dropped =>
    have hno : ¬ u.snapWay x linkOk = true := by
      rcases hfailed with hlink | ⟨hto, hhost⟩
      · simp [State.snapWay, hlink]
      · simp [State.snapWay, hto, hhost]
    rw [if_neg hno] at hend
    exact snapshotTransfer_answers hup hend fun s' hgone hsilent =>
      ⟨hgone, hlen ▸ deliveredTiles_le, deliveredTiles_of_no_host, hsilent⟩

end Sys2Proof.Machine

/-! ## FETCH and REFETCH end (R244, R262, R325) -/

namespace Sys2Proof.Machine

/-! ### What they leave of a cell's transfers -/

theorem Cell.Tiered.fetches {k k' : Cell} (h : k.Tiered k') : k'.fetches = k.fetches :=
  (congrArg Cell.fetches (show k' = { k with tiers := k'.tiers } from h) :)

theorem foldl_tiered {β : Type} (l : List β) (k : Cell) {f : Cell → β → Cell} (hf : ∀ (x : Cell) b, x.Tiered (f x b)) :
    k.Tiered (l.foldl f k) :=
  List.foldlRecOn (motive := fun x : Cell => k.Tiered x) l f (.refl k) fun x h b _ => h.trans (hf x b)

theorem Cell.shardTile_tiered (k : Cell) (d : Tensor) (shard : List Byte) (ver : Option (BitVec 16)) (i : Nat) :
    k.Tiered (k.shardTile d shard ver i) := rfl

theorem Cell.fillTensor_tiered (k : Cell) (d : Tensor) (shard : List Byte) (ver : BitVec 16) : k.Tiered (k.fillTensor d shard ver) :=
  foldl_tiered _ k fun x i => x.shardTile_tiered d shard (some ver) i

theorem Cell.makeReady_tiered (k : Cell) (d : Tensor) : k.Tiered (k.makeReady d) :=
  (foldl_tiered (List.range d.total) k fun x _ => show x.Tiered (x.setEnt _ _) from rfl).trans rfl

theorem Cell.dropTensor_tiered (k : Cell) (tenant : Nat) (ident : BitVec 24) : k.Tiered (k.dropTensor tenant ident) := rfl

theorem Cell.newWeights_fetches (k : Cell) (tenant : Nat) (layers : List Nat) (ver : BitVec 16) :
    (k.newWeights tenant layers ver).fetches = k.fetches := by
  unfold Cell.newWeights
  split <;> rfl

section
variable (s : State) (c : Nat)

theorem State.freeLoading_fetches (d : Tensor) : ((s.freeLoading c d).cell c).fetches = (s.cell c).fetches := by
  have hdropped : ((s.onCell c (fun k => k.dropTensor d.tenant d.ident)).cell c).fetches = (s.cell c).fetches := by
    rw [State.cell_onCell_same]
    exact (Cell.dropTensor_tiered ..).fetches
  exact ite_same (fun x => (x.cell c).fetches) hdropped hdropped

/-- The shard's bytes fill the tensor, which is READY; a shared one takes the FETCH as its origin (R262, R325). -/
def State.shardIn (f : FetchRun) (d : Tensor) (m : Manifest) (shard : List Byte) : State :=
  let s1 := (s.storeManifest m).onCell c (fun k => (k.fillTensor d shard m.ver).makeReady d)
  if d.tenant = 0xFF then s1.onShared d.ident d.digest (fun x => { x with origin := some f.e }) else s1

theorem State.shardIn_fetches (f : FetchRun) (d : Tensor) (m : Manifest) (shard : List Byte) :
    ((s.shardIn c f d m shard).cell c).fetches = (s.cell c).fetches := by
  have hfilled : (((s.storeManifest m).onCell c (fun k => (k.fillTensor d shard m.ver).makeReady d)).cell c).fetches =
      (s.cell c).fetches := by
    rw [State.cell_onCell_same]
    exact ((Cell.fillTensor_tiered ..).trans (Cell.makeReady_tiered ..)).fetches
  exact ite_same (fun x => (x.cell c).fetches) hfilled hfilled

/-- Past the filled tensor, a shard that is taken changes versions and the list of working weights alone (R251, R262). -/
theorem State.takeShard_fetches (f : FetchRun) (d : Tensor) (m : Manifest) (shard : List Byte) :
    ((s.takeShard c f d m shard).cell c).fetches = (s.cell c).fetches := by
  have hin := s.shardIn_fetches c f d m shard
  refine ite_same (fun x => (x.cell c).fetches) ?_ hin
  rw [State.cell_onCell_same]
  exact (Cell.newWeights_fetches ..).trans hin

/-- The transfer that ended leaves the cell's list (R262). -/
theorem State.endFetch_fetches (f : FetchRun) (status : Nat) : ((s.endFetch c f status).cell c).fetches = (s.cell c).fetches.tail := by
  have hleft : ((s.onCell c (fun k => { k with fetches := k.fetches.tail })).cell c).fetches = (s.cell c).fetches.tail := by
    rw [State.cell_onCell_same]
  exact ite_same (fun x => (x.cell c).fetches) hleft ((holdings_fetches (State.complete_holdings ..) c).trans hleft)

end

/-! ### A FETCH (R262) -/

section
variable {s : State} {c : Nat} {linkOk : Bool} {shard : List Byte} {f : FetchRun} {d mt : Tensor}

/-- The transfer of a FETCH has come: no fault, and from host memory the host is reached. -/
def State.fetchWay (s : State) (f : FetchRun) (linkOk : Bool) : Bool := linkOk && (f.e.fld 7 1 ≠ 1 || s.hostUp)

/-- What the manifest held in tensor `mt` is found to be (R244). -/
def State.manifestIn (s : State) (c : Nat) (mt : Tensor) : ManifestOut :=
  s.readManifest c (4096 * mt.count) ((s.cell c).tensorNat mt 0 (4096 * mt.count))

theorem fetch_blocked : (!linkOk || (decide (f.e.fld 7 1 = 1) && !s.hostUp)) = !s.fetchWay f linkOk := by simp [State.fetchWay]

section
variable (hdest : (s.cell c).fetchDest f.e = some d) (hman : (s.cell c).ownTensor (f.e.fld 1 1) (f.e.fld 0x10 3) = some mt)
include hdest hman

theorem fetchDone_of_no_way (hway : s.fetchWay f linkOk = false) : s.fetchDone c linkOk shard f = s.endFetch c f ftLINK := by
  simp only [State.fetchDone, hdest, hman, fetch_blocked, hway, Bool.not_false, if_true]

variable (hway : s.fetchWay f linkOk = true)
include hway

theorem fetchDone_of_noKey (hout : s.manifestIn c mt = .noKey) : s.fetchDone c linkOk shard f = s.endFetch c f ftLINK := by
  unfold State.manifestIn at hout
  simp only [State.fetchDone, hdest, hman, fetch_blocked, hway, hout, Bool.not_true, Bool.false_eq_true, if_false]

theorem fetchDone_of_bad (hout : s.manifestIn c mt = .bad) :
    s.fetchDone c linkOk shard f = (s.freeLoading c d).endFetch c f ftDIGEST := by
  unfold State.manifestIn at hout
  simp only [State.fetchDone, hdest, hman, fetch_blocked, hway, hout, Bool.not_true, Bool.false_eq_true, if_false]

/-- Under a manifest that holds, the shard is taken or the tensor freed as layer, length and digest agree (R262). -/
theorem fetchDone_of_good {m : Manifest} (hout : s.manifestIn c mt = .good m) {l kd len : Nat} {h : BitVec 256}
    (hentry : m.entries[f.e.fld 0x14 4]? = some (l, kd, len, h)) : s.fetchDone c linkOk shard f =
      if decide (l = f.e.fld 2 2) && decide (len = 4096 * d.count) && decide (shard.length = len) && decide (h = sha3 shard) then
        (s.takeShard c f d m shard).endFetch c f ftDONE
      else ((s.storeManifest m).freeLoading c d).endFetch c f ftDIGEST := by
  unfold State.manifestIn at hout
  simp only [State.fetchDone, hdest, hman, fetch_blocked, hway, hout, hentry, Bool.not_true, Bool.false_eq_true, if_false]

end

/-! ### A REFETCH (R325) -/

/-- The transfer of a REFETCH has come: no fault, and from host memory the host is reached. -/
def State.refetchWay (s : State) (f : FetchRun) (linkOk : Bool) : Bool := linkOk && (f.e.fld 3 1 ≠ 1 || s.hostUp)

theorem refetch_blocked : (!linkOk || (decide (f.e.fld 3 1 = 1) && !s.hostUp)) = !s.refetchWay f linkOk := by simp [State.refetchWay]

section
variable (hheld : (s.cell c).heldShared (f.e.fld 4 3) = some d) (hman : (s.cell c).ownTensor (f.e.fld 2 1) (f.e.fld 0x10 3) = some mt)
include hheld hman

theorem refetchDone_of_no_way (hway : s.refetchWay f linkOk = false) : s.refetchDone c linkOk shard f = s.endFetch c f rxLINK := by
  simp only [State.refetchDone, hheld, hman, refetch_blocked, hway, Bool.not_false, if_true]

variable (hpoison : (s.cell c).poisonedOf d ≠ []) (hway : s.refetchWay f linkOk = true)
include hpoison hway

theorem refetchDone_of_noKey (hout : s.manifestIn c mt = .noKey) : s.refetchDone c linkOk shard f = s.endFetch c f rxLINK := by
  unfold State.manifestIn at hout
  simp only [State.refetchDone, hheld, hman, refetch_blocked, hway, List.isEmpty_eq_false_iff.mpr hpoison, hout, Bool.not_true,
    Bool.false_eq_true, if_false]

theorem refetchDone_of_bad (hout : s.manifestIn c mt = .bad) : s.refetchDone c linkOk shard f = s.endFetch c f rxDIGEST := by
  unfold State.manifestIn at hout
  simp only [State.refetchDone, hheld, hman, refetch_blocked, hway, List.isEmpty_eq_false_iff.mpr hpoison, hout, Bool.not_true,
    Bool.false_eq_true, if_false]

/-- Under a manifest that holds, the poisoned tiles are restored where the whole shard has its length and digest (R325). -/
theorem refetchDone_of_good {m : Manifest} (hout : s.manifestIn c mt = .good m) {l kd len : Nat} {h : BitVec 256}
    (hentry : m.entries[f.e.fld 0x14 4]? = some (l, kd, len, h)) : s.refetchDone c linkOk shard f =
      if decide (len = 4096 * d.count) && decide (h = sha3 ((s.cell c).mixedBytes d ((s.cell c).poisonedOf d) shard)) then
        ((s.storeManifest m).onCell c (fun k => (k.poisonedOf d).foldl (fun k i => k.shardTile d shard none i) k)).endFetch c f rxDONE
      else (s.storeManifest m).endFetch c f rxDIGEST := by
  unfold State.manifestIn at hout
  simp only [State.refetchDone, hheld, hman, refetch_blocked, hway, List.isEmpty_eq_false_iff.mpr hpoison, hout, hentry, Bool.not_true,
    Bool.false_eq_true, if_false]
  rfl

end

end

/-! ### FETCH_COMPLETE -/

section
variable {s z : State} {t st : Nat} {cell : Fin 8} {linkOk : Bool} {shard : List Byte} {f : FetchRun} {rest : List FetchRun}
  (hlist : ((s.at t).cell cell).fetches = f :: rest) (hup : (s.at t).cellUp cell = true)
  (hz : (z.cell cell).fetches = ((s.at t).cell cell).fetches)
include hlist hup hz

/-- FETCH_COMPLETE ends the first transfer of a cell in service. -/
theorem fetchComplete_answers (hend : (if f.e.fld 0 1 = 0x25 then (s.at t).refetchDone cell linkOk shard f
      else (s.at t).fetchDone cell linkOk shard f) = z.endFetch cell f st) :
    Answers (.fetchComplete t cell linkOk shard) s (fun s' =>
      s'.silent = (z.endFetch cell f st).silent ∧ (s'.cell cell).fetches = rest) := by
  refine .of_run (x := z.endFetch cell f st) rfl ?_ fun s' hs' => ⟨hs'.silent, ?_⟩
  · rw [hlist]
    simpa only [hup, Bool.not_true, Bool.false_eq_true, if_false] using hend
  · rw [holdings_fetches hs'.reports.holdings, z.endFetch_fetches, hz, hlist, List.tail_cons]

theorem fetchComplete_of_fetch (hkind : f.e.fld 0 1 = 0x24) (hend : (s.at t).fetchDone cell linkOk shard f = z.endFetch cell f st) :
    Answers (.fetchComplete t cell linkOk shard) s (fun s' =>
      s'.silent = (z.endFetch cell f st).silent ∧ (s'.cell cell).fetches = rest) :=
  fetchComplete_answers hlist hup hz ((if_neg (by omega)).trans hend)

theorem fetchComplete_of_refetch (hkind : f.e.fld 0 1 = 0x25) (hend : (s.at t).refetchDone cell linkOk shard f = z.endFetch cell f st) :
    Answers (.fetchComplete t cell linkOk shard) s (fun s' =>
      s'.silent = (z.endFetch cell f st).silent ∧ (s'.cell cell).fetches = rest) :=
  fetchComplete_answers hlist hup hz ((if_pos hkind).trans hend)

end

/-- Settles O37: a transfer that failed ends with LINK; one that came ends as its manifest, its length and its digest say. -/
theorem aFetchIsAcceptedOrFails : Obligations.AFetchIsAcceptedOrFails := by
  intro t cell linkOk shard f rest s u k ends hlist hup
  refine ⟨?fetch, ?refetch⟩
  case fetch =>
    intro d mt hkind hdest hman up man
    have answers {z : State} {st : Nat} := fetchComplete_of_fetch (linkOk := linkOk) (shard := shard) (z := z) (st := st) hlist hup
    refine ⟨fun hno => answers rfl hkind (fetchDone_of_no_way hdest hman ((Bool.not_eq_true' _).mp hno)),
      fun hout hway => answers rfl hkind (fetchDone_of_noKey hdest hman hway hout),
      fun hout hway => answers (u.freeLoading_fetches ..) hkind (fetchDone_of_bad hdest hman hway hout),
      fun m l kd len h hout hentry => ⟨fun hc => ?taken, fun hc => ?freed⟩⟩
    case taken =>
      obtain ⟨hway, hsame⟩ := (Bool.and_eq_true ..).mp hc
      exact answers (u.takeShard_fetches ..) hkind ((fetchDone_of_good hdest hman hway hout hentry).trans (if_pos hsame))
    case freed =>
      obtain ⟨hway, hsame⟩ : _ ∧ _ = false := by simpa only [Bool.and_eq_true, Bool.not_eq_true'] using hc
      exact answers ((u.storeManifest m).freeLoading_fetches ..) hkind
        ((fetchDone_of_good hdest hman hway hout hentry).trans (if_neg (Bool.eq_false_iff.mp hsame)))
  case refetch =>
    intro d mt hkind hheld hman hpoison up man
    have answers {z : State} {st : Nat} := fetchComplete_of_refetch (linkOk := linkOk) (shard := shard) (z := z) (st := st) hlist hup
    refine ⟨fun hno => answers rfl hkind (refetchDone_of_no_way hheld hman ((Bool.not_eq_true' _).mp hno)),
      fun hout hway => answers rfl hkind (refetchDone_of_noKey hheld hman hpoison hway hout),
      fun hout hway => answers rfl hkind (refetchDone_of_bad hheld hman hpoison hway hout),
      fun m l kd len h hout hentry => ⟨fun hc => ?restored, fun hc => ?refused⟩⟩
    case restored =>
      obtain ⟨hway, hsame⟩ := (Bool.and_eq_true ..).mp hc
      refine answers ?_ hkind ((refetchDone_of_good hheld hman hpoison hway hout hentry).trans (if_pos hsame))
      rw [State.cell_onCell_same]
      exact (foldl_tiered _ _ fun x i => x.shardTile_tiered d shard none i).fetches
    case refused =>
      obtain ⟨hway, hsame⟩ : _ ∧ _ = false := by simpa only [Bool.and_eq_true, Bool.not_eq_true'] using hc
      exact answers rfl hkind ((refetchDone_of_good hheld hman hpoison hway hout hentry).trans (if_neg (Bool.eq_false_iff.mp hsame)))

end Sys2Proof.Machine

/-! ## VERSION, FETCH and REFETCH at their cell (R262 to R264, R325) -/

namespace Sys2Proof.Machine

/-- The SINGLE push that a VERSION entry opens (R264). -/
def singlePush (src : Source) (e : Entry) : Push :=
  { src := src, e := e, single := true, ver := BitVec.ofNat 16 (e.fld 4 2), start := e.fld 8 8, hold := false }

section
variable {s : State} {src : Source} {e : Entry}

/-- A well-formed VERSION for a SINGLE push of the version that every home has, at the lead of a group with none in progress and none
retained, opens the push on every cell of the group (R263, R264). -/
theorem doVersion_of_single {c : Fin 8} (hcell : e.fld 2 1 = c) (hfields : versionReserved e = false) (hident : topIdent src.who = true)
    (hlead : s.isLead c = true) (hgen : (((s.cell c).tenantRec (e.fld 1 1)).map (·.gen)).getD false = true)
    (hhomes : ∀ h ∈ s.homesOf c, ((s.cell h).ver (e.fld 1 1)).homeVer = BitVec.ofNat 16 (e.fld 4 2))
    (hself : newer (BitVec.ofNat 16 (e.fld 4 2)) (BitVec.ofNat 16 (e.fld 4 2)) = false)
    (hret : ((s.cell c).ver (e.fld 1 1)).retLive = false) (hpush : ((s.cell c).ver (e.fld 1 1)).push = none) (hmode : e.fld 3 1 = 2) :
    s.doVersion c src e = s.onCells (s.groupOf c) (fun x => x.onVer (e.fld 1 1) (fun y =>
      { y with push := some (singlePush src e), incoming := some (BitVec.ofNat 16 (e.fld 4 2)) })) := by
  have hseven : ¬7 < c.val := by omega
  have hnone : ((s.homesOf c).map (fun h => ((s.cell h).ver (e.fld 1 1)).homeVer)).any
      (fun m => newer m (BitVec.ofNat 16 (e.fld 4 2))) = false := by
    simpa using fun h hh => (hhomes h hh).symm ▸ hself
  have hsame : ((s.homesOf c).map (fun h => ((s.cell h).ver (e.fld 1 1)).homeVer)).any
      (fun m => m ≠ BitVec.ofNat 16 (e.fld 4 2)) = false := by simpa using hhomes
  unfold State.doVersion
  simp only [hcell, hseven, hfields, hident, hlead, hgen, hnone, hsame, hret, hpush, hmode, ne_eq, not_true_eq_false, decide_false,
    decide_true, Option.isSome_none, Bool.not_true, Bool.or_self, Bool.false_and, Bool.false_eq_true, if_false, if_true, OfNat.ofNat_ne_one]
  rfl

variable {c : Nat}

/-- A FETCH of a placed layer with its destination and its manifest in order begins its transfer (R262). -/
theorem doFetch_of_accepted (hfields : fetchReserved e = false) (hsender : s.mayFor c (e.fld 1 1) src.who = true)
    (hplaced : s.layerPlaced c (e.fld 2 2) = true) (hdest : ((s.cell c).fetchDest e).isSome = true)
    (hman : ((s.cell c).ownTensor (e.fld 1 1) (e.fld 0x10 3)).any (fun x => x.ready && x.fmt = 0x11) = true) :
    s.doFetch c src e = s.onCell c (fun k => { k with fetches := k.fetches ++ [{ src := src, e := e }] }) := by
  have hloading : ((s.cell c).fetchDest e).isNone = false := Option.isNone_eq_false_iff.mpr hdest
  simp only [State.doFetch, hfields, hsender, hplaced, hloading, hman, Bool.not_true, Bool.or_self, Bool.false_eq_true, if_false]

/-- A well-formed REFETCH of a shared tensor that the cell holds turns on whether a tile of it is poisoned (R325). -/
theorem doRefetch_of_held {x : Tensor} (hcell : e.fld 1 1 = c) (hfields : refetchReserved e = false) (hident : topIdent src.who = true)
    (hman : ((s.cell c).ownTensor (e.fld 2 1) (e.fld 0x10 3)).any (fun y => y.fmt = 0x11) = true)
    (hheld : (s.cell c).heldShared (e.fld 4 3) = some x) : s.doRefetch c src e =
      if ((s.cell c).poisonedOf x).isEmpty then s.complete c src e { status := rxCLEAN }
      else s.onCell c (fun k => { k with fetches := k.fetches ++ [{ src := src, e := e }] }) := by
  simp only [State.doRefetch, hcell, hfields, hident, hman, hheld, ne_eq, not_true_eq_false, Bool.not_true, Bool.false_eq_true, if_false]

end

/-- Settles O12: the cell takes the entry, and its effect is that of its kind. -/
theorem versionFetchAndRefetchEntries : Obligations.VersionFetchAndRefetchEntries := by
  refine fun t cell src e s => ⟨fun htakes hcell hfields hident hlead hgen hhomes hself hret hpush hmode => ?version,
    fun htakes hfields hsender hplaced hdest hman => ?fetch,
    fun x htakes hcell hfields hident hman hheld => ⟨fun hpoison => ?poisoned, fun hclean => ?clean⟩⟩
  all_goals refine .of_run rfl ((entryAt_of_takes htakes _).trans ?_) fun s' h => h.silent
  case version => exact doVersion_of_single hcell hfields hident hlead (gen_of_tenantRec hgen) hhomes hself hret hpush hmode
  case fetch => exact doFetch_of_accepted hfields hsender hplaced hdest hman
  case poisoned => exact (doRefetch_of_held hcell hfields hident hman hheld).trans (if_neg (Bool.eq_false_iff.mp hpoison))
  case clean => exact (doRefetch_of_held hcell hfields hident hman hheld).trans (if_pos hclean)

end Sys2Proof.Machine

/-! ## The hold of a push and the switch of the version pointer (R252 to R254, R257, R263, R264) -/

namespace Sys2Proof.Machine

section
variable {s : State} {t : Nat} {cell : Fin 8} {tenant : Fin 64}

/-- At its start, with nothing pinned and no step of the group running, a SINGLE push of a lead begins its hold, or ends STALE where a home
has overtaken it (R263, R264). -/
theorem pushHoldBegin_answers {p : Push} {x : State} (hpush : (((s.at t).cell cell).ver tenant).push = some p)
    (hlead : (s.at t).isLead cell = true) (hsingle : p.single = true) (hhold : p.hold = false) (hstart : p.start ≤ (s.at t).time cell)
    (hpins : (((s.at t).cell cell).ver tenant).curPins = 0)
    (hrest : ∀ m ∈ (s.at t).groupOf cell, ((s.at t).cell m).step.running = false)
    (hx : (if ((s.at t).homesOf cell).any (fun h => newer (((s.at t).cell h).ver tenant).homeVer p.ver) then
        (s.at t).stalePush cell tenant p
      else ((s.at t).onCells ((s.at t).groupOf cell) (fun x => x.onVer tenant (fun y =>
        { y with push := some { p with hold := true }, warmed := false }))).pushLayers cell tenant) = x) :
    Answers (.pushHoldBegin t cell tenant) s (fun s' => s'.silent = x.silent) := by
  have hall : ((s.at t).groupOf cell).all (fun m => !((s.at t).cell m).step.running) = true := by simpa using hrest
  refine .of_run rfl (.trans ?_ hx) fun s' hs' => hs'.silent
  simp only [hpush]
  exact if_pos (by simp only [hlead, hsingle, hhold, hstart, hpins, hall, decide_true, Bool.not_false, Bool.and_self])

/-- A cell whose copies carry no poison reports the version that they show (R254). -/
theorem shuffleComplete_of_clean {n : BitVec 16} {P : State → Prop} (hup : (s.at t).cellUp cell = true)
    (hclean : (s.at t).poisonedCopies cell tenant = [])
    (hreport : reportedVer (((s.at t).cell cell).ver tenant) ((s.at t).completeVers cell tenant) = some n)
    (hP : ∀ s', EndsAs ((s.at t).onCell cell (fun k => k.onVer tenant (fun v => { v with copied := some n }))) s' → P s') :
    Answers (.shuffleComplete t cell tenant) s P := by
  refine .of_run rfl ?_ hP
  simp only [hup, hclean, hreport, Bool.not_true, Bool.false_eq_true, if_false]

/-- One with a poisoned copy has each such layer recorded (R265). -/
theorem shuffleComplete_of_poisoned {P : State → Prop} (hup : (s.at t).cellUp cell = true)
    (hpoison : (s.at t).poisonedCopies cell tenant ≠ [])
    (hP : ∀ s', EndsAs (((s.at t).poisonedCopies cell tenant).foldl (fun (x : State) l =>
      x.err cell { cls := clsPOISON, sev := 2, unit := 3, tenant := tenant, obj := l, reason := vPOISON }) (s.at t)) s' → P s') :
    Answers (.shuffleComplete t cell tenant) s P := by
  refine .of_run rfl ((if_neg (by simp [hup])).trans ?_) hP
  split
  next h => exact absurd h hpoison
  next => rfl

end

/-- One turn of a fold over several cells, each named once, is what the fold does to its cell. -/
theorem foldl_onCell_once {g : State → Nat → Cell → Cell} {l : List Nat} (hl : l.Nodup) {m : Nat} (hm : m ∈ l) (s : State) :
    ∃ x : State, (l.foldl (fun x c => x.onCell c (g x c)) s).cell m = g x m (s.cell m) := by
  induction l generalizing s with
  | nil => exact nomatch hm
  | cons c l ih =>
    obtain ⟨hc, hl⟩ := List.nodup_cons.mp hl
    rw [List.foldl_cons]
    rcases List.mem_cons.mp hm with rfl | hm
    · refine ⟨s, List.foldlRecOn (motive := fun x : State => x.cell m = g s m (s.cell m)) l _ (s.cell_onCell_same ..) ?_⟩
      intro x hx d hd
      rw [State.cell_onCell, if_neg (ne_of_mem_of_not_mem hd hc).symm, hx]
    · obtain ⟨x, hx⟩ := ih hl hm (s.onCell c (g s c))
      exact ⟨x, by rw [hx, State.cell_onCell, if_neg (ne_of_mem_of_not_mem hm hc)]⟩

/-- A cell's versions after the pointer of its group went to `n`: where the lead's named `n` already, the wait and the loss of `n` end (R254,
R257). -/
def Versions.pointed (v : Versions) (same : Bool) (n : BitVec 16) (now : Nat) (twin : Bool) : Versions :=
  if same then { v with waitPtr := false, copied := none, incoming := none, lost := v.lost.filter (· ≠ n), switchAt := some now }
  else v.switched n twin now

/-- The lead's pointer names `n` already. -/
def State.pointsTo (s : State) (c t : Nat) (n : BitVec 16) : Bool := ((s.cell c).ver t).valid && n = ((s.cell c).ver t).current

section
variable (s : State) (c t : Nat) (n : BitVec 16)

/-- The pointer of a group goes to `n` on each of its cells, once on each (R254). -/
theorem State.switchPointer_ver {m : Nat} (hm : m ∈ s.groupOf c) : ∃ twin : Bool,
    ((s.switchPointer c t n).cell m).ver t = ((s.cell m).ver t).pointed (s.pointsTo c t n) n (s.time c) twin := by
  obtain ⟨x, hx⟩ := foldl_onCell_once (g := fun (x : State) m k => k.onVer t (fun v =>
    v.pointed (s.pointsTo c t n) n (s.time c) (x.twinHolds m t n))) (groupOf_nodup s c) hm s
  refine ⟨x.twinHolds m t n, .trans ?_ ((congrArg (Cell.ver · t) hx).trans (Cell.ver_onVer_same ..))⟩
  refine learnt_ver ?_ m t
  unfold State.switchPointer
  dsimp only
  split
  · exact State.onCell_learnt _ c fun _ => rfl
  · exact (State.complete_learnt ..).trans (State.onCell_learnt _ c fun _ => by rfl)

end

section
variable {s : State} {t : Nat} {cell : Fin 8} {tenant : Fin 64}

/-- A pointer that may move to `n` does so on every cell of the group (R254). -/
theorem pointerSwitch_answers {n : BitVec 16} {P : State → Prop} (hto : (s.at t).pointerTo cell tenant = some n)
    (hP : ∀ s', (∀ m ∈ (s.at t).groupOf cell, ∃ twin : Bool, (s'.cell m).ver tenant =
      (((s.at t).cell m).ver tenant).pointed ((s.at t).pointsTo cell tenant n) n ((s.at t).time cell) twin) → P s') :
    Answers (.pointerSwitch t cell tenant) s P := by
  refine .of_run (x := (s.at t).switchPointer cell tenant n) rfl (by simp only [hto]) fun s' hs' => hP s' fun m hm => ?_
  rw [learnt_ver hs'.learnt]
  exact (s.at t).switchPointer_ver cell tenant n hm

end

/-- Settles O35: a due push begins its hold or is stale, a cell reports what its copies show, and the pointer moves where it may. -/
theorem pushesAndPointerSwitches : Obligations.PushesAndPointerSwitches := by
  intro t cell tenant s u g v
  refine ⟨fun p hpush hlead hsingle hhold hstart hpins hrest => ⟨fun hhomes => ?held, fun ⟨h, hh, hnewer⟩ => ?stale⟩,
    fun n hup hclean hreport => ?complete, fun hup hpoison => ?poisoned, fun n hto hvalid hcur => ?same,
    fun n hto hother => ?moved, fun hto => ?unmoved⟩
  case held =>
    exact pushHoldBegin_answers hpush hlead hsingle hhold hstart hpins hrest (if_neg (by simpa using hhomes))
  case stale =>
    exact pushHoldBegin_answers hpush hlead hsingle hhold hstart hpins hrest (if_pos (List.any_eq_true.mpr ⟨h, hh, hnewer⟩))
  case complete =>
    exact shuffleComplete_of_clean hup hclean hreport fun s' hs' => hs'.silent
  case poisoned =>
    refine shuffleComplete_of_poisoned hup hpoison fun s' hs' => ?_
    exact (foldl_reports _ _ (.refl u) fun _ _ h => State.err_reports h ..).trans hs'.reports
  case same =>
    have hsame : u.pointsTo cell tenant n = true := by
      simp only [State.pointsTo, Bool.and_eq_true, decide_eq_true_eq]
      exact ⟨hvalid, hcur.symm⟩
    refine pointerSwitch_answers hto fun s' hs' m hm => ?_
    obtain ⟨twin, hver⟩ := hs' m hm
    rw [hver, hsame]
    exact ⟨rfl, rfl, rfl, by simp [Versions.pointed]⟩
  case moved =>
    have hsame : u.pointsTo cell tenant n = false := by
      rw [State.pointsTo, Bool.and_eq_false_iff, decide_eq_false_iff_not]
      exact hother.imp id Ne.symm
    refine pointerSwitch_answers hto fun s' hs' m hm => ?_
    obtain ⟨twin, hver⟩ := hs' m hm
    rw [hver, hsame]
    refine ⟨rfl, rfl, rfl, rfl, rfl, rfl, rfl, fun hkept => ?_⟩
    exact ⟨if_pos hkept, if_pos hkept⟩
  case unmoved =>
    exact .of_run (x := s.at t) rfl (by simp only [show (s.at t).pointerTo cell tenant = none from hto]) fun s' hs' => hs'.silent

end Sys2Proof.Machine

/-! ## The reset of the module (R373, R376, R401) -/

namespace Sys2Proof

section
variable {β : Type} [DecidableEq β] {d : β}

/-- Whatever a change of every listed value makes true of a value, and the default has, holds of every read after it. -/
theorem SMap.get_mapV_reaches {P : β → Prop} (f : β → β) (m : SMap β) (k : Nat) (hd : P d) (hf : ∀ v, P (f v)) :
    P ((m.mapV d f).get d k) := by
  induction m with
  | nil => exact hd
  | cons p r ih =>
    by_cases hv : f p.2 = d
    · simpa [SMap.mapV, hv] using ih
    · rw [SMap.mapV, List.map_cons, List.filter_cons_of_pos (by simpa using hv), SMap.get_cons]
      split
      · exact hf _
      · exact ih

/-- A listed value that its change does not turn into the default is read changed, whatever else the table lists. -/
theorem SMap.get_mapV_of_ne {f : β → β} (hf : f d = d) {m : SMap β} {k : Nat} (h : f (m.get d k) ≠ d) :
    (m.mapV d f).get d k = f (m.get d k) := by
  induction m with
  | nil => exact absurd hf h
  | cons p r ih =>
    rw [SMap.get_cons] at h ⊢
    by_cases hk : p.1 = k
    · rw [if_pos hk] at h ⊢
      rw [SMap.mapV, List.map_cons, List.filter_cons_of_pos (by simpa using h), SMap.get_cons, if_pos hk]
    · rw [if_neg hk] at h ⊢
      rw [← ih h]
      by_cases hv : f p.2 = d
      · simp [SMap.mapV, hv]
      · rw [SMap.mapV, List.map_cons, List.filter_cons_of_pos (by simpa using hv), SMap.get_cons, if_neg hk]
        rfl

end

/-- A fold of writes whose values their keys settle leaves at a key what its own writes put there. -/
theorem SMap.get_foldl_set {α β : Type} [DecidableEq β] {d : β} (key : α → Nat) (g : Nat → β) (l : List α) (r : SMap β) (k : Nat) :
    (l.foldl (fun r x => r.set d (key x) (g (key x))) r).get d k = if k ∈ l.map key then g k else r.get d k := by
  induction l generalizing r with
  | nil => rfl
  | cons x l ih =>
    rw [List.foldl_cons, ih, SMap.get_set, List.map_cons]
    by_cases hx : k = key x
    · subst hx
      simp
    · simp [hx]

end Sys2Proof

namespace Sys2Proof.Machine

/-- A cell of a module that was reset: its cores in the flash's list of permanent fences are fenced, and its start figure is kept (R318,
R367, R373). -/
def State.freshCell (s : State) (c : Nat) : Cell :=
  { Cell.reset with
    fig := { FigState.reset with persist := (s.flash.starts.get none c).isSome }
    cores := (s.flash.fences.filter (fun n => n / 128 = c)).foldl (fun (m : SMap Core) n =>
      m.set Core.reset (n % 128) { Core.reset with fenced := true, permFence := true }) [] }

section
variable (s : State)

theorem State.moduleReset_cell (m : Nat) : s.moduleReset.cell m = if m ∈ allCells then s.freshCell m else Cell.reset := by
  have h := SMap.get_foldl_set (d := Cell.reset) id s.freshCell allCells [] m
  rw [List.map_id] at h
  exact h

/-- No cell of a module that was reset is in service, holds a tile or runs a figure (R373). -/
theorem State.moduleReset_cleared (m : Nat) : (s.moduleReset.cell m).tiers = Tiers.reset ∧ (s.moduleReset.cell m).init = false ∧
    (s.moduleReset.cell m).fig.active = none := by
  rw [s.moduleReset_cell]
  split <;> exact ⟨rfl, rfl, rfl⟩

theorem State.freshCell_permFence (c : Nat) {n : Nat} (hn : n < 128) :
    ((s.freshCell c).core n).permFence = s.flash.fences.contains (128 * c + n) := by
  have h := SMap.get_foldl_set (d := Core.reset) (· % 128) (fun _ => { Core.reset with fenced := true, permFence := true })
    (s.flash.fences.filter (fun n => n / 128 = c)) [] n
  have hmem : n ∈ (s.flash.fences.filter (fun n => n / 128 = c)).map (· % 128) ↔ 128 * c + n ∈ s.flash.fences := by
    simp only [List.mem_map, List.mem_filter, decide_eq_true_eq]
    constructor
    · rintro ⟨x, ⟨hx, hdiv⟩, hmod⟩
      rwa [show 128 * c + n = x by omega]
    · exact fun hx => ⟨_, ⟨hx, by omega⟩, by omega⟩
  refine (congrArg Core.permFence h).trans ?_
  simp only [hmem]
  by_cases hx : 128 * c + n ∈ s.flash.fences
  · rw [if_pos hx, List.contains_iff_mem.mpr hx]
  · rw [if_neg hx, Bool.eq_false_iff.mpr (mt List.contains_iff_mem.mp hx)]
    rfl

/-- The islands leave a module reset again where power and clock let them (R364, R373). -/
theorem State.moduleReset_startIslands : s.moduleReset.startIslands = { s.moduleReset with boot := { s.moduleReset.boot with
    islands := s.supply.pwrGood && s.supply.aoclk && !s.supply.uvlo } } := by
  have hislands : (s.moduleReset.supply.pwrGood && s.moduleReset.supply.aoclk && !s.moduleReset.supply.uvlo &&
      !s.moduleReset.boot.islands) = (s.supply.pwrGood && s.supply.aoclk && !s.supply.uvlo) := Bool.and_true _
  unfold State.startIslands
  rw [hislands]
  cases s.supply.pwrGood && s.supply.aoclk && !s.supply.uvlo <;> rfl

end

/-- MODULE_RESET by one that may give it does what its key says (R373, R401). -/
theorem moduleReset_answers {t : Nat} {who : BitVec 8} {key : BitVec 16} {s x : State} {P : State → Prop}
    (hup : (s.at t).ctlUp who = true) (hx : (s.at t).resetKey key.toNat = x) (hP : ∀ s', EndsAs x s' → P s') :
    Answers (.moduleReset t who key) s P :=
  .of_run rfl ((if_pos hup).trans hx) hP

end Sys2Proof.Machine

/-! ## A restart is asked for (R373, R374, R412) -/

namespace Sys2Proof.Machine

section
variable {s : State} {c : Nat} {drain : Bool}

theorem askRestart_of_refused (h : (s.cell c).restart.isSome = true ∨ s.cellUp c = false) :
    s.askRestart c drain = s.discard (cellReg c 0x18) := by
  refine if_pos ?_
  rcases h with h | h <;> simp [h]

theorem askRestart_of_taken (hup : s.cellUp c = true) (hnone : (s.cell c).restart = none) :
    s.askRestart c drain = if drain then (s.onCell c (fun k => { k with restart := some drain })).onCells (s.groupOf c)
        (fun k => { k with gen := { k.gen with drainClosed := true } })
    else s.onCell c (fun k => { k with restart := some drain }) := by
  have hgroup : (s.onCell c (fun k => { k with restart := some drain })).groupOf c = s.groupOf c :=
    groupOf_congr rfl (by rw [State.cell_onCell_same])
  simp only [State.askRestart, hup, hnone, hgroup, Option.isSome_none, Bool.not_true, Bool.or_self, Bool.false_eq_true, if_false]

end

end Sys2Proof.Machine

/-! ## What records, completions and messages leave of every cell (R276, R328, R341, R346, R347) -/

namespace Sys2Proof.Machine

/-- Every cell is as it was but for its error ring, its ports, and whether it wakes. -/
structure Tells (s s' : State) : Prop where
  cell : ∀ c, ∃ e q w, s'.cell c = { s.cell c with err := e, korif := q, power := { (s.cell c).power with waking := w } }

theorem Tells.refl (s : State) : Tells s s := ⟨fun _ => ⟨_, _, _, rfl⟩⟩

theorem Tells.trans {a b c : State} (h : Tells a b) (g : Tells b c) : Tells a c := by
  refine ⟨fun d => ?_⟩
  obtain ⟨e, q, w, hb⟩ := h.cell d
  obtain ⟨e', q', w', hc⟩ := g.cell d
  exact ⟨e', q', w', by rw [hc, hb]⟩

theorem Tells.of_cells {s s' : State} (h : s'.cells = s.cells) : Tells s s' :=
  ⟨fun c => ⟨_, _, _, show s'.cell c = s.cell c by rw [State.cell, State.cell, h]⟩⟩

theorem Reports.tells {s s' : State} (h : Reports s s') : Tells s s' := by
  refine ⟨fun c => ?_⟩
  obtain ⟨e, p, q, hc⟩ := h.cell c
  exact ⟨e, _, _, hc⟩

section
variable (s : State)

theorem ite_tells {p : Prop} [Decidable p] {a b : State} (ha : Tells s a) (hb : Tells s b) : Tells s (if p then a else b) := by
  split <;> assumption

theorem State.err_tells (c : Nat) (e : Ev) : Tells s (s.err c e) := (State.err_reports (.refl s) c e).tells

theorem State.mail_tells (c : Nat) (us : List (Nat × Nat)) : Tells s (s.mail c us) := (State.mail_reports (.refl s) c us).tells

theorem State.dropRec_tells (n : Nat) : Tells s (s.dropRec n) := by
  have dropped (e : Ev) : Tells s ((s.onFn n (fun h => { h with lastDrop := some s.now })).errLocal 0 e) :=
    .trans (b := s.onFn n (fun h => { h with lastDrop := some s.now })) (.of_cells rfl) (State.errLocal_reports (.refl _) 0 e).tells
  unfold State.dropRec
  dsimp only
  split
  · exact ite_tells s (.refl s) (dropped _)
  · exact dropped _

theorem State.queueRec_tells (n : Nat) (r : QRec) : Tells s (s.queueRec n r) := by
  have done : Tells s (s.recDone r) := .of_cells (s.recDone_cells r)
  exact ite_tells s (.of_cells rfl) (ite_tells s (done.trans (State.dropRec_tells ..)) done)

theorem State.recordTo_tells (fn c r : Nat) : Tells s (s.recordTo fn c r) := ite_tells s (s.mail_tells ..) (s.queueRec_tells ..)

theorem State.wake_tells (c : Nat) : Tells s (s.wake c) := by
  refine ite_tells s ⟨fun d => ?_⟩ (.refl s)
  rw [State.cell_setCell]
  split
  · subst_vars
    exact ⟨_, _, true, rfl⟩
  · exact ⟨_, _, _, rfl⟩

theorem State.raiseEvent_tells (n : Nat) (who : BitVec 8) : Tells s (s.raiseEvent n who) :=
  ite_tells s (State.msix_reports (.refl s) ..).tells (ite_tells s (.of_cells rfl) (ite_tells s (s.wake_tells _) (.refl s)))

theorem State.ring_tells (n : Nat) (ab : Bool) : Tells s (s.ring n ab) := by
  have moved (f : ChanDir → ChanDir) : Tells s (s.onDir n ab f) := .of_cells rfl
  exact ite_tells s ((moved _).trans (State.mail_tells ..)) (ite_tells s (moved _) ((moved _).trans (State.raiseEvent_tells ..)))

theorem State.complete_tells (c : Nat) (src : Source) (e : Entry) (d : Done) : Tells s (s.complete c src e d) := by
  have moved (x : State) (n : Nat) (ab : Bool) (f : ChanDir → ChanDir) : Tells x (x.onDir n ab f) := .of_cells rfl
  unfold State.complete
  split
  · exact s.queueRec_tells ..
  · exact s.mail_tells ..
  · exact (moved s ..).trans (ite_tells _ (.refl _) ((moved ..).trans (State.ring_tells ..)))

end

end Sys2Proof.Machine

/-! ## The restart of a cell (R262, R316, R373, R374) -/

namespace Sys2Proof.Machine

/-! ### What goes over into the restart -/

/-- What a restart finds of a cell as it was: whether it is with drain, its cores and tiers, and the ARM that pends. -/
structure Carried where
  restart : Option Bool
  cores   : SMap Core
  tiers   : Tiers
  arm     : Option (BitVec 64)

def Cell.carried (k : Cell) : Carried := ⟨k.restart, k.cores, k.tiers, k.fig.arm⟩

def State.carried (s : State) (c : Nat) : Carried := (s.cell c).carried

theorem Tells.carried {s s' : State} (h : Tells s s') : s'.carried = s.carried := by
  funext c
  obtain ⟨e, q, w, hc⟩ := h.cell c
  rw [State.carried, hc]
  rfl

section
variable (s : State)

theorem State.onCell_carried (c : Nat) {f : Cell → Cell} (hf : ∀ k, (f k).carried = k.carried) : (s.onCell c f).carried = s.carried := by
  funext d
  rw [State.carried, State.cell_onCell]
  split
  · subst_vars
    exact hf _
  · rfl

theorem State.onCells_carried (g : List Nat) {f : Cell → Cell} (hf : ∀ k, (f k).carried = k.carried) :
    (s.onCells g f).carried = s.carried := foldl_same State.carried g s fun x m => x.onCell_carried m hf

theorem State.figEnd_carried (c : Nat) (x : FigCmd) (status : Nat) : (s.figEnd c x status).carried = s.carried := by
  have mailed (y : State) (us : List (Nat × Nat)) : (if x.viaReg then y else y.mail c us).carried = y.carried :=
    ite_same State.carried rfl (y.mail_tells c us).carried
  have told (y : State) (e : Ev) : (if status = stDONE then y else y.err c e).carried = y.carried :=
    ite_same State.carried rfl (y.err_tells c e).carried
  refine (told ..).trans ((mailed ..).trans ?_)
  exact (State.onCell_carried _ c fun _ => by rfl).trans (s.onCell_carried c fun _ => rfl)

/-- After an abandoned swap no ARM pends at the cell (R45). -/
theorem State.abandonSwap_carried (c : Nat) : (s.abandonSwap c).carried c = { s.carried c with arm := none } := by
  unfold State.abandonSwap
  split
  next h => rw [State.carried, Cell.carried, Option.isNone_iff_eq_none.mp h]
  next =>
    have hended : (s.figEndAll c 3 stABANDONED).carried = s.carried := foldl_same State.carried _ s fun x y => x.figEnd_carried c y _
    rw [← hended, State.carried, State.cell_onCell_same]
    rfl

theorem State.cutFigures_carried (c : Nat) : (s.cutFigures c).carried c = { s.carried c with arm := none } :=
  (congrFun (foldl_same State.carried _ _ fun x y => x.figEnd_carried c y _) c).trans (s.abandonSwap_carried c)

theorem State.endFetch_carried (c : Nat) (f : FetchRun) (status : Nat) : (s.endFetch c f status).carried = s.carried := by
  have taken : (s.onCell c (fun k => { k with fetches := k.fetches.tail })).carried = s.carried := s.onCell_carried c fun _ => rfl
  exact ite_same State.carried taken ((State.complete_tells ..).carried.trans taken)

theorem State.cutFetches_carried (c : Nat) : (s.cutFetches c).carried = s.carried :=
  foldl_same State.carried _ s fun x f => x.endFetch_carried c f _

theorem State.refusePending_carried (c : Nat) : (s.refusePending c).carried = s.carried :=
  foldl_same State.carried _ s fun x _ => (x.recordTo_tells ..).carried

theorem Cell.awaitPointer_carried (k : Cell) : k.awaitPointer.carried = k.carried :=
  List.foldlRecOn (motive := fun x : Cell => x.carried = k.carried) _ _ rfl fun _ h _ _ => h

/-- A cell's channels lose their words and their bindings, no more (R344). -/
theorem State.unbindCell_carried (c : Nat) : (s.unbindCell c).carried = s.carried := by
  have emptied (x : State) (n : Nat) : (x.emptyChan n).1.carried = x.carried := (Tells.of_cells rfl).carried
  unfold State.unbindCell
  extract_lets r
  have hr : r.1.carried = s.carried := List.foldlRecOn (motive := fun a : State × Nat => a.1.carried = s.carried) _ _ rfl
    fun a ha j _ => (State.onCell_carried _ c fun _ => by rfl).trans ((emptied ..).trans ha)
  exact ite_same State.carried hr ((State.err_tells ..).carried.trans hr)

/-- The coordinator of the watts sets the share that a cell is to take, no more (R353). -/
theorem State.coordinate_cell (c : Nat) : ∃ w, s.coordinate.cell c = { s.cell c with power := { (s.cell c).power with target := w } } := by
  unfold State.coordinate
  split
  · exact ⟨_, rfl⟩
  · refine List.foldlRecOn (motive := fun x : State =>
      ∃ w, x.cell c = { s.cell c with power := { (s.cell c).power with target := w } }) _ _ ⟨_, rfl⟩ fun x ⟨w, hx⟩ q _ => ?_
    rw [State.cell_onCell]
    split
    · subst_vars
      exact ⟨q.2, by rw [hx]⟩
    · exact ⟨w, hx⟩

/-- The module as a cell's restart cuts what runs there and in its group (R373, R374). -/
def State.severed (s : State) (c : Nat) : State :=
  let s1 := (s.cutFigures c).cutFetches c
  let s2 := if s.isLead c then s1.refusePending c else s1
  let s3 := s2.onCells (s.groupOf c) (fun k => k.clearVersions false)
  let s4 := if s.isLead c then s3.onCells (s.groupOf c) (fun k => { k with gen := { k.gen with table := [] } }) else s3
  ((s.groupOf c).foldl (fun (x : State) m => if x.isLead m then x.onCell m Cell.awaitPointer else x) s4).unbindCell c

theorem State.beginRestart_eq (c : Nat) : s.beginRestart c = ((s.severed c).onCell c Cell.restarted).coordinate := rfl

theorem State.severed_carried (c : Nat) : (s.severed c).carried c = { s.carried c with arm := none } := by
  have refused (x : State) : (if s.isLead c then x.refusePending c else x).carried = x.carried :=
    ite_same State.carried (x.refusePending_carried c) rfl
  have cleared (x : State) : (x.onCells (s.groupOf c) (fun k => k.clearVersions false)).carried = x.carried :=
    x.onCells_carried _ fun _ => rfl
  have emptied (x : State) : (if s.isLead c then x.onCells (s.groupOf c) (fun k => { k with gen := { k.gen with table := [] } })
      else x).carried = x.carried := ite_same State.carried (x.onCells_carried _ fun _ => rfl) rfl
  have awaits (x : State) : ((s.groupOf c).foldl (fun (x : State) m => if x.isLead m then x.onCell m Cell.awaitPointer else x) x).carried =
      x.carried := foldl_same State.carried _ x fun y m => ite_same State.carried (y.onCell_carried m Cell.awaitPointer_carried) rfl
  unfold State.severed
  dsimp only
  rw [State.unbindCell_carried, awaits, emptied, cleared, refused, State.cutFetches_carried, State.cutFigures_carried]

/-! ### Requests voided with ADMIN (R50, R373) -/

/-- Whether a cell's restart is with drain, and its cores: what the requests that end leave alone. -/
def State.manned (s : State) (c : Nat) : Option Bool × SMap Core := ((s.cell c).restart, (s.cell c).cores)

theorem Tells.manned {s s' : State} (h : Tells s s') : s'.manned = s.manned :=
  funext fun c => congrArg (fun x : Carried => (x.restart, x.cores)) (congrFun h.carried c)

theorem TierMoves.manned {s s' : State} (h : TierMoves s s') : s'.manned = s.manned := by
  funext c
  obtain ⟨t, e, q, hc⟩ := h.cell c
  rw [State.manned, hc]
  rfl

theorem State.onCell_manned (c : Nat) {f : Cell → Cell} (hr : ∀ k, (f k).restart = k.restart) (hc : ∀ k, (f k).cores = k.cores) :
    (s.onCell c f).manned = s.manned := by
  funext d
  rw [State.manned, State.cell_onCell]
  split
  · subst_vars
    exact Prod.ext (hr _) (hc _)
  · rfl

theorem State.endRecord_manned (c i : Nat) (e : ReqEntry) (r : Nat) : (s.endRecord c i e r).manned = s.manned := by
  have ring (n : Nat) (q : QRec) : (if n = 0x70 then s.mail c [(2, r)] else s.queueRec n q).manned = s.manned :=
    ite_same State.manned (s.mail_tells ..).manned (s.queueRec_tells ..).manned
  unfold State.endRecord
  dsimp only
  split
  · exact ite_same State.manned (ring ..) (s.poke_tierMoves ..).manned
  · exact ring ..

theorem State.endRequest_manned (c i code : Nat) (causes : List Nat) : (s.endRequest c i code causes).manned = s.manned := by
  unfold State.endRequest
  refine (State.endRecord_manned ..).trans ((foldl_same State.manned _ _ fun x m => ?_).trans
    (foldl_same State.manned _ s fun x _ => (x.err_tells ..).manned))
  exact x.onCell_manned m (fun _ => rfl) (fun _ => rfl)

theorem State.adminVoid_manned (c : Nat) : (s.adminVoid c).manned = s.manned := by
  refine ite_same State.manned rfl ((foldl_same State.manned _ _ fun x m => ?_).trans
    (foldl_same State.manned _ s fun x _ => x.endRequest_manned ..))
  exact x.onCell_manned m (fun _ => rfl) (fun _ => rfl)

end

/-! ### The restarted cell -/

section
variable (k : Cell) (n : Nat)

theorem Cell.restarted_core_engines : ((k.restarted).core n).engines = [] :=
  SMap.get_mapV_reaches (P := fun x : Core => x.engines = []) Core.restarted k.cores n rfl fun _ => rfl

/-- A fenced core stays fenced through its cell's restart (R316). -/
theorem Cell.restarted_core_fenced (h : (k.core n).fenced = true) : ((k.restarted).core n).fenced = true := by
  have hne : Core.restarted (k.core n) ≠ Core.reset := fun he => by
    have hf : (Core.restarted (k.core n)).fenced = Core.reset.fenced := congrArg Core.fenced he
    exact absurd (hf.symm.trans h) (by decide)
  exact (congrArg Core.fenced (SMap.get_mapV_of_ne rfl hne)).trans h

/-- From canonical tile memory a restart changes every tile as it changes the tile alone (R373). -/
theorem Cell.restarted_ent (hwf : Memory.wf k.tiers.tiles = true) (a : Nat) : (k.restarted).ent a = (k.ent a).restarted :=
  SMap.get_mapV_of_wf TileEnt.restarted rfl hwf a

end

/-- A cell as its restart begins, after the cut of what ran there; the coordinator of the watts then sets its share. -/
theorem State.beginRestart_cell (s : State) (c : Nat) :
    ∃ p, (s.beginRestart c).cell c = { ((s.severed c).cell c).restarted with power := p } := by
  obtain ⟨w, hw⟩ := ((s.severed c).onCell c Cell.restarted).coordinate_cell c
  rw [s.beginRestart_eq]
  rw [State.cell_onCell_same] at hw
  exact ⟨_, hw⟩

theorem EndsAs.restarted {s s' : State} {c : Nat} (h : EndsAs (s.beginRestart c) s') :
    ∃ p e, s'.cell c = { ((s.severed c).cell c).restarted with power := p, err := e } := by
  obtain ⟨n, hn⟩ := h.cell c
  obtain ⟨p, hp⟩ := s.beginRestart_cell c
  have both {y z x : Cell} (hy : y = { z with err := { z.err with lost := n } }) (hz : z = { x with power := p }) :
      ∃ p e, y = { x with power := p, err := e } := by
    subst hz
    exact ⟨p, _, hy⟩
  exact both hn hp

section
variable {t : Nat} {cell : Fin 8} {drain : Bool} {s : State}

/-- The module as a restart that begins finds it: one without drain has voided the group's requests (R373). -/
def State.voidedFor (s : State) (c : Nat) (drain : Bool) : State := if drain then s else s.adminVoid c

theorem State.voidedFor_of_drain (s : State) (c : Nat) (h : drain = true) : s.voidedFor c drain = s := if_pos h

theorem State.voidedFor_manned (s : State) (c : Nat) (drain : Bool) : (s.voidedFor c drain).manned = s.manned :=
  ite_same State.manned rfl (s.adminVoid_manned c)

theorem State.voidedFor_planes (s : State) (c : Nat) (drain : Bool) : Planes s (s.voidedFor c drain) :=
  ite_planes (.refl s) (State.adminVoid_planes (.refl s) c)

/-- The restart that waits at a cell in service begins with no step, pass or learning step there and no request of the group left (R373,
R374). -/
theorem cellRestartBegin_answers {P : State → Prop} (hup : (s.at t).cellUp cell = true)
    (hasked : ((s.at t).cell cell).restart = some drain)
    (hrest : ∀ m ∈ cell.val :: (s.at t).groupOf cell, ((s.at t).cell m).step.running = false)
    (hpass : ((s.at t).cell cell).ud.inPass = false) (hlearn : ∀ l ∈ ((s.at t).cell cell).learn, l.2.phase = .idle)
    (hleft : ((s.at t).voidedFor cell drain).groupBusy (cell.val :: (s.at t).groupOf cell) = false)
    (hP : ∀ s', EndsAs (((s.at t).voidedFor cell drain).beginRestart cell) s' → P s') : Answers (.cellRestartBegin t cell) s P := by
  obtain ⟨hown, hgroup⟩ := List.forall_mem_cons.mp hrest
  have hsteps : ((s.at t).groupOf cell).any (fun m => ((s.at t).cell m).step.running) = false := by simpa using hgroup
  have hsettled : ((s.at t).cell cell).learn.any (fun l => l.2.phase ≠ .idle) = false := by simpa using hlearn
  refine .of_run rfl ?_ hP
  simp only [hup, hsteps, hown, hpass, hsettled, hasked, Bool.not_true, Bool.or_self, Bool.false_eq_true, if_false]
  exact if_neg (Bool.eq_false_iff.mp hleft)

end

/-- Settles O52: the key resets the module; a restart is asked for once, and begins by cutting what runs at its cell and clearing it. -/
theorem resetsAndRestarts : Obligations.ResetsAndRestarts := by
  intro t who s u fresh
  refine ⟨fun key hup => ⟨fun hkey => ?reset, fun hkey => ?other⟩, fun cell hup => ⟨fun hin hnone => ?asked, fun hwhy => ?again⟩,
    ?begins⟩
  case reset =>
    refine moduleReset_answers hup ((if_pos (congrArg BitVec.toNat hkey)).trans u.moduleReset_startIslands) fun s' hs' => ?_
    have hr := hs'.reports
    refine ⟨⟨congrArg Boot.running hr.boot, congrArg Boot.safe hr.boot, hr.seating, hr.host, congrArg State.fns hs'.silent, hr.chans,
      hr.coords, hr.flash, fun m => ?_, fun m hm n hn => ?_⟩, (congrArg Supply.pwrGood hr.supply :), (congrArg Boot.islands hr.boot :)⟩
    · obtain ⟨e, hcell⟩ := hs'.cell m
      rw [hcell]
      exact u.moduleReset_cleared m
    · rw [hs'.core]
      refine (congrArg (fun k : Cell => (k.core n).permFence) ((u.moduleReset_cell m).trans (if_pos hm))).trans ?_
      exact u.freshCell_permFence m hn
  case other =>
    have hne : key.toNat ≠ 0xD1A5 := fun h => hkey (BitVec.eq_of_toNat_eq h)
    exact moduleReset_answers hup (if_neg hne) fun s' hs' => (u.discard_reports 0x18).trans hs'.reports
  case asked =>
    constructor
    all_goals exact .of_run rfl ((if_pos hup).trans (askRestart_of_taken hin hnone)) fun s' hs' => hs'.silent
  case again =>
    constructor
    all_goals exact .of_run rfl ((if_pos hup).trans (askRestart_of_refused hwhy)) fun s' hs' => (u.discard_reports _).trans hs'.reports
  case begins =>
    intro cell drain k w hin hasked hrest hpass hlearn hleft
    refine cellRestartBegin_answers hin hasked hrest hpass hlearn hleft fun s' hs' => ?_
    have hplane : (s'.cell cell).fig.plane = k.fig.plane :=
      (hs'.plane cell).trans ((State.beginRestart_planes (u.voidedFor_planes cell drain) cell).plane cell)
    obtain ⟨p, e, hcell⟩ := hs'.restarted
    obtain ⟨hrestart, hcores, htiers, harm⟩ := Carried.mk.inj ((u.voidedFor cell drain).severed_carried cell)
    obtain ⟨hdrained, hmanned⟩ := Prod.mk.inj (congrFun (u.voidedFor_manned cell drain) cell)
    rw [hcell] at hplane ⊢
    generalize ((u.voidedFor cell drain).severed cell).cell cell = z at *
    refine ⟨rfl, hrestart.trans (hdrained.trans hasked), hplane, rfl, harm, rfl, rfl, rfl, fun n => ⟨fun hfenced => ?_, ?_⟩,
      fun hdrain hwf a => ?_⟩
    · have hcore : z.core n = k.core n := congrArg (SMap.get · Core.reset n) (hcores.trans hmanned)
      exact z.restarted_core_fenced n (hcore.symm ▸ hfenced)
    · exact z.restarted_core_engines n
    · have hwhole : z.tiers = k.tiers := htiers.trans (congrArg (fun x : State => (x.cell cell).tiers) (u.voidedFor_of_drain cell hdrain))
      have hent : z.ent a = k.ent a := congrArg (fun x : Tiers => x.tiles.get TileEnt.absent a) hwhole
      exact (z.restarted_ent (hwhole.symm ▸ hwf) a).trans (congrArg TileEnt.restarted hent)

end Sys2Proof.Machine

/-! ## The step of the queue (00_scope.md) -/

namespace Sys2Proof.Machine

/-- Settles O1: the two cases of the queue. -/
theorem stepRunsTheFrontCommand : Obligations.StepRunsTheFrontCommand := by
  refine fun s => ⟨fun c rest h => ?_, fun h => ?_⟩
  · unfold step
    rw [h]
  · unfold step
    rw [h]

end Sys2Proof.Machine

/-! ## RUN, WRITE, MAILBOX and REGISTER at their cell (R340, R347, R404) -/

namespace Sys2Proof.Machine

section
variable {s : State} {c : Nat} {src : Source} {e : Entry}

/-- An entry whose path does not carry its kind ends with KIND at a cell awake in C0 (R340). -/
theorem entryAt_of_other_path {kind : Nat} (hup : s.cellUp c = true) (hawake : (s.cell c).power.state = .c0) (hkind : e.fld 0 1 = kind)
    (hpath : s.kindOk src kind = false) (f : State → State) : s.entryAt c kind src e f = s.complete c src e { status := 0xFF } := by
  simp only [State.entryAt, hup, hkind, hpath, wake_of_c0 hawake, decide_true, Bool.and_self, Bool.not_true, Bool.false_eq_true, if_false]

/-- Whether a tenant's record gives it LEARN, asked as a proposition of the record or as its Boolean. -/
theorem learn_of_tenantRec {r : Option TenantRec} (h : (r.map (fun x => x.learn = true)).getD (false = true)) :
    (r.map (·.learn)).getD false = true := by
  cases r with
  | none => exact h
  | some x => exact h

/-- A RUN for a tenant that learns sets its run count (Table 14-7). -/
theorem doRun_of_learner (hfields : runReserved e = false) (hsender : s.mayFor c (e.fld 1 1) src.who = true)
    (hlearn : (((s.cell c).tenantRec (e.fld 1 1)).map (·.learn)).getD false = true) :
    s.doRun c src e = (s.onCell c (fun k =>
      k.onRun (e.fld 1 1) (fun r => { r with runCount := BitVec.ofNat 32 (e.fld 4 4) }))).complete c src e { status := enDONE } := by
  simp only [State.doRun, hfields, hsender, hlearn, Bool.not_true, Bool.false_eq_true, if_false]

/-- While a step runs at a cell, its boundary is still to come (R43). -/
theorem boundarySoon_of_running (hrunning : (s.cell c).step.running = true) : s.boundarySoon c = s :=
  if_pos (by rw [hrunning, Bool.true_or])

/-- A WRITE whose words fit waits at its cell (R340). -/
theorem doWrite_of_fits (hfields : writeReserved e = false) (hsender : s.mayFor c (e.fld 1 1) src.who = true)
    (hfits : (s.cell c).writeFits e = true) :
    s.doWrite c src e = (s.onCell c (fun k => { k with writes := k.writes ++ [{ src := src, e := e }] })).boundarySoon c := by
  simp only [State.doWrite, hfields, hsender, hfits, Bool.not_true, Bool.false_eq_true, if_false]

/-- The Manager's words enter their direction where all of them fit (R348). -/
theorem doMailbox_of_room {a : Bool} (hfields : mailboxReserved e = false) (hmanager : src.who = 0x70)
    (hside : s.chanSide (e.fld 1 1) 0x70 = some a) (hroom : ((s.chan (e.fld 1 1)).dir a).queue.length + e.fld 2 1 ≤ 16)
    (hquiet : e.fld 3 1 ≠ 1) :
    s.doMailbox c src e = (s.onDir (e.fld 1 1) a (fun d =>
      { d with queue := d.queue ++ (List.range (e.fld 2 1)).map (fun j => BitVec.ofNat 32 (e.fld (4 + 4 * j) 4)) })).complete c src e
        { status := enDONE } := by
  simp only [State.doMailbox, hfields, hmanager, hside, hquiet, List.length_map, List.length_range, not_lt.mpr hroom, ne_eq,
    not_true_eq_false, Bool.false_eq_true, if_false]

/-- The Manager's REGISTER entry of offset 0x20 writes TURN_PLAN (R404, R410). -/
theorem doRegister_of_turnPlan (hfields : registerReserved e = false) (hmanager : src.who = 0x70) (hoff : e.fld 4 4 = 0x20) :
    s.doRegister c src e = (s.setTurnPlan c (BitVec.ofNat 64 (e.fld 8 8))).complete c src e { status := enDONE } := by
  simp only [State.doRegister, hfields, hmanager, hoff, ne_eq, not_true_eq_false, Bool.false_eq_true, if_false, if_true]

end

/-- Settles O13: the cell takes the entry, and its effect is that of its kind; a WRITE waits, for a step runs. -/
theorem runWriteMailboxAndRegisterEntries : Obligations.RunWriteMailboxAndRegisterEntries := by
  refine fun t cell src e s => ⟨fun htakes hfields hsender hlearn => ?run, fun htakes hfields hsender hfits hrunning => ?write,
    fun a htakes hfields hmanager hside hroom hquiet => ?mailbox, fun htakes hfields hmanager hoff => ?register⟩
  all_goals refine .of_run rfl ((entryAt_of_takes htakes _).trans ?_) fun s' h => h.silent
  case run => exact doRun_of_learner hfields hsender (learn_of_tenantRec hlearn)
  case write => exact (doWrite_of_fits hfields hsender hfits).trans (boundarySoon_of_running (by simpa using hrunning))
  case mailbox => exact doMailbox_of_room hfields hmanager hside hroom hquiet
  case register => exact doRegister_of_turnPlan hfields hmanager hoff

/-- Settles O15: every kind's command reaches its cell by the same check of its path. -/
theorem entriesOfAKindTheirPathDoesNotCarryEndWithKind : Obligations.EntriesOfAKindTheirPathDoesNotCarryEndWithKind := by
  intro t cell src e s u ends hup hawake
  refine ⟨?_, ?_, ?_, ?_, ?_, ?_, ?_, ?_, ?_, ?_, ?_, ?_, ?_, ?_, ?_, ?_, ?_, ?_, ?_, ?_, ?_⟩
  all_goals exact fun hkind hpath => .of_run rfl (entryAt_of_other_path hup hawake hkind hpath _) fun s' h => h.silent

end Sys2Proof.Machine

/-! ## Frames that a port refuses (R270, R271, R272, R278, R282, R286, R292) -/

namespace Sys2Proof.Machine

section
variable {s : State} {c p : Nat} {x : Frame}

/-- Nothing is taken in where the port is not usable (R268, R300). -/
theorem accept_of_unusable (hu : ((s.cell c).port p).usable = false) : s.accept c p x = (s, false) := by
  simp only [State.accept, hu, Bool.not_false, if_true]

section
variable (hu : ((s.cell c).port p).usable = true)
include hu

/-- A malformed frame is counted and discarded (R271). -/
theorem accept_of_malformed (hm : x.malformed = true) : s.accept c p x = (s.countError c p, false) := by
  simp only [State.accept, hu, hm, Bool.not_true, Bool.false_eq_true, if_false, if_true]

/-- A frame that came without the credits it needs is counted and discarded (R282). -/
theorem accept_of_noCredits (hm : x.malformed = false) (hc : x.isCredit1 = false)
    (hroom : ((s.cell c).port p).room.getD x.lane 0 < x.need) : s.accept c p x = (s.noCredits c p, false) := by
  simp only [State.accept, hu, hm, hc, hroom, Bool.not_true, Bool.not_false, Bool.true_and, decide_true, Bool.false_eq_true, if_false,
    if_true]

/-- A frame that an idle port does not carry, and one of a departed seat, is taken in and does no more (R286, R292). -/
theorem accept_of_unwanted (hm : x.malformed = false) (hroom : x.need ≤ ((s.cell c).port p).room.getD x.lane 0)
    (hsafe : s.boot.safe = false) (hrec : s.boot.recovery = false) (hd : s.linkDoubt c = false) (hdisc : s.boot.discovery = true)
    (hno : (s.idlePort c p = true ∧ x.idleOk = false) ∨ (s.linkHere c p x = false ∧ s.seating.departed.contains x.sseat = true)) :
    s.accept c p x = ((s.useCredits c p x).taken c p x, false) := by
  have hcredits : (!x.isCredit1 && decide (((s.cell c).port p).room.getD x.lane 0 < x.need)) = false := by
    rw [decide_eq_false (Nat.not_lt.mpr hroom), Bool.and_false]
  simp only [State.accept, hu, hm, hcredits, hsafe, hrec, hd, hdisc, Bool.or_self, Bool.not_true, Bool.false_and, Bool.false_eq_true,
    if_false]
  rcases hno with ⟨hidle, hcarry⟩ | ⟨hhere, hgone⟩
  · simp only [hidle, hcarry, Bool.not_false, Bool.and_self, if_true]
  · simp only [hhere, hgone, Bool.not_false, Bool.and_self, if_true, ite_self]

end

section
variable (hc : x.isCredit1 = false)
include hc

/-- The lane 0 credits of a frame taken in while the sync overflow is full wait with the port (R274). -/
theorem taken_of_full (hl : x.lane = 0) (hfull : (s.cell c).ovfFull = true) :
    s.taken c p x = s.onCell c (fun k => k.onPort p (fun q => { q with withheld := q.withheld + x.need })) := by
  simp only [State.taken, hc, hl, hfull, decide_true, Bool.and_self, Bool.false_eq_true, if_false, if_true]

/-- The credits of every other frame taken in fall due (R278). -/
theorem taken_of_room (ho : x.lane ≠ 0 ∨ (s.cell c).ovfFull = false) : s.taken c p x = s.oweCredits c p x.lane x.need := by
  have hroom : (decide (x.lane = 0) && (s.cell c).ovfFull) = false := by
    rcases ho with h | h <;> simp [h]
  simp only [State.taken, hc, hroom, Bool.false_eq_true, if_false]

end

end

/-- The commands that frames give, each for the frame that arrives at a port (Table 12-3). -/
def frameCommands (t : Nat) (cell : Fin 8) (port : Fin 12) (f : Frame) (auth : Bool) : List Instr :=
  [Instr.tileFrame t cell port f, .reducePart t cell port f, .readRequest t cell port f,
    .mailFrame t cell port f, .presence t cell port f, .offer t cell port f auth, .refuse t cell port f, .leave t cell port f,
    .level t cell port f, .hold t cell port f, .creditReturn t cell port f, .creditGrant t cell port f, .voidFrame t cell port f,
    .heartbeat t cell port f, .timeSync t cell port f, .delayRequest t cell port f, .delayResponse t cell port f]

/-- A frame that the port does not pass on has no effect but the port's own, whichever command it gives (R271, R272). -/
theorem frameCommands_of_refused {t : Nat} {cell : Fin 8} {port : Fin 12} {f : Frame} (auth : Bool) {s z : State}
    (ha : (s.at t).accept cell port f = (z, false)) :
    ∀ c ∈ frameCommands t cell port f auth, Answers c s (fun s' => s'.silent = z.silent) := by
  simp only [frameCommands, List.forall_mem_cons, List.not_mem_nil, false_implies, implies_true, and_true]
  refine ⟨?_, ?_, ?_, ?_, ?_, ?_, ?_, ?_, ?_, ?_, ?_, ?_, ?_, ?_, ?_, ?_, ?_⟩
  all_goals
    refine .of_run (x := z) rfl ?_ fun s' h => h.silent
    simp only [ha, Bool.not_false, Bool.false_and, Bool.true_or, Bool.false_eq_true, if_false, if_true]

/-- Settles O38: what the port does with each frame that it refuses, and that no command adds to it. -/
theorem aFrameThatAPortRefusesHasNoEffectOfItsOwn : Obligations.AFrameThatAPortRefusesHasNoEffectOfItsOwn := by
  intro t cell port f auth s
  refine ⟨fun hu => ?unusable, fun hu hm => ?malformed, fun hu hm hc hroom => ?credits,
    fun hu hm hl hroom hsafe hrec hd hdisc hno => ⟨fun h0 hfull => ?withheld, fun hother => ?owed⟩, fun ha => ?refused⟩
  case unusable => exact frameCommands_of_refused auth (accept_of_unusable hu)
  case malformed => exact frameCommands_of_refused auth (accept_of_malformed hu hm)
  case credits => exact frameCommands_of_refused auth (accept_of_noCredits hu hm hc hroom)
  case refused => exact frameCommands_of_refused auth (Prod.ext rfl ha)
  all_goals
    have hcredit : f.isCredit1 = false := by
      simp only [Frame.linkLevel, Bool.or_eq_false_iff] at hl
      obtain ⟨⟨-, hc⟩, -⟩ := hl
      exact hc
    have hovf := ((s.at t).useCredits_reports cell port f).ovfFull cell
    refine frameCommands_of_refused auth ((accept_of_unwanted hu hm hroom hsafe hrec hd hdisc hno).trans (congrArg (·, false) ?_))
  case withheld => exact taken_of_full hcredit h0 (hovf.trans hfull)
  case owed => exact taken_of_room hcredit (hother.imp id hovf.trans)

end Sys2Proof.Machine

/-! ## Ports come up, go down and leave quarantine (R267, R268, R300, R301) -/

namespace Sys2Proof.Machine

/-! ### What voiding the work of steps leaves of a cell (R9, R275) -/

/-- Every cell is as it was but for its error ring, its switch and its step; time stays. -/
structure Voids (s s' : State) : Prop where
  now  : s'.now = s.now
  cell : ∀ c, ∃ e q x, s'.cell c = { s.cell c with err := e, korif := q, step := x }

theorem Voids.refl (s : State) : Voids s s := ⟨rfl, fun _ => ⟨_, _, _, rfl⟩⟩

theorem Voids.trans {a b c : State} (h : Voids a b) (g : Voids b c) : Voids a c := by
  refine ⟨g.now.trans h.now, fun d => ?_⟩
  obtain ⟨e, q, x, hb⟩ := h.cell d
  obtain ⟨e', q', x', hc⟩ := g.cell d
  exact ⟨e', q', x', by rw [hc, hb]⟩

theorem Reports.voids {s s' : State} (h : Reports s s') : Voids s s' := by
  refine ⟨h.now, fun c => ?_⟩
  obtain ⟨e, p, q, hc⟩ := h.cell c
  exact ⟨e, _, _, hc⟩

/-- Any field of a cell that steps, switches and error rings do not hold is as it was. -/
theorem Voids.field {a b : State} (h : Voids a b) {γ : Type} (π : Cell → γ)
    (hπ : ∀ (k : Cell) e q x, π { k with err := e, korif := q, step := x } = π k) (c : Nat) : π (b.cell c) = π (a.cell c) := by
  obtain ⟨e, q, x, hc⟩ := h.cell c
  rw [hc, hπ]

section
variable (s : State)

theorem ite_voids {p : Prop} [Decidable p] {a b : State} (ha : Voids s a) (hb : Voids s b) : Voids s (if p then a else b) := by
  split <;> assumption

theorem foldl_voids {β : Type} (l : List β) {f : State → β → State} (hf : ∀ x b, Voids x (f x b)) : Voids s (l.foldl f s) :=
  List.foldlRecOn l f (.refl s) fun x h b _ => h.trans (hf x b)

theorem State.onCell_voids (c : Nat) {f : Cell → Cell} (hf : ∀ k, ∃ e q x, f k = { k with err := e, korif := q, step := x }) :
    Voids s (s.onCell c f) := by
  refine ⟨rfl, fun d => ?_⟩
  rw [State.cell_onCell]
  split
  · subst_vars
    exact hf _
  · exact ⟨_, _, _, rfl⟩

theorem State.onPort_voids (c p : Nat) (f : Port → Port) : Voids s (s.onCell c (fun k => k.onPort p f)) :=
  s.onCell_voids c fun _ => ⟨_, _, _, rfl⟩

theorem State.cause_voids (c code tenant : Nat) (entry : Option Nat) : Voids s (s.cause c code tenant entry) := by
  refine s.onCell_voids c fun k => ?_
  dsimp only
  split <;> exact ⟨_, _, _, rfl⟩

theorem State.causeAt_voids (c code tenant step : Nat) : Voids s (s.causeAt c code tenant step) :=
  ite_voids s (s.cause_voids ..) (ite_voids s (.refl s) (ite_voids s (.refl s) (s.onCell_voids c fun _ => ⟨_, _, _, rfl⟩)))

theorem State.voidBack_voids (c : Nat) (x : Frame) (reason : Nat) : Voids s (s.voidBack c x reason) :=
  ite_voids s (s.causeAt_voids ..) (State.send_reports (.refl s) ..).voids

theorem State.relay_voids (c i : Nat) (x : Frame) : Voids s (s.relay c i x) := by
  unfold State.relay
  split
  · exact (State.enqueue_reports (.refl s) ..).voids
  · exact s.voidBack_voids ..

theorem State.rerouteQueue_voids (c p : Nat) (down : Bool) : Voids s (s.rerouteQueue c p down) :=
  (s.onPort_voids c p _).trans (foldl_voids _ _ fun x _ => x.relay_voids ..)

end

/-! ### What a report from one cell leaves of ports (R268, R278, R329) -/

section
variable (s : State) {c d p : Nat}

theorem State.onCell_port {f : Cell → Cell} (hf : ∀ k, (f k).port p = k.port p) : ((s.onCell c f).cell d).port p = (s.cell d).port p := by
  rw [State.cell_onCell]
  split
  · subst_vars
    exact hf _
  · rfl

theorem State.onPort_port_other {i : Nat} (h : d ≠ c ∨ p ≠ i) (f : Port → Port) :
    ((s.onCell c (fun k => k.onPort i f)).cell d).port p = (s.cell d).port p := by
  rw [State.cell_onCell]
  split
  · subst_vars
    rw [Cell.port_onPort, if_neg (by simpa using h)]
  · rfl

theorem State.pumpN_port_other (n : Nat) {i : Nat} (h : d ≠ c ∨ p ≠ i) : ((State.pumpN n s c i).cell d).port p = (s.cell d).port p := by
  induction n generalizing s with
  | zero => rfl
  | succ n ih =>
    unfold State.pumpN
    split
    · rfl
    · exact (ih _).trans (s.onPort_port_other h _)

/-- A frame for one output touches no other port. -/
theorem State.enqueue_port_other {i : Nat} (h : d ≠ c ∨ p ≠ i) (idx : Nat) (x : Frame) :
    ((s.enqueue c i idx x).cell d).port p = (s.cell d).port p := by
  unfold State.enqueue
  split
  · rfl
  · split
    · exact s.onPort_port_other h _
    · exact (State.pumpN_port_other _ _ h).trans (s.onPort_port_other h _)

/-- Index 13 is no port: what goes there leaves for the Manager's program (R17). -/
theorem State.enqueue_anchor (c i : Nat) (x : Frame) : s.enqueue c anchorIndex i x = s.emit (.frame c anchorIndex x) := if_pos rfl

theorem State.mkFrame_port (o : Out) : ((s.mkFrame c o).2.cell d).port p = (s.cell d).port p := by
  unfold State.mkFrame
  dsimp only
  split
  · exact s.onCell_port fun _ => rfl
  · rfl

theorem linkUp_live {a b o : Nat} (h : s.linkUp a b = true) (hp : internalPort a b = some o) : ((s.cell a).port o).dead = false := by
  unfold State.linkUp at h
  rw [hp] at h
  split at h
  next q hq _ =>
    cases hq
    simp only [Bool.and_eq_true, Bool.not_eq_true'] at h
    obtain ⟨hlive, -⟩ := h
    exact hlive
  next => exact nomatch h

/-- A route leads to the Manager's program or out of a port that is not down (R15, R16). -/
theorem route_live {seat cell o : Nat} (h : s.route c seat cell = some o) : o = anchorIndex ∨ ((s.cell c).port o).dead = false := by
  unfold State.route at h
  split at h
  · split at h
    · exact .inl (Option.some.inj h).symm
    · split at h
      · split at h
        · exact nomatch h
        next hlive =>
          cases h
          exact .inr (Bool.eq_false_iff.mpr hlive)
      · split at h
        next m hm =>
          have hfound := List.find?_some hm
          simp only [Bool.and_eq_true] at hfound
          obtain ⟨⟨-, hup⟩, -⟩ := hfound
          exact .inr (linkUp_live s hup h)
        next => exact nomatch h
  · dsimp only at h
    generalize hcand : List.filter (fun i => decide (i < 12) && !((s.cell c).port i).dead) _ = cand at h
    have hmem (ho : o ∈ cand) : ((s.cell c).port o).dead = false := by
      subst hcand
      obtain ⟨-, hlive⟩ := List.mem_filter.mp ho
      simp only [Bool.and_eq_true, Bool.not_eq_true'] at hlive
      exact hlive.2
    refine .inr (hmem ?_)
    split at h
    next i l hl =>
      cases h
      exact List.mem_of_mem_filter (hl ▸ List.mem_cons_self ..)
    next => exact List.mem_of_head? h

/-- What a cell sends over its routes touches no port of another cell and none that is down. -/
theorem State.send_port_other (h : d ≠ c ∨ ((s.cell c).port p).dead = true) (i : Nat) (o : Out) :
    ((s.send c i o).1.cell d).port p = (s.cell d).port p := by
  unfold State.send
  split
  · rfl
  · split
    · rfl
    next out hout =>
      refine .trans ?_ (s.mkFrame_port (c := c) o)
      rcases route_live s hout with rfl | hlive
      · dsimp only
        rw [State.enqueue_anchor]
        rfl
      · refine State.enqueue_port_other _ (h.imp id fun hdead heq => ?_) i _
        subst heq
        exact absurd hdead (Bool.eq_false_iff.mp hlive)

theorem State.mailUnits_port_other (n : Nat) (us : List (Nat × Nat)) (h : d ≠ c ∨ ((s.cell c).port p).dead = true) :
    ((State.mailUnits n s c us).cell d).port p = (s.cell d).port p := by
  induction n generalizing s us with
  | zero => rfl
  | succ n ih =>
    unfold State.mailUnits
    split
    · rfl
    · refine (ih _ _ ?_).trans (s.send_port_other h _ _)
      by_cases hd : d = c
      · subst hd
        exact h.imp id fun hdead => by rwa [s.send_port_other h]
      · exact .inl hd

theorem State.msix_cells (n v : Nat) : (s.msix n v).cells = s.cells := by
  unfold State.msix
  repeat' split
  all_goals rfl

theorem State.pldmEvent_port (l : List Nat) : ((s.pldmEvent c l).cell d).port p = (s.cell d).port p := by
  unfold State.pldmEvent
  dsimp only
  split
  · rfl
  · exact s.onCell_port fun _ => rfl

theorem State.errLocal_port (e : Ev) : ((s.errLocal c e).cell d).port p = (s.cell d).port p := by
  have hpush : ((s.onCell c (fun k => { k with err := k.err.push (s.mkErr c e) })).cell d).port p = (s.cell d).port p :=
    s.onCell_port fun _ => rfl
  have htold (x : State) : ((if e.sev ≥ 2 then x.msix 0 3 else x).cell d).port p = (x.cell d).port p := by
    split
    · rw [State.cell, State.msix_cells]
      rfl
    · rfl
  unfold State.errLocal
  dsimp only
  split
  · exact (State.pldmEvent_port ..).trans ((htold _).trans hpush)
  · exact (htold _).trans hpush

/-- A record of a cell touches no port of another cell and none that is down (R328, R329). -/
theorem State.err_port_other (h : d ≠ c ∨ ((s.cell c).port p).dead = true) (e : Ev) :
    ((s.err c e).cell d).port p = (s.cell d).port p := by
  have hlocal (m : Nat) := s.errLocal_port (c := c) (d := m) (p := p) e
  unfold State.err
  dsimp only
  split
  · exact hlocal d
  · split
    · unfold State.mail
      split
      · refine (State.mailUnits_port_other _ _ _ ?_).trans (hlocal d)
        exact h.imp id fun hdead => (congrArg Port.dead (hlocal c)).trans hdead
      · exact hlocal d
    · refine (State.onCell_port _ ?_).trans (hlocal d)
      exact fun _ => rfl

end

/-! ### One end of a port falls (R268, R300) -/

/-- A port that goes down at `now`: the fifth time within 1 s it is quarantined, and a HOLD until further notice ends (R268, R300). -/
def Port.fallen (now : Nat) (q : Port) : Port :=
  let times := recentTimes now 1000000000 q.retrains ++ [now]
  { q with
    up := false, rate := 0, tryRate := 3, fails := 0, reqAt := none
    holdUntil := if q.holdUntil = some (2 ^ 64 - 1) then none else q.holdUntil
    retrains := if 5 ≤ times.length then [] else times
    quarUntil := if 5 ≤ times.length then some (now + quarSeconds (q.series now) * 1000000000) else q.quarUntil
    qcount := if 5 ≤ times.length then q.series now + 1 else q.qcount }

theorem Port.fallen_link (now : Nat) (q : Port) : (q.fallen now).link = q.link.fallen now := rfl

/-- What a port becomes turns on what it is alone. -/
theorem State.onPort_congr {s : State} {c p : Nat} {f g : Port → Port} (h : f ((s.cell c).port p) = g ((s.cell c).port p)) :
    s.onCell c (fun k => k.onPort p f) = s.onCell c (fun k => k.onPort p g) := by
  rw [State.onCell, State.onCell, Cell.onPort, Cell.onPort, h]

section
variable (s : State) (c p : Nat)

/-- A port that goes down falls, is reported, and its frames find another way (R268). -/
theorem State.portDown_eq :
    ∃ e, s.portDown c p = ((s.onCell c (fun k => k.onPort p (Port.fallen s.now))).err c e).rerouteQueue c p true := by
  unfold State.portDown
  dsimp only
  rw [State.onPort_congr (g := Port.fallen s.now)]
  · split <;> exact ⟨_, rfl⟩
  · simp only [Port.fallen]

theorem State.portDown_voids : Voids s (s.portDown c p) := by
  obtain ⟨e, he⟩ := s.portDown_eq c p
  rw [he]
  exact ((s.onPort_voids ..).trans (State.err_reports (.refl _) ..).voids).trans (State.rerouteQueue_voids ..)

/-- Of all ports one that goes down falls alone. -/
theorem State.portDown_link (d q : Nat) : (((s.portDown c p).cell d).port q).link =
    if d = c ∧ q = p then ((s.cell c).port p).link.fallen s.now else ((s.cell d).port q).link := by
  obtain ⟨e, he⟩ := s.portDown_eq c p
  rw [he, (State.rerouteQueue_links ..).port, (State.err_links ..).port]
  split
  next h =>
    obtain ⟨rfl, rfl⟩ := h
    rw [State.cell_onCell_same, Cell.port_onPort, if_pos rfl, Port.fallen_link]
  next h => rw [s.onPort_port_other (by omega)]

/-- Where no frame waits for a port nor is under way, none has to find another way. -/
theorem State.rerouteQueue_of_empty {c p : Nat} (hq : ((s.cell c).port p).queue = []) (hu : ((s.cell c).port p).unacked = []) :
    s.rerouteQueue c p true = s.onCell c (fun k => k.onPort p (fun x => { x with queue := [], unacked := [] })) := by
  simp only [State.rerouteQueue, hq, hu, if_true, List.map_nil, List.append_nil, List.filter_nil, List.foldl_nil]

section
variable {s c p} (hq : ((s.cell c).port p).queue = []) (hu : ((s.cell c).port p).unacked = [])
include hq hu

/-- A port that goes down while nothing waits for it: it falls, and is reported. -/
theorem State.portDown_of_empty : ∃ e, s.portDown c p = ((s.onCell c (fun k => k.onPort p (Port.fallen s.now))).err c e).onCell c
    (fun k => k.onPort p (fun x => { x with queue := [], unacked := [] })) := by
  obtain ⟨e, he⟩ := s.portDown_eq c p
  have hport : (((s.onCell c (fun k => k.onPort p (Port.fallen s.now))).cell c).port p) = ((s.cell c).port p).fallen s.now := by
    rw [State.cell_onCell_same, Cell.port_onPort, if_pos rfl]
  have hsame := State.err_port_other (d := c) (p := p) (c := c) _ (.inr ((congrArg Port.dead hport).trans rfl)) e
  refine ⟨e, he.trans (State.rerouteQueue_of_empty _ ?_ ?_)⟩
  · rw [hsame, hport]
    exact hq
  · rw [hsame, hport]
    exact hu

theorem State.portDown_reports : Reports s (s.portDown c p) := by
  obtain ⟨e, he⟩ := State.portDown_of_empty hq hu
  rw [he]
  exact State.onPort_reports (State.err_reports (State.onPort_reports (.refl s) ..) ..) ..

theorem State.portDown_port_other {d : Nat} (q : Nat) (h : d ≠ c) : ((s.portDown c p).cell d).port q = (s.cell d).port q := by
  obtain ⟨e, he⟩ := State.portDown_of_empty hq hu
  rw [he, State.onPort_port_other _ (.inl h), State.err_port_other _ (.inl h), State.onPort_port_other _ (.inl h)]

end

end

/-! ### A port retrains at all its ends (R268) -/

/-- The two ends of an internal port lie on two cells (R15). -/
theorem portEnds_cells_nodup : ∀ (c : Fin 8) (p : Fin 12), ((portEnds c p).map Prod.fst).Nodup := by decide

section
variable (s : State)

theorem foldl_portDown_link (l : List (Nat × Nat)) (hl : l.Nodup) (e : Nat × Nat) :
    (((l.foldl (fun acc e => acc.portDown e.1 e.2) s).cell e.1).port e.2).link =
      if e ∈ l then ((s.cell e.1).port e.2).link.fallen s.now else ((s.cell e.1).port e.2).link := by
  induction l generalizing s with
  | nil => rfl
  | cons b l ih =>
    obtain ⟨hb, hl⟩ := List.nodup_cons.mp hl
    rw [List.foldl_cons, ih _ hl, (s.portDown_voids b.1 b.2).now, s.portDown_link]
    by_cases heq : e = b
    · subst heq
      simp [hb]
    · have hne : ¬(e.1 = b.1 ∧ e.2 = b.2) := fun h => heq (Prod.ext h.1 h.2)
      simp [heq, hne]

/-- Where nothing waits at any of the ends, their fall does nothing else than report. -/
theorem foldl_portDown_reports (l : List (Nat × Nat)) (hl : (l.map Prod.fst).Nodup)
    (hempty : ∀ e ∈ l, ((s.cell e.1).port e.2).queue = [] ∧ ((s.cell e.1).port e.2).unacked = []) :
    Reports s (l.foldl (fun acc e => acc.portDown e.1 e.2) s) := by
  induction l generalizing s with
  | nil => exact .refl s
  | cons b l ih =>
    obtain ⟨hb, hl⟩ := List.nodup_cons.mp hl
    obtain ⟨hq, hu⟩ := hempty b (List.mem_cons_self ..)
    refine (State.portDown_reports hq hu).trans (ih _ hl fun e he => ?_)
    have hne : e.1 ≠ b.1 := fun h => hb (h ▸ List.mem_map_of_mem (f := Prod.fst) he)
    rw [State.portDown_port_other hq hu _ hne]
    exact hempty e (List.mem_cons_of_mem _ he)

variable {s} {c : Fin 8} {p : Fin 12} (hup : ((s.cell c).port p).up = true)
include hup

theorem retrain_of_up : s.retrain c p = (portEnds c p).foldl (fun acc e => acc.portDown e.1 e.2) s := if_pos hup

theorem State.retrain_link {e : Nat × Nat} (he : e ∈ portEnds c p) :
    (((s.retrain c p).cell e.1).port e.2).link = ((s.cell e.1).port e.2).link.fallen s.now := by
  rw [retrain_of_up hup, foldl_portDown_link _ _ (.of_map _ (portEnds_cells_nodup c p)), if_pos he]

theorem State.retrain_voids : Voids s (s.retrain c p) :=
  (retrain_of_up hup).symm ▸ foldl_voids s _ fun x e => x.portDown_voids e.1 e.2

end

/-! ### Training and quarantines -/

/-- What each turn of a fold gives its own item, and no other turn takes away, holds of every item after the fold. -/
theorem foldl_establishes {β : Type} {l : List β} {f : State → β → State} {P : β → State → Prop} (hown : ∀ x b, P b (f x b))
    (hkeep : ∀ x b d, P d x → P d (f x b)) {b : β} (hb : b ∈ l) (s : State) : P b (l.foldl f s) := by
  obtain ⟨before, after, rfl⟩ := List.append_of_mem hb
  rw [List.foldl_append, List.foldl_cons]
  exact List.foldlRecOn after f (hown _ b) fun x hx d _ => hkeep x d b hx

section
variable {s : State} {c p : Nat}

/-- A change of one port reaches that port alone. -/
theorem State.onPort_port (f : Port → Port) (e : Nat × Nat) : ((s.onCell c (fun k => k.onPort p f)).cell e.1).port e.2 =
    if e = (c, p) then f ((s.cell c).port p) else (s.cell e.1).port e.2 := by
  split
  next h =>
    subst h
    rw [State.cell_onCell_same, Cell.port_onPort, if_pos rfl]
  next h => exact s.onPort_port_other (by simpa [Prod.ext_iff, or_iff_not_imp_left] using h) f

/-- A port may train where the fabric runs and both of its ends are there (R267, R300). -/
structure MayTrain (s : State) (c p : Nat) : Prop where
  fabric : s.fabricUp = true
  down   : ((s.cell c).port p).up = false
  free   : ((s.cell c).port p).quarUntil = none
  alive  : ∀ e ∈ portEnds c p, (s.cell e.1).korif.dead = false

section
variable (h : MayTrain s c p)
include h

theorem train_guard :
    (!s.fabricUp || ((s.cell c).port p).up || ((s.cell c).port p).quarUntil.isSome || (portEnds c p).any fun e => (s.cell e.1).korif.dead) =
      false := by
  have halive : ((portEnds c p).any fun e => (s.cell e.1).korif.dead) = false := by simpa using h.alive
  simp only [h.fabric, h.down, h.free, halive, Option.isSome_none, Bool.not_true, Bool.or_self]

/-- An internal port trains at both ends (R15, R267). -/
theorem train_internal (hp : p < 4) (offered : Nat) : s.train c p offered true = (portEnds c p).foldl (fun acc e =>
    (acc.onCell e.1 (fun k => k.onPort e.2 (fun q => q.trained 0))).pump e.1 e.2) s := by
  simp only [State.train, train_guard h, hp, Bool.false_eq_true, if_false, if_true]

section
variable (hp : 4 ≤ p) (offered : Nat)
include hp

theorem train_of_no_rate (hr : min ((s.cell c).port p).tryRate offered = 0) (ok : Bool) : s.train c p offered ok = s := by
  simp only [State.train, train_guard h, Nat.not_lt.mpr hp, hr, Bool.false_eq_true, if_false, if_true]

variable (hr : min ((s.cell c).port p).tryRate offered ≠ 0)
include hr

/-- An external port that trains comes up at the rate that both ends offer (R267). -/
theorem train_external : s.train c p offered true =
    (s.onCell c (fun k => k.onPort p (fun q => q.trained (min ((s.cell c).port p).tryRate offered)))).pump c p := by
  simp only [State.train, train_guard h, Nat.not_lt.mpr hp, hr, Bool.false_eq_true, if_false, if_true]

/-- A failed attempt is counted (R267). -/
theorem train_failed (hf : ((s.cell c).port p).fails + 1 < 3) : s.train c p offered false =
    s.onCell c (fun k => k.onPort p (fun q => { q with fails := q.fails + 1 })) := by
  simp only [State.train, train_guard h, Nat.not_lt.mpr hp, hr, hf, Bool.false_eq_true, if_false, if_true]

/-- The third in succession goes one rate lower, and is reported where there is one (R267). -/
theorem train_failed_third (hf : 3 ≤ ((s.cell c).port p).fails + 1) :
    let s1 := s.onCell c (fun k => k.onPort p (fun q => { q with fails := 0, tryRate := min ((s.cell c).port p).tryRate offered - 1 }))
    s.train c p offered false = if 1 < min ((s.cell c).port p).tryRate offered then
      s1.err c { cls := clsLINK, sev := 1, unit := 4, core := p } else s1 := by
  simp only [State.train, train_guard h, Nat.not_lt.mpr hp, hr, Nat.not_lt.mpr hf, Bool.false_eq_true, if_false]

end

end

/-- A quarantine ends at every end of its port (R300). -/
theorem endQuarantine_of_some (hq : ((s.cell c).port p).quarUntil.isSome = true) :
    s.endQuarantine c p = (portEnds c p).foldl (fun acc e => acc.onCell e.1 (fun k => k.onPort e.2 (fun q =>
      { q with quarUntil := none, qend := s.now, tryRate := 3, fails := 0 }))) s :=
  if_neg (by simpa [Option.isSome_iff_ne_none] using hq)

end

/-- A field that passing frames do not move is the fallen port's. -/
theorem Port.fallen_field {q q0 : Port} {now : Nat} (h : q.link = q0.link.fallen now) {γ : Type} (π : Port → γ)
    (hπ : ∀ q : Port, π q.link = π q) : π q = π (q0.fallen now) := by
  rw [← hπ q, h, ← Port.fallen_link, hπ]

/-- The fifth fall within 1 s quarantines the port, 10 s doubling to 600 s (R300). -/
theorem Port.fallen_quarantine (now : Nat) (q : Port) : let n := (recentTimes now 1000000000 q.retrains).length + 1
    let count := if q.quarUntil = none ∧ q.qend + 3600000000000 ≤ now then 0 else q.qcount
    (n < 5 → (q.fallen now).quarUntil = q.quarUntil) ∧
    (5 ≤ n → (q.fallen now).quarUntil = some (now + min 600 (10 * 2 ^ count) * 1000000000) ∧ (q.fallen now).qcount = count + 1) := by
  have hseries : q.series now = if q.quarUntil = none ∧ q.qend + 3600000000000 ≤ now then 0 else q.qcount := by
    simp [Port.series]
  simp only [Port.fallen, List.length_append, List.length_singleton, hseries, quarSeconds]
  refine ⟨fun h => if_neg (by omega), fun h => ⟨if_pos h, if_pos h⟩⟩

section
variable {t : Nat} {cell : Fin 8} {port : Fin 12} {s x : State} {P : State → Prop}

theorem portTrain_answers {offered : Nat} {ok : Bool} (hx : (s.at t).train cell port offered ok = x) (hP : ∀ s', EndsAs x s' → P s') :
    Answers (.portTrain t cell port offered ok) s P := .of_run rfl hx hP

end

/-- Settles O39: what each attempt to train does, that all ends of a port fall or leave quarantine, and that what follows reports. -/
theorem portsTrainRetrainAndAreQuarantined : Obligations.PortsTrainRetrainAndAreQuarantined := by
  intro t cell port s
  refine ⟨fun offered ok hfab hdown hfree halive => ⟨fun hp => ⟨fun hr => ?noRate, fun hr hok => ?up, fun hr hok => ?failed⟩,
    fun hp hok => ?internal⟩, fun hup => ?retrain, fun h hq hle => ?quarantine⟩
  case noRate =>
    exact portTrain_answers (train_of_no_rate ⟨hfab, hdown, hfree, halive⟩ hp offered hr ok) fun s' h => h.silent
  case up =>
    subst hok
    refine portTrain_answers (train_external ⟨hfab, hdown, hfree, halive⟩ hp offered hr) fun s' h => ?_
    refine ⟨(State.pump_reports (State.onPort_reports (.refl _) ..) ..).trans h.reports, ?_⟩
    have hlink := (State.pump_links (((s.at t).onCell cell (fun k => k.onPort port (fun q =>
      q.trained (min (((s.at t).cell cell).port port).tryRate offered))))) cell port)
    dsimp only
    rw [h.port, hlink.field Port.up fun _ => rfl, hlink.field Port.rate fun _ => rfl, State.onPort_port _ (cell, port), if_pos rfl]
    exact ⟨rfl, rfl⟩
  case failed =>
    subst hok
    have hone (f : Port → Port) : (((s.at t).onCell cell (fun k => k.onPort port f)).cell cell).port port =
        f (((s.at t).cell cell).port port) := (State.onPort_port f (cell, port)).trans (if_pos rfl)
    rcases Nat.lt_or_ge ((((s.at t).cell cell).port port).fails + 1) 3 with hf | hf
    · refine portTrain_answers (train_failed ⟨hfab, hdown, hfree, halive⟩ hp offered hr hf) fun s' h => ?_
      refine ⟨(State.onPort_reports (.refl _) ..).trans h.reports, ?_⟩
      dsimp only
      rw [h.port, hone]
      exact ⟨hdown, fun _ => ⟨rfl, rfl⟩, fun hge => absurd hf (Nat.not_lt.mpr hge)⟩
    · refine portTrain_answers (train_failed_third ⟨hfab, hdown, hfree, halive⟩ hp offered hr hf) fun s' h => ?_
      have hlink := ite_links _ (p := 1 < min (((s.at t).cell cell).port port).tryRate offered)
        (State.err_links _ cell.val { cls := clsLINK, sev := 1, unit := 4, core := port }) (Links.refl ((s.at t).onCell cell
          (fun k => k.onPort port (fun q => { q with fails := 0, tryRate := min (((s.at t).cell cell).port port).tryRate offered - 1 }))))
      have moved := State.onPort_reports (.refl (s.at t)) cell port fun q =>
        { q with fails := 0, tryRate := min (((s.at t).cell cell).port port).tryRate offered - 1 }
      refine ⟨(ite_reports (State.err_reports moved ..) moved).trans h.reports, ?_⟩
      dsimp only
      rw [h.port, hlink.field Port.up fun _ => rfl, hlink.field Port.fails fun _ => rfl, hlink.field Port.tryRate fun _ => rfl, hone]
      exact ⟨hdown, fun hlt => absurd hf (Nat.not_le.mpr hlt), fun _ => ⟨rfl, rfl⟩⟩
  case internal =>
    subst hok
    refine portTrain_answers (train_internal ⟨hfab, hdown, hfree, halive⟩ hp offered) fun s' h => ⟨?_, fun e he => ?_⟩
    · exact (foldl_reports _ _ (.refl _) fun x e hx => State.pump_reports (State.onPort_reports hx ..) ..).trans h.reports
    · have hup (x : State) (b d : Nat × Nat) : (((((x.onCell b.1 (fun k => k.onPort b.2 (fun q => q.trained 0))).pump b.1 b.2).cell
          d.1).port d.2).up) = if d = b then true else ((x.cell d.1).port d.2).up := by
        rw [(State.pump_links ..).field Port.up fun _ => rfl, State.onPort_port, apply_ite Port.up]
        rfl
      dsimp only
      rw [h.port]
      refine foldl_establishes (P := fun d x => ((x.cell d.1).port d.2).up = true) (fun x b => ?_) (fun x b d hd => ?_) he _
      · rw [hup, if_pos rfl]
      · rw [hup, hd, ite_self]
  case retrain =>
    refine .of_run rfl rfl fun s' h => ⟨fun hempty => ?_, fun m => ?_, fun e he => ?_, fun hp => ?_⟩
    · rw [retrain_of_up hup] at h
      exact (foldl_portDown_reports _ _ (portEnds_cells_nodup cell port) hempty).trans h.reports
    · have hv := (State.retrain_voids hup).trans h.reports.voids
      exact ⟨hv.field Cell.tiers (fun _ _ _ _ => rfl) m, hv.field Cell.fig (fun _ _ _ _ => rfl) m,
        hv.field Cell.gen (fun _ _ _ _ => rfl) m⟩
    · have hlink := State.retrain_link hup he
      dsimp only
      rw [h.port, Port.fallen_field hlink Port.up fun _ => rfl, Port.fallen_field hlink Port.rate fun _ => rfl,
        Port.fallen_field hlink Port.dead fun _ => rfl, Port.fallen_field hlink Port.holdUntil fun _ => rfl]
      exact ⟨rfl, rfl, rfl, rfl⟩
    · have hlink := State.retrain_link hup (e := (cell.val, port.val)) (by obtain ⟨l, hl⟩ := portEnds_eq_cons cell port; simp [hl])
      dsimp only
      rw [h.port, Port.fallen_field hlink Port.quarUntil fun _ => rfl, Port.fallen_field hlink Port.qcount fun _ => rfl]
      exact Port.fallen_quarantine ..
  case quarantine =>
    have hend := endQuarantine_of_some (s := s.at t) (c := cell) (p := port) (by rw [hq]; rfl)
    refine .of_run rfl (by simp only [hq]; exact (if_pos hle).trans hend) fun s' hs' => ⟨?_, fun e he => ?_⟩
    · exact (foldl_reports _ _ (.refl _) fun x e hx => State.onPort_reports hx ..).trans hs'.reports
    · dsimp only
      rw [hs'.port]
      refine foldl_establishes (P := fun d x => ((x.cell d.1).port d.2).quarUntil = none ∧ ((x.cell d.1).port d.2).tryRate = 3 ∧
        ((x.cell d.1).port d.2).fails = 0) (fun x b => ?_) (fun x b d hd => ?_) he _
      · rw [State.onPort_port, if_pos rfl]
        exact ⟨rfl, rfl, rfl⟩
      · rw [State.onPort_port]
        split
        · exact ⟨rfl, rfl, rfl⟩
        · exact hd

end Sys2Proof.Machine

/-! ## PRESENCE, joining and leaving a table (R283, R286 to R289, R292, R293, R302) -/

namespace Sys2Proof.Machine

/-! ### PRESENCE (R286, R287, R302) -/

section
variable {s : State} {c p : Nat} {x : Frame}

/-- A change of one port keeps what it keeps of that port, at every port. -/
theorem State.onPort_field {γ : Type} (π : Port → γ) {f : Port → Port} (hf : ∀ q, π (f q) = π q) (d i : Nat) :
    π (((s.onCell c (fun k => k.onPort p f)).cell d).port i) = π ((s.cell d).port i) := by
  rw [State.onPort_port f (d, i)]
  split
  next h =>
    cases h
    exact hf _
  next => rfl

theorem takePresence_of_copy (h : x.firstHand = false) : s.takePresence c p x = s.emit (.frame c anchorIndex x) := by
  simp only [State.takePresence, h, Bool.not_false, if_true]

theorem State.takePresence_reports : Reports s (s.takePresence c p x) := by
  have known := State.onPort_reports (.refl s) c p fun q => { q with peer := some (BitVec.ofNat 256 x.data) }
  unfold State.takePresence
  dsimp only
  refine ite_reports (State.emit_reports (.refl s) _) (ite_reports known (ite_reports (State.pump_reports known ..)
    (ite_reports known (State.send_reports (State.onPort_reports known ..) ..))))

/-- A field of a port that neither a peer, nor the time of the last copy, nor passing frames touch is as it was after a PRESENCE. -/
theorem State.takePresence_field {γ : Type} (π : Port → γ) (hlink : ∀ q : Port, π q.link = π q)
    (hpeer : ∀ (q : Port) a, π { q with peer := a } = π q) (hfwd : ∀ (q : Port) a, π { q with fwdAt := a } = π q) (d i : Nat) :
    π (((s.takePresence c p x).cell d).port i) = π ((s.cell d).port i) := by
  have known := State.onPort_field (s := s) (c := c) (p := p) π (fun q => hpeer q (some (BitVec.ofNat 256 x.data))) d i
  unfold State.takePresence
  dsimp only
  refine ite_same (fun y : State => π ((y.cell d).port i)) rfl (ite_same (fun y : State => π ((y.cell d).port i)) known
    (ite_same (fun y : State => π ((y.cell d).port i)) (((State.pump_links ..).field π hlink d i).trans known)
      (ite_same (fun y : State => π ((y.cell d).port i)) known (((State.send_links ..).field π hlink d i).trans
        ((State.onPort_field π (fun q => hfwd q _) d i).trans known)))))

/-- The peer of a port is the sender of its first-hand PRESENCE (R286). -/
theorem takePresence_peer (h : x.firstHand = true) :
    (((s.takePresence c p x).cell c).port p).peer = some (BitVec.ofNat 256 x.data) := by
  have known : (((s.onCell c (fun k => k.onPort p (fun q => { q with peer := some (BitVec.ofNat 256 x.data) }))).cell c).port p).peer =
      some (BitVec.ofNat 256 x.data) := congrArg Port.peer ((State.onPort_port _ (c, p)).trans (if_pos rfl))
  unfold State.takePresence
  simp only [h, Bool.not_true, Bool.false_eq_true, if_false]
  refine ite_same (fun y : State => ((y.cell c).port p).peer) known (ite_same (fun y : State => ((y.cell c).port p).peer)
    (((State.pump_links ..).field Port.peer (fun _ => rfl) c p).trans known)
      (ite_same (fun y : State => ((y.cell c).port p).peer) known (((State.send_links ..).field Port.peer (fun _ => rfl) c p).trans
        ((State.onPort_field Port.peer (f := fun q => { q with fwdAt := some s.now }) (fun _ => rfl) c p).trans known))))

/-- No source of the buffer sent the frame (R302). -/
theorem buffered_of_new {q : Port} (hnew : ∀ y ∈ q.buffered, presenceKey y ≠ presenceKey x) :
    (q.buffered.any fun y => presenceKey y = presenceKey x) = false := by simpa using hnew

section
variable (hnone : (((s.cell c).port p).buffered.any fun y => presenceKey y = presenceKey x) = false)
include hnone

/-- The presence of a new source waits while the buffer has room (R302). -/
theorem bufferPresence_of_room (hroom : ((s.cell c).port p).buffered.length < 64) : s.bufferPresence c p x =
    s.onCell c (fun k => k.onPort p (fun q => { q with buffered := q.buffered ++ [x] })) := by
  rw [State.bufferPresence]
  dsimp only
  rw [if_neg (by rw [hnone]; decide), if_pos hroom]
  rw [State.onPort_congr]
  rfl

/-- Beyond 64 sources it is answered with a HOLD of a free hold-off (R302). -/
theorem bufferPresence_of_full (hfull : 64 ≤ ((s.cell c).port p).buffered.length) : ∃ v, s.bufferPresence c p x =
    ({ s with free := s.free + 1 } : State).sendHold c p 2 v 100000 := by
  simp only [State.bufferPresence, hnone, Nat.not_lt.mpr hfull, Bool.false_eq_true, if_false]
  exact ⟨_, rfl⟩

end

/-- The buffered presences of one port, in arrival order, once discovery is accepted (R302). -/
def State.discover (s : State) (e : Nat × Nat) : State :=
  let b := ((s.cell e.1).port e.2).buffered
  b.foldl (fun acc x => acc.takePresence e.1 e.2 x)
    (if b.isEmpty then s else s.onCell e.1 (fun k => k.onPort e.2 (fun q => { q with buffered := [] })))

theorem State.discover_reports (s : State) (e : Nat × Nat) : Reports s (s.discover e) := by
  unfold State.discover
  exact foldl_reports _ _ (ite_reports (.refl s) (State.onPort_reports (.refl s) ..)) fun x b hx => hx.trans x.takePresence_reports

/-- A port's buffer is empty after its turn, and no turn of another port fills it. -/
theorem State.discover_buffered (s : State) (e d : Nat × Nat) : (((s.discover e).cell d.1).port d.2).buffered =
    if d = e then [] else ((s.cell d.1).port d.2).buffered := by
  unfold State.discover
  dsimp only
  refine (foldl_same (fun y : State => ((y.cell d.1).port d.2).buffered) _ _ fun y x =>
    State.takePresence_field Port.buffered (fun _ => rfl) (fun _ _ => rfl) (fun _ _ => rfl) d.1 d.2).trans ?_
  split
  next h =>
    split
    next he => exact he ▸ List.isEmpty_iff.mp h
    next => rfl
  next =>
    rw [State.onPort_port, apply_ite Port.buffered]

/-- The module once discovery is accepted: the buffered presences of every port have been handled (R302). -/
def State.discovered (s : State) : State :=
  (allCells.flatMap (fun c => (List.range 12).map (fun p => (c, p)))).foldl State.discover
    { s with boot := { s.boot with discovery := true } }

theorem State.discovered_reports (s : State) : Reports { s with boot := { s.boot with discovery := true } } s.discovered :=
  foldl_reports _ _ (.refl _) fun x e hx => hx.trans (x.discover_reports e)

/-- After its turn a port's buffer is empty, and stays so. -/
theorem foldl_discover_buffered {l : List (Nat × Nat)} {e : Nat × Nat} (he : e ∈ l) (s : State) :
    (((l.foldl State.discover s).cell e.1).port e.2).buffered = [] := by
  refine foldl_establishes (P := fun e x => ((x.cell e.1).port e.2).buffered = []) (fun x e => ?_) (fun x e d hd => ?_) he s
  · rw [State.discover_buffered, if_pos rfl]
  · rw [State.discover_buffered, hd, ite_self]

theorem State.discovered_buffered (s : State) {c p : Nat} (hc : c ∈ allCells) (hp : p < 12) :
    ((s.discovered.cell c).port p).buffered = [] :=
  foldl_discover_buffered (e := (c, p)) (List.mem_flatMap.mpr ⟨c, hc, List.mem_map.mpr ⟨p, List.mem_range.mpr hp, rfl⟩⟩) _

theorem execDiscoveryAccept_eq (t : Nat) (s : State) : execDiscoveryAccept t s =
    .next (s.run t (fun s => if !s.boot.running || s.boot.discovery then s else s.discovered)) := by
  unfold execDiscoveryAccept State.discovered State.discover
  rfl

end

/-- Every cell of the module is among its cells (R12). -/
theorem mem_allCells (c : Fin 8) : c.val ∈ allCells := by decide +revert

/-! ### OFFER and the routes of a seat (R283, R288, R293) -/

section
variable {s : State} {c p : Nat} {x : Frame}

theorem State.sendJoin_reports (s : State) (c p subtype status seat : Nat) : Reports s (s.sendJoin c p subtype status seat) :=
  State.sendPort_reports (.refl s) ..

/-- A prospective Manager's module is not seated, or is an orphan (R272). -/
theorem unseated_of_prospective (h : s.prospective x = true) : (s.seating.seated && !s.seating.orphaned) = false := by
  simp only [State.prospective, Bool.and_eq_true, Bool.or_eq_true, Bool.not_eq_true'] at h
  obtain ⟨-, hseat⟩ := h
  rcases hseat with hseat | hseat <;> simp [hseat]

/-- A seated module refuses an offer (R288). -/
theorem takeOffer_of_seated (hs : s.seating.seated = true) (ho : s.seating.orphaned = false) (auth : Bool) :
    s.takeOffer c p x auth = s.sendJoin c p 4 5 0 := by
  simp only [State.takeOffer, hs, ho, Bool.not_false, Bool.and_self, if_true]

section
variable (hp : s.prospective x = true)
include hp

/-- An offer whose Manager fails its check is refused (R393). -/
theorem takeOffer_of_unauthentic : s.takeOffer c p x false = s.sendJoin c p 4 4 0 := by
  simp only [State.takeOffer, unseated_of_prospective hp, hp, Bool.not_true, Bool.not_false, Bool.false_eq_true, if_false, if_true]

/-- An orphan refuses an offer of another table (R293). -/
theorem takeOffer_of_other_table (ho : s.seating.orphaned = true) (hother : x.p 0x10 8 ≠ s.seating.tableId.toNat) :
    s.takeOffer c p x true = s.sendJoin c p 4 5 0 := by
  simp only [State.takeOffer, unseated_of_prospective hp, hp, Bool.not_true, Bool.false_eq_true, if_false]
  exact if_pos (by simp [ho, hother])

/-- An authentic offer of a seat is taken (R288). -/
theorem takeOffer_of_good (htable : s.seating.orphaned = true → x.p 0x10 8 = s.seating.tableId.toNat) (h1 : 1 ≤ x.p 2 2)
    (hmax : x.p 2 2 ≤ 1023) (hid : x.p 0x10 8 ≠ 0) : s.takeOffer c p x true = s.takeSeat c p x := by
  have hsame : (s.seating.orphaned && decide (x.p 0x10 8 ≠ s.seating.tableId.toNat)) = false := by
    cases ho : s.seating.orphaned
    · rfl
    · simp [htable ho]
  have hfields : ¬(x.p 2 2 = 0 ∨ 1023 < x.p 2 2 ∨ x.p 0x10 8 = 0) := by omega
  simp only [State.takeOffer, unseated_of_prospective hp, hp, hsame, hfields, Bool.not_true, Bool.false_eq_true, if_false]

end

theorem State.acceptRoutes_seating (s : State) (c p : Nat) : (s.acceptRoutes c p).seating = s.seating :=
  foldl_same State.seating _ _ fun _ _ => rfl

/-- Cell `k` as an offer that came by port `p` of cell `c` leaves it: without a route but the one to (0, 0) (R283). -/
def State.seatRoute (s : State) (c p k : Nat) (x : Cell) : Cell :=
  { x with korif := { x.korif with
    routes := match (if k = c then some p else s.route k s.mySeat c) with
      | some o => SMap.set [] 0xFF 0 (BitVec.ofNat 8 (0xF0 + o))
      | none => [] } }

theorem State.acceptRoutes_eq (s : State) (c p : Nat) :
    s.acceptRoutes c p = allCells.foldl (fun acc k => acc.onCell k (s.seatRoute c p k)) s := rfl

/-- At seat acceptance the cell that took the offer has the one route to (0, 0), out of the port that the offer came by (R283). -/
theorem State.acceptRoutes_routes (s : State) {c : Nat} (p : Nat) (hc : c ∈ allCells) (a : Nat) :
    ((s.acceptRoutes c p).cell c).korif.routes.get 0xFF a = if a = 0 then BitVec.ofNat 8 (0xF0 + p) else 0xFF := by
  obtain ⟨y, hy⟩ := foldl_onCell_once (g := fun _ => s.seatRoute c p) (l := allCells) (by decide) hc s
  rw [State.acceptRoutes_eq, hy, State.seatRoute, if_pos rfl]
  exact SMap.get_set ..

/-- The seat that an offer gives (R288, R298). -/
def State.offered (s : State) (x : Frame) : Seating :=
  { s.seating with
    tableId := BitVec.ofNat 64 (x.p 0x10 8), manager := false, seated := true, orphaned := false, seat := x.p 2 2,
    level := min 3 (x.p 0x18 1), newLevel := none, lastBeat := s.now, departed := [] }

/-- The module takes the seat, and the cell its route to the Manager; then the acceptance leaves (R283, R288). -/
theorem takeSeat_seats (s : State) {c p : Nat} (hc : c ∈ allCells) (x : Frame) :
    ∃ y, Reports y (s.takeSeat c p x) ∧ y.seating = s.offered x ∧ ∀ a, (y.cell c).korif.routes.get 0xFF a =
      if a = 0 then BitVec.ofNat 8 (0xF0 + p) else 0xFF := by
  refine ⟨_, State.sendJoin_reports .., ?_, fun a => State.acceptRoutes_routes _ p hc a⟩
  rw [State.acceptRoutes_seating]
  rfl

end

/-! ### LEAVE (R291, R292) -/

section
variable (s : State)

/-- A cause touches no switch (R9). -/
theorem State.cause_korif (c code tenant : Nat) (entry : Option Nat) (d : Nat) :
    ((s.cause c code tenant entry).cell d).korif = (s.cell d).korif := by
  unfold State.cause
  rw [State.cell_onCell]
  dsimp only
  split
  · subst_vars
    split <;> rfl
  · rfl

/-- A cell finds a cause of one code for the tenant of each item. -/
def State.causes {β : Type} (s : State) (c code : Nat) (tenant : β → Nat) (l : List β) : State :=
  l.foldl (fun a x => a.cause c code (tenant x) none) s

section
variable {β : Type} (c code d : Nat) (tenant : β → Nat) (l : List β)

theorem State.causes_korif : ((s.causes c code tenant l).cell d).korif = (s.cell d).korif :=
  foldl_same (fun y : State => (y.cell d).korif) l s fun x _ => x.cause_korif ..

theorem State.causes_voids : Voids s (s.causes c code tenant l) := foldl_voids s l fun x _ => x.cause_voids ..

theorem State.causes_seating : (s.causes c code tenant l).seating = s.seating := foldl_same State.seating l s fun _ _ => rfl

end

/-- The routes of a cell with those toward a seat closed (R292). -/
def closeSeat (seat : Nat) (r : SMap (BitVec 8)) : SMap (BitVec 8) :=
  (List.range 8).foldl (fun r j => r.set 0xFF (8 * seat + j) 0xFF) r

theorem get_closeSeat (r : SMap (BitVec 8)) (seat : Nat) {j : Nat} (hj : j < 8) : (closeSeat seat r).get 0xFF (8 * seat + j) = 0xFF :=
  (get_foldl_set_range r 0xFF (fun _ => 0xFF) (8 * seat) 8 _).trans (if_pos (by omega))

/-- A cell whose routes toward a departed seat are closed (R292). -/
def State.closedTo (s : State) (seat c : Nat) : State :=
  s.onCell c (fun k => { k with korif := { k.korif with routes := closeSeat seat k.korif.routes } })

/-- One cell's turn when a seat departs: its routes toward the seat close, and what needs the seat is to void (R292). -/
def State.departAt (mine seat : Nat) (s : State) (c : Nat) : State :=
  let k := (s.closedTo seat c).cell c
  let sent := (s.closedTo seat c).causes c vLINK (fun x => x.2.2.1) (k.step.sentTo.filter (fun x => x.1 = seat))
  if k.placesSeat mine c seat then sent.causes c vLINK TenantRec.tenant ((k.fig.active.map (·.tenants)).getD []) else sent

/-- The module with a seat among the departed ones (R292). -/
def State.withDeparted (s : State) (seat : Nat) : State :=
  { s with
    seating := { s.seating with departed := if s.seating.departed.contains seat then s.seating.departed
      else s.seating.departed ++ [seat] } }

theorem State.depart_eq (seat : Nat) : s.depart seat = allCells.foldl (State.departAt s.mySeat seat) (s.withDeparted seat) := rfl

theorem State.departAt_korif (mine seat c d : Nat) : ((State.departAt mine seat s c).cell d).korif =
    if d = c then { (s.cell c).korif with routes := closeSeat seat (s.cell c).korif.routes } else (s.cell d).korif := by
  have closed : ((s.closedTo seat c).cell d).korif =
      if d = c then { (s.cell c).korif with routes := closeSeat seat (s.cell c).korif.routes } else (s.cell d).korif := by
    rw [State.closedTo, State.cell_onCell]
    split <;> rfl
  unfold State.departAt
  exact ite_same (fun y : State => (y.cell d).korif) ((State.causes_korif ..).trans ((State.causes_korif ..).trans closed))
    ((State.causes_korif ..).trans closed)

theorem State.departAt_voids (mine seat c : Nat) : Voids s (State.departAt mine seat s c) := by
  have closed : Voids s (s.closedTo seat c) := s.onCell_voids c fun _ => ⟨_, _, _, rfl⟩
  unfold State.departAt
  exact ite_voids s (closed.trans ((State.causes_voids ..).trans (State.causes_voids ..))) (closed.trans (State.causes_voids ..))

theorem State.departAt_seating (mine seat c : Nat) : (State.departAt mine seat s c).seating = s.seating := by
  have sent := (s.closedTo seat c).causes_seating c vLINK (fun x => x.2.2.1)
    (((s.closedTo seat c).cell c).step.sentTo.filter (fun x => x.1 = seat))
  unfold State.departAt
  exact ite_same State.seating ((State.causes_seating ..).trans sent) sent

/-- A departed seat has no route on any cell (R292). -/
theorem State.depart_routes (seat : Nat) {m j : Nat} (hm : m ∈ allCells) (hj : j < 8) :
    ((s.depart seat).cell m).korif.routes.get 0xFF (8 * seat + j) = 0xFF := by
  rw [State.depart_eq]
  refine foldl_establishes (P := fun m x => ((x.cell m).korif.routes.get 0xFF (8 * seat + j)) = 0xFF) (fun x c => ?_)
    (fun x c d hd => ?_) hm _
  · rw [State.departAt_korif, if_pos rfl]
    exact get_closeSeat _ seat hj
  · rw [State.departAt_korif]
    split
    · exact get_closeSeat _ seat hj
    · exact hd

theorem State.depart_tiers (seat m : Nat) : ((s.depart seat).cell m).tiers = (s.cell m).tiers := by
  rw [State.depart_eq]
  exact (foldl_voids (s.withDeparted seat) _ fun x c => x.departAt_voids ..).field Cell.tiers (fun _ _ _ _ => rfl) m

theorem State.depart_departed (seat : Nat) : seat ∈ (s.depart seat).seating.departed := by
  rw [State.depart_eq, foldl_same State.seating _ _ fun x c => x.departAt_seating ..]
  show seat ∈ (if s.seating.departed.contains seat then s.seating.departed else s.seating.departed ++ [seat])
  split
  next h => simpa using h
  next => simp

end

/-! ### LEVEL (R289) -/

section
variable {s : State} {c p : Nat} {x : Frame} (h1 : 1 ≤ x.p 0x10 1) (h3 : x.p 0x10 1 ≤ 3)
include h1 h3

/-- Where no step runs a level comes into force at once (R289). -/
theorem levelFrame_of_idle (hidle : ∀ m ∈ allCells, (s.cell m).step.running = false) :
    s.levelFrame c p x = { s with seating := { s.seating with level := x.p 0x10 1, newLevel := none } } := by
  have hnone : (allCells.any fun m => (s.cell m).step.running) = false := by simpa using hidle
  unfold State.levelFrame
  rw [if_neg (by omega)]
  exact if_neg (Bool.eq_false_iff.mp hnone)

/-- Where one runs the level waits (R289). -/
theorem levelFrame_of_running (hrun : ∃ m ∈ allCells, (s.cell m).step.running = true) :
    s.levelFrame c p x = { s with seating := { s.seating with newLevel := some (x.p 0x10 1) } } := by
  unfold State.levelFrame
  rw [if_neg (by omega)]
  exact if_pos (List.any_eq_true.mpr hrun)

end

/-! ### The seat is orphaned (R293) -/

/-- What every cell holds, and where its switch leads: what the loss of a coordinator leaves alone. -/
def State.housed (s : State) : Seating × (Nat → Tiers × SMap (BitVec 8)) := (s.seating, fun c => ((s.cell c).tiers, (s.cell c).korif.routes))

theorem Reports.housed {s s' : State} (h : Reports s s') : s'.housed = s.housed := by
  refine Prod.ext h.seating (funext fun c => ?_)
  obtain ⟨e, p, q, hc⟩ := h.cell c
  simp only [State.housed, hc]

section
variable {s s' : State} (h : s'.housed = s.housed)
include h

theorem housed_seating : s'.seating = s.seating := congrArg Prod.fst h

theorem housed_tiers (c : Nat) : (s'.cell c).tiers = (s.cell c).tiers := congrArg Prod.fst (congrFun (congrArg Prod.snd h) c)

theorem housed_routes (c : Nat) : (s'.cell c).korif.routes = (s.cell c).korif.routes :=
  congrArg Prod.snd (congrFun (congrArg Prod.snd h) c)

end

theorem Reports.routes {s s' : State} (h : Reports s s') (c : Nat) : (s'.cell c).korif.routes = (s.cell c).korif.routes :=
  housed_routes h.housed c

section
variable (s : State)

theorem State.onCell_housed (c : Nat) {f : Cell → Cell} (hf : ∀ k, ((f k).tiers, (f k).korif.routes) = (k.tiers, k.korif.routes)) :
    (s.onCell c f).housed = s.housed := by
  refine Prod.ext rfl (funext fun d => ?_)
  simp only [State.housed, State.cell_onCell]
  split
  · subst_vars
    exact hf _
  · rfl

theorem State.takeLoss_housed (c t : Nat) : (s.takeLoss c t).housed = s.housed := by
  unfold State.takeLoss
  dsimp only
  split
  next d _ =>
    refine ite_same State.housed (((s.fixCell t c).onCell_housed c
      (f := fun k => k.takeDecision t d (s.coord t).decTime k.ud.nextScale) fun _ => rfl).trans ?_) rfl
    exact s.onCell_housed c fun _ => rfl
  · rfl

theorem State.takeLoss_coords (c t : Nat) : (s.takeLoss c t).coords = s.coords := by
  unfold State.takeLoss
  dsimp only
  split
  · exact ite_same State.coords rfl rfl
  · rfl

theorem State.loseStep_housed (t : Nat) : (s.loseStep t).housed = s.housed := by
  refine ite_same State.housed rfl ((foldl_same State.housed _ _ fun x c => x.takeLoss_housed c t).trans ?_)
  exact (State.err_reports (.refl s) ..).housed

/-- A step that its coordinator has decided, and one that has not lost it, stays (R293). -/
theorem State.loseStep_of_not {t : Nat} (h : (s.coord t).active = true → s.cutOff t = true → (s.coord t).decision.isSome = true) :
    s.loseStep t = s := by
  refine if_pos ?_
  cases ha : (s.coord t).active
  · rfl
  · cases hc : s.cutOff t
    · rfl
    · simp [h ha hc]

/-- The loss of one tenant's coordinator touches no other's step. -/
theorem State.loseStep_coord_other {t m : Nat} (h : m ≠ t) : (s.loseStep t).coord m = s.coord m := by
  refine ite_same (fun x : State => x.coord m) rfl ((foldl_same (fun x : State => x.coord m) _ _ fun x c => ?_).trans ?_)
  · exact congrArg (SMap.get · Coord.reset m) (x.takeLoss_coords c t)
  · rw [State.coord_onCoord, if_neg h]
    exact congrArg (SMap.get · Coord.reset m) (State.err_reports (.refl s) ..).coords

/-- An undecided step that has lost its coordinator is void (R20, R293). -/
theorem State.loseStep_coord {t : Nat} (ha : (s.coord t).active = true) (hc : s.cutOff t = true) (hd : (s.coord t).decision = none) :
    ∃ why time, (s.loseStep t).coord t = { s.coord t with decision := some (false, why), decTime := time } := by
  unfold State.loseStep
  dsimp only
  rw [if_neg (by simp [ha, hc, hd]), foldl_same (fun x : State => x.coord t) _ _ fun x c => congrArg (SMap.get · Coord.reset t)
    (x.takeLoss_coords c t), State.coord_onCoord_same, State.coord, (State.err_reports (.refl s) ..).coords]
  exact ⟨_, _, rfl⟩

end

/-- The tenant's step is void. -/
def StepVoid (t : Nat) (s : State) : Prop := ∃ why, (s.coord t).decision = some (false, why)

theorem Reports.stepVoid {s s' : State} (h : Reports s s') {t : Nat} (hv : StepVoid t s) : StepVoid t s' := by
  rwa [StepVoid, State.coord, h.coords]

/-- The seat is orphaned, and the step that the Manager coordinates is open still or void already. -/
structure Orphaned (t : Nat) (s : State) : Prop where
  orphaned : s.seating.orphaned = true
  active   : (s.coord t).active = true
  manager  : (s.coord t).mod = false
  void     : (s.coord t).decision = none ∨ StepVoid t s

section
variable {s : State} {t : Nat}

theorem StepVoid.loseStep (h : StepVoid t s) (m : Nat) : StepVoid t (s.loseStep m) := by
  obtain ⟨why, hd⟩ := h
  by_cases hm : t = m
  · subst hm
    rw [s.loseStep_of_not fun _ _ => by rw [hd]; rfl]
    exact ⟨why, hd⟩
  · exact ⟨why, by rw [s.loseStep_coord_other hm, hd]⟩

/-- A step's own turn voids it. -/
theorem Orphaned.stepVoid (h : Orphaned t s) : StepVoid t (s.loseStep t) := by
  rcases h.void with hopen | hvoid
  · have hcut : s.cutOff t = true := by rw [State.cutOff, h.manager, if_neg Bool.false_ne_true, h.orphaned]
    obtain ⟨why, time, hc⟩ := s.loseStep_coord h.active hcut hopen
    exact ⟨why, by rw [hc]⟩
  · exact hvoid.loseStep t

theorem Orphaned.loseStep (h : Orphaned t s) {m : Nat} (hm : t ≠ m) : Orphaned t (s.loseStep m) := by
  have hseat : (s.loseStep m).seating = s.seating := housed_seating (s.loseStep_housed m)
  have hcoord := s.loseStep_coord_other hm
  exact ⟨hseat ▸ h.orphaned, hcoord ▸ h.active, hcoord ▸ h.manager, h.void.imp (hcoord ▸ ·) (·.loseStep m)⟩

/-- When a seat is orphaned every open step that the Manager coordinates is void: its own turn voids it, and no other opens it again. -/
theorem foldl_loseStep_void {l : List Nat} (hl : l.Nodup) (ht : t ∈ l) (h : Orphaned t s) : StepVoid t (l.foldl State.loseStep s) := by
  obtain ⟨before, after, rfl⟩ := List.append_of_mem ht
  have hbefore : t ∉ before := fun hmem => (List.nodup_append.mp hl).2.2 _ hmem _ (List.mem_cons_self ..) rfl
  have hopen : Orphaned t (before.foldl State.loseStep s) :=
    List.foldlRecOn before _ h fun x hx m hm => hx.loseStep fun heq => hbefore (heq ▸ hm)
  rw [List.foldl_append, List.foldl_cons]
  exact List.foldlRecOn after _ hopen.stepVoid fun x hx m _ => hx.loseStep m

end

/-- The seat is orphaned, and what its coordinator had to decide is void (R293). -/
def State.orphan (s : State) : State :=
  (List.range 64).foldl State.loseStep { s with seating := { s.seating with orphaned := true } }

theorem State.orphan_housed (s : State) : s.orphan.housed = State.housed { s with seating := { s.seating with orphaned := true } } :=
  foldl_same State.housed _ _ fun x m => x.loseStep_housed m

theorem State.orphan_seating (s : State) : s.orphan.seating = { s.seating with orphaned := true } :=
  housed_seating s.orphan_housed

theorem State.orphan_void {s : State} {t : Nat} (ht : t < 64) (ha : (s.coord t).active = true) (hm : (s.coord t).mod = false)
    (hd : (s.coord t).decision = none) : StepVoid t s.orphan :=
  foldl_loseStep_void (s := { s with seating := { s.seating with orphaned := true } }) List.nodup_range (List.mem_range.mpr ht)
    ⟨rfl, ha, hm, .inl hd⟩

section
variable {t : Nat} {cell : Fin 8} {port : Fin 12} {f : Frame} {s s1 x : State} {P : State → Prop}

theorem presence_answers (ha : (s.at t).accept cell port f = (s1, true)) (hf : f.ftype = 4)
    (hx : (if (s.at t).boot.discovery then s1.takePresence cell port f else s1.bufferPresence cell port f) = x)
    (hP : ∀ s', EndsAs x s' → P s') : Answers (.presence t cell port f) s P :=
  .of_run rfl (by simpa [ha, hf] using hx) hP

theorem offer_answers {auth : Bool} (ha : (s.at t).accept cell port f = (s1, true)) (hf : f.ftype = 5) (h2 : f.p 0 1 = 2)
    (hj : s1.joinRelay cell port f = none) (hx : s1.takeOffer cell port f auth = x) (hP : ∀ s', EndsAs x s' → P s') :
    Answers (.offer t cell port f auth) s P :=
  .of_run rfl (by simp [ha, hf, h2, hj, hx]) hP

theorem refuse_answers (ha : (s.at t).accept cell port f = (s1, true)) (hf : f.ftype = 5) (h4 : f.p 0 1 = 4)
    (hj : s1.joinRelay cell port f = none) (hP : ∀ s', EndsAs s1 s' → P s') : Answers (.refuse t cell port f) s P :=
  .of_run rfl (by simp [ha, hf, h4, hj]) hP

theorem leave_answers (ha : (s.at t).accept cell port f = (s1, true)) (hx : s1.takeLeave f = x) (hP : ∀ s', EndsAs x s' → P s') :
    Answers (.leave t cell port f) s P :=
  .of_run rfl (by simp [ha, hx]) hP

theorem level_answers (ha : (s.at t).accept cell port f = (s1, true)) (hf : f.ftype = 5) (h6 : f.p 0 1 = 6)
    (hm : s1.fromManager f = true) (hj : s1.joinRelay cell port f = none) (hx : s1.levelFrame cell port f = x)
    (hP : ∀ s', EndsAs x s' → P s') : Answers (.level t cell port f) s P :=
  .of_run rfl (by simp [ha, hf, h6, hm, hj, hx]) hP

end

/-- Settles O43, command by command: what each frame of a table's does at its port, and what the loss of its heartbeat voids. -/
theorem presenceJoiningAndLeavingATable : Obligations.PresenceJoiningAndLeavingATable := by
  refine ⟨fun t cell port f s1 s ha => ⟨fun hf hdisc hfirst => ?known, fun hf hdisc hcopy => ?copy,
    fun hf hdisc hnew => ⟨fun hroom => ?buffered, fun hfull => ?full⟩,
    fun auth hf h2 hj => ⟨fun hwhy => ?refused, fun hp hauth ho hother => ?otherTable,
      fun hp hauth htable hmin hmax hid => ?taken⟩,
    fun hf h4 hj => ?refuse, fun hf h5 hm hseat hmax => ?leave,
    fun hf h6 hm hj hmin hmax => ⟨fun hidle => ?level, fun hrun => ?levelWaits⟩⟩,
    fun t cell port s => ⟨fun hdisc hu hi hsafe hat => ?beacon, fun hrun hdisc => ?discovery, fun hseated ho hseat hbeat => ?orphan⟩⟩
  case known =>
    refine presence_answers ha hf (if_pos hdisc) fun s' h => ⟨State.takePresence_reports.trans h.reports, ?_⟩
    rw [h.port, takePresence_peer hfirst]
  case copy => exact presence_answers ha hf ((if_pos hdisc).trans (takePresence_of_copy hcopy)) fun s' h => h.silent
  case buffered =>
    exact presence_answers ha hf ((if_neg (Bool.eq_false_iff.mp hdisc)).trans
      (bufferPresence_of_room (buffered_of_new hnew) hroom)) fun s' h => h.silent
  case full =>
    obtain ⟨v, hv⟩ := bufferPresence_of_full (buffered_of_new hnew) hfull
    refine presence_answers ha hf ((if_neg (Bool.eq_false_iff.mp hdisc)).trans hv) fun s' h => ?_
    have hr := (State.sendPort_reports (.refl { s1 with free := s1.free + 1 }) ..).trans h.reports
    exact ⟨hr.free, hr⟩
  case refused =>
    rcases hwhy with ⟨hs, ho⟩ | ⟨hp, rfl⟩
    · exact offer_answers ha hf h2 hj (takeOffer_of_seated hs ho auth) fun s' h => (s1.sendJoin_reports ..).trans h.reports
    · exact offer_answers ha hf h2 hj (takeOffer_of_unauthentic hp) fun s' h => (s1.sendJoin_reports ..).trans h.reports
  case otherTable =>
    subst hauth
    exact offer_answers ha hf h2 hj (takeOffer_of_other_table hp ho hother) fun s' h => (s1.sendJoin_reports ..).trans h.reports
  case taken =>
    subst hauth
    obtain ⟨y, hr, hy, hroutes⟩ := takeSeat_seats s1 (p := port) (mem_allCells cell) f
    refine offer_answers ha hf h2 hj (takeOffer_of_good hp htable hmin hmax hid) fun s' h => ⟨?_, fun a => ?_⟩
    · exact (hr.trans h.reports).seating.trans hy
    · rw [h.routes, ← hroutes, hr.routes]
  case refuse => exact refuse_answers ha hf h4 hj fun s' h => h.silent
  case leave =>
    have hleave : s1.takeLeave f = s1.depart (f.p 2 2) := if_neg (by simp [hf, h5, hm, hseat]; omega)
    refine leave_answers ha hleave fun s' h => ⟨?_, fun m hcell j hj => ?_, fun m => ?_⟩
    · rw [h.reports.seating]
      exact s1.depart_departed _
    · rw [h.routes]
      exact s1.depart_routes _ hcell hj
    · rw [h.reports.tiers, s1.depart_tiers]
  case level => exact level_answers ha hf h6 hm hj (levelFrame_of_idle hmin hmax hidle) fun s' h => h.silent
  case levelWaits => exact level_answers ha hf h6 hm hj (levelFrame_of_running hmin hmax hrun) fun s' h => h.silent
  case beacon =>
    refine .of_run rfl (if_pos (by simp [-State.at_boot, hdisc, hu, hi, hsafe, hat])) fun s' h => ⟨?_, h.silent⟩
    exact (State.sendPort_reports (.refl _) ..).trans h.reports
  case discovery =>
    refine .of_run (execDiscoveryAccept_eq t s) (if_neg (by simp [-State.at_boot, hrun, hdisc])) fun s' h => ⟨?_, fun m hm p hp => ?_⟩
    · exact (s.at t).discovered_reports.trans h.reports
    · rw [h.port]
      exact (s.at t).discovered_buffered hm hp
  case orphan =>
    have hlate : ¬(!(s.at t).seating.seated || (s.at t).seating.orphaned || (s.at t).seating.seat = 0 ||
        (s.at t).now < (s.at t).seating.lastBeat + 30000000) = true := by
      simpa [-State.at_seating, hseated, ho, hseat] using hbeat
    refine .of_run (x := (s.at t).orphan) rfl (if_neg hlate) fun s' h => ⟨?_, fun tn htn ha hm hd => ?_, fun m => ?_⟩
    · exact h.reports.seating.trans (s.at t).orphan_seating
    · exact h.reports.stepVoid (State.orphan_void htn ha hm hd)
    · have hhoused := h.reports.housed.trans (s.at t).orphan_housed
      exact ⟨housed_tiers hhoused m, housed_routes hhoused m⟩

end Sys2Proof.Machine

/-! ## What abandoned swaps, void causes and stopped shuffles leave alone (R45, R206, R265) -/

namespace Sys2Proof.Machine

/-- A cell whose swap and shuffles are cut: tiers, planes, power and the step in progress stand, causes only grow, and no ARM comes. -/
structure CutCell (k k' : Cell) : Prop where
  tiers   : k'.tiers = k.tiers
  plane   : k'.fig.plane = k.fig.plane
  power   : k'.power = k.power
  running : k'.step.running = k.step.running
  causes  : k.step.causes ⊆ k'.step.causes
  arm     : k.fig.arm = none → k'.fig.arm = none

theorem CutCell.refl (k : Cell) : CutCell k k := ⟨rfl, rfl, rfl, rfl, List.Subset.refl _, id⟩

theorem CutCell.trans {a b c : Cell} (h : CutCell a b) (g : CutCell b c) : CutCell a c where
  tiers := g.tiers.trans h.tiers
  plane := g.plane.trans h.plane
  power := g.power.trans h.power
  running := g.running.trans h.running
  causes := List.Subset.trans h.causes g.causes
  arm := g.arm ∘ h.arm

/-- The module as it is but for cut swaps, void causes, and what is reported meanwhile. -/
structure Cuts (s s' : State) : Prop where
  boot    : s'.boot = s.boot
  supply  : s'.supply = s.supply
  flash   : s'.flash = s.flash
  fw      : s'.fw = s.fw
  seating : s'.seating = s.seating
  cell    : ∀ c, CutCell (s.cell c) (s'.cell c)

theorem Cuts.refl (s : State) : Cuts s s := ⟨rfl, rfl, rfl, rfl, rfl, fun _ => .refl _⟩

theorem Cuts.trans {a b c : State} (h : Cuts a b) (g : Cuts b c) : Cuts a c where
  boot := g.boot.trans h.boot
  supply := g.supply.trans h.supply
  flash := g.flash.trans h.flash
  fw := g.fw.trans h.fw
  seating := g.seating.trans h.seating
  cell d := (h.cell d).trans (g.cell d)

theorem Reports.cuts {s s' : State} (h : Reports s s') : Cuts s s' where
  boot := h.boot
  supply := h.supply
  flash := h.flash
  fw := h.fw
  seating := h.seating
  cell c := by
    obtain ⟨e, p, q, hc⟩ := h.cell c
    rw [hc]
    exact ⟨rfl, rfl, rfl, rfl, List.Subset.refl _, id⟩

section
variable (s : State)

theorem foldl_cuts {β : Type} (l : List β) {f : State → β → State} (hf : ∀ x b, Cuts x (f x b)) : Cuts s (l.foldl f s) :=
  List.foldlRecOn l f (.refl s) fun x h b _ => h.trans (hf x b)

theorem State.onCell_cuts (c : Nat) {f : Cell → Cell} (hf : ∀ k, CutCell k (f k)) : Cuts s (s.onCell c f) := by
  refine ⟨rfl, rfl, rfl, rfl, rfl, fun d => ?_⟩
  rw [State.cell_onCell]
  split
  · subst_vars
    exact hf _
  · exact .refl _

theorem State.figEnd_cuts (c : Nat) (cmd : FigCmd) (status : Nat) : Cuts s (s.figEnd c cmd status) :=
  Cuts.trans (b := s.onCell c (fun k => { k with fig := { k.fig with cmds := k.fig.cmds.erase cmd } }.figEnded cmd.code cmd.slot status))
    (s.onCell_cuts c fun _ => ⟨rfl, rfl, rfl, rfl, List.Subset.refl _, id⟩) (s.figEnd_reports c cmd status).cuts

theorem State.abandonSwap_cuts (c : Nat) : Cuts s (s.abandonSwap c) := by
  unfold State.abandonSwap
  split
  · exact .refl s
  · refine (foldl_cuts s _ fun x y => x.figEnd_cuts c y _).trans (State.onCell_cuts _ c fun k => ?_)
    exact ⟨rfl, rfl, rfl, rfl, List.Subset.refl _, fun _ => rfl⟩

/-- After an abandoned swap no ARM pends at the cell (R45). -/
theorem State.abandonSwap_arm (c : Nat) : ((s.abandonSwap c).cell c).fig.arm = none := congrArg Carried.arm (s.abandonSwap_carried c)

theorem State.cause_cuts (c code tenant : Nat) (entry : Option Nat) : Cuts s (s.cause c code tenant entry) := by
  refine s.onCell_cuts c fun k => ?_
  dsimp only
  split
  · exact ⟨rfl, rfl, rfl, rfl, List.subset_append_left .., id⟩
  · exact .refl k

theorem State.learnCaused_cuts (c : Nat) (f : LearnRun → LearnRun) :
    Cuts s (s.onCell c (fun k => { k with learn := k.learn.mapV LearnRun.reset f })) :=
  s.onCell_cuts c fun _ => ⟨rfl, rfl, rfl, rfl, List.Subset.refl _, id⟩

theorem State.causeAll_cuts (c code : Nat) : Cuts s (s.causeAll c code) := (s.cause_cuts ..).trans (State.learnCaused_cuts ..)

theorem State.stopShuffle_cuts : Cuts s s.stopShuffle :=
  foldl_cuts s _ fun x c => x.onCell_cuts c fun k => by
    dsimp only
    split
    · exact .refl k
    · exact ⟨rfl, rfl, rfl, rfl, List.Subset.refl _, id⟩

/-- A step in progress at the cell has the cause `code`, for every tenant (R206). -/
theorem State.mem_causeAll_causes {c code : Nat} (h : (s.cell c).step.running = true) :
    ⟨code, 0xFF, none⟩ ∈ ((s.causeAll c code).cell c).step.causes :=
  ((State.learnCaused_cuts (s.cause c code 0xFF none) c _).cell c).causes (mem_causes_cause s h)

/-- A cell's pending swap is abandoned, and its step in progress has the cause `code` (R326, R369). -/
def State.cutAt (s : State) (code c : Nat) : State := (s.abandonSwap c).causeAll c code

/-- The cells of `l` are cut one after the other. -/
def State.cutThrough (s : State) (code : Nat) (l : List Nat) : State := l.foldl (fun x c => x.cutAt code c) s

/-- Shuffles stop and the cells of `l` are cut (R265, R326, R369). -/
def State.cutAll (s : State) (code : Nat) (l : List Nat) : State := s.stopShuffle.cutThrough code l

theorem State.cutAt_cuts (code c : Nat) : Cuts s (s.cutAt code c) := (s.abandonSwap_cuts c).trans (State.causeAll_cuts ..)

theorem State.cutAt_arm (code c : Nat) : ((s.cutAt code c).cell c).fig.arm = none :=
  ((State.causeAll_cuts _ c code).cell c).arm (s.abandonSwap_arm c)

theorem State.cutAt_causes {code c : Nat} (h : ((s.cutAt code c).cell c).step.running = true) :
    ⟨code, 0xFF, none⟩ ∈ ((s.cutAt code c).cell c).step.causes :=
  State.mem_causeAll_causes _ ((((State.causeAll_cuts _ c code).cell c).running).symm.trans h)

theorem State.cutThrough_cuts (code : Nat) (l : List Nat) : Cuts s (s.cutThrough code l) := foldl_cuts s l fun x c => x.cutAt_cuts code c

theorem State.cutThrough_arm (code : Nat) {l : List Nat} {m : Nat} (hm : m ∈ l) : ((s.cutThrough code l).cell m).fig.arm = none :=
  foldl_establishes (P := fun m x => (x.cell m).fig.arm = none) (f := fun x c => x.cutAt code c) (fun x c => x.cutAt_arm code c)
    (fun x c d hd => ((x.cutAt_cuts code c).cell d).arm hd) hm s

theorem State.cutThrough_causes (code : Nat) {l : List Nat} {m : Nat} (hm : m ∈ l) (h : ((s.cutThrough code l).cell m).step.running = true) :
    ⟨code, 0xFF, none⟩ ∈ ((s.cutThrough code l).cell m).step.causes :=
  foldl_establishes (P := fun m x => (x.cell m).step.running = true → (⟨code, 0xFF, none⟩ : Cause) ∈ (x.cell m).step.causes)
    (f := fun x c => x.cutAt code c) (fun x _ hc => x.cutAt_causes hc)
    (fun x c d hd hc => ((x.cutAt_cuts code c).cell d).causes (hd (((x.cutAt_cuts code c).cell d).running.symm.trans hc))) hm s h

theorem State.cutAll_cuts (code : Nat) (l : List Nat) : Cuts s (s.cutAll code l) := s.stopShuffle_cuts.trans (State.cutThrough_cuts ..)

theorem State.cutAll_arm (code : Nat) {l : List Nat} {m : Nat} (hm : m ∈ l) : ((s.cutAll code l).cell m).fig.arm = none :=
  State.cutThrough_arm _ code hm

theorem State.cutAll_causes (code : Nat) {l : List Nat} {m : Nat} (hm : m ∈ l) (hrun : (s.cell m).step.running = true) :
    ⟨code, 0xFF, none⟩ ∈ ((s.cutAll code l).cell m).step.causes :=
  State.cutThrough_causes _ code hm (((s.cutAll_cuts code l).cell m).running.trans hrun)

end

/-! ## What the seals of the Safe state leave alone (R326, R327) -/

/-- A cell whose step in progress ends: its plane and temperature stand, no ARM comes, and no step begins. -/
structure HaltCell (k k' : Cell) : Prop where
  active  : k'.fig.active = k.fig.active
  arm     : k.fig.arm = none → k'.fig.arm = none
  temp    : k'.power.temp = k.power.temp
  running : k.step.running = false → k'.step.running = false

theorem HaltCell.refl (k : Cell) : HaltCell k k := ⟨rfl, id, rfl, id⟩

theorem HaltCell.trans {a b c : Cell} (h : HaltCell a b) (g : HaltCell b c) : HaltCell a c :=
  ⟨g.active.trans h.active, g.arm ∘ h.arm, g.temp.trans h.temp, g.running ∘ h.running⟩

theorem HaltCell.of_eq {k k' : Cell} (hfig : k'.fig = k.fig) (hpower : k'.power = k.power) (hstep : k'.step = k.step) : HaltCell k k' := by
  refine ⟨?_, ?_, ?_, ?_⟩ <;> simp [hfig, hpower, hstep]

theorem foldl_haltCell {β : Type} (k : Cell) (l : List β) {f : Cell → β → Cell} (hf : ∀ x b, HaltCell x (f x b)) :
    HaltCell k (l.foldl f k) := List.foldlRecOn l f (.refl k) fun x h b _ => h.trans (hf x b)

theorem Cell.Tiered.haltCell {k k' : Cell} (h : k.Tiered k') : HaltCell k k' := by
  rw [h]
  exact .of_eq rfl rfl rfl

theorem CutCell.haltCell {k k' : Cell} (h : CutCell k k') : HaltCell k k' :=
  ⟨congrArg Prod.fst h.plane, h.arm, by rw [h.power], h.running.trans⟩

/-- Pins, clocks, seat and flash stand, and every cell is as before but for steps that end. -/
structure Halts (s s' : State) : Prop where
  boot    : s'.boot = s.boot
  supply  : s'.supply = s.supply
  flash   : s'.flash = s.flash
  fw      : s'.fw = s.fw
  seating : s'.seating = s.seating
  cell    : ∀ c, HaltCell (s.cell c) (s'.cell c)

theorem Halts.refl (s : State) : Halts s s := ⟨rfl, rfl, rfl, rfl, rfl, fun _ => .refl _⟩

theorem Halts.trans {a b c : State} (h : Halts a b) (g : Halts b c) : Halts a c where
  boot := g.boot.trans h.boot
  supply := g.supply.trans h.supply
  flash := g.flash.trans h.flash
  fw := g.fw.trans h.fw
  seating := g.seating.trans h.seating
  cell d := (h.cell d).trans (g.cell d)

theorem Cuts.halts {s s' : State} (h : Cuts s s') : Halts s s' := ⟨h.boot, h.supply, h.flash, h.fw, h.seating, fun c => (h.cell c).haltCell⟩

theorem Reports.halts {s s' : State} (h : Reports s s') : Halts s s' := h.cuts.halts

/-- Who leads hangs on the seat and the active figure alone (R182). -/
theorem isLead_congr {s s' : State} {c : Nat} (hs : s'.seating = s.seating) (ha : (s'.cell c).fig.active = (s.cell c).fig.active) :
    s'.isLead c = s.isLead c := by
  have hserves : s'.serves c = s.serves c := by
    unfold State.serves State.placedHere State.fig State.mySeat
    rw [hs, ha]
  unfold State.isLead State.leadCell State.replicaOf
  rw [hserves]

theorem Halts.isLead {s s' : State} (h : Halts s s') (c : Nat) : s'.isLead c = s.isLead c := isLead_congr h.seating (h.cell c).active

section
variable (s : State)

theorem ite_halts {p : Prop} [Decidable p] {a b : State} (ha : Halts s a) (hb : Halts s b) : Halts s (if p then a else b) := by
  split <;> assumption

theorem foldl_halts {β : Type} (l : List β) {f : State → β → State} (hf : ∀ x b, Halts x (f x b)) : Halts s (l.foldl f s) :=
  List.foldlRecOn l f (.refl s) fun x h b _ => h.trans (hf x b)

theorem State.setCell_halts (c : Nat) {v : Cell} (hv : HaltCell (s.cell c) v) : Halts s (s.setCell c v) := by
  refine ⟨rfl, rfl, rfl, rfl, rfl, fun d => ?_⟩
  rw [State.cell_setCell]
  split
  · subst_vars
    exact hv
  · exact .refl _

theorem State.onCell_halts (c : Nat) {f : Cell → Cell} (hf : ∀ k, HaltCell k (f k)) : Halts s (s.onCell c f) := s.setCell_halts c (hf _)

theorem State.onCells_halts (g : List Nat) {f : Cell → Cell} (hf : ∀ k, HaltCell k (f k)) : Halts s (s.onCells g f) :=
  foldl_halts s g fun x m => x.onCell_halts m hf

theorem State.onCoord_halts (t : Nat) (f : Coord → Coord) : Halts s (s.onCoord t f) := ⟨rfl, rfl, rfl, rfl, rfl, fun _ => .refl _⟩

theorem State.onFn_halts (n : Nat) (f : HostFn → HostFn) : Halts s (s.onFn n f) := ⟨rfl, rfl, rfl, rfl, rfl, fun _ => .refl _⟩

theorem State.err_halts (c : Nat) (e : Ev) : Halts s (s.err c e) := (State.err_reports (.refl s) c e).halts

/-! ### Records, tiles and deliveries (R147, R190, R194, R341) -/

theorem State.recDone_halts (r : QRec) : Halts s (s.recDone r) := by
  unfold State.recDone
  split
  · exact .refl s
  · exact ite_halts s (s.onCoord_halts ..) (s.onCoord_halts ..)

theorem State.dropRec_halts (n : Nat) : Halts s (s.dropRec n) := by
  have dropped (e : Ev) : Halts s ((s.onFn n (fun h => { h with lastDrop := some s.now })).errLocal 0 e) :=
    (s.onFn_halts ..).trans (State.errLocal_reports (.refl _) 0 e).halts
  unfold State.dropRec
  dsimp only
  split
  · exact ite_halts s (.refl s) (dropped _)
  · exact dropped _

theorem State.queueRec_halts (n : Nat) (r : QRec) : Halts s (s.queueRec n r) :=
  ite_halts s (s.onFn_halts ..) (ite_halts s ((s.recDone_halts r).trans (State.dropRec_halts ..)) (s.recDone_halts r))

theorem State.tierPut_halts (c tenant : Nat) (ident : BitVec 24) (seq : Nat) (x : Slot) (busy : List Nat) :
    Halts s (s.tierPut c tenant ident seq x busy).1 := by
  unfold State.tierPut
  split
  · exact .refl s
  split
  · exact .refl s
  split
  · exact s.err_halts ..
  next k1 h1 =>
    have hk1 := Cell.writeTile_tiered h1
    split
    · dsimp only
      split
      · exact s.err_halts ..
      next k2 h2 => exact s.setCell_halts _ (hk1.trans (Cell.writeTile_tiered h2)).haltCell
    · exact s.setCell_halts _ hk1.haltCell

theorem State.tierWrite_halts (c tenant : Nat) (ident : BitVec 24) (seq : Nat) (x : Slot) (busy : List Nat) :
    Halts s (s.tierWrite c tenant ident seq x busy).1 := by
  unfold State.tierWrite
  split
  · exact .refl s
  · exact s.tierPut_halts ..

theorem State.pokeTile_halts (c tenant : Nat) (ident : BitVec 24) (i off n data : Nat) :
    Halts s (s.pokeTile c tenant ident i off n data).1 := by
  unfold State.pokeTile
  split
  · exact .refl s
  · exact s.tierWrite_halts ..

theorem State.pokeFrom_halts (fuel c tenant : Nat) (ident : BitVec 24) (off n data : Nat) :
    Halts s (State.pokeFrom fuel s c tenant ident off n data).1 := by
  induction fuel generalizing s off n data with
  | zero => exact .refl s
  | succ fuel ih =>
    unfold State.pokeFrom
    split
    · exact .refl s
    · exact (s.pokeTile_halts ..).trans (ih ..)

theorem State.sendTile_halts (c i : Nat) (dst : TileTo) (x : Slot) (whole : Bool) : Halts s (s.sendTile c i dst x whole).1 := by
  have noted (k : Cell) (key : Nat × Nat × Nat × BitVec 24) : HaltCell k (if k.step.running && !k.step.sentTo.contains key then
      { k with step := { k.step with sentTo := k.step.sentTo ++ [key] } } else k) := by
    split
    · exact ⟨rfl, id, rfl, id⟩
    · exact .refl k
  unfold State.sendTile
  split
  split
  next h =>
    have hsend := congrArg Prod.fst h ▸ State.send_reports (.refl s) c i _
    dsimp only
    exact hsend.halts.trans (State.onCell_halts _ c fun k => noted k _)

theorem State.deliver_halts (c : Nat) (e : ReqEntry) (k0 : Nat) (toks : List (BitVec 32)) : Halts s (s.deliver c e k0 toks) := by
  unfold State.deliver
  dsimp only
  refine ite_halts s (.refl s) (ite_halts s (State.emit_reports (.refl s) _).halts (ite_halts s ?_ ?_))
  · exact foldl_halts s _ fun x _ => x.sendTile_halts ..
  · split
    · exact .refl s
    · exact s.pokeFrom_halts ..

theorem State.copyPrompt_halts (c : Nat) (e : ReqEntry) : Halts s (s.copyPrompt c e) := by
  unfold State.copyPrompt
  split
  · exact s.pokeFrom_halts ..
  · exact .refl s

theorem State.endRecord_halts (c i : Nat) (e : ReqEntry) (r : Nat) : Halts s (s.endRecord c i e r) := by
  have ring (n : Nat) (q : QRec) : Halts s (if n = 0x70 then s.mail c [(2, r)] else s.queueRec n q) :=
    ite_halts s (State.mail_reports (.refl s) ..).halts (s.queueRec_halts ..)
  unfold State.endRecord
  dsimp only
  split
  · exact ite_halts s (ring ..) (s.pokeFrom_halts ..)
  · exact ring ..

/-! ### The seal of a generation step (R181, R184) -/

theorem State.onEntry_halts (g : List Nat) (i : Nat) (f : Cell → ReqEntry → ReqEntry) : Halts s (s.onCells g (fun k => k.onEntry i (f k))) :=
  s.onCells_halts g fun _ => .of_eq rfl rfl rfl

theorem State.endRequest_halts (c i code : Nat) (causes : List Nat) : Halts s (s.endRequest c i code causes) :=
  (foldl_halts s _ fun x _ => x.err_halts ..).trans ((State.onEntry_halts ..).trans (State.endRecord_halts ..))

theorem State.commitRow_halts (c i : Nat) (r : StepRow) (x : Found) : Halts s (s.commitRow c i r x) := by
  have delivered := s.deliver_halts c ((s.cell c).entry i) ((s.cell c).entry i).g x.toks
  exact (ite_halts s (delivered.trans (State.copyPrompt_halts ..)) delivered).trans (State.onEntry_halts ..)

theorem State.sealEntry_halts (c i : Nat) (x : Found) : Halts s (s.sealEntry c i x) := by
  refine ite_halts s (s.endRequest_halts ..) ?_
  split
  · exact .refl s
  · exact ite_halts s (s.commitRow_halts ..) ((s.commitRow_halts ..).trans (State.endRequest_halts ..))

theorem State.sealRequests_halts (c : Nat) : Halts s (s.sealRequests c) := foldl_halts s _ fun x _ => x.sealEntry_halts ..

theorem Cell.endStepFor_halt (k : Cell) (ran : List Nat) : HaltCell k (k.endStepFor ran) := by
  obtain ⟨hactive, harm, htemp, -⟩ := foldl_haltCell k ((k.tiers.dir.map (·.tenant)).filter (fun t => t ≠ 0xFF && !ran.contains t)).dedup
    (f := fun k t => k.tierSeal t true) fun _ _ => .of_eq rfl rfl rfl
  exact ⟨hactive, harm, htemp, fun _ => rfl⟩

theorem Cell.endStep_halt (k : Cell) (ran : List (Nat × Bool)) : HaltCell k (k.endStep ran) := by
  have sums : HaltCell k (ran.foldl (fun (k : Cell) (t : Nat × Bool) =>
      ((k.tierSeal t.1 t.2).endSums t.1).onRun t.1 (fun r => { r with jobStep := r.jobStep + 1 })) k) :=
    foldl_haltCell k ran fun _ _ => .of_eq rfl rfl rfl
  obtain ⟨hactive, harm, htemp, hrun⟩ := sums.trans (Cell.endStepFor_halt _ (ran.map (·.1)))
  exact ⟨hactive, harm, htemp, hrun⟩

theorem State.haltGen_halts (c : Nat) : Halts s (s.haltGen c) :=
  ite_halts s (.refl s) ((s.sealRequests_halts c).trans (State.onCells_halts _ _ fun k => k.endStep_halt _))

/-- No step runs at a lead once it has sealed with HALT (R326). -/
theorem State.haltGen_running {c : Nat} (hc : c ∈ allCells) (hlead : s.isLead c = true) : ((s.haltGen c).cell c).step.running = false := by
  by_cases hrun : (s.cell c).step.running = true
  · have hmem : c ∈ s.groupOf c := mem_groupOf_of_isLead (c := ⟨c, List.mem_range.mp hc⟩) hlead
    have hgen : s.haltGen c = (s.sealRequests c).onCells (s.groupOf c) (fun k => k.endStep ((s.ranTenants c).map (fun t => (t, false)))) :=
      if_neg (by simp [hlead, hrun])
    rw [hgen, cell_onCells (groupOf_nodup s c), if_pos hmem]
    exact (Cell.endStep_ended ..).1.running
  · exact ((s.haltGen_halts c).cell c).running (Bool.eq_false_iff.mpr hrun)

/-! ### The seal of a learning step (R211, R212) -/

theorem State.learnRecord_halts (t code r : Nat) (l : List RepEntry) : Halts s (s.learnRecord t code r l) :=
  (s.onCoord_halts t _).trans ((State.queueRec_halts ..).trans (State.mail_reports (.refl _) ..).halts)

theorem State.fixCell_halts (t c : Nat) : Halts s (s.fixCell t c) := by
  unfold State.fixCell
  exact s.onCell_halts c fun _ => .of_eq rfl rfl rfl

theorem State.fixScales_halts (t : Nat) : Halts s (s.fixScales t) := foldl_halts s _ fun x c => x.fixCell_halts t c

theorem State.writeSeal_halts (t : Nat) : Halts s (s.writeSeal t) := by
  obtain ⟨rec1, hwritten⟩ := s.writeSeal_eq t
  rw [hwritten]
  refine .trans ?_ (foldl_halts _ _ fun x m => x.onCell_halts m fun _ => .of_eq rfl rfl rfl)
  exact (s.learnRecord_halts ..).trans (State.onCoord_halts ..)

theorem Cell.sealLearn_halt (k : Cell) (t : Nat) (commit : Bool) (now : Nat) : HaltCell k (k.sealLearn t commit now) := by
  unfold Cell.sealLearn
  extract_lets k1 k2 k3 k4 u k5
  have counted : HaltCell k k2 := .of_eq rfl rfl rfl
  have committed : HaltCell k2 k3 := by
    unfold k3
    split
    · exact .of_eq rfl rfl rfl
    · exact .refl k2
  have ended : HaltCell k3 (k5.endSums t) := .of_eq rfl rfl rfl
  exact (counted.trans committed).trans ended

theorem State.haltSeal_halts (c t : Nat) (d : Bool × Nat) (time : Nat) : Halts s (s.haltSeal c t d time) :=
  (foldl_halts s _ fun x _ => x.err_halts ..).trans (State.onCell_halts _ c fun k =>
    .trans (b := (k.standCounters t).takeDecision t d time k.ud.nextScale) (.of_eq rfl rfl rfl) (Cell.sealLearn_halt ..))

theorem State.haltLearn_halts (t : Nat) : Halts s (s.haltLearn t) := by
  refine ite_halts s (.refl s) (.trans ?_ (foldl_halts _ _ fun x c => ite_halts x (x.onCell_halts c fun k => k.endStepFor_halt _) (.refl x)))
  refine .trans (.trans ?_ (State.onCoord_halts _ t _)) (State.writeSeal_halts _ t)
  exact ((s.fixScales_halts t).trans (State.onCoord_halts ..)).trans (foldl_halts _ _ fun x c => x.haltSeal_halts ..)

/-! ### Entry to the Safe state -/

/-- Every lead's step in progress seals with HALT. -/
def State.haltGens (l : List Nat) : State := l.foldl (fun (s : State) c => s.haltGen c) s

/-- Every tenant's undecided learning step is void with HALT. -/
def State.haltLearns (l : List Nat) : State := l.foldl (fun (s : State) t => s.haltLearn t) s

/-- Every cell's engines and threads leave their work. -/
def State.haltCells (l : List Nat) : State := l.foldl (fun (s : State) c => s.onCell c Cell.halt) s

theorem State.haltGens_halts (l : List Nat) : Halts s (s.haltGens l) := foldl_halts s l fun x c => x.haltGen_halts c

theorem State.haltLearns_halts (l : List Nat) : Halts s (s.haltLearns l) := foldl_halts s l fun x t => x.haltLearn_halts t

theorem State.haltCells_halts (l : List Nat) : Halts s (s.haltCells l) := foldl_halts s l fun x c => x.onCell_halts c fun _ => .of_eq rfl rfl rfl

theorem State.haltGens_running {l : List Nat} (hl : l ⊆ allCells) {m : Nat} (hm : m ∈ l) (hlead : s.isLead m = true) :
    ((s.haltGens l).cell m).step.running = false := by
  refine foldl_establishes (P := fun m x => m ∈ l → x.isLead m = true → (x.cell m).step.running = false)
    (f := fun (x : State) c => x.haltGen c) (fun x c hc hlead => ?_) (fun x c d hd hc hlead => ?_) hm s hm
    (((s.haltGens_halts l).isLead m).trans hlead)
  · exact x.haltGen_running (hl hc) (((x.haltGen_halts c).isLead c).symm.trans hlead)
  · exact ((x.haltGen_halts c).cell d).running (hd hc (((x.haltGen_halts c).isLead d).symm.trans hlead))

theorem Cell.halt_engines (k : Cell) (n : Nat) : (k.halt.core n).engines = [] :=
  SMap.get_mapV_reaches (P := fun x : Core => x.engines = []) (fun x => { x with engines := [], redoDue := [] }) k.cores n rfl fun _ => rfl

theorem State.haltCells_engines {l : List Nat} {m : Nat} (hm : m ∈ l) (n : Nat) : (((s.haltCells l).cell m).core n).engines = [] :=
  foldl_onCell_reaches (P := fun k => (k.core n).engines = []) s hm fun _ _ k => k.halt_engines n

/-- The module with swaps, steps and operations of the cells `l` cut, and the tenants' learning steps, before it counts as in the Safe
state. -/
def State.halted (l ts : List Nat) : State := (((s.cutAll vHALT l).haltGens l).haltLearns ts).haltCells l

theorem State.halted_halts (l ts : List Nat) : Halts s (s.halted l ts) :=
  (s.cutAll_cuts vHALT l).halts.trans ((State.haltGens_halts ..).trans ((State.haltLearns_halts ..).trans (State.haltCells_halts ..)))

theorem State.halted_arm {l : List Nat} (ts : List Nat) {m : Nat} (hm : m ∈ l) : ((s.halted l ts).cell m).fig.arm = none := by
  have hrest := ((State.haltGens_halts (s.cutAll vHALT l) l).trans ((State.haltLearns_halts _ ts).trans (State.haltCells_halts _ l))).cell m
  exact hrest.arm (s.cutAll_arm vHALT hm)

theorem State.halted_running {l : List Nat} (ts : List Nat) (hl : l ⊆ allCells) {m : Nat} (hm : m ∈ l) (hlead : s.isLead m = true) :
    ((s.halted l ts).cell m).step.running = false := by
  have hrest := ((State.haltLearns_halts ((s.cutAll vHALT l).haltGens l) ts).trans (State.haltCells_halts _ l)).cell m
  exact hrest.running (State.haltGens_running _ hl hm (((s.cutAll_cuts vHALT l).halts.isLead m).trans hlead))

/-- The module counts as in the Safe state. -/
def State.safeNow : State := { s with boot := { s.boot with safe := true } }

theorem State.enterSafe_eq (hsafe : s.boot.safe = false) (hislands : s.boot.islands = true) :
    s.enterSafe = (s.halted allCells (List.range 64)).safeNow.signalSafe := by
  have hcond : ¬(s.boot.safe || !s.boot.islands) = true := by simp [hsafe, hislands]
  unfold State.enterSafe State.halted State.cutAll State.cutThrough State.cutAt State.haltGens State.haltLearns State.haltCells State.safeNow
  rw [if_neg hcond]

theorem State.signalSafe_reports : Reports s s.signalSafe := ite_reports (State.emit_reports (.refl s) _) (.refl s)

/-- What the Safe state leaves of a module: pins and flash stand, no ARM pends, engines are empty, and no lead is in a step. -/
structure Stopped (s s' : State) : Prop where
  boot    : s'.boot = { s.boot with safe := true }
  supply  : s'.supply = s.supply
  flash   : s'.flash = s.flash
  fw      : s'.fw = s.fw
  seating : s'.seating = s.seating
  arm     : ∀ m ∈ allCells, (s'.cell m).fig.arm = none
  engines : ∀ m ∈ allCells, ∀ n, ((s'.cell m).core n).engines = []
  running : ∀ m ∈ allCells, s.isLead m = true → (s'.cell m).step.running = false
  temp    : ∀ m, (s'.cell m).power.temp = (s.cell m).power.temp

theorem Reports.core {s s' : State} (h : Reports s s') (c n : Nat) : (s'.cell c).core n = (s.cell c).core n := h.tierMoves.core c n

theorem Stopped.reports {s x s' : State} (h : Stopped s x) (hr : Reports x s') : Stopped s s' where
  boot := hr.boot.trans h.boot
  supply := hr.supply.trans h.supply
  flash := hr.flash.trans h.flash
  fw := hr.fw.trans h.fw
  seating := hr.seating.trans h.seating
  arm m hm := (congrArg FigState.arm (hr.fig m)).trans (h.arm m hm)
  engines m hm n := (congrArg Core.engines (hr.core m n)).trans (h.engines m hm n)
  running m hm hlead := ((hr.halts.cell m).running (h.running m hm hlead))
  temp m := ((hr.halts.cell m).temp).trans (h.temp m)

/-- What cut cells are left with, whichever the cells. -/
theorem State.halted_cell {l : List Nat} (hl : l ⊆ allCells) (ts : List Nat) {m : Nat} (hm : m ∈ l) : ((s.halted l ts).cell m).fig.arm = none ∧
    (∀ n, (((s.halted l ts).cell m).core n).engines = []) ∧ (s.isLead m = true → ((s.halted l ts).cell m).step.running = false) :=
  ⟨s.halted_arm ts hm, fun n => State.haltCells_engines _ hm n, fun hlead => s.halted_running ts hl hm hlead⟩

theorem Halts.stopped {s x : State} (h : Halts s x) (hcell : ∀ m ∈ allCells, (x.cell m).fig.arm = none ∧
    (∀ n, ((x.cell m).core n).engines = []) ∧ (s.isLead m = true → (x.cell m).step.running = false)) : Stopped s x.safeNow where
  boot := congrArg (fun b : Boot => { b with safe := true }) h.boot
  supply := h.supply
  flash := h.flash
  fw := h.fw
  seating := h.seating
  arm m hm := (hcell m hm).1
  engines m hm := (hcell m hm).2.1
  running m hm := (hcell m hm).2.2
  temp m := (h.cell m).temp

theorem State.enterSafe_stopped (hsafe : s.boot.safe = false) (hislands : s.boot.islands = true) : Stopped s s.enterSafe := by
  rw [s.enterSafe_eq hsafe hislands]
  exact ((s.halted_halts ..).stopped fun m hm => s.halted_cell (List.Subset.refl _) _ hm).reports (State.signalSafe_reports _)

end

end Sys2Proof.Machine

/-! ## What a boundary leaves of every cell, and of firmware and flash (R43, R353, R357, R379) -/

namespace Sys2Proof.Machine

/-- A cell's power without what its boundary, the coordinator of the watts and doorbells set: share, target, and whether it wakes. -/
def CellPower.firm (p : CellPower) : CellPower := { p with share := 0, target := 0, waking := false }

/-- A cell's service, power and figure registers, without what boundaries and ended figure commands set there. -/
def Cell.firm (k : Cell) : Cell :=
  { Cell.reset with power := k.power.firm, init := k.init, restart := k.restart, fwDue := k.fwDue, fig := k.fig.kept }

def State.firm (s : State) (c : Nat) : Cell := (s.cell c).firm

/-- A field that firm cells show. -/
theorem firm_field {s s' : State} (h : s'.firm = s.firm) (c : Nat) {γ : Type} (π : Cell → γ) (hπ : ∀ k : Cell, π k.firm = π k) :
    π (s'.cell c) = π (s.cell c) := by
  rw [← hπ (s'.cell c), ← hπ (s.cell c)]
  exact congrArg π (congrFun h c)

theorem TierMoves.firm {s s' : State} (h : TierMoves s s') : s'.firm = s.firm := by
  funext c
  obtain ⟨t, e, q, hc⟩ := h.cell c
  rw [State.firm, hc]
  rfl

theorem Tells.firm {s s' : State} (h : Tells s s') : s'.firm = s.firm := by
  funext c
  obtain ⟨e, q, w, hc⟩ := h.cell c
  rw [State.firm, hc]
  rfl

theorem foldl_firmCell {β : Type} {k : Cell} {f : Cell → β → Cell} (l : List β) (hf : ∀ x b, (f x b).firm = x.firm) :
    (l.foldl f k).firm = k.firm := List.foldlRecOn (motive := fun x : Cell => x.firm = k.firm) l f rfl fun x h b _ => (hf x b).trans h

theorem Cell.abandonTest_firm (k : Cell) (t : Nat) : (k.abandonTest t).firm = k.firm := by
  unfold Cell.abandonTest
  split <;> rfl

theorem Cell.redealt_firm (ts : List Nat) (k : Cell) : (k.redealt ts).firm = k.firm := foldl_firmCell ts fun x t => x.abandonTest_firm t

theorem Cell.dealTenant_firm (k : Cell) (t : Nat) : (k.dealTenant t).firm = k.firm := by
  unfold Cell.dealTenant
  dsimp only
  split
  · rfl
  · exact foldl_firmCell _ fun x q => by split <;> rfl

theorem Cell.takeImages_firm (k : Cell) : k.takeImages.firm = k.firm := by
  have dealt (x : Cell) (t : Nat) : (if (x.run t).redeal then x.dealTenant t else x).firm = x.firm := by
    split
    · exact x.dealTenant_firm t
    · rfl
  exact foldl_firmCell _ fun x t => (dealt _ t).trans (by split <;> rfl)

section
variable (s : State)

theorem State.setCell_firm (c : Nat) {v : Cell} (hv : v.firm = s.firm c) : (s.setCell c v).firm = s.firm := by
  funext d
  rw [State.firm, State.cell_setCell]
  split
  · subst_vars
    exact hv
  · rfl

theorem State.onCell_firm (c : Nat) {f : Cell → Cell} (hf : ∀ k, (f k).firm = k.firm) : (s.onCell c f).firm = s.firm :=
  s.setCell_firm c (hf _)

theorem State.fence_firm (c n : Nat) : (s.fence c n).firm = s.firm := by
  by_cases h : ((s.cell c).core n).fenced = true
  · rw [show s.fence c n = s from if_pos h]
  · obtain ⟨perm, faults, he⟩ := fence_of_unfenced h
    rw [he, (State.fenceTold_tierMoves ..).firm]
    exact s.setCell_firm c (Cell.redealt_firm ..)

theorem State.returnCores_firm (c : Nat) : (s.returnCores c).firm = s.firm :=
  foldl_same State.firm _ s fun x _ => x.onCell_firm c fun _ => foldl_firmCell _ fun _ _ => rfl

theorem State.zeroTensor_tierMoves (c tenant : Nat) (ident : BitVec 24) : TierMoves s (s.zeroTensor c tenant ident) := by
  unfold State.zeroTensor
  split
  · exact .refl s
  · exact foldl_tierMoves s _ fun x _ => x.fillTile_tierMoves ..

theorem State.copyTensor_tierMoves (c tenant src : Nat) (dst : BitVec 24) : TierMoves s (s.copyTensor c tenant src dst) := by
  unfold State.copyTensor
  split
  · exact .refl s
  · exact foldl_tierMoves s _ fun x _ => x.fillTile_tierMoves ..

theorem State.rebuildMaster_tierMoves (c : Nat) (b : Binding) : TierMoves s (s.rebuildMaster c b) := by
  unfold State.rebuildMaster
  dsimp only
  split
  · exact .refl s
  · exact foldl_tierMoves s _ fun x _ => x.fillTile_tierMoves ..

theorem State.repairNow_firm (c : Nat) (e : Entry) : (s.repairNow c e).firm = s.firm := by
  have copies (b : Binding) : TierMoves s ((s.copyTensor c (e.fld 1 1) (e.fld 8 3) b.master).copyTensor c (e.fld 1 1) (e.fld 0xC 3) b.m1) :=
    (s.copyTensor_tierMoves ..).trans (State.copyTensor_tierMoves ..)
  unfold State.repairNow
  dsimp only
  split
  · rfl
  next b _ =>
    refine (State.onCell_firm _ c fun _ => by rfl).trans (TierMoves.firm ?_)
    split
    · exact (ite_tierMoves (copies b) ((copies b).trans (State.copyTensor_tierMoves ..))).trans (State.copyTensor_tierMoves ..)
    · exact (s.rebuildMaster_tierMoves ..).trans (foldl_tierMoves _ _ fun x i => x.zeroTensor_tierMoves ..)

theorem State.udBoundary_firm (c : Nat) : (s.udBoundary c).firm = s.firm :=
  (State.onCell_firm _ c fun _ => by rfl).trans (foldl_same State.firm _ s fun x r => x.repairNow_firm c r.2)

theorem State.takeWrites_firm (c : Nat) : (s.takeWrites c).firm = s.firm :=
  (foldl_same State.firm _ _ fun x _ => (State.complete_tells ..).firm.trans (x.pokeWords_tierMoves ..).firm).trans
    (s.onCell_firm c fun _ => rfl)

theorem State.coordinate_firm : s.coordinate.firm = s.firm :=
  ite_same State.firm rfl (foldl_same State.firm _ s fun x _ => x.onCell_firm _ fun _ => rfl)

theorem State.takeLevel_firm : s.takeLevel.firm = s.firm := by
  unfold State.takeLevel
  split <;> rfl

theorem State.toTargets_firm (c : Nat) : (s.toTargets c).firm = s.firm := by
  have images (k : Cell) : ({ k.takeImages with gen := { k.gen with heldQ := [] } } : Cell).firm = k.firm := k.takeImages_firm
  unfold State.toTargets
  dsimp only
  refine (State.coordinate_firm _).trans ?_
  refine (State.onCell_firm _ c images).trans ?_
  refine (State.takeWrites_firm _ c).trans ?_
  refine (State.udBoundary_firm _ c).trans ?_
  refine (State.returnCores_firm _ c).trans ?_
  refine (foldl_same State.firm _ _ fun x _ => x.fence_firm ..).trans ?_
  exact s.onCell_firm c fun _ => rfl

theorem Cell.fwNow_due (k : Cell) (at_ : Option Nat) (now : Nat) : ∃ b, k.fwNow at_ now = { k with fwDue := b } := by
  unfold Cell.fwNow
  repeat' split
  · exact ⟨k.fwDue, rfl⟩
  · exact ⟨false, rfl⟩
  · exact ⟨false, rfl⟩

theorem Cell.firm_withDue {k k' : Cell} (h : k.firm = k'.firm) (b : Bool) : ({ k with fwDue := b } : Cell).firm = { k' with fwDue := b }.firm :=
  congrArg (fun x : Cell => { x with fwDue := b }) h

theorem Cell.takeShare_firm (k : Cell) (lost : Bool) : (k.takeShare lost).firm = k.firm := rfl

/-- A cell's boundary sets of all this only whether the cell still has a firmware switch to make (R379). -/
theorem State.boundary_firm (c : Nat) : ∃ b, (s.boundary c).firm = (s.onCell c (fun k => { k with fwDue := b })).firm := by
  have hto := s.toTargets_firm c
  rw [s.boundary_eq c, State.takeLevel_firm]
  generalize s.toTargets c = x at hto
  obtain ⟨b, hb⟩ := ((x.cell c).takeShare s.boot.anchorLost).fwNow_due s.lockstepAt (s.time c)
  refine ⟨b, funext fun d => ?_⟩
  rw [State.firm, State.firm, State.cell_onCell, State.cell_onCell]
  split
  · rw [hb]
    exact Cell.firm_withDue ((Cell.takeShare_firm ..).trans (congrFun hto c)) b
  · exact congrFun hto d

/-- A field that a boundary leaves. -/
theorem State.boundary_field (c d : Nat) {γ : Type} (π : Cell → γ) (hπ : ∀ k : Cell, π k.firm = π k)
    (hdue : ∀ (k : Cell) (b : Bool), d = c → π { k with fwDue := b } = π k) : π ((s.boundary c).cell d) = π (s.cell d) := by
  obtain ⟨b, hb⟩ := s.boundary_firm c
  rw [firm_field hb d π hπ, State.cell_onCell]
  split
  next h => rw [hdue _ _ h, h]
  next => rfl

theorem State.boundarySoon_field (c d : Nat) {γ : Type} (π : Cell → γ) (hπ : ∀ k : Cell, π k.firm = π k)
    (hdue : ∀ (k : Cell) (b : Bool), d = c → π { k with fwDue := b } = π k) : π ((s.boundarySoon c).cell d) = π (s.cell d) :=
  ite_same (fun x : State => π (x.cell d)) rfl (s.boundary_field c d π hπ hdue)

end

theorem EndsAs.firm {x s' : State} (h : EndsAs x s') : s'.firm = x.firm := by
  funext c
  obtain ⟨n, hc⟩ := h.cell c
  rw [State.firm, hc]
  rfl

end Sys2Proof.Machine

/-! ## HALT_N, temperatures, clocks and wakes (R326, R327, R357 to R363, R371, R420) -/

namespace Sys2Proof.Machine

section
variable (s : State)

/-- The event that the loss of AOCLK records (R359). -/
def clockLost : Ev := { cls := clsTIME, sev := 1, unit := 6 }

/-- A cell's ring has taken one record of the clock's loss (R328, R359). -/
structure ClockTold (g g' : ErrRing) : Prop where
  prod : g'.prod = g.prod + 1
  told : ∃ r ∈ g'.recs, r.cls = clsTIME ∧ r.seq = g.prod

theorem ErrRing.mem_push (g : ErrRing) (r : ErrRec) : r ∈ (g.push r).recs := by
  unfold ErrRing.push
  dsimp only
  split
  next hlong =>
    have hne : g.recs ≠ [] := by
      rintro he
      simp [he] at hlong
    rw [List.tail_append_of_ne_nil hne]
    exact List.mem_append_right _ (List.mem_singleton.mpr rfl)
  next => exact List.mem_append_right _ (List.mem_singleton.mpr rfl)

theorem State.clockTold_cell (c : Nat) : (s.err c clockLost).cell = (s.onCell c (fun k => { k with err := k.err.push (s.mkErr c clockLost) })).cell :=
  rfl

theorem State.clockTold (c : Nat) : ClockTold (s.cell c).err ((s.err c clockLost).cell c).err := by
  rw [s.clockTold_cell, State.cell_onCell_same]
  exact ⟨rfl, _, ErrRing.mem_push .., rfl, rfl⟩

theorem State.clockTold_other {c d : Nat} (h : d ≠ c) : (s.err c clockLost).cell d = s.cell d := by
  rw [s.clockTold_cell, State.cell_onCell, if_neg h]

/-- The rings of the cells of `l` take the loss of AOCLK (R359). -/
def State.clockLosses (l : List Nat) : State := l.foldl (fun (x : State) c => x.err c clockLost) s

theorem State.clockLosses_reports (l : List Nat) : Reports s (s.clockLosses l) := foldl_reports _ _ (.refl s) fun _ _ hx => State.err_reports hx ..

theorem State.clockLosses_other {l : List Nat} {m : Nat} (hm : m ∉ l) : (s.clockLosses l).cell m = s.cell m :=
  List.foldlRecOn (motive := fun x : State => x.cell m = s.cell m) l _ rfl fun x hx _ hd =>
    (x.clockTold_other (ne_of_mem_of_not_mem hd hm).symm).trans hx

theorem State.clockLosses_told {l : List Nat} (hl : l.Nodup) {m : Nat} (hm : m ∈ l) :
    ClockTold (s.cell m).err ((s.clockLosses l).cell m).err := by
  induction l generalizing s with
  | nil => exact nomatch hm
  | cons c l ih =>
    obtain ⟨hc, hl⟩ := List.nodup_cons.mp hl
    have hfirst : s.clockLosses (c :: l) = (s.err c clockLost).clockLosses l := rfl
    rw [hfirst]
    rcases List.mem_cons.mp hm with rfl | hin
    · rw [State.clockLosses_other _ hc]
      exact s.clockTold m
    · exact s.clockTold_other (ne_of_mem_of_not_mem hin hc) ▸ ih _ hl hin

theorem allCells_nodup : allCells.Nodup := by decide

theorem EndsAs.err_prod {x s' : State} (h : EndsAs x s') (c : Nat) : (s'.cell c).err.prod = (x.cell c).err.prod := by
  obtain ⟨n, hc⟩ := h.cell c
  rw [hc]

theorem EndsAs.err_recs {x s' : State} (h : EndsAs x s') (c : Nat) : (s'.cell c).err.recs = (x.cell c).err.recs := by
  obtain ⟨n, hc⟩ := h.cell c
  rw [hc]

theorem EndsAs.clockTold {s' : State} (h : EndsAs (s.clockLosses allCells) s') {m : Nat} (hm : m ∈ allCells) :
    (s'.cell m).err.prod = (s.cell m).err.prod + 1 ∧ ∃ r ∈ (s'.cell m).err.recs, r.cls = clsTIME ∧ r.seq = (s.cell m).err.prod := by
  obtain ⟨hprod, htold⟩ := s.clockLosses_told allCells_nodup hm
  rw [h.err_prod, h.err_recs]
  exact ⟨hprod, htold⟩

end

section
variable {t : Nat} {cell : Fin 8} {s : State} {P : State → Prop}

theorem State.wake_of_below {s : State} {c : Nat} (hinit : (s.cell c).init = true) (hstate : (s.cell c).power.state ≠ .c0) :
    s.wake c = s.onCell c (fun k => { k with power := { k.power with waking := true } }) := if_pos (by simp [hinit, hstate])

theorem State.init_of_cellUp {s : State} {c : Nat} (h : s.cellUp c = true) : (s.cell c).init = true := by
  simp only [State.cellUp, Bool.and_eq_true] at h
  tauto

/-- The cell with the readings of a thermal sample (R357, R358). -/
def Cell.sampled (k : Cell) (dies : List Nat) (m : Nat) : Cell :=
  { k with power := { k.power with
    temp := m, hotDie := dies.findIdx (· = m), tooHot := if 103 ≤ m then true else if m < 100 then false else k.power.tooHot } }

theorem thermalSample_answers {dies : List Nat} {m : Nat} (hrun : (s.at t).boot.running = true) (hmax : dies.max? = some m)
    (hP : ∀ s', EndsAs (if 110 ≤ m then ((s.at t).onCell cell (fun k => k.sampled dies m)).enterSafe
      else (s.at t).onCell cell (fun k => k.sampled dies m)) s' → P s') : Answers (.thermalSample t cell dies) s P := by
  refine .of_run rfl ?_ hP
  simp [-State.at_boot, hmax, hrun, Cell.sampled]

theorem Cell.nextCeiling_of_hot {k : Cell} (h : 98 ≤ k.power.temp) :
    k.nextCeiling = some (max k.minShare (min (k.power.ceiling.getD k.maxShare) k.maxShare - k.rated2 / 20)) := if_pos h

theorem Cell.nextCeiling_of_warm {k : Cell} (h : 95 ≤ k.power.temp) (hbelow : k.power.temp < 98) : k.nextCeiling = k.power.ceiling :=
  (if_neg (by omega)).trans (if_pos h)

theorem Cell.nextCeiling_of_cool {k : Cell} (h : k.power.temp < 95) (hnone : k.power.ceiling = none) : k.nextCeiling = none := by
  refine (if_neg (by omega)).trans ((if_neg (by omega)).trans ?_)
  rw [hnone]

theorem Cell.nextCeiling_of_held {k : Cell} {v : Nat} (h : k.power.temp < 95) (hv : k.power.ceiling = some v) :
    k.nextCeiling = if k.maxShare ≤ min v k.maxShare + max 1 (k.rated2 / 200) then none
      else some (min v k.maxShare + max 1 (k.rated2 / 200)) := by
  refine (if_neg (by omega)).trans ((if_neg (by omega)).trans ?_)
  rw [hv]
  rfl

/-- The new ceiling comes into force: at once where no step runs, and else alone (R353, R357). -/
theorem thermalCeilingTick_answers {v : Option Nat} (hup : (s.at t).cellUp cell = true) (hv : ((s.at t).cell cell).nextCeiling = v) :
    Answers (.thermalCeilingTick t cell) s (fun s' => (s'.cell cell).power.ceiling = v ∧ (((s.at t).cell cell).step.running →
      s'.silent = ((s.at t).onCell cell (fun k => { k with power := { k.power with ceiling := v } })).silent)) := by
  have hset : (s.at t).onCell cell (fun k => { k with power := { k.power with ceiling := k.nextCeiling } }) =
      (s.at t).onCell cell (fun k => { k with power := { k.power with ceiling := v } }) := by rw [← hv]; rfl
  refine .of_run rfl ((if_neg (by simp [hup])).trans (congrArg (State.boundarySoon · cell) hset)) fun s' hs' => ⟨?_, fun hrun => ?_⟩
  · rw [firm_field hs'.firm cell (fun k => k.power.ceiling) (fun _ => rfl), State.boundarySoon_field _ _ _ (fun k => k.power.ceiling)
      (fun _ => rfl) (fun _ _ _ => rfl), State.cell_onCell_same]
  · rw [hs'.silent, boundarySoon_of_running (by rwa [State.cell_onCell_same])]

theorem aoclkLoss_answers {x : State} (hx : (if !(s.at t).supply.aoclk then s.at t
      else if !(s.at t).boot.running then { s.at t with supply := { (s.at t).supply with aoclk := false } }
      else State.clockLosses { s.at t with supply := { (s.at t).supply with aoclk := false } } allCells) = x)
    (hP : ∀ s', EndsAs x s' → P s') : Answers (.aoclkLoss t) s P := .of_run rfl hx hP

theorem State.startIslands_of_held {s : State} (hgood : s.supply.pwrGood = true) (hao : s.supply.aoclk = true) (huvlo : s.supply.uvlo = false)
    (hislands : s.boot.islands = false) : s.startIslands = { s with boot := { s.boot with islands := true, base := s.now } } :=
  if_pos (by rw [hgood, hao, huvlo, hislands]; rfl)

theorem State.startIslands_of_started {s : State} (hislands : s.boot.islands = true) : s.startIslands = s :=
  if_neg (by rw [hislands]; simp)

theorem State.onCell_isLead (s : State) (c : Nat) {f : Cell → Cell} (hf : ∀ k, (f k).fig = k.fig) (d : Nat) :
    (s.onCell c f).isLead d = s.isLead d := isLead_congr rfl (congrArg FigState.active ((s.onCell_sameFigs c hf).fig d))

/-- What a sample makes of the stop for new steps, from 103 °C until below 100 °C (R358). -/
theorem tooHot_eq (m : Nat) (b : Bool) : (if 103 ≤ m then true else if m < 100 then false else b) =
    (decide (103 ≤ m) || (decide (100 ≤ m) && b)) := by
  by_cases hhigh : 103 ≤ m
  · simp [hhigh]
  · by_cases hlow : m < 100
    · simp [hhigh, hlow]
    · simp [hhigh, hlow, Nat.not_lt.mp hlow]

end

/-- Settles O50: entry to the Safe state stops the module; samples, ticks, clocks and wakes set what they name. -/
theorem haltsTemperaturesClocksAndWakes : Obligations.HaltsTemperaturesClocksAndWakes := by
  intro t cell s u k stopped
  have safe {x s' : State} (h : Stopped x s') (hboot : x.boot = u.boot) (hflash : x.flash = u.flash) (hlead : ∀ m, x.isLead m = u.isLead m) :
      stopped s' :=
    ⟨h.boot.trans (by rw [hboot]), h.flash.trans hflash, fun m hm =>
      ⟨h.arm m hm, h.engines m hm, fun hl => h.running m hm ((hlead m).trans hl)⟩⟩
  refine ⟨fun hrun hislands hsafe => ⟨?halt, ?ref⟩, fun hrun => ⟨?haltEarly, ?refEarly, ?aoEarly⟩, ?high, fun dies m hrun hmax => ?sample,
    fun hup => ?tick, fun hao hrun => ?aoLoss, fun hgood huvlo hislands => ?aoFirst, fun hislands => ?aoAgain, fun hup hstate => ?wake,
    fun hstate => ?awake, fun hwaking hinit => ?woken⟩
  case halt =>
    refine .of_run rfl (if_pos hrun) fun s' hs' => ?_
    have h := (State.enterSafe_stopped { u with supply := { u.supply with haltN := false } } hsafe hislands).reports hs'.reports
    exact ⟨safe h rfl rfl fun _ => rfl, h.supply⟩
  case ref =>
    refine .of_run rfl (if_pos hrun) fun s' hs' => ?_
    have h := (State.enterSafe_stopped { u with supply := { u.supply with refclk := false } } hsafe hislands).reports hs'.reports
    exact ⟨safe h rfl rfl fun _ => rfl, h.supply⟩
  case haltEarly => exact .of_run rfl (if_neg (Bool.eq_false_iff.mp hrun)) fun s' hs' => hs'.silent
  case refEarly => exact .of_run rfl (if_neg (Bool.eq_false_iff.mp hrun)) fun s' hs' => hs'.silent
  case aoEarly =>
    refine aoclkLoss_answers (x := { u with supply := { u.supply with aoclk := false } }) ?_ fun s' hs' => hs'.silent
    change (if !u.supply.aoclk then u else _) = _
    cases hao : u.supply.aoclk with
    | true => exact if_pos (congrArg (!·) hrun)
    | false =>
      have hsame : ({ u.supply with aoclk := false } : Supply) = u.supply := by rw [← hao]
      rw [hsame]
      rfl
  case high => exact .of_run rfl rfl fun s' hs' => hs'.silent
  case sample =>
    refine ⟨fun hcool => thermalSample_answers hrun hmax fun s' hs' => ?_, fun hhot hislands hsafe =>
      thermalSample_answers hrun hmax fun s' hs' => ?_⟩
    · rw [if_neg (by omega)] at hs'
      rw [hs'.silent]
      simp only [Cell.sampled, tooHot_eq, u]
    · rw [if_pos hhot] at hs'
      have h := (State.enterSafe_stopped (u.onCell cell (fun k => k.sampled dies m)) hsafe hislands).reports hs'.reports
      refine ⟨safe h rfl rfl (u.onCell_isLead cell fun _ => rfl), (h.temp cell).trans ?_⟩
      rw [State.cell_onCell_same]
      rfl
  case tick =>
    refine ⟨fun hhot => ?_, fun hwarm hbelow => ?_, fun hcool hnone => ?_, fun v hcool hv => ?_⟩
    · exact thermalCeilingTick_answers hup (Cell.nextCeiling_of_hot hhot)
    · exact thermalCeilingTick_answers hup (Cell.nextCeiling_of_warm hwarm hbelow)
    · exact thermalCeilingTick_answers hup (Cell.nextCeiling_of_cool hcool hnone)
    · exact thermalCeilingTick_answers hup (Cell.nextCeiling_of_held hcool hv)
  case aoLoss =>
    refine aoclkLoss_answers (x := State.clockLosses { u with supply := { u.supply with aoclk := false } } allCells)
      ((if_neg (by rw [hao]; decide)).trans (if_neg (by rw [hrun]; decide))) fun s' hs' => ?_
    exact ⟨(State.clockLosses_reports _ allCells).trans hs'.reports, fun m hm => EndsAs.clockTold _ hs' hm⟩
  case aoFirst => exact .of_run rfl (State.startIslands_of_held hgood rfl huvlo hislands) fun s' hs' => hs'.silent
  case aoAgain => exact .of_run rfl (State.startIslands_of_started hislands) fun s' hs' => hs'.silent
  case wake => exact .of_run rfl ((if_pos hup).trans (State.wake_of_below (State.init_of_cellUp hup) hstate)) fun s' hs' => hs'.silent
  case awake => exact .of_run (x := u) rfl ((congrArg (fun x => ite _ x u) (wake_of_c0 hstate)).trans (ite_self u)) fun s' hs' => hs'.silent
  case woken => exact .of_run rfl (if_pos (by rw [hwaking, hinit]; rfl)) fun s' hs' => hs'.silent

end Sys2Proof.Machine

/-! ## The supply fails and returns (R349, R368 to R370, R373, R376) -/

namespace Sys2Proof.Machine

section
variable (s : State)

/-- The supply's failure is noted, and an erase under way is suspended (R369, R377). -/
def State.failNoted : State :=
  { s with supply := { s.supply with failing := true, lastEdge := s.now }, flash := s.flash.suspend }

theorem State.powerFail_eq : s.powerFail = s.failNoted.cutAll vPOWER allCells := by
  unfold State.powerFail State.cutAll State.cutThrough State.cutAt State.failNoted
  rfl

theorem Flash.suspend_eq (f : Flash) : f.suspend = { f with sectors := if f.sectors = .erasing then .written else f.sectors } := by
  unfold Flash.suspend
  split <;> rfl

/-- What a failing supply `y` leaves of the module: planes and tiers stand, no ARM pends, and running steps have a POWER cause. -/
structure Failed (u : State) (y : Supply) (s' : State) : Prop where
  supply : s'.supply = { y with failing := true, lastEdge := u.now }
  boot   : s'.boot = u.boot
  flash  : s'.flash = { u.flash with sectors := if u.flash.sectors = .erasing then .written else u.flash.sectors }
  cell   : ∀ m ∈ allCells, (s'.cell m).fig.arm = none ∧ (s'.cell m).fig.plane = (u.cell m).fig.plane ∧
    (s'.cell m).tiers = (u.cell m).tiers ∧
    ((u.cell m).step.running → ({ code := vPOWER, tenant := 0xFF, entry := none } : Cause) ∈ (s'.cell m).step.causes)

/-- Cut with POWER, every cell of the list is as a failing supply leaves it (R369). -/
theorem State.cutAll_failed {l : List Nat} {m : Nat} (hm : m ∈ l) {s' : State} (h : Cuts (s.cutAll vPOWER l) s') :
    (s'.cell m).fig.arm = none ∧ (s'.cell m).fig.plane = (s.cell m).fig.plane ∧ (s'.cell m).tiers = (s.cell m).tiers ∧
    ((s.cell m).step.running → ({ code := vPOWER, tenant := 0xFF, entry := none } : Cause) ∈ (s'.cell m).step.causes) :=
  have hcut := ((s.cutAll_cuts vPOWER l).trans h).cell m
  ⟨(h.cell m).arm (s.cutAll_arm vPOWER hm), hcut.plane, hcut.tiers, fun hrun => (h.cell m).causes (s.cutAll_causes vPOWER hm hrun)⟩

theorem EndsAs.failed {s s' : State} (h : EndsAs s.powerFail s') : Failed s s.supply s' := by
  rw [s.powerFail_eq] at h
  have hcut := (s.failNoted.cutAll_cuts vPOWER allCells).trans h.reports.cuts
  exact ⟨hcut.supply, hcut.boot, hcut.flash.trans s.flash.suspend_eq, fun m hm => s.failNoted.cutAll_failed hm h.reports.cuts⟩

/-- What a reset leaves of the module: registers and tiers are gone, the flash and its permanent fences stay (R373, R376). -/
structure Fresh (u s' : State) : Prop where
  running : s'.boot.running = false
  safe    : s'.boot.safe = false
  seating : s'.seating = Seating.reset
  host    : s'.host = HostPort.reset
  fns     : s'.fns = []
  chans   : s'.chans = []
  coords  : s'.coords = []
  flash   : s'.flash = { u.flash with queue := [], busy := none, deferred := false, sectors := .written }
  cell    : ∀ m, (s'.cell m).tiers = Tiers.reset ∧ (s'.cell m).init = false ∧ (s'.cell m).fig.active = none
  fences  : ∀ m ∈ allCells, ∀ n, n < 128 → ((s'.cell m).core n).permFence = u.flash.fences.contains (128 * m + n)

theorem EndsAs.fresh {s s' : State} {y : Supply} (h : EndsAs { s.moduleReset with supply := y } s') : Fresh s s' := by
  have hr := h.reports
  refine ⟨congrArg Boot.running hr.boot, congrArg Boot.safe hr.boot, hr.seating, hr.host, congrArg State.fns h.silent, hr.chans, hr.coords,
    hr.flash, fun m => ?_, fun m hm n hn => ?_⟩
  · obtain ⟨e, hcell⟩ := h.cell m
    rw [hcell]
    exact s.moduleReset_cleared m
  · rw [hr.core]
    exact (congrArg (fun k : Cell => (k.core n).permFence) ((s.moduleReset_cell m).trans (if_pos hm))).trans (s.freshCell_permFence m hn)

end

/-- Settles O49: a failing supply cuts every cell and no more; a reset clears the module; a supply that returns reads in range. -/
theorem theSupplyFailsAndReturns : Obligations.TheSupplyFailsAndReturns := by
  intro t mv level s u failed fresh
  have fails {x s' : State} (h : EndsAs x.powerFail s') (hboot : x.boot = u.boot) (hflash : x.flash = u.flash) (hnow : x.now = u.now)
      (hcell : x.cell = u.cell) : failed x.supply s' := by
    obtain ⟨hsupply, hkept, hcut, hcells⟩ := h.failed
    rw [hboot] at hkept
    rw [hflash] at hcut
    rw [hnow] at hsupply
    rw [hcell] at hcells
    exact ⟨hsupply, hkept, hcut, hcells⟩
  have cleared {x s' : State} (h : Fresh x s') (hflash : x.flash = u.flash) : fresh s' := by
    obtain ⟨hrunning, hsafe, hseating, hhost, hfns, hchans, hcoords, hkept, hcells, hfences⟩ := h
    rw [hflash] at hkept hfences
    exact ⟨hrunning, hsafe, hseating, hhost, hfns, hchans, hcoords, hkept, hcells, hfences⟩
  refine ⟨fun hislands hout => ?vin, fun hedge => ⟨fun hislands => ?fail, fun hislands => ?failEarly⟩, fun hfailing hhigh hgood hquiet => ?back,
    fun hgood => ⟨fun hislands => ?fall, fun hislands => ?fallEarly⟩, fun hgood hislands hlow => ?low, fun hmv huvlo => ?lockout,
    fun hmv huvlo => ?release⟩
  case vin =>
    have hbad : vinOk mv = false := by
      unfold vinOk
      simp only [Bool.and_eq_false_iff, decide_eq_false_iff_not]
      omega
    exact .of_run rfl (if_neg (by rw [hbad, hislands]; decide)) fun s' hs' => fails hs' rfl rfl rfl rfl
  case fail => exact .of_run rfl ((if_neg hedge).trans (if_pos hislands)) fun s' hs' => fails hs' rfl rfl rfl rfl
  case failEarly => exact .of_run rfl ((if_neg hedge).trans (if_neg (Bool.eq_false_iff.mp hislands))) fun s' hs' => hs'.silent
  case back =>
    have hcond : (u.supply.failing && u.supply.pwrFailN && u.supply.pwrGood && decide (u.supply.lastEdge + 10000000 ≤ u.now)) = true := by
      rw [hfailing, hhigh, hgood, decide_eq_true hquiet]
      rfl
    refine .of_run rfl (if_pos hcond) fun s' hs' => ⟨if vinOk u.supply.vin then u.supply.vin else 42000, ?_, ?_, fun hok => if_pos hok,
      hs'.silent⟩
    all_goals
      by_cases hok : vinOk u.supply.vin = true
      · rw [if_pos hok]
        simp only [vinOk, Bool.and_eq_true, decide_eq_true_eq] at hok
        omega
      · rw [if_neg hok]
        omega
  case fall => exact .of_run rfl ((if_neg (by rw [hgood]; decide)).trans (if_pos hislands)) fun s' hs' => fails hs' rfl rfl rfl rfl
  case fallEarly =>
    exact .of_run rfl ((if_neg (by rw [hgood]; decide)).trans (if_neg (Bool.eq_false_iff.mp hislands))) fun s' hs' => hs'.silent
  case low =>
    have hcond : (!u.supply.pwrGood && u.boot.islands && decide (u.supply.lastEdge + 1000000 ≤ u.now)) = true := by
      rw [hgood, hislands, decide_eq_true hlow]
      rfl
    refine .of_run rfl (if_pos hcond) fun s' hs' => ⟨cleared (EndsAs.fresh (y := u.moduleReset.supply) hs') rfl, ?_, ?_⟩
    · exact congrArg Boot.islands hs'.reports.boot
    · exact (congrArg Supply.pwrGood hs'.reports.supply).trans hgood
  case lockout =>
    have hcond : ¬(decide (36000 ≤ mv) || u.supply.uvlo) = true := by
      rw [huvlo]
      simpa using hmv
    refine .of_run rfl (if_neg hcond) fun s' hs' => ⟨cleared hs'.fresh rfl, ?_, ?_, ?_, ?_⟩
    · exact congrArg Boot.islands hs'.reports.boot
    · exact congrArg Supply.uvlo hs'.reports.supply
    · exact congrArg Supply.pwrGood hs'.reports.supply
    · exact congrArg Supply.vin hs'.reports.supply
  case release =>
    have hcond : ¬(decide (mv ≤ 37000) || !u.supply.uvlo) = true := by
      rw [huvlo]
      simpa using hmv
    exact .of_run rfl (if_neg hcond) fun s' hs' => hs'.silent

end Sys2Proof.Machine

/-! ## Stores wait, start and come true (R318, R367, R375 to R380, R385, R390, R407, R411) -/

namespace Sys2Proof.Machine

section
variable (s : State)

/-! ### A store starts (R375 to R377) -/

/-- An erase comes next for a store that needs one and whose sectors are not erased yet (R375). -/
theorem Flash.eraseNext_iff (f : Flash) (x : Store) : f.eraseNext x = true ↔ x.erases = true ∧ f.sectors ≠ .erased := by
  simp [Flash.eraseNext]

theorem Flash.tMax_eq (f : Flash) (x : Store) [Decidable (x.erases = true ∧ f.sectors ≠ .erased)] :
    f.tMax x = if x.erases = true ∧ f.sectors ≠ .erased then 1000 else 1200 := if_congr (f.eraseNext_iff x) rfl rfl

theorem Flash.start_of_erase {f : Flash} {x : Store} {r : List Store} (h : x.erases = true ∧ f.sectors ≠ .erased) :
    f.start x r = { f with sectors := .erasing, deferred := false } := if_pos ((f.eraseNext_iff x).mpr h)

theorem Flash.start_of_program {f : Flash} {x : Store} {r : List Store} (h : ¬(x.erases = true ∧ f.sectors ≠ .erased)) :
    f.start x r = { f with busy := some x, queue := r, deferred := false, sectors := .written } :=
  if_neg (mt (f.eraseNext_iff x).mp h)

section
variable {s} {x : Store} {rest : List Store} (hqueue : s.flash.queue = x :: rest) (hmay : s.mayStore = true)
include hqueue hmay

theorem State.tryStore_of_held (hheld : s.holdsUp (s.flash.tMax x) = true) : s.tryStore = { s with flash := s.flash.start x rest } := by
  unfold State.tryStore
  rw [hqueue]
  exact (if_neg (by rw [hmay]; decide)).trans (if_pos hheld)

theorem State.tryStore_of_deferred (hheld : s.holdsUp (s.flash.tMax x) = false) (hdeferred : s.flash.deferred = true) : s.tryStore = s := by
  unfold State.tryStore
  rw [hqueue]
  exact (if_neg (by rw [hmay]; decide)).trans ((if_neg (Bool.eq_false_iff.mp hheld)).trans (if_pos hdeferred))

theorem State.tryStore_reports (hheld : s.holdsUp (s.flash.tMax x) = false) (hdeferred : s.flash.deferred = false) :
    Reports { s with flash := { s.flash with deferred := true } } s.tryStore := by
  unfold State.tryStore
  rw [hqueue]
  dsimp only
  rw [if_neg (by rw [hmay]; decide), if_neg (Bool.eq_false_iff.mp hheld), if_neg (Bool.eq_false_iff.mp hdeferred)]
  exact State.err_reports (.refl _) ..

end

/-! ### A store waits (R390, R407, R411) -/

/-- The store waits behind the others. -/
def State.queued (x : Store) : State := { s with flash := { s.flash with queue := s.flash.queue ++ [x] } }

theorem State.storeLater_of_anchored {s : State} (h : s.boot.anchorLost = false) (x : Store) : s.storeLater x = s.queued x :=
  if_neg (Bool.eq_false_iff.mp h)

/-- Registers answer the PF and the module supervisor under a live host anchor alone (R401). -/
theorem anchored_of_regUp {s : State} {who : BitVec 8} (hwho : who = 0x00 ∨ who = 0x40) (hup : s.regUp who = true) :
    s.boot.anchorLost = false := by
  have hanchor : s.anchorUp = true := by
    rcases hwho with rfl | rfl
    · have hbar : s.barUp = true := hup
      simp only [State.barUp, Bool.and_eq_true] at hbar
      tauto
    · exact hup
  simp only [State.anchorUp, Bool.and_eq_true, Bool.not_eq_true'] at hanchor
  exact hanchor.2

theorem fwUp_of_regUp {s : State} {who : BitVec 8} (hwho : who = 0x00 ∨ who = 0x40) (hup : s.regUp who = true) : s.fwUp who = true := by
  rw [State.fwUp, hup]
  simpa using hwho

/-- The floor in force and every raise of it that waits (R390, R407). -/
def Flash.figRaises (f : Flash) : List Nat := f.figFloor.toNat :: f.waiting.filterMap Store.figRaise

def Flash.ruleRaises (f : Flash) : List Nat := f.ruleFloor.toNat :: f.waiting.filterMap Store.ruleRaise

/-- The raises that a floor write has to pass. -/
def Flash.raises (f : Flash) (fig : Bool) : List Nat := if fig then f.figRaises else f.ruleRaises

theorem raiseFloor_cond (fig : Bool) (v : BitVec 32) :
    (decide ((if fig then s.flash.figFloor else s.flash.ruleFloor).toNat < v.toNat) &&
      (s.flash.waiting.filterMap (if fig then Store.figRaise else Store.ruleRaise)).all (fun p => p < v.toNat)) = true ↔
    ∀ n ∈ s.flash.raises fig, n < v.toNat := by
  cases fig <;> simp only [Flash.raises, Flash.figRaises, Flash.ruleRaises, Bool.false_eq_true, if_true, if_false, Bool.and_eq_true,
    decide_eq_true_eq, List.all_eq_true, List.forall_mem_cons]

theorem State.raiseFloor_of_above {fig : Bool} {v : BitVec 32} (h : ∀ n ∈ s.flash.raises fig, n < v.toNat) :
    s.raiseFloor fig v = s.storeLater (if fig then .figFloor v else .ruleFloor v) := if_pos ((raiseFloor_cond s fig v).mpr h)

theorem State.raiseFloor_of_below {fig : Bool} {v : BitVec 32} (h : ∃ n ∈ s.flash.raises fig, v.toNat ≤ n) :
    s.raiseFloor fig v = s.discard (if fig then 0x80 else 0x84) := by
  obtain ⟨n, hn, hle⟩ := h
  exact if_neg fun hc => absurd ((raiseFloor_cond s fig v).mp hc n hn) (by omega)

/-! ### A store comes true (R376, R385, R390) -/

/-- A floor that a value raises, and no value lowers (R390). -/
theorem raised_toNat (a b : BitVec 32) : (if a.toNat < b.toNat then b else a).toNat = max a.toNat b.toNat := by
  split <;> omega

/-- A bundle that is neither for recovery nor of a PLDM update lies in its slot, and WRITE ends (R365, R400, R406). -/
theorem State.commitBundle (slot : Nat) (b : Bundle) (hrecovery : s.boot.recovery = false) (hpldm : s.fw.pldm = false) :
    (s.commitStore (.fwBundle slot b)).flash = { s.flash with bundles := s.flash.bundles.set none slot (some b) } ∧
    (s.commitStore (.fwBundle slot b)).fw = { s.fw with busy := false, pldm := false, last := 1, status := 0 } := by
  have hended : s.commitStore (.fwBundle slot b) =
      State.fwEnd { s with flash := { s.flash with bundles := s.flash.bundles.set none slot (some b) } } 1 fwDONE :=
    (if_neg (Bool.eq_false_iff.mp hrecovery)).trans (if_neg (Bool.eq_false_iff.mp hpldm))
  rw [hended]
  exact ⟨rfl, rfl⟩

/-- The module with its flash at rest after a program. -/
def State.written (x : Store) : State :=
  { s with flash := { s.flash with busy := none, commits := if x.journal then s.flash.commits + 1 else s.flash.commits } }

end

section
variable {t : Nat} {s : State} {P : State → Prop}

theorem journalCommitWritten_answers {x : Store} (hbusy : (s.at t).flash.busy = some x) (hanchor : (s.at t).boot.anchorLost = false)
    (hP : ∀ s', EndsAs (((s.at t).written x).commitStore x) s' → P s') : Answers (.journalCommitWritten t) s P := by
  refine .of_run rfl ?_ hP
  dsimp only
  rw [hbusy]
  exact if_neg (Bool.eq_false_iff.mp hanchor)

theorem journalErased_answers (hbusy : (s.at t).flash.busy = none) (hsectors : (s.at t).flash.sectors = .erasing)
    (hanchor : (s.at t).boot.anchorLost = false)
    (hP : ∀ s', EndsAs { s.at t with flash := { (s.at t).flash with sectors := .erased } } s' → P s') :
    Answers (.journalCommitWritten t) s P := by
  refine .of_run rfl ?_ hP
  dsimp only
  rw [hbusy]
  exact if_pos (by rw [hsectors, hanchor]; rfl)

theorem enrol_answers {who : BitVec 8} (hup : (s.at t).fwUp who = true) {len : Nat} {x : State} (hx : (s.at t).enrol len = x)
    (hP : ∀ s', EndsAs x s' → P s') : Answers (.enrol t who len) s P := .of_run rfl ((if_pos (by rw [hup]; rfl)).trans hx) hP

end

/-! ### Start figures (R367, R411) -/

section
variable {s : State} {c : Nat} {v : BitVec 32}

/-- A start figure, or its clearing, waits for the flash, and the cell shows so (R411). -/
def State.persistLater (s : State) (c slot : Nat) (b : Option (Nat × SMap Payload)) : State :=
  (s.onCell c (fun k => { k with fig := { k.fig with storePend := true, pslot := slot } })).storeLater (.persistSet c b)

theorem State.persist_of_pending (h : (s.cell c).fig.storePend = true) : s.persist c v = s.discard (cellReg c 0x58) := by
  unfold State.persist
  dsimp only
  split
  · rfl
  · exact if_pos h

theorem State.persist_of_clear (h : (s.cell c).fig.storePend = false) (hv : v.getLsbD 31 = false) :
    s.persist c v = s.persistLater c (v.toNat % 4) none := by
  unfold State.persist
  dsimp only
  rw [hv]
  exact if_neg (Bool.eq_false_iff.mp h)

theorem State.persist_of_resident {g : Figure} {blocks : SMap Payload} (h : (s.cell c).fig.storePend = false) (hv : v.getLsbD 31 = true)
    (hslot : (s.cell c).fig.slots.get .empty (v.toNat % 4) = .resident g blocks) :
    s.persist c v = s.persistLater c (v.toNat % 4) (some (fld (blocksNum blocks) 0x18 4, blocks)) := by
  unfold State.persist
  dsimp only
  rw [hv, hslot]
  exact if_neg (Bool.eq_false_iff.mp h)

/-- A slot that shows neither resident nor held has no figure to record (R41, R411). -/
theorem State.persist_of_empty (hv : v.getLsbD 31 = true) (hresident : (s.cell c).fig.slotState (v.toNat % 4) ≠ 2)
    (hheld : (s.cell c).fig.slotState (v.toNat % 4) ≠ 3) : s.persist c v = s.discard (cellReg c 0x58) := by
  unfold State.persist
  unfold FigState.slotState at hresident hheld
  dsimp only
  rw [hv]
  cases hslot : (s.cell c).fig.slots.get .empty (v.toNat % 4) with
  | empty => rfl
  | loading b len who => rfl
  | resident g b =>
    rw [hslot] at hresident hheld
    dsimp only at hresident hheld
    split at hresident
    · simp_all
    · exact absurd rfl hresident

end

/-! ### Enrolment (R385, R407) -/

section
variable {s : State} {len : Nat}

/-- What the first `len` bytes of the key window verify as (R385). -/
def State.keyRecord (s : State) (len : Nat) : Nat × Option Store := s.readRecord len (bits (blocksNum s.host.keyWin) 0 (8 * len))

theorem State.enrol_of_busy (h : s.host.keyBusy = true) : s.enrol len = s.discard 0xB0 := if_pos h

theorem State.enrol_reports (h : s.host.keyBusy = false) (hr : (s.keyRecord len).2 = none) :
    Reports { s with host := { s.host with keyStatus := (s.keyRecord len).1 } } (s.enrol len) := by
  unfold State.keyRecord at hr
  unfold State.enrol
  dsimp only
  rw [if_neg (Bool.eq_false_iff.mp h), hr]
  exact State.err_reports (.refl _) ..

theorem State.enrol_of_record {x : Store} (h : s.host.keyBusy = false) (hr : (s.keyRecord len).2 = some x) :
    s.enrol len = State.storeLater { s with host := { s.host with keyBusy := true } } x := by
  unfold State.keyRecord at hr
  unfold State.enrol
  dsimp only
  rw [if_neg (Bool.eq_false_iff.mp h), hr]

end

/-- Settles O53: a store starts, waits and comes true in order; floors, enrolments and start figures ask for one. -/
theorem storesFloorsEnrolmentsAndStartFigures : Obligations.StoresFloorsEnrolmentsAndStartFigures := by
  intro t s u
  refine ⟨fun x rest hqueue hmay => ?starts, fun hbusy hsectors hanchor => ?erased, fun x hbusy hanchor => ?ends, fun who v hwho hreg => ?asks⟩
  case starts =>
    intro erasing held went
    have hmax : u.holdsUp (u.flash.tMax x) = held := by rw [Flash.tMax_eq]
    have started {c : Instr} {g : State → State} (he : exec c s = .next (s.run t g)) (hg : g u = u.tryStore) (hheld : held = true) :
        Answers c s went := by
      refine .of_run he (hg.trans (State.tryStore_of_held hqueue hmay (hmax.trans hheld))) fun s' hs' => ⟨fun hyes => ?_, fun hno => ?_⟩
      · rw [hs'.silent, Flash.start_of_erase hyes]
      · rw [hs'.silent, Flash.start_of_program hno]
    refine ⟨fun hdeferred hheld => ?_, fun hdeferred hheld => ?_, fun hdeferred hheld => ?_, fun hdeferred hheld => ?_⟩
    · exact started rfl (if_neg (Bool.eq_false_iff.mp hdeferred)) hheld
    · refine .of_run rfl (if_neg (Bool.eq_false_iff.mp hdeferred)) fun s' hs' => ?_
      exact (State.tryStore_reports hqueue hmay (hmax.trans hheld) hdeferred).trans hs'.reports
    · exact started rfl (if_pos hdeferred) hheld
    · refine .of_run rfl ((if_pos hdeferred).trans (State.tryStore_of_deferred hqueue hmay (hmax.trans hheld) hdeferred)) fun s' hs' => ?_
      exact hs'.silent
  case erased => exact journalErased_answers hbusy hsectors hanchor fun s' hs' => hs'.silent
  case ends =>
    intro f done
    refine ⟨?_, ?_, ?_, ?_, ?_, ?_, ?_, ?_⟩
    · rintro v rfl
      exact journalCommitWritten_answers hbusy hanchor fun s' hs' => hs'.silent
    · rintro v rfl
      exact journalCommitWritten_answers hbusy hanchor fun s' hs' => hs'.silent
    · rintro slot key seq rfl
      refine journalCommitWritten_answers hbusy hanchor fun s' hs' => ?_
      rw [hs'.reports.flash, hs'.reports.host]
      exact ⟨SMap.get_set_same .., fun n hn => SMap.get_set_other _ _ _ hn, raised_toNat .., rfl, rfl, rfl⟩
    · rintro c b rfl
      refine journalCommitWritten_answers hbusy hanchor fun s' hs' => ?_
      have hfig := (hs'.reports.fig c).trans (congrArg Cell.fig (State.cell_onCell_same ..))
      rw [hs'.reports.flash, hfig]
      exact ⟨SMap.get_set_same .., rfl, rfl, rfl⟩
    · rintro slot v rfl
      exact journalCommitWritten_answers hbusy hanchor fun s' hs' => hs'.silent
    · rintro c n rfl
      refine ⟨(u.flash.fences ++ [128 * c + n]).dedup, fun m => by simp, ?_⟩
      exact journalCommitWritten_answers hbusy hanchor fun s' hs' => hs'.silent
    · rintro root l rfl
      exact journalCommitWritten_answers hbusy hanchor fun s' hs' => hs'.silent
    · rintro slot b rfl hrecovery hpldm
      refine journalCommitWritten_answers hbusy hanchor fun s' hs' => ?_
      obtain ⟨hflash, hfw⟩ := (u.written (.fwBundle slot b)).commitBundle slot b hrecovery hpldm
      rw [hs'.reports.flash, hs'.reports.fw, hflash, hfw]
      exact ⟨SMap.get_set_same u.flash.bundles none (some b) slot, rfl, rfl, rfl⟩
  case asks =>
    have hup := fwUp_of_regUp hwho hreg
    have hanchor := anchored_of_regUp hwho hreg
    intro later figs rules
    refine ⟨fun h => ?_, fun h => ?_, fun h => ?_, fun h => ?_, fun len => ⟨fun h => ?_, fun h hr => ?_, fun x h hr => ?_⟩, fun cell =>
      ⟨fun h => ?_, fun h hv => ?_, fun g blocks h hv hslot => ?_, fun hv hresident hheld => ?_⟩⟩
    · exact fwUp_answers hup rfl ((u.raiseFloor_of_above (fig := true) h).trans (State.storeLater_of_anchored hanchor _)) fun s' hs' => hs'.silent
    · exact fwUp_answers hup rfl (u.raiseFloor_of_below (fig := true) h) fun s' hs' => (u.discard_reports _).trans hs'.reports
    · exact fwUp_answers hup rfl ((u.raiseFloor_of_above (fig := false) h).trans (State.storeLater_of_anchored hanchor _)) fun s' hs' => hs'.silent
    · exact fwUp_answers hup rfl (u.raiseFloor_of_below (fig := false) h) fun s' hs' => (u.discard_reports _).trans hs'.reports
    · exact enrol_answers hup (State.enrol_of_busy h) fun s' hs' => (u.discard_reports _).trans hs'.reports
    · exact enrol_answers hup rfl fun s' hs' => (State.enrol_reports h hr).trans hs'.reports
    · exact enrol_answers hup ((State.enrol_of_record h hr).trans (State.storeLater_of_anchored (by exact hanchor) x)) fun s' hs' => hs'.silent
    · exact fwUp_answers hup rfl (State.persist_of_pending h) fun s' hs' => (u.discard_reports _).trans hs'.reports
    · exact fwUp_answers hup rfl (State.persist_of_clear h hv) fun s' hs' => hs'.silent
    · exact fwUp_answers hup rfl (State.persist_of_resident h hv hslot) fun s' hs' => hs'.silent
    · exact fwUp_answers hup rfl (State.persist_of_empty hv hresident hheld) fun s' hs' => (u.discard_reports _).trans hs'.reports

end Sys2Proof.Machine

/-! ## Words and doorbells of a channel (R344 to R348, R397) -/

namespace Sys2Proof.Machine

/-! ### One direction of a channel -/

section
variable (s : State) (n : Nat) (ab : Bool)

theorem State.onDir_congr {f g : ChanDir → ChanDir} (h : f ((s.chan n).dir ab) = g ((s.chan n).dir ab)) :
    s.onDir n ab f = s.onDir n ab g := congrArg (fun d => s.setChan n ((s.chan n).setDir ab d)) h

theorem State.chan_onDir_same (f : ChanDir → ChanDir) : ((s.onDir n ab f).chan n).dir ab = f ((s.chan n).dir ab) := by
  rw [State.onDir, State.chan_setChan_same]
  cases ab <;> rfl

theorem State.chan_onDir_not (f : ChanDir → ChanDir) : ((s.onDir n ab f).chan n).dir (!ab) = (s.chan n).dir (!ab) := by
  rw [State.onDir, State.chan_setChan_same]
  cases ab <;> rfl

theorem Chan.setDir_setDir (x : Chan) (d d' : ChanDir) : (x.setDir ab d).setDir ab d' = x.setDir ab d' := by cases ab <;> rfl

theorem State.setChan_setChan (v v' : Chan) : (s.setChan n v).setChan n v' = s.setChan n v' :=
  congrArg (fun m : SMap Chan => { s with chans := m }) (SMap.set_set ..)

theorem State.onDir_onDir (f g : ChanDir → ChanDir) : (s.onDir n ab f).onDir n ab g = s.onDir n ab (fun d => g (f d)) := by
  have hdir := s.chan_onDir_same n ab f
  unfold State.onDir at *
  rw [hdir, State.setChan_setChan, State.chan_setChan_same, Chan.setDir_setDir]

/-- A direction without waiting words takes none in (R347). -/
theorem State.flushDir_of_none (h : ((s.chan n).dir ab).waits = []) : s.flushDir n ab = s := if_pos (.inl (by rw [h]; rfl))

end

theorem ChanDir.pop_of_cons {d : ChanDir} {x : BitVec 32} {rest : List (BitVec 32)} (h : d.queue = x :: rest) :
    d.pop = (x, { d with queue := rest, pend := d.pend && !rest.isEmpty }) := by rw [ChanDir.pop, h]

theorem ChanDir.pop_of_nil {d : ChanDir} (h : d.queue = []) : d.pop = (0, { d with under := true }) := by rw [ChanDir.pop, h]

/-! ### Accesses through the window (R344 to R346, R348) -/

section
variable {s : State} {n : Nat} {who : BitVec 8} {w : BitVec 32} {a : Bool}

/-- An access by none of the two identities leaves both directions of every channel (R344). -/
theorem strangerAccess_dirs (s : State) (n : Nat) (who : BitVec 8) (m : Nat) :
    ((s.strangerAccess n who).chan m).ab = (s.chan m).ab ∧ ((s.strangerAccess n who).chan m).ba = (s.chan m).ba := by
  have counted (v : Chan) (e : Ev) : ((s.setChan n v).err (chanCell n) e).chan m = if m = n then v else s.chan m :=
    (congrArg (SMap.get · Chan.reset m) (State.err_reports (.refl _) _ e).chans).trans (State.chan_setChan ..)
  have noted (p : Prop) [Decidable p] (x : State) (hx : (x.chan m).ab = (s.chan m).ab ∧ (x.chan m).ba = (s.chan m).ba) :
      ((if p then x else s).chan m).ab = (s.chan m).ab ∧ ((if p then x else s).chan m).ba = (s.chan m).ba := by
    split
    · exact hx
    · exact ⟨rfl, rfl⟩
  refine noted _ _ ?_
  rw [counted]
  split
  · subst_vars
    exact ⟨rfl, rfl⟩
  · exact ⟨rfl, rfl⟩

section
variable (h : s.chanSide n who = none)
include h

theorem sendWord_of_stranger : s.sendWord n who w = s.strangerAccess n who := by rw [State.sendWord, h]

theorem sendBell_of_stranger : s.sendBell n who w = s.strangerAccess n who := by rw [State.sendBell, h]

theorem recvWord_of_stranger : s.recvWord n who = (0, s.strangerAccess n who) := by rw [State.recvWord, h]

theorem recvClear_of_stranger : s.recvClear n who w = s.strangerAccess n who := by rw [State.recvClear, h]

end

section
variable (h : s.chanSide n who = some a)
include h

theorem sendWord_of_side : s.sendWord n who w = s.onDir n a (fun d => d.push w) := by rw [State.sendWord, h]

theorem sendWord_of_room (hroom : ((s.chan n).dir a).queue.length < 16) :
    s.sendWord n who w = s.onDir n a (fun d => { d with queue := d.queue ++ [w] }) :=
  (sendWord_of_side h).trans (s.onDir_congr n a (if_pos hroom))

theorem sendWord_of_full (hfull : 16 ≤ ((s.chan n).dir a).queue.length) :
    s.sendWord n who w = s.onDir n a (fun d => { d with ovf := true, drop := satAdd d.drop 1 }) :=
  (sendWord_of_side h).trans (s.onDir_congr n a (if_neg (Nat.not_lt.mpr hfull)))

theorem sendBell_of_side (hw : w.getLsbD 0 = true) : s.sendBell n who w = s.ring n a := by
  rw [State.sendBell, h]
  exact if_pos hw

theorem recvClear_of_side : s.recvClear n who w = s.onDir n (!a) (fun d =>
    { d with pend := d.pend && !w.getLsbD 8, under := d.under && !w.getLsbD 9 }) := by rw [State.recvClear, h]

/-- A read takes the oldest word where none waits to follow it (R344, R346). -/
theorem recvWord_of_side (hwaits : ((s.chan n).dir (!a)).waits = []) :
    s.recvWord n who = (((s.chan n).dir (!a)).pop.1, s.onDir n (!a) (fun d => d.pop.2)) := by
  have hpop (d : ChanDir) : d.pop.2.waits = d.waits := by
    unfold ChanDir.pop
    split <;> rfl
  have hnone : (((s.onDir n (!a) (fun d => d.pop.2)).chan n).dir (!a)).waits = [] := by rw [State.chan_onDir_same, hpop, hwaits]
  rw [State.recvWord, h]
  exact Prod.ext rfl (State.flushDir_of_none _ n (!a) hnone)

end

theorem recvWord_of_cons (h : s.chanSide n who = some a) (hwaits : ((s.chan n).dir (!a)).waits = []) {x : BitVec 32}
    {rest : List (BitVec 32)} (hqueue : ((s.chan n).dir (!a)).queue = x :: rest) :
    s.recvWord n who = (x, s.onDir n (!a) (fun d => { d with queue := rest, pend := d.pend && !rest.isEmpty })) := by
  have hpop := ChanDir.pop_of_cons hqueue
  have hdir := s.onDir_congr n (!a) (f := fun d => d.pop.2) (g := fun d => { d with queue := rest, pend := d.pend && !rest.isEmpty })
    (congrArg Prod.snd hpop)
  rw [recvWord_of_side h hwaits, hdir, hpop]

theorem recvWord_of_nil (h : s.chanSide n who = some a) (hwaits : ((s.chan n).dir (!a)).waits = [])
    (hqueue : ((s.chan n).dir (!a)).queue = []) : s.recvWord n who = (0, s.onDir n (!a) (fun d => { d with under := true })) := by
  have hpop := ChanDir.pop_of_nil hqueue
  have hdir := s.onDir_congr n (!a) (f := fun d => d.pop.2) (g := fun d => { d with under := true }) (congrArg Prod.snd hpop)
  rw [recvWord_of_side h hwaits, hdir, hpop]

theorem ring_of_clear (hwho : s.chanTo n a ≠ 0x70) (hpend : ((s.chan n).dir a).pend = false) :
    s.ring n a = (s.onDir n a (fun d => { d with pend := true })).raiseEvent n (s.chanTo n a) :=
  (if_neg hwho).trans (if_neg (Bool.eq_false_iff.mp hpend))

theorem ring_of_pending (hwho : s.chanTo n a ≠ 0x70) (hpend : ((s.chan n).dir a).pend = true) :
    s.ring n a = s.onDir n a (fun d => { d with coal := satAdd d.coal 1 }) := (if_neg hwho).trans (if_pos hpend)

/-- Toward the Manager every queued word leaves (R348). -/
theorem ring_reports (hwho : s.chanTo n a = 0x70) : Reports (s.onDir n a (fun d => { d with queue := [], pend := false })) (s.ring n a) := by
  rw [State.ring, if_pos hwho]
  exact State.mail_reports (.refl _) ..

theorem ChanDir.pop_queue (d : ChanDir) : d.pop.2.queue = d.queue.drop 1 := by
  unfold ChanDir.pop
  split
  next h => rw [h]; rfl
  next h => rw [h]; rfl

end

/-! ### The board controller's messages (R397, Table 16-8) -/

section
variable {s : State} {n : Nat} {who : BitVec 8} {a : Bool}

/-- Words that all fit enter one behind the other (R345, R397). -/
theorem foldl_sendWord (h : s.chanSide n who = some a) {words : List (BitVec 32)} (hsome : words ≠ [])
    (hfits : ((s.chan n).dir a).queue.length + words.length ≤ 16) :
    words.foldl (fun (x : State) w => x.sendWord n who w) s = s.onDir n a (fun d => { d with queue := d.queue ++ words }) := by
  induction words generalizing s with
  | nil => exact absurd rfl hsome
  | cons w words ih =>
    rw [List.length_cons] at hfits
    rw [List.foldl_cons, sendWord_of_room h (by omega)]
    by_cases hlast : words = []
    · rw [hlast]
      rfl
    · have hlen : ((((s.onDir n a (fun d => { d with queue := d.queue ++ [w] })).chan n).dir a).queue).length + words.length ≤ 16 := by
        rw [State.chan_onDir_same, List.length_append, List.length_singleton]
        omega
      rw [ih (s := s.onDir n a (fun d => { d with queue := d.queue ++ [w] })) h hlast hlen, State.onDir_onDir]
      simp only [List.append_assoc, List.singleton_append]

/-- What reads of the oldest words leave: the queue without them, the other direction as it was. -/
structure WordsTaken (n : Nat) (a : Bool) (k : Nat) (s : State) (l : List (BitVec 32)) (r : State × List (BitVec 32)) : Prop where
  words : r.2 = l ++ ((s.chan n).dir (!a)).queue.take k
  queue : ((r.1.chan n).dir (!a)).queue = ((s.chan n).dir (!a)).queue.drop k
  other : (r.1.chan n).dir a = (s.chan n).dir a

theorem takeWords_taken {k : Nat} (h : s.chanSide n 0x60 = some a) (hwaits : ((s.chan n).dir (!a)).waits = [])
    (hk : k ≤ ((s.chan n).dir (!a)).queue.length) (l : List (BitVec 32)) : WordsTaken n a k s l (State.takeWords k s n l) := by
  induction k generalizing s l with
  | zero => exact ⟨by simp [State.takeWords], rfl, rfl⟩
  | succ k ih =>
    obtain ⟨x, rest, hqueue⟩ := List.exists_cons_of_length_pos (show 0 < ((s.chan n).dir (!a)).queue.length by omega)
    have hrecv := recvWord_of_side h hwaits
    rw [ChanDir.pop_of_cons hqueue] at hrecv
    have hdir := s.chan_onDir_same n (!a) (fun d => d.pop.2)
    have hother := s.chan_onDir_not n (!a) (fun d => d.pop.2)
    rw [ChanDir.pop_of_cons hqueue] at hdir
    rw [Bool.not_not] at hother
    rw [hqueue, List.length_cons] at hk
    obtain ⟨hwords, hleft, hkept⟩ := ih (s := s.onDir n (!a) (fun d => d.pop.2)) (l := l ++ [x]) h (by rw [hdir]; exact hwaits)
      (by rw [hdir]; exact Nat.le_of_succ_le_succ hk)
    have hrun : State.takeWords (k + 1) s n l = State.takeWords k (s.onDir n (!a) (fun d => d.pop.2)) n (l ++ [x]) := by
      rw [State.takeWords, hrecv]
    rw [hrun]
    rw [hdir] at hwords hleft
    exact ⟨by rw [hwords, hqueue, List.append_assoc]; rfl, by rw [hleft, hqueue]; rfl, hkept.trans hother⟩

end

section
variable {t : Nat} {who : BitVec 8} {chan : Fin 64} {w : BitVec 32} {s x : State} {P : State → Prop}

section
variable (hup : (s.at t).mayWindow who = true)
include hup

theorem sendData_answers (hx : (s.at t).sendWord chan who w = x) (hP : ∀ s', EndsAs x s' → P s') : Answers (.sendData t who chan w) s P :=
  .of_run rfl ((if_pos hup).trans hx) hP

theorem sendDb_answers (hx : (s.at t).sendBell chan who w = x) (hP : ∀ s', EndsAs x s' → P s') : Answers (.sendDb t who chan w) s P :=
  .of_run rfl ((if_pos hup).trans hx) hP

theorem recvData_answers {v : BitVec 32} (hx : (s.at t).recvWord chan who = (v, x))
    (hP : ∀ s', EndsAs (x.emit (.readData who.toNat v.toNat)) s' → P s') : Answers (.recvData t who chan) s P :=
  .of_run rfl ((if_pos hup).trans (by rw [hx])) hP

theorem recvPend_answers (hx : (s.at t).recvClear chan who w = x) (hP : ∀ s', EndsAs x s' → P s') : Answers (.recvPend t who chan w) s P :=
  .of_run rfl ((if_pos hup).trans hx) hP

end

/-- The board's controller reaches the channel: its messages of an allowed count are served (R397). -/
theorem vendorSend_answers {count : Nat} {words : List (BitVec 32)} (hup : (s.at t).vendorUp 0x60 = true) (hlow : 1 ≤ count)
    (hhigh : count ≤ 16) (hlen : words.length = count) (hx : (s.at t).vendorSend 0x60 chan false words = x) (hP : ∀ s', EndsAs x s' → P s') :
    Answers (.vendorSend t 0x60 chan count false words) s P := by
  refine .of_run rfl ((if_neg (by rw [hup]; decide)).trans ((if_neg ?_).trans hx)) hP
  simp only [hlen, ne_eq, not_true_eq_false, decide_false, Bool.or_false, Bool.or_eq_true, decide_eq_true_eq, not_or]
  omega

theorem vendorReceive_answers {count : Nat} (hup : (s.at t).vendorUp 0x60 = true) (hlow : 1 ≤ count) (hhigh : count ≤ 16)
    (hx : (s.at t).vendorReceive 0x60 chan count = x) (hP : ∀ s', EndsAs x s' → P s') : Answers (.vendorReceive t 0x60 chan count) s P := by
  refine .of_run rfl ((if_neg (by rw [hup]; decide)).trans ((if_neg ?_).trans hx)) hP
  simp only [Bool.or_eq_true, decide_eq_true_eq, not_or]
  omega

end

section
variable {s : State} {n : Nat} {a : Bool}

theorem bmcSide_of_side (h : s.chanSide n 0x60 = some a) : s.bmcSide 0x60 n = some a := h

theorem vendorSend_of_room (h : s.chanSide n 0x60 = some a) {words : List (BitVec 32)} (hsome : words ≠ [])
    (hfits : ((s.chan n).dir a).queue.length + words.length ≤ 16) :
    s.vendorSend 0x60 n false words = (s.onDir n a (fun d => { d with queue := d.queue ++ words })).emit (.mctp 0x60 [0]) := by
  rw [State.vendorSend, bmcSide_of_side h]
  exact (if_neg (Nat.not_lt.mpr hfits)).trans (congrArg (State.emit · (.mctp 0x60 [0])) (foldl_sendWord h hsome hfits))

theorem vendorSend_of_full (h : s.chanSide n 0x60 = some a) {words : List (BitVec 32)}
    (hover : 16 < ((s.chan n).dir a).queue.length + words.length) : s.vendorSend 0x60 n false words = s.emit (.mctp 0x60 [2]) := by
  rw [State.vendorSend, bmcSide_of_side h]
  exact if_pos hover

theorem vendorReceive_of_side (h : s.chanSide n 0x60 = some a) {k : Nat} :
    s.vendorReceive 0x60 n k = (State.takeWords (min k ((s.chan n).dir (!a)).queue.length) s n []).1.emit (.mctp 0x60
      (0 :: (State.takeWords (min k ((s.chan n).dir (!a)).queue.length) s n []).2.length ::
        (State.takeWords (min k ((s.chan n).dir (!a)).queue.length) s n []).2.map BitVec.toNat)) := by
  rw [State.vendorReceive, bmcSide_of_side h]
  rfl

/-- What the board's controller reads of a window, in the order of Table 14-9 (R397). -/
def State.windowWords (s : State) (n : Nat) : List Nat :=
  let r := s.recvWord n 0x60
  [0, s.windowWord n 0x60 0x008, r.1.toNat, r.2.windowWord n 0x60 0x010, r.2.windowWord n 0x60 0x014, r.2.windowWord n 0x60 0x018,
    r.2.windowWord n 0x60 0x01C]

theorem vendorWindow_of_side (h : s.chanSide n 0x60 = some a) :
    s.vendorWindow 0x60 n = (s.recvWord n 0x60).2.emit (.mctp 0x60 (s.windowWords n)) := by
  rw [State.vendorWindow, bmcSide_of_side h]
  rfl

end

theorem EndsAs.chan {x s' : State} (h : EndsAs x s') (n : Nat) : s'.chan n = x.chan n := by rw [State.chan, State.chan, h.reports.chans]

/-- Settles O48: each access of a window or a message is a push, a pop, a bell or a clear of one direction. -/
theorem mailboxChannelsCarryWords : Obligations.MailboxChannelsCarryWords := by
  intro t who chan w s u n
  refine ⟨fun hup hside c hc => ?stranger, fun a hup hside => ?window, fun a hup hside => ?vendor⟩
  case stranger =>
    have kept {x s' : State} (h : EndsAs x s') (hx : x.chan = (u.strangerAccess n who).chan) (m : Nat) :
        (s'.chan m).ab = (u.chan m).ab ∧ (s'.chan m).ba = (u.chan m).ba := by
      rw [h.chan, hx]
      exact strangerAccess_dirs ..
    simp only [List.mem_cons, List.not_mem_nil, or_false] at hc
    rcases hc with rfl | rfl | rfl | rfl
    · exact sendData_answers hup (sendWord_of_stranger hside) fun s' hs' => kept hs' rfl
    · exact sendDb_answers hup (sendBell_of_stranger hside) fun s' hs' => kept hs' rfl
    · exact recvData_answers hup (recvWord_of_stranger hside) fun s' hs' => kept hs' rfl
    · exact recvPend_answers hup (recvClear_of_stranger hside) fun s' hs' => kept hs' rfl
  case window =>
    intro snd rcv
    refine ⟨fun hroom => ?_, fun hfull => ?_, fun hw hto hpend => ?_, fun hw hto hpend => ?_, fun hw hto => ?_, fun x rest hqueue hwaits => ?_,
      fun hqueue hwaits => ?_, ?_⟩
    · exact sendData_answers hup (sendWord_of_room hside hroom) fun s' hs' => hs'.silent
    · exact sendData_answers hup (sendWord_of_full hside hfull) fun s' hs' => hs'.silent
    · exact sendDb_answers hup ((sendBell_of_side hside hw).trans (ring_of_clear hto hpend)) fun s' hs' => hs'.silent
    · exact sendDb_answers hup ((sendBell_of_side hside hw).trans (ring_of_pending hto hpend)) fun s' hs' => hs'.silent
    · exact sendDb_answers hup (sendBell_of_side hside hw) fun s' hs' => (ring_reports hto).trans hs'.reports
    · exact recvData_answers hup (recvWord_of_cons hside hwaits hqueue) fun s' hs' => hs'.silent
    · exact recvData_answers hup (recvWord_of_nil hside hwaits hqueue) fun s' hs' => hs'.silent
    · exact recvPend_answers hup (recvClear_of_side hside) fun s' hs' => hs'.silent
  case vendor =>
    refine ⟨fun count words hlow hhigh hlen => ⟨fun hfits => ?_, fun hover => ?_⟩, fun count hlow hhigh hwaits => ?_, fun hwaits => ?_⟩
    · refine vendorSend_answers hup hlow hhigh hlen (vendorSend_of_room hside ?_ (hlen ▸ hfits)) fun s' hs' => hs'.silent
      rintro rfl
      exact absurd hlen (by simp; omega)
    · exact vendorSend_answers hup hlow hhigh hlen (vendorSend_of_full hside (hlen ▸ hover)) fun s' hs' => hs'.silent
    · refine vendorReceive_answers hup hlow hhigh (vendorReceive_of_side hside) fun s' hs' => ?_
      obtain ⟨hwords, hleft, hkept⟩ := takeWords_taken hside hwaits (Nat.min_le_right count _) []
      rw [List.nil_append, ← List.take_eq_take_min] at hwords
      rw [← List.drop_eq_drop_min] at hleft
      rw [hwords] at hs'
      have hchan := hs'.chan n
      exact ⟨(congrArg (fun x : Chan => (x.dir (!a)).queue) hchan).trans hleft, (congrArg (Chan.dir · a) hchan).trans hkept,
        hs'.mem_out (List.mem_append_right _ (List.mem_singleton.mpr rfl)) rfl⟩
    · refine .of_run rfl ((if_pos hup).trans (vendorWindow_of_side hside)) fun s' hs' => ?_
      have hchan := hs'.chan n
      have htaken := congrArg (fun x : Chan => (x.dir (!a)).queue) hchan
      have hother := congrArg (Chan.dir · a) hchan
      rw [recvWord_of_side hside hwaits] at htaken hother
      refine ⟨htaken.trans ((congrArg ChanDir.queue (u.chan_onDir_same n (!a) (fun d => d.pop.2))).trans (ChanDir.pop_queue _)), ?_⟩
      have hkept := u.chan_onDir_not n (!a) (fun d => d.pop.2)
      rw [Bool.not_not] at hkept
      exact hother.trans hkept

end Sys2Proof.Machine

/-! ## The first answer of PTM (R6, R333) -/

namespace Sys2Proof.Machine

/-- Device time is a count of 64 bits (R6). -/
theorem State.time_lt (s : State) (c : Nat) : s.time c < 2 ^ 64 := Nat.mod_lt _ (by decide)

/-- A running module with its link up, quiet and unseated, that PTM has not answered yet. -/
def unsynced : State :=
  { State.reset with boot := { Boot.reset with running := true }, host := { HostPort.reset with linkUp := true, cfgLive := true } }

/-- Refutes O56: the statement lets PTM answer with any number as the master's time, and has device time read that number afterwards. A
master's time of 2^64 is no count of 64 bits (R6), so no cell's device time reads it. -/
theorem not_managementTransportsAndTime : ¬ Obligations.ManagementTransportsAndTime := by
  intro h
  obtain ⟨-, -, -, -, -, hptm⟩ := h 0 unsynced
  obtain ⟨-, hunseated⟩ := hptm (2 ^ 64) (by decide +kernel)
  obtain ⟨hfirst, -⟩ := hunseated (by decide +kernel)
  obtain ⟨s', -, -, hcells, -⟩ := hfirst (by decide +kernel) (by decide +kernel)
  obtain ⟨-, -, htime⟩ := hcells 0 (by decide)
  exact absurd (htime (by decide +kernel)) (s'.time_lt 0).ne

end Sys2Proof.Machine

/-! ## Where registers lie (R337, R402, Tables 14-4, 17-2, 17-3) -/

namespace Sys2Proof.Machine

section
variable {c o : Nat}

/-- Offset `o` of cell `c`'s block in BAR0 (R12). -/
theorem cellBlock_cell (hc : c < 8) (ho : o < 0x100000) : cellBlock (0x100000 * (c + 1) + o) = some (c, o) := by
  have hin : (decide (0x100000 ≤ 0x100000 * (c + 1) + o) && decide (0x100000 * (c + 1) + o < 0x900000)) = true := by
    simp only [Bool.and_eq_true, decide_eq_true_eq]
    omega
  refine (if_pos hin).trans ?_
  have hcell : (0x100000 * (c + 1) + o) / 0x100000 - 1 = c := by omega
  have hoff : (0x100000 * (c + 1) + o) % 0x100000 = o := by omega
  rw [hcell, hoff]

/-- The 64-bit registers of a cell block (Table 17-3). -/
def wideInCell (o : Nat) : Bool := [0x10, 0x20, 0x48, 0x50, 0x90].contains o || (0x200 ≤ o && o < 0x400)

theorem wide_of_cellBlock {off : Nat} (h : cellBlock (off / 8 * 8) = some (c, o)) :
    wide 0 off = if wideInCell o then some (off / 8 * 8) else none := by
  unfold wide
  dsimp only
  rw [h, if_neg (by decide)]
  rfl

theorem wide_of_global {off : Nat} (h : cellBlock (off / 8 * 8) = none) :
    wide 0 off = if [0x10, 0x20, 0x30, 0x48, 0x60, 0x90, 0xA0].contains (off / 8 * 8) then some (off / 8 * 8) else none := by
  unfold wide
  dsimp only
  rw [h, if_neg (by decide)]

/-- Above the global block's own registers nothing is 64 bits wide but in the cell blocks (Table 17-2). -/
theorem wide_above {off : Nat} (h : cellBlock (off / 8 * 8) = none) (hoff : 0x100 ≤ off) : wide 0 off = none := by
  refine (wide_of_global h).trans (if_neg ?_)
  simp only [List.contains_cons, List.contains_nil, Bool.or_false, Bool.or_eq_true, beq_iff_eq]
  omega

theorem wide_cell (hc : c < 8) (ho : o < 0x100000) :
    wide 0 (0x100000 * (c + 1) + o) = if wideInCell (o / 8 * 8) then some (0x100000 * (c + 1) + o / 8 * 8) else none := by
  have hbase : (0x100000 * (c + 1) + o) / 8 * 8 = 0x100000 * (c + 1) + o / 8 * 8 := by omega
  have hcell := cellBlock_cell hc (show o / 8 * 8 < 0x100000 by omega)
  rw [← hbase] at hcell ⊢
  exact wide_of_cellBlock hcell

theorem cellBlock_below {off : Nat} (h : off < 0x100000) : cellBlock off = none :=
  if_neg (by simp only [Bool.and_eq_true, decide_eq_true_eq]; omega)

theorem ringBlock_pf {off : Nat} (h : off < 0x80000 ∨ 0x82000 ≤ off) : ringBlock 0 off = none :=
  (if_pos rfl).trans (if_neg (by simp only [Bool.and_eq_true, decide_eq_true_eq]; omega))

theorem windowBlock_pf {off : Nat} (h : off < 0x1000000) : windowBlock 0 off = none := by
  unfold windowBlock
  exact if_neg (by simp only [if_true, Bool.and_eq_true, decide_eq_true_eq]; omega)

/-- The ring registers of function `fn` begin here (R337). -/
def ringBase (fn : Nat) : Nat := if fn = 0 then 0x80000 else 0

section
variable (fn : Nat) (ho : o < 0x200)
include ho

theorem ringBlock_ring : ringBlock fn (ringBase fn + o) = some o := by
  unfold ringBlock ringBase
  split
  · rw [if_pos (by simp only [Bool.and_eq_true, decide_eq_true_eq]; omega), Nat.add_sub_cancel_left]
  · rw [if_pos (by omega), Nat.zero_add]

theorem windowBlock_ring : windowBlock fn (ringBase fn + o) = none := by
  unfold windowBlock ringBase
  refine if_neg ?_
  simp only [Bool.and_eq_true, decide_eq_true_eq]
  split <;> omega

theorem wide_ring : wide fn (ringBase fn + o) = none := by
  by_cases hfn : fn = 0
  · subst hfn
    have hbase : ringBase 0 = 0x80000 := rfl
    exact wide_above (cellBlock_below (by omega)) (by omega)
  · exact if_pos hfn

end

end

/-! ## Reads (R337, R402) -/

section
variable {s : State} {fn off v : Nat}

/-- Outside the load window an aligned word is read as a word. -/
theorem readReg_of_word (hout : fn ≠ 0 ∨ off < 0x3000000) (haligned : off % 4 = 0) : s.readReg fn off 4 = s.readAt fn off := by
  refine (if_neg ?_).trans (if_pos (by simp [haligned]))
  simp only [Bool.and_eq_true, decide_eq_true_eq]
  omega

/-- An 8-byte read at a 64-bit register answers the whole (R402). -/
theorem readReg_of_wide (hout : fn ≠ 0 ∨ off < 0x3000000) (hwide : wide fn off = some off) :
    s.readReg fn off 8 = (s.wideValue off % 2 ^ 64, s) := by
  refine (if_neg ?_).trans ((if_neg (by simp)).trans (if_pos (by simp [hwide])))
  simp only [Bool.and_eq_true, decide_eq_true_eq]
  omega

theorem readAt_of_plain (hwide : wide fn off = none) (hwindow : windowBlock fn off = none) :
    s.readAt fn off = (s.readWord fn off, s) := by rw [State.readAt, hwide, hwindow]

theorem readAt_of_wide {b : Nat} (hwide : wide fn off = some b) : s.readAt fn off = s.readHalf b (off ≠ b) := by rw [State.readAt, hwide]

/-- A 32-bit register of the global block (Table 17-2). -/
theorem readReg_global (hoff : off < 0x100) (haligned : off % 4 = 0) (hwide : wide 0 off = none) (hv : s.global32 off = v) :
    s.readReg 0 off 4 = (v, s) := by
  rw [readReg_of_word (.inr (by omega)) haligned, readAt_of_plain hwide (windowBlock_pf (by omega)), State.readWord,
    ringBlock_pf (by omega), windowBlock_pf (by omega), if_pos rfl, cellBlock_below (by omega)]
  exact congrArg (·, s) ((if_neg (by decide)).trans ((if_pos hoff).trans hv))

/-- A 32-bit register of a cell block (Table 17-3). -/
theorem readReg_cell {c o : Nat} (hc : c < 8) (ho : o < 0x100000) (haligned : o % 4 = 0) (hwide : wideInCell (o / 8 * 8) = false)
    (hv : s.cell32 c o = v) : s.readReg 0 (0x100000 * (c + 1) + o) 4 = (v, s) := by
  have hwindow := windowBlock_pf (show 0x100000 * (c + 1) + o < 0x1000000 by omega)
  have hnarrow : wide 0 (0x100000 * (c + 1) + o) = none := (wide_cell hc ho).trans (if_neg (Bool.eq_false_iff.mp hwide))
  rw [readReg_of_word (.inr (by omega)) (by omega), readAt_of_plain hnarrow hwindow, State.readWord, ringBlock_pf (by omega),
    hwindow, if_pos rfl, cellBlock_cell hc ho]
  exact congrArg (·, s) hv

theorem readReg_cell64 {c o : Nat} (hc : c < 8) (ho : o < 0x100000) (hwide : wideInCell o = true ∧ o / 8 * 8 = o) (hv : s.cell64 c o = v) :
    s.readReg 0 (0x100000 * (c + 1) + o) 8 = (v % 2 ^ 64, s) := by
  obtain ⟨hin, hbase⟩ := hwide
  have hbroad : wide 0 (0x100000 * (c + 1) + o) = some (0x100000 * (c + 1) + o) := by
    rw [wide_cell hc ho, hbase, if_pos hin]
  rw [readReg_of_wide (.inr (by omega)) hbroad, State.wideValue, cellBlock_cell hc ho]
  exact congrArg (fun x : Nat => (x % 2 ^ 64, s)) hv

/-- A read of the low word latches the high word for its next read (R402). -/
theorem readReg_low {b : Nat} (hb : b < 0x100) (haligned : b % 4 = 0) (hwide : wide 0 b = some b) :
    s.readReg 0 b 4 = (s.wideValue b % 2 ^ 32, { s with host := { s.host with
      highHeld := s.host.highHeld.set none b (some (BitVec.ofNat 32 (s.wideValue b % 2 ^ 64 / 2 ^ 32))) } }) := by
  rw [readReg_of_word (.inr (by omega)) haligned, readAt_of_wide hwide, ← Nat.mod_mod_of_dvd (s.wideValue b) (show 2 ^ 32 ∣ 2 ^ 64 by decide)]
  exact if_neg (by simp)

theorem readReg_high {b : Nat} {w : BitVec 32} (hb : b < 0x100) (haligned : b % 4 = 0) (hwide : wide 0 (b + 4) = some b)
    (hw : s.host.highHeld.get none b = some w) :
    s.readReg 0 (b + 4) 4 = (w.toNat, { s with host := { s.host with highHeld := s.host.highHeld.set none b none } }) := by
  rw [readReg_of_word (.inr (by omega)) (by omega), readAt_of_wide hwide, State.readHalf, hw]
  exact if_pos (by simp)

/-- A ring register of a function (Table 14-5). -/
theorem readReg_ring {o : Nat} (ho : o < 0x200) (haligned : o % 4 = 0) (hv : s.ringReg fn o = v) :
    s.readReg fn (ringBase fn + o) 4 = (v, s) := by
  have hbase : ringBase fn = 0x80000 ∨ ringBase fn = 0 := by unfold ringBase; split <;> simp
  rw [readReg_of_word (.inr (by omega)) (by omega), readAt_of_plain (wide_ring fn ho) (windowBlock_ring fn ho), State.readWord,
    ringBlock_ring fn ho]
  exact congrArg (·, s) hv

end

/-! ## Writes (R337, R338, R402, R405, R407) -/

section
variable {s : State} {fn off : Nat}

theorem writeReg_of_word (hout : fn ≠ 0 ∨ off < 0x3000000) (haligned : off % 4 = 0) (w : BitVec 32) :
    s.writeReg fn off 4 (w.setWidth 64) = s.writeWord fn off w := by
  have hword : (w.setWidth 64).setWidth 32 = w := by simp
  refine (if_neg ?_).trans ((if_pos (by simp [haligned])).trans (congrArg _ hword))
  simp only [Bool.and_eq_true, decide_eq_true_eq]
  omega

/-- No low word of the register waits any more (R402). -/
def State.lowTaken (s : State) (b : Nat) : State := { s with host := { s.host with lowHeld := s.host.lowHeld.set none b none } }

theorem writeReg_of_wide (hout : fn ≠ 0 ∨ off < 0x3000000) (hwide : wide fn off = some off) (v : BitVec 64) :
    s.writeReg fn off 8 v = (s.lowTaken off).writeWide off v := by
  refine (if_neg ?_).trans ((if_neg (by simp)).trans (if_pos (by simp [hwide])))
  simp only [Bool.and_eq_true, decide_eq_true_eq]
  omega

theorem writeWord_of_wide {b : Nat} (hwide : wide fn off = some b) (w : BitVec 32) : s.writeWord fn off w = s.writeHalf b (off ≠ b) w := by
  rw [State.writeWord, hwide]

theorem writeHalf_of_held {b : Nat} {low : BitVec 32} (hlow : s.host.lowHeld.get none b = some low) (w : BitVec 32) :
    s.writeHalf b true w = (s.lowTaken b).writeWide b (w ++ low) := by
  rw [State.writeHalf, hlow]
  rfl

/-- A 32-bit register of the global block (Table 17-2). -/
theorem writeReg_global (hoff : off < 0x100) (haligned : off % 4 = 0) (hwide : wide 0 off = none) (w : BitVec 32) :
    s.writeReg 0 off 4 (w.setWidth 64) = s.writeGlobal off w := by
  rw [writeReg_of_word (.inr (by omega)) haligned, State.writeWord, hwide, ringBlock_pf (by omega),
    windowBlock_pf (by omega), if_pos rfl, cellBlock_below (by omega)]
  exact (if_neg (by decide)).trans (if_pos hoff)

theorem writeReg_key (hlow : 0x2000 ≤ off) (hhigh : off < 0x4000) (haligned : off % 4 = 0) (w : BitVec 32) :
    s.writeReg 0 off 4 (w.setWidth 64) = s.writeKey off w := by
  rw [writeReg_of_word (.inr (by omega)) haligned, State.writeWord, wide_above (cellBlock_below (by omega)) (by omega),
    ringBlock_pf (by omega), windowBlock_pf (by omega), if_pos rfl, cellBlock_below (by omega)]
  exact (if_neg (by decide)).trans ((if_neg (by omega)).trans ((if_neg (by omega)).trans (if_pos (by simp [hlow, hhigh]))))

theorem writeReg_ring {o : Nat} (ho : o < 0x200) (haligned : o % 4 = 0) (w : BitVec 32) :
    s.writeReg fn (ringBase fn + o) 4 (w.setWidth 64) = s.writeRing fn o w := by
  have hbase : ringBase fn = 0x80000 ∨ ringBase fn = 0 := by unfold ringBase; split <;> simp
  rw [writeReg_of_word (.inr (by omega)) (by omega), State.writeWord, wide_ring fn ho, ringBlock_ring fn ho]

/-- Where a submission ring's registers lie (Table 14-5). -/
theorem subRing_offsets {c x : Nat} (hc : c < 8) (hx : x < 0x20) : ¬ 0x100 + 0x20 * c + x < 0x100 ∧ 0x100 + 0x20 * c + x < 0x200 ∧
    (0x100 + 0x20 * c + x - 0x100) / 0x20 = c ∧ (0x100 + 0x20 * c + x) % 0x20 = x := by omega

theorem ringReg_head {n c : Nat} (hc : c < 8) : s.ringReg n (0x100 + 0x20 * c + 0x10) = ((s.fn n).ring c).head := by
  obtain ⟨hlow, hhigh, hring, hword⟩ := subRing_offsets hc (show 0x10 < 0x20 by decide)
  unfold State.ringReg
  dsimp only
  rw [if_neg hlow, if_pos hhigh, hring, hword]
  rfl

section
variable {n : Nat} (hflr : (s.fn n).flr = false) (w : BitVec 32)
include hflr

theorem writeRing_cqHead : s.writeRing n 0x0C w = s.onFn n (fun h => { h with cqHead := w.toNat % 65536 }) :=
  if_neg (Bool.eq_false_iff.mp hflr)

theorem writeRing_cqBase (hoff : (s.fn n).cqEn = false) :
    s.writeRing n 0x04 w = s.onFn n (fun h => { h with cqBase := withHigh h.cqBase w }) :=
  (if_neg (Bool.eq_false_iff.mp hflr)).trans (if_neg (Bool.eq_false_iff.mp hoff))

theorem writeRing_base {c : Nat} (hc : c < 8) (hoff : ((s.fn n).ring c).en = false) :
    s.writeRing n (0x100 + 0x20 * c + 0x04) w = s.onFn n (fun h => h.onRing c (fun r => { r with base := withHigh r.base w })) := by
  obtain ⟨hlow, hhigh, hring, hword⟩ := subRing_offsets hc (show 0x04 < 0x20 by decide)
  unfold State.writeRing
  dsimp only
  rw [if_neg (Bool.eq_false_iff.mp hflr), if_neg hlow, if_pos hhigh, hring, hword]
  exact if_neg (Bool.eq_false_iff.mp hoff)

end

/-- The load window takes a write of any size, up to its end (R405). -/
theorem writeReg_window (hlow : 0x3000000 ≤ off) (hhigh : off < 0x4000000) (size : Nat) (v : BitVec 64) :
    s.writeReg 0 off size v = s.writeLoadWindow (off - 0x3000000) (min size 8) v := if_pos (by simp [hlow, hhigh])

theorem writeLoadWindow_of_free {size : Nat} {v : BitVec 64} (hfree : s.windowBusy = false) (hsize : size ≤ 8) (hlow : 0x3000000 ≤ off) :
    s.writeLoadWindow (off - 0x3000000) (min size 8) v = { s with host := { s.host with
      window := fillBytes s.host.window (off - 0x3000000) (bytesOf (min size (0x4000000 - off)) v.toNat) } } := by
  have hlen : min (min size 8) (0x1000000 - (off - 0x3000000)) = min size (0x4000000 - off) := by omega
  refine (if_neg (Bool.eq_false_iff.mp hfree)).trans ?_
  rw [hlen]

theorem readReg_window (hlow : 0x3000000 ≤ off) (hhigh : off < 0x4000000) (size : Nat) : s.readReg 0 off size = (0, s) :=
  if_pos (by simp [hlow, hhigh])

/-! ### Accesses of another size or alignment (R337) -/

section
variable {size : Nat} (hout : fn ≠ 0 ∨ off < 0x3000000 ∨ 0x4000000 ≤ off) (hword : size ≠ 4 ∨ off % 4 ≠ 0)
  (hwide : size ≠ 8 ∨ wide fn off ≠ some off)
include hout hword hwide

theorem writeReg_of_bad (v : BitVec 64) : s.writeReg fn off size v = s.badSize fn off := by
  refine (if_neg ?_).trans ((if_neg ?_).trans (if_neg ?_))
  all_goals simp only [Bool.and_eq_true, decide_eq_true_eq]
  · omega
  · omega
  · tauto

theorem readReg_of_bad : s.readReg fn off size = (0, s.badSize fn off) := by
  refine (if_neg ?_).trans ((if_neg ?_).trans (if_neg ?_))
  all_goals simp only [Bool.and_eq_true, decide_eq_true_eq]
  · omega
  · omega
  · tauto

end

theorem badSize_reports (h : (s.fn fn).lastBad = none) : Reports (s.onFn fn (fun h => { h with lastBad := some s.now })) (s.badSize fn off) := by
  have hdue : s.badSize fn off = (s.onFn fn (fun h => { h with lastBad := some s.now })).err 0
      { cls := clsCOMMAND, sev := 1, unit := 7, detail := off } := by
    rw [State.badSize, h]
    rfl
  rw [hdue]
  exact State.err_reports (.refl _) ..

theorem badSize_of_recent {b : Nat} (h : (s.fn fn).lastBad = some b) (hrecent : s.now < b + 1000000000) : s.badSize fn off = s := by
  rw [State.badSize, h]
  exact if_neg (by simpa using hrecent)

end

section
variable {t off size : Nat} {fn : Fin 64} {s w : State} {P : State → Prop} (hup : (s.at t).fnUp fn = true)
include hup

theorem registerRead_answers {v : Nat} (hr : (s.at t).readReg fn off size = (v, w)) (hP : ∀ s', EndsAs (w.emit (.readData fn.val v)) s' → P s') :
    Answers (.registerRead t fn off size) s P := by
  refine .of_run rfl ((if_pos hup).trans ?_) hP
  rw [hr]

theorem registerWrite_answers {v : BitVec 64} (hr : (s.at t).writeReg fn off size v = w) (hP : ∀ s', EndsAs w s' → P s') :
    Answers (.registerWrite t fn off size v) s P := .of_run rfl ((if_pos hup).trans hr) hP

end

/-- Settles O58: an access finds its register by size, alignment and block, and reads or writes that register alone. -/
theorem registerAccessesReadAndWrite : Obligations.RegisterAccessesReadAndWrite := by
  intro t fn s u ring h reads writes hup
  have hring : ring = ringBase fn := rfl
  have hflr : (u.fn fn).flr = false := by
    simp only [State.fnUp, Bool.and_eq_true, Bool.not_eq_true'] at hup
    exact hup.2
  have read {off size v : Nat} {w : State} (hr : u.readReg fn off size = (v, w)) : reads off size v w :=
    registerRead_answers hup hr fun s' hs' => hs'.silent
  have write {off size : Nat} {v : BitVec 64} {w : State} (hr : u.writeReg fn off size v = w) : writes off size v w :=
    registerWrite_answers hup hr fun s' hs' => hs'.silent
  refine ⟨fun hfn => ?pf, read (readReg_ring (by decide) rfl rfl), read (readReg_ring (by decide) rfl rfl),
    read (readReg_ring (by decide) rfl rfl), fun c => ?head, fun w => ⟨?cqHead, fun hoff => ?cqBase, fun c hoff => ?base⟩,
    fun off size v hout hword hwide => ?bad⟩
  case pf =>
    have readPf {off size v : Nat} {w : State} (hr : u.readReg 0 off size = (v, w)) : reads off size v w := read (hfn.symm ▸ hr)
    have writePf {off size : Nat} {v : BitVec 64} {w : State} (hr : u.writeReg 0 off size v = w) : writes off size v w :=
      write (hfn.symm ▸ hr)
    refine ⟨fun p hp => ?word, fun c => ⟨fun p hp => ?cellWord, ?number⟩, fun p hp => ?wide,
      fun off size v hlow hhigh => ⟨readPf (readReg_window hlow hhigh size), fun hfree hsize => ?winWrite, fun hbusy => ?winBusy⟩,
      fun v => ⟨?bar2, ?cond, ?time⟩, fun w => ⟨?held, fun low hlow => ?completed, fun off hoff => ?readOnly,
        fun off hlow hhigh haligned => ⟨fun hbusy => ?keyBusy, fun hfree => ?key⟩⟩⟩
    case word =>
      simp only [List.mem_cons, List.not_mem_nil, or_false] at hp
      rcases hp with rfl | rfl | rfl | rfl | rfl | rfl | rfl
      all_goals
        dsimp only
        exact readPf (readReg_global (by decide) (by decide) (by decide) rfl)
    case cellWord =>
      simp only [List.mem_cons, List.not_mem_nil, or_false] at hp
      rcases hp with rfl | rfl | rfl | rfl | rfl | rfl | rfl | rfl
      all_goals
        dsimp only
        exact readPf (readReg_cell c.isLt (by decide) (by decide) (by decide) rfl)
    case number =>
      exact readPf (readReg_cell64 c.isLt (by decide) (by decide) rfl)
    case wide =>
      simp only [List.mem_cons, List.not_mem_nil, or_false] at hp
      rcases hp with rfl | rfl | rfl | rfl
      all_goals
        dsimp only
        refine ⟨readPf (readReg_of_wide (.inr (by decide)) (by decide)), readPf ?_, fun w hw => readPf ?_⟩
        · exact readReg_low (by decide) (by decide) (by decide)
        · exact readReg_high (by decide) (by decide) (by decide) hw
    case winWrite => exact writePf ((writeReg_window hlow hhigh size v).trans (writeLoadWindow_of_free hfree hsize hlow))
    case winBusy =>
      exact registerWrite_answers hup (hfn.symm ▸ (writeReg_window hlow hhigh size v).trans (if_pos hbusy)) fun s' hs' =>
        (u.discard_reports _).trans hs'.reports
    case bar2 => exact writePf (writeReg_of_wide (.inr (by decide)) (by decide) v)
    case cond => exact writePf (writeReg_of_wide (.inr (by decide)) (by decide) v)
    case time => exact writePf (writeReg_of_wide (.inr (by decide)) (by decide) v)
    case held => exact writePf ((writeReg_of_word (.inr (by decide)) (by decide) w).trans (writeWord_of_wide (b := 0x60) (by decide) w))
    case completed =>
      exact writePf ((writeReg_of_word (.inr (by decide)) (by decide) w).trans
        ((writeWord_of_wide (b := 0x60) (by decide) w).trans (writeHalf_of_held hlow w)))
    case readOnly =>
      simp only [List.mem_cons, List.not_mem_nil, or_false] at hoff
      rcases hoff with rfl | rfl | rfl | rfl | rfl | rfl | rfl | rfl
      all_goals exact writePf (writeReg_global (by decide) (by decide) (by decide) w)
    case keyBusy =>
      exact registerWrite_answers hup (hfn.symm ▸ (writeReg_key hlow hhigh haligned w).trans (if_pos hbusy)) fun s' hs' =>
        (u.discard_reports _).trans hs'.reports
    case key => exact writePf ((writeReg_key hlow hhigh haligned w).trans (if_neg (Bool.eq_false_iff.mp hfree)))
  case head =>
    have hoff : ring + 0x100 + 0x20 * c.val + 0x10 = ringBase fn + (0x100 + 0x20 * c.val + 0x10) := by omega
    rw [hoff]
    exact read (readReg_ring (by omega) (by omega) (ringReg_head c.isLt))
  case cqHead => exact write ((writeReg_ring (by decide) rfl w).trans (writeRing_cqHead hflr w))
  case cqBase => exact write ((writeReg_ring (by decide) rfl w).trans (writeRing_cqBase hflr w hoff))
  case base =>
    have hbase : ring + 0x100 + 0x20 * c.val + 0x04 = ringBase fn + (0x100 + 0x20 * c.val + 0x04) := by omega
    rw [hbase]
    exact write ((writeReg_ring (by omega) (by omega) w).trans (writeRing_base hflr w c.isLt hoff))
  case bad =>
    intro noted
    refine ⟨fun hnone => ⟨?_, ?_⟩, fun b hb hrecent => ⟨?_, ?_⟩⟩
    · exact registerWrite_answers hup (writeReg_of_bad hout hword hwide v) fun s' hs' => (badSize_reports hnone).trans hs'.reports
    · exact registerRead_answers hup (readReg_of_bad hout hword hwide) fun s' hs' =>
        ((badSize_reports hnone).trans (State.emit_reports (.refl _) _)).trans hs'.reports
    · exact write ((writeReg_of_bad hout hword hwide v).trans (badSize_of_recent hb hrecent))
    · exact read ((readReg_of_bad hout hword hwide).trans (congrArg (Prod.mk 0) (badSize_of_recent hb hrecent)))

end Sys2Proof.Machine

/-! ## Requests of SPDM on their connections (R382, R383, R392 to R394) -/

namespace Sys2Proof.Machine

/-! ### Connections -/

theorem spdmUp_path {s : State} {path : Nat} (h : s.spdmUp path = true) : path ≤ 3 := by
  by_contra hgt
  rw [State.spdmUp, if_neg (by simp only [Bool.or_eq_true, decide_eq_true_eq]; omega), if_neg (by omega),
    decide_eq_false (by omega)] at h
  cases h

theorem State.path_of_spdmOf {s : State} {key : Nat} {x : Spdm} (h : s.spdmOf key = some x) : x.path = key :=
  by
  have hp := List.find?_some h
  exact of_decide_eq_true hp

/-- The connection that takes a key's place is the key's connection. -/
theorem State.spdmOf_setSpdm {s : State} {key : Nat} {x y : Spdm} (h : s.spdmOf key = some x) (hy : y.path = key) :
    (s.setSpdm y).spdmOf key = some y := by
  have hsame : (fun z : Spdm => Decidable.decide (z.path = key)) ∘ (fun z => if z.path = y.path then y else z) =
      fun z => Decidable.decide (z.path = key) := by
    funext z
    refine decide_eq_decide.mpr ?_
    dsimp only
    split
    next hz => exact iff_of_true hy (hz.trans hy)
    next => rfl
  refine List.find?_map.trans ?_
  rw [hsame]
  exact (congrArg (Option.map _) h).trans (congrArg some (if_pos ((State.path_of_spdmOf h).trans hy.symm)))

section
variable {s : State} {path phase : Nat} {cell : Fin 8} {f : Nat → Spdm → State → State} {x : Spdm}

theorem State.onSpdm_of_keyless (hup : s.spdmUp path = true) (hkey : (s.cell cell).keyOk = false) :
    s.onSpdm path cell phase f = s.spdmError path 0x05 :=
  (if_neg (by rw [hup]; decide)).trans (if_pos (by rw [hkey]; decide))

theorem State.onSpdm_of_keyed (hup : s.spdmUp path = true) (hkey : (s.cell cell).keyOk = true) :
    s.onSpdm path cell phase f = match s.spdmOf (8 * cell.val + path) with
      | none => s.spdmError path seUnexpected
      | some x => if x.phase < phase then s.spdmError path seUnexpected else f (8 * cell.val + path) x s :=
  (if_neg (by rw [hup]; decide)).trans (if_neg (by rw [hkey]; decide))

theorem State.onSpdm_of_closed (hup : s.spdmUp path = true) (hkey : (s.cell cell).keyOk = true)
    (hx : s.spdmOf (8 * cell.val + path) = none) : s.onSpdm path cell phase f = s.spdmError path 0x04 := by
  rw [State.onSpdm_of_keyed hup hkey, hx]
  rfl

theorem State.onSpdm_of_early (hup : s.spdmUp path = true) (hkey : (s.cell cell).keyOk = true)
    (hx : s.spdmOf (8 * cell.val + path) = some x) (hphase : x.phase < phase) :
    s.onSpdm path cell phase f = s.spdmError path 0x04 := by
  rw [State.onSpdm_of_keyed hup hkey, hx]
  exact if_pos hphase

theorem State.onSpdm_of_open (hup : s.spdmUp path = true) (hkey : (s.cell cell).keyOk = true)
    (hx : s.spdmOf (8 * cell.val + path) = some x) (hphase : phase ≤ x.phase) :
    s.onSpdm path cell phase f = f (8 * cell.val + path) x s := by
  rw [State.onSpdm_of_keyed hup hkey, hx]
  exact if_neg (Nat.not_lt.mpr hphase)

theorem State.onKorif_of_elsewhere (hup : s.spdmUp path = true) (hkey : (s.cell cell).keyOk = true)
    (hx : s.spdmOf (8 * cell.val + path) = some x) (hphase : 3 ≤ x.phase) (hpath : path ≠ 3) :
    s.onKorif path cell f = s.spdmError path 0x07 :=
  (State.onSpdm_of_open hup hkey hx hphase).trans (if_pos hpath)

theorem State.onKorif_of_korif (hup : s.spdmUp path = true) (hkey : (s.cell cell).keyOk = true)
    (hx : s.spdmOf (8 * cell.val + path) = some x) (hphase : 3 ≤ x.phase) (hpath : path = 3) :
    s.onKorif path cell f = f (8 * cell.val + path) x s :=
  (State.onSpdm_of_open hup hkey hx hphase).trans (if_neg (not_not_intro hpath))

theorem State.inSession_of_session (hup : s.spdmUp path = true) (hkey : (s.cell cell).keyOk = true)
    (hx : s.spdmOf (8 * cell.val + path) = some x) (hphase : 3 ≤ x.phase) (hpath : path = 3) (hin : x.session = true) :
    s.inSession path cell f = f (8 * cell.val + path) x s :=
  (State.onKorif_of_korif hup hkey hx hphase hpath).trans (if_pos hin)

theorem State.inSession_of_none (hup : s.spdmUp path = true) (hkey : (s.cell cell).keyOk = true)
    (hx : s.spdmOf (8 * cell.val + path) = some x) (hphase : 3 ≤ x.phase) (hpath : path = 3) (hout : x.session = false) :
    s.inSession path cell f = s.spdmError path 0x04 :=
  (State.onKorif_of_korif hup hkey hx hphase hpath).trans (if_neg (Bool.eq_false_iff.mp hout))

end

/-! ### Responses -/

/-- What leaves is one response, from `w`. -/
def SpdmSent (path : Nat) (w : State) (code : Nat) (l : List Nat) (s' : State) : Prop :=
  s'.silent = (w.emit (.spdm path code l)).silent

/-- The response of connection `x` in `w` leaves, or waits for CHUNK_GET where it is too long for Korif (R392). -/
def SpdmReplied (path : Nat) (w : State) (x : Spdm) (code : Nat) (l : List Byte) (s' : State) : Prop :=
  (path ≠ 3 ∨ l.length ≤ 236 → SpdmSent path w code (l.map BitVec.toNat) s') ∧
  (path = 3 → 236 < l.length → SpdmSent path (w.setSpdm { x with reply := l }) 0x7F [0x0F] s')

section
variable {w : State} {cell path code : Nat} {l : List Byte} {x : Spdm}

theorem State.spdmReply_of_fits (hpath : path ≤ 3) (h : path ≠ 3 ∨ l.length ≤ 236) :
    w.spdmReply (8 * cell + path) code l = w.emit (.spdm path code (l.map BitVec.toNat)) := by
  have hmod : (8 * cell + path) % 8 = path := by omega
  unfold State.spdmReply
  rw [hmod, if_neg (by unfold transferSize; simp only [Bool.and_eq_true, decide_eq_true_eq]; omega)]

theorem State.spdmReply_of_long (hlen : 236 < l.length) (hx : w.spdmOf (8 * cell + 3) = some x) :
    w.spdmReply (8 * cell + 3) code l = (w.setSpdm { x with reply := l }).emit (.spdm 3 0x7F [0x0F]) := by
  unfold State.spdmReply
  rw [if_pos (by unfold transferSize; simp only [Bool.and_eq_true, decide_eq_true_eq]; omega), hx]
  rfl

theorem EndsAs.spdmReplied {s' : State} (h : EndsAs (w.spdmReply (8 * cell + path) code l) s') (hpath : path ≤ 3)
    (hx : w.spdmOf (8 * cell + path) = some x) : SpdmReplied path w x code l s' := by
  refine ⟨fun hfits => h.silent.trans (congrArg State.silent (State.spdmReply_of_fits hpath hfits)), ?_⟩
  rintro rfl hlong
  exact h.silent.trans (congrArg State.silent (State.spdmReply_of_long hlong hx))

end

/-! ### Requests -/

/-- The requests that bring a connection to its last phase. -/
def spdmSetup (t path : Nat) (cell : Fin 8) (msg : List Byte) : List Instr :=
  [.getCapabilities t path cell msg, .negotiateAlgorithms t path cell msg]

/-- What a session alone carries, past the key exchange that opens it. -/
def sessionRequests (t path : Nat) (cell : Fin 8) (msg : List Byte) (ok : Bool) (id : BitVec 64) : List Instr :=
  [.finish t path cell msg ok id, .getEncapsulatedRequest t path cell msg, .deliverEncapsulatedResponse t path cell msg,
    .endSession t path cell msg]

/-- The requests of a connection in its last phase. -/
def spdmRequests (t path : Nat) (cell : Fin 8) (msg : List Byte) (ok : Bool) (id : BitVec 64) : List Instr :=
  [.getDigests t path cell msg, .getCertificate t path cell msg, .challenge t path cell msg, .getMeasurements t path cell msg,
    .keyExchange t path cell msg, .finish t path cell msg ok id, .getEncapsulatedRequest t path cell msg,
    .deliverEncapsulatedResponse t path cell msg, .endSession t path cell msg, .chunkSend t path cell msg, .chunkGet t path cell msg,
    .setCertificate t path cell msg id]

section
variable {t path : Nat} {cell : Fin 8} {msg : List Byte} {ok : Bool} {id : BitVec 64} {c : Instr}

theorem exec_sessionRequest (h : c ∈ sessionRequests t path cell msg ok id) (s : State) :
    ∃ f, exec c s = .next (s.run t (fun s => s.inSession path cell f)) := by
  simp only [sessionRequests, List.mem_cons, List.not_mem_nil, or_false] at h
  rcases h with rfl | rfl | rfl | rfl <;> exact ⟨_, rfl⟩

/-- Only Korif carries a key exchange and what a session carries (Table 16-5). -/
theorem exec_korifRequest (h : c ∈ .keyExchange t path cell msg :: sessionRequests t path cell msg ok id) (s : State) :
    ∃ f, exec c s = .next (s.run t (fun s => s.onKorif path cell f)) := by
  rcases List.mem_cons.mp h with rfl | h
  · exact ⟨_, rfl⟩
  · obtain ⟨f, hf⟩ := exec_sessionRequest h s
    exact ⟨_, hf⟩

theorem exec_spdmRequest (h : c ∈ spdmRequests t path cell msg ok id) (s : State) :
    ∃ f, exec c s = .next (s.run t (fun s => s.onSpdm path cell 3 f)) := by
  simp only [spdmRequests, List.mem_cons, List.not_mem_nil, or_false] at h
  rcases h with rfl | rfl | rfl | rfl | rfl | rfl | rfl | rfl | rfl | rfl | rfl | rfl <;> exact ⟨_, rfl⟩

theorem exec_spdm (h : c ∈ spdmSetup t path cell msg ++ spdmRequests t path cell msg ok id) (s : State) :
    ∃ phase f, exec c s = .next (s.run t (fun s => s.onSpdm path cell phase f)) := by
  rcases List.mem_append.mp h with h | h
  · simp only [spdmSetup, List.mem_cons, List.not_mem_nil, or_false] at h
    rcases h with rfl | rfl <;> exact ⟨_, _, rfl⟩
  · exact ⟨3, exec_spdmRequest h s⟩

end

/-- A Manager's chain authenticates it where no owner key may anchor it, or the one that does is enrolled (R393). -/
theorem anchored_iff (s : State) (ok : Bool) (id : BitVec 64) :
    s.anchored ok id = true ↔ ok = true ∧ (s.tableKeys = [] ∨ ∃ k ∈ s.tableKeys, k.keyId = id) := by
  simp only [State.anchored, Bool.and_eq_true, Bool.or_eq_true, List.isEmpty_iff, List.any_eq_true, decide_eq_true_eq]

theorem measurement_zero (s : State) : s.measurement 0 = none := rfl

theorem measurement_all (s : State) : s.measurement 0xFF = none := rfl

theorem measureBlock_of_some {s : State} {i : Nat} {l : List Byte} (h : s.measurement i = some l) :
    s.measureBlock i = bytesOf 1 i ++ bytesOf 2 l.length ++ l := by rw [State.measureBlock, h]

/-- The parts of a long request with the next one, whose header is 16 bytes in the first and 12 in the others (Table 16-5). -/
def chunksWith (x : Spdm) (msg : List Byte) : List Byte :=
  let first := msgByte msg 4 = 0 && msgByte msg 5 = 0
  (if first then [] else x.chunks) ++ msg.drop (if first then 16 else 12)

theorem chunksWith_first {x : Spdm} {msg : List Byte} (h : msgByte msg 4 = 0 ∧ msgByte msg 5 = 0) : chunksWith x msg = msg.drop 16 := by
  rw [chunksWith, if_pos (by simpa using h), if_pos (by simpa using h), List.nil_append]

theorem chunksWith_next {x : Spdm} {msg : List Byte} (h : ¬(msgByte msg 4 = 0 ∧ msgByte msg 5 = 0)) :
    chunksWith x msg = x.chunks ++ msg.drop 12 := by
  rw [chunksWith, if_neg (by simpa using h), if_neg (by simpa using h)]

theorem execChunkSend_eq (t path : Nat) (cell : Fin 8) (msg : List Byte) (s : State) :
    execChunkSend t path cell msg s = .next (s.run t (fun s => s.onSpdm path cell 3 (fun key x s =>
      (s.setSpdm { x with chunks := if msgByte msg 2 % 2 = 1 then [] else chunksWith x msg }).spdmReply key 0x05
        (if msgByte msg 2 % 2 = 1 then opaqueReply 0x05 (chunksWith x msg) else [])))) := rfl

/-! ### O55 -/

/-- Settles O55: a request reaches its connection's effect through the tests of identity, connection, phase, path and session, each of which
answers its own error; the effect is a response from the state with the connection in its place. -/
theorem spdmAnswersOnItsConnections : Obligations.SpdmAnswersOnItsConnections := by
  intro t path cell msg s u key sent fails replies turns others hup
  have hpath : path ≤ 3 := spdmUp_path hup
  have failed {c : Instr} {code : Nat} {g : State → State} (he : exec c s = .next (s.run t g)) (hg : g u = u.spdmError path code) :
      Answers c s (fails code) := Answers.of_run he hg fun _ hs' => hs'.silent
  refine ⟨fun hkey => ⟨?keyless, fun ok id c hc => ?keylessRequest⟩, fun hkey => ?_⟩
  case keyless =>
    exact Answers.of_run rfl ((if_neg (by rw [hup]; decide)).trans (if_pos (by rw [hkey]; decide))) fun _ hs' => hs'.silent
  case keylessRequest =>
    obtain ⟨phase, f, he⟩ := exec_spdm (ok := ok) (id := id) hc s
    exact failed he (State.onSpdm_of_keyless hup hkey)
  have hopen : u.openSpdm path cell = _ := (if_neg (by rw [hup]; decide)).trans (if_neg (by rw [hkey]; decide))
  intro fresh
  refine ⟨fun hnone hlen => ?opens, fun hnone hlen => ?full, fun hnone ok id c hc => ?closed, fun x hx => ?_⟩
  case opens =>
    have he := hopen.trans ((if_neg (by rw [hnone]; decide)).trans (if_neg (Nat.not_le.mpr hlen)))
    exact Answers.of_run rfl (he.trans (State.spdmReply_of_fits hpath (.inr (by decide)))) fun _ hs' => hs'.silent
  case full =>
    have he := hopen.trans ((if_neg (by rw [hnone]; decide)).trans (if_pos hlen))
    exact Answers.of_run rfl he fun _ hs' => hs'.silent
  case closed =>
    obtain ⟨phase, f, he⟩ := exec_spdm (ok := ok) (id := id) hc s
    exact failed he (State.onSpdm_of_closed hup hkey hnone)
  have hxp : x.path = key := State.path_of_spdmOf hx
  have taken {phase : Nat} {f : Nat → Spdm → State → State} {w : State} (hphase : phase ≤ x.phase) (hf : f key x u = w) :
      u.onSpdm path cell phase f = w := (State.onSpdm_of_open hup hkey hx hphase).trans hf
  have replied {c : Instr} {code : Nat} {l : List Byte} {g : State → State} (he : exec c s = .next (s.run t g))
      (hg : g u = u.spdmReply key code l) : Answers c s (replies u x code l) :=
    Answers.of_run he hg fun _ hs' => hs'.spdmReplied hpath hx
  have turned {c : Instr} {code : Nat} {l : List Byte} {y : Spdm} {g : State → State} (he : exec c s = .next (s.run t g)) (hy : y.path = key)
      (hg : g u = (u.setSpdm y).spdmReply key code l) : Answers c s (turns y code l) :=
    Answers.of_run he hg fun _ hs' => hs'.spdmReplied hpath (State.spdmOf_setSpdm hx hy)
  refine ⟨?reopens, fun h1 => turned rfl hxp (taken h1 rfl), fun h2 => failed rfl (State.onSpdm_of_early hup hkey hx h2),
    fun h2 => turned rfl hxp (taken h2 rfl), fun h3 ok id c hc => ?early, fun h3 => ?_⟩
  case reopens =>
    have he := hopen.trans (if_pos (by rw [hx]; rfl))
    exact Answers.of_run rfl he fun _ hs' => hs'.spdmReplied hpath (State.spdmOf_setSpdm hx rfl)
  case early =>
    obtain ⟨f, he⟩ := exec_spdmRequest (ok := ok) (id := id) hc s
    exact failed he (State.onSpdm_of_early hup hkey hx h3)
  refine ⟨replied rfl (taken h3 rfl), fun hnone => ?noChain, fun chain hchain => ?chain, replied rfl (taken h3 rfl), fun hop => ?count,
    fun hop => ?every, fun l hl => ?one, fun h0 hall hnone => ?noIndex,
    fun id => ⟨fun hp => failed rfl (taken h3 (if_pos hp)), fun hp hno => ?noAnchor, fun hp hk => ?stored⟩,
    fun hp ok id c hc => ?notKorif, fun hp => ⟨?exchange, fun hout ok id c hc => ?noSession, fun hin => ?session⟩, ?chunk,
    fun hnone => failed rfl (taken h3 (if_pos (by rw [hnone]; rfl))), fun hsome => ?rest⟩
  case noChain => exact failed rfl (taken h3 (by dsimp only; rw [hnone]; rfl))
  case chain => exact replied rfl (taken h3 (by dsimp only; rw [hchain]))
  case count => exact replied rfl (taken h3 (if_pos hop))
  case every => exact replied rfl (taken h3 ((if_neg (by rw [hop]; decide)).trans (if_pos hop)))
  case one =>
    have h0 : msgByte msg 3 ≠ 0 := fun h => by rw [h, measurement_zero] at hl; cases hl
    have hall : msgByte msg 3 ≠ 0xFF := fun h => by rw [h, measurement_all] at hl; cases hl
    refine replied rfl (taken h3 ((if_neg h0).trans ((if_neg hall).trans ((if_neg (by rw [hl]; exact Bool.noConfusion)).trans ?_))))
    rw [measureBlock_of_some hl]
  case noIndex => exact failed rfl (taken h3 ((if_neg h0).trans ((if_neg hall).trans (if_pos (by rw [hnone]; rfl)))))
  case noAnchor =>
    refine failed rfl (taken h3 ((if_neg (not_not_intro hp)).trans (if_pos ?_)))
    rw [Bool.not_eq_true', List.any_eq_false]
    exact fun k hk => by simpa using hno k hk
  case stored =>
    have hany : (!u.tableKeys.any (fun k => k.keyId = id)) ≠ true := by simpa using hk
    have he := State.spdmReply_of_fits (w := u.storeLater (.chain id msg)) (cell := cell) (code := 0x6E) (l := []) hpath (.inr (by decide))
    exact Answers.of_run rfl (taken h3 ((if_neg (not_not_intro hp)).trans ((if_neg hany).trans he))) fun _ hs' => hs'.silent
  case notKorif =>
    obtain ⟨f, he⟩ := exec_korifRequest (ok := ok) (id := id) hc s
    exact failed he (State.onKorif_of_elsewhere hup hkey hx h3 hp)
  case exchange => exact turned rfl hxp (State.onKorif_of_korif hup hkey hx h3 hp)
  case noSession =>
    obtain ⟨f, he⟩ := exec_sessionRequest (ok := ok) (id := id) hc s
    exact failed he (State.inSession_of_none hup hkey hx h3 hp hout)
  case session =>
    have within {f : Nat → Spdm → State → State} : u.inSession path cell f = f key x u :=
      State.inSession_of_session hup hkey hx h3 hp hin
    refine ⟨fun ok id => ⟨fun h => ?_, fun h => ?_⟩, replied rfl within, replied rfl within, ?_⟩
    · exact turned rfl hxp (within.trans (if_pos ((anchored_iff u ok id).mpr h)))
    · exact Answers.of_run rfl (within.trans (if_neg (mt (anchored_iff u ok id).mp h))) fun _ hs' => hs'.silent
    · have he : (u.spdmReply key 0x6C []).endSpdm key = (u.emit (.spdm path 0x6C [])).endSpdm key :=
        congrArg (State.endSpdm · key) (State.spdmReply_of_fits (l := []) hpath (.inr (by decide)))
      exact Answers.of_run rfl (within.trans he) fun _ hs' => hs'.silent
  case chunk =>
    intro first l hfirst hnext
    have hl : l = chunksWith x msg := by
      by_cases h : first
      · exact (hfirst h).trans (chunksWith_first h).symm
      · exact (hnext h).trans (chunksWith_next h).symm
    refine hl ▸ ⟨fun hlast => turned (execChunkSend_eq ..) hxp (taken h3 ?_), fun hlast => turned (execChunkSend_eq ..) hxp (taken h3 ?_)⟩
    · rw [if_pos hlast, if_pos hlast]
    · rw [if_neg (by rw [hlast]; decide), if_neg (by rw [hlast]; decide)]
  case rest =>
    have hne : ¬ x.reply.isEmpty = true := fun h => hsome (List.isEmpty_iff.mp h)
    have he := State.spdmReply_of_fits (w := u.setSpdm { x with reply := x.reply.drop 224 }) (cell := cell) (code := 0x06)
      (l := x.reply.take 224) hpath (.inr ((List.length_take_le ..).trans (by decide)))
    exact Answers.of_run rfl (taken h3 ((if_neg hne).trans he)) fun _ hs' => hs'.silent

end Sys2Proof.Machine

/-! ## What a boundary leaves of firmware and flash (R43, R317, R379) -/

namespace Sys2Proof.Machine

/-- The firmware registers, and the flash but for the stores that wait for it. -/
def State.board (s : State) : Firmware × Flash := (s.fw, { s.flash with queue := [] })

theorem board_fw {s s' : State} (h : s'.board = s.board) : s'.fw = s.fw := congrArg Prod.fst h

theorem board_flash {s s' : State} (h : s'.board = s.board) : s'.flash = { s.flash with queue := s'.flash.queue } :=
  congrArg (fun p : Firmware × Flash => { p.2 with queue := s'.flash.queue }) h

theorem Halts.board {s s' : State} (h : Halts s s') : s'.board = s.board := by
  rw [State.board, h.fw, h.flash]
  rfl

theorem Reports.board {s s' : State} (h : Reports s s') : s'.board = s.board := h.halts.board

section
variable (s : State)

theorem State.err_board (c : Nat) (e : Ev) : (s.err c e).board = s.board := (s.err_halts c e).board

theorem State.errLocal_board (c : Nat) (e : Ev) : (s.errLocal c e).board = s.board := (State.errLocal_reports (.refl s) c e).board

theorem State.onCell_board (c : Nat) (f : Cell → Cell) : (s.onCell c f).board = s.board := rfl

theorem State.raiseEvent_board (n : Nat) (who : BitVec 8) : (s.raiseEvent n who).board = s.board :=
  ite_same State.board (State.msix_reports (.refl s) ..).board (ite_same State.board rfl (ite_same State.board (ite_same State.board rfl rfl) rfl))

theorem State.ring_board (n : Nat) (ab : Bool) : (s.ring n ab).board = s.board :=
  ite_same State.board (State.mail_reports (.refl _) ..).board (ite_same State.board rfl (State.raiseEvent_board ..))

theorem State.complete_board (c : Nat) (src : Source) (e : Entry) (d : Done) : (s.complete c src e d).board = s.board := by
  unfold State.complete
  split
  · exact (s.queueRec_halts ..).board
  · exact (State.mail_reports (.refl s) ..).board
  · exact ite_same State.board rfl (State.ring_board ..)

theorem State.storeLater_board (x : Store) : (s.storeLater x).board = s.board :=
  ite_same State.board (foldl_same State.board _ _ fun y _ => y.errLocal_board ..) rfl

theorem State.fenceTold_board (c n faults : Nat) (ts : List Nat) (perm : Bool) : (s.fenceTold c n faults ts perm).board = s.board := by
  have told (x : State) := foldl_same State.board ts x fun y t => ite_same State.board (p := 2 < (y.cell c).outCores t)
    (y.err_board c { cls := clsFENCE, sev := 3, unit := 6, tenant := t, core := n }) rfl
  have all := (told _).trans (s.err_board c { cls := clsFENCE, sev := if perm then 3 else 2, unit := 1, core := n, detail := faults })
  exact ite_same State.board ((State.storeLater_board ..).trans all) all

theorem State.fence_board (c n : Nat) : (s.fence c n).board = s.board := by
  by_cases h : ((s.cell c).core n).fenced = true
  · rw [show s.fence c n = s from if_pos h]
  · obtain ⟨perm, faults, he⟩ := fence_of_unfenced h
    rw [he, State.fenceTold_board]
    rfl

theorem State.fillTile_board (c tenant : Nat) (ident : BitVec 24) (i : Nat) (p : Payload) (poison : Bool) :
    (s.fillTile c tenant ident i p poison).board = s.board := (s.tierPut_halts ..).board

theorem State.zeroTensor_board (c tenant : Nat) (ident : BitVec 24) : (s.zeroTensor c tenant ident).board = s.board := by
  unfold State.zeroTensor
  split
  · rfl
  · exact foldl_same State.board _ s fun x _ => x.fillTile_board ..

theorem State.copyTensor_board (c tenant src : Nat) (dst : BitVec 24) : (s.copyTensor c tenant src dst).board = s.board := by
  unfold State.copyTensor
  split
  · rfl
  · exact foldl_same State.board _ s fun x _ => x.fillTile_board ..

theorem State.rebuildMaster_board (c : Nat) (b : Binding) : (s.rebuildMaster c b).board = s.board := by
  unfold State.rebuildMaster
  dsimp only
  split
  · rfl
  · exact foldl_same State.board _ s fun x _ => x.fillTile_board ..

theorem State.repairNow_board (c : Nat) (e : Entry) : (s.repairNow c e).board = s.board := by
  have copies (b : Binding) := (State.copyTensor_board (s.copyTensor c (e.fld 1 1) (e.fld 8 3) b.master) c (e.fld 1 1) (e.fld 0xC 3) b.m1).trans
    (s.copyTensor_board ..)
  unfold State.repairNow
  dsimp only
  split
  · rfl
  next b _ =>
    refine (State.onCell_board _ c _).trans ?_
    split
    · exact (State.copyTensor_board ..).trans (ite_same State.board (copies b) ((State.copyTensor_board ..).trans (copies b)))
    · exact (foldl_same State.board _ _ fun x _ => x.zeroTensor_board ..).trans (s.rebuildMaster_board ..)

theorem State.udBoundary_board (c : Nat) : (s.udBoundary c).board = s.board := foldl_same State.board _ s fun x r => x.repairNow_board c r.2

theorem State.pokeWords_board (c tenant ident e : Nat) (ws : List Nat) : (s.pokeWords c tenant ident e ws).1.board = s.board :=
  (s.pokeFrom_halts ..).board

theorem State.takeWrites_board (c : Nat) : (s.takeWrites c).board = s.board :=
  (foldl_same State.board _ _ fun x _ => (State.complete_board ..).trans (x.pokeWords_board ..)).trans rfl

theorem State.takeLevel_board : s.takeLevel.board = s.board := by
  unfold State.takeLevel
  split <;> rfl

theorem State.coordinate_board : s.coordinate.board = s.board := ite_same State.board rfl (foldl_same State.board _ s fun x _ => x.onCell_board ..)

theorem State.returnCores_board (c : Nat) : (s.returnCores c).board = s.board := foldl_same State.board _ s fun x _ => x.onCell_board ..

theorem State.toTargets_board (c : Nat) : (s.toTargets c).board = s.board := by
  unfold State.toTargets
  dsimp only
  refine (State.coordinate_board _).trans ?_
  refine (State.onCell_board _ c _).trans ?_
  refine (State.takeWrites_board _ c).trans ?_
  refine (State.udBoundary_board _ c).trans ?_
  refine (State.returnCores_board _ c).trans ?_
  exact (foldl_same State.board _ _ fun x _ => x.fence_board ..).trans (s.onCell_board ..)

/-- A cell's boundary leaves the firmware, and the flash but for the fences that it stores. -/
theorem State.boundary_board (c : Nat) : (s.boundary c).board = s.board := by
  rw [s.boundary_eq c, State.takeLevel_board, State.onCell_board, State.toTargets_board]

theorem State.boundarySoon_board (c : Nat) : (s.boundarySoon c).board = s.board := ite_same State.board rfl (s.boundary_board c)

end

end Sys2Proof.Machine

/-! ## Firmware in stages (R365, R378 to R380, R400, R406) -/

namespace Sys2Proof.Machine

section
variable (s : State)

/-- Cell `c` has a switch to make, at once where no step runs (R379). -/
def State.fwCell (c : Nat) : State := (s.onCell c (fun k => { k with fwDue := true })).boundarySoon c

/-- The cells of `l` have a switch to make. -/
def State.fwCellsOf (l : List Nat) : State := l.foldl State.fwCell s

theorem State.boundarySoon_running (c d : Nat) : ((s.boundarySoon c).cell d).step.running = (s.cell d).step.running := by
  unfold State.boundarySoon
  split
  · rfl
  · exact ((s.boundary_steady c).cell d).running

theorem State.fwCell_running (c d : Nat) : ((s.fwCell c).cell d).step.running = (s.cell d).step.running := by
  rw [State.fwCell, State.boundarySoon_running, State.cell_onCell]
  split
  · subst_vars
    rfl
  · rfl

theorem State.fwCell_due {c : Nat} (hrun : ((s.fwCell c).cell c).step.running = true) : ((s.fwCell c).cell c).fwDue = true := by
  rw [State.fwCell, State.boundarySoon_running] at hrun
  rw [State.fwCell, boundarySoon_of_running hrun, State.cell_onCell_same]

theorem State.fwCell_keepsDue {c d : Nat} (hne : d ≠ c) : ((s.fwCell c).cell d).fwDue = (s.cell d).fwDue := by
  rw [State.fwCell, State.boundarySoon_field _ c d Cell.fwDue (fun _ => rfl) (fun _ _ h => absurd h hne), State.cell_onCell, if_neg hne]

/-- A running cell of the list has a switch to make at its next boundary. -/
theorem State.fwCellsOf_due {l : List Nat} {m : Nat} (hm : m ∈ l) (hrun : (s.cell m).step.running = true) :
    ((s.fwCellsOf l).cell m).fwDue = true := by
  have hstill : ((s.fwCellsOf l).cell m).step.running = true :=
    List.foldlRecOn (motive := fun x : State => (x.cell m).step.running = true) l State.fwCell hrun fun x hx c _ => (x.fwCell_running c m).trans hx
  refine foldl_establishes (P := fun m x => (x.cell m).step.running = true → (x.cell m).fwDue = true) (f := State.fwCell)
    (fun x c => x.fwCell_due) (fun x c d hd hrun => ?_) hm s hstill
  by_cases hne : d = c
  · subst hne
    exact x.fwCell_due hrun
  · rw [x.fwCell_keepsDue hne]
    exact hd ((x.fwCell_running c d).symm.trans hrun)

theorem State.fwCellsOf_board (l : List Nat) : (s.fwCellsOf l).board = s.board :=
  foldl_same State.board l s fun x c => (State.boundarySoon_board _ c).trans (x.onCell_board ..)

theorem State.fwCells_board : s.fwCells.board = s.board := s.fwCellsOf_board _

theorem State.fwCells_due {m : Nat} (hm : m ∈ allCells) (hinit : (s.cell m).init = true) (hrun : (s.cell m).step.running = true) :
    (s.fwCells.cell m).fwDue = true := s.fwCellsOf_due (List.mem_filter.mpr ⟨hm, hinit⟩) hrun

end

/-- Other firmware runs: `f` stands in the registers, the flash keeps all but stores that wait, no plane changes, and a running cell has its
switch to make (R379). -/
structure Refirmed (u : State) (f : Firmware) (s' : State) : Prop where
  fw    : s'.fw = f
  flash : s'.flash = { u.flash with queue := s'.flash.queue }
  cell  : ∀ m ∈ allCells, (s'.cell m).fig.plane = (u.cell m).fig.plane ∧
    ((u.cell m).init = true → (u.cell m).step.running = true → (s'.cell m).fwDue = true)

/-- The cells are told of firmware `f`, and the command ends. -/
theorem EndsAs.refirmed {u s' : State} {f : Firmware} {code status : Nat}
    (h : EndsAs ((({ u with fw := f } : State).fwCells).fwEnd code status) s') :
    Refirmed u { f with busy := false, pldm := false, last := code, status := status } s' := by
  have hboard := State.fwCells_board { u with fw := f }
  have hfw := congrArg (fun x : Firmware => { x with busy := false, pldm := false, last := code, status := status }) (board_fw hboard)
  refine ⟨h.reports.fw.trans hfw, ?_, fun m hm => ⟨?_, fun hinit hrun => ?_⟩⟩
  · have hflash := board_flash hboard
    rw [h.reports.flash]
    exact hflash
  · rw [h.plane]
    exact (State.fwCells_planes (.refl _)).plane m
  · rw [firm_field h.firm m Cell.fwDue fun _ => rfl]
    exact State.fwCells_due { u with fw := f } hm hinit hrun

section
variable {s : State}

theorem State.fwCommand_of_busy {op : State → State} (hbusy : s.fw.busy = true) : s.fwCommand op = s.discard 0x9C := if_pos hbusy

theorem State.fwCommand_of_free {op : State → State} (hfree : s.fw.busy = false) : s.fwCommand op = op s :=
  if_neg (Bool.eq_false_iff.mp hfree)

theorem State.fwEndUp_of_fwUp {who : BitVec 8} (h : s.fwUp who = true) : s.fwEndUp who = true := by rw [State.fwEndUp, h, Bool.true_or]

/-- Firmware commands come under a live host anchor alone (R401, R406). -/
theorem anchored_of_fwEndUp {who : BitVec 8} (h : s.fwEndUp who = true) : s.boot.anchorLost = false := by
  simp only [State.fwEndUp, State.fwUp, Bool.or_eq_true, Bool.and_eq_true, decide_eq_true_eq] at h
  rcases h with ⟨hwho, hup⟩ | ⟨rfl, hup⟩
  · exact anchored_of_regUp hwho hup
  · have hctl : (s.mgmtUp && !s.boot.anchorLost) = true := hup
    simp only [Bool.and_eq_true, Bool.not_eq_true'] at hctl
    exact hctl.2

theorem State.fwWrite_of_length {ok : Bool} {l : List Byte} (h : s.fw.len = 0 ∨ 33554432 < s.fw.len) : s.fwWrite ok l = s.fwEnd 1 5 :=
  if_pos (by simpa using h)

theorem State.fwWrite_of_link {ok : Bool} {l : List Byte} (h0 : 0 < s.fw.len) (hmax : s.fw.len ≤ 33554432)
    (h : ok = false ∨ s.hostUp = false ∨ l.length ≠ s.fw.len) : s.fwWrite ok l = s.fwEnd 1 4 :=
  (if_neg (by simp only [Bool.or_eq_true, decide_eq_true_eq]; omega)).trans (if_pos (by simpa [or_assoc] using h))

theorem State.fwWrite_of_whole {ok : Bool} {l : List Byte} (h0 : 0 < s.fw.len) (hmax : s.fw.len ≤ 33554432) (hok : ok = true)
    (hup : s.hostUp = true) (hlen : l.length = s.fw.len) : s.fwWrite ok l = s.storeBundle l false :=
  (if_neg (by simp only [Bool.or_eq_true, decide_eq_true_eq]; omega)).trans (if_neg (by simp [hok, hup, hlen]))

theorem State.storeBundle_of_anchored (h : s.boot.anchorLost = false) (l : List Byte) (pldm : Bool) : s.storeBundle l pldm =
    State.queued { s with fw := { s.fw with busy := true, pldm := pldm } } (.fwBundle (1 - s.flash.active) (readBundle l)) :=
  State.storeLater_of_anchored (s := { s with fw := { s.fw with busy := true, pldm := pldm } }) h _

theorem State.fwStage_of_none (h : s.flash.bundles.get none (1 - s.flash.active) = none) : s.fwStage = s.fwEnd 2 3 := by
  unfold State.fwStage Flash.inactive
  rw [h]
  rfl

theorem State.fwStage_of_some {b : Bundle} (h : s.flash.bundles.get none (1 - s.flash.active) = some b) : s.fwStage =
    (if s.bundleStatus b = 0 then { s with fw := { s.fw with staged := some b } } else s).fwEnd 2 (s.bundleStatus b) := by
  unfold State.fwStage Flash.inactive
  rw [h]
  rfl

theorem State.bundleStatus_of_unsigned {b : Bundle} (h : (Config.bundleRead b.bytes).1 = false) : s.bundleStatus b = 1 :=
  if_pos (by rw [h]; rfl)

theorem State.bundleStatus_of_signed {b : Bundle} (h : (Config.bundleRead b.bytes).1 = true) :
    s.bundleStatus b = if b.secver < s.flash.fwFloor.toNat then 2 else 0 := if_neg (by rw [h]; decide)

theorem State.fwSwitch_of_none (h : s.fw.staged = none) : s.fwSwitch = s.fwEnd 3 3 := by
  unfold State.fwSwitch
  rw [h]
  rfl

/-- The firmware registers once the staged bundle runs. -/
def State.switchedTo (s : State) (b : Bundle) : Firmware := { s.fw with
  former := s.fw.current, current := some b, staged := none, switched := true, running := 1 - s.flash.active, switchT := s.fw.time.toNat }

/-- The firmware registers once the former bundle runs again. -/
def State.revertedFw (s : State) : Firmware := { s.fw with
  current := s.fw.former, former := none, switched := false, running := s.flash.active }

theorem State.fwSwitch_of_some {b : Bundle} (h : s.fw.staged = some b) :
    s.fwSwitch = (({ s with fw := s.switchedTo b } : State).fwCells).fwEnd 3 0 := by
  unfold State.fwSwitch
  rw [h]
  rfl

theorem State.fwCommit_of_switched {b : Bundle} (hs : s.fw.switched = true) (hb : s.fw.current = some b) :
    s.fwCommit = ({ s with fw := { s.fw with busy := true } } : State).storeLater (.fwCommit s.fw.running b.secver) := by
  unfold State.fwCommit
  rw [hs, hb]

theorem State.fwCommit_of_not (h : s.fw.switched = false ∨ s.fw.current = none) : s.fwCommit = s.fwEnd 4 3 := by
  unfold State.fwCommit
  split
  next hs hb => simp [hs, hb] at h
  next => rfl

theorem State.fwRevert_of_not (h : s.fw.switched = false) : s.fwRevert = s.fwEnd 5 3 := if_pos (by rw [h]; rfl)

theorem State.fwRevert_of_switched (h : s.fw.switched = true) :
    s.fwRevert = (({ s with fw := s.revertedFw } : State).fwCells).fwEnd 5 0 := if_neg (by rw [h]; decide)

end

section
variable {t : Nat} {s x : State} {P : State → Prop}

theorem updateComponent_answers {l : List Byte} (hup : (s.at t).mgmtUp = true) (hlost : (s.at t).boot.anchorLost = false)
    (hfree : (s.at t).fw.busy = false)
    (hx : (if l.length = 0 || 33554432 < l.length then (s.at t).fwEnd 1 5
      else if (s.at t).boot.recovery && (s.at t).bundleStatus (readBundle l) ≠ 0 then (s.at t).fwEnd 2 ((s.at t).bundleStatus (readBundle l))
      else (s.at t).storeBundle l true) = x)
    (hP : ∀ s', EndsAs x s' → P s') : Answers (.updateComponent t 0x60 l) s P :=
  .of_run rfl ((if_neg (by rw [hup, hlost, hfree]; decide)).trans hx) hP

theorem activateFirmware_answers (hrun : (s.at t).boot.running = true) (hlost : (s.at t).boot.anchorLost = false)
    (hfree : (s.at t).fw.busy = false ∨ (s.at t).fw.pldm = true) (hx : (s.at t).fwSwitch = x)
    (hP : ∀ s', EndsAs x s' → P s') : Answers (.activateFirmware t 0x60) s P := by
  refine .of_run rfl ((if_pos ?_).trans hx) hP
  rw [hrun, hlost]
  rcases hfree with h | h <;> simp [-State.at_fw, h]

end

/-- Settles O54: a free firmware command is the operation of its stage; the operations that change the running bundle tell each cell, whose
boundaries touch neither registers nor planes. -/
theorem firmwareIsUpdatedInStages : Obligations.FirmwareIsUpdatedInStages := by
  intro t who s u ended stored changed switched
  have refirmed {f : Firmware} {s' : State} (h : Refirmed u f s') : changed f s' := ⟨h.fw, h.flash, h.cell⟩
  have command {c : Instr} {op : State → State} {x : State} {P : State → Prop} (hup : u.fwUp who) (hfree : u.fw.busy = false)
      (he : exec c s = .next (s.run t (fun s => if s.fwUp who then s.fwCommand op else s))) (hx : op u = x)
      (hP : ∀ s', EndsAs x s' → P s') : Answers c s P := fwUp_answers hup he ((State.fwCommand_of_free hfree).trans hx) hP
  have ending {c : Instr} {op : State → State} {x : State} {P : State → Prop} (hup : u.fwEndUp who) (hfree : u.fw.busy = false)
      (he : exec c s = .next (s.run t (fun s => if s.fwEndUp who then s.fwCommand op else s))) (hx : op u = x)
      (hP : ∀ s', EndsAs x s' → P s') : Answers c s P := .of_run he ((if_pos hup).trans ((State.fwCommand_of_free hfree).trans hx)) hP
  have discarded {s' : State} (h : EndsAs (u.discard 0x9C) s') : Reports u s' := (u.discard_reports _).trans h.reports
  have fits {l : List Byte} (h0 : 0 < l.length) (hmax : l.length ≤ 33554432) : ¬(l.length = 0 || 33554432 < l.length) = true := by
    simp only [Bool.or_eq_true, decide_eq_true_eq]
    omega
  refine ⟨fun hup hbusy => ⟨fun ok l => ?busyWrite, fun c hc => ?busy⟩, fun hup hfree => ⟨fun ok l => ?write, fun hnone => ?noBundle,
    fun b hb => ?stage, fun hnone => ?noStaged, fun b hb => ?switch⟩, fun hup hfree => ⟨fun b hs hb => ?commit, fun hnot => ?noCommit,
    fun hnot => ?noRevert, fun hs => ?revert⟩, fun l hup hlost hfree => ⟨fun hlen => ?updateLength, fun h0 hmax => ⟨fun hok => ?update,
    fun hrec hbad => ?updateBad⟩⟩, fun hrun hlost hfree => ⟨fun hnone => ?noActivate, fun b hb => ?activate⟩⟩
  case busyWrite => exact fwUp_answers hup rfl (State.fwCommand_of_busy hbusy) fun s' hs' => discarded hs'
  case busy =>
    simp only [List.mem_cons, List.not_mem_nil, or_false] at hc
    rcases hc with rfl | rfl | rfl | rfl
    · exact fwUp_answers hup rfl (State.fwCommand_of_busy hbusy) fun s' hs' => discarded hs'
    · exact fwUp_answers hup rfl (State.fwCommand_of_busy hbusy) fun s' hs' => discarded hs'
    · exact .of_run rfl ((if_pos (State.fwEndUp_of_fwUp hup)).trans (State.fwCommand_of_busy hbusy)) fun s' hs' => discarded hs'
    · exact .of_run rfl ((if_pos (State.fwEndUp_of_fwUp hup)).trans (State.fwCommand_of_busy hbusy)) fun s' hs' => discarded hs'
  case write =>
    have hlost := anchored_of_fwEndUp (State.fwEndUp_of_fwUp hup)
    refine ⟨fun hlen => ?_, fun h0 hmax hlink => ?_, fun h0 hmax hok hhost hlen => ?_⟩
    · exact command hup hfree rfl (State.fwWrite_of_length hlen) fun s' hs' => hs'.silent
    · exact command hup hfree rfl (State.fwWrite_of_link h0 hmax hlink) fun s' hs' => hs'.silent
    · exact command hup hfree rfl ((State.fwWrite_of_whole h0 hmax hok hhost hlen).trans (State.storeBundle_of_anchored hlost ..))
        fun s' hs' => hs'.silent
  case noBundle => exact command hup hfree rfl (State.fwStage_of_none hnone) fun s' hs' => hs'.silent
  case stage =>
    have staged {st : Nat} (hst : u.bundleStatus b = st) :
        u.fwStage = (if st = 0 then { u with fw := { u.fw with staged := some b } } else u).fwEnd 2 st :=
      (State.fwStage_of_some hb).trans (by rw [hst])
    intro signed
    refine ⟨fun hno => ?_, fun hyes hbelow => ?_, fun hyes hfloor => ?_⟩
    · exact command hup hfree rfl (staged (State.bundleStatus_of_unsigned hno)) fun s' hs' => hs'.silent
    · exact command hup hfree rfl (staged ((State.bundleStatus_of_signed hyes).trans (if_pos hbelow))) fun s' hs' => hs'.silent
    · exact command hup hfree rfl (staged ((State.bundleStatus_of_signed hyes).trans (if_neg (Nat.not_lt.mpr hfloor))))
        fun s' hs' => hs'.silent
  case noStaged => exact command hup hfree rfl (State.fwSwitch_of_none hnone) fun s' hs' => hs'.silent
  case switch => exact command hup hfree rfl (State.fwSwitch_of_some hb) fun s' hs' => refirmed hs'.refirmed
  case commit =>
    exact ending hup hfree rfl ((State.fwCommit_of_switched hs hb).trans
      (State.storeLater_of_anchored (s := { u with fw := { u.fw with busy := true } }) (anchored_of_fwEndUp hup) _)) fun s' hs' => hs'.silent
  case noCommit => exact ending hup hfree rfl (State.fwCommit_of_not hnot) fun s' hs' => hs'.silent
  case noRevert => exact ending hup hfree rfl (State.fwRevert_of_not hnot) fun s' hs' => hs'.silent
  case revert => exact ending hup hfree rfl (State.fwRevert_of_switched hs) fun s' hs' => refirmed hs'.refirmed
  case updateLength => exact updateComponent_answers hup hlost hfree (if_pos (by simpa using hlen)) fun s' hs' => hs'.silent
  case update =>
    refine updateComponent_answers hup hlost hfree ((if_neg (fits h0 hmax)).trans ((if_neg ?_).trans
      (State.storeBundle_of_anchored hlost ..))) fun s' hs' => hs'.silent
    rw [Bool.and_eq_true]
    rintro ⟨hrec, hbad⟩
    rcases hok with h | h
    · exact Bool.false_ne_true (h.symm.trans hrec)
    · exact of_decide_eq_true hbad h
  case updateBad =>
    have hrefused : (u.boot.recovery && u.bundleStatus (readBundle l) ≠ 0) = true :=
      (Bool.and_eq_true ..).mpr ⟨hrec, decide_eq_true hbad⟩
    exact updateComponent_answers hup hlost hfree ((if_neg (fits h0 hmax)).trans (if_pos hrefused)) fun s' hs' => hs'.silent
  case noActivate => exact activateFirmware_answers hrun hlost hfree (State.fwSwitch_of_none hnone) fun s' hs' => hs'.silent
  case activate => exact activateFirmware_answers hrun hlost hfree (State.fwSwitch_of_some hb) fun s' hs' => refirmed hs'.refirmed

end Sys2Proof.Machine

/-! ## What a swap leaves of every cell but the figures that it exchanges (R45, R49, R51, R259) -/

namespace Sys2Proof.Machine

theorem Reports.firm {s s' : State} (h : Reports s s') : s'.firm = s.firm := h.tierMoves.firm

/-- A fold whose steps leave something of the state alone, beside what else it gathers. -/
theorem foldl_fst_same {α β γ : Type} (π : State → α) (l : List β) {f : State × γ → β → State × γ} (a : State × γ)
    (hf : ∀ x b, π (f x b).1 = π x.1) : π (l.foldl f a).1 = π a.1 :=
  List.foldlRecOn (motive := fun x : State × γ => π x.1 = π a.1) l f rfl fun x h b _ => (hf x b).trans h

section
variable (s : State)

theorem State.err_firm (c : Nat) (e : Ev) : (s.err c e).firm = s.firm := (State.err_reports (.refl s) c e).firm

/-! ### The shuffle (R259) -/

theorem State.sendTile_firm (c i : Nat) (dst : TileTo) (x : Slot) (whole : Bool) : (s.sendTile c i dst x whole).1.firm = s.firm := by
  have noted (k : Cell) (key : Nat × Nat × Nat × BitVec 24) : (if k.step.running && !k.step.sentTo.contains key then
      { k with step := { k.step with sentTo := k.step.sentTo ++ [key] } } else k).firm = k.firm := by split <;> rfl
  unfold State.sendTile
  split
  split
  next h =>
    have hsend := congrArg Prod.fst h ▸ State.send_reports (.refl s) c i _
    dsimp only
    exact (State.onCell_firm _ c fun k => noted k _).trans hsend.firm

theorem State.shuffleTile_firm (c : Nat) (ver : BitVec 16) (dst : TileTo) : (s.shuffleTile c ver dst).1.firm = s.firm := by
  unfold State.shuffleTile
  split
  · rfl
  next h => exact (State.sendTile_firm ..).trans (s.tierRead_tierMoves h).firm

theorem State.sendLayer_firm (c tenant layer : Nat) (p : PlaceRec) : (s.sendLayer c tenant layer p).firm = s.firm := by
  unfold State.sendLayer
  dsimp only
  refine ite_same State.firm rfl (ite_same State.firm (s.err_firm ..) ?_)
  have sent := fun l : List TileTo => foldl_fst_same State.firm l (s, true)
    (f := fun acc d => ((acc.1.shuffleTile c ((s.cell c).ver tenant).homeVer d).1,
      acc.2 && (acc.1.shuffleTile c ((s.cell c).ver tenant).homeVer d).2)) fun x d => x.1.shuffleTile_firm ..
  exact ite_same State.firm ((State.onCell_firm _ c fun _ => by rfl).trans (sent _)) (sent _)

theorem State.sendHomes_firm (c tenant : Nat) (layers : List Nat) (copies : List PlaceRec) :
    (s.sendHomes c tenant layers copies).firm = s.firm :=
  foldl_same State.firm _ s fun x _ => foldl_same State.firm _ x fun y _ => y.sendLayer_firm ..

theorem State.shuffle_firm (c : Nat) (g : Figure) : (s.shuffle c g).firm = s.firm := foldl_same State.firm _ s fun x _ => x.sendHomes_firm ..

/-! ### Tenants and bindings (R47, R51) -/

theorem Cell.onVer_firm (k : Cell) (t : Nat) (f : Versions → Versions) : (k.onVer t f).firm = k.firm := rfl

theorem Cell.onEntry_firm (k : Cell) (i : Nat) (f : ReqEntry → ReqEntry) : (k.onEntry i f).firm = k.firm := rfl

theorem Cell.crossTenant_firm (k : Cell) (f g : Figure) (keep carried dropped : Bool) (t : Nat) :
    (k.crossTenant f g keep carried dropped t).firm = k.firm := by
  unfold Cell.crossTenant
  extract_lets k1 k2 gen k3 ended k4
  have h1 : k1.firm = k.firm := rfl
  have h2 : k2.firm = k1.firm := by unfold k2; split <;> rfl
  have h3 : k3.firm = k2.firm := by unfold k3; split <;> rfl
  have h4 : k4.firm = k3.firm := by
    unfold k4
    split
    · exact foldl_firmCell ended fun x _ => (Cell.onVer_firm ..).trans (x.onEntry_firm ..)
    · rfl
  have h5 : k4.firm = k.firm := h4.trans (h3.trans (h2.trans h1))
  split
  · exact h5
  · exact h5

theorem State.freeSoon_firm (c : Nat) : (s.freeSoon c).firm = s.firm := ite_same State.firm rfl (s.onCell_firm c fun _ => rfl)

theorem State.markFree_firm (c d tenant : Nat) (ident : BitVec 24) :
    ((s.onCell c (fun k => k.markFree tenant ident)).freeSoon d).firm = s.firm :=
  (State.freeSoon_firm _ d).trans (s.onCell_firm c fun _ => rfl)

theorem State.dropRef_firm (c tenant : Nat) (t : Tensor) : (s.dropRef c tenant t).firm = s.firm := by
  unfold State.dropRef
  extract_lets s1 gone s2
  have h1 : s1.firm = s.firm := s.onCell_firm c (f := fun k => k.onRefs t.ident (fun l => if l.contains tenant then l.erase tenant else l.tail))
    fun _ => rfl
  have h2 : s2.firm = s.firm := ite_same State.firm ((s1.markFree_firm ..).trans h1) h1
  split
  · exact ite_same State.firm h2 ((State.markFree_firm ..).trans h2)
  · exact h2

theorem State.dropRefs_firm (c t : Nat) : (s.dropRefs c t).firm = s.firm :=
  foldl_same State.firm _ s fun x y => foldl_same State.firm _ x fun z _ => by
    split
    · exact z.dropRef_firm ..
    · rfl

theorem State.crossTenants_firm (c : Nat) (f g : Figure) : (s.crossTenants c f g).firm = s.firm :=
  (foldl_same State.firm _ _ fun x _ => x.dropRefs_firm ..).trans
    (s.onCell_firm c fun _ => foldl_firmCell _ fun x _ => x.crossTenant_firm ..)

theorem State.bindTo_firm (n : Nat) (b : BindReg) : (s.bindTo n b).firm = s.firm := s.onCell_firm _ fun _ => rfl

theorem State.rebind_firm (n : Nat) (b : BindReg) : (s.rebind n b).firm = s.firm := by
  by_cases h : (s.binding n).SamePair b
  · rw [rebind_of_samePair s h, State.bindTo_firm]
  · rw [(rebind_of_newPair s h).firm, State.bindTo_firm]
    rfl

theorem State.bindPlane_firm (c : Nat) (g : Figure) : (s.bindPlane c g).firm = s.firm := foldl_same State.firm _ s fun x _ => x.rebind_firm ..

theorem State.figEnd_firm (c : Nat) (cmd : FigCmd) (status : Nat) : (s.figEnd c cmd status).firm = s.firm :=
  (s.figEnd_reports c cmd status).firm.trans (s.onCell_firm c fun _ => rfl)

theorem State.figEndAll_firm (c code status : Nat) : (s.figEndAll c code status).firm = s.firm :=
  foldl_same State.firm _ s fun x _ => x.figEnd_firm ..

/-! ### The swap (R45) -/

theorem Cell.flip_firm {k k' : Cell} (h : k.firm = k'.firm) (g : Figure) : (k.flip g).firm = (k'.flip g).firm :=
  (congrArg (fun x : Cell => (x.flip g).firm) h :)

/-- A field of the swapped cell that shows what the flip makes of it: nothing else of the swap touches it. -/
theorem State.swapTo_field (c : Nat) (g : Figure) {γ : Type} (π : Cell → γ) (hπ : ∀ k : Cell, π k.firm = π k)
    (hdue : ∀ (k : Cell) (b : Bool), π { k with fwDue := b } = π k)
    (harm : ∀ k : Cell, π { k.clearArm with gen := { k.gen with heldQ := [] } } = π k) :
    π ((s.swapTo c g).cell c) = π ((s.cell c).flip g) := by
  have hbefore : (State.crossTenants (if g.places.isEmpty then s else s.shuffle c g) c (((s.cell c).fig.active).getD g.blank) g).firm = s.firm :=
    (State.crossTenants_firm ..).trans (ite_same State.firm rfl (s.shuffle_firm c g))
  unfold State.swapTo
  dsimp only
  rw [State.boundary_field _ c c π hπ (fun k b _ => hdue k b), firm_field (State.limitNotice_reports _ _).firm c π hπ,
    State.cell_onCell_same]
  refine (harm _).trans ?_
  rw [firm_field (State.figEndAll_firm _ c 3 stDONE) c π hπ, firm_field (State.onCell_firm _ c fun _ => by rfl) c π hπ,
    firm_field (State.bindPlane_firm _ c g) c π hπ, State.cell_onCell_same, ← hπ, ← hπ ((s.cell c).flip g)]
  exact congrArg π (Cell.flip_firm (congrFun hbefore c) g)

/-- A restarted cell that returns to its planes (R373). -/
theorem State.returnCell_field (c : Nat) {γ : Type} (π : Cell → γ) (hπ : ∀ k : Cell, π k.firm = π k)
    (hdue : ∀ (k : Cell) (b : Bool), π { k with fwDue := b } = π k) : π ((s.returnCell c).cell c) = π (s.cell c) := by
  unfold State.returnCell
  split
  · exact s.boundary_field c c π hπ fun k b _ => hdue k b
  next g _ =>
    have hbefore : (State.crossTenants (if g.places.isEmpty then s else s.shuffle c g) c g g).firm = s.firm :=
      (State.crossTenants_firm ..).trans (ite_same State.firm rfl (s.shuffle_firm c g))
    dsimp only
    rw [State.boundary_field _ c c π hπ (fun k b _ => hdue k b), firm_field (State.onCell_firm _ c fun _ => by rfl) c π hπ,
      firm_field (State.bindPlane_firm _ c g) c π hπ, firm_field hbefore c π hπ]

end

end Sys2Proof.Machine

/-! ## FATAL records (R328, R329) -/

namespace Sys2Proof.Machine

/-- The FATAL flag of every ring. -/
def State.fatals (s : State) (c : Nat) : Bool := (s.cell c).err.fatal

section
variable (s : State)

theorem State.onCell_fatals (c : Nat) {f : Cell → Cell} (hf : ∀ k, (f k).err.fatal = k.err.fatal) : (s.onCell c f).fatals = s.fatals := by
  funext d
  rw [State.fatals, State.cell_onCell]
  split
  · subst_vars
    exact hf _
  · rfl

theorem State.emit_fatals (e : Emit) : (s.emit e).fatals = s.fatals := rfl

theorem State.sendOne_fatals (c p : Nat) (a : Nat × Frame) : (s.sendOne c p a).fatals = s.fatals :=
  (State.emit_fatals ..).trans (s.onCell_fatals c fun _ => by rfl)

theorem State.pump_fatals (c p : Nat) : (s.pump c p).fatals = s.fatals := by
  have pumped (n : Nat) (x : State) : (State.pumpN n x c p).fatals = x.fatals := by
    induction n generalizing x with
    | zero => rfl
    | succ n ih =>
      unfold State.pumpN
      split
      · rfl
      · exact (ih _).trans (x.sendOne_fatals ..)
  exact pumped ..

theorem State.enqueue_fatals (c p i : Nat) (x : Frame) : (s.enqueue c p i x).fatals = s.fatals :=
  ite_same State.fatals rfl (ite_same State.fatals (s.onCell_fatals c fun _ => by rfl)
    ((State.pump_fatals ..).trans (s.onCell_fatals c fun _ => by rfl)))

theorem State.send_fatals (c i : Nat) (o : Out) : (s.send c i o).1.fatals = s.fatals := by
  have made : (s.mkFrame c o).2.fatals = s.fatals := ite_same State.fatals (s.onCell_fatals c fun _ => by rfl) rfl
  unfold State.send
  split
  · rfl
  · split
    · rfl
    · exact (State.enqueue_fatals ..).trans made

theorem State.mail_fatals (c : Nat) (us : List (Nat × Nat)) : (s.mail c us).fatals = s.fatals := by
  have mailed (n : Nat) (x : State) (us : List (Nat × Nat)) : (State.mailUnits n x c us).fatals = x.fatals := by
    induction n generalizing x us with
    | zero => rfl
    | succ n ih =>
      unfold State.mailUnits
      split
      · rfl
      · exact (ih ..).trans (x.send_fatals ..)
  exact ite_same State.fatals (mailed ..) rfl

theorem State.errLocal_fatals (c : Nat) (e : Ev) :
    (s.errLocal c e).fatals = (s.onCell c (fun k => { k with err := k.err.push (s.mkErr c e) })).fatals := by
  have told (x : State) : (if e.sev ≥ 2 then x.msix 0 3 else x).fatals = x.fatals :=
    ite_same State.fatals (ite_same State.fatals rfl (ite_same State.fatals rfl rfl)) rfl
  have event (x : State) (l : List Nat) : (x.pldmEvent c l).fatals = x.fatals := ite_same State.fatals rfl (x.onCell_fatals c fun _ => rfl)
  exact ite_same State.fatals ((event ..).trans (told _)) (told _)

theorem State.err_fatals (c : Nat) (e : Ev) : (s.err c e).fatals = (s.errLocal c e).fatals :=
  ite_same State.fatals rfl (ite_same State.fatals (State.mail_fatals ..) (State.onCell_fatals _ c fun _ => rfl))

/-- A record of severity 3 leaves its ring FATAL (R328). -/
theorem State.err_fatal {c : Nat} {e : Ev} (h : e.sev = 3) : ((s.err c e).cell c).err.fatal = true := by
  have hc := congrFun ((s.err_fatals c e).trans (s.errLocal_fatals c e)) c
  refine hc.trans ?_
  rw [State.fatals, State.cell_onCell_same]
  exact Bool.or_eq_true_iff.mpr (.inr (decide_eq_true h))

end

end Sys2Proof.Machine

/-! ## Start-up (R364 to R367, R370 to R373, R403, R423) -/

namespace Sys2Proof.Machine

section
variable {s : State} {n : Nat}

/-- The module whose supervisor has begun with the image of flash slot `n` (R350, R364). -/
def State.supervised (s : State) (n : Nat) : State :=
  { s with
    boot := { s.boot with running := true }
    fw := { s.fw with running := n, current := s.flash.bundles.get none n }
    supply := { s.supply with limit := s.flash.firstLimit } }

/-- The supervised module, its cells without identity and its strap named by records (R383, R423). -/
def State.noted (s : State) (n : Nat) : State := (s.supervised n).nameKeyless.strapNotice

theorem State.noted_reports : Reports (s.supervised n) (s.noted n) := by
  have named : Reports (s.supervised n) (s.supervised n).nameKeyless :=
    foldl_reports _ _ (.refl _) fun _ _ hx => State.err_reports hx ..
  exact named.trans (ite_reports (State.err_reports (.refl _) ..) (.refl _))

/-- The supervisor runs the image of slot `n`, with `v` in the start-up registers. -/
structure Ran (u : State) (n : Nat) (v : Boot) (s' : State) : Prop where
  boot    : s'.boot = v
  fw      : s'.fw = { u.fw with running := n, current := u.flash.bundles.get none n }
  supply  : s'.supply = { u.supply with limit := u.flash.firstLimit }
  flash   : s'.flash = u.flash
  seating : s'.seating = u.seating

theorem Reports.ran {s' : State} (h : Reports (s.supervised n) s') : Ran s n { s.boot with running := true } s' :=
  ⟨h.boot, h.fw, h.supply, h.flash, h.seating⟩

theorem Ran.reports {s' x : State} {v : Boot} (h : Ran s n v x) (hr : Reports x s') : Ran s n v s' :=
  ⟨hr.boot.trans h.boot, hr.fw.trans h.fw, hr.supply.trans h.supply, hr.flash.trans h.flash, hr.seating.trans h.seating⟩

theorem State.superviseFrom_eq : s.superviseFrom n = if !s.supply.haltN || !s.supply.refclk then (s.noted n).enterSafe else s.noted n := by
  have hsupply : (s.noted n).supply = { s.supply with limit := s.flash.firstLimit } := State.noted_reports.supply
  have hhalt : (s.noted n).supply.haltN = s.supply.haltN := (congrArg Supply.haltN hsupply :)
  have href : (s.noted n).supply.refclk = s.supply.refclk := (congrArg Supply.refclk hsupply :)
  rw [← hhalt, ← href]
  rfl

theorem State.superviseFrom_ran (hhalt : s.supply.haltN = true) (href : s.supply.refclk = true) :
    Ran s n { s.boot with running := true } (s.superviseFrom n) := by
  rw [State.superviseFrom_eq, hhalt, href]
  exact State.noted_reports.ran

/-- With HALT_N low or no REFCLK the Safe state follows at once (R371, R420). -/
theorem State.superviseFrom_safe (hislands : s.boot.islands = true) (h : s.supply.haltN = false ∨ s.supply.refclk = false) :
    Ran s n { s.boot with running := true, safe := true } (s.superviseFrom n) := by
  obtain ⟨hboot, hfw, hsupply, hflash, hseating⟩ : Ran s n { s.boot with running := true } (s.noted n) := State.noted_reports.ran
  have hbad : (!s.supply.haltN || !s.supply.refclk) = true := by rcases h with h | h <;> simp [h]
  rw [State.superviseFrom_eq, if_pos hbad]
  by_cases hsafe : s.boot.safe = true
  · have hin : (s.noted n).boot.safe = true := by rw [hboot, hsafe]
    have hsame : (s.noted n).enterSafe = s.noted n := if_pos (by rw [hin, Bool.true_or])
    rw [hsame]
    exact ⟨hboot.trans (by rw [← hsafe]), hfw, hsupply, hflash, hseating⟩
  · have hout : (s.noted n).boot.safe = false := by rw [hboot]; exact Bool.eq_false_iff.mpr hsafe
    have hstopped := State.enterSafe_stopped (s.noted n) hout (by rw [hboot, hislands])
    exact ⟨hstopped.boot.trans (by rw [hboot]), hstopped.fw.trans hfw, hstopped.supply.trans hsupply, hstopped.flash.trans hflash,
      hstopped.seating.trans hseating⟩

end

section
variable {s : State} {c : Nat}

/-- The cell is initialised (R366, R373). -/
def State.initialised (s : State) (c : Nat) : State := s.onCell c (fun k => { k with init := true, restart := none })

theorem State.startFigure_of_none (h : s.flash.starts.get none c = none) : s.startFigure c = s.boundary c := by
  unfold State.startFigure
  rw [h]

theorem State.startFigure_of_failed {n : Nat} {blocks : SMap Payload} (h : s.flash.starts.get none c = some (n, blocks))
    (hfail : s.noFlip = true ∨ (s.verifyBlocks c n blocks).2 = none) : ∃ e, s.startFigure c = (s.err c e).boundary c := by
  have hnone : (if s.noFlip then none else (s.verifyBlocks c n blocks).2) = none := by
    rcases hfail with h | h <;> simp [h]
  unfold State.startFigure
  rw [h]
  dsimp only
  rw [hnone]
  exact ⟨_, rfl⟩

/-- A start figure goes into slot 0 and the idle plane, and is swapped in (R367). -/
theorem State.startFigure_of_verified {n : Nat} {blocks : SMap Payload} {g : Figure} (h : s.flash.starts.get none c = some (n, blocks))
    (hflip : s.noFlip = false) (hg : (s.verifyBlocks c n blocks).2 = some g) : s.startFigure c =
      (s.onCell c (fun k => { k with fig := { k.fig with
        slots := k.fig.slots.set .empty 0 (.resident g blocks), idle := some g, idleSlot := some 0 } })).swapTo c g := by
  have hsome : (if s.noFlip then none else (s.verifyBlocks c n blocks).2) = some g := by rw [hflip, hg]; rfl
  unfold State.startFigure
  rw [h]
  dsimp only
  rw [hsome]

/-- A boundary of a cell keeps its service and its plane. -/
theorem State.boundary_serves (s : State) (c : Nat) : ((s.boundary c).cell c).init = (s.cell c).init ∧
    ((s.boundary c).cell c).fig.plane = (s.cell c).fig.plane :=
  ⟨s.boundary_field c c Cell.init (fun _ => rfl) fun _ _ _ => rfl, (State.boundary_planes (.refl s) c).plane c⟩

theorem Reports.serves {s' : State} (h : Reports s s') (c : Nat) : (s'.cell c).init = (s.cell c).init ∧
    (s'.cell c).fig.plane = (s.cell c).fig.plane := by
  obtain ⟨e, p, q, hc⟩ := h.cell c
  rw [hc]
  exact ⟨rfl, rfl⟩

/-- A cell that starts without a figure, or whose start figure fails, only is initialised (R367). -/
theorem initialised_boundary {u x s' : State} (hx : Reports (u.initialised c) x) (h : EndsAs (x.boundary c) s') :
    (s'.cell c).init = true ∧ (s'.cell c).fig.plane = (u.cell c).fig.plane := by
  obtain ⟨hinit, hplane⟩ := hx.serves c
  obtain ⟨hinit', hplane'⟩ := x.boundary_serves c
  have hk : (u.initialised c).cell c = { u.cell c with init := true, restart := none } := State.cell_onCell_same ..
  rw [firm_field h.firm c Cell.init fun _ => rfl, hinit', hinit, h.plane, hplane', hplane, hk]
  exact ⟨rfl, rfl⟩

end

/-- A cell that starts under the figure of its start store (R367). -/
def Cell.started (k : Cell) (g : Figure) (blocks : SMap Payload) : Cell :=
  { k with
    init := true, restart := none
    fig := { k.fig with
      slots := k.fig.slots.set .empty 0 (.resident g blocks), idle := some g, idleSlot := some 0 } }.flip g

section
variable {t : Nat} {cell : Fin 8} {s x : State} {P : State → Prop}

theorem hostLinkTrained_answers {live : Bool} (hislands : (s.at t).boot.islands = true) (hperst : (s.at t).supply.perstN = true)
    (hlost : (s.at t).boot.anchorLost = false)
    (hP : ∀ s', EndsAs { s.at t with host := { (s.at t).host with linkUp := true, cfgLive := live && (s.at t).boot.running } } s' → P s') :
    Answers (.hostLinkTrained t live) s P := .of_run rfl (if_neg (by rw [State.inReset, hislands, hperst, hlost]; decide)) hP

theorem supervisorImageVerify_answers {a b : Bool} (hislands : (s.at t).boot.islands = true) (hrun : (s.at t).boot.running = false)
    (hrec : (s.at t).boot.recovery = false)
    (hx : (if !(s.at t).flashUsable then { s.at t with boot := { (s.at t).boot with recovery := true } }
      else if a then (s.at t).superviseFrom (s.at t).flash.active
      else if b then (s.at t).superviseFrom (1 - (s.at t).flash.active)
      else { s.at t with boot := { (s.at t).boot with recovery := true } }) = x)
    (hP : ∀ s', EndsAs x s' → P s') : Answers (.supervisorImageVerify t a b) s P :=
  .of_run rfl ((if_neg (by rw [State.inReset, hislands, hrun, hrec]; decide)).trans hx) hP

theorem cellInitComplete_answers (hrun : (s.at t).boot.running = true) (hsafe : (s.at t).boot.safe = false)
    (hinit : ((s.at t).cell cell).init = false) (habsent : ((s.at t).cell cell).absent = false)
    (hx : (if ((s.at t).cell cell).restart.isSome then ((s.at t).initialised cell).returnCell cell
      else ((s.at t).initialised cell).startFigure cell) = x)
    (hP : ∀ s', EndsAs x s' → P s') : Answers (.cellInitComplete t cell) s P :=
  .of_run rfl ((if_neg (by simp [-State.at_boot, hrun, hsafe, hinit, habsent])).trans hx) hP

theorem cellInitTimeout_answers (hrun : (s.at t).boot.running = true) (hinit : ((s.at t).cell cell).init = false)
    (habsent : ((s.at t).cell cell).absent = false) (hres : ((s.at t).cell cell).restart = none)
    (hlate : (s.at t).boot.base + 2000000000 ≤ (s.at t).now)
    (hP : ∀ s', EndsAs (((s.at t).onCell cell (fun k => { k with absent := true, power := { k.power with state := .c4 } })).err 0
      { cls := clsINFO, sev := 3, unit := 8, obj := cell }) s' → P s') : Answers (.cellInitTimeout t cell) s P := by
  have hnow : ¬(s.at t).now < (s.at t).boot.base + 2000000000 := Nat.not_lt.mpr hlate
  refine .of_run rfl (if_neg ?_) hP
  rw [hrun, hinit, habsent, hres, decide_eq_false hnow]
  decide

end

/-- Settles O51: each event of start-up is the branch of its operation that its conditions choose; records, the Safe state, swaps and
boundaries leave the registers that the statement names. -/
theorem theModuleStartsUp : Obligations.TheModuleStartsUp := by
  intro t s u
  refine ⟨fun a l b hgood huvlo => ?rise, fun aok bok n hislands hrun hrec => ?verify, fun live hislands hperst hlost =>
    hostLinkTrained_answers hislands hperst hlost fun s' hs' => hs'.silent, fun cell => ?_⟩
  case rise =>
    intro good straps
    have he : (if u.supply.pwrGood || u.supply.uvlo then u else if u.boot.islands then { u with supply := good }
        else ({ u with supply := good, boot := straps } : State).startIslands) = _ := if_neg (by rw [hgood, huvlo]; decide)
    refine .of_run rfl he fun s' hs' => hs'.silent.trans ?_
    by_cases hislands : u.boot.islands = true
    · rw [if_pos hislands, if_pos hislands]
    rw [if_neg hislands, if_neg hislands]
    have hheld : u.boot.islands = false := Bool.eq_false_iff.mpr hislands
    cases hao : u.supply.aoclk with
    | true => rw [State.startIslands_of_held (s := { u with supply := good, boot := straps }) rfl hao huvlo hheld]; rfl
    | false =>
      have hstill : ({ u with supply := good, boot := straps } : State).startIslands = { u with supply := good, boot := straps } :=
        if_neg (by simp [good, hao])
      rw [hstill]
      rfl
  case verify =>
    intro up ran
    have ended {v : Boot} {x s' : State} (h : Ran u n v x) (hs' : EndsAs x s') : ran v s' := by
      obtain ⟨hboot, hfw, hsupply, hflash, hseating⟩ := h.reports hs'.reports
      exact ⟨hboot, hfw, hsupply, hflash, hseating⟩
    refine ⟨fun husable hwhich => ?_, fun hnone => ?_⟩
    · have hx : (if !u.flashUsable then { u with boot := { u.boot with recovery := true } }
          else if aok then u.superviseFrom u.flash.active else if bok then u.superviseFrom (1 - u.flash.active)
          else { u with boot := { u.boot with recovery := true } }) = u.superviseFrom n := by
        rw [husable]
        rcases hwhich with ⟨rfl, rfl⟩ | ⟨rfl, rfl, rfl⟩ <;> rfl
      refine ⟨fun hhalt href => ?_, fun hbad => ?_⟩
      · exact supervisorImageVerify_answers hislands hrun hrec hx fun s' hs' => ended (State.superviseFrom_ran hhalt href) hs'
      · exact supervisorImageVerify_answers hislands hrun hrec hx fun s' hs' => ended (State.superviseFrom_safe hislands hbad) hs'
    · refine supervisorImageVerify_answers (x := { u with boot := { u.boot with recovery := true } }) hislands hrun hrec ?_
        fun s' hs' => hs'.silent
      rcases hnone with ⟨rfl, rfl⟩ | hno
      · exact ite_self _
      · exact if_pos (by rw [hno]; rfl)
  intro k
  have hk : (u.initialised cell).cell cell = { k with init := true, restart := none } := State.cell_onCell_same ..
  refine ⟨fun hrun hsafe hinit habsent => ⟨fun hres => ?returns, fun hres hnone => ?bare, fun n blocks hres hstart => ?_⟩,
    fun hrun hinit habsent hres hlate => ?late⟩
  case returns =>
    refine cellInitComplete_answers hrun hsafe hinit habsent (if_pos hres) fun s' hs' => ?_
    have field {γ : Type} (π : Cell → γ) (hπ : ∀ k : Cell, π k.firm = π k)
        (hdue : ∀ (k : Cell) (b : Bool), π { k with fwDue := b } = π k) : π (s'.cell cell) = π { k with init := true, restart := none } := by
      rw [firm_field hs'.firm cell π hπ, State.returnCell_field _ _ π hπ hdue, hk]
    refine ⟨field Cell.init (fun _ => rfl) fun _ _ => rfl, field Cell.restart (fun _ => rfl) fun _ _ => rfl, ?_⟩
    rw [hs'.plane, (State.returnCell_planes (.refl _) cell).plane, hk]
  case bare =>
    refine cellInitComplete_answers hrun hsafe hinit habsent ((if_neg ?_).trans (State.startFigure_of_none hnone)) fun s' hs' =>
      initialised_boundary (.refl _) hs'
    rw [show (u.cell cell).restart = none from hres]
    exact Bool.false_ne_true
  case late =>
    refine cellInitTimeout_answers hrun hinit habsent hres hlate fun s' hs' => ⟨?_, (State.err_reports (.refl _) ..).trans hs'.reports⟩
    obtain ⟨lost, hc⟩ := hs'.cell 0
    rw [hc]
    exact State.err_fatal _ rfl
  intro r
  have starts {x : State} {P : State → Prop} (hx : (u.initialised cell).startFigure cell = x) (hP : ∀ s', EndsAs x s' → P s') :
      Answers (.cellInitComplete t cell) s P := by
    refine cellInitComplete_answers hrun hsafe hinit habsent ((if_neg ?_).trans hx) hP
    rw [show (u.cell cell).restart = none from hres]
    exact Bool.false_ne_true
  refine ⟨fun hfail => ?_, fun g hflip hg => ?_⟩
  · obtain ⟨e, he⟩ := State.startFigure_of_failed (s := u.initialised cell) hstart hfail
    exact starts he fun s' hs' => initialised_boundary (State.err_reports (.refl _) ..) hs'
  · refine starts (State.startFigure_of_verified (s := u.initialised cell) hstart hflip hg) fun s' hs' => ?_
    have field {γ : Type} (π : Cell → γ) (hπ : ∀ k : Cell, π k.firm = π k)
        (hdue : ∀ (k : Cell) (b : Bool), π { k with fwDue := b } = π k)
        (harm : ∀ k : Cell, π { k.clearArm with gen := { k.gen with heldQ := [] } } = π k) : π (s'.cell cell) = π (k.started g blocks) := by
      rw [firm_field hs'.firm cell π hπ, State.swapTo_field _ _ g π hπ hdue harm, State.cell_onCell_same, hk]
      rfl
    refine ⟨field Cell.init (fun _ => rfl) (fun _ _ => rfl) fun _ => rfl,
      field (fun k => k.fig.active) (fun _ => rfl) (fun _ _ => rfl) fun _ => rfl,
      field (fun k => k.fig.activeSlot) (fun _ => rfl) (fun _ _ => rfl) fun _ => rfl, ?_⟩
    rw [field (fun k => k.fig.slots) (fun _ => rfl) (fun _ _ => rfl) fun _ => rfl]
    exact SMap.get_set_same k.fig.slots Slot4.empty (.resident g blocks) 0

end Sys2Proof.Machine
